-- ==== Sys2Proof/Word.lean ====
section
/-! DEFINITION. The word types of the block: 64-bit registers (R9), bytes, and the 32-bit words of the
arithmetic formats. Addresses (DA) and times are natural numbers. -/

namespace Sys2Proof

/-- A byte of memory, of a packet or of a record. -/
abbrev Byte := BitVec 8

/-- A register, or a 64-bit word of a descriptor (R9, R153). -/
abbrev Word := BitVec 64

/-- An FP32 or INT32 bit pattern (R114). -/
abbrev W32 := BitVec 32

end Sys2Proof
end

