-- ==== Sys2Proof/Syntax.lean ====
section
/-! DEFINITION. The commands of the block: one constructor per row of the command table. The first operand `t` of every
command is the ACLK cycle, counted from the internal reset release, in which the command takes effect. -/

namespace Sys2Proof.Machine

/-- Who makes an access or sends a write. -/
inductive Agent
  | steward | bootRom | companion | sideband
  deriving DecidableEq, Repr

/-- Who issued a memory request, an atomic or a reduction: a queue of an engine, or another block (R70, R367). -/
inductive Requester
  | engine (e : Fin 96) (q : Fin 4)
  | steward
  | companion
  | ingest
  | decoder
  | scheduler
  | fabric
  deriving DecidableEq, Repr

/-- The two DRAM tiers. -/
inductive Tier
  | pantry | cellar
  deriving DecidableEq, Repr

/-- One symbol in error: in codeword `word` of the access, at position `pos` of the codeword (data symbols first, check
symbols after them), the stored symbol differs from the written one by `val` (R71 to R74). -/
structure SymErr where
  word : Nat
  pos : Nat
  val : Byte
  deriving DecidableEq, Repr

/-- A request at a memory tier, with the number its answer carries. -/
structure MemReq where
  id : Nat
  who : Requester
  part : Fin 8
  da : Nat
  len : Nat
  deriving DecidableEq, Repr

/-- The widths and types of R66. -/
inductive AtomType
  | int32 | uint32 | int64 | uint64 | fp32 | b32 | b64 | b128
  deriving DecidableEq, Repr

/-- How a read of a queue structure ends in DRAM (R519). -/
inductive FetchEnd
  | ok | uncorrectable | timeout
  deriving DecidableEq, Repr

/-- A notice to a queue engine: the DA written to, and how the read of the tail line that it may lead to ends (R145, R519). -/
structure Notice where
  da : Nat
  tail : FetchEnd
  deriving DecidableEq, Repr

/-- Where a check failed (R129, R130): an array and unit, or the row unit and output converter. -/
inductive CheckSite
  | unit (array : Fin 4) (unit : Fin 128)
  | rowUnit
  deriving DecidableEq, Repr

/-- A packet of a Felras link, its link fields among them (R405). On Dulis the routing fields are 0 (R420). -/
structure Packet where
  type : Nat := 0
  vc : Nat := 0
  pool : Bool := false
  detour : Bool := false
  expressed : Bool := false
  dst : Nat := 0
  src : Nat := 0
  hops : Nat := 0
  op : Nat := 0
  addr : Nat := 0
  tag : Nat := 0
  credCount : Nat := 0
  len : Nat := 0
  status : Nat := 0
  seq : Nat := 0
  ack : Nat := 0
  credVc : Nat := 0
  credPool : Bool := false
  nak : Bool := false
  payload : List Byte := []
  deriving DecidableEq, Repr

/-- What the sequence header of a coded picture says (R344): whether profile, depth, chroma and structure are in the table,
16-bit samples, luma width and height, level code, reference pictures, and the value and limit where the declared level's own
limits are broken. -/
structure SeqHeader where
  supported : Bool
  wide : Bool
  width : Nat
  height : Nat
  level : Nat
  refs : Nat
  broken : Option (Nat × Nat)
  deriving DecidableEq, Repr

/-- A unit whose checks R436 counts. The last four have no spare. -/
inductive CheckedUnit
  | engine (e : Fin 96)
  | decoder (i : Fin 24)
  | controller (tier : Tier) (ch : Fin 256)
  | port (n : Fin 8)
  | tickBlock
  | schedulerBlock
  | aligner
  | securityBlock
  deriving DecidableEq, Repr

end Sys2Proof.Machine

namespace Sys2Proof

open Sys2Proof.Machine

/-- The commands. Each row's rule is cited; operands that are physical facts (an error met, a reading, a received
packet) come with the command. -/
inductive Instr
  /-- TICK_BOUNDARY: the tick boundary falls, when it is due (R45). -/
  | tickBoundary (t : Nat)
  /-- TCK_ENABLE: a write of TCK_CTRL that changes only ENABLE, to `en` (R41). -/
  | tckEnable (t : Nat) (en : Bool) (ag : Agent)
  /-- TCK_SRC_CHANGE: a write of TCK_CTRL that changes only SRC (R29). -/
  | tckSrcChange (t : Nat) (src : BitVec 2) (ag : Agent)
  /-- REALIGN: a write of TCK_CTRL with REALIGN set, its other fields as they are (R29). -/
  | realign (t : Nat) (ag : Agent)
  /-- PLAN_SWAP: a write of TCK_CTRL with PLAN_SWAP set, its other fields as they are (R40). -/
  | planSwap (t : Nat) (ag : Agent)
  /-- PLAN_ACTIVATE: a checked plan becomes active, when that is due (R40). -/
  | planActivate (t : Nat)
  /-- TCK_PHASE_SKIP: a write of TCK_PHASE_SKIP (R38). -/
  | tckPhaseSkip (t : Nat) (v : BitVec 64) (ag : Agent)
  /-- PHASE_START: phase `p` starts, when that is due (R34). -/
  | phaseStart (t : Nat) (p : Fin 16)
  /-- BUDGET_END: the budget end of phase `p`, when it is due (R37). -/
  | budgetEnd (t : Nat) (p : Fin 16)
  /-- DEADLINE: the deadline of phase `p`, when it is due (R46). -/
  | deadline (t : Nat) (p : Fin 16)
  /-- SOURCE_LOST: the selected source counts as lost, when that is due (R27). -/
  | sourceLost (t : Nat)
  /-- HOLDOVER_LIMIT_EXPIRY: the holdover limit passes, when it is due (R27). -/
  | holdoverLimitExpiry (t : Nat)
  /-- SOURCE_RETURN: the lost source is back; `offset` is the timeline's offset from it in ns (R28). -/
  | sourceReturn (t : Nat) (offset : Int)
  /-- BACKGROUND_ADMIT: a background item of `d` µs that takes the named engines asks for the slack window (R52). -/
  | backgroundAdmit (t d : Nat) (engines : List (Fin 96))
  /-- TICK_OUT_END: the TICK_OUT pulse ends, when that is due (R507). -/
  | tickOutEnd (t : Nat)
  /-- MEM_READ: a read request arrives at its tier, or the answer of an outstanding one does; `errs` are the symbols in error, `late` says that no answer comes yet (R85). -/
  | memRead (t : Nat) (r : MemReq) (errs : List SymErr) (late : Bool)
  /-- MEM_WRITE: a write request of `data` arrives at its tier (R79). -/
  | memWrite (t : Nat) (r : MemReq) (data : List Byte) (errs : List SymErr) (late : Bool)
  /-- LARDER_FILL: a Larder fill of the 256-byte line at `da` returns from DRAM (R86). -/
  | larderFill (t : Nat) (die : Fin 2) (da : Nat) (errs : List SymErr)
  /-- ATOMIC_FADD: FADD at the home slice (R66). -/
  | atomicFadd (t : Nat) (who : Requester) (ty : AtomType) (da opnd : Nat)
  /-- ATOMIC_MIN: MIN at the home slice (R66). -/
  | atomicMin (t : Nat) (who : Requester) (ty : AtomType) (da opnd : Nat)
  /-- ATOMIC_MAX: MAX at the home slice (R66). -/
  | atomicMax (t : Nat) (who : Requester) (ty : AtomType) (da opnd : Nat)
  /-- ATOMIC_AND: AND at the home slice (R66). -/
  | atomicAnd (t : Nat) (who : Requester) (ty : AtomType) (da opnd : Nat)
  /-- ATOMIC_OR: OR at the home slice (R66). -/
  | atomicOr (t : Nat) (who : Requester) (ty : AtomType) (da opnd : Nat)
  /-- ATOMIC_XOR: XOR at the home slice (R66). -/
  | atomicXor (t : Nat) (who : Requester) (ty : AtomType) (da opnd : Nat)
  /-- ATOMIC_SWAP: SWAP at the home slice (R66). -/
  | atomicSwap (t : Nat) (who : Requester) (ty : AtomType) (da opnd : Nat)
  /-- ATOMIC_CAS: CAS at the home slice (R66). -/
  | atomicCas (t : Nat) (who : Requester) (ty : AtomType) (da cmp opnd : Nat)
  /-- ATOMIC_CNT2: CNT2 at the home slice (R66, R67). -/
  | atomicCnt2 (t : Nat) (who : Requester) (da : Nat) (dPin dRef : Int)
  /-- RED_ADD_FP32: FP32 reduction into a sector or line (R68). -/
  | redAddFp32 (t : Nat) (who : Requester) (da mask : Nat) (data : List Byte)
  /-- RED_ADD_BF16: BF16 reduction into a sector or line (R68). -/
  | redAddBf16 (t : Nat) (who : Requester) (da mask : Nat) (data : List Byte)
  /-- RED_ADD_INT32: INT32 reduction into a sector or line (R68). -/
  | redAddInt32 (t : Nat) (who : Requester) (da mask : Nat) (data : List Byte)
  /-- RED_MAX_FP32: FP32 maximum into a sector or line (R68). -/
  | redMaxFp32 (t : Nat) (who : Requester) (da mask : Nat) (data : List Byte)
  /-- RED_MIN_FP32: FP32 minimum into a sector or line (R68). -/
  | redMinFp32 (t : Nat) (who : Requester) (da mask : Nat) (data : List Byte)
  /-- REGULATOR_REFILL: the 1 µs refill of a regulator's bucket (R80). -/
  | regulatorRefill (t : Nat) (tier : Tier) (p : Fin 8)
  /-- MEM_TIMEOUT: the timeout of the outstanding request `id` passes (R84). -/
  | memTimeout (t : Nat) (id : Nat)
  /-- CHANNEL_FAIL: a channel reaches the failure threshold, or fails training (R88, R96). -/
  | channelFail (t : Nat) (tier : Tier) (ch : Fin 256) (training : Bool)
  /-- SCRUB_GRANULE: the scrubber visits the granule of `da`; `overtaken`: a foreground write came between its read and its write-back (R90 to R92). -/
  | scrubGranule (t : Nat) (tier : Tier) (da : Nat) (errs : List SymErr) (overtaken : Bool)
  /-- SCRUB_FLOOR_END: a floor interval ends (R92). -/
  | scrubFloorEnd (t : Nat) (tier : Tier)
  /-- SHELF_LARDER_SCRUB: the 8-byte Shelf or Larder word at `da` is read on die `die`, with `nbits` bits in error (R61, R62). -/
  | shelfLarderScrub (t : Nat) (da : Nat) (die : Fin 2) (nbits : Fin 3)
  /-- FORCED_CALIBRATION: a forced calibration pauses a channel (R93). -/
  | forcedCalibration (t : Nat) (tier : Tier) (ch : Fin 256)
  /-- CALIBRATION_END: the pause ends (R93). -/
  | calibrationEnd (t : Nat) (tier : Tier) (ch : Fin 256)
  /-- MAP_COMMIT: a write of MAP_COMMIT with COMMIT set (R94). -/
  | mapCommit (t : Nat) (tier : Tier) (ag : Agent)
  /-- MAP_DONE: the map-out work ends (R94). -/
  | mapDone (t : Nat) (tier : Tier)
  /-- MAPOUT_WRITE: a write of PNT_MAPOUT_i or CEL_MAPOUT_i (R101). -/
  | mapoutWrite (t : Nat) (tier : Tier) (ix : Fin 4) (v : BitVec 64) (ag : Agent)
  /-- TILE_WRITEBACK: the finished bank of open macro-op `k` of the queue is converted and written (R112, R121). -/
  | tileWriteback (t : Nat) (e : Fin 96) (q : Fin 4) (k : Fin 2)
  /-- RESIDUE_CHECK_FAIL: a check fails on the engine, in the macro-op of queue `q` or during holding (R130, R133). -/
  | residueCheckFail (t : Nat) (e : Fin 96) (q : Option (Fin 4)) (site : CheckSite) (parity : Bool)
  /-- INJ_RESIDUE: a write of ENG_DP_CTRL with INJ_RESIDUE set (R134). -/
  | injResidue (t : Nat) (e : Fin 96) (array : Fin 4) (ag : Agent)
  /-- INJ_PARITY: a write of ENG_DP_CTRL with INJ_PARITY set (R134). -/
  | injParity (t : Nat) (e : Fin 96) (array : Fin 4) (ag : Agent)
  /-- HOLD_EXPIRY: the hold threshold passes with no real issue (R135). -/
  | holdExpiry (t : Nat) (e : Fin 96)
  /-- RAMP_STEP: a ramp step of 64 ACLK ends (R136). -/
  | rampStep (t : Nat) (e : Fin 96)
  /-- DUTY_STEP: 64 ACLK pass and the duty cap moves one eighth (R139). -/
  | dutyStep (t : Nat) (e : Fin 96)
  /-- SR_SEED_WRITE: a write of ENG_SR_SEED (R124). -/
  | srSeedWrite (t : Nat) (e : Fin 96) (v : BitVec 64) (ag : Agent)
  /-- PWL_USER_WRITE: a write of ENG_PWL_USER_i, or of ENG_PWL_USER_CFG (R128). -/
  | pwlUserWrite (t : Nat) (e : Fin 96) (ix : Option (Fin 32)) (v : BitVec 64) (ag : Agent)
  /-- HOLD_CTRL_WRITE: a write of ENG_HOLD_CTRL (R138). -/
  | holdCtrlWrite (t : Nat) (e : Fin 96) (v : BitVec 64) (ag : Agent)
  /-- WATCH_NOTIFY: a write to the watched sector that holds the notice's DA notifies the queue engine (R145). -/
  | watchNotify (t : Nat) (e : Fin 96) (q : Fin 4) (note : Notice)
  /-- DESCRIPTOR_FETCH: the queue engine reads the tail line and fetches the next entry; the operands say how the two reads end (R147, R519). -/
  | descriptorFetch (t : Nat) (e : Fin 96) (q : Fin 4) (tail entry : FetchEnd)
  /-- MMA: the next entry is an MMA and reaches issue (R157). -/
  | mma (t : Nat) (e : Fin 96) (q : Fin 4)
  /-- MMA_BWD_X: the next entry is an MMA.BWD_X and reaches issue (R218). -/
  | mmaBwdX (t : Nat) (e : Fin 96) (q : Fin 4)
  /-- MMA_BWD_W: the next entry is an MMA.BWD_W and reaches issue (R218). -/
  | mmaBwdW (t : Nat) (e : Fin 96) (q : Fin 4)
  /-- CONV: the next entry is a CONV and reaches issue (R302). -/
  | conv (t : Nat) (e : Fin 96) (q : Fin 4)
  /-- MAXPOOL: the next entry is a CONV with MAXPOOL and reaches issue (R306). -/
  | maxpool (t : Nat) (e : Fin 96) (q : Fin 4)
  /-- CONV_FUSED: the next entry is a CONV.FUSED and reaches issue (R309). -/
  | convFused (t : Nat) (e : Fin 96) (q : Fin 4)
  /-- ATTN: the next entry is an ATTN and reaches issue (R281). -/
  | attn (t : Nat) (e : Fin 96) (q : Fin 4)
  /-- ATTN_BWD: the next entry is an ATTN.BWD and reaches issue (R285). -/
  | attnBwd (t : Nat) (e : Fin 96) (q : Fin 4)
  /-- SCAN_FULL: the next entry is a SCAN in FULL mode and reaches issue (R250). -/
  | scanFull (t : Nat) (e : Fin 96) (q : Fin 4)
  /-- SCAN_LOCAL: the next entry is a SCAN in LOCAL mode and reaches issue (R252). -/
  | scanLocal (t : Nat) (e : Fin 96) (q : Fin 4)
  /-- SCAN_REVERSE: the next entry is a SCAN in REVERSE mode and reaches issue (R254). -/
  | scanReverse (t : Nat) (e : Fin 96) (q : Fin 4)
  /-- PULSE: the next entry is a PULSE and reaches issue (R243). -/
  | pulse (t : Nat) (e : Fin 96) (q : Fin 4)
  /-- NORM: the next entry is a NORM and reaches issue (R226). -/
  | norm (t : Nat) (e : Fin 96) (q : Fin 4)
  /-- NORM_BWD: the next entry is a NORM.BWD and reaches issue (R229). -/
  | normBwd (t : Nat) (e : Fin 96) (q : Fin 4)
  /-- SMAX: the next entry is an SMAX and reaches issue (R226). -/
  | smax (t : Nat) (e : Fin 96) (q : Fin 4)
  /-- SMAX_BWD: the next entry is an SMAX.BWD and reaches issue (R226). -/
  | smaxBwd (t : Nat) (e : Fin 96) (q : Fin 4)
  /-- GATE: the next entry is a GATE and reaches issue (R248). -/
  | gate (t : Nat) (e : Fin 96) (q : Fin 4)
  /-- REDUCE: the next entry is a REDUCE and reaches issue (R172). -/
  | reduce (t : Nat) (e : Fin 96) (q : Fin 4)
  /-- SORT: the next entry is a SORT and reaches issue (R313). -/
  | sort (t : Nat) (e : Fin 96) (q : Fin 4)
  /-- BOXDEC: the next entry is a BOXDEC and reaches issue (R314). -/
  | boxdec (t : Nat) (e : Fin 96) (q : Fin 4)
  /-- NMS: the next entry is an NMS and reaches issue (R315). -/
  | nms (t : Nat) (e : Fin 96) (q : Fin 4)
  /-- GATHER_ROWS: the next entry is a GATHER of MODE ROWS and reaches issue (R296). -/
  | gatherRows (t : Nat) (e : Fin 96) (q : Fin 4)
  /-- GATHER_LOOKUP: the next entry is a GATHER of MODE LOOKUP and reaches issue (R293). -/
  | gatherLookup (t : Nat) (e : Fin 96) (q : Fin 4)
  /-- SCATTER_APPEND: the next entry is a SCATTER APPEND and reaches issue (R287). -/
  | scatterAppend (t : Nat) (e : Fin 96) (q : Fin 4)
  /-- SCATTER_RELEASE: the next entry is a SCATTER RELEASE and reaches issue (R289). -/
  | scatterRelease (t : Nat) (e : Fin 96) (q : Fin 4)
  /-- SCATTER_RETAIN: the next entry is a SCATTER RETAIN and reaches issue (R289). -/
  | scatterRetain (t : Nat) (e : Fin 96) (q : Fin 4)
  /-- SCATTER_INSERT: the next entry is a SCATTER INSERT and reaches issue (R294). -/
  | scatterInsert (t : Nat) (e : Fin 96) (q : Fin 4)
  /-- SCATTER_EVICT: the next entry is a SCATTER EVICT and reaches issue (R295). -/
  | scatterEvict (t : Nat) (e : Fin 96) (q : Fin 4)
  /-- COPY: the next entry is a COPY and reaches issue (R173). -/
  | copy (t : Nat) (e : Fin 96) (q : Fin 4)
  /-- PREFETCH: the next entry is a PREFETCH and reaches issue (R173). -/
  | prefetch (t : Nat) (e : Fin 96) (q : Fin 4)
  /-- WAIT: the next entry is a WAIT and reaches issue (R167). -/
  | wait (t : Nat) (e : Fin 96) (q : Fin 4)
  /-- WAIT_TIMEOUT: the timeout of the open WAIT expires (R167). -/
  | waitTimeout (t : Nat) (e : Fin 96) (q : Fin 4)
  /-- SIGNAL_ADD: the next entry is a SIGNAL of kind ADD and reaches issue (R168). -/
  | signalAdd (t : Nat) (e : Fin 96) (q : Fin 4)
  /-- SIGNAL_SET: the next entry is a SIGNAL of kind SET and reaches issue (R168). -/
  | signalSet (t : Nat) (e : Fin 96) (q : Fin 4)
  /-- SIGNAL_TRIGGER: the next entry is a SIGNAL of kind TRIGGER and reaches issue (R168). -/
  | signalTrigger (t : Nat) (e : Fin 96) (q : Fin 4)
  /-- FENCE: the next entry is a FENCE and reaches issue (R169). -/
  | fence (t : Nat) (e : Fin 96) (q : Fin 4)
  /-- CALL_LIST: the next entry is a CALL of kind LIST and reaches issue (R170). -/
  | callList (t : Nat) (e : Fin 96) (q : Fin 4)
  /-- CALL_KEEPER: the next entry is a CALL of kind KEEPER and reaches issue (R176). -/
  | callKeeper (t : Nat) (e : Fin 96) (q : Fin 4)
  /-- KEMIT: the running routine executes at most `n` more instructions up to its next event, a write of `addr` to kemit (R175, R177). -/
  | kemit (t : Nat) (e : Fin 96) (n : Nat) (addr : BitVec 64)
  /-- KEEPER_RETURN: the running routine executes at most `n` more instructions up to its next event, ECALL with `a0` (R176). -/
  | keeperReturn (t : Nat) (e : Fin 96) (n : Nat) (a0 : BitVec 64)
  /-- KEEPER_TRAP: the running routine executes at most `n` more instructions up to its next event, an exception with `mcause` and `mepc`
  (R176). -/
  | keeperTrap (t : Nat) (e : Fin 96) (n mcause mepc : Nat)
  /-- KEEPER_TIMEOUT: the routine still runs after MAX_CYCLES, `n` instructions on (R176). -/
  | keeperTimeout (t : Nat) (e : Fin 96) (n : Nat)
  /-- BRANCH_CALL: the next entry is a BRANCH-ON-SCALAR with ACTION CALL and reaches issue (R171). -/
  | branchCall (t : Nat) (e : Fin 96) (q : Fin 4)
  /-- BRANCH_JUMP: the next entry is a BRANCH-ON-SCALAR with ACTION JUMP and reaches issue (R171). -/
  | branchJump (t : Nat) (e : Fin 96) (q : Fin 4)
  /-- BRANCH_EXIT: the next entry is a BRANCH-ON-SCALAR with ACTION EXIT and reaches issue (R171). -/
  | branchExit (t : Nat) (e : Fin 96) (q : Fin 4)
  /-- STEP_BOUNDARY: open macro-op `k` of the queue reaches a step boundary (R182). -/
  | stepBoundary (t : Nat) (e : Fin 96) (q : Fin 4) (k : Fin 2)
  /-- MACRO_OP_COMMIT: the last write of open macro-op `k` is acknowledged (R160, R181). -/
  | macroOpCommit (t : Nat) (e : Fin 96) (q : Fin 4) (k : Fin 2)
  /-- TRIGGER_ACCEPT: a trigger reaches the queue (R151, R152). -/
  | triggerAccept (t : Nat) (e : Fin 96) (q : Fin 4) (arg : BitVec 32)
  /-- QUEUE_ENABLE: a write of ENG_Q_CFG with ENABLE set (R185, R186). -/
  | queueEnable (t : Nat) (e : Fin 96) (q : Fin 4) (v : BitVec 64) (ag : Agent)
  /-- QUEUE_DISABLE: a write of ENG_Q_CFG with ENABLE clear (R186). -/
  | queueDisable (t : Nat) (e : Fin 96) (q : Fin 4) (v : BitVec 64) (ag : Agent)
  /-- RESUME: a write of ENG_Q_CTRL with RESUME set (R183). -/
  | resume (t : Nat) (e : Fin 96) (q : Fin 4) (ag : Agent)
  /-- ABORT: a write of ENG_Q_CTRL with ABORT set (R182). -/
  | abort (t : Nat) (e : Fin 96) (q : Fin 4) (ag : Agent)
  /-- RESET: a write of ENG_Q_CTRL with RESET set (R185). -/
  | reset (t : Nat) (e : Fin 96) (q : Fin 4) (ag : Agent)
  /-- IMEM_SWAP: a write of ENG_IMEM_SWAP with SWAP set (R179). -/
  | imemSwap (t : Nat) (e : Fin 96) (ag : Agent)
  /-- IMEM_WIN_WRITE: a write of ENG_IMEM_WIN_i (R178). -/
  | imemWinWrite (t : Nat) (e : Fin 96) (ix : Fin 4096) (v : BitVec 64) (ag : Agent)
  /-- LOADER_CHECK: firmware starts the loader on the bundle at `da` (R207). -/
  | loaderCheck (t da : Nat)
  /-- ETH_FRAME_RX: a frame, from its destination address to its FCS, has arrived on port N`port`; `err` − 8 is the error of its stamp in ns (R318, R319). -/
  | ethFrameRx (t : Nat) (port : Fin 4) (err : Fin 17) (frame : List Byte)
  /-- SYNC: the PTP client takes its oldest message, a Sync (R322). -/
  | sync (t : Nat)
  /-- FOLLOW_UP: the PTP client takes its oldest message, a Follow_Up (R321). -/
  | followUp (t : Nat)
  /-- DELAY_RESP: the PTP client takes its oldest message, a Delay_Resp (R321). -/
  | delayResp (t : Nat)
  /-- ANNOUNCE: the PTP client takes its oldest message, an Announce (R321). -/
  | announce (t : Nat)
  /-- DELAY_REQ: the interval of Delay_Req passes, when it is due (R321). -/
  | delayReq (t : Nat)
  /-- DATA_FRAME: the stream parsers take their oldest message, a data frame (R334). -/
  | dataFrame (t : Nat)
  /-- CFG_FRAME: the stream parsers take their oldest message, a CFG-2 or CFG-3 frame (R333). -/
  | cfgFrame (t : Nat)
  /-- HEADER_FRAME: the stream parsers take their oldest message, a header or CFG-1 frame (R332). -/
  | headerFrame (t : Nat)
  /-- COMMAND_FRAME: the stream parsers take their oldest message, a command frame (R332). -/
  | commandFrame (t : Nat)
  /-- PULSE_TRIGGER_PRESENT: the ingest block presents its first held trigger for engine `e` (R242). -/
  | pulseTriggerPresent (t : Nat) (e : Fin 96)
  /-- RTP_PACKET: the stream parsers take their oldest message, an RTP packet (R340). -/
  | rtpPacket (t : Nat)
  /-- PICTURE_HANDOVER: the oldest picture under assembly of video entry `j` goes to the decoder, when it is due; the picture would serve as a reference, and is a random-access picture, as told (R340, R348). -/
  | pictureHandover (t : Nat) (j : Fin 512) (isRef rap : Bool)
  /-- PICTURE_DECODE_START: a free instance takes the oldest waiting picture; `hdr` is the sequence header it brings (R343, R344). -/
  | pictureDecodeStart (t : Nat) (hdr : Option SeqHeader)
  /-- PICTURE_DECODE_END: the picture of an instance ends; its data was complete, it carried film-grain parameters, it was stalled (R83), and `refs` are the stream's pictures that still are references (R344, R350, R361). -/
  | pictureDecodeEnd (t : Nat) (inst : Fin 24) (complete film stalled : Bool) (refs : List Nat)
  /-- PICTURE_WATCHDOG: the watchdog of an instance's picture expires, when it is due (R347). -/
  | pictureWatchdog (t : Nat) (inst : Fin 24)
  /-- ALIGNER_SAMPLE: the Aligner takes the next sample of its input queue (R352). -/
  | alignerSample (t : Nat)
  /-- WINDOW_CUTOFF: the Aligner closes a window, when its cutoff has come; where the ALIGN deadline has passed, `left` names the grid values, by channel and grid point, that had not been written before it (R39, R358, R359). -/
  | windowCutoff (t : Nat) (left : List (Nat × Nat))
  /-- CFG_SWAP: a write of ING_CTRL with CFG_SWAP set, its other fields as they are (R329). -/
  | cfgSwap (t : Nat) (ag : Agent)
  /-- INGEST_CFG_ACTIVATE: a checked ingest configuration becomes active, when that is due (R329). -/
  | ingestCfgActivate (t : Nat)
  /-- VDC_RELEASE: a write of VDC_RELEASE (R361). -/
  | vdcRelease (t : Nat) (v : BitVec 64) (ag : Agent)
  /-- VDC_REARM: a write of VDC_REARM (R345). -/
  | vdcRearm (t : Nat) (stream : BitVec 16) (ag : Agent)
  /-- PUBLISH_ENTRY: the publish ring takes its next entry and sends its message; `ue` is the number of datagrams sent before the payload read ends with F_MEM_UE (R362, R363). -/
  | publishEntry (t : Nat) (ue : Option Nat)
  /-- CONTEXT_CREATE: a write of SCH_CTX_CFG with VALID set, for the selected context (R372). -/
  | contextCreate (t : Nat) (v : BitVec 64) (ag : Agent)
  /-- CONTEXT_DELETE: a write of SCH_CTX_CFG that clears VALID and leaves the other fields as they are (R393). -/
  | contextDelete (t : Nat) (ag : Agent)
  /-- CONTEXT_ABORT: a write of SCH_CTX_CTRL with ABORT set (R381). -/
  | contextAbort (t : Nat) (ag : Agent)
  /-- EVICT: a write of SCH_CTX_CTRL with EVICT set (R376). -/
  | evict (t : Nat) (ag : Agent)
  /-- PARTITION_ABORT: a write of SCH_PART_CTRL_p with ABORT set (R382). -/
  | partitionAbort (t : Nat) (p : Fin 8) (ag : Agent)
  /-- CONTEXT_SWITCH_IN: the engine passes to the resident context that comes first, at a step boundary of the running one (R374, R375). -/
  | contextSwitchIn (t : Nat) (e : Fin 96)
  /-- CONTEXT_SWAP: the scheduler swaps a victim out for a swapped context; `ue` is the offset in the save area of a Hatch write that ends with F_MEM_UE (R377, R383). -/
  | contextSwap (t : Nat) (e : Fin 96) (ue : Option (Fin 262144))
  /-- CONTEXT_SWAP_IN: the swap ends; `ue` is the offset in the incoming context's save area of a Hatch read that ends with F_MEM_UE (R376, R383). -/
  | contextSwapIn (t : Nat) (e : Fin 96) (ue : Option (Fin 262144))
  /-- REMOTE_RESPONSE: the response of a remote request arrives at its context (R379, R380). -/
  | remoteResponse (t : Nat) (tag : BitVec 24) (status : BitVec 16) (data : List Byte)
  /-- REMOTE_TAG_TIMEOUT: a tag is not answered within KTF_TIMEOUT, when that is due (R417). -/
  | remoteTagTimeout (t : Nat) (tag : BitVec 24)
  /-- JOB_PLACE: the scheduler looks at the job ring of a partition and places the first placeable entry (R385). -/
  | jobPlace (t : Nat) (p : Fin 8)
  /-- SELFTEST_LEAD: 100 µs before the rotation slot of an engine (R388). -/
  | selftestLead (t : Nat) (e : Fin 96)
  /-- SELFTEST_SLOT_START: a self-test slot of an engine starts, when one may; `ues` are the contexts whose save to Hatch ends with F_MEM_UE, with the offset (R388, R383). -/
  | selftestSlotStart (t : Nat) (e : Fin 96) (ues : List (Fin 16 × Fin 262144))
  /-- SELFTEST_START: the engine is withdrawn and its test starts (R437). -/
  | selftestStart (t : Nat) (e : Fin 96)
  /-- SELFTEST_END: the test ends; bit i − 1 of `items` is set when item i failed, and `ues` are the contexts whose read from Hatch ends with F_MEM_UE (R437, R439). -/
  | selftestEnd (t : Nat) (e : Fin 96) (items : BitVec 12) (ues : List (Fin 16 × Fin 262144))
  /-- SELFTEST_ABANDON: 50 µs pass after a slot start without a test (R441). -/
  | selftestAbandon (t : Nat) (e : Fin 96)
  /-- STANDIN_PREPARE: 200 µs before the slot of the reserved engine of stand-in `ix` (R390). -/
  | standinPrepare (t : Nat) (ix : Fin 4)
  /-- STANDIN_HANDOVER: the slot of the reserved engine of stand-in `ix` starts, or has ended (R390). -/
  | standinHandover (t : Nat) (ix : Fin 4)
  /-- STANDIN_FIFO_DRAINED: the FIFO of the engine that hands over is empty; `ues` as for SELFTEST_SLOT_START (R390). -/
  | standinFifoDrained (t : Nat) (ix : Fin 4) (ues : List (Fin 16 × Fin 262144))
  /-- STANDIN_WRITE: a write of SCH_STANDIN_i (R389). -/
  | standinWrite (t : Nat) (ix : Fin 4) (v : BitVec 64) (ag : Agent)
  /-- GET: a GET arrives on port X`port` (R406). -/
  | get (t : Nat) (port : Fin 8) (p : Packet)
  /-- PUT: a PUT arrives on port X`port` (R406). -/
  | put (t : Nat) (port : Fin 8) (p : Packet)
  /-- ATOMIC: an ATOMIC arrives on port X`port` (R406, R408). -/
  | atomic (t : Nat) (port : Fin 8) (p : Packet)
  /-- RED: a RED arrives on port X`port` (R406, R408). -/
  | red (t : Nat) (port : Fin 8) (p : Packet)
  /-- GET_RSP: a GET_RSP arrives on port X`port` (R406). -/
  | getRsp (t : Nat) (port : Fin 8) (p : Packet)
  /-- ACK: an ACK arrives on port X`port` (R406). -/
  | ack (t : Nat) (port : Fin 8) (p : Packet)
  /-- ATOMIC_RSP: an ATOMIC_RSP arrives on port X`port` (R406). -/
  | atomicRsp (t : Nat) (port : Fin 8) (p : Packet)
  /-- FABRIC_TICK: a TICK arrives on port X`port` (R418). -/
  | fabricTick (t : Nat) (port : Fin 8) (p : Packet)
  /-- IDLE: an IDLE arrives on link X`link`, or on Dulis (8) (R409). -/
  | idle (t : Nat) (link : Fin 9) (p : Packet)
  /-- HELLO: a HELLO with the neighbour's ID and port number arrives on port X`port` during training (R401). -/
  | hello (t : Nat) (port : Fin 8) (id : BitVec 13) (peer : Fin 8)
  /-- NAK: a packet of link fields with NAK set arrives on link X`link`, or on Dulis (8) (R396). -/
  | nak (t : Nat) (link : Fin 9) (p : Packet)
  /-- LANE_REMOVE: the codewords of a lane in the last 1 ms: corrected and uncorrectable ones, and whether the lane has lost lock (R394, R397). -/
  | laneRemove (t : Nat) (link : Fin 9) (lane : Fin 4) (good bad : Nat) (lost : Bool)
  /-- LINK_RETRAIN_DONE: training or retraining of a link completes (R397, R429). -/
  | linkRetrainDone (t : Nat) (link : Fin 9)
  /-- RETRAIN: a write of KTF_PORT_CTRL with RETRAIN set (R397). -/
  | retrain (t : Nat) (port : Fin 8) (ag : Agent)
  /-- KTF_ENABLE: a write of KTF_CTRL (R429). -/
  | ktfEnable (t : Nat) (en : Bool) (ag : Agent)
  /-- DATA_S: read data granted in S arrives from the companion (R420). -/
  | dataS (t : Nat) (p : Packet)
  /-- DATA_E: read data granted in E arrives from the companion (R422). -/
  | dataE (t : Nat) (p : Packet)
  /-- WR_ACK: the companion acknowledges an Attic write (R422). -/
  | wrAck (t : Nat) (p : Packet)
  /-- SNP_INV: an invalidating snoop arrives (R423, R424). -/
  | snpInv (t : Nat) (p : Packet)
  /-- SNP_SHARED: a downgrading snoop arrives (R423). -/
  | snpShared (t : Nat) (p : Packet)
  /-- INB_RD: an INB_RD arrives from the companion (R420, R426). -/
  | inbRd (t : Nat) (p : Packet)
  /-- INB_WR: an INB_WR arrives from the companion; LEN 96 is the form with a byte mask (R420, R426). -/
  | inbWr (t : Nat) (p : Packet)
  /-- INB_ATOMIC: an INB_ATOMIC arrives from the companion (R420, R426). -/
  | inbAtomic (t : Nat) (p : Packet)
  /-- ATTIC_TIMEOUT: the timeout of an Attic request to the sector of `da` passes (R427). -/
  | atticTimeout (t da : Nat)
  /-- SENSOR_SAMPLE: all 128 temperature sensors are sampled; readings by sensor, in 1/16 °C (R445). -/
  | sensorSample (t : Nat) (readings : List (BitVec 16))
  /-- THERMAL_CAP_STEP: the thermal cap of D0, D1, IOA or IOB steps, when that is due (R446). -/
  | thermalCapStep (t : Nat) (die : Fin 4)
  /-- DROOP: a rail has fallen to `mv` (R448). -/
  | droop (t : Nat) (rail : Fin 32) (mv : BitVec 16)
  /-- DROOP_RECOVER: the droop cap of a rail steps back, when that is due (R448). -/
  | droopRecover (t : Nat) (rail : Fin 32)
  /-- UNDERVOLT: a rail has been below 90 % for more than 1 µs, `mv` its lowest (R448). -/
  | undervolt (t : Nat) (rail : Fin 32) (mv : BitVec 16)
  /-- OVERCAP: input power has stayed at `watts` or more for 10 ms (R448). -/
  | overcap (t : Nat) (watts : BitVec 16)
  /-- PROC_MONITOR_SAMPLE: a ring-oscillator monitor has counted `n` over 10 µs (R449). -/
  | procMonitorSample (t : Nat) (ix : Fin 32) (n : BitVec 32)
  /-- UNIT_OUT_OF_SERVICE: a check of a unit fails; CAUSE, the structure and the DA, or 0, of F_CTL_CHECK. At the threshold the unit is taken out of service (R436). -/
  | unitOutOfService (t : Nat) (u : CheckedUnit) (cause area : BitVec 8) (da : BitVec 64)
  /-- ST_REQ_ENGINE: a write of HLT_ST_REQ of kind ENGINE (R444). -/
  | stReqEngine (t : Nat) (e : Fin 96) (ag : Agent)
  /-- ST_REQ_SENSORS: a write of HLT_ST_REQ of kind SENSORS (R444). -/
  | stReqSensors (t : Nat) (ag : Agent)
  /-- ST_REQ_CAL_PANTRY: a write of HLT_ST_REQ of kind CAL_PANTRY (R444). -/
  | stReqCalPantry (t : Nat) (ch : Fin 192) (ag : Agent)
  /-- ST_REQ_CAL_CELLAR: a write of HLT_ST_REQ of kind CAL_CELLAR (R444). -/
  | stReqCalCellar (t : Nat) (ch : Fin 256) (ag : Agent)
  /-- FULL_RATE: a write of HLT_ST_CTRL that changes only FULL_RATE (R443). -/
  | fullRate (t : Nat) (on : Bool) (ag : Agent)
  /-- FULLRATE_EXPIRED: FULLRATE_LIMIT has passed, when that is due (R443). -/
  | fullrateExpired (t : Nat)
  /-- LOCKSTEP_MISMATCH: the active Steward pair's cores differ, at `pc` (R455). -/
  | lockstepMismatch (t : Nat) (pc : BitVec 64)
  /-- STEWARD_FAILOVER: the standby pair resumes (R455). -/
  | stewardFailover (t : Nat)
  /-- FLT_INJECT: a write of FLT_INJECT (R458). -/
  | fltInject (t : Nat) (code : BitVec 16) (ag : Agent)
  /-- FLT_RING_HEAD_WRITE: a write of FLT_RING_HEAD (R464). -/
  | fltRingHeadWrite (t : Nat) (v : BitVec 32) (ag : Agent)
  /-- ALERT_STATUS_CLEAR: a write of FLT_ALERT_STATUS (R457). -/
  | alertStatusClear (t : Nat) (v : BitVec 5) (ag : Agent)
  /-- TELEMETRY_RECORD: a telemetry record is formed, when that is due (R459). -/
  | telemetryRecord (t : Nat)
  /-- NOR_LOG_PROGRAM: the program of the next record of the NOR fault log ends; it failed when `fail` (R460). -/
  | norLogProgram (t : Nat) (fail : Bool)
  /-- NOR_OP_DONE: the operation of highest priority of the NOR port ends (R467). -/
  | norOpDone (t : Nat) (fail : Bool)
  /-- INTERNAL_RESET_RELEASE: RESET_N is high and REFCLK runs within its limits: the internal reset is released, when that is due (R496). -/
  | internalResetRelease (t : Nat)
  /-- NOR_DISCOVERY: the boot ROM's discovery of the NOR ends (R465). -/
  | norDiscovery (t : Nat) (ok : Bool)
  /-- SLOT_VERIFY: the slot being tried has been read and its checks end (R475). -/
  | slotVerify (t : Nat)
  /-- TIER_TRAIN: a tier completes training and is initialised; `chs` are the channels that fail, and `lanes` the Pantry DQ lanes that fail by stack, channel and lane (R96 to R98). -/
  | tierTrain (t : Nat) (tier : Tier) (chs : List (Fin 256)) (lanes : List (Fin 12 × Fin 16 × Fin 64))
  /-- BOOT_ENGINE_TEST: the boot-time engine tests end; the engines that failed with their items as in SELFTEST_END (R477). -/
  | bootEngineTest (t : Nat) (bad : List (Fin 96 × BitVec 12))
  /-- RECORD_APPLY: the boot ROM applies the records that it can, in image order (R474). -/
  | recordApply (t : Nat)
  /-- SVN_COMMIT: a write of SEC_CTRL with SVN_COMMIT set; whether the burn fails verification (R473, R478). -/
  | svnCommit (t : Nat) (fail : Bool) (ag : Agent)
  /-- REVOKE: a write of SEC_CTRL with REVOKE set for key slot `k`; `fail` as for SVN_COMMIT (R479). -/
  | revoke (t : Nat) (k : Fin 4) (fail : Bool) (ag : Agent)
  /-- OTP_KEY_PROGRAM: a write of SEC_OTP_KEY_CTRL with GO set; `fail` as for SVN_COMMIT (R479). -/
  | otpKeyProgram (t : Nat) (k : Fin 4) (fail : Bool) (ag : Agent)
  /-- ATTEST_GO: a write of SEC_ATTEST_CTRL with GO set; whether a sector of the signing log fails (R485, R486). -/
  | attestGo (t : Nat) (fail : Bool) (ag : Agent)
  /-- TREE_BEGIN: a new lower tree has been computed, when one is due; whether the OTP burn failed verification and whether a log sector failed (R481). -/
  | treeBegin (t : Nat) (burnFail logFail : Bool)
  /-- NOR_READ: a write of SEC_NOR_CTRL with CMD READ (R467). -/
  | norRead (t : Nat) (len : BitVec 24) (ag : Agent)
  /-- NOR_PROGRAM: a write of SEC_NOR_CTRL with CMD PROGRAM (R467). -/
  | norProgram (t : Nat) (len : BitVec 24) (ag : Agent)
  /-- NOR_ERASE: a write of SEC_NOR_CTRL with CMD ERASE (R467). -/
  | norErase (t : Nat) (ag : Agent)
  /-- INPUT_RISE: the input rises through 46 V; `cold` says that 3V3_SB had failed (R494). -/
  | inputRise (t : Nat) (cold : Bool)
  /-- RAIL_GROUP_UP: the rails of the group that is starting are in regulation (R494). -/
  | railGroupUp (t : Nat)
  /-- RAIL_FAIL: a rail of the group that is starting misses regulation within the group's time (R495). -/
  | railFail (t : Nat) (rail : Fin 32)
  /-- INPUT_UV: the input falls through 44 V (R498). -/
  | inputUv (t : Nat)
  /-- INPUT_OV: the input rises above 62 V (R498). -/
  | inputOv (t : Nat)
  /-- ORDERLY_SHUTDOWN: the shutdown that is under way completes (R499). -/
  | orderlyShutdown (t : Nat)
  /-- RESET_ASSERT: a low level of RESET_N is taken (R497). -/
  | resetAssert (t : Nat)
  /-- REFCLK_LOST: REFCLK has been absent or off frequency for 10 µs (R505). -/
  | refclkLost (t : Nat)
  /-- POWER_CAP_EVAL: the evaluation of the power cap, when it is due: input voltage in mV, current in 10 mA and mean power of the last 1 ms in 0.1 W, energy since the last evaluation in µJ, and mV and 10 mA of each rail (R501). -/
  | powerCapEval (t : Nat) (mv ma10 dw : BitVec 16) (uj : Nat) (rails : List (BitVec 16 × BitVec 16))
  /-- PPS_EDGE: a rising edge of PPS_IN; `err` − 8 is the error of its stamp in ns (R508). -/
  | ppsEdge (t : Nat) (err : Fin 17)
  /-- PPS_MISSING: no edge of PPS_IN for 1.5 s, when that is so (R508). -/
  | ppsMissing (t : Nat)
  /-- SETDASA: SETDASA on the sideband: the static address and the dynamic one (R504). -/
  | setdasa (t : Nat) (static dyn : BitVec 7)
  /-- SIDEBAND_READ: a sideband READ sent to an address; `busy` when the block answers BUSY (R504). -/
  | sidebandRead (t : Nat) (target : BitVec 7) (da : BitVec 64) (busy : Bool)
  /-- SIDEBAND_WRITE: a sideband WRITE sent to an address; `busy` as for SIDEBAND_READ (R504). -/
  | sidebandWrite (t : Nat) (target : BitVec 7) (da v : BitVec 64) (busy : Bool)
  /-- REGISTER_WRITE: a write of `width` bytes at a DA of the register space (R9 to R13). -/
  | registerWrite (t : Nat) (da width : Nat) (v : BitVec 64) (ag : Agent)
  /-- UNMAPPED_REGISTER_ACCESS: a read, or a write of `v`, of `width` bytes at a DA of the register space that may name no register (R9, R512). -/
  | unmappedRegisterAccess (t : Nat) (da width : Nat) (v : Option (BitVec 64)) (ag : Agent)
  /-- BANK_REFRESH: the bank that requests to a pseudo-channel or channel wait on is refreshed for `cycles` (R82, R93). -/
  | bankRefresh (t : Nat) (tier : Tier) (unit : Fin 384) (cycles : Nat)
  /-- INPUT_CAPACITANCE_CHARGED: the input capacitance is charged (R494). -/
  | inputCapacitanceCharged (t : Nat)
  /-- INPUT_LOW: the input falls below 48 V and stays above 44 V (R491). -/
  | inputLow (t : Nat)
  /-- INPUT_HIGH: the input rises above 60 V and stays below 62 V (R491). -/
  | inputHigh (t : Nat)
  /-- ANNOUNCE_RECEIPT_TIMEOUT: the receipt timeout of the selected master's Announce passes, when it is due (R321). -/
  | announceReceiptTimeout (t : Nat)
  /-- PACKET_CRC_FAIL: a packet arrives on a link and fails its CRC-32 (R396). -/
  | packetCrcFail (t : Nat) (link : Fin 9)
  /-- ATTEST_TOKEN_REFILL: the attestation bucket gains a token, when that is due (R486). -/
  | attestTokenRefill (t : Nat)
  /-- NOR_LOG_TOKEN_REFILL: the admission bucket of the NOR fault log gains a token, when that is due (R461). -/
  | norLogTokenRefill (t : Nat)
  deriving DecidableEq, Repr

end Sys2Proof
end

