-- ==== Sys2Proof/Decode.lean ====
section
/-! DEFINITION. What a word spells. The command table gives no row any bits: the block decodes no instruction, and no
word spells a command. -/

namespace Sys2Proof

/-- The command that a word of the table's bits spells: none, since no row of the table has bits. -/
def decodeTableWord (_nbits _w : Nat) : Option Instr := none

end Sys2Proof
end

