-- ==== Sys2Proof/Config.lean ====
section
/-! DEFINITION. What the manual leaves open, as constants with no body (assumption log 2 to 12): a claim that
holds of the model holds whatever these are. Each one is applied to the operands it depends on, or to the
counter `State.free` where the manual gives nothing it depends on. -/

namespace Sys2Proof.Config

/-- The byte an undefined memory region holds, a fresh one for each count (R4, R130, R182). -/
opaque freeByte : Nat → Byte

/-- A fresh number where the manual gives no figure (assumption log 3). -/
opaque freeNat : Nat → Nat

/-! The selectors of numerical errors take the count of free values drawn so far as their first argument: equal operands need not
give equal results (R2). -/

/-- Selects the error of EXP for an operand, inside the bound of R127. -/
opaque expErr : Nat → Nat → Nat

/-- Selects the error of RCP and RSQRT for an operand, inside the bound of R125. -/
opaque rcpErr : Nat → Nat → Nat

/-- Selects the error of a gate function (0 sigmoid, 1 tanh, 2 SiLU) for an operand, inside the bound of R126. -/
opaque gateErr : Nat → Nat → Nat → Nat

/-- Selects the error of a row reduction for its addends, inside the bound of R125. -/
opaque rsumErr : Nat → List Nat → Nat

/-- Selects the relative error of a formula's element, inside the bound of R232, R282, R334 or R353. -/
opaque elemErr : Nat → List Nat → Nat

/-- Selects the error of the natural logarithm of the softmax sum (R281): the manual states no bound for it. -/
opaque lnErr : Nat → Nat → Nat

/-- The angle of a phasor in radians from its FP32 real and imaginary parts (R334): bounded by the manual only
through the magnitude of the conversion. -/
opaque angleFp32 : W32 → W32 → W32

/-- The cosine and the sine used to turn a polar phasor into rectangular form (R334). -/
opaque cosFp32 : W32 → W32

/-- The sine of R334. -/
opaque sinFp32 : W32 → W32

/-- The samples that a decoder writes for a picture (R342): the codecs' own standards fix them, the manual does
not restate them. First argument: the coded picture's sequence number; second: the byte's index in its slot. -/
opaque decodedSample : Nat → Nat → Byte

/-- SHA-256 (FIPS 180-4) of a byte string, as 32 bytes numbered from 0. -/
opaque sha256 : List Byte → Nat → Byte

/-- Whether an LMS signature verifies (RFC 8554): public key, message, signature (R469). -/
opaque lmsVerify : List Byte → List Byte → List Byte → Bool

/-- Byte `i` of the HSS signature with tree `q`, index `j` over a report (R486). -/
opaque hssSignature : Nat → Nat → List Byte → Nat → Byte

/-- Byte `i` of the public key of lower tree `q`, derived from the identity seed (R481). -/
opaque treeKey : Nat → Nat → Byte

/-- Selects neighbour `k` of temperature sensor `i`: the manual does not give the sensors' places (R445). -/
opaque sensorNear : Nat → Nat → Nat

/-- The serial number (R516: part-specific). -/
opaque serial : Word

/-- The key hash of slot 0 or 1, word `i` (R516: part-specific). -/
opaque keyHash : Nat → Nat → Word

/-- LEVEL_MAX less 1: at least level 1 is supported (R516). -/
opaque levelAbove : BitVec 15

/-- DEBUG_LOCK, fixed by the order code (R473, R516). -/
opaque debugLock : Bool

/-- ADVANCE_EACH_BOOT, fixed by the order code (R473, R516). -/
opaque advanceEachBoot : Bool

/-- Whether the Keeper core raises an exception for a load or store that is not aligned, or performs it: the manual names the architecture,
which leaves it open (assumption log 87). -/
opaque keeperAligns : Bool

/-- The straps SB_ADDR[1:0] of the sideband's static address (R504). -/
opaque sbAddr : BitVec 2

end Sys2Proof.Config
end

