-- ==== Sys2Proof/Machine/Bits.lean ====
section
/-! DEFINITION. Bit fields, byte order and check sums: little-endian fields (R6), CRC-32 of IEEE 802.3, the
CRC-CCITT of C37.118.2 (R331) and SipHash-2-4 (R292). -/

namespace Sys2Proof.Machine

/-- Bits [hi:lo] of a number (R5). -/
def bits (v hi lo : Nat) : Nat := (v >>> lo) % 2 ^ (hi + 1 - lo)

/-- a − base, in a form that stays folded for an unknown `a` and a large base. -/
def past (a base : Nat) : Nat := if base ≤ a then a - base else 0

/-- Bit `i` of a number. -/
def bit (v i : Nat) : Bool := v.testBit i

/-- 1 for true. -/
def b2n (b : Bool) : Nat := if b then 1 else 0

/-- A bit mask of bits [hi:lo]. -/
def maskBits (hi lo : Nat) : Nat := (2 ^ (hi + 1 - lo) - 1) <<< lo

/-- The number whose bits [hi:lo] are `f` and whose other bits are those of `v`. -/
def putBits (v hi lo f : Nat) : Nat :=
  (v >>> (hi + 1)) <<< (hi + 1) ||| (f % 2 ^ (hi + 1 - lo)) <<< lo ||| v % 2 ^ lo

/-- ⌈a / b⌉. -/
def ceilDiv (a b : Nat) : Nat := (a + b - 1) / b

/-- The unsigned number held by bytes in little-endian order (R6). -/
def leNat : List Byte → Nat
  | [] => 0
  | b :: bs => b.toNat + 256 * leNat bs

/-- `n` bytes of a number, little-endian (R6). -/
def leBytes : Nat → Nat → List Byte
  | 0, _ => []
  | n + 1, v => BitVec.ofNat 8 v :: leBytes n (v / 256)

/-- The unsigned number held by bytes in network byte order. -/
def beNat (bs : List Byte) : Nat := leNat bs.reverse

/-- `n` bytes of a number in network byte order. -/
def beBytes (n v : Nat) : List Byte := (leBytes n v).reverse

/-- `n` bytes at offset `ofs` of a byte string; bytes past its end read 0. -/
def fieldBytes (bs : List Byte) (ofs n : Nat) : List Byte :=
  (List.range n).map fun i => bs.getD (ofs + i) 0

/-- The little-endian field of `n` bytes at offset `ofs`. -/
def leField (bs : List Byte) (ofs n : Nat) : Nat := leNat (fieldBytes bs ofs n)

/-- The big-endian field of `n` bytes at offset `ofs`. -/
def beField (bs : List Byte) (ofs n : Nat) : Nat := beNat (fieldBytes bs ofs n)

/-- Byte string `bs` with `new` in place of its bytes from `ofs` on. -/
def putField (bs : List Byte) (ofs : Nat) (new : List Byte) : List Byte :=
  bs.take ofs ++ new ++ bs.drop (ofs + new.length)

/-- The signed value of an `n`-bit two's complement number. -/
def toSigned (n v : Nat) : Int :=
  if (v % 2 ^ n).testBit (n - 1) then (v % 2 ^ n : Nat) - (2 ^ n : Nat) else (v % 2 ^ n : Nat)

/-- The `n`-bit two's complement pattern of an integer. -/
def ofSigned (n : Nat) (v : Int) : Nat := (v % (2 ^ n : Nat)).toNat

/-- The value counted modulo 2^32 in a half-range: how far `a` lies ahead of `b` (R144). -/
def ahead32 (a b : Nat) : Int := toSigned 32 (a + 2 ^ 32 - b % 2 ^ 32)

/-- Saturating increment of the bit field [hi:lo] of a counter register by `n`. -/
def satAdd (v hi lo n : Nat) : Nat :=
  putBits v hi lo (min (bits v hi lo + n) (2 ^ (hi + 1 - lo) - 1))

/-- Eight steps of the reflected CRC-32 register (IEEE 802.3 polynomial). -/
def crc32Shift : Nat → Nat → Nat
  | 0, c => c
  | k + 1, c => crc32Shift k (if c % 2 = 1 then (c / 2) ^^^ 0xEDB88320 else c / 2)

/-- CRC-32 with the IEEE 802.3 polynomial over a byte string. -/
def crc32 (bs : List Byte) : Nat :=
  (bs.foldl (fun c b => crc32Shift 8 (c ^^^ b.toNat)) 0xFFFFFFFF) ^^^ 0xFFFFFFFF

/-- Eight steps of the CRC-CCITT register. -/
def crc16Shift : Nat → Nat → Nat
  | 0, c => c
  | k + 1, c => crc16Shift k (if c / 32768 % 2 = 1 then (c * 2 % 65536) ^^^ 0x1021 else c * 2 % 65536)

/-- The CRC-CCITT check of a C37.118.2 frame (R331). -/
def crcCcitt (bs : List Byte) : Nat :=
  bs.foldl (fun c b => crc16Shift 8 (c ^^^ (b.toNat * 256))) 0xFFFF

/-- Rotation of a 64-bit number to the left. -/
def rotl64 (v n : Nat) : Nat := (v <<< n ||| v >>> (64 - n)) % 2 ^ 64

/-- One SipRound on the four lanes. -/
def sipRound (s : Nat × Nat × Nat × Nat) : Nat × Nat × Nat × Nat :=
  let (v0, v1, v2, v3) := s
  let v0 := (v0 + v1) % 2 ^ 64
  let v1 := rotl64 v1 13 ^^^ v0
  let v0 := rotl64 v0 32
  let v2 := (v2 + v3) % 2 ^ 64
  let v3 := rotl64 v3 16 ^^^ v2
  let v0 := (v0 + v3) % 2 ^ 64
  let v3 := rotl64 v3 21 ^^^ v0
  let v2 := (v2 + v1) % 2 ^ 64
  let v1 := rotl64 v1 17 ^^^ v2
  let v2 := rotl64 v2 32
  (v0, v1, v2, v3)

/-- SipHash absorbs the 64-bit words of its message. -/
def sipAbsorb (s : Nat × Nat × Nat × Nat) : List Nat → Nat × Nat × Nat × Nat
  | [] => s
  | m :: ms =>
    let (v0, v1, v2, v3) := s
    let (v0, v1, v2, v3) := sipRound (sipRound (v0, v1, v2, v3 ^^^ m))
    sipAbsorb (v0 ^^^ m, v1, v2, v3) ms

/-- The message of SipHash as 64-bit words, the last one carrying the length. -/
def sipWords (bs : List Byte) : List Nat :=
  (List.range (bs.length / 8)).map (fun i => leField bs (8 * i) 8) ++
    [leField bs (bs.length / 8 * 8) (bs.length % 8) + (bs.length % 256) * 2 ^ 56]

/-- SipHash-2-4 under a 128-bit key (R292). -/
def sipHash24 (key : Nat) (bs : List Byte) : Nat :=
  let k0 := key % 2 ^ 64
  let k1 := key / 2 ^ 64 % 2 ^ 64
  let (v0, v1, v2, v3) := sipAbsorb (k0 ^^^ 0x736f6d6570736575, k1 ^^^ 0x646f72616e646f6d,
    k0 ^^^ 0x6c7967656e657261, k1 ^^^ 0x7465646279746573) (sipWords bs)
  let (v0, v1, v2, v3) := sipRound (sipRound (sipRound (sipRound (v0, v1, v2 ^^^ 0xff, v3))))
  v0 ^^^ v1 ^^^ v2 ^^^ v3

/-- The parity (exclusive or) of the named bits of a number. -/
def xorBits (v : Nat) (is : List Nat) : Bool := is.foldl (fun a i => a ^^ v.testBit i) false

/-- The number whose bit i is `f i`, for the first n bits. -/
def ofBits (n : Nat) (f : Nat → Bool) : Nat :=
  (List.range n).foldl (fun a i => a + b2n (f i) * 2 ^ i) 0

/-- The positions of the set bits of a number below bit n. -/
def setBits (n v : Nat) : List Nat := (List.range n).filter (v.testBit ·)

end Sys2Proof.Machine
end

