-- ==== Sys2Proof/Machine/Float.lean ====
section
/-! DEFINITION. Number formats (R114, R156) and their arithmetic: exact values, one rounding to FP32
(R117, R125), the output converter (R121 to R123), and the functions the manual gives only by a bound
(R125 to R127), each as its exact value moved by a free error inside that bound. -/

namespace Sys2Proof.Machine

/-- The formats of R156, in the order of their FMT codes. -/
inductive Fmt
  | fp32 | bf16 | fp16 | e4m3 | e5m2 | e2m1 | int8 | int4
  deriving DecidableEq, Repr

/-- FMT of R156; 8 to 15 are reserved. -/
def fmtOfCode : Nat → Option Fmt
  | 0 => some .fp32 | 1 => some .bf16 | 2 => some .fp16 | 3 => some .e4m3
  | 4 => some .e5m2 | 5 => some .e2m1 | 6 => some .int8 | 7 => some .int4
  | _ => none

/-- Element width in bits. -/
def Fmt.width : Fmt → Nat
  | .fp32 => 32 | .bf16 => 16 | .fp16 => 16 | .e4m3 => 8 | .e5m2 => 8 | .e2m1 => 4 | .int8 => 8 | .int4 => 4

/-- Whether the format is an integer format. -/
def Fmt.isInt : Fmt → Bool
  | .int8 => true | .int4 => true | _ => false

/-- Whether the format may carry block scales (R155: FP4 and FP8 only). -/
def Fmt.scalable : Fmt → Bool
  | .e4m3 => true | .e5m2 => true | .e2m1 => true | _ => false

/-- Mantissa bits below the leading one. -/
def Fmt.mant : Fmt → Nat
  | .fp32 => 23 | .bf16 => 7 | .fp16 => 10 | .e4m3 => 3 | .e5m2 => 2 | .e2m1 => 1 | .int8 => 0 | .int4 => 0

/-- Exponent bias of R114. -/
def Fmt.bias : Fmt → Nat
  | .fp32 => 127 | .bf16 => 127 | .fp16 => 15 | .e4m3 => 7 | .e5m2 => 15 | .e2m1 => 1 | .int8 => 0 | .int4 => 0

/-- Exponent field width. -/
def Fmt.ebits (f : Fmt) : Nat := f.width - 1 - f.mant

/-- Lanes per unit of an element of this width (R114). -/
def Fmt.lanes (f : Fmt) : Nat := 512 / f.width

/-- The exact value of a floating-point datum: (−1)^neg · m · 2^e. -/
inductive FVal
  | nan
  | inf (neg : Bool)
  | fin (neg : Bool) (m : Nat) (e : Int)
  deriving DecidableEq, Repr

/-- The exponent of the least significant bit of a format's subnormals. -/
def Fmt.quantum (f : Fmt) : Int := 1 - (f.bias : Int) - (f.mant : Int)

/-- Decodes an element of a floating-point format; subnormals keep their exact values (R116). -/
def Fmt.decode (f : Fmt) (v : Nat) : FVal :=
  let w := f.width
  let neg := v.testBit (w - 1)
  let ex := bits v (w - 2) f.mant
  let mn := v % 2 ^ f.mant
  let top := 2 ^ f.ebits - 1
  let number := if ex = 0 then FVal.fin neg mn f.quantum
    else .fin neg (2 ^ f.mant + mn) (f.quantum + ex - 1)
  match f with
  | .e2m1 => number
  | .e4m3 => if ex = top ∧ mn = 7 then .nan else number
  | _ => if ex = top then (if mn = 0 then .inf neg else .nan) else number

/-- The integer value of an INT8 or INT4 element. -/
def Fmt.decodeInt (f : Fmt) (v : Nat) : Int := toSigned f.width v

/-- The exact value of an FP32 pattern. -/
def f32 (w : W32) : FVal := Fmt.fp32.decode w.toNat

/-- The canonical quiet NaN (R66, R119). -/
def nan32 : W32 := 0x7FC00000

/-- Number of bits of a natural number. -/
def natLen (m : Nat) : Nat := if m = 0 then 0 else Nat.log2 m + 1

/-- How the part below the kept bits decides: to nearest even, or by the 16 random bits of R123. -/
inductive RMode
  | rne
  | sr (g : Nat)
  deriving DecidableEq, Repr

/-- Divides m by 2^s and rounds the magnitude. -/
def roundShift (md : RMode) (m s : Nat) : Nat :=
  let q := m >>> s
  let r := m % 2 ^ s
  match md with
  | .rne => if 2 * r > 2 ^ s ∨ (2 * r = 2 ^ s ∧ q % 2 = 1) then q + 1 else q
  | .sr g => if (r * 2 ^ 16) / 2 ^ s + g ≥ 2 ^ 16 then q + 1 else q

/-- Rounds m · 2^e to a multiple of 2^q; the answer counts multiples of 2^q. -/
def roundAt (md : RMode) (m : Nat) (e q : Int) : Nat :=
  if q ≤ e then m <<< (e - q).toNat else roundShift md m (q - e).toNat

/-- The exponent of the last place when m · 2^e is kept to p bits. -/
def placeOf (p m : Nat) (e : Int) : Int := e + (natLen m : Int) - (p : Int)

/-- The pattern of a magnitude of r multiples of 2^q in a format, sign apart; r < 2^(mant+1) + 1. -/
def packMag (f : Fmt) (r : Nat) (q : Int) : Nat := ((q - f.quantum).toNat <<< f.mant) + r

/-- The sign bit of a format's pattern. -/
def signBit (f : Fmt) (neg : Bool) : Nat := b2n neg <<< (f.width - 1)

/-- One rounding to FP32 by round-to-nearest-even, subnormals kept, overflow to infinity (R117, R125). -/
def round32 : FVal → W32
  | .nan => nan32
  | .inf neg => BitVec.ofNat 32 (signBit .fp32 neg + 0x7F800000)
  | .fin neg m e =>
    if m = 0 then BitVec.ofNat 32 (signBit .fp32 neg) else
    let q := max (placeOf 24 m e) (-149)
    let mag := packMag .fp32 (roundAt .rne m e q) q
    BitVec.ofNat 32 (signBit .fp32 neg + min mag 0x7F800000)

/-- The negated value. -/
def FVal.neg : FVal → FVal
  | .nan => .nan
  | .inf s => .inf (!s)
  | .fin s m e => .fin (!s) m e

/-- The magnitude. -/
def FVal.abs : FVal → FVal
  | .nan => .nan
  | .inf _ => .inf false
  | .fin _ m e => .fin false m e

/-- The signed mantissa of a finite value at exponent e0 ≤ e. -/
def FVal.scaled (neg : Bool) (m : Nat) (e e0 : Int) : Int :=
  let v : Int := (m <<< (e - e0).toNat : Nat)
  if neg then -v else v

/-- A finite value from a signed mantissa; zero is +0. -/
def FVal.ofInt (v e : Int) : FVal := .fin (decide (v < 0)) v.natAbs e

/-- The exact sum; a zero sum is −0 only when both addends are −0 (R117). -/
def FVal.add : FVal → FVal → FVal
  | .nan, _ => .nan
  | _, .nan => .nan
  | .inf a, .inf b => if a = b then .inf a else .nan
  | .inf a, _ => .inf a
  | _, .inf b => .inf b
  | .fin a m e, .fin b n f =>
    let e0 := min e f
    let s := FVal.scaled a m e e0 + FVal.scaled b n f e0
    if s = 0 then .fin (a && b && decide (m = 0) && decide (n = 0)) 0 e0 else FVal.ofInt s e0

/-- The exact product (R117 step 1, R119). -/
def FVal.mul : FVal → FVal → FVal
  | .nan, _ => .nan
  | _, .nan => .nan
  | .inf a, .inf b => .inf (a ^^ b)
  | .inf a, .fin b n _ => if n = 0 then .nan else .inf (a ^^ b)
  | .fin a m _, .inf b => if m = 0 then .nan else .inf (a ^^ b)
  | .fin a m e, .fin b n f => .fin (a ^^ b) (m * n) (e + f)

/-- The quotient to 80 significant bits, the last one sticky. -/
def FVal.div : FVal → FVal → FVal
  | .nan, _ => .nan
  | _, .nan => .nan
  | .inf _, .inf _ => .nan
  | .inf a, .fin b _ _ => .inf (a ^^ b)
  | .fin a _ _, .inf b => .fin (a ^^ b) 0 0
  | .fin a m e, .fin b n f =>
    if n = 0 then (if m = 0 then .nan else .inf (a ^^ b)) else
    let sh := 80 + natLen n - natLen m
    let q := (m <<< sh) / n
    let sticky := if (m <<< sh) % n = 0 then 0 else 1
    .fin (a ^^ b) (2 * q + sticky) (e - f - sh - 1)

/-- Whether the value is a NaN. -/
def FVal.isNan : FVal → Bool
  | .nan => true
  | _ => false

/-- Whether the value is zero of either sign. -/
def FVal.isZero : FVal → Bool
  | .fin _ m _ => decide (m = 0)
  | _ => false

/-- The order of two values that are no NaN, −0 below +0 when `signed` is set (R66). -/
def FVal.lt (signed : Bool) : FVal → FVal → Bool
  | .nan, _ => false
  | _, .nan => false
  | .inf a, .inf b => a && !b
  | .inf a, .fin _ _ _ => a
  | .fin _ _ _, .inf b => !b
  | .fin a m e, .fin b n f =>
    let e0 := min e f
    let x := FVal.scaled a m e e0
    let y := FVal.scaled b n f e0
    if x = 0 ∧ y = 0 then signed && a && !b else decide (x < y)

/-- Equality of values, −0 equal to +0. -/
def FVal.eqv (x y : FVal) : Bool :=
  !x.isNan && !y.isNan && !(FVal.lt false x y) && !(FVal.lt false y x)

/-- FP32 sum, product and fused multiply-add, one rounding each (R125). -/
def add32 (a b : W32) : W32 := round32 ((f32 a).add (f32 b))

/-- FP32 difference. -/
def sub32 (a b : W32) : W32 := round32 ((f32 a).add (f32 b).neg)

/-- FP32 product. -/
def mul32 (a b : W32) : W32 := round32 ((f32 a).mul (f32 b))

/-- FP32 quotient by one rounding; the manual states no rounding for it (assumption log 14). -/
def div32 (a b : W32) : W32 := round32 ((f32 a).div (f32 b))

/-- a × b + c with one rounding (R125). -/
def fma32 (a b c : W32) : W32 := round32 (((f32 a).mul (f32 b)).add (f32 c))

/-- MIN of R66: with exactly one NaN the other wins, with two the word is unchanged. -/
def min32 (word opnd : W32) : W32 :=
  match f32 word, f32 opnd with
  | .nan, .nan => word
  | .nan, _ => opnd
  | _, .nan => word
  | x, y => if FVal.lt true y x then opnd else word

/-- MAX of R66. -/
def max32 (word opnd : W32) : W32 :=
  match f32 word, f32 opnd with
  | .nan, .nan => word
  | .nan, _ => opnd
  | _, .nan => word
  | x, y => if FVal.lt true x y then opnd else word

/-- Row-unit MAX: as R66, and two NaNs give the canonical NaN (R125). -/
def rowMax (a b : W32) : W32 :=
  if (f32 a).isNan && (f32 b).isNan then nan32 else max32 a b

/-- Row-unit MIN (R125). -/
def rowMin (a b : W32) : W32 :=
  if (f32 a).isNan && (f32 b).isNan then nan32 else min32 a b

/-- RMAX: the largest of a row; a row with no number gives −infinity (R125, R231). -/
def rmax (xs : List W32) : W32 := xs.foldl rowMax (xs.headD 0xFF800000)

/-- The least element of a row, as RMAX takes the greatest. -/
def rmin (xs : List W32) : W32 := xs.foldl rowMin (xs.headD 0x7F800000)

/-! ### The output converter -/

/-- What a conversion counts: NAN, SAT of ENG_NUM_COUNT (R119, R121). -/
structure Conv where
  bits : Nat
  nan : Bool
  sat : Bool
  deriving DecidableEq, Repr

/-- The largest finite pattern of a format, sign apart. -/
def Fmt.maxFinite : Fmt → Nat
  | .fp32 => 0x7F7FFFFF | .bf16 => 0x7F7F | .fp16 => 0x7BFF | .e4m3 => 0x7E
  | .e5m2 => 0x7B | .e2m1 => 0x7 | .int8 => 0x7F | .int4 => 0x7

/-- The canonical NaN pattern of R121; FP4 has none and takes +0. -/
def Fmt.nanBits : Fmt → Nat
  | .fp32 => 0x7FC00000 | .bf16 => 0x7FC0 | .fp16 => 0x7E00 | .e4m3 => 0x7F
  | .e5m2 => 0x7F | _ => 0

/-- The infinity pattern, where the format has one. -/
def Fmt.infBits : Fmt → Option Nat
  | .fp32 => some 0x7F800000 | .bf16 => some 0x7F80 | .fp16 => some 0x7C00 | .e5m2 => some 0x7C | _ => none

/-- Integer destinations of R121: rounded, limited to the format's range. -/
def convertInt (f : Fmt) (md : RMode) : FVal → Conv
  | .nan => ⟨0, true, true⟩
  | .inf neg => ⟨if neg then 2 ^ (f.width - 1) else 2 ^ (f.width - 1) - 1, false, true⟩
  | .fin neg m e =>
    let r := roundAt md m e 0
    let top := 2 ^ (f.width - 1)
    if neg then (if r > top then ⟨top, false, true⟩ else ⟨(2 * top - r) % (2 * top), false, false⟩)
    else if r ≥ top then ⟨top - 1, false, true⟩ else ⟨r, false, false⟩

/-- Floating-point destinations of R121. -/
def convertFp (f : Fmt) (md : RMode) : FVal → Conv
  | .nan => ⟨f.nanBits, true, decide (f = .e2m1)⟩
  | .inf neg =>
    match f.infBits with
    | some v => ⟨signBit f neg + v, false, false⟩
    | none => ⟨signBit f neg + f.maxFinite, false, true⟩
  | .fin neg m e =>
    if m = 0 then ⟨signBit f neg, false, false⟩ else
    let p := f.mant + 1
    let q := placeOf p m e
    let r := roundAt md m e q
    -- the rounded magnitude r · 2^q decides the column
    let big := decide (packMag f r (max q f.quantum) > f.maxFinite) && decide (q ≥ f.quantum)
    let small := decide (q + (natLen r : Int) - 1 < f.quantum + f.mant)
    if big then
      match f with
      | .bf16 => ⟨signBit f neg + 0x7F80, false, true⟩
      | .fp16 => ⟨signBit f neg + 0x7C00, false, true⟩
      | .fp32 => ⟨signBit f neg + 0x7F800000, false, false⟩
      | _ => ⟨signBit f neg + f.maxFinite, false, true⟩
    else if small then
      match f with
      | .e4m3 => ⟨signBit f neg, false, false⟩
      | .e5m2 => ⟨signBit f neg, false, false⟩
      | .e2m1 => ⟨signBit f neg, false, false⟩
      | _ => ⟨signBit f neg + packMag f (roundAt md m e f.quantum) f.quantum, false, false⟩
    else if q < f.quantum then ⟨signBit f neg + packMag f (r / 2) f.quantum, false, false⟩
    else ⟨signBit f neg + packMag f r q, false, false⟩

/-- The output converter of R121 on an exact value. -/
def convert (f : Fmt) (md : RMode) (v : FVal) : Conv :=
  if f.isInt then convertInt f md v else convertFp f md v

/-- Conversion of an FP32 pattern; an FP32 destination copies it, NaN canonical (R121). -/
def convert32 (f : Fmt) (md : RMode) (w : W32) : Conv :=
  match f with
  | .fp32 => if (f32 w).isNan then ⟨nan32.toNat, true, false⟩ else ⟨w.toNat, false, false⟩
  | _ => convert f md (f32 w)

/-- emax of R122. -/
def Fmt.emax : Fmt → Int
  | .e2m1 => 2 | .e4m3 => 8 | .e5m2 => 15 | _ => 0

/-- ⌊log2 of the largest magnitude⌋ of finite values; none when all are zero. -/
def blockLog (vs : List FVal) : Option Int :=
  vs.foldl (fun a v =>
    match v with
    | .fin _ m e =>
      if m = 0 then a else
      let l := e + (natLen m : Int) - 1
      match a with
      | none => some l
      | some k => some (max k l)
    | _ => a) none

/-- Whether a block holds a NaN or an infinity (R122). -/
def blockBad (vs : List FVal) : Bool :=
  vs.any fun v => match v with
    | .fin _ _ _ => false
    | _ => true

/-- The E8M0 scale of a block of values (R122). -/
def blockScale (f : Fmt) (vs : List FVal) : Nat :=
  if blockBad vs then 0xFF else
  match blockLog vs with
  | none => 0
  | some l => (min (max (l - f.emax) (-127)) 127 + 127).toNat

/-- The value times 2^k. -/
def FVal.shift (k : Int) : FVal → FVal
  | .nan => .nan
  | .inf s => .inf s
  | .fin s m e => .fin s m (e + k)

/-- A scaled element: v times 2^-X for scale byte X + 127, or 0 under scale 0xFF (R122). -/
def convertScaled (f : Fmt) (md : RMode) (scale : Nat) (v : FVal) : Conv :=
  if scale = 0xFF then ⟨0, v.isNan, false⟩ else convert f md (v.shift (127 - (scale : Int)))

/-! ### Stochastic rounding: the lane generators of R123 -/

/-- One step of a lane's Galois LFSR. -/
def lfsrStep (s : W32) : W32 := if s.getLsbD 0 then (s >>> 1) ^^^ 0x80200003 else s >>> 1

/-- The seeded state of lane i. -/
def lfsrSeed (seed : W32) (i : Nat) : W32 :=
  let v := seed ^^^ BitVec.ofNat 32 (i * 0x9E3779B9)
  if v = 0 then 1 else v

/-! ### Functions given by a bound -/

/-- A value moved by at most `num`/2^`den` of itself: the step of a free choice. -/
def FVal.perturb (num den choice : Nat) : FVal → FVal
  | .fin s m e =>
    let k : Int := (choice % 2001 : Nat) - 1000
    FVal.ofInt (FVal.scaled s (m * (1000 * 2 ^ den)) e e + FVal.scaled s m e e * k * num) e
      |> fun v => match v with
        | .fin s' m' e' => .fin s' (m' * 2 ^ 80 / 1000) (e' - den - 80)
        | w => w
  | v => v

/-- 2^f · 2^96 for f/2^96 in [0, 1): the series of e^(f ln 2), k terms from the last. -/
def exp2Series : Nat → Nat → Nat
  | 0, _ => 2 ^ 96
  | k + 1, x => 2 ^ 96 + x * exp2SeriesNext k x 2 / 2 ^ 96
where
  /-- The inner sum 1 + x/j (1 + x/(j+1) (…)) in units of 2^-96. -/
  exp2SeriesNext : Nat → Nat → Nat → Nat
    | 0, _, _ => 2 ^ 96
    | k + 1, x, j => 2 ^ 96 + x * exp2SeriesNext k x (j + 1) / 2 ^ 96 / j

/-- ⌊log2 e · 2^96⌋. -/
def log2e96 : Int := 114302077158074026402637675936

/-- ⌊ln 2 · 2^96⌋. -/
def ln2At96 : Nat := 54916777467707473351141471128

/-- e^x of a finite value with a relative error below 2^-64, for |x| below 2^12. -/
def expFin (neg : Bool) (m : Nat) (e : Int) : FVal :=
  -- x · log2 e in units of 2^-96
  let p : Int := (if neg then -(m : Int) else m) * log2e96
  let y : Int := if 0 ≤ e then p * (2 ^ e.toNat : Nat) else p / (2 ^ (-e).toNat : Nat)
  let n := y / (2 ^ 96 : Nat)
  let f := (y % (2 ^ 96 : Nat)).toNat
  .fin false (exp2Series 28 (f * ln2At96 / 2 ^ 96)) (n - 96)

/-- Whether a finite magnitude is at least the integer k. -/
def magGe (m : Nat) (e : Int) (k : Nat) : Bool := FVal.lt false (.fin false m e) (.fin false k 0) == false

/-- EXP of R127, with a relative error of at most 2^-b. -/
def expWithin (b k : Nat) (x : W32) : W32 :=
  match f32 x with
  | .nan => nan32
  | .inf neg => if neg then 0 else 0x7F800000
  | .fin neg m e =>
    -- 88.72 = 8872/100: x > 88.72 gives +infinity
    if !neg && FVal.lt false (.fin false 8872 0) (.fin false (m * 100) e) then 0x7F800000
    else if neg && magGe m e 104 then 0
    else
      let v := (expFin neg m e).perturb 1 b (Config.expErr k x.toNat)
      -- below 2^-149 the result is +0
      if FVal.lt false v (.fin false 1 (-149)) then 0 else round32 v

/-- EXP of R127. -/
def exp32 : Nat → W32 → W32 := expWithin 10

/-- RCP of R125. -/
def rcp32 (k : Nat) (x : W32) : W32 :=
  match f32 x with
  | .nan => nan32
  | .inf neg => BitVec.ofNat 32 (signBit .fp32 neg)
  | .fin neg m e =>
    if m = 0 then BitVec.ofNat 32 (signBit .fp32 neg + 0x7F800000)
    else round32 ((FVal.div (.fin false 1 0) (.fin neg m e)).perturb 1 22 (Config.rcpErr k x.toNat))

/-- 1/√x of a positive finite value, to 64 significant bits. -/
def rsqrtFin (m : Nat) (e : Int) : FVal :=
  -- an even exponent, then √(m · 2^160) in units of 2^-80
  let m' := if e % 2 = 0 then m else 2 * m
  let e' := if e % 2 = 0 then e else e - 1
  FVal.div (.fin false 1 0) (.fin false (Nat.sqrt (m' <<< 160)) (e' / 2 - 80))

/-- RSQRT of R125: of a negative number it is NaN. RSQRT of ±0 is ±infinity (R231 gives it for +0). -/
def rsqrt32 (k : Nat) (x : W32) : W32 :=
  match f32 x with
  | .nan => nan32
  | .inf neg => if neg then nan32 else 0
  | .fin neg m e =>
    if m = 0 then BitVec.ofNat 32 (signBit .fp32 neg + 0x7F800000)
    else if neg then nan32
    else round32 ((rsqrtFin m e).perturb 1 22 (Config.rcpErr k x.toNat))

/-- An absolute error of at most 1/128, by a free choice; one part in 1,000 is kept for the rounding. -/
def gateMove (k fn : Nat) (x : W32) (v : FVal) : FVal :=
  let err : Int := (Config.gateErr k fn x.toNat % 1999 : Nat) - 999
  v.add (.fin (decide (err < 0)) (err.natAbs * 2 ^ 60 / 1000) (-67))

/-- 1 − v. -/
def oneMinus (v : FVal) : FVal := (FVal.fin false 1 0).add v.neg

/-- The sigmoid's table value on [0, 8). -/
def sigMag (k : Nat) (x : W32) (m : Nat) (e : Int) : FVal :=
  gateMove k 0 x (FVal.div (.fin false 1 0) ((FVal.fin false 1 0).add (expFin true m e)))

/-- Sigmoid of R126. -/
def sig32 (k : Nat) (x : W32) : W32 :=
  match f32 x with
  | .nan => nan32
  | .inf neg => if neg then 0 else 0x3F800000
  | .fin neg m e =>
    if magGe m e 8 then (if neg then 0 else 0x3F800000)
    else
      let v := sigMag k (x &&& 0x7FFFFFFF) m e
      round32 (if neg && decide (m ≠ 0) then oneMinus v else v)

/-- Hyperbolic tangent of R126. -/
def tanh32 (k : Nat) (x : W32) : W32 :=
  match f32 x with
  | .nan => nan32
  | .inf neg => if neg then 0xBF800000 else 0x3F800000
  | .fin neg m e =>
    if magGe m e 4 then (if neg then 0xBF800000 else 0x3F800000)
    else
      let q := expFin true (2 * m) e
      let v := gateMove k 1 (x &&& 0x7FFFFFFF) (FVal.div (oneMinus q) ((FVal.fin false 1 0).add q))
      round32 (if neg && decide (m ≠ 0) then v.neg else v)

/-- SiLU of R126. -/
def silu32 (k : Nat) (x : W32) : W32 :=
  match f32 x with
  | .nan => nan32
  | .inf neg => if neg then 0 else 0x7F800000
  | .fin neg m e =>
    if magGe m e 8 then (if neg then 0 else x)
    else
      let a := FVal.fin false m e
      let v := gateMove k 2 (x &&& 0x7FFFFFFF)
        (a.mul (FVal.div (.fin false 1 0) ((FVal.fin false 1 0).add (expFin true m e))))
      round32 (if neg && decide (m ≠ 0) then v.add a.neg else v)

/-- The sum of values as RSUM may leave it before its last rounding: within (⌈n / 256⌉ + 7) × 2^-24 × Σ|x| of the exact sum
(R125). `key` names the addends. -/
def rsumVals (k : Nat) (key : List Nat) (vs : List FVal) : FVal :=
  match vs.foldl (fun a x => a.add x.abs) (FVal.fin false 0 0), vs.foldl FVal.add (.fin false 0 0) with
  | .fin _ m e, .fin s v f =>
    let part : Int := (Config.rsumErr k key % 2001 : Nat) - 1000
    let err := FVal.fin (decide (part < 0)) (m * (ceilDiv vs.length 256 + 7) * (part.natAbs * 2 ^ 60 / 1000)) (e - 84)
    (FVal.fin s v f).add err
  | _, v => v

/-- RSUM of R125: within (⌈n / 256⌉ + 8) × 2^-24 × Σ|x| of the exact sum. -/
def rsum (k : Nat) (xs : List W32) : W32 := round32 (rsumVals k (xs.map (·.toNat)) (xs.map f32))

/-- The mean of a row's values, with the bound of RSUM (R226, R232). -/
def rmean (k : Nat) (key : List Nat) (vs : List FVal) : W32 := round32 ((rsumVals k key vs).div (.fin false vs.length 0))

/-- A formula's element inside a relative bound of 5 × 2^-24 before its rounding, 6 × 2^-24 after it (R232). -/
def elem32 (k : Nat) (v : FVal) (key : List Nat) : W32 := round32 (v.perturb 5 24 (Config.elemErr k key))

/-- The inverse hyperbolic tangent z + z³ / 3 + …, z in units of 2^-96: n terms of the 32, `p` the power of z reached. -/
def atanhSeries (z : Nat) : Nat → Nat → Nat
  | 0, _ => 0
  | n + 1, p => p / (2 * (31 - n) + 1) + atanhSeries z n (p * z / 2 ^ 96 * z / 2 ^ 96)

/-- The natural logarithm of a positive finite value, in units of 2^-96. -/
def lnFin (m : Nat) (e : Int) : Int :=
  let top := Nat.log2 m
  let x := m * 2 ^ 96 / 2 ^ top
  let z := (x - 2 ^ 96) * 2 ^ 96 / (x + 2 ^ 96)
  (e + top) * ln2At96 + 2 * (atanhSeries z 32 z : Nat)

/-- ln of the softmax sum (R281): the manual gives it no bound, and the model lets it miss by up to 2^-8 (assumption log 9). -/
def ln32 (k : Nat) (x : W32) : W32 :=
  match f32 x with
  | .nan => nan32
  | .inf neg => if neg then nan32 else 0x7F800000
  | .fin neg m e =>
    if m = 0 then 0xFF800000
    else if neg then nan32
    else
      let err : Int := (Config.lnErr k x.toNat % 2001 : Nat) - 1000
      round32 (FVal.ofInt (lnFin m e + err * (2 ^ 88 / 1000 : Nat)) (-96))

end Sys2Proof.Machine
end

