-- ==== Sys2Proof/Machine/Parts.lean ====
section
/-! DEFINITION. The parts of the machine's state: the tick block, the memory tiers, the engines, their queues and open
macro-ops, and the contexts. Every field's default is its value after reset. -/

namespace Sys2Proof.Machine

/-! ### The tick block -/

/-- The phase states of R44. -/
inductive PhState
  | idle | waiting | running | overrun | done | doneLate | late | faulted | truncated | skipped | disabled
  deriving DecidableEq, Repr

/-- The code of a phase state. -/
def PhState.code : PhState → Nat
  | .idle => 0 | .waiting => 1 | .running => 2 | .overrun => 3 | .done => 4 | .doneLate => 5 | .late => 6
  | .faulted => 7 | .truncated => 8 | .skipped => 9 | .disabled => 10

/-- The final states of R34. -/
def PhState.final : PhState → Bool
  | .done => true | .doneLate => true | .truncated => true | .faulted => true | .skipped => true
  | _ => false

/-- The states in which a phase's work runs: RUNNING, OVERRUN and LATE (R81, R373). -/
def PhState.active : PhState → Bool
  | .running => true | .overrun => true | .late => true
  | _ => false

/-- A phase entry of a tick plan (R32). -/
structure PhaseDef where
  cls : Nat := 0
  name : Nat := 0
  part : Nat := 0
  flags : Nat := 0
  pred : Nat := 0
  start : Nat := 0
  budget : Nat := 0
  allow : Nat := 0
  engines : Nat := 0
  pntRate : Nat := 0
  celRate : Nat := 0
  clients : Nat := 0
  entry : Nat := 0
  deriving DecidableEq, Repr

/-- A tick plan in the plan store (R31). -/
structure Plan where
  period : Nat := 0
  seq : Nat := 0
  phases : List PhaseDef := []
  deriving DecidableEq, Repr

/-- What the tick block keeps of a phase in the current tick. -/
structure PhaseRun where
  state : PhState := .disabled
  /-- actual start and end, µs after the boundary of the phase's tick -/
  started : Option Nat := none
  ended : Option Nat := none
  /-- macro-ops of the phase that have committed (R49) -/
  committed : Nat := 0
  /-- TCK_COUNT of the tick that owns the phase, and its boundary -/
  tick : Nat := 0
  origin : Nat := 0
  /-- a missed deadline whose aborted macro-ops have not all ended (R46), and those macro-ops: engine, context and ISSUE -/
  ending : Bool := false
  owed : List (Nat × Nat × Nat) := []
  /-- a carried LATE phase has missed its deadline of the new tick (R36, R45) -/
  missed : Bool := false
  deriving DecidableEq, Repr

/-- The tick block (R25 to R54). Times are ACLK cycles. -/
structure Tick where
  /-- boundaries fall -/
  on : Bool := false
  /-- a boundary has fallen since ENABLE was set: TCK_COUNT names a tick -/
  placed : Bool := false
  boundary : Nat := 0
  /-- when the next boundary falls; none while a receiving module waits for a tick packet -/
  next : Option Nat := none
  gap : Bool := false
  realign : Bool := false
  srcReq : Option Nat := none
  /-- last correction of the timer frequency, in cycles per period (R26, R27) -/
  corr : Int := 0
  /-- last sign of life of PTP (Sync) and of the fabric (tick packet), cycle + 1; 0: none yet -/
  heardPtp : Nat := 0
  heardFab : Nat := 0
  /-- TCK_COUNT of the last tick packet accepted (R428) -/
  fabSeen : Option Nat := none
  lostAt : Option Nat := none
  /-- F_TICK_SOURCE has been raised for the holdover limit (R27) -/
  limitPassed : Bool := false
  /-- the source came back more than 10 ms away: the local timeline stands until REALIGN (R28) -/
  stayLocal : Bool := false
  plan : Option Plan := none
  pending : Option Plan := none
  pendingAt : Nat := 0
  runs : List PhaseRun := List.replicate 16 {}
  /-- background time used in the current tick, µs (R54) -/
  bgUsed : Nat := 0
  /-- TICK_OUT is high since this cycle (R507) -/
  outHigh : Option Nat := none
  deriving DecidableEq, Repr

/-! ### Memory tiers -/

/-- The atomics of R66. -/
inductive AtomOp
  | fadd | min | max | and | or | xor | swap | cas | cnt2
  deriving DecidableEq, Repr

/-- The reductions of R68, and the masked byte write of an inbound message (R420). -/
inductive RedOp
  | addFp32 | addBf16 | addInt32 | maxFp32 | minFp32 | setByte
  deriving DecidableEq, Repr

/-- An atomic: its operand and, for CAS and CNT2, the compare value and the two deltas. -/
structure AtomReq where
  op : AtomOp
  ty : AtomType
  opnd : Nat := 0
  cmp : Nat := 0
  dPin : Int := 0
  dRef : Int := 0
  deriving DecidableEq, Repr

/-- What a request does at its home slice or tier. -/
inductive MemAct
  | read
  | write (data : List Byte)
  | atom (a : AtomReq)
  | red (op : RedOp) (mask : Nat) (data : List Byte)
  deriving DecidableEq, Repr

/-- A request held or unanswered at a tier, its arrival and admission. `pkt` is the packet that carried it, with its
link, when it came from another module or from the companion. -/
structure Waiting where
  req : MemReq
  act : MemAct := .read
  errs : List SymErr := []
  late : Bool := false
  arrived : Nat := 0
  admitted : Option Nat := none
  pkt : Option (Nat × Packet) := none
  /-- charged to no partition (R80, R367) -/
  noPart : Bool := false
  /-- a write of the ingest block, the decoder pool or the Aligner: nothing awaits its answer -/
  quiet : Bool := false
  deriving DecidableEq, Repr

/-- One DRAM tier's controller state. -/
structure TierSt where
  /-- bucket levels of the eight regulators, bytes (R80) -/
  buckets : List Int := [0, 0, 0, 0, 0, 0, 0, 0]
  /-- when each bucket was last refilled -/
  refilled : List Nat := [0, 0, 0, 0, 0, 0, 0, 0]
  /-- UE and timeout events: channel and time, newest first (R88) -/
  events : List (Nat × Nat) := []
  failed : List Nat := []
  /-- the dead units in force: those of the last map-out (R95), ascending -/
  dead : List Nat := []
  /-- channels paused for calibration, with the cycle the pause began (R93) -/
  paused : List (Nat × Nat) := []
  /-- units whose bank is being refreshed, until when -/
  refreshing : List (Nat × Nat) := []
  /-- units scrubbed in the current floor interval (R92) -/
  scrubbed : List Nat := []
  /-- when that interval began -/
  floorAt : Nat := 0
  /-- granules scrubbed in the current pass -/
  passDone : Nat := 0
  waiting : List Waiting := []
  deriving DecidableEq, Repr

/-! ### Links -/

/-- A packet that waits to be sent, with the input buffer it occupies: link, VC, pool and flits. -/
structure Queued where
  pkt : Packet
  buf : Option (Nat × Nat × Bool × Nat) := none
  deriving DecidableEq, Repr

/-- One link: X0 to X7, and Dulis as link 8 (R394 to R398, R409). -/
structure LinkSt where
  /-- SEQ of the last packet sent, and of the last received good -/
  tx : Nat := 4095
  rx : Nat := 4095
  unacked : List Packet := []
  queue : List Queued := []
  /-- credits for the nine virtual channels, and shared ones -/
  dedicated : List Nat := [0, 0, 0, 0, 0, 0, 0, 0, 0]
  pooled : Nat := 0
  /-- credits owed to the neighbour: dedicated by VC, then shared by VC -/
  owed : List Nat := List.replicate 18 0
  /-- lanes in use -/
  lanes : Nat := 0
  /-- the neighbour check of R401 has passed -/
  matched : Bool := false
  /-- uncorrectable codewords of the last 1 ms: lane, cycle and count (R397) -/
  bad : List (Nat × Nat × Nat) := []
  /-- the input served last in each class: a link, or 9 for packets made here (R410) -/
  served : List Nat := [9, 9, 9]
  deriving DecidableEq, Repr

/-! ### Attic sectors in Larder (R422) -/

/-- The state of an Attic sector. -/
inductive AtticState
  | i | s | e
  deriving DecidableEq, Repr

/-- An Attic sector: its state, the read outstanding for it (tag, RD_OWN, cycle) and the code of a failed read that no
request has met yet. -/
structure AtticSec where
  st : AtticState := .i
  req : Option (Nat × Bool × Nat) := none
  err : Nat := 0
  deriving DecidableEq, Repr

/-- An atomic or reduction that waits for its Attic sector in E. -/
structure AtticAtom where
  who : Requester
  da : Nat
  act : MemAct
  deriving DecidableEq, Repr

/-- An Attic write that the companion has not acknowledged: tag, DA, cycle, and the macro-op that made it. -/
structure AtticWrite where
  tag : Nat
  da : Nat
  since : Nat
  op : Option (Nat × Nat × Nat) := none
  /-- the request that made it, when no macro-op did -/
  who : Option Waiting := none
  deriving DecidableEq, Repr

/-- The Attic side of Larder and Dulis. -/
structure AtticSt where
  /-- by sector number from the start of the window -/
  secs : List (Nat × AtticSec) := []
  reads : List Waiting := []
  atoms : List AtticAtom := []
  writes : List AtticWrite := []
  tag : Nat := 0
  /-- inbound requests refused (R426) -/
  refused : Nat := 0
  deriving DecidableEq, Repr

/-! ### Queues and open macro-ops -/

/-- ENG_Q_STATE.STATE. -/
inductive QState
  | disabled | idle | running | waiting | halted
  deriving DecidableEq, Repr

/-- The code of a queue state. -/
def QState.code : QState → Nat
  | .disabled => 0 | .idle => 1 | .running => 2 | .waiting => 3 | .halted => 4

/-- ENG_Q_STATE.HALT_CAUSE. -/
inductive HaltCause
  | none | aborted | faulted | queueSeq | fetchError
  deriving DecidableEq, Repr

/-- The code of a halt cause. -/
def HaltCause.code : HaltCause → Nat
  | .none => 0 | .aborted => 1 | .faulted => 2 | .queueSeq => 3 | .fetchError => 4

/-- A level of the level stack: a list in memory, or the descriptors a routine emitted (R170, R177). -/
structure Level where
  da : Nat := 0
  count : Nat := 0
  pos : Nat := 0
  emitted : List (List Nat) := []
  deriving DecidableEq, Repr

/-- An entry fetched from the ring, a list, the templates or the emitted descriptors. -/
structure Entry where
  desc : List Nat
  da : Nat := 0
  level : Nat := 0
  index : Nat := 0
  deriving DecidableEq, Repr

/-- A fault that a macro-op will end with: code number, ADDR and INFO (R180). -/
structure OpFault where
  code : Nat
  addr : Nat := 0
  info : Nat := 0
  deriving DecidableEq, Repr

/-- A source operand: its Shelf blocks with the generation expected of them, and its byte ranges. -/
structure Source where
  blocks : List Nat := []
  gen : Nat := 0
  ranges : List (Nat × Nat) := []
  deriving DecidableEq, Repr

/-- A unit of a macro-op's work, such as a row or a query block: made when `due` step boundaries have passed. It reads the Shelf
blocks of `srcs`, writes the Shelf blocks `blocks`, and leaves the byte ranges `keep` final (R163 to R165, R284). -/
structure WorkUnit where
  due : Nat := 0
  srcs : List Source := []
  blocks : List Nat := []
  keep : List (Nat × Nat) := []
  deriving DecidableEq, Repr

/-- A value on its way to element (r, c) of D, and how it is rounded. -/
structure OutCell where
  r : Nat
  c : Nat
  v : FVal
  md : RMode
  deriving DecidableEq, Repr

/-- Where an attention macro-op stands: sequence, first row of the query block, key blocks of it done, and the pages of the sequence it
has pinned, by block-table index, with their DAs and headers. -/
structure AttnPos where
  seq : Nat := 0
  row : Nat := 0
  kb : Nat := 0
  /-- the sequence's checks have passed, and its SLOTS -/
  slots : Option Nat := none
  pages : List (Nat × Nat × List Byte) := []
  deriving DecidableEq, Repr

/-- An open macro-op. -/
structure OpenOp where
  desc : List Nat
  level : Nat := 0
  index : Nat := 0
  issue : Nat := 0
  /-- the tensor-table entries A, B, C and D as read at issue (R155) -/
  entries : List (List Byte) := []
  issuedAt : Nat := 0
  /-- step boundaries passed, and how many the macro-op has (0: not counted in advance) -/
  steps : Nat := 0
  stepsTotal : Nat := 0
  /-- output tiles or units of work done, and tiles in all -/
  tile : Nat := 0
  tiles : Nat := 0
  /-- the units of work not yet done -/
  units : List WorkUnit := []
  /-- the tile that accumulates, its accumulator entries, row-major, and its bank -/
  cur : Nat := 0
  acc : List W32 := []
  bank : Nat := 0
  /-- finished tiles whose banks wait for the writeback buffer, oldest first, and the tile in the buffer (R112, R219) -/
  full : List (Nat × List W32) := []
  wbuf : Option (Nat × List W32) := none
  /-- results whose scale block has values to come (R122, R215) -/
  held : List OutCell := []
  /-- where an attention macro-op stands -/
  pos : AttnPos := {}
  /-- the Shelf blocks claimed, those not yet written in full, those whose tag was DST_GEN before the claim, and those written to
  (R163, R165, R166) -/
  claimed : List Nat := []
  claims : List Nat := []
  sameGen : List Nat := []
  touched : List Nat := []
  /-- bytes that the regulators hold back: tier and count (R80) -/
  heldBytes : List (Tier × Nat) := []
  part : Nat := 0
  /-- destination byte ranges (address, length), for an abort or fault, those of them already final, and destination ranges in Keeper
  data memory (offset, length) -/
  dst : List (Nat × Nat) := []
  final : List (Nat × Nat) := []
  kdst : List (Nat × Nat) := []
  /-- it has been stopped, aborted (none) or by a fault, and releases its remote pins before its record is posted (R274) -/
  stop : Option (Option OpFault) := none
  /-- every write has been made, so that the macro-op can commit -/
  finished : Bool := false
  abort : Bool := false
  fault : Option OpFault := none
  stalled : Bool := false
  concealed : Bool := false
  /-- INFO of a COMPLETED record -/
  info : Nat := 0
  /-- reductions that the macro-op makes at its end: address and FP32 addend (R229) -/
  atEnd : List (Nat × W32) := []
  /-- what the row unit keeps of the rows so far: the addends of column sums (R229), of a reduction (R172), a summary (R252) -/
  sums : List (List W32) := []
  /-- page pins held: pool header DA and page number (R273, R274) -/
  pins : List (Nat × Nat) := []
  /-- what the accesses of a GATHER with remote operands have answered so far, in its own order (R412) -/
  log : List (List Byte) := []
  /-- bytes or items of a remote transfer whose requests have been made (R412) -/
  asked : Nat := 0
  /-- the phase whose plan bound the context at issue -/
  phase : Option Nat := none
  deriving DecidableEq, Repr

/-- One queue of an engine. -/
structure QueueSt where
  state : QState := .disabled
  cause : HaltCause := .none
  /-- ENABLE was cleared and open macro-ops remain (R186) -/
  stopping : Bool := false
  head : Nat := 0
  /-- the last TAIL that passed its check, and the last one read (R147, R148) -/
  tail : Nat := 0
  seen : Nat := 0
  /-- sequence number of the next ring entry to fetch -/
  next : Nat := 0
  issue : Nat := 0
  lastIssue : Nat := 0
  fetched : List Entry := []
  stack : List Level := []
  fifo : List Nat := []
  /-- the trigger argument whose templates are being issued, and the next template -/
  arg : Option Nat := none
  tmpl : Nat := 0
  ops : List OpenOp := []
  /-- ring entries that have retired ahead of HEAD (R148) -/
  retired : List Nat := []
  /-- HEAD's advances since the last status-line write (R149) -/
  mirrored : Nat := 0
  issuedAt : Nat := 0
  recordAt : Nat := 0
  /-- the last macro-op issued had a DA destination (R160) -/
  lastDa : Bool := false
  /-- enabled or reset: the next TAIL read becomes HEAD (R185) -/
  fresh : Bool := false
  /-- the cycle of the last abort request that reached the queue, and the entry that stood next (R184) -/
  abortedAt : Option (Nat × Entry) := none
  /-- halt after the open macro-ops: an entry rewritten after issue, or a fetch error (R147, R519) -/
  haltAfter : Option HaltCause := none
  deriving DecidableEq, Repr

/-- A Keeper routine in progress (R174 to R177). -/
structure Routine where
  q : Nat
  maxCycles : Nat
  startedAt : Nat
  /-- where the core is, and its registers x0 to x31 -/
  pc : Word
  regs : List Word
  /-- a cycle that the core is known to have reached -/
  seen : Nat
  emitted : List (List Nat) := []
  deriving DecidableEq, Repr

/-- The machine CSRs of a Keeper core (R175); mcycle is kept as what it is ahead of the cycle count. -/
structure KeeperCsr where
  cycleOfs : Word := 0
  instret : Word := 0
  cause : Word := 0
  epc : Word := 0
  tval : Word := 0
  deriving DecidableEq, Repr

/-! ### Engines -/

/-- ENG_HOLD_STATUS.STATE. -/
inductive RampState
  | idle | rampUp | active | rampDown
  deriving DecidableEq, Repr

/-- The code of a ramp state. -/
def RampState.code : RampState → Nat
  | .idle => 0 | .rampUp => 1 | .active => 2 | .rampDown => 3

/-- The stationary W_in: the context that loaded it and its slot, its table index, generation and BASE, and its elements,
row-major (R105, R245). -/
structure Station where
  ctx : Nat
  slot : Nat
  td : Nat
  gen : Nat
  base : Nat
  elems : List Nat
  deriving DecidableEq, Repr

/-- What an engine holds beyond its registers and queues. -/
structure EngineSt where
  ramp : RampState := .idle
  /-- duty step of a ramp, 0 to 3 for 1/8, 3/8, 5/8, 7/8 (R136), and the cycle in which it began -/
  rampStep : Nat := 0
  rampAt : Nat := 0
  /-- the ramp that a ramp-down which began in cycle `rampAt` left, and its own `rampAt` (R138) -/
  prior : Option (RampState × Nat) := none
  /-- the arrays have real work, and the cycle of the last real issue (R135) -/
  working : Bool := false
  lastReal : Nat := 0
  /-- eighths of a holding cycle not yet counted -/
  heldPart : Nat := 0
  /-- ENG_HOLD_CTRL in force (R138) -/
  hold : Nat := 0x4000001
  /-- the issue-duty cap in eighths, and the caps of throttling, droop and the power limit it moves to (R139) -/
  duty : Nat := 8
  /-- the cycle of the duty cap's last change -/
  dutyAt : Nat := 0
  capThermal : Nat := 8
  capDroop : Nat := 8
  capPower : Nat := 8
  gateClosed : Bool := false
  reseed : Bool := false
  /-- the 256 lane generators; empty until the first seeding (R123) -/
  lanes : List W32 := []
  injResidue : Bool := false
  injParity : Bool := false
  /-- W_in in the feeder stores (R245) -/
  station : Option Station := none
  routine : Option Routine := none
  csr : KeeperCsr := {}
  activeBank : Nat := 0
  swapPending : Bool := false
  /-- a fence point has passed while a routine ran: the swap waits for its return (R179) -/
  swapAtReturn : Bool := false
  deriving DecidableEq, Repr

/-! ### Contexts -/

/-- Where a context is (R373). RUNNING, READY and BLOCKED are resident; the two SWAPPED states are swapped. -/
inductive CtxPlace
  | free | resident | swapped | saving | restoring | withdrawn
  deriving DecidableEq, Repr

/-- What a remote request's answer is for (R412). -/
inductive RemoteKind
  /-- GET into memory or Shelf -/
  | get
  /-- GET into Keeper data -/
  | keeper
  /-- PUT or RED -/
  | put
  /-- the atomic of a SIGNAL -/
  | signal
  /-- access i of a GATHER -/
  | step (i : Nat)
  deriving DecidableEq, Repr

/-- A remote request of a context (R379). -/
structure RemoteTag where
  tag : Nat
  da : Nat
  /-- where the data goes: a DA, or an offset in the context's Keeper data slot -/
  dst : Nat
  len : Nat
  issuedAt : Nat
  /-- the ISSUE of the macro-op -/
  issue : Nat
  kind : RemoteKind
  deriving DecidableEq, Repr

/-- What the landing buffer holds for a tag (R379). -/
structure Landed where
  tag : RemoteTag
  data : List Byte
  deriving DecidableEq, Repr

/-- A job step being run by a POOLED context (R387). -/
structure JobRun where
  client : Nat
  prio : Nat
  phase : Nat
  hasDone : Bool
  failed : Bool := false
  deriving DecidableEq, Repr

/-- A context of an engine. -/
structure Ctx where
  cfg : Nat := 0
  qCfg : Nat := 0x100040400
  qBase : Nat := 0
  qTail : Nat := 0
  qStatus : Nat := 0
  qComp : Nat := 0
  place : CtxPlace := .free
  slot : Nat := 0
  running : Bool := false
  accSaved : Bool := false
  /-- the queue and the Keeper data slot while the context is in Hatch -/
  saved : Option QueueSt := none
  savedData : List (Nat × Byte) := []
  heldAt : Nat := 0
  since : Nat := 0
  /-- the cycle in which it last left the engine (R391) -/
  leftAt : Option Nat := none
  blockedAt : Nat := 0
  readyAt : Nat := 0
  blocked : Bool := true
  tags : List RemoteTag := []
  landing : List Landed := []
  /-- error of a remote request, taken when the context next holds the engine (R380) -/
  remoteErr : Option OpFault := none
  /-- the ISSUE of the macro-op that the error ends -/
  errIssue : Nat := 0
  lost : Option Nat := none
  job : Option JobRun := none
  /-- job steps placed after it on the context's ring -/
  later : List JobRun := []
  /-- the stand-in conditions of R373 hold -/
  standin : Bool := false
  deriving DecidableEq, Repr

/-! ### Faults -/

/-- What the fault-record block keeps beside its registers. -/
structure FltSt where
  seq : Nat := 0
  /-- records were lost since the last one written to the ring (R454) -/
  lossy : Bool := false
  /-- last CORRECTED record of each code and unit: key code × 65,536 + unit, cycle + 1 (R453) -/
  corrected : List (Nat × Nat) := []
  /-- records admitted to the NOR log and not yet programmed, oldest first (R460) -/
  norQueue : List (List Byte) := []
  /-- admission tokens, in eighths of a record (R461) -/
  norTokens : Nat := 512
  /-- when the bucket last gained a token -/
  norTokensAt : Nat := 0
  /-- check failures of units: BLOCK × 65,536 + unit, and time, newest first (R436) -/
  checks : List (Nat × Nat) := []
  /-- the last record of a rejected Ketric request, cycle + 1 (R414) -/
  rejectedAt : Nat := 0
  /-- the cycle in which the last record counts as detected, and its BLOCK × 65,536 + unit (R453) -/
  posted : Nat × Nat := (0, 0)
  deriving DecidableEq, Repr

/-- The limits a PARTITION record sets: the clients and up to four regions (R472). -/
structure PartLimits where
  clients : Nat := 0
  regions : List (Nat × Nat) := []
  deriving DecidableEq, Repr

/-- The PTP client's clock: its offset from the local timeline once it has locked (R322). -/
structure PtpClock where
  everLocked : Bool := false
  offset : Int := 0
  deriving DecidableEq, Repr

/-- What the loader keeps of a bundle it has installed: PLAN_SEQ, the regions it may write, its queues (engine, queue, MODE,
DA and count of the LIST) and the engines whose Keeper code it brings (R207, R209). -/
structure Installed where
  seq : Nat
  writes : List (Nat × Nat)
  places : List (Nat × Nat × Nat × Nat × Nat)
  keepers : List Nat
  deriving DecidableEq, Repr

/-- The bundles of a partition: the one that runs, and the one installed for a coming boundary. -/
structure BundleSt where
  live : Option Installed := none
  next : Option Installed := none
  /-- placements of `live` whose queues were not DISABLED yet -/
  due : List (Nat × Nat × Nat × Nat × Nat) := []
  deriving DecidableEq, Repr

/-- What leaves the block. -/
inductive Output
  /-- the answer of a memory request: fault code 0 and the data, or a code -/
  | memAnswer (id : Nat) (who : Requester) (code : Nat) (data : List Byte)
  /-- the old value an atomic returns, with ZERO of CNT2 (R66) -/
  | atomAnswer (who : Requester) (da old : Nat) (zero : Bool)
  | atomRefused (who : Requester) (da code : Nat)
  /-- what a register read returns -/
  | regValue (ag : Agent) (da : Nat) (value : Word)
  /-- what a sideband transaction returns: status and value (R504) -/
  | sideband (status : Nat) (value : Word)
  /-- a UDP datagram sent on port Nn: the destination's MAC and IP address, the UDP ports, DSCP and TTL or hop limit (R363) -/
  | datagram (port mac : Nat) (ipv6 : Bool) (ip sport dport dscp ttl : Nat) (payload : List Byte)
  /-- a Delay_Req sent on port Nn (R321) -/
  | delayReq (port seq : Nat)
  /-- a packet on link X0 to X7 or Dulis (8) -/
  | packet (link : Nat) (p : Packet)
  deriving DecidableEq, Repr

end Sys2Proof.Machine
end

