-- ==== Sys2Proof/Machine/Tab.lean ====
section
/-! DEFINITION. Sparse tables in one canonical form: keys strictly rising, and no entry equal to what an
unlisted key reads as. Equal tables are equal data. Memory and the register file are such tables. -/

namespace Sys2Proof.Machine

variable {α : Type}

/-- What key `k` reads as; an unlisted key reads as `d k`. -/
def tabGet (d : Nat → α) : List (Nat × α) → Nat → α
  | [], k => d k
  | (j, v) :: r, k => if j = k then v else if k < j then d k else tabGet d r k

/-- Writes `v` at key `k`, keeping the canonical form. -/
def tabSet [DecidableEq α] (d : Nat → α) : List (Nat × α) → Nat → α → List (Nat × α)
  | [], k, v => if v = d k then [] else [(k, v)]
  | (j, w) :: r, k, v =>
    if j = k then (if v = d k then r else (k, v) :: r)
    else if k < j then (if v = d k then (j, w) :: r else (k, v) :: (j, w) :: r)
    else (j, w) :: tabSet d r k v

/-- Every listed key lies above `b`, keys rise, and no entry equals its default. -/
def tabWfFrom [DecidableEq α] (d : Nat → α) : Nat → List (Nat × α) → Bool
  | _, [] => true
  | b, (j, w) :: r => decide (b ≤ j) && decide (w ≠ d j) && tabWfFrom d (j + 1) r

/-- The canonical form of a table. -/
def tabWf [DecidableEq α] (d : Nat → α) (m : List (Nat × α)) : Bool := tabWfFrom d 0 m

/-- Writes the values of `vs` at keys `k`, `k + 1`, …. -/
def tabSetList [DecidableEq α] (d : Nat → α) (m : List (Nat × α)) (k : Nat) : List α → List (Nat × α)
  | [] => m
  | v :: vs => tabSetList d (tabSet d m k v) (k + 1) vs

/-- Reads `n` consecutive keys from `k`. -/
def tabGetList (d : Nat → α) (m : List (Nat × α)) (k : Nat) : Nat → List α
  | 0 => []
  | n + 1 => tabGet d m k :: tabGetList d m (k + 1) n

end Sys2Proof.Machine
end

