-- ==== Sys2Proof/Machine/Regs.lean ====
section
/-! DEFINITION. The register map of the index of registers: every register's offset, access code, reset value and
implemented bits, the reserved encodings of R13, and one name for each device address. -/

namespace Sys2Proof.Machine

/-- The access codes of R10. -/
inductive Access
  | ro | rw | w1c | wo
  deriving DecidableEq, Repr

/-- A row of the index: `count` registers `stride` bytes apart from `ofs` in their block; `mask` has the bits that
are not RSV; `bad` says which written values carry a reserved encoding or break an alignment (R13). DESIGN CHOICE: a DA register's low bits
that must be 0 count among the reserved encodings in every block, as those of the queue registers do; the bases of rings are not held to the rings' sizes
(assumption log 88). -/
structure RegDesc where
  ofs : Nat
  stride : Nat
  count : Nat
  acc : Access
  reset : Nat
  mask : Nat
  bad : Nat → Bool

/-- A read-only register. -/
def roReg (ofs stride count reset : Nat) : RegDesc := ⟨ofs, stride, count, .ro, reset, 2 ^ 64 - 1, fun _ => false⟩

/-- A write-only register. -/
def woReg (ofs stride count : Nat) : RegDesc := ⟨ofs, stride, count, .wo, 0, 2 ^ 64 - 1, fun _ => false⟩

/-- A status register whose bits a written 1 clears. -/
def w1cReg (ofs mask : Nat) : RegDesc := ⟨ofs, 0, 1, .w1c, 0, mask, fun _ => false⟩

/-- lo ≤ v ≤ hi. -/
def inRange (v lo hi : Nat) : Bool := decide (lo ≤ v) && decide (v ≤ hi)

/-- Reserved encodings of ENG_Q_CFG and SCH_CTX_Q_CFG. -/
def qCfgBad (v : Nat) : Bool :=
  !(inRange (bits v 12 8) 4 16) || !(inRange (bits v 20 16) 4 16) || bits v 39 32 == 0

/-- Reserved encodings of KTF_PORT_CFG that do not depend on the port. -/
def portCfgBad (v : Nat) : Bool := decide (3 < bits v 2 0) || decide (5 < bits v 6 4)

/-- DA of the first register (R9). -/
def regBase : Nat := 0x3F0000000000

/-- Registers of the TCK block. -/
def regsTck : List RegDesc := [
  ⟨0x0, 0x0, 1, .rw, 0x0, 0x1f, fun v => bits v 2 1 == 3⟩,
  roReg 0x8 0x0 1 0x0,
  roReg 0x10 0x0 1 0x0,
  roReg 0x18 0x0 1 0x0,
  roReg 0x20 0x0 1 0x0,
  roReg 0x28 0x0 1 0x0,
  ⟨0x30, 0x0, 1, .rw, 0x0, 0xffffffffffffffff, fun v => v % 64 != 0⟩,
  roReg 0x38 0x0 1 0x0,
  roReg 0x40 0x0 1 0xaaaaaaaaaaaaaaaa,
  woReg 0x48 0x0 1,
  roReg 0x50 0x0 1 0x0,
  ⟨0x58, 0x0, 1, .rw, 0x0, 0xffffff, fun _ => false⟩,
  ⟨0x60, 0x0, 1, .rw, 0x3c, 0xffff, fun _ => false⟩,
  ⟨0x68, 0x0, 1, .rw, 0x0, 0xffff, fun _ => false⟩,
  ⟨0x70, 0x0, 1, .rw, 0xa, 0xffff, fun v => bits v 15 0 == 0⟩,
  roReg 0x78 0x0 1 0x0,
  roReg 0x80 0x0 1 0x0,
  roReg 0x88 0x0 1 0x0,
  w1cReg 0x90 0x1ff,
  ⟨0x98, 0x0, 1, .rw, 0x0, 0x1ff, fun _ => false⟩,
  roReg 0x100 0x10 16 0x0,
  roReg 0x108 0x10 16 0x0]

/-- Registers of the ENG block, within each engine window. -/
def regsEng : List RegDesc := [
  roReg 0x0 0x0 1 0x0,
  ⟨0x8, 0x0, 1, .rw, 0x0, 0xf, fun _ => false⟩,
  ⟨0x10, 0x0, 1, .rw, 0x4000001, 0x1fff0003, fun v => bits v 1 0 == 3 || !(inRange (bits v 28 16) 64 4096)⟩,
  roReg 0x18 0x0 1 0x38,
  ⟨0x20, 0x0, 1, .rw, 0x0, 0xffffffff, fun _ => false⟩,
  ⟨0x28, 0x0, 1, .rw, 0x0, 0x3f, fun v => !(inRange (bits v 5 0) 0 32)⟩,
  roReg 0x30 0x0 1 0x0,
  roReg 0x38 0x0 1 0x0,
  roReg 0x40 0x0 1 0x0,
  roReg 0x48 0x0 1 0x0,
  roReg 0x50 0x0 1 0x0,
  roReg 0x58 0x0 1 0x0,
  w1cReg 0x60 0x3f,
  ⟨0x68, 0x0, 1, .rw, 0x0, 0x3f, fun _ => false⟩,
  ⟨0x100, 0x8, 32, .rw, 0x0, 0xffffffffffff, fun _ => false⟩,
  ⟨0x200, 0x40, 4, .rw, 0x100040400, 0xff0f1f1f07, fun v => qCfgBad v⟩,
  ⟨0x208, 0x40, 4, .rw, 0x0, 0xffffffffffffffff, fun v => v % 64 != 0⟩,
  ⟨0x210, 0x40, 4, .rw, 0x0, 0xffffffffffffffff, fun v => v % 64 != 0⟩,
  ⟨0x218, 0x40, 4, .rw, 0x0, 0xffffffffffffffff, fun v => v % 64 != 0⟩,
  ⟨0x220, 0x40, 4, .rw, 0x0, 0xffffffffffffffff, fun v => v % 64 != 0⟩,
  roReg 0x228 0x40 4 0x0,
  woReg 0x230 0x40 4,
  roReg 0x238 0x40 4 0x0,
  roReg 0x300 0x0 1 0x0,
  ⟨0x308, 0x0, 1, .rw, 0x1, 0x1, fun _ => false⟩] ++ [
  woReg 0x310 0x0 1,
  roReg 0x318 0x0 1 0x0,
  roReg 0x320 0x0 1 0x0,
  w1cReg 0x328 0x7fff,
  ⟨0x330, 0x0, 1, .rw, 0x0, 0x7fff, fun _ => false⟩,
  roReg 0x400 0x0 1 0x0,
  roReg 0x408 0x0 1 0x0,
  roReg 0x410 0x0 1 0x0,
  roReg 0x500 0x0 1 0x0,
  roReg 0x508 0x0 1 0x0,
  roReg 0x510 0x0 1 0x0,
  roReg 0x518 0x0 1 0x0,
  roReg 0x520 0x0 1 0x0,
  roReg 0x600 0x0 1 0x0,
  roReg 0x608 0x0 1 0x0,
  ⟨0x8000, 0x8, 4096, .rw, 0x0, 0xffffffffffffffff, fun _ => false⟩]

/-- Registers of the LDR block. -/
def regsLdr : List RegDesc := [
  ⟨0x0, 0x0, 1, .rw, 0x1, 0x1, fun _ => false⟩,
  roReg 0x8 0x0 1 0x0,
  roReg 0x10 0x0 1 0x0,
  roReg 0x18 0x0 1 0x0,
  roReg 0x20 0x0 1 0x0,
  roReg 0x28 0x0 1 0x0,
  w1cReg 0x30 0x7,
  ⟨0x38, 0x0, 1, .rw, 0x0, 0x7, fun _ => false⟩]

/-- Registers of the PNT block. -/
def regsPnt : List RegDesc := [
  ⟨0x0, 0x0, 1, .rw, 0x1, 0x7, fun _ => false⟩,
  roReg 0x8 0x0 1 0x0,
  roReg 0x10 0x0 1 0x0,
  ⟨0x18, 0x8, 3, .rw, 0x0, 0xffffffffffffffff, fun _ => false⟩,
  woReg 0x30 0x0 1,
  roReg 0x38 0x0 1 0x0,
  roReg 0x40 0x0 1 0x0,
  ⟨0x48, 0x0, 1, .rw, 0x4e20, 0x7fff, fun v => !(inRange (bits v 14 0) 1 20000)⟩,
  roReg 0x50 0x0 1 0x0,
  ⟨0x58, 0x0, 1, .rw, 0xc8, 0x3ff, fun v => !(inRange (bits v 9 0) 10 500)⟩,
  ⟨0x60, 0x0, 1, .rw, 0x898, 0xffff, fun v => bits v 15 0 == 0⟩,
  ⟨0x68, 0x0, 1, .rw, 0x3e80001, 0xffff0001, fun v => bits v 31 16 == 0⟩,
  roReg 0x70 0x0 1 0x0,
  roReg 0x78 0x0 1 0x0,
  roReg 0x80 0x0 1 0x0,
  roReg 0x88 0x0 1 0x0,
  w1cReg 0x90 0x3f,
  ⟨0x98, 0x0, 1, .rw, 0x0, 0x3f, fun _ => false⟩,
  roReg 0xa0 0x0 1 0x0,
  ⟨0xa8, 0x0, 1, .rw, 0x10, 0xff, fun v => bits v 7 0 == 0⟩,
  ⟨0x100, 0x8, 8, .rw, 0x0, 0xffffffff, fun v => bits v 31 16 == 0⟩,
  roReg 0x200 0x20 8 0x0,
  roReg 0x208 0x20 8 0x0,
  roReg 0x210 0x20 8 0x0,
  roReg 0x218 0x20 8 0x0]

/-- Registers of the CEL block. -/
def regsCel : List RegDesc := [
  ⟨0x0, 0x0, 1, .rw, 0x1, 0x3, fun _ => false⟩,
  roReg 0x8 0x0 1 0x0,
  roReg 0x10 0x0 1 0x0,
  ⟨0x18, 0x8, 4, .rw, 0x0, 0xffffffffffffffff, fun _ => false⟩,
  woReg 0x38 0x0 1,
  ⟨0x40, 0x0, 1, .rw, 0xfa0, 0xfff, fun v => !(inRange (bits v 11 0) 1 4000)⟩,
  roReg 0x48 0x0 1 0x0,
  ⟨0x50, 0x0, 1, .rw, 0xc8, 0x3ff, fun v => !(inRange (bits v 9 0) 10 500)⟩,
  ⟨0x58, 0x0, 1, .rw, 0x898, 0xffff, fun v => bits v 15 0 == 0⟩,
  ⟨0x60, 0x0, 1, .rw, 0x3e80001, 0xffff0001, fun v => bits v 31 16 == 0⟩,
  roReg 0x68 0x0 1 0x0,
  roReg 0x70 0x0 1 0x0,
  roReg 0x78 0x0 1 0x0,
  roReg 0x80 0x0 1 0x0,
  w1cReg 0x88 0x7f,
  ⟨0x90, 0x0, 1, .rw, 0x0, 0x7f, fun _ => false⟩,
  ⟨0x98, 0x0, 1, .rw, 0x10, 0xff, fun v => bits v 7 0 == 0⟩,
  ⟨0x100, 0x8, 8, .rw, 0x0, 0xffffffff, fun v => bits v 31 16 == 0⟩,
  roReg 0x200 0x20 8 0x0,
  roReg 0x208 0x20 8 0x0,
  roReg 0x210 0x20 8 0x0,
  roReg 0x218 0x20 8 0x0]

/-- Registers of the ATC block. -/
def regsAtc : List RegDesc := [
  ⟨0x0, 0x0, 1, .rw, 0x0, 0x3, fun _ => false⟩,
  roReg 0x8 0x0 1 0x0,
  ⟨0x10, 0x0, 1, .rw, 0x0, 0xffffffffffffffff, fun v => v % 4096 != 0⟩,
  ⟨0x18, 0x0, 1, .rw, 0x0, 0xffffffffffffffff, fun v => v % 4096 != 0 || decide (2 ^ 44 < v)⟩,
  ⟨0x20, 0x0, 1, .rw, 0xc8, 0x3ff, fun v => !(inRange (bits v 9 0) 10 500)⟩,
  ⟨0x28, 0x0, 1, .rw, 0x0, 0x7, fun _ => false⟩,
  roReg 0x30 0x0 1 0x0,
  roReg 0x38 0x0 1 0x0,
  roReg 0x40 0x0 1 0x0,
  roReg 0x48 0x0 1 0x0,
  roReg 0x50 0x0 1 0x0,
  w1cReg 0x58 0x1f,
  ⟨0x60, 0x0, 1, .rw, 0x0, 0x1f, fun _ => false⟩]

/-- Registers of the KTF block. -/
def regsKtf : List RegDesc := [
  ⟨0x0, 0x0, 1, .rw, 0x0, 0x1, fun _ => false⟩,
  roReg 0x8 0x0 1 0x0,
  ⟨0x10, 0x0, 1, .rw, 0x0, 0x1fff, fun _ => false⟩,
  ⟨0x18, 0x0, 1, .rw, 0x0, 0x1fff, fun _ => false⟩,
  ⟨0x20, 0x0, 1, .rw, 0x64, 0xffff, fun v => bits v 15 0 == 0⟩,
  ⟨0x28, 0x0, 1, .rw, 0x0, 0x11fff, fun _ => false⟩,
  ⟨0x30, 0x0, 1, .rw, 0x10, 0xff, fun v => bits v 7 0 == 0⟩,
  roReg 0x38 0x0 1 0x0,
  roReg 0x40 0x0 1 0x0,
  roReg 0x48 0x0 1 0x0,
  w1cReg 0x50 0x7f,
  ⟨0x58, 0x0, 1, .rw, 0x0, 0x7f, fun _ => false⟩,
  ⟨0x100, 0x40, 8, .rw, 0x0, 0x77, fun v => portCfgBad v⟩,
  roReg 0x108 0x40 8 0x0,
  woReg 0x110 0x40 8,
  roReg 0x118 0x40 8 0x0,
  roReg 0x120 0x40 8 0x0,
  roReg 0x128 0x40 8 0x0,
  roReg 0x130 0x40 8 0x0,
  roReg 0x138 0x40 8 0x0,
  ⟨0x400, 0x10, 8, .rw, 0x0, 0x1fffffffffff, fun v => v % 2 ^ 21 != 0⟩,
  ⟨0x408, 0x10, 8, .rw, 0x0, 0x3ffffffffffffff, fun v => bits v 31 8 == 0⟩]

/-- Registers of the ING block. -/
def regsIng : List RegDesc := [
  ⟨0x0, 0x0, 1, .rw, 0x2, 0x7, fun _ => false⟩,
  roReg 0x8 0x0 1 0x0,
  ⟨0x10, 0x0, 1, .rw, 0x0, 0xffffffffffffffff, fun v => v % 64 != 0⟩,
  roReg 0x18 0x0 1 0x0,
  ⟨0x20, 0x0, 1, .rw, 0x250000, 0xffff0fff, fun _ => false⟩,
  roReg 0x28 0x0 1 0x0,
  roReg 0x30 0x0 1 0x0,
  roReg 0x38 0x0 1 0x0,
  roReg 0x40 0x0 1 0x0,
  roReg 0x48 0x0 1 0x0,
  roReg 0x50 0x0 1 0x0,
  roReg 0x58 0x0 1 0x0,
  ⟨0x60, 0x0, 1, .rw, 0x400, 0x1f01, fun v => !(inRange (bits v 12 8) 4 16)⟩,
  ⟨0x68, 0x0, 1, .rw, 0x0, 0xffffffffffffffff, fun _ => false⟩,
  ⟨0x70, 0x0, 1, .rw, 0x0, 0xffffffffffffffff, fun _ => false⟩,
  roReg 0x78 0x0 1 0x0,
  w1cReg 0x80 0xff,
  ⟨0x88, 0x0, 1, .rw, 0x0, 0xff, fun _ => false⟩,
  roReg 0x100 0x20 4 0x0,
  roReg 0x108 0x20 4 0x0,
  roReg 0x110 0x20 4 0x0,
  roReg 0x118 0x20 4 0x0]

/-- Registers of the VDC block. -/
def regsVdc : List RegDesc := [
  roReg 0x0 0x0 1 0x0,
  ⟨0x8, 0x0, 1, .rw, 0x0, 0xffffffffffffffff, fun _ => false⟩,
  ⟨0x10, 0x0, 1, .rw, 0x4, 0x1f, fun v => !(inRange (bits v 4 0) 4 16)⟩,
  roReg 0x18 0x0 1 0x0,
  woReg 0x20 0x0 1,
  woReg 0x28 0x0 1,
  roReg 0x30 0x0 1 0x0,
  roReg 0x38 0x0 1 0x0,
  roReg 0x40 0x0 1 0x0,
  w1cReg 0x48 0x7,
  ⟨0x50, 0x0, 1, .rw, 0x0, 0x7, fun _ => false⟩,
  roReg 0x1000 0x8 512 0x0]

/-- Registers of the SCH block. -/
def regsSch : List RegDesc := [
  ⟨0x0, 0x0, 1, .rw, 0x0, 0x1, fun _ => false⟩,
  roReg 0x8 0x0 1 0x0,
  ⟨0x10, 0x0, 1, .rw, 0x0, 0x7ff, fun _ => false⟩,
  ⟨0x18, 0x0, 1, .rw, 0x0, 0x3fffff001fffff, fun v =>
    decide (1 < bits v 9 8) || decide (1535 < bits v 42 32) || decide (1536 < bits v 53 43)⟩,
  roReg 0x20 0x0 1 0x0,
  woReg 0x28 0x0 1,
  ⟨0x30, 0x0, 1, .rw, 0x100040400, 0xff0f1f1f07, fun v => qCfgBad v⟩,
  ⟨0x38, 0x0, 1, .rw, 0x0, 0xffffffffffffffff, fun v => v % 64 != 0⟩,
  ⟨0x40, 0x0, 1, .rw, 0x0, 0xffffffffffffffff, fun v => v % 64 != 0⟩,
  ⟨0x48, 0x0, 1, .rw, 0x0, 0xffffffffffffffff, fun v => v % 64 != 0⟩,
  ⟨0x50, 0x0, 1, .rw, 0x0, 0xffffffffffffffff, fun v => v % 64 != 0⟩,
  ⟨0x58, 0x0, 1, .rw, 0x0, 0x7, fun _ => false⟩,
  roReg 0x60 0x0 1 0x0,
  roReg 0x68 0x0 1 0x0,
  roReg 0x70 0x0 1 0x0,
  w1cReg 0x78 0xf,
  ⟨0x80, 0x0, 1, .rw, 0x0, 0xf, fun _ => false⟩,
  ⟨0x100, 0x20, 8, .rw, 0x400, 0x1f01, fun v => !(inRange (bits v 12 8) 4 16)⟩,
  ⟨0x108, 0x20, 8, .rw, 0x0, 0xffffffffffffffff, fun _ => false⟩,
  ⟨0x110, 0x20, 8, .rw, 0x0, 0xffffffffffffffff, fun _ => false⟩,
  roReg 0x118 0x20 8 0x0,
  woReg 0x200 0x8 8,
  ⟨0x240, 0x8, 4, .rw, 0x0, 0x1ffffffffff, fun v => bits v 40 30 == 0⟩,
  ⟨0x1000, 0x20, 64, .rw, 0x0, 0xffff000f, fun _ => false⟩,
  roReg 0x1008 0x20 64 0x0,
  roReg 0x1010 0x20 64 0x0,
  roReg 0x1018 0x20 64 0x0]

/-- Registers of the HLT block. -/
def regsHlt : List RegDesc := [
  ⟨0x0, 0x0, 1, .rw, 0x3c0000, 0xfff0001, fun v => !(inRange (bits v 27 16) 1 3600)⟩,
  roReg 0x8 0x0 1 0x7f7f,
  woReg 0x10 0x0 1,
  roReg 0x18 0x0 1 0x0,
  roReg 0x20 0x0 1 0x0,
  roReg 0x28 0x0 1 0x0,
  ⟨0x30, 0x0, 1, .rw, 0x3, 0xff, fun v => bits v 7 0 == 0⟩,
  roReg 0x38 0x0 1 0x0,
  ⟨0x40, 0x0, 1, .rw, 0x269, 0xffff, fun v => !(inRange (bits v 7 0) 85 105) || !(inRange (bits v 15 8) 1 10)⟩,
  roReg 0x48 0x0 1 0x0,
  roReg 0x50 0x0 1 0x0,
  ⟨0x58, 0x0, 1, .rw, 0x5, 0xf, fun v => !(inRange (bits v 3 0) 2 10)⟩,
  ⟨0x60, 0x0, 1, .rw, 0x3e800040000, 0xffff001f0001, fun v => !(inRange (bits v 20 16) 4 16)⟩,
  ⟨0x68, 0x0, 1, .rw, 0x0, 0xffffffffffffffff, fun _ => false⟩,
  roReg 0x70 0x0 1 0x0,
  w1cReg 0x78 0xff,
  ⟨0x80, 0x0, 1, .rw, 0x0, 0xff, fun _ => false⟩,
  roReg 0x1000 0x8 128 0x0,
  roReg 0x2000 0x8 32 0x0,
  roReg 0x3000 0x8 32 0x0]

/-- Registers of the SEC block. -/
def regsSec : List RegDesc := [
  roReg 0x0 0x0 1 0x0,
  woReg 0x8 0x0 1,
  roReg 0x10 0x0 1 0x0,
  roReg 0x18 0x0 1 0x0,
  roReg 0x20 0x8 4 0x0,
  roReg 0x40 0x0 1 0x0,
  roReg 0x48 0x0 1 0x0,
  roReg 0x50 0x0 1 0x0,
  roReg 0x100 0x8 16 0x0,
  ⟨0x200, 0x0, 1, .rw, 0x0, 0xffffffffffffffff, fun v => v % 64 != 0⟩,
  woReg 0x208 0x0 1,
  roReg 0x210 0x0 1 0x0,
  roReg 0x218 0x0 1 0x0,
  ⟨0x220, 0x0, 1, .rw, 0x0, 0xffffffffffffffff, fun v => v % 64 != 0⟩,
  ⟨0x228, 0x0, 1, .rw, 0x0, 0xffffffffffffffff, fun v => v % 64 != 0⟩,
  woReg 0x230 0x0 1,
  roReg 0x238 0x0 1 0x0,
  ⟨0x240, 0x0, 1, .rw, 0x0, 0x3ffffff, fun _ => false⟩,
  ⟨0x248, 0x0, 1, .rw, 0x0, 0xffffffffffffffff, fun v => v % 64 != 0⟩,
  woReg 0x250 0x0 1,
  roReg 0x258 0x0 1 0x0,
  w1cReg 0x260 0x1f,
  ⟨0x268, 0x0, 1, .rw, 0x0, 0x1f, fun _ => false⟩]

/-- Registers of the PWR block. -/
def regsPwr : List RegDesc := [
  roReg 0x0 0x0 1 0x70001,
  ⟨0x8, 0x0, 1, .rw, 0x898, 0xffff, fun v => !(inRange (bits v 15 0) 500 2200)⟩,
  roReg 0x10 0x0 1 0x898,
  ⟨0x18, 0x0, 1, .rw, 0x898, 0xffff, fun v => !(inRange (bits v 15 0) 500 2200)⟩,
  roReg 0x20 0x0 1 0x0,
  roReg 0x28 0x0 1 0x0,
  roReg 0x30 0x0 1 0x0,
  roReg 0x38 0x0 1 0x0,
  roReg 0x40 0x0 1 0x0,
  roReg 0x48 0x0 1 0x0,
  w1cReg 0x50 0xf,
  ⟨0x58, 0x0, 1, .rw, 0x0, 0xf, fun _ => false⟩,
  roReg 0x100 0x8 32 0x0]

/-- Registers of the FLT block. -/
def regsFlt : List RegDesc := [
  ⟨0x0, 0x0, 1, .rw, 0x400, 0x1f03, fun v => !(inRange (bits v 12 8) 4 16)⟩,
  ⟨0x8, 0x0, 1, .rw, 0x0, 0xffffffffffffffff, fun _ => false⟩,
  roReg 0x10 0x0 1 0x0,
  ⟨0x18, 0x0, 1, .rw, 0x0, 0xffffffff, fun _ => false⟩,
  roReg 0x20 0x0 1 0x0,
  w1cReg 0x28 0x1f,
  ⟨0x30, 0x0, 1, .rw, 0x1c, 0x1f, fun _ => false⟩,
  roReg 0x38 0x0 1 0x0,
  woReg 0x40 0x0 1,
  roReg 0x48 0x0 1 0x0,
  roReg 0x50 0x0 1 0x0,
  roReg 0x100 0x8 5 0x0,
  roReg 0x200 0x8 8 0x0]

/-- The rows of a block, by its place in the register space (R58, R512). -/
def regsOf : Nat → List RegDesc
  | 0 => regsTck
  | 1 => regsEng
  | 2 => regsLdr
  | 3 => regsPnt
  | 4 => regsCel
  | 5 => regsAtc
  | 6 => regsKtf
  | 7 => regsIng
  | 8 => regsVdc
  | 9 => regsSch
  | 10 => regsHlt
  | 11 => regsSec
  | 12 => regsPwr
  | 13 => regsFlt
  | _ => []

/-- Whether offset `o` names a register of the row. -/
def RegDesc.has (d : RegDesc) (o : Nat) : Bool :=
  decide (d.ofs ≤ o) &&
    (if d.stride = 0 then decide (o = d.ofs)
     else decide ((o - d.ofs) % d.stride = 0) && decide ((o - d.ofs) / d.stride < d.count))

/-- Offset of an address in its register window: engine windows repeat every 64 KiB for E0 to E95. -/
def regOffset (a : Nat) : Nat :=
  let o := past a regBase % 2 ^ 24
  if past a regBase / 2 ^ 24 = 1 then o % 2 ^ 16 else o

/-- Whether an address lies in a block, and in the ENG block in the window of an engine. -/
def regWindow (a : Nat) : Bool :=
  decide (regBase ≤ a) && decide (past a regBase / 2 ^ 24 < 14) &&
    (decide (past a regBase / 2 ^ 24 ≠ 1) || decide (past a regBase % 2 ^ 24 / 2 ^ 16 < 96))

/-- The row that names an address; none where no register stands (R512). -/
def regFind (a : Nat) : Option RegDesc :=
  if regWindow a then (regsOf (past a regBase / 2 ^ 24)).find? (·.has (regOffset a)) else none

/-- ENG_ID of engine e: ENGINE, CLASS, CLUSTER, DIE (R14). -/
def engIdReset (e : Nat) : Nat := e + (e % 3) * 2 ^ 7 + (e / 3) * 2 ^ 9 + (e / 48) * 2 ^ 14

/-- The fused values of R516. -/
def fusedReset (a : Nat) : Option Word :=
  if a = 0x3F000B000040 then some Config.serial
  else if a = 0x3F000B000048 then some (1 + (Config.levelAbove.zeroExtend 64 + 1) * 2 ^ 16)
  else if a = 0x3F000B000050 then
    some (BitVec.ofNat 64 (0x300 + b2n Config.debugLock + 2 * b2n Config.advanceEachBoot))
  else if 0x3F000B000100 ≤ a ∧ a < 0x3F000B000140 ∧ a % 8 = 0 then
    some (Config.keyHash (past a 0x3F000B000100 / 0x20) (past a 0x3F000B000100 % 0x20 / 8))
  else if a = 0x3F000C000010 then some 0x898
  else none

/-- The value of every register after reset (R12); an address with no register reads 0. -/
def regReset (a : Nat) : Word :=
  match fusedReset a with
  | some v => v
  | none =>
    match regFind a with
    | none => 0
    | some d =>
      if regOffset a = 0 ∧ past a regBase / 2 ^ 24 = 1 then BitVec.ofNat 64 (engIdReset (past a regBase % 2 ^ 24 / 2 ^ 16))
      else BitVec.ofNat 64 d.reset

/-! ### Names of the registers -/

-- TCK
def Reg.tckCtrl : Nat := 0x3f0000000000
def Reg.tckStatus : Nat := 0x3f0000000008
def Reg.tckPeriod : Nat := 0x3f0000000010
def Reg.tckCount : Nat := 0x3f0000000018
def Reg.tckTime : Nat := 0x3f0000000020
def Reg.tckStartPtp : Nat := 0x3f0000000028
def Reg.tckPlanBase : Nat := 0x3f0000000030
def Reg.tckPlanCheck : Nat := 0x3f0000000038
def Reg.tckPhaseState : Nat := 0x3f0000000040
def Reg.tckPhaseSkip : Nat := 0x3f0000000048
def Reg.tckPtpOffset : Nat := 0x3f0000000050
def Reg.tckAlignOfs : Nat := 0x3f0000000058
def Reg.tckHoldoverLimit : Nat := 0x3f0000000060
def Reg.tckFabDelay : Nat := 0x3f0000000068
def Reg.tckTickOutWidth : Nat := 0x3f0000000070
def Reg.tckSlackLast : Nat := 0x3f0000000078
def Reg.tckNextSlack : Nat := 0x3f0000000080
def Reg.tckBgDefer : Nat := 0x3f0000000088
def Reg.tckIntStatus : Nat := 0x3f0000000090
def Reg.tckIntEnable : Nat := 0x3f0000000098
def Reg.tckPhTime (i : Nat) : Nat := 0x3f0000000100 + i * 0x10
def Reg.tckPhCount (i : Nat) : Nat := 0x3f0000000108 + i * 0x10
-- ENG
def Reg.engId (e : Nat) : Nat := 0x3f0001000000 + e * 0x10000
def Reg.engDpCtrl (e : Nat) : Nat := 0x3f0001000008 + e * 0x10000
def Reg.engHoldCtrl (e : Nat) : Nat := 0x3f0001000010 + e * 0x10000
def Reg.engHoldStatus (e : Nat) : Nat := 0x3f0001000018 + e * 0x10000
def Reg.engSrSeed (e : Nat) : Nat := 0x3f0001000020 + e * 0x10000
def Reg.engPwlUserCfg (e : Nat) : Nat := 0x3f0001000028 + e * 0x10000
def Reg.engIssueCycles (e : Nat) : Nat := 0x3f0001000030 + e * 0x10000
def Reg.engHoldCycles (e : Nat) : Nat := 0x3f0001000038 + e * 0x10000
def Reg.engRampCount (e : Nat) : Nat := 0x3f0001000040 + e * 0x10000
def Reg.engResCount (e : Nat) : Nat := 0x3f0001000048 + e * 0x10000
def Reg.engNumCount (e : Nat) : Nat := 0x3f0001000050 + e * 0x10000
def Reg.engErrInfo (e : Nat) : Nat := 0x3f0001000058 + e * 0x10000
def Reg.engIntStatus (e : Nat) : Nat := 0x3f0001000060 + e * 0x10000
def Reg.engIntEnable (e : Nat) : Nat := 0x3f0001000068 + e * 0x10000
def Reg.engPwlUser (e i : Nat) : Nat := 0x3f0001000100 + e * 0x10000 + i * 0x8
def Reg.engQCfg (e i : Nat) : Nat := 0x3f0001000200 + e * 0x10000 + i * 0x40
def Reg.engQBase (e i : Nat) : Nat := 0x3f0001000208 + e * 0x10000 + i * 0x40
def Reg.engQTailDa (e i : Nat) : Nat := 0x3f0001000210 + e * 0x10000 + i * 0x40
def Reg.engQStatusDa (e i : Nat) : Nat := 0x3f0001000218 + e * 0x10000 + i * 0x40
def Reg.engQCompDa (e i : Nat) : Nat := 0x3f0001000220 + e * 0x10000 + i * 0x40
def Reg.engQState (e i : Nat) : Nat := 0x3f0001000228 + e * 0x10000 + i * 0x40
def Reg.engQCtrl (e i : Nat) : Nat := 0x3f0001000230 + e * 0x10000 + i * 0x40
def Reg.engQFault (e i : Nat) : Nat := 0x3f0001000238 + e * 0x10000 + i * 0x40
def Reg.engKprStatus (e : Nat) : Nat := 0x3f0001000300 + e * 0x10000
def Reg.engImemSel (e : Nat) : Nat := 0x3f0001000308 + e * 0x10000
def Reg.engImemSwap (e : Nat) : Nat := 0x3f0001000310 + e * 0x10000
def Reg.engKprTrap (e : Nat) : Nat := 0x3f0001000318 + e * 0x10000
def Reg.engTrigCount (e : Nat) : Nat := 0x3f0001000320 + e * 0x10000
def Reg.engQIntStatus (e : Nat) : Nat := 0x3f0001000328 + e * 0x10000
def Reg.engQIntEnable (e : Nat) : Nat := 0x3f0001000330 + e * 0x10000
def Reg.engPulseCount (e : Nat) : Nat := 0x3f0001000400 + e * 0x10000
def Reg.engStation (e : Nat) : Nat := 0x3f0001000408 + e * 0x10000
def Reg.engStationLoads (e : Nat) : Nat := 0x3f0001000410 + e * 0x10000
def Reg.engKvPages (e : Nat) : Nat := 0x3f0001000500 + e * 0x10000
def Reg.engKvCow (e : Nat) : Nat := 0x3f0001000508 + e * 0x10000
def Reg.engKvPins (e : Nat) : Nat := 0x3f0001000510 + e * 0x10000
def Reg.engKvTree (e : Nat) : Nat := 0x3f0001000518 + e * 0x10000
def Reg.engAttnBlocks (e : Nat) : Nat := 0x3f0001000520 + e * 0x10000
def Reg.engConvCount (e : Nat) : Nat := 0x3f0001000600 + e * 0x10000
def Reg.engDetCount (e : Nat) : Nat := 0x3f0001000608 + e * 0x10000
def Reg.engImemWin (e i : Nat) : Nat := 0x3f0001008000 + e * 0x10000 + i * 0x8
-- LDR
def Reg.ldrCtrl : Nat := 0x3f0002000000
def Reg.ldrScrubPass : Nat := 0x3f0002000008
def Reg.ldrCeCount : Nat := 0x3f0002000010
def Reg.ldrUeCount : Nat := 0x3f0002000018
def Reg.ldrUeAddr : Nat := 0x3f0002000020
def Reg.ldrAtomicFault : Nat := 0x3f0002000028
def Reg.ldrIntStatus : Nat := 0x3f0002000030
def Reg.ldrIntEnable : Nat := 0x3f0002000038
-- PNT
def Reg.pntCtrl : Nat := 0x3f0003000000
def Reg.pntStatus : Nat := 0x3f0003000008
def Reg.pntCap : Nat := 0x3f0003000010
def Reg.pntMapout (i : Nat) : Nat := 0x3f0003000018 + i * 0x8
def Reg.pntMapCommit : Nat := 0x3f0003000030
def Reg.pntHatchBase : Nat := 0x3f0003000038
def Reg.pntHatchSize : Nat := 0x3f0003000040
def Reg.pntScrubInterval : Nat := 0x3f0003000048
def Reg.pntScrubPass : Nat := 0x3f0003000050
def Reg.pntTimeout : Nat := 0x3f0003000058
def Reg.pntLateThresh : Nat := 0x3f0003000060
def Reg.pntCalCtrl : Nat := 0x3f0003000068
def Reg.pntCeCount : Nat := 0x3f0003000070
def Reg.pntUeCount : Nat := 0x3f0003000078
def Reg.pntErrAddr : Nat := 0x3f0003000080
def Reg.pntErrInfo : Nat := 0x3f0003000088
def Reg.pntIntStatus : Nat := 0x3f0003000090
def Reg.pntIntEnable : Nat := 0x3f0003000098
def Reg.pntLaneRepair : Nat := 0x3f00030000a0
def Reg.pntFailThresh : Nat := 0x3f00030000a8
def Reg.pntRegRate (i : Nat) : Nat := 0x3f0003000100 + i * 0x8
def Reg.pntStallReg (i : Nat) : Nat := 0x3f0003000200 + i * 0x20
def Reg.pntStallCal (i : Nat) : Nat := 0x3f0003000208 + i * 0x20
def Reg.pntStallRef (i : Nat) : Nat := 0x3f0003000210 + i * 0x20
def Reg.pntStallLate (i : Nat) : Nat := 0x3f0003000218 + i * 0x20
-- CEL
def Reg.celCtrl : Nat := 0x3f0004000000
def Reg.celStatus : Nat := 0x3f0004000008
def Reg.celCap : Nat := 0x3f0004000010
def Reg.celMapout (i : Nat) : Nat := 0x3f0004000018 + i * 0x8
def Reg.celMapCommit : Nat := 0x3f0004000038
def Reg.celScrubInterval : Nat := 0x3f0004000040
def Reg.celScrubPass : Nat := 0x3f0004000048
def Reg.celTimeout : Nat := 0x3f0004000050
def Reg.celLateThresh : Nat := 0x3f0004000058
def Reg.celCalCtrl : Nat := 0x3f0004000060
def Reg.celCeCount : Nat := 0x3f0004000068
def Reg.celUeCount : Nat := 0x3f0004000070
def Reg.celErrAddr : Nat := 0x3f0004000078
def Reg.celErrInfo : Nat := 0x3f0004000080
def Reg.celIntStatus : Nat := 0x3f0004000088
def Reg.celIntEnable : Nat := 0x3f0004000090
def Reg.celFailThresh : Nat := 0x3f0004000098
def Reg.celRegRate (i : Nat) : Nat := 0x3f0004000100 + i * 0x8
def Reg.celStallReg (i : Nat) : Nat := 0x3f0004000200 + i * 0x20
def Reg.celStallCal (i : Nat) : Nat := 0x3f0004000208 + i * 0x20
def Reg.celStallRef (i : Nat) : Nat := 0x3f0004000210 + i * 0x20
def Reg.celStallLate (i : Nat) : Nat := 0x3f0004000218 + i * 0x20
-- ATC
def Reg.atcCtrl : Nat := 0x3f0005000000
def Reg.atcStatus : Nat := 0x3f0005000008
def Reg.atcWinBase : Nat := 0x3f0005000010
def Reg.atcWinSize : Nat := 0x3f0005000018
def Reg.atcTimeout : Nat := 0x3f0005000020
def Reg.atcInboundPart : Nat := 0x3f0005000028
def Reg.atcWatchCount : Nat := 0x3f0005000030
def Reg.atcErrCount : Nat := 0x3f0005000038
def Reg.atcErrAddr : Nat := 0x3f0005000040
def Reg.atcFec : Nat := 0x3f0005000048
def Reg.atcReplay : Nat := 0x3f0005000050
def Reg.atcIntStatus : Nat := 0x3f0005000058
def Reg.atcIntEnable : Nat := 0x3f0005000060
-- KTF
def Reg.ktfCtrl : Nat := 0x3f0006000000
def Reg.ktfStatus : Nat := 0x3f0006000008
def Reg.ktfId : Nat := 0x3f0006000010
def Reg.ktfTopo : Nat := 0x3f0006000018
def Reg.ktfTimeout : Nat := 0x3f0006000020
def Reg.ktfTickCfg : Nat := 0x3f0006000028
def Reg.ktfLaneThresh : Nat := 0x3f0006000030
def Reg.ktfRxReject : Nat := 0x3f0006000038
def Reg.ktfRemoteCount : Nat := 0x3f0006000040
def Reg.ktfTickCount : Nat := 0x3f0006000048
def Reg.ktfIntStatus : Nat := 0x3f0006000050
def Reg.ktfIntEnable : Nat := 0x3f0006000058
def Reg.ktfPortCfg (i : Nat) : Nat := 0x3f0006000100 + i * 0x40
def Reg.ktfPortStatus (i : Nat) : Nat := 0x3f0006000108 + i * 0x40
def Reg.ktfPortCtrl (i : Nat) : Nat := 0x3f0006000110 + i * 0x40
def Reg.ktfPortNeighbor (i : Nat) : Nat := 0x3f0006000118 + i * 0x40
def Reg.ktfPortFec (i : Nat) : Nat := 0x3f0006000120 + i * 0x40
def Reg.ktfPortReplay (i : Nat) : Nat := 0x3f0006000128 + i * 0x40
def Reg.ktfPortTx (i : Nat) : Nat := 0x3f0006000130 + i * 0x40
def Reg.ktfPortRx (i : Nat) : Nat := 0x3f0006000138 + i * 0x40
def Reg.ktfExportBase (i : Nat) : Nat := 0x3f0006000400 + i * 0x10
def Reg.ktfExportCfg (i : Nat) : Nat := 0x3f0006000408 + i * 0x10
-- ING
def Reg.ingCtrl : Nat := 0x3f0007000000
def Reg.ingStatus : Nat := 0x3f0007000008
def Reg.ingCfgBase : Nat := 0x3f0007000010
def Reg.ingCfgCheck : Nat := 0x3f0007000018
def Reg.ingPtpCfg : Nat := 0x3f0007000020
def Reg.ingPtpTime : Nat := 0x3f0007000028
def Reg.ingPtpOffset : Nat := 0x3f0007000030
def Reg.ingPtpPath : Nat := 0x3f0007000038
def Reg.ingLastWindow : Nat := 0x3f0007000040
def Reg.ingMeasCount : Nat := 0x3f0007000048
def Reg.ingAlignCount : Nat := 0x3f0007000050
def Reg.ingPulseCount : Nat := 0x3f0007000058
def Reg.ingPubCfg : Nat := 0x3f0007000060
def Reg.ingPubBase : Nat := 0x3f0007000068
def Reg.ingPubTailDa : Nat := 0x3f0007000070
def Reg.ingPubState : Nat := 0x3f0007000078
def Reg.ingIntStatus : Nat := 0x3f0007000080
def Reg.ingIntEnable : Nat := 0x3f0007000088
def Reg.ingRx (i : Nat) : Nat := 0x3f0007000100 + i * 0x20
def Reg.ingRxErr (i : Nat) : Nat := 0x3f0007000108 + i * 0x20
def Reg.ingRxDrop (i : Nat) : Nat := 0x3f0007000110 + i * 0x20
def Reg.ingTx (i : Nat) : Nat := 0x3f0007000118 + i * 0x20
-- VDC
def Reg.vdcStatus : Nat := 0x3f0008000000
def Reg.vdcRecDa : Nat := 0x3f0008000008
def Reg.vdcRecCfg : Nat := 0x3f0008000010
def Reg.vdcRecIssue : Nat := 0x3f0008000018
def Reg.vdcRelease : Nat := 0x3f0008000020
def Reg.vdcRearm : Nat := 0x3f0008000028
def Reg.vdcCount : Nat := 0x3f0008000030
def Reg.vdcWdCount : Nat := 0x3f0008000038
def Reg.vdcPixels : Nat := 0x3f0008000040
def Reg.vdcIntStatus : Nat := 0x3f0008000048
def Reg.vdcIntEnable : Nat := 0x3f0008000050
def Reg.vdcStreamState (i : Nat) : Nat := 0x3f0008001000 + i * 0x8
-- SCH
def Reg.schCtrl : Nat := 0x3f0009000000
def Reg.schStatus : Nat := 0x3f0009000008
def Reg.schCtxSel : Nat := 0x3f0009000010
def Reg.schCtxCfg : Nat := 0x3f0009000018
def Reg.schCtxState : Nat := 0x3f0009000020
def Reg.schCtxCtrl : Nat := 0x3f0009000028
def Reg.schCtxQCfg : Nat := 0x3f0009000030
def Reg.schCtxQBase : Nat := 0x3f0009000038
def Reg.schCtxQTailDa : Nat := 0x3f0009000040
def Reg.schCtxQStatusDa : Nat := 0x3f0009000048
def Reg.schCtxQCompDa : Nat := 0x3f0009000050
def Reg.schIoPart : Nat := 0x3f0009000058
def Reg.schPreemptCount : Nat := 0x3f0009000060
def Reg.schRemoteCount : Nat := 0x3f0009000068
def Reg.schWithdraw : Nat := 0x3f0009000070
def Reg.schIntStatus : Nat := 0x3f0009000078
def Reg.schIntEnable : Nat := 0x3f0009000080
def Reg.schJobCfg (i : Nat) : Nat := 0x3f0009000100 + i * 0x20
def Reg.schJobBase (i : Nat) : Nat := 0x3f0009000108 + i * 0x20
def Reg.schJobTailDa (i : Nat) : Nat := 0x3f0009000110 + i * 0x20
def Reg.schJobState (i : Nat) : Nat := 0x3f0009000118 + i * 0x20
def Reg.schPartCtrl (i : Nat) : Nat := 0x3f0009000200 + i * 0x8
def Reg.schStandin (i : Nat) : Nat := 0x3f0009000240 + i * 0x8
def Reg.schClientCfg (i : Nat) : Nat := 0x3f0009001000 + i * 0x20
def Reg.schClientJobs (i : Nat) : Nat := 0x3f0009001008 + i * 0x20
def Reg.schClientFaults (i : Nat) : Nat := 0x3f0009001010 + i * 0x20
def Reg.schClientCycles (i : Nat) : Nat := 0x3f0009001018 + i * 0x20
-- HLT
def Reg.hltStCtrl : Nat := 0x3f000a000000
def Reg.hltStStatus : Nat := 0x3f000a000008
def Reg.hltStReq : Nat := 0x3f000a000010
def Reg.hltStResult : Nat := 0x3f000a000018
def Reg.hltEngOosLo : Nat := 0x3f000a000020
def Reg.hltEngOosHi : Nat := 0x3f000a000028
def Reg.hltFailThresh : Nat := 0x3f000a000030
def Reg.hltStCount : Nat := 0x3f000a000038
def Reg.hltThermCfg : Nat := 0x3f000a000040
def Reg.hltThermStatus : Nat := 0x3f000a000048
def Reg.hltThrottleCount : Nat := 0x3f000a000050
def Reg.hltDroopCfg : Nat := 0x3f000a000058
def Reg.hltTelCfg : Nat := 0x3f000a000060
def Reg.hltTelDa : Nat := 0x3f000a000068
def Reg.hltTelState : Nat := 0x3f000a000070
def Reg.hltIntStatus : Nat := 0x3f000a000078
def Reg.hltIntEnable : Nat := 0x3f000a000080
def Reg.hltTemp (i : Nat) : Nat := 0x3f000a001000 + i * 0x8
def Reg.hltDroop (i : Nat) : Nat := 0x3f000a002000 + i * 0x8
def Reg.hltProc (i : Nat) : Nat := 0x3f000a003000 + i * 0x8
-- SEC
def Reg.secStatus : Nat := 0x3f000b000000
def Reg.secCtrl : Nat := 0x3f000b000008
def Reg.secBootTime : Nat := 0x3f000b000010
def Reg.secImageSeq : Nat := 0x3f000b000018
def Reg.secImageDigest (i : Nat) : Nat := 0x3f000b000020 + i * 0x8
def Reg.secSerial : Nat := 0x3f000b000040
def Reg.secLevelRange : Nat := 0x3f000b000048
def Reg.secFuse : Nat := 0x3f000b000050
def Reg.secKeyHash (i : Nat) : Nat := 0x3f000b000100 + i * 0x8
def Reg.secOtpKeyDa : Nat := 0x3f000b000200
def Reg.secOtpKeyCtrl : Nat := 0x3f000b000208
def Reg.secSignState : Nat := 0x3f000b000210
def Reg.secSignLog : Nat := 0x3f000b000218
def Reg.secAttestReqDa : Nat := 0x3f000b000220
def Reg.secAttestOutDa : Nat := 0x3f000b000228
def Reg.secAttestCtrl : Nat := 0x3f000b000230
def Reg.secAttestStatus : Nat := 0x3f000b000238
def Reg.secNorAddr : Nat := 0x3f000b000240
def Reg.secNorDa : Nat := 0x3f000b000248
def Reg.secNorCtrl : Nat := 0x3f000b000250
def Reg.secNorStatus : Nat := 0x3f000b000258
def Reg.secIntStatus : Nat := 0x3f000b000260
def Reg.secIntEnable : Nat := 0x3f000b000268
-- PWR
def Reg.pwrStatus : Nat := 0x3f000c000000
def Reg.pwrCap : Nat := 0x3f000c000008
def Reg.pwrCapFuse : Nat := 0x3f000c000010
def Reg.pwrSbCap : Nat := 0x3f000c000018
def Reg.pwrInput : Nat := 0x3f000c000020
def Reg.pwrInputPeak : Nat := 0x3f000c000028
def Reg.pwrEnergy : Nat := 0x3f000c000030
def Reg.pwrCapCount : Nat := 0x3f000c000038
def Reg.pwrPpsStamp : Nat := 0x3f000c000040
def Reg.pwrPpsOffset : Nat := 0x3f000c000048
def Reg.pwrIntStatus : Nat := 0x3f000c000050
def Reg.pwrIntEnable : Nat := 0x3f000c000058
def Reg.pwrRail (i : Nat) : Nat := 0x3f000c000100 + i * 0x8
-- FLT
def Reg.fltCtrl : Nat := 0x3f000d000000
def Reg.fltRingDa : Nat := 0x3f000d000008
def Reg.fltRingTail : Nat := 0x3f000d000010
def Reg.fltRingHead : Nat := 0x3f000d000018
def Reg.fltStatus : Nat := 0x3f000d000020
def Reg.fltAlertStatus : Nat := 0x3f000d000028
def Reg.fltAlertEnable : Nat := 0x3f000d000030
def Reg.fltDropped : Nat := 0x3f000d000038
def Reg.fltInject : Nat := 0x3f000d000040
def Reg.fltNorCfg : Nat := 0x3f000d000048
def Reg.fltNorState : Nat := 0x3f000d000050
def Reg.fltCount (i : Nat) : Nat := 0x3f000d000100 + i * 0x8
def Reg.fltLast (i : Nat) : Nat := 0x3f000d000200 + i * 0x8

end Sys2Proof.Machine
end

