-- ==== Sys2Proof/Machine/IngestParts.lean ====
section
/-! DEFINITION. The parts of the state that belong to ingest, video decoding, alignment and publishing (R318 to R366). Every
field's default is its value after reset. Times of samples and pictures are PTP time in ns. -/

namespace Sys2Proof.Machine

/-- What a received frame is for, once R318 has passed it. -/
inductive RxKind
  /-- to the PTP client: over EtherType 0x88F7, or over UDP on IPv6 or IPv4 -/
  | ptp (ethernet ipv6 : Bool)
  /-- to the parser of a measurement stream -/
  | meas (stream : Nat)
  /-- to the parser of a video stream -/
  | video (stream : Nat)
  deriving DecidableEq, Repr

/-- A frame on its way to the PTP client or a parser: its port, stamp and message. -/
structure RxItem where
  port : Nat
  stamp : Int
  kind : RxKind
  data : List Byte
  deriving DecidableEq, Repr

/-- A clock that has sent Announce: its port identity, the rank of its data set (lower is better), when it was last and
before that heard, and its announce interval in cycles. -/
structure PtpMaster where
  ident : Nat
  rank : Nat
  heard : Nat
  before : Option Nat := none
  every : Nat
  deriving DecidableEq, Repr

/-- The PTP client (R321, R322). -/
structure PtpClient where
  masters : List PtpMaster := []
  sel : Option Nat := none
  /-- a two-step Sync that waits for its Follow_Up: sequence number, arrival, correction -/
  sync : Option (Nat × Int × Int) := none
  /-- origin (with corrections) and arrival of the last Sync -/
  last : Option (Int × Int) := none
  lastAt : Nat := 0
  delaySeq : Nat := 0
  /-- the Delay_Req that waits for its response: sequence number and when it left -/
  delaySent : Option (Nat × Int) := none
  delayEvery : Option Nat := none
  delayAt : Nat := 0
  path : Int := 0
  utc : Option Int := none
  deriving DecidableEq, Repr

/-- A measurement stream (R333 to R338). -/
structure MeasSt where
  /-- the configuration frame in force -/
  cfg : Option (List Byte) := none
  fault : Bool := false
  /-- the stream's configuration frames collected so far of a fragmented CFG-3 -/
  frags : List Byte := []
  seq : Nat := 0
  /-- blocks received with STAT[10] set (R335) -/
  changes : Nat := 0
  /-- row credits taken, of parity 0 and 1, and the next parity -/
  taken : Bool × Bool := (false, false)
  parity : Nat := 0
  /-- engine, queue and k of its Pulse binding -/
  bound : Option (Nat × Nat × Nat) := none
  /-- the engine that took the stream's last trigger (R390) -/
  sentTo : Option Nat := none
  deriving DecidableEq, Repr

/-- A sample on its way to the Aligner: channel, timestamp, value, whether it is a POLAR angle, and its frame's stamp. -/
structure AlnSample where
  ch : Nat
  t : Int
  v : W32
  angle : Bool := false
  stamp : Int := 0
  deriving DecidableEq, Repr

/-- A coded picture under assembly (R340): RTP timestamp, arrival of the first packet (cycle and stamp), its packets
(sequence number, bytes), the sequence number that carries the marker, and when a later timestamp was seen. -/
structure PicAsm where
  ts : Nat
  at0 : Nat
  stamp : Int
  pkts : List (Nat × Nat) := []
  marker : Option Nat := none
  later : Option Nat := none
  die : Nat := 0
  deriving DecidableEq, Repr

/-- A coded picture that waits for an instance. -/
structure VPic where
  seq : Nat
  t : Int
  /-- bytes kept, and bytes received -/
  bytes : Nat
  total : Nat := 0
  cut : Bool := false
  die : Nat := 0
  handed : Nat := 0
  /-- it would serve as a reference; it is a random-access picture -/
  isRef : Bool := false
  rap : Bool := false
  deriving DecidableEq, Repr

/-- A picture in decode. -/
structure VDecode where
  inst : Nat
  pic : VPic
  slot : Nat
  started : Nat
  concealed : Bool := false
  film : Bool := false
  wide : Bool := false
  width : Nat := 0
  height : Nat := 0
  deriving DecidableEq, Repr

/-- A picture that has ended: one that was decoded keeps its slot; `placed` are the windows that placed it or used it as a
hold source, with the cycle of each (R357, R361). -/
structure VDone where
  seq : Nat
  t : Int
  slot : Option Nat := none
  skipped : Bool := false
  concealed : Bool := false
  film : Bool := false
  wide : Bool := false
  isRef : Bool := false
  visible : Nat := 0
  placed : List (Nat × Nat) := []
  deriving DecidableEq, Repr

/-- A video stream (R339 to R349). `state` is VDC_STREAM_STATE.STATE. -/
structure VideoSt where
  state : Nat := 0
  cause : Nat := 0
  film : Bool := false
  level : Nat := 0
  width : Nat := 0
  height : Nat := 0
  wide : Bool := false
  /-- the anchor (A, R) and the run of pictures far from it -/
  anchor : Option (Int × Nat) := none
  far : Nat := 0
  ssrc : Option Nat := none
  seq : Nat := 0
  /-- the RTP sequence number at which the next picture begins -/
  start : Option Nat := none
  asm : List PicAsm := []
  waiting : List VPic := []
  dec : Option VDecode := none
  done : List VDone := []
  failures : Nat := 0
  reanchors : Nat := 0
  /-- TCK_COUNT + 1 of the last fault record (R346) -/
  noted : Nat := 0
  deriving DecidableEq, Repr

/-- An Aligner window (R351): its tick, start, end (time and cycle, once it has one), N, G, CUTOFF_US, configuration and
counts. -/
structure WinSt where
  k : Nat
  start : Int
  stop : Option (Int × Nat) := none
  n : Nat
  cfg : List Byte
  first : Bool := false
  late : Nat := 0
  other : Nat := 0
  /-- pictures of the streams that a later configuration removed or changed while the window was closing, by stream (R330) -/
  olds : List (Nat × List VDone) := []
  deriving DecidableEq, Repr

/-- The publish ring (R362, R363). -/
structure PubSt where
  head : Nat := 0
  tail : Nat := 0
  fresh : Bool := false
  halted : Bool := false
  deriving DecidableEq, Repr

/-- Ingest. Streams are keyed by STREAM, samples by channel, held triggers by engine. -/
structure IngSt where
  cfg : Option (List Byte) := none
  pending : Option (List Byte) := none
  pendingAt : Nat := 0
  rx : List RxItem := []
  client : PtpClient := {}
  meas : List (Nat × MeasSt) := []
  video : List (Nat × VideoSt) := []
  held : List (Nat × List (Nat × Nat)) := []
  queue : List AlnSample := []
  samples : List (Nat × List AlnSample) := []
  /-- group entries with the start of the first window that each governs: its channels' earlier samples are not its own (R330) -/
  since : List (List Byte × Int) := []
  wins : List WinSt := []
  pub : PubSt := {}
  deriving DecidableEq, Repr

end Sys2Proof.Machine
end

