-- ==== Sys2Proof/Machine/ServiceParts.lean ====
section
/-! DEFINITION. The parts of the state that belong to job rings, self-test and health, security and boot, and power. Every
field's default is its value at the internal reset release; what the OTP and the NOR hold is that of a new part. -/

namespace Sys2Proof.Machine

/-- A job ring (R384, R385): HEAD, the last TAIL read, and the entries placed ahead of HEAD by sequence number. -/
structure JobRing where
  head : Nat := 0
  tail : Nat := 0
  fresh : Bool := false
  halted : Bool := false
  placed : List Nat := []
  deriving DecidableEq, Repr

/-! ### Self-test and health -/

/-- Why an engine is in a self-test: F_SELFTEST's KIND. -/
inductive TestKind
  | rotation | host | retest
  deriving DecidableEq, Repr

/-- The code of a kind of test (R451). -/
def TestKind.code : TestKind → Nat
  | .rotation => 0 | .host => 1 | .retest => 2

/-- An engine in its self-test slot: when the slot started, and when the test did (R388). -/
structure TestSlot where
  engine : Nat
  kind : TestKind
  start : Nat
  /-- the engine still steps the triggers of its FIFO, or has not yet reached a step boundary -/
  draining : Bool := true
  testing : Option Nat := none
  deriving DecidableEq, Repr

/-- What the rotation keeps of an engine: the end of the last passing test (PTP ns), passes in a row of ENGINE requests
while it is out of service, failed tests since RESET_N (R433, R440). -/
structure EngineHealth where
  lastPass : Nat := 0
  passes : Nat := 0
  failed : Nat := 0
  deriving DecidableEq, Repr

/-- A temperature sensor: consecutive samples that differ from its neighbours, and consecutive ones at 115 °C (R445,
R447). -/
structure SensorSt where
  far : Nat := 0
  hot : Nat := 0
  deriving DecidableEq, Repr

/-- A die's thermal cap (R446): in eighths, when it last stepped down, and since when its hottest sensor has read below
THROTTLE_C − HYST, or the last step up since. -/
structure DieSt where
  cap : Nat := 8
  downAt : Option Nat := none
  upAt : Option Nat := none
  deriving DecidableEq, Repr

/-- A rail's droop detector (R448): since when a droop holds the cap at 4/8, and the last record, cycle + 1. -/
structure RailSt where
  droop : Option Nat := none
  noted : Nat := 0
  deriving DecidableEq, Repr

/-- Self-test, sensors and telemetry. -/
structure HealthSt where
  /-- the engine whose rotation slot comes next -/
  next : Nat := 0
  /-- when the last rotation slot started, cycle + 1 -/
  slotAt : Nat := 0
  slots : List TestSlot := []
  engines : List (Nat × EngineHealth) := []
  /-- HLT_ST_REQ: kind and target, oldest first (R444) -/
  requests : List (Nat × Nat) := []
  /-- engines with an ENGINE request whose test is in progress -/
  host : List Nat := []
  /-- engines that the check threshold sends for retest (R439) -/
  retest : List Nat := []
  /-- since when full-rate mode has lasted (R443) -/
  fullSince : Option Nat := none
  sensors : List (Nat × SensorSt) := []
  /-- D0, D1, IOA, IOB -/
  dies : List DieSt := [{}, {}, {}, {}]
  rails : List (Nat × RailSt) := []
  /-- telemetry records waiting to be flushed, oldest first; the next SEQ; whether one was dropped; the counters at the last
  record (R459) -/
  tel : List (List Byte) := []
  telSeq : Nat := 0
  telDropped : Bool := false
  telBase : List Nat := []
  telAt : Nat := 0
  /-- some die's thermal cap is below 8/8 since then; cycles it was so before (R446) -/
  hotSince : Option Nat := none
  hotCycles : Nat := 0
  /-- a lockstep mismatch that waits for the standby pair, and whether the standby pair runs (R455) -/
  mismatch : Option Nat := none
  standby : Bool := false
  deriving DecidableEq, Repr

/-! ### Security and boot -/

/-- A firmware NOR command in progress (R467): CMD, NOR offset, DA, length. -/
structure NorOp where
  cmd : Nat
  ofs : Nat
  da : Nat
  len : Nat
  deriving DecidableEq, Repr

/-- A log in NOR (R460, R482): the current sector, records written in it, sectors skipped, and the next sector once it is erased. -/
structure NorLog where
  sector : Nat := 0
  used : Nat := 0
  skipped : List Nat := []
  ahead : Option Nat := none
  deriving DecidableEq, Repr

/-- The NOR and the OTP, which a reset leaves as they are. `nor` lists the bytes that are not 0xFF. -/
structure Persist where
  nor : List (Nat × Byte) := []
  /-- erase counts by sector -/
  erases : List (Nat × Nat) := []
  /-- key hashes of slots 2 and 3 (R479) -/
  keys : List (Nat × List Byte) := []
  revoked : List Nat := []
  /-- the SVN floor (R478) and the tree counter Q (R481) -/
  floor : Nat := 0
  q : Nat := 0
  /-- where the fault log stands (R460) -/
  log : NorLog := {}
  deriving DecidableEq, Repr

/-- A slot that the boot ROM has rejected (R475): the slot, the code, the check, the record. -/
structure Rejected where
  slot : Nat
  code : Nat
  check : Nat
  record : Nat := 0
  deriving DecidableEq, Repr

/-- The security block. -/
structure SecSt where
  rejected : List Rejected := []
  /-- the slot that passed, the offset of its next record and how many are applied -/
  slot : Option Nat := none
  cursor : Nat := 128
  applied : Nat := 0
  entry : Nat := 0
  /-- the boot-time engine tests have run (R477) -/
  tested : Bool := false
  op : Option NorOp := none
  sign : NorLog := { sector := 1008 }
  signSeq : Nat := 0
  /-- the signing log has been read at boot (R484) -/
  signRead : Bool := false
  j : Nat := 0
  jRes : Nat := 0
  ready : Bool := false
  exhausted : Bool := false
  /-- attestation tokens, and when the bucket last gained one (R486) -/
  tokens : Nat := 0
  tokensAt : Nat := 0
  /-- a GO that waits for a new tree; the cycle of the last accepted GO, plus 1 (R489) -/
  waiting : Bool := false
  goAt : Nat := 0
  deriving DecidableEq, Repr

/-! ### Power -/

/-- How far power-up has come (R494). -/
inductive PowerStep
  | off | standby | charged | group1 | group2 | group3a | group3b | good
  deriving DecidableEq, Repr

/-- Power, reset and the timing pin. -/
structure PowerSt where
  step : PowerStep := .good
  goodAt : Nat := 0
  /-- RESET_N is taken; the internal reset release has happened -/
  low : Bool := false
  released : Bool := true
  refLost : Bool := false
  /-- the standby latch holds a shutdown or the loss of REFCLK (R500, R505) -/
  latched : Bool := false
  /-- an orderly shutdown is under way: cause and rail (R499) -/
  shutting : Option (Nat × Nat) := none
  /-- the module stays off after a shutdown; when a THERMAL one ended (R500) -/
  down : Bool := false
  thermalAt : Option Nat := none
  /-- since when the mean input power has been below 97 % of the cap in force (R501); the power cap's last limiting mark -/
  calm : Option Nat := none
  /-- power evaluations since the last telemetry record: number, sums of power and voltage, largest power (R459) -/
  samples : Nat := 0
  sumPower : Nat := 0
  sumVolts : Nat := 0
  peak : Nat := 0
  /-- when limiting began; cycles it lasted before (PWR_CAP_COUNT) -/
  limited : Option Nat := none
  limitedFor : Nat := 0
  /-- PPS_IN: the last accepted edge, cycle + 1 (R508) -/
  pps : Nat := 0
  /-- the last edge, accepted or ignored, cycle + 1; PPS_MISSING is set since then -/
  ppsEdge : Nat := 0
  ppsMissing : Bool := false
  /-- the last evaluation of the power cap, cycle + 1; input energy since RESET_N in µJ (R501) -/
  evalAt : Nat := 0
  energy : Nat := 0
  /-- the sideband's dynamic address (R504) -/
  address : Option Nat := none
  deriving DecidableEq, Repr

end Sys2Proof.Machine
end

