-- ==== Sys2Proof/Machine/State.lean ====
section
/-! DEFINITION. The machine's state, the reasons a step can stop, and the state after reset. -/

namespace Sys2Proof.Machine

/-- The block. Tables (`regs`, `mem`, `kdata`, …) are in the canonical form of Tab.lean. -/
structure State where
  /-- commands waiting, first in, first out -/
  pending : List Instr := []
  /-- ACLK cycles since the internal reset release -/
  now : Nat := 0
  /-- the model's own counter of free values drawn (assumption log 3) -/
  free : Nat := 0
  /-- registers that are not at their reset values, by DA -/
  regs : List (Nat × Word) := []
  /-- bytes of Pantry, Cellar, Attic and the Shelf windows that are not 0, by DA (R58) -/
  mem : List Host.Cell := []
  /-- Shelf generation tags, by e × 1,536 + b (R162) -/
  tags : List (Nat × Nat) := []
  /-- Keeper data memory, by e × 128 KiB + offset (R174) -/
  kdata : List (Nat × Byte) := []
  /-- instruction banks, by (2 e + bank) × 32 KiB + offset (R178) -/
  imem : List (Nat × Byte) := []
  /-- Larder read copies, by 2 × line + die (R65) -/
  larder : List (Nat × Bool) := []
  pantry : TierSt := {}
  cellar : TierSt := {}
  tick : Tick := {}
  engines : List (Nat × EngineSt) := []
  /-- by 4 e + q -/
  queues : List (Nat × QueueSt) := []
  /-- by 16 e + k -/
  ctxs : List (Nat × Ctx) := []
  /-- stand-ins whose area is being mirrored, by index (R390) -/
  mirrors : List Nat := []
  /-- stand-ins that take their reserved engine's triggers, by index (R390) -/
  moved : List Nat := []
  /-- stand-ins that have handed the triggers back and still step those of their FIFO, by index (R390) -/
  returning : List Nat := []
  /-- engines in the 100 µs before their self-test slot: 1 (R388) -/
  leads : List (Nat × Nat) := []
  flt : FltSt := {}
  ing : IngSt := {}
  ptp : PtpClock := {}
  /-- by partition (R472) -/
  parts : List (Nat × PartLimits) := []
  /-- mapping bundles, by partition (R209) -/
  bundles : List (Nat × BundleSt) := []
  /-- links X0 to X7 and Dulis (8) -/
  links : List (Nat × LinkSt) := []
  attic : AtticSt := {}
  /-- job rings, by partition (R385) -/
  jobs : List (Nat × JobRing) := []
  health : HealthSt := {}
  sec : SecSt := {}
  persist : Persist := {}
  power : PowerSt := {}
  /-- the next tag of a remote request (R405, R417) -/
  ktag : Nat := 0
  /-- Shelf and Larder words read in the current scrub pass, of D0 and D1 (R62) -/
  words : Nat × Nat := (0, 0)
  /-- what has been done in this cycle where the spec orders the events of a cycle: place ↦ 1 + the rank last reached there
  (R50, R70, R416, R515) -/
  cycle : List (Nat × Nat) := []
  /-- bits that events have set in this cycle, by register (R11) -/
  setNow : List (Nat × Nat) := []
  /-- partitions that have broken an obligation whose breach has no stated behaviour, not reloaded since (R4) -/
  broken : List Nat := []
  /-- codewords found to hold an uncorrectable error, not overwritten since: first byte, length and error info (R61, R85, R87) -/
  dead : List (Nat × Nat × Nat) := []
  /-- what has left the block, newest first -/
  outbox : List Output := []
  deriving DecidableEq, Repr

/-- Why the machine stops. The manual gives the block no such stop: no command raises one. -/
inductive Fault
  /-- never raised: every error the manual names is a record or an answer of the block. Safe. -/
  | none
  deriving DecidableEq, Repr

/-- Why a command has no meaning. -/
inductive Refusal
  /-- raised by `exec` for a row that has no meaning yet. Safe: nothing is claimed of such a row. -/
  | notModelled (mnemonic : String)
  deriving DecidableEq, Repr

/-- The machine right after reset (R12, R98, R141, R185, R262, R299, R365, R392, R429, R463): every field at its
default, no register listed, no byte listed. -/
def State.reset : State := {}

end Sys2Proof.Machine
end

