-- ==== Sys2Proof/Machine/Base.lean ====
section
/-! DEFINITION. The operations everything rests on: time, registers and their counters, free values and outputs. -/

namespace Sys2Proof.Machine

/-- ACLK cycles of n µs. -/
def us (n : Nat) : Nat := n * 1100

/-- PTP time in ns, or the local timeline before the first lock (R450). -/
def State.timeNs (s : State) : Nat := ((s.now * 10 / 11 : Nat) + s.ptp.offset).toNat

/-! ### Registers -/

/-- The stored value of a register. -/
def State.rd (s : State) (a : Nat) : Nat := (tabGet regReset s.regs a).toNat

/-- Sets a register. -/
def State.wr (s : State) (a v : Nat) : State := { s with regs := tabSet regReset s.regs a (BitVec.ofNat 64 v) }

/-- A field of a register. -/
def State.fld (s : State) (a hi lo : Nat) : Nat := bits (s.rd a) hi lo

/-- Sets a field of a register; its other bits stay. -/
def State.setFld (s : State) (a hi lo v : Nat) : State := s.wr a (putBits (s.rd a) hi lo v)

/-- Sets one bit of a register. -/
def State.setBit (s : State) (a i : Nat) (b : Bool) : State := s.setFld a i i (b2n b)

/-- Adds n to a counter field, saturating. -/
def State.bump (s : State) (a hi lo n : Nat) : State := s.wr a (satAdd (s.rd a) hi lo n)

/-- The bits of a register that events have set in this cycle (R11). -/
def State.setInCycle (s : State) (a : Nat) : Nat := tabGet (fun _ => 0) s.setNow a

/-- An event sets its W1C bit, and no write of the same cycle clears it; the bit stays until it is cleared (R10, R11). -/
def State.event (s : State) (a i : Nat) : State :=
  { s.setBit a i true with setNow := tabSet (fun _ => 0) s.setNow a (s.setInCycle a ||| 2 ^ i) }

/-! ### Free values -/

/-- A fresh undefined byte (R4). -/
def State.freeByte (s : State) : Byte × State := (Config.freeByte s.free, { s with free := s.free + 1 })

/-- A fresh number that the manual leaves open. -/
def State.freeNat (s : State) : Nat × State := (Config.freeNat s.free, { s with free := s.free + 1 })

/-! ### Outputs -/

/-- Sends an output. -/
def State.emit (s : State) (o : Output) : State := { s with outbox := o :: s.outbox }

/-- An action of a rank has been done at a place in this cycle (R50, R70, R416, R462, R515). -/
def State.reached (s : State) (place rank : Nat) : State :=
  { s with cycle := tabSet (fun _ => 0) s.cycle place (max (rank + 1) (tabGet (fun _ => 0) s.cycle place)) }

end Sys2Proof.Machine
end

