-- ==== Sys2Proof/Machine/Link.lean ====
section
/-! DEFINITION. The Felras link layer, shared by the eight Ketric ports and Dulis: states, credits, sequence numbers,
replay, and the sending and receiving of packets (R394 to R398, R405, R409). -/

namespace Sys2Proof.Machine

/-- The companion's link. -/
def dulis : Nat := 8

/-- The register that shows a link's STATE and WIDTH: KTF_PORT_STATUS_n or ATC_STATUS. -/
def linkReg (n : Nat) : Nat := if n = dulis then Reg.atcStatus else Reg.ktfPortStatus n

/-- A link. -/
def State.link (s : State) (n : Nat) : LinkSt := tabGet (fun _ => {}) s.links n

/-- Sets a link. -/
def State.setLink (s : State) (n : Nat) (x : LinkSt) : State := { s with links := tabSet (fun _ => {}) s.links n x }

/-- The state of a link: 0 DOWN, 1 TRAINING, 2 UP, 3 FAILED, 4 MISWIRED (R398). -/
def State.linkState (s : State) (n : Nat) : Nat := s.fld (linkReg n) 2 0

/-- The lanes of a link as a count. -/
def laneCount (lanes : Nat) : Nat := (setBits 4 lanes).length

/-- Sets the state of a link and shows its lanes (KTF_PORT_STATUS, ATC_STATUS). -/
def State.setLinkState (s : State) (n st : Nat) : State :=
  let lanes := (s.link n).lanes
  let s := (s.setFld (linkReg n) 2 0 st).setFld (linkReg n) 5 3 (laneCount lanes)
  if n = dulis then s else s.setFld (linkReg n) 9 6 lanes

/-- Flits of a packet (R395, R405). -/
def Packet.flits (p : Packet) : Nat := 1 + ceilDiv p.payload.length 32

/-- A packet as its flits carry it: the header of R405, with its CRC-32, and the payload. -/
def Packet.bytes (p : Packet) : List Byte :=
  let head := leBytes 1 p.type ++ leBytes 1 (p.vc % 16 + b2n p.pool * 2 ^ 4 + b2n p.detour * 2 ^ 5 + b2n p.expressed * 2 ^ 6) ++
    leBytes 2 p.dst ++ leBytes 2 p.src ++ leBytes 1 p.hops ++ leBytes 1 p.op ++ leBytes 8 p.addr ++ leBytes 3 p.tag ++
    leBytes 1 p.credCount ++ leBytes 2 p.len ++ leBytes 2 p.status ++ leBytes 3 (p.seq % 4096 + p.ack % 4096 * 2 ^ 12) ++
    leBytes 1 (p.credVc % 16 + b2n p.credPool * 2 ^ 4 + b2n p.nak * 2 ^ 5)
  head ++ leBytes 4 (crc32 (head ++ leBytes 4 0 ++ p.payload)) ++ p.payload

/-- The place of a virtual channel among the nine of R403: four of REQ, four of RSP, one of CTL or SNP. -/
def vcIndex (vc : Nat) : Nat := if vc / 4 < 2 then vc else 8

/-- The credit count a training grants (R409). -/
def LinkSt.granted (x : LinkSt) : LinkSt :=
  { x with dedicated := List.replicate 9 32, pooled := 2784, owed := List.replicate 18 0 }

/-- Bytes sent and not acknowledged. -/
def LinkSt.held (x : LinkSt) : Nat := (x.unacked.map fun p => 32 * p.flits).foldl (· + ·) 0

/-- Whether the credits and the replay buffer let a packet go (R396, R409). -/
def LinkSt.canSend (x : LinkSt) (p : Packet) : Bool :=
  decide (x.unacked.length < 2048) && decide (x.held < 131072) &&
    (decide (p.flits ≤ x.dedicated.getD (vcIndex p.vc) 0) || decide (p.flits ≤ x.pooled))

/-- The index of the first credit kind with at least 4 credits owed. -/
def LinkSt.owedKind (x : LinkSt) : Option Nat := (List.range 18).find? fun i => decide (4 ≤ x.owed.getD i 0)

/-- The VC a credit kind's number names. -/
def kindVc (i : Nat) : Nat := if i % 9 = 8 then 8 else i % 9

/-- The packet as it goes out: SEQ, ACK, its pool and returned credits, and the link afterwards (R396, R409). -/
def LinkSt.stamp (x : LinkSt) (p : Packet) : Packet × LinkSt :=
  let i := vcIndex p.vc
  let own := decide (p.flits ≤ x.dedicated.getD i 0)
  let seq := (x.tx + 1) % 4096
  let k := x.owedKind
  let n := min 255 (match k with
    | some j => x.owed.getD j 0 / 4
    | none => 0)
  let j := k.getD 0
  let q : Packet := { p with
    seq := seq, ack := x.rx, pool := !own, credCount := n
    credVc := if n = 0 then 0 else kindVc j
    credPool := decide (n ≠ 0) && decide (9 ≤ j) }
  (q, { x with
    tx := seq, unacked := x.unacked ++ [q]
    owed := if n = 0 then x.owed else x.owed.set j (x.owed.getD j 0 - 4 * n)
    dedicated := if own then x.dedicated.set i (x.dedicated.getD i 0 - p.flits) else x.dedicated
    pooled := if own then x.pooled else x.pooled - p.flits })

/-- Frees the input buffer a forwarded packet occupied: its credits are owed to the neighbour (R409). -/
def State.freeBuf (s : State) : Option (Nat × Nat × Bool × Nat) → State
  | none => s
  | some (n, vc, pool, flits) =>
    let x := s.link n
    let i := vcIndex vc + (if pool then 9 else 0)
    s.setLink n { x with owed := x.owed.set i (x.owed.getD i 0 + flits) }

/-- Sends a packet on link n now. -/
def State.transmit (s : State) (n : Nat) (q : Queued) : State :=
  let (p, x) := (s.link n).stamp q.pkt
  let s := (s.setLink n x).emit (.packet n p)
  let s := if n = dulis then s else s.bump (Reg.ktfPortTx n) 63 0 p.flits
  s.freeBuf q.buf

/-- The classes in the order an output serves them: CTL (and SNP), RSP, REQ (R410). -/
def classRank (vc : Nat) : Nat := if vc / 4 = 1 then 1 else if vc / 4 = 0 then 2 else 0

/-- The input that a packet came from: a link, or 9 when it was made here. -/
def Queued.input (q : Queued) : Nat :=
  match q.buf with
  | some b => b.1
  | none => 9

/-- The next packet of a queue that may go: the best class first, in a class the inputs in turn after the one served last, and of an input
and virtual channel the oldest (R396, R410). -/
def LinkSt.nextOut (x : LinkSt) : Option Nat :=
  let at1 := fun (i : Nat) => x.queue.getD i { pkt := {} }
  let heads := (List.range x.queue.length).filter fun i =>
    x.canSend (at1 i).pkt &&
      (x.queue.take i).all fun q => decide (q.pkt.vc ≠ (at1 i).pkt.vc) || decide (q.input ≠ (at1 i).input)
  (List.range 3).findSome? fun r =>
    let turn := fun (i : Nat) => ((at1 i).input + 9 - x.served.getD r 9) % 10
    (heads.filter fun i => decide (classRank (at1 i).pkt.vc = r)).foldl (fun b i => match b with
      | none => some i
      | some j => if turn i < turn j then some i else some j) none

/-- A link without packet i of its queue, whose input has been served. -/
def LinkSt.serve (x : LinkSt) (i : Nat) (q : Queued) : LinkSt :=
  { x with queue := x.queue.eraseIdx i, served := x.served.set (classRank q.pkt.vc) q.input }

/-- Sends what may go, at most k packets. -/
def State.drainLink (s : State) (n : Nat) : Nat → State
  | 0 => s
  | k + 1 =>
    if s.linkState n ≠ 2 then s else
    let x := s.link n
    match x.nextOut with
    | none => s
    | some i =>
      match x.queue[i]? with
      | none => s
      | some q => ((s.setLink n (x.serve i q)).transmit n q).drainLink n k

/-- Queues a packet for link n and sends what may go. -/
def State.sendOn (s : State) (n : Nat) (q : Queued) : State :=
  let x := s.link n
  (s.setLink n { x with queue := x.queue ++ [q] }).drainLink n (x.queue.length + 1)

/-- The CTL packet that carries link fields only. -/
def idlePacket (nak : Bool) : Packet := { type := 0x11, vc := 8, nak := nak }

/-- Sends NAK with ACK set to the last good SEQ (R396). -/
def State.sendNak (s : State) (n : Nat) : State := s.sendOn n { pkt := idlePacket true }

/-- Drops the packets that an ACK names as received. -/
def LinkSt.acked (x : LinkSt) (ack : Nat) : LinkSt :=
  if x.unacked.any (fun p => decide (p.seq = ack)) then
    { x with unacked := (x.unacked.dropWhile fun p => decide (p.seq ≠ ack)).drop 1 }
  else x

/-- Takes in the credits a packet returns. -/
def LinkSt.credited (x : LinkSt) (p : Packet) : LinkSt :=
  let i := vcIndex p.credVc
  if p.credPool then { x with pooled := x.pooled + 4 * p.credCount }
  else { x with dedicated := x.dedicated.set i (x.dedicated.getD i 0 + 4 * p.credCount) }

/-- The counter of replays and CRC failures of a link. -/
def replayReg (n : Nat) : Nat := if n = dulis then Reg.atcReplay else Reg.ktfPortReplay n

/-- Replays every packet that has not been acknowledged (R396). -/
def State.replay (s : State) (n : Nat) : State :=
  let x := s.link n
  let s := s.bump (replayReg n) 31 0 1
  x.unacked.foldl (fun s p => s.emit (.packet n { p with ack := x.rx })) s

/-- A packet arrives whole on link n: in sequence it is taken; a repeated one is discarded; any other is discarded with
a NAK (R396). A packet that carries NAK makes the sender replay. The answer says whether it was taken. -/
def State.linkReceive (s : State) (n : Nat) (p : Packet) : State × Bool :=
  if s.linkState n ≠ 2 then (s, false) else
  let x := s.link n
  if p.seq % 4096 = (x.rx + 1) % 4096 then
    let x := (({ x with rx := p.seq % 4096 }).acked p.ack).credited p
    let s := s.setLink n x
    let s := if n = dulis then s else s.bump (Reg.ktfPortRx n) 63 0 p.flits
    let s := if p.nak then s.replay n else s
    (s.drainLink n (x.queue.length + 1), true)
  else if (x.rx + 4096 - p.seq % 4096) % 4096 < 2048 then (s, false)
  else (s.sendNak n, false)

/-- The buffer a received packet occupies. -/
def bufOf (n : Nat) (p : Packet) : Option (Nat × Nat × Bool × Nat) := some (n, p.vc, p.pool, p.flits)

/-- A received packet has been used up: its credits are owed, and an IDLE returns them when no packet is waiting
(R409). -/
def State.consume (s : State) (n : Nat) (p : Packet) : State :=
  let s := s.freeBuf (bufOf n p)
  if (s.link n).queue.isEmpty ∧ (s.link n).owedKind.isSome then s.sendOn n { pkt := idlePacket false } else s

end Sys2Proof.Machine
end

