-- ==== Sys2Proof/Machine/Ops.lean ====
section
/-! DEFINITION. The named operations over memory: bytes, the regions of the device address map (R58), the maps of the tiers, the
tables of engines, queues and contexts, and the passing of time. -/

namespace Sys2Proof.Machine

/-! ### Memory bytes -/

/-- What an unlisted byte reads as (assumption log 1). -/
def memDefault (_ : Nat) : Byte := 0

/-- The byte at a DA. -/
def State.byteAt (s : State) (a : Nat) : Byte := tabGet memDefault s.mem a

/-- n bytes from a DA. -/
def State.load (s : State) (a n : Nat) : List Byte := tabGetList memDefault s.mem a n

/-- The little-endian number of n bytes at a DA. -/
def State.loadNat (s : State) (a n : Nat) : Nat := leNat (s.load a n)

/-- The home die of a Cellar or Attic line, from its DA (R64). -/
def parityDie (a : Nat) : Nat := b2n (xorBits a [9, 17, 25, 33, 41])

/-- The R75 coordinates of a Pantry DA with every channel in service: pseudo-channel and local granule. -/
def pantryMap (a : Nat) : Nat × Nat :=
  let q := ofBits 7 fun i =>
    xorBits a ([8 + i, 15 + i, 22 + i, 29 + i] ++ (if i ≤ 2 then [36 + i] else []))
  let v := bits a 38 15
  let l := v / 3
  (128 * ((v % 3 + l % 3) % 3) + q, l)

/-- DA of the first Cellar byte (R58). -/
def cellarBase : Nat := 0x010000000000

/-- The R76 coordinates of a Cellar DA: channel and local granule. -/
def cellarMap (a : Nat) : Nat × Nat :=
  let co := past a cellarBase
  let ch := ofBits 8 fun i =>
    xorBits co ([9 + i, 17 + i, 25 + i, 33 + i] ++ (if i ≤ 1 then [41 + i] else []))
  (ch, bits co 42 17)

/-- The home die of a line (R64): a Pantry line's is the die of the stack its DA maps to (R15). -/
def homeDie (a : Nat) : Nat :=
  if a < cellarBase then (pantryMap a).1 / 192 else parityDie a

/-- The home slice of a line on its home die (R64). -/
def homeSlice (a : Nat) : Nat :=
  ofBits 6 fun i => xorBits a [8 + i, 14 + i, 20 + i, 26 + i, 32 + i, 38 + i]

/-- Drops the read copies that a write to bytes [a, a + n) invalidates: those of the die that is not home (R65). -/
def dropCopies (lard : List (Nat × Bool)) (a n : Nat) : List (Nat × Bool) :=
  lard.filter fun c =>
    !(decide (a / 256 ≤ c.1 / 2) && decide (c.1 / 2 ≤ (a + n - 1) / 256) && decide (c.1 % 2 ≠ homeDie (c.1 / 2 * 256)))

/-- DA of the Attic window (R58). -/
def atticBase : Nat := 0x100000000000

/-- DA of the first Shelf window (R58). -/
def shelfBase : Nat := 0x200000000000

/-- The mask of R420's WR_PART: the bytes of a sector that a piece covers. -/
def partMask (ofs n : Nat) : Nat := maskBits (ofs + n - 1) ofs

/-- The write message of one Attic sector: WR_FULL when the piece is the sector, WR_PART otherwise (R420, R422). -/
def atticMsg (comp tag : Nat) (ofs : Nat) (bs : List Byte) : Packet :=
  if bs.length = 64 then { type := 0x22, addr := comp, tag := tag, len := 64, payload := bs }
  else { type := 0x23, addr := comp, tag := tag, len := 96,
         payload := leBytes 8 (partMask ofs bs.length) ++ leBytes 24 0 ++ List.replicate ofs 0 ++ bs ++
           List.replicate (64 - ofs - bs.length) 0 }

/-- Sends one sector's write to the companion and notes it as not yet visible there (R422). -/
def State.atticSend (s : State) (a : Nat) (bs : List Byte) : State :=
  let tag := s.attic.tag
  let comp := (s.rd Reg.atcWinBase + past (a - a % 64) atticBase) % 2 ^ 48
  let s := { s with attic := { s.attic with
    tag := (tag + 1) % 2 ^ 24, writes := s.attic.writes ++ [({ tag := tag, da := a, since := s.now } : AtticWrite)] } }
  s.sendOn dulis { pkt := atticMsg comp tag (a % 64) bs }

/-- Cuts an Attic write at its sectors and sends each; k bounds their number. -/
def State.atticSendAll (s : State) (a : Nat) (bs : List Byte) : Nat → State
  | 0 => s
  | k + 1 =>
    if bs.isEmpty then s else
    let n := min bs.length (64 - a % 64)
    (s.atticSend a (bs.take n)).atticSendAll (a + n) (bs.drop n) k

/-- Writes bytes at a DA: a codeword written whole holds no error any more (R87), and a write to Attic goes out to the companion
(R422). -/
def State.store (s : State) (a : Nat) (bs : List Byte) : State :=
  let s := { s with
    mem := tabSetList memDefault s.mem a bs, larder := dropCopies s.larder a bs.length
    dead := s.dead.filter fun w => !(decide (a ≤ w.1) && decide (w.1 + w.2.1 ≤ a + bs.length)) }
  if atticBase ≤ a ∧ a < shelfBase then s.atticSendAll a bs (bs.length / 64 + 2) else s

/-- n fresh undefined bytes. -/
def freeBytes (k : Nat) : Nat → List Byte
  | 0 => []
  | n + 1 => Config.freeByte k :: freeBytes (k + 1) n

/-- Makes n bytes from a DA undefined (R4, R130, R182). -/
def State.havoc (s : State) (a n : Nat) : State :=
  { s.store a (freeBytes s.free n) with free := s.free + n }

/-- Makes byte ranges undefined. -/
def State.havocAll (s : State) : List (Nat × Nat) → State
  | [] => s
  | (a, n) :: r => (s.havoc a n).havocAll r

/-! ### The device address map -/

/-- What a DA names (R58). -/
inductive Region
  | pantry | cellar | attic | shelf (e : Nat) (ofs : Nat) | register | remote | unmapped
  deriving DecidableEq, Repr

/-- The region of a DA. A Shelf window holds Shelf below offset 0x60_0000 (R58, R59). -/
def regionOf (a : Nat) : Region :=
  if a < 0x006000000000 then .pantry
  else if a < cellarBase then .unmapped
  else if a < 0x090000000000 then .cellar
  else if a < atticBase then .unmapped
  else if a < shelfBase then .attic
  else if a < 0x200060000000 then
    (if past a shelfBase % 0x1000000 < 0x600000 then .shelf (past a shelfBase / 0x1000000) (past a shelfBase % 0x1000000)
     else .unmapped)
  else if a < regBase then .unmapped
  else if a < 0x3F000E000000 then .register
  else if a < 2 ^ 63 then .unmapped
  else if a < 2 ^ 64 then .remote
  else .unmapped

/-- DA of a Shelf offset of engine e; an offset past the engine's window names no address of any Shelf (R59). -/
def shelfDa (e ofs : Nat) : Nat :=
  if ofs < 0x1000000 then shelfBase + e * 0x1000000 + ofs else 0x200060000000 + min (ofs - 0x1000000) 0xFFFFFFFF

/-- A tier's registers, by its name: the PNT register or the CEL register. -/
def Tier.reg (tr : Tier) (pnt cel : Nat) : Nat :=
  match tr with
  | .pantry => pnt
  | .cellar => cel

/-- A tier's controller state. -/
def State.tier (s : State) : Tier → TierSt
  | .pantry => s.pantry
  | .cellar => s.cellar

/-- Sets a tier's controller state. -/
def State.setTier (s : State) (tr : Tier) (x : TierSt) : State :=
  match tr with
  | .pantry => { s with pantry := x }
  | .cellar => { s with cellar := x }

/-- Number of interleave units of a tier: pseudo-channels or channels (R75, R76). -/
def Tier.units : Tier → Nat
  | .pantry => 384
  | .cellar => 256

/-- Local granules per unit (R75, R95). -/
def Tier.lmax : Tier → Nat
  | .pantry => 4194304
  | .cellar => 59652323

/-- Granule size in bytes. -/
def Tier.granule : Tier → Nat
  | .pantry => 256
  | .cellar => 512

/-- DA of the tier's first byte. -/
def Tier.base : Tier → Nat
  | .pantry => 0
  | .cellar => cellarBase

/-- Lc of R95 with d dead units: the largest L with L + ⌈d L / n⌉ ≤ Lmax, that is ⌊n Lmax / N⌋. -/
def Tier.lc (tr : Tier) (d : Nat) : Nat := (tr.units - d) * tr.lmax / tr.units

/-- Usable bytes with d dead units (R95). -/
def Tier.cap (tr : Tier) (d : Nat) : Nat := tr.units * tr.lc d * tr.granule

/-- Unit and local granule of a DA with every unit in service. -/
def Tier.map (tr : Tier) (a : Nat) : Nat × Nat :=
  match tr with
  | .pantry => pantryMap a
  | .cellar => cellarMap a

/-- Where a granule stands with the given dead units: unit and local granule (R95). -/
def Tier.place (tr : Tier) (dead : List Nat) (a : Nat) : Nat × Nat :=
  let (u, l) := tr.map a
  if u ∈ dead then
    let live := (List.range tr.units).filter (· ∉ dead)
    let x := dead.length * l + (dead.filter (· < u)).length
    (live.getD (x % live.length) 0, tr.lc dead.length + x / live.length)
  else (u, l)

/-- The channel of a unit as the tier numbers its channels (R88): HBM3E channel, or Cellar channel. -/
def Tier.channelOf (tr : Tier) (u : Nat) : Nat :=
  match tr with
  | .pantry => u / 2
  | .cellar => u

/-- The units of a channel. -/
def Tier.unitsOf (tr : Tier) (ch : Nat) : List Nat :=
  match tr with
  | .pantry => [2 * ch, 2 * ch + 1]
  | .cellar => [ch]

/-- NEXT of R77 among the Cellar channels in service. -/
def nextChannel (dead : List Nat) (c : Nat) : Nat :=
  let lo := c / 128 * 128
  let live := ((List.range 128).map (lo + ·)).filter (· ∉ dead)
  match live.filter (c < ·), live with
  | d :: _, _ => d
  | [], d :: _ => d
  | [], [] => c

/-! ### Tables of engines, queues and contexts -/

/-- Engine e. -/
def State.eng (s : State) (e : Nat) : EngineSt := tabGet (fun _ => {}) s.engines e

/-- Sets engine e. -/
def State.setEng (s : State) (e : Nat) (x : EngineSt) : State :=
  { s with engines := tabSet (fun _ => {}) s.engines e x }

/-- Queue q of engine e. -/
def State.queue (s : State) (e q : Nat) : QueueSt := tabGet (fun _ => {}) s.queues (4 * e + q)

/-- Sets queue q of engine e. -/
def State.setQueue (s : State) (e q : Nat) (x : QueueSt) : State :=
  { s with queues := tabSet (fun _ => {}) s.queues (4 * e + q) x }

/-- Context k of engine e. -/
def State.ctx (s : State) (e k : Nat) : Ctx := tabGet (fun _ => {}) s.ctxs (16 * e + k)

/-- Sets context k of engine e. -/
def State.setCtx (s : State) (e k : Nat) (x : Ctx) : State :=
  { s with ctxs := tabSet (fun _ => {}) s.ctxs (16 * e + k) x }

/-- The context resident in a slot of engine e. -/
def State.slotCtx (s : State) (e slot : Nat) : Option Nat :=
  (List.range 16).find? fun k =>
    let c := s.ctx e k
    decide (c.place = .resident) && decide (c.slot = slot)

/-- The partition of a context (R367). -/
def Ctx.part (c : Ctx) : Nat := bits c.cfg 3 1

/-- The tag of Shelf block b of engine e. -/
def State.tag (s : State) (e b : Nat) : Nat := tabGet (fun _ => 0) s.tags (e * 1536 + b)

/-- Sets a tag. -/
def State.setTag (s : State) (e b v : Nat) : State :=
  { s with tags := tabSet (fun _ => 0) s.tags (e * 1536 + b) v }

/-- Sets the tags of blocks of engine e. -/
def State.setTags (s : State) (e v : Nat) (bs : List Nat) : State :=
  bs.foldl (fun s b => s.setTag e b v) s

/-- n bytes of Keeper data memory of engine e. -/
def State.kload (s : State) (e ofs n : Nat) : List Byte :=
  tabGetList (fun _ => 0) s.kdata (e * 131072 + ofs) n

/-- Writes Keeper data memory of engine e. -/
def State.kstore (s : State) (e ofs : Nat) (bs : List Byte) : State :=
  { s with kdata := tabSetList (fun _ => 0) s.kdata (e * 131072 + ofs) bs }

/-- Scalar slot i of context slot q (R174). -/
def State.scalar (s : State) (e q i : Nat) : Nat := leNat (s.kload e (q * 32768 + 0x6000 + 8 * i) 8)

/-- Writes a scalar slot. -/
def State.setScalar (s : State) (e q i v : Nat) : State :=
  s.kstore e (q * 32768 + 0x6000 + 8 * i) (leBytes 8 v)

/-! ### Time -/

/-- The late threshold of a tier in cycles (R82). -/
def State.lateThresh (s : State) (tr : Tier) : Nat := s.fld (tr.reg Reg.pntLateThresh Reg.celLateThresh) 15 0

/-- The channel and unit a request's first byte goes to. -/
def State.targetUnit (s : State) (tr : Tier) (a : Nat) : Nat := (tr.place (s.tier tr).dead a).1

end Sys2Proof.Machine
end

