-- ==== Sys2Proof/Machine/Credits.lean ====
section
/-! DEFINITION. The row credits of the Pulse feed and the engine a binding's triggers go to (R337, R389, R390). -/

namespace Sys2Proof.Machine

/-- A measurement stream by its number. -/
def State.measSt (s : State) (n : Nat) : MeasSt := tabGet (fun _ => {}) s.ing.meas n

/-- Sets a measurement stream. -/
def State.setMeas (s : State) (n : Nat) (x : MeasSt) : State :=
  { s with ing := { s.ing with meas := tabSet (fun _ => {}) s.ing.meas n x } }

/-- Er, Es and the context of an armed stand-in (SCH_STANDIN). -/
def State.standinOf (s : State) (i : Nat) : Option (Nat × Nat × Nat) :=
  let r := s.rd (Reg.schStandin i)
  if bit r 0 then some (bits r 7 1, bits r 14 8, bits r 18 15) else none

/-- The stand-in that covers engine e. -/
def State.coverOf (s : State) (e : Nat) : Option Nat :=
  (List.range 4).find? fun i => decide ((s.standinOf i).map (·.1) = some e)

/-- The engine and queue that a binding's rows and triggers go to now: the stand-in's while it covers the engine's slot. -/
def State.feedTarget (s : State) (e q : Nat) : Nat × Nat :=
  match s.moved.find? fun i => decide ((s.standinOf i).map (·.1) = some e) with
  | some i =>
    match s.standinOf i with
    | some (_, es, k) => (es, (s.ctx es k).slot)
    | none => (e, q)
  | none => (e, q)

/-- Whether a binding to engine e0 may have sent a trigger to engine e. -/
def State.feeds (s : State) (e0 e : Nat) : Bool :=
  decide (e0 = e) || (List.range 4).any fun i => match s.standinOf i with
    | some (er, es, _) => decide (er = e0) && decide (es = e)
    | none => false

/-- The engine returns the row credit of the trigger with argument `arg` (R337). -/
def State.returnCredit (s : State) (e arg : Nat) : State :=
  s.ing.meas.foldl (fun s x =>
    match x.2.bound with
    | none => s
    | some (e0, _, k) =>
      let m := s.measSt x.1
      let left := if bit arg 14 then (m.taken.1, false) else (false, m.taken.2)
      if k = arg % 16384 ∧ s.feeds e0 e = true then s.setMeas x.1 { m with taken := left } else s) s

end Sys2Proof.Machine
end

