-- ==== Sys2Proof/Machine/Route.lean ====
section
/-! DEFINITION. Routing of Ketric packets over the torus: dimension order, express hops, virtual channels, spares,
detours and drops (R399 to R404). -/

namespace Sys2Proof.Machine

/-- The coordinates of a module ID (R399). -/
def coord (id dim : Nat) : Nat :=
  match dim with
  | 0 => bits id 3 0
  | 1 => bits id 7 4
  | _ => bits id 12 8

/-- The size of a dimension (KTF_TOPO). -/
def State.dimSize (s : State) (dim : Nat) : Nat :=
  match dim with
  | 0 => s.fld Reg.ktfTopo 3 0 + 1
  | 1 => s.fld Reg.ktfTopo 7 4 + 1
  | _ => s.fld Reg.ktfTopo 12 8 + 1

/-- This module's ID. -/
def State.moduleId (s : State) : Nat := s.fld Reg.ktfId 12 0

/-- The first dimension in which two modules differ, in the order x, y, z (R402). -/
def firstDim (a b : Nat) : Option Nat := [0, 1, 2].find? fun d => decide (coord a d ≠ coord b d)

/-- The torus port of a dimension and direction (R400). -/
def torusPort (dim : Nat) (plus : Bool) : Nat := 2 * dim + b2n (!plus)

/-- The shorter direction, + at exactly half, and the distance (R402). -/
def shorter (a b n : Nat) : Bool × Nat :=
  let f := (b + n - a) % n
  (decide (f ≤ n - f), min f (n - f))

/-- ROLE of a port. -/
def State.role (s : State) (n : Nat) : Nat := s.fld (Reg.ktfPortCfg n) 2 0

/-- The spare that carries a FAILED port's traffic (R400). -/
def State.spareFor (s : State) (n : Nat) : Option Nat :=
  [6, 7].find? fun k => decide (s.role k = 3) && decide (s.fld (Reg.ktfPortCfg k) 6 4 = n) && decide (s.linkState k = 2)

/-- The port that carries the traffic of port n; none when it is FAILED and unspared. -/
def State.carrier (s : State) (n : Nat) : Option Nat := if s.linkState n = 3 then s.spareFor n else some n

/-- The torus port that a packet's arrival port stands for: a spare stands for the port it backs. -/
def State.standsFor (s : State) (n : Nat) : Nat := if s.role n = 3 then s.fld (Reg.ktfPortCfg n) 6 4 else n

/-- Whether the hop from coordinate a in a direction crosses the wrap link of a ring of n (R403). -/
def crosses (a n : Nat) (plus : Bool) : Bool := if plus then decide (a + 1 = n) else decide (a = 0)

/-- Whether the express hop is taken: 1 + |DZ/2 − d| < d, the link is UP and the packet has taken none (R402). -/
def State.takesExpress (s : State) (p : Packet) (dim d : Nat) (plus : Bool) : Bool :=
  let n := s.dimSize 2
  let port := if plus then 6 else 7
  decide (dim = 2) && !p.expressed && decide (s.role port = 2) && decide (s.linkState port = 2) &&
    decide (1 + (if n / 2 ≤ d then d - n / 2 else n / 2 - d) < d)

/-- The packet with the sub-channel of its next hop (R403): `ring` is the dimension it entered the module on, if any. -/
def hopVc (p : Packet) (same detour cross : Bool) : Nat :=
  let crossed := (same && decide (detour = p.detour) && bit p.vc 0) || cross
  p.vc / 4 * 4 + 2 * b2n detour + b2n crossed

/-- The next hop of a packet that arrived on port `src` (none: made here), and the packet as it leaves; none when it is
dropped (R402 to R404). -/
def State.route (s : State) (src : Option Nat) (p : Packet) : Option (Nat × Packet) :=
  let here := s.moduleId
  match firstDim here p.dst with
  | none => none
  | some dim =>
    if 64 ≤ p.hops then none else
    let n := s.dimSize dim
    let a := coord here dim
    let arrived := (src.map s.standsFor).filter fun k => decide (k < 6) && decide (k / 2 = dim)
    let same := arrived.isSome
    let detoured := p.detour && same
    let (short, d) := shorter a (coord p.dst dim) n
    -- a detoured packet goes on in the direction it travels in
    let plus := match detoured, arrived with
      | true, some k => decide (k % 2 = 1)
      | _, _ => short
    let p := { p with detour := detoured, hops := p.hops + 1 }
    if !detoured && s.takesExpress p dim d short then
      some (if short then 6 else 7, { p with expressed := true, vc := p.vc / 4 * 4 })
    else
      match s.carrier (torusPort dim plus) with
      | some k => some (k, { p with vc := hopVc p same detoured (crosses a n plus) })
      | none =>
        if detoured then none else
        match s.carrier (torusPort dim (!plus)) with
        | some k => some (k, { p with detour := true, vc := hopVc p false true (crosses a n (!plus)) })
        | none => none

/-- The response to a request (R405, R406). -/
def Packet.response (p : Packet) (own status : Nat) (data : List Byte) : Packet :=
  { type := if p.type = 0x01 then 0x08 else if p.type = 0x03 then 0x0A else 0x09
    vc := 4, dst := p.src, src := own, tag := p.tag, status := status
    len := if status = 0 then data.length else 0
    payload := if status = 0 then data else [] }

/-- Whether a packet is a request (R406). -/
def Packet.isRequest (p : Packet) : Bool := decide (1 ≤ p.type ∧ p.type ≤ 4)

/-- A packet is dropped: counted, and ROUTE set (R404). -/
def State.dropPacket (s : State) : State := (s.bump Reg.ktfRxReject 63 32 1).event Reg.ktfIntStatus 4

/-- Sends a packet made here, or drops it. -/
def State.sendOwn (s : State) (p : Packet) : State :=
  match s.route none p with
  | some (n, q) => s.sendOn n { pkt := q }
  | none => s.dropPacket

/-- Forwards a packet that arrived on port `src`; a dropped request is answered F_FABRIC_ROUTE (R404). -/
def State.forward (s : State) (src : Nat) (p : Packet) : State :=
  match s.route (some src) p with
  | some (n, q) => s.sendOn n { pkt := q, buf := bufOf src p }
  | none =>
    let s := (s.dropPacket).consume src p
    if p.isRequest then s.sendOwn (p.response s.moduleId 0x0082 []) else s

end Sys2Proof.Machine
end

