-- ==== Sys2Proof/Machine/Flags.lean ====
section
/-! DEFINITION. Status and interrupt flags: the event bits of every INT_STATUS register, the Steward interrupt they
raise under INT_ENABLE, the ENG_NUM_COUNT flags of the output converter, and the two fault pins (R456, R457). -/

namespace Sys2Proof.Machine

/-- Clears the bits that a W1C write carries, but for those set in its own cycle (R10, R11). -/
def w1c (old v mask now : Nat) : Nat := old &&& ((2 ^ 64 - 1) ^^^ (v &&& mask &&& ((2 ^ 64 - 1) ^^^ now)))

/-- The Steward interrupt of a block: an event bit set and enabled. -/
def State.irq (s : State) (status enable : Nat) : Bool := (s.rd status &&& s.rd enable) != 0

/-- ALERT_N is asserted (R457). -/
def State.alert (s : State) : Bool := (s.rd Reg.fltAlertStatus &&& s.rd Reg.fltAlertEnable) != 0

/-- FAULT_N is asserted (R456). -/
def State.faultN (s : State) : Bool := bit (s.rd Reg.fltStatus) 0

/-- What a conversion run counts (R119 to R121). -/
structure NumCount where
  nan : Nat := 0
  sat : Nat := 0
  wrap : Nat := 0
  deriving DecidableEq, Repr

/-- The counts of two runs. -/
def NumCount.add (a b : NumCount) : NumCount := ⟨a.nan + b.nan, a.sat + b.sat, a.wrap + b.wrap⟩

/-- The counts of one conversion. -/
def Conv.count (c : Conv) : NumCount := ⟨b2n c.nan, b2n c.sat, 0⟩

/-- ENG_NUM_COUNT advances, saturating, and NUMERIC is set. -/
def State.countNum (s : State) (e : Nat) (n : NumCount) : State :=
  if n.nan + n.sat + n.wrap = 0 then s else
  ((((s.bump (Reg.engNumCount e) 23 0 n.nan).bump (Reg.engNumCount e) 47 24 n.sat).bump
    (Reg.engNumCount e) 63 48 n.wrap).event (Reg.engIntStatus e) 2)

end Sys2Proof.Machine
end

