-- ==== Sys2Proof/Machine/Faults.lean ====
section
/-! DEFINITION. Fault codes, their classes, and the posting of a fault record (R450 to R457, R460, R461). -/

namespace Sys2Proof.Machine

/-! ### Codes (R452, R490) -/

namespace F
def regAccess : Nat := 0x0001
def regReserved : Nat := 0x0002
def tickDeadline : Nat := 0x0010
def tickSource : Nat := 0x0011
def planCheck : Nat := 0x0012
def loaderCheck : Nat := 0x0013
def memUe : Nat := 0x0020
def memTimeout : Nat := 0x0021
def memChannel : Nat := 0x0022
def memNotReady : Nat := 0x0023
def addrRange : Nat := 0x0024
def atomicRange : Nat := 0x0025
def atomicAlign : Nat := 0x0026
def residue : Nat := 0x0030
def dpParity : Nat := 0x0031
def engineClass : Nat := 0x0032
def format : Nat := 0x0033
def pwlBusy : Nat := 0x0034
def descInvalid : Nat := 0x0040
def hazard : Nat := 0x0041
def queueSeq : Nat := 0x0042
def triggerDrop : Nat := 0x0043
def waitTimeout : Nat := 0x0044
def listDepth : Nat := 0x0045
def keeperRet : Nat := 0x0046
def keeperTrap : Nat := 0x0047
def keeperTimeout : Nat := 0x0048
def imemActive : Nat := 0x0049
def kvPage : Nat := 0x0050
def kvAlloc : Nat := 0x0051
def kvRing : Nat := 0x0052
def ingestCfg : Nat := 0x0060
def measCfg : Nat := 0x0061
def decodeLimit : Nat := 0x0062
def decodeWatchdog : Nat := 0x0063
def schedCfg : Nat := 0x0070
def jobInvalid : Nat := 0x0071
def remoteTimeout : Nat := 0x0072
def remoteError : Nat := 0x0073
def fabricLink : Nat := 0x0080
def fabricTopo : Nat := 0x0081
def fabricRoute : Nat := 0x0082
def fabricPacket : Nat := 0x0083
def fabricAccess : Nat := 0x0084
def dulisLink : Nat := 0x0085
def selftest : Nat := 0x0090
def ctlCheck : Nat := 0x0091
def stewardLockstep : Nat := 0x0092
def sensor : Nat := 0x0093
def thermal : Nat := 0x0094
def power : Nat := 0x0095
def norLog : Nat := 0x0096
def bootNor : Nat := 0x00C0
def bootImage : Nat := 0x00C1
def bootSig : Nat := 0x00C2
def bootRollback : Nat := 0x00C3
def bootLevel : Nat := 0x00C4
def bootRecord : Nat := 0x00C5
def otp : Nat := 0x00C6
def signState : Nat := 0x00C7
def norAccess : Nat := 0x00C8
end F

/-- Classes of R450: INFO, CORRECTED, CONTAINED, DEGRADED, FATAL. -/
abbrev Class.info : Nat := 0
abbrev Class.corrected : Nat := 1
abbrev Class.contained : Nat := 2
abbrev Class.degraded : Nat := 3
abbrev Class.fatal : Nat := 4

/-- The numbers that name a code (R452, R490). -/
def codeKnown (c : Nat) : Bool :=
  inRange c 0x0001 0x0002 || inRange c 0x0010 0x0013 || inRange c 0x0020 0x0026 || inRange c 0x0030 0x0034 ||
  inRange c 0x0040 0x0049 || inRange c 0x0050 0x0052 || inRange c 0x0060 0x0063 || inRange c 0x0070 0x0073 ||
  inRange c 0x0080 0x0085 || inRange c 0x0090 0x0096 || inRange c 0x00C0 0x00C8

/-- The lowest class a code can carry (R452, R458, R490). -/
def codeClass (c : Nat) : Nat :=
  if c = F.regAccess ∨ c = F.regReserved then Class.info
  else if c = F.tickSource then Class.degraded
  else if c = F.planCheck ∨ c = F.loaderCheck then Class.info
  else if c = F.memChannel then Class.degraded
  else if c = F.pwlBusy ∨ c = F.triggerDrop ∨ c = F.imemActive then Class.info
  else if c = F.ingestCfg then Class.info
  else if c = F.schedCfg then Class.degraded
  else if c = F.fabricLink ∨ c = F.dulisLink then Class.corrected
  else if c = F.fabricTopo then Class.degraded
  else if c = F.selftest then Class.info
  else if c = F.stewardLockstep ∨ c = F.sensor ∨ c = F.norLog then Class.degraded
  else if c = F.thermal ∨ c = F.power then Class.info
  else if c = F.bootNor ∨ c = F.bootRecord then Class.fatal
  else if inRange c F.bootImage F.bootLevel then Class.info
  else if c = F.otp ∨ c = F.signState then Class.degraded
  else if c = F.norAccess then Class.info
  else Class.contained

/-! BLOCK codes of R450. -/
namespace Blk
def tck : Nat := 0
def eng : Nat := 1
def ldr : Nat := 2
def pnt : Nat := 3
def cel : Nat := 4
def atc : Nat := 5
def ktf : Nat := 6
def ing : Nat := 7
def vdc : Nat := 8
def sch : Nat := 9
def hlt : Nat := 10
def sec : Nat := 11
def pwr : Nat := 12
def flt : Nat := 13
end Blk

/-- What a record says beside its time and number. -/
structure FaultRec where
  code : Nat
  cls : Nat
  block : Nat
  unit : Nat := 0xFFFF
  /-- the PARTITION byte: 0x80 for none -/
  part : Nat := 0x80
  payload : Nat := 0
  injected : Bool := false
  inHold : Bool := false
  deriving DecidableEq, Repr

/-- The default payload of R451. -/
def defaultPayload (addr info issue engine queue : Nat) : Nat :=
  addr + info * 2 ^ 64 + issue * 2 ^ 96 + engine * 2 ^ 128 + queue * 2 ^ 135

/-- The 64 bytes of a record (R450). -/
def recordBytes (s : State) (r : FaultRec) (lossy persist : Bool) : List Byte :=
  let head := leBytes 2 r.code ++ leBytes 1 r.cls ++ leBytes 1 r.block ++ leBytes 2 r.unit ++ leBytes 1 r.part ++
    leBytes 1 (b2n r.injected + 2 * b2n r.inHold + 4 * b2n lossy + 8 * b2n persist) ++
    leBytes 8 s.timeNs ++ leBytes 8 (s.rd Reg.tckCount) ++ leBytes 4 s.flt.seq
  let tail := leBytes 32 r.payload
  head ++ leBytes 4 (crc32 (head ++ leBytes 4 0 ++ tail)) ++ tail

/-- A DEGRADED or FATAL record is admitted to the NOR log: it takes a token, and FATAL goes in without one (R461). -/
def State.admitNor (s : State) (cls : Nat) : Bool × State :=
  if cls < Class.degraded then (false, s)
  else if 8 ≤ s.flt.norTokens then (true, { s with flt := { s.flt with norTokens := s.flt.norTokens - 8 } })
  else if cls = Class.fatal then (true, s)
  else (false, s.bump Reg.fltDropped 63 32 1)

/-- The ring side of posting: a record is written, dropped, or passed by while the ring is disabled (R454). A write of FLT_RING_HEAD acts
before a record of its cycle that finds the ring full (R462). -/
def State.ringPost (s : State) (bytes : List Byte) : State :=
  if !bit (s.rd Reg.fltCtrl) 0 then s else
  let size : Nat := 2 ^ s.fld Reg.fltCtrl 12 8
  let tail : Nat := s.fld Reg.fltRingTail 31 0
  if (size : Int) ≤ ahead32 tail (s.fld Reg.fltRingHead 31 0) then
    let s := ((s.bump Reg.fltDropped 31 0 1).setBit Reg.fltStatus 2 true).reached Reg.fltRingHead 4
    { s with flt := { s.flt with lossy := true } }
  else
    let s := s.store (s.rd Reg.fltRingDa + tail % size * 64) bytes
    let s := s.setFld Reg.fltRingTail 31 0 (tail + 1)
    { s with flt := { s.flt with lossy := false } }

/-- The latch of the latest DEGRADED or FATAL record (R454). -/
def State.latchLast (s : State) (bytes : List Byte) : State :=
  (List.range 8).foldl (fun s i => s.wr (Reg.fltLast i) (leField bytes (8 * i) 8)) s

/-- Whether a CORRECTED record of this code and unit was written within the last 1 ms (R453). -/
def State.correctedRecently (s : State) (r : FaultRec) : Bool :=
  let last := tabGet (fun _ => 0) s.flt.corrected (r.code * 65536 + r.unit)
  decide (0 < last) && decide (s.now < last - 1 + us 1000)

/-- The cycle in which a record counts as detected. Those of one cycle are posted by BLOCK and then UNIT: one that comes behind a higher one
counts to the next cycle (R453; assumption log 13). -/
def State.postCycle (s : State) (r : FaultRec) : Nat :=
  let c := max s.now s.flt.posted.1
  if c = s.flt.posted.1 ∧ r.block * 65536 + r.unit < s.flt.posted.2 then c + 1 else c

/-- Posts a fault record (R450, R453 to R457, R460). A CORRECTED record within 1 ms of the last of its code and unit is
only counted. -/
def postFault (s : State) (r : FaultRec) : State :=
  let s := s.bump (Reg.fltCount r.cls) 63 0 1
  if r.cls = Class.corrected ∧ s.correctedRecently r = true then s else
  let s := if r.cls = Class.corrected then
      { s with flt := { s.flt with corrected := tabSet (fun _ => 0) s.flt.corrected (r.code * 65536 + r.unit) (s.now + 1) } }
    else s
  let (persist, s) := s.admitNor r.cls
  let c := s.postCycle r
  let bytes := recordBytes { s with now := c } r s.flt.lossy persist
  let s := s.ringPost bytes
  let s := { s with flt := { s.flt with
    seq := (s.flt.seq + 1) % 2 ^ 32
    posted := (c, r.block * 65536 + r.unit)
    norQueue := if persist then s.flt.norQueue ++ [bytes] else s.flt.norQueue } }
  let s := if Class.degraded ≤ r.cls then s.latchLast bytes else s
  let s := s.event Reg.fltAlertStatus r.cls
  let s := if r.cls = Class.fatal then s.setBit Reg.fltStatus 3 true else s
  if r.cls = Class.fatal ∨ (r.cls = Class.degraded ∧ bit (s.rd Reg.fltCtrl) 1 = true) then
    s.setBit Reg.fltStatus 0 true
  else s

/-- BLOCK, UNIT and the engine of a register's address: a register of an engine window names its engine. -/
def regSite (a : Nat) : Nat × Nat × Nat :=
  let b := past a regBase / 2 ^ 24
  let e := past a regBase % 2 ^ 24 / 2 ^ 16
  if b = 1 ∧ e < 96 then (1, e, e) else (b, 0xFFFF, 0)

/-- A register access that is dropped or reads 0 (R9, R512): F_REG_ACCESS with the address. -/
def State.regAccess (s : State) (a : Nat) : State :=
  let r := regSite a
  postFault s { code := F.regAccess, cls := Class.info, block := r.1, unit := r.2.1, payload := defaultPayload a 0 0 r.2.2 0 }

/-- A write with a reserved encoding (R13): F_REG_RESERVED with the register offset. -/
def State.regReserved (s : State) (a : Nat) : State :=
  let r := regSite a
  postFault s { code := F.regReserved, cls := Class.info, block := r.1, unit := r.2.1,
                payload := defaultPayload (regOffset a) 0 0 r.2.2 0 }

end Sys2Proof.Machine
end

