-- ==== Sys2Proof/Machine/Operands.lean ====
section
/-! DEFINITION. Operand forms: the fields of a descriptor (R153), tensor-table entries (R155, R156, R518), the address
of every element and block scale in both layouts (R194, R196, R212, R214), their reads and writes, the Shelf blocks and
byte ranges of a region, and the checks a device address passes (R59, R100, R368, R421, R513). -/

namespace Sys2Proof.Machine

/-! ### Descriptors -/

/-- A descriptor: eight 64-bit words. -/
abbrev Desc := List Nat

namespace Desc
/-- Word i. -/
def w (d : Desc) (i : Nat) : Nat := d.getD i 0
/-- Bits of word i. -/
def f (d : Desc) (i hi lo : Nat) : Nat := bits (d.w i) hi lo
def seq (d : Desc) : Nat := d.f 0 31 0
def op (d : Desc) : Nat := d.f 0 39 32
def chain (d : Desc) : Bool := bit (d.w 0) 40
def irq (d : Desc) : Bool := bit (d.w 0) 41
def sr (d : Desc) : Bool := bit (d.w 0) 42
def accInit (d : Desc) : Bool := bit (d.w 0) 43
def bank1 (d : Desc) : Bool := bit (d.w 0) 44
def twrite (d : Desc) : Bool := bit (d.w 0) 45
def dstGen (d : Desc) : Nat := d.f 0 51 48
def genA (d : Desc) : Nat := d.f 0 55 52
def genB (d : Desc) : Nat := d.f 0 59 56
def genC (d : Desc) : Nat := d.f 0 63 60
def tdA (d : Desc) : Nat := d.f 1 7 0
def tdB (d : Desc) : Nat := d.f 1 15 8
def tdC (d : Desc) : Nat := d.f 1 23 16
def tdD (d : Desc) : Nat := d.f 1 31 24
def readyAfter (d : Desc) : Nat := d.f 1 55 32
def tileNo (d : Desc) : Nat := d.f 2 2 0
def longN (d : Desc) : Bool := bit (d.w 2) 3
def kstep (d : Desc) : Nat := 32 * d.f 2 11 4
/-- OPX bits, numbered as the manual numbers them within word 2. -/
def opx (d : Desc) (hi lo : Nat) : Nat := d.f 2 hi lo
/-- ARG0 to ARG4. -/
def arg (d : Desc) (i : Nat) : Nat := d.w (3 + i)
end Desc

/-- The descriptor held in 64 bytes. -/
def descOf (bs : List Byte) : Desc := (List.range 8).map fun i => leField bs (8 * i) 8

/-- The reserved bits of words 0 to 2, DST_GEN 15, and the TILE and KSTEP values that R153 reserves (R153, R154). -/
def descCommonBad (d : Desc) : Bool :=
  d.f 0 47 46 != 0 || d.dstGen == 15 || d.f 1 63 56 != 0 || d.f 2 15 12 != 0 ||
  decide (5 < d.tileNo) || decide (128 < d.f 2 11 4) || (decide (d.tileNo = 0) != decide (d.f 2 11 4 = 0))

/-- Whether a descriptor names accumulator bank 1 or the transposed-write path, on an F engine (R103). -/
def descClassBad (e : Nat) (d : Desc) : Bool := decide (e % 3 = 0) && (d.bank1 || d.twrite)

/-! ### Tensors -/

/-- A tensor-table entry (R155). -/
structure Tensor where
  base : Nat
  rows : Nat
  cols : Nat
  fmt : Fmt
  shelf : Bool
  blocked : Bool
  scaled : Bool
  stride : Nat
  scaleOfs : Nat
  pad : Nat
  zero : Nat
  deriving DecidableEq, Repr

/-- The entry held in 32 bytes; an entry that R518 calls invalid answers its BASE. -/
def tensorOf (bs : List Byte) : Except Nat Tensor :=
  let w0 := leField bs 0 8
  let w1 := leField bs 8 8
  let w2 := leField bs 16 8
  let w3 := leField bs 24 8
  match fmtOfCode (bits w1 51 48) with
  | none => .error w0
  | some fm =>
    let t : Tensor := ⟨w0, bits w1 23 0, bits w1 47 24, fm, bit w1 52, bit w1 53, bit w1 54, bits w2 31 0, bits w2 63 32,
      bits w3 15 0, bits w3 23 16⟩
    if bits w1 63 55 ≠ 0 ∨ bits w3 63 24 ≠ 0 then .error w0
    else if t.scaled ∧ !fm.scalable then .error w0
    else if w0 % 64 ≠ 0 ∨ (t.blocked ∧ w0 % 4096 ≠ 0) then .error w0
    else if t.stride % 64 ≠ 0 ∨ (t.blocked ∧ t.stride % 4096 ≠ 0) then .error w0
    else .ok t

/-- Entry i of the tensor table of context slot q (R155, R174). -/
def State.tensor (s : State) (e q i : Nat) : Except Nat Tensor :=
  tensorOf (s.kload e (q * 32768 + 0x4000 + 32 * i) 32)

/-- BASE as a DA: a Shelf offset names this engine's window. -/
def Tensor.da (t : Tensor) (e : Nat) : Nat := if t.shelf then shelfDa e t.base else t.base

/-- Byte offset `ofs` from BASE as a DA. -/
def Tensor.at (t : Tensor) (e ofs : Nat) : Nat := if t.shelf then shelfDa e (t.base + ofs) else t.base + ofs

/-- Elements per block row, E of R211. -/
def Fmt.perBlockRow (f : Fmt) : Nat := 512 / f.width

/-- Bit offset from BASE of element (r, c) (R156, R194, R212). -/
def Tensor.bitOfs (t : Tensor) (r c : Nat) : Nat :=
  if t.blocked then
    let n := t.fmt.perBlockRow
    8 * (r / 64 * t.stride + c / n * 4096 + r % 64 * 64) + c % n * t.fmt.width
  else 8 * (r * t.stride) + c * t.fmt.width

/-- Byte offset from BASE of the scale byte of element (r, c) (R196, R214). -/
def Tensor.scaleAt (t : Tensor) (r c : Nat) : Nat :=
  t.scaleOfs * 256 +
  (if t.blocked then
    let n := t.fmt.perBlockRow
    (r / 64 * t.stride / 4096 + c / n) * 8 + r % 64 / 32 * (n / 32) + c % n / 32
  else r * (t.stride / (4 * t.fmt.width)) + c / 32)

/-- The raw pattern of element (r, c). -/
def State.elem (s : State) (e : Nat) (t : Tensor) (r c : Nat) : Nat :=
  let b := t.bitOfs r c
  let w := t.fmt.width
  if w = 4 then (s.byteAt (t.da e + b / 8)).toNat >>> (b % 8) % 16
  else s.loadNat (t.da e + b / 8) (w / 8)

/-- The block scale of element (r, c): 127, that is 1, when the tensor carries none (R115). -/
def State.scaleOf (s : State) (e : Nat) (t : Tensor) (r c : Nat) : Nat :=
  if t.scaled then (s.byteAt (t.da e + t.scaleAt r c)).toNat else 127

/-- The value of element (r, c) with its block scale applied; integers less the zero point given (R115, R116). -/
def State.value (s : State) (e : Nat) (t : Tensor) (zero : Int) (r c : Nat) : FVal :=
  if t.fmt.isInt then FVal.ofInt (t.fmt.decodeInt (s.elem e t r c) - zero) 0
  else if s.scaleOf e t r c = 0xFF then .nan
  else (t.fmt.decode (s.elem e t r c)).shift ((s.scaleOf e t r c : Int) - 127)

/-- Element (r, c) widened to FP32 (R125, R117). -/
def State.elem32 (s : State) (e : Nat) (t : Tensor) (r c : Nat) : W32 :=
  if t.fmt = .fp32 then BitVec.ofNat 32 (s.elem e t r c) else round32 (s.value e t 0 r c)

/-- Writes the raw pattern of element (r, c); the other nibble of a byte stays (R203). -/
def State.putElem (s : State) (e : Nat) (t : Tensor) (r c v : Nat) : State :=
  let b := t.bitOfs r c
  let w := t.fmt.width
  let a := t.da e + b / 8
  if w = 4 then
    let lo := b % 8
    s.store a [BitVec.ofNat 8 (putBits (s.byteAt a).toNat (lo + 3) lo v)]
  else s.store a (leBytes (w / 8) v)

/-- Writes the scale byte of element (r, c). -/
def State.putScale (s : State) (e : Nat) (t : Tensor) (r c v : Nat) : State :=
  s.store (t.da e + t.scaleAt r c) [BitVec.ofNat 8 v]

/-- A region of a tensor: first row and column, rows and columns. -/
structure Reg2 where
  r : Nat
  c : Nat
  m : Nat
  n : Nat
  deriving DecidableEq, Repr

/-- The region lies inside ROWS × COLS (R193). -/
def Tensor.holds (t : Tensor) (g : Reg2) : Bool := decide (g.r + g.m ≤ t.rows) && decide (g.c + g.n ≤ t.cols)

/-- The bytes [lo, hi) of row r's elements c to c + n - 1, as offsets from BASE, in one piece per block column. -/
def Tensor.rowSpans (t : Tensor) (r c n : Nat) : List (Nat × Nat) :=
  if n = 0 then [] else
  if t.blocked then
    let p := t.fmt.perBlockRow
    (List.range ((c + n - 1) / p + 1 - c / p)).map fun i =>
      let b := c / p + i
      let c0 := max c (b * p)
      let c1 := min (c + n) ((b + 1) * p)
      (t.bitOfs r c0 / 8, (t.bitOfs r c0 + (c1 - c0) * t.fmt.width + 7) / 8)
  else [(t.bitOfs r c / 8, (t.bitOfs r c + n * t.fmt.width + 7) / 8)]

/-- The scale bytes of row r's elements c to c + n - 1. -/
def Tensor.scaleSpans (t : Tensor) (r c n : Nat) : List (Nat × Nat) :=
  if !t.scaled ∨ n = 0 then [] else
  (List.range ((c + n - 1) / 32 + 1 - c / 32)).map fun i =>
    let a := t.scaleAt r (32 * (c / 32 + i))
    (a, a + 1)

/-- The byte spans of a region, data and scales, as offsets from BASE. -/
def Tensor.spans (t : Tensor) (g : Reg2) : List (Nat × Nat) :=
  (List.range g.m).flatMap fun i => t.rowSpans (g.r + i) g.c g.n ++ t.scaleSpans (g.r + i) g.c g.n

/-- Removes repeats, keeping the first of each. -/
def dedup {α : Type} [DecidableEq α] (xs : List α) : List α := xs.foldl (fun a x => if x ∈ a then a else a ++ [x]) []

/-- The blocks of 4 KiB that hold a byte of the spans, from byte offset `base`. -/
def spanBlocks (base : Nat) (sp : List (Nat × Nat)) : List Nat :=
  dedup (sp.flatMap fun x =>
    (List.range ((base + x.2 - 1) / 4096 + 1 - (base + x.1) / 4096)).map ((base + x.1) / 4096 + ·))

/-- The Shelf blocks of a region; none for a DA tensor. -/
def Tensor.blocks (t : Tensor) (g : Reg2) : List Nat :=
  if t.shelf then (spanBlocks t.base (t.spans g)).filter fun b => decide (b < 1536) else []

/-- The byte ranges (address, length) of a region, at device addresses. -/
def Tensor.ranges (t : Tensor) (e : Nat) (g : Reg2) : List (Nat × Nat) :=
  (t.spans g).map fun x => (t.at e x.1, x.2 - x.1)

/-- The bytes that requests for row r's elements c to c + n - 1 fetch, from BASE: whole 64-byte sectors, with the row tail (R194); of a
block that reaches past ROWS or COLS, the whole block (R213). -/
def Tensor.fetchSpans (t : Tensor) (r c n : Nat) : List (Nat × Nat) :=
  if n = 0 then [] else
  if t.blocked then
    let p := t.fmt.perBlockRow
    (List.range ((c + n - 1) / p + 1 - c / p)).map fun i =>
      let b := c / p + i
      let at0 := r / 64 * t.stride + b * 4096
      if t.rows < (r / 64 + 1) * 64 ∨ t.cols < (b + 1) * p then (at0, at0 + 4096) else (at0 + r % 64 * 64, at0 + r % 64 * 64 + 64)
  else (t.rowSpans r c n).map fun x => (x.1 / 64 * 64, (x.2 + 63) / 64 * 64)

/-- The byte ranges that reading a region fetches, data and scales. -/
def Tensor.fetches (t : Tensor) (e : Nat) (g : Reg2) : List (Nat × Nat) :=
  let data := ((List.range g.m).flatMap fun i => t.fetchSpans (g.r + i) g.c g.n).eraseDups
  let scales := ((List.range g.m).flatMap fun i => t.scaleSpans (g.r + i) g.c g.n).eraseDups
  (data ++ scales).map fun x => (t.at e x.1, x.2 - x.1)

/-! ### Checks on addresses -/

/-- READY of the tier, and the usable range (R59, R98). -/
def State.tierFault (s : State) (tr : Tier) (a len : Nat) : Option Nat :=
  if !bit (s.rd (tr.reg Reg.pntStatus Reg.celStatus)) 1 then some F.memNotReady
  else if a + len ≤ tr.base + s.rd (tr.reg Reg.pntCap Reg.celCap) then none
  else some F.addrRange

/-- A granule whose request ends with F_MEM_UE: displaced while MAP_BUSY is set (R94), or on a failed channel that is not
mapped out (R88). -/
def State.granuleLost (s : State) (tr : Tier) (a : Nat) : Bool :=
  let x := s.tier tr
  let busy := bit (s.rd (tr.reg Reg.pntStatus Reg.celStatus)) 2
  let u := (tr.map a).1
  (busy && decide (u ∈ x.dead)) ||
    decide (tr.channelOf (tr.place x.dead a).1 ∈ x.failed)

/-- The first address of [a, a + len) whose granule is lost. -/
def State.firstLost (s : State) (tr : Tier) (a len : Nat) : Option Nat :=
  let g := tr.granule
  ((List.range ((a + len - 1) / g + 1 - a / g)).map fun i => max a ((a / g + i) * g)).find? (s.granuleLost tr ·)

/-- Whether [a, a + len) has a byte in Hatch (R100). -/
def State.inHatch (s : State) (a len : Nat) : Bool :=
  decide (max a (s.rd Reg.pntHatchBase) < min (a + len) (s.rd Reg.pntHatchBase + s.rd Reg.pntHatchSize))

/-- The fault of a request of [a, a + len) at a local address by any agent but the scheduler, with the failing address;
none when it may be made (R59, R88, R94, R98, R100, R421). Register and remote addresses are no memory. -/
def State.memFault (s : State) (a len : Nat) : Option (Nat × Nat) :=
  match regionOf a with
  | .pantry =>
    match s.tierFault .pantry a len with
    | some c => some (c, a)
    | none => if s.inHatch a len then some (F.addrRange, a) else (s.firstLost .pantry a len).map (F.memUe, ·)
  | .cellar =>
    match s.tierFault .cellar a len with
    | some c => some (c, a)
    | none => (s.firstLost .cellar a len).map (F.memUe, ·)
  | .attic =>
    if !(bit (s.rd Reg.atcCtrl) 0 ∧ past a atticBase + len ≤ s.rd Reg.atcWinSize) then some (F.addrRange, a)
    else if s.linkState dulis = 3 then some (F.memTimeout, a)
    else none
  | .shelf _ ofs => if ofs + len ≤ 0x600000 then none else some (F.addrRange, a)
  | _ => some (F.addrRange, a)

/-- Whether [a, a + len) lies in one region of the partition (R368). -/
def State.inPartition (s : State) (p a len : Nat) : Bool :=
  (tabGet (fun _ => {}) s.parts p).regions.any fun r => decide (r.1 ≤ a) && decide (a + len ≤ r.1 + r.2)

/-- The fault of a macro-op's request within one line at a DA: the memory rules and, in Pantry and Cellar, the partition's regions
(R368). -/
def State.lineFault (s : State) (p a len : Nat) : Option (Nat × Nat) :=
  match regionOf a with
  | .pantry => if s.inPartition p a len then s.memFault a len else some (F.addrRange, a)
  | .cellar => if s.inPartition p a len then s.memFault a len else some (F.addrRange, a)
  | _ => s.memFault a len

/-- The requests that cover [a, a + n): one for each line of 256 bytes. -/
def linesOf (a n : Nat) : List (Nat × Nat) :=
  (List.range ((a + n + 255) / 256 - a / 256)).map fun i =>
    let lo := max a ((a / 256 + i) * 256)
    (lo, min (a + n) ((a / 256 + i + 1) * 256) - lo)

/-- The fault of the first of a macro-op's requests for [a, a + len) that fails, with its address (R59, R368). -/
def State.opFaultAt (s : State) (p a len : Nat) : Option (Nat × Nat) :=
  (linesOf a len).findSome? fun x => s.lineFault p x.1 x.2

/-- The first fault among byte ranges. -/
def State.rangesFault (s : State) (p : Nat) (rs : List (Nat × Nat)) : Option (Nat × Nat) :=
  rs.findSome? fun r => s.opFaultAt p r.1 r.2

/-- The first codeword of [a, a + n) that holds an uncorrectable error (R61, R85). -/
def State.deadWord (s : State) (a n : Nat) : Option Nat :=
  (s.dead.find? fun w => decide (w.1 < a + n) && decide (a < w.1 + w.2.1)).map fun w => max a w.1

/-- The first codeword with an uncorrectable error that a write of [a, a + n) covers only in part: its merge read fails (R87). -/
def State.deadPart (s : State) (a n : Nat) : Option Nat :=
  (s.dead.find? fun w => decide (w.1 < a + n) && decide (a < w.1 + w.2.1) && !(decide (a ≤ w.1) && decide (w.1 + w.2.1 ≤ a + n))).map
    fun w => max a w.1

/-- The fault of a read of [a, a + len) by any agent but the scheduler. -/
def State.readFault (s : State) (a len : Nat) : Option (Nat × Nat) :=
  match s.memFault a len with
  | some f => some f
  | none => (s.deadWord a len).map (F.memUe, ·)

/-- The fault of a macro-op's read of [a, a + len). -/
def State.opReadFault (s : State) (p a len : Nat) : Option (Nat × Nat) :=
  match s.opFaultAt p a len with
  | some f => some f
  | none => (s.deadWord a len).map (F.memUe, ·)

/-- The first fault among byte ranges that a macro-op reads. -/
def State.rangesReadFault (s : State) (p : Nat) (rs : List (Nat × Nat)) : Option (Nat × Nat) :=
  rs.findSome? fun r => s.opReadFault p r.1 r.2

end Sys2Proof.Machine
end

