-- ==== Sys2Proof/Machine/Phases.lean ====
section
/-! DEFINITION. Shared operations of the tick plan's phases: their states, what binds an engine, the rate in force,
and the end of a phase (R34, R35, R44, R45, R81, R373, R374). -/

namespace Sys2Proof.Machine

/-- The definition of phase p in the active plan. -/
def State.phaseDef (s : State) (p : Nat) : PhaseDef :=
  match s.tick.plan with
  | some pl => pl.phases.getD p {}
  | none => {}

/-- The run of phase p. -/
def State.run (s : State) (p : Nat) : PhaseRun := s.tick.runs.getD p {}

/-- Sets the run of phase p. -/
def State.setRun (s : State) (p : Nat) (x : PhaseRun) : State :=
  { s with tick := { s.tick with runs := s.tick.runs.set p x } }

/-- TCK_PHASE_STATE: sixteen 4-bit states (R44). -/
def State.phaseStateReg (s : State) : Nat :=
  (List.range 16).foldl (fun a p => a + (s.run p).state.code * 2 ^ (4 * p)) 0

/-- Whole µs from cycle `o` to now. -/
def State.usSince (s : State) (o : Nat) : Nat := (s.now - o) / 1100

/-- Whether phase p binds engine e now: it is RESERVED, or RUNNING, OVERRUN or LATE (R373). -/
def State.phaseBinds (s : State) (p e : Nat) : Bool :=
  let d := s.phaseDef p
  d.engines.testBit e && (decide (d.cls = 3) || (s.run p).state.active)

/-- The phase of a context; none when it is unbound. -/
def Ctx.phase (c : Ctx) : Option Nat :=
  match c.job with
  | some j => if j.phase = 0xFF then none else some j.phase
  | none => if bit c.cfg 14 then none else some (bits c.cfg 13 10)

/-- The phase side of runnability (R367, R373). With no plan active only an unbound context runs. -/
def State.phaseAllows (s : State) (e : Nat) (c : Ctx) : Bool :=
  if c.standin then true else
  match c.phase with
  | some p => s.phaseBinds p e && decide ((s.phaseDef p).part = c.part)
  | none => !((List.range 16).any fun p => s.phaseBinds p e)

/-- Effective priority (R374). -/
def State.prioOf (s : State) (e : Nat) (c : Ctx) : Nat :=
  let own := match c.job with
    | some j => j.prio
    | none => bits c.cfg 6 4
  if c.standin then 8 else
  match c.phase with
  | some p =>
    let d := s.phaseDef p
    if d.engines.testBit e && (decide (d.cls = 3) || bit d.flags 2) then 8 else own
  | none => own

/-- Engines that a RESERVED phase of the active plan binds are held as in mode ALWAYS (R137). -/
def State.reservedEngine (s : State) (e : Nat) : Bool :=
  (List.range 16).any fun p => decide ((s.phaseDef p).cls = 3) && (s.phaseDef p).engines.testBit e

/-- Whether an URGENT phase binds engine e (R43). -/
def State.urgentEngine (s : State) (e : Nat) : Bool :=
  (List.range 16).any fun p =>
    decide ((s.phaseDef p).cls ≠ 0) && bit (s.phaseDef p).flags 2 && (s.phaseDef p).engines.testBit e

/-- The RATE in force of partition p at a tier (R81). -/
def State.rateInForce (s : State) (tr : Tier) (p : Nat) : Nat :=
  let rates := (List.range 16).map fun i =>
    let d := s.phaseDef i
    if (s.run i).state.active && decide (d.cls = 1 ∨ d.cls = 2) && decide (d.part = p) then
      (match tr with
       | .pantry => d.pntRate
       | .cellar => d.celRate)
    else 0
  let sum := rates.foldl (· + ·) 0
  if sum = 0 then s.fld (tr.reg (Reg.pntRegRate p) (Reg.celRegRate p)) 15 0 else sum

/-- The depth of a bucket in bytes (R80). -/
def State.bucketDepth (s : State) (tr : Tier) (p : Nat) : Nat :=
  let burst := s.fld (tr.reg (Reg.pntRegRate p) (Reg.celRegRate p)) 31 16
  if burst = 0 then s.rateInForce tr p * 1000 else burst * 1024

/-- Clips every bucket to its depth: the RATE in force or BURST has changed (R80). -/
def State.clipBuckets (s : State) : State :=
  let clip := fun (tr : Tier) (x : TierSt) =>
    { x with buckets := (List.range 8).map fun p => min (x.buckets.getD p 0) (s.bucketDepth tr p : Int) }
  { s with pantry := clip .pantry s.pantry, cellar := clip .cellar s.cellar }

/-- Whether the queue of a context has anything left to issue. -/
def QueueSt.hasMore (x : QueueSt) : Bool :=
  !x.fetched.isEmpty || decide (x.next ≠ x.tail) || x.stack.any (fun l => decide (l.pos < l.count)) ||
    x.arg.isSome || !x.fifo.isEmpty

/-- The queue of context k of engine e: the slot's when resident, the saved one when in Hatch. -/
def State.ctxQueue (s : State) (e k : Nat) : QueueSt :=
  let c := s.ctx e k
  match c.place, c.saved with
  | .resident, _ => s.queue e c.slot
  | _, some x => x
  | _, none => {}

/-- Open macro-ops of phase p, with their engines, in ascending engine and context order. -/
def State.phaseOps (s : State) (p : Nat) : List (Nat × Nat × OpenOp) :=
  s.ctxs.flatMap fun x =>
    ((s.ctxQueue (x.1 / 16) (x.1 % 16)).ops.filter fun o => decide (o.phase = some p)).map
      fun o => (x.1 / 16, x.1 % 16, o)

/-- Whether the tail line of a ring shows entries that its queue has not taken yet: they are work left to issue. -/
def State.tailAhead (s : State) (e : Nat) (c : Ctx) (x : QueueSt) : Bool :=
  let here := decide (c.place = .resident)
  let cfg := if here then s.rd (Reg.engQCfg e c.slot) else c.qCfg
  let a := if here then s.rd (Reg.engQTailDa e c.slot) else c.qTail
  !bit cfg 1 && !x.fresh && (s.memFault a 4).isNone && decide (s.loadNat a 4 ≠ x.next)

/-- Whether every context of phase p has nothing open and nothing left to issue: a halted or disabled queue issues
nothing (R35; assumption log 21). The write of the window record is one of the ALIGN phase's macro-ops (R358). -/
def State.phaseQuiet (s : State) (p : Nat) : Bool :=
  !(decide ((s.phaseDef p).name = 1) && s.ing.wins.any fun w => w.stop.isSome) && s.ctxs.all fun x =>
    let q := s.ctxQueue (x.1 / 16) (x.1 % 16)
    decide (x.2.place = .free) || decide (x.2.phase ≠ some p) ||
      (q.ops.isEmpty && (decide (q.state = .halted) || decide (q.state = .disabled) ||
        (!q.hasMore && !(s.tailAhead (x.1 / 16) x.2 q))))

/-- TCK_PH_TIME of a finished phase. -/
def State.writePhTime (s : State) (p : Nat) : State :=
  let r := s.run p
  s.wr (Reg.tckPhTime p)
    (r.started.getD 0xFFFFFF % 2 ^ 24 + r.ended.getD 0 % 2 ^ 24 * 2 ^ 24 + r.state.code * 2 ^ 48)

/-- Phase p takes a final state now. -/
def State.finishPhase (s : State) (p : Nat) (st : PhState) : State :=
  let r := s.run p
  ((s.setRun p { r with state := st, ended := some (s.usSince r.origin), ending := false }).writePhTime p).clipBuckets

/-- Phase p ends in this cycle: DONE, DONE_LATE with the overrun counted, or FAULTED after LATE (R35, R45). -/
def State.endPhase (s : State) (p : Nat) : State :=
  let r := s.run p
  let d := s.phaseDef p
  if r.state = .late then s.finishPhase p .faulted
  else if r.state = .running ∨ r.state = .overrun then
    (if s.now ≤ r.origin + us (d.start + d.budget) then s.finishPhase p .done
     else ((s.bump (Reg.tckPhCount p) 31 0 1).event Reg.tckIntStatus 1).finishPhase p .doneLate)
  else s

/-- A macro-op that the deadline of phase p aborted is still open (R46). -/
def State.owes (s : State) (p : Nat) : Bool :=
  (s.phaseOps p).any fun x => decide ((x.1, x.2.1, x.2.2.issue) ∈ (s.run p).owed)

/-- A macro-op of phase p has posted its record: the phase ends when it was the last (R35, R46). -/
def State.phaseCommit (s : State) (p : Nat) (committed : Bool) : State :=
  let r := s.run p
  let s := s.setRun p { r with committed := r.committed + b2n committed }
  if (s.run p).ending then (if s.owes p then s else s.finishPhase p .faulted)
  else if s.phaseQuiet p then s.endPhase p
  else s

end Sys2Proof.Machine
end

