-- ==== Sys2Proof/Machine/Clock.lean ====
section
/-! DEFINITION. Opcodes, and the passing of time: what contexts do meanwhile (R373, R374), the stalls charged, and whether the
block runs at all (R497, R498, R505). -/

namespace Sys2Proof.Machine

/-! ### Opcodes (R158) -/

namespace Op
def mma : Nat := 0x01
def mmaBwdX : Nat := 0x02
def mmaBwdW : Nat := 0x03
def conv : Nat := 0x08
def convFused : Nat := 0x09
def attn : Nat := 0x10
def attnBwd : Nat := 0x11
def scan : Nat := 0x18
def pulse : Nat := 0x19
def norm : Nat := 0x20
def normBwd : Nat := 0x21
def smax : Nat := 0x22
def smaxBwd : Nat := 0x23
def gate : Nat := 0x24
def reduce : Nat := 0x25
def sort : Nat := 0x28
def boxdec : Nat := 0x29
def nms : Nat := 0x2A
def gather : Nat := 0x30
def scatter : Nat := 0x31
def copy : Nat := 0x32
def prefetch : Nat := 0x33
def wait : Nat := 0x38
def signal : Nat := 0x39
def fence : Nat := 0x3A
def call : Nat := 0x3C
def branch : Nat := 0x3D
end Op

/-- Whether an opcode needs the arrays or the row unit (R158, R373). -/
def needsEngine (op : Nat) : Bool := inRange op 0x01 0x2A

/-- Whether a descriptor's macro-op is pre-emptible (R158). -/
def preemptible (d : Desc) : Bool :=
  !(decide (d.op = Op.convFused) || decide (d.op = Op.sort) || decide (d.op = Op.nms) || decide (d.op = Op.scatter) ||
    (decide (d.op = Op.call) && decide (d.opx 17 16 = 1) && decide (1024 < d.opx 63 48)))

/-! ### Attic sectors -/

/-- The sector number of an Attic DA. -/
def sectorOf (a : Nat) : Nat := past a atticBase / 64

/-- DA of an Attic sector. -/
def sectorDa (n : Nat) : Nat := atticBase + 64 * n

/-- The sectors of [a, a + len). -/
def sectorsOf (a len : Nat) : List Nat :=
  (List.range ((past a atticBase + len - 1) / 64 + 1 - sectorOf a)).map (sectorOf a + ·)

/-- An Attic sector. -/
def State.sector (s : State) (n : Nat) : AtticSec := tabGet (fun _ => {}) s.attic.secs n

/-- The first sector of [a, a + len) that Larder does not hold. -/
def State.missingSector (s : State) (a len : Nat) : Option Nat :=
  (sectorsOf a len).find? fun n => decide ((s.sector n).st = .i)

/-! ### Runnable contexts (R373) -/

/-- The condition of a WAIT on the word as it reads now (R167). -/
def State.waitMet (s : State) (d : Desc) : Bool :=
  let a := d.arg 0
  let w := s.loadNat a 8
  let present := decide (regionOf a ≠ .attic) || (s.missingSector a 8).isNone
  present && (if bit (d.w 2) 16 then decide (w = d.arg 1) else decide (d.arg 1 ≤ w))

/-- What a FENCE in the queue x of a context c waits for: earlier macro-ops of its queue, their remote operations under
OPX[16], and their Attic writes under OPX[17] (R169). -/
def State.fenceMetIn (s : State) (e q : Nat) (c : Ctx) (x : QueueSt) (o : OpenOp) : Bool :=
  let earlier := match x.ops with
    | p :: _ => decide (p.issue = o.issue)
    | [] => true
  let attic := s.attic.writes.all fun w => match w.op with
    | some (e', q', _) => !(decide (e' = e) && decide (q' = q))
    | none => true
  earlier && (!(bit (Desc.w o.desc 2) 16) || (c.tags.isEmpty && c.landing.isEmpty)) &&
    (!(bit (Desc.w o.desc 2) 17) || attic)

/-- Whether engine e is out of service (R439). -/
def State.engineOut (s : State) (e : Nat) : Bool :=
  if e < 64 then bit (s.rd Reg.hltEngOosLo) e else bit (s.rd Reg.hltEngOosHi) (e - 64)

/-- Whether engine e is withdrawn for its self-test slot, or out of service (R388, R439). -/
def State.inSlot (s : State) (e : Nat) : Bool :=
  (s.health.slots.any fun x => decide (x.engine = e) && !x.draining) || s.engineOut e

/-- Whether engine e is in its slot and not yet withdrawn: it accepts no further triggers (R390). -/
def State.draining (s : State) (e : Nat) : Bool := s.health.slots.any fun x => decide (x.engine = e) && x.draining

/-- Whether the contexts of engine e have to leave it for its slot: a stand-in waits for the triggers that it still steps (R388, R390). -/
def State.leaving (s : State) (e : Nat) : Bool :=
  s.draining e && !(s.mirrors.any fun i => decide (bits (s.rd (Reg.schStandin i)) 7 1 = e))

/-- A DMA macro-op has made every request it can, and awaits only responses (R378). -/
def Ctx.awaits (c : Ctx) (o : OpenOp) : Bool :=
  let mine := c.tags.filter fun t => decide (t.issue = o.issue)
  !mine.isEmpty && !(c.landing.any fun l => decide (l.tag.issue = o.issue)) &&
    (decide (Desc.op o.desc ≠ Op.copy) || decide (bits (Desc.arg o.desc 2) 39 0 ≤ o.asked) || decide (256 ≤ c.tags.length))

/-- Whether the queue of a context has anything to issue: the tail watch of a swapped context is kept (R373). -/
def State.ctxHasMore (s : State) (c : Ctx) (x : QueueSt) : Bool :=
  x.hasMore || (decide (c.place ≠ .resident) && !(bit c.qCfg 1) && (s.memFault c.qTail 4).isNone &&
    decide (s.loadNat c.qTail 4 ≠ x.next))

/-- Whether a queue can issue its next macro-op as far as its own order goes (R159, R160). -/
def State.nextMayIssue (s : State) (c : Ctx) (x : QueueSt) : Bool :=
  match x.fetched with
  | f :: _ =>
    if Desc.chain f.desc then decide (x.ops.length ≤ 1) && decide (x.issuedAt + Desc.readyAfter f.desc ≤ s.now)
    else x.ops.isEmpty
  | [] => x.ops.isEmpty && s.ctxHasMore c x

/-- CAUSE of a context that exists: 0 when it is runnable (R373). -/
def State.blockCause (s : State) (e k : Nat) : Nat :=
  let c := s.ctx e k
  let x := s.ctxQueue e k
  if c.place = .withdrawn then 9
  else if x.state = .disabled then 8
  else if x.state = .halted then 4
  else if !s.phaseAllows e c then 5
  else if c.remoteErr.isSome then 0
  else if x.ops.any (c.awaits ·) then 6
  else if s.nextMayIssue c x then 0
  else if x.ops.any fun o => decide (Desc.op o.desc = Op.wait) && !o.finished && !s.waitMet o.desc then 2
  else if x.ops.any fun o => decide (Desc.op o.desc = Op.fence) && !(s.fenceMetIn e c.slot c x o) then 3
  else if !x.ops.isEmpty then 0
  else if x.fetched.isEmpty then 1 else 7

/-- Whether an open macro-op of a queue holds accumulators that a save keeps: those of a macro-op that an abort or a fault stops are
discarded (R51, R111). -/
def QueueSt.liveAcc (x : QueueSt) : Bool :=
  x.ops.any fun o => (!o.acc.isEmpty || !o.full.isEmpty) && !o.abort && o.fault.isNone

/-- Notes whether context k has become blocked or runnable; a RUNNING context that blocks frees the engine (R373, R374). -/
def State.noteCtx (s : State) (e k : Nat) : State :=
  let c := s.ctx e k
  if c.place = .free then s else
  let b := decide (s.blockCause e k ≠ 0)
  let c := if b = c.blocked then c
    else if b then { c with blocked := true, blockedAt := s.now } else { c with blocked := false, readyAt := s.now }
  s.setCtx e k (if c.running && b then { c with running := false, accSaved := (s.ctxQueue e k).liveAcc } else c)

/-- Notes every context. -/
def State.noteCtxs (s : State) : State := s.ctxs.foldl (fun s x => s.noteCtx (x.1 / 16) (x.1 % 16)) s

/-- The client that a context's work counts to (R369). -/
def Ctx.client (c : Ctx) : Nat :=
  match c.job with
  | some j => j.client
  | none => bits c.cfg 20 15

/-- Charges the clients of the contexts that hold engines with the cycles up to t (R369). -/
def State.chargeClients (s : State) (t : Nat) : State :=
  s.ctxs.foldl (fun s x => if x.2.running then s.bump (Reg.schClientCycles x.2.client) 63 0 (t - s.now) else s) s

/-! ### Steps (R109, R158) -/

/-- CONV with MAXPOOL, which runs on the row unit (R306). -/
def isPool (d : Desc) : Bool := decide (d.op = Op.conv) && bit (d.w 2) 21

/-- Macro-ops written tile by tile (R112). -/
def OpenOp.tiled (o : OpenOp) : Bool :=
  let op := Desc.op o.desc
  decide (op = Op.mma ∨ op = Op.mmaBwdX ∨ op = Op.mmaBwdW ∨ op = Op.conv) && !(isPool o.desc)

/-- Tile steps of one output tile. -/
def OpenOp.perTile (o : OpenOp) : Nat := if o.tiles = 0 then 0 else o.stepsTotal / o.tiles

/-- Macro-ops that have no step boundary before their commit point, or end at once (R158, R286, R317). -/
def stepless (op : Nat) : Bool :=
  decide (op = Op.signal ∨ op = Op.call ∨ op = Op.branch ∨ op = Op.scatter ∨ op = Op.sort ∨ op = Op.nms)

/-- Macro-ops whose number of step boundaries the manual leaves open: they may commit at any time (R158). -/
def openSteps (op : Nat) : Bool := decide (op = Op.wait ∨ op = Op.fence ∨ op = Op.gather)

/-- The products of the backward pass alternate accumulator banks tile by tile (R218, R219). -/
def OpenOp.alternates (o : OpenOp) : Bool := decide (Desc.op o.desc = Op.mmaBwdX ∨ Desc.op o.desc = Op.mmaBwdW)

/-- Whether a tiled macro-op can run its next tile step: the bank of its tile is free (R112, R219). -/
def OpenOp.bankFree (o : OpenOp) : Bool := decide (o.full.length < if o.alternates then 2 else 1)

/-- Whether a step boundary lies before the macro-op: one not yet passed, and for a tiled macro-op one of a tile that accumulates. -/
def OpenOp.stepDue (o : OpenOp) : Bool :=
  if stepless (Desc.op o.desc) then false
  else if openSteps (Desc.op o.desc) then true
  else if o.tiled then decide (o.steps < o.stepsTotal) && (o.fault.isSome || o.bankFree)
  else if o.stepsTotal = 0 then !o.finished
  else decide (o.steps < o.stepsTotal)

/-! ### The units of an engine (R158, R159) -/

/-- A unit that a macro-op needs. -/
inductive EngUnit
  | arrays | rowUnit | dma
  deriving DecidableEq, Repr

/-- Whether a descriptor needs a unit, as the table of R158 lists them. -/
def EngUnit.neededBy (u : EngUnit) (d : Desc) : Bool :=
  match u with
  | .arrays => inRange d.op 0x01 0x19 && !isPool d
  | .rowUnit => inRange d.op 0x09 0x2A || isPool d
  | .dma => inRange d.op 0x30 0x33

/-- Whether open macro-op o of context c holds a unit: the arrays until its last tile has left its accumulators, the row unit until
its last boundary, and the DMA until its last request is made (R112, R158, R378). A context that has left the engine holds neither
arrays nor row unit (R375). -/
def OpenOp.holds (o : OpenOp) (c : Ctx) (u : EngUnit) : Bool :=
  u.neededBy o.desc &&
    (match u with
     | .dma => !o.finished && !(c.awaits o)
     | _ => c.running && (if o.tiled then decide (o.cur < o.tiles) || !o.full.isEmpty
         else o.stepDue || (stepless (Desc.op o.desc) && !o.finished)))

/-- Whether a unit of engine e is held by an open macro-op of any of its queues. -/
def State.unitHeld (s : State) (e : Nat) (u : EngUnit) : Bool :=
  (List.range 4).any fun q => match s.slotCtx e q with
    | some k => (s.queue e q).ops.any fun o => o.holds (s.ctx e k) u
    | none => false

/-- Whether the units that a descriptor needs are free (R159). -/
def State.unitsFree (s : State) (e : Nat) (d : Desc) : Bool :=
  [EngUnit.arrays, .rowUnit, .dma].all fun u => !(u.neededBy d && s.unitHeld e u)

/-! ### Holding and ramping of the arrays (R135 to R139) -/

/-- ENG_HOLD_CTRL.MODE in force: ALWAYS for an engine that a RESERVED phase binds (R137). -/
def State.holdMode (s : State) (e : Nat) : Nat := if s.reservedEngine e then 2 else bits (s.eng e).hold 1 0

/-- The issue duty in force, in eighths: that of the ramp, clipped to the cap (R136, R139). -/
def EngineSt.issueDuty (x : EngineSt) : Nat :=
  if x.gateClosed then 0 else
  match x.ramp with
  | .idle => 0
  | .active => min x.duty 8
  | _ => min x.duty (2 * x.rampStep + 1)

/-- Real work comes to the arrays of engine e: idle ones ramp up, and a ramp-down reverses, or is taken back when it began in this very
cycle (R136, R138). -/
def State.workBegins (s : State) (e : Nat) : State :=
  let x := { s.eng e with working := true }
  match x.ramp with
  | .idle => (s.setEng e { x with ramp := .rampUp, rampStep := 0, rampAt := s.now, prior := none }).bump (Reg.engRampCount e) 31 0 1
  | .rampDown =>
    (match x.prior with
     | some (r, at0) =>
       if x.rampAt = s.now then
         (s.setEng e { x with ramp := r, rampAt := at0, prior := none }).setFld (Reg.engRampCount e) 63 32
           (s.fld (Reg.engRampCount e) 63 32 - 1)
       else s.setEng e { x with ramp := .rampUp, prior := none }
     | none => s.setEng e { x with ramp := .rampUp })
  | _ => s.setEng e x

/-- The last real issue of the arrays has been made: an idle gap begins, at whose start ENG_HOLD_CTRL takes effect (R135, R138). -/
def State.workEnds (s : State) (e : Nat) : State :=
  s.setEng e { s.eng e with working := false, hold := s.rd (Reg.engHoldCtrl e), lastReal := s.now }

/-- Notes whether the arrays of engine e have real work. -/
def State.noteArrays (s : State) (e : Nat) : State :=
  let work := s.unitHeld e .arrays
  if work = (s.eng e).working then s else if work then s.workBegins e else s.workEnds e

/-- Notes the arrays of every engine. -/
def State.noteEngines (s : State) : State :=
  (s.queues.map fun x => x.1 / 4).foldl State.noteArrays ((s.engines.map fun x => x.1).foldl State.noteArrays s)

/-- Engine e counts the cycles up to t in which its arrays issue holding operations: all that its duty allows while there is no real
work, and in a ramp-up with real work those that it leaves, whose number is open (R136, ENG_HOLD_CYCLES; assumption log 51). -/
def State.chargeHold (s : State) (t e : Nat) : State :=
  let x := s.eng e
  let n := (t - s.now) * x.issueDuty
  if n = 0 then s
  else if x.working then
    (match x.ramp with
     | .rampUp =>
       let (k, s) := s.freeNat
       s.bump (Reg.engHoldCycles e) 63 0 (k % (n / 8 + 1))
     | _ => s)
  else (s.setEng e { x with heldPart := (x.heldPart + n) % 8 }).bump (Reg.engHoldCycles e) 63 0 ((x.heldPart + n) / 8)

/-- Charges every engine. -/
def State.chargeHolds (s : State) (t : Nat) : State := s.engines.foldl (fun s x => s.chargeHold t x.1) s

/-! ### What waits at a tier (R80 to R83) -/

/-- A request that is charged to no partition (R80). -/
def Waiting.uncharged (w : Waiting) : Bool := w.noPart || decide (w.req.who = .scheduler)

/-- The regulator holds the requests of partition p: its bucket is empty, or the RATE in force is 0 (R80, R81). -/
def State.heldBack (s : State) (tr : Tier) (p : Nat) : Bool :=
  decide ((s.tier tr).buckets.getD p 0 ≤ 0) || decide (s.rateInForce tr p = 0)

/-- The longest pause of a channel for a forced calibration, in cycles (R93). -/
def pauseLimit : Nat := 2200

/-- Whether a regulator holds bytes of an open macro-op of partition p. -/
def State.opsHeld (s : State) (tr : Tier) (p : Nat) : Bool :=
  s.queues.any fun x => x.2.ops.any fun o => decide (o.part = p) && o.heldBytes.any fun h => decide (h.1 = tr)

/-- Cycles from now to t that partition p is charged at a tier: REGULATOR, CALIBRATION, REFRESH, LATE_CHANNEL (R82). -/
def State.stallCycles (s : State) (tr : Tier) (p t : Nat) : Nat × Nat × Nat × Nat :=
  let x := s.tier tr
  let ws := x.waiting.filter fun w => decide (w.req.part.val = p) && !w.uncharged
  let d := t - s.now
  if (ws.isEmpty ∧ s.opsHeld tr p = false) ∨ d = 0 then (0, 0, 0, 0)
  else if s.heldBack tr p then (d, 0, 0, 0)
  else if ws.isEmpty then (0, 0, 0, 0)
  else
    let cal := ws.foldl (fun a w => x.paused.foldl (fun a c =>
      if c.1 = tr.channelOf (s.targetUnit tr w.req.da) then max a (min t (c.2 + pauseLimit)) else a) a) s.now
    let ref := ws.foldl (fun a w => x.refreshing.foldl (fun a r =>
      if r.1 = s.targetUnit tr w.req.da then max a (min t r.2) else a) a) cal
    let late := ws.foldl (fun a w => min a (w.arrived + s.lateThresh tr)) t
    (0, cal - s.now, ref - cal, t - max late ref)

/-- Marks the open macro-op whose request was charged (R83): the oldest of its queue. -/
def State.markStalled (s : State) (e q : Nat) : State :=
  let x := s.queue e q
  match x.ops with
  | o :: r => s.setQueue e q { x with ops := { o with stalled := true } :: r }
  | [] => s

/-- Charges the stalls of a tier and partition for the cycles up to t. -/
def State.chargeStalls (s : State) (t : Nat) (tr : Tier) (p : Nat) : State :=
  let (a, b, c, d) := s.stallCycles tr p t
  if a + b + c + d = 0 then s else
  let ws := (s.tier tr).waiting.filter fun w => decide (w.req.part.val = p)
  let s := s.bump (tr.reg (Reg.pntStallReg p) (Reg.celStallReg p)) 63 0 a
  let s := s.bump (tr.reg (Reg.pntStallCal p) (Reg.celStallCal p)) 63 0 b
  let s := s.bump (tr.reg (Reg.pntStallRef p) (Reg.celStallRef p)) 63 0 c
  let s := s.bump (tr.reg (Reg.pntStallLate p) (Reg.celStallLate p)) 63 0 d
  ws.foldl (fun s w => match w.req.who with
    | .engine e q => s.markStalled e q
    | _ => s) s

/-- Charges every tier and partition. -/
def State.chargeAll (s : State) (t : Nat) : State :=
  let held := s.queues.any fun x => x.2.ops.any fun o => !o.heldBytes.isEmpty
  if s.pantry.waiting.isEmpty ∧ s.cellar.waiting.isEmpty ∧ held = false then s else
  (List.range 8).foldl (fun s p => (s.chargeStalls t .pantry p).chargeStalls t .cellar p) s

/-! ### Time -/

/-- The phases that a cycle leaves with no macro-op open and none left to issue have ended in it (R35; assumption log 21). -/
def State.endQuiet (s : State) : State :=
  (List.range 16).foldl (fun (s : State) (p : Nat) =>
    if (s.run p).state.active && !(s.run p).ending && s.phaseQuiet p then s.endPhase p else s) s

/-- Time passes to cycle t; it never runs back. What counts cycles is charged for the cycles that pass. -/
def State.advance (s : State) (t : Nat) : State :=
  let s := s.noteCtxs.noteEngines
  if t ≤ s.now then s else
  { (((s.endQuiet.noteCtxs).chargeClients t).chargeHolds t).chargeAll t with now := t, cycle := [], setNow := [] }

/-- The place of the tick block and the scheduler in the order of a cycle (R50). -/
def tickPlace : Nat := 0

/-- A context's place, for placements of job steps and aborts of it, and a remote tag's, for its response and its timeout (R391). -/
def ctxPlace (e k : Nat) : Nat := 2 ^ 70 + 16 * e + k
def tagPlace (tag : Nat) : Nat := 2 ^ 71 + tag

/-- An Attic sector's place, for reads and snoops of it, and a Dulis tag's, for its response and its timeout (R428). -/
def sectorPlace (n : Nat) : Nat := 2 ^ 72 + n
def dulisPlace (tag : Nat) : Nat := 2 ^ 73 + tag

/-- An action of a rank in the spec's order of a cycle at a place: one that comes after an action of a higher rank in the same cycle
takes effect in the next cycle (assumption log 13). -/
def State.inOrder (s : State) (place rank : Nat) : State :=
  let s := if rank + 1 < tabGet (fun _ => 0) s.cycle place then s.advance (s.now + 1) else s
  s.reached place rank

/-- The block does not run: it is in reset, its rails are not all up, or REFCLK is lost (R497, R498, R505). -/
def State.stopped (s : State) : Bool :=
  s.power.low || !s.power.released || s.power.refLost || decide (s.power.step ≠ .good)

/-- Time passes to cycle t, and the block does f then, unless it is stopped. -/
def State.live (s : State) (t : Nat) (f : State → State) : State :=
  let s := s.advance t
  if s.stopped then s else f s

end Sys2Proof.Machine
end

