-- ==== Sys2Proof/Machine/Home.lean ====
section
/-! DEFINITION. What a home slice does: the atomics of R66 and R67 and the reductions of R68, with the checks of R69. -/

namespace Sys2Proof.Machine

/-- Operand width in bytes. -/
def AtomType.bytes : AtomType → Nat
  | .int32 => 4 | .uint32 => 4 | .int64 => 8 | .uint64 => 8 | .fp32 => 4 | .b32 => 4 | .b64 => 8 | .b128 => 16

/-- Whether R66 defines the combination. -/
def AtomReq.defined (a : AtomReq) : Bool :=
  match a.op with
  | .fadd => decide (a.ty = .int32 ∨ a.ty = .int64 ∨ a.ty = .fp32)
  | .min => decide (a.ty ≠ .b32 ∧ a.ty ≠ .b64 ∧ a.ty ≠ .b128)
  | .max => decide (a.ty ≠ .b32 ∧ a.ty ≠ .b64 ∧ a.ty ≠ .b128)
  | .cas => decide (a.ty ≠ .fp32)
  | .cnt2 => decide (a.ty.bytes = 4 ∧ a.ty ≠ .fp32)
  | _ => decide (a.ty ≠ .fp32 ∧ a.ty ≠ .b128)

/-- Whether the operand is below the word in the type's order (MIN and MAX on integers). -/
def intBelow (ty : AtomType) (x y : Nat) : Bool :=
  match ty with
  | .int32 => decide (toSigned 32 x < toSigned 32 y)
  | .int64 => decide (toSigned 64 x < toSigned 64 y)
  | _ => decide (x < y)

/-- What an atomic writes, from the old value; none: CNT2 out of range (R66, R67). DESIGN CHOICE: a CNT2 delta outside −8 to +8, which the
manual does not mention, is performed as it is given (assumption log 91). -/
def AtomReq.result (a : AtomReq) (old : Nat) : Option Nat :=
  let m := 2 ^ (8 * a.ty.bytes)
  let x := a.opnd % m
  let fp := decide (a.ty = .fp32)
  match a.op with
  | .fadd => some (if fp then (add32 (BitVec.ofNat 32 old) (BitVec.ofNat 32 x)).toNat else (old + x) % m)
  | .min => some (if fp then (min32 (BitVec.ofNat 32 old) (BitVec.ofNat 32 x)).toNat
      else if intBelow a.ty x old then x else old)
  | .max => some (if fp then (max32 (BitVec.ofNat 32 old) (BitVec.ofNat 32 x)).toNat
      else if intBelow a.ty old x then x else old)
  | .and => some (old &&& x)
  | .or => some (old ||| x)
  | .xor => some (old ^^^ x)
  | .swap => some x
  | .cas => some (if old = a.cmp % m then x else old)
  | .cnt2 =>
    let pin := (bits old 31 16 : Int) + a.dPin
    let ref := (bits old 15 0 : Int) + a.dRef
    if 0 ≤ pin ∧ pin ≤ 65535 ∧ 0 ≤ ref ∧ ref ≤ 65535 then some (pin.toNat * 65536 + ref.toNat) else none

/-- ZERO of a CNT2 reply: both new fields are 0. -/
def AtomReq.zero (a : AtomReq) (new : Nat) : Bool := decide (a.op = .cnt2) && decide (new = 0)

/-- One element of a reduction (R68). -/
def RedOp.elem (op : RedOp) (old new : Nat) : Nat :=
  match op with
  | .addFp32 => (add32 (BitVec.ofNat 32 old) (BitVec.ofNat 32 new)).toNat
  | .addBf16 => (convert .bf16 .rne ((Fmt.bf16.decode old).add (Fmt.bf16.decode new))).bits
  | .addInt32 => (old + new) % 2 ^ 32
  | .maxFp32 => (max32 (BitVec.ofNat 32 old) (BitVec.ofNat 32 new)).toNat
  | .minFp32 => (min32 (BitVec.ofNat 32 old) (BitVec.ofNat 32 new)).toNat
  | .setByte => new

/-- Element width in bytes. -/
def RedOp.bytes : RedOp → Nat
  | .addBf16 => 2
  | .setByte => 1
  | _ => 4

/-- The bytes a reduction writes over the old ones: element i under bit i of the mask. -/
def RedOp.apply (op : RedOp) (mask : Nat) (old new : List Byte) : List Byte :=
  (List.range (old.length / op.bytes)).flatMap fun i =>
    let w := op.bytes
    if mask.testBit i then leBytes w (op.elem (leField old (w * i) w) (leField new (w * i) w))
    else fieldBytes old (w * i) w

/-- Drops the read copy on the other die of the lines a home operation touches (R65). -/
def State.claimLine (s : State) (a n : Nat) : State := { s with larder := dropCopies s.larder a n }

/-- Writes what a home operation leaves; an operation that leaves every byte as it was is no write (R522). -/
def State.storeIfChanged (s : State) (a : Nat) (bs : List Byte) : State :=
  if s.load a bs.length = bs then s else s.store a bs

/-- An atomic or reduction that cannot be performed: the fault code. -/
def State.atomFault (s : State) (a w : Nat) (aligned : Bool) : Option Nat :=
  match regionOf a with
  | .shelf _ _ => some F.atomicAlign
  | .register => some F.atomicAlign
  | _ => if !aligned then some F.atomicAlign else (s.memFault a w).map (·.1)

/-- Notes an atomic that ended F_ATOMIC_RANGE or F_ATOMIC_ALIGN (LDR_ATOMIC_FAULT). -/
def State.noteAtomic (s : State) (a code : Nat) : State :=
  if code = F.atomicAlign ∨ code = F.atomicRange then (s.wr Reg.ldrAtomicFault a).event Reg.ldrIntStatus 2 else s

/-- What a home operation answers: a fault code, or 0 with the old value and ZERO. -/
structure HomeAnswer where
  code : Nat := 0
  old : Nat := 0
  zero : Bool := false
  deriving DecidableEq, Repr

/-- Performs an atomic on a word of Pantry, Cellar, or an Attic sector held in E (R65 to R67). -/
def State.doAtomic (s : State) (a : Nat) (r : AtomReq) : State × HomeAnswer :=
  let w := r.ty.bytes
  let s := s.claimLine a w
  let old := s.loadNat a w
  match r.result old with
  | none => (s.noteAtomic a F.atomicRange, ⟨F.atomicRange, old, false⟩)
  | some new => (s.storeIfChanged a (leBytes w new), ⟨0, old, r.zero new⟩)

/-- Performs a reduction (R68). -/
def State.doRed (s : State) (a : Nat) (op : RedOp) (mask : Nat) (data : List Byte) : State :=
  let s := s.claimLine a data.length
  s.storeIfChanged a (op.apply mask (s.load a data.length) data)

/-- The target of a reduction is one naturally aligned sector or line (R69). -/
def redAligned (a n : Nat) : Bool :=
  (decide (n = 64) && decide (a % 64 = 0)) || (decide (n = 256) && decide (a % 256 = 0))

/-- Sets the fault an engine's request leads to on the oldest open macro-op of its queue that has none. -/
def State.failOp (s : State) (e q code addr : Nat) : State :=
  let x := s.queue e q
  let i := (x.ops.findIdx? fun o => o.fault.isNone).getD x.ops.length
  match x.ops[i]? with
  | none => s
  | some o => s.setQueue e q { x with ops := x.ops.set i { o with fault := some (OpFault.mk code addr 0), finished := true } }

/-- A request from another module is rejected: counted, and the first one in each 1 ms recorded (R414). -/
def State.noteReject (s : State) (port part addr code : Nat) : State :=
  let s := (s.bump Reg.ktfRxReject 31 0 1).event Reg.ktfIntStatus 3
  if 0 < s.flt.rejectedAt ∧ s.now < s.flt.rejectedAt - 1 + us 1000 then s else
  postFault { s with flt := { s.flt with rejectedAt := s.now + 1 } }
    { code := code, cls := Class.contained, block := Blk.ktf, unit := port, part := part,
      payload := defaultPayload addr 0 0 0 0 }

/-- Answers a request with a fault code and data: to the requester, or as the response packet of the module or companion
that sent it (R415, R426). -/
def State.answer (s : State) (w : Waiting) (code addr : Nat) (data : List Byte) : State :=
  match w.pkt with
  | some (n, p) =>
    if n = dulis then
      let data := if code = 0 then data else []
      let out : Packet := { type := 0x38, vc := 4, tag := p.tag, status := code, len := data.length, payload := data }
      s.sendOn dulis { pkt := out }
    else
      let s := if code = 0 then s else s.noteReject n w.req.part.val w.req.da code
      s.sendOwn (p.response s.moduleId code data)
  | none =>
    if w.quiet then s else
    let s := s.emit (.memAnswer w.req.id w.req.who code data)
    match w.req.who with
    | .engine e q => if code = 0 then s else s.failOp e q code addr
    | _ => s

/-- Answers an atomic. -/
def State.answerAtom (s : State) (w : Waiting) (r : HomeAnswer) (width : Nat) : State :=
  match w.pkt with
  | some _ => s.answer w r.code w.req.da (leBytes width r.old)
  | none =>
    if r.code = 0 then s.emit (.atomAnswer w.req.who w.req.da r.old r.zero)
    else
      let s := s.emit (.atomRefused w.req.who w.req.da r.code)
      match w.req.who with
      | .engine e q => s.failOp e q r.code w.req.da
      | _ => s

end Sys2Proof.Machine
end

