-- ==== Sys2Proof/Machine/Attic.lean ====
section
/-! DEFINITION. Attic sectors in Larder and the Dulis messages about them (R420 to R425, R427). -/

namespace Sys2Proof.Machine

/-- Sets an Attic sector. -/
def State.setSector (s : State) (n : Nat) (x : AtticSec) : State :=
  { s with attic := { s.attic with secs := tabSet (fun _ => {}) s.attic.secs n x } }

/-- The companion address of an Attic sector (R420, R421). -/
def State.companionAddr (s : State) (n : Nat) : Nat := (s.rd Reg.atcWinBase + 64 * n) % 2 ^ 48

/-- The sector that a companion address names. -/
def State.sectorAt (s : State) (comp : Nat) : Nat := (comp - s.rd Reg.atcWinBase) / 64

/-- Asks the companion for a sector, in S or in E, unless a read of it is outstanding (R422). -/
def State.askSector (s : State) (n : Nat) (own : Bool) : State :=
  let x := s.sector n
  if x.req.isSome then s else
  let tag := s.attic.tag
  let s := { s with attic := { s.attic with tag := (tag + 1) % 2 ^ 24 } }
  let s := s.setSector n { x with req := some (tag, own, s.now) }
  let out : Packet := { type := if own then 0x21 else 0x20, addr := s.companionAddr n, tag := tag, len := 64 }
  s.sendOn dulis { pkt := out }

/-- Answers a read of Attic whose sectors are all held; otherwise asks for the missing ones and keeps it. It comes before a snoop of the
same cycle (R428). -/
def State.atticRead (s : State) (w : Waiting) : State :=
  let s := (sectorsOf w.req.da w.req.len).foldl (fun s n => s.inOrder (sectorPlace n) 0) s
  let s := { s with attic := { s.attic with reads := s.attic.reads ++ [w] } }
  (sectorsOf w.req.da w.req.len).foldl (fun s n => if (s.sector n).st = .i then s.askSector n false else s) s

/-- Answers every kept read whose sectors are all held. -/
def State.serveAttic (s : State) : State :=
  let ready := s.attic.reads.filter fun w => (s.missingSector w.req.da w.req.len).isNone
  let s := { s with attic := { s.attic with
    reads := s.attic.reads.filter fun w => (s.missingSector w.req.da w.req.len).isSome } }
  ready.foldl (fun s w => s.answer w 0 0 (s.load w.req.da w.req.len)) s

/-- Notes the request that made the Attic writes past the first n. -/
def State.sentFor (s : State) (n : Nat) (w : Waiting) : State :=
  let own := (s.attic.writes.drop n).map fun x => { x with who := some w }
  { s with attic := { s.attic with writes := s.attic.writes.take n ++ own } }

/-- Performs an atomic or reduction on a held sector, and answers it. -/
def State.atticPerform (s : State) (w : AtticAtom) : State :=
  let wait : Waiting := { req := ⟨0, w.who, 0, w.da, 64⟩ }
  match w.act with
  | .atom r =>
    let n := s.attic.writes.length
    let (s, ans) := s.doAtomic w.da r
    let s := (s.sentFor n { wait with act := w.act }).answerAtom wait ans r.ty.bytes
    (match w.who, ans.code with
     | .engine e q, 0 =>
       let x := s.queue e q
       s.setQueue e q { x with ops := x.ops.map fun o => if Desc.op o.desc = 0x39 then { o with finished := true } else o }
     | _, _ => s)
  | .red op mask data => (s.doRed w.da op mask data).sentFor s.attic.writes.length { wait with act := w.act }
  | _ => s

/-- Whether every sector an atomic or reduction touches is held in E. -/
def State.ownsSectors (s : State) (a len : Nat) : Bool := (sectorsOf a len).all fun n => decide ((s.sector n).st = .e)

/-- The bytes an atomic or reduction touches. -/
def MemAct.size : MemAct → Nat
  | .atom r => r.ty.bytes
  | .red _ _ data => data.length
  | .write data => data.length
  | .read => 0

/-- An atomic or reduction on Attic: performed in E, or kept until the companion grants E (R99, R422). -/
def State.atticAtomic (s : State) (w : AtticAtom) : State :=
  if s.ownsSectors w.da w.act.size then s.atticPerform w
  else
    let s := { s with attic := { s.attic with atoms := s.attic.atoms ++ [w] } }
    (sectorsOf w.da w.act.size).foldl (fun s n => if (s.sector n).st = .e then s else s.askSector n true) s

/-- Performs the kept atomics whose sectors are held in E, oldest first; k bounds their number. -/
def State.serveAtoms (s : State) : Nat → State
  | 0 => s
  | k + 1 =>
    match s.attic.atoms with
    | [] => s
    | w :: r =>
      if s.ownsSectors w.da w.act.size then
        (({ s with attic := { s.attic with atoms := r } }).atticPerform w).serveAtoms k
      else s

/-- The sequence number of the ring entry or template at a DA, when the queue has fetched it and it has not retired (R145, R147). -/
def State.ringSeqAt (s : State) (e q a : Nat) : Option Nat :=
  let x := s.queue e q
  let cfg := s.rd (Reg.engQCfg e q)
  let base := s.rd (Reg.engQBase e q)
  let size := 2 ^ bits cfg 12 8
  if x.state = .disabled ∨ a < base then none
  else if bit cfg 1 then
    let mine := (x.ops.map fun o => (o.level, o.index, o.desc)) ++ x.fetched.map fun f => (f.level, f.index, f.desc)
    (mine.find? fun y => decide (y.1 = 0) && decide (y.2.1 = (a - base) / 64)).map fun y => Desc.seq y.2.2
  else
    let ahead := ((a - base) / 64 + size - x.head % size) % size
    if a < base + 64 * size ∧ ahead < (x.next + 2 ^ 32 - x.head) % 2 ^ 32 ∧ (x.head + ahead) % 2 ^ 32 ∉ x.retired then
      some ((x.head + ahead) % 2 ^ 32)
    else none

/-- Whether a sector is watched: it holds the tail line of an enabled queue, a ring entry it has fetched, or the word of
an open WAIT (R145, R167, R424). -/
def State.watched (s : State) (a : Nat) : Bool :=
  s.queues.any fun x =>
    (s.ringSeqAt (x.1 / 4) (x.1 % 4) a).isSome || (decide (x.2.state ≠ .disabled) && decide (s.rd (Reg.engQTailDa (x.1 / 4) (x.1 % 4)) / 64 = a / 64)) ||
      x.2.ops.any fun o => decide (Desc.op o.desc = 0x38) && decide (Desc.arg o.desc 0 / 64 = a / 64)

/-- The number of watched Attic sectors. -/
def State.watchedCount (s : State) : Nat := ((s.attic.secs.filter fun x => s.watched (sectorDa x.1))).length

/-- Notes a failed Attic request: its address, and its count (ATC_ERR_ADDR, ATC_ERR_COUNT); an error response writes a fault record as
an uncorrectable codeword does (R85, R99). -/
def State.noteAttic (s : State) (a : Nat) (timeout : Bool) : State :=
  let s := s.wr Reg.atcErrAddr a
  if timeout then (s.bump Reg.atcErrCount 63 32 1).event Reg.atcIntStatus 3
  else
    postFault ((s.bump Reg.atcErrCount 31 0 1).event Reg.atcIntStatus 2)
      { code := F.memUe, cls := Class.contained, block := Blk.atc, payload := defaultPayload a 0 0 0 0 }

/-- The read of a sector has failed: every request that waits for it ends with the code; when none does, the next
request to meet the sector ends so (R99, R427). -/
def State.failSector (s : State) (n code : Nat) : State :=
  let hit := fun (w : Waiting) => decide (n ∈ sectorsOf w.req.da w.req.len)
  let hitAtom := fun (w : AtticAtom) => decide (n ∈ sectorsOf w.da w.act.size)
  let rs := s.attic.reads.filter hit
  let ats := s.attic.atoms.filter hitAtom
  let x := s.sector n
  let s := s.setSector n { x with req := none, err := if rs.isEmpty && ats.isEmpty then code else 0 }
  let s := { s with attic := { s.attic with
    reads := s.attic.reads.filter fun w => !hit w, atoms := s.attic.atoms.filter fun w => !hitAtom w } }
  let s := rs.foldl (fun s w => s.answer w code (sectorDa n) []) s
  ats.foldl (fun s w => s.answerAtom { req := ⟨0, w.who, 0, w.da, 64⟩ } ⟨code, 0, false⟩ 4) s

/-- The write of an Attic sector has failed: the macro-op that made it faults, or the request that made it, acknowledged when the write
was sent (R422), ends with the code (R99, R427). -/
def State.failWrite (s : State) (w : AtticWrite) (code : Nat) : State :=
  let s := { s with attic := { s.attic with writes := s.attic.writes.filter fun x => decide (x.tag ≠ w.tag) } }
  match w.op with
  | some (e, q, issue) =>
    let x := s.queue e q
    s.setQueue e q { x with ops := x.ops.map fun o =>
      if o.issue = issue ∧ o.fault.isNone then { o with fault := some ⟨code, w.da, 0⟩ } else o }
  | none =>
    match w.who with
    | some r => s.answer r code w.da []
    | none => s

/-- The Dulis link has become FAILED: every outstanding Attic request ends with F_MEM_TIMEOUT and every sector becomes
I (R427). -/
def State.atticLost (s : State) : State :=
  let asked := s.attic.secs.filter fun x => x.2.req.isSome
  let s := asked.foldl (fun s x => s.failSector x.1 F.memTimeout) s
  let s := s.attic.writes.foldl (fun s w => s.failWrite w F.memTimeout) s
  { s with attic := { s.attic with secs := [], reads := [], atoms := [] } }

/-- The sector a response's tag belongs to. -/
def State.sectorOfTag (s : State) (tag : Nat) : Option Nat :=
  (s.attic.secs.find? fun x => match x.2.req with
    | some (t, _, _) => decide (t = tag)
    | none => false).map (·.1)

/-- Read data arrives: the sector is installed in the state granted, and what waited for it is served (R420, R422). An
error response ends the request with F_MEM_UE (R99). -/
def State.atticData (s : State) (p : Packet) (st : AtticState) : State :=
  match s.sectorOfTag p.tag with
  | none => s
  | some n =>
    let s := s.inOrder (dulisPlace p.tag) 0
    if p.status ≠ 0 then (s.noteAttic (sectorDa n) false).failSector n F.memUe
    else
      let s := { s with mem := tabSetList memDefault s.mem (sectorDa n) (fieldBytes p.payload 0 64) }
      let s := s.setSector n { st := st }
      s.serveAttic.serveAtoms s.attic.atoms.length

/-- A snoop leaves a sector in a state and is answered with it (R423). -/
def State.snoop (s : State) (p : Packet) (after : AtticState → AtticState) : State :=
  let n := s.sectorAt p.addr
  let s := s.inOrder (sectorPlace n) 1
  let x := s.sector n
  let st := after x.st
  let s := s.setSector n { x with st := st }
  let out : Packet := { type := 0x24, vc := 4, addr := p.addr, tag := p.tag, op := if st = .i then 0 else 1 }
  s.sendOn dulis { pkt := out }

/-- A watched sector has been invalidated: its watcher is notified and the sector refetched (R424). -/
def State.refetch (s : State) (n : Nat) : State :=
  if s.watched (sectorDa n) then (s.bump Reg.atcWatchCount 47 16 1).askSector n false else s

/-- A packet from the companion is taken off the link and handled. -/
def State.fromCompanion (s : State) (p : Packet) (f : State → State) : State :=
  match s.linkReceive dulis p with
  | (s, true) => (f s).consume dulis p
  | (s, false) => s

/-! ### Meanings -/

/-- DATA_S (R420). -/
def execDataS (t : Nat) (p : Packet) (s : State) : Host.Outcome State Fault Refusal :=
  .next (s.live t fun s => s.fromCompanion p fun s => s.atticData p .s)

/-- DATA_E (R422). -/
def execDataE (t : Nat) (p : Packet) (s : State) : Host.Outcome State Fault Refusal :=
  .next (s.live t fun s => s.fromCompanion p fun s => s.atticData p .e)

/-- WR_ACK (R422): the write is visible to the companion, or failed. -/
def execWrAck (t : Nat) (p : Packet) (s : State) : Host.Outcome State Fault Refusal :=
  .next (s.live t fun s => s.fromCompanion p fun s =>
    match s.attic.writes.find? fun w => decide (w.tag = p.tag) with
    | none => s
    | some w =>
      let s := s.inOrder (dulisPlace p.tag) 0
      if p.status ≠ 0 then (s.noteAttic w.da false).failWrite w F.memUe
      else { s with attic := { s.attic with writes := s.attic.writes.filter fun x => decide (x.tag ≠ p.tag) } })

/-- SNP_INV (R423, R424). -/
def execSnpInv (t : Nat) (p : Packet) (s : State) : Host.Outcome State Fault Refusal :=
  .next (s.live t fun s => s.fromCompanion p fun s => (s.snoop p fun _ => .i).refetch (s.sectorAt p.addr))

/-- SNP_SHARED (R423). -/
def execSnpShared (t : Nat) (p : Packet) (s : State) : Host.Outcome State Fault Refusal :=
  .next (s.live t fun s => s.fromCompanion p fun s => s.snoop p fun st => if st = .e then .s else st)

/-- ATTIC_TIMEOUT (R427): an Attic read or write of the sector has gone unanswered for ATC_TIMEOUT; a response of the same cycle is accepted
before (R428). -/
def execAtticTimeout (t da : Nat) (s : State) : Host.Outcome State Fault Refusal :=
  let s := s.advance t
  if s.stopped then .next s else
  let n := sectorOf da
  let limit := us (s.fld Reg.atcTimeout 9 0)
  let s := match (s.sector n).req with
    | some (tag, _, since) =>
      if atticBase ≤ da ∧ since + limit ≤ s.now then ((s.inOrder (dulisPlace tag) 1).noteAttic (sectorDa n) true).failSector n F.memTimeout else s
    | none => s
  .next (match s.attic.writes.find? fun w => decide (w.da / 64 = da / 64) && decide (w.since + limit ≤ s.now) with
    | some w => ((s.inOrder (dulisPlace w.tag) 1).noteAttic w.da true).failWrite w F.memTimeout
    | none => s)

end Sys2Proof.Machine
end

