-- ==== Sys2Proof/Machine/Codes.lean ====
section
/-! DEFINITION. The two Reed–Solomon codes over GF(2^8) of R71 to R74. The code is linear, so the decoder works on
the pattern of symbol errors: a codeword and its errors have the syndromes of the errors alone. -/

namespace Sys2Proof.Machine

/-- Multiplication by α = 0x02 modulo the field polynomial 0x11D (R71). -/
def gfDouble (a : Nat) : Nat := if 128 ≤ a then (2 * a) ^^^ 0x11D else 2 * a

/-- The product of field elements, by the bits of the second from the highest. -/
def gfMulAux (a b : Nat) : Nat → Nat → Nat
  | 0, r => r
  | k + 1, r => gfMulAux a b k (gfDouble r ^^^ (if b.testBit k then a else 0))

/-- The product of field elements. -/
def gfMul (a b : Nat) : Nat := gfMulAux a b 8 0

/-- α^k. -/
def gfExp : Nat → Nat
  | 0 => 1
  | k + 1 => gfDouble (gfExp k)

/-- The power of a field element. -/
def gfPow (a : Nat) : Nat → Nat
  | 0 => 1
  | k + 1 => gfMul a (gfPow a k)

/-- The inverse of a non-zero field element: a^254. -/
def gfInv (a : Nat) : Nat := gfPow a 254

/-- An error pattern: symbol position and value. -/
abbrev Errs := List (Nat × Nat)

/-- Syndrome j of an error pattern in a code of length n: Σ v α^(j (n − 1 − pos)). -/
def syndrome (n j : Nat) (es : Errs) : Nat :=
  es.foldl (fun a e => a ^^^ gfMul e.2 (gfExp (j * (n - 1 - e.1) % 255))) 0

/-- The syndromes 0 to r − 1. -/
def syndromes (n r : Nat) (es : Errs) : List Nat := (List.range r).map fun j => syndrome n j es

/-- The value of a polynomial, lowest coefficient first. -/
def polyAt (p : List Nat) (x : Nat) : Nat := p.foldr (fun c a => c ^^^ gfMul a x) 0

/-- a + c x^m b, coefficient by coefficient. -/
def polyAddShift (a b : List Nat) (c m : Nat) : List Nat :=
  (List.range (max a.length (b.length + m))).map fun i =>
    a.getD i 0 ^^^ (if m ≤ i then gfMul c (b.getD (i - m) 0) else 0)

/-- One step of the Berlekamp–Massey procedure at syndrome k: (Λ, B, L, m, b). -/
def bmStep (s : List Nat) (st : List Nat × List Nat × Nat × Nat × Nat) (k : Nat) : List Nat × List Nat × Nat × Nat × Nat :=
  let (c, b, l, m, d0) := st
  let d := (List.range (l + 1)).foldl (fun a i => a ^^^ gfMul (c.getD i 0) (if i ≤ k then s.getD (k - i) 0 else 0)) 0
  if d = 0 then (c, b, l, m + 1, d0)
  else
    let c' := polyAddShift c b (gfMul d (gfInv d0)) m
    if 2 * l ≤ k then (c', c, k + 1 - l, 1, d) else (c', b, l, m + 1, d0)

/-- The error locator of syndromes, and its length. -/
def locator (s : List Nat) : List Nat × Nat :=
  let (c, _, l, _, _) := (List.range s.length).foldl (bmStep s) ([1], [1], 0, 1, 1)
  (c, l)

/-- The positions at which the locator has its roots. -/
def locate (n : Nat) (c : List Nat) : List Nat :=
  (List.range n).filter fun p => decide (polyAt c (gfExp ((255 - (n - 1 - p) % 255) % 255)) = 0)

/-- The error value at a position (Forney, first root α^0). -/
def errorValue (n : Nat) (s c : List Nat) (p : Nat) : Nat :=
  let x := gfExp ((n - 1 - p) % 255)
  let xi := gfInv x
  let omega := (List.range s.length).map fun i =>
    (List.range (i + 1)).foldl (fun a j => a ^^^ gfMul (s.getD j 0) (c.getD (i - j) 0)) 0
  let deriv := (List.range c.length).foldl (fun a i => if i % 2 = 1 then a ^^^ gfMul (c.getD i 0) (gfPow xi (i - 1)) else a) 0
  gfMul x (gfMul (polyAt omega xi) (gfInv deriv))

/-- The pattern of at most r/2 symbol errors with these syndromes, when there is one (R74). -/
def decodeErrs (n r : Nat) (s : List Nat) : Option Errs :=
  let (c, l) := locator s
  let ps := locate n c
  let es := ps.map fun p => (p, errorValue n s c p)
  if l ≤ r / 2 ∧ ps.length = l ∧ syndromes n r es = s then some es else none

/-- What the decoder makes of a codeword with errors: the symbols it changes, or uncorrectable. In CORRECT mode the
received word goes to the codeword within the correction radius, be it the written one or not; in DETECT mode any
syndrome that is not 0 is uncorrectable (R74). -/
inductive Decoded
  | clean
  | corrected (es : Errs)
  | uncorrectable
  deriving DecidableEq, Repr

/-- The decoder of R74: n symbols, r checks. -/
def decodeWord (n r : Nat) (detect : Bool) (es : Errs) : Decoded :=
  let s := syndromes n r es
  if s.all (· == 0) then .clean
  else if detect then .uncorrectable
  else match decodeErrs n r s with
    | some f => .corrected f
    | none => .uncorrectable

/-- The bytes of one codeword's data with symbol changes made. -/
def applyErrs (es : Errs) (bs : List Byte) : List Byte :=
  es.foldl (fun bs e => if e.1 < bs.length then bs.set e.1 (bs.getD e.1 0 ^^^ BitVec.ofNat 8 e.2) else bs) bs

end Sys2Proof.Machine
end

