-- ==== Sys2Proof/Machine/Memory.lean ====
section
/-! DEFINITION. The memory tiers: requests under the regulators and the codes, timeouts, channel failures, scrubbing,
calibration, refresh and map-out (R61 to R101). -/

namespace Sys2Proof.Machine

/-! ### Writes through a Shelf window (R63, R260, R261) -/

/-- The PULSE descriptors that queue q of engine e works by: those fetched or open, and the templates of a TRIGGER queue. -/
def State.pulsesOf (s : State) (e q : Nat) : List Desc :=
  let x := s.queue e q
  let cfg := s.rd (Reg.engQCfg e q)
  let base := s.rd (Reg.engQBase e q)
  let templates := if bit cfg 1 ∧ (s.memFault base 1024).isNone then
      (List.range (bits cfg 27 24 + 1)).map fun i => descOf (s.load (base + 64 * i) 64)
    else []
  if x.state = .disabled then []
  else (x.fetched.map (·.desc) ++ x.ops.map (·.desc) ++ templates).filter fun d => decide (d.op = Op.pulse)

/-- The state tables of the PULSEs of engine e (R238). -/
def State.stateTables (s : State) (e : Nat) : List Tensor :=
  [0, 1, 2, 3].flatMap fun q => (s.pulsesOf e q).filterMap fun d => (s.tensor e q d.tdA).toOption

/-- The rows of a state table whose elements lie among the n Shelf bytes from `ofs`: the offset of each row's header, and the bytes of
its elements (R240). -/
def Tensor.stateRows (t : Tensor) (ofs n : Nat) : List (Nat × Nat) :=
  let len := t.cols * t.fmt.width / 8
  let first := (ofs - t.base) / t.stride
  let last := (ofs + n - t.base) / t.stride
  ((List.range (last + 1 - first)).map (first + ·)).filterMap fun k =>
    let h := t.base + k * t.stride
    if k < t.rows ∧ ofs < h + 64 + len ∧ h + 64 < ofs + n then some (h, len) else none

/-- A write through a Shelf window. State elements written while CTRL.HOLD of their row is 0 leave the elements of the row undefined until
a step rewrites them (R261; assumption log 85). -/
def State.windowStore (s : State) (a : Nat) (bs : List Byte) : State :=
  match regionOf a with
  | .shelf e ofs =>
    let rows := (s.stateTables e).flatMap fun t => if t.stride = 0 then [] else t.stateRows ofs bs.length
    let open' := rows.filter fun r => !(bit (s.byteAt (shelfDa e r.1)).toNat 0)
    (s.store a bs).havocAll (open'.map fun r => (shelfDa e (r.1 + 64), r.2))
  | _ => s.store a bs

/-! ### Codewords (R72, R73, R85, R86) -/

/-- Data bytes of a codeword: a Pantry sector or a Cellar unit. -/
def Tier.word : Tier → Nat
  | .pantry => 32
  | .cellar => 64

/-- Check symbols of a codeword. -/
def Tier.checks : Tier → Nat
  | .pantry => 4
  | .cellar => 8

/-- The tier of a region. -/
def tierOf (a : Nat) : Option Tier :=
  match regionOf a with
  | .pantry => some .pantry
  | .cellar => some .cellar
  | _ => none

/-- BLOCK of a tier's fault records. -/
def Tier.block : Tier → Nat
  | .pantry => Blk.pnt
  | .cellar => Blk.cel

/-- ECC_MODE is DETECT (R74). -/
def State.detectMode (s : State) (tr : Tier) : Bool := bit (s.rd (tr.reg Reg.pntCtrl Reg.celCtrl)) 1

/-- The unit whose check units lie on a failed channel is read without check (R89). -/
def State.checkless (s : State) (tr : Tier) (a : Nat) : Bool :=
  match tr with
  | .pantry => false
  | .cellar =>
    let x := s.cellar
    let old := x.dead.filter (· ∉ x.failed)
    decide (nextChannel old (tr.place old a).1 ∈ x.failed)

/-- The symbol positions of an error pattern, in ascending order. -/
def errPositions (n : Nat) (es : Errs) : List Nat := (List.range n).filter fun p => es.any fun e => decide (e.1 = p)

/-- PNT_ERR_INFO or CEL_ERR_INFO. -/
def errInfo (tr : Tier) (unit : Nat) (es : Errs) (ue : Bool) : Nat :=
  let ps := errPositions 72 es
  match tr with
  | .pantry => unit + ps.getD 0 0 * 2 ^ 16 + ps.getD 1 0x3F * 2 ^ 24 + b2n ue * 2 ^ 30
  | .cellar => unit + ps.getD 0 0 * 2 ^ 16 + (if ue then 0xFF else ps.length) * 2 ^ 24 + b2n ue * 2 ^ 32

/-- A codeword was corrected: counted, and CE set. -/
def State.noteCe (s : State) (tr : Tier) (a : Nat) (es : Errs) : State :=
  let s := s.bump (tr.reg Reg.pntCeCount Reg.celCeCount) 63 0 1
  let s := s.wr (tr.reg Reg.pntErrInfo Reg.celErrInfo) (errInfo tr (s.targetUnit tr a) es false)
  s.event (tr.reg Reg.pntIntStatus Reg.celIntStatus) 0

/-- A UE or timeout event of a channel (R88). -/
def State.channelEvent (s : State) (tr : Tier) (a : Nat) : State :=
  let x := s.tier tr
  s.setTier tr { x with events := (tr.channelOf (s.targetUnit tr a), s.now) :: x.events }

/-- Notes a codeword of n bytes that holds an uncorrectable error. -/
def State.markDead (s : State) (a n info : Nat) : State :=
  if s.dead.any fun d => decide (d.1 = a) then s else { s with dead := s.dead ++ [(a, n, info)] }

/-- A codeword was uncorrectable: counted and recorded, with a fault record (R85). -/
def State.noteUe (s : State) (tr : Tier) (a info : Nat) : State :=
  let unit := s.targetUnit tr a
  let s := s.bump (tr.reg Reg.pntUeCount Reg.celUeCount) 63 0 1
  let s := (s.wr (tr.reg Reg.pntErrAddr Reg.celErrAddr) a).wr (tr.reg Reg.pntErrInfo Reg.celErrInfo) info
  let s := (s.event (tr.reg Reg.pntIntStatus Reg.celIntStatus) 1).channelEvent tr a
  postFault s { code := F.memUe, cls := Class.contained, block := tr.block, unit := tr.channelOf unit,
                payload := defaultPayload a (info % 2 ^ 32) 0 0 0 }

/-- The errors of codeword i of an access. -/
def errsOf (errs : List SymErr) (i : Nat) : Errs := (errs.filter fun e => decide (e.word = i)).map fun e => (e.pos, e.val.toNat)

/-- Judges the codeword at `a`: the symbol changes its data ends up with, or none when it is uncorrectable. One that CORRECT mode
could not mend either holds its error until it is overwritten (R87; assumption log 81). -/
def State.judge (s : State) (tr : Tier) (a : Nat) (es : Errs) : State × Option Errs :=
  if s.checkless tr a then (s, some es)
  else match decodeWord (tr.word + tr.checks) tr.checks (s.detectMode tr) es with
    | .clean => (s, some es)
    | .corrected f => (s.noteCe tr a es, some (es ++ f))
    | .uncorrectable =>
      let info := errInfo tr (s.targetUnit tr a) es true
      let s := s.noteUe tr a info
      (match decodeWord (tr.word + tr.checks) tr.checks false es with
       | .uncorrectable => s.markDead a tr.word info
       | _ => s, none)

/-- What reading codewords came to: the state, the changes by codeword, and the first uncorrectable one. -/
structure Judged where
  s : State
  diffs : List (Nat × Errs) := []
  bad : Option Nat := none

/-- Judges the named codewords from codeword-aligned address `base`. -/
def State.judgeWords (s : State) (tr : Tier) (base : Nat) (errs : List SymErr) (words : List Nat) : Judged :=
  words.foldl (fun j i =>
    let a := base + i * tr.word
    match j.s.judge tr a (errsOf errs i) with
    | (s, some d) => { j with s := s, diffs := j.diffs ++ [(a, d)] }
    | (s, none) => { j with s := s, bad := some (j.bad.getD a) }) { s := s }

/-- The codewords of [a, a + len) that have symbols in error. -/
def errWords (tr : Tier) (a len : Nat) (errs : List SymErr) : List Nat :=
  (List.range ((a + len - 1) / tr.word + 1 - a / tr.word)).filter fun i => errs.any fun e => decide (e.word = i)

/-- A Shelf or Larder word with two bits in error is met (R61). -/
def State.noteWordUe (s : State) (a die : Nat) : State :=
  ((s.bump Reg.ldrUeCount (31 + 32 * die) (32 * die) 1).wr Reg.ldrUeAddr a).event Reg.ldrIntStatus 1

/-- The compute die whose Shelf or Larder holds a DA. -/
def wordDie (a : Nat) : Nat :=
  match regionOf a with
  | .shelf e _ => e / 48
  | _ => homeDie a

/-- A read meets again a codeword found uncorrectable before: counted and recorded as then (R61, R85). -/
def State.noteDead (s : State) (a : Nat) : State :=
  match s.dead.find? fun d => decide (d.1 ≤ a) && decide (a < d.1 + d.2.1) with
  | none => s
  | some d =>
    if d.2.1 = 8 then s.noteWordUe d.1 (wordDie d.1)
    else match tierOf d.1 with
      | some tr => s.noteUe tr d.1 d.2.2
      | none => s

/-- Whether codeword i of an access is only partly covered. -/
def partWord (tr : Tier) (a len i : Nat) : Bool :=
  let w := a / tr.word * tr.word + i * tr.word
  decide (w < a) || decide (a + len < w + tr.word)

/-- Whether a request reads codeword i of its bytes: a write does that only to merge (R87). -/
def MemAct.judges (act : MemAct) (tr : Tier) (a len i : Nat) : Bool :=
  match act with
  | .write _ => partWord tr a len i
  | .red .setByte mask _ =>
    let w := a / tr.word * tr.word + i * tr.word
    partWord tr a len i || !((List.range tr.word).all fun j => mask.testBit (w + j - a))
  | _ => true

/-- The first codeword known to be uncorrectable that a request reads. -/
def State.deadMet (s : State) (tr : Tier) (act : MemAct) (a len : Nat) : Option Nat :=
  (s.dead.find? fun d => decide (d.1 < a + len) && decide (a < d.1 + d.2.1) &&
    act.judges tr a len ((d.1 - a / tr.word * tr.word) / tr.word)).map (·.1)

/-- n bytes at `a` of memory with the codeword changes made. -/
def State.loadWith (s : State) (tr : Tier) (diffs : List (Nat × Errs)) (a n : Nat) : List Byte :=
  diffs.foldl (fun bs d =>
    (List.range n).map fun i =>
      let x := a + i
      if d.1 ≤ x ∧ x < d.1 + tr.word then
        d.2.foldl (fun b e => if e.1 = x - d.1 then b ^^^ BitVec.ofNat 8 e.2 else b) (bs.getD i 0)
      else bs.getD i 0) (s.load a n)

/-- Stores the codeword changes that a read-modify-write takes over. -/
def State.storeDiffs (s : State) (tr : Tier) (diffs : List (Nat × Errs)) : State :=
  diffs.foldl (fun s d => if d.2.isEmpty then s else
    s.storeIfChanged d.1 (applyErrs d.2 (s.load d.1 tr.word))) s

/-! ### Requests (R59, R80, R84, R87, R98) -/

/-- Ends a request with a fault code at an address. -/
def State.refuse (s : State) (w : Waiting) (code b : Nat) : State :=
  match w.act, w.pkt with
  | .atom r, none => s.answerAtom w ⟨code, 0, false⟩ r.ty.bytes
  | .red _ _ _, none => s.answerAtom w ⟨code, 0, false⟩ 4
  | _, _ => s.answer w code b []

/-- The bytes that a request touches. -/
def Waiting.bytes (w : Waiting) : Nat :=
  match w.act with
  | .read => w.req.len
  | x => x.size

/-- Performs a request at its tier and answers it: judged on its own codewords (R85, R87). A reduction that no packet carried returns
nothing (R68). -/
def State.perform (s : State) (tr : Tier) (w : Waiting) : State :=
  let a := w.req.da
  let len := w.bytes
  match s.firstLost tr a len with
  | some b => s.refuse w F.memUe b
  | none =>
    match s.deadMet tr w.act a len with
    | some b => (s.noteDead b).refuse w F.memUe b
    | none =>
      let j := s.judgeWords tr (a / tr.word * tr.word) w.errs ((errWords tr a len w.errs).filter (w.act.judges tr a len))
      match j.bad with
      | some b => j.s.refuse w F.memUe b
      | none =>
        match w.act with
        | .read => j.s.answer w 0 0 (j.s.loadWith tr j.diffs a len)
        | .write data => ((j.s.storeDiffs tr j.diffs).store a data).answer w 0 0 []
        | .atom r =>
          let (s, ans) := (j.s.storeDiffs tr j.diffs).doAtomic a r
          s.answerAtom w ans r.ty.bytes
        | .red op mask data =>
          let s := (j.s.storeDiffs tr j.diffs).doRed a op mask data
          if w.pkt.isNone then s else s.answer w 0 0 []

/-- Keeps a request at its controller. -/
def State.keep (s : State) (tr : Tier) (w : Waiting) : State :=
  let x := s.tier tr
  s.setTier tr { x with waiting := x.waiting ++ [w] }

/-- A request that its channel's calibration pause holds. -/
def State.pausedFor (s : State) (tr : Tier) (w : Waiting) : Bool :=
  (s.tier tr).paused.any fun c =>
    decide (c.1 = tr.channelOf (s.targetUnit tr w.req.da)) && decide (s.now < c.2 + pauseLimit)

/-- Whether two requests touch one line. -/
def Waiting.meets (v w : Waiting) : Bool :=
  decide (v.req.da / 256 * 256 < w.req.da + w.bytes) && decide (w.req.da / 256 * 256 < v.req.da + v.bytes)

/-- Whether a write, atomic or reduction comes behind one of `before` that has not been performed yet on its line (R70). -/
def Waiting.behind (w : Waiting) (before : List Waiting) : Bool :=
  decide (w.act ≠ .read) && before.any fun v => decide (v.act ≠ .read) && v.meets w

/-- Whether an admitted request can be performed now, behind those of `before`. -/
def State.mayPerform (s : State) (tr : Tier) (before : List Waiting) (w : Waiting) : Bool :=
  w.admitted.isSome && !w.late && !(s.pausedFor tr w) && !(w.behind before)

/-- Performs the waiting requests that can go, oldest first; k bounds their number. -/
def State.performReady (s : State) (tr : Tier) : Nat → State
  | 0 => s
  | k + 1 =>
    let x := s.tier tr
    match (List.range x.waiting.length).find? fun i => (x.waiting[i]?).any (s.mayPerform tr (x.waiting.take i)) with
    | none => s
    | some i =>
      match x.waiting[i]? with
      | none => s
      | some w => ((s.setTier tr { x with waiting := x.waiting.eraseIdx i }).perform tr w).performReady tr k

/-- Performs all that can go. -/
def State.settleTier (s : State) (tr : Tier) : State := s.performReady tr (s.tier tr).waiting.length

/-- Subtracts a request's data bytes from its partition's bucket (R80). -/
def State.charge (s : State) (tr : Tier) (p n : Nat) : State :=
  let x := s.tier tr
  s.setTier tr { x with buckets := x.buckets.set p (x.buckets.getD p 0 - n) }

/-- Bytes of n that a bucket at a level admits, in requests of 256 bytes (R80). -/
def admitted256 (level : Int) (n : Nat) : Nat := if level ≤ 0 then 0 else min n ((level.toNat + 255) / 256 * 256)

/-- Charges what the bucket admits of a macro-op's n bytes at a tier: the state, and the bytes it holds back. -/
def State.admitTier (s : State) (tr : Tier) (p n : Nat) : State × Nat :=
  let k := if s.rateInForce tr p = 0 then 0 else admitted256 ((s.tier tr).buckets.getD p 0) n
  (s.charge tr p k, n - k)

/-- Admits what a tier's bucket lets through of the bytes that open macro-op o waits for. -/
def State.admitOp (s : State) (tr : Tier) (o : OpenOp) : State × OpenOp :=
  o.heldBytes.foldl (fun (a : State × OpenOp) x =>
    if x.1 ≠ tr then (a.1, { a.2 with heldBytes := a.2.heldBytes ++ [x] }) else
    let (s, left) := a.1.admitTier tr o.part x.2
    (s, if left = 0 then a.2 else { a.2 with heldBytes := a.2.heldBytes ++ [(tr, left)] })) (s, { o with heldBytes := [] })

/-- Admits bytes of the open macro-ops of a partition. -/
def State.admitOps (s : State) (tr : Tier) (p : Nat) : State :=
  if !(s.queues.any fun x => x.2.ops.any fun o => decide (o.part = p) && !o.heldBytes.isEmpty) then s else
  s.queues.foldl (fun (s : State) x =>
    let y := s.queue (x.1 / 4) (x.1 % 4)
    let (s, ops) := y.ops.foldl (fun (a : State × List OpenOp) o =>
      if o.part ≠ p then (a.1, a.2 ++ [o]) else
      let (s, o) := a.1.admitOp tr o
      (s, a.2 ++ [o])) (s, [])
    s.setQueue (x.1 / 4) (x.1 % 4) { y with ops := ops }) s

/-- A request reaches its tier: held by the regulator, or admitted (R80, R81). It is performed at once unless its channel is paused,
its answer is late, or an earlier one is still to be performed on its line (R70). -/
def State.tierRequest (s : State) (tr : Tier) (w : Waiting) : State :=
  let p := w.req.part.val
  if !w.uncharged && s.heldBack tr p then s.keep tr w
  else
    let s := if w.uncharged then s else s.charge tr p w.bytes
    let w := { w with admitted := some s.now }
    if s.mayPerform tr (s.tier tr).waiting w then s.perform tr w else s.keep tr w

/-- The fault of a request before it is admitted (R59, R88, R98, R100). -/
def State.requestFault (s : State) (w : Waiting) : Option (Nat × Nat) :=
  match w.req.who, tierOf w.req.da with
  | .scheduler, some tr => (s.tierFault tr w.req.da w.bytes).map (·, w.req.da)
  | _, _ => s.memFault w.req.da w.bytes

/-- The answer of an outstanding request arrives: it is late no more, and goes as soon as nothing else holds it. -/
def State.arrive (s : State) (tr : Tier) (id : Nat) (errs : List SymErr) : State :=
  let x := s.tier tr
  (s.setTier tr { x with waiting := x.waiting.map fun w =>
    if w.req.id = id ∧ w.admitted.isSome then { w with late := false, errs := errs } else w }).settleTier tr

/-- Whether a request with this number is outstanding at a tier. -/
def State.outstanding (s : State) (tr : Tier) (id : Nat) : Bool :=
  (s.tier tr).waiting.any fun w => decide (w.req.id = id) && w.admitted.isSome

/-- A home slice's place in the order of a cycle (R70): by home die and slice. -/
def slicePlace (a : Nat) : Nat := 1 + homeDie a * 64 + homeSlice a

/-- The rank of engine e at the slice of a DA: a local engine's number, or the die-to-die port's (R70). -/
def engineRank (e a : Nat) : Nat := if e / 48 = homeDie a then e else 96

/-- The rank of a request among those that arrive at a slice in one cycle: the die's own engines by number, the die-to-die port, the
Steward, Dulis and the blocks of the I/O dies, then Ketric by port (R70, R416; assumption log 82). Scrub comes last. -/
def Waiting.rank (w : Waiting) (a : Nat) : Nat :=
  match w.pkt, w.req.who with
  | some (n, _), _ => if n = dulis then 97 else 98 + n
  | none, .engine e _ => engineRank e a
  | none, _ => 97

/-- The rank of scrub at a slice (R70). -/
def scrubRank : Nat := 106

/-- A request takes its place at the home slices of its lines (R70, R416). -/
def State.atSlices (s : State) (w : Waiting) : State :=
  (linesOf w.req.da w.bytes).foldl (fun s x => s.inOrder (slicePlace x.1) (w.rank x.1)) s

/-- A request whose DA is cacheable memory: it goes to home slices (R64, R65). -/
def Waiting.homed (w : Waiting) : Bool := decide (regionOf w.req.da = .pantry ∨ regionOf w.req.da = .cellar ∨ regionOf w.req.da = .attic)

/-- A request made anywhere in the block (R58, R59). -/
def State.request (s : State) (w : Waiting) : State :=
  let s := if w.homed then s.atSlices w else s
  let w := { w with arrived := s.now }
  match s.requestFault w with
  | some (code, b) =>
    match regionOf w.req.da with
    | .register => s
    | .remote => s
    | _ => s.refuse w code b
  | none =>
    match regionOf w.req.da, w.act with
    | .attic, .read => (s.atticRead w).serveAttic
    | .attic, .write data => ((s.store w.req.da data).sentFor s.attic.writes.length w).answer w 0 0 []
    | .attic, act => s.atticAtomic ⟨w.req.who, w.req.da, act⟩
    | .shelf _ _, .read =>
      (match s.deadWord w.req.da w.req.len with
       | some b => (s.noteDead b).answer w F.memUe b []
       | none => s.answer w 0 0 (s.load w.req.da w.req.len))
    | .shelf _ _, .write data => (s.windowStore w.req.da data).answer w 0 0 []
    | _, _ =>
      match tierOf w.req.da with
      | some tr => s.tierRequest tr w
      | none => s

/-- Admits the held requests of a partition, oldest first, while the regulator holds none back; k bounds their number (R80, R81). -/
def State.admitHeld (s : State) (tr : Tier) (p : Nat) : Nat → State
  | 0 => s
  | k + 1 =>
    let x := s.tier tr
    if s.heldBack tr p then s else
    match x.waiting.findIdx? fun w => w.admitted.isNone && !w.uncharged && decide (w.req.part.val = p) with
    | none => s
    | some i =>
      match x.waiting[i]? with
      | none => s
      | some w =>
        ((s.setTier tr { x with waiting := x.waiting.set i { w with admitted := some s.now } }).charge tr p w.bytes).admitHeld tr p k

/-- Admits and performs what partition p's regulator lets through. -/
def State.admitPart (s : State) (tr : Tier) (p : Nat) : State :=
  ((s.admitHeld tr p (s.tier tr).waiting.length).settleTier tr).admitOps tr p

/-- The refill of a regulator, once every 1 µs (R80). -/
def State.refill (s : State) (tr : Tier) (p : Nat) : State :=
  let x := s.tier tr
  if s.now < x.refilled.getD p 0 + us 1 then s else
  let level := min (x.buckets.getD p 0 + (s.rateInForce tr p * 1000 : Nat)) (s.bucketDepth tr p : Int)
  (s.setTier tr { x with buckets := x.buckets.set p level, refilled := x.refilled.set p s.now }).admitPart tr p

/-- The RATE in force or BURST has changed: buckets are clipped, and what a RATE of 0 held goes on (R80, R81). -/
def State.ratesChange (s : State) : State :=
  (List.range 8).foldl (fun s p => (s.admitPart .pantry p).admitPart .cellar p) s.clipBuckets

/-- The requests of a tier that meet a condition, which may go now, leave their controller and are performed. -/
def State.performKept (s : State) (tr : Tier) (ready : Waiting → Bool) : State :=
  let x := s.tier tr
  let s' := s.setTier tr { x with waiting := x.waiting.filter fun w => !ready w }
  (x.waiting.filter ready).foldl (fun s w => s.perform tr w) s'

/-- The timeout of an outstanding request in a tier, counted from its admission (R84). A timed-out write may or may not
have been made: a free value decides (assumption log 23). -/
def State.timeoutAt (s : State) (tr : Tier) (id : Nat) : State :=
  let x := s.tier tr
  match x.waiting.find? fun w => decide (w.req.id = id) with
  | none => s
  | some w =>
    match w.admitted with
    | none => s
    | some a =>
      if s.now < a + us (s.fld (tr.reg Reg.pntTimeout Reg.celTimeout) 9 0) then s else
      let s := s.setTier tr { x with waiting := x.waiting.filter fun v => decide (v.req.id ≠ id) }
      let (n, s) := s.freeNat
      let s := match w.act with
        | .write data => if n % 2 = 0 then s.store w.req.da data else s
        | _ => s
      let s := (s.event (tr.reg Reg.pntIntStatus Reg.celIntStatus) 2).channelEvent tr w.req.da
      (s.refuse w F.memTimeout w.req.da).settleTier tr

/-! ### Channel failures and map-out (R88, R89, R94 to R96, R101) -/

/-- UE and timeout events of a channel in the last 1 ms. -/
def State.recentEvents (s : State) (tr : Tier) (ch : Nat) : Nat :=
  ((s.tier tr).events.filter fun e => decide (e.1 = ch) && decide (s.now < e.2 + us 1000)).length

/-- F_MEM_CHANNEL (R88). -/
def State.raiseChannel (s : State) (tr : Tier) (ch cause count : Nat) : State :=
  postFault (s.event (tr.reg Reg.pntIntStatus Reg.celIntStatus) 3)
    { code := F.memChannel, cls := Class.degraded, block := tr.block, unit := ch,
      payload := ch + cause * 2 ^ 16 + count % 2 ^ 32 * 2 ^ 24 }

/-- Number of channels. -/
def Tier.channels : Tier → Nat
  | .pantry => 192
  | .cellar => 256

/-- MAPOUT register i. -/
def Tier.mapout (tr : Tier) (i : Nat) : Nat :=
  match tr with
  | .pantry => Reg.pntMapout i
  | .cellar => Reg.celMapout i

/-- Whether the MAPOUT bit of a channel is set. -/
def State.mappedOut (s : State) (tr : Tier) (ch : Nat) : Bool := bit (s.rd (tr.mapout (ch / 64))) (ch % 64)

/-- The dead units that the MAPOUT bits name, ascending. -/
def State.mapoutUnits (s : State) (tr : Tier) : List Nat :=
  (List.range tr.channels).flatMap fun ch => if s.mappedOut tr ch then tr.unitsOf ch else []

/-- Units in service that have had no granule scrubbed in the present floor interval (R92). -/
def State.unscrubbed (s : State) (tr : Tier) : List Nat :=
  let x := s.tier tr
  (List.range tr.units).filter fun u => decide (u ∉ x.dead) && decide (u ∉ x.scrubbed)

/-- SCRUB_BEHIND clears once every unit in service has had a granule scrubbed in its floor interval (R92). -/
def State.caughtUp (s : State) (tr : Tier) : State :=
  if (s.unscrubbed tr).isEmpty then s.setBit (tr.reg Reg.pntStatus Reg.celStatus) 3 false else s

/-- Fixes the usable range for the dead units in force: CAP and DEAD_COUNT (R95). -/
def State.fixRange (s : State) (tr : Tier) (dead : List Nat) : State :=
  let s := s.setTier tr { s.tier tr with dead := dead }
  let s := s.wr (tr.reg Reg.pntCap Reg.celCap) (tr.cap dead.length)
  (s.setFld (tr.reg Reg.pntStatus Reg.celStatus) 24 16 dead.length).caughtUp tr

/-- A byte of the tier on a displaced granule (R95). -/
def displaced (tr : Tier) (dead : List Nat) (a : Nat) : Bool :=
  decide (tierOf a = some tr) && decide ((tr.map a).1 ∈ dead)

/-- MAP_COMMIT: the map-out begins, unless no unit is added (R94). A commit while MAP_BUSY is dropped (R101). -/
def State.mapCommit (s : State) (tr : Tier) : State :=
  let st := tr.reg Reg.pntStatus Reg.celStatus
  if bit (s.rd st) 2 then s.regAccess (tr.reg Reg.pntMapCommit Reg.celMapCommit) else
  let dead := s.mapoutUnits tr
  if dead.all (· ∈ (s.tier tr).dead) then s else
  let s := (s.fixRange tr dead).setBit st 2 true
  { s with mem := s.mem.filter fun c => !(displaced tr dead c.1) }

/-- The map-out work ends (R94). -/
def State.mapDone (s : State) (tr : Tier) : State :=
  let st := tr.reg Reg.pntStatus Reg.celStatus
  if !(bit (s.rd st) 2) then s else
  let x := s.tier tr
  let failed := x.failed.filter fun ch => !((tr.unitsOf ch).all (· ∈ x.dead))
  let s := s.setTier tr { x with failed := failed }
  let s := (s.setBit st 2 false).event (tr.reg Reg.pntIntStatus Reg.celIntStatus) 4
  match tr with
  | .cellar => if failed.isEmpty then s.setBit st 4 false else s
  | .pantry => s

/-- A write of a MAPOUT register: set bits stay set, and the write is dropped while MAP_BUSY is set (R101). -/
def State.writeMapout (s : State) (tr : Tier) (i v : Nat) : State :=
  if bit (s.rd (tr.reg Reg.pntStatus Reg.celStatus)) 2 then s.regAccess (tr.mapout i)
  else s.wr (tr.mapout i) (s.rd (tr.mapout i) ||| v)

/-- A channel fails in service: its requests end with F_MEM_UE until it is mapped out (R88, R89). -/
def State.failChannel (s : State) (tr : Tier) (ch : Nat) : State :=
  let s := s.raiseChannel tr ch 1 (s.recentEvents tr ch)
  let x := s.tier tr
  let s := s.setTier tr { x with failed := x.failed ++ [ch] }
  let s := match tr with
    | .cellar => (s.setBit Reg.celStatus 4 true).event Reg.celIntStatus 6
    | .pantry => s
  (s.performKept tr fun w => w.admitted.isSome && decide (tr.channelOf (s.targetUnit tr w.req.da) = ch)).settleTier tr

/-- A channel fails at training: the hardware maps it out before READY (R96). -/
def State.failTraining (s : State) (tr : Tier) (ch : Nat) : State :=
  let s := s.wr (tr.mapout (ch / 64)) (s.rd (tr.mapout (ch / 64)) ||| 2 ^ (ch % 64))
  (s.raiseChannel tr ch 2 0).fixRange tr (s.mapoutUnits tr)

/-! ### Scrubbing, calibration, refresh -/

/-- Granules left in the current pass, per unit in service. -/
def State.granulesLeft (s : State) (tr : Tier) : Nat :=
  let x := s.tier tr
  let live := tr.units - x.dead.length
  ceilDiv (tr.units * tr.lc x.dead.length - x.passDone) live

/-- A granule has been scrubbed: the pass, the floor and SCRUB_BEHIND move on (R90 to R92). -/
def State.noteScrub (s : State) (tr : Tier) (u : Nat) : State :=
  let x := s.tier tr
  let pass := tr.reg Reg.pntScrubPass Reg.celScrubPass
  let full := decide (tr.units * tr.lc x.dead.length ≤ x.passDone + 1)
  let s := s.setTier tr { x with scrubbed := if u ∈ x.scrubbed then x.scrubbed else u :: x.scrubbed,
                                 passDone := if full then 0 else x.passDone + 1 }
  let s := if full then s.bump pass 31 0 1 else s
  (s.setFld pass 63 32 (s.granulesLeft tr)).caughtUp tr

/-- The scrubber visits a granule: it reads with checks, corrects and writes back, unless a foreground write came between
(R90 to R92). -/
def State.scrub (s : State) (tr : Tier) (a : Nat) (errs : List SymErr) (overtaken : Bool) : State :=
  let base := a / tr.granule * tr.granule
  let u := s.targetUnit tr base
  if !(bit (s.rd (tr.reg Reg.pntCtrl Reg.celCtrl)) 0) ∨ tierOf a ≠ some tr ∨ (s.tierFault tr base tr.granule).isSome ∨
      tr.channelOf u ∈ (s.tier tr).failed ∨ (s.tier tr).paused.any (fun c => decide (c.1 = tr.channelOf u) && decide (s.now < c.2 + pauseLimit)) then s else
  let s := (linesOf base tr.granule).foldl (fun s x => s.inOrder (slicePlace x.1) scrubRank) s
  let j := s.judgeWords tr base errs (errWords tr base tr.granule errs)
  let s := if overtaken then j.s else j.s.storeDiffs tr j.diffs
  s.noteScrub tr u

/-- A floor interval begins: the tier becomes READY, its scrubber is enabled, or the one before has ended. -/
def State.beginFloor (s : State) (tr : Tier) : State := s.setTier tr { s.tier tr with scrubbed := [], floorAt := s.now }

/-- Cycles of a floor interval: SCRUB_INTERVAL (R90, R91). -/
def State.floorLength (s : State) (tr : Tier) : Nat :=
  match tr with
  | .pantry => us (s.fld Reg.pntScrubInterval 14 0)
  | .cellar => us (s.fld Reg.celScrubInterval 11 0)

/-- The floor interval of a tier ends, once SCRUB_INTERVAL has passed since it began (R90 to R92). -/
def State.floorEnd (s : State) (tr : Tier) : State :=
  if !(bit (s.rd (tr.reg Reg.pntCtrl Reg.celCtrl)) 0) ∨ !(bit (s.rd (tr.reg Reg.pntStatus Reg.celStatus)) 1) ∨
      s.now < (s.tier tr).floorAt + s.floorLength tr then s else
  let s := if (s.unscrubbed tr).isEmpty then s
    else (s.setBit (tr.reg Reg.pntStatus Reg.celStatus) 3 true).event (tr.reg Reg.pntIntStatus Reg.celIntStatus) 5
  s.beginFloor tr

/-- 8-byte words of Shelf and Larder on a die (R61): 48 Shelves of 6 MiB and 64 slices of 1.5 MiB. -/
def wordsPerDie : Nat := (48 * 6291456 + 64 * 1572864) / 8

/-- Counts a word of the Shelf and Larder scrub pass of a die (LDR_SCRUB_PASS). -/
def State.countWord (s : State) (die : Nat) : State :=
  let n := (if die = 0 then s.words.1 else s.words.2) + 1
  let full := decide (wordsPerDie ≤ n)
  let n := if full then 0 else n
  let s := { s with words := if die = 0 then (n, s.words.2) else (s.words.1, n) }
  if full then s.bump Reg.ldrScrubPass (31 + 32 * die) (32 * die) 1 else s

/-- A Shelf or Larder word is read with 0, 1 or 2 bits in error: a single error is mended, and a word with two ends the macro-op or
DMA that reads it, until it is overwritten (R61, R62). -/
def State.secded (s : State) (a die nbits : Nat) : State :=
  match nbits with
  | 0 => s
  | 1 => (s.bump Reg.ldrCeCount (31 + 32 * die) (32 * die) 1).event Reg.ldrIntStatus 0
  | _ => (s.noteWordUe a die).markDead (a / 8 * 8) 8 0

/-- The die of a channel: compute die in Pantry, I/O die in Cellar (R93). -/
def Tier.dieOf (tr : Tier) (ch : Nat) : Nat := ch / (tr.channels / 2)

/-- A forced calibration pauses a channel, for at most 2,200 cycles, unless one of its die is paused (R93; assumption log 83). -/
def State.calibrate (s : State) (tr : Tier) (ch : Nat) : State :=
  let x := s.tier tr
  if tr.channels ≤ ch ∨ s.mappedOut tr ch ∨
      x.paused.any (fun c => decide (tr.dieOf c.1 = tr.dieOf ch) && decide (s.now < c.2 + pauseLimit)) then s
  else s.setTier tr { x with paused := (ch, s.now) :: x.paused.filter fun c => decide (s.now < c.2 + pauseLimit) }

/-- A calibration pause ends, and the accesses queued for the channel proceed (R93). -/
def State.calibrated (s : State) (tr : Tier) (ch : Nat) : State :=
  let x := s.tier tr
  if !(x.paused.any fun c => decide (c.1 = ch)) then s else
  (s.setTier tr { x with paused := x.paused.filter fun c => decide (c.1 ≠ ch) }).settleTier tr

/-- A Larder fill returns from DRAM (R86): the line is installed on the die, or nothing is, and every request that waits
for a byte of the line ends with F_MEM_UE. -/
def State.larderFill (s : State) (die a : Nat) (errs : List SymErr) : State :=
  let base := a / 256 * 256
  match tierOf a with
  | none => s
  | some tr =>
    if (s.memFault base 256).isSome then s else
    let j := s.judgeWords tr base errs (errWords tr base 256 errs)
    match j.bad with
    | none =>
      let s := j.s.storeDiffs tr j.diffs
      { s with larder := tabSet (fun _ => false) s.larder (2 * (base / 256) + die) true }
    | some b =>
      let x := j.s.tier tr
      let hit := fun (w : Waiting) => decide (w.req.da < base + 256) && decide (base < w.req.da + w.bytes)
      let s := j.s.setTier tr { x with waiting := x.waiting.filter fun w => !hit w }
      ((x.waiting.filter hit).foldl (fun s w => s.refuse w F.memUe b) s).settleTier tr

/-! ### Requests of the ingest block, the decoder pool and the Aligner (R367) -/

/-- The partition that they are charged to. -/
def State.ioPart (s : State) : Nat := s.fld Reg.schIoPart 2 0

/-- One of their writes: in Pantry and Cellar a request like any other. -/
def State.ioWrite (s : State) (who : Requester) (a : Nat) (bs : List Byte) : State :=
  (linesOf a bs.length).foldl (fun s x =>
    s.request { req := ⟨2 ^ 66, who, Fin.ofNat 8 s.ioPart, x.1, x.2⟩, act := .write (fieldBytes bs (x.1 - a) x.2), quiet := true }) s

/-- One of their reads is charged; what it returns is taken as memory then stands (assumption log 86). -/
def State.ioRead (s : State) (a n : Nat) : State :=
  match tierOf a with
  | some tr => s.charge tr s.ioPart n
  | none => s

/-! ### Atomics and reductions from the module's own requesters -/

/-- The partition that a requester's atomics are charged to: its context's, ATC_INBOUND_PART's, or SCH_IO_PART's. The command does not
say which phase's program makes a Steward's request: it is charged to none (R367; assumption log 82). -/
def State.partOf (s : State) : Requester → Option Nat
  | .engine e q => (s.slotCtx e q).map fun k => (s.ctx e k).part
  | .companion => some (s.fld Reg.atcInboundPart 2 0)
  | .ingest => some s.ioPart
  | .decoder => some s.ioPart
  | _ => none

/-- An atomic or reduction of this module's own requesters, as a request at its home slice (R66, R68, R69, R80). -/
def State.homeRequest (s : State) (who : Requester) (a : Nat) (act : MemAct) (aligned : Bool) : State :=
  let p := s.partOf who
  let w : Waiting := { req := ⟨0, who, Fin.ofNat 8 (p.getD 0), a, act.size⟩, act := act, noPart := p.isNone }
  if regionOf a = .remote then s else
  match s.atomFault a act.size aligned with
  | some code => (s.noteAtomic a code).refuse w code a
  | none => s.request w

/-- An atomic reaches its home slice (R66, R69). A combination R66 does not define is no atomic. -/
def State.atomicAt (s : State) (who : Requester) (a : Nat) (r : AtomReq) : State :=
  if r.defined then s.homeRequest who a (.atom r) (decide (a % r.ty.bytes = 0)) else s

/-- A reduction reaches its home slice (R68, R69). -/
def State.reduceAt (s : State) (who : Requester) (a : Nat) (op : RedOp) (mask : Nat) (data : List Byte) : State :=
  s.homeRequest who a (.red op mask data) (redAligned a data.length)

/-! ### Meanings -/

/-- MEM_READ (R85): a request, or the answer of an outstanding one. -/
def execMemRead (t : Nat) (r : MemReq) (errs : List SymErr) (late : Bool) (s : State) :
    Host.Outcome State Fault Refusal :=
  let s := s.advance t
  if s.stopped then .next s else
  .next (match tierOf r.da with
    | some tr => if s.outstanding tr r.id then (if late then s else s.arrive tr r.id errs)
        else s.request { req := r, errs := errs, late := late }
    | none => s.request { req := r, errs := errs, late := late })

/-- MEM_WRITE (R79, R87). -/
def execMemWrite (t : Nat) (r : MemReq) (data : List Byte) (errs : List SymErr) (late : Bool) (s : State) :
    Host.Outcome State Fault Refusal :=
  let s := s.advance t
  if s.stopped then .next s else
  .next (match tierOf r.da with
    | some tr => if s.outstanding tr r.id then (if late then s else s.arrive tr r.id errs)
        else s.request { req := r, act := .write data, errs := errs, late := late }
    | none => s.request { req := r, act := .write data, errs := errs, late := late })

/-- LARDER_FILL (R86). -/
def execLarderFill (t : Nat) (die : Fin 2) (da : Nat) (errs : List SymErr) (s : State) : Host.Outcome State Fault Refusal :=
  .next (s.live t fun s => s.larderFill die da errs)

/-- ATOMIC_FADD (R66). -/
def execAtomicFadd (t : Nat) (who : Requester) (ty : AtomType) (da opnd : Nat) (s : State) : Host.Outcome State Fault Refusal :=
  .next (s.live t fun s => s.atomicAt who da { op := .fadd, ty := ty, opnd := opnd })

/-- ATOMIC_MIN (R66). -/
def execAtomicMin (t : Nat) (who : Requester) (ty : AtomType) (da opnd : Nat) (s : State) : Host.Outcome State Fault Refusal :=
  .next (s.live t fun s => s.atomicAt who da { op := .min, ty := ty, opnd := opnd })

/-- ATOMIC_MAX (R66). -/
def execAtomicMax (t : Nat) (who : Requester) (ty : AtomType) (da opnd : Nat) (s : State) : Host.Outcome State Fault Refusal :=
  .next (s.live t fun s => s.atomicAt who da { op := .max, ty := ty, opnd := opnd })

/-- ATOMIC_AND (R66). -/
def execAtomicAnd (t : Nat) (who : Requester) (ty : AtomType) (da opnd : Nat) (s : State) : Host.Outcome State Fault Refusal :=
  .next (s.live t fun s => s.atomicAt who da { op := .and, ty := ty, opnd := opnd })

/-- ATOMIC_OR (R66). -/
def execAtomicOr (t : Nat) (who : Requester) (ty : AtomType) (da opnd : Nat) (s : State) : Host.Outcome State Fault Refusal :=
  .next (s.live t fun s => s.atomicAt who da { op := .or, ty := ty, opnd := opnd })

/-- ATOMIC_XOR (R66). -/
def execAtomicXor (t : Nat) (who : Requester) (ty : AtomType) (da opnd : Nat) (s : State) : Host.Outcome State Fault Refusal :=
  .next (s.live t fun s => s.atomicAt who da { op := .xor, ty := ty, opnd := opnd })

/-- ATOMIC_SWAP (R66). -/
def execAtomicSwap (t : Nat) (who : Requester) (ty : AtomType) (da opnd : Nat) (s : State) : Host.Outcome State Fault Refusal :=
  .next (s.live t fun s => s.atomicAt who da { op := .swap, ty := ty, opnd := opnd })

/-- ATOMIC_CAS (R66). -/
def execAtomicCas (t : Nat) (who : Requester) (ty : AtomType) (da cmp opnd : Nat) (s : State) :
    Host.Outcome State Fault Refusal :=
  .next (s.live t fun s => s.atomicAt who da { op := .cas, ty := ty, opnd := opnd, cmp := cmp })

/-- ATOMIC_CNT2 (R67). -/
def execAtomicCnt2 (t : Nat) (who : Requester) (da : Nat) (dPin dRef : Int) (s : State) : Host.Outcome State Fault Refusal :=
  .next (s.live t fun s => s.atomicAt who da { op := .cnt2, ty := .b32, dPin := dPin, dRef := dRef })

/-- RED_ADD_FP32 (R68). -/
def execRedAddFp32 (t : Nat) (who : Requester) (da mask : Nat) (data : List Byte) (s : State) :
    Host.Outcome State Fault Refusal := .next (s.live t fun s => s.reduceAt who da .addFp32 mask data)

/-- RED_ADD_BF16 (R68). -/
def execRedAddBf16 (t : Nat) (who : Requester) (da mask : Nat) (data : List Byte) (s : State) :
    Host.Outcome State Fault Refusal := .next (s.live t fun s => s.reduceAt who da .addBf16 mask data)

/-- RED_ADD_INT32 (R68). -/
def execRedAddInt32 (t : Nat) (who : Requester) (da mask : Nat) (data : List Byte) (s : State) :
    Host.Outcome State Fault Refusal := .next (s.live t fun s => s.reduceAt who da .addInt32 mask data)

/-- RED_MAX_FP32 (R68). -/
def execRedMaxFp32 (t : Nat) (who : Requester) (da mask : Nat) (data : List Byte) (s : State) :
    Host.Outcome State Fault Refusal := .next (s.live t fun s => s.reduceAt who da .maxFp32 mask data)

/-- RED_MIN_FP32 (R68). -/
def execRedMinFp32 (t : Nat) (who : Requester) (da mask : Nat) (data : List Byte) (s : State) :
    Host.Outcome State Fault Refusal := .next (s.live t fun s => s.reduceAt who da .minFp32 mask data)

/-- REGULATOR_REFILL (R80). -/
def execRegulatorRefill (t : Nat) (tier : Tier) (p : Fin 8) (s : State) : Host.Outcome State Fault Refusal :=
  .next (s.live t fun s => s.refill tier p)

/-- MEM_TIMEOUT (R84). -/
def execMemTimeout (t id : Nat) (s : State) : Host.Outcome State Fault Refusal :=
  .next (s.live t fun s => (s.timeoutAt .pantry id).timeoutAt .cellar id)

/-- CHANNEL_FAIL (R88, R96): in service at the threshold, or at training before READY. -/
def execChannelFail (t : Nat) (tier : Tier) (ch : Fin 256) (training : Bool) (s : State) :
    Host.Outcome State Fault Refusal :=
  let s := s.advance t
  if s.stopped then .next s else
  let ready := bit (s.rd (tier.reg Reg.pntStatus Reg.celStatus)) 1
  let thresh := s.fld (tier.reg Reg.pntFailThresh Reg.celFailThresh) 7 0
  .next (if tier.channels ≤ ch.val ∨ s.mappedOut tier ch = true ∨ ch.val ∈ (s.tier tier).failed then s
    else if training && !ready then s.failTraining tier ch
    else if !training && ready && decide (thresh ≤ s.recentEvents tier ch) then s.failChannel tier ch
    else s)

/-- SCRUB_GRANULE (R90 to R92). -/
def execScrubGranule (t : Nat) (tier : Tier) (da : Nat) (errs : List SymErr) (overtaken : Bool) (s : State) :
    Host.Outcome State Fault Refusal := .next (s.live t fun s => s.scrub tier da errs overtaken)

/-- SCRUB_FLOOR_END (R92). -/
def execScrubFloorEnd (t : Nat) (tier : Tier) (s : State) : Host.Outcome State Fault Refusal :=
  .next (s.live t fun s => s.floorEnd tier)

/-- SHELF_LARDER_SCRUB (R61, R62). -/
def execShelfLarderScrub (t da : Nat) (die : Fin 2) (nbits : Fin 3) (s : State) : Host.Outcome State Fault Refusal :=
  let s := s.advance t
  if s.stopped then .next s else
  .next (if bit (s.rd Reg.ldrCtrl) 0 then (s.secded da die nbits).countWord die else s)

/-- FORCED_CALIBRATION (R93). -/
def execForcedCalibration (t : Nat) (tier : Tier) (ch : Fin 256) (s : State) : Host.Outcome State Fault Refusal :=
  .next (s.live t fun s => s.calibrate tier ch)

/-- BANK_REFRESH (R82, R93): the bank of a unit is refreshed for some cycles. -/
def execBankRefresh (t : Nat) (tier : Tier) (unit : Fin 384) (cycles : Nat) (s : State) : Host.Outcome State Fault Refusal :=
  let s := s.advance t
  if s.stopped then .next s else
  let x := s.tier tier
  .next (s.setTier tier { x with
    refreshing := (unit.val, s.now + cycles) :: x.refreshing.filter fun r => decide (s.now < r.2) })

/-- MAP_DONE (R94). -/
def execMapDone (t : Nat) (tier : Tier) (s : State) : Host.Outcome State Fault Refusal :=
  .next (s.live t fun s => s.mapDone tier)

end Sys2Proof.Machine
end

