-- ==== Sys2Proof/Machine/Pins.lean ====
section
/-! DEFINITION. The release of page pins and the return of a page to its free list (R271, R273, R274). -/

namespace Sys2Proof.Machine

/-- DA of the entry of page p of a pool (R264). -/
def State.pageEntryDa (s : State) (pool p : Nat) : Nat := s.loadNat (pool + 40) 8 + 16 * p

/-- Returns a page to the free list of a local pool, and counts it on engine e (R271). -/
def State.returnPage (s : State) (e pool p : Nat) : State :=
  let head := s.loadNat pool 16
  let s := s.store (s.pageEntryDa pool p + 8) (leBytes 4 (bits head 31 0))
  let s := s.store pool (leBytes 16 (p + (bits head 127 64 + 1) % 2 ^ 64 * 2 ^ 64))
  let s := (s.doAtomic (pool + 16) { op := .fadd, ty := .int64, opnd := 1 }).1
  s.bump (Reg.engKvPages e) 63 32 1

/-- The CNT2 that releases a pin. -/
def unpinReq : AtomReq := { op := .cnt2, ty := .uint32, dPin := -1 }

/-- The operand of a CNT2 packet: the deltas in the places of their fields (assumption log 40). -/
def cnt2Opnd (r : AtomReq) : Nat := ofSigned 16 r.dPin * 65536 + ofSigned 16 r.dRef

/-- Sends the unpin of a page on another module, whose answer nothing waits for (assumption log 41). -/
def State.unpinRemote (s : State) (pool p : Nat) : State :=
  let tag := s.ktag
  let s := { s with ktag := (tag + 1) % 2 ^ 24 }
  let out : Packet := { type := 0x03, op := 0x18, len := 4, payload := leBytes 4 (cnt2Opnd unpinReq), src := s.moduleId,
                        dst := bits pool 62 50, addr := p, tag := tag }
  s.sendOwn out

/-- Releases the pin on a page: the operation whose reply reports ZERO returns the page (R271, R273). For a pool on
another module `p` is the offset of the page entry there. -/
def State.unpin (s : State) (e : Nat) (x : Nat × Nat) : State :=
  if regionOf x.1 = .remote then s.unpinRemote x.1 x.2 else
  let a := s.pageEntryDa x.1 x.2
  if (s.atomFault a 4 (decide (a % 4 = 0))).isSome then s else
  let (s, ans) := s.doAtomic a unpinReq
  if ans.code = 0 ∧ ans.zero then s.returnPage e x.1 x.2 else s

/-- Releases every pin of a macro-op (R274). -/
def State.unpinAll (s : State) (e : Nat) (o : OpenOp) : State := o.pins.foldl (fun s x => s.unpin e x) s

end Sys2Proof.Machine
end

