-- ==== Sys2Proof/Machine/QueueOps.lean ====
section
/-! DEFINITION. Shared operations of the queues: halting, the status line, completion records, the end of a macro-op,
and the common part of issue (R143 to R183). -/

namespace Sys2Proof.Machine

/-! ### States of a queue -/

/-- DEPTH: the last TAIL read − HEAD (R148). -/
def QueueSt.depth (x : QueueSt) : Nat := (x.seen + 2 ^ 32 - x.head) % 2 ^ 32

/-- ENG_Q_STATE (R148). -/
def QueueSt.reg (x : QueueSt) : Nat :=
  x.state.code + x.cause.code * 2 ^ 3 + x.depth % 2 ^ 17 * 2 ^ 8 + x.head * 2 ^ 32

/-- The 64-byte status line (R149). -/
def QueueSt.statusLine (x : QueueSt) : List Byte :=
  leBytes 4 x.head ++ leBytes 4 x.seen ++ leBytes 4 x.depth ++ leBytes 1 x.state.code ++ leBytes 1 x.cause.code ++
    leBytes 2 0 ++ leBytes 4 x.lastIssue ++ leBytes 44 0

/-- Writes bytes of a queue structure where the DA names memory; a write that cannot be made is reported nowhere. -/
def State.storeIfMem (s : State) (a : Nat) (bs : List Byte) : State :=
  match s.memFault a bs.length with
  | none => s.store a bs
  | some _ => s

/-- Writes the status line (R149). -/
def State.writeStatusLine (s : State) (e q : Nat) : State :=
  let x := s.queue e q
  (s.setQueue e q { x with mirrored := 0 }).storeIfMem (s.rd (Reg.engQStatusDa e q)) x.statusLine

/-- Whether the open macro-ops or the next entry make the queue WAIT (ENG_Q_STATE). -/
def QueueSt.waits (x : QueueSt) : Bool :=
  x.ops.any (fun o => decide (Desc.op o.desc = Op.wait) || decide (Desc.op o.desc = Op.fence)) ||
  (!x.ops.isEmpty && (match x.fetched with
    | f :: _ => Desc.chain f.desc
    | [] => false) && x.ops.all (fun o => o.finished))

/-- The state a queue that is neither HALTED nor DISABLED shows. -/
def QueueSt.busyState (x : QueueSt) : QState :=
  if x.waits then .waiting
  else if x.ops.isEmpty && !x.hasMore then .idle
  else .running

/-- Gives back the entries fetched and not issued, so that they are fetched anew. -/
def QueueSt.unfetch (x : QueueSt) : QueueSt :=
  match x.fetched with
  | [] => x
  | f :: _ =>
    let x := { x with fetched := [] }
    if f.level = 0 then
      (if x.arg.isSome then { x with tmpl := f.index } else { x with next := Desc.seq f.desc })
    else
      match x.stack with
      | l :: r => { x with stack := { l with pos := f.index } :: r }
      | [] => x

/-- Settles a queue after an event: a pending halt or disable takes effect once no macro-op is open (R147, R186, R519),
and a change of state writes the status line and the HALT event (R149). -/
def State.settle (s : State) (e q : Nat) (before : QState) : State :=
  let x := s.queue e q
  let x := if x.ops.isEmpty then
      (match x.haltAfter with
       | some c => ({ x with state := .halted, cause := c, haltAfter := none } : QueueSt).unfetch
       | none => x)
    else x
  let x := if x.stopping && x.ops.isEmpty then
      ({ x with state := .disabled, cause := .none, stopping := false } : QueueSt).unfetch else x
  let x := match x.state with
    | .halted => x
    | .disabled => x
    | _ => { x with state := x.busyState }
  let s := s.setQueue e q x
  let s := if x.state = .halted ∧ before ≠ .halted then s.event (Reg.engQIntStatus e) (4 + q) else s
  if x.state ≠ before then s.writeStatusLine e q else s

/-- Halts a queue with a cause. -/
def State.haltQueue (s : State) (e q : Nat) (c : HaltCause) : State :=
  let x := s.queue e q
  (s.setQueue e q ({ x with state := .halted, cause := c } : QueueSt).unfetch).settle e q x.state

/-- The queue's own record of F_QUEUE_SEQ (R147). -/
def queueSeqPayload (expected found case level issue engine queue : Nat) : Nat :=
  expected + found * 2 ^ 32 + case * 2 ^ 64 + level * 2 ^ 68 + issue * 2 ^ 96 + engine * 2 ^ 128 + queue * 2 ^ 135

/-- Raises F_QUEUE_SEQ: ENG_Q_FAULT, the SEQ event and the fault record (R147). -/
def State.queueSeqFault (s : State) (e q expected found case level : Nat) : State :=
  let x := s.queue e q
  let s := (s.wr (Reg.engQFault e q) (expected + found * 2 ^ 32)).event (Reg.engQIntStatus e) (8 + q)
  postFault s { code := F.queueSeq, cls := Class.contained, block := Blk.eng, unit := e,
                payload := queueSeqPayload expected found case level x.issue e q }

/-! ### Completion records -/

/-- The final status of a macro-op (R180). -/
inductive EndStatus
  | completed | aborted | faulted (f : OpFault)
  deriving DecidableEq, Repr

/-- STATUS. -/
def EndStatus.code : EndStatus → Nat
  | .completed => 0 | .aborted => 1 | .faulted _ => 2

/-- The fault of a final status. -/
def EndStatus.fault : EndStatus → OpFault
  | .faulted f => f
  | _ => ⟨0, 0, 0⟩

/-- INFO of a record: the fault's, or what a COMPLETED macro-op reports. -/
def EndStatus.info (st : EndStatus) (o : OpenOp) : Nat :=
  match st with
  | .completed => o.info
  | .aborted => 0
  | .faulted f => f.info

/-- The 32 bytes of a completion record with a status code, a fault and INFO (R180). -/
def recordWith (e q : Nat) (o : OpenOp) (status : Nat) (f : OpFault) (info : Nat) (ignored : Bool) : List Byte :=
  leBytes 8 (Desc.seq o.desc + Desc.op o.desc * 2 ^ 32 + status * 2 ^ 40 + b2n ignored * 2 ^ 42 +
    b2n o.stalled * 2 ^ 43 + b2n o.concealed * 2 ^ 44 + o.level * 2 ^ 45 + (if o.level = 0 then 0 else o.index) * 2 ^ 48) ++
  leBytes 8 (o.issue + e * 2 ^ 32 + q * 2 ^ 39 + f.code * 2 ^ 48) ++
  leBytes 8 f.addr ++ leBytes 8 (o.steps + info % 2 ^ 32 * 2 ^ 32)

/-- The completion record of a macro-op's end. -/
def recordOf (e q : Nat) (o : OpenOp) (st : EndStatus) (ignored : Bool) : List Byte :=
  recordWith e q o st.code st.fault (st.info o) ignored

/-- Events of ENG_INT_STATUS and ENG_Q_INT_STATUS that a fault code raises (R103, R114, R176). -/
def State.faultEvent (s : State) (e code : Nat) : State :=
  if code = F.engineClass then s.event (Reg.engIntStatus e) 3
  else if code = F.format then s.event (Reg.engIntStatus e) 4
  else if code = F.keeperRet ∨ code = F.keeperTrap ∨ code = F.keeperTimeout then s.event (Reg.engQIntStatus e) 13
  else s

/-- A context's job step is over: the next one placed on its ring follows. -/
def Ctx.nextJob (c : Ctx) : Ctx := { c with job := c.later.head?, later := c.later.drop 1 }

/-- Accounts a record of a job step to its client (R369, R387). A step counts once: as faulted or aborted by the first such
record, else as completed by the record of its SIGNAL, or of its list's last entry. -/
def State.jobRecord (s : State) (e k : Nat) (x : QueueSt) (o : OpenOp) (st : EndStatus) : State :=
  let c := s.ctx e k
  match c.job with
  | none => s
  | some j =>
    let last := decide (Desc.op o.desc = Op.signal ∧ o.level = 0) ||
      (!j.hasDone && decide (0 < o.level) && x.stack.all (fun l => decide (l.count ≤ l.pos)) && x.fetched.all (fun f =>
        decide (f.level = 0)) && x.ops.isEmpty)
    let s := match st with
      | .completed => if last && !j.failed then s.bump (Reg.schClientJobs j.client) 63 32 1 else s
      | .aborted => if j.failed then s else s.bump (Reg.schClientFaults j.client) 63 32 1
      | .faulted _ => if j.failed then s else s.bump (Reg.schClientFaults j.client) 31 0 1
    s.setCtx e k (if last then c.nextJob else { c with job := some { j with failed := j.failed || decide (st ≠ .completed) } })

/-- HEAD moves past every entry that has retired; k bounds its advances (R148). -/
def QueueSt.moveHead (x : QueueSt) : Nat → QueueSt
  | 0 => x
  | k + 1 =>
    if x.head ∈ x.retired then
      ({ x with head := (x.head + 1) % 2 ^ 32, mirrored := x.mirrored + 1,
                retired := x.retired.filter (· ≠ x.head) } : QueueSt).moveHead k
    else x

/-- A ring entry retires: HEAD is the oldest entry that has not; a retired template leads to the next trigger argument (R148,
R151). -/
def QueueSt.retire (x : QueueSt) (o : OpenOp) (trigger : Bool) (templates : Nat) : QueueSt :=
  if o.level ≠ 0 then x
  else if trigger then
    (if o.index = templates then { x with arg := none, tmpl := 0 } else x)
  else ({ x with retired := x.retired ++ [Desc.seq o.desc] } : QueueSt).moveHead (x.retired.length + 1)

/-- Sets the queue of context k: its slot's, or the saved one. -/
def State.setCtxQueue (s : State) (e k : Nat) (x : QueueSt) : State :=
  let c := s.ctx e k
  match c.place with
  | .resident => s.setQueue e c.slot x
  | _ => s.setCtx e k { c with saved := some x }

/-- Changes the open macro-op with an ISSUE. -/
def QueueSt.mapOp (x : QueueSt) (issue : Nat) (f : OpenOp → OpenOp) : QueueSt :=
  { x with ops := x.ops.map fun o => if o.issue = issue then f o else o }

/-- The open macro-op with an ISSUE. -/
def QueueSt.opAt (x : QueueSt) (issue : Nat) : Option OpenOp := x.ops.find? fun o => decide (o.issue = issue)

/-- Puts a changed macro-op back. -/
def State.putOp (s : State) (e q : Nat) (o : OpenOp) : State :=
  s.setQueue e q ((s.queue e q).mapOp o.issue fun _ => o)

/-- The accumulators that the save store holds for context k are discarded when no open macro-op of it has any left (R111). -/
def State.dropSaved (s : State) (e k : Nat) : State :=
  let c := s.ctx e k
  s.setCtx e k { c with accSaved := c.accSaved && (s.ctxQueue e k).liveAcc }

/-- Posts the completion record of open macro-op o, which leaves the queue: the record goes to its slot of the
completion ring (R150), the entry retires, and the queue halts as R183 lays down. `aborted` says that an abort request
had reached the macro-op. A PULSE returns the row credit of its trigger (R337). Once a shutdown has closed the issue gate no record is
posted (R499). -/
def State.endOp (s : State) (e q : Nat) (o : OpenOp) (st : EndStatus) : State :=
  if (s.eng e).gateClosed then s else
  let s := s.unpinAll e o
  let s := match (s.queue e q).arg with
    | some a => if Desc.op o.desc = Op.pulse then s.returnCredit e a else s
    | none => s
  let x := s.queue e q
  let cfg := s.rd (Reg.engQCfg e q)
  let ignored := o.abort && decide (st = .completed)
  let size := 2 ^ bits cfg 20 16
  let s := s.storeIfMem (s.rd (Reg.engQCompDa e q) + o.issue % size * 32) (recordOf e q o st ignored)
  let s := if Desc.irq o.desc then s.event (Reg.engQIntStatus e) q else s
  let s := s.faultEvent e st.fault.code
  let s := if st.fault.code = F.memUe then s.noteDead st.fault.addr else s
  let y := { x with ops := x.ops.filter (fun p => decide (p.issue ≠ o.issue)), lastIssue := o.issue, recordAt := s.now }
  let y := y.retire o (bit cfg 1) (bits cfg 27 24)
  let y := if o.abort then { y with state := .halted, cause := .aborted, haltAfter := none }
    else match st with
      | .faulted _ => if bit cfg 2 then y else { y with state := .halted, cause := .faulted }
      | _ => y
  let s := s.setQueue e q y
  let s := if bits cfg 39 32 ≤ y.mirrored ∨ y.depth = 0 then s.writeStatusLine e q else s
  let s := s.settle e q x.state
  let s := match s.slotCtx e q with
    | some k => (s.jobRecord e k (s.queue e q) o st).dropSaved e k
    | none => s
  match o.phase with
  | some p => s.phaseCommit p (decide (st = .completed))
  | none => s

/-- What a macro-op's requests can write of the bytes [a, a + n): all of them, or the lines of 256 bytes that end in no fault (R59,
R368). -/
def State.reachable (s : State) (part : Nat) (r : Nat × Nat) : List (Nat × Nat) :=
  if (s.opFaultAt part r.1 r.2).isNone then [r]
  else (linesOf r.1 r.2).filter fun x => (s.lineFault part x.1 x.2).isNone

/-- Makes n bytes of Keeper data memory undefined. -/
def State.havocK (s : State) (e ofs n : Nat) : State := { s.kstore e ofs (freeBytes s.free n) with free := s.free + n }

/-- Makes byte ranges of a macro-op's destination undefined, as far as its writes reach, and its destination in Keeper data memory. -/
def State.undefine (s : State) (e : Nat) (o : OpenOp) (rs : List (Nat × Nat)) : State :=
  o.kdst.foldl (fun s r => s.havocK e r.1 r.2) (s.havocAll (rs.flatMap (s.reachable o.part)))

/-- The results of a partition that has broken an obligation whose breach has no stated behaviour are undefined (R4; assumption log
79). -/
def State.blur (s : State) (e : Nat) (o : OpenOp) : State := if o.part ∈ s.broken then s.undefine e o o.dst else s

/-- Makes the destination of a stopped macro-op undefined, as far as its writes reach; its claimed blocks stay WRITING, and after a
hazard every block that it claimed is (R130, R164, R166, R182). -/
def State.spoil (s : State) (e : Nat) (o : OpenOp) : State :=
  let s := s.undefine e o (o.dst.filter (· ∉ o.final))
  match o.fault with
  | some f => if f.code = F.hazard then s.setTags e 15 o.claimed else s
  | none => s

/-! ### Aborts (R182, R183, R381) -/

/-- The open macro-ops of a queue that `mine` names take an abort request. -/
def QueueSt.abortOps (x : QueueSt) (mine : OpenOp → Bool) : QueueSt :=
  { x with ops := x.ops.map fun o => if mine o then { o with abort := true } else o }

/-- Writes the status line of a context in Hatch (R149). -/
def State.hatchStatus (s : State) (e k : Nat) : State :=
  s.storeIfMem (s.ctx e k).qStatus (s.ctxQueue e k).statusLine

/-- Posts the ABORTED record of an open macro-op of a context in Hatch. -/
def State.endInHatch (s : State) (e k : Nat) (f : OpFault) (o : OpenOp) : State :=
  if (s.eng e).gateClosed then s else
  let s := s.unpinAll e o
  let s := match (s.ctxQueue e k).arg with
    | some a => if Desc.op o.desc = Op.pulse then s.returnCredit e a else s
    | none => s
  let c := s.ctx e k
  let s := s.storeIfMem (c.qComp + o.issue % 2 ^ bits c.qCfg 20 16 * 32) (recordWith e c.slot o 1 f 0 false)
  let s := if Desc.irq o.desc then s.event (Reg.engQIntStatus e) c.slot else s
  let s := s.spoil e o
  let x := s.ctxQueue e k
  let y := { x with ops := x.ops.filter (fun p => decide (p.issue ≠ o.issue)), lastIssue := o.issue, recordAt := s.now }
  let y := y.retire o (bit c.qCfg 1) (bits c.qCfg 27 24)
  let s := (s.setCtxQueue e k y).jobRecord e k y o .aborted
  match o.phase with
  | some p => s.phaseCommit p false
  | none => s

/-- A context in Hatch is aborted without being swapped in: one ABORTED record for each open macro-op that `mine` names, and its queue
is HALTED (R183, R381). -/
def State.abortInHatch (s : State) (e k : Nat) (mine : OpenOp → Bool) (f : OpFault) : State :=
  let x := s.ctxQueue e k
  let gone := x.ops.filter mine
  if x.state = .disabled ∨ (x.state = .halted ∧ gone.isEmpty) then s else
  let s := gone.foldl (State.endInHatch · e k f ·) s
  let y := s.ctxQueue e k
  let s := s.setCtxQueue e k ({ y with state := .halted, cause := .aborted, haltAfter := none } : QueueSt).unfetch
  let c := s.ctx e k
  (s.setCtx e k { c with tags := [], landing := [], remoteErr := none, accSaved := false }).hatchStatus e k

/-! ### Issue -/

/-- Where a macro-op issues from: engine, queue, context and partition. -/
structure Site where
  e : Nat
  q : Nat
  k : Nat
  part : Nat
  deriving DecidableEq, Repr

/-- What reaching issue leads to. -/
inductive Issue
  /-- ends FAULTED at issue: nothing read, nothing written -/
  | fault (f : OpFault)
  /-- issues and stays open -/
  | opens (s : State) (o : OpenOp)
  /-- issues and posts its record at once -/
  | ends (s : State) (st : EndStatus)

/-- Whether context a takes engine e before context b: by effective priority, then the RUNNING one, then the one that has held
the engine least recently, then the lower slot (R374). -/
def State.holdsBefore (s : State) (e a b : Nat) : Bool :=
  let x := s.ctx e a
  let y := s.ctx e b
  let p := s.prioOf e x
  let q := s.prioOf e y
  if p ≠ q then decide (q < p)
  else if x.running || y.running then x.running
  else if x.heldAt ≠ y.heldAt then decide (x.heldAt < y.heldAt)
  else decide (x.slot < y.slot)

/-- The resident context that engine e passes to: the READY or RUNNING one that comes first (R374, R375). -/
def State.nextHolder (s : State) (e : Nat) : Option Nat :=
  ((List.range 16).filter fun k => decide ((s.ctx e k).place = .resident) && decide (s.blockCause e k = 0)).foldl
    (fun best k => match best with
      | none => some k
      | some b => if s.holdsBefore e k b then some k else some b) none

/-- Whether context k may use the arrays and row unit: it holds the engine or takes it now, and no context of higher
effective priority is READY (R374, R375). An engine that is being withdrawn takes none (R388). -/
def State.mayHold (s : State) (e k : Nat) : Bool :=
  !(s.leaving e) && decide (s.nextHolder e = some k) &&
    ((s.ctx e k).running || !((List.range 16).any fun j => (s.ctx e j).running))

/-- Context k holds the engine from now on. -/
def State.takeEngine (s : State) (e k : Nat) : State :=
  let c := s.ctx e k
  if c.running then s else s.setCtx e k { c with running := true, heldAt := s.now, since := s.now }

/-- The RUNNING context leaves the engine, its accumulators saved; it stays resident (R375). -/
def State.preempt (s : State) (e k : Nat) : State :=
  let c := s.ctx e k
  (s.setCtx e k { c with running := false, accSaved := (s.ctxQueue e k).liveAcc, readyAt := s.now, leftAt := some s.now }).bump
    Reg.schPreemptCount 31 0 1

/-- A pending reseed of the stochastic-rounding generators takes effect at a macro-op's issue (R124). -/
def State.reseeds (s : State) (e : Nat) : State :=
  let x := s.eng e
  if x.reseed then
    s.setEng e { x with reseed := false,
                        lanes := (List.range 256).map (lfsrSeed (BitVec.ofNat 32 (s.fld (Reg.engSrSeed e) 31 0))) }
  else s

/-- An entry has been fetched: the queue's position moves on. -/
def QueueSt.took (x : QueueSt) (f : Entry) : QueueSt :=
  let x := { x with fetched := x.fetched ++ [f] }
  match x.stack with
  | l :: r => { x with stack := { l with pos := l.pos + 1 } :: r }
  | [] => if x.arg.isSome then { x with tmpl := x.tmpl + 1 } else { x with next := (x.next + 1) % 2 ^ 32 }

/-- An entry passes the queue without being issued from its front. -/
def QueueSt.skip (x : QueueSt) (f : Entry) : QueueSt :=
  if x.fetched.head? = some f then { x with fetched := x.fetched.drop 1 } else { x.took f with fetched := x.fetched }

/-- Whether a macro-op of context k may issue now, as far as all but its queue's state goes: the conditions of R159, R160, R367, R372,
R373 and R388. -/
def State.mayIssue (s : State) (e q k : Nat) (d : Desc) : Bool :=
  let x := s.queue e q
  let c := s.ctx e k
  let timing :=
    if Desc.chain d then decide (x.ops.length ≤ 1) && decide (x.issuedAt + Desc.readyAfter d ≤ s.now)
    else x.ops.isEmpty && decide (x.recordAt < s.now ∨ x.issue = 0)
  let spare := preemptible d || !(decide ((tabGet (fun _ => 0) s.leads e) = 1))
  timing && spare && bit c.cfg 0 && s.phaseAllows e c && !(s.inSlot e) && !(s.eng e).gateClosed &&
    (!needsEngine (Desc.op d) || s.mayHold e k) && s.unitsFree e d && c.remoteErr.isNone

/-- The first fetched entry, when the queue can issue it now. -/
def State.issuable (s : State) (e q : Nat) (isIt : Desc → Bool) : Option (Site × Entry) :=
  let x := s.queue e q
  match s.slotCtx e q, x.fetched with
  | some k, f :: _ =>
    let live := decide (x.state = .idle ∨ x.state = .running ∨ x.state = .waiting) && !x.stopping && x.haltAfter.isNone &&
      x.ops.all (fun o => !o.abort)
    if isIt f.desc && live && s.mayIssue e q k f.desc then some (⟨e, q, k, (s.ctx e k).part⟩, f) else none
  | _, _ => none

/-- The entry that stood next when an abort request reached the queue in this cycle (R184). -/
def State.struck (s : State) (e q : Nat) (isIt : Desc → Bool) : Option (Site × Entry) :=
  match s.slotCtx e q, (s.queue e q).abortedAt with
  | some k, some (t, f) =>
    if decide (t = s.now) && isIt f.desc && s.mayIssue e q k f.desc then some (⟨e, q, k, (s.ctx e k).part⟩, f) else none
  | _, _ => none

/-- Takes the first fetched entry off the queue as macro-op number ISSUE. -/
def State.dequeue (s : State) (e q : Nat) : State :=
  let x := s.queue e q
  s.setQueue e q { x with fetched := x.fetched.drop 1, issue := (x.issue + 1) % 2 ^ 32, issuedAt := s.now }

/-- The open macro-op of an entry at its issue. -/
def Entry.opened (f : Entry) (s : State) (site : Site) (issue : Nat) : OpenOp :=
  { desc := f.desc, level := f.level, index := f.index, issue := issue, issuedAt := s.now,
    phase := (s.ctx site.e site.k).phase, part := site.part }

/-- A macro-op that reads Attic sectors Larder does not hold: not a fault code, but the mark by which `issueNext` asks
for the sector and leaves the macro-op unissued (assumption log 24). -/
def atticPending : Nat := 0x10000

/-- The same for a sector that the macro-op needs in E. -/
def atticOwn : Nat := 0x10001

/-- The first thing that stops a macro-op's reads of byte ranges: a memory fault, a failed or a missing Attic sector. -/
def State.readsFault (s : State) (part : Nat) (rs : List (Nat × Nat)) : Option OpFault :=
  match s.rangesReadFault part rs with
  | some (c, a) => some ⟨c, a, 0⟩
  | none =>
    let sector := (rs.filter fun r => regionOf r.1 = .attic).findSome? fun r => s.missingSector r.1 r.2
    sector.map fun n =>
      if (s.sector n).err ≠ 0 then ⟨(s.sector n).err, sectorDa n, 0⟩ else ⟨atticPending, sectorDa n, 0⟩

/-- The first memory fault of a macro-op's writes. -/
def State.writesFault (s : State) (part : Nat) (rs : List (Nat × Nat)) : Option OpFault :=
  match s.rangesFault part rs with
  | some x => some ⟨x.1, x.2, 0⟩
  | none => (rs.findSome? fun r => s.deadPart r.1 r.2).map fun a => ⟨F.memUe, a, 0⟩

/-- Notes the macro-op whose body made the Attic writes past the first n. -/
def State.ownWrites (s : State) (n e q issue : Nat) : State :=
  let own := (s.attic.writes.drop n).map fun w => { w with op := some (e, q, issue) }
  { s with attic := { s.attic with writes := s.attic.writes.take n ++ own } }

/-- Runs part of open macro-op ISSUE: the Attic writes it makes are its own (R181), and the errors of its arithmetic are drawn anew
(R2). -/
def State.owning (s : State) (e q issue : Nat) (f : State → State) : State :=
  (f { s with free := s.free + 1 }).ownWrites s.attic.writes.length e q issue

/-- A macro-op ends at issue with a fault. -/
def State.failAtIssue (s : State) (e q : Nat) (o : OpenOp) (da : Bool) (f : OpFault) : State :=
  let n := sectorOf f.addr
  let s := if regionOf f.addr = .attic then s.setSector n { s.sector n with err := 0 } else s
  let y := s.queue e q
  (s.setQueue e q { y with ops := y.ops ++ [o], lastDa := da }).endOp e q o (.faulted f)

/-- An abort request and the failing sweep of the entry that stood next meet in one cycle: FAULTED with F_HAZARD (R184). -/
def State.failStruck (s : State) (e q : Nat) (isIt : Desc → Bool) (body : State → Site → OpenOp → Issue) : State :=
  match s.struck e q isIt with
  | none => s
  | some (site, f) =>
    let x := s.queue e q
    let o := { f.opened s site x.issue with abort := true }
    match body s site o with
    | .fault flt =>
      if flt.code = F.hazard then
        (s.setQueue e q { x.skip f with issue := (x.issue + 1) % 2 ^ 32, issuedAt := s.now, abortedAt := none }).failAtIssue e q o
          false flt
      else s
    | _ => s

/-- Issues the next entry of a queue when it is the named macro-op and may issue; otherwise nothing happens. A chained
macro-op behind a DA destination is invalid (R160), as are the common reserved encodings (R154); an F engine has no bank 1 and no
transposed-write path (R103). -/
def State.issueNext (s : State) (e q : Nat) (isIt : Desc → Bool) (da : Desc → Bool)
    (body : State → Site → OpenOp → Issue) : State :=
  match s.issuable e q isIt with
  | none => s.failStruck e q isIt body
  | some (site, f) =>
    let x := s.queue e q
    let before := x.state
    let d := f.desc
    let s0 := s
    let sent := s.attic.writes.length
    let s := { s.dequeue e q with free := s.free + 1 }
    let s := if needsEngine (Desc.op d) then s.takeEngine e site.k else s
    let o := f.opened s site x.issue
    if descCommonBad d ∨ (Desc.chain d ∧ x.lastDa) then s.failAtIssue e q o (da d) ⟨F.descInvalid, 0, 0⟩
    else if descClassBad e d then s.failAtIssue e q o (da d) ⟨F.engineClass, 0, 0⟩
    else
      match body (s.reseeds e) site o with
      | .fault flt =>
        if flt.code = atticPending ∨ flt.code = atticOwn then
          s0.askSector (sectorOf flt.addr) (decide (flt.code = atticOwn))
        else s.failAtIssue e q o (da d) flt
      | .opens s' o' =>
        let s' := (s'.blur e o').ownWrites sent e q x.issue
        let s' := if EngUnit.arrays.neededBy d && o'.fault.isNone && !o'.finished || decide (Desc.op d = Op.pulse) then s'.workBegins e else s'
        let y := s'.queue e q
        (s'.setQueue e q { y with ops := y.ops ++ [o'], lastDa := da d }).settle e q before
      | .ends s' st =>
        let y := s'.queue e q
        (s'.setQueue e q { y with ops := y.ops ++ [o], lastDa := da d }).endOp e q o st

end Sys2Proof.Machine
end

