-- ==== Sys2Proof/Machine/MacroOps.lean ====
section
/-! DEFINITION. What macro-ops share from issue on: operand checks (R193, R204, R215, R222, R518), the generation sweep
and claims (R162 to R166), memory faults, the regulators' charge, and the writing of results through the output
converter (R121 to R123, R203). -/

namespace Sys2Proof.Machine

/-! ### Checks -/

/-- F_DESC_INVALID with an ADDR. -/
def invalidAt (a : Nat) : OpFault := ⟨F.descInvalid, a, 0⟩

/-- Stops with a fault when a condition holds. -/
def stopIf (b : Bool) (f : OpFault) : Except OpFault Unit := if b then .error f else .ok ()

/-- The issue a checked body leads to. -/
def issueOf : Except OpFault Issue → Issue
  | .ok i => i
  | .error f => .fault f

/-- Tensor-table entry i of the context, which the macro-op must name and which must be valid (R518). -/
def State.operand (s : State) (site : Site) (i : Nat) : Except OpFault Tensor :=
  if i = 0xFF then .error (invalidAt 0) else
  match s.tensor site.e site.q i with
  | .ok t => .ok t
  | .error b => .error (invalidAt b)

/-- An entry that may be left out. -/
def State.optOperand (s : State) (site : Site) (i : Nat) : Except OpFault (Option Tensor) :=
  if i = 0xFF then .ok none else (s.operand site i).map some

/-- The region lies inside the tensor (R193). -/
def Tensor.within (t : Tensor) (g : Reg2) : Except OpFault Unit := stopIf (!t.holds g) (invalidAt t.base)

/-- The region of D that a result of m × n elements from g's origin takes: turned under TWRITE (R222). -/
def destRegion (tw : Bool) (g : Reg2) : Reg2 := if tw then ⟨g.r, g.c, g.n, g.m⟩ else g

/-- A block-scaled destination region starts and ends at block edges or the tensor's own (R204, R215). -/
def Tensor.scaleEdges (t : Tensor) (g : Reg2) : Bool :=
  !t.scaled ||
    (decide (g.c % 32 = 0) && (decide ((g.c + g.n) % 32 = 0) || decide (g.c + g.n = t.cols)) &&
     (!t.blocked || (decide (g.r % 32 = 0) && (decide ((g.r + g.m) % 32 = 0) || decide (g.r + g.m = t.rows)))))

/-- The checks of a destination: TWRITE's conditions, the bounds and the block edges (R193, R204, R215, R222). -/
def Tensor.destOk (t : Tensor) (tw : Bool) (g : Reg2) : Except OpFault Unit := do
  stopIf (tw && (!t.shelf || (t.scaled && !t.blocked))) (invalidAt 0)
  t.within (destRegion tw g)
  stopIf (!t.scaleEdges (destRegion tw g)) (invalidAt 0)

/-! ### Sources, sweep and claims -/

/-- A region of a tensor as a source. -/
def Tensor.source (t : Tensor) (e : Nat) (g : Reg2) (gen : Nat) : Source := ⟨t.blocks g, gen, t.fetches e g⟩

/-- Shelf blocks that a byte range of Shelf offsets touches. -/
def rangeBlocks (ofs n : Nat) : List Nat := if n = 0 then [] else (spanBlocks 0 [(ofs, min (ofs + n) 0x600000)]).filter fun b => decide (b < 1536)

/-- A run of n bytes as a source: at a Shelf offset, or at a DA. -/
def byteSource (e : Nat) (shelf : Bool) (a n gen : Nat) : Source :=
  if shelf then ⟨rangeBlocks a n, gen, [(shelfDa e a, n)]⟩ else ⟨[], gen, [(a, n)]⟩

/-- F_HAZARD on block b (R166, R180). -/
def hazardFault (e b expected found : Nat) (beat same : Bool) : OpFault :=
  ⟨F.hazard, shelfDa e (b * 4096), b + expected * 2 ^ 11 + found * 2 ^ 15 + b2n beat * 2 ^ 19 + b2n same * 2 ^ 20⟩

/-- The first source block whose tag is not the expected one; a block of `own` may be WRITING (R162 to R164). -/
def State.sweep (s : State) (e : Nat) (own : List Nat) (beat : Bool) (srcs : List Source) : Option OpFault :=
  srcs.findSome? fun x => x.blocks.findSome? fun b =>
    let v := s.tag e b
    if v = x.gen ∨ (v = 15 ∧ b ∈ own) then none else some (hazardFault e b x.gen v beat false)

/-- The bytes of ranges in a tier. -/
def tierBytes (tr : Tier) (rs : List (Nat × Nat)) : Nat :=
  rs.foldl (fun n r => if tierOf r.1 = some tr then n + r.2 else n) 0

/-- Charges a macro-op's bytes of a tier to its partition, and notes as held what the bucket does not admit (R80, R83). -/
def State.chargeTier (s : State) (o : OpenOp) (tr : Tier) (n : Nat) : State × OpenOp :=
  let (s, left) := s.admitTier tr o.part n
  if left = 0 then (s, o) else (s, { o with heldBytes := o.heldBytes ++ [(tr, left)], stalled := true })

/-- Charges the bytes a macro-op reads and writes. -/
def State.chargeOp (s : State) (o : OpenOp) (rs : List (Nat × Nat)) : State × OpenOp :=
  let (s, o) := s.chargeTier o .pantry (tierBytes .pantry rs)
  s.chargeTier o .cellar (tierBytes .cellar rs)

/-- What a macro-op reads and writes: its sources, the Shelf blocks and the byte ranges of its destination, and its step
boundaries (0: not counted in advance). -/
structure Launch where
  srcs : List Source := []
  blocks : List Nat := []
  dst : List (Nat × Nat) := []
  steps : Nat := 0
  deriving DecidableEq, Repr

/-- A region of a tensor as destination. -/
def Launch.into (l : Launch) (t : Tensor) (e : Nat) (g : Reg2) : Launch :=
  { l with blocks := l.blocks ++ t.blocks g, dst := l.dst ++ t.ranges e g }

/-- A run of bytes as destination. -/
def Launch.intoBytes (l : Launch) (e : Nat) (shelf : Bool) (a n : Nat) : Launch :=
  if shelf then { l with blocks := l.blocks ++ rangeBlocks a n, dst := l.dst ++ [(shelfDa e a, n)] }
  else { l with dst := l.dst ++ [(a, n)] }

/-- An issued macro-op that meets a memory fault: it writes nothing more and ends FAULTED. -/
def OpenOp.failed (o : OpenOp) (f : OpFault) : OpenOp := { o with fault := some f, finished := true }

/-- Before the first write to a block: the first of `bs`, not yet written to, whose tag is DST_GEN or was before the claim: F_HAZARD with
SAME_GEN (R165). -/
def State.sameGenFault (s : State) (e : Nat) (o : OpenOp) (bs : List Nat) : Option OpFault :=
  let g := Desc.dstGen o.desc
  (bs.find? fun b => decide (b ∉ o.touched) && (decide (b ∈ o.sameGen) || decide (s.tag e b = g))).map fun b =>
    hazardFault e b g g false true

/-- The first byte range of a source that lies in another engine's Shelf: no macro-op reads it (R192; assumption log 70). -/
def strayShelf (e : Nat) (rs : List (Nat × Nat)) : Option Nat :=
  (rs.find? fun r => match regionOf r.1 with
    | .shelf f _ => decide (f ≠ e)
    | _ => false).map (·.1)

/-- Issues a macro-op: remote DAs and other engines' Shelves end it (R192, R378, R412); the sweep, the claims, the memory checks and the
charge; then `work` (R159, R162, R163). -/
def State.launch (s : State) (site : Site) (o : OpenOp) (l : Launch) (work : State → OpenOp → State × OpenOp) : Issue :=
  let reads := l.srcs.flatMap (·.ranges)
  match (reads ++ l.dst).find? fun r => decide (regionOf r.1 = .remote) with
  | some r => .fault ⟨F.addrRange, r.1, 0⟩
  | none =>
  match strayShelf site.e reads with
  | some a => .fault ⟨F.addrRange, a, 0⟩
  | none =>
  match s.sweep site.e [] false l.srcs with
  | some f => .fault f
  | none =>
    let same := l.blocks.filter fun b => decide (s.tag site.e b = Desc.dstGen o.desc)
    let o := { o with dst := l.dst, stepsTotal := l.steps, claimed := l.blocks, claims := l.blocks, sameGen := same }
    match s.readsFault site.part reads with
    | some f =>
      if regionOf f.addr = .attic then .fault f else .opens (s.setTags site.e 15 l.blocks) (o.failed f)
    | none =>
      let s := s.setTags site.e 15 l.blocks
      match s.writesFault site.part l.dst with
      | some f => .opens s (o.failed f)
      | none =>
        let (s, o) := s.chargeOp o (reads ++ l.dst)
        let (s, o) := work s o
        .opens s o

/-- Issues a macro-op whose work is made of units: each is done at its step boundary. -/
def State.launchUnits (s : State) (site : Site) (o : OpenOp) (l : Launch) (units : List WorkUnit) : Issue :=
  s.launch site o l fun s o => (s, { o with units := units, finished := units.isEmpty })

/-- The first thing that stops a step: its read beats and ranges (R59, R164). -/
def State.stepFault (s : State) (e : Nat) (o : OpenOp) (srcs : List Source) : Option OpFault :=
  match s.sweep e o.claims true srcs with
  | some f => some f
  | none => s.readsFault o.part (srcs.flatMap (·.ranges))

/-- The first thing that stops a unit of an open macro-op: what stops a step, and its first writes (R165). -/
def State.unitFault (s : State) (e : Nat) (o : OpenOp) (u : WorkUnit) : Option OpFault :=
  match s.stepFault e o u.srcs with
  | some f => some f
  | none => s.sameGenFault e o u.blocks

/-- The first unit has been done: claimed blocks that no later unit writes carry DST_GEN (R163), and its `keep` is final. -/
def State.unitDone (s : State) (e : Nat) (o : OpenOp) (u : WorkUnit) (rest : List WorkUnit) : State × OpenOp :=
  let later := rest.flatMap (·.blocks)
  let done := o.claims.filter (· ∉ later)
  (s.setTags e (Desc.dstGen o.desc) done,
   { o with claims := o.claims.filter (· ∈ later), touched := dedup (o.touched ++ u.blocks), final := o.final ++ u.keep,
            units := rest, tile := o.tile + 1, finished := rest.isEmpty })

/-- Does the units of an open macro-op that are due, by `work` of their number; k bounds how many. One that meets a fault does nothing. -/
def State.runUnits (s : State) (e : Nat) (o : OpenOp) (work : State → OpenOp → Nat → State × OpenOp) : Nat → State × OpenOp
  | 0 => (s, o)
  | k + 1 =>
    match o.units with
    | [] => (s, o)
    | u :: rest =>
      if o.steps < u.due ∨ o.fault.isSome then (s, o) else
      match s.unitFault e o u with
      | some f => (s, { o with fault := some f })
      | none =>
        let (s, o) := work s o o.tile
        if o.fault.isSome then (s, o) else
        let (s, o) := s.unitDone e o u rest
        s.runUnits e o work k

/-- All writes are made: every claimed block carries DST_GEN (R163). -/
def State.settleTags (s : State) (e : Nat) (o : OpenOp) : State × OpenOp :=
  (s.setTags e (Desc.dstGen o.desc) o.claims, { o with claims := [], finished := true })

/-- All writes are made. -/
def OpenOp.wrote (o : OpenOp) : OpenOp := { o with finished := true }

/-- A streaming-mode macro-op overwrites the stationary W_in (R105, R245). -/
def State.clearStation (s : State) (e : Nat) : State :=
  (s.setEng e { s.eng e with station := none }).wr (Reg.engStation e) 0

/-- Adds an FP32 value to a word by RED.ADD.FP32 (R68). -/
def State.redAdd (s : State) (a : Nat) (v : W32) : State := s.doRed a .addFp32 1 (leBytes 4 v.toNat)

/-! ### Conversion and writing -/

/-- k steps of a lane generator. -/
def lfsrIter : Nat → W32 → W32
  | 0, x => x
  | k + 1, x => lfsrIter k (lfsrStep x)

/-- The generator of lane l; before the first seeding it stands at seed 0 (assumption log 26). -/
def EngineSt.lane (x : EngineSt) (l : Nat) : W32 := x.lanes.getD l (lfsrSeed 0 l)

/-- How the i-th value of a conversion run is rounded (R123). -/
def State.runMode (s : State) (e : Nat) (sr : Bool) (i : Nat) : RMode :=
  if sr then .sr ((lfsrIter (i / 256) ((s.eng e).lane (i % 256))).toNat % 65536) else .rne

/-- A conversion run of n values steps the generators (R123). -/
def State.stepLanes (s : State) (e : Nat) (sr : Bool) (n : Nat) : State :=
  if sr then
    let x := s.eng e
    s.setEng e { x with lanes := (List.range 256).map fun l => lfsrIter ((n + 255 - l) / 256) (x.lane l) }
  else s

/-- The scale block of a cell: a run of 32 columns, or a 32 × 32 square in the blocked layout (R122, R215). -/
def OutCell.block (t : Tensor) (x : OutCell) : Nat × Nat := (if t.blocked then x.r / 32 else x.r, x.c / 32)

/-- Writes one cell, with the scale its block takes. -/
def State.putCell (s : State) (e : Nat) (t : Tensor) (cells : List OutCell) (x : OutCell) : State × NumCount :=
  if t.scaled then
    let sc := blockScale t.fmt ((cells.filter fun y => decide (y.block t = x.block t)).map (·.v))
    let y := convertScaled t.fmt x.md sc x.v
    ((s.putElem e t x.r x.c y.bits).putScale e t x.r x.c sc, y.count)
  else
    let y := convert t.fmt x.md x.v
    (s.putElem e t x.r x.c y.bits, y.count)

/-- Writes cells through the output converter (R121, R122). -/
def State.putCells (s : State) (e : Nat) (t : Tensor) (cells : List OutCell) : State × NumCount :=
  cells.foldl (fun a x =>
    let (s, n) := a.1.putCell e t cells x
    (s, a.2.add n)) (s, {})

/-- Positions of a scale block: 32 columns of a row, or a square of 32 × 32 (R122, R215). -/
def blockCells (t : Tensor) (b : Nat × Nat) : List (Nat × Nat) :=
  if t.blocked then (List.range 1024).map fun i => (32 * b.1 + i / 32, 32 * b.2 + i % 32)
  else (List.range 32).map fun i => (b.1, 32 * b.2 + i)

/-- Whether every valid value of a cell's scale block is among `cells`. -/
def wholeBlock (t : Tensor) (valid : Nat → Nat → Bool) (cells : List OutCell) (x : OutCell) : Bool :=
  ((blockCells t (x.block t)).filter fun p => valid p.1 p.2).all fun p => cells.any fun y => decide ((y.r, y.c) = p)

/-- Writes results of an open macro-op, and counts (R121). A scale block is written once it has all its valid values: those of a block
that later results complete wait in the macro-op (R122, R215; assumption log 71). -/
def State.putOut (s : State) (e : Nat) (o : OpenOp) (t : Tensor) (valid : Nat → Nat → Bool) (cells : List OutCell) :
    State × OpenOp :=
  let all := o.held ++ cells
  let ready := if t.scaled then all.filter (wholeBlock t valid all) else all
  let (s, n) := s.putCells e t ready
  (s.countNum e n, { o with held := if t.scaled then all.filter fun x => !wholeBlock t valid all x else [] })

/-- Whether a position lies in a region. -/
def Reg2.has (g : Reg2) (r c : Nat) : Bool := inRange r g.r (g.r + g.m - 1) && inRange c g.c (g.c + g.n - 1) && decide (g.m ≠ 0 ∧ g.n ≠ 0)

/-- Where result (i, j) lands in D (R222). -/
def resultAt (tw : Bool) (r0 c0 i j : Nat) : Nat × Nat := if tw then (r0 + j, c0 + i) else (r0 + i, c0 + j)

/-- The cells of row i of a result whose origin in D is that of g, as one conversion run (R123). -/
def State.rowRun (s : State) (e : Nat) (sr tw : Bool) (g : Reg2) (i : Nat) (vs : List FVal) : State × List OutCell :=
  let cells := vs.mapIdx fun j v =>
    let p := resultAt tw g.r g.c i j
    (⟨p.1, p.2, v, s.runMode e sr j⟩ : OutCell)
  (s.stepLanes e sr vs.length, cells)

/-- Writes row i of the results of an open macro-op, whose region is g before any transposition. -/
def State.putRow (s : State) (e : Nat) (o : OpenOp) (t : Tensor) (g : Reg2) (i : Nat) (vs : List FVal) : State × OpenOp :=
  let d := o.desc
  let (s, cells) := s.rowRun e (Desc.sr d) (Desc.twrite d) g i vs
  s.putOut e o t (destRegion (Desc.twrite d) g).has cells

/-- The region of D that row i of a result takes. -/
def destRow (tw : Bool) (g : Reg2) (i : Nat) : Reg2 := if tw then ⟨g.r, g.c + i, g.n, 1⟩ else ⟨g.r + i, g.c, 1, g.n⟩

/-- The FP32 values of one row of a region. -/
def State.row32 (s : State) (e : Nat) (t : Tensor) (g : Reg2) (i : Nat) : List W32 :=
  (List.range g.n).map fun j => s.elem32 e t (g.r + i) (g.c + j)

/-- The tensor-table entries of the given indices, latched (R155). -/
def State.latchTds (s : State) (site : Site) (o : OpenOp) (tds : List Nat) : OpenOp :=
  { o with entries := tds.map fun i => if i = 0xFF then [] else s.kload site.e (site.q * 32768 + 0x4000 + 32 * i) 32 }

/-- The tensor-table entries A, B, C, D of a descriptor, latched. -/
def State.latch (s : State) (site : Site) (o : OpenOp) : OpenOp :=
  s.latchTds site o [Desc.tdA o.desc, Desc.tdB o.desc, Desc.tdC o.desc, Desc.tdD o.desc]

/-- A latched entry. -/
def OpenOp.entry (o : OpenOp) (i : Nat) : Option Tensor :=
  match tensorOf (o.entries.getD i []) with
  | .ok t => some t
  | .error _ => none

end Sys2Proof.Machine
end

