-- ==== Sys2Proof/Machine/Remote.lean ====
section
/-! DEFINITION. Remote requests of contexts: tags, the requests of a COPY, responses, the landing buffer, and errors (R60,
R378 to R380, R412, R413, R415, R417). -/

namespace Sys2Proof.Machine

/-- Whether a DA is remote (R60). -/
def isRemote (a : Nat) : Bool := decide (regionOf a = .remote)

/-- The module a remote DA names. -/
def remoteModule (a : Nat) : Nat := bits a 62 50

/-- The offset in that module. -/
def remoteOfs (a : Nat) : Nat := bits a 44 0

/-- The context with an outstanding tag, and the tag. -/
def State.tagOwner (s : State) (tag : Nat) : Option (Nat × Nat × RemoteTag) :=
  s.ctxs.findSome? fun x =>
    (x.2.tags.find? fun t => decide (t.tag = tag)).map fun t => (x.1 / 16, x.1 % 16, t)

/-- Releases a tag. -/
def State.releaseTag (s : State) (e k tag : Nat) : State :=
  let c := s.ctx e k
  s.setCtx e k { c with tags := c.tags.filter fun t => decide (t.tag ≠ tag) }

/-- Releases every tag and landed response of a macro-op: later responses find no tag and are discarded (R380, R381). -/
def State.releaseOp (s : State) (e k issue : Nat) : State :=
  let c := s.ctx e k
  s.setCtx e k { c with tags := c.tags.filter (fun t => decide (t.issue ≠ issue)),
                        landing := c.landing.filter fun l => decide (l.tag.issue ≠ issue) }

/-- Whether a macro-op holds pins on another module's pages. -/
def OpenOp.farPins (o : OpenOp) : Bool := o.pins.any fun p => isRemote p.1

/-- The final status of a stopped macro-op. -/
def stopStatus : Option OpFault → EndStatus
  | some f => .faulted f
  | none => .aborted

/-- Stops an open macro-op by an abort (none) or a fault: what it had asked of other modules is given up, and its destination is
undefined. One with pins on another module's pages releases them before its record is posted (R271, R274). -/
def State.stopOpen (s : State) (e q k : Nat) (o : OpenOp) (f : Option OpFault) : State :=
  let s := (s.releaseOp e k o.issue).spoil e o
  if o.farPins && o.stop.isNone then s.putOp e q { o with stop := some f, log := [] }
  else s.endOp e q o (stopStatus f)

/-- The status that a macro-op stopped by fault f ends with: that of its first stop. -/
def OpenOp.stopFault (o : OpenOp) (f : OpFault) : Option OpFault := o.stop.getD (some f)

/-- Ends the macro-op of a remote error FAULTED, when its context holds the engine (R380). -/
def State.takeRemoteErr (s : State) (e k : Nat) : State :=
  let c := s.ctx e k
  match c.remoteErr, c.place with
  | some f, .resident =>
    if !c.running then s else
    match (s.queue e c.slot).opAt c.errIssue with
    | some o =>
      (s.setCtx e k { c with remoteErr := none }).stopOpen e c.slot k o (o.stopFault f)
    | none => s
  | _, _ => s

/-- A tag has failed: it is released, and its macro-op will end FAULTED with the first failing request's DA (R380). -/
def State.remoteFail (s : State) (e k : Nat) (t : RemoteTag) (f : OpFault) : State :=
  let s := (s.releaseTag e k t.tag).bump Reg.schRemoteCount 63 32 1
  let c := s.ctx e k
  let s := if c.remoteErr.isSome then s else s.setCtx e k { c with remoteErr := some f, errIssue := t.issue }
  s.takeRemoteErr e k

/-- Makes a remote request for a macro-op of context k: a tag, and the packet. A packet that no port can take is answered
F_FABRIC_ROUTE at once (R379, R404). -/
def State.askRemote (s : State) (e k issue a dst len : Nat) (kind : RemoteKind) (p : Packet) : State :=
  let tag := s.ktag
  let t : RemoteTag := ⟨tag, a, dst, len, s.now, issue, kind⟩
  let c := s.ctx e k
  let s := { s.setCtx e k { c with tags := c.tags ++ [t] } with ktag := (tag + 1) % 2 ^ 24 }
  let p := { p with dst := remoteModule a, src := s.moduleId, addr := remoteOfs a, tag := tag }
  match s.route none p with
  | some (n, q) => s.sendOn n { pkt := q }
  | none => s.dropPacket.remoteFail e k t ⟨F.remoteError, a, F.fabricRoute⟩

/-! ### Remote COPY (R412, R413) -/

/-- Length of the next request of a transfer of n bytes at a remote DA: at most to the end of its 256-byte line. -/
def lineRest (a n : Nat) : Nat := min n (256 - a % 256)

/-- Number of requests of at most 256 bytes, none across a 256-byte line, that [a, a + n) is cut into. -/
def lineCount (a n : Nat) : Nat := if n = 0 then 0 else (a + n - 1) / 256 + 1 - a / 256

/-- Where the lines of a COPY lie: at its remote end (R412), else at its source. -/
def copyCut (d : Desc) : Nat := if isRemote (d.arg 1) then d.arg 1 else d.arg 0

/-- Request batches of a COPY or PREFETCH: 64 requests each, the last of what remains (R158). -/
def copyBatches (d : Desc) : Nat := (lineCount (copyCut d) (bits (d.arg 2) 39 0) + 63) / 64

/-- Whether a remote COPY has made every request of the batch that it is in. -/
def OpenOp.batchMade (o : OpenOp) : Bool :=
  let a := copyCut o.desc
  decide (bits (Desc.arg o.desc 2) 39 0 ≤ o.asked) || decide (64 * (o.steps + 1) ≤ lineCount a o.asked)

/-- Makes the requests of a remote COPY from byte `asked` on, while tags are free; k bounds their number (R379). -/
def State.copyRequests (s : State) (site : Site) (o : OpenOp) : Nat → State × OpenOp
  | 0 => (s, o)
  | n + 1 =>
    let d := o.desc
    let total := bits (Desc.arg d 2) 39 0
    if total ≤ o.asked ∨ 256 ≤ (s.ctx site.e site.k).tags.length ∨ (s.ctx site.e site.k).remoteErr.isSome then (s, o) else
    let src := Desc.arg d 0
    let dst := Desc.arg d 1
    let i := o.asked
    let far := if isRemote src then src + i else dst + i
    if bits far 49 45 ≠ 0 then (s, { o with fault := some ⟨F.addrRange, far, 0⟩ })
    else if isRemote src then
      let len := lineRest (src + i) (total - i)
      let into := if bit (Desc.w d 2) 17 then shelfDa site.e (dst + i) else dst + i
      let kind := if bit (Desc.w d 2) 18 then RemoteKind.keeper else .get
      let s := s.askRemote site.e site.k o.issue (src + i) into len kind { type := 0x01, len := len }
      s.copyRequests site { o with asked := i + len } n
    else
      let len := lineRest (dst + i) (total - i)
      let from' := if bit (Desc.w d 2) 16 then shelfDa site.e (src + i) else src + i
      let mode := Desc.opx d 20 19
      let p : Packet := { type := if mode = 0 then 0x02 else 0x04, op := mode - 1, len := len,
                          payload := s.load from' len }
      let s := s.askRemote site.e site.k o.issue (dst + i) 0 len .put p
      s.copyRequests site { o with asked := i + len } n

/-- Whether every request of a remote macro-op has been made and answered. -/
def State.remoteDone (s : State) (e k : Nat) (o : OpenOp) (total : Nat) : Bool :=
  let c := s.ctx e k
  decide (total ≤ o.asked) && !(c.tags.any fun t => decide (t.issue = o.issue)) &&
    !(c.landing.any fun l => decide (l.tag.issue = o.issue)) && c.remoteErr.isNone

/-- Writes a response's data to its destination (R379). -/
def State.landData (s : State) (e k : Nat) (t : RemoteTag) (data : List Byte) : State :=
  match t.kind with
  | .get => s.windowStore t.dst (fieldBytes data 0 t.len)
  | .keeper => s.kstore e ((s.ctx e k).slot * 32768 + t.dst) (fieldBytes data 0 t.len)
  | .step _ => s.setCtxQueue e k ((s.ctxQueue e k).mapOp t.issue fun o => { o with log := o.log ++ [data] })
  | .signal => s.setCtxQueue e k ((s.ctxQueue e k).mapOp t.issue fun o => { o with finished := true })
  | .put => s

/-- Blocks of a COPY's destination that still await data. -/
def State.copyAwaits (s : State) (e k : Nat) (o : OpenOp) : List Nat :=
  let c := s.ctx e k
  let ts := (c.tags ++ c.landing.map (·.tag)).filter fun t => decide (t.issue = o.issue)
  let rest := bits (Desc.arg o.desc 2) 39 0 - o.asked
  (ts.flatMap fun t => rangeBlocks (past t.dst shelfBase % 0x1000000) t.len) ++
    rangeBlocks (Desc.arg o.desc 1 + o.asked) rest

/-- After a response: the blocks of a COPY whose last write has been made carry DST_GEN, and the macro-op is finished when
nothing is outstanding (R163). -/
def State.copyProgress (s : State) (e k issue : Nat) : State :=
  let x := s.ctxQueue e k
  match x.opAt issue with
  | none => s
  | some o =>
    if Desc.op o.desc ≠ Op.copy then s else
    let awaited := s.copyAwaits e k o
    let s := s.setTags e (Desc.dstGen o.desc) (o.claims.filter (· ∉ awaited))
    let done := s.remoteDone e k o (bits (Desc.arg o.desc 2) 39 0)
    s.setCtxQueue e k (x.mapOp issue fun o => { o with claims := o.claims.filter (· ∈ awaited), finished := done })

end Sys2Proof.Machine
end

