-- ==== Sys2Proof/Machine/Dma.lean ====
section
/-! DEFINITION. COPY and PREFETCH (R173, R412, R413), SIGNAL and triggers (R151, R152, R168), WAIT (R167) and FENCE
(R169). -/

namespace Sys2Proof.Machine

/-! ### COPY and PREFETCH -/

/-- Bytes that a COPY or PREFETCH moves. -/
def copyBytes (d : Desc) : Nat := bits (d.arg 2) 39 0

/-- A COPY's source is remote. -/
def copyFrom (d : Desc) : Bool := !(bit (d.w 2) 16) && isRemote (d.arg 0)

/-- A COPY's destination is remote. -/
def copyTo (d : Desc) : Bool := isRemote (d.arg 1)

/-- The encodings of COPY that are invalid (R154, R173, R413): a length that is no multiple of 64, two destination kinds at
once, RMODE without a remote destination, both ends remote, or a remote destination with a local-destination bit. -/
def copyBad (d : Desc) : Bool :=
  let shelf := bit (d.w 2) 17
  let keeper := bit (d.w 2) 18
  let rmode := d.opx 20 19
  decide (copyBytes d % 64 ≠ 0) || (shelf && keeper) || decide (rmode = 3) ||
    (!(copyTo d) && decide (rmode ≠ 0)) || (copyTo d && (copyFrom d || shelf || keeper)) ||
    (keeper && decide (32768 < d.arg 1 + copyBytes d))

/-- The bits of a remote DA that must be 0 (R60). -/
def remoteBad (a : Nat) : Bool := isRemote a && decide (bits a 49 45 ≠ 0)

/-- What a COPY reads and writes here. -/
def copyLaunch (e : Nat) (d : Desc) : Launch :=
  let n := copyBytes d
  let srcs := if copyFrom d then [] else [byteSource e (bit (d.w 2) 16) (d.arg 0) n d.genA]
  let l : Launch := { srcs := srcs, steps := copyBatches d }
  if copyTo d ∨ bit (d.w 2) 18 then l else l.intoBytes e (bit (d.w 2) 17) (d.arg 1) n

/-- First byte of request batch i of n bytes whose lines are cut at a: 64 lines to a batch (R158). -/
def batchStart (a n i : Nat) : Nat := if i = 0 then 0 else min n (256 * 64 * i - a % 256)

/-- The units of a local COPY or PREFETCH: its request batches. -/
def batchUnits (e : Nat) (d : Desc) : List WorkUnit :=
  let n := copyBytes d
  (List.range (copyBatches d)).map fun i =>
    let b := batchStart (d.arg 0) n i
    let m := batchStart (d.arg 0) n (i + 1) - b
    { due := i + 1, srcs := [byteSource e (bit (d.w 2) 16) (d.arg 0 + b) m d.genA],
      blocks := if bit (d.w 2) 17 then rangeBlocks (d.arg 1 + b) m else [] }

/-- The bytes of request batch i of an open local COPY or PREFETCH arrive. -/
def State.copyUnit (s : State) (e q : Nat) (o : OpenOp) (i : Nat) : State × OpenOp :=
  let d := o.desc
  let n := copyBytes d
  let b := batchStart (Desc.arg d 0) n i
  let src := Desc.arg d 0 + b
  let dst := Desc.arg d 1 + b
  let bs := s.load (if bit (Desc.w d 2) 16 then shelfDa e src else src) (batchStart (Desc.arg d 0) n (i + 1) - b)
  (if bit (Desc.w d 2) 18 then s.kstore e (q * 32768 + dst) bs
   else s.windowStore (if bit (Desc.w d 2) 17 then shelfDa e dst else dst) bs, o)

/-- Issue of a COPY: a local one moves its bytes batch by batch, a remote one makes its first batch of requests (R158, R173, R412). -/
def State.copyBody (s : State) (site : Site) (o : OpenOp) : Issue :=
  issueOf do
    let d := o.desc
    stopIf (copyBad d) (invalidAt 0)
    stopIf (remoteBad (Desc.arg d 0) && copyFrom d) ⟨F.addrRange, Desc.arg d 0, 0⟩
    stopIf (remoteBad (Desc.arg d 1)) ⟨F.addrRange, Desc.arg d 1, 0⟩
    let l := copyLaunch site.e d
    if copyFrom d || copyTo d then
      return s.launch site o l fun s o =>
        match s.sameGenFault site.e o o.claims with
        | some f => (s, o.failed f)
        | none => s.copyRequests site o 64
    else
      let o := if bit (Desc.w d 2) 18 then { o with kdst := [(site.q * 32768 + Desc.arg d 1, copyBytes d)] } else o
      return s.launchUnits site o l (batchUnits site.e d)

/-- PREFETCH: a Cellar source and a Pantry destination (R173). -/
def State.prefetchBody (s : State) (site : Site) (o : OpenOp) : Issue :=
  issueOf do
    let d := o.desc
    let n := copyBytes d
    stopIf (decide (n % 64 ≠ 0) || bit (Desc.w d 2) 16 || bit (Desc.w d 2) 17 || bit (Desc.w d 2) 18 ||
      decide (regionOf (Desc.arg d 0) ≠ .cellar) || decide (regionOf (Desc.arg d 1) ≠ .pantry)) (invalidAt 0)
    let l : Launch := { srcs := [byteSource site.e false (Desc.arg d 0) n 0], steps := copyBatches d }
    return s.launchUnits site o (l.intoBytes site.e false (Desc.arg d 1) n) (batchUnits site.e d)

/-! ### Triggers (R151, R152) -/

/-- A trigger is dropped: counted, with the event and a record that names the argument (R152). -/
def State.dropTrigger (s : State) (e q arg : Nat) : State :=
  let s := (s.bump (Reg.engTrigCount e) 63 32 1).event (Reg.engQIntStatus e) 14
  postFault s { code := F.triggerDrop, cls := Class.info, block := Blk.eng, unit := e,
                payload := defaultPayload 0 arg 0 e q }

/-- Whether a trigger can enter the FIFO of a queue: it is enabled, in TRIGGER mode, the FIFO has a free entry,
and the engine is not being withdrawn (R390). -/
def State.takesTrigger (s : State) (e q : Nat) : Bool :=
  let x := s.queue e q
  decide (x.state ≠ .disabled) && !x.stopping && bit (s.rd (Reg.engQCfg e q)) 1 && decide (x.fifo.length < 64) && !(s.draining e)

/-- A trigger reaches a queue: it enters the FIFO, or is dropped. -/
def State.trigger (s : State) (e q arg : Nat) : State :=
  if s.takesTrigger e q then
    let x := s.queue e q
    let s := (s.setQueue e q { x with fifo := x.fifo ++ [arg] }).bump (Reg.engTrigCount e) 31 0 1
    s.settle e q x.state
  else s.dropTrigger e q arg

/-! ### SIGNAL -/

/-- The atomic of SIGNAL ADD or SET. -/
def signalAtomic (d : Desc) : AtomReq :=
  if d.opx 17 16 = 0 then { op := .fadd, ty := .int64, opnd := d.arg 1 } else { op := .swap, ty := .b64, opnd := d.arg 1 }

/-- Issue of SIGNAL ADD or SET: the atomic at its home slice, on Attic, or on another module (R69, R168). -/
def State.signalBody (s : State) (site : Site) (o : OpenOp) : Issue :=
  let d := o.desc
  let a := Desc.arg d 0
  let r := signalAtomic d
  if isRemote a then
    if remoteBad a then .fault ⟨F.addrRange, a, 0⟩ else
    let op := if Desc.opx d 17 16 = 0 then 0x20 else 0x36
    .opens (s.askRemote site.e site.k o.issue a 0 8 .signal
      { type := 0x03, op := op, len := 8, payload := leBytes 8 (Desc.arg d 1) }) { o with asked := 1 }
  else
    match s.atomFault a 8 (decide (a % 8 = 0)) with
    | some code => .fault ⟨code, a, 0⟩
    | none =>
      match s.opReadFault site.part a 8 with
      | some (code, b) => .fault ⟨code, b, 0⟩
      | none =>
        if regionOf a = .attic then
          (if s.ownsSectors a 8 then .opens (s.doAtomic a r).1 { o with finished := true }
           else if (s.sector (sectorOf a)).err ≠ 0 then .fault ⟨(s.sector (sectorOf a)).err, a, 0⟩
           else .fault ⟨atticOwn, a, 0⟩)
        else
          let (s, o) := (s.inOrder (slicePlace a) (engineRank site.e a)).chargeOp o [(a, 8)]
          .opens (s.doAtomic a r).1 { o with finished := true }

/-- Issue of SIGNAL TRIGGER: the argument goes to a queue of this module (R168). -/
def State.signalTriggerBody (s : State) (o : OpenOp) : Issue :=
  let a := Desc.arg o.desc 0
  let e := bits a 6 0
  if 96 ≤ e then .fault (invalidAt 0)
  else .opens (s.trigger e (bits a 8 7) (bits (Desc.arg o.desc 1) 31 0)) { o with finished := true }

/-! ### WAIT and FENCE -/

/-- Issue of WAIT. -/
def State.waitBody (s : State) (site : Site) (o : OpenOp) : Issue :=
  let a := Desc.arg o.desc 0
  let bad := match regionOf a with
    | .pantry => false
    | .cellar => false
    | .attic => false
    | _ => true
  if bad then .fault ⟨F.addrRange, a, 0⟩ else
  match s.readsFault site.part [(a, 8)] with
  | some f => .fault f
  | none => .opens s { o with finished := s.waitMet o.desc }

/-- A WAIT reads its word again (R145, R167). -/
def State.recheckWaits (s : State) (e q : Nat) : State :=
  let x := s.queue e q
  let ops := x.ops.map fun o =>
    if Desc.op o.desc = Op.wait ∧ s.waitMet o.desc then { o with finished := true } else o
  s.setQueue e q { x with ops := ops }

/-- What a FENCE of a resident queue waits for (R169). -/
def State.fenceMet (s : State) (e q : Nat) (o : OpenOp) : Bool :=
  let c := match s.slotCtx e q with
    | some k => s.ctx e k
    | none => {}
  s.fenceMetIn e q c (s.queue e q) o

/-- A swap of the instruction banks takes effect (R179). -/
def State.swapBanks (s : State) (e : Nat) : State :=
  let x := s.eng e
  s.setEng e { x with activeBank := 1 - x.activeBank, swapPending := false, swapAtReturn := false }

/-- A fence point of engine e: a pending swap takes effect, or waits for the running routine to return (R179). -/
def State.fencePoint (s : State) (e : Nat) : State :=
  let x := s.eng e
  if !x.swapPending then s
  else if x.routine.isSome then s.setEng e { x with swapAtReturn := true }
  else s.swapBanks e

/-! ### Meanings -/

/-- Whether a descriptor's destination is at a DA: COPY and PREFETCH (R160). -/
def copyDa (d : Desc) : Bool := !(bit (d.w 2) 17) && !(bit (d.w 2) 18)

/-- COPY (R173). -/
def execCopy (t : Nat) (e : Fin 96) (q : Fin 4) (s : State) : Host.Outcome State Fault Refusal :=
  .next (s.live t fun s => s.issueNext e q (fun d => decide (d.op = Op.copy)) copyDa State.copyBody)

/-- PREFETCH (R173). -/
def execPrefetch (t : Nat) (e : Fin 96) (q : Fin 4) (s : State) : Host.Outcome State Fault Refusal :=
  .next (s.live t fun s => s.issueNext e q (fun d => decide (d.op = Op.prefetch)) (fun _ => true) State.prefetchBody)

/-- WAIT (R167). -/
def execWait (t : Nat) (e : Fin 96) (q : Fin 4) (s : State) : Host.Outcome State Fault Refusal :=
  .next (s.live t fun s => s.issueNext e q (fun d => decide (d.op = Op.wait)) (fun _ => false) State.waitBody)

/-- WAIT_TIMEOUT (R167): due once the timeout of the open WAIT has passed with its condition unmet. -/
def execWaitTimeout (t : Nat) (e : Fin 96) (q : Fin 4) (s : State) : Host.Outcome State Fault Refusal :=
  let s := s.advance t
  if s.stopped then .next s else
  let due := fun (o : OpenOp) => decide (Desc.op o.desc = Op.wait) && !o.finished &&
    decide (Desc.opx o.desc 39 20 ≠ 0) && decide (o.issuedAt + us (Desc.opx o.desc 39 20) ≤ s.now)
  .next (match (s.queue e q).ops.find? due with
    | some o => s.endOp e q o (.faulted ⟨F.waitTimeout, Desc.arg o.desc 0, 0⟩)
    | none => s)

/-- SIGNAL_ADD (R168). -/
def execSignalAdd (t : Nat) (e : Fin 96) (q : Fin 4) (s : State) : Host.Outcome State Fault Refusal :=
  .next (s.live t fun s => s.issueNext e q (fun d => decide (d.op = Op.signal) && decide (d.opx 17 16 = 0)) (fun _ => false)
    State.signalBody)

/-- SIGNAL_SET (R168). -/
def execSignalSet (t : Nat) (e : Fin 96) (q : Fin 4) (s : State) : Host.Outcome State Fault Refusal :=
  .next (s.live t fun s => s.issueNext e q (fun d => decide (d.op = Op.signal) && decide (d.opx 17 16 = 1)) (fun _ => false)
    State.signalBody)

/-- SIGNAL_TRIGGER (R168). -/
def execSignalTrigger (t : Nat) (e : Fin 96) (q : Fin 4) (s : State) : Host.Outcome State Fault Refusal :=
  .next (s.live t fun s => s.issueNext e q (fun d => decide (d.op = Op.signal) && decide (d.opx 17 16 = 2)) (fun _ => false)
    fun s _ o => s.signalTriggerBody o)

/-- TRIGGER_ACCEPT (R151, R152). -/
def execTriggerAccept (t : Nat) (e : Fin 96) (q : Fin 4) (arg : BitVec 32) (s : State) : Host.Outcome State Fault Refusal :=
  .next (s.live t fun s => s.trigger e q arg.toNat)

/-- FENCE (R169): it commits by MACRO_OP_COMMIT once its condition holds. -/
def execFence (t : Nat) (e : Fin 96) (q : Fin 4) (s : State) : Host.Outcome State Fault Refusal :=
  .next (s.live t fun s => s.issueNext e q (fun d => decide (d.op = Op.fence)) (fun _ => false) fun s _ o => .opens s o)

end Sys2Proof.Machine
end

