-- ==== Sys2Proof/Machine/Tick.lean ====
section
/-! DEFINITION. The tick block (R25 to R54): plan checks and swaps, boundaries, phases, sources, slack and background
work. -/

namespace Sys2Proof.Machine

/-! ### The plan record (R31, R32) -/

/-- A phase entry of 64 bytes. -/
def phaseOf (bs : List Byte) : PhaseDef :=
  { cls := leField bs 0 1, name := leField bs 1 1, part := leField bs 2 1 % 8, flags := leField bs 3 1,
    pred := leField bs 4 2, start := leField bs 8 3, budget := leField bs 12 3, allow := leField bs 16 3,
    engines := leField bs 20 12, pntRate := leField bs 32 2, celRate := leField bs 34 2, clients := leField bs 40 8,
    entry := leField bs 48 8 }

/-- Phase entry p of a plan record. -/
def planEntry (bs : List Byte) (p : Nat) : List Byte := fieldBytes bs (64 * (p + 1)) 64

/-- The plan a record holds. -/
def planOf (bs : List Byte) : Plan :=
  { period := leField bs 4 3, seq := leField bs 8 4,
    phases := (List.range (leField bs 2 1)).map fun p => phaseOf (planEntry bs p) }

/-- Budget end and deadline, µs (R33). -/
def PhaseDef.budgetEnd (d : PhaseDef) : Nat := d.start + d.budget
def PhaseDef.deadline (d : PhaseDef) : Nat := d.start + d.budget + d.allow

/-- Whether a phase has an interval: it is FIXED or ELASTIC (R520). -/
def PhaseDef.timed (d : PhaseDef) : Bool := decide (d.cls = 1 ∨ d.cls = 2)

/-- The end of a phase's interval: [S, D] when FIXED, [S, S + B] when ELASTIC (R520). -/
def PhaseDef.stop (d : PhaseDef) : Nat := if d.cls = 1 then d.deadline else d.budgetEnd

/-- The phases of a plan with their indices. -/
def Plan.indexed (p : Plan) : List (Nat × PhaseDef) := (List.range p.phases.length).map fun i => (i, p.phases.getD i {})

/-- Check 0x04 on one entry: reserved bytes and must-be-0 bits, CLASS and NAME. -/
def entryReservedBad (bs : List Byte) : Bool :=
  decide (4 < leField bs 0 1) || decide (15 < leField bs 1 1) || decide (7 < leField bs 2 1) ||
  decide (7 < leField bs 3 1) || leField bs 6 2 != 0 || leField bs 11 1 != 0 || leField bs 15 1 != 0 ||
  leField bs 19 1 != 0 || leField bs 36 4 != 0 || leField bs 56 8 != 0

/-- The phases that precede phase i through PRED, by its own bit or a chain (R42, 0x09). -/
def Plan.before (pl : Plan) (i : Nat) : List Nat :=
  let rec go : Nat → List Nat → List Nat
    | 0, seen => seen
    | n + 1, seen => go n (dedup (seen ++ seen.flatMap fun j => setBits j (pl.phases.getD j {}).pred))
  go 16 (setBits i (pl.phases.getD i {}).pred)

/-- First index of a list of phases that fails a check. -/
def firstBad (ps : List (Nat × PhaseDef)) (bad : Nat × PhaseDef → Bool) : Option Nat := (ps.find? bad).map (·.1)

/-- The first pair, by the higher index and then the lower, that fails a check; answers the higher index (R521). -/
def firstPair (ps : List (Nat × PhaseDef)) (bad : Nat × PhaseDef → Nat × PhaseDef → Bool) : Option Nat :=
  firstBad ps fun q => ps.any fun p => decide (p.1 < q.1) && bad p q

/-- Check 0x07 (R42, R521). -/
def Plan.alignCheck (ps : List (Nat × PhaseDef)) : Option Nat :=
  let aligns := ps.filter fun x => decide (x.2.name = 1)
  let conts := ps.filter fun x => decide (x.2.cls = 4)
  if aligns.isEmpty then some 0 else
  firstBad ps fun x =>
    decide ((aligns.map (·.1)).getD 1 99 = x.1) || decide ((conts.map (·.1)).getD 1 99 = x.1) ||
    (decide (x.2.name = 1) && !(decide (x.2.cls = 1) && decide (x.2.start = 0))) ||
    (decide (x.2.cls = 4) && decide (x.2.name ≠ 0))

/-- The phases summed at time t (R42, 0x0A). -/
def summedAt (ps : List (Nat × PhaseDef)) (t : Nat) : List (Nat × PhaseDef) :=
  ps.filter fun x => x.2.timed && decide (x.2.start ≤ t) && decide (t ≤ x.2.stop)

/-- Whether the rates at time t exceed a tier's limit. -/
def ratesBad (ps : List (Nat × PhaseDef)) (t : Nat) : Bool :=
  decide (14700 < ((summedAt ps t).map (·.2.pntRate)).foldl (· + ·) 0) ||
    decide (4370 < ((summedAt ps t).map (·.2.celRate)).foldl (· + ·) 0)

/-- Check 0x0A: sums can only rise at a start. -/
def rateCheck (ps : List (Nat × PhaseDef)) : Option Nat :=
  let starts := (ps.filter (·.2.timed)).map (·.2.start)
  match starts.filter (ratesBad ps ·) with
  | [] => none
  | t :: ts => some (((summedAt ps (ts.foldl min t)).map (·.1)).foldl max 0)

/-- A partition limit admits a phase (R472). -/
def PartLimits.admitsPhase (l : PartLimits) (d : PhaseDef) : Bool :=
  decide (d.clients &&& l.clients = d.clients) &&
    l.regions.any fun r => decide (r.1 ≤ d.entry) && decide (d.entry < r.1 + r.2)

/-- The checks of R42 in their order: the sub-code and the phase index of the first failure (R521). A reserved field of the header
that fails check 0x04 records phase 0 (DESIGN CHOICE: R521 names an index for entries only; assumption log 69). -/
def planCheck (bs : List Byte) (active : Option Nat) (limits : Nat → PartLimits) : Option (Nat × Nat) :=
  let n := leField bs 2 1
  let pl := planOf bs
  let all := pl.indexed
  let ps := all.filter fun x => decide (x.2.cls ≠ 0)
  let err := fun (c : Nat) (o : Option Nat) => o.map fun i => (c, i)
  if crc32 (putField (bs.take (64 * (n + 1))) 12 (leBytes 4 0)) ≠ leField bs 12 4 then some (1, 0)
  else if leField bs 0 2 ≠ 1 ∨ n = 0 ∨ 16 < n ∨ leField bs 7 1 ≠ 0 ∨ pl.period < 1000 then some (2, 0)
  else if (match active with
    | some a => decide (ahead32 pl.seq a ≤ 0)
    | none => false) then some (3, 0)
  else if leField bs 3 1 ≠ 0 ∨ leField bs 16 48 ≠ 0 then some (4, 0)
  else
    (err 4 (firstBad all fun x => entryReservedBad (planEntry bs x.1))).orElse fun _ =>
    (err 5 (firstBad ps fun x => (setBits 16 x.2.pred).any fun q =>
      decide (x.1 ≤ q) || decide ((pl.phases.getD q {}).cls = 0))).orElse fun _ =>
    (err 6 (firstBad ps fun x => x.2.timed &&
      (decide (pl.period < x.2.stop) || (decide (x.2.cls = 1) && decide (x.2.budget < x.2.allow))))).orElse fun _ =>
    (err 7 (Plan.alignCheck ps)).orElse fun _ =>
    (err 8 (firstPair ps fun p q =>
      (decide (p.2.cls = 3) || decide (q.2.cls = 3)) && p.2.engines &&& q.2.engines != 0)).orElse fun _ =>
    (err 9 (firstPair ps fun p q => p.2.timed && q.2.timed && decide (p.2.start ≤ q.2.stop) &&
      decide (q.2.start ≤ p.2.stop) && !(decide (p.1 ∈ pl.before q.1)) && !(decide (q.1 ∈ pl.before p.1)) &&
      p.2.engines &&& q.2.engines != 0)).orElse fun _ =>
    (err 0x0A (rateCheck ps)).orElse fun _ =>
    err 0x0B (firstBad ps fun x => !((limits x.2.part).admitsPhase x.2))

/-! ### Loading a plan -/

/-- The limits of partition p. -/
def State.limits (s : State) (p : Nat) : PartLimits := tabGet (fun _ => {}) s.parts p

/-- PLAN_SWAP: the copy and its checks (R40, R42). A copy that cannot be read fails check 0x01 (assumption log 22). DESIGN CHOICES
(assumption log 69): of a record whose PHASE_COUNT is above 16 the copy takes PHASE_COUNT mod 17 entries, and a second PLAN_SWAP while
a checked plan is pending replaces it and counts its 100 µs anew. -/
def State.planSwap (s : State) : State :=
  let a := s.rd Reg.tckPlanBase
  let readable := (s.memFault a 64).isNone && (s.memFault a (64 * (s.loadNat (a + 2) 1 % 17 + 1))).isNone
  let bs := if readable then s.load a (64 * (s.loadNat (a + 2) 1 % 17 + 1)) else []
  let verdict := if !readable then some (1, 0) else planCheck bs (s.tick.plan.map (·.seq)) s.limits
  match verdict with
  | none =>
    ({ s with tick := { s.tick with pending := some (planOf bs), pendingAt := s.now } }).setBit Reg.tckStatus 4 true
  | some (code, p) =>
    let s := s.wr Reg.tckPlanCheck (code + p * 2 ^ 8 + leField bs 8 4 * 2 ^ 32)
    postFault (s.event Reg.tckIntStatus 7)
      { code := F.planCheck, cls := Class.info, block := Blk.tck, payload := defaultPayload a (code + p * 2 ^ 8) 0 0 0 }

/-- The state a phase shows at the start of a tick (R44, R45). -/
def PhaseDef.first (d : PhaseDef) : PhState := if d.timed then .idle else .disabled

/-- The run of phase p at the start of the tick that begins now. -/
def Plan.freshRun (pl : Plan) (origin count p : Nat) : PhaseRun :=
  { state := (pl.phases.getD p {}).first, tick := count, origin := origin }

/-- The phases still running end FAULTED: those that are LATE or whose aborted macro-ops have not all ended. -/
def State.endRunning (s : State) (late : Bool) : State :=
  (List.range 16).foldl (fun s p =>
    if (s.run p).ending ∨ (late ∧ (s.run p).state = .late) then s.finishPhase p .faulted else s) s

/-- A checked plan becomes active (R40). Phases of the old plan that are still LATE become FAULTED. -/
def State.activatePlan (s : State) : State :=
  match s.tick.pending with
  | none => s
  | some pl =>
    let s := s.endRunning true
    let s := { s with tick := { s.tick with
      plan := some pl, pending := none
      runs := (List.range 16).map (pl.freshRun s.tick.boundary (s.rd Reg.tckCount)) } }
    let s := ((s.setBit Reg.tckStatus 4 false).setFld Reg.tckStatus 47 16 pl.seq).wr Reg.tckPeriod pl.period
    (s.event Reg.tckIntStatus 6).clipBuckets

/-! ### Sources and boundaries -/

/-- The period of the active plan in cycles. -/
def State.period (s : State) : Nat := us (match s.tick.plan with
  | some p => p.period
  | none => 0)

/-- PTP time in ns at a cycle. -/
def State.ptpAt (s : State) (c : Nat) : Int := (c * 10 / 11 : Nat) + s.ptp.offset

/-- The first cycle at or after c at which PTP time in µs is congruent to TCK_ALIGN_OFS modulo the period (R26). -/
def State.alignedFrom (s : State) (c : Nat) : Nat :=
  let per : Int := (max s.period 1100 / 1100 : Nat)
  let ns := s.ptpAt c
  let k := (ns - (s.fld Reg.tckAlignOfs 23 0 * 1000 : Nat) + per * 1000 - 1) / (per * 1000)
  let target := k * per * 1000 + (s.fld Reg.tckAlignOfs 23 0 * 1000 : Nat) - s.ptp.offset
  (target.toNat * 11 + 9) / 10

/-- Source s.SRC is available: PTP has sent a Sync within 3 s, or a tick packet has come within a period and 1 ms
(R27). The local source, and the fabric master's own, always is. -/
def State.sourceHere (s : State) (src : Nat) : Bool :=
  if src = 1 then decide (0 < s.tick.heardPtp) && decide (s.now < s.tick.heardPtp - 1 + us 3000000)
  else if src = 2 ∧ bit (s.rd Reg.tckCtrl) 3 = false then
    decide (0 < s.tick.heardFab) && decide (s.now < s.tick.heardFab - 1 + s.period + us 1000)
  else true

/-- Whether the timeline follows its source now. -/
def State.following (s : State) : Bool := s.tick.lostAt.isNone && !s.tick.stayLocal

/-- The first boundary of a timeline that is placed now (R41; R29 for a gap tick). -/
def State.firstBoundary (s : State) (src : Nat) : Option Nat :=
  if s.sourceHere src = false then some (s.now + us 10)
  else if src = 1 then some (s.alignedFrom (s.now + us 10))
  else if src = 2 ∧ bit (s.rd Reg.tckCtrl) 3 = false then none
  else some (s.now + us 10)

/-- A source that is not there when a timeline is placed counts as lost from then (R41, R27). -/
def State.lostIfAway (s : State) (src : Nat) : State :=
  if s.sourceHere src then
    ({ s with tick := { s.tick with lostAt := none, limitPassed := false, stayLocal := false } }).setBit Reg.tckStatus 3 false
  else
    (({ s with tick := { s.tick with lostAt := some s.now, limitPassed := false, stayLocal := false } }).setBit
      Reg.tckStatus 3 true).event Reg.tckIntStatus 4

/-- Places the timeline of source src now. -/
def State.placeTimeline (s : State) (src : Nat) : State :=
  let s := { s with tick := { s.tick with next := s.firstBoundary src, corr := 0 } }
  (s.setFld Reg.tckStatus 1 0 src).lostIfAway src

/-- Limits a correction to 100 ppm of the period (R26). -/
def State.limitCorr (s : State) (c : Int) : Int :=
  let m : Int := (s.period / 10000 : Nat)
  min (max c (-m)) m

/-- Where the boundary after b falls: a period later, corrected towards PTP when the timeline follows it; in holdover the
last correction stays (R26, R27). -/
def State.nextBoundary (s : State) (b : Nat) : Nat × Int :=
  let nominal := b + s.period
  let src := s.fld Reg.tckStatus 1 0
  let corr : Int :=
    if src = 0 then 0
    else if s.following ∧ src = 1 then
      -- the aligned instant nearest to the nominal one
      let t := s.alignedFrom (nominal - s.period / 2)
      s.limitCorr ((t : Int) - nominal)
    else s.limitCorr s.tick.corr
  (((nominal : Int) + corr).toNat, corr)

/-- Offset of the tick timeline from PTP at boundary b, in ns (TCK_PTP_OFFSET). -/
def State.ptpError (s : State) (b : Nat) : Int :=
  s.ptpAt b - s.ptpAt (s.alignedFrom (b - s.period / 2))

/-- LOCKED follows the offset from the source: within 1 µs (TCK_STATUS). -/
def State.setLocked (s : State) (b : Nat) : State :=
  let src := s.fld Reg.tckStatus 1 0
  let near := s.following && (decide (src ≠ 1) || decide ((s.ptpError b).natAbs ≤ 1000))
  let was := bit (s.rd Reg.tckStatus) 2
  let s := s.setBit Reg.tckStatus 2 near
  if near && !was then s.event Reg.tckIntStatus 5 else s

/-! ### Deadlines and budget ends -/

/-- The bits of the F_TICK_DEADLINE payload (R49). -/
def State.deadlinePayload (s : State) (p tick cause : Nat) (started : Option Nat) (done : Nat)
    (ops : List (Nat × Nat × OpenOp)) : Nat :=
  let d := s.phaseDef p
  tick + p * 2 ^ 64 + d.name % 256 * 2 ^ 68 + cause * 2 ^ 76 + b2n (bit d.flags 0) * 2 ^ 78 + d.deadline % 2 ^ 24 * 2 ^ 80 +
    started.getD 0xFFFFFF % 2 ^ 24 * 2 ^ 104 + done % 2 ^ 32 * 2 ^ 128 + ops.length % 2 ^ 16 * 2 ^ 160 +
    (ops.map (·.1)).foldl min 0xFF * 2 ^ 176

/-- The record of F_TICK_DEADLINE for phase p (R49). -/
def State.deadlineRec (s : State) (p tick cause : Nat) (started : Option Nat) (done : Nat)
    (ops : List (Nat × Nat × OpenOp)) : FaultRec :=
  { code := F.tickDeadline, cls := Class.contained, block := Blk.tck, unit := p, part := (s.phaseDef p).part,
    payload := s.deadlinePayload p tick cause started done ops }

/-- A missed deadline of phase p is counted, and DEADLINE is set (R35). -/
def State.countDeadline (s : State) (p : Nat) : State := (s.bump (Reg.tckPhCount p) 63 32 1).event Reg.tckIntStatus 2

/-- An abort request reaches every open macro-op of phase p (R46, R33, R182). Those of a context in Hatch, which stand at a step
boundary, end there at once (R381). -/
def State.abortPhase (s : State) (p : Nat) : State :=
  s.ctxs.foldl (fun s y =>
    let e := y.1 / 16
    let k := y.1 % 16
    let mine := fun (o : OpenOp) => decide (o.phase = some p)
    if !((s.ctxQueue e k).ops.any mine) then s
    else if (s.ctx e k).place = .resident then
      let x := s.queue e (s.ctx e k).slot
      (s.setQueue e (s.ctx e k).slot (x.abortOps mine)).dropSaved e k
    else s.abortInHatch e k mine ⟨0, 0, 0⟩) s

/-- What the deadline of phase p does, and the record that it posts (R36, R39, R46, R47). An ALIGN phase that never started has the
cause NOT_STARTED (DESIGN CHOICE: R36 and R39 each name a cause; assumption log 21). -/
def State.missDeadline (s : State) (p : Nat) : State × List FaultRec :=
  let r := s.run p
  let d := s.phaseDef p
  match r.state with
  | .idle => ((s.countDeadline p).finishPhase p .faulted, [s.deadlineRec p r.tick 1 none 0 []])
  | .waiting => ((s.countDeadline p).finishPhase p .faulted, [s.deadlineRec p r.tick 1 none 0 []])
  | .late =>
    -- the instance of a later tick, which never started
    if r.missed then (s, []) else
    ((s.countDeadline p).setRun p { r with missed := true }, [s.deadlineRec p (s.rd Reg.tckCount) 1 none 0 []])
  | _ =>
    if !r.state.active ∨ r.ending then (s, []) else
    let ops := s.phaseOps p
    let f := s.deadlineRec p r.tick (if d.name = 1 then 2 else 0) r.started r.committed ops
    let s := s.countDeadline p
    (if bit d.flags 0 then s.setRun p { r with state := .late }
     else if ops.isEmpty then s.finishPhase p .faulted
     else (s.setRun p { r with ending := true, owed := ops.map fun x => (x.1, x.2.1, x.2.2.issue) }).abortPhase p, [f])

/-- The deadline of phase p (R36, R39, R46, R47). -/
def State.deadline (s : State) (p : Nat) : State :=
  let (s, fs) := s.missDeadline p
  fs.foldl postFault s

/-- Phase p's deadline has been reached: of its own tick, or of the present one for a carried LATE phase. -/
def State.deadlineDue (s : State) (p t : Nat) : Bool :=
  let r := s.run p
  let o := if r.state = .late then s.tick.boundary else r.origin
  s.tick.placed && !s.tick.gap && decide ((s.phaseDef p).cls = 1) && decide (o + us (s.phaseDef p).deadline ≤ t) &&
    (decide (r.state ≠ .late) || decide (r.origin ≠ s.tick.boundary))

/-- The budget end of phase p (R33, R37, R44). -/
def State.budgetEnd (s : State) (p : Nat) : State :=
  let r := s.run p
  let d := s.phaseDef p
  if d.cls = 2 then
    (if r.state = .idle ∨ r.state = .waiting ∨ r.state = .running then
      let s := (s.event Reg.tckIntStatus 3).setRun p { r with state := .truncated, ended := some d.budgetEnd }
      let s := (s.writePhTime p).clipBuckets
      if r.state = .running then s.abortPhase p else s
    else s)
  else if r.state = .running then s.setRun p { r with state := .overrun }
  else s

/-- Phase p's budget end has been reached. -/
def State.budgetDue (s : State) (p t : Nat) : Bool :=
  s.tick.placed && !s.tick.gap && (s.phaseDef p).timed && decide ((s.run p).origin + us (s.phaseDef p).budgetEnd ≤ t)

/-! ### Phase starts -/

/-- Engine e is still held by another phase that was LATE when this tick began: such a phase binds its engines until it ends
(R45, R373). -/
def State.heldByLate (s : State) (p e : Nat) : Bool :=
  (List.range 16).any fun q =>
    decide (q ≠ p) && decide ((s.run q).state = .late) && decide ((s.run q).origin ≠ (s.run p).origin) &&
      (s.phaseDef q).engines.testBit e

/-- Every phase named in PRED is final, and no LATE phase of an earlier tick holds an engine of phase p (R34, R45). -/
def State.mayStart (s : State) (p : Nat) : Bool :=
  let d := s.phaseDef p
  (setBits 16 d.pred).all (fun q => (s.run q).state.final) && !((setBits 96 d.engines).any (s.heldByLate p ·))

/-- Phase p's start offset is reached in a running tick. -/
def State.startDue (s : State) (p t : Nat) : Bool :=
  let d := s.phaseDef p
  let r := s.run p
  s.tick.on && s.tick.placed && !s.tick.gap && d.timed && decide (r.state = .idle ∨ r.state = .waiting) &&
    decide (r.origin + us d.start ≤ t) &&
    decide (t < r.origin + us (if d.cls = 1 then d.deadline else d.budgetEnd))

/-- Phase p starts, or waits for its predecessors (R34, R44). A phase that starts past its budget end is OVERRUN. -/
def State.startPhase (s : State) (p : Nat) : State :=
  let r := s.run p
  let d := s.phaseDef p
  if s.mayStart p then
    let st := if r.origin + us d.budgetEnd < s.now then PhState.overrun else .running
    (s.setRun p { r with state := st, started := some (s.usSince r.origin) }).ratesChange
  else s.setRun p { r with state := .waiting }

/-! ### Slack (R52, R54) -/

/-- Insertion into a list of spans ordered by start. -/
def insertSpan (x : Nat × Nat) : List (Nat × Nat) → List (Nat × Nat)
  | [] => [x]
  | y :: ys => if x.1 ≤ y.1 then x :: y :: ys else y :: insertSpan x ys

/-- The gaps of [a, stop) left by spans ordered by start. -/
def gaps (stop : Nat) : Nat → List (Nat × Nat) → List (Nat × Nat)
  | a, [] => if a < stop then [(a, stop - a)] else []
  | a, (b, c) :: r =>
    (if a < min b stop then [(a, min b stop - a)] else []) ++ gaps stop (max a c) r

/-- The spans a phase occupies: its interval, less the time from its early end to the start of its first successor that is not
DISABLED (R33, R520). A phase that has ended before its start offset occupies nothing before that successor. -/
def State.occupied (s : State) (p : Nat) (early : Bool) : List (Nat × Nat) :=
  let d := s.phaseDef p
  let r := s.run p
  if !d.timed || (decide (d.cls = 2) && bit d.flags 1) then [] else
  let whole := [(d.start, d.stop)]
  match early, r.state.final, r.ended with
  | true, true, some e =>
    let succ := ((List.range 16).filter fun q => decide ((s.phaseDef q).cls ≠ 0) && (s.phaseDef q).pred.testBit p &&
      decide (e < (s.phaseDef q).start)).map fun q => (s.phaseDef q).start
    (match succ with
     | [] => whole
     | b :: bs =>
       let free := max (min (bs.foldl min b) d.stop) d.start
       if e < d.stop then (if d.start < e then [(d.start, e)] else []) ++ [(free, d.stop)] else whole)
  | _, _, _ => whole

/-- The slack windows of the tick: start and length in µs. `early` takes in what phases that ended early leave free. -/
def State.slackWindows (s : State) (early : Bool) : List (Nat × Nat) :=
  let occ := ((List.range 16).flatMap (s.occupied · early)).foldl (fun a x => insertSpan x a) []
  gaps (s.period / 1100) 0 occ

/-- TCK_NEXT_SLACK: the first window of the plan that starts at or after now, else the first of the next tick. -/
def State.nextSlack (s : State) : Nat :=
  let ws := s.slackWindows false
  match s.tick.plan, ws with
  | some _, w :: _ =>
    let x := (ws.find? fun x => decide (s.usSince s.tick.boundary ≤ x.1)).getD w
    x.1 % 2 ^ 24 + x.2 % 2 ^ 24 * 2 ^ 24
  | _, _ => 0

/-- Cycles left of the window that now lies in. -/
def State.slackLeft (s : State) : Nat :=
  let t := s.now - s.tick.boundary
  match (s.slackWindows true).find? fun x => decide (us x.1 ≤ t) && decide (t < us (x.1 + x.2)) with
  | some x => us (x.1 + x.2) - t
  | none => 0

/-- A background item of d µs fits the window that now lies in: at least d + 10 µs of it remain (R52). -/
def State.slackFits (s : State) (d : Nat) : Bool := s.tick.on && s.tick.placed && decide (us (d + 10) ≤ s.slackLeft)

/-- A background item is deferred to the next window, and the deferral is counted (R52). -/
def State.deferItem (s : State) : State := (s.bump Reg.tckBgDefer 31 0 1).event Reg.tckIntStatus 8

/-- A background item of d µs uses its window (R54). -/
def State.useSlack (s : State) (d : Nat) : State := { s with tick := { s.tick with bgUsed := s.tick.bgUsed + d } }

/-- Aborts the open macro-ops of BG_YIELD phases on an engine (R52). -/
def State.yieldEngine (s : State) (e : Nat) : State :=
  let bg := (List.range 16).filter fun p => bit (s.phaseDef p).flags 1 && decide ((s.phaseDef p).cls = 2)
  (List.range 4).foldl (fun s q =>
    let x := s.queue e q
    s.setQueue e q { x with ops := x.ops.map fun o =>
      match o.phase with
      | some p => if p ∈ bg then { o with abort := true } else o
      | none => o }) s

/-- A background item of d µs that takes the named engines: admitted, or deferred and counted (R52, R53). -/
def State.admitBackground (s : State) (d : Nat) (engines : List Nat) : State :=
  if s.slackFits d then engines.foldl (fun s e => s.yieldEngine e) (s.useSlack d) else s.deferItem

/-! ### The boundary -/

/-- What the ending tick still owes at its boundary: deadlines and budget ends that have been reached, and the records of these
deadlines, which follow the boundary (R45, R50). A phase whose aborted macro-ops are still open becomes FAULTED at once (DESIGN
CHOICE: the spec does not say how such a phase passes the boundary; assumption log 21). -/
def State.closeTick (s : State) (b : Nat) : State × List FaultRec :=
  let (s, fs) := (List.range 16).foldl (fun (a : State × List FaultRec) p =>
    if a.1.deadlineDue p b then ((a.1.missDeadline p).1, a.2 ++ (a.1.missDeadline p).2) else a) (s, [])
  let s := (List.range 16).foldl (fun s p => if s.budgetDue p b then s.budgetEnd p else s) s
  let s := s.endRunning false
  (if s.tick.placed ∧ !s.tick.gap then
     s.wr Reg.tckSlackLast ((((s.slackWindows true).map (·.2)).foldl (· + ·) 0) % 2 ^ 24 + s.tick.bgUsed % 2 ^ 24 * 2 ^ 24)
   else s, fs)

/-- The phases return to IDLE; LATE ones keep their state (R45). So does a phase still running whose deadline lies after a boundary
that slewing has brought forward: no fault is raised for it (DESIGN CHOICE: the spec does not say; assumption log 21). -/
def State.restartPhases (s : State) (b : Nat) : State :=
  match s.tick.plan with
  | none => s
  | some pl =>
    let runs := (List.range 16).map fun p =>
      if (s.run p).state = .late then { s.run p with missed := false } else pl.freshRun b (s.rd Reg.tckCount) p
    ({ s with tick := { s.tick with runs := runs } }).clipBuckets

/-- The boundary at cycle b of a tick that counts (R45, R507). -/
def State.beginTick (s : State) (b : Nat) : State :=
  let s := if s.tick.placed then s.wr Reg.tckCount (s.rd Reg.tckCount + 1) else s.wr Reg.tckCount 0
  let s := { s with tick := { s.tick with boundary := b, placed := true, gap := false, bgUsed := 0 } }
  let s := s.setLocked b
  let (n, corr) := s.nextBoundary b
  let s := { s with tick := { s.tick with next := some n, corr := corr } }
  let s := if s.ptp.everLocked then s.wr Reg.tckPtpOffset (ofSigned 64 (s.ptpError b)) else s
  let s := s.wr Reg.tckStartPtp (if s.fld Reg.tckStatus 1 0 = 0 then 0 else (s.ptpAt b).toNat)
  let s := s.event Reg.tckIntStatus 0
  let s := if bit (s.rd Reg.tckCtrl) 4 then { s with tick := { s.tick with outHigh := some b } } else s
  s.restartPhases b

/-- The boundary at cycle b from which a gap tick runs: no phase starts and TCK_COUNT stays (R29, R507). -/
def State.beginGap (s : State) (b : Nat) : State :=
  let src := s.tick.srcReq.getD (s.fld Reg.tckStatus 1 0)
  let s := { s with tick := { s.tick with boundary := b, gap := true, srcReq := none, realign := false } }
  (s.restartPhases b).placeTimeline src

/-- A pending plan becomes active at a boundary at least 100 µs after its request (R40). -/
def State.activateDue (s : State) (b : Nat) : State :=
  if s.tick.pending.isSome ∧ s.tick.pendingAt + us 100 ≤ b then s.activatePlan else s

/-- The ticks stop at a boundary (TCK_CTRL.ENABLE). -/
def State.stopTicks (s : State) : State :=
  { s with tick := { s.tick with on := false, placed := false, next := none, gap := false } }

/-- What begins at the boundary at cycle b: nothing when the ticks stop, a gap tick, or a tick (R29, R41, R45). -/
def State.beginAt (s : State) (b : Nat) : State :=
  if bit (s.rd Reg.tckCtrl) 0 = false then s.stopTicks
  else if !s.tick.gap ∧ s.tick.placed ∧ (s.tick.srcReq.isSome ∨ s.tick.realign) then s.beginGap b
  else s.beginTick b

/-- The tick boundary: the old tick closes, a pending plan becomes active, what follows begins, and the deadlines that fall on the
boundary post their records after it (R29, R40, R41, R45, R50). -/
def State.tickBoundary (s : State) (b : Nat) : State :=
  let (s, fs) := s.closeTick b
  fs.foldl postFault ((s.activateDue b).beginAt b)

/-- When TICK_OUT falls: after its width, or 1 µs before the next boundary (R507). -/
def State.tickOutFalls (s : State) (b : Nat) : Nat :=
  let w := b + us (s.fld Reg.tckTickOutWidth 15 0)
  match s.tick.next with
  | some n => if n ≤ w then n - us 1 else w
  | none => w

/-! ### Sources -/

/-- The cycle from which the selected source counts as lost (R27). -/
def State.lostFrom (s : State) : Option Nat :=
  let src := s.fld Reg.tckStatus 1 0
  if src = 1 then some (s.tick.heardPtp - 1 + us 3000000)
  else if src = 2 ∧ bit (s.rd Reg.tckCtrl) 3 = false then some (s.tick.heardFab - 1 + s.period + us 1000)
  else none

/-- The next boundary of a timeline whose source is lost: the local timer places it, also where a receiving module still awaits its
first packet: 10 µs from now, as under the local source, or a period after the boundary that began a gap tick (R27, R41; assumption
log 29). -/
def State.localNext (s : State) : Option Nat :=
  match s.tick.next with
  | some n => some n
  | none => some (if s.tick.gap then max (s.tick.boundary + s.period) (s.now + us 10) else s.now + us 10)

/-- The selected source is lost: holdover on the local timer (R27). -/
def State.sourceLost (s : State) : State :=
  let s := { s with tick := { s.tick with lostAt := some s.now, limitPassed := false, next := s.localNext } }
  ((s.setBit Reg.tckStatus 3 true).setBit Reg.tckStatus 2 false).event Reg.tckIntStatus 4

/-- F_TICK_SOURCE. -/
def State.raiseTickSource (s : State) : State :=
  postFault s { code := F.tickSource, cls := Class.degraded, block := Blk.tck }

/-- A lost source returns with an offset in ns (R28). -/
def State.sourceReturn (s : State) (offset : Int) : State :=
  if offset.natAbs ≤ 10000000 then
    let s := { s with tick := { s.tick with lostAt := none, limitPassed := false } }
    ((s.setBit Reg.tckStatus 3 false).setBit Reg.tckStatus 2 (decide (offset.natAbs ≤ 1000))).event Reg.tckIntStatus 5
  else
    ({ s with tick := { s.tick with stayLocal := true } }).raiseTickSource

/-! ### The order of a cycle (R50) -/

/-- The deadlines of phases below n that have been reached, in ascending index. -/
def State.deadlinesDue (s : State) (n : Nat) : State :=
  (List.range n).foldl (fun s p => if s.deadlineDue p s.now then s.deadline p else s) s

/-- The budget ends that have been reached. -/
def State.budgetsDue (s : State) : State :=
  (List.range 16).foldl (fun s p => if s.budgetDue p s.now then s.budgetEnd p else s) s

/-- The phase starts that are due. -/
def State.startsDue (s : State) : State :=
  (List.range 16).foldl (fun s p => if s.startDue p s.now then s.startPhase p else s) s

/-- What the tick block does in a cycle after the boundary and before the scheduler decides (R50, R51). -/
def State.tickDue (s : State) : State := ((s.deadlinesDue 16).budgetsDue).startsDue

/-! ### Register writes (R29, R38, R40, R41) -/

/-- A write of TCK_CTRL. ENABLE without an active plan is dropped with F_REG_ACCESS (R41). -/
def State.writeTckCtrl (s : State) (v : Nat) : State :=
  let old := s.rd Reg.tckCtrl
  if bit v 0 ∧ s.tick.plan.isNone then s.regAccess Reg.tckCtrl else
  let s := s.wr Reg.tckCtrl (v % 32)
  let src := bits v 2 1
  let starting := bit v 0 && !s.tick.on
  let s := if src ≠ bits old 2 1 ∧ s.tick.on then { s with tick := { s.tick with srcReq := some src } } else s
  let s := if bit v 6 ∧ s.tick.on then { s with tick := { s.tick with realign := true } } else s
  let s := if starting then
      ({ s with tick := { s.tick with on := true, placed := false, gap := false, srcReq := none, realign := false } }).placeTimeline
        src
    else s
  if bit v 5 then s.planSwap else s

/-- A write of TCK_PHASE_SKIP: the named phases that have not started end SKIPPED (R38). -/
def State.writePhaseSkip (s : State) (v : Nat) : State :=
  (setBits 16 v).foldl (fun s p =>
    if s.tick.placed ∧ ((s.run p).state = .idle ∨ (s.run p).state = .waiting) then s.finishPhase p .skipped else s) s

/-! ### Meanings -/

/-- SOURCE_LOST (R27). -/
def execSourceLost (t : Nat) (s : State) : Host.Outcome State Fault Refusal :=
  let s := s.advance t
  if s.stopped then .next s else
  .next (match s.lostFrom with
    | some c => if s.tick.on ∧ s.tick.lostAt = none ∧ c ≤ s.now then s.sourceLost else s
    | none => s)

/-- HOLDOVER_LIMIT_EXPIRY (R27). -/
def execHoldoverLimitExpiry (t : Nat) (s : State) : Host.Outcome State Fault Refusal :=
  let s := s.advance t
  if s.stopped then .next s else
  .next (match s.tick.lostAt with
    | some c =>
      if s.tick.on ∧ !s.tick.limitPassed ∧ c + us (s.fld Reg.tckHoldoverLimit 15 0 * 1000000) ≤ s.now then
        ({ s with tick := { s.tick with limitPassed := true } }).raiseTickSource
      else s
    | none => s)

/-- SOURCE_RETURN (R28). -/
def execSourceReturn (t : Nat) (offset : Int) (s : State) : Host.Outcome State Fault Refusal :=
  let s := s.advance t
  if s.stopped then .next s else
  .next (if s.tick.on ∧ s.tick.lostAt.isSome ∧ !s.tick.stayLocal ∧ s.sourceHere (s.fld Reg.tckStatus 1 0) = true
    then s.sourceReturn offset else s)

/-- BACKGROUND_ADMIT (R52). -/
def execBackgroundAdmit (t d : Nat) (engines : List (Fin 96)) (s : State) : Host.Outcome State Fault Refusal :=
  .next (s.live t fun s => s.admitBackground d (engines.map (·.val)))

/-- TICK_OUT_END (R507). -/
def execTickOutEnd (t : Nat) (s : State) : Host.Outcome State Fault Refusal :=
  let s := s.advance t
  if s.stopped then .next s else
  .next (match s.tick.outHigh with
    | some b => if s.tickOutFalls b ≤ s.now then { s with tick := { s.tick with outHigh := none } } else s
    | none => s)

end Sys2Proof.Machine
end

