-- ==== Sys2Proof/Machine/IngCfg.lean ====
section
/-! DEFINITION. The ingest configuration: its layout, its checks in the manual's order, and its loading (R324 to R330). The
configuration is kept as its bytes; the functions here name its fields. -/

namespace Sys2Proof.Machine

/-! ### Layout (R324 to R328, R362) -/

/-- Counts of the header. -/
def cfgMeas (c : List Byte) : Nat := leField c 2 2
def cfgVid (c : List Byte) : Nat := leField c 4 2
def cfgGroups (c : List Byte) : Nat := leField c 6 2
def cfgSeq (c : List Byte) : Nat := leField c 8 4
def cfgGrid (c : List Byte) : Nat := leField c 16 4
def cfgCutoff (c : List Byte) : Nat := leField c 20 4
def cfgMcast (c : List Byte) : Nat := leField c 24 1
def cfgPubs (c : List Byte) : Nat := leField c 25 1
/-- WIN_DA0 or WIN_DA1, by the parity of the window. -/
def cfgWinDa (c : List Byte) (k : Nat) : Nat := leField c (32 + 8 * (k % 2)) 8

/-- Where the sections start. -/
def cfgMcastAt : Nat := 64 + 4 * 64
def cfgMeasAt (c : List Byte) : Nat := cfgMcastAt + 16 * cfgMcast c
def cfgVidAt (c : List Byte) : Nat := cfgMeasAt c + 64 * cfgMeas c
def cfgGroupAt (c : List Byte) : Nat := cfgVidAt c + 64 * cfgVid c
def cfgPubAt (c : List Byte) : Nat := cfgGroupAt c + 64 * cfgGroups c
/-- The configuration's length. -/
def cfgLength (c : List Byte) : Nat := cfgPubAt c + 64 * cfgPubs c

/-- The entries of a section. -/
def cfgEntries (c : List Byte) (start n : Nat) : List (List Byte) :=
  (List.range n).map fun i => fieldBytes c (start + 64 * i) 64
def cfgPort (c : List Byte) (n : Nat) : List Byte := fieldBytes c (64 + 64 * n) 64
def cfgMeasList (c : List Byte) : List (List Byte) := cfgEntries c (cfgMeasAt c) (cfgMeas c)
def cfgVidList (c : List Byte) : List (List Byte) := cfgEntries c (cfgVidAt c) (cfgVid c)
def cfgGroupList (c : List Byte) : List (List Byte) := cfgEntries c (cfgGroupAt c) (cfgGroups c)
def cfgPubList (c : List Byte) : List (List Byte) := cfgEntries c (cfgPubAt c) (cfgPubs c)

/-- STREAM of a measurement or video entry. -/
def entStream (b : List Byte) : Nat := leField b 0 2

namespace MeasEnt
def idcode (b : List Byte) : Nat := leField b 2 2
def src (b : List Byte) : List Byte := fieldBytes b 4 16
def port (b : List Byte) : Nat := leField b 20 2
def ports (b : List Byte) : Nat := leField b 22 1
def fromImage (b : List Byte) : Bool := bit (leField b 23 1) 0
def polar (b : List Byte) : Bool := bit (leField b 23 1) 1
def pulse (b : List Byte) : Bool := bit (leField b 23 1) 2
def tqMax (b : List Byte) : Nat := bits (leField b 23 1) 6 3
def chBase (b : List Byte) : Nat := leField b 24 4
def chCount (b : List Byte) : Nat := leField b 28 4
def cfgDa (b : List Byte) : Nat := leField b 32 8
def engine (b : List Byte) : Nat := leField b 40 1
def queue (b : List Byte) : Nat := leField b 41 1
def fmt (b : List Byte) : Nat := leField b 42 1
def k (b : List Byte) : Nat := leField b 44 2
def m (b : List Byte) : Nat := leField b 46 2
def base (b : List Byte) : Nat := leField b 48 4
def stride (b : List Byte) : Nat := leField b 52 4
def first (b : List Byte) : Nat := leField b 56 4
end MeasEnt

namespace VidEnt
def src (b : List Byte) : List Byte := fieldBytes b 2 16
def port (b : List Byte) : Nat := leField b 18 2
def ports (b : List Byte) : Nat := leField b 20 1
def codec (b : List Byte) : Nat := leField b 21 1
def pt (b : List Byte) : Nat := leField b 22 1
def maxLevel (b : List Byte) : Nat := leField b 23 1
def maxW (b : List Byte) : Nat := leField b 24 2
def maxH (b : List Byte) : Nat := leField b 26 2
def maxRefs (b : List Byte) : Nat := leField b 28 1
def wdMult (b : List Byte) : Nat := if leField b 29 1 = 0 then 4 else leField b 29 1
def slots (b : List Byte) : Nat := leField b 30 2
def maxPic (b : List Byte) : Nat := leField b 32 4
def maxFps (b : List Byte) : Nat := leField b 36 2
def fillConst (b : List Byte) : Bool := bit (leField b 38 1) 0
def staleMs (b : List Byte) : Nat := leField b 42 2
def latUs (b : List Byte) : Nat := leField b 44 4
def region (b : List Byte) : Nat := leField b 48 8
/-- Row pitch, with one byte a sample (assumption log 60). -/
def pitch (b : List Byte) : Nat := ceilDiv (maxW b) 64 * 64
/-- Bytes of a slot (R344). -/
def slotBytes (b : List Byte) : Nat := pitch b * maxH b * 3 / 2
def slotDa (b : List Byte) (i : Nat) : Nat := region b + i * slotBytes b
def codedDa (b : List Byte) (i : Nat) : Nat := region b + slots b * slotBytes b + i % 8 * maxPic b
end VidEnt

namespace GrpEnt
def first (b : List Byte) : Nat := leField b 0 4
def count (b : List Byte) : Nat := leField b 4 4
def outDa (b : List Byte) (k : Nat) : Nat := leField b (8 + 8 * (k % 2)) 8
def stride (b : List Byte) : Nat := leField b 24 4
def fmt (b : List Byte) : Fmt := if leField b 28 1 = 0 then .fp32 else .bf16
def linear (b : List Byte) : Bool := bit (leField b 29 1) 0
def fillConst (b : List Byte) : Bool := bit (leField b 29 1) 1
def const (b : List Byte) : W32 := BitVec.ofNat 32 (leField b 32 4)
def staleUs (b : List Byte) : Nat := leField b 36 4
/-- Bytes of a mask row, MS (R355). -/
def maskRow (b : List Byte) : Nat := ceilDiv (count b) 512 * 64
end GrpEnt

namespace PortEnt
def mac (b : List Byte) : Nat := beField b 0 6
def vid (b : List Byte) : Nat := leField b 6 2
def ipv4 (b : List Byte) : List Byte := fieldBytes b 8 4
def ipv6 (b : List Byte) : List Byte := fieldBytes b 12 16
def mtu (b : List Byte) : Nat := leField b 28 2
def on (b : List Byte) : Bool := bit (leField b 30 1) 0
end PortEnt

/-! ### The codecs' levels -/

/-- The largest luma picture of a level that R342 admits, by codec and level code, as the codecs' standards define it
(assumption log 61). -/
def levelArea (codec level : Nat) : Option Nat :=
  let mbs : List (Nat × Nat) := [(9, 99), (10, 99), (11, 396), (12, 396), (13, 396), (20, 396), (21, 792), (22, 1620),
    (30, 1620), (31, 3600), (32, 5120), (40, 8192), (41, 8192), (42, 8704), (50, 22080), (51, 36864), (52, 36864)]
  let hevc : List (Nat × Nat) := [(30, 36864), (60, 122880), (63, 245760), (90, 552960), (93, 983040), (120, 2228224),
    (123, 2228224), (150, 8912896), (153, 8912896), (156, 8912896), (180, 35651584), (183, 35651584)]
  let av1 : List (Nat × Nat) := [(0, 147456), (1, 278784), (4, 665856), (5, 1065024), (8, 2359296), (9, 2359296),
    (12, 8912896), (13, 8912896), (14, 8912896), (15, 8912896), (16, 35651584)]
  match codec with
  | 0 => (mbs.lookup level).map (256 * ·)
  | 1 => hevc.lookup level
  | 2 => av1.lookup level
  | _ => if level = 0 then some (8192 * 8192) else none

/-! ### Checks (R329) -/

/-- Index of the first entry that a test finds bad. -/
def badEntry (xs : List (List Byte)) (bad : List Byte → Bool) : Option Nat := xs.findIdx? bad

/-- Index of the first entry that fails against an earlier one. -/
def badPair (xs : List (List Byte)) (bad : List Byte → List Byte → Bool) : Option Nat :=
  (List.range xs.length).find? fun j => (List.range j).any fun i => bad (xs.getD i []) (xs.getD j [])

/-- Encodings, ranges and reserved fields of a measurement entry (0x02). -/
def measBad (b : List Byte) : Bool :=
  decide (0x3FFF < entStream b) || decide (15 < MeasEnt.ports b) || bit (leField b 23 1) 7 ||
  decide (2 ^ 20 ≤ MeasEnt.chBase b) || !(inRange (MeasEnt.chCount b) 1 1048576) ||
  (!MeasEnt.fromImage b && MeasEnt.cfgDa b != 0) || leField b 43 1 != 0 || leField b 60 4 != 0 ||
  (if MeasEnt.pulse b then
    decide (127 < MeasEnt.engine b) || decide (3 < MeasEnt.queue b) ||
    !(decide (MeasEnt.fmt b = 1 ∨ MeasEnt.fmt b = 3 ∨ MeasEnt.fmt b = 4)) || decide (16383 < MeasEnt.k b) ||
    !(inRange (MeasEnt.m b) 32 4096) || MeasEnt.m b % 32 != 0 || MeasEnt.base b % 64 != 0
   else leField b 40 20 != 0)

/-- The same for a video entry. -/
def vidBad (b : List Byte) : Bool :=
  let mj := decide (VidEnt.codec b = 3)
  !(inRange (entStream b) 0x4000 0x41FF) || decide (15 < VidEnt.ports b) || decide (3 < VidEnt.codec b) ||
  decide (127 < VidEnt.pt b) || (mj && (VidEnt.maxLevel b != 0 || VidEnt.maxRefs b != 0)) ||
  !(inRange (VidEnt.maxW b) 16 8192) || VidEnt.maxW b % 2 != 0 || !(inRange (VidEnt.maxH b) 16 8192) ||
  VidEnt.maxH b % 2 != 0 || (!mj && !(inRange (VidEnt.maxRefs b) 1 16)) ||
  !(inRange (VidEnt.slots b) (VidEnt.maxRefs b + 3) 1024) || !(inRange (VidEnt.maxPic b) 1024 16777216) ||
  !(inRange (VidEnt.maxFps b) 1 240) || decide (1 < leField b 38 1) || VidEnt.staleMs b == 0 ||
  VidEnt.region b % 4096 != 0 || leField b 56 8 != 0

/-- The same for a group entry. -/
def groupBad (b : List Byte) : Bool :=
  let w := if leField b 28 1 = 0 then 32 else 16
  !(inRange (GrpEnt.count b) 1 1048576) || GrpEnt.outDa b 0 % 64 != 0 || GrpEnt.outDa b 1 % 64 != 0 ||
  GrpEnt.stride b % 64 != 0 || decide (GrpEnt.stride b < ceilDiv (GrpEnt.count b * w) 512 * 64) ||
  decide (1 < leField b 28 1) || decide (3 < leField b 29 1) || leField b 30 2 != 0 || leField b 40 24 != 0

/-- The same for a port entry (0x0A). -/
def portBad (b : List Byte) : Bool :=
  decide (4094 < PortEnt.vid b) || !(inRange (PortEnt.mtu b) 1500 9000) || decide (1 < leField b 30 1) || leField b 31 33 != 0

/-- The same for a publish entry (0x0A). -/
def pubBad (c b : List Byte) : Bool :=
  decide (3 < leField b 0 1) || decide (1 < leField b 1 1) || decide (63 < leField b 28 1) || leField b 29 35 != 0 ||
  !(PortEnt.on (cfgPort c (leField b 0 1)))

/-- Whether the channels [a, a + n) and [b, b + m) share one. -/
def channelsMeet (a n b m : Nat) : Bool := decide (a < b + m) && decide (b < a + n)

/-- N for a plan that fits (0x04). -/
def cfgPoints (c : List Byte) (pl : Plan) : Option Nat :=
  let g := cfgGrid c
  if g = 0 ∨ pl.period % g ≠ 0 ∨ 65535 < pl.period / g then none
  else if pl.phases.any fun d => decide (d.cls ≠ 0) && decide (d.name = 1) && decide (cfgCutoff c < d.budget) then
    some (pl.period / g)
  else none

/-- The byte ranges that ingest writes in memory under a configuration: picture regions, group buffers, window areas
(0x08), with the index of the entry. -/
def cfgRanges (c : List Byte) (n : Nat) : List (Nat × Nat × Nat) :=
  let vid := (List.range (cfgVid c)).map fun j =>
    let b := (cfgVidList c).getD j []
    (j, VidEnt.region b, VidEnt.slots b * VidEnt.slotBytes b + 8 * VidEnt.maxPic b)
  let grp := (List.range (cfgGroups c)).flatMap fun j =>
    let b := (cfgGroupList c).getD j []
    [0, 1].map fun k => (j, GrpEnt.outDa b k, n * (GrpEnt.stride b + GrpEnt.maskRow b))
  let win := [0, 1].map fun k => (0, cfgWinDa c k, 64 + n * 64 + n * cfgVid c * 16)
  vid ++ grp ++ win

/-- Check 0x08. -/
def State.rangesBad (s : State) (c : List Byte) (n : Nat) : Option Nat :=
  let rs := cfgRanges c n
  let meets := fun (a b : Nat × Nat × Nat) => decide (a.2.1 < b.2.1 + b.2.2) && decide (b.2.1 < a.2.1 + a.2.2)
  let hatch := (0, s.rd Reg.pntHatchBase, s.rd Reg.pntHatchSize)
  let bad := (List.range rs.length).find? fun j =>
    let r := rs.getD j (0, 0, 0)
    decide (s.rd Reg.pntCap < r.2.1 + r.2.2) || meets r hatch || (rs.take j).any (meets r)
  bad.map fun j => (rs.getD j (0, 0, 0)).1

/-- Two measurement entries share their STREAM or their match key (0x05). -/
def sameMeas (a b : List Byte) : Bool :=
  decide (entStream a = entStream b) ||
    (decide (MeasEnt.src a = MeasEnt.src b) && decide (MeasEnt.port a = MeasEnt.port b) &&
      decide (MeasEnt.idcode a = MeasEnt.idcode b))

/-- Two video entries do. -/
def sameVid (a b : List Byte) : Bool :=
  decide (entStream a = entStream b) || (decide (VidEnt.src a = VidEnt.src b) && decide (VidEnt.port a = VidEnt.port b))

/-- A video and a measurement entry share source and port. -/
def sameKey (v m : List Byte) : Bool := decide (MeasEnt.src m = VidEnt.src v) && decide (MeasEnt.port m = VidEnt.port v)

/-- Luma samples a second that an entry allows. -/
def VidEnt.rate (b : List Byte) : Nat := VidEnt.maxW b * VidEnt.maxH b * VidEnt.maxFps b

/-- Check 0x07 on one entry. -/
def vidLimitBad (b : List Byte) : Bool :=
  let small : Bool := match levelArea (VidEnt.codec b) (VidEnt.maxLevel b) with
    | none => true
    | some a => decide (a < VidEnt.maxW b * VidEnt.maxH b)
  small || decide (666666666 < VidEnt.rate b)

/-- Check 0x09 on one entry. -/
def bindingBad (b : List Byte) : Bool :=
  let row := 64 + ceilDiv (MeasEnt.m b * (if MeasEnt.fmt b = 1 then 16 else 8)) 512 * 64
  MeasEnt.pulse b && (decide (95 < MeasEnt.engine b) || decide (MeasEnt.stride b < row) ||
    decide (MeasEnt.chCount b < MeasEnt.first b + MeasEnt.m b) ||
    decide (0x600000 < MeasEnt.base b + (2 * MeasEnt.k b + 1) * MeasEnt.stride b + row))

/-- The checks of R329 in their order: sub-code and entry index. -/
def State.ingCheck (s : State) (c : List Byte) : Option (Nat × Nat) :=
  let meas := cfgMeasList c
  let vids := cfgVidList c
  let grps := cfgGroupList c
  let err := fun (code : Nat) (o : Option Nat) => o.map fun i => (code, i)
  let pls := [s.tick.plan, s.tick.pending].filterMap id
  let points := pls.findSome? (cfgPoints c)
  let first := if crc32 (putField c 12 (leBytes 4 0)) ≠ leField c 12 4 then some (1, 0)
    else if leField c 0 2 ≠ 1 ∨ 16384 < cfgMeas c ∨ 512 < cfgVid c ∨ 256 < cfgGroups c ∨ 64 < cfgMcast c ∨ 64 < cfgPubs c ∨
      leField c 26 6 ≠ 0 ∨ leField c 48 16 ≠ 0 ∨ cfgWinDa c 0 % 64 ≠ 0 ∨ cfgWinDa c 1 % 64 ≠ 0 then some (2, 0)
    else none
  let stale : Bool := match s.ing.cfg with
    | some a => decide (ahead32 (cfgSeq c) (cfgSeq a) ≤ 0)
    | none => false
  [first, err 2 (badEntry meas measBad), err 2 (badEntry vids vidBad), err 2 (badEntry grps groupBad),
    if stale then some (3, 0) else none, if points.isNone then some (4, 0) else none,
    err 5 (badPair meas sameMeas), err 5 (badPair vids sameVid), err 5 (badEntry vids fun v => meas.any (sameKey v)),
    err 6 (badEntry meas fun b => decide (2 ^ 20 < MeasEnt.chBase b + MeasEnt.chCount b)),
    err 6 (badPair meas fun a b =>
      channelsMeet (MeasEnt.chBase a) (MeasEnt.chCount a) (MeasEnt.chBase b) (MeasEnt.chCount b)),
    err 6 (badEntry grps fun b => decide (2 ^ 20 < GrpEnt.first b + GrpEnt.count b)),
    err 6 (badPair grps fun a b =>
      channelsMeet (GrpEnt.first a) (GrpEnt.count a) (GrpEnt.first b) (GrpEnt.count b)),
    err 7 (badEntry vids vidLimitBad),
    if 16000000000 < (vids.map VidEnt.rate).foldl (· + ·) 0 then some (7, 0) else none,
    err 8 (s.rangesBad c (points.getD 0)), err 9 (badEntry meas bindingBad),
    err 0x0A (badEntry ((List.range 4).map (cfgPort c)) portBad),
    err 0x0A (badEntry (cfgPubList c) (pubBad c))].findSome? id

/-! ### Loading (R329) -/

/-- CFG_SWAP: the copy and its checks. A copy that cannot be read fails check 0x01 (assumption log 22). -/
def State.cfgSwap (s : State) : State :=
  let a := s.rd Reg.ingCfgBase
  let head := s.load a 64
  let n := cfgLength head
  let readable := (s.memFault a 64).isNone && (s.memFault a n).isNone
  let c := if readable then s.load a n else []
  let s := if readable then s.ioRead a n else s
  match (if readable then s.ingCheck c else some (1, 0)) with
  | none =>
    ({ s with ing := { s.ing with pending := some c, pendingAt := s.now } }).setBit Reg.ingStatus 1 true
  | some (code, i) =>
    let s := s.wr Reg.ingCfgCheck (code + i % 65536 * 2 ^ 8 + cfgSeq c * 2 ^ 32)
    postFault (s.event Reg.ingIntStatus 3)
      { code := F.ingestCfg, cls := Class.info, block := Blk.ing, payload := defaultPayload a (code + i % 65536 * 2 ^ 8) 0 0 0 }

/-- The entry that names a stream in a configuration. -/
def findStream (xs : List (List Byte)) (n : Nat) : Option (List Byte) := xs.find? fun b => decide (entStream b = n)

/-- The measurement entries of the active configuration. -/
def State.measEntries (s : State) : List (List Byte) := (s.ing.cfg.map cfgMeasList).getD []

/-- The video entries of the active configuration. -/
def State.vidEntries (s : State) : List (List Byte) := (s.ing.cfg.map cfgVidList).getD []

/-- A video stream by its number. -/
def State.vid (s : State) (n : Nat) : VideoSt := tabGet (fun _ => {}) s.ing.video n

/-- Sets a video stream. -/
def State.setVid (s : State) (n : Nat) (x : VideoSt) : State :=
  { s with ing := { s.ing with video := tabSet (fun _ => {}) s.ing.video n x } }

/-- MODE other than NORMAL (R323). -/
def State.lenient (s : State) : Bool := decide (s.fld Reg.ingCtrl 2 1 ≠ 0)

/-- The Aligner group that holds a channel. -/
def groupOf (c : List Byte) (ch : Nat) : Option (List Byte) :=
  (cfgGroupList c).find? fun b => decide (GrpEnt.first b ≤ ch) && decide (ch < GrpEnt.first b + GrpEnt.count b)

/-- Whether the active configuration, or that of a window still open, has a channel in a group (R330). -/
def State.grouped (s : State) (ch : Nat) : Bool :=
  (s.ing.cfg.toList ++ s.ing.wins.map (·.cfg)).any fun c => (groupOf c ch).isSome

end Sys2Proof.Machine
end

