-- ==== Sys2Proof/Machine/Ingest.lean ====
section
/-! DEFINITION. Frames from the Ethernet ports (R318 to R320, R331, R339) and the PTP client (R321, R322). -/

namespace Sys2Proof.Machine

/-! ### Frames (R318) -/

/-- The 16-bit words of a byte string, network order, an odd last byte padded with 0. -/
def words16 (bs : List Byte) : List Nat := (List.range (ceilDiv bs.length 2)).map fun i => beField bs (2 * i) 2

/-- Whether a byte string that carries its own Internet checksum is good. -/
def checksumOk (bs : List Byte) : Bool :=
  let x := (words16 bs).foldl (· + ·) 0
  decide (x ≠ 0) && decide (x % 65535 = 0)

/-- An IPv4 address in IPv4-mapped form. -/
def mapped (v4 : List Byte) : List Byte := List.replicate 10 0 ++ [0xFF, 0xFF] ++ v4

/-- What R318 makes of a frame, streams apart. -/
inductive Verdict
  | bad | control | drop | unmatched
  | ptp (ethernet ipv6 : Bool) (data : List Byte)
  | udp (src : List Byte) (port : Nat) (data : List Byte)
  deriving DecidableEq, Repr

/-- A UDP datagram at offset u of a frame, n bytes, with the pseudo-header `ph` of its checksum. -/
def udpVerdict (f : List Byte) (u n : Nat) (ph : List Byte) (v6 : Bool) (src : List Byte) (isPtp : Bool) : Verdict :=
  let len := beField f (u + 4) 2
  let d := fieldBytes f u len
  let dport := beField f (u + 2) 2
  let none := !v6 && beField f (u + 6) 2 == 0
  if n < 8 ∨ len < 8 ∨ n < len then .drop
  else if !none && !(checksumOk (ph ++ beBytes 4 len ++ [0, 0, 0, 17] ++ d)) then .drop
  else if dport = 319 ∨ dport = 320 then (if isPtp then .ptp false v6 (d.drop 8) else .drop)
  else .udp src dport (d.drop 8)

/-- Whether a destination address is the port's own or in the multicast table. -/
def ipMine (c pe dst : List Byte) (v6 : Bool) : Bool :=
  let own := if v6 then decide (dst = PortEnt.ipv6 pe) && decide (beNat dst ≠ 0)
    else decide (dst = PortEnt.ipv4 pe) && decide (beNat dst ≠ 0)
  own || (List.range (cfgMcast c)).any fun i =>
    decide (fieldBytes c (cfgMcastAt + 16 * i) 16 = if v6 then dst else mapped dst)

/-- IPv4 at offset o. -/
def ip4Verdict (c pe f : List Byte) (o : Nat) (isPtp : Bool) : Verdict :=
  let total := beField f (o + 2) 2
  let src := fieldBytes f (o + 12) 4
  let dst := fieldBytes f (o + 16) 4
  if leField f o 1 ≠ 0x45 ∨ !(checksumOk (fieldBytes f o 20)) ∨ beField f (o + 6) 2 % 16384 ≠ 0 ∨ total < 20 ∨
      f.length < o + total + 4 then .drop
  else if !(ipMine c pe dst false) ∨ leField f (o + 9) 1 ≠ 17 then .drop
  else udpVerdict f (o + 20) (total - 20) (src ++ dst) false (mapped src) isPtp

/-- IPv6 at offset o: any next header but UDP is an extension header or another protocol. -/
def ip6Verdict (c pe f : List Byte) (o : Nat) (isPtp : Bool) : Verdict :=
  let n := beField f (o + 4) 2
  let src := fieldBytes f (o + 8) 16
  let dst := fieldBytes f (o + 24) 16
  if leField f o 1 / 16 ≠ 6 ∨ leField f (o + 6) 1 ≠ 17 ∨ f.length < o + 40 + n + 4 then .drop
  else if !(ipMine c pe dst true) then .drop
  else udpVerdict f (o + 40) n (src ++ dst) true src isPtp

/-- R318 on a frame, from its destination MAC address to its FCS. -/
def frameVerdict (c pe f : List Byte) (isPtp : Bool) : Verdict :=
  let tagged := decide (beField f 12 2 = 0x8100)
  let o := if tagged then 16 else 12
  let ty := beField f o 2
  let vid := if tagged then beField f 14 2 % 4096 else 0
  if f.length < 64 ∨ PortEnt.mtu pe + (if tagged then 22 else 18) < f.length ∨
      crc32 (f.take (f.length - 4)) ≠ leField f (f.length - 4) 4 then .bad
  else if ty = 0x8808 then .control
  else if (tagged ∧ ty = 0x8100) ∨ vid ≠ PortEnt.vid pe ∨ (tagged ∧ vid = 0) then .drop
  else if ty = 0x88F7 then (if isPtp then .ptp true false (f.drop (o + 2)) else .drop)
  else if ty = 0x0800 then ip4Verdict c pe f (o + 2) isPtp
  else if ty = 0x86DD then ip6Verdict c pe f (o + 2) isPtp
  else .unmatched

/-- A C37.118.2 frame of a matching stream is well formed (R331). -/
def synchroOk (d : List Byte) : Bool :=
  let v := leField d 1 1 % 16
  decide (leField d 0 1 = 0xAA) && decide (v = 1 ∨ v = 2) && decide (beField d 2 2 = d.length) && decide (16 ≤ d.length) &&
    decide (crcCcitt (d.take (d.length - 2)) = beField d (d.length - 2) 2)

/-- Counts a frame in a half of a port's drop counter: unmatched, or another drop. -/
def State.rxDrop (s : State) (n : Nat) (other : Bool) : State :=
  if other then s.bump (Reg.ingRxDrop n) 63 32 1 else s.bump (Reg.ingRxDrop n) 31 0 1

/-- A measurement frame is dropped, or counted without use (ING_MEAS_COUNT). -/
def State.measDrop (s : State) : State := s.bump Reg.ingMeasCount 63 32 1

/-- Hands a message to the PTP client or a parser. -/
def State.deliver (s : State) (x : RxItem) : State := { s with ing := { s.ing with rx := s.ing.rx ++ [x] } }

/-- PTP messages that the client uses: Sync, Follow_Up, Delay_Resp and Announce, of its version, domain and transport (R321). -/
def State.ptpUses (s : State) (ethernet ipv6 : Bool) (d : List Byte) : Bool :=
  let cfg := s.rd Reg.ingPtpCfg
  let ty := leField d 0 1 % 16
  decide (ty = 0 ∨ ty = 8 ∨ ty = 9 ∨ ty = 11) && decide (leField d 1 1 % 16 = 2) && decide (leField d 4 1 = bits cfg 7 0) &&
    (if bit cfg 10 then ethernet else !ethernet && decide (ipv6 = bit cfg 11)) && decide (44 ≤ d.length)

/-- A UDP datagram looks for its stream (R331, R339). -/
def State.rxUdp (s : State) (n : Nat) (stamp : Int) (src : List Byte) (port : Nat) (d : List Byte) : State :=
  let m := s.measEntries.find? fun b =>
    decide (MeasEnt.src b = src) && decide (MeasEnt.port b = port) && decide (MeasEnt.idcode b = beField d 4 2) &&
      bit (MeasEnt.ports b) n
  let v := s.vidEntries.find? fun b =>
    decide (VidEnt.src b = src) && decide (VidEnt.port b = port) && bit (VidEnt.ports b) n
  match m, v with
  | some b, _ => if synchroOk d then s.deliver ⟨n, stamp, .meas (entStream b), d⟩ else s.measDrop
  | none, some b =>
    if leField d 0 1 / 64 = 2 ∧ leField d 1 1 % 128 = VidEnt.pt b ∧ 12 ≤ d.length then
      s.deliver ⟨n, stamp, .video (entStream b), d⟩
    else s.rxDrop n true
  | none, none => s.rxDrop n false

/-- A frame has arrived on port n with its stamp. -/
def State.rxFrame (s : State) (n : Nat) (stamp : Int) (f : List Byte) : State :=
  let s := s.bump (Reg.ingRx n) 63 0 1
  match s.ing.cfg with
  | none => s.rxDrop n true
  | some c =>
    let pe := cfgPort c n
    if !(bit (s.rd Reg.ingCtrl) 0) ∨ !(PortEnt.on pe) then s.rxDrop n true else
    match frameVerdict c pe f (decide (s.fld Reg.ingPtpCfg 9 8 = n)) with
    | .bad => s.bump (Reg.ingRxErr n) 31 0 1
    | .control => s.bump (Reg.ingRxErr n) 63 32 1
    | .drop => s.rxDrop n true
    | .unmatched => s.rxDrop n false
    | .ptp eth v6 d => if s.ptpUses eth v6 d then s.deliver ⟨n, stamp, .ptp eth v6, d⟩ else s.rxDrop n true
    | .udp src port d => s.rxUdp n stamp src port d

/-- The oldest message of a class, when a test accepts it: it is taken off the list. -/
def State.takeRx (s : State) (ofClass fits : RxItem → Bool) : Option (RxItem × State) :=
  match s.ing.rx.find? ofClass with
  | none => none
  | some x => if fits x then some (x, { s with ing := { s.ing with rx := s.ing.rx.erase x } }) else none

/-! ### The PTP client -/

/-- Whether a message is for the PTP client. -/
def RxItem.isPtp (x : RxItem) : Bool :=
  match x.kind with
  | .ptp _ _ => true
  | _ => false

/-- The oldest PTP message, when it has this type. -/
def State.takePtp (s : State) (ty : Nat) : Option (RxItem × State) :=
  s.takeRx RxItem.isPtp fun x => decide (leField x.data 0 1 % 16 = ty)

namespace PtpMsg
/-- sourcePortIdentity, sequenceId, the correction in ns and a timestamp in ns. -/
def ident (d : List Byte) : Nat := beField d 20 10
def seqId (d : List Byte) : Nat := beField d 30 2
def corr (d : List Byte) : Int := toSigned 64 (beField d 8 8) / 65536
def time (d : List Byte) : Int := (beField d 34 6 * 1000000000 + beField d 40 4 : Nat)
/-- The cycles of an interval given as a power of two of seconds. -/
def interval (d : List Byte) : Nat :=
  let n := toSigned 8 (leField d 33 1)
  if n < 0 then 1100000000 / 2 ^ n.natAbs else 1100000000 * 2 ^ n.natAbs
/-- The rank of an Announce: priority1, clock quality, priority2, grandmaster, steps removed, sender; lower is better. -/
def rank (d : List Byte) : Nat := beNat (fieldBytes d 47 16 ++ fieldBytes d 20 10)
end PtpMsg

/-- The module's own port identity, from the MAC address of the PTP port (assumption log 62). -/
def State.ownIdent (s : State) : Nat :=
  let m := fieldBytes (cfgPort (s.ing.cfg.getD []) (s.fld Reg.ingPtpCfg 9 8)) 0 6
  beNat (m.take 3 ++ [0xFF, 0xFE] ++ m.drop 3 ++ [0, 1])

/-- Changes the PTP client. -/
def State.setClient (s : State) (x : PtpClient) : State := { s with ing := { s.ing with client := x } }

/-- The clock moves by an amount of ns. -/
def State.moveClock (s : State) (d : Int) : State := { s with ptp := { s.ptp with offset := s.ptp.offset + d } }

/-- The clock steps while the tick timeline follows PTP: the timeline is now more than 10 ms away, stays local and raises
F_TICK_SOURCE (R322, R28). -/
def State.stepTimeline (s : State) : State :=
  if s.tick.on ∧ s.fld Reg.tckStatus 1 0 = 1 ∧ s.following = true then
    ({ s with tick := { s.tick with stayLocal := true } }).raiseTickSource
  else s

/-- A frequency correction: towards the master, by at most 100 ppm of the time since the last Sync; how much of that the servo
uses is left open (R322). -/
def State.slew (s : State) (off : Int) : State × Int :=
  let bound := (s.now - s.ing.client.lastAt) / 11000
  let (n, s) := s.freeNat
  let m : Int := (min off.natAbs (n % (bound + 1)) : Nat)
  let d := if off < 0 then m else -m
  (s.moveClock d, d)

/-- A Sync is complete: origin t1 (corrected) and arrival t2 (R322). -/
def State.completeSync (s : State) (t1 t2 : Int) : State :=
  let off := t2 - t1 - s.ing.client.path
  let first := !s.ptp.everLocked
  let far := decide (10000000 < off.natAbs)
  let (s, d) := if first || far then (s.moveClock (-off), -off) else s.slew off
  let s := if far && !first then (s.event Reg.ingIntStatus 5).stepTimeline else s
  let s := { s with ptp := { s.ptp with everLocked := true }, tick := { s.tick with heardPtp := s.now + 1 } }
  let s := (s.wr Reg.ingPtpOffset (ofSigned 64 off)).setBit Reg.ingStatus 2 (decide (off.natAbs ≤ 1000))
  s.setClient { s.ing.client with sync := none, last := some (t1, t2 + d), lastAt := s.now }

/-- Whether a message comes from the selected master. -/
def State.fromMaster (s : State) (d : List Byte) : Bool := decide (s.ing.client.sel = some (PtpMsg.ident d))

/-- A Sync message. -/
def State.ptpSync (s : State) (x : RxItem) : State :=
  if !(s.fromMaster x.data) then s
  else if bit (leField x.data 6 1) 1 then
    s.setClient { s.ing.client with sync := some (PtpMsg.seqId x.data, x.stamp, PtpMsg.corr x.data) }
  else s.completeSync (PtpMsg.time x.data + PtpMsg.corr x.data) x.stamp

/-- A Follow_Up message. -/
def State.ptpFollowUp (s : State) (x : RxItem) : State :=
  match s.ing.client.sync with
  | some (n, t2, c) =>
    if s.fromMaster x.data ∧ n = PtpMsg.seqId x.data then
      s.completeSync (PtpMsg.time x.data + c + PtpMsg.corr x.data) t2
    else s
  | none => s

/-- A Delay_Resp message: the mean path delay, and the interval of the next requests. -/
def State.ptpDelayResp (s : State) (x : RxItem) : State :=
  let c := s.ing.client
  match c.delaySent, c.last with
  | some (n, t3), some (t1, t2) =>
    if s.fromMaster x.data ∧ n = PtpMsg.seqId x.data ∧ beField x.data 44 10 = s.ownIdent then
      let t4 := PtpMsg.time x.data - PtpMsg.corr x.data
      let path := ((t2 - t1) + (t4 - t3)) / 2
      let every := PtpMsg.interval x.data
      (s.wr Reg.ingPtpPath (ofSigned 64 path)).setClient
        { c with path := path, delaySent := none, delayEvery := some every, delayAt := s.now + every }
    else s
  | _, _ => s

/-- Masters that qualify: two Announce messages within four intervals, the last within three (assumption log 62). -/
def PtpMaster.ok (m : PtpMaster) (now : Nat) : Bool :=
  (match m.before with
   | some b => decide (m.heard ≤ b + 4 * m.every)
   | none => false) && decide (now < m.heard + 3 * m.every)

/-- The best master of a list. -/
def bestMaster (ms : List PtpMaster) : Option PtpMaster :=
  ms.foldl (fun a m => match a with
    | none => some m
    | some b => if m.rank < b.rank then some m else some b) none

/-- Selects the best qualified master; a new one starts the measurements afresh. -/
def State.selectMaster (s : State) : State :=
  let c := s.ing.client
  let best := (bestMaster (c.masters.filter fun m => m.ok s.now)).map (·.ident)
  let c := if best = c.sel then c
    else { c with sel := best, sync := none, last := none, delaySent := none, delayEvery := none, utc := none }
  (s.setClient c).setBit Reg.ingStatus 3 best.isSome

/-- An Announce message. -/
def State.ptpAnnounce (s : State) (x : RxItem) : State :=
  let c := s.ing.client
  let id := PtpMsg.ident x.data
  let old := c.masters.find? fun m => decide (m.ident = id)
  let m : PtpMaster := { ident := id, rank := PtpMsg.rank x.data, heard := s.now, before := old.map (·.heard),
                         every := PtpMsg.interval x.data }
  let s := (s.setClient { c with masters := (c.masters.filter fun m => decide (m.ident ≠ id)) ++ [m] }).selectMaster
  if s.fromMaster x.data then
    s.setClient { s.ing.client with utc := if bit (leField x.data 7 1) 2 then some (toSigned 16 (beField x.data 44 2)) else none }
  else s

/-- The UTC offset in use, in s (R322). -/
def State.utcOffset (s : State) : Int := s.ing.client.utc.getD (s.fld Reg.ingPtpCfg 31 16 : Nat)

/-! ### Meanings -/

/-- ETH_FRAME_RX (R318, R319): `err` − 8 is the stamp's error in ns. -/
def execEthFrameRx (t : Nat) (port : Fin 4) (err : Fin 17) (frame : List Byte) (s : State) :
    Host.Outcome State Fault Refusal :=
  let s := s.advance t
  if s.stopped then .next s else
  .next (s.rxFrame port ((s.timeNs : Int) + err.val - 8) frame)

/-- SYNC (R321, R322). -/
def execSync (t : Nat) (s : State) : Host.Outcome State Fault Refusal :=
  let s := s.advance t
  if s.stopped then .next s else
  .next (match s.takePtp 0 with
    | some (x, s) => s.ptpSync x
    | none => s)

/-- FOLLOW_UP (R321). -/
def execFollowUp (t : Nat) (s : State) : Host.Outcome State Fault Refusal :=
  let s := s.advance t
  if s.stopped then .next s else
  .next (match s.takePtp 8 with
    | some (x, s) => s.ptpFollowUp x
    | none => s)

/-- DELAY_RESP (R321). -/
def execDelayResp (t : Nat) (s : State) : Host.Outcome State Fault Refusal :=
  let s := s.advance t
  if s.stopped then .next s else
  .next (match s.takePtp 9 with
    | some (x, s) => s.ptpDelayResp x
    | none => s)

/-- ANNOUNCE (R321, R322). -/
def execAnnounce (t : Nat) (s : State) : Host.Outcome State Fault Refusal :=
  let s := s.advance t
  if s.stopped then .next s else
  .next (match s.takePtp 11 with
    | some (x, s) => s.ptpAnnounce x
    | none => s)

/-- DELAY_REQ (R321): due once a Sync has been received and the interval has passed. -/
def execDelayReq (t : Nat) (s : State) : Host.Outcome State Fault Refusal :=
  let s := s.advance t
  if s.stopped then .next s else
  let c := s.ing.client
  .next (if c.sel.isSome ∧ c.last.isSome ∧ c.delayAt ≤ s.now then
      let n := s.fld Reg.ingPtpCfg 9 8
      let s := (s.bump (Reg.ingTx n) 63 0 1).emit (.delayReq n c.delaySeq)
      s.setClient { c with delaySeq := (c.delaySeq + 1) % 65536, delaySent := some (c.delaySeq, s.timeNs),
                           delayAt := s.now + c.delayEvery.getD 0 }
    else s)

/-- ANNOUNCE_RECEIPT_TIMEOUT (R321): three announce intervals without a message from the selected master. -/
def execAnnounceReceiptTimeout (t : Nat) (s : State) : Host.Outcome State Fault Refusal :=
  let s := s.advance t
  if s.stopped then .next s else
  let c := s.ing.client
  .next (match c.masters.find? fun m => decide (c.sel = some m.ident) with
    | some m =>
      if m.heard + 3 * m.every ≤ s.now then
        (s.setClient { c with masters := c.masters.erase m, sel := none, sync := none, last := none, delaySent := none,
                              delayEvery := none, utc := none }).setBit Reg.ingStatus 3 false
      else s
    | none => s)

end Sys2Proof.Machine
end

