-- ==== Sys2Proof/Machine/Arrays.lean ====
section
/-! DEFINITION. The arrays: accumulation groups and entries (R115 to R120), the tile grid (R187, R188, R191, R201), and
MMA with its two backward forms (R157, R193, R197 to R204, R216, R218 to R222). -/

namespace Sys2Proof.Machine

/-! ### Accumulation (R117, R119, R120) -/

/-- An element as the arrays take it: its value and its block's scale byte. -/
abbrev Fed := FVal × Nat

/-- ⌊log2⌋ of the largest finite product of a group; none when all are zero. -/
def topExponent (ps : List FVal) : Option Int := blockLog ps

/-- A finite product cut to multiples of 2^q, toward zero in magnitude, as a signed count. -/
def cutAt (q : Int) : FVal → Int
  | .fin neg m e =>
    let r : Nat := if q ≤ e then m <<< (e - q).toNat else m >>> (q - e).toNat
    if neg then -(r : Int) else r
  | _ => 0

/-- Whether a product is −0. -/
def FVal.isNegZero : FVal → Bool
  | .fin neg m _ => neg && decide (m = 0)
  | _ => false

/-- Steps 2 and 3 of R117 on a group's exact products, with k the sum of the block exponents. -/
def groupSum (ps : List FVal) (k : Int) : W32 :=
  if ps.any FVal.isNan then nan32 else
  if blockBad ps then
    (if ps.contains (.inf true) then (if ps.contains (.inf false) then nan32 else round32 (.inf true))
     else round32 (.inf false)) else
  match topExponent ps with
  | none => if !ps.isEmpty && ps.all FVal.isNegZero then 0x80000000 else 0
  | some e =>
    let q := e - 31
    let v := ps.foldl (fun a p => a + cutAt q p) 0
    if v = 0 then 0 else round32 ((FVal.ofInt v q).shift k)

/-- The group value of 32 pairs (R117): a NaN block scale makes it NaN (R119). -/
def groupValue (xs : List (Fed × Fed)) : W32 :=
  if xs.any (fun x => decide (x.1.2 = 0xFF) || decide (x.2.2 = 0xFF)) then nan32 else
  match xs with
  | [] => 0
  | x :: _ => groupSum (xs.map fun y => y.1.1.mul y.2.1) ((x.1.2 : Int) - 127 + ((x.2.2 : Int) - 127))

/-- The pairs of the accumulation group at K index lo of a reduction that ends at hi, without those that `skip` drops. -/
def groupPairs (lo hi : Nat) (fa fb : Nat → Fed) (skip : Nat → Bool) : List (Fed × Fed) :=
  ((List.range (min 32 (hi - lo))).filter fun j => !skip (lo + j)).map fun j => (fa (lo + j), fb (lo + j))

/-- A floating-point accumulator entry after K indices lo to hi - 1 (R117 step 4). A group with no element adds nothing (R200). -/
def dotFp (lo hi : Nat) (fa fb : Nat → Fed) (skip : Nat → Bool) (init : W32) : W32 :=
  (List.range (ceilDiv (hi - lo) 32)).foldl (fun acc i =>
    match groupPairs (lo + 32 * i) hi fa fb skip with
    | [] => acc
    | ps => add32 acc (groupValue ps)) init

/-- The whole product over k elements. -/
def dot (k : Nat) (fa fb : Nat → Fed) : W32 := dotFp 0 k fa fb (fun _ => false) 0

/-- The integer an exact integral value holds. -/
def FVal.toInt : FVal → Int
  | .fin neg m e => FVal.scaled neg m e 0
  | _ => 0

/-- An INT32 entry after K indices lo to hi - 1, and how many additions wrapped (R120). -/
def dotInt (lo hi : Nat) (fa fb : Nat → Fed) (init : W32) : W32 × Nat :=
  (List.range (ceilDiv (hi - lo) 32)).foldl (fun a i =>
    let v := (groupPairs (lo + 32 * i) hi fa fb fun _ => false).foldl (fun v x => v + x.1.1.toInt * x.2.1.toInt) a.1.toInt
    (BitVec.ofInt 32 v, a.2 + b2n (decide ((BitVec.ofInt 32 v).toInt ≠ v)))) (init, 0)

/-! ### The grid -/

/-- The grid of an array macro-op (R188): region M × N, reduction K, tile shape, k_step and lanes. -/
structure Grid where
  m : Nat
  n : Nat
  k : Nat
  mt : Nat
  nt : Nat
  kstep : Nat
  lanes : Nat
  deriving DecidableEq, Repr

/-- Mt × Nt of a TILE code (R187). -/
def tileShape : Nat → Nat × Nat
  | 1 => (128, 128) | 2 => (256, 64) | 3 => (64, 256) | 4 => (512, 32) | _ => (32, 512)

/-- Columns of the grid. -/
def Grid.across (g : Grid) : Nat := ceilDiv g.n g.nt

/-- Output tiles. -/
def Grid.tiles (g : Grid) : Nat := ceilDiv g.m g.mt * g.across

/-- Tile steps of a tile. -/
def Grid.steps (g : Grid) : Nat := ceilDiv g.k g.kstep

/-- Where tile step j ends in K: with the padded positions of the last one (R197, R201), which add nothing when the pads are the zeros
that R199 asks for (R200). -/
def Grid.hi (g : Grid) (zeroPads : Bool) (j : Nat) : Nat :=
  if j + 1 < g.steps then (j + 1) * g.kstep
  else if zeroPads then g.k
  else j * g.kstep + ceilDiv (g.k - j * g.kstep) g.lanes * g.lanes

/-- Issue cycles of tile step i of a tile (R108, R201). -/
def Grid.cycles (g : Grid) (i : Nat) : Nat :=
  if i + 1 < g.steps then 32 * g.kstep / g.lanes else 32 * ceilDiv (g.k - i * g.kstep) g.lanes

/-- The part of tile i that lies in the region: first row and column, rows and columns (R188, R203). -/
def Grid.tile (g : Grid) (i : Nat) : Reg2 :=
  let r := i / g.across * g.mt
  let c := i % g.across * g.nt
  ⟨r, c, min g.mt (g.m - r), min g.nt (g.n - c)⟩

/-- The positions of a tile region, row-major. -/
def Reg2.cells (t : Reg2) : List (Nat × Nat) :=
  (List.range t.m).flatMap fun i => (List.range t.n).map fun j => (t.r + i, t.c + j)

/-- One tile step of tile i on the entries `acc`, from K index lo to hi, and the wrapped additions: `fa` and `fb` give the operands at
(m, k) and (k, n), `skip` the K positions of row m that hold no element. -/
def Grid.accumulate (g : Grid) (int : Bool) (fa fb : Nat → Nat → Fed) (skip : Nat → Nat → Bool) (lo hi i : Nat) (acc : List W32) :
    List W32 × Nat :=
  ((g.tile i).cells.zip acc).foldl (fun (a : List W32 × Nat) x =>
    let (m, n) := x.1
    if int then
      let (v, w) := dotInt lo hi (fa m) (fun k => fb k n) x.2
      (a.1 ++ [v], a.2 + w)
    else (a.1 ++ [dotFp lo hi (fa m) (fun k => fb k n) (skip m) x.2], a.2)) ([], 0)

/-! ### Operands as fed -/

/-- The element that an operand feeds from stored position (r, c): PAD outside the valid region, and scale 2^0 for a block
with no valid element (R116, R197, R198). -/
def State.fed (s : State) (e : Nat) (t : Tensor) (valid blockValid : Bool) (r c : Nat) : Fed :=
  let raw := if valid then s.elem e t r c else t.pad
  let v := if t.fmt.isInt then FVal.ofInt (t.fmt.decodeInt raw - t.fmt.decodeInt t.zero) 0 else t.fmt.decode raw
  (v, if blockValid then s.scaleOf e t r c else 127)

/-- The value of a D element that ACC_INIT loads (R117, R120), with 1 when it saturates. -/
def State.initFrom (s : State) (e : Nat) (t : Tensor) (int : Bool) (r c : Nat) : W32 × Nat :=
  if !int then (s.elem32 e t r c, 0)
  else if t.fmt.isInt then (BitVec.ofInt 32 (t.fmt.decodeInt (s.elem e t r c)), 0)
  else match s.value e t 0 r c with
    | .nan => (0, 1)
    | .inf neg => (if neg then 0x80000000 else 0x7FFFFFFF, 1)
    | .fin neg m ex =>
      let v : Int := if neg then -(roundAt .rne m ex 0 : Int) else roundAt .rne m ex 0
      if v < -2147483648 then (0x80000000, 1) else if 2147483647 < v then (0x7FFFFFFF, 1) else (BitVec.ofInt 32 v, 0)

/-! ### Writing a tile -/

/-- The pad of a reduction operand is the zero that R199 asks for. -/
def Tensor.padZero (t : Tensor) : Bool := if t.fmt.isInt then decide (t.pad % 2 ^ t.fmt.width = t.zero % 2 ^ t.fmt.width) else (t.fmt.decode t.pad).isZero

/-- An accumulator entry as a value. -/
def entryVal (int : Bool) (w : W32) : FVal := if int then FVal.ofInt w.toInt 0 else f32 w

/-- The cells of a finished tile: one conversion run over the whole Mt × Nt tile (R123), of which those in the region are written
(R203). `spot` says where result (m, n) lands, `val` what its entry becomes. -/
def State.tileRun (s : State) (e : Nat) (sr : Bool) (g : Grid) (i : Nat) (spot : Nat → Nat → Nat × Nat) (val : Nat → W32 → FVal)
    (acc : List W32) : State × List OutCell :=
  let v := g.tile i
  let cells := (v.cells.zip acc).map fun x =>
    let (m, n) := x.1
    (⟨(spot m n).1, (spot m n).2, val n x.2, s.runMode e sr ((m - v.r) * g.nt + (n - v.c))⟩ : OutCell)
  (s.stepLanes e sr (g.mt * g.nt), cells)

/-- The bank of tile i is reduced into D (R220, R221). -/
def State.redTile (s : State) (e : Nat) (g : Grid) (int : Bool) (op : RedOp) (t : Tensor) (r0 c0 i : Nat) (acc : List W32) :
    State :=
  ((g.tile i).cells.zip acc).foldl (fun s x =>
    let a := t.da e + t.bitOfs (r0 + x.1.1) (c0 + x.1.2) / 8
    let v := (convert t.fmt .rne (entryVal int x.2)).bits
    let s := s.claimLine a op.bytes
    s.storeIfChanged a (leBytes op.bytes (op.elem (s.loadNat a op.bytes) v))) s

/-- The D region of tile i (R203, R222). -/
def Grid.destTile (g : Grid) (tw : Bool) (r0 c0 i : Nat) : Reg2 :=
  let v := g.tile i
  if tw then ⟨r0 + v.c, c0 + v.r, v.n, v.m⟩ else ⟨r0 + v.r, c0 + v.c, v.m, v.n⟩

/-- Shelf blocks of D that tiles from i on write. -/
def Grid.blocksFrom (g : Grid) (tw : Bool) (t : Tensor) (r0 c0 i : Nat) : List Nat :=
  dedup ((List.range (g.tiles - i)).flatMap fun j => t.blocks (g.destTile tw r0 c0 (i + j)))

/-- A finished bank passes to the writeback buffer when that is free (R112, R219). -/
def OpenOp.drainBank (o : OpenOp) : OpenOp :=
  match o.wbuf, o.full with
  | none, x :: r => { o with wbuf := some x, full := r }
  | _, _ => o

/-- The bank that tile i accumulates in (R103, R218, R219). -/
def OpenOp.bankOf (o : OpenOp) (i : Nat) : Nat := if o.alternates then i % 2 else b2n (Desc.bank1 o.desc)

/-- A tile step leaves the entries `acc`; after the tile's last one the bank is finished and the next tile begins. -/
def OpenOp.stepped (o : OpenOp) (acc : List W32) (last : Bool) : OpenOp :=
  if last then
    ({ o with acc := [], full := o.full ++ [(o.cur, acc)], cur := o.cur + 1, bank := o.bankOf (o.cur + 1) } : OpenOp).drainBank
  else { o with acc := acc }

/-- The tile in the writeback buffer is written: blocks that no later tile writes carry DST_GEN (R163), and the buffer is free. -/
def State.tileDone (s : State) (e : Nat) (o : OpenOp) (mine later : List Nat) (tiles : Nat) : State × OpenOp :=
  let done := o.claims.filter (· ∉ later)
  (s.setTags e (Desc.dstGen o.desc) done,
   ({ o with claims := o.claims.filter (· ∈ later), touched := dedup (o.touched ++ mine), tile := o.tile + 1, wbuf := none,
             finished := decide (tiles ≤ o.tile + 1) } : OpenOp))

/-! ### MMA, MMA.BWD_X, MMA.BWD_W -/

/-- The arguments of R157, with the tensors. -/
structure MmaArgs where
  grid : Grid
  a : Tensor
  b : Tensor
  d : Tensor
  transA : Bool
  transB : Bool
  am : Nat
  ak : Nat
  bk : Nat
  bn : Nat
  dr : Nat
  dc : Nat
  mode : Nat
  deriving DecidableEq, Repr

/-- Whether the pair is an integer pair. -/
def MmaArgs.int (x : MmaArgs) : Bool := x.a.fmt.isInt

/-- The arguments of a descriptor. -/
def mmaArgs (d : Desc) (a b t : Tensor) : MmaArgs :=
  let shape := tileShape d.tileNo
  { grid := ⟨bits (d.arg 0) 23 0, bits (d.arg 0) 47 24, bits (d.arg 1) 31 0, shape.1, shape.2, d.kstep,
             min a.fmt.lanes b.fmt.lanes⟩,
    a := a, b := b, d := t, transA := bit (d.w 2) 16, transB := bit (d.w 2) 17,
    am := bits (d.arg 2) 23 0, ak := bits (d.arg 2) 47 24, bk := bits (d.arg 3) 23 0, bn := bits (d.arg 3) 47 24,
    dr := bits (d.arg 4) 23 0, dc := bits (d.arg 4) 47 24, mode := d.opx 19 18 }

/-- The stored region of A (R157). -/
def MmaArgs.regionA (x : MmaArgs) : Reg2 :=
  if x.transA then ⟨x.ak, x.am, x.grid.k, x.grid.m⟩ else ⟨x.am, x.ak, x.grid.m, x.grid.k⟩

/-- The stored region of B. -/
def MmaArgs.regionB (x : MmaArgs) : Reg2 :=
  if x.transB then ⟨x.bn, x.bk, x.grid.n, x.grid.k⟩ else ⟨x.bk, x.bn, x.grid.k, x.grid.n⟩

/-- A(m, k) as fed. -/
def State.fedA (s : State) (e : Nat) (x : MmaArgs) (m k : Nat) : Fed :=
  let inM := decide (m < x.grid.m)
  let valid := inM && decide (k < x.grid.k)
  let block := inM && decide (k / 32 * 32 < x.grid.k)
  if x.transA then s.fed e x.a valid block (x.ak + k) (x.am + m) else s.fed e x.a valid block (x.am + m) (x.ak + k)

/-- B(k, n) as fed. -/
def State.fedB (s : State) (e : Nat) (x : MmaArgs) (k n : Nat) : Fed :=
  let inN := decide (n < x.grid.n)
  let valid := inN && decide (k < x.grid.k)
  let block := inN && decide (k / 32 * 32 < x.grid.k)
  if x.transB then s.fed e x.b valid block (x.bn + n) (x.bk + k) else s.fed e x.b valid block (x.bk + k) (x.bn + n)

/-- The entries that tile i starts from: 0, or D under ACC_INIT, and how many saturated (R117, R120). `spot` says where in D result
(m, n) lies. -/
def State.tileInit (s : State) (e : Nat) (o : OpenOp) (g : Grid) (int : Bool) (t : Tensor) (spot : Nat → Nat → Nat × Nat) (i : Nat) :
    List W32 × Nat :=
  if !Desc.accInit o.desc then ((g.tile i).cells.map fun _ => 0, 0) else
  let vs := (g.tile i).cells.map fun y => s.initFrom e t int (spot y.1 y.2).1 (spot y.1 y.2).2
  (vs.map (·.1), (vs.map (·.2)).foldl (· + ·) 0)

/-- A tile step of the tile that accumulates: it loads both operands (R192) and adds to the entries (R117, R120, R191). `srcs lo hi` are
its operands over K indices lo to hi - 1, `init` what the tile starts from. -/
def State.tileStep (s : State) (e : Nat) (o : OpenOp) (g : Grid) (int zeroPads : Bool) (srcs : Nat → Nat → List Source)
    (init : List W32 × Nat) (fa fb : Nat → Nat → Fed) (skip : Nat → Nat → Bool) : State × OpenOp :=
  let j := o.steps - 1 - o.cur * g.steps
  let lo := j * g.kstep
  let hi := g.hi zeroPads j
  match s.stepFault e o (srcs lo hi) with
  | some f => (s, { o with fault := some f })
  | none =>
    let (acc, sat) := if j = 0 then init else (o.acc, 0)
    let (acc, wraps) := g.accumulate int fa fb skip lo hi o.cur acc
    (s.countNum e ⟨0, sat, wraps⟩, o.stepped acc (decide (j + 1 = g.steps)))

/-- The operands of a tile step of tile i over K indices lo to hi - 1. -/
def MmaArgs.stepSources (x : MmaArgs) (e : Nat) (d : Desc) (i lo hi : Nat) : List Source :=
  let v := x.grid.tile i
  let n := min hi x.grid.k - lo
  [x.a.source e (if x.transA then ⟨x.ak + lo, x.am + v.r, n, v.m⟩ else ⟨x.am + v.r, x.ak + lo, v.m, n⟩) d.genA,
   x.b.source e (if x.transB then ⟨x.bn + v.c, x.bk + lo, v.n, n⟩ else ⟨x.bk + lo, x.bn + v.c, n, v.n⟩) d.genB]

/-- Where result (m, n) of a product lies in D. -/
def MmaArgs.spot (x : MmaArgs) (d : Desc) : Nat → Nat → Nat × Nat := resultAt (Desc.twrite d) x.dr x.dc

/-- What tile i of a product starts from. -/
def State.mmaInit (s : State) (e : Nat) (o : OpenOp) (x : MmaArgs) (i : Nat) : List W32 × Nat :=
  s.tileInit e o x.grid x.int x.d (x.spot o.desc) i

/-- A tile step of a product. -/
def State.mmaStep (s : State) (e : Nat) (o : OpenOp) (x : MmaArgs) : State × OpenOp :=
  s.tileStep e o x.grid x.int (x.a.padZero && x.b.padZero) (x.stepSources e o.desc o.cur) (s.mmaInit e o x o.cur) (s.fedA e x)
    (s.fedB e x) fun _ _ => false

/-- A product with K = 0 has no tile step: its next tile goes to the writeback buffer as it starts. -/
def State.mmaEmpty (s : State) (e : Nat) (o : OpenOp) (x : MmaArgs) : State × OpenOp :=
  if x.grid.steps = 0 ∧ o.cur < x.grid.tiles ∧ o.wbuf.isNone then
    let (acc, sat) := s.mmaInit e o x o.cur
    (s.countNum e ⟨0, sat, 0⟩, o.stepped acc true)
  else (s, o)

/-- The reserved fields of the product descriptors (R154, R157, R218, R220). -/
def mmaReserved (d : Desc) (bwd : Bool) : Bool :=
  d.opx 63 (if bwd then 20 else 18) != 0 || bits (d.arg 0) 63 48 != 0 || bits (d.arg 1) 63 32 != 0 ||
  bits (d.arg 2) 63 48 != 0 || bits (d.arg 3) 63 48 != 0 || bits (d.arg 4) 63 48 != 0 || decide (d.tileNo = 0) ||
  (bwd && (!d.bank1 || decide (d.opx 19 18 = 3)))

/-- The destination of RED_FP32 and RED_BF16 (R221). -/
def redDestBad (d : Desc) (mode : Nat) (t : Tensor) : Bool :=
  t.shelf || t.blocked || d.accInit || d.sr || d.twrite || decide (t.fmt ≠ (if mode = 1 then Fmt.fp32 else Fmt.bf16))

/-- The first operand of a product that is row-reduced and not BLOCKED (R216). -/
def MmaArgs.unblocked (x : MmaArgs) : Option Nat :=
  if x.transA && !x.a.blocked then some 0 else if !x.transB && !x.b.blocked then some 1 else none

/-- The checks of a product at issue, in the order this model takes: encoding, entries, formats, regions (R114, R154, R193,
R204, R215, R216, R221, R222, R518). -/
def State.mmaCheck (s : State) (site : Site) (d : Desc) (bwd : Bool) : Except OpFault MmaArgs := do
  stopIf (mmaReserved d bwd) (invalidAt 0)
  let a ← s.operand site d.tdA
  let b ← s.operand site d.tdB
  let t ← s.operand site d.tdD
  stopIf (a.fmt.isInt != b.fmt.isInt) ⟨F.format, 0, 0⟩
  let x := mmaArgs d a b t
  stopIf (decide (32 * x.grid.lanes < x.grid.kstep)) (invalidAt 0)
  stopIf x.unblocked.isSome (invalidAt 0)
  a.within x.regionA
  b.within x.regionB
  stopIf (a.scaled && decide (x.ak % 32 ≠ 0)) (invalidAt a.base)
  stopIf (b.scaled && decide (x.bk % 32 ≠ 0)) (invalidAt b.base)
  if bwd && decide (x.mode ≠ 0) then
    stopIf (redDestBad d x.mode t) (invalidAt 0)
    t.within ⟨x.dr, x.dc, x.grid.m, x.grid.n⟩
  else t.destOk d.twrite ⟨x.dr, x.dc, x.grid.m, x.grid.n⟩
  return x

/-- The sources of a product. -/
def MmaArgs.sources (x : MmaArgs) (e : Nat) (d : Desc) : List Source :=
  [x.a.source e x.regionA d.genA, x.b.source e x.regionB d.genB]

/-- What a product reads and writes (R157). -/
def MmaArgs.launch (x : MmaArgs) (e : Nat) (d : Desc) : Launch :=
  ({ srcs := x.sources e d, steps := x.grid.tiles * x.grid.steps } : Launch).into x.d e
    (destRegion (Desc.twrite d) ⟨x.dr, x.dc, x.grid.m, x.grid.n⟩)

/-- An open macro-op begins with its first tile. -/
def OpenOp.tilesOf (o : OpenOp) (g : Grid) : OpenOp :=
  { o with tiles := g.tiles, bank := o.bankOf 0, finished := decide (g.tiles = 0) }

/-- Issue of a product: the checks and the launch (R157). -/
def State.mmaBody (s : State) (site : Site) (o : OpenOp) (bwd : Bool) : Issue :=
  issueOf do
    let x ← s.mmaCheck site o.desc bwd
    return s.launch site (s.latch site o) (x.launch site.e o.desc) fun s o =>
      (s.clearStation site.e).mmaEmpty site.e (o.tilesOf x.grid) x

/-- The latched arguments of an open product. -/
def OpenOp.mmaArgs (o : OpenOp) : Option MmaArgs :=
  match o.entry 0, o.entry 1, o.entry 3 with
  | some a, some b, some t => some (Machine.mmaArgs o.desc a b t)
  | _, _, _ => none

/-- The reduction that an open product writes with, if any (R220). -/
def OpenOp.redMode (o : OpenOp) : Option RedOp :=
  if !o.alternates then none else
  match Desc.opx o.desc 19 18 with
  | 1 => some .addFp32
  | 2 => some .addBf16
  | _ => none

/-- The tile in the writeback buffer is converted and written, or reduced into D (R112, R165, R220). -/
def State.mmaWriteback (s : State) (e : Nat) (o : OpenOp) : State × OpenOp :=
  match o.mmaArgs, o.wbuf with
  | some x, some (i, acc) =>
    let tw := Desc.twrite o.desc
    let mine := x.d.blocks (x.grid.destTile tw x.dr x.dc i)
    match s.sameGenFault e o mine with
    | some f => (s, { o with fault := some f })
    | none =>
      let (s, o) := match o.redMode with
        | some op => (s.redTile e x.grid x.int op x.d x.dr x.dc i acc, o)
        | none =>
          let (s, cells) := s.tileRun e (Desc.sr o.desc) x.grid i (x.spot o.desc) (fun _ => entryVal x.int) acc
          s.putOut e o x.d (destRegion tw ⟨x.dr, x.dc, x.grid.m, x.grid.n⟩).has cells
      s.tileDone e o mine (x.grid.blocksFrom tw x.d x.dr x.dc (i + 1)) x.grid.tiles
  | _, _ => (s, o)

/-- An abort leaves the reductions of the tile in the writeback buffer that have been issued performed, and no other: how many have been
is open (R223; assumption log 72). -/
def State.redPart (s : State) (e : Nat) (o : OpenOp) : State :=
  match o.mmaArgs, o.wbuf, o.redMode with
  | some x, some (i, acc), some op =>
    let (n, s) := s.freeNat
    s.redTile e x.grid x.int op x.d x.dr x.dc i (acc.take (n % (acc.length + 1)))
  | _, _, _ => s

/-- The writeback buffer of a macro-op that runs is free: a finished bank passes to it, or the next tile without a tile step (R112). -/
def State.nextTile (s : State) (e : Nat) (o : OpenOp) : State × OpenOp :=
  let o := o.drainBank
  match o.mmaArgs with
  | some x => if Desc.op o.desc = Op.conv then (s, o) else s.mmaEmpty e o x
  | none => (s, o)

/-- Whether the destination of an array macro-op is at a DA (R160). -/
def State.daDest (s : State) (e q : Nat) (d : Desc) : Bool :=
  match s.tensor e q d.tdD with
  | .ok t => !t.shelf
  | .error _ => false

/-! ### Meanings -/

/-- MMA (R157). -/
def execMma (t : Nat) (e : Fin 96) (q : Fin 4) (s : State) : Host.Outcome State Fault Refusal :=
  let s := s.advance t
  if s.stopped then .next s else
  .next (s.issueNext e q (fun d => decide (d.op = Op.mma)) (s.daDest e q) fun s site o => s.mmaBody site o false)

/-- MMA_BWD_X (R218): on an F engine F_ENGINE_CLASS, whatever the descriptor names (R103, R235). -/
def execMmaBwdX (t : Nat) (e : Fin 96) (q : Fin 4) (s : State) : Host.Outcome State Fault Refusal :=
  let s := s.advance t
  if s.stopped then .next s else
  .next (s.issueNext e q (fun d => decide (d.op = Op.mmaBwdX)) (s.daDest e q) fun s site o =>
    if e.val % 3 = 0 then .fault ⟨F.engineClass, 0, 0⟩ else s.mmaBody site o true)

/-- MMA_BWD_W (R218). -/
def execMmaBwdW (t : Nat) (e : Fin 96) (q : Fin 4) (s : State) : Host.Outcome State Fault Refusal :=
  let s := s.advance t
  if s.stopped then .next s else
  .next (s.issueNext e q (fun d => decide (d.op = Op.mmaBwdW)) (s.daDest e q) fun s site o =>
    if e.val % 3 = 0 then .fault ⟨F.engineClass, 0, 0⟩ else s.mmaBody site o true)

end Sys2Proof.Machine
end

