-- ==== Sys2Proof/Machine/Rows.lean ====
section
/-! DEFINITION. The row unit's macro-ops on rows of d elements: NORM, NORM.BWD, SMAX, SMAX.BWD (R226 to R232), and REDUCE
(R172). -/

namespace Sys2Proof.Machine

/-! ### The formulas (R226, R231, R232) -/

/-- The product of FP32 values, exact. -/
def mulVals (xs : List W32) : FVal := xs.foldl (fun a x => a.mul (f32 x)) (.fin false 1 0)

/-- The exact difference of FP32 values. -/
def subVal (x y : W32) : FVal := (f32 x).add (f32 y).neg

/-- The operands of an element, as the key of its free error. -/
def elemKey (tag : Nat) (xs : List W32) : List Nat := tag :: xs.map (·.toNat)

/-- Stats of a row: μ and ρ. -/
abbrev Stats := W32 × W32

/-- Passes 1 and 2 of LayerNorm, pass 1 of RMSNorm. -/
def rowStats (k : Nat) (rms : Bool) (eps : W32) (xs : List W32) : Stats :=
  let key := xs.map (·.toNat)
  let sq := fun (v : FVal) => v.mul v
  if rms then (0, rsqrt32 k (add32 (rmean k key (xs.map fun x => sq (f32 x))) eps))
  else
    let mu := rmean k key (xs.map f32)
    (mu, rsqrt32 k (add32 (rmean k (mu.toNat :: key) (xs.map fun x => sq (subVal x mu))) eps))

/-- y = γ (x − μ) ρ + β; μ is 0 for RMSNorm. -/
def normElem (k : Nat) (st : Stats) (x gam beta : W32) : W32 :=
  elem32 k (((subVal x st.1).mul (mulVals [gam, st.2])).add (f32 beta)) (elemKey 1 [x, st.1, st.2, gam, beta])

/-- x̂: (x − μ) ρ, or x ρ for RMSNorm. -/
def xhat (rms : Bool) (st : Stats) (x : W32) : FVal := (if rms then f32 x else subVal x st.1).mul (f32 st.2)

/-- dx of a row (R226): the formula on the exact ĝ and x̂ with the reductions a and b (R232). -/
def normBwdRow (k : Nat) (rms : Bool) (st : Stats) (xs gs gams : List W32) : List W32 :=
  let gh := List.zipWith (fun g y => mulVals [g, y]) gs gams
  let xh := xs.map (xhat rms st)
  let key := (xs ++ gs).map (·.toNat)
  let a := if rms then 0 else rmean k key gh
  let b := rmean k (st.2.toNat :: key) (List.zipWith FVal.mul gh xh)
  ((xs.zip gs).zip (gh.zip xh)).map fun y =>
    let v := (((y.2.1).add (f32 a).neg).add ((y.2.2).mul (f32 b)).neg).mul (f32 st.2)
    elem32 k v (elemKey 2 [y.1.1, y.1.2, a, b, st.1, st.2])

/-- One row of SMAX: +0 throughout when every s x is −infinity (R231). -/
def smaxRow (k : Nat) (sc : W32) (xs : List W32) : List W32 :=
  let ys := xs.map (mul32 sc)
  if ys.all (fun y => decide (y = 0xFF800000)) then xs.map fun _ => 0 else
  let m := rmax ys
  let es := ys.map fun y => exp32 k (sub32 y m)
  let z := rsum k es
  es.map fun x => elem32 k ((f32 x).div (f32 z)) (elemKey 3 [x, z])

/-- One row of SMAX.BWD: +0 throughout when y is all zero (R231). -/
def smaxBwdRow (k : Nat) (sc : W32) (ys gs : List W32) : List W32 :=
  if ys.all (fun y => (f32 y).isZero) then ys.map fun _ => 0 else
  let c := round32 (rsumVals k ((ys ++ gs).map (·.toNat)) (List.zipWith (fun y g => mulVals [g, y]) ys gs))
  (List.zipWith (fun y g => (y, g)) ys gs).map fun x =>
    elem32 k ((mulVals [sc, x.1]).mul (subVal x.2 c)) (elemKey 4 [sc, x.1, x.2, c])

/-! ### Descriptors (R227) -/

/-- The region that ARG0 and ARG1 name. -/
def rowRegion (d : Desc) : Reg2 :=
  ⟨bits (d.arg 1) 23 0, bits (d.arg 1) 47 24, bits (d.arg 0) 23 0, bits (d.arg 0) 47 24⟩

/-- The reserved fields and limits that the four macro-ops share: `opx` is the first reserved OPX bit. -/
def rowReserved (d : Desc) (opx : Nat) : Bool :=
  bits (d.arg 0) 63 48 != 0 || bits (d.arg 1) 63 48 != 0 || bits (d.arg 2) 63 32 != 0 || d.opx 63 opx != 0 ||
  !(inRange (rowRegion d).n 1 65536)

/-- ARG2 as FP32: ε or s. -/
def rowScalar (d : Desc) : W32 := BitVec.ofNat 32 (bits (d.arg 2) 31 0)

/-- DA of the stats of row r. -/
def statsDa (e : Nat) (d : Desc) (r : Nat) : Nat :=
  (if bit (d.w 2) 17 then shelfDa e (d.arg 3) else d.arg 3) + 8 * r

/-- The stats of row r as stored (R228). -/
def State.loadStats (s : State) (e : Nat) (d : Desc) (r : Nat) : Stats :=
  (BitVec.ofNat 32 (s.loadNat (statsDa e d r) 4), BitVec.ofNat 32 (s.loadNat (statsDa e d r + 4) 4))

/-- Writes FP32 values at a DA as one conversion run, and counts (R119, R121, R123). -/
def State.putFp32 (s : State) (e : Nat) (sr : Bool) (a : Nat) (vs : List W32) : State :=
  let cs := vs.map fun v => convert .fp32 .rne (f32 v)
  let s := (s.stepLanes e sr vs.length).countNum e (cs.foldl (fun n c => n.add c.count) {})
  s.store a (cs.flatMap fun c => leBytes 4 c.bits)

/-- Writes the stats of row r (R228). -/
def State.putStats (s : State) (e : Nat) (d : Desc) (r : Nat) (st : Stats) : State :=
  s.putFp32 e d.sr (statsDa e d r) [st.1, st.2]

/-- The 1 × d vector of γ or β (assumption log 27). -/
def State.vector32 (s : State) (e : Nat) (t : Tensor) (n : Nat) : List W32 := s.row32 e t ⟨0, 0, 1, n⟩ 0

/-- Passes of a row (R226). -/
def rowPasses (d : Desc) : Nat :=
  let op := d.op
  if op = Op.smax then 3
  else if op = Op.norm ∨ op = Op.normBwd then (if bit (d.w 2) 16 then 2 else 3)
  else if op = Op.smaxBwd then 2
  else 1

/-- A row macro-op's launch: each row is a unit of its passes. `srcs i` are the sources of row i, `more i` what it writes beside its
row of D. -/
def rowUnits (d : Desc) (g : Reg2) (y : Tensor) (srcs : Nat → List Source) (more : Nat → Launch) : List WorkUnit :=
  (List.range g.m).map fun i =>
    { due := (i + 1) * rowPasses d, srcs := srcs i,
      blocks := dedup (y.blocks (destRow d.twrite g i) ++ (more i).blocks) }

/-- The stats of n rows from row r as bytes at ARG3. -/
def statsSource (e : Nat) (d : Desc) (r n : Nat) : Source :=
  { byteSource e (bit (d.w 2) 17) (d.arg 3 + 8 * r) (8 * n) 0 with blocks := [] }

/-- Issue of NORM (R226 to R228). -/
def State.normBody (s : State) (site : Site) (o : OpenOp) : Issue :=
  issueOf do
    let d := o.desc
    let g := rowRegion d
    stopIf (rowReserved d 18 || decide (Desc.arg d 4 ≠ 0)) (invalidAt 0)
    let x ← s.operand site (Desc.tdA d)
    let gam ← s.operand site (Desc.tdB d)
    let beta ← s.optOperand site (Desc.tdC d)
    let y ← s.operand site (Desc.tdD d)
    x.within g
    gam.within ⟨0, 0, 1, g.n⟩
    match beta with
    | some b => b.within ⟨0, 0, 1, g.n⟩
    | none => pure ()
    y.destOk (Desc.twrite d) g
    let e := site.e
    let betaSrc := match beta with
      | some b => [b.source e ⟨0, 0, 1, g.n⟩ (Desc.genC d)]
      | none => []
    let vecs := gam.source e ⟨0, 0, 1, g.n⟩ (Desc.genB d) :: betaSrc
    let stats := fun (l : Launch) (r n : Nat) =>
      if Desc.arg d 3 = 0 then l else l.intoBytes e (bit (Desc.w d 2) 17) (Desc.arg d 3 + 8 * r) (8 * n)
    let l : Launch := { srcs := x.source e g (Desc.genA d) :: vecs, steps := g.m * rowPasses d }
    let l := stats (l.into y e (destRegion (Desc.twrite d) g)) 0 g.m
    return s.launchUnits site (s.latch site o) l
      (rowUnits d g y (fun i => x.source e ⟨g.r + i, g.c, 1, g.n⟩ (Desc.genA d) :: vecs) fun i => stats {} i 1)

/-- Row i of an open NORM. -/
def State.normUnit (s : State) (e : Nat) (o : OpenOp) (i : Nat) : State × OpenOp :=
  match o.entry 0, o.entry 1, o.entry 3 with
  | some x, some gam, some y =>
    let d := o.desc
    let g := rowRegion d
    let betas := match o.entry 2 with
      | some b => s.vector32 e b g.n
      | none => List.replicate g.n 0
    let xs := s.row32 e x g i
    let st := rowStats s.free (bit (Desc.w d 2) 16) (rowScalar d) xs
    let vs := (xs.zip ((s.vector32 e gam g.n).zip betas)).map fun c => f32 (normElem s.free st c.1 c.2.1 c.2.2)
    let (s, o) := s.putRow e o y g i vs
    (if Desc.arg d 3 = 0 then s else s.putStats e d i st, o)
  | _, _, _ => (s, o)

/-- The reductions NORM.BWD makes at its end: the column sums of g x̂ and of g (R229). `rows` holds, of each row, g x̂ and then g. -/
def paramGrads (k a d : Nat) (rows : List (List W32)) : List (Nat × W32) :=
  (List.range (2 * d)).map fun c => (a + 4 * c, rsum k (rows.map fun r => r.getD c 0))

/-- The checks of NORM.BWD: its encoding, its tensors x, γ, g and dx with their regions, and its shadow buffer (R227, R229). -/
def State.normBwdCheck (s : State) (site : Site) (d : Desc) : Except OpFault (Tensor × Tensor × Tensor × Tensor) := do
  let g := rowRegion d
  let buf := d.arg 4
  stopIf (rowReserved d 18 || decide (d.arg 3 = 0) || (decide (buf ≠ 0) && decide (16384 < g.n))) (invalidAt 0)
  let x ← s.operand site d.tdA
  let gam ← s.operand site d.tdB
  let up ← s.operand site d.tdC
  let y ← s.operand site d.tdD
  x.within g
  gam.within ⟨0, 0, 1, g.n⟩
  up.within g
  y.destOk d.twrite g
  if buf ≠ 0 then
    match s.atomFault buf (8 * g.n) (decide (buf % 4 = 0)) with
    | some code => stopIf true ⟨code, buf, 0⟩
    | none =>
      match s.opFaultAt site.part buf (8 * g.n) with
      | some (code, a) => stopIf true ⟨code, a, 0⟩
      | none => pure ()
  return (x, gam, up, y)

/-- Issue of NORM.BWD (R226 to R229). -/
def State.normBwdBody (s : State) (site : Site) (o : OpenOp) : Issue :=
  issueOf do
    let d := o.desc
    let g := rowRegion d
    let (x, gam, up, y) ← s.normBwdCheck site d
    let e := site.e
    let vec := gam.source e ⟨0, 0, 1, g.n⟩ (Desc.genB d)
    let l : Launch := { srcs := [x.source e g (Desc.genA d), vec, up.source e g (Desc.genC d), statsSource e d 0 g.m],
                        steps := g.m * rowPasses d }
    return s.launchUnits site (s.latch site o) (l.into y e (destRegion (Desc.twrite d) g))
      (rowUnits d g y (fun i =>
        let row : Reg2 := ⟨g.r + i, g.c, 1, g.n⟩
        [x.source e row (Desc.genA d), vec, up.source e row (Desc.genC d), statsSource e d i 1]) fun _ => {})

/-- Row i of an open NORM.BWD; the last one forms the column sums. -/
def State.normBwdUnit (s : State) (e : Nat) (o : OpenOp) (i : Nat) : State × OpenOp :=
  match o.entry 0, o.entry 1, o.entry 2, o.entry 3 with
  | some x, some gam, some up, some y =>
    let d := o.desc
    let g := rowRegion d
    let rms := bit (Desc.w d 2) 16
    let buf := Desc.arg d 4
    let st := s.loadStats e d i
    let xs := s.row32 e x g i
    let gs := s.row32 e up g i
    let vs := (normBwdRow s.free rms st xs gs (s.vector32 e gam g.n)).map f32
    let (s, o) := s.putRow e o y g i vs
    if buf = 0 then (s, o) else
    let sums := o.sums ++ [List.zipWith (fun g x => round32 ((f32 g).mul (xhat rms st x))) gs xs ++ gs]
    (s, { o with sums := sums, atEnd := if i + 1 = g.m then paramGrads s.free buf g.n sums else [] })
  | _, _, _, _ => (s, o)

/-- Issue of SMAX (R226, R227). -/
def State.smaxBody (s : State) (site : Site) (o : OpenOp) : Issue :=
  issueOf do
    let d := o.desc
    let g := rowRegion d
    stopIf (rowReserved d 16 || decide (Desc.arg d 3 ≠ 0) || decide (Desc.arg d 4 ≠ 0) || decide (Desc.tdB d ≠ 0xFF) ||
      decide (Desc.tdC d ≠ 0xFF)) (invalidAt 0)
    let x ← s.operand site (Desc.tdA d)
    let y ← s.operand site (Desc.tdD d)
    x.within g
    y.destOk (Desc.twrite d) g
    let e := site.e
    let l : Launch := { srcs := [x.source e g (Desc.genA d)], steps := g.m * rowPasses d }
    return s.launchUnits site (s.latch site o) (l.into y e (destRegion (Desc.twrite d) g))
      (rowUnits d g y (fun i => [x.source e ⟨g.r + i, g.c, 1, g.n⟩ (Desc.genA d)]) fun _ => {})

/-- Row i of an open SMAX. -/
def State.smaxUnit (s : State) (e : Nat) (o : OpenOp) (i : Nat) : State × OpenOp :=
  match o.entry 0, o.entry 3 with
  | some x, some y =>
    let g := rowRegion o.desc
    s.putRow e o y g i ((smaxRow s.free (rowScalar o.desc) (s.row32 e x g i)).map f32)
  | _, _ => (s, o)

/-- Issue of SMAX.BWD (R226, R227). -/
def State.smaxBwdBody (s : State) (site : Site) (o : OpenOp) : Issue :=
  issueOf do
    let d := o.desc
    let g := rowRegion d
    stopIf (rowReserved d 16 || decide (Desc.arg d 3 ≠ 0) || decide (Desc.arg d 4 ≠ 0) || decide (Desc.tdB d ≠ 0xFF))
      (invalidAt 0)
    let y ← s.operand site (Desc.tdA d)
    let up ← s.operand site (Desc.tdC d)
    let t ← s.operand site (Desc.tdD d)
    y.within g
    up.within g
    t.destOk (Desc.twrite d) g
    let e := site.e
    let l : Launch := { srcs := [y.source e g (Desc.genA d), up.source e g (Desc.genC d)], steps := g.m * rowPasses d }
    return s.launchUnits site (s.latch site o) (l.into t e (destRegion (Desc.twrite d) g))
      (rowUnits d g t (fun i =>
        let row : Reg2 := ⟨g.r + i, g.c, 1, g.n⟩
        [y.source e row (Desc.genA d), up.source e row (Desc.genC d)]) fun _ => {})

/-- Row i of an open SMAX.BWD. -/
def State.smaxBwdUnit (s : State) (e : Nat) (o : OpenOp) (i : Nat) : State × OpenOp :=
  match o.entry 0, o.entry 2, o.entry 3 with
  | some y, some up, some t =>
    let g := rowRegion o.desc
    s.putRow e o t g i ((smaxBwdRow s.free (rowScalar o.desc) (s.row32 e y g i) (s.row32 e up g i)).map f32)
  | _, _, _ => (s, o)

/-! ### REDUCE (R172) -/

/-- The index of the first extreme element, row-major; none when every element is a NaN. -/
def firstExtreme (isMax : Bool) (xs : List W32) : Option Nat :=
  (List.range xs.length).find? fun i =>
    let x := f32 (xs.getD i 0)
    !x.isNan && xs.all fun y => if isMax then !(FVal.lt true x (f32 y)) else !(FVal.lt true (f32 y) x)

/-- A result of REDUCE: an FP32 pattern, or an index. -/
inductive Reduced
  | num (w : W32)
  | index (i : Nat)
  deriving DecidableEq, Repr

/-- One reduction; the index of a row of NaNs is a free value. -/
def State.reduceOne (s : State) (fn : Nat) (xs : List W32) : State × Reduced :=
  match fn with
  | 0 => (s, .num (rsum s.free xs))
  | 1 => (s, .num (round32 (rsumVals s.free (xs.map (·.toNat)) (xs.map fun x => mulVals [x, x]))))
  | 2 => (s, .num (rmax xs))
  | 3 => (s, .num (rmin xs))
  | _ =>
    match firstExtreme (decide (fn = 4)) xs with
    | some i => (s, .index i)
    | none =>
      let (n, s) := s.freeNat
      (s, .index (n % 2 ^ 64))

/-- A result as a scalar slot holds it. -/
def Reduced.slot : Reduced → Nat
  | .num w => w.toNat
  | .index i => i

/-- A result as a value for the output converter. -/
def Reduced.val : Reduced → FVal
  | .num w => f32 w
  | .index i => .fin false i 0

/-- OPX[19]: each row of the region is reduced. -/
def reducePerRow (d : Desc) : Bool := bit (d.w 2) 19

/-- OPX[20]: the results go to scalar slots from OPX[30:21] on. -/
def reduceSlots (d : Desc) : Bool := bit (d.w 2) 20

/-- The region of D that the results of REDUCE take. -/
def reduceDest (d : Desc) : Reg2 := ⟨0, 0, if reducePerRow d then (rowRegion d).m else 1, 1⟩

/-- Where in Keeper data memory the scalar slot of result i lies. -/
def reduceSlot (q : Nat) (d : Desc) (i : Nat) : Nat := q * 32768 + 0x6000 + 8 * (d.opx 30 21 + i)

/-- Issue of REDUCE. -/
def State.reduceBody (s : State) (site : Site) (o : OpenOp) : Issue :=
  issueOf do
    let d := o.desc
    let g := rowRegion d
    let n := (reduceDest d).m
    stopIf (decide (5 < Desc.opx d 18 16) || (reduceSlots d && (decide (64 < n) || decide (1024 < Desc.opx d 30 21 + n)))) (invalidAt 0)
    let x ← s.operand site (Desc.tdA d)
    x.within g
    let e := site.e
    let l : Launch := { srcs := [x.source e g (Desc.genA d)], steps := g.m }
    let units := fun (blocks : Nat → List Nat) => (List.range g.m).map fun i =>
      ({ due := i + 1, srcs := [x.source e ⟨g.r + i, g.c, 1, g.n⟩ (Desc.genA d)],
         blocks := if reducePerRow d then blocks i else if i + 1 = g.m then blocks 0 else [] } : WorkUnit)
    let o := s.latch site o
    if reduceSlots d then
      return s.launchUnits site { o with kdst := [(reduceSlot site.q d 0, 8 * n)] } l (units fun _ => [])
    else
      let t ← s.operand site (Desc.tdD d)
      t.destOk (Desc.twrite d) (reduceDest d)
      return s.launchUnits site o (l.into t e (destRegion (Desc.twrite d) (reduceDest d)))
        (units fun i => t.blocks (destRow (Desc.twrite d) (reduceDest d) i))

/-- Result i of an open REDUCE goes to its slot or its element of D. -/
def State.putReduced (s : State) (e q : Nat) (o : OpenOp) (i : Nat) (xs : List W32) : State × OpenOp :=
  let d := o.desc
  let (s, r) := s.reduceOne (Desc.opx d 18 16) xs
  if reduceSlots d then (s.kstore e (reduceSlot q d i) (leBytes 8 r.slot), o) else
  match o.entry 3 with
  | some t => s.putRow e o t (reduceDest d) i [r.val]
  | none => (s, o)

/-- Row i of an open REDUCE: reduced, or kept for the reduction of the whole region. -/
def State.reduceUnit (s : State) (e q : Nat) (o : OpenOp) (i : Nat) : State × OpenOp :=
  match o.entry 0 with
  | none => (s, o)
  | some x =>
    let g := rowRegion o.desc
    let xs := s.row32 e x g i
    if reducePerRow o.desc then s.putReduced e q o i xs
    else if i + 1 < g.m then (s, { o with sums := o.sums ++ [xs] })
    else s.putReduced e q o 0 (o.sums ++ [xs]).flatten

/-! ### Meanings -/

/-- Whether a row-unit macro-op's destination D is at a DA (R160). -/
def State.rowDa (s : State) (e q : Nat) (d : Desc) : Bool :=
  match s.tensor e q d.tdD with
  | .ok t => !t.shelf
  | .error _ => false

/-- Whether any destination of NORM is at a DA: D or the stats (R160). -/
def State.normDa (s : State) (e q : Nat) (d : Desc) : Bool := s.rowDa e q d || (decide (d.arg 3 ≠ 0) && !(bit (d.w 2) 17))

/-- Whether any destination of NORM.BWD is at a DA: D or the gradient buffer (R160). -/
def State.normBwdDa (s : State) (e q : Nat) (d : Desc) : Bool := s.rowDa e q d || decide (d.arg 4 ≠ 0)

/-- NORM (R226). -/
def execNorm (t : Nat) (e : Fin 96) (q : Fin 4) (s : State) : Host.Outcome State Fault Refusal :=
  let s := s.advance t
  if s.stopped then .next s else
  .next (s.issueNext e q (fun d => decide (d.op = Op.norm)) (s.normDa e q) State.normBody)

/-- NORM_BWD (R226, R229). -/
def execNormBwd (t : Nat) (e : Fin 96) (q : Fin 4) (s : State) : Host.Outcome State Fault Refusal :=
  let s := s.advance t
  if s.stopped then .next s else
  .next (s.issueNext e q (fun d => decide (d.op = Op.normBwd)) (s.normBwdDa e q) State.normBwdBody)

/-- SMAX (R226). -/
def execSmax (t : Nat) (e : Fin 96) (q : Fin 4) (s : State) : Host.Outcome State Fault Refusal :=
  let s := s.advance t
  if s.stopped then .next s else
  .next (s.issueNext e q (fun d => decide (d.op = Op.smax)) (s.rowDa e q) State.smaxBody)

/-- SMAX_BWD (R226). -/
def execSmaxBwd (t : Nat) (e : Fin 96) (q : Fin 4) (s : State) : Host.Outcome State Fault Refusal :=
  let s := s.advance t
  if s.stopped then .next s else
  .next (s.issueNext e q (fun d => decide (d.op = Op.smaxBwd)) (s.rowDa e q) State.smaxBwdBody)

/-- REDUCE (R172). -/
def execReduce (t : Nat) (e : Fin 96) (q : Fin 4) (s : State) : Host.Outcome State Fault Refusal :=
  let s := s.advance t
  if s.stopped then .next s else
  .next (s.issueNext e q (fun d => decide (d.op = Op.reduce))
    (fun d => !(bit (d.w 2) 20) && s.rowDa e q d) State.reduceBody)

end Sys2Proof.Machine
end

