-- ==== Sys2Proof/Machine/Scan.lean ====
section
/-! DEFINITION. GATE (R248) and SCAN in its three modes (R236, R237, R249 to R256), with the user function table
(R128). -/

namespace Sys2Proof.Machine

/-! ### Functions (R126 to R128) -/

/-- The value of a BF16 pattern as FP32. -/
def bf16As32 (v : Nat) : W32 := BitVec.ofNat 32 (v % 65536 * 65536)

/-- USER: the segment with the largest index whose breakpoint does not exceed x, segment 0 below all of them (R128). With
no user table the result is open (free value). -/
def State.userFn (s : State) (e : Nat) (x : W32) : W32 :=
  let n := s.fld (Reg.engPwlUserCfg e) 5 0
  if n = 0 then BitVec.ofNat 32 (Config.gateErr s.free 3 x.toNat)
  else if (f32 x).isNan then nan32
  else
    let seg := fun i => s.rd (Reg.engPwlUser e i)
    let i := ((List.range n).filter fun i => !(FVal.lt false (f32 x) (f32 (bf16As32 (bits (seg i) 15 0))))).getLastD 0
    fma32 (bf16As32 (bits (seg i) 31 16)) x (bf16As32 (bits (seg i) 47 32))

/-- A function of the row unit by its code: 0 IDENT, 1 SIG, 2 TANH, 3 SILU, 4 USER (R238). -/
def State.gateFn (s : State) (e fn : Nat) (x : W32) : W32 :=
  match fn with
  | 0 => x
  | 1 => sig32 s.free x
  | 2 => tanh32 s.free x
  | 3 => silu32 s.free x
  | _ => s.userFn e x

/-! ### GATE (R248) -/

/-- The element that a FULL, ROW or COLUMN operand gives at (i, j) of the region. -/
def State.shaped (s : State) (e : Nat) (t : Tensor) (shape : Nat) (g : Reg2) (i j : Nat) : W32 :=
  match shape with
  | 0 => s.elem32 e t (g.r + i) (g.c + j)
  | 1 => s.elem32 e t 0 j
  | _ => s.elem32 e t i 0

/-- The region that an operand of a shape takes. -/
def shapedRegion (shape : Nat) (g : Reg2) : Reg2 :=
  match shape with
  | 0 => g
  | 1 => ⟨0, 0, 1, g.n⟩
  | _ => ⟨0, 0, g.m, 1⟩

/-- One element of GATE: F(s × X ⊙ P) ⊙ Z. -/
def State.gateElem (s : State) (e fn : Nat) (sc x : W32) (p z : Option W32) : W32 :=
  let v := mul32 sc x
  let v := match p with
    | some y => mul32 v y
    | none => v
  let v := if fn = 4 then exp32 s.free v else s.gateFn e (if fn = 5 then 4 else fn) v
  match z with
  | some y => mul32 v y
  | none => v

/-- F of GATE. -/
def gateFnOf (d : Desc) : Nat := d.opx 18 16

/-- Row i of an operand of a shape, as a region. -/
def shapedRow (shape : Nat) (g : Reg2) (i : Nat) : Reg2 :=
  match shape with
  | 0 => ⟨g.r + i, g.c, 1, g.n⟩
  | 1 => ⟨0, 0, 1, g.n⟩
  | _ => ⟨i, 0, 1, 1⟩

/-- The checks of GATE: its encoding, and its tensors X, P, Z and Y with their regions (R248). -/
def State.gateCheck (s : State) (site : Site) (d : Desc) : Except OpFault (Tensor × Option Tensor × Option Tensor × Tensor) := do
  let g := rowRegion d
  stopIf (rowReserved d 23 || decide (d.arg 3 ≠ 0) || decide (d.arg 4 ≠ 0) || decide (5 < gateFnOf d) ||
    decide (d.opx 20 19 = 3) || decide (d.opx 22 21 = 3)) (invalidAt 0)
  let x ← s.operand site d.tdA
  let p ← s.optOperand site d.tdB
  let z ← s.optOperand site d.tdC
  let y ← s.operand site d.tdD
  x.within (shapedRegion (d.opx 20 19) g)
  match p with
  | some t => t.within (shapedRegion (d.opx 22 21) g)
  | none => pure ()
  match z with
  | some t => t.within g
  | none => pure ()
  y.destOk d.twrite g
  return (x, p, z, y)

/-- Issue of GATE. -/
def State.gateBody (s : State) (site : Site) (o : OpenOp) : Issue :=
  issueOf do
    let d := o.desc
    let g := rowRegion d
    let sx := Desc.opx d 20 19
    let sp := Desc.opx d 22 21
    let (x, p, z, y) ← s.gateCheck site d
    let e := site.e
    let src := fun (t : Option Tensor) (r : Reg2) (gen : Nat) => match t with
      | some t => [t.source e r gen]
      | none => []
    let l : Launch := { srcs := [x.source e (shapedRegion sx g) (Desc.genA d)] ++ src p (shapedRegion sp g) (Desc.genB d) ++
                          src z g (Desc.genC d), steps := g.m * rowPasses d }
    return s.launchUnits site (s.latch site o) (l.into y e (destRegion (Desc.twrite d) g))
      (rowUnits d g y (fun i => [x.source e (shapedRow sx g i) (Desc.genA d)] ++ src p (shapedRow sp g i) (Desc.genB d) ++
        src z (shapedRow 0 g i) (Desc.genC d)) fun _ => {})

/-- Row i of an open GATE. -/
def State.gateUnit (s : State) (e : Nat) (o : OpenOp) (i : Nat) : State × OpenOp :=
  match o.entry 0, o.entry 3 with
  | some x, some y =>
    let d := o.desc
    let g := rowRegion d
    s.putRow e o y g i ((List.range g.n).map fun j =>
      f32 (s.gateElem e (gateFnOf d) (rowScalar d) (s.shaped e x (Desc.opx d 20 19) g i j)
        ((o.entry 1).map fun t => s.shaped e t (Desc.opx d 22 21) g i j) ((o.entry 2).map fun t => s.shaped e t 0 g i j)))
  | _, _ => (s, o)

/-! ### SCAN (R249) -/

/-- The arguments of SCAN. -/
structure ScanArgs where
  t : Nat
  n : Nat
  r : Nat
  c : Nat
  l : Nat
  m : Nat
  flagStride : Nat
  flagBase : Nat
  carry : Nat
  mode : Nat
  product : Bool
  carryShelf : Bool
  flagShelf : Bool
  groupLog : Nat
  fmt : Option Fmt
  zero : Bool
  flags : Bool
  genCarry : Nat
  genFlags : Nat
  deriving DecidableEq, Repr

/-- The carried-state formats (R237, R249). -/
def carryFmt : Nat → Option Fmt
  | 1 => some .bf16 | 3 => some .e4m3 | 4 => some .e5m2 | _ => none

/-- The arguments of a descriptor. -/
def scanArgs (d : Desc) : ScanArgs :=
  { t := bits (d.arg 0) 23 0, n := bits (d.arg 0) 47 24, r := bits (d.arg 1) 23 0, c := bits (d.arg 1) 47 24,
    l := bits (d.arg 2) 15 0, m := bits (d.arg 2) 31 16, flagStride := bits (d.arg 2) 63 32, flagBase := d.arg 3,
    carry := d.arg 4, mode := d.opx 17 16, product := bit (d.w 2) 18, carryShelf := bit (d.w 2) 19,
    flagShelf := bit (d.w 2) 20, groupLog := d.opx 23 21, fmt := carryFmt (d.opx 27 24), zero := bit (d.w 2) 28,
    flags := bit (d.w 2) 29, genCarry := d.opx 35 32, genFlags := d.opx 39 36 }

/-- Channels of a group. -/
def ScanArgs.groupSize (x : ScanArgs) : Nat := 2 ^ (x.groupLog + 5)

/-- G. -/
def ScanArgs.groups (x : ScanArgs) : Nat := ceilDiv x.n x.groupSize

/-- The region of T × n. -/
def ScanArgs.region (x : ScanArgs) : Reg2 := ⟨x.r, x.c, x.t, x.n⟩

/-- The invalid encodings of SCAN (R154, R237, R249). -/
def scanReserved (d : Desc) : Bool :=
  let x := scanArgs d
  bits (d.arg 0) 63 48 != 0 || bits (d.arg 1) 63 48 != 0 || d.opx 31 30 != 0 || d.opx 63 40 != 0 ||
  !(inRange x.n 1 65536) || x.fmt.isNone || (x.product && decide (x.mode = 2)) ||
  (if x.product then decide (x.l ≠ 64) || decide (x.m % 32 ≠ 0) || decide (x.m = 0)
   else decide (x.l % 16 ≠ 0) || !(inRange x.l 16 1024) || decide (x.m ≠ 0) || decide (d.tdC ≠ 0xFF)) ||
  (x.flags && decide (x.flagStride < ceilDiv x.groups 8)) || (decide (x.mode = 1) && bits (d.arg 4) 63 24 != 0)

/-- Bytes of the carry vector. -/
def ScanArgs.carryBytes (x : ScanArgs) : Nat :=
  match x.fmt with
  | some f => x.n * f.width / 8
  | none => 0

/-- DA of the carry vector. -/
def ScanArgs.carryDa (x : ScanArgs) (e : Nat) : Nat := if x.carryShelf then shelfDa e x.carry else x.carry

/-- Whether step t is flagged for channel c. -/
def State.scanFlag (s : State) (e : Nat) (x : ScanArgs) (t c : Nat) : Bool :=
  let g := c / x.groupSize
  let a := (if x.flagShelf then shelfDa e x.flagBase else x.flagBase) + t * x.flagStride + g / 8
  x.flags && (s.byteAt a).toNat.testBit (g % 8)

/-- b of step t and channel c, and its wrapped additions: TD_B's element, or the product of R251. -/
def State.scanInput (s : State) (e : Nat) (x : ScanArgs) (b : Tensor) (w : Option Tensor) (t c : Nat) : W32 × Nat :=
  match w with
  | none => (s.elem32 e b (x.r + t) (x.c + c), 0)
  | some w =>
    let lanes := min b.fmt.lanes w.fmt.lanes
    let hi := if b.padZero && w.padZero then x.m else ceilDiv x.m lanes * lanes
    let fa := fun k => s.fed e b (decide (k < x.m)) (decide (k / 32 * 32 < x.m)) (x.r + t) k
    let fb := fun k => s.fed e w (decide (k < x.m)) (decide (k / 32 * 32 < x.m)) c k
    if b.fmt.isInt then
      let (v, n) := dotInt 0 hi fa fb 0
      (round32 (FVal.ofInt v.toInt 0), n)
    else (dotFp 0 hi fa fb (fun _ => false) 0, 0)

/-- Issue cycles of the T3 tile that forms b of a chunk step (R108, R251). -/
def ScanArgs.cycles (x : ScanArgs) (lanes : Nat) : Nat := if x.product then 32 * ceilDiv x.m lanes else 0

/-- Chunks, and lane groups of 256 channels. -/
def ScanArgs.chunks (x : ScanArgs) : Nat := ceilDiv x.t x.l
def ScanArgs.laneGroups (x : ScanArgs) : Nat := ceilDiv x.n 256

/-- The chunk and the lane group of chunk step i: lane group by lane group within a chunk; in LOCAL, whose summaries leave the engine
when their lane group is finished (R256), chunk by chunk within a lane group. -/
def ScanArgs.spot (x : ScanArgs) (i : Nat) : Nat × Nat :=
  if x.mode = 1 then (i % x.chunks, i / x.chunks) else (i / x.laneGroups, i % x.laneGroups)

/-- The steps of chunk j in the order they run: descending under REVERSE (R254). -/
def ScanArgs.chunk (x : ScanArgs) (j : Nat) : List Nat :=
  (List.range (min x.l (x.t - j * x.l))).map fun i =>
    if x.mode = 2 then x.t - 1 - (j * x.l + i) else j * x.l + i

/-- The first step, by number, of chunk j. -/
def ScanArgs.chunkLow (x : ScanArgs) (j : Nat) : Nat := (x.chunk j).foldl min x.t

/-- The channels of lane group g. -/
def ScanArgs.lanes (x : ScanArgs) (g : Nat) : List Nat := (List.range (min 256 (x.n - 256 * g))).map (256 * g + ·)

/-- The region that chunk step (j, g) takes in TD_A, in H, and, DIRECT, in TD_B. -/
def ScanArgs.piece (x : ScanArgs) (j g : Nat) : Reg2 :=
  ⟨x.r + x.chunkLow j, x.c + 256 * g, (x.chunk j).length, (x.lanes g).length⟩

/-- What a chunk step carries along: the generators' state in `s`, the state vector of its lanes, the cells of H, and what is
counted. -/
structure ScanRun where
  s : State
  h : List W32
  cells : List OutCell := []
  wraps : Nat := 0

/-- Step t of lane group g, with its conversion run of H (R236, R250). -/
def ScanRun.step (k : ScanRun) (e : Nat) (d : Desc) (x : ScanArgs) (a b : Tensor) (w h : Option Tensor) (g t : Nat) : ScanRun :=
  let s := k.s
  let new := (x.lanes g).map fun c =>
    let bt := s.scanInput e x b w t c
    (if s.scanFlag e x t c then bt.1 else fma32 (s.elem32 e a (x.r + t) (x.c + c)) (k.h.getD (c - 256 * g) 0) bt.1, bt.2)
  let k := { k with h := new.map (·.1), wraps := new.foldl (fun n v => n + v.2) k.wraps }
  if h.isNone then k else
  let out := new.mapIdx fun i v =>
    let p := resultAt d.twrite x.r x.c t (256 * g + i)
    (⟨p.1, p.2, f32 v.1, s.runMode e d.sr i⟩ : OutCell)
  { k with cells := k.cells ++ out, s := s.stepLanes e d.sr new.length }

/-- DA of the carried state of lane group g. -/
def ScanArgs.laneCarry (x : ScanArgs) (e g bytes : Nat) : Nat := x.carryDa e + 256 * g * bytes

/-- The state that lane group g enters chunk j with: the carry vector, or 0 under CARRY_ZERO. After each chunk step it goes on from the
rounded value, which is then in the carry vector (R250). -/
def State.scanCarry (s : State) (e : Nat) (x : ScanArgs) (f : Fmt) (j g : Nat) : List W32 :=
  let bytes := f.width / 8
  (x.lanes g).mapIdx fun i _ =>
    if j = 0 ∧ x.zero then 0 else round32 (f.decode (s.loadNat (x.laneCarry e g bytes + i * bytes) bytes))

/-- The end of a chunk step: the lane group's state is rounded to CARRY_FMT and written to the carry vector (R250). -/
def State.putCarry (s : State) (e : Nat) (sr : Bool) (x : ScanArgs) (f : Fmt) (g : Nat) (h : List W32) : State :=
  let vs := h.mapIdx fun i v => convert f (s.runMode e sr i) (f32 v)
  let s := (s.stepLanes e sr vs.length).countNum e (vs.foldl (fun n v => n.add v.count) {})
  s.store (x.laneCarry e g (f.width / 8)) (vs.flatMap fun v => leBytes (f.width / 8) v.bits)

/-- One step of the segment summary (A, B, F) of a channel (R252). -/
def State.scanJoin (s : State) (e : Nat) (x : ScanArgs) (a b : Tensor) (w : Option Tensor) (c : Nat) (k : W32 × W32 × W32) (t : Nat) :
    W32 × W32 × W32 :=
  let bt := (s.scanInput e x b w t c).1
  if s.scanFlag e x t c then (0x3F800000, bt, 1)
  else
    let at' := s.elem32 e a (x.r + t) (x.c + c)
    (mul32 k.1 at', fma32 at' k.2.1 bt, k.2.2)

/-- The first summary row (LOCAL). -/
def scanRow (d : Desc) : Nat := bits (d.arg 4) 23 0

/-- The summary of lane group g is written: A and B through the output converter (R252). -/
def State.putSummary (s : State) (e : Nat) (o : OpenOp) (x : ScanArgs) (t : Tensor) (g : Nat) (sums : List (List W32)) :
    State × OpenOp :=
  let d := o.desc
  let tw := Desc.twrite d
  [0, 1].foldl (fun (a : State × OpenOp) i =>
    let vs := sums.getD i []
    let cells := vs.mapIdx fun j v =>
      let p := resultAt tw (scanRow d) x.c i (256 * g + j)
      (⟨p.1, p.2, f32 v, a.1.runMode e (Desc.sr d) j⟩ : OutCell)
    (a.1.stepLanes e (Desc.sr d) vs.length).putOut e a.2 t (fun _ _ => true) cells) (s, o)

/-- F is written: a bitmap of G bits at the start of the row after B, the rest of that row 0 (R252); transposed, of that column
(assumption log 73). -/
def State.putFlags (s : State) (e : Nat) (d : Desc) (x : ScanArgs) (t : Tensor) (flags : List W32) : State :=
  let flag := fun g => decide (flags.getD (g * x.groupSize) 0 = 1)
  let word := fun j => ofBits 32 fun i => decide (32 * j + i < x.groups) && flag (32 * j + i)
  if d.twrite then (List.range t.rows).foldl (fun s j => s.putElem e t j (x.c + 2) (word j)) s
  else (List.range t.cols).foldl (fun s j => s.putElem e t (scanRow d + 2) j (word j)) s

/-- The regions of TD_D that LOCAL writes: A and B of lane group g, or of all, and F. -/
def scanSums (d : Desc) (x : ScanArgs) (first n : Nat) : Reg2 :=
  if d.twrite then ⟨scanRow d + first, x.c, n, 2⟩ else ⟨scanRow d, x.c + first, 2, n⟩

/-- The row, or transposed the column, that holds F. -/
def scanBitmap (d : Desc) (x : ScanArgs) (t : Tensor) : Reg2 :=
  if d.twrite then ⟨0, x.c + 2, t.rows, 1⟩ else ⟨scanRow d + 2, 0, 1, t.cols⟩

/-- The flag bytes of steps [t, t + n), as a source. -/
def ScanArgs.flagSource (x : ScanArgs) (e t n : Nat) : List Source :=
  if x.flags ∧ 0 < n then
    [byteSource e x.flagShelf (x.flagBase + t * x.flagStride) ((n - 1) * x.flagStride + ceilDiv x.groups 8) x.genFlags]
  else []

/-- The sources of chunk step (j, g), or of the whole SCAN. -/
def scanSources (e : Nat) (d : Desc) (x : ScanArgs) (a b : Tensor) (w : Option Tensor) (spot : Option (Nat × Nat)) : List Source :=
  let g := match spot with
    | some (j, g) => x.piece j g
    | none => x.region
  let lane := match spot with
    | some (_, g) => (256 * g, (x.lanes g).length)
    | none => (0, x.n)
  [a.source e g d.genA, b.source e (if x.product then ⟨g.r, 0, g.m, x.m⟩ else g) d.genB] ++
  (match w with
   | some w => [w.source e ⟨lane.1, 0, lane.2, x.m⟩ d.genC]
   | none => []) ++
  x.flagSource e (g.r - x.r) g.m ++
  (if x.mode ≠ 1 ∧ !x.zero ∧ spot.all (fun p => decide (p.1 = 0)) then
     let bytes := (x.fmt.getD .bf16).width / 8
     [byteSource e x.carryShelf (x.carry + lane.1 * bytes) (lane.2 * bytes) x.genCarry]
   else [])

/-- The units of a SCAN: its chunk steps. `blocks` gives the Shelf blocks that chunk step (j, g) writes. -/
def scanUnits (e : Nat) (d : Desc) (x : ScanArgs) (a b : Tensor) (w : Option Tensor) (blocks : Nat → Nat → List Nat) : List WorkUnit :=
  (List.range (x.chunks * x.laneGroups)).map fun i =>
    let p := x.spot i
    { due := i + 1, srcs := scanSources e d x a b w (some p), blocks := dedup (blocks p.1 p.2) }

/-- The checks of SCAN: its encoding, and its tensors A, B, W and H with their regions; LOCAL writes its summary to H (R249, R252). -/
def State.scanCheck (s : State) (site : Site) (d : Desc) : Except OpFault (Tensor × Tensor × Option Tensor × Option Tensor) := do
  let x := scanArgs d
  stopIf (scanReserved d) (invalidAt 0)
  let a ← s.operand site d.tdA
  let b ← s.operand site d.tdB
  let w ← s.optOperand site d.tdC
  let h ← s.optOperand site d.tdD
  stopIf (x.product && w.isNone) (invalidAt 0)
  a.within x.region
  b.within (if x.product then ⟨x.r, 0, x.t, x.m⟩ else x.region)
  match w with
  | some w =>
    stopIf (b.fmt.isInt != w.fmt.isInt) ⟨F.format, 0, 0⟩
    stopIf (decide (32 * min b.fmt.lanes w.fmt.lanes < x.m)) (invalidAt 0)
    w.within ⟨0, 0, x.n, x.m⟩
  | none => pure ()
  match h with
  | some t =>
    if x.mode = 1 then
      stopIf (decide (t.fmt ≠ .fp32) || (d.twrite && !t.shelf)) (invalidAt 0)
      t.within (destRegion d.twrite ⟨scanRow d, x.c, 3, x.n⟩)
    else t.destOk d.twrite x.region
  | none => stopIf (decide (x.mode = 1)) (invalidAt 0)
  return (a, b, w, h)

/-- What SCAN reads and writes. -/
def scanLaunch (e : Nat) (d : Desc) (a b : Tensor) (w h : Option Tensor) : Launch :=
  let x := scanArgs d
  let l : Launch := { srcs := scanSources e d x a b w none, steps := x.chunks * x.laneGroups }
  if x.mode = 1 then
    match h with
    | some t => (l.into t e (scanSums d x 0 x.n)).into t e (scanBitmap d x t)
    | none => l
  else
    (match h with
     | some t => l.into t e (destRegion d.twrite x.region)
     | none => l).intoBytes e x.carryShelf x.carry x.carryBytes

/-- The Shelf blocks that chunk step (j, g) of SCAN writes. -/
def scanBlocks (d : Desc) (h : Option Tensor) (j g : Nat) : List Nat :=
  let x := scanArgs d
  if x.mode = 1 then
    match h with
    | some t =>
      if j + 1 < x.chunks then [] else
      t.blocks (scanSums d x (256 * g) (x.lanes g).length) ++ (if g + 1 < x.laneGroups then [] else t.blocks (scanBitmap d x t))
    | none => []
  else
    let bytes := (x.fmt.getD .bf16).width / 8
    let p := x.piece j g
    (match h with
     | some t => t.blocks (if d.twrite then ⟨x.r + (p.c - x.c), x.c + (p.r - x.r), p.n, p.m⟩ else p)
     | none => []) ++
    (if x.carryShelf then rangeBlocks (x.carry + 256 * g * bytes) ((x.lanes g).length * bytes) else [])

/-- Issue of SCAN. -/
def State.scanBody (s : State) (site : Site) (o : OpenOp) : Issue :=
  issueOf do
    let d := o.desc
    let (a, b, w, h) ← s.scanCheck site d
    return (if (scanArgs d).product then s.clearStation site.e else s).launchUnits site (s.latch site o)
      (scanLaunch site.e d a b w h) (scanUnits site.e d (scanArgs d) a b w (scanBlocks d h))

/-- Chunk step i of an open SCAN in FULL or REVERSE. -/
def State.scanChunk (s : State) (e : Nat) (o : OpenOp) (x : ScanArgs) (a b : Tensor) (j g : Nat) : State × OpenOp :=
  let d := o.desc
  let f := x.fmt.getD .bf16
  let h := o.entry 3
  let k := (x.chunk j).foldl (fun (k : ScanRun) t => k.step e d x a b (o.entry 2) h g t) { s := s, h := s.scanCarry e x f j g }
  let s := k.s.countNum e ⟨0, 0, k.wraps⟩
  let (s, o) := match h with
    | some t => s.putOut e o t (destRegion (Desc.twrite d) x.region).has k.cells
    | none => (s, o)
  (s.putCarry e (Desc.sr d) x f g k.h, o)

/-- Chunk step (j, g) of an open SCAN in LOCAL: the summary of the lane group goes on, and is written after its last chunk. -/
def State.scanPart (s : State) (e : Nat) (o : OpenOp) (x : ScanArgs) (a b : Tensor) (j g : Nat) : State × OpenOp :=
  let w := o.entry 2
  let old := fun (r i : Nat) (z : W32) => if j = 0 then z else (o.sums.getD r []).getD i z
  let new := (x.lanes g).mapIdx fun i c =>
    (x.chunk j).foldl (s.scanJoin e x a b w c) (old 0 i 0x3F800000, old 1 i 0, old 2 i 0)
  let wraps := (x.lanes g).foldl (fun n c => (x.chunk j).foldl (fun n t => n + (s.scanInput e x b w t c).2) n) 0
  let s := s.countNum e ⟨0, 0, wraps⟩
  let sums := [new.map (·.1), new.map (·.2.1), new.map (·.2.2), o.sums.getD 3 []]
  if j + 1 < x.chunks then (s, { o with sums := sums }) else
  let flags := o.sums.getD 3 [] ++ new.map (·.2.2)
  match o.entry 3 with
  | none => (s, o)
  | some t =>
    let (s, o) := s.putSummary e { o with sums := [[], [], [], flags] } x t g sums
    (if g + 1 < x.laneGroups then s else s.putFlags e o.desc x t flags, o)

/-- Chunk step i of an open SCAN. -/
def State.scanUnit (s : State) (e : Nat) (o : OpenOp) (i : Nat) : State × OpenOp :=
  match o.entry 0, o.entry 1 with
  | some a, some b =>
    let x := scanArgs o.desc
    let p := x.spot i
    if x.mode = 1 then s.scanPart e o x a b p.1 p.2 else s.scanChunk e o x a b p.1 p.2
  | _, _ => (s, o)

/-! ### Meanings -/

/-- Whether any destination of a SCAN is at a DA (R160). -/
def State.scanDa (s : State) (e q : Nat) (d : Desc) : Bool :=
  s.rowDa e q d || (decide (d.opx 17 16 ≠ 1) && !(bit (d.w 2) 19))

/-- SCAN_FULL (R250). -/
def execScanFull (t : Nat) (e : Fin 96) (q : Fin 4) (s : State) : Host.Outcome State Fault Refusal :=
  let s := s.advance t
  if s.stopped then .next s else
  .next (s.issueNext e q (fun d => decide (d.op = Op.scan) && decide (d.opx 17 16 = 0)) (s.scanDa e q) State.scanBody)

/-- SCAN_LOCAL (R252). -/
def execScanLocal (t : Nat) (e : Fin 96) (q : Fin 4) (s : State) : Host.Outcome State Fault Refusal :=
  let s := s.advance t
  if s.stopped then .next s else
  .next (s.issueNext e q (fun d => decide (d.op = Op.scan) && decide (d.opx 17 16 = 1)) (s.scanDa e q) State.scanBody)

/-- SCAN_REVERSE (R254). -/
def execScanReverse (t : Nat) (e : Fin 96) (q : Fin 4) (s : State) : Host.Outcome State Fault Refusal :=
  let s := s.advance t
  if s.stopped then .next s else
  .next (s.issueNext e q (fun d => decide (d.op = Op.scan) && decide (d.opx 17 16 = 2)) (s.scanDa e q) State.scanBody)

/-- GATE (R248). -/
def execGate (t : Nat) (e : Fin 96) (q : Fin 4) (s : State) : Host.Outcome State Fault Refusal :=
  let s := s.advance t
  if s.stopped then .next s else
  .next (s.issueNext e q (fun d => decide (d.op = Op.gate)) (s.rowDa e q) State.gateBody)

end Sys2Proof.Machine
end

