-- ==== Sys2Proof/Machine/Pulse.lean ====
section
/-! DEFINITION. The Pulse step (R238 to R247, R259), with the mirroring of a stand-in's area (R390). -/

namespace Sys2Proof.Machine

/-! ### Mirrored writes (R390) -/

/-- The other engine of a stand-in whose area is mirrored, for a write on engine e. -/
def State.mirrorOf (s : State) (e i : Nat) : Option Nat :=
  let r := s.rd (Reg.schStandin i)
  let er := bits r 7 1
  let es := bits r 14 8
  if e = er then some es else if e = es then some er else none

/-- Whether Shelf offset `ofs` lies in the area of stand-in i. -/
def State.inArea (s : State) (i ofs : Nat) : Bool :=
  let r := s.rd (Reg.schStandin i)
  let first := bits r 29 19
  decide (first * 4096 ≤ ofs) && decide (ofs < (first + bits r 40 30) * 4096)

/-- The bytes [ofs, ofs + n) of engine e's Shelf, and their blocks' tags, are made on the mirroring engines too. -/
def State.mirror (s : State) (e ofs n : Nat) : State :=
  s.mirrors.foldl (fun s i =>
    match s.mirrorOf e i with
    | none => s
    | some f =>
      let s := (List.range n).foldl (fun s j =>
        if s.inArea i (ofs + j) then s.store (shelfDa f (ofs + j)) [s.byteAt (shelfDa e (ofs + j))] else s) s
      (rangeBlocks ofs n).foldl (fun s b => if s.inArea i (b * 4096) then s.setTag f b (s.tag e b) else s) s) s

/-! ### Operands (R238, R239) -/

/-- The arguments of PULSE, with its tables. -/
structure PulseArgs where
  n : Nat
  m : Nat
  st : Tensor
  inp : Tensor
  w : Tensor
  out : Option Tensor
  dec : Tensor
  decGen : Nat
  dtNom : W32
  dtMax : W32
  timed : Bool
  tw : Bool
  fn : Nat
  k : Nat
  par : Nat
  deriving DecidableEq, Repr

/-- The reserved fields of PULSE (R154, R238). -/
def pulseReserved (d : Desc) : Bool :=
  bits (d.arg 0) 63 48 != 0 || bits (d.arg 1) 63 12 != 0 || bits (d.arg 3) 63 14 != 0 || d.arg 4 != 0 ||
  d.opx 63 21 != 0 || decide (4 < d.opx 20 18)

/-- Units of a W_in that fits the feeders: ⌈n / 512⌉ × m × w / 8 ≤ 4,096. -/
def stationFits (n m : Nat) (w : Tensor) : Bool := decide (ceilDiv n 512 * m * w.fmt.width / 8 ≤ 4096)

/-- The conditions of R238 on the tables. -/
def PulseArgs.ok (x : PulseArgs) : Bool :=
  inRange x.n 32 4096 && decide (x.n % 32 = 0) && inRange x.m 32 4096 && decide (x.m % 32 = 0) &&
  x.st.shelf && x.inp.shelf && x.w.shelf &&
  decide (x.st.fmt = .bf16 ∨ x.st.fmt = .e4m3 ∨ x.st.fmt = .e5m2) && decide (x.st.cols = x.n) &&
  decide (x.inp.fmt = .bf16 ∨ x.inp.fmt = .e4m3 ∨ x.inp.fmt = .e5m2) && decide (x.inp.cols = x.m) &&
  decide (x.w.fmt = .bf16 ∨ x.w.fmt = .e4m3 ∨ x.w.fmt = .e5m2 ∨ x.w.fmt = .e2m1) &&
  decide (x.w.rows = x.n) && decide (x.w.cols = x.m) && !x.w.scaled && !x.w.blocked &&
  decide (x.dec.fmt = .fp32 ∨ x.dec.fmt = .bf16) && decide (x.dec.rows = 1) && decide (x.dec.cols = x.n) &&
  stationFits x.n x.m x.w &&
  (match x.out with
   | some t => t.shelf && decide (t.cols = x.n)
   | none => true)

/-- The row of the output table, or under TWRITE the column that starts there (R222). -/
def PulseArgs.outRegion (x : PulseArgs) : Reg2 := destRegion x.tw ⟨x.k, 0, 1, x.n⟩

/-- The rows of the stream lie inside its tables (R193, R238). -/
def PulseArgs.rowsOk (x : PulseArgs) : Except OpFault Unit := do
  stopIf (decide (x.st.rows ≤ x.k)) (invalidAt x.st.base)
  stopIf (decide (x.inp.rows ≤ 2 * x.k + x.par)) (invalidAt x.inp.base)
  match x.out with
  | some t => t.within x.outRegion
  | none => return ()

/-- The arguments of a descriptor, its tables A, B, C, D and decay vector (as entries 0 to 4), and the stream index and
parity v (R239). -/
def pulseArgs (d : Desc) (td : Nat → Except OpFault Tensor) (v : Nat) : Except OpFault PulseArgs := do
  stopIf (pulseReserved d) (invalidAt 0)
  let st ← td 0
  let inp ← td 1
  let w ← td 2
  let out ← if d.tdD = 0xFF then pure none else (td 3).map some
  let dec ← td 4
  let x : PulseArgs :=
    { n := bits (d.arg 0) 23 0, m := bits (d.arg 0) 47 24, st := st, inp := inp, w := w, out := out, dec := dec,
      decGen := bits (d.arg 1) 11 8, dtNom := BitVec.ofNat 32 (bits (d.arg 2) 31 0),
      dtMax := BitVec.ofNat 32 (bits (d.arg 2) 63 32), timed := bit (d.w 2) 17, tw := d.twrite, fn := d.opx 20 18,
      k := bits v 13 0, par := bits v 14 14 }
  stopIf (!x.ok) (invalidAt 0)
  x.rowsOk
  return x

/-- The tensor-table indices of a PULSE's five tables. -/
def pulseTds (d : Desc) : List Nat := [d.tdA, d.tdB, d.tdC, d.tdD, bits (d.arg 1) 7 0]

/-- The stream index and parity: scalar slot 0 under INDEXED, ARG3 with parity 0 otherwise (R239; assumption log 28). -/
def State.pulseIndex (s : State) (site : Site) (d : Desc) : Nat :=
  if bit (d.w 2) 16 then s.scalar site.e site.q 0 else bits (d.arg 3) 13 0

/-- Shelf offset of the header of state row k. -/
def PulseArgs.stOfs (x : PulseArgs) : Nat := x.st.base + x.k * x.st.stride

/-- Shelf offset of the input row's header. -/
def PulseArgs.inOfs (x : PulseArgs) : Nat := x.inp.base + (2 * x.k + x.par) * x.inp.stride

/-- Bytes of n elements in whole 64-byte rows. -/
def rowBytes (n width : Nat) : Nat := ceilDiv (n * width) 512 * 64

/-- The tensor of the elements that follow a row's header. -/
def afterHeader (t : Tensor) : Tensor := { t with base := t.base + 64 }

/-- The sources whose generations are checked (R244). -/
def PulseArgs.sources (x : PulseArgs) (e : Nat) (d : Desc) : List Source :=
  [byteSource e true x.inOfs (64 + rowBytes x.m x.inp.fmt.width) d.genB, x.w.source e ⟨0, 0, x.n, x.m⟩ d.genC,
   x.dec.source e ⟨0, 0, 1, x.n⟩ x.decGen]

/-- The blocks of the state row and the output row. -/
def PulseArgs.ownBlocks (x : PulseArgs) : List Nat :=
  dedup (rangeBlocks x.stOfs (64 + rowBytes x.n x.st.fmt.width) ++
    (match x.out with
     | some t => t.blocks x.outRegion
     | none => []))

/-- The sweep of a step: the expected generations, and no WRITING on the state and output blocks (R244). -/
def State.pulseSweep (s : State) (e : Nat) (d : Desc) (x : PulseArgs) (beat : Bool) : Option OpFault :=
  match s.sweep e [] beat (x.sources e d) with
  | some f => some f
  | none => (x.ownBlocks.find? fun b => decide (s.tag e b = 15)).map fun b => hazardFault e b 0 15 beat false

/-- Generation advance: the blocks written take the tag found + 1, modulo 15 (R244). -/
def State.advanceTags (s : State) (e : Nat) (bs : List Nat) : State :=
  bs.foldl (fun s b => s.setTag e b ((s.tag e b + 1) % 15)) s

/-! ### Stationary W_in (R245) -/

/-- Whether the engine's record matches the W_in of a PULSE. -/
def State.resident (s : State) (site : Site) (d : Desc) (x : PulseArgs) : Bool :=
  match (s.eng site.e).station with
  | some y => decide (y.ctx = site.k) && decide (y.base = x.w.base) && decide (y.gen = d.genC)
  | none => false

/-- Loads W_in into the feeders and records it (R245). -/
def State.loadStation (s : State) (site : Site) (d : Desc) (x : PulseArgs) : State :=
  let e := site.e
  let els := (List.range x.n).flatMap fun i => (List.range x.m).map fun j => s.elem e x.w i j
  let s := s.setEng e { s.eng e with station := some ⟨site.k, site.q, d.tdC, d.genC, x.w.base, els⟩ }
  let s := s.wr (Reg.engStation e)
    (1 + site.q * 2 + d.tdC * 2 ^ 3 + d.genC * 2 ^ 11 + x.w.base % 2 ^ 48 * 2 ^ 16)
  s.bump (Reg.engStationLoads e) 63 0 1

/-! ### The step (R243, R259) -/

/-- Δ in FP32 seconds (R243 step 3). -/
def pulseDelta (x : PulseArgs) (now last : Nat) : W32 :=
  let dt := if last = 0 then x.dtNom else round32 ((FVal.fin false (now - last) 0).div (.fin false 1000000000 0))
  rowMin dt x.dtMax

/-- DEV (R259). -/
def pulseDev (norm2 lo hi : W32) : W32 :=
  if (f32 hi).isZero then 0 else
  match f32 norm2 with
  | .nan => 0x7F800000
  | .inf _ => 0x7F800000
  | v => if v.isZero && FVal.lt false (.fin false 0 0) (f32 lo) then 0x7F800000
         else rowMax (div32 norm2 hi) (div32 lo norm2)

/-- Lanes of the pair of x and W_in (R114). -/
def PulseArgs.lanes (x : PulseArgs) : Nat := min x.inp.fmt.lanes x.w.fmt.lanes

/-- Issue cycles of a step (R113, R247). -/
def PulseArgs.cycles (x : PulseArgs) : Nat := ceilDiv x.m x.lanes * ceilDiv x.n 512

/-- b = W_in × x from the stationary copy (R117, R243 step 4). -/
def State.pulseInput (s : State) (e : Nat) (x : PulseArgs) (els : List Nat) (i : Nat) : W32 :=
  let inp := afterHeader x.inp
  let row := 2 * x.k + x.par
  let hi := if x.inp.padZero && x.w.padZero then x.m else ceilDiv x.m x.lanes * x.lanes
  dotFp 0 hi (fun j => s.fed e inp (decide (j < x.m)) (decide (j / 32 * 32 < x.m)) row j)
    (fun j => (x.w.fmt.decode (if j < x.m then els.getD (i * x.m + j) 0 else x.w.pad), 127)) (fun _ => false) 0

/-- The new state in FP32 (R243 steps 5 and 6). -/
def State.pulseState (s : State) (e : Nat) (x : PulseArgs) (els : List Nat) (dt : W32) (i : Nat) : W32 :=
  let lam := s.elem32 e x.dec 0 i
  let a := if x.timed then exp32 s.free (mul32 (lam ^^^ 0x80000000) dt) else lam
  fma32 a (s.elem32 e (afterHeader x.st) x.k i) (s.pulseInput e x els i)

/-- Writes one row of a table as one conversion run, and counts. -/
def State.putTableRow (s : State) (e : Nat) (sr tw : Bool) (t : Tensor) (r : Nat) (vs : List W32) : State :=
  let (s, cells) := s.rowRun e sr tw ⟨r, 0, 1, vs.length⟩ 0 (vs.map f32)
  let (s, n) := s.putCells e t cells
  s.countNum e n

/-- The bytes that a step writes: the state row but for what firmware owns, and the output row (R240, R243). -/
def PulseArgs.written (x : PulseArgs) (e : Nat) : List (Nat × Nat) :=
  (shelfDa e (x.stOfs + 16), 48 + rowBytes x.n x.st.fmt.width) ::
    (match x.out with
     | some t => t.ranges e x.outRegion
     | none => [])

/-- A step that is HELD or STALE: SKIPPED advances, and nothing else is written (R243 step 2). -/
def State.pulseSkip (s : State) (e : Nat) (x : PulseArgs) (o : OpenOp) (outcome : Nat) : State × OpenOp :=
  let a := shelfDa e x.stOfs
  let s := s.store (a + 36) (leBytes 4 (s.loadNat (a + 36) 4 + 1))
  let s := s.advanceTags e (rangeBlocks (x.stOfs + 36) 4)
  let s := if outcome = 1 then s.bump (Reg.engPulseCount e) 43 32 1 else s.bump (Reg.engPulseCount e) 55 44 1
  (s.mirror e (x.stOfs + 36) 4, { o with finished := true, info := outcome, dst := [(a + 36, 4)] })

/-- The writes of a stepped PULSE, in their order (R243 step 8). -/
def State.pulseWrites (s : State) (e : Nat) (d : Desc) (x : PulseArgs) (h : List W32) (norm2 dev : W32) (ts seq : Nat) :
    State :=
  let a := shelfDa e x.stOfs
  let lock := s.loadNat (a + 16) 4
  let steps := s.loadNat (a + 32) 4
  let s := s.store (a + 16) (leBytes 4 (lock + 1))
  let s := s.putTableRow e d.sr false (afterHeader x.st) x.k h
  let s := match x.out with
    | some t => s.putTableRow e d.sr x.tw t x.k (h.map (s.gateFn e x.fn))
    | none => s
  let s := s.store (a + 16) (leBytes 4 (lock + 2))
  let s := s.store (a + 20) (leBytes 4 seq ++ leBytes 8 ts ++ leBytes 4 (steps + 1))
  s.store (a + 40) (leBytes 4 norm2.toNat ++ leBytes 4 dev.toNat ++ leBytes 16 0)

/-- The step of a PULSE with its W_in resident (R243). -/
def State.pulseStep (s : State) (e : Nat) (x : PulseArgs) (o : OpenOp) : State × OpenOp :=
  let d := o.desc
  let a := shelfDa e x.stOfs
  let i := shelfDa e x.inOfs
  let ts := s.loadNat i 8
  let last := s.loadNat (a + 24) 8
  if bit (s.byteAt a).toNat 0 then s.pulseSkip e x o 1
  else if last ≠ 0 ∧ ts ≤ last then s.pulseSkip e x o 2
  else
    let els := match (s.eng e).station with
      | some y => y.elems
      | none => []
    let h := (List.range x.n).map (s.pulseState e x els (pulseDelta x ts last))
    let norm2 := rsum s.free (h.map fun v => mul32 v v)
    let dev := pulseDev norm2 (BitVec.ofNat 32 (s.loadNat (a + 8) 4)) (BitVec.ofNat 32 (s.loadNat (a + 12) 4))
    let drift := !(FVal.lt false (f32 dev) (.fin false 1 0)) && !(f32 dev).isNan
    let s := s.pulseWrites e d x h norm2 dev ts (s.loadNat (i + 8) 4)
    let s := s.advanceTags e x.ownBlocks
    let s := (s.bump (Reg.engPulseCount e) 31 0 1).bump (Reg.engIssueCycles e) 63 0 x.cycles
    let s := if drift then s.bump (Reg.engPulseCount e) 63 56 1 else s
    let s := s.mirror e (x.stOfs + 16) (48 + rowBytes x.n x.st.fmt.width)
    let s := match x.out with
      | some t => (t.ranges e x.outRegion).foldl (fun s r => s.mirror e (r.1 - shelfDa e 0) r.2) s
      | none => s
    (s, { o with finished := true, info := 4 * b2n drift, dst := x.written e })

/-- The ranges a PULSE reads and writes without tags: its sources, its state row and its output row (R203, R243). -/
def PulseArgs.touched (x : PulseArgs) (e : Nat) (d : Desc) : List (Nat × Nat) :=
  (x.sources e d).flatMap (·.ranges) ++ [(shelfDa e x.stOfs, 64 + rowBytes x.n x.st.fmt.width)] ++
    (match x.out with
     | some t => t.ranges e x.outRegion
     | none => [])

/-- A PULSE whose checks hold: with W_in resident the step runs; otherwise W_in is loaded first, a step of its own (R245). -/
def State.pulseOpen (s : State) (site : Site) (o : OpenOp) (v : Nat) (x : PulseArgs) : Issue :=
  if s.resident site o.desc x then
    let (s, o) := s.pulseStep site.e x o
    .opens s o
  else
    .opens (s.loadStation site o.desc x)
      { s.latchTds site o (pulseTds o.desc) with stepsTotal := 1, asked := v }

/-- Issue of PULSE: its operands, its tag sweep and its ranges are checked before it opens (R157, R243). -/
def State.pulseBody (s : State) (site : Site) (o : OpenOp) : Issue :=
  issueOf do
    let v := s.pulseIndex site o.desc
    let x ← pulseArgs o.desc (fun i => s.operand site ((pulseTds o.desc).getD i 0xFF)) v
    match s.pulseSweep site.e o.desc x false with
    | some f => .error f
    | none =>
      match s.readsFault site.part (x.touched site.e o.desc) with
      | some f => .error f
      | none => return s.pulseOpen site o v x

/-- The W_in load of an open PULSE has ended: the step runs, after the tags are checked again (R164, R245). -/
def State.pulseLoaded (s : State) (site : Site) (o : OpenOp) : State × OpenOp :=
  let td := fun i => match o.entry i with
    | some t => Except.ok t
    | none => .error (invalidAt 0)
  match pulseArgs o.desc td o.asked with
  | .error f => (s, o.failed f)
  | .ok x =>
    match s.pulseSweep site.e o.desc x true with
    | some f => (s, o.failed f)
    | none =>
      let s := if s.resident site o.desc x then s else s.loadStation site o.desc x
      s.pulseStep site.e x o

/-- PULSE (R243). -/
def execPulse (t : Nat) (e : Fin 96) (q : Fin 4) (s : State) : Host.Outcome State Fault Refusal :=
  .next (s.live t fun s => s.issueNext e q (fun d => decide (d.op = Op.pulse)) (fun _ => false) State.pulseBody)

end Sys2Proof.Machine
end

