-- ==== Sys2Proof/Machine/Measure.lean ====
section
/-! DEFINITION. Measurement streams: configuration frames, data frames and their channels (R331 to R336), and the Pulse feed
(R337, R338). The frames' own layout is that of IEEE C37.118.2 (assumption log 63). -/

namespace Sys2Proof.Machine

/-! ### Configuration frames (R332, R333) -/

/-- How a fixed-point value becomes FP32: times n and divided by d, or times an FP32 scale plus an FP32 offset. -/
inductive Scale
  | dec (n : Int) (d : Nat)
  | flt (m b : W32)
  deriving DecidableEq, Repr

/-- What a configuration frame says of a PMU block. -/
structure Pmu where
  fFloat : Bool
  anFloat : Bool
  phFloat : Bool
  phPolar : Bool
  phs : List Scale
  ans : List Scale
  dg : Nat
  fnom : Nat
  deriving DecidableEq, Repr

/-- A configuration: TIME_BASE and the PMU blocks. -/
structure MeasCfg where
  base : Nat
  pmus : List Pmu
  deriving DecidableEq, Repr

/-- The fixed-point value of an n-bit field under a scale, in one FP32 rounding (R334). -/
def Scale.apply (x : Scale) (v : Int) : W32 :=
  match x with
  | .dec n d => round32 ((FVal.ofInt (v * n) 0).div (.fin false d 0))
  | .flt m b => round32 (((f32 m).mul (FVal.ofInt v 0)).add (f32 b))

/-- The blocks' FORMAT bits: FREQ, analogs and phasors in floating point; phasors in polar form. -/
def pmuOf (fmt : Nat) (phs ans : List Scale) (dg fnom : Nat) : Pmu :=
  ⟨bit fmt 3, bit fmt 2, bit fmt 1, bit fmt 0, phs, ans, dg, if fnom % 2 = 1 then 50 else 60⟩

/-- A PMU block of a CFG-2 frame at offset o, and the offset after it. -/
def cfg2Pmu (d : List Byte) (o : Nat) : Pmu × Nat :=
  let ph := beField d (o + 20) 2
  let an := beField d (o + 22) 2
  let dg := beField d (o + 24) 2
  let u := o + 26 + 16 * (ph + an + 16 * dg)
  let phs := (List.range ph).map fun i => Scale.dec (beField d (u + 4 * i) 4 % 2 ^ 24 : Nat) 100000
  let ans := (List.range an).map fun i => Scale.dec (toSigned 24 (beField d (u + 4 * (ph + i)) 4)) 1
  let e := u + 4 * (ph + an + dg)
  (pmuOf (beField d (o + 18) 2) phs ans dg (beField d e 2), e + 4)

/-- Skips n names, each with its length in front. -/
def skipNames (d : List Byte) : Nat → Nat → Nat
  | 0, o => o
  | n + 1, o => skipNames d n (o + 1 + leField d o 1)

/-- A PMU block of a CFG-3 frame. -/
def cfg3Pmu (d : List Byte) (o : Nat) : Pmu × Nat :=
  let o := skipNames d 1 o
  let ph := beField d (o + 20) 2
  let an := beField d (o + 22) 2
  let dg := beField d (o + 24) 2
  let u := skipNames d (ph + an + 16 * dg) (o + 26)
  let phs := (List.range ph).map fun i => Scale.flt (BitVec.ofNat 32 (beField d (u + 12 * i + 4) 4)) 0
  let v := u + 12 * ph
  let ans := (List.range an).map fun i =>
    Scale.flt (BitVec.ofNat 32 (beField d (v + 8 * i) 4)) (BitVec.ofNat 32 (beField d (v + 8 * i + 4) 4))
  let e := v + 8 * an + 4 * dg + 12 + 1 + 4 + 4
  (pmuOf (beField d (o + 18) 2) phs ans dg (beField d e 2), e + 4)

/-- n PMU blocks from offset o; none when they run past the frame. -/
def pmuList (d : List Byte) (three : Bool) : Nat → Nat → Option (List Pmu × Nat)
  | 0, o => some ([], o)
  | n + 1, o =>
    if d.length < o then none else
    let (p, o') := if three then cfg3Pmu d o else cfg2Pmu d o
    (pmuList d three n o').map fun x => (p :: x.1, x.2)

/-- The type of a frame (SYNC[6:4]). -/
def frameType (d : List Byte) : Nat := bits (leField d 1 1) 6 4

/-- The configuration that a CFG-2 frame, or a CFG-3 frame put together, holds. -/
def measCfgOf (d : List Byte) : Option MeasCfg :=
  let three := decide (frameType d = 5)
  let o := if three then 16 else 14
  let base := beField d o 4 % 2 ^ 24
  match pmuList d three (beField d (o + 4) 2) (o + 6) with
  | some (ps, e) => if base = 0 ∨ e + 4 ≠ d.length then none else some ⟨base, ps⟩
  | none => none

/-- Channels of a block, and of a configuration (R334). -/
def Pmu.channels (p : Pmu) : Nat := 2 * p.phs.length + 2 + p.ans.length + 16 * p.dg
def MeasCfg.channels (c : MeasCfg) : Nat := (c.pmus.map Pmu.channels).foldl (· + ·) 0

/-- Bytes of a block in a data frame, and of the whole frame. -/
def Pmu.bytes (p : Pmu) : Nat :=
  2 + p.phs.length * (if p.phFloat then 8 else 4) + (if p.fFloat then 8 else 4) +
    p.ans.length * (if p.anFloat then 4 else 2) + 2 * p.dg
def MeasCfg.frameBytes (c : MeasCfg) : Nat := 16 + (c.pmus.map Pmu.bytes).foldl (· + ·) 0

/-- A stream takes a configuration, or goes into CFG_FAULT when it needs more channels than it has (R333). -/
def State.adoptCfg (s : State) (ent d : List Byte) (c : MeasCfg) : State :=
  let n := entStream ent
  if MeasEnt.chCount ent < c.channels then
    postFault ((s.setMeas n { s.measSt n with cfg := none, fault := true, frags := [] }).event Reg.ingIntStatus 4)
      { code := F.measCfg, cls := Class.contained, block := Blk.ing, unit := n }
  else s.setMeas n { s.measSt n with cfg := some d, fault := false, frags := [] }

/-- A CFG-3 fragment joins those before it: the whole frame once the last has come (R332). CONT_IDX is 0 for a frame in one
piece, counts the fragments from 1, and is 0xFFFF on the last. -/
def joinCfg3 (frags d : List Byte) : Option (List Byte) × List Byte :=
  let idx := beField d 14 2
  let body := (d.drop 16).take (d.length - 18)
  if idx = 0 then (some d, [])
  else if idx = 0xFFFF then (some (d.take 16 ++ frags ++ body ++ d.drop (d.length - 2)), [])
  else if idx = 1 then (none, body)
  else if frags.length + body.length ≤ 65535 then (none, frags ++ body)
  else (none, [])

/-- What of a block shapes a data frame: its formats and the number of its fields. -/
def Pmu.shape (p : Pmu) : (Bool × Bool × Bool × Bool) × Nat × Nat × Nat :=
  ((p.fFloat, p.anFloat, p.phFloat, p.phPolar), p.phs.length, p.ans.length, p.dg)

/-- A configuration frame of a stream (R333). Under CFG_SRC 1 it changes nothing, and one whose data frames would differ in shape from those
of the frame image is counted. -/
def State.cfgFrame (s : State) (ent d : List Byte) : State :=
  let n := entStream ent
  let (whole, frags) := if frameType d = 5 then joinCfg3 (s.measSt n).frags d else (some d, (s.measSt n).frags)
  let s := s.setMeas n { s.measSt n with frags := frags }
  match whole with
  | none => s
  | some w =>
    match measCfgOf w with
    | some c =>
      if MeasEnt.fromImage ent then
        if ((s.measSt n).cfg.bind measCfgOf).any fun i => decide (i.pmus.map Pmu.shape = c.pmus.map Pmu.shape) then s else s.measDrop
      else s.adoptCfg ent w c
    | none => s.measDrop

/-- The frame image of a stream under CFG_SRC 1 (R333). -/
def State.imageCfg (s : State) (ent : List Byte) : State :=
  let a := MeasEnt.cfgDa ent
  let n := beField (s.load a 4) 2 2
  let d := s.load a n
  match (if (s.memFault a 4).isNone && (s.memFault a (max 4 n)).isNone then measCfgOf d else none) with
  | some c => s.adoptCfg ent d c
  | none => s

/-! ### Channels (R334, R335) -/

/-- A channel's value, none when missing, and whether it is an angle under POLAR. -/
abbrev Chan := Option W32 × Bool

/-- A fixed-point field: 0x8000 is missing. -/
def fixedField (signed : Bool) (raw : Nat) (x : Scale) : Option W32 :=
  if raw = 0x8000 then none else some (x.apply (if signed then toSigned 16 raw else (raw : Int)))

/-- A floating-point field: a NaN is missing. -/
def floatField (raw : Nat) : Option W32 :=
  let w : W32 := BitVec.ofNat 32 raw
  if (f32 w).isNan then none else some w

/-- The magnitude of (x, y), within the bound of R334; k is the count of free values drawn. -/
def magnitude (k : Nat) (x y : W32) : W32 :=
  match (((f32 x).mul (f32 x)).add ((f32 y).mul (f32 y))) with
  | .fin _ m e =>
    let odd := (e % 2).toNat
    let r := Nat.sqrt (m * 2 ^ (160 + odd))
    round32 ((FVal.fin false r ((e - odd) / 2 - 80)).perturb 7 24 (Config.elemErr k [5, x.toNat, y.toNat]))
  | v => round32 v

/-- A product moved within the bound of R334. -/
def turned (k : Nat) (m c : W32) (tag : Nat) : W32 :=
  round32 (((f32 m).mul (f32 c)).perturb 7 24 (Config.elemErr k [tag, m.toNat, c.toNat]))

/-- The two channels of a phasor in the form of the entry (R334). -/
def phasorChans (k : Nat) (frmPolar polar : Bool) (a b : Option W32) : List Chan :=
  match a, b with
  | some x, some y =>
    if frmPolar = polar then [(some x, false), (some y, polar)]
    else if polar then [(some (magnitude k x y), false), (some (Config.angleFp32 x y), true)]
    else [(some (turned k x (Config.cosFp32 y) 6), false), (some (turned k x (Config.sinFp32 y) 7), false)]
  | _, _ => [(none, false), (none, polar)]

/-- Phasor i of a block at offset o. -/
def Pmu.phasor (p : Pmu) (k : Nat) (polar : Bool) (d : List Byte) (o i : Nat) : List Chan :=
  let sc := p.phs.getD i (.dec 0 1)
  if p.phFloat then
    phasorChans (k + i) p.phPolar polar (floatField (beField d (o + 8 * i) 4)) (floatField (beField d (o + 8 * i + 4) 4))
  else
    let a := fixedField (!p.phPolar) (beField d (o + 4 * i) 2) sc
    let b := fixedField true (beField d (o + 4 * i + 2) 2) (if p.phPolar then .dec 1 10000 else sc)
    phasorChans (k + i) p.phPolar polar a b

/-- The channels of a block at offset o; all are missing under its STAT word (R335). -/
def Pmu.chans (p : Pmu) (k : Nat) (polar test : Bool) (d : List Byte) (o : Nat) : List Chan :=
  let stat := beField d o 2
  let bad := decide (bits stat 15 14 = 1 ∨ bits stat 15 14 = 3) || (decide (bits stat 15 14 = 2) && !test) || bit stat 13
  let o1 := o + 2
  let phs := (List.range p.phs.length).flatMap (p.phasor k polar d o1)
  let o2 := o1 + p.phs.length * (if p.phFloat then 8 else 4)
  let freq : List Chan := if p.fFloat then
      [(floatField (beField d o2 4), false), (floatField (beField d (o2 + 4) 4), false)]
    else
      let f := beField d o2 2
      [(if f = 0x8000 then none else some (Scale.apply (.dec 1 1000) ((p.fnom * 1000 : Nat) + toSigned 16 f)), false),
        (fixedField true (beField d (o2 + 2) 2) (.dec 1 100), false)]
  let o3 := o2 + (if p.fFloat then 8 else 4)
  let ans : List Chan := (List.range p.ans.length).map fun i =>
    if p.anFloat then (floatField (beField d (o3 + 4 * i) 4), false)
    else (fixedField true (beField d (o3 + 2 * i) 2) (p.ans.getD i (.dec 0 1)), false)
  let o4 := o3 + p.ans.length * (if p.anFloat then 4 else 2)
  let dgs : List Chan := (List.range p.dg).flatMap fun i =>
    (List.range 16).map fun j => (some (if bit (beField d (o4 + 2 * i) 2) j then 0x3F800000 else 0), false)
  let xs := phs ++ freq ++ ans ++ dgs
  if bad then xs.map fun x => (none, x.2) else xs

/-- The channels of a data frame in frame order; k is the count of free values drawn. -/
def MeasCfg.chans (c : MeasCfg) (k : Nat) (polar test : Bool) (d : List Byte) : List Chan :=
  (c.pmus.foldl (fun (a : List Chan × Nat) p => (a.1 ++ p.chans (k + a.2) polar test d a.2, a.2 + p.bytes)) ([], 14)).1

/-- Blocks of a data frame whose STAT[10] is set (R335). -/
def MeasCfg.changes (c : MeasCfg) (d : List Byte) : Nat :=
  (c.pmus.foldl (fun (a : Nat × Nat) p => (a.1 + b2n (bit (beField d a.2 2) 10), a.2 + p.bytes)) (0, 14)).1

/-- The timestamp of a data frame (R336): PTP ns, rounded to the nearest. -/
def State.frameTime (s : State) (c : MeasCfg) (d : List Byte) : Int :=
  ((beField d 6 4 : Nat) + s.utcOffset) * 1000000000 +
    ((2 * beField d 11 3 * 1000000000 + c.base) / (2 * c.base) : Nat)

/-! ### The Pulse feed (R337, R338) -/

/-- A frame that makes no input row. -/
def State.notFed (s : State) : State := s.bump Reg.ingPulseCount 63 32 1

/-- The stream whose trigger has this argument on engine e. -/
def State.streamOf (s : State) (e arg : Nat) : Option Nat :=
  (s.ing.meas.find? fun x => match x.2.bound with
    | some (e0, _, k) => decide (k = arg % 16384) && s.feeds e0 e
    | none => false).map (·.1)

/-- Presents the first held trigger of engine e when its FIFO has a free entry (R242). At a handover it waits until the
stream's last trigger on the other engine has posted its record (R390). -/
def State.presentTrigger (s : State) (e : Nat) : State :=
  match tabGet (fun _ => []) s.ing.held e with
  | [] => s
  | (q, arg) :: r =>
    let n := s.streamOf e arg
    let busy : Bool := match n with
      | some n =>
        let m := s.measSt n
        m.taken.1 && m.taken.2 && decide (m.sentTo.isSome) && decide (m.sentTo ≠ some e)
      | none => false
    if busy ∨ s.takesTrigger e q = false then s else
    let s := { s with ing := { s.ing with held := tabSet (fun _ => []) s.ing.held e r } }
    let s := match n with
      | some n => s.setMeas n { s.measSt n with sentTo := some e }
      | none => s
    (s.bump Reg.ingPulseCount 31 0 1).trigger e q arg

/-- An input row: the header with the sample identifier, then the elements in the binding's format (R241). -/
def rowOf (ent : List Byte) (t : Int) (seq : Nat) (xs : List W32) : List Byte :=
  let f := (fmtOfCode (MeasEnt.fmt ent)).getD .bf16
  leBytes 8 (ofSigned 64 t) ++ leBytes 4 seq ++ leBytes 2 (entStream ent) ++ leBytes 50 0 ++
    xs.flatMap fun x => leBytes (f.width / 8) (convert32 f .rne x).bits

/-- A data frame becomes an input row and a trigger. -/
def State.feedPulse (s : State) (ent : List Byte) (t : Int) (seq : Nat) (xs : List Chan) : State :=
  let n := entStream ent
  let m := s.measSt n
  let elems := (List.range (MeasEnt.m ent)).map fun i => (xs.getD (MeasEnt.first ent + i) (none, false)).1
  let (e, q) := s.feedTarget (MeasEnt.engine ent) (MeasEnt.queue ent)
  let on := decide ((s.queue e q).state ≠ .disabled) && !(s.queue e q).stopping && bit (s.rd (Reg.engQCfg e q)) 1
  let free := if m.parity = 0 then !m.taken.1 else !m.taken.2
  if !on ∨ !free ∨ elems.any Option.isNone then s.notFed else
  let row := rowOf ent t seq (elems.map fun x => x.getD 0)
  let ofs := MeasEnt.base ent + (2 * MeasEnt.k ent + m.parity) * MeasEnt.stride ent
  let s := (s.store (shelfDa e ofs) row).mirror e ofs row.length
  let taken := if m.parity = 0 then (true, m.taken.2) else (m.taken.1, true)
  let arg := MeasEnt.k ent + m.parity * 2 ^ 14
  let s := s.setMeas n { s.measSt n with taken := taken, parity := 1 - m.parity }
  let s := { s with ing := { s.ing with
    held := tabSet (fun _ => []) s.ing.held e (tabGet (fun _ => []) s.ing.held e ++ [(q, arg)]) } }
  s.presentTrigger e

/-! ### Data frames -/

/-- Queues a sample for the Aligner, or drops it when the queue is full (R352). -/
def State.queueSample (s : State) (x : AlnSample) : State :=
  if 1048576 ≤ s.ing.queue.length then (s.bump Reg.ingAlignCount 63 32 1).event Reg.ingIntStatus 6
  else { s with ing := { s.ing with queue := s.ing.queue ++ [x] } }

/-- The samples of a frame go to the Aligner, those of channels in no group apart; none while ticks are off (R355, R365). -/
def State.queueFrame (s : State) (ent : List Byte) (t stamp : Int) (xs : List Chan) : State :=
  if !s.tick.on then s else
  ((List.range xs.length).zip xs).foldl (fun s x =>
    let ch := MeasEnt.chBase ent + x.1
    match x.2.1 with
    | none => s
    | some v => if !s.grouped ch then s else s.queueSample ⟨ch, t, v, x.2.2, stamp⟩) s

/-- A data frame of a stream (R333 to R338). -/
def State.dataFrame (s : State) (ent : List Byte) (x : RxItem) : State :=
  let n := entStream ent
  let m := s.measSt n
  match m.cfg.bind measCfgOf with
  | none => s.measDrop
  | some c =>
    if m.fault ∨ x.data.length ≠ c.frameBytes then s.measDrop else
    let s := (s.bump Reg.ingMeasCount 31 0 1).setMeas n
      { m with seq := (m.seq + 1) % 2 ^ 32, changes := m.changes + c.changes x.data }
    let late := decide (MeasEnt.tqMax ent < leField x.data 10 1 % 16)
    let xs := c.chans s.free (MeasEnt.polar ent) (decide (s.fld Reg.ingCtrl 2 1 = 2)) x.data
    let xs := if late then xs.map fun y => (none, y.2) else xs
    let s := { s with free := s.free + x.data.length }
    let t := s.frameTime c x.data
    let s := s.queueFrame ent t x.stamp xs
    if MeasEnt.pulse ent then s.feedPulse ent t m.seq xs else s

/-- Whether a message is for a stream parser. -/
def RxItem.isStream (x : RxItem) : Bool := !x.isPtp

/-- The oldest message for a parser, when it is a C37.118.2 frame of a given type; with its stream's entry. -/
def State.takeMeas (s : State) (ty : Nat → Bool) : Option (RxItem × Option (List Byte) × State) :=
  match s.takeRx RxItem.isStream fun x => match x.kind with
      | .meas _ => ty (frameType x.data)
      | _ => false with
  | none => none
  | some (x, s) =>
    let ent := match x.kind with
      | .meas n => findStream s.measEntries n
      | _ => none
    some (x, ent, s)

/-! ### Meanings -/

/-- DATA_FRAME (R334 to R338). -/
def execDataFrame (t : Nat) (s : State) : Host.Outcome State Fault Refusal :=
  let s := s.advance t
  if s.stopped then .next s else
  .next (match s.takeMeas fun ty => decide (ty = 0) with
    | some (x, some ent, s) => s.dataFrame ent x
    | some (_, none, s) => s
    | none => s)

/-- CFG_FRAME (R333). -/
def execCfgFrame (t : Nat) (s : State) : Host.Outcome State Fault Refusal :=
  let s := s.advance t
  if s.stopped then .next s else
  .next (match s.takeMeas fun ty => decide (ty = 3 ∨ ty = 5) with
    | some (x, some ent, s) => s.cfgFrame ent x.data
    | some (_, none, s) => s
    | none => s)

/-- HEADER_FRAME (R332): ignored and counted. -/
def execHeaderFrame (t : Nat) (s : State) : Host.Outcome State Fault Refusal :=
  let s := s.advance t
  if s.stopped then .next s else
  .next (match s.takeMeas fun ty => decide (ty = 1 ∨ ty = 2) with
    | some (_, _, s) => s.measDrop
    | none => s)

/-- COMMAND_FRAME (R332): dropped and counted, as is a frame of a type the standard does not define. -/
def execCommandFrame (t : Nat) (s : State) : Host.Outcome State Fault Refusal :=
  let s := s.advance t
  if s.stopped then .next s else
  .next (match s.takeMeas fun ty => decide (ty = 4 ∨ 5 < ty) with
    | some (_, _, s) => s.measDrop
    | none => s)

/-- PULSE_TRIGGER_PRESENT (R242, R338). -/
def execPulseTriggerPresent (t : Nat) (e : Fin 96) (s : State) : Host.Outcome State Fault Refusal :=
  .next (s.live t fun s => s.presentTrigger e)

end Sys2Proof.Machine
end

