-- ==== Sys2Proof/Machine/Video.lean ====
section
/-! DEFINITION. Video streams: assembly of coded pictures (R339 to R341), the decoder pool with its checks and watchdog (R342
to R349), picture records (R350, R351) and the life of picture slots (R361). The samples a decoder writes are left to the
codecs' standards (Config.decodedSample). -/

namespace Sys2Proof.Machine

/-! ### Assembly (R340) -/

/-- How far 16-bit sequence number a lies ahead of b. -/
def ahead16 (a b : Nat) : Int := toSigned 16 (a + 65536 - b % 65536)

namespace Rtp
def marker (d : List Byte) : Bool := bit (leField d 1 1) 7
def seq (d : List Byte) : Nat := beField d 2 2
def ts (d : List Byte) : Nat := beField d 4 4
def ssrc (d : List Byte) : Nat := beField d 8 4
/-- The payload, behind the CSRC list and a header extension, without padding. -/
def payload (d : List Byte) : List Byte :=
  let o := 12 + 4 * (leField d 0 1 % 16)
  let o := if bit (leField d 0 1) 4 then o + 4 + 4 * beField d (o + 2) 2 else o
  let pad := if bit (leField d 0 1) 5 then leField d (d.length - 1) 1 else 0
  (d.take (d.length - pad)).drop o
end Rtp

/-- Whether a payload is of a form that R339 supports. -/
def payloadOk (codec : Nat) (p : List Byte) : Bool :=
  let b := leField p 0 1
  match codec with
  | 0 => inRange (b % 32) 1 24 || decide (b % 32 = 28)
  | 1 => decide (b / 2 % 64 < 50)
  | 2 => true
  | _ => decide (leField p 4 1 = 0 ∨ leField p 4 1 = 1 ∨ leField p 4 1 = 64 ∨ leField p 4 1 = 65)

/-- A stream starts again, with a new SSRC or afresh (R330, R340). -/
def VideoSt.restart (x : VideoSt) (ssrc : Option Nat) : VideoSt :=
  { x with ssrc := ssrc, seq := 0, anchor := none, far := 0, start := none, asm := [] }

/-- A packet joins its picture. -/
def PicAsm.add (a : PicAsm) (d : List Byte) : PicAsm :=
  let n := Rtp.seq d
  if a.pkts.any fun p => decide (p.1 = n) then a
  else { a with pkts := a.pkts ++ [(n, (Rtp.payload d).length)], marker := if Rtp.marker d then some n else a.marker }

/-- An RTP packet of a stream (R339, R340): those that lie behind what has been handed over, or more than 64 packets back, are
discarded. -/
def State.rtpPacket (s : State) (ent : List Byte) (x : RxItem) : State :=
  let n := entStream ent
  let d := x.data
  let v := s.vid n
  if v.state = 3 then s
  else if !(payloadOk (VidEnt.codec ent) (Rtp.payload d)) then s.rxDrop x.port true
  else
    let v := if v.ssrc = some (Rtp.ssrc d) then v else v.restart (some (Rtp.ssrc d))
    let behind := v.start.any fun b => decide (ahead16 (Rtp.seq d) b < 0)
    let old := v.asm.any fun a => a.pkts.any fun p => decide (64 < ahead16 p.1 (Rtp.seq d))
    if behind ∨ old then s.setVid n v else
    let fresh : PicAsm := { ts := Rtp.ts d, at0 := s.now, stamp := x.stamp, die := x.port / 2 }
    let asm := if v.asm.any fun a => decide (a.ts = Rtp.ts d) then v.asm else v.asm ++ [fresh]
    let asm := asm.map fun a =>
      if a.ts = Rtp.ts d then a.add d
      else if a.later.isNone ∧ 0 < ahead32 (Rtp.ts d) a.ts then { a with later := some s.now } else a
    s.setVid n { v with asm := asm }

/-- Every packet from the first to the marker is present. -/
def PicAsm.complete (a : PicAsm) (start : Option Nat) : Bool :=
  match a.marker, a.pkts with
  | some m, p :: r =>
    let first := start.getD (r.foldl (fun b q => if ahead16 q.1 b < 0 then q.1 else b) p.1)
    (List.range (ahead16 m first).toNat.succ).all fun i => a.pkts.any fun q => decide (q.1 = (first + i) % 65536)
  | _, _ => false

/-- The sequence number after a picture. -/
def PicAsm.after (a : PicAsm) : Nat :=
  match a.marker, a.pkts with
  | some m, _ => (m + 1) % 65536
  | none, p :: r => (r.foldl (fun b q => if 0 < ahead16 q.1 b then q.1 else b) p.1 + 1) % 65536
  | none, [] => 0

/-- Whether an assembly is due at the decoder (R340). -/
def PicAsm.due (a : PicAsm) (start : Option Nat) (fps now : Nat) : Bool :=
  a.complete start || (match a.later with
    | some c => decide (c + us 1000 ≤ now)
    | none => false) || decide (a.at0 * fps + us 2000000 ≤ now * fps)

/-- The timestamp of a picture and the stream's anchor (R341). -/
def VideoSt.stampPic (x : VideoSt) (ent : List Byte) (a : PicAsm) : Int × VideoSt :=
  let lat : Int := (VidEnt.latUs ent * 1000 : Nat)
  let (a0, r0) := x.anchor.getD (a.stamp - lat, a.ts)
  let t := a0 + ((a.ts + 2 ^ 32 - r0) % 2 ^ 32 * 1000000000 / 90000 : Nat)
  let far := if 100000000 < (a.stamp - (t + lat)).natAbs then x.far + 1 else 0
  if 8 ≤ far then
    (a.stamp - lat, { x with anchor := some (a.stamp - lat, a.ts), far := 0, reanchors := min 65535 (x.reanchors + 1) })
  else (t, { x with anchor := some (a0, r0), far := far })

/-- Counts a picture dropped or skipped. -/
def State.countFail (s : State) (n cause : Nat) : State :=
  let v := s.vid n
  (s.bump Reg.vdcCount 63 32 1).setVid n { v with failures := min 65535 (v.failures + 1), cause := cause }

/-! ### Slots (R344, R361) -/

/-- Start of the earliest open window. -/
def State.winStart (s : State) : Option Int := (s.ing.wins.map (·.start)).min?

/-- The latest of some pictures with t ≤ b. -/
def latestBy (ds : List VDone) (b : Int) (p : VDone → Bool) : Option VDone :=
  (ds.filter fun d => p d && decide (d.t ≤ b)).foldl (fun a d => match a with
    | none => some d
    | some x => if x.t ≤ d.t then some d else a) none

/-- The pictures a stream still needs: references, those placed on a grid, those a window may yet place, and the latest
hold source. -/
def VideoSt.prune (x : VideoSt) (start : Option Int) : VideoSt :=
  let decoded := fun (d : VDone) => d.slot.isSome
  let b := start.getD ((x.done.map (·.t)).foldl max 0)
  let keep := [latestBy x.done b decoded, latestBy x.done b (fun d => !(decoded d))]
  let last := x.done.foldl (fun a d => if decoded d then some d else a) none
  { x with done := x.done.filter fun d =>
      d.isRef || !d.placed.isEmpty || (start.isSome && decide (b < d.t)) || decide (some d ∈ keep) || decide (some d = last) }

/-- Prunes a stream. -/
def State.pruneVid (s : State) (n : Nat) : State := s.setVid n ((s.vid n).prune s.winStart)

/-- The slots a stream holds, slot 0 apart. -/
def VideoSt.usedSlots (x : VideoSt) : List Nat :=
  x.done.filterMap (·.slot) ++ (match x.dec with
    | some d => [d.slot]
    | none => [])

/-- The lowest free slot. -/
def VideoSt.freeSlot (x : VideoSt) (slots : Nat) : Option Nat :=
  (List.range slots).find? fun i => decide (0 < i) && decide (i ∉ x.usedSlots)

/-! ### Picture records (R350) -/

/-- Posts a picture record. -/
def State.picRecord (s : State) (ent : List Byte) (pic : VPic) (st code info : Nat) (stalled concealed : Bool)
    (inst w h : Nat) (wide : Bool) (started : Option Nat) (slotDa : Nat) : State :=
  let issue := s.fld Reg.vdcRecIssue 31 0
  let steps := match started with
    | some c => (s.now - c) / 1100
    | none => 0
  let head := leBytes 8 (pic.seq + st * 2 ^ 40 + b2n stalled * 2 ^ 43 + b2n concealed * 2 ^ 44 + entStream ent * 2 ^ 48) ++
    leBytes 8 (issue + 0x7F * 2 ^ 32 + code * 2 ^ 48) ++ leBytes 8 0 ++ leBytes 8 (steps % 2 ^ 32 + info * 2 ^ 32)
  let tail := leBytes 8 (ofSigned 64 pic.t) ++ leBytes 2 w ++ leBytes 2 h ++ leBytes 1 inst ++ leBytes 1 (b2n wide) ++
    leBytes 2 0 ++ leBytes 4 pic.bytes ++ leBytes 4 0 ++ leBytes 8 slotDa
  let size := 2 ^ s.fld Reg.vdcRecCfg 4 0
  (s.ioWrite .decoder (s.rd Reg.vdcRecDa + issue % size * 64) (head ++ tail)).setFld Reg.vdcRecIssue 31 0 (issue + 1)

/-! ### The handover (R340, R343) -/

/-- A picture that finds 8 waiting is dropped with cause QUEUE_FULL (R343), which has no number (free value): it is counted and recorded, and
a lost reference starts concealment (R345, R348, R350; assumption log 95). v is the stream without it. -/
def State.queueFull (s : State) (ent : List Byte) (pic : VPic) (v : VideoSt) : State :=
  let n := entStream ent
  let (k, s) := s.freeNat
  ((s.setVid n { v with state := if pic.isRef && decide (v.state = 1) then 2 else v.state }).countFail n (k % 16)).picRecord ent pic 2
    F.decodeLimit (k % 16) false false 31 0 0 false none 0

/-- The oldest assembly of a stream is handed to the decoder when it is due (R340, R343). -/
def State.handover (s : State) (ent : List Byte) (isRef rap : Bool) : State :=
  let n := entStream ent
  let v := s.vid n
  match v.asm with
  | [] => s
  | a :: rest =>
    if !(a.due v.start (VidEnt.maxFps ent) s.now) then s else
    let total := (a.pkts.map (·.2)).foldl (· + ·) 0
    let (t, w) := v.stampPic ent a
    let cut := decide (VidEnt.maxPic ent < total)
    let pic : VPic := { seq := v.seq, t := t, bytes := min total (VidEnt.maxPic ent), total := total, cut := cut,
                        die := a.die, handed := s.now, isRef := isRef, rap := rap }
    let w := { w with asm := rest, start := some a.after, seq := (v.seq + 1) % 2 ^ 32 }
    if 8 ≤ v.waiting.length then s.queueFull ent pic w
    else (s.havoc (VidEnt.codedDa ent pic.seq) pic.bytes).setVid n { w with waiting := w.waiting ++ [pic] }

/-! ### Failures (R344 to R348) -/

/-- Why a picture failed: cause, the value found and the limit it broke; `wd`: the watchdog stopped it; `check`: a check of its instance
failed. -/
structure PicFail where
  cause : Nat
  found : Nat := 0
  limit : Nat := 0
  wd : Bool := false
  check : Bool := false
  deriving DecidableEq, Repr

/-- The fault record of a failure, at most one for each stream and tick (R346). -/
def State.picFault (s : State) (ent : List Byte) (pic : VPic) (f : PicFail) (inst : Nat) : State :=
  let n := entStream ent
  let s := s.event Reg.vdcIntStatus (b2n f.wd)
  if (s.vid n).noted = s.rd Reg.tckCount + 1 then s else
  let s := s.setVid n { s.vid n with noted := s.rd Reg.tckCount + 1 }
  postFault s { code := if f.wd then F.decodeWatchdog else F.decodeLimit, cls := Class.contained, block := Blk.vdc, unit := n,
                payload := n + f.cause * 2 ^ 16 + VidEnt.codec ent % 4 * 2 ^ 20 + inst * 2 ^ 22 + pic.seq * 2 ^ 32 +
                  f.found % 2 ^ 32 * 2 ^ 64 + f.limit % 2 ^ 32 * 2 ^ 96 }

/-- A picture is dropped, or in the other modes skipped (R345): its record, its counts, and concealment when it would have
served as a reference (R348). -/
def State.failPic (s : State) (ent : List Byte) (pic : VPic) (f : PicFail) (dec : Option VDecode) (stalled : Bool) : State :=
  let n := entStream ent
  let inst := (dec.map (·.inst)).getD 31
  let skip := s.lenient
  let v := s.vid n
  let v := { v with dec := if dec.isSome then none else v.dec,
                    state := if pic.isRef && decide (v.state = 1) then 2 else v.state,
                    done := if skip then v.done ++ [{ seq := pic.seq, t := pic.t, skipped := true, visible := s.now }] else v.done }
  let s := (s.setVid n v).countFail n f.cause
  let s := s.picRecord ent pic 2 (if f.check then F.ctlCheck else if f.wd then F.decodeWatchdog else F.decodeLimit) (f.cause + b2n skip * 32) stalled
    ((dec.map (·.concealed)).getD false) inst 0 0 false (dec.map (·.started)) 0
  let s := if skip || (f.cause == 0 && !f.wd) then s else s.picFault ent pic f inst
  s.pruneVid n

/-! ### Decoding (R343, R344, R347) -/

/-- Highest level code of R342. -/
def topLevel : Nat → Nat
  | 0 => 52 | 1 => 183 | 2 => 16 | _ => 0

/-- The header check (R344): the first failure, with the value found and the limit. -/
def headerFail (ent : List Byte) (h : SeqHeader) : Option PicFail :=
  let codec := VidEnt.codec ent
  let out := fun (v lo hi : Nat) => if v < lo then some (v, lo) else if hi < v then some (v, hi) else none
  let at1 := fun (c : Nat) (o : Option (Nat × Nat)) => o.map fun x => ({ cause := c, found := x.1, limit := x.2 } : PicFail)
  if !h.supported then some { cause := 1 }
  else [at1 2 (out h.width 16 8192), at1 2 (out h.height 16 8192), at1 2 (out h.level 0 (topLevel codec)),
    at1 3 (out h.width 0 (VidEnt.maxW ent)), at1 3 (out h.height 0 (VidEnt.maxH ent)),
    at1 3 (out h.level 0 (VidEnt.maxLevel ent)), at1 3 (out h.refs 0 (VidEnt.maxRefs ent)), at1 4 h.broken].findSome? id

/-- Streams that wait for an instance: the oldest waiting picture of one with none in decode (R343). -/
def State.nextDecode (s : State) : Option (List Byte) :=
  let ready := s.vidEntries.filter fun b =>
    let v := s.vid (entStream b)
    v.dec.isNone && !v.waiting.isEmpty && decide (v.state ≠ 3)
  let age := fun (b : List Byte) => ((s.vid (entStream b)).waiting.head?.map (·.handed)).getD 0
  ready.foldl (fun a b => match a with
    | none => some b
    | some x => if age b < age x then some b else a) none

/-- Instances at work. -/
def State.busyInsts (s : State) : List Nat := s.ing.video.filterMap fun x => x.2.dec.map (·.inst)

/-- A free instance in service, one of the receiving die first (R436). DESIGN CHOICE: instances 0 to 11 are those of IOA, 12 to 23 those of
IOB; the manual gives 12 to each die and no numbers (assumption log 89). -/
def State.freeInst (s : State) (die : Nat) : Option Nat :=
  ((List.range 12).map (· + 12 * die) ++ (List.range 12).map (· + 12 * (1 - die))).find? fun i =>
    decide (i ∉ s.busyInsts) && !bit (s.rd Reg.hltEngOosHi) (32 + i)

/-- A header that fails: REJECTED in NORMAL mode, SKIPPING in the others (R345). -/
def State.headerRejected (s : State) (ent : List Byte) (pic : VPic) (f : PicFail) : State :=
  let n := entStream ent
  let s := if s.lenient then s.setVid n { s.vid n with state := 4 }
    else (s.setVid n { s.vid n with state := 3 }).event Reg.vdcIntStatus 2
  s.failPic ent pic f none false

/-- The state of a stream whose next picture starts decode: a random-access picture ends the wait and concealment. -/
def nextVidState (state : Nat) (rap : Bool) : Nat := if rap then 1 else if state = 4 then 2 else state

/-- A picture whose header has passed: the checks of size and slot, then decode (R344). -/
def State.beginDecode (s : State) (ent : List Byte) (pic : VPic) (inst : Nat) : State :=
  let n := entStream ent
  let v := { s.vid n with state := nextVidState (s.vid n).state pic.rap }
  let s := s.setVid n v
  if v.state = 0 then s.failPic ent pic { cause := 0 } none false
  else if pic.cut then s.failPic ent pic { cause := 6, found := pic.total, limit := VidEnt.maxPic ent } none false
  else match v.freeSlot (VidEnt.slots ent) with
  | none => s.failPic ent pic { cause := 5, found := v.usedSlots.length, limit := VidEnt.slots ent } none false
  | some i =>
    s.setVid n { v with dec := some { inst := inst, pic := pic, slot := i, started := s.now, concealed := decide (v.state = 2),
                                      width := v.width, height := v.height, wide := v.wide } }

/-- A free instance takes the oldest waiting picture (R343 to R345). -/
def State.decodeStart (s : State) (hdr : Option SeqHeader) : State :=
  match s.nextDecode with
  | none => s
  | some ent =>
    let n := entStream ent
    match (s.vid n).waiting with
    | [] => s
    | pic :: rest =>
      match s.freeInst pic.die with
      | none => s
      | some inst =>
        let s := s.setVid n { s.vid n with waiting := rest }
        match hdr with
        | none => if (s.vid n).state = 4 then s.failPic ent pic { cause := (s.vid n).cause } none false
            else s.beginDecode ent pic inst
        | some h =>
          match headerFail ent h with
          | some f => s.headerRejected ent pic f
          | none =>
            (s.setVid n { s.vid n with level := h.level, width := h.width, height := h.height, wide := h.wide }).beginDecode
              ent pic inst

/-- The entry whose stream an instance decodes. -/
def State.decoding (s : State) (inst : Nat) : Option (List Byte × VDecode) :=
  s.vidEntries.findSome? fun b =>
    match (s.vid (entStream b)).dec with
    | some d => if d.inst = inst then some (b, d) else none
    | none => none

/-- The bytes of a decoded picture's slot. -/
def decodedBytes (ent : List Byte) (seq : Nat) : List Byte :=
  (List.range (VidEnt.slotBytes ent)).map fun i => Config.decodedSample (entStream ent * 2 ^ 32 + seq) i

/-- A picture has been decoded in full (R350). -/
def State.decoded (s : State) (ent : List Byte) (d : VDecode) (film stalled : Bool) (refs : List Nat) : State :=
  let n := entStream ent
  let s := s.ioWrite .decoder (VidEnt.slotDa ent d.slot) (decodedBytes ent d.pic.seq)
  let v := s.vid n
  let fresh : VDone := { seq := d.pic.seq, t := d.pic.t, slot := some d.slot, concealed := d.concealed, film := film,
                         wide := d.wide, visible := s.now }
  let done := (v.done ++ [fresh]).map fun x => { x with isRef := decide (x.seq ∈ refs) }
  let s := s.setVid n { v with dec := none, film := film, done := done }
  let s := (s.bump Reg.vdcCount 31 0 1).bump Reg.vdcPixels 63 0 (d.width * d.height)
  let s := if d.concealed then s.bump Reg.vdcWdCount 63 32 1 else s
  let s := s.picRecord ent d.pic 0 0 (b2n film * 16) stalled d.concealed d.inst d.width d.height d.wide (some d.started)
    (VidEnt.slotDa ent d.slot)
  s.pruneVid n

/-- The watchdog of a picture, in cycles (R347). -/
def watchdogCycles (ent : List Byte) : Nat :=
  let ns := VidEnt.wdMult ent * (100000 + 3 * VidEnt.maxW ent * VidEnt.maxH ent + 20 * VidEnt.maxPic ent)
  ceilDiv (ns * 11) 20

/-- VDC_RELEASE (R361): pictures placed by windows up to tick v lose their hold, those placed in this cycle apart (R364). -/
def State.releasePics (s : State) (v : Nat) : State :=
  s.ing.video.foldl (fun s x =>
    let y := s.vid x.1
    let free := fun (p : Nat × Nat) => decide (p.1 ≤ v) && decide (p.2 ≠ s.now)
    let done := y.done.map fun d => { d with placed := d.placed.filter fun p => !(free p) }
    (s.setVid x.1 { y with done := done }).pruneVid x.1) s

/-- VDC_REARM (R345). -/
def State.rearm (s : State) (n : Nat) : State :=
  if (s.vid n).state = 3 ∧ (findStream s.vidEntries n).isSome then s.setVid n { s.vid n with state := 0 } else s

/-- VDC_STREAM_STATE of the j-th video entry. -/
def State.vdcStreamReg (s : State) (j : Nat) : Nat :=
  match s.vidEntries[j]? with
  | none => 0
  | some b =>
    let v := s.vid (entStream b)
    v.state + v.cause % 16 * 2 ^ 3 + b2n v.film * 2 ^ 7 + v.level % 256 * 2 ^ 8 + v.waiting.length * 2 ^ 16 +
      v.usedSlots.length % 4096 * 2 ^ 20 + v.failures * 2 ^ 32 + v.reanchors * 2 ^ 48

/-- VDC_STATUS. -/
def State.vdcStatusReg (s : State) : Nat :=
  s.busyInsts.foldl (fun a i => a ||| 2 ^ i) 0 +
    (s.vidEntries.filter fun b => decide ((s.vid (entStream b)).state = 1)).length * 2 ^ 32

/-! ### Meanings -/

/-- RTP_PACKET (R339, R340). -/
def execRtpPacket (t : Nat) (s : State) : Host.Outcome State Fault Refusal :=
  let s := s.advance t
  if s.stopped then .next s else
  let isVideo := fun (x : RxItem) => match x.kind with
    | .video _ => true
    | _ => false
  .next (match s.takeRx (fun x => !x.isPtp) isVideo with
    | some (x, s) =>
      (match x.kind with
       | .video n =>
         (match findStream s.vidEntries n with
          | some ent => s.rtpPacket ent x
          | none => s)
       | _ => s)
    | none => s)

/-- PICTURE_HANDOVER (R340, R343). -/
def execPictureHandover (t : Nat) (j : Fin 512) (isRef rap : Bool) (s : State) : Host.Outcome State Fault Refusal :=
  let s := s.advance t
  if s.stopped then .next s else
  .next (match s.vidEntries[j.val]? with
    | some ent => s.handover ent isRef rap
    | none => s)

/-- PICTURE_DECODE_START (R343 to R345). -/
def execPictureDecodeStart (t : Nat) (hdr : Option SeqHeader) (s : State) : Host.Outcome State Fault Refusal :=
  .next (s.live t fun s => s.decodeStart hdr)

/-- PICTURE_DECODE_END (R344, R350). -/
def execPictureDecodeEnd (t : Nat) (inst : Fin 24) (complete film stalled : Bool) (refs : List Nat) (s : State) :
    Host.Outcome State Fault Refusal :=
  let s := s.advance t
  if s.stopped then .next s else
  .next (match s.decoding inst with
    | some (ent, d) =>
      if complete then s.decoded ent d film stalled refs else s.failPic ent d.pic { cause := 7 } (some d) stalled
    | none => s)

/-- PICTURE_WATCHDOG (R347). -/
def execPictureWatchdog (t : Nat) (inst : Fin 24) (s : State) : Host.Outcome State Fault Refusal :=
  let s := s.advance t
  if s.stopped then .next s else
  .next (match s.decoding inst with
    | some (ent, d) =>
      if d.started + watchdogCycles ent ≤ s.now then
        (s.bump Reg.vdcWdCount 31 0 1).failPic ent d.pic { cause := 0, wd := true } (some d) false
      else s
    | none => s)

end Sys2Proof.Machine
end

