-- ==== Sys2Proof/Machine/Aligner.lean ====
section
/-! DEFINITION. The Aligner: samples, windows, grid values, fill and masks, the window record (R351 to R361), and the moment
an ingest configuration becomes active (R330). -/

namespace Sys2Proof.Machine

/-! ### Samples (R352) -/

/-- The samples taken of a channel, oldest first. -/
def State.chSamples (s : State) (ch : Nat) : List AlnSample := tabGet (fun _ => []) s.ing.samples ch

/-- Sets the samples of a channel. -/
def State.setSamples (s : State) (ch : Nat) (xs : List AlnSample) : State :=
  { s with ing := { s.ing with samples := tabSet (fun _ => []) s.ing.samples ch xs } }

/-- A window's cutoff, PTP ns and cycle, once the window has an end. -/
def WinSt.cutoff (w : WinSt) : Option (Int × Nat) :=
  w.stop.map fun x => (x.1 + (cfgCutoff w.cfg * 1000 : Nat), x.2 + us (cfgCutoff w.cfg))

/-- Whether a sample comes too late for its window (R352, R364). -/
def State.sampleLate (s : State) (x : AlnSample) : Bool :=
  match s.ing.wins with
  | [] => true
  | w :: _ =>
    decide (x.t < w.start) || s.ing.wins.any fun w =>
      match w.stop, w.cutoff with
      | some (e, _), some (c, _) => decide (w.start ≤ x.t) && decide (x.t < e) && decide (c ≤ x.stamp)
      | _, _ => false

/-- Counts a discarded sample, in the window that closes next. -/
def State.discard (s : State) (late : Bool) : State :=
  let s := if late then s.bump Reg.ingAlignCount 31 0 1 else s.bump Reg.ingAlignCount 63 32 1
  match s.ing.wins with
  | [] => s
  | w :: r =>
    let w := if late then { w with late := w.late + 1 } else { w with other := w.other + 1 }
    { s with ing := { s.ing with wins := w :: r } }

/-! ### Grid values (R353, R354) -/

/-- π to 62 binary places. -/
def piVal : FVal := .fin false 14488038916154245685 (-62)

/-- An angle brought into (−π, π]. -/
def wrapAngle (v : FVal) : FVal :=
  let two : FVal := piVal.shift 1
  if FVal.lt false piVal v then v.add two.neg
  else if FVal.lt false v piVal.neg || FVal.eqv v piVal.neg then v.add two else v

/-- The LINEAR value between two samples at p, within the bound of R353; k is the count of free values drawn. -/
def interpolate (k : Nat) (x y : AlnSample) (p : Int) : W32 :=
  let num := (p - x.t).toNat
  let den := (y.t - x.t).toNat
  let d := (f32 y.v).add (f32 x.v).neg
  let d := if x.angle then wrapAngle d else d
  let v := (f32 x.v).add ((d.mul (.fin false num 0)).div (.fin false den 0))
  let size := (f32 x.v).abs.add (f32 y.v).abs
  let err := (size.perturb 1 23 (Config.elemErr k [8, x.ch, x.v.toNat, y.v.toNat, num, den])).add size.neg
  let v := v.add err
  round32 (if x.angle then wrapAngle v else v)

/-- The value of a channel at p: none when missing. -/
def gridValue (k : Nat) (b : List Byte) (xs : List AlnSample) (p : Int) : Option W32 :=
  let s0 := (xs.filter fun x => decide (x.t ≤ p)).getLast?
  let s1 := xs.find? fun x => decide (p < x.t)
  let stale : Int := (GrpEnt.staleUs b * 1000 : Nat)
  let held := s0.bind fun x => if p - x.t ≤ stale then some x.v else none
  match s0, s1 with
  | some x, some y =>
    if GrpEnt.linear b ∧ y.t - x.t ≤ stale then (if x.t = p then some x.v else some (interpolate k x y p)) else held
  | _, _ => held

/-- The fill of a channel at p (R354): its last sample at or before p, or where there is none the last one taken. -/
def gridFill (b : List Byte) (xs : List AlnSample) (p : Int) : W32 :=
  if GrpEnt.fillConst b then GrpEnt.const b
  else match ((xs.filter fun x => decide (x.t ≤ p)).getLast?).orElse fun _ => xs.getLast? with
  | some x => x.v
  | none => GrpEnt.const b

/-- A grid value as it is written, and its mask bit. -/
def gridCell (k : Nat) (b : List Byte) (xs : List AlnSample) (p : Int) : Nat × Bool :=
  let v := gridValue k b xs p
  ((convert32 (GrpEnt.fmt b) .rne (v.getD (gridFill b xs p))).bits, v.isNone)

/-- Grid point g of a window. -/
def WinSt.point (w : WinSt) (g : Nat) : Int := w.start + (g * cfgGrid w.cfg * 1000 : Nat)

/-- The samples that count for a channel of a group in a window: those taken before its cutoff and since the group entry is in force
(R330, R353). -/
def State.winSamples (s : State) (w : WinSt) (b : List Byte) (ch : Nat) : List AlnSample :=
  (s.chSamples ch).filter fun x =>
    (match w.cutoff with
     | some (c, _) => decide (x.stamp < c)
     | none => true) && (s.ing.since.lookup b).all fun t => decide (t ≤ x.t)

/-- A value at p is final once a sample at or after p is taken: the samples that come later lie behind that one (R352, R358). -/
def finalAt (xs : List AlnSample) (p : Int) : Bool := xs.any fun x => decide (p ≤ x.t)

/-- Writes one final value and its mask bit (R358). -/
def State.writeFinal (s : State) (w : WinSt) (b : List Byte) (ch g : Nat) : State :=
  let v := gridCell s.free b (s.winSamples w b ch) (w.point g)
  let c := ch - GrpEnt.first b
  let width := (GrpEnt.fmt b).width / 8
  let a := GrpEnt.outDa b w.k
  let m := a + w.n * GrpEnt.stride b + g * GrpEnt.maskRow b + c / 8
  let s := ({ s with free := s.free + 1 } : State).ioWrite .ingest (a + g * GrpEnt.stride b + c * width) (leBytes width v.1)
  s.ioWrite .ingest m (leBytes 1 (putBits (leField (s.load m 1) 0 1) (c % 8) (c % 8) (b2n v.2)))

/-- Writes the values of a channel that a sample after those of xs, with timestamp t, makes final. -/
def State.writeFinals (s : State) (ch : Nat) (xs : List AlnSample) (t : Int) : State :=
  s.ing.wins.foldl (fun s w =>
    match groupOf w.cfg ch with
    | none => s
    | some b => (List.range w.n).foldl (fun s g =>
        if decide (w.point g ≤ t) && finalAt (s.winSamples w b ch) (w.point g) && !finalAt xs (w.point g) then s.writeFinal w b ch g
        else s) s) s

/-- Writes the values that are final as a window opens, from samples with timestamps ahead of it. -/
def State.openFinals (s : State) (w : WinSt) : State :=
  (cfgGroupList w.cfg).foldl (fun s b =>
    (List.range (GrpEnt.count b)).foldl (fun s c =>
      let ch := GrpEnt.first b + c
      (List.range w.n).foldl (fun s g => if finalAt (s.winSamples w b ch) (w.point g) then s.writeFinal w b ch g else s) s) s) s

/-- A sample is taken into its window, or discarded: LATE, FUTURE, DUPLICATE or OUT_OF_ORDER. -/
def State.alignSample (s : State) (x : AlnSample) : State :=
  if !s.tick.on then s else
  let xs := s.chSamples x.ch
  let last := xs.getLast?
  if s.sampleLate x then s.discard true
  else if (s.timeNs : Int) + 1000000000 < x.t then s.discard false
  else if last.any fun y => decide (x.t ≤ y.t) then s.discard false
  else (s.setSamples x.ch (xs ++ [x])).writeFinals x.ch xs x.t

/-- Writes row g of a group at the close: the values that are not final yet, but for those of the channels that `out` names, which keep
what is there, and every mask bit, set for filled and for unwritten values (R39, R355, R359); and how many values were filled. -/
def State.writeGridRow (s : State) (w : WinSt) (b : List Byte) (g : Nat) (out : Nat → Bool) : State × Nat :=
  let n := GrpEnt.count b
  let first := GrpEnt.first b
  let xs := fun (c : Nat) => s.winSamples w b (first + c)
  let final := (List.range n).map fun c => finalAt (xs c) (w.point g)
  let done := fun (c : Nat) => final.getD c false
  let gone := fun (c : Nat) => out (first + c) && !done c
  let cells := (List.range n).map fun c => gridCell s.free b (xs c) (w.point g)
  let width := (GrpEnt.fmt b).width / 8
  let a := GrpEnt.outDa b w.k
  let row := a + g * GrpEnt.stride b
  let vals := cells.mapIdx fun c v => (c, leBytes width v.1)
  let pieces := if vals.any (fun v => done v.1 || gone v.1) then
      (vals.filter fun v => !(done v.1 || gone v.1)).map fun v => (row + v.1 * width, v.2)
    else [(row, (vals.map (·.2)).flatten)]
  let masked := fun (c : Nat) => gone c || (cells.getD c (0, false)).2
  let mask := (List.range (ceilDiv n 8)).map fun i =>
    BitVec.ofNat 8 (ofBits 8 fun j => decide (8 * i + j < n) && masked (8 * i + j))
  let s := pieces.foldl (fun s p => s.ioWrite .ingest p.1 p.2) ({ s with free := s.free + 1 } : State)
  (s.ioWrite .ingest (a + w.n * GrpEnt.stride b + g * GrpEnt.maskRow b) mask,
   ((cells.mapIdx fun c v => v.2 && !gone c).filter id).length)

/-- Writes every group; `left` are the values, as channel and grid point, that an ALIGN deadline which has passed leaves unwritten. -/
def State.writeGrid (s : State) (w : WinSt) (left : List (Nat × Nat)) : State × Nat :=
  ((cfgGroupList w.cfg).flatMap fun b => (List.range w.n).map fun g => (b, g)).foldl (fun (a : State × Nat) r =>
    let (s, f) := a.1.writeGridRow w r.1 r.2 fun ch => left.contains (ch, r.2)
    (s, a.2 + f)) (s, 0)

/-! ### Pictures on the grid (R356, R357) -/

/-- A picture entry: its bytes, whether it is masked, concealed, and the picture it names. -/
structure PicEntry where
  bytes : List Byte
  masked : Bool
  concealed : Bool
  names : Option Nat
  deriving DecidableEq, Repr

/-- The 16 bytes of a picture entry. -/
def entryBytes (da seq age : Nat) (masked concealed film skipped wide : Bool) : List Byte :=
  leBytes 8 da ++ leBytes 4 seq ++ leBytes 2 (min 65535 age) ++
    leBytes 1 (b2n masked + 2 * b2n concealed + 4 * b2n film + 8 * b2n skipped + 16 * b2n wide) ++ leBytes 1 0

/-- The entry of a video stream at p, from the pictures taken. -/
def picEntry (ent : List Byte) (ds : List VDone) (p : Int) : PicEntry :=
  let latest := latestBy ds p fun _ => true
  let skip := latest.any (·.skipped)
  let ok := latest.bind fun d =>
    match d.slot with
    | some i => if p - d.t ≤ (VidEnt.staleMs ent * 1000000 : Nat) then some (d, i) else none
    | none => none
  let age := fun (d : VDone) => ((p - d.t) / 1000000).toNat
  match ok with
  | some (d, i) =>
    ⟨entryBytes (VidEnt.slotDa ent i) d.seq (age d) false d.concealed d.film false d.wide, false, d.concealed, some d.seq⟩
  | none =>
    match (if VidEnt.fillConst ent then none
      else (latestBy ds p fun d => d.slot.isSome).orElse fun _ => (ds.filter fun d => d.slot.isSome).getLast?) with
    | some d =>
      ⟨entryBytes (VidEnt.slotDa ent (d.slot.getD 0)) d.seq (age d) true d.concealed d.film skip d.wide, true, d.concealed,
        some d.seq⟩
    | none => ⟨entryBytes (VidEnt.slotDa ent 0) 0 0 true false false skip false, true, false, none⟩

/-- The pictures of a stream that a window takes: those visible before its cutoff (R352, R364), of the stream as it was under the
window's configuration (R330). -/
def State.taken (s : State) (w : WinSt) (n : Nat) : List VDone :=
  ((w.olds.lookup n).getD (s.vid n).done).filter fun d => match w.cutoff with
    | some (_, c) => decide (d.visible < c)
    | none => true

/-- The pictures of a stream that a window has placed keep their slots (R361). -/
def State.notePlaced (s : State) (k n : Nat) (seqs : List Nat) : State :=
  let v := s.vid n
  s.setVid n { v with done := v.done.map fun d =>
    if d.slot.isSome ∧ d.seq ∈ seqs then { d with placed := d.placed ++ [(k, s.now)] } else d }

/-- Writes the video mask and the picture entries; the answer counts entries placed, masked and concealed. -/
def State.writePics (s : State) (w : WinSt) : State × Nat × Nat × Nat :=
  let a := cfgWinDa w.cfg w.k
  let ents := cfgVidList w.cfg
  let row := fun (g : Nat) => ents.map fun b => picEntry b (s.taken w (entStream b)) (w.point g)
  let rows := (List.range w.n).map row
  let mask := rows.flatMap fun r => leBytes 64 (ofBits 512 fun j => (r[j]?).any (·.masked))
  let all := rows.flatten
  let s := (s.ioWrite .ingest (a + 64) mask).ioWrite .ingest (a + 64 + w.n * 64) (all.flatMap (·.bytes))
  let s := (List.range ents.length).foldl (fun s j =>
    let n := entStream (ents.getD j [])
    if (w.olds.lookup n).isSome then s else s.notePlaced w.k n (rows.filterMap fun r => (r[j]?).bind (·.names))) s
  (s, (all.filter fun x => !x.masked).length, (all.filter (·.masked)).length, (all.filter (·.concealed)).length)

/-! ### The close (R358, R359) -/

/-- The ALIGN phase of the active plan. -/
def State.alignPhase (s : State) : Option Nat :=
  (List.range 16).find? fun p => decide ((s.phaseDef p).name = 1) && decide ((s.phaseDef p).cls ≠ 0)

/-- Whether the ALIGN deadline of the tick that a window ends at has passed (R359). -/
def State.alignMissed (s : State) (w : WinSt) : Bool :=
  match s.alignPhase, w.stop with
  | some p, some (_, b) => decide (b + us (s.phaseDef p).deadline < s.now)
  | _, _ => false

/-- The window record (R358). -/
def windowRecord (w : WinSt) (late : Bool) (filled taken : Nat) (pics : Nat × Nat × Nat) (cut : Int) : List Byte :=
  let sat := fun (n : Nat) => leBytes 4 (min n (2 ^ 32 - 1))
  leBytes 8 w.k ++ leBytes 1 (b2n late + 2 * b2n w.first) ++ leBytes 3 0 ++ leBytes 4 w.n ++ sat filled ++ sat taken ++
    sat w.late ++ sat w.other ++ sat pics.1 ++ sat pics.2.1 ++ sat pics.2.2 ++ leBytes 4 (cfgSeq w.cfg) ++
    leBytes 8 (ofSigned 64 cut) ++ leBytes 8 0

/-- The samples that later windows need: those after p and the last one before. -/
def keepFrom (xs : List AlnSample) (p : Int) : List AlnSample :=
  let old := xs.filter fun x => decide (x.t ≤ p)
  (match old.getLast? with
   | some x => [x]
   | none => []) ++ xs.filter fun x => decide (p < x.t)

/-- Samples with a timestamp in a window. -/
def State.takenIn (s : State) (a b : Int) : Nat :=
  s.ing.samples.foldl (fun n x => n + (x.2.filter fun y => decide (a ≤ y.t) && decide (y.t < b)).length) 0

/-- The window that closes next writes what is not yet final, its masks, the picture entries and then its record. -/
def State.closeWindow (s : State) (left : List (Nat × Nat)) : State :=
  match s.ing.wins with
  | [] => s
  | w :: rest =>
    match w.stop, w.cutoff with
    | some (stop, _), some (cut, c) =>
      if s.now < c then s else
      let late := s.alignMissed w
      let (s, filled) := s.writeGrid w (if late then left else [])
      let (s, pics) := s.writePics w
      let rec64 := windowRecord w late filled (s.takenIn w.start stop) pics cut
      let s := s.ioWrite .ingest (cfgWinDa w.cfg w.k) rec64
      let s := (s.event Reg.ingIntStatus 0).wr Reg.ingLastWindow w.k
      let s := if late then s.event Reg.ingIntStatus 1 else s
      let s : State := { s with ing := { s.ing with wins := rest } }
      let samples := (s.ing.samples.filter fun x => s.grouped x.1).map fun (x : Nat × List AlnSample) => (x.1, keepFrom x.2 stop)
      let s : State := { s with ing := { s.ing with samples := samples } }
      let s := s.ing.video.foldl (fun (s : State) (x : Nat × VideoSt) => s.pruneVid x.1) s
      match s.alignPhase with
      | some p => s.phaseCommit p true
      | none => s
    | _, _ => s

/-! ### Activation (R330, R344) -/

/-- The luma, Cb and Cr planes of the fill picture. -/
def fillPicture (b : List Byte) : List Byte :=
  let n := VidEnt.pitch b * VidEnt.maxH b
  List.replicate n (BitVec.ofNat 8 (leField b 39 1)) ++ List.replicate (n / 4) (BitVec.ofNat 8 (leField b 40 1)) ++
    List.replicate (n / 4) (BitVec.ofNat 8 (leField b 41 1))

/-- A stream's picture in decode is stopped because its stream is removed or changed (R350). -/
def State.stopStream (s : State) (ent : List Byte) : State :=
  match (s.vid (entStream ent)).dec with
  | some d => s.picRecord ent d.pic 1 0 0 false d.concealed d.inst 0 0 false (some d.started) 0
  | none => s

/-- Measurement streams under a new configuration: an unchanged entry keeps its state. -/
def State.switchMeas (s : State) (old new : List (List Byte)) : State :=
  let kept := new.foldl (fun (m : List (Nat × MeasSt)) b =>
    let n := entStream b
    let fresh : MeasSt := { bound := if MeasEnt.pulse b then some (MeasEnt.engine b, MeasEnt.queue b, MeasEnt.k b) else none }
    tabSet (fun _ => {}) m n (if findStream old n = some b then s.measSt n else fresh)) []
  let s := { s with ing := { s.ing with meas := kept } }
  (new.filter fun b => MeasEnt.fromImage b && decide (findStream old (entStream b) ≠ some b)).foldl State.imageCfg s

/-- Video streams under a new configuration. -/
def State.switchVideo (s : State) (old new : List (List Byte)) : State :=
  let s := (old.filter fun b => decide (b ∉ new)).foldl State.stopStream s
  let kept := new.foldl (fun (m : List (Nat × VideoSt)) b =>
    let n := entStream b
    tabSet (fun _ => {}) m n (if findStream old n = some b then s.vid n else {})) []
  let s := { s with ing := { s.ing with video := kept } }
  (new.filter fun b => decide (findStream old (entStream b) ≠ some b)).foldl
    (fun s b => s.ioWrite .decoder (VidEnt.slotDa b 0) (fillPicture b)) s

/-- Group entries under a new configuration whose first window starts at t: an unchanged one keeps its channels' last samples. -/
def State.switchGroups (s : State) (old new : List (List Byte)) (t : Int) : State :=
  let fresh := (new.filter fun b => decide (b ∉ old)).map fun b => (b, t)
  let kept := s.ing.since.filter fun x => decide (x.1 ∈ old)
  { s with ing := { s.ing with since := kept ++ fresh } }

/-- The windows that still wait for their cutoff keep the pictures of the streams that are removed or changed. -/
def State.keepOlds (s : State) (old new : List (List Byte)) : State :=
  let olds := (old.filter fun b => decide (b ∉ new)).map fun b => (entStream b, (s.vid (entStream b)).done)
  { s with ing := { s.ing with wins := s.ing.wins.map fun w => { w with olds := w.olds ++ olds } } }

/-- The checked configuration becomes active; t is where its first window starts. -/
def State.activateIng (s : State) (t : Int) : State :=
  match s.ing.pending with
  | none => s
  | some c =>
    let old := s.ing.cfg.getD []
    let s := { s with ing := { s.ing with cfg := some c, pending := none } }
    let s := s.switchMeas (cfgMeasList old) (cfgMeasList c)
    let s := s.keepOlds (cfgVidList old) (cfgVidList c)
    let s := s.switchVideo (cfgVidList old) (cfgVidList c)
    let s := s.switchGroups (cfgGroupList old) (cfgGroupList c) t
    let s := ((s.setBit Reg.ingStatus 0 true).setBit Reg.ingStatus 1 false).setFld Reg.ingStatus 63 32 (cfgSeq c)
    s.event Reg.ingIntStatus 2

/-- Whether a checked configuration may become active at cycle b. -/
def State.ingDue (s : State) (b : Nat) : Bool := s.ing.pending.isSome && decide (s.ing.pendingAt + us 100 ≤ b)

/-- Pictures placed by window k − 2 and before lose their hold when tick k begins (R361). -/
def State.releaseOld (s : State) (k : Nat) : State :=
  s.ing.video.foldl (fun (s : State) (x : Nat × VideoSt) =>
    let y := s.vid x.1
    let done := y.done.map fun d => { d with placed := d.placed.filter fun p => decide (k < p.1 + 2) }
    (s.setVid x.1 { y with done := done }).pruneVid x.1) s

/-- The windows at a tick boundary b: the open one ends, a configuration that is due becomes active, and the window of the
tick opens (R330, R351). In a gap tick the window stays open (R29); when ticks stop no window closes (R365). -/
def State.windowsAt (s : State) (b : Nat) : State :=
  if !s.tick.on then { s with ing := { s.ing with wins := [] } }
  else if s.tick.gap then s
  else
    let wins := s.ing.wins.map fun w => if w.stop.isNone then { w with stop := some (s.ptpAt b, b) } else w
    let s := { s with ing := { s.ing with wins := wins } }
    let swap := s.ingDue b
    let s := if swap then s.activateIng (s.ptpAt b) else s
    let k := s.rd Reg.tckCount
    let s := s.releaseOld k
    match s.ing.cfg, s.tick.plan with
    | some c, some pl =>
      let n := if cfgGrid c = 0 then 0 else pl.period / cfgGrid c
      let w : WinSt := { k := k, start := s.ptpAt b, n := n, cfg := c, first := swap }
      ({ s with ing := { s.ing with wins := s.ing.wins ++ [w] } } : State).openFinals w
    | _, _ => s

/-! ### Meanings -/

/-- ALIGNER_SAMPLE (R352). -/
def execAlignerSample (t : Nat) (s : State) : Host.Outcome State Fault Refusal :=
  let s := s.advance t
  if s.stopped then .next s else
  .next (match s.ing.queue with
    | [] => s
    | x :: r => ({ s with ing := { s.ing with queue := r } }).alignSample x)

/-- WINDOW_CUTOFF (R358, R359): due once the cutoff of the window has come. `left` are the values, as channel and grid point, that had not
landed when the ALIGN deadline passed (R39). -/
def execWindowCutoff (t : Nat) (left : List (Nat × Nat)) (s : State) : Host.Outcome State Fault Refusal :=
  .next (s.live t fun s => s.closeWindow left)

/-- INGEST_CFG_ACTIVATE (R329): due 100 µs after the request while ticks are off; otherwise at a tick boundary. -/
def execIngestCfgActivate (t : Nat) (s : State) : Host.Outcome State Fault Refusal :=
  let s := s.advance t
  if s.stopped then .next s else
  .next (if s.ingDue s.now ∧ !s.tick.on then s.activateIng s.timeNs else s)

end Sys2Proof.Machine
end

