-- ==== Sys2Proof/Machine/Pages.lean ====
section
/-! DEFINITION. Key-value pages: the accesses of a macro-op to pools, tables and pages (R263 to R273), which GATHER may
make on another module (R412), and the checks of page headers (R266 to R268). -/

namespace Sys2Proof.Machine

/-! ### Accesses -/

/-- A macro-op at work on pages: the state, where it issues from, and what it has gathered. `old` are the answers its
accesses have had in an earlier run, `fresh` those of this run; only a GATHER with remote operands keeps them. -/
structure PageWork where
  s : State
  site : Site
  issue : Nat
  remote : Bool := false
  old : List (List Byte) := []
  fresh : List (List Byte) := []
  n : Nat := 0
  pins : List (Nat × Nat) := []
  traffic : List (Nat × Nat) := []
  deriving DecidableEq, Repr

/-- A computation on pages: it may end with a fault, and the state keeps what it did before. -/
abbrev Work := ExceptT OpFault (StateM PageWork)

/-- The mark by which a GATHER waits for the answer of a remote request; no fault code. -/
def remotePending : Nat := 0x10002

/-- One access: answered from an earlier run, or asked of another module, or made here. -/
def Work.access (far : Option (Nat × Packet)) (near : State → Except OpFault (List Byte) × State) : Work (List Byte) := do
  let w ← get
  match w.old with
  | x :: r =>
    set { w with old := r, n := w.n + 1 }
    return x
  | [] =>
    match far with
    | some (a, p) =>
      set { w with s := w.s.askRemote w.site.e w.site.k w.issue a 0 p.len (.step w.n) p }
      throw ⟨remotePending, a, 0⟩
    | none =>
      match near w.s with
      | (.ok x, s) =>
        set { w with s := s, n := w.n + 1, fresh := if w.remote then w.fresh ++ [x] else [] }
        return x
      | (.error f, s) =>
        set { w with s := s }
        throw f

/-- An effect on the state with no answer. -/
def Work.effect (f : State → State) : Work Unit := do
  let _ ← Work.access none fun s => (.ok [], f s)

/-- Notes bytes of a tier for the regulators (R80). -/
def Work.note (a n : Nat) : Work Unit := modify fun w => { w with traffic := w.traffic ++ [(a, n)] }

/-- Whether an access of [a, a + n) goes to another module; a remote DA that the macro-op may not present, or with bits
that must be 0, is F_ADDR_RANGE (R60, R412). -/
def Work.goesOut (a : Nat) : Work Bool := do
  let w ← get
  if !isRemote a then return false
  if w.remote && decide (bits a 49 45 = 0) then return true
  throw ⟨F.addrRange, a, 0⟩

/-- The 64-byte-aligned pieces of [a, a + n), each within a 256-byte line (R407); k bounds their number. -/
def getPieces (a n : Nat) : Nat → List (Nat × Nat)
  | 0 => []
  | k + 1 =>
    if n = 0 then [] else
    let m := min n (256 - a % 256)
    (a / 64 * 64, (a % 64 + m + 63) / 64 * 64) :: getPieces (a + m) (n - m) k

/-- Reads n bytes at a DA. -/
def Work.read (a n : Nat) : Work (List Byte) := do
  if ← Work.goesOut a then
    let parts ← (getPieces a n (n / 256 + 2)).mapM fun p => do
      if bits p.1 49 45 ≠ 0 then throw ⟨F.addrRange, p.1, 0⟩
      Work.access (some (p.1, { type := 0x01, len := p.2 })) fun s => (.ok [], s)
    return fieldBytes parts.flatten (a % 64) n
  else
    Work.note a n
    let w ← get
    Work.access none fun s =>
      match s.readsFault w.site.part [(a, n)] with
      | some f => (.error f, s)
      | none => (.ok (s.load a n), s)

/-- Reads a little-endian number. -/
def Work.readNat (a n : Nat) : Work Nat := do return leNat (← Work.read a n)

/-- Writes 4 or 8 bytes, or a longer run here; a write on another module goes as a SWAP (assumption log 42). -/
def Work.write (a : Nat) (bs : List Byte) : Work Unit := do
  if ← Work.goesOut a then
    let n := bs.length
    let _ ← Work.access (some (a, { type := 0x03, op := if n = 4 then 0x16 else 0x36, len := n, payload := bs })) fun s => (.ok [], s)
  else
    Work.note a bs.length
    let w ← get
    let _ ← Work.access none fun s =>
      match s.writesFault w.site.part [(a, bs.length)] with
      | some f => (.error f, s)
      | none => (.ok [], s.store a bs)

/-- OP[3:0] of an atomic (R408). -/
def AtomOp.code : AtomOp → Nat
  | .fadd => 0 | .min => 1 | .max => 2 | .and => 3 | .or => 4 | .xor => 5 | .swap => 6 | .cas => 7 | .cnt2 => 8

/-- OP[6:4] of an atomic (R408). -/
def AtomType.code : AtomType → Nat
  | .int32 => 0 | .uint32 => 1 | .b32 => 1 | .int64 => 2 | .uint64 => 3 | .b64 => 3 | .fp32 => 4 | .b128 => 5

/-- The packet of an atomic (R406, R408). -/
def AtomReq.packet (r : AtomReq) : Packet :=
  let w := r.ty.bytes
  let opnd := if r.op = .cnt2 then cnt2Opnd r else r.opnd
  let bs := leBytes w opnd ++ (if r.op = .cas then leBytes w r.cmp else [])
  { type := 0x03, op := r.op.code + 16 * r.ty.code, len := bs.length, payload := bs }

/-- An atomic at a DA; answers the old value. -/
def Work.atom (a : Nat) (r : AtomReq) : Work Nat := do
  let n := r.ty.bytes
  if ← Work.goesOut a then
    let bs ← Work.access (some (a, r.packet)) fun s => (.ok [], s)
    return leField bs 0 n
  else
    Work.note a n
    let w ← get
    let bs ← Work.access none fun s =>
      match s.atomFault a n (decide (a % n = 0)) with
      | some code => (.error ⟨code, a, 0⟩, s.noteAtomic a code)
      | none =>
        match s.opReadFault w.site.part a n with
        | some (code, b) => (.error ⟨code, b, 0⟩, s)
        | none =>
          if regionOf a = .attic ∧ !(s.ownsSectors a n) then (.error ⟨atticOwn, a, 0⟩, s)
          else
            let (s, ans) := s.doAtomic a r
            if ans.code = 0 then (.ok (leBytes n ans.old), s) else (.error ⟨ans.code, a, 0⟩, s)
    return leNat bs

/-- The engine of the macro-op. -/
def Work.engine : Work Nat := do return (← get).site.e

/-- Counts on an ENG register. -/
def Work.count (reg : Nat → Nat) (hi lo : Nat) : Work Unit := do
  let e ← Work.engine
  Work.effect fun s => s.bump (reg e) hi lo 1

/-! ### Faults (R298) -/

/-- F_KV_PAGE, F_KV_ALLOC and F_KV_RING: cause, sequence index and address. -/
def kvFault (code cause seq addr : Nat) : OpFault := ⟨code, addr, cause + seq % 65536 * 16⟩

/-! ### Pools (R263, R264) -/

/-- What a macro-op takes from a pool header. -/
structure Pool where
  da : Nat
  np : Nat
  treeLog2 : Nat
  pageBase : Nat
  entryBase : Nat
  treeBase : Nat
  key : Nat
  deriving DecidableEq, Repr

/-- The start of the module's window that a structure at DA a lies in: a local DA that it holds names a place there (R60). -/
def homeOf (a : Nat) : Nat := if isRemote a then a / 2 ^ 50 * 2 ^ 50 else 0

/-- The pool whose header at DA a holds the bytes bs. -/
def poolOf (a : Nat) (bs : List Byte) : Pool :=
  ⟨a, leField bs 24 4, leField bs 28 1, homeOf a + leField bs 32 8, homeOf a + leField bs 40 8, homeOf a + leField bs 48 8,
   leField bs 64 16⟩

/-- Reads a pool header. -/
def readPool (a : Nat) : Work Pool := do return poolOf a (← Work.read a 128)

/-- DA of page p. -/
def Pool.pageDa (x : Pool) (p : Nat) : Nat := x.pageBase + 65536 * p

/-- DA of the entry of page p. -/
def Pool.entryDa (x : Pool) (p : Nat) : Nat := x.entryBase + 16 * p

/-- No page. -/
def noPage : Nat := 0xFFFFFFFF

/-- Swaps the free-list head from `old` to page `top` (R271, R272); a failed CAS is counted. -/
def Pool.casHead (x : Pool) (old top : Nat) : Work Bool := do
  let new := top + (bits old 127 64 + 1) % 2 ^ 64 * 2 ^ 64
  let was ← Work.atom x.da { op := .cas, ty := .b128, opnd := new, cmp := old }
  if was = old then return true
  Work.count Reg.engKvCow 63 32
  return false

/-- Links page p to the free list; k bounds the attempts (R271). -/
def Pool.push (x : Pool) (p : Nat) : Nat → Work Unit
  | 0 => pure ()
  | k + 1 => do
    let head ← Work.readNat x.da 16
    Work.write (x.entryDa p + 8) (leBytes 4 (bits head 31 0))
    if ← x.casHead head p then pure () else x.push p k

/-- Returns page p to its free list (R271). -/
def Pool.giveBack (x : Pool) (p : Nat) : Work Unit := do
  x.push p 1000000
  let _ ← Work.atom (x.da + 16) { op := .fadd, ty := .int64, opnd := 1 }
  Work.count Reg.engKvPages 63 32

/-- CNT2 on page p; answers the old counts. -/
def Pool.cnt2 (x : Pool) (p : Nat) (dPin dRef : Int) : Work Nat :=
  Work.atom (x.entryDa p) { op := .cnt2, ty := .uint32, dPin := dPin, dRef := dRef }

/-- CNT2 that lets go of a pin or a reference: the page goes back on ZERO (R271). -/
def Pool.release (x : Pool) (p : Nat) (dPin dRef : Int) : Work Unit := do
  let old ← x.cnt2 p dPin dRef
  let r : AtomReq := { op := .cnt2, ty := .uint32, dPin := dPin, dRef := dRef }
  if r.result old = some 0 then x.giveBack p

/-- Takes the top page off the free list; k attempts are left (R272). -/
def Pool.pop (x : Pool) (seq : Nat) : Nat → Work (Nat × Nat)
  | 0 => throw (kvFault F.kvAlloc 2 seq x.da)
  | k + 1 => do
    let head ← Work.readNat x.da 16
    let top := bits head 31 0
    if top = noPage then throw (kvFault F.kvAlloc 1 seq x.da)
    let ent ← Work.readNat (x.entryDa top) 16
    if ← x.casHead head (bits ent 95 64) then return (top, bits ent 63 32) else x.pop seq k

/-- Allocates a page: its number and its new EPOCH (R272). -/
def Pool.alloc (x : Pool) (seq : Nat) : Work (Nat × Nat) := do
  let (p, epoch) ← x.pop seq 256
  let epoch := (epoch + 1) % 2 ^ 32
  let _ ← Work.atom (x.entryDa p) { op := .swap, ty := .b64, opnd := 1 + epoch * 2 ^ 32 }
  let _ ← Work.atom (x.da + 16) { op := .fadd, ty := .int64, opnd := 2 ^ 64 - 1 }
  Work.count Reg.engKvPages 31 0
  return (p, epoch)

/-- The mark of a pin for its release: the page, or the entry's offset on another module. -/
def Pool.pinMark (x : Pool) (p : Nat) : Nat × Nat := (x.da, if isRemote x.da then remoteOfs (x.entryDa p) else p)

/-- Pins page p through a block-table entry (R273). -/
def Pool.pin (x : Pool) (seq p : Nat) : Work Unit := do
  let old ← x.cnt2 p 1 0
  if bits old 15 0 = 0 then
    let _ ← x.cnt2 p (-1) 0
    Work.count Reg.engKvPins 63 32
    throw (kvFault F.kvPage 3 seq (x.pageDa p))
  else
    Work.count Reg.engKvPins 31 0
    modify fun w => { w with pins := w.pins ++ [x.pinMark p] }

/-- Releases the pin on page p. -/
def Pool.unpin (x : Pool) (p : Nat) : Work Unit := do
  modify fun w => { w with pins := w.pins.erase (x.pinMark p) }
  x.release p (-1) 0

/-! ### Pages (R266 to R268) -/

/-- A page header. -/
structure Page where
  da : Nat
  kf : Fmt
  vf : Fmt
  kscaled : Bool
  vscaled : Bool
  ring : Bool
  tokens : Bool
  slots : Nat
  used : Nat
  dh : Nat
  kOfs : Nat
  vOfs : Nat
  ksOfs : Nat
  vsOfs : Nat
  tkOfs : Nat
  firstPos : Nat
  num : Nat
  epoch : Nat
  deriving DecidableEq, Repr

/-- Slot stride of keys or values (R267). -/
def slotStride (f : Fmt) (dh : Nat) : Nat := ceilDiv (dh * f.width) 512 * 64

/-- The formats a page may hold (R266). -/
def pageFmt (v : Nat) : Option Fmt := if inRange v 1 4 then fmtOfCode v else none

/-- The regions of a page: offset and length. -/
def Page.regions (p : Page) : List (Nat × Nat) :=
  [(p.kOfs, p.slots * slotStride p.kf p.dh), (p.vOfs, p.slots * slotStride p.vf p.dh)] ++
  (if p.kscaled then [(p.ksOfs, p.slots * (p.dh / 32))] else []) ++
  (if p.vscaled then [(p.vsOfs, p.slots * (p.dh / 32))] else []) ++
  (if p.tokens then [(p.tkOfs, p.slots * 4)] else [])

/-- Whether no two of the byte ranges overlap. -/
def disjoint : List (Nat × Nat) → Bool
  | [] => true
  | x :: r => r.all (fun y => decide (x.1 + x.2 ≤ y.1) || decide (y.1 + y.2 ≤ x.1)) && disjoint r

/-- Whether the fields of a header obey R266 and R267. -/
def Page.sound (p : Page) : Bool :=
  decide (p.slots % 16 = 0) && inRange p.slots 16 1008 && decide (p.used ≤ p.slots) &&
  decide (p.dh % 32 = 0) && inRange p.dh 32 256 &&
  (!p.kscaled || p.kf.scalable) && (!p.vscaled || p.vf.scalable) &&
  (p.kscaled || decide (p.ksOfs = 0)) && (p.vscaled || decide (p.vsOfs = 0)) && (p.tokens || decide (p.tkOfs = 0)) &&
  p.regions.all (fun r => decide (256 ≤ r.1) && decide (r.1 % 64 = 0) && decide (r.1 + r.2 ≤ 65536)) && disjoint p.regions

/-- The header held in 256 bytes at a DA; none when it breaks R266 or R267. -/
def pageOf (a : Nat) (bs : List Byte) : Option Page :=
  let fl := leField bs 3 1
  match pageFmt (leField bs 1 1), pageFmt (leField bs 2 1) with
  | some kf, some vf =>
    let p : Page := ⟨a, kf, vf, bit fl 0, bit fl 1, bit fl 2, bit fl 3, leField bs 4 2, leField bs 6 2, leField bs 8 2,
      leField bs 12 4, leField bs 16 4, leField bs 20 4, leField bs 24 4, leField bs 28 4, leField bs 32 8, leField bs 40 4,
      leField bs 44 4⟩
    if leField bs 0 1 = 1 ∧ fl < 16 ∧ leField bs 10 2 = 0 ∧ leField bs 48 208 = 0 ∧ p.sound then some p else none
  | _, _ => none

/-- The 256 bytes of a header. -/
def Page.bytes (p : Page) : List Byte :=
  let code := fun (f : Fmt) => match f with
    | .bf16 => 1
    | .fp16 => 2
    | .e4m3 => 3
    | _ => 4
  leBytes 1 1 ++ leBytes 1 (code p.kf) ++ leBytes 1 (code p.vf) ++
  leBytes 1 (b2n p.kscaled + 2 * b2n p.vscaled + 4 * b2n p.ring + 8 * b2n p.tokens) ++
  leBytes 2 p.slots ++ leBytes 2 p.used ++ leBytes 2 p.dh ++ leBytes 2 0 ++ leBytes 4 p.kOfs ++ leBytes 4 p.vOfs ++
  leBytes 4 p.ksOfs ++ leBytes 4 p.vsOfs ++ leBytes 4 p.tkOfs ++ leBytes 8 p.firstPos ++ leBytes 4 p.num ++
  leBytes 4 p.epoch ++ leBytes 208 0

/-- Rounds up to a multiple of 64. -/
def up64 (n : Nat) : Nat := (n + 63) / 64 * 64

/-- A new page: its regions follow the header in the order keys, values, key scales, value scales, token keys, each from
the next multiple of 64 (assumption log 43). -/
def newPage (a : Nat) (kf vf : Fmt) (ks vs ring tokens : Bool) (slots dh : Nat) : Page :=
  let k := 256
  let v := up64 (k + slots * slotStride kf dh)
  let s1 := up64 (v + slots * slotStride vf dh)
  let s2 := if ks then up64 (s1 + slots * (dh / 32)) else s1
  let t := if vs then up64 (s2 + slots * (dh / 32)) else s2
  ⟨a, kf, vf, ks, vs, ring, tokens, slots, 0, dh, k, v, if ks then s1 else 0, if vs then s2 else 0, if tokens then t else 0,
   0, 0, 0⟩

/-- Reads and checks the header of page `num` reached through a block-table or tree entry (R268); `index` is the block-table
index for the check of FIRST_POS. -/
def Pool.header (x : Pool) (seq num epoch dh : Nat) (index : Option Nat) : Work Page := do
  let a := x.pageDa num
  match pageOf a (← Work.read a 256) with
  | none => throw (kvFault F.kvPage 1 seq a)
  | some p =>
    if p.dh ≠ dh then throw (kvFault F.kvPage 1 seq a)
    if p.num ≠ num ∨ p.epoch ≠ epoch then throw (kvFault F.kvPage 2 seq a)
    match index with
    | some j => if !p.ring && decide (p.firstPos ≠ j * p.slots) then throw (kvFault F.kvPage 6 seq a)
    | none => pure ()
    return p

/-- DA of slot s of the keys (0) or values (1). -/
def Page.slotDa (p : Page) (side s : Nat) : Nat :=
  p.da + (if side = 0 then p.kOfs + s * slotStride p.kf p.dh else p.vOfs + s * slotStride p.vf p.dh)

/-- DA of the scales of slot s. -/
def Page.scaleDa (p : Page) (side s : Nat) : Nat := p.da + (if side = 0 then p.ksOfs else p.vsOfs) + s * (p.dh / 32)

/-- Format of keys or values. -/
def Page.fmt (p : Page) (side : Nat) : Fmt := if side = 0 then p.kf else p.vf

/-- Whether keys or values carry scales. -/
def Page.scaled (p : Page) (side : Nat) : Bool := if side = 0 then p.kscaled else p.vscaled

/-- One slot of keys or values: raw patterns and scale bytes. -/
structure SlotData where
  elems : List Nat
  scales : List Nat
  deriving DecidableEq, Repr

/-- Reads slot s of the keys or values. -/
def Page.slot (p : Page) (side s : Nat) : Work SlotData := do
  let w := (p.fmt side).width / 8
  let bs ← Work.read (p.slotDa side s) (p.dh * w)
  let sc ← if p.scaled side then Work.read (p.scaleDa side s) (p.dh / 32) else pure []
  return ⟨(List.range p.dh).map fun i => leField bs (w * i) w, sc.map (·.toNat)⟩

/-- The scale of element i; 1 without scales. -/
def SlotData.scale (x : SlotData) (i : Nat) : Nat := x.scales.getD (i / 32) 127

/-- The value of element i with its scale. -/
def SlotData.value (x : SlotData) (f : Fmt) (i : Nat) : FVal :=
  if x.scale i = 0xFF then .nan else (f.decode (x.elems.getD i 0)).shift ((x.scale i : Int) - 127)

/-! ### Block tables and length tables (R269, R270) -/

/-- A length-table entry. -/
structure SeqEnt where
  da : Nat
  bt : Nat
  kvLen : Nat
  qLen : Nat
  qRow : Nat
  qPos : Nat
  window : Nat
  ring : Nat
  deriving DecidableEq, Repr

/-- The length-table entry that the bytes bs at DA a hold. -/
def seqOf (a : Nat) (bs : List Byte) : SeqEnt :=
  ⟨a, homeOf a + leField bs 0 8, leField bs 8 4, leField bs 12 4, leField bs 16 4, leField bs 20 4, leField bs 24 4, leField bs 28 4⟩

/-- Reads entry b of the length table at a DA. -/
def readSeq (table b : Nat) : Work SeqEnt := do return seqOf (table + 32 * b) (← Work.read (table + 32 * b) 32)

/-- All entries of a batch. -/
def readSeqs (table n : Nat) : Work (List SeqEnt) := (List.range n).mapM (readSeq table)

/-- Entry j of a block table: page number and EPOCH. -/
def readEntry (x : SeqEnt) (j : Nat) : Work (Nat × Nat) := do
  let v ← Work.readNat (x.bt + 8 * j) 8
  return (bits v 31 0, bits v 63 32)

/-- The block-table entry that holds position t (R269). -/
def SeqEnt.index (x : SeqEnt) (slots t : Nat) : Nat := if x.ring = 0 then t / slots else t / slots % x.ring

/-- The position that slot s of entry j holds, when one below KV_LEN does (R269). -/
def SeqEnt.position (x : SeqEnt) (slots j s : Nat) : Option Nat :=
  let t := j * slots + s
  if x.kvLen ≤ t then none
  else if x.ring = 0 then some t
  else
    let lap := x.ring * slots
    some (t + (x.kvLen - 1 - t) / lap * lap)

/-- A block-table entry that names no page where one is needed (assumption log 44). -/
def missingPage (seq : Nat) (x : SeqEnt) (j : Nat) : OpFault := kvFault F.kvPage 1 seq (x.bt + 8 * j)

/-- SLOTS of a sequence on this module: those of the first page, among entries js of its block table, that by its own SLOTS is in use;
no request is made for them (assumption log 45). -/
def State.seqSlots (s : State) (pool : Pool) (b : SeqEnt) (js : List Nat) (inUse : Nat → Nat → Bool) : Nat :=
  (js.findSome? fun j =>
    let p := s.loadNat (b.bt + 8 * j) 4
    let n := s.loadNat (pool.pageDa p + 4) 2
    if p ≠ noPage ∧ inRange n 16 1008 ∧ n % 16 = 0 ∧ inUse n j then some n else none).getD 1008

/-- SLOTS of a sequence on another module: those of the first page that entries js name (assumption log 45). -/
def slotsOf (pool : Pool) (seq : Nat) (x : SeqEnt) : List Nat → Work Nat
  | [] => throw (missingPage seq x 0)
  | j :: r => do
    let (p, _) ← readEntry x j
    if p = noPage then slotsOf pool seq x r
    else
      let n ← Work.readNat (pool.pageDa p + 4) 2
      if inRange n 16 1008 then return n else throw (kvFault F.kvPage 1 seq (pool.pageDa p))

/-- How many entries of a block table can name pages. -/
def SeqEnt.entries (x : SeqEnt) : Nat := if x.ring = 0 then ceilDiv x.kvLen 16 else x.ring

/-! ### Running the work of a macro-op -/

/-- Runs work for an open macro-op from the start. -/
def State.work {α : Type} (s : State) (site : Site) (o : OpenOp) (remote : Bool) (x : Work α) :
    Except OpFault α × PageWork :=
  x.run { s := s, site := site, issue := o.issue, remote := remote, old := o.log }

/-- The macro-op after its work: its pins, answers and traffic. -/
def PageWork.close (w : PageWork) (o : OpenOp) : State × OpenOp :=
  let (s, o) := w.s.chargeOp o w.traffic
  (s, { o with pins := w.pins, log := if w.remote then o.log ++ w.fresh else [] })

/-- Whether a fault is a mark that leaves the macro-op unissued. -/
def OpFault.waits (f : OpFault) : Bool := decide (f.code = atticPending ∨ f.code = atticOwn)

end Sys2Proof.Machine
end

