-- ==== Sys2Proof/Machine/Attention.lean ====
section
/-! DEFINITION. Block attention and its backward (R276 to R285): each step runs one key block of the open query block. -/

namespace Sys2Proof.Machine

/-! ### Operands (R276) -/

/-- The arguments of ATTN and ATTN.BWD, with their tensors. -/
structure AttnArgs where
  bwd : Bool
  batch : Nat
  dh : Nat
  hq : Nat
  pool : Nat
  table : Nat
  shadow : Nat
  sc : W32
  causal : Bool
  grain : Nat
  q : Tensor
  tb : Tensor
  tc : Option Tensor
  o : Tensor
  deriving DecidableEq, Repr

/-- The arguments of a descriptor with its tensors. -/
def attnArgs (d : Desc) (q tb : Tensor) (tc : Option Tensor) (o : Tensor) : AttnArgs :=
  ⟨decide (d.op = Op.attnBwd), bits (d.arg 0) 15 0, bits (d.arg 0) 31 16, bits (d.arg 0) 39 32, d.arg 1, d.arg 2, d.arg 4,
   BitVec.ofNat 32 (bits (d.arg 3) 31 0), bit (d.w 2) 16, d.opx 20 17, q, tb, tc, o⟩

/-- Whether the fixed fields of the descriptor are out of their ranges (R154, R276). -/
def attnReserved (d : Desc) : Bool :=
  !(inRange (bits (d.arg 0) 15 0) 1 1024) || !(inRange (bits (d.arg 0) 39 32) 1 16) || bits (d.arg 0) 63 40 != 0 ||
  bits (d.arg 3) 63 32 != 0 || d.opx 63 21 != 0

/-- The formats of a query (R276). -/
def Fmt.query (f : Fmt) : Bool := decide (f = .bf16 ∨ f = .fp16 ∨ f = .e4m3 ∨ f = .e5m2)

/-- The checks of R276 and R285 on the descriptor and its tensors, before the length table. -/
def State.attnCheck (s : State) (site : Site) (d : Desc) (bwd : Bool) : Except OpFault AttnArgs := do
  stopIf (attnReserved d || (!bwd && decide (d.arg 4 ≠ 0))) (invalidAt 0)
  let q ← s.operand site d.tdA
  let tb ← s.operand site d.tdB
  let tc ← if bwd then (s.operand site d.tdC).map some else s.optOperand site d.tdC
  let o ← s.operand site d.tdD
  let x := Machine.attnArgs d q tb tc o
  stopIf (!q.fmt.query) (invalidAt 0)
  stopIf (decide (o.fmt ≠ .fp32 ∧ o.fmt ≠ .bf16)) (invalidAt 0)
  stopIf (match tc with
    | some t => decide (t.fmt ≠ .fp32 ∨ t.cols < 2)
    | none => false) (invalidAt 0)
  stopIf (if bwd then decide (128 < x.dh) else
    (!tb.shelf || decide (tb.fmt ≠ .fp32) || decide (tb.rows < 128) || decide (tb.cols < x.dh + 2))) (invalidAt 0)
  return x

/-- The rows of a sequence in the row tensors. -/
def AttnArgs.rowsOf (x : AttnArgs) (b : SeqEnt) : Reg2 := ⟨b.qRow, 0, b.qLen * x.hq, x.dh⟩

/-- The regions of every sequence lie in the tensors (R276). -/
def AttnArgs.fits (x : AttnArgs) (d : Desc) : List SeqEnt → Except OpFault Unit
  | [] => .ok ()
  | b :: r => do
    let g := x.rowsOf b
    if b.qLen ≠ 0 then
      x.q.within g
      if x.bwd then x.tb.within g
      match x.tc with
      | some t => t.within { g with n := 2 }
      | none => pure ()
      x.o.destOk d.twrite g
    x.fits d r

/-! ### Visibility (R277) -/

/-- Whether key position k is visible to a query at position p. -/
def AttnArgs.visible (x : AttnArgs) (b : SeqEnt) (p k : Nat) : Bool :=
  decide (k < b.kvLen) && (!x.causal || decide (k >>> x.grain ≤ p >>> x.grain)) &&
    (decide (b.window = 0) || decide (p + 1 ≤ k + b.window))

/-- The position of row i of a sequence. -/
def AttnArgs.rowPos (x : AttnArgs) (b : SeqEnt) (i : Nat) : Nat := b.qPos + i / x.hq

/-- Whether a key position is visible to a row of [i, i + n): the rows' positions are consecutive. -/
def AttnArgs.seen (x : AttnArgs) (b : SeqEnt) (i n k : Nat) : Bool :=
  let p0 := x.rowPos b i
  (List.range (x.rowPos b (i + n - 1) + 1 - p0)).any fun j => x.visible b (p0 + j) k

/-- A key block of R276: block-table entry and slots, with the position of each slot. -/
structure KeyBlock where
  j : Nat
  first : Nat
  n : Nat
  deriving DecidableEq, Repr

/-- The key blocks of entry j. -/
def blocksOfPage (slots j : Nat) : List KeyBlock :=
  (List.range (ceilDiv slots 128)).map fun i => ⟨j, 128 * i, min 128 (slots - 128 * i)⟩

/-- Entries that a sequence's positions below KV_LEN reach. -/
def SeqEnt.reached (b : SeqEnt) (slots : Nat) : List Nat :=
  List.range (if b.ring = 0 then ceilDiv b.kvLen slots else b.ring)

/-- The key blocks issued for rows [i, i + n): those with a visible key (R277). -/
def AttnArgs.keyBlocks (x : AttnArgs) (b : SeqEnt) (slots i n : Nat) : List KeyBlock :=
  ((b.reached slots).flatMap (blocksOfPage slots)).filter fun kb =>
    (List.range kb.n).any fun s =>
      match b.position slots kb.j (kb.first + s) with
      | some k => x.seen b i n k
      | none => false

/-! ### Arithmetic (R279 to R281) -/

/-- The slots of a key block that a macro-op has read, by their number in the page. -/
structure PageData where
  page : Page
  keys : List (Nat × SlotData)
  vals : List (Nat × SlotData)
  deriving DecidableEq, Repr

/-- The slot of a number. -/
def slotData (xs : List (Nat × SlotData)) (s : Nat) : Option SlotData := (xs.find? fun y => decide (y.1 = s)).map (·.2)

/-- Element i of key slot s as fed to the score product: the value and its block scale (R279). -/
def PageData.key (p : PageData) (s i : Nat) : Fed :=
  match slotData p.keys s with
  | some x => (p.page.kf.decode (x.elems.getD i 0), x.scale i)
  | none => (.fin false 0 0, 127)

/-- A value widened to BF16 with its scale: exact but beyond the range, where it is infinity or zero (R280). -/
def widenValue : FVal → FVal
  | .fin neg m e =>
    if FVal.lt false (Fmt.bf16.decode 0x7F7F) (.fin false m e) then .inf neg
    else if FVal.lt false (.fin false m e) (.fin false 1 (-133)) then .fin neg 0 0
    else .fin neg m e
  | v => v

/-- Element i of value slot s as fed to the value product (R280). -/
def PageData.val (p : PageData) (s i : Nat) : Fed :=
  match slotData p.vals s with
  | some x => (if p.page.vf = .fp16 then x.value .fp16 i else widenValue (x.value p.page.vf i), 127)
  | none => (.fin false 0 0, 127)

/-- A weight rounded to BF16 (R280). -/
def weight (p : W32) : Fed := ((Fmt.bf16.decode (convert .bf16 .rne (f32 p)).bits), 127)

/-- Running state of a row: m, l and O. -/
structure RowRun where
  m : W32 := 0xFF800000
  l : W32 := 0
  o : List W32 := []
  deriving DecidableEq, Repr

/-- −infinity in FP32. -/
def minusInf : W32 := 0xFF800000

/-- EXP(m − m') by which what a row holds is rescaled, 0 when m is −infinity: exact when the maximum stands, and else with an error that
halves with each of the n key blocks before, as the bound of R282 on the whole row asks (assumption log 76). -/
def rescale (k n : Nat) (m m' : W32) : W32 :=
  if m = minusInf then 0 else if m' = m then 0x3F800000 else expWithin (10 + n) k (sub32 m m')

/-- Key block n on one row (R281): `scores` are the scores of its slots, none where invisible. -/
def RowRun.step (r : RowRun) (k n : Nat) (sc : W32) (scores : List (Option W32)) (dh : Nat) (v : Nat → Nat → Fed) : RowRun :=
  let xs := scores.map fun y => match y with
    | some w => mul32 sc w
    | none => minusInf
  let m' := rowMax r.m (rmax xs)
  let ps := xs.map fun x => if x = minusInf then 0 else exp32 k (sub32 x m')
  let c := rescale k n r.m m'
  let ws := ps.map weight
  let o := (List.range dh).map fun i =>
    fma32 c (r.o.getD i 0) (dot ps.length (fun j => ws.getD j (.fin false 0 0, 127)) (fun j => v j i))
  ⟨m', fma32 c r.l (rsum k ps), o⟩

/-- A row that sees no key, or whose every visible x is −infinity (R281). -/
def RowRun.blank (r : RowRun) : Bool := decide (r.m = minusInf) && (f32 r.l).isZero

/-- O / l of a finished row; +0 for a blank one. -/
def RowRun.output (r : RowRun) (k dh : Nat) : List W32 :=
  (List.range dh).map fun i => if r.blank then 0 else elem32 k ((f32 (r.o.getD i 0)).div (f32 r.l)) (elemKey 5 [r.o.getD i 0, r.l])

/-- The log-sum-exp m + ln l (R281). -/
def RowRun.lse (r : RowRun) (k : Nat) : W32 := if r.blank then minusInf else add32 r.m (ln32 k r.l)

/-- The scores of row q against the slots of a key block, none where invisible. -/
def AttnArgs.scores (x : AttnArgs) (b : SeqEnt) (q : Nat → Fed) (row : Nat) (p : PageData) (kb : KeyBlock) :
    List (Option W32) :=
  (List.range kb.n).map fun s =>
    match b.position p.page.slots kb.j (kb.first + s) with
    | some k => if x.visible b (x.rowPos b row) k then some (dot x.dh q (p.key (kb.first + s))) else none
    | none => none

/-! ### Query blocks -/

/-- A query block: its sequence by number, its first row in it, and its rows. -/
structure QBlock where
  seq : Nat
  b : SeqEnt
  i : Nat
  n : Nat
  deriving DecidableEq, Repr

/-- Rows of a query block (R276, R285). -/
def AttnArgs.qr (x : AttnArgs) : Nat := if x.bwd then 64 else 128

/-- The query blocks of a batch, in the order they run; a sequence with Q_LEN = 0 has none. -/
def AttnArgs.qBlocks (x : AttnArgs) (seqs : List SeqEnt) : List QBlock :=
  ((List.range seqs.length).zip seqs).flatMap fun y =>
    (List.range (ceilDiv (y.2.qLen * x.hq) x.qr)).map fun i => ⟨y.1, y.2, x.qr * i, min x.qr (y.2.qLen * x.hq - x.qr * i)⟩

/-- The rows of a query block in the row tensors. -/
def AttnArgs.blockRows (x : AttnArgs) (k : QBlock) : Reg2 := ⟨k.b.qRow + k.i, 0, k.n, x.dh⟩

/-- The region of D that a query block takes: its sequence's result starts at (Q_ROW, 0) (R222). -/
def AttnArgs.blockDest (x : AttnArgs) (tw : Bool) (k : QBlock) : Reg2 := if tw then ⟨k.b.qRow, k.i, x.dh, k.n⟩ else x.blockRows k

/-- The scratch region of the running state: O in columns 0 to d_h − 1, then m and l (assumption log 75). -/
def AttnArgs.scratch (x : AttnArgs) : Reg2 := ⟨0, 0, 128, x.dh + 2⟩

/-- What a query block writes at its end. -/
def AttnArgs.dest (x : AttnArgs) (e : Nat) (d : Desc) (l : Launch) (k : QBlock) : Launch :=
  let l := l.into x.o e (x.blockDest d.twrite k)
  match x.tc with
  | some t => if x.bwd then l else l.into t e { x.blockRows k with n := 1 }
  | none => l

/-- The scratch blocks, which every key block of ATTN writes. -/
def AttnArgs.scratchBlocks (x : AttnArgs) : List Nat := if x.bwd then [] else x.tb.blocks x.scratch

/-- The rows that a query block reads. -/
def AttnArgs.sources (x : AttnArgs) (e : Nat) (d : Desc) (g : Reg2) : List Source :=
  [x.q.source e g d.genA] ++
  (if x.bwd then [x.tb.source e g d.genB] ++ (match x.tc with
    | some t => [t.source e { g with n := 2 } d.genC]
    | none => []) else [])

/-- The units of an attention macro-op: its query blocks. -/
def AttnArgs.units (x : AttnArgs) (e : Nat) (d : Desc) (ks : List QBlock) : List WorkUnit :=
  ks.map fun k =>
    let l := x.dest e d {} k
    { blocks := dedup (l.blocks ++ x.scratchBlocks), keep := l.dst }

/-- The arguments of an open attention macro-op, its pool and its sequences, as latched at issue. -/
def OpenOp.attn (o : OpenOp) : Option (AttnArgs × Pool × List SeqEnt) :=
  match o.entry 0, o.entry 1, o.entry 3 with
  | some q, some tb, some y =>
    let x := Machine.attnArgs o.desc q tb (o.entry 2) y
    let bs := o.entries.getD 4 []
    some (x, poolOf x.pool (o.entries.getD 5 []),
          (List.range x.batch).map fun i => seqOf (x.table + 32 * i) ((bs.drop (32 * i)).take 32))
  | _, _, _ => none

/-! ### Pages of a sequence -/

/-- Whether entry j of a sequence with pages of n slots holds a key that a row of the sequence sees. -/
def AttnArgs.sees (x : AttnArgs) (b : SeqEnt) (n j : Nat) : Bool :=
  (List.range n).any fun s => match b.position n j s with
    | some k => x.seen b 0 (b.qLen * x.hq) k
    | none => false

/-- The capacity check of a ring sequence (R278): KV_LEN − Q_POS + WINDOW − 1 against R × SLOTS, or no WINDOW. -/
def ringFault (x : SeqEnt) (seq slots : Nat) : Option OpFault :=
  if x.ring = 0 then none
  else if x.window = 0 ∨ (x.ring * slots : Nat) < (x.kvLen : Int) - x.qPos + x.window - 1 then some (kvFault F.kvRing 1 seq x.da)
  else none

/-- The pages that a macro-op has pinned for a sequence: block-table index, DA and header bytes. -/
abbrev Pinned := List (Nat × Nat × List Byte)

/-- The page of entry j, pinned and checked when it is first needed (R268, R273). -/
def fetchPage (pool : Pool) (x : SeqEnt) (seq dh : Nat) (bwd : Bool) (got : Pinned) (j : Nat) : Work (Page × Pinned) := do
  match (got.find? fun g => decide (g.1 = j)).bind fun g => pageOf g.2.1 g.2.2 with
  | some page => return (page, got)
  | none =>
    let (p, epoch) ← readEntry x j
    if p = noPage then throw (missingPage seq x j)
    pool.pin seq p
    let page ← pool.header seq p epoch dh (some j)
    if bwd && decide (32768 < page.slots * dh) then throw (kvFault F.kvPage 5 seq page.da)
    return (page, got ++ [(j, page.da, page.bytes)])

/-- Reads a key block: of the page's slots only those that a row of the query block sees (R270). -/
def readBlock (pool : Pool) (x : AttnArgs) (k : QBlock) (got : Pinned) (kb : KeyBlock) : Work (PageData × Pinned) := do
  let (page, got) ← fetchPage pool k.b k.seq x.dh x.bwd got kb.j
  let need := ((List.range kb.n).map (kb.first + ·)).filter fun s => match k.b.position page.slots kb.j s with
    | some p => x.seen k.b k.i k.n p
    | none => false
  let keys ← need.mapM fun s => do return (s, ← page.slot 0 s)
  let vals ← need.mapM fun s => do return (s, ← page.slot 1 s)
  return (⟨page, keys, vals⟩, got)

/-! ### ATTN -/

/-- The running state of row r in scratch; a fresh one before the first key block (R284). -/
def State.loadRun (s : State) (e : Nat) (x : AttnArgs) (first : Bool) (r : Nat) : RowRun :=
  if first then {} else ⟨s.elem32 e x.tb r x.dh, s.elem32 e x.tb r (x.dh + 1), s.row32 e x.tb ⟨r, 0, 1, x.dh⟩ 0⟩

/-- Row r's running state goes to scratch. -/
def State.storeRun (s : State) (e : Nat) (x : AttnArgs) (r : Nat) (run : RowRun) : State :=
  (run.o ++ [run.m, run.l]).zipIdx.foldl (fun s v => s.putElem e x.tb r v.2 v.1.toNat) s

/-- A key block of ATTN on every row of the query block (R281). -/
def State.attnRows (s : State) (e : Nat) (x : AttnArgs) (k : QBlock) (n : Nat) (p : PageData) (kb : KeyBlock) : State :=
  let runs := (List.range k.n).map fun r =>
    (s.loadRun e x (decide (n = 0)) r).step s.free n x.sc
      (x.scores k.b (s.fed e x.q true true (k.b.qRow + k.i + r)) (k.i + r) p kb) x.dh fun j c => p.val (kb.first + j) c
  runs.zipIdx.foldl (fun s v => s.storeRun e x v.2 v.1) s

/-- The outputs of a query block of ATTN and its log-sum-exps (R281); `blank` when it had no key block. -/
def State.attnOut (s : State) (e : Nat) (o : OpenOp) (x : AttnArgs) (k : QBlock) (blank : Bool) : State × OpenOp :=
  let runs := (List.range k.n).map (s.loadRun e x blank)
  runs.zipIdx.foldl (fun (a : State × OpenOp) v =>
    let (s, o) := a.1.putRow e a.2 x.o (x.rowsOf k.b) (k.i + v.2) ((v.1.output a.1.free x.dh).map f32)
    match x.tc with
    | some t =>
      let sr := Desc.sr o.desc
      let (s, n) := (s.stepLanes e sr 1).putCells e t [⟨k.b.qRow + k.i + v.2, 0, f32 (v.1.lse s.free), s.runMode e sr 0⟩]
      (s.countNum e n, o)
    | none => (s, o)) (s, o)

/-! ### ATTN.BWD (R285) -/

/-- What the backward reads of a row: its query, dO, LSE and D. -/
structure BwdRow where
  q : List Fed
  dO : List W32
  lse : W32
  di : W32
  deriving DecidableEq, Repr

/-- Row r of a query block. -/
def State.bwdRow (s : State) (e : Nat) (x : AttnArgs) (k : QBlock) (r : Nat) : BwdRow :=
  let row := k.b.qRow + k.i + r
  let stat := fun c => match x.tc with
    | some t => s.elem32 e t row c
    | none => 0
  ⟨(List.range x.dh).map (s.fed e x.q true true row), s.row32 e x.tb ⟨row, 0, 1, x.dh⟩ 0, stat 0, stat 1⟩

/-- P_ij and dS_ij of a row and a slot; c is the count of free values drawn. -/
def AttnArgs.bwdPair (x : AttnArgs) (c : Nat) (r : BwdRow) (p : PageData) (s : Nat) : W32 × W32 :=
  let score := dot x.dh (fun i => r.q.getD i (.fin false 0 0, 127)) (p.key s)
  let pij := exp32 c (sub32 (mul32 x.sc score) r.lse)
  let dp := dot x.dh (fun i => (f32 (r.dO.getD i 0), 127)) (p.val s)
  (pij, mul32 pij (sub32 dp r.di))

/-- The pairs of a query block with a key block, by row and slot; 0 where invisible. -/
def AttnArgs.bwdPairs (x : AttnArgs) (c : Nat) (k : QBlock) (rows : List BwdRow) (p : PageData) (kb : KeyBlock) :
    List (List (W32 × W32)) :=
  rows.mapIdx fun r row => (List.range kb.n).map fun s =>
    match k.b.position p.page.slots kb.j (kb.first + s) with
    | some t => if x.visible k.b (x.rowPos k.b (k.i + r)) t then x.bwdPair c row p (kb.first + s) else (0, 0)
    | none => (0, 0)

/-- s × Σ of a product over the rows or slots. -/
def AttnArgs.scaledDot (x : AttnArgs) (n : Nat) (f g : Nat → Fed) : W32 := mul32 x.sc (dot n f g)

/-- FP32 as an operand of a product. -/
def fed32 (w : W32) : Fed := (f32 w, 127)

/-- The addends of a key block to the shadow, for the slots that are seen: dK at 4 × d_h × t, and dV 131,072 bytes beyond (R285). -/
def AttnArgs.shadowReds (x : AttnArgs) (rows : List BwdRow) (pairs : List (List (W32 × W32))) (p : PageData) (kb : KeyBlock) :
    List (Nat × W32) :=
  let pair := fun r s => (pairs.getD r []).getD s (0, 0)
  let row := fun r => rows.getD r ⟨[], [], 0, 0⟩
  ((List.range kb.n).filter fun s => (slotData p.keys (kb.first + s)).isSome).flatMap fun s => (List.range x.dh).flatMap fun c =>
    let a := x.shadow + p.page.num * 262144 + 4 * x.dh * (kb.first + s) + 4 * c
    let dk := x.scaledDot rows.length (fun r => fed32 (pair r s).2) (fun r => (row r).q.getD c (.fin false 0 0, 127))
    let dv := dot rows.length (fun r => fed32 (pair r s).1) (fun r => fed32 ((row r).dO.getD c 0))
    [(a, dk), (a + 131072, dv)]

/-- The first reduction that the memory refuses (R68, R69). -/
def State.redsFault (s : State) (part : Nat) (reds : List (Nat × W32)) : Option OpFault :=
  reds.findSome? fun r => match s.atomFault r.1 4 (decide (r.1 % 4 = 0)) with
    | some code => some ⟨code, r.1, 0⟩
    | none => (s.opFaultAt part r.1 4).map fun f => ⟨f.1, f.2, 0⟩

/-- A key block of ATTN.BWD: dQ gains in accumulator bank 1, and dK and dV are reduced into the shadow (R285). -/
def State.bwdRows (s : State) (e : Nat) (o : OpenOp) (x : AttnArgs) (k : QBlock) (n : Nat) (p : PageData) (kb : KeyBlock) :
    State × OpenOp :=
  let rows := (List.range k.n).map (s.bwdRow e x k)
  let pairs := x.bwdPairs s.free k rows p kb
  let reds := x.shadowReds rows pairs p kb
  match s.redsFault o.part reds with
  | some f => (s, { o with fault := some f })
  | none =>
    let acc := pairs.mapIdx fun r (pr : List (W32 × W32)) => (List.range x.dh).map fun c =>
      add32 (if n = 0 then 0 else o.acc.getD (r * x.dh + c) 0)
        (x.scaledDot kb.n (fun s => fed32 (pr.getD s (0, 0)).2) (fun s => p.key (kb.first + s) c))
    (reds.foldl (fun s r => s.redAdd r.1 r.2) s, { o with acc := acc.flatten, bank := 1 })

/-- dQ of a query block leaves bank 1 (R285). -/
def State.bwdOut (s : State) (e : Nat) (o : OpenOp) (x : AttnArgs) (k : QBlock) : State × OpenOp :=
  let (s, o) := (List.range k.n).foldl (fun (a : State × OpenOp) r =>
    a.1.putRow e a.2 x.o (x.rowsOf k.b) (k.i + r) ((List.range x.dh).map fun c => f32 (o.acc.getD (r * x.dh + c) 0))) (s, o)
  (s, { o with acc := [] })

/-! ### Steps (R277, R284) -/

/-- The open query block ends: its outputs are written, and the next one is next. -/
def State.attnEnd (s : State) (e : Nat) (o : OpenOp) (x : AttnArgs) (k : QBlock) (blank : Bool) : State × OpenOp :=
  match o.units with
  | [] => (s, o)
  | u :: rest =>
    match s.sameGenFault e o (u.blocks.filter (· ∉ x.scratchBlocks)) with
    | some f => (s, { o with fault := some f })
    | none =>
      let (s, o) := if x.bwd then s.bwdOut e o x k else s.attnOut e o x k blank
      let (s, o) := (s.bump (Reg.engAttnBlocks e) 63 32 1).unitDone e o u rest
      (s, { o with pos := { o.pos with kb := 0 } })

/-- Brings an attention macro-op to its next key block: a sequence's ring is checked at its start (R278), and a query block that sees no
key ends at once; k bounds the query blocks. -/
def State.attnSettle (s : State) (e : Nat) (o : OpenOp) (x : AttnArgs) (pool : Pool) (ks : List QBlock) : Nat → State × OpenOp
  | 0 => (s, o)
  | k + 1 =>
    match ks[o.tile]? with
    | none => (s, o)
    | some b =>
      let slots := if o.pos.seq = b.seq then o.pos.slots else none
      let n := slots.getD (s.seqSlots pool b.b (List.range b.b.entries) (x.sees b.b))
      match (if slots.isNone then ringFault b.b b.seq n else none) with
      | some f => (s, { o with fault := some f })
      | none =>
        let o := if slots.isNone then { o with pos := { seq := b.seq, slots := some n } } else o
        if (x.keyBlocks b.b n b.i b.n).isEmpty then
          let (s, o) := s.attnEnd e o x b true
          if o.fault.isSome then (s, o) else s.attnSettle e o x pool ks k
        else (s, o)

/-- Issue cycles of a key block: score and PV (R283); those of ATTN.BWD are open within its bound of 668 (R285; assumption log 51). -/
def State.attnCycles (s : State) (x : AttnArgs) (k : QBlock) (p : PageData) (kb : KeyBlock) : Nat × State :=
  if x.bwd then
    let (n, s) := s.freeNat
    (n % 669, s)
  else
    let held := ((List.range kb.n).filter fun i => (k.b.position p.page.slots kb.j (kb.first + i)).isSome).length
    (32 * x.dh / min x.q.fmt.lanes p.page.kf.lanes + 32 * ceilDiv held 32 * ceilDiv x.dh 128, s)

/-- The next key block runs (R281, R285), and ends its query block if it is the last. -/
def State.attnBlock (s : State) (e : Nat) (o : OpenOp) (x : AttnArgs) (pool : Pool) (ks : List QBlock) (k : QBlock) (last : Bool)
    (p : PageData) (kb : KeyBlock) : State × OpenOp :=
  let n := o.pos.kb
  let (s, o) := if x.bwd then s.bwdRows e o x k n p kb else (s.attnRows e x k n p kb, o)
  if o.fault.isSome then (s, o) else
  let (cycles, s) := s.attnCycles x k p kb
  let s := (s.bump (Reg.engAttnBlocks e) 31 0 1).bump (Reg.engIssueCycles e) 63 0 cycles
  let o := { o with touched := dedup (o.touched ++ x.scratchBlocks), pos := { o.pos with kb := n + 1 } }
  if last then
    let (s, o) := s.attnEnd e o x k false
    if o.fault.isSome then (s, o) else s.attnSettle e o x pool ks ks.length
  else (s, o)

/-- A step of an open attention macro-op: one key block. -/
def State.attnStep (s : State) (site : Site) (o : OpenOp) : State × OpenOp :=
  let e := site.e
  match o.attn with
  | none => (s, o)
  | some (x, pool, seqs) =>
    let ks := x.qBlocks seqs
    match ks[o.tile]? with
    | none => (s, o)
    | some k =>
      let kbs := x.keyBlocks k.b (o.pos.slots.getD 1008) k.i k.n
      match kbs[o.pos.kb]? with
      | none => (s, o)
      | some kb =>
        match s.unitFault e o { srcs := x.sources e o.desc (x.blockRows k), blocks := x.scratchBlocks } with
        | some f => (s, { o with fault := some f })
        | none =>
          let pins := o.pins
          let (r, w) := s.work site o false (readBlock pool x k o.pos.pages kb)
          let (s, o) := w.close o
          let o := { o with pins := pins ++ o.pins }
          match r with
          | .error f => (s, { o with fault := some f })
          | .ok (p, got) =>
            s.attnBlock e { o with pos := { o.pos with pages := got } } x pool ks k (decide (o.pos.kb + 1 = kbs.length)) p kb

/-! ### Issue -/

/-- Reads the length table, and the pool header when a sequence takes part. -/
def AttnArgs.heads (x : AttnArgs) : Work (List Byte × List Byte) := do
  let bs ← Work.read x.table (32 * x.batch)
  if (List.range x.batch).all fun i => leField bs (32 * i + 12) 4 = 0 then return (bs, [])
  return (bs, ← Work.read x.pool 128)

/-- What an attention macro-op reads and writes. -/
def AttnArgs.launch (x : AttnArgs) (e : Nat) (d : Desc) (seqs : List SeqEnt) (bwd : Bool) : Launch :=
  let ks := x.qBlocks seqs
  let heads : List Source := [⟨[], 0, [(x.table, 32 * x.batch)]⟩, ⟨[], 0, if ks.isEmpty then [] else [(x.pool, 128)]⟩]
  let srcs := heads ++ (seqs.filter fun b => decide (b.qLen ≠ 0)).flatMap fun b => x.sources e d (x.rowsOf b)
  let l := ks.foldl (x.dest e d) { srcs := srcs }
  if bwd then l else l.into x.tb e x.scratch

/-- An attention macro-op begins with its first query block. -/
def State.attnBegin (s : State) (e : Nat) (o : OpenOp) (x : AttnArgs) (pool : Pool) (seqs : List SeqEnt) : State × OpenOp :=
  let ks := x.qBlocks seqs
  s.attnSettle e { o with units := x.units e o.desc ks, finished := ks.isEmpty } x pool ks ks.length

/-- Issue of an attention macro-op: its length table and its pool header are read and latched with its tensors (R276). -/
def State.attnOpen (s : State) (site : Site) (o : OpenOp) (bwd : Bool) : Issue :=
  issueOf do
    let d := o.desc
    let e := site.e
    let x ← s.attnCheck site d bwd
    let (table, pool) ← (s.work site o false x.heads).1
    let o := s.latch site o
    let o := { o with entries := o.entries ++ [table, pool] }
    match o.attn with
    | none => return .fault (invalidAt 0)
    | some (x, pool, seqs) =>
      x.fits d seqs
      return s.launch site o (x.launch e d seqs bwd) fun s o => (s.clearStation e).attnBegin e o x pool seqs

/-- Issue of ATTN (R276). -/
def State.attnBody (s : State) (site : Site) (o : OpenOp) : Issue := s.attnOpen site o false

/-- Issue of ATTN.BWD (R235, R285). -/
def State.attnBwdBody (s : State) (site : Site) (o : OpenOp) : Issue :=
  if site.e % 3 = 0 then .fault ⟨F.engineClass, 0, 0⟩ else s.attnOpen site o true

/-! ### Meanings -/

/-- Whether ATTN writes O or its statistics at a DA (R160). -/
def State.attnDa (s : State) (e q : Nat) (d : Desc) : Bool :=
  s.daDest e q d || (decide (d.tdC ≠ 0xFF) && (match s.tensor e q d.tdC with
    | .ok t => !t.shelf
    | .error _ => false))

/-- ATTN (R276, R281). -/
def execAttn (t : Nat) (e : Fin 96) (q : Fin 4) (s : State) : Host.Outcome State Fault Refusal :=
  let s := s.advance t
  if s.stopped then .next s else
  .next (s.issueNext e q (fun d => decide (d.op = Op.attn)) (s.attnDa e q) State.attnBody)

/-- ATTN_BWD (R285): its shadow lies at a DA (R160). -/
def execAttnBwd (t : Nat) (e : Fin 96) (q : Fin 4) (s : State) : Host.Outcome State Fault Refusal :=
  let s := s.advance t
  if s.stopped then .next s else
  .next (s.issueNext e q (fun d => decide (d.op = Op.attnBwd)) (fun _ => true) State.attnBwdBody)

end Sys2Proof.Machine
end

