-- ==== Sys2Proof/Machine/Conv.lean ====
section
/-! DEFINITION. Convolution: CONV with its pooling form, and CONV.FUSED (R300 to R311). -/

namespace Sys2Proof.Machine

/-! ### Geometry (R300, R303) -/

/-- Kernel, strides, dilations and padding, laid out as ARG1 of CONV (R301). -/
structure ConvGeom where
  kh : Nat
  kw : Nat
  sy : Nat
  sx : Nat
  dy : Nat
  dx : Nat
  pt : Nat
  pb : Nat
  pl : Nat
  pr : Nat
  deriving DecidableEq, Repr

/-- The geometry held in 64 bits. -/
def geomOf (v : Nat) : ConvGeom :=
  ⟨bits v 3 0 + 1, bits v 7 4 + 1, bits v 10 8 + 1, bits v 13 11 + 1, bits v 16 14 + 1, bits v 19 17 + 1, bits v 27 20,
   bits v 35 28, bits v 43 36, bits v 51 44⟩

/-- One extent of the output map; 0 when the kernel does not fit. -/
def outExtent (n p0 p1 d k s : Nat) : Nat := if n + p0 + p1 < d * (k - 1) + 1 then 0 else (n + p0 + p1 - d * (k - 1) - 1) / s + 1

/-- A layer: its geometry, the input map's extents, channels, pad mode, activation and CONST. -/
structure ConvLayer where
  g : ConvGeom
  h : Nat
  w : Nat
  cin : Nat
  cout : Nat
  padMode : Nat
  act : Nat
  const : Nat
  fmt : Fmt
  zero : Nat
  deriving DecidableEq, Repr

/-- Rows of the output map. -/
def ConvLayer.oh (l : ConvLayer) : Nat := outExtent l.h l.g.pt l.g.pb l.g.dy l.g.kh l.g.sy

/-- Columns of the output map. -/
def ConvLayer.ow (l : ConvLayer) : Nat := outExtent l.w l.g.pl l.g.pr l.g.dx l.g.kw l.g.sx

/-- Channels of a tap in K (R302). -/
def ConvLayer.cpad (l : ConvLayer) : Nat := ceilDiv l.cin 32 * 32

/-- K. -/
def ConvLayer.k (l : ConvLayer) : Nat := l.g.kh * l.g.kw * l.cpad

/-- What a layer must fulfil besides its tensors (R301, R303). -/
def ConvLayer.bad (l : ConvLayer) : Bool :=
  decide (l.oh = 0) || decide (l.ow = 0) || decide (l.cin = 0) || decide (l.cout = 0) || decide (5 < l.act) ||
  (decide (l.padMode = 2) && (decide (l.h < l.g.pt + 1) || decide (l.h < l.g.pb + 1) || decide (l.w < l.g.pl + 1) ||
    decide (l.w < l.g.pr + 1)))

/-- The map coordinate that supplies input coordinate y of n; none where ZERO or CONST does (R303). -/
def padCoord (mode n : Nat) (y : Int) : Option Nat :=
  if 0 ≤ y ∧ y < n then some y.toNat
  else if mode = 2 then some (if y < 0 then (-y).toNat else (2 * ((n : Int) - 1) - y).toNat)
  else if mode = 3 then some (if y < 0 then 0 else n - 1)
  else none

/-- The input row of output row oy under tap row ky. -/
def ConvLayer.rowOf (l : ConvLayer) (oy ky : Nat) : Option Nat :=
  padCoord l.padMode l.h ((oy * l.g.sy + ky * l.g.dy : Nat) - (l.g.pt : Int))

/-- The input column of output column ox under tap column kx. -/
def ConvLayer.colOf (l : ConvLayer) (ox kx : Nat) : Option Nat :=
  padCoord l.padMode l.w ((ox * l.g.sx + kx * l.g.dx : Nat) - (l.g.pl : Int))

/-- The input rows that output rows need. -/
def ConvLayer.rowsFor (l : ConvLayer) (oys : List Nat) : List Nat :=
  dedup (oys.flatMap fun oy => (List.range l.g.kh).filterMap (l.rowOf oy))

/-- The input columns that output columns need. -/
def ConvLayer.colsFor (l : ConvLayer) (oxs : List Nat) : List Nat :=
  dedup (oxs.flatMap fun ox => (List.range l.g.kw).filterMap (l.colOf ox))

/-- A pattern of the input's format as fed: integers less the zero point (R116). -/
def fedPattern (f : Fmt) (zp v : Nat) : FVal :=
  if f.isInt then FVal.ofInt (f.decodeInt v - f.decodeInt zp) 0 else f.decode v

/-- The value that pads a channel of a synthesised pixel (R303). -/
def ConvLayer.synth (l : ConvLayer) : FVal :=
  if l.padMode = 1 then fedPattern l.fmt l.zero l.const else .fin false 0 0

/-- Whether K position k of a tap carries no channel of the map (R302). -/
def ConvLayer.past (l : ConvLayer) (k : Nat) : Bool := decide (k < l.k) && decide (l.cin ≤ k % l.cpad)

/-- The parts of an input map with channel pitch cp that n K positions from lo of output pixel p take. -/
def ConvLayer.taps (l : ConvLayer) (cp lo n : Nat) (p : Nat × Nat) : List Reg2 :=
  (List.range (ceilDiv (lo + n) l.cpad - lo / l.cpad)).filterMap fun i =>
    let tap := lo / l.cpad + i
    let c := lo - tap * l.cpad
    let h := min l.cin (lo + n - tap * l.cpad)
    match l.rowOf p.1 (tap / l.g.kw), l.colOf p.2 (tap % l.g.kw) with
    | some y, some x => if c < h then some ⟨y, x * cp + c, 1, h - c⟩ else none
    | _, _ => none

/-- K position k of output pixel (oy, ox) (R302): `px` gives the input map, `pad` the input tensor's PAD. -/
def ConvLayer.fed (l : ConvLayer) (px : Nat → Nat → Nat → Fed) (pad : Nat) (oy ox k : Nat) : Fed :=
  let tap := k / l.cpad
  let c := k % l.cpad
  if l.k ≤ k then (fedPattern l.fmt l.zero pad, 127) else
  match l.rowOf oy (tap / l.g.kw), l.colOf ox (tap % l.g.kw) with
  | some y, some x => px y x c
  | _, _ => (if c < l.cin then l.synth else fedPattern l.fmt l.zero pad, 127)

/-! ### Bias and activation (R304) -/

/-- ACT of an FP32 value. -/
def State.actFn (s : State) (e act : Nat) (x : W32) : W32 :=
  match act with
  | 0 => x
  | 1 => rowMax x 0
  | n => s.gateFn e (n - 1) x

/-- An accumulator entry after bias and activation; untouched when there is neither. -/
def State.epilogue (s : State) (e act : Nat) (bias : Option W32) (int : Bool) (w : W32) : FVal :=
  match bias with
  | none => if act = 0 then entryVal int w else f32 (s.actFn e act (round32 (entryVal int w)))
  | some b => f32 (s.actFn e act (round32 ((entryVal int w).add (f32 b))))

/-! ### CONV (R301, R302) -/

/-- The arguments of CONV. -/
structure ConvArgs where
  l : ConvLayer
  grid : Grid
  x : Tensor
  w : Option Tensor
  bias : Option Tensor
  y : Tensor
  cp : Nat
  cpo : Nat
  r0 : Nat
  c0 : Nat
  rr : Nat
  rc : Nat
  pool : Bool
  deriving DecidableEq, Repr

/-- The arguments of a descriptor with its tensors. -/
def convArgs (d : Desc) (x : Tensor) (w bias : Option Tensor) (y : Tensor) : ConvArgs :=
  let cp := bits (d.arg 0) 31 16
  let l : ConvLayer := ⟨geomOf (d.arg 1), x.rows, if cp = 0 then 0 else x.cols / cp, bits (d.arg 0) 15 0,
    bits (d.arg 0) 47 32, d.opx 17 16, d.opx 20 18, bits (d.arg 4) 15 0, x.fmt, x.zero⟩
  let rr := bits (d.arg 3) 23 0
  let rc := bits (d.arg 3) 47 24
  let shape := tileShape d.tileNo
  let lanes := match w with
    | some t => min x.fmt.lanes t.fmt.lanes
    | none => x.fmt.lanes
  ⟨l, ⟨rr * rc, l.cout, l.k, shape.1, shape.2, d.kstep, lanes⟩, x, w, bias, y, cp, bits (d.arg 0) 63 48,
   bits (d.arg 2) 23 0, bits (d.arg 2) 47 24, rr, rc, bit (d.w 2) 21⟩

/-- The reserved fields of CONV. -/
def convReserved (d : Desc) : Bool :=
  bits (d.arg 1) 63 52 != 0 || bits (d.arg 2) 63 48 != 0 || bits (d.arg 3) 63 48 != 0 || bits (d.arg 4) 63 16 != 0 ||
  d.opx 63 22 != 0

/-- Output pixel m of the region (R302). -/
def ConvArgs.pixel (x : ConvArgs) (m : Nat) : Nat × Nat := (x.r0 + m / x.rc, x.c0 + m % x.rc)

/-- Where channel n of output pixel m lands in D (R222, R300). -/
def ConvArgs.spot (x : ConvArgs) (tw : Bool) (m n : Nat) : Nat × Nat :=
  resultAt tw x.r0 (x.c0 * x.cpo) (m / x.rc) (m % x.rc * x.cpo + n)

/-- The region of D that channels [c, c + n) of pixel m take. -/
def ConvArgs.pixelRegion (x : ConvArgs) (tw : Bool) (m c n : Nat) : Reg2 :=
  let p := x.spot tw m c
  if tw then ⟨p.1, p.2, n, 1⟩ else ⟨p.1, p.2, 1, n⟩

/-- Whether an output map of rr × rc pixels, with `cout` channels at pitch `cpo`, whose origin in D is (r0, c0), takes position (r, c)
of D. -/
def mapHas (r0 c0 rr rc cpo cout : Nat) (tw : Bool) (r c : Nat) : Bool :=
  let (i, j) := if tw then (c - c0, r - r0) else (r - r0, c - c0)
  decide (r0 ≤ r) && decide (c0 ≤ c) && decide (i < rr) && decide (j / cpo < rc) && decide (j % cpo < cout)

/-- Whether the macro-op writes position (r, c) of D. -/
def ConvArgs.writes (x : ConvArgs) : Bool → Nat → Nat → Bool := mapHas x.r0 (x.c0 * x.cpo) x.rr x.rc x.cpo x.l.cout

/-- The whole region that the output takes in D. -/
def ConvArgs.outRegion (x : ConvArgs) : Reg2 :=
  ⟨x.r0, x.c0 * x.cpo, x.rr, if x.rc = 0 then 0 else (x.rc - 1) * x.cpo + x.l.cout⟩

/-- The input map as fed: channels past Cin take PAD, and a block of 32 with no channel of the map takes scale 2^0. -/
def State.mapFed (s : State) (e : Nat) (t : Tensor) (cp cin y x c : Nat) : Fed :=
  s.fed e t (decide (c < cin)) (decide (c / 32 * 32 < cin)) y (x * cp + c)

/-- Parts of a tensor, as one source. -/
def partsSource (t : Tensor) (e gen : Nat) (parts : List Reg2) : Source :=
  let parts := dedup parts
  ⟨dedup (parts.flatMap t.blocks), gen, dedup (parts.flatMap (t.fetches e))⟩

/-- The input pixels of some rows and columns, as one source. -/
def pixelSource (t : Tensor) (e cp cin gen : Nat) (ys xs : List Nat) : Source :=
  partsSource t e gen (ys.flatMap fun y => xs.map fun x => ⟨y, x * cp, 1, cin⟩)

/-- The bias of channels [c, c + n), as sources. -/
def ConvArgs.biasSource (x : ConvArgs) (e : Nat) (d : Desc) (c n : Nat) : List Source :=
  match x.bias with
  | some t => [t.source e ⟨0, c, 1, n⟩ d.genC]
  | none => []

/-- The sources of CONV. -/
def ConvArgs.sources (x : ConvArgs) (e : Nat) (d : Desc) : List Source :=
  let ys := x.l.rowsFor ((List.range x.rr).map (x.r0 + ·))
  let xs := x.l.colsFor ((List.range x.rc).map (x.c0 + ·))
  [pixelSource x.x e x.cp x.l.cin d.genA ys xs] ++
  (match x.w with
   | some t => [t.source e ⟨0, 0, x.l.cout, x.l.k⟩ d.genB]
   | none => []) ++
  x.biasSource e d 0 x.l.cout

/-- The checks of CONV at issue (R300, R301, R303, R306). -/
def State.convCheck (s : State) (site : Site) (d : Desc) : Except OpFault ConvArgs := do
  let pool := bit (d.w 2) 21
  stopIf (convReserved d) (invalidAt 0)
  stopIf (pool && (decide (d.tdB ≠ 0xFF) || decide (d.tdC ≠ 0xFF) || decide (d.tileNo ≠ 0) || d.opx 20 18 != 0)) (invalidAt 0)
  let x ← s.operand site d.tdA
  let w ← if pool then pure none else (s.operand site d.tdB).map some
  let b ← s.optOperand site d.tdC
  let y ← s.operand site d.tdD
  let a := convArgs d x w b y
  stopIf (decide (a.cp = 0) || decide (a.cpo = 0) || decide (a.cp < a.l.cin) || decide (a.cpo < a.l.cout) || a.l.bad) (invalidAt 0)
  stopIf (decide (x.cols % a.cp ≠ 0) || (x.scaled && decide (a.cp % 32 ≠ 0))) (invalidAt 0)
  stopIf (decide (a.l.oh < a.r0 + a.rr) || decide (a.l.ow < a.c0 + a.rc)) (invalidAt 0)
  match w with
  | some t =>
    stopIf (t.fmt.isInt != x.fmt.isInt) ⟨F.format, 0, 0⟩
    stopIf (decide (d.tileNo = 0) || decide (32 * a.grid.lanes < a.grid.kstep)) (invalidAt 0)
    t.within ⟨0, 0, a.l.cout, a.l.k⟩
  | none => stopIf (decide (a.l.cout ≠ a.l.cin)) (invalidAt 0)
  match b with
  | some t =>
    stopIf (decide (t.fmt ≠ .fp32)) (invalidAt 0)
    t.within ⟨0, 0, 1, a.l.cout⟩
  | none => pure ()
  y.destOk d.twrite a.outRegion
  return a

/-- The bias of channel n. -/
def State.biasAt (s : State) (e : Nat) (t : Option Tensor) (n : Nat) : Option W32 := t.map fun t => s.elem32 e t 0 n

/-- The operands of a tile step of tile i over K indices lo to hi - 1. -/
def ConvArgs.stepSources (x : ConvArgs) (e : Nat) (d : Desc) (w : Tensor) (i lo hi : Nat) : List Source :=
  let v := x.grid.tile i
  let n := min hi x.l.k - lo
  [partsSource x.x e d.genA ((List.range v.m).flatMap fun m => x.l.taps x.cp lo n (x.pixel (v.r + m))),
   w.source e ⟨v.c, lo, v.n, n⟩ d.genB]

/-- The weight of channel n at K position k as fed, of a layer with Cout channels. -/
def State.weightFed (s : State) (e : Nat) (l : ConvLayer) (w : Tensor) (k n : Nat) : Fed :=
  s.fed e w (decide (n < l.cout ∧ k < l.k)) (decide (n < l.cout ∧ k / 32 * 32 < l.k)) n k

/-- A tile step of a CONV (R302, R305). -/
def State.convStep (s : State) (e : Nat) (o : OpenOp) (x : ConvArgs) (w : Tensor) : State × OpenOp :=
  let int := x.x.fmt.isInt
  s.tileStep e o x.grid int (x.x.padZero && w.padZero) (x.stepSources e o.desc w o.cur)
    (s.tileInit e o x.grid int x.y (x.spot (Desc.twrite o.desc)) o.cur)
    (fun m k =>
      if m < x.grid.m then x.l.fed (s.mapFed e x.x x.cp x.l.cin) x.x.pad (x.pixel m).1 (x.pixel m).2 k
      else (fedPattern x.l.fmt x.l.zero x.x.pad, 127))
    (s.weightFed e x.l w) fun _ k => x.x.padZero && x.l.past k

/-- Shelf blocks of D that tile i writes. -/
def ConvArgs.tileBlocks (x : ConvArgs) (tw : Bool) (i : Nat) : List Nat :=
  let v := x.grid.tile i
  dedup ((List.range v.m).flatMap fun m => x.y.blocks (x.pixelRegion tw (v.r + m) v.c v.n))

/-- Shelf blocks that tiles from i on write. -/
def ConvArgs.blocksFrom (x : ConvArgs) (tw : Bool) (i : Nat) : List Nat :=
  dedup ((List.range (x.grid.tiles - i)).flatMap fun j => x.tileBlocks tw (i + j))

/-- The destination of CONV. -/
def ConvArgs.dest (x : ConvArgs) (e : Nat) (tw : Bool) (l : Launch) : Launch :=
  let rs := (List.range x.grid.m).map fun m => x.pixelRegion tw m 0 x.l.cout
  { l with blocks := l.blocks ++ dedup (rs.flatMap x.y.blocks), dst := l.dst ++ rs.flatMap (x.y.ranges e) }

/-- The latched arguments of an open CONV, with its weights. -/
def OpenOp.convArgs (o : OpenOp) : Option (ConvArgs × Tensor) :=
  match o.entry 0, o.entry 1, o.entry 3 with
  | some a, some w, some t => some (Machine.convArgs o.desc a (some w) (o.entry 2) t, w)
  | _, _, _ => none

/-- The tile in the writeback buffer is converted and written after bias and activation (R112, R121, R165, R304). -/
def State.convWriteback (s : State) (e : Nat) (o : OpenOp) : State × OpenOp :=
  match o.convArgs, o.wbuf with
  | some (x, _), some (i, acc) =>
    let d := o.desc
    let tw := Desc.twrite d
    let v := x.grid.tile i
    let mine := x.tileBlocks tw i
    match s.unitFault e o { srcs := x.biasSource e d v.c v.n, blocks := mine } with
    | some f => (s, { o with fault := some f })
    | none =>
      let (s, cells) := s.tileRun e (Desc.sr d) x.grid i (x.spot tw)
        (fun n => s.epilogue e x.l.act (s.biasAt e x.bias n) x.x.fmt.isInt) acc
      let (s, o) := s.putOut e o x.y (x.writes tw) cells
      s.tileDone e o mine (x.blocksFrom tw (i + 1)) x.grid.tiles
  | _, _ => (s, o)

/-! ### MAXPOOL (R306) -/

/-- The maximum of a window: positions outside the map take PAD under ZERO. -/
def State.poolElem (s : State) (e : Nat) (x : ConvArgs) (m c : Nat) : W32 :=
  let p := x.pixel m
  let outside := if x.l.padMode = 1 then x.l.const else x.x.pad
  let raw := fun (v : Nat) => if x.x.fmt = .fp32 then BitVec.ofNat 32 v else round32 (fedPattern x.x.fmt 0 v)
  let vs := (List.range (x.l.g.kh * x.l.g.kw)).map fun tap =>
    match x.l.rowOf p.1 (tap / x.l.g.kw), x.l.colOf p.2 (tap % x.l.g.kw) with
    | some y, some z => s.elem32 e x.x y (z * x.cp + c)
    | _, _ => raw outside
  vs.tail.foldl rowMax (vs.headD 0)

/-- The units of a MAXPOOL: its output pixels, each made when the passes that reach its last channel have ended. -/
def ConvArgs.poolUnits (x : ConvArgs) (e : Nat) (d : Desc) : List WorkUnit :=
  (List.range x.grid.m).map fun m =>
    { due := ceilDiv ((m + 1) * x.l.cin) 256,
      srcs := [pixelSource x.x e x.cp x.l.cin d.genA (x.l.rowsFor [(x.pixel m).1]) (x.l.colsFor [(x.pixel m).2])],
      blocks := x.y.blocks (x.pixelRegion d.twrite m 0 x.l.cin) }

/-- Output pixel m of an open MAXPOOL, one conversion run (R306). -/
def State.poolUnit (s : State) (e : Nat) (o : OpenOp) (m : Nat) : State × OpenOp :=
  match o.entry 0, o.entry 3 with
  | some a, some y =>
    let x := Machine.convArgs o.desc a none none y
    let tw := Desc.twrite o.desc
    let sr := Desc.sr o.desc
    let cells := (List.range x.l.cin).map fun c =>
      let p := x.spot tw m c
      (⟨p.1, p.2, f32 (s.poolElem e x m c), s.runMode e sr c⟩ : OutCell)
    (s.stepLanes e sr x.l.cin).putOut e o y (x.writes tw) cells
  | _, _ => (s, o)

/-- What CONV reads and writes. -/
def ConvArgs.launch (x : ConvArgs) (e : Nat) (d : Desc) : Launch :=
  x.dest e (Desc.twrite d)
    { srcs := x.sources e d, steps := if x.pool then ceilDiv (x.grid.m * x.l.cin) 256 else x.grid.tiles * x.grid.steps }

/-- Issue of CONV: as a tiled product, or on the row unit with MAXPOOL. -/
def State.convBody (s : State) (site : Site) (o : OpenOp) : Issue :=
  issueOf do
    let d := o.desc
    let e := site.e
    let x ← s.convCheck site d
    let o := s.latch site o
    if x.pool then return s.launchUnits site o (x.launch e d) (x.poolUnits e d)
    else return s.launch site o (x.launch e d) fun s o => (s.clearStation e, o.tilesOf x.grid)

/-! ### CONV.FUSED (R307 to R311) -/

/-- A layer of a fusion record with its tensors. -/
structure FusedLayer where
  l : ConvLayer
  w : Tensor
  bias : Option Tensor
  ofmt : Fmt
  oscaled : Bool
  tile : Nat
  kstep : Nat
  gen : Nat
  deriving DecidableEq, Repr

/-- A fusion record. -/
structure FusedArgs where
  layers : List FusedLayer
  th : Nat
  tw : Nat
  cp : Nat
  cpo : Nat
  x : Tensor
  y : Tensor
  r0 : Nat
  c0 : Nat
  rr : Nat
  rc : Nat
  deriving DecidableEq, Repr

/-- Whether the bytes that R307 does not list are not zero, in the header and in the entries of the layers. -/
def recordReserved (bs : List Byte) (n : Nat) : Bool :=
  leField bs 1 1 != 0 || leField bs 10 54 != 0 ||
  (List.range n).any fun i =>
    let o := 64 * (i + 1)
    leField bs (o + 21) 43 != 0 || bits (leField bs (o + 3) 1) 7 6 != 0 || bits (leField bs (o + 8) 8) 63 52 != 0 ||
    bits (leField bs (o + 18) 1) 7 4 != 0 || bits (leField bs (o + 20) 1) 7 4 != 0

/-- How the checks find a tensor: by the place that its entry takes when it is latched, and by its tensor-table index. -/
abbrev Look := Nat → Nat → Except OpFault Tensor

/-- Where the fusion record and the weights and bias of layer i are latched, after the entries A to D. -/
def recordPlace : Nat := 4
def weightPlace (i : Nat) : Nat := 5 + 2 * i
def biasPlace (i : Nat) : Nat := 6 + 2 * i

/-- One layer entry: its input is the previous layer's output map, format and channels. -/
def fusedLayer (look : Look) (bs : List Byte) (i h w : Nat) (fmt : Fmt) (zp : Nat) (last : Bool) :
    Except OpFault FusedLayer := do
  let o := 64 * (i + 1)
  let fl := leField bs (o + 3) 1
  let l : ConvLayer := ⟨geomOf (leField bs (o + 8) 8), h, w, leField bs (o + 4) 2, leField bs (o + 6) 2, bits fl 1 0,
    bits fl 4 2, leField bs (o + 16) 2, fmt, zp⟩
  let ks := leField bs (o + 19) 1
  let tile := bits (leField bs (o + 18) 1) 2 0
  let ofmt := fmtOfCode (leField bs (o + 2) 1)
  stopIf (l.bad || !(inRange tile 1 5) || !(inRange ks 1 128) || (!last && ofmt.isNone)) (invalidAt 0)
  let wt ← look (weightPlace i) (leField bs o 1)
  let b ← if leField bs (o + 1) 1 = 0xFF then pure none else (look (biasPlace i) (leField bs (o + 1) 1)).map some
  stopIf (wt.fmt.isInt != fmt.isInt) ⟨F.format, 0, 0⟩
  let lanes := min fmt.lanes wt.fmt.lanes
  let out := ofmt.getD .fp32
  stopIf (decide (lanes < ks) || (!last && bit fl 5 && !out.scalable)) (invalidAt 0)
  wt.within ⟨0, 0, l.cout, l.k⟩
  match b with
  | some t =>
    stopIf (decide (t.fmt ≠ .fp32)) (invalidAt 0)
    t.within ⟨0, 0, 1, l.cout⟩
  | none => pure ()
  return ⟨l, wt, b, out, bit fl 5 && !last, tile, 32 * ks, bits (leField bs (o + 20) 1) 3 0⟩

/-- The layers from i on, k still to go. -/
def fusedLayers (look : Look) (bs : List Byte) (n i h w : Nat) (fmt : Fmt) (zp cin : Nat) :
    Nat → Except OpFault (List FusedLayer)
  | 0 => .ok []
  | k + 1 => do
    let f ← fusedLayer look bs i h w fmt zp (decide (i + 1 = n))
    stopIf (decide (cin ≠ 0 ∧ f.l.cin ≠ cin)) (invalidAt 0)
    let r ← fusedLayers look bs n (i + 1) f.l.oh f.l.ow f.ofmt 0 f.l.cout k
    return f :: r

/-- The grid of a layer over p output pixels. -/
def FusedLayer.grid (f : FusedLayer) (p : Nat) : Grid :=
  ⟨p, f.l.cout, f.l.k, (tileShape f.tile).1, (tileShape f.tile).2, f.kstep, min f.l.fmt.lanes f.w.fmt.lanes⟩

/-- Issue cycles of a layer over p output pixels (R108, R201). -/
def FusedLayer.cycles (f : FusedLayer) (p : Nat) : Nat :=
  let g := f.grid p
  g.tiles * ((List.range g.steps).map g.cycles).foldl (· + ·) 0

/-- The extents of R309 along both axes of a fused tile, from layer F down to the input: unclipped outputs `q` give the
input extents, clipped to the maps. -/
def extents (layers : List FusedLayer) (qy qx : Nat) : List (Nat × Nat) :=
  layers.reverse.foldl (fun acc f =>
    let (y, x) := acc.headD (qy, qx)
    (min f.l.h ((y - 1) * f.l.g.sy + f.l.g.dy * (f.l.g.kh - 1) + 1),
     min f.l.w ((x - 1) * f.l.g.sx + f.l.g.dx * (f.l.g.kw - 1) + 1)) :: acc) [(qy, qx)]

/-- Bytes that an extent of pixels takes in scratch, with scales, rounded up to 4 KiB (R310). -/
def areaBytes (q : Nat × Nat) (ch : Nat) (f : Fmt) (scaled : Bool) : Nat :=
  let pitch := ceilDiv ch 32 * 32
  ceilDiv (q.1 * q.2 * (pitch * f.width / 8 + if scaled then pitch / 32 else 0)) 4096 * 4096

/-- One of the three areas of scratch. -/
def FusedArgs.area (x : FusedArgs) : Nat :=
  let ext := extents x.layers (min x.th x.rr) (min x.tw x.rc)
  let input := match x.layers with
    | f :: _ => areaBytes (ext.headD (0, 0)) f.l.cin x.x.fmt x.x.scaled
    | [] => 0
  let mids := (x.layers.dropLast.zip ext.tail).map fun p => areaBytes p.2 p.1.l.cout p.1.ofmt p.1.oscaled
  mids.foldl max input

/-- Issue cycles of the largest fused tile (R311). -/
def FusedArgs.cycles (x : FusedArgs) : Nat :=
  ((x.layers.zip (extents x.layers (min x.th x.rr) (min x.tw x.rc)).tail).map fun p => p.1.cycles (p.2.1 * p.2.2)).foldl (· + ·) 0

/-- Channels of the last layer's output. -/
def FusedArgs.cout (x : FusedArgs) : Nat :=
  match x.layers.getLast? with
  | some f => f.l.cout
  | none => 0

/-- Channels of the input. -/
def FusedArgs.cin (x : FusedArgs) : Nat :=
  match x.layers with
  | f :: _ => f.l.cin
  | [] => 0

/-- The reserved fields of CONV.FUSED (R308). -/
def fusedReserved (d : Desc) : Bool :=
  decide (d.tdC ≠ 0xFF) || decide (d.arg 1 ≠ 0) || decide (d.arg 4 ≠ 0) || d.opx 63 17 != 0 ||
    bits (d.arg 2) 63 48 != 0 || bits (d.arg 3) 63 48 != 0

/-- The checks of CONV.FUSED at issue (R307, R308, R310, R311), with the scratch tensor. -/
def fusedCheck (look : Look) (d : Desc) (bs : List Byte) : Except OpFault (FusedArgs × Tensor) := do
  stopIf (fusedReserved d) (invalidAt 0)
  let n := leField bs 0 1
  stopIf (!(inRange n 1 4) || recordReserved bs n) (invalidAt 0)
  let x ← look 0 d.tdA
  let t ← look 1 d.tdB
  let y ← look 3 d.tdD
  let cp := leField bs 6 2
  stopIf (decide (cp = 0) || decide (x.cols % cp ≠ 0) || (x.scaled && decide (cp % 32 ≠ 0))) (invalidAt 0)
  let layers ← fusedLayers look bs n 0 x.rows (x.cols / cp) x.fmt x.zero 0 n
  let a : FusedArgs := ⟨layers, leField bs 2 2, leField bs 4 2, cp, leField bs 8 2, x, y, bits (d.arg 2) 23 0,
    bits (d.arg 2) 47 24, bits (d.arg 3) 23 0, bits (d.arg 3) 47 24⟩
  stopIf (!(inRange a.th 1 512) || !(inRange a.tw 1 512)) (invalidAt 0)
  match layers.getLast? with
  | some g =>
    stopIf (decide (cp < a.cin) || decide (a.cpo < g.l.cout) || decide (g.l.oh < a.r0 + a.rr) || decide (g.l.ow < a.c0 + a.rc))
      (invalidAt 0)
    y.destOk d.twrite ⟨a.r0, a.c0 * a.cpo, a.rr, if a.rc = 0 then 0 else (a.rc - 1) * a.cpo + g.l.cout⟩
  | none => pure ()
  stopIf (!t.shelf || decide (t.rows * t.stride < 3 * a.area) || decide (65536 < a.cycles)) (invalidAt 0)
  return (a, t)

/-- The output map of an intermediate layer as held for a fused tile: its rows, columns, and by pixel number and channel what it feeds
on. -/
structure Patch where
  ys : List Nat
  xs : List Nat
  vals : List ((Nat × Nat) × Fed)
  deriving DecidableEq, Repr

/-- Channel c of pixel (y, x). -/
def Patch.feed (p : Patch) (y x c : Nat) : Fed :=
  ((p.vals.find? fun v => decide (v.1 = (p.ys.idxOf y * p.xs.length + p.xs.idxOf x, c))).map (·.2)).getD (.fin false 0 0, 127)

/-- What feeds a layer: its input map, the PAD of channels past Cin, and whether that is a zero of R199. -/
structure LayerIn where
  feed : Nat → Nat → Nat → Fed
  pad : Nat
  zero : Bool

/-- The entries of output tile i of a layer over pixels px, and its wrapped additions (R120). -/
def State.layerTile (s : State) (e : Nat) (f : FusedLayer) (x : LayerIn) (px : List (Nat × Nat)) (i : Nat) : List W32 × Nat :=
  let g := f.grid px.length
  g.accumulate f.l.fmt.isInt
    (fun m k => match px[m]? with
      | some p => f.l.fed x.feed x.pad p.1 p.2 k
      | none => (fedPattern f.l.fmt f.l.zero x.pad, 127))
    (s.weightFed e f.l f.w) (fun _ k => x.zero && f.l.past k) 0 (g.hi (x.zero && f.w.padZero) (g.steps - 1)) i
    ((g.tile i).cells.map fun _ => 0)

/-- The outputs of a layer over pixels px, by pixel number and channel: each output tile is one conversion run (R123). -/
def State.layerRun (s : State) (e : Nat) (sr : Bool) (f : FusedLayer) (x : LayerIn) (px : List (Nat × Nat)) : State × List OutCell :=
  let g := f.grid px.length
  (List.range g.tiles).foldl (fun (a : State × List OutCell) i =>
    let (acc, wraps) := a.1.layerTile e f x px i
    let (s, cells) := (a.1.countNum e ⟨0, 0, wraps⟩).tileRun e sr g i (fun m n => (m, n))
      (fun n => a.1.epilogue e f.l.act (a.1.biasAt e f.bias n) f.l.fmt.isInt) acc
    (s, a.2 ++ cells)) (s, [])

/-- The outputs of an intermediate layer, converted to its format and fed on (R121, R122). -/
def State.layerFeed (s : State) (e : Nat) (f : FusedLayer) (ys xs : List Nat) (cells : List OutCell) : State × Patch :=
  let out := cells.map fun y =>
    let sc := if f.oscaled then blockScale f.ofmt ((cells.filter fun z => decide (z.r = y.r ∧ z.c / 32 = y.c / 32)).map (·.v)) else 127
    let v := if f.oscaled then convertScaled f.ofmt y.md sc y.v else convert f.ofmt y.md y.v
    ((y.r, y.c), (fedPattern f.ofmt 0 v.bits, sc), v.count)
  (s.countNum e (out.foldl (fun n v => n.add v.2.2) {}), ⟨ys, xs, out.map fun v => (v.1, v.2.1)⟩)

/-- The pixels of rows ys and columns xs, row-major. -/
def pixels (ys xs : List Nat) : List (Nat × Nat) := ys.flatMap fun y => xs.map fun x => (y, x)

/-- The rows or columns of a map of n that outputs from `first` to `last` need, by R309: `at` gives where an output's first and last tap
lie, and `taken` what the pad modes take from inside the map (assumption log 74). -/
def extentOf (n : Nat) (lo hi : Int) (taken : List Nat) : List Nat :=
  (List.range n).filter fun y => (decide (lo ≤ y) && decide ((y : Int) ≤ hi)) || decide (y ∈ taken)

/-- The input rows of a layer for consecutive output rows. -/
def ConvLayer.inRows (l : ConvLayer) (ys : List Nat) : List Nat :=
  extentOf l.h ((ys.headD 0 * l.g.sy : Nat) - (l.g.pt : Int)) ((ys.getLastD 0 * l.g.sy + l.g.dy * (l.g.kh - 1) : Nat) - (l.g.pt : Int))
    (l.rowsFor ys)

/-- The input columns of a layer for consecutive output columns. -/
def ConvLayer.inCols (l : ConvLayer) (xs : List Nat) : List Nat :=
  extentOf l.w ((xs.headD 0 * l.g.sx : Nat) - (l.g.pl : Int)) ((xs.getLastD 0 * l.g.sx + l.g.dx * (l.g.kw - 1) : Nat) - (l.g.pl : Int))
    (l.colsFor xs)

/-- The extents of a fused tile, as rows and columns, from the last layer back: the input first (R309). -/
def tileExtents (layers : List FusedLayer) (ys xs : List Nat) : List (List Nat × List Nat) :=
  layers.reverse.foldl (fun acc f =>
    let (y, x) := acc.headD (ys, xs)
    (f.l.inRows y, f.l.inCols x) :: acc) [(ys, xs)]

/-- Runs the intermediate layers of a fused tile, each over its extent (R309): what feeds the last layer. -/
def State.fusedInner (s : State) (e : Nat) (sr : Bool) (x : LayerIn) : List (FusedLayer × (List Nat × List Nat)) → State × LayerIn
  | [] => (s, x)
  | (f, (ys, xs)) :: r =>
    let (s, cells) := s.layerRun e sr f x (pixels ys xs)
    let (s, p) := s.layerFeed e f ys xs cells
    s.fusedInner e sr ⟨p.feed, 0, true⟩ r

/-- A fused tile: rows and columns of the last layer's map. -/
structure FusedTile where
  ys : List Nat
  xs : List Nat
  deriving DecidableEq, Repr

/-- The fused tiles of the region, row-major (R308). -/
def FusedArgs.tiles (x : FusedArgs) : List FusedTile :=
  (List.range (ceilDiv x.rr x.th)).flatMap fun i => (List.range (ceilDiv x.rc x.tw)).map fun j =>
    ⟨(List.range (min x.th (x.rr - i * x.th))).map (x.r0 + i * x.th + ·),
     (List.range (min x.tw (x.rc - j * x.tw))).map (x.c0 + j * x.tw + ·)⟩

/-- Where channel n of output pixel (y, x) lands in D. -/
def FusedArgs.spot (a : FusedArgs) (tw : Bool) (y x n : Nat) : Nat × Nat :=
  resultAt tw a.r0 (a.c0 * a.cpo) (y - a.r0) ((x - a.c0) * a.cpo + n)

/-- The regions of D that a fused tile writes. -/
def FusedArgs.tileRegions (a : FusedArgs) (tw : Bool) (t : FusedTile) : List Reg2 :=
  (pixels t.ys t.xs).map fun p =>
    let z := a.spot tw p.1 p.2 0
    if tw then ⟨z.1, z.2, a.cout, 1⟩ else ⟨z.1, z.2, 1, a.cout⟩

/-- Runs one fused tile and writes its outputs (R309). -/
def State.fusedTile (s : State) (e : Nat) (o : OpenOp) (a : FusedArgs) (t : FusedTile) : State × OpenOp :=
  match a.layers.getLast? with
  | none => (s, o)
  | some last =>
    let sr := Desc.sr o.desc
    let tw := Desc.twrite o.desc
    let px := pixels t.ys t.xs
    let (s, x) := s.fusedInner e sr ⟨s.mapFed e a.x a.cp a.cin, a.x.pad, a.x.padZero⟩
      (a.layers.dropLast.zip (tileExtents a.layers t.ys t.xs).tail)
    let (s, cells) := s.layerRun e sr last x px
    s.putOut e o a.y (mapHas a.r0 (a.c0 * a.cpo) a.rr a.rc a.cpo a.cout tw) (cells.map fun y =>
      let p := px.getD y.r (0, 0)
      let z := a.spot tw p.1 p.2 y.c
      { y with r := z.1, c := z.2 })

/-- Pixels that a fused tile computes beyond its own share of each layer (assumption log 50). -/
def FusedArgs.halo (a : FusedArgs) (t : FusedTile) : Nat :=
  let own := t.ys.length * t.xs.length
  ((tileExtents a.layers t.ys t.xs).tail.dropLast.map fun p => p.1.length * p.2.length - own).foldl (· + ·) 0

/-- Issue cycles of a fused tile (R108, R201, R309). -/
def FusedArgs.tileCycles (a : FusedArgs) (t : FusedTile) : Nat :=
  ((a.layers.zip (tileExtents a.layers t.ys t.xs).tail).map fun p => p.1.cycles (p.2.1.length * p.2.2.length)).foldl (· + ·) 0

/-- The input of a fused tile, and the weights and biases of all layers, as sources. -/
def FusedArgs.sources (a : FusedArgs) (e : Nat) (d : Desc) (ts : List FusedTile) : List Source :=
  (ts.map fun t =>
    let p := (tileExtents a.layers t.ys t.xs).headD ([], [])
    pixelSource a.x e a.cp a.cin d.genA p.1 p.2) ++
  a.layers.flatMap fun f => [f.w.source e ⟨0, 0, f.l.cout, f.l.k⟩ f.gen] ++
    (match f.bias with
     | some t => [t.source e ⟨0, 0, 1, f.l.cout⟩ f.gen]
     | none => [])

/-- The units of a CONV.FUSED: its fused tiles, which all write to scratch. -/
def FusedArgs.units (a : FusedArgs) (e : Nat) (d : Desc) (scratch : Tensor) : List WorkUnit :=
  a.tiles.mapIdx fun i t =>
    let gs := a.tileRegions d.twrite t
    { due := i + 1, srcs := a.sources e d [t], blocks := dedup (gs.flatMap a.y.blocks ++ rangeBlocks scratch.base (3 * a.area)),
      keep := gs.flatMap (a.y.ranges e) }

/-- DA of the fusion record. -/
def recordDa (e : Nat) (d : Desc) : Nat := if bit (d.w 2) 16 then shelfDa e (d.arg 0) else d.arg 0

/-- The fusion record bs and the tensors that it names, latched. -/
def State.latchFused (s : State) (site : Site) (o : OpenOp) (bs : List Byte) (a : FusedArgs) : OpenOp :=
  let d := o.desc
  let layers := (List.range a.layers.length).flatMap fun i => [leField bs (64 * (i + 1)) 1, leField bs (64 * (i + 1) + 1) 1]
  let o := s.latchTds site o ([Desc.tdA d, Desc.tdB d, Desc.tdC d, Desc.tdD d, 0xFF] ++ layers)
  { o with entries := o.entries.set recordPlace bs }

/-- What CONV.FUSED reads and writes. -/
def FusedArgs.launch (a : FusedArgs) (e : Nat) (d : Desc) (scratch : Tensor) : Launch :=
  let gs := a.tiles.flatMap (a.tileRegions (Desc.twrite d))
  ({ srcs := a.sources e d a.tiles, blocks := dedup (gs.flatMap a.y.blocks), dst := gs.flatMap (a.y.ranges e),
     steps := a.tiles.length } : Launch).intoBytes e true scratch.base (3 * a.area)

/-- Issue of CONV.FUSED: the record is read and latched with the tensors that it names. -/
def State.fusedBody (s : State) (site : Site) (o : OpenOp) : Issue :=
  issueOf do
    let d := o.desc
    let e := site.e
    let at0 := recordDa e d
    match s.readsFault site.part [(at0, 320)] with
    | some f => stopIf true f
    | none => pure ()
    let bs := s.load at0 320
    let (a, scratch) ← fusedCheck (fun _ => s.operand site) d bs
    return s.launch site (s.latchFused site o bs a) (a.launch e d scratch) fun s o =>
      (s.clearStation e, { o with units := a.units e d scratch, finished := a.tiles.isEmpty })

/-- The latched arguments of an open CONV.FUSED. -/
def OpenOp.fusedArgs (o : OpenOp) : Option (FusedArgs × Tensor) :=
  (fusedCheck (fun p _ => match o.entry p with
    | some t => .ok t
    | none => .error (invalidAt 0)) o.desc (o.entries.getD recordPlace [])).toOption

/-- Fused tile i of an open CONV.FUSED: its outputs, its counters, and scratch left undefined (R310). -/
def State.fusedUnit (s : State) (e : Nat) (o : OpenOp) (i : Nat) : State × OpenOp :=
  match o.fusedArgs with
  | none => (s, o)
  | some (a, scratch) =>
    let halo := fun n => ((a.tiles.take n).map a.halo).foldl (· + ·) 0 / 1024
    let (s, o) := s.fusedTile e o a (a.tiles.getD i ⟨[], []⟩)
    let s := s.havoc (shelfDa e scratch.base) (3 * a.area)
    ((s.bump (Reg.engConvCount e) 31 0 1).bump (Reg.engConvCount e) 63 32 (halo (i + 1) - halo i), o)

/-! ### Meanings -/

/-- CONV (R302). -/
def execConv (t : Nat) (e : Fin 96) (q : Fin 4) (s : State) : Host.Outcome State Fault Refusal :=
  let s := s.advance t
  if s.stopped then .next s else
  .next (s.issueNext e q (fun d => decide (d.op = Op.conv) && !(bit (d.w 2) 21)) (s.daDest e q) State.convBody)

/-- MAXPOOL (R306). -/
def execMaxpool (t : Nat) (e : Fin 96) (q : Fin 4) (s : State) : Host.Outcome State Fault Refusal :=
  let s := s.advance t
  if s.stopped then .next s else
  .next (s.issueNext e q (fun d => decide (d.op = Op.conv) && bit (d.w 2) 21) (s.daDest e q) State.convBody)

/-- CONV_FUSED (R309). -/
def execConvFused (t : Nat) (e : Fin 96) (q : Fin 4) (s : State) : Host.Outcome State Fault Refusal :=
  let s := s.advance t
  if s.stopped then .next s else
  .next (s.issueNext e q (fun d => decide (d.op = Op.convFused)) (s.daDest e q) State.fusedBody)

end Sys2Proof.Machine
end

