-- ==== Sys2Proof/Machine/Detect.lean ====
section
/-! DEFINITION. Detection post-processing: candidate lists, SORT, BOXDEC and NMS (R312 to R316). -/

namespace Sys2Proof.Machine

/-! ### Candidate lists (R312) -/

/-- An entry of a candidate list. -/
structure Cand where
  score : W32
  index : Nat
  cls : Nat
  box : List W32 := [0, 0, 0, 0]
  deriving DecidableEq, Repr

/-- Whether a tensor is a candidate list. -/
def Tensor.isList (t : Tensor) : Bool :=
  t.shelf && decide (t.fmt = .fp32) && decide (t.cols = 16) && decide (t.stride = 64) && !t.scaled && !t.blocked

/-- The 16 words of an entry. -/
def Cand.words (x : Cand) : List Nat :=
  [x.score.toNat, x.index, x.cls, 0] ++ x.box.map (·.toNat) ++ List.replicate 8 0

/-- The entry held in 64 bytes. -/
def candOf (bs : List Byte) : Cand :=
  ⟨BitVec.ofNat 32 (leField bs 0 4), leField bs 4 4, leField bs 8 2,
   (List.range 4).map fun i => BitVec.ofNat 32 (leField bs (16 + 4 * i) 4)⟩

/-- COUNT of a list. -/
def State.listCount (s : State) (e : Nat) (t : Tensor) : Nat := s.loadNat (t.da e) 4

/-- The entries of a list. -/
def State.listEntries (s : State) (e : Nat) (t : Tensor) : List Cand :=
  (List.range (s.listCount e t)).map fun i => candOf (s.load (t.da e + 64 * (i + 1)) 64)

/-- Writes row i of a list as words: through the transposed-write path they go down column i (R222). -/
def State.putListRow (s : State) (e : Nat) (tw : Bool) (t : Tensor) (i : Nat) (ws : List Nat) : State :=
  ws.zipIdx.foldl (fun s w => s.putElem e t (resultAt tw 0 0 i w.2).1 (resultAt tw 0 0 i w.2).2 w.1) s

/-- Writes the header of a list of n entries. -/
def State.putHeader (s : State) (e : Nat) (tw : Bool) (t : Tensor) (n dropped : Nat) : State :=
  s.putListRow e tw t 0 ([n, min dropped (2 ^ 32 - 1)] ++ List.replicate 14 0)

/-- Writes a list: header and entries. -/
def State.putList (s : State) (e : Nat) (tw : Bool) (t : Tensor) (dropped : Nat) (xs : List Cand) : State :=
  xs.zipIdx.foldl (fun s x => s.putListRow e tw t (x.2 + 1) x.1.words) (s.putHeader e tw t xs.length dropped)

/-- A list operand: its form, and for a source its COUNT (R316). -/
def State.listOperand (s : State) (site : Site) (i : Nat) : Except OpFault Tensor := do
  let t ← s.operand site i
  stopIf (!t.isList) (invalidAt t.base)
  return t

/-- A list to be read: COUNT within 4,096 and the tensor's rows (R316). -/
def State.listSource (s : State) (site : Site) (i : Nat) : Except OpFault Tensor := do
  let t ← s.listOperand site i
  let n := s.listCount site.e t
  stopIf (decide (4096 < n) || decide (t.rows < n + 1)) (invalidAt t.base)
  return t

/-- The rows that a list of n entries takes. -/
def listRegion (n : Nat) : Reg2 := ⟨0, 0, n + 1, 16⟩

/-- The list that a macro-op writes, of at most n entries: its tensor's form and the rows that it may take (R193, R222). -/
def State.listDest (s : State) (site : Site) (d : Desc) (n : Nat) : Except OpFault Tensor := do
  let t ← s.listOperand site d.tdD
  t.within (destRegion d.twrite (listRegion n))
  return t

/-- COUNT to a scalar slot under OPX[17] and OPX[27:18]. -/
def State.putCount (s : State) (e q : Nat) (d : Desc) (n : Nat) : State :=
  if bit (d.w 2) 17 then s.setScalar e q (d.opx 27 18) n else s

/-- Issue of a macro-op that makes its list in one step, written at its end: the list claims the rows that it may take (assumption
log 77). -/
def State.launchList (s : State) (site : Site) (o : OpenOp) (src : Source) (t : Tensor) (n : Nat) : Issue :=
  let l := ({ srcs := [src] } : Launch).into t site.e (destRegion (Desc.twrite o.desc) (listRegion n))
  s.launchUnits site (s.latch site o) l [{ srcs := [src], blocks := l.blocks }]

/-- Counts of ENG_DET_COUNT. -/
def State.countDet (s : State) (e nans suppressed : Nat) : State :=
  (s.bump (Reg.engDetCount e) 31 0 nans).bump (Reg.engDetCount e) 63 32 suppressed

/-! ### SORT (R313) -/

/-- Whether candidate a comes before b: the higher score, then the lower flat index. -/
def candBefore (a b : W32 × Nat) : Bool :=
  FVal.lt false (f32 b.1) (f32 a.1) || (!(FVal.lt false (f32 a.1) (f32 b.1)) && decide (a.2 < b.2))

/-- Inserts into a list in descending order. -/
def candInsert (x : W32 × Nat) : List (W32 × Nat) → List (W32 × Nat)
  | [] => [x]
  | y :: r => if candBefore x y then x :: y :: r else y :: candInsert x r

/-- The scores that compete: numbers; with `best` only the highest class of each INDEX. -/
def competing (best : Bool) (cl : Nat) (xs : List (W32 × Nat)) : List (W32 × Nat) :=
  let ns := xs.filter fun x => !(f32 x.1).isNan
  if best then ns.filter fun x => !(ns.any fun y => decide (y.2 / cl = x.2 / cl) && candBefore y x) else ns

/-- The entries SORT writes, and how many scores were NaN. -/
def sortCands (best : Bool) (cl k : Nat) (thr : W32) (scores : List W32) : List Cand × Nat :=
  let xs := (List.range scores.length).map fun i => (scores.getD i 0, i)
  let live := (competing best cl xs).filter fun x => !(f32 thr).isNan && !(FVal.lt false (f32 x.1) (f32 thr))
  (((live.foldl (fun a x => candInsert x a) []).take k).map fun x => ⟨x.1, x.2 / cl, x.2 % cl, [0, 0, 0, 0]⟩,
   (scores.filter fun x => (f32 x).isNan).length)

/-- The region of scores that SORT reads. -/
def sortRegion (d : Desc) : Reg2 := ⟨0, 0, bits (d.arg 0) 23 0, bits (d.arg 0) 47 24⟩

/-- The most entries that SORT can write: K, or all scores. -/
def sortMost (d : Desc) : Nat := min (bits (d.arg 1) 12 0) ((sortRegion d).m * (sortRegion d).n)

/-- The checks of SORT: its encoding, its scores and its list (R313). -/
def State.sortCheck (s : State) (site : Site) (d : Desc) : Except OpFault (Tensor × Tensor) := do
  let g := sortRegion d
  stopIf (bits (d.arg 0) 63 48 != 0 || bits (d.arg 1) 31 13 != 0 || bits (d.arg 1) 63 48 != 0 ||
    bits (d.arg 2) 63 32 != 0 || decide (d.arg 3 ≠ 0) || decide (d.arg 4 ≠ 0) || d.opx 63 28 != 0 ||
    !(inRange (bits (d.arg 1) 12 0) 1 4096) || decide (bits (d.arg 1) 47 32 = 0) || decide (2097152 < g.m * g.n)) (invalidAt 0)
  let x ← s.operand site d.tdA
  stopIf (!x.shelf || !(decide (x.fmt = .bf16 ∨ x.fmt = .fp16 ∨ x.fmt = .fp32))) (invalidAt 0)
  x.within g
  let y ← s.listDest site d (sortMost d)
  return (x, y)

/-- Issue of SORT. -/
def State.sortBody (s : State) (site : Site) (o : OpenOp) : Issue :=
  issueOf do
    let d := o.desc
    let (x, y) ← s.sortCheck site d
    return s.launchList site o (x.source site.e (sortRegion d) (Desc.genA d)) y (sortMost d)

/-- The step of an open SORT. -/
def State.sortUnit (s : State) (e q : Nat) (o : OpenOp) : State × OpenOp :=
  match o.entry 0, o.entry 3 with
  | some x, some y =>
    let d := o.desc
    let g := sortRegion d
    let (cs, nans) := sortCands (bit (Desc.w d 2) 16) (bits (Desc.arg d 1) 47 32) (bits (Desc.arg d 1) 12 0)
      (BitVec.ofNat 32 (bits (Desc.arg d 2) 31 0)) (((List.range g.m).map (s.row32 e x g)).flatten)
    (((s.putList e (Desc.twrite d) y nans cs).putCount e q d cs.length).countDet e nans 0, o)
  | _, _ => (s, o)

/-! ### BOXDEC (R314) -/

/-- FP32 one half. -/
def half32 : W32 := 0x3F000000

/-- The box of an entry from deltas and an anchor. -/
def decodeBox (k : Nat) (vy vx vh vw limit : W32) (delta anchor : List W32) : List W32 :=
  let at' := fun (xs : List W32) i => xs.getD i 0
  let (ya, xa, ha, wa) := (at' anchor 0, at' anchor 1, at' anchor 2, at' anchor 3)
  let y := add32 ya (mul32 (mul32 (at' delta 0) vy) ha)
  let x := add32 xa (mul32 (mul32 (at' delta 1) vx) wa)
  let h := mul32 ha (exp32 k (rowMin (mul32 (at' delta 2) vh) limit))
  let w := mul32 wa (exp32 k (rowMin (mul32 (at' delta 3) vw) limit))
  [sub32 y (mul32 h half32), sub32 x (mul32 w half32), add32 y (mul32 h half32), add32 x (mul32 w half32)]

/-- Clamps y coordinates to [0, ymax] and x coordinates to [0, xmax]. -/
def clampBox (ymax xmax : W32) (b : List W32) : List W32 :=
  b.mapIdx fun i v => rowMin (rowMax v 0) (if i % 2 = 0 then ymax else xmax)

/-- A delta or anchor tensor: FP32, BF16 or FP16 with four columns. -/
def Tensor.isBoxes (t : Tensor) : Bool := decide (t.fmt = .fp32 ∨ t.fmt = .bf16 ∨ t.fmt = .fp16) && decide (t.cols = 4)

/-- The checks of BOXDEC: its encoding, its list, the rows of deltas and anchors that the list names, and its result's list (R314,
R316). -/
def State.boxdecCheck (s : State) (site : Site) (d : Desc) : Except OpFault (Tensor × Tensor × Tensor × Tensor) := do
  stopIf (decide (d.arg 0 ≠ 0) || bits (d.arg 3) 63 32 != 0 || d.opx 63 28 != 0) (invalidAt 0)
  let a ← s.listSource site d.tdA
  let b ← s.operand site d.tdB
  let c ← s.operand site d.tdC
  let y ← s.listDest site d (s.listCount site.e a)
  stopIf (!b.isBoxes || !c.isBoxes) (invalidAt 0)
  ((s.listEntries site.e a).map (·.index)).forM fun i => do
    b.within ⟨i, 0, 1, 4⟩
    c.within ⟨i, 0, 1, 4⟩
  return (a, b, c, y)

/-- The sources of m entries of BOXDEC from entry `first`: their rows of the list, of the deltas and of the anchors. `idx` are the
INDEX fields of the list. -/
def boxdecSources (e : Nat) (d : Desc) (a b c : Tensor) (idx : List Nat) (first m : Nat) : List Source :=
  let rows := fun (t : Tensor) gen => ((idx.drop first).take m).map fun i => t.source e ⟨i, 0, 1, 4⟩ gen
  a.source e ⟨first + 1, 0, m, 16⟩ (Desc.genA d) :: rows b (Desc.genB d) ++ rows c (Desc.genC d)

/-- Passes of BOXDEC over n entries. -/
def boxdecPasses (n : Nat) : Nat := max 1 (ceilDiv n 1024)

/-- What BOXDEC reads and writes. -/
def boxdecLaunch (e : Nat) (d : Desc) (a b c y : Tensor) (idx : List Nat) : Launch :=
  ({ srcs := a.source e (listRegion 0) (Desc.genA d) :: boxdecSources e d a b c idx 0 idx.length,
     steps := boxdecPasses idx.length } : Launch).into y e (destRegion (Desc.twrite d) (listRegion idx.length))

/-- The units of BOXDEC: its passes of up to 1,024 entries; the first writes the header as well. -/
def boxdecUnits (e : Nat) (d : Desc) (a b c y : Tensor) (idx : List Nat) : List WorkUnit :=
  (List.range (boxdecPasses idx.length)).map fun (i : Nat) =>
    let m := min 1024 (idx.length - 1024 * i)
    let g : Reg2 := if i = 0 then listRegion m else ⟨1024 * i + 1, 0, m, 16⟩
    { due := i + 1, srcs := boxdecSources e d a b c idx (1024 * i) m,
      blocks := y.blocks (if Desc.twrite d then ⟨0, g.r, 16, g.m⟩ else g) }

/-- Issue of BOXDEC. -/
def State.boxdecBody (s : State) (site : Site) (o : OpenOp) : Issue :=
  issueOf do
    let d := o.desc
    let (a, b, c, y) ← s.boxdecCheck site d
    let idx := (s.listEntries site.e a).map (·.index)
    return s.launchUnits site { s.latch site o with asked := idx.length } (boxdecLaunch site.e d a b c y idx)
      (boxdecUnits site.e d a b c y idx)

/-- Pass i of an open BOXDEC. -/
def State.boxdecUnit (s : State) (e q : Nat) (o : OpenOp) (i : Nat) : State × OpenOp :=
  match o.entry 0, o.entry 1, o.entry 2, o.entry 3 with
  | some a, some b, some c, some y =>
    let d := o.desc
    let tw := Desc.twrite d
    let w := fun i hi lo => BitVec.ofNat 32 (bits (Desc.arg d i) hi lo)
    let new := (List.range (min 1024 (o.asked - 1024 * i))).map fun j =>
      let x := candOf (s.load (a.da e + 64 * (1024 * i + j + 1)) 64)
      let box := decodeBox s.free (w 1 31 0) (w 1 63 32) (w 2 31 0) (w 2 63 32) (w 3 31 0) (s.row32 e b ⟨x.index, 0, 1, 4⟩ 0)
        (s.row32 e c ⟨x.index, 0, 1, 4⟩ 0)
      { x with box := if bit (Desc.w d 2) 16 then clampBox (w 4 31 0) (w 4 63 32) box else box }
    let s := if i = 0 then (s.putHeader e tw y o.asked 0).putCount e q d o.asked else s
    (new.zipIdx.foldl (fun s x => s.putListRow e tw y (1024 * i + x.2 + 1) x.1.words) s, o)
  | _, _, _, _ => (s, o)

/-! ### NMS (R315) -/

/-- The extent from a to b, negative ones taken as 0. -/
def span32 (a b : W32) : W32 := rowMax (sub32 b a) 0

/-- The area of a box. -/
def boxArea (b : List W32) : W32 := mul32 (span32 (b.getD 0 0) (b.getD 2 0)) (span32 (b.getD 1 0) (b.getD 3 0))

/-- Whether box b is suppressed by kept box a: inter > THR × union. -/
def suppresses (thr : W32) (a b : List W32) : Bool :=
  let lo := fun i => rowMax (a.getD i 0) (b.getD i 0)
  let hi := fun i => rowMin (a.getD i 0) (b.getD i 0)
  let inter := mul32 (span32 (lo 0) (hi 2)) (span32 (lo 1) (hi 3))
  let union := sub32 (add32 (boxArea a) (boxArea b)) inter
  FVal.lt false (f32 (mul32 thr union)) (f32 inter)

/-- What NMS has kept (newest last), dropped as NaN and suppressed. -/
structure NmsRun where
  kept : List Cand := []
  nans : Nat := 0
  suppressed : Nat := 0
  deriving DecidableEq, Repr

/-- One entry in list order. -/
def NmsRun.take (r : NmsRun) (byClass : Bool) (thr : W32) (limit : Nat) (x : Cand) : NmsRun :=
  if limit ≤ r.kept.length then r
  else if x.box.any fun v => (f32 v).isNan then { r with nans := r.nans + 1 }
  else if r.kept.any fun k => (!byClass || decide (k.cls = x.cls)) && suppresses thr k.box x.box then
    { r with suppressed := r.suppressed + 1 }
  else { r with kept := r.kept ++ [x] }

/-- MAX_OUT. -/
def nmsLimit (d : Desc) : Nat := bits (d.arg 2) 12 0

/-- The checks of NMS: its encoding, its list and its result's list (R315, R316). -/
def State.nmsCheck (s : State) (site : Site) (d : Desc) : Except OpFault (Tensor × Tensor) := do
  stopIf (decide (d.arg 0 ≠ 0) || bits (d.arg 1) 63 32 != 0 || bits (d.arg 2) 63 13 != 0 ||
    decide (d.arg 3 ≠ 0) || decide (d.arg 4 ≠ 0) || d.opx 63 28 != 0 || !(inRange (nmsLimit d) 1 4096)) (invalidAt 0)
  let a ← s.listSource site d.tdA
  let y ← s.listDest site d (min (nmsLimit d) (s.listCount site.e a))
  stopIf (decide (a.base = y.base)) (invalidAt y.base)
  return (a, y)

/-- Issue of NMS. -/
def State.nmsBody (s : State) (site : Site) (o : OpenOp) : Issue :=
  issueOf do
    let d := o.desc
    let (a, y) ← s.nmsCheck site d
    let n := s.listCount site.e a
    return s.launchList site { o with asked := n } (a.source site.e (listRegion n) (Desc.genA d)) y (min (nmsLimit d) n)

/-- The step of an open NMS. -/
def State.nmsUnit (s : State) (e q : Nat) (o : OpenOp) : State × OpenOp :=
  match o.entry 0, o.entry 3 with
  | some a, some y =>
    let d := o.desc
    let r := ((s.listEntries e a).take o.asked).foldl (fun (r : NmsRun) x =>
      r.take (bit (Desc.w d 2) 16) (BitVec.ofNat 32 (bits (Desc.arg d 1) 31 0)) (nmsLimit d) x) {}
    (((s.putList e (Desc.twrite d) y (r.nans + r.suppressed) r.kept).putCount e q d r.kept.length).countDet e r.nans r.suppressed, o)
  | _, _ => (s, o)

/-! ### Meanings -/

/-- SORT (R313). -/
def execSort (t : Nat) (e : Fin 96) (q : Fin 4) (s : State) : Host.Outcome State Fault Refusal :=
  let s := s.advance t
  if s.stopped then .next s else
  .next (s.issueNext e q (fun d => decide (d.op = Op.sort)) (fun _ => false) State.sortBody)

/-- BOXDEC (R314). -/
def execBoxdec (t : Nat) (e : Fin 96) (q : Fin 4) (s : State) : Host.Outcome State Fault Refusal :=
  let s := s.advance t
  if s.stopped then .next s else
  .next (s.issueNext e q (fun d => decide (d.op = Op.boxdec)) (fun _ => false) State.boxdecBody)

/-- NMS (R315). -/
def execNms (t : Nat) (e : Fin 96) (q : Fin 4) (s : State) : Host.Outcome State Fault Refusal :=
  let s := s.advance t
  if s.stopped then .next s else
  .next (s.issueNext e q (fun d => decide (d.op = Op.nms)) (fun _ => false) State.nmsBody)

end Sys2Proof.Machine
end

