-- ==== Sys2Proof/Machine/Scatter.lean ====
section
/-! DEFINITION. SCATTER in its five actions (R286 to R290, R294, R295). -/

namespace Sys2Proof.Machine

/-! ### Descriptor (R286) -/

/-- The arguments of SCATTER. -/
structure ScatArgs where
  batch : Nat
  dh : Nat
  pool : Nat
  table : Nat
  extra : Nat
  action : Nat
  kf : Fmt
  vf : Fmt
  ks : Bool
  vs : Bool
  slots : Nat
  count : Nat
  deriving DecidableEq, Repr

/-- The page that APPEND allocates, before its place is known. -/
def ScatArgs.blank (x : ScatArgs) (a : Nat) (ring : Bool) : Page :=
  newPage a x.kf x.vf x.ks x.vs ring (decide (x.extra ≠ 0)) x.slots x.dh

/-- The checks of the fixed fields (R154, R286); a page geometry that breaks R267 is invalid too (assumption log 46). -/
def scatArgs (d : Desc) : Except OpFault ScatArgs := do
  let action := d.opx 18 16
  let b := bits (d.arg 0) 15 0
  let slots := 16 * d.opx 34 29
  stopIf (decide (4 < action) || d.opx 63 42 != 0 || bits (d.arg 0) 63 32 != 0 || decide (d.arg 4 ≠ 0)) (invalidAt 0)
  stopIf (!(inRange b 1 (if action = 4 then 4096 else 64))) (invalidAt 0)
  stopIf (decide (action ≠ 4 ∧ slots = 0) || (decide (action = 2) && !(inRange (d.opx 41 35) 1 64))) (invalidAt 0)
  let x : ScatArgs := ⟨b, bits (d.arg 0) 31 16, d.arg 1, d.arg 2, d.arg 3, action, (pageFmt (d.opx 22 19)).getD .bf16,
    (pageFmt (d.opx 26 23)).getD .bf16, bit (d.w 2) 27, bit (d.w 2) 28, slots, d.opx 41 35⟩
  stopIf (decide (action = 0) && ((pageFmt (d.opx 22 19)).isNone || (pageFmt (d.opx 26 23)).isNone || !((x.blank 0 false).sound)))
    (invalidAt 0)
  return x

/-- Block-table entries of a sequence that RELEASE, RETAIN and INSERT take (R289). -/
def SeqEnt.held (x : SeqEnt) (slots : Nat) : Nat := if x.ring = 0 then ceilDiv x.kvLen slots else x.ring

/-- What a batch totals: tokens for APPEND, entries for the other three (R286). -/
def ScatArgs.total (x : ScatArgs) (seqs : List SeqEnt) : Nat :=
  seqs.foldl (fun n b => if b.qLen = 0 then n else n + if x.action = 0 then b.qLen else b.held x.slots) 0

/-! ### APPEND (R287, R288) -/

/-- n free bytes. -/
def Work.free (n : Nat) : Work (List Byte) := do
  let w ← get
  set { w with s := { w.s with free := w.s.free + n } }
  return freeBytes w.s.free n

/-- Writes slot s of the keys or values of a page from row `row` of a tensor, through the output converter (R121, R122). -/
def Work.putSlot (p : Page) (side s : Nat) (t : Tensor) (row : Nat) (sr : Bool) : Work Unit := do
  let w ← get
  let e := w.site.e
  let f := p.fmt side
  let vs := (List.range p.dh).map (w.s.value e t 0 row)
  let scs := (List.range (p.dh / 32)).map fun i => blockScale f ((vs.drop (32 * i)).take 32)
  let cs := vs.mapIdx fun c v =>
    let md := w.s.runMode e sr c
    if p.scaled side then convertScaled f md (scs.getD (c / 32) 0) v else convert f md v
  Work.effect fun s => (s.stepLanes e sr p.dh).countNum e (cs.foldl (fun n c => n.add c.count) {})
  Work.write (p.slotDa side s) (cs.flatMap fun c => leBytes (f.width / 8) c.bits)
  if p.scaled side then Work.write (p.scaleDa side s) (scs.flatMap (leBytes 1)) else pure ()

/-- Tokens of APPEND that fall into one page: the first token, its position, and how many. -/
structure Piece where
  i : Nat
  t : Nat
  n : Nat
  deriving DecidableEq, Repr

/-- Cuts the tokens of a sequence at page edges; k bounds their number. -/
def pieces (slots t i left : Nat) : Nat → List Piece
  | 0 => []
  | k + 1 =>
    if left = 0 then [] else
    let n := min left (slots - t % slots)
    ⟨i, t, n⟩ :: pieces slots (t + n) (i + n) (left - n) k

/-- Writes the tokens of a piece into a page: keys, values and token keys, then USED (R287). -/
def ScatArgs.writePiece (x : ScatArgs) (d : Desc) (ta tb : Tensor) (b : SeqEnt) (p : Page) (pc : Piece) : Work Unit := do
  let first := pc.t % x.slots
  (List.range pc.n).forM fun i => do
    let row := b.qRow + pc.i + i
    Work.putSlot p 0 (first + i) ta row (Desc.sr d)
    Work.putSlot p 1 (first + i) tb row (Desc.sr d)
    if p.tokens then
      let key ← if x.extra = 0 then Work.free 4 else Work.read (x.extra + 4 * row) 4
      Work.write (p.da + p.tkOfs + 4 * (first + i)) key
  if p.used < first + pc.n then Work.write (p.da + 6) (leBytes 2 (first + pc.n)) else pure ()

/-- Writes a block-table entry. -/
def SeqEnt.setEntry (b : SeqEnt) (j p epoch : Nat) : Work Unit := Work.write (b.bt + 8 * j) (leBytes 4 p ++ leBytes 4 epoch)

/-- Allocates a page, fills it, and gives it back when the filling fails (R290). -/
def Pool.fill (pool : Pool) (seq : Nat) (fill : Nat → Nat → Work Unit) : Work (Nat × Nat) := do
  let (p, epoch) ← pool.alloc seq
  try fill p epoch
  catch f => do
    pool.release p 0 (-1)
    throw f
  return (p, epoch)

/-- Copies the header and slots 0 to USED − 1 of a page to a new one (R287). -/
def Page.copyTo (old : Page) (a p epoch : Nat) : Work Unit := do
  Work.write a { old with num := p, epoch := epoch }.bytes
  let part := fun (ofs stride : Nat) => do
    if old.used * stride = 0 then pure () else
    let bs ← Work.read (old.da + ofs) (old.used * stride)
    Work.write (a + ofs) bs
  part old.kOfs (slotStride old.kf old.dh)
  part old.vOfs (slotStride old.vf old.dh)
  if old.kscaled then part old.ksOfs (old.dh / 32) else pure ()
  if old.vscaled then part old.vsOfs (old.dh / 32) else pure ()
  if old.tokens then part old.tkOfs 4 else pure ()

/-- A ring page entered at slot 0 begins a new lap: FIRST_POS and USED are set before any slot (R288). -/
def Page.newLap (p : Page) (b : SeqEnt) (pc : Piece) (slots : Nat) : Work Page := do
  if b.ring ≠ 0 ∧ pc.t % slots = 0 then
    Work.write (p.da + 32) (leBytes 8 pc.t)
    Work.write (p.da + 6) (leBytes 2 0)
    return { p with used := 0, firstPos := pc.t }
  return p

/-- Writes one piece of a sequence: into a new page, in place, or into a copy (R287, R288). -/
def ScatArgs.appendPiece (x : ScatArgs) (d : Desc) (ta tb : Tensor) (pool : Pool) (seq : Nat) (b : SeqEnt) (pc : Piece) :
    Work Unit := do
  let j := b.index x.slots pc.t
  let (num, epoch) ← readEntry b j
  if num = noPage then
    let (p, ep) ← pool.fill seq fun p ep => do
      let page := { x.blank (pool.pageDa p) (decide (b.ring ≠ 0)) with
        num := p, epoch := ep, firstPos := pc.t / x.slots * x.slots }
      Work.write page.da page.bytes
      x.writePiece d ta tb b page pc
    b.setEntry j p ep
  else
    let counts ← pool.cnt2 num 0 0
    let page ← pool.header seq num epoch x.dh (some j)
    if page.slots ≠ x.slots then throw (kvFault F.kvPage 6 seq page.da)
    let below := decide (0 < bits counts 31 16) && decide (pc.t % x.slots < page.used) && !page.ring && decide (b.ring = 0)
    if decide (1 < bits counts 15 0) || below then
      let (p, ep) ← pool.fill seq fun p ep => do
        let a := pool.pageDa p
        page.copyTo a p ep
        let fresh ← { page with da := a, num := p, epoch := ep }.newLap b pc x.slots
        x.writePiece d ta tb b fresh pc
      b.setEntry j p ep
      Work.count Reg.engKvCow 31 0
      pool.release num 0 (-1)
    else
      let page ← page.newLap b pc x.slots
      x.writePiece d ta tb b page pc

/-- APPEND of one sequence. -/
def ScatArgs.append (x : ScatArgs) (d : Desc) (ta tb : Tensor) (pool : Pool) (seq : Nat) (b : SeqEnt) : Work Unit := do
  (pieces x.slots b.kvLen 0 b.qLen b.qLen).forM (x.appendPiece d ta tb pool seq b)
  Work.write (b.da + 8) (leBytes 4 (b.kvLen + b.qLen))

/-! ### RELEASE and RETAIN (R289) -/

/-- RELEASE of one sequence; of an entry written as none only the page number changes (assumption log 47). -/
def ScatArgs.drop (x : ScatArgs) (pool : Pool) (b : SeqEnt) : Work Unit := do
  (List.range (b.held x.slots)).forM fun j => do
    let (p, _) ← readEntry b j
    if p = noPage then pure ()
    else
      pool.release p 0 (-1)
      Work.write (b.bt + 8 * j) (leBytes 4 noPage)
  Work.write (b.da + 8) (leBytes 4 0)

/-- The deltas of RETAIN: ⌈COUNT / 8⌉ of at most 8. -/
def retainDeltas (n : Nat) : List Nat := List.replicate (n / 8) 8 ++ (if n % 8 = 0 then [] else [n % 8])

/-- RETAIN of one sequence. -/
def ScatArgs.retain (x : ScatArgs) (pool : Pool) (b : SeqEnt) : Work Unit :=
  (List.range (b.held x.slots)).forM fun j => do
    let (p, _) ← readEntry b j
    if p = noPage then pure ()
    else (retainDeltas x.count).forM fun n => do
      let _ ← pool.cnt2 p 0 n
      pure ()

/-! ### The prefix tree (R291, R292) -/

/-- HASH of an empty node, a tombstone, a node being changed. -/
def nodeEmpty : Nat := 0
def nodeTomb : Nat := 1
def nodeBusy : Nat := 2 ^ 64 - 1

/-- h_j from h_(j−1) and the token keys of page j. -/
def pageKey (key h : Nat) (tokens : List Byte) : Nat :=
  let v := sipHash24 key (leBytes 8 h ++ tokens)
  if v = 0 ∨ v = 1 ∨ v = nodeBusy then 2 else v

/-- Nodes of the tree: 0 when there is none, or TREE_LOG2 is reserved (assumption log 48). -/
def Pool.nodes (x : Pool) : Nat := if inRange x.treeLog2 10 24 then 2 ^ x.treeLog2 else 0

/-- DA of a node. -/
def Pool.nodeDa (x : Pool) (i : Nat) : Nat := x.treeBase + 32 * i

/-- Visits the nodes of a probe, k still to go: DA and HASH, up to and with the first EMPTY node (R292). -/
def Pool.probeFrom (x : Pool) (i : Nat) : Nat → Work (List (Nat × Nat))
  | 0 => return []
  | k + 1 => do
    let a := x.nodeDa (i % x.nodes)
    let h ← Work.readNat a 8
    if h = nodeEmpty then return [(a, h)]
    return (a, h) :: (← x.probeFrom (i + 1) k)

/-- The probe of key h. -/
def Pool.probe (x : Pool) (h : Nat) : Work (List (Nat × Nat)) := if x.nodes = 0 then return [] else x.probeFrom (h % x.nodes) 16

/-- A tree node's fields beside HASH. -/
structure Node where
  page : Nat
  epoch : Nat
  parent : Nat
  parentEpoch : Nat
  deriving DecidableEq, Repr

/-- Reads the fields of a node. -/
def readNode (a : Nat) : Work Node := do
  let bs ← Work.read (a + 8) 16
  return ⟨leField bs 0 4, leField bs 4 4, leField bs 8 4, leField bs 12 4⟩

/-- Claims the first free node of a probe by a CAS of HASH to BUSY: its DA and the HASH it had. -/
def claimNode : List (Nat × Nat) → Work (Option (Nat × Nat))
  | [] => return none
  | (a, h) :: r => do
    if h = nodeEmpty ∨ h = nodeTomb then
      let was ← Work.atom a { op := .cas, ty := .b64, opnd := nodeBusy, cmp := h }
      if was = h then return some (a, h) else claimNode r
    else claimNode r

/-- Fills a claimed node: its fields, the reference, then HASH. LAST_USE is left open by the manual (free). -/
def Pool.fillNode (x : Pool) (a was h : Nat) (n : Node) : Work Unit := do
  let last ← Work.free 4
  Work.write (a + 8) (leBytes 4 n.page ++ leBytes 4 n.epoch ++ leBytes 4 n.parent ++ leBytes 4 n.parentEpoch ++ last ++ leBytes 4 0)
  try
    let _ ← x.cnt2 n.page 0 1
    pure ()
  catch f => do
    Work.write a (leBytes 8 was)
    throw f
  Work.write a (leBytes 8 h)

/-- The pages of INSERT from entry j on, k still to go, with h_(j−1) and the parent (R294). -/
def ScatArgs.insertFrom (x : ScatArgs) (pool : Pool) (seq : Nat) (b : SeqEnt) (j h : Nat) (parent : Nat × Nat) :
    Nat → Work Unit
  | 0 => pure ()
  | k + 1 => do
    let (p, epoch) ← readEntry b j
    if p = noPage then return ()
    let page ← pool.header seq p epoch x.dh (some j)
    if !page.tokens || decide (page.used ≠ page.slots) then return ()
    let h := pageKey pool.key h (← Work.read (page.da + page.tkOfs) (4 * page.slots))
    let seen ← pool.probe h
    let same ← (seen.filter fun n => decide (n.2 = h)).mapM fun n => readNode n.1
    if same.any fun n => decide (n.page = p ∧ n.epoch = epoch) then x.insertFrom pool seq b (j + 1) h (p, epoch) k
    else
      match ← claimNode seen with
      | none => Work.count Reg.engKvTree 63 32
      | some (a, was) =>
        pool.fillNode a was h ⟨p, epoch, parent.1, parent.2⟩
        x.insertFrom pool seq b (j + 1) h (p, epoch) k

/-- INSERT of one sequence: every full page. -/
def ScatArgs.insert (x : ScatArgs) (pool : Pool) (seq : Nat) (b : SeqEnt) : Work Unit :=
  let full := b.kvLen / x.slots
  x.insertFrom pool seq b 0 0 (noPage, 0) (if b.ring = 0 then full else min full b.ring)

/-- EVICT of one node (R295): a node that is empty, a tombstone or busy has no key and is skipped. -/
def Pool.evict (x : Pool) (i : Nat) : Work Unit := do
  let a := x.nodeDa i
  let h ← Work.readNat a 8
  if h = nodeEmpty ∨ h = nodeTomb ∨ h = nodeBusy then return ()
  let was ← Work.atom a { op := .cas, ty := .b64, opnd := nodeBusy, cmp := h }
  if was ≠ h then return ()
  let n ← readNode a
  x.release n.page 0 (-1)
  Work.write a (leBytes 8 nodeTomb)

/-! ### Issue -/

/-- Marks a fault with the index of the sequence it falls in (R290, R298). -/
def Work.inSeq (seq : Nat) (x : Work Unit) : Work Unit :=
  try x catch f => throw (if f.info = 0 then { f with info := seq * 16 } else f)

/-- The whole of a SCATTER on its sequences. -/
def ScatArgs.run (x : ScatArgs) (d : Desc) (ta tb : Option Tensor) (seqs : List SeqEnt) : Work Unit := do
  let pool ← readPool x.pool
  if x.action = 4 then
    let idx ← (List.range x.batch).mapM fun i => Work.readNat (x.extra + 4 * i) 4
    ((List.range idx.length).zip idx).forM fun (i, n) => Work.inSeq i (pool.evict n)
  else
    ((List.range seqs.length).zip seqs).forM fun (seq, b) =>
      if b.qLen = 0 then pure () else
      Work.inSeq seq <| match x.action with
      | 0 =>
        match ta, tb with
        | some a, some c => x.append d a c pool seq b
        | _, _ => pure ()
      | 1 => x.drop pool b
      | 2 => x.retain pool b
      | _ => x.insert pool seq b

/-- The data operands of an APPEND, K and V. -/
def State.scatterTensors (s : State) (site : Site) (d : Desc) (x : ScatArgs) : Except OpFault (Option (Tensor × Tensor)) :=
  if x.action = 0 then do
    let a ← s.operand site (Desc.tdA d)
    let b ← s.operand site (Desc.tdB d)
    stopIf (!(decide (a.fmt = .fp32 ∨ a.fmt = .bf16)) || !(decide (b.fmt = .fp32 ∨ b.fmt = .bf16))) (invalidAt 0)
    pure (some (a, b))
  else pure none

/-- Runs an open SCATTER. -/
def State.scatterRun (s : State) (site : Site) (o : OpenOp) (x : ScatArgs) (tensors : Option (Tensor × Tensor))
    (seqs : List SeqEnt) : State × OpenOp :=
  match s.work site o false (x.run o.desc (tensors.map (·.1)) (tensors.map (·.2)) seqs) with
  | (.ok _, w) =>
    let (s, o) := w.close o
    (s, { o with finished := true })
  | (.error f, w) =>
    let (s, o) := w.close o
    (s, o.failed f)

/-- Rows of the data operands that a sequence takes. -/
def ScatArgs.region (x : ScatArgs) (b : SeqEnt) : Reg2 := ⟨b.qRow, 0, b.qLen, x.dh⟩

/-- The data operands of the sequences that take part lie in their tensors. -/
def ScatArgs.fits (x : ScatArgs) (tensors : Option (Tensor × Tensor)) (live : List SeqEnt) : Except OpFault Unit :=
  match tensors with
  | some (a, b) => live.forM fun y => do
      a.within (x.region y)
      b.within (x.region y)
  | none => pure ()

/-- What those operands read. -/
def ScatArgs.sources (x : ScatArgs) (e : Nat) (d : Desc) (tensors : Option (Tensor × Tensor)) (live : List SeqEnt) : List Source :=
  match tensors with
  | some (a, b) => live.flatMap fun y => [a.source e (x.region y) (Desc.genA d), b.source e (x.region y) (Desc.genB d)]
  | none => []

/-- An issue whose macro-op has met a fault that leaves it unissued. -/
def Issue.unlessWaits (i : Issue) : Issue :=
  match i with
  | .opens s o =>
    match o.fault with
    | some f => if f.waits then .fault f else .opens s o
    | none => .opens s o
  | i => i

/-- Issue of SCATTER: the length table is read first, then the sequences run in order (R286). -/
def State.scatterBody (s : State) (site : Site) (o : OpenOp) : Issue :=
  issueOf do
    let d := o.desc
    let x ← scatArgs d
    let tensors ← s.scatterTensors site d x
    let seqs ← if x.action = 4 then pure [] else (s.work site o false (readSeqs x.table x.batch)).1
    stopIf (decide (x.action ≠ 4) && decide (4096 < x.total seqs)) (invalidAt 0)
    let live := seqs.filter fun b => decide (b.qLen ≠ 0)
    x.fits tensors live
    return (s.launch site o { srcs := x.sources site.e d tensors live } fun s o => s.scatterRun site o x tensors seqs).unlessWaits

/-! ### Meanings -/

/-- SCATTER_APPEND (R287), with the reserved actions, which are invalid (R286). -/
def execScatterAppend (t : Nat) (e : Fin 96) (q : Fin 4) (s : State) : Host.Outcome State Fault Refusal :=
  let s := s.advance t
  if s.stopped then .next s else
  .next (s.issueNext e q (fun d => decide (d.op = Op.scatter) && !(inRange (d.opx 18 16) 1 4)) (fun _ => true)
    State.scatterBody)

/-- SCATTER_RELEASE (R289). -/
def execScatterRelease (t : Nat) (e : Fin 96) (q : Fin 4) (s : State) : Host.Outcome State Fault Refusal :=
  let s := s.advance t
  if s.stopped then .next s else
  .next (s.issueNext e q (fun d => decide (d.op = Op.scatter ∧ d.opx 18 16 = 1)) (fun _ => true) State.scatterBody)

/-- SCATTER_RETAIN (R289). -/
def execScatterRetain (t : Nat) (e : Fin 96) (q : Fin 4) (s : State) : Host.Outcome State Fault Refusal :=
  let s := s.advance t
  if s.stopped then .next s else
  .next (s.issueNext e q (fun d => decide (d.op = Op.scatter ∧ d.opx 18 16 = 2)) (fun _ => true) State.scatterBody)

/-- SCATTER_INSERT (R294). -/
def execScatterInsert (t : Nat) (e : Fin 96) (q : Fin 4) (s : State) : Host.Outcome State Fault Refusal :=
  let s := s.advance t
  if s.stopped then .next s else
  .next (s.issueNext e q (fun d => decide (d.op = Op.scatter ∧ d.opx 18 16 = 3)) (fun _ => true) State.scatterBody)

/-- SCATTER_EVICT (R295). -/
def execScatterEvict (t : Nat) (e : Fin 96) (q : Fin 4) (s : State) : Host.Outcome State Fault Refusal :=
  let s := s.advance t
  if s.stopped then .next s else
  .next (s.issueNext e q (fun d => decide (d.op = Op.scatter ∧ d.opx 18 16 = 4)) (fun _ => true) State.scatterBody)

end Sys2Proof.Machine
end

