-- ==== Sys2Proof/Machine/Gather.lean ====
section
/-! DEFINITION. GATHER in its two modes, on this module's pages or another's (R293, R296, R412). -/

namespace Sys2Proof.Machine

/-- The arguments of GATHER. -/
structure GatherArgs where
  batch : Nat
  dh : Nat
  pool : Nat
  table : Nat
  keys : Nat
  lookup : Bool
  side : Nat
  slots : Nat
  deriving DecidableEq, Repr

/-- The checks of the fixed fields (R154, R276, R296). -/
def gatherArgs (d : Desc) : Except OpFault GatherArgs := do
  let lookup := decide (d.opx 17 16 = 1)
  let b := bits (d.arg 0) 15 0
  stopIf (decide (1 < d.opx 17 16) || !(inRange b 1 1024) || !(inRange (bits (d.arg 0) 39 32) 1 16) ||
    bits (d.arg 0) 63 40 != 0 || decide (d.arg 4 ≠ 0)) (invalidAt 0)
  stopIf (if lookup then d.opx 28 18 != 0 || d.opx 63 35 != 0 || decide (d.opx 34 29 = 0)
    else d.opx 63 19 != 0 || bits (d.arg 3) 63 32 != 0) (invalidAt 0)
  return ⟨b, bits (d.arg 0) 31 16, d.arg 1, d.arg 2, d.arg 3, lookup, d.opx 18 18, 16 * d.opx 34 29⟩

/-- Whether an argument lies on another module. -/
def GatherArgs.far (x : GatherArgs) : Bool := isRemote x.pool || isRemote x.table || (x.lookup && isRemote x.keys)

/-! ### ROWS (R296) -/

/-- Row i of the sequence whose rows start at `row`, on its way to the destination. -/
structure GatherRow where
  row : Nat
  i : Nat
  data : SlotData
  fmt : Fmt
  scaled : Bool
  deriving DecidableEq, Repr

/-- Whether a page's format fits the destination: the same, or wider. -/
def gatherFits (page dst : Fmt) : Bool :=
  decide (dst = .fp32) || decide (dst = page) || (decide (dst = .bf16) && decide (page.width = 8))

/-- One piece of a sequence: the page is pinned while it is read. -/
def GatherArgs.piece (x : GatherArgs) (pool : Pool) (seq : Nat) (b : SeqEnt) (slots : Nat) (dst : Fmt) (pc : Piece) :
    Work (List GatherRow) := do
  let j := b.index slots pc.t
  let (p, epoch) ← readEntry b j
  if p = noPage then throw (missingPage seq b j)
  pool.pin seq p
  let page ← pool.header seq p epoch x.dh (some j)
  if !(gatherFits (page.fmt x.side) dst) then throw (kvFault F.kvPage 4 seq page.da)
  let rows ← (List.range pc.n).mapM fun i => do
    let y ← page.slot x.side (pc.t % slots + i)
    return (⟨b.qRow, pc.i + i, y, page.fmt x.side, page.scaled x.side⟩ : GatherRow)
  pool.unpin p
  return rows

/-- The rows of every sequence. -/
def GatherArgs.rows (x : GatherArgs) (dst : Tensor) : Work (List SeqEnt × List GatherRow) := do
  let seqs ← readSeqs x.table x.batch
  for b in seqs do
    if decide (b.qLen ≠ 0) && !(dst.holds ⟨b.qRow, 0, b.qLen, x.dh⟩) then throw (invalidAt dst.base)
  let pool ← readPool x.pool
  let parts ← (numberedSeqs seqs).mapM fun (seq, b) => do
    if b.qLen = 0 then return ([] : List GatherRow)
    let js := List.range (if b.ring = 0 then ceilDiv (b.qPos + b.qLen) 16 else b.ring)
    let here := (← get).s
    let slots ← if x.far then slotsOf pool seq b js
      else pure (here.seqSlots pool b js fun n j => (List.range b.qLen).any fun i => decide (b.index n (b.qPos + i) = j))
    let rs ← (pieces slots b.qPos 0 b.qLen b.qLen).mapM (x.piece pool seq b slots dst.fmt)
    return rs.flatten
  return (seqs, parts.flatten)
where
  /-- Numbers the entries of a batch. -/
  numberedSeqs (xs : List SeqEnt) : List (Nat × SeqEnt) := (List.range xs.length).zip xs

/-- Writes a row of the sequences `live`: pattern by pattern when format and scales are the page's, through the output converter
otherwise. -/
def State.putGatherRow (s : State) (e : Nat) (o : OpenOp) (t : Tensor) (dh : Nat) (live : List SeqEnt) (x : GatherRow) :
    State × OpenOp :=
  let d := o.desc
  let tw := Desc.twrite d
  let spot := resultAt tw x.row 0 x.i
  if t.fmt = x.fmt ∧ t.scaled = x.scaled ∧ !(t.scaled && t.blocked) then
    let s := (List.range dh).foldl (fun s c => s.putElem e t (spot c).1 (spot c).2 (x.data.elems.getD c 0)) s
    (if t.scaled then
      (List.range (dh / 32)).foldl (fun s i => s.putScale e t (spot (32 * i)).1 (spot (32 * i)).2 (x.data.scales.getD i 0)) s
    else s, o)
  else
    let (s, cells) := s.rowRun e (Desc.sr d) tw ⟨x.row, 0, 0, dh⟩ x.i ((List.range dh).map (x.data.value x.fmt))
    s.putOut e o t (fun r c => live.any fun b => (destRegion tw ⟨b.qRow, 0, b.qLen, dh⟩).has r c) cells

/-! ### LOOKUP (R293) -/

/-- Pins the page of a node by CAS on its page entry: EPOCH equal and REF at least 1; k bounds the attempts. -/
def Pool.pinByCas (x : Pool) (p epoch : Nat) : Nat → Work Bool
  | 0 => return false
  | k + 1 => do
    let v ← Work.readNat (x.entryDa p) 8
    if bits v 63 32 ≠ epoch ∨ bits v 15 0 = 0 then return false
    let was ← Work.atom (x.entryDa p) { op := .cas, ty := .b64, opnd := v + 65536, cmp := v }
    if was = v then
      Work.count Reg.engKvPins 31 0
      modify fun w => { w with pins := w.pins ++ [x.pinMark p] }
      return true
    x.pinByCas p epoch k

/-- Adopts a pinned page: its pin becomes a reference, and the block-table entry and LAST_USE are written. -/
def Pool.adopt (x : Pool) (b : SeqEnt) (j a : Nat) (n : Node) : Work Unit := do
  let _ ← x.cnt2 n.page (-1) 1
  modify fun w => { w with pins := w.pins.erase (x.pinMark n.page) }
  b.setEntry j n.page n.epoch
  let now := (← get).s.rd Reg.tckCount
  Work.write (a + 24) (leBytes 4 now)
  Work.count Reg.engKvTree 31 0

/-- Tries the nodes of a probe whose HASH is h, in order, for page j of a sequence: the page matched, if any. -/
def GatherArgs.tryNodes (x : GatherArgs) (pool : Pool) (seq : Nat) (b : SeqEnt) (j h : Nat) (parent : Nat × Nat)
    (tokens : List Byte) : List (Nat × Nat) → Work (Option (Nat × Nat))
  | [] => return none
  | (a, v) :: r => do
    if v ≠ h then x.tryNodes pool seq b j h parent tokens r else
    let n ← readNode a
    if !(← pool.pinByCas n.page n.epoch 1000) then x.tryNodes pool seq b j h parent tokens r else
    let page ← pool.header seq n.page n.epoch x.dh none
    let family := decide (n.parent = parent.1) && (decide (parent.1 = noPage) || decide (n.parentEpoch = parent.2))
    let same ← if family && decide (page.slots = x.slots) && decide (page.used = page.slots) && page.tokens then do
        let t ← Work.read (page.da + page.tkOfs) (4 * page.slots)
        pure (decide (t = tokens))
      else pure false
    if same then
      pool.adopt b j a n
      return some (n.page, n.epoch)
    else
      pool.unpin n.page
      x.tryNodes pool seq b j h parent tokens r

/-- Matches the pages of a sequence from page j on, k still to go: how many match in all. -/
def GatherArgs.matchFrom (x : GatherArgs) (pool : Pool) (seq : Nat) (b : SeqEnt) (j h : Nat) (parent : Nat × Nat) :
    Nat → Work Nat
  | 0 => return j
  | k + 1 => do
    let tokens ← Work.read (x.keys + 4 * (b.qRow + j * x.slots)) (4 * x.slots)
    let h := pageKey pool.key h tokens
    match ← x.tryNodes pool seq b j h parent tokens (← pool.probe h) with
    | none => return j
    | some p => x.matchFrom pool seq b (j + 1) h p k

/-- LOOKUP on every sequence: the matched pages, and KV_LEN. -/
def GatherArgs.look (x : GatherArgs) : Work Unit := do
  let seqs ← readSeqs x.table x.batch
  let pool ← readPool x.pool
  ((List.range seqs.length).zip seqs).forM fun (seq, b) => do
    if b.qLen = 0 then pure () else
    let n ← x.matchFrom pool seq b 0 0 (noPage, 0) (b.qLen / x.slots)
    Work.write (b.da + 8) (leBytes 4 (n * x.slots))

/-! ### Running a GATHER -/

/-- The work of a GATHER: the rows to write, none in LOOKUP. -/
def GatherArgs.prog (x : GatherArgs) (dst : Option Tensor) : Work (List SeqEnt × List GatherRow) :=
  match dst with
  | some t => x.rows t
  | none => do
    x.look
    return ([], [])

/-- The rows arrive: the destination's blocks carry DST_GEN. With a length table on another module the blocks are
claimed only now (assumption log 49). -/
def State.gatherLand (s : State) (site : Site) (o : OpenOp) (x : GatherArgs) (dst : Option Tensor)
    (r : List SeqEnt × List GatherRow) : State × OpenOp :=
  match dst with
  | none => (s, { o with finished := true })
  | some t =>
    let e := site.e
    let d := o.desc
    let live := r.1.filter fun b => decide (b.qLen ≠ 0)
    let late := isRemote x.table
    let region := fun (b : SeqEnt) => destRegion (Desc.twrite d) ⟨b.qRow, 0, b.qLen, x.dh⟩
    let blocks := dedup (live.flatMap fun b => t.blocks (region b))
    let o := if late then
        { o with claimed := blocks, claims := blocks, dst := live.flatMap fun b => t.ranges e (region b),
                 sameGen := blocks.filter fun b => decide (s.tag e b = Desc.dstGen d) }
      else o
    match s.sameGenFault e o o.claims with
    | some f => (s, o.failed f)
    | none =>
      match s.writesFault o.part (if late then o.dst else []) with
      | some f => (s.setTags e 15 o.claims, o.failed f)
      | none =>
        let (s, o) := r.2.foldl (fun (a : State × OpenOp) y => a.1.putGatherRow e a.2 t x.dh live y) (s, o)
        (s, o.wrote)

/-- The destination of a GATHER: none for LOOKUP. -/
def OpenOp.gatherDst (o : OpenOp) (x : GatherArgs) : Option Tensor := if x.lookup then none else o.entry 3

/-- Runs a GATHER as far as the answers it has allow. -/
def State.gatherRun (s : State) (site : Site) (o : OpenOp) (x : GatherArgs) : State × OpenOp :=
  let dst := o.gatherDst x
  match s.work site o x.far (x.prog dst) with
  | (.ok r, w) =>
    let (s, o) := w.close o
    s.gatherLand site o x dst r
  | (.error f, w) =>
    let (s, o) := w.close o
    if f.code = remotePending then (s, o)
    else if f.waits then
      (if x.far then (s.askSector (sectorOf f.addr) (decide (f.code = atticOwn)), o) else (s, o.failed f))
    else (s, o.failed f)

/-- Releases the pins of a stopped GATHER on another module's pages, and returns the pages that this frees (R271, R274). -/
def unpinFar (pins : List (Nat × Nat)) : Work Unit :=
  pins.forM fun x => do
    let pool ← readPool x.1
    pool.release ((x.2 - remoteOfs pool.entryBase) / 16) (-1) 0

/-- Goes on with a stopped GATHER: its record is posted once its pins are released. An error of its requests leaves the rest pinned. -/
def State.gatherUnpin (s : State) (site : Site) (o : OpenOp) (f : Option OpFault) : State :=
  match s.work site { o with pins := [] } true (unpinFar o.pins) with
  | (.ok _, w) => (w.close o).1.endOp site.e site.q { (w.close o).2 with pins := [] } (stopStatus f)
  | (.error g, w) =>
    let (s, o') := w.close o
    if g.code = remotePending then s.putOp site.e site.q { o' with pins := o.pins }
    else s.endOp site.e site.q { o' with pins := [] } (stopStatus f)

/-- Goes on with an open GATHER of context k after an answer, or at a step boundary, unless one is still awaited. A stopped one only
releases its pins, while its context is resident. -/
def State.gatherResume (s : State) (e k issue : Nat) : State :=
  let c := s.ctx e k
  let x := s.ctxQueue e k
  match x.opAt issue, gatherArgs ((x.opAt issue).map (·.desc) |>.getD []) with
  | some o, .ok a =>
    let awaited := c.tags.any (fun t => decide (t.issue = issue)) || c.landing.any fun l => decide (l.tag.issue = issue)
    if Desc.op o.desc ≠ Op.gather ∨ awaited ∨ c.remoteErr.isSome then s else
    let site : Site := ⟨e, c.slot, k, o.part⟩
    match o.stop with
    | some f => if c.place = .resident then s.gatherUnpin site o f else s
    | none =>
      if o.finished ∨ o.abort then s else
      let (s, o') := s.gatherRun site o a
      s.setCtxQueue e k ((s.ctxQueue e k).mapOp issue fun _ => o')
  | _, _ => s

/-- The regions of D that the sequences of a local length table take, checked (R193, R204). -/
def GatherArgs.regions (x : GatherArgs) (d : Desc) (t : Tensor) (seqs : List SeqEnt) : Except OpFault (List Reg2) := do
  let gs := (seqs.filter fun b => decide (b.qLen ≠ 0)).map fun b => (⟨b.qRow, 0, b.qLen, x.dh⟩ : Reg2)
  gs.forM fun g => t.destOk (Desc.twrite d) g
  return gs.map (destRegion (Desc.twrite d))

/-- What GATHER writes: nothing as a LOOKUP, and nothing yet with a length table on another module. -/
def State.gatherLaunch (s : State) (site : Site) (o : OpenOp) (x : GatherArgs) : Except OpFault Launch :=
  if x.lookup then pure {} else do
    let t ← s.operand site (Desc.tdD o.desc)
    if isRemote x.table then pure {}
    else do
      let seqs ← (s.work site o false (readSeqs x.table x.batch)).1
      let gs ← x.regions o.desc t seqs
      pure (gs.foldl (fun (l : Launch) g => l.into t site.e g) {})

/-- Issue of GATHER. -/
def State.gatherBody (s : State) (site : Site) (o : OpenOp) : Issue :=
  issueOf do
    let d := o.desc
    let x ← gatherArgs d
    let o := s.latch site o
    let l ← s.gatherLaunch site o x
    return (s.launch site o l fun s o => s.gatherRun site o x).unlessWaits

/-- Whether the destination of a GATHER is at a DA. -/
def State.gatherDa (s : State) (e q : Nat) (d : Desc) : Bool := decide (d.opx 17 16 = 1) || s.daDest e q d

/-! ### Meanings -/

/-- GATHER_ROWS (R296), with the reserved modes, which are invalid. -/
def execGatherRows (t : Nat) (e : Fin 96) (q : Fin 4) (s : State) : Host.Outcome State Fault Refusal :=
  let s := s.advance t
  if s.stopped then .next s else
  .next (s.issueNext e q (fun d => decide (d.op = Op.gather ∧ d.opx 17 16 ≠ 1)) (s.gatherDa e q) State.gatherBody)

/-- GATHER_LOOKUP (R293). -/
def execGatherLookup (t : Nat) (e : Fin 96) (q : Fin 4) (s : State) : Host.Outcome State Fault Refusal :=
  let s := s.advance t
  if s.stopped then .next s else
  .next (s.issueNext e q (fun d => decide (d.op = Op.gather ∧ d.opx 17 16 = 1)) (s.gatherDa e q) State.gatherBody)

end Sys2Proof.Machine
end

