-- ==== Sys2Proof/Machine/Queues.lean ====
section
/-! DEFINITION. The queue engine: reading the tail line, fetching entries, watches (R144 to R148, R519), lists, calls and
branches (R170, R171). -/

namespace Sys2Proof.Machine

/-! ### Reading queue structures (R519) -/

/-- The error that the read of an Attic sector of [a, a + n) has ended with, not yet taken. -/
def State.failedSector (s : State) (a n : Nat) : Option Nat :=
  if regionOf a ≠ .attic then none else
  (s.missingSector a n).bind fun x => if (s.sector x).err ≠ 0 then some (s.sector x).err else none

/-- The error of an Attic sector has been taken: the next read asks for it anew. -/
def State.clearSector (s : State) (a : Nat) : State :=
  if regionOf a = .attic then s.setSector (sectorOf a) { s.sector (sectorOf a) with err := 0 } else s

/-- The code of a read of a queue structure that fails: by its end, by the memory rules, or on Attic. -/
def State.structFault (s : State) (a n : Nat) (f : FetchEnd) (part : Option Nat) : Option Nat :=
  match f with
  | .uncorrectable => some F.memUe
  | .timeout => some F.memTimeout
  | .ok =>
    match (match part with
      | some p => s.opReadFault p a n
      | none => s.readFault a n) with
    | some f => some f.1
    | none => s.failedSector a n

/-- A queue's read has failed: a record, and the queue halts once its open macro-ops have ended (R519). -/
def State.fetchError (s : State) (e q code a : Nat) : State :=
  let s := s.clearSector a
  let x := s.queue e q
  let s := postFault s { code := code, cls := Class.contained, block := Blk.eng, unit := e,
                         payload := defaultPayload a 0 x.issue e q }
  (s.setQueue e q { x with haltAfter := some .fetchError }).settle e q x.state

/-- A queue raises F_QUEUE_SEQ and halts once no macro-op is open (R147). -/
def State.seqHalt (s : State) (e q expected found case level : Nat) : State :=
  let s := s.queueSeqFault e q expected found case level
  let x := s.queue e q
  (s.setQueue e q { x with haltAfter := some .queueSeq }).settle e q x.state

/-- Attic bytes that Larder does not hold are asked for: whether [a, a + n) can be read now. -/
def State.holdsBytes (s : State) (a n : Nat) : Bool :=
  decide (regionOf a ≠ .attic) || (s.missingSector a n).isNone

/-- Asks for the first missing Attic sector of a structure. -/
def State.askFor (s : State) (a n : Nat) : State :=
  match s.missingSector a n with
  | some x => s.askSector x false
  | none => s

/-- Reads the tail line of a RING queue: the last TAIL read, and its check (R144, R147 case 1). The first TAIL read after
an enable or a reset becomes HEAD, which brings DEPTH to 0 (R149, R185). -/
def State.readTail (s : State) (e q : Nat) (f : FetchEnd) : State :=
  let a := s.rd (Reg.engQTailDa e q)
  let x := s.queue e q
  match s.structFault a 4 f none with
  | some code => s.fetchError e q code a
  | none =>
    if !(s.holdsBytes a 4) then s.askFor a 4 else
    let tail := s.loadNat a 4
    let size := 2 ^ s.fld (Reg.engQCfg e q) 12 8
    let back := !x.fresh && decide (ahead32 tail x.tail < 0)
    let x := if x.fresh then { x with seen := tail, tail := tail, head := tail, next := tail, fresh := false }
      else { x with seen := tail }
    if back ∨ size < x.depth then (s.setQueue e q x).seqHalt e q x.head tail 1 0
    else
      let fresh := (s.queue e q).fresh
      let s := (s.setQueue e q { x with tail := tail }).settle e q x.state
      if fresh then s.writeStatusLine e q else s

/-- Where the next entry to fetch lies. -/
inductive NextEntry
  | none
  /-- the current level is used up: it is popped -/
  | pop
  /-- a descriptor that a routine emitted -/
  | ready (x : Entry)
  /-- an entry in memory, with the SEQ it must carry; `part`: the partition that checks the read -/
  | at (a level index : Nat) (expected : Option Nat) (part : Option Nat)

/-- The next entry of a queue (R144, R151, R170, R177). A level is left once its last entry's routine has returned, so that what it
emitted runs one level above. -/
def State.nextEntry (s : State) (e q : Nat) : NextEntry :=
  let x := s.queue e q
  let cfg := s.rd (Reg.engQCfg e q)
  let base := s.rd (Reg.engQBase e q)
  match x.stack with
  | l :: _ =>
    if l.count ≤ l.pos then
      (if x.fetched.isEmpty ∧ !(x.ops.any fun o => decide (Desc.op o.desc = Op.call) && decide (o.level = x.stack.length)) then .pop
       else .none)
    else
      let level := x.stack.length
      match l.emitted[l.pos]? with
      | some d => .ready ⟨d, 0, level, l.pos⟩
      | none => .at (l.da + 64 * l.pos) level l.pos (some l.pos) ((s.slotCtx e q).map fun k => (s.ctx e k).part)
  | [] =>
    if bit cfg 1 then
      (if x.arg.isSome ∧ x.tmpl ≤ bits cfg 27 24 then .at (base + 64 * x.tmpl) 0 x.tmpl none none else .none)
    else if x.next = x.tail then .none
    else .at (base + x.next % 2 ^ bits cfg 12 8 * 64) 0 0 (some x.next) none

/-- A TRIGGER queue with nothing in hand takes its next argument, and writes it to scalar slot 0 (R151). -/
def State.takeArg (s : State) (e q : Nat) : State :=
  let x := s.queue e q
  if !(bit (s.rd (Reg.engQCfg e q)) 1) ∨ x.arg.isSome ∨ !x.ops.isEmpty ∨ !x.stack.isEmpty then s else
  match x.fifo with
  | [] => s
  | a :: r => (s.setQueue e q { x with fifo := r, arg := some a, tmpl := 0 }).setScalar e q 0 a

/-- Fetches the next entry; k bounds the levels popped first (R147, R170). -/
def State.fetchNext (s : State) (e q : Nat) (f : FetchEnd) : Nat → State
  | 0 => s
  | k + 1 =>
    let x := s.queue e q
    match s.nextEntry e q with
    | .none => s.settle e q x.state
    | .pop => (s.setQueue e q { x with stack := x.stack.drop 1 }).fetchNext e q f k
    | .ready y => (s.setQueue e q (x.took y)).settle e q x.state
    | .at a level index expected part =>
      match s.structFault a 64 f part with
      | some code => s.fetchError e q code a
      | none =>
        if !(s.holdsBytes a 64) then s.askFor a 64 else
        let d := descOf (s.load a 64)
        let bad := match expected with
          | some n => decide (d.seq ≠ n)
          | none => false
        if bad then s.seqHalt e q (expected.getD 0) d.seq 2 level
        else (s.setQueue e q (x.took ⟨d, a, level, index⟩)).settle e q x.state

/-- Whether a queue fetches: it is enabled, not halted, and not about to stop. -/
def QueueSt.fetches (x : QueueSt) : Bool :=
  decide (x.state = .idle ∨ x.state = .running ∨ x.state = .waiting) && !x.stopping && x.haltAfter.isNone

/-- Whether no command of the table issues a descriptor: its opcode, or the selector in its OPX, is reserved (R154, R158). -/
def reservedOp (d : Desc) : Bool :=
  let op := d.op
  if op = Op.signal then decide (d.opx 17 16 = 3)
  else if op = Op.call then decide (1 < d.opx 17 16)
  else if op = Op.branch then decide (d.opx 22 21 = 3)
  else if op = Op.scan then decide (d.opx 17 16 = 3)
  else if op = Op.gather then decide (1 < d.opx 17 16)
  else if op = Op.scatter then decide (4 < d.opx 18 16)
  else !([Op.mma, Op.mmaBwdX, Op.mmaBwdW, Op.conv, Op.convFused, Op.attn, Op.attnBwd, Op.pulse, Op.norm, Op.normBwd,
    Op.smax, Op.smaxBwd, Op.gate, Op.reduce, Op.sort, Op.boxdec, Op.nms, Op.copy, Op.prefetch, Op.wait,
    Op.fence].contains op)

/-- The queue engine reads the tail line, fetches the next entry while fewer than four wait, and ends an entry whose
opcode is reserved (R145 to R147, R154, R519). -/
def State.fetch (s : State) (e q : Nat) (tail entry : FetchEnd) : State :=
  if !(s.queue e q).fetches then s else
  let s := if bit (s.rd (Reg.engQCfg e q)) 1 then s.takeArg e q else s.readTail e q tail
  let s := if (s.queue e q).fetches && decide ((s.queue e q).fetched.length < 4) then s.fetchNext e q entry 5 else s
  s.issueNext e q reservedOp (fun _ => false) fun _ _ _ => .fault (invalidAt 0)

/-- A write has reached a watched sector: the tail line is read again, a rewritten entry raises F_QUEUE_SEQ, and a WAIT
reads its word again (R145, R147 case 3, R167). -/
def State.notify (s : State) (e q a : Nat) (tail : FetchEnd) : State :=
  let s := s.recheckWaits e q
  let x := s.queue e q
  if x.state = .disabled then s
  else if !bit (s.rd (Reg.engQCfg e q)) 1 ∧ a / 64 = s.rd (Reg.engQTailDa e q) / 64 then s.readTail e q tail
  else
    match s.ringSeqAt e q a with
    | some n => s.seqHalt e q n n 3 0
    | none => s

/-! ### Lists (R170, R171) -/

/-- Pushes a level, giving back what had been fetched ahead. -/
def QueueSt.push (x : QueueSt) (l : Level) : QueueSt :=
  let x := x.unfetch
  { x with stack := l :: x.stack }

/-- Replaces the current level; at level 0 it pushes. -/
def QueueSt.jump (x : QueueSt) (l : Level) : QueueSt :=
  let x := x.unfetch
  { x with stack := l :: x.stack.drop 1 }

/-- Pops the current level; at level 0 it does nothing. -/
def QueueSt.exit (x : QueueSt) : QueueSt :=
  let x := x.unfetch
  { x with stack := x.stack.drop 1 }

/-- A list target: its alignment and its count (R170). -/
def listBad (a n : Nat) : Bool := decide (a % 64 ≠ 0) || decide (n = 0)

/-- Issue of CALL LIST. -/
def State.callListBody (s : State) (site : Site) (o : OpenOp) : Issue :=
  let a := Desc.arg o.desc 0
  let n := bits (Desc.arg o.desc 1) 15 0
  let x := s.queue site.e site.q
  if listBad a n then .fault (invalidAt 0)
  else if 4 ≤ x.stack.length then .fault ⟨F.listDepth, 0, 0⟩
  else .ends (s.setQueue site.e site.q (x.push { da := a, count := n })) .completed

/-- The comparison of BRANCH-ON-SCALAR (R171). -/
def branchHolds (ty cond x y : Nat) : Bool :=
  let nan := decide (ty = 0) && ((f32 (BitVec.ofNat 32 x)).isNan || (f32 (BitVec.ofNat 32 y)).isNan)
  let lt := match ty with
    | 0 => FVal.lt false (f32 (BitVec.ofNat 32 x)) (f32 (BitVec.ofNat 32 y))
    | 1 => decide (toSigned 64 x < toSigned 64 y)
    | _ => decide (x < y)
  let eq := match ty with
    | 0 => FVal.eqv (f32 (BitVec.ofNat 32 x)) (f32 (BitVec.ofNat 32 y))
    | _ => decide (x = y)
  match cond with
  | 0 => true
  | 1 => !nan && eq
  | 2 => nan || !eq
  | 3 => !nan && lt
  | _ => !nan && !lt

/-- Issue of BRANCH-ON-SCALAR, with what its action does to the queue. -/
def State.branchBody (s : State) (site : Site) (o : OpenOp) (target pushes : Bool)
    (act : QueueSt → Level → QueueSt) : Issue :=
  let d := o.desc
  let a := Desc.arg d 1
  let n := bits (Desc.arg d 2) 15 0
  let x := s.queue site.e site.q
  if Desc.opx d 17 16 = 3 ∨ 4 < Desc.opx d 20 18 ∨ (target ∧ listBad a n) then .fault (invalidAt 0) else
  let lhs := s.scalar site.e site.q (Desc.opx d 33 24)
  let rhs := if bit (Desc.w d 2) 23 then s.scalar site.e site.q (Desc.opx d 43 34) else Desc.arg d 0
  if !(branchHolds (Desc.opx d 17 16) (Desc.opx d 20 18) lhs rhs) then .ends s .completed
  else if pushes ∧ 4 ≤ x.stack.length then .fault ⟨F.listDepth, 0, 0⟩
  else .ends (s.setQueue site.e site.q (act x { da := a, count := n })) .completed

/-! ### Meanings -/

/-- WATCH_NOTIFY (R145, R147). -/
def execWatchNotify (t : Nat) (e : Fin 96) (q : Fin 4) (note : Notice) (s : State) : Host.Outcome State Fault Refusal :=
  .next (s.live t fun s => s.notify e q note.da note.tail)

/-- DESCRIPTOR_FETCH (R147, R519). -/
def execDescriptorFetch (t : Nat) (e : Fin 96) (q : Fin 4) (tail entry : FetchEnd) (s : State) :
    Host.Outcome State Fault Refusal := .next (s.live t fun s => s.fetch e q tail entry)

/-- CALL_LIST (R170). -/
def execCallList (t : Nat) (e : Fin 96) (q : Fin 4) (s : State) : Host.Outcome State Fault Refusal :=
  .next (s.live t fun s => s.issueNext e q (fun d => decide (d.op = Op.call) && decide (d.opx 17 16 = 0)) (fun _ => false)
    State.callListBody)

/-- BRANCH_CALL (R171). -/
def execBranchCall (t : Nat) (e : Fin 96) (q : Fin 4) (s : State) : Host.Outcome State Fault Refusal :=
  .next (s.live t fun s => s.issueNext e q (fun d => decide (d.op = Op.branch) && decide (d.opx 22 21 = 0)) (fun _ => false)
    fun s site o => s.branchBody site o true true QueueSt.push)

/-- BRANCH_JUMP (R171). -/
def execBranchJump (t : Nat) (e : Fin 96) (q : Fin 4) (s : State) : Host.Outcome State Fault Refusal :=
  .next (s.live t fun s => s.issueNext e q (fun d => decide (d.op = Op.branch) && decide (d.opx 22 21 = 1)) (fun _ => false)
    fun s site o => s.branchBody site o true false QueueSt.jump)

/-- BRANCH_EXIT (R171). -/
def execBranchExit (t : Nat) (e : Fin 96) (q : Fin 4) (s : State) : Host.Outcome State Fault Refusal :=
  .next (s.live t fun s => s.issueNext e q (fun d => decide (d.op = Op.branch) && decide (d.opx 22 21 = 2)) (fun _ => false)
    fun s site o => s.branchBody site o false false fun x _ => x.exit)

end Sys2Proof.Machine
end

