-- ==== Sys2Proof/Machine/Commit.lean ====
section
/-! DEFINITION. The course of an open macro-op: tile writebacks (R112), step boundaries (R109, R182), the commit point
(R160, R181), datapath check failures (R129 to R134), and the holding and ramping of the arrays (R135 to R139). -/

namespace Sys2Proof.Machine

/-! ### Datapath checks (R129 to R134) -/

/-- Open macro-op k of a queue: 0 the older. -/
def State.openOp (s : State) (e q k : Nat) : Option OpenOp := (s.queue e q).ops[k]?

/-- ENG_ERR_INFO of a failure. -/
def errInfoOf (site : CheckSite) (hold inj parity : Bool) : Nat :=
  (match site with
   | .unit a u => a.val + 4 * u.val
   | .rowUnit => 512) + 1024 * b2n hold + 2048 * b2n inj + 4096 * b2n parity

/-- Where an injection strikes: unit 0 of the array that ENG_DP_CTRL names (R134). -/
def State.injectSite (s : State) (e : Nat) : CheckSite := .unit (Fin.ofNat 4 (s.fld (Reg.engDpCtrl e) 1 0)) 0

/-- Whether an injection pending on the engine explains a failure at a site (R134): the residue fault comes first (R142). -/
def State.wasInjected (s : State) (e : Nat) (site : CheckSite) (parity : Bool) : Bool :=
  let x := s.eng e
  (if parity then x.injParity && !x.injResidue else x.injResidue) && decide (site = s.injectSite e)

/-- Whether held arrays issue constant work: the ramp is up, and no real work uses them or, in a ramp-up, leaves some cycles (R135, R136). -/
def State.holding (s : State) (e : Nat) : Bool :=
  let x := s.eng e
  decide (x.ramp ≠ .idle) && (!(s.unitHeld e .arrays) || decide (x.ramp = .rampUp)) && !x.gateClosed

/-- A check failure on an engine: its counters, event and record (R130, R133). -/
def State.checkFailed (s : State) (e : Nat) (site : CheckSite) (parity hold : Bool) (part : Nat) (issue q : Nat) : State :=
  let inj := s.wasInjected e site parity
  let info := errInfoOf site hold inj parity
  let x := s.eng e
  let s := if inj then s.setEng e (if parity then { x with injParity := false } else { x with injResidue := false }) else s
  let code := if parity then F.dpParity else F.residue
  let s := if parity then s.bump (Reg.engResCount e) 63 32 1 else s.bump (Reg.engResCount e) 31 0 1
  let s := (s.wr (Reg.engErrInfo e) info).event (Reg.engIntStatus e) (b2n parity)
  let s := { s with flt := { s.flt with checks := (Blk.eng * 65536 + e, s.now) :: s.flt.checks } }
  postFault s { code := code, cls := codeClass code, block := Blk.eng, unit := e, part := part, injected := inj,
                inHold := hold, payload := defaultPayload 0 info issue e q }

/-- A check fails in an open macro-op: it will end FAULTED with the array and unit (R130). -/
def State.strikeOp (s : State) (e q : Nat) (o : OpenOp) (site : CheckSite) (parity : Bool) : State × OpenOp :=
  let f : OpFault := ⟨if parity then F.dpParity else F.residue, 0, errInfoOf site false (s.wasInjected e site parity) parity⟩
  (s.checkFailed e site parity false o.part o.issue q, if o.fault.isSome then o else { o with fault := some f })

/-- The unit that a check watches. -/
def checkUnit : CheckSite → EngUnit
  | .unit _ _ => .arrays
  | .rowUnit => .rowUnit

/-- The open macro-op of a queue that a failure strikes: the one that holds the unit, else the oldest that needs it. -/
def State.struckOp (s : State) (e q : Nat) (site : CheckSite) : Option OpenOp :=
  let u := checkUnit site
  let c := match s.slotCtx e q with
    | some k => s.ctx e k
    | none => {}
  let ops := (s.queue e q).ops
  match ops.find? fun o => o.holds c u with
  | some o => some o
  | none => ops.find? fun o => u.neededBy o.desc

/-- A check fails in a macro-op of queue q (R130). -/
def State.checkInOp (s : State) (e q : Nat) (site : CheckSite) (parity : Bool) : State :=
  match s.struckOp e q site with
  | none => s
  | some o =>
    let (s, o) := s.strikeOp e q o site parity
    s.putOp e q o

/-- The pending injections strike an open macro-op that has issued on the arrays: the residue first, then the parity (R134, R142). -/
def State.injected (s : State) (e q : Nat) (o : OpenOp) : State × OpenOp :=
  if !(EngUnit.arrays.neededBy o.desc) then (s, o) else
  let (s, o) := if (s.eng e).injResidue then s.strikeOp e q o (s.injectSite e) false else (s, o)
  if (s.eng e).injParity then s.strikeOp e q o (s.injectSite e) true else (s, o)

/-- The pending injections strike holding operations (R133, R134). -/
def State.injectHeld (s : State) (e : Nat) : State :=
  if !(s.holding e) || s.unitHeld e .arrays then s else
  let s := if (s.eng e).injResidue then s.checkFailed e (s.injectSite e) false true 0x80 0 0 else s
  if (s.eng e).injParity then s.checkFailed e (s.injectSite e) true true 0x80 0 0 else s

/-! ### The parts of a macro-op's work -/

/-- Unit i of an open macro-op whose work is made of units. -/
def State.unitWork (s : State) (site : Site) (o : OpenOp) (i : Nat) : State × OpenOp :=
  let op := Desc.op o.desc
  let e := site.e
  if op = Op.norm then s.normUnit e o i
  else if op = Op.normBwd then s.normBwdUnit e o i
  else if op = Op.smax then s.smaxUnit e o i
  else if op = Op.smaxBwd then s.smaxBwdUnit e o i
  else if op = Op.gate then s.gateUnit e o i
  else if op = Op.reduce then s.reduceUnit e site.q o i
  else if op = Op.scan then s.scanUnit e o i
  else if op = Op.conv then s.poolUnit e o i
  else if op = Op.convFused then s.fusedUnit e o i
  else if op = Op.boxdec then s.boxdecUnit e site.q o i
  else if op = Op.sort then s.sortUnit e site.q o
  else if op = Op.nms then s.nmsUnit e site.q o
  else if op = Op.copy ∨ op = Op.prefetch then s.copyUnit e site.q o i
  else (s, o)

/-- The work of the step that a boundary ends: a key block, a tile step, or the units that are due (R158). -/
def State.stepWork (s : State) (site : Site) (o : OpenOp) : State × OpenOp :=
  let op := Desc.op o.desc
  if op = Op.attn ∨ op = Op.attnBwd then s.attnStep site o
  else if o.tiled then
    if op = Op.conv then
      (match o.convArgs with
       | some (x, w) => s.convStep site.e o x w
       | none => (s, o))
    else
      match o.mmaArgs with
      | some x => s.mmaStep site.e o x
      | none => (s, o)
  else s.runUnits site.e o (fun s o i => s.unitWork site o i) o.units.length

/-- A COPY whose source or destination is remote. -/
def copyFar (d : Desc) : Bool := decide (d.op = Op.copy) && (copyFrom d || copyTo d)

/-- The rest of the request batch of a remote COPY, after its read beats and ranges are checked (R59, R164, R379). -/
def State.copyBatch (s : State) (site : Site) (o : OpenOp) : State × OpenOp :=
  let d := o.desc
  let rest := 64 * (o.steps + 1) - lineCount (copyCut d) o.asked
  let n := min (256 * rest) (copyBytes d - o.asked)
  let srcs := if copyFrom d then [] else [byteSource site.e (bit (Desc.w d 2) 16) (Desc.arg d 0 + o.asked) n (Desc.genA d)]
  match s.stepFault site.e o srcs with
  | some f => (s, { o with fault := some f })
  | none => s.copyRequests site o rest

/-- What an open macro-op does once it goes on past a boundary: the step of a PULSE after its W_in load, or the requests of a remote
COPY (R158, R245). -/
def State.nextWork (s : State) (site : Site) (o : OpenOp) : State × OpenOp :=
  if o.finished ∨ o.fault.isSome then (s, o)
  else if Desc.op o.desc = Op.pulse then s.pulseLoaded site o
  else if copyFar o.desc then s.copyBatch site o
  else (s, o)

/-- What is left to do at the commit of a macro-op: the step of a PULSE that a pre-emption held back, and units that follow no boundary. -/
def State.lastWork (s : State) (site : Site) (o : OpenOp) : State × OpenOp :=
  if Desc.op o.desc = Op.pulse then s.nextWork site o
  else s.runUnits site.e o (fun s o i => s.unitWork site o i) o.units.length

/-- The tile in the writeback buffer is written. -/
def State.tileWork (s : State) (site : Site) (o : OpenOp) : State × OpenOp :=
  if Desc.op o.desc = Op.conv then s.convWriteback site.e o else s.mmaWriteback site.e o

/-- A macro-op of engine e takes its place at the home slices of the lines that it may write (R70). -/
def State.atDest (s : State) (e : Nat) (o : OpenOp) : State :=
  let cached := o.dst.filter fun r => decide (regionOf r.1 = .pantry ∨ regionOf r.1 = .cellar ∨ regionOf r.1 = .attic)
  (cached.flatMap fun r => linesOf r.1 r.2).foldl (fun s x => s.inOrder (slicePlace x.1) (engineRank e x.1)) s

/-- Runs part of an open macro-op: the errors of its arithmetic are drawn anew (R2), and the Attic writes that it makes are its own (R181).
Work that waits for an Attic sector is not done, and the sector is asked for (assumption log 24). -/
def State.runPart (s : State) (site : Site) (o : OpenOp) (f : State → Site → OpenOp → State × OpenOp) : Except State (State × OpenOp) :=
  let s := s.atDest site.e o
  let (t, o') := f { s with free := s.free + 1 } site o
  match o'.fault with
  | some flt =>
    if flt.waits then .error (s.askSector (sectorOf flt.addr) (decide (flt.code = atticOwn)))
    else .ok ((t.blur site.e o').ownWrites s.attic.writes.length site.e site.q o.issue, o')
  | none => .ok ((t.blur site.e o').ownWrites s.attic.writes.length site.e site.q o.issue, o')

/-- The macro-op goes on past a boundary. -/
def State.goOn (s : State) (site : Site) (o : OpenOp) : State :=
  if Desc.op o.desc = Op.gather then s.gatherResume site.e site.k o.issue
  else if Desc.op o.desc ≠ Op.pulse ∧ copyFar o.desc = false then s
  else
    match s.runPart site o State.nextWork with
    | .error s => s
    | .ok (s, o) => (s.putOp site.e site.q o).copyProgress site.e site.k o.issue

/-! ### Step boundaries (R109, R182) -/

/-- Issue cycles of the step that has just ended (R108, R201, R251, R309); a key block and a PULSE count their own. -/
def OpenOp.stepCycles (o : OpenOp) : Nat :=
  let op := Desc.op o.desc
  let i := o.steps - 1
  let grid := fun (g : Grid) => g.cycles (if g.steps = 0 then 0 else i % g.steps)
  if o.tiled then
    if op = Op.conv then (match o.convArgs with
      | some (x, _) => grid x.grid
      | none => 0)
    else match o.mmaArgs with
      | some x => grid x.grid
      | none => 0
  else if op = Op.convFused then
    (match o.fusedArgs with
     | some (a, _) => a.tileCycles (a.tiles.getD i ⟨[], []⟩)
     | none => 0)
  else if op = Op.scan then
    (match o.entry 1, o.entry 2 with
     | some b, some w => (scanArgs o.desc).cycles (min b.fmt.lanes w.fmt.lanes)
     | _, _ => 0)
  else 0

/-- ENG_ISSUE_CYCLES gains the issue cycles of a step. -/
def State.countIssue (s : State) (e : Nat) (o : OpenOp) : State := s.bump (Reg.engIssueCycles e) 63 0 o.stepCycles

/-- Whether an open macro-op makes progress: one that needs the arrays or the row unit does while its context holds the
engine and the issue gate is open (R139, R374); an abort or a fault ends it in any case. -/
def State.progresses (s : State) (site : Site) (o : OpenOp) : Bool :=
  !(needsEngine (Desc.op o.desc)) || ((s.ctx site.e site.k).running && !(s.eng site.e).gateClosed) || o.abort || o.fault.isSome

/-- Ends a macro-op that an abort (none) or a fault stops. The reductions of a product stand as far as they have been issued when it is
aborted (R223). -/
def State.stopOp (s : State) (site : Site) (o : OpenOp) (f : Option OpFault) : State :=
  let s := match f with
    | some f => s.clearSector f.addr
    | none => s
  if f.isNone && o.redMode.isSome then (s.redPart site.e o).stopOpen site.e site.q site.k { o with dst := [] } f
  else s.stopOpen site.e site.q site.k o f

/-- A remote COPY that ran out of tags is still in its batch: its boundary has not come (R158, R379). -/
def State.midBatch (s : State) (site : Site) (o : OpenOp) : Bool :=
  copyFar o.desc && !o.batchMade && o.fault.isNone && (s.ctx site.e site.k).remoteErr.isNone

/-- Whether context k leaves the engine at a step boundary: another takes it, or it is withdrawn for its slot (R374, R375, R388). -/
def State.mustYield (s : State) (e k : Nat) : Bool :=
  (s.ctx e k).running && (s.leaving e || match s.nextHolder e with
    | some j => decide (j ≠ k)
    | none => false)

/-- The end of a step boundary: a fault stops the macro-op, else an abort (R131), else a pre-emption takes effect (R109), else it goes
on. -/
def State.sample (s : State) (site : Site) (o : OpenOp) : State :=
  match o.fault with
  | some f => s.stopOp site o (some f)
  | none =>
    if o.abort then s.stopOp site o none
    else if needsEngine (Desc.op o.desc) && s.mustYield site.e site.k then s.preempt site.e site.k
    else s.goOn site o

/-- A step boundary of open macro-op o (R109, R182). A pending injection has struck in its step. -/
def State.stepBoundary (s : State) (site : Site) (o : OpenOp) : State :=
  if o.stop.isSome then s.gatherResume site.e site.k o.issue
  else if s.midBatch site o then s.goOn site o
  else
    let (s, o) := s.injected site.e site.q { o with steps := o.steps + 1 }
    match (if o.fault.isSome then .ok (s, o) else s.runPart site o State.stepWork) with
    | .error s => s
    | .ok (s, o) => ((s.countIssue site.e o).putOp site.e site.q o).sample site o

/-- The site of a queue with a resident context. -/
def State.siteOf (s : State) (e q : Nat) (o : OpenOp) : Option Site := (s.slotCtx e q).map fun k => ⟨e, q, k, o.part⟩

/-! ### Commit -/

/-- Whether every write of a macro-op has been acknowledged: Attic's by the companion, remote ones by their responses. -/
def State.acknowledged (s : State) (site : Site) (o : OpenOp) : Bool :=
  let attic := s.attic.writes.all fun w => decide (w.op ≠ some (site.e, site.q, o.issue))
  let c := s.ctx site.e site.k
  attic && !(c.tags.any fun t => decide (t.issue = o.issue)) && !(c.landing.any fun l => decide (l.tag.issue = o.issue))

/-- Whether the macro-op has done its work: a WAIT or FENCE when its condition holds, any other when it has finished. -/
def State.workDone (s : State) (site : Site) (o : OpenOp) : Bool :=
  let op := Desc.op o.desc
  if op = Op.wait then o.finished || s.waitMet o.desc
  else if op = Op.fence then s.fenceMet site.e site.q o
  else if op = Op.copy then o.finished || s.remoteDone site.e site.k o (copyBytes o.desc)
  else o.finished

/-- The reductions that a macro-op makes at its end (R229). -/
def State.lastReds (s : State) (site : Site) (o : OpenOp) : State × OpenOp :=
  if o.atEnd.isEmpty then (s, o)
  else (s.owning site.e site.q o.issue fun s => o.atEnd.foldl (fun s x => s.redAdd x.1 x.2) s, { o with atEnd := [] })

/-- The commit point, once every write has been acknowledged and the regulators have let its bytes pass: the record; a FENCE makes a fence
point (R169, R179, R181). -/
def State.commitOp (s : State) (site : Site) (o : OpenOp) : State :=
  if !(s.acknowledged site o) then s else
  let (s, o) := s.admitOp .pantry o
  let (s, o) := s.admitOp .cellar o
  if !o.heldBytes.isEmpty then s.putOp site.e site.q o else
  let (s, o) := s.settleTags site.e o
  let s := s.endOp site.e site.q o .completed
  if Desc.op o.desc = Op.fence then s.fencePoint site.e else s

/-- The last work of an open macro-op is done: it ends FAULTED where a fault has stopped it; else its last reductions are made, and it
commits. -/
def State.finishOp (s : State) (site : Site) (o : OpenOp) : State :=
  match o.fault with
  | some f => s.stopOp site o (some f)
  | none =>
    if s.workDone site o then
      let (s, o) := s.lastReds site o
      (s.putOp site.e site.q o).commitOp site o
    else s

/-- Whether a macro-op has work that its commit does: a step or units left. -/
def OpenOp.workLeft (o : OpenOp) : Bool :=
  o.fault.isNone && !o.finished && (decide (Desc.op o.desc = Op.pulse) || (!o.units.isEmpty && stepless (Desc.op o.desc)))

/-- The last write of open macro-op o is acknowledged, or the condition of a WAIT or FENCE is met. Any cycle is a step boundary of those:
an abort ends them (R158, R182). A PULSE without a boundary meets a pending injection in its step. -/
def State.tryCommit (s : State) (site : Site) (o : OpenOp) : State :=
  let op := Desc.op o.desc
  if o.stop.isSome then s.gatherResume site.e site.k o.issue
  else if o.abort ∧ (op = Op.wait ∨ op = Op.fence) then s.stopOp site o none
  else if o.stepDue && !(openSteps op) then s
  else
    match (if o.workLeft then s.runPart site o State.lastWork else .ok (s, o)) with
    | .error s => s
    | .ok (s, o) =>
      let (s, o) := if op = Op.pulse ∧ o.finished ∧ o.fault.isNone ∧ o.info % 4 = 0 then s.injected site.e site.q o else (s, o)
      (s.putOp site.e site.q o).finishOp site o

/-! ### Holding and ramping (R135 to R139) -/

/-- The hold threshold passes with no real issue: ramp-down begins, from a ramp-up at the step it has reached (R135, R136; assumption
log 15). -/
def State.holdExpiry (s : State) (e : Nat) : State :=
  let x := s.eng e
  let due : Bool := match s.holdMode e with
    | 0 => decide (x.lastReal < s.now)
    | 1 => decide (x.lastReal + bits x.hold 28 16 ≤ s.now)
    | _ => false
  if (x.ramp = .active ∨ x.ramp = .rampUp) ∧ !x.working ∧ !x.gateClosed ∧ due then
    (s.setEng e { x with ramp := .rampDown, rampStep := if x.ramp = .active then 3 else x.rampStep, rampAt := s.now,
                         prior := some (x.ramp, x.rampAt) }).bump (Reg.engRampCount e) 63 32 1
  else s

/-- A step of 64 ACLK of a ramp ends; idle arrays in mode ALWAYS begin to ramp up (R135, R136, R138). -/
def State.rampStep (s : State) (e : Nat) : State :=
  let x := s.eng e
  let y := { x with rampAt := s.now, prior := none }
  let due := decide (x.rampAt + 64 ≤ s.now)
  if x.gateClosed then s else
  match x.ramp with
  | .rampUp => if due then s.setEng e (if x.rampStep < 3 then { y with rampStep := x.rampStep + 1 } else { y with ramp := .active }) else s
  | .rampDown => if due then s.setEng e (if x.rampStep = 0 then { y with ramp := .idle } else { y with rampStep := x.rampStep - 1 }) else s
  | .idle =>
    if s.holdMode e = 2 then
      ((s.setEng e { y with ramp := .rampUp, rampStep := 0 }).bump (Reg.engRampCount e) 31 0 1).injectHeld e
    else s
  | .active => s

/-- The cap an engine's duty moves to: the lowest of the three that bound it (R139, R446, R448, R501). -/
def EngineSt.cap (x : EngineSt) : Nat := min x.capThermal (min x.capDroop x.capPower)

/-- The duty cap moves one eighth toward its target, 64 ACLK after it last moved at the earliest (R139). -/
def State.dutyStep (s : State) (e : Nat) : State :=
  let x := s.eng e
  if s.now < x.dutyAt + 64 then s
  else if x.duty < x.cap then s.setEng e { x with duty := x.duty + 1, dutyAt := s.now }
  else if x.cap < x.duty then s.setEng e { x with duty := x.duty - 1, dutyAt := s.now }
  else s

/-! ### Meanings -/

/-- The tile in the writeback buffer drains: also while its context has left the engine (R224). The next tile passes to the buffer only while
it holds it. -/
def State.drainTile (s : State) (site : Site) (o : OpenOp) : State :=
  if o.tiled && o.fault.isNone && o.wbuf.isSome then
    match s.runPart site o State.tileWork with
    | .error s => s
    | .ok (s, o) =>
      let (s, o) := if (s.ctx site.e site.k).running then s.nextTile site.e o else (s, o)
      s.putOp site.e site.q o
  else s

/-- Does f for open macro-op k of a resident queue, after a pending remote error of its context has ended its own (R380). -/
def State.withOp (s : State) (e q k : Nat) (f : State → Site → OpenOp → State) : State :=
  let s := match s.slotCtx e q with
    | some c => s.takeRemoteErr e c
    | none => s
  match s.openOp e q k with
  | none => s
  | some o =>
    match s.siteOf e q o with
    | some site => f s site o
    | none => s

/-- TILE_WRITEBACK (R112): the tile's last step has passed its boundary and no check has failed (R132). -/
def execTileWriteback (t : Nat) (e : Fin 96) (q : Fin 4) (k : Fin 2) (s : State) : Host.Outcome State Fault Refusal :=
  .next (s.live t fun s => s.withOp e q k State.drainTile)

/-- STEP_BOUNDARY (R109, R182). -/
def execStepBoundary (t : Nat) (e : Fin 96) (q : Fin 4) (k : Fin 2) (s : State) : Host.Outcome State Fault Refusal :=
  .next (s.live t fun s => s.withOp e q k fun s site o =>
    if o.stepDue && s.progresses site o then s.stepBoundary site o else s)

/-- MACRO_OP_COMMIT (R160, R181): first in the order of its cycle (R50). -/
def execMacroOpCommit (t : Nat) (e : Fin 96) (q : Fin 4) (k : Fin 2) (s : State) : Host.Outcome State Fault Refusal :=
  .next (s.live t fun s => (s.inOrder tickPlace 0).withOp e q k State.tryCommit)

/-- RESIDUE_CHECK_FAIL (R130, R133). In a self-test slot the checkers are tripped on purpose (R437): nothing is recorded. -/
def execResidueCheckFail (t : Nat) (e : Fin 96) (q : Option (Fin 4)) (site : CheckSite) (parity : Bool) (s : State) :
    Host.Outcome State Fault Refusal :=
  .next (s.live t fun s => if s.inSlot e then s else
    match q with
    | some q => s.checkInOp e q site parity
    | none => if s.holding e then s.checkFailed e site parity true 0x80 0 0 else s)

/-- HOLD_EXPIRY (R135). -/
def execHoldExpiry (t : Nat) (e : Fin 96) (s : State) : Host.Outcome State Fault Refusal := .next (s.live t fun s => s.holdExpiry e)

/-- RAMP_STEP (R136). -/
def execRampStep (t : Nat) (e : Fin 96) (s : State) : Host.Outcome State Fault Refusal := .next (s.live t fun s => s.rampStep e)

/-- DUTY_STEP (R139). -/
def execDutyStep (t : Nat) (e : Fin 96) (s : State) : Host.Outcome State Fault Refusal := .next (s.live t fun s => s.dutyStep e)

end Sys2Proof.Machine
end

