-- ==== Sys2Proof/Machine/Rv.lean ====
section
/-! DEFINITION. The instructions of the Keeper core: RV64I with the M and C extensions, Zicsr and Zifencei. The manual names the
architecture and gives none of its encodings, which are the published ones (assumption log 87). -/

namespace Sys2Proof.Machine

/-! ### Instructions -/

/-- What an arithmetic instruction computes. -/
inductive RvAlu
  | add | sub | sll | slt | sltu | xor | srl | sra | or | and
  | mul | mulh | mulhsu | mulhu | div | divu | rem | remu
  deriving DecidableEq, Repr

/-- The condition of a branch. -/
inductive RvCond
  | eq | ne | lt | ge | ltu | geu
  deriving DecidableEq, Repr

/-- How a CSR instruction forms the value it writes. -/
inductive RvCsr
  | write | set | clear
  deriving DecidableEq, Repr

/-- An instruction, compressed or not: registers by number, immediates as the values that they stand for. -/
inductive RvInst
  | lui (rd : Nat) (imm : Int)
  | auipc (rd : Nat) (imm : Int)
  | jal (rd : Nat) (ofs : Int)
  | jalr (rd rs : Nat) (ofs : Int)
  | branch (c : RvCond) (a b : Nat) (ofs : Int)
  | load (rd rs : Nat) (ofs : Int) (n : Nat) (signed : Bool)
  | store (rs src : Nat) (ofs : Int) (n : Nat)
  /-- register with immediate; `word`: on 32 bits, sign-extended -/
  | aluImm (op : RvAlu) (word : Bool) (rd rs : Nat) (imm : Int)
  | alu (op : RvAlu) (word : Bool) (rd a b : Nat)
  | fence
  | ecall
  | ebreak
  | mret
  /-- `src`: a register number, or with `imm` the value itself -/
  | csr (op : RvCsr) (imm : Bool) (rd src num : Nat)
  deriving DecidableEq, Repr

/-! ### Arithmetic -/

/-- A signed value as a register. -/
def sxReg (v : Int) : Word := BitVec.ofInt 64 v

/-- The low 32 bits, sign-extended. -/
def sxWord (v : Word) : Word := (v.truncate 32).signExtend 64

/-- An operation on n-bit values; the results of a division by 0 and of a signed overflow are those of the architecture. -/
def RvAlu.eval {n : Nat} (op : RvAlu) (a b : BitVec n) : BitVec n :=
  let sh := b.toNat % n
  match op with
  | .add => a + b
  | .sub => a - b
  | .sll => a <<< sh
  | .slt => BitVec.ofNat n (b2n (decide (a.toInt < b.toInt)))
  | .sltu => BitVec.ofNat n (b2n (decide (a.toNat < b.toNat)))
  | .xor => a ^^^ b
  | .srl => a >>> sh
  | .sra => BitVec.ofInt n (a.toInt / (2 ^ sh : Nat))
  | .or => a ||| b
  | .and => a &&& b
  | .mul => a * b
  | .mulh => BitVec.ofInt n (a.toInt * b.toInt / (2 ^ n : Nat))
  | .mulhsu => BitVec.ofInt n (a.toInt * b.toNat / (2 ^ n : Nat))
  | .mulhu => BitVec.ofNat n (a.toNat * b.toNat / 2 ^ n)
  | .div => if b = 0 then BitVec.ofInt n (-1) else BitVec.ofInt n (a.toInt.tdiv b.toInt)
  | .divu => if b = 0 then BitVec.ofInt n (-1) else BitVec.ofNat n (a.toNat / b.toNat)
  | .rem => if b = 0 then a else BitVec.ofInt n (a.toInt.tmod b.toInt)
  | .remu => if b = 0 then a else BitVec.ofNat n (a.toNat % b.toNat)

/-- An operation on registers; `word`: on their low 32 bits. -/
def RvAlu.on (op : RvAlu) (word : Bool) (a b : Word) : Word :=
  if word then (op.eval (a.truncate 32) (b.truncate 32)).signExtend 64 else op.eval a b

/-- Whether a branch is taken. -/
def RvCond.holds (c : RvCond) (a b : Word) : Bool :=
  match c with
  | .eq => a == b
  | .ne => a != b
  | .lt => decide (a.toInt < b.toInt)
  | .ge => decide (b.toInt ≤ a.toInt)
  | .ltu => decide (a.toNat < b.toNat)
  | .geu => decide (b.toNat ≤ a.toNat)

/-! ### Encodings of 32 bits -/

/-- The immediate of an I-type instruction. -/
def immI (w : Nat) : Int := toSigned 12 (bits w 31 20)

/-- The immediate of an S-type instruction. -/
def immS (w : Nat) : Int := toSigned 12 (bits w 31 25 * 2 ^ 5 + bits w 11 7)

/-- The offset of a branch. -/
def immB (w : Nat) : Int :=
  toSigned 13 (bits w 31 31 * 2 ^ 12 + bits w 7 7 * 2 ^ 11 + bits w 30 25 * 2 ^ 5 + bits w 11 8 * 2)

/-- The immediate of a U-type instruction. -/
def immU (w : Nat) : Int := toSigned 32 (bits w 31 12 * 2 ^ 12)

/-- The offset of JAL. -/
def immJ (w : Nat) : Int :=
  toSigned 21 (bits w 31 31 * 2 ^ 20 + bits w 19 12 * 2 ^ 12 + bits w 20 20 * 2 ^ 11 + bits w 30 21 * 2)

/-- The condition of a branch, by funct3. -/
def condOf (f3 : Nat) : Option RvCond :=
  [some .eq, some .ne, none, none, some .lt, some .ge, some .ltu, some .geu].getD f3 none

/-- The operation of OP and OP-IMM without funct7, by funct3. -/
def aluOf (f3 : Nat) : RvAlu := [RvAlu.add, .sll, .slt, .sltu, .xor, .srl, .or, .and].getD f3 .add

/-- The operation of the M extension, by funct3. -/
def mulOf (f3 : Nat) : RvAlu := [RvAlu.mul, .mulh, .mulhsu, .mulhu, .div, .divu, .rem, .remu].getD f3 .mul

/-- A load, by funct3: bytes, and whether the value is sign-extended. -/
def loadOf (f3 : Nat) : Option (Nat × Bool) :=
  [some (1, true), some (2, true), some (4, true), some (8, true), some (1, false), some (2, false), some (4, false), none].getD f3 none

/-- OP and OP-32. -/
def rvOp (word : Bool) (w : Nat) : Option RvInst :=
  let f3 := bits w 14 12
  let f7 := bits w 31 25
  let go := fun (op : RvAlu) => some (RvInst.alu op word (bits w 11 7) (bits w 19 15) (bits w 24 20))
  if f7 = 0 then (if word ∧ f3 ≠ 0 ∧ f3 ≠ 1 ∧ f3 ≠ 5 then none else go (aluOf f3))
  else if f7 = 1 then (if word ∧ (f3 = 1 ∨ f3 = 2 ∨ f3 = 3) then none else go (mulOf f3))
  else if f7 = 0x20 ∧ f3 = 0 then go .sub
  else if f7 = 0x20 ∧ f3 = 5 then go .sra
  else none

/-- OP-IMM and OP-IMM-32: a shift takes 6 bits of its amount, or 5 on words. -/
def rvOpImm (word : Bool) (w : Nat) : Option RvInst :=
  let f3 := bits w 14 12
  let top := if word then bits w 31 25 else bits w 31 26
  let sh : Int := if word then bits w 24 20 else bits w 25 20
  let arith := if word then 0x20 else 0x10
  let go := fun (op : RvAlu) (v : Int) => some (RvInst.aluImm op word (bits w 11 7) (bits w 19 15) v)
  if f3 = 1 then (if top = 0 then go .sll sh else none)
  else if f3 = 5 then (if top = 0 then go .srl sh else if top = arith then go .sra sh else none)
  else if word ∧ f3 ≠ 0 then none
  else go (aluOf f3) (immI w)

/-- SYSTEM. WFI is a hint: it has no effect. -/
def rvSystem (w : Nat) : Option RvInst :=
  let csr := fun (op : RvCsr) (imm : Bool) => some (RvInst.csr op imm (bits w 11 7) (bits w 19 15) (bits w 31 20))
  match bits w 14 12 with
  | 0 =>
    if w = 0x00000073 then some .ecall
    else if w = 0x00100073 then some .ebreak
    else if w = 0x30200073 then some .mret
    else if w = 0x10500073 then some .fence
    else none
  | 1 => csr .write false
  | 2 => csr .set false
  | 3 => csr .clear false
  | 5 => csr .write true
  | 6 => csr .set true
  | 7 => csr .clear true
  | _ => none

/-- The instruction of a 32-bit encoding; none where it is illegal. -/
def rvDecode32 (w : Nat) : Option RvInst :=
  let rd := bits w 11 7
  let rs := bits w 19 15
  let f3 := bits w 14 12
  match bits w 6 0 with
  | 0x37 => some (.lui rd (immU w))
  | 0x17 => some (.auipc rd (immU w))
  | 0x6F => some (.jal rd (immJ w))
  | 0x67 => if f3 = 0 then some (.jalr rd rs (immI w)) else none
  | 0x63 => (condOf f3).map fun c => .branch c rs (bits w 24 20) (immB w)
  | 0x03 => (loadOf f3).map fun x => .load rd rs (immI w) x.1 x.2
  | 0x23 => if f3 < 4 then some (.store rs (bits w 24 20) (immS w) (2 ^ f3)) else none
  | 0x13 => rvOpImm false w
  | 0x1B => rvOpImm true w
  | 0x33 => rvOp false w
  | 0x3B => rvOp true w
  | 0x0F => if f3 < 2 then some .fence else none
  | 0x73 => rvSystem w
  | _ => none

/-! ### Encodings of 16 bits -/

/-- The six-bit immediate of the compressed forms. -/
def immC (h : Nat) : Int := toSigned 6 (bits h 12 12 * 2 ^ 5 + bits h 6 2)

/-- The offset of C.J. -/
def immCj (h : Nat) : Int :=
  toSigned 12 (bits h 12 12 * 2 ^ 11 + bits h 8 8 * 2 ^ 10 + bits h 10 9 * 2 ^ 8 + bits h 6 6 * 2 ^ 7 + bits h 7 7 * 2 ^ 6 +
    bits h 2 2 * 2 ^ 5 + bits h 11 11 * 2 ^ 4 + bits h 5 3 * 2)

/-- The offset of C.BEQZ and C.BNEZ. -/
def immCb (h : Nat) : Int :=
  toSigned 9 (bits h 12 12 * 2 ^ 8 + bits h 6 5 * 2 ^ 6 + bits h 2 2 * 2 ^ 5 + bits h 11 10 * 2 ^ 3 + bits h 4 3 * 2)

/-- Quadrant 0. -/
def rvQuad0 (h : Nat) : Option RvInst :=
  let a := 8 + bits h 4 2
  let b := 8 + bits h 9 7
  let ofs4 : Nat := bits h 5 5 * 2 ^ 6 + bits h 12 10 * 2 ^ 3 + bits h 6 6 * 2 ^ 2
  let ofs8 : Nat := bits h 6 5 * 2 ^ 6 + bits h 12 10 * 2 ^ 3
  match bits h 15 13 with
  | 0 =>
    let imm : Nat := bits h 10 7 * 2 ^ 6 + bits h 12 11 * 2 ^ 4 + bits h 5 5 * 2 ^ 3 + bits h 6 6 * 2 ^ 2
    if imm = 0 then none else some (.aluImm .add false a 2 imm)
  | 2 => some (.load a b ofs4 4 true)
  | 3 => some (.load a b ofs8 8 true)
  | 6 => some (.store b a ofs4 4)
  | 7 => some (.store b a ofs8 8)
  | _ => none

/-- The register forms of quadrant 1, with funct3 4. -/
def rvQuad1Alu (h : Nat) : Option RvInst :=
  let a := 8 + bits h 9 7
  let b := 8 + bits h 4 2
  let sh : Nat := bits h 12 12 * 2 ^ 5 + bits h 6 2
  match bits h 11 10 with
  | 0 => some (.aluImm .srl false a a sh)
  | 1 => some (.aluImm .sra false a a sh)
  | 2 => some (.aluImm .and false a a (immC h))
  | _ =>
    match bits h 12 12, bits h 6 5 with
    | 0, 0 => some (.alu .sub false a a b)
    | 0, 1 => some (.alu .xor false a a b)
    | 0, 2 => some (.alu .or false a a b)
    | 0, _ => some (.alu .and false a a b)
    | _, 0 => some (.alu .sub true a a b)
    | _, 1 => some (.alu .add true a a b)
    | _, _ => none

/-- Quadrant 1. -/
def rvQuad1 (h : Nat) : Option RvInst :=
  let rd := bits h 11 7
  match bits h 15 13 with
  | 0 => some (.aluImm .add false rd rd (immC h))
  | 1 => if rd = 0 then none else some (.aluImm .add true rd rd (immC h))
  | 2 => some (.aluImm .add false rd 0 (immC h))
  | 3 =>
    if rd = 2 then
      let imm := toSigned 10 (bits h 12 12 * 2 ^ 9 + bits h 4 3 * 2 ^ 7 + bits h 5 5 * 2 ^ 6 + bits h 2 2 * 2 ^ 5 + bits h 6 6 * 2 ^ 4)
      if imm = 0 then none else some (.aluImm .add false 2 2 imm)
    else if immC h = 0 then none else some (.lui rd (immC h * 2 ^ 12))
  | 4 => rvQuad1Alu h
  | 5 => some (.jal 0 (immCj h))
  | 6 => some (.branch .eq (8 + bits h 9 7) 0 (immCb h))
  | _ => some (.branch .ne (8 + bits h 9 7) 0 (immCb h))

/-- Quadrant 2. -/
def rvQuad2 (h : Nat) : Option RvInst :=
  let rd := bits h 11 7
  let rs := bits h 6 2
  match bits h 15 13 with
  | 0 => some (.aluImm .sll false rd rd (bits h 12 12 * 2 ^ 5 + rs : Nat))
  | 2 => if rd = 0 then none else some (.load rd 2 (bits h 3 2 * 2 ^ 6 + bits h 12 12 * 2 ^ 5 + bits h 6 4 * 2 ^ 2 : Nat) 4 true)
  | 3 => if rd = 0 then none else some (.load rd 2 (bits h 4 2 * 2 ^ 6 + bits h 12 12 * 2 ^ 5 + bits h 6 5 * 2 ^ 3 : Nat) 8 true)
  | 4 =>
    if bits h 12 12 = 0 then
      (if rs ≠ 0 then some (.alu .add false rd 0 rs) else if rd = 0 then none else some (.jalr 0 rd 0))
    else if rs ≠ 0 then some (.alu .add false rd rd rs)
    else if rd = 0 then some .ebreak
    else some (.jalr 1 rd 0)
  | 6 => some (.store 2 rs (bits h 8 7 * 2 ^ 6 + bits h 12 9 * 2 ^ 2 : Nat) 4)
  | 7 => some (.store 2 rs (bits h 9 7 * 2 ^ 6 + bits h 12 10 * 2 ^ 3 : Nat) 8)
  | _ => none

/-- The instruction of a 16-bit encoding; 0x0000 is illegal (R177). -/
def rvDecode16 (h : Nat) : Option RvInst :=
  match bits h 1 0 with
  | 0 => rvQuad0 h
  | 1 => rvQuad1 h
  | _ => rvQuad2 h

end Sys2Proof.Machine
end

