-- ==== Sys2Proof/Machine/Keeper.lean ====
section
/-! DEFINITION. The Keeper core: its address map and CSRs, the instructions of a routine, CALL of kind KEEPER, emitted descriptors, and
the four ways a routine ends (R174 to R177). A routine runs on to its next event when the command of that event comes. -/

namespace Sys2Proof.Machine

/-- The routine that runs on engine e, with its open CALL. -/
def State.routineCall (s : State) (e : Nat) : Option (Routine × OpenOp) :=
  match (s.eng e).routine with
  | none => none
  | some r => ((s.queue e r.q).ops.find? fun o => decide (Desc.op o.desc = Op.call)).map fun o => (r, o)

/-! ### The address map and the CSRs (R174, R175) -/

/-- Where [a, a + n) lies for a routine on engine e: in the active bank, or in the data slot of its context. -/
inductive KeeperSite
  | bank (ofs : Nat)
  | data (ofs : Nat)
  | nowhere
  deriving DecidableEq, Repr

/-- The Keeper's address map. -/
def keeperSite (a n : Nat) : KeeperSite :=
  if a + n ≤ 0x8000 then .bank a
  else if 0x10000000 ≤ a ∧ a + n ≤ 0x10008000 then .data (a - 0x10000000)
  else .nowhere

/-- Bytes of the active instruction bank. -/
def State.bankBytes (s : State) (e ofs n : Nat) : List Byte :=
  tabGetList (fun _ => 0) s.imem ((2 * e + (s.eng e).activeBank) * 32768 + ofs) n

/-- TCK_TIME at cycle c: µs since the boundary, and ACLK within the µs. -/
def State.tckTimeAt (s : State) (c : Nat) : Nat :=
  if s.tick.on && s.tick.placed then
    let n := c - s.tick.boundary
    n / 1100 % 2 ^ 24 + n % 1100 * 2 ^ 24
  else 0

/-- The machine CSRs of engine e's core. -/
def State.setCsr (s : State) (e : Nat) (c : KeeperCsr) : State := s.setEng e { s.eng e with csr := c }

/-- The cycle in which the core executes an instruction: after the last one known and not after now. The manual gives the core no timing
(free value). -/
def State.coreCycle (s : State) (r : Routine) : Nat × Routine × State :=
  let (k, s) := s.freeNat
  let c := r.seen + k % (s.now - r.seen + 1)
  (c, { r with seen := c }, s)

/-- The value of a CSR; none: it does not exist. What kemit reads as the manual does not say (free value). -/
def State.csrRead (s : State) (e : Nat) (r : Routine) (o : OpenOp) (num : Nat) : Option (Word × Routine × State) :=
  let c := (s.eng e).csr
  let is := fun (v : Word) => some (v, r, s)
  if num = 0xB00 then
    let (t, r, s) := s.coreCycle r
    some (BitVec.ofNat 64 t + c.cycleOfs, r, s)
  else if num = 0xB02 then is c.instret
  else if num = 0x341 then is c.epc
  else if num = 0x342 then is c.cause
  else if num = 0x343 then is c.tval
  else if num = 0x7C0 then
    let (v, s) := s.freeNat
    some (BitVec.ofNat 64 v, r, s)
  else if num = 0xFC0 then is (BitVec.ofNat 64 r.q)
  else if num = 0xFC1 then is (BitVec.ofNat 64 (Desc.seq o.desc))
  else if num = 0xFC2 then is (BitVec.ofNat 64 o.issue)
  else if num = 0xFC3 then is (BitVec.ofNat 64 o.level)
  else if num = 0xFC4 then
    let (t, r, s) := s.coreCycle r
    some (BitVec.ofNat 64 (s.tckTimeAt t), r, s)
  else none

/-- Writes one of the machine CSRs; mcycle then counts on from v. -/
def State.csrWrite (s : State) (e : Nat) (r : Routine) (num : Nat) (v : Word) : State :=
  let c := (s.eng e).csr
  if num = 0xB00 then s.setCsr e { c with cycleOfs := v - BitVec.ofNat 64 r.seen }
  else if num = 0xB02 then s.setCsr e { c with instret := v }
  else if num = 0x341 then s.setCsr e { c with epc := v &&& ~~~1 }
  else if num = 0x342 then s.setCsr e { c with cause := v }
  else if num = 0x343 then s.setCsr e { c with tval := v }
  else s

/-! ### One instruction -/

/-- How an instruction, or a run of them, ends. -/
inductive RvEnd
  | goes (s : State) (r : Routine)
  /-- a descriptor has been emitted from `addr` -/
  | emits (s : State) (r : Routine) (addr : Nat)
  /-- ECALL -/
  | returns (s : State) (r : Routine)
  /-- an exception at `pc`; `kemit`: what was written to kemit, when that raised it -/
  | traps (s : State) (r : Routine) (cause pc : Nat) (kemit : Option Nat)

/-- A register; x0 is 0. -/
def Routine.reg (r : Routine) (i : Nat) : Word := if i = 0 then 0 else r.regs.getD i 0

/-- Sets a register. -/
def Routine.setReg (r : Routine) (i : Nat) (v : Word) : Routine := if i = 0 then r else { r with regs := r.regs.set i v }

/-- An exception: mcause, mepc and mtval; where the manual leaves mtval open it is a free value. -/
def State.rvTrap (s : State) (e : Nat) (r : Routine) (cause : Nat) (tval : Option Word) (kemit : Option Nat) : RvEnd :=
  let (v, s) := match tval with
    | some v => (v, s)
    | none =>
      let (k, s) := s.freeNat
      (BitVec.ofNat 64 k, s)
  let s := s.setCsr e { (s.eng e).csr with cause := BitVec.ofNat 64 cause, epc := r.pc, tval := v }
  .traps s r cause r.pc.toNat kemit

/-- An instruction has retired, and the core goes on at `pc`. -/
def State.rvGo (s : State) (e : Nat) (r : Routine) (pc : Word) : RvEnd :=
  .goes (s.setCsr e { (s.eng e).csr with instret := (s.eng e).csr.instret + 1 }) { r with pc := pc }

/-- Whether an access at a of n bytes that is not aligned raises an exception; the manual and the architecture leave it open. -/
def misaligned (a n : Nat) : Bool := decide (a % n ≠ 0) && Config.keeperAligns

/-- A load. -/
def State.rvLoad (s : State) (e : Nat) (r : Routine) (rd a n : Nat) (signed : Bool) (next : Word) : RvEnd :=
  if misaligned a n then s.rvTrap e r 4 (some (BitVec.ofNat 64 a)) none else
  let put := fun (bs : List Byte) =>
    let v := leNat bs
    s.rvGo e (r.setReg rd (if signed then sxReg (toSigned (8 * n) v) else BitVec.ofNat 64 v)) next
  match keeperSite a n with
  | .bank ofs => put (s.bankBytes e ofs n)
  | .data ofs => put (s.kload e (r.q * 32768 + ofs) n)
  | .nowhere => s.rvTrap e r 5 (some (BitVec.ofNat 64 a)) none

/-- A store: only the data slot is writable. -/
def State.rvStore (s : State) (e : Nat) (r : Routine) (a n : Nat) (v : Word) (next : Word) : RvEnd :=
  if misaligned a n then s.rvTrap e r 6 (some (BitVec.ofNat 64 a)) none else
  match keeperSite a n with
  | .data ofs => (s.kstore e (r.q * 32768 + ofs) (leBytes n v.toNat)).rvGo e r next
  | _ => s.rvTrap e r 7 (some (BitVec.ofNat 64 a)) none

/-- A write of kemit: the 17th raises an illegal-instruction exception (R177); an address that holds no descriptor in data memory an
access fault (assumption log 38). -/
def State.rvEmit (s : State) (e : Nat) (r : Routine) (a : Nat) (rd : Nat) (old : Word) (next : Word) : RvEnd :=
  if 16 ≤ r.emitted.length then s.rvTrap e r 2 none (some a)
  else if a < 0x10000000 ∨ 0x10008000 < a + 64 then s.rvTrap e r 7 (some (BitVec.ofNat 64 a)) (some a)
  else
    let d := descOf (s.kload e (r.q * 32768 + (a - 0x10000000)) 64)
    match s.rvGo e ({ r with emitted := r.emitted ++ [d] }.setReg rd old) next with
    | .goes s r => .emits s r a
    | x => x

/-- A CSR instruction. One that does not exist, or that only reads and would be written, is illegal. -/
def State.rvCsr (s : State) (e : Nat) (r : Routine) (o : OpenOp) (op : RvCsr) (imm : Bool) (rd src num : Nat) (next : Word) : RvEnd :=
  let writes := decide (op = .write) || decide (src ≠ 0)
  if writes && decide (0xC00 ≤ num) then s.rvTrap e r 2 none none else
  match s.csrRead e r o num with
  | none => s.rvTrap e r 2 none none
  | some (old, r, s) =>
    let v := if imm then BitVec.ofNat 64 src else r.reg src
    let v := match op with
      | .write => v
      | .set => old ||| v
      | .clear => old &&& ~~~v
    if writes && decide (num = 0x7C0) then s.rvEmit e r v.toNat rd old next
    else
      match s.rvGo e (r.setReg rd old) next with
      | .goes s r => .goes (if writes then s.csrWrite e r num v else s) r
      | x => x

/-- An instruction; `next` is the address behind it. -/
def State.rvExec (s : State) (e : Nat) (r : Routine) (o : OpenOp) (next : Word) (i : RvInst) : RvEnd :=
  let addr := fun (rs : Nat) (ofs : Int) => (r.reg rs + sxReg ofs).toNat
  match i with
  | .lui rd imm => s.rvGo e (r.setReg rd (sxReg imm)) next
  | .auipc rd imm => s.rvGo e (r.setReg rd (r.pc + sxReg imm)) next
  | .jal rd ofs => s.rvGo e (r.setReg rd next) (r.pc + sxReg ofs)
  | .jalr rd rs ofs => s.rvGo e (r.setReg rd next) ((r.reg rs + sxReg ofs) &&& ~~~1)
  | .branch c a b ofs => s.rvGo e r (if c.holds (r.reg a) (r.reg b) then r.pc + sxReg ofs else next)
  | .load rd rs ofs n signed => s.rvLoad e r rd (addr rs ofs) n signed next
  | .store rs src ofs n => s.rvStore e r (addr rs ofs) n (r.reg src) next
  | .aluImm op word rd rs imm => s.rvGo e (r.setReg rd (op.on word (r.reg rs) (sxReg imm))) next
  | .alu op word rd a b => s.rvGo e (r.setReg rd (op.on word (r.reg a) (r.reg b))) next
  | .fence => s.rvGo e r next
  | .ecall => .returns (s.setCsr e { (s.eng e).csr with cause := 11, epc := r.pc }) r
  | .ebreak => s.rvTrap e r 3 none none
  | .mret => s.rvGo e r (s.eng e).csr.epc
  | .csr op imm rd src num => s.rvCsr e r o op imm rd src num next

/-- Fetches, decodes and executes one instruction: only the active bank is executable. -/
def State.rvStep (s : State) (e : Nat) (r : Routine) (o : OpenOp) : RvEnd :=
  let pc := r.pc.toNat
  if 0x8000 < pc + 2 then s.rvTrap e r 1 (some r.pc) none else
  let h := leNat (s.bankBytes e pc 2)
  let long := decide (h % 4 = 3)
  if long && decide (0x8000 < pc + 4) then s.rvTrap e r 1 (some (r.pc + 2)) none else
  match (if long then rvDecode32 (leNat (s.bankBytes e pc 4)) else rvDecode16 h) with
  | none => s.rvTrap e r 2 none none
  | some i => s.rvExec e r o (r.pc + (if long then 4 else 2)) i

/-- At most n instructions, up to the next event of the routine. -/
def State.rvRun (s : State) (e : Nat) (r : Routine) (o : OpenOp) : Nat → RvEnd
  | 0 => .goes s r
  | n + 1 =>
    match s.rvStep e r o with
    | .goes s r => s.rvRun e r o n
    | x => x

/-- What n instructions, none of them an event, leave behind. -/
def State.rvStop (s : State) (e : Nat) (r : Routine) (o : OpenOp) : Nat → State
  | 0 => s
  | n + 1 =>
    match s.rvStep e r o with
    | .goes s r => s.rvStop e r o n
    | _ => s

/-! ### The ends of a routine (R176, R177) -/

/-- The routine is over: the Keeper is free, and a swap that waited for it takes effect (R179). -/
def State.routineOver (s : State) (e : Nat) : State :=
  let s := s.setEng e { s.eng e with routine := none }
  if (s.eng e).swapAtReturn then s.swapBanks e else s

/-- A routine ends other than by a return of 0: its emitted descriptors are discarded, and its CALL ends FAULTED (R176,
R177). -/
def State.routineFails (s : State) (e : Nat) (r : Routine) (o : OpenOp) (f : OpFault) : State :=
  (s.routineOver e).endOp e r.q o (.faulted f)

/-- An exception in the routine: ENG_KPR_TRAP, and F_KEEPER_TRAP (R176). -/
def State.keeperTrapped (s : State) (e : Nat) (r : Routine) (o : OpenOp) (mcause mepc : Nat) : State :=
  let s := s.wr (Reg.engKprTrap e) (mcause % 256 + mepc % 65536 * 2 ^ 16 + o.issue * 2 ^ 32)
  s.routineFails e r o ⟨F.keeperTrap, 0, 0⟩

/-- A routine returns 0: what it emitted is pushed as a level, unless the CALL was asked to abort (R176, R177). -/
def State.routineReturns (s : State) (e : Nat) (r : Routine) (o : OpenOp) : State :=
  let s := s.routineOver e
  let x := s.queue e r.q
  if o.abort ∨ r.emitted.isEmpty then s.endOp e r.q o .completed
  else if 4 ≤ x.stack.length then s.endOp e r.q o (.faulted ⟨F.listDepth, 0, 0⟩)
  else (s.setQueue e r.q (x.push { count := r.emitted.length, emitted := r.emitted })).endOp e r.q o .completed

/-- A routine that is still running after MAX_CYCLES is stopped, n instructions on. -/
def State.routineTimesOut (s : State) (e : Nat) (r : Routine) (o : OpenOp) (n : Nat) : State :=
  (s.rvStop e r o n).routineFails e r o ⟨F.keeperTimeout, 0, 0⟩

/-- The routine on engine e runs on to its next event, at most n instructions away, and f says what that leads to. One whose MAX_CYCLES are
over has been stopped; how far it had come by then the manual does not say (free value). -/
def State.runRoutine (s : State) (e n : Nat) (f : OpenOp → RvEnd → State) : State :=
  match s.routineCall e with
  | none => s
  | some (r, o) =>
    if r.startedAt + r.maxCycles < s.now then
      let (k, s) := s.freeNat
      s.routineTimesOut e r o (k % (r.maxCycles + 1))
    else f o (s.rvRun e r o n)

/-! ### Meanings -/

/-- Issue of CALL KEEPER: an odd entry offset, a MAX_CYCLES of 0 or a set RSV bit is invalid (R176). The registers that carry no argument
hold what the manual leaves open (free values). -/
def State.callKeeperBody (s : State) (site : Site) (o : OpenOp) : Issue :=
  let d := o.desc
  if Desc.opx d 19 18 ≠ 0 ∨ Desc.opx d 34 20 % 2 = 1 ∨ Desc.opx d 63 48 = 0 then .fault (invalidAt 0) else
  let regs := (List.range 32).map fun i =>
    if 10 ≤ i ∧ i < 15 then BitVec.ofNat 64 (Desc.arg d (i - 10)) else BitVec.ofNat 64 (Config.freeNat (s.free + i))
  let r : Routine := { q := site.q, maxCycles := Desc.opx d 63 48, startedAt := s.now, pc := BitVec.ofNat 64 (Desc.opx d 34 20),
                       regs := regs, seen := s.now }
  .opens ({ s with free := s.free + 32 }.setEng site.e { s.eng site.e with routine := some r }) o

/-- CALL_KEEPER (R176): it issues once the Keeper runs no other routine (R159). -/
def execCallKeeper (t : Nat) (e : Fin 96) (q : Fin 4) (s : State) : Host.Outcome State Fault Refusal :=
  let s := s.advance t
  if s.stopped then .next s else
  .next (if (s.eng e).routine.isSome then s
    else s.issueNext e q (fun d => decide (d.op = Op.call) && decide (d.opx 17 16 = 1)) (fun _ => false)
      State.callKeeperBody)

/-- KEMIT (R175, R177): the routine writes kemit. An event that is not the routine's next changes nothing. -/
def execKemit (t : Nat) (e : Fin 96) (n : Nat) (addr : BitVec 64) (s : State) : Host.Outcome State Fault Refusal :=
  .next (s.live t fun s => s.runRoutine e n fun o x => match x with
    | .emits s' r a => if a = addr.toNat then s'.setEng e { s'.eng e with routine := some { r with seen := s.now } } else s
    | .traps s' r cause pc (some a) => if a = addr.toNat then s'.keeperTrapped e r o cause pc else s
    | _ => s)

/-- KEEPER_RETURN (R176): the routine executes ECALL, with its result in a0. -/
def execKeeperReturn (t : Nat) (e : Fin 96) (n : Nat) (a0 : BitVec 64) (s : State) : Host.Outcome State Fault Refusal :=
  .next (s.live t fun s => s.runRoutine e n fun o x => match x with
    | .returns s' r => if r.reg 10 ≠ a0 then s else if a0 = 0 then s'.routineReturns e r o
      else s'.routineFails e r o ⟨F.keeperRet, 0, a0.toNat % 2 ^ 32⟩
    | _ => s)

/-- KEEPER_TRAP (R176): an exception ends the routine. -/
def execKeeperTrap (t : Nat) (e : Fin 96) (n mcause mepc : Nat) (s : State) : Host.Outcome State Fault Refusal :=
  .next (s.live t fun s => s.runRoutine e n fun o x => match x with
    | .traps s' r cause pc _ => if cause = mcause ∧ pc = mepc then s'.keeperTrapped e r o cause pc else s
    | _ => s)

/-- KEEPER_TIMEOUT (R176): due once MAX_CYCLES have passed. -/
def execKeeperTimeout (t : Nat) (e : Fin 96) (n : Nat) (s : State) : Host.Outcome State Fault Refusal :=
  .next (s.live t fun s => match s.routineCall e with
    | none => s
    | some (r, o) => if s.now < r.startedAt + r.maxCycles then s else s.routineTimesOut e r o n)

end Sys2Proof.Machine
end

