-- ==== Sys2Proof/Machine/QueueCtl.lean ====
section
/-! DEFINITION. The control of queues and instruction banks by register writes: enabling and disabling (R185, R186), RESUME,
ABORT and RESET (R182, R183), ENG_IMEM_SWAP and ENG_IMEM_WIN (R178, R179). -/

namespace Sys2Proof.Machine

/-- The ring and the completion ring are aligned to their own sizes (R143). -/
def State.ringsAligned (s : State) (e q v : Nat) : Bool :=
  decide (s.rd (Reg.engQBase e q) % 2 ^ (bits v 12 8 + 6) = 0) &&
    decide (s.rd (Reg.engQCompDa e q) % 2 ^ (bits v 20 16 + 5) = 0)

/-- Reads the TAIL that becomes HEAD; a TRIGGER queue has no tail line, and keeps its HEAD (R151, R185). -/
def State.firstTail (s : State) (e q : Nat) : State :=
  if bit (s.rd (Reg.engQCfg e q)) 1 then s.settle e q (s.queue e q).state
  else (s.setQueue e q { s.queue e q with fresh := true }).readTail e q .ok

/-- A queue is enabled with configuration v: ISSUE is 0 and HEAD the TAIL then read (R185). -/
def State.enableQueue (s : State) (e q v : Nat) : State :=
  let s := s.wr (Reg.engQCfg e q) v
  let h := (s.queue e q).head
  let x : QueueSt := { head := h, tail := h, seen := h, next := h }
  let s := s.setQueue e q { x with state := .idle }
  (s.writeStatusLine e q).firstTail e q

/-- A write of ENG_Q_CFG: while the queue is not DISABLED it is dropped, but for one that only clears ENABLE (R186); one that
would enable a queue whose rings are misaligned is dropped too. -/
def State.writeQCfg (s : State) (e q v : Nat) : State :=
  let x := s.queue e q
  let old := s.rd (Reg.engQCfg e q)
  if x.state = .disabled then
    (if !bit v 0 then s.wr (Reg.engQCfg e q) v
     else if s.ringsAligned e q v then s.enableQueue e q v
     else s.regAccess (Reg.engQCfg e q))
  else if bit old 0 ∧ v = putBits old 0 0 0 then
    ((s.wr (Reg.engQCfg e q) v).setQueue e q { x with stopping := true }).settle e q x.state
  else s.regAccess (Reg.engQCfg e q)

/-- An abort directed at a queue (R183). It leaves a HALTED queue halted; a sweep that failed in the same cycle keeps its record, and the
queue is HALTED by the abort (R184). -/
def State.abortQueue (s : State) (e q : Nat) : State :=
  let x := s.queue e q
  if x.state = .disabled then s
  else if x.state = .halted then
    let cause := if x.cause = .faulted ∧ x.recordAt = s.now then .aborted else x.cause
    s.setQueue e q { x.abortOps (fun _ => true) with cause := cause }
  else
    let s := s.setQueue e q { x.abortOps (fun _ => true) with abortedAt := x.fetched.head?.map (s.now, ·) }
    if x.ops.isEmpty then s.haltQueue e q .aborted else s

/-- An abort directed at a context, wherever it is (R183). A context in Hatch is aborted there at once (R381). -/
def State.abortCtx (s : State) (e k : Nat) : State :=
  let c := s.ctx e k
  match c.place, c.saved with
  | .resident, _ => (s.abortQueue e c.slot).dropSaved e k
  | _, some _ => s.abortInHatch e k (fun _ => true) ⟨0, 0, 0⟩
  | _, none => s

/-- RESET of a queue in IDLE or HALTED: the level stack and the trigger FIFO are cleared, whose triggers return their row
credits (R337), job steps on the ring are gone, and HEAD becomes the TAIL then read. -/
def State.resetQueue (s : State) (e q : Nat) : State :=
  let x := s.queue e q
  if x.state = .idle ∨ x.state = .halted then
    let s := x.fifo.foldl (fun s a => s.returnCredit e a) s
    let s := match s.slotCtx e q with
      | some k => s.setCtx e k { s.ctx e k with job := none, later := [] }
      | none => s
    (s.setQueue e q { x.unfetch with stack := [], fifo := [] }).firstTail e q
  else s.regAccess (Reg.engQCtrl e q)

/-- RESUME of a HALTED queue: it goes on with the next entry at the current level (R183). -/
def State.resumeQueue (s : State) (e q : Nat) : State :=
  let x := s.queue e q
  if x.state = .halted then
    (s.setQueue e q { x with state := .idle, cause := .none, haltAfter := none }).settle e q .halted
  else s

/-- A write of ENG_Q_CTRL; bits set together take effect in the order ABORT, RESET, RESUME (assumption log 52). -/
def State.writeQCtrl (s : State) (e q v : Nat) : State :=
  let s := if bit v 1 then s.abortQueue e q else s
  let s := if bit v 2 then s.resetQueue e q else s
  if bit v 0 then s.resumeQueue e q else s

/-- A write of ENG_IMEM_SWAP (R179). -/
def State.writeImemSwap (s : State) (e v : Nat) : State :=
  if bit v 0 then s.setEng e { s.eng e with swapPending := true } else s

/-- Doubleword i of an instruction bank. -/
def State.imemWord (s : State) (e bank i : Nat) : Nat :=
  leNat (tabGetList (fun _ => 0) s.imem ((2 * e + bank) * 32768 + 8 * i) 8)

/-- Stores bytes in an instruction bank. -/
def State.imemStore (s : State) (e bank ofs : Nat) (bs : List Byte) : State :=
  { s with imem := tabSetList (fun _ => 0) s.imem ((2 * e + bank) * 32768 + ofs) bs }

/-- A write of ENG_IMEM_WIN_i (R178). -/
def State.writeImemWin (s : State) (e i v : Nat) : State :=
  let bank := s.fld (Reg.engImemSel e) 0 0
  if bank = (s.eng e).activeBank ∨ (s.eng e).swapPending then
    postFault (s.event (Reg.engQIntStatus e) 12)
      { code := F.imemActive, cls := Class.info, block := Blk.eng, unit := e,
        payload := defaultPayload (Reg.engImemWin e i) 0 0 e 0 }
  else s.imemStore e bank (8 * i) (leBytes 8 v)

end Sys2Proof.Machine
end

