-- ==== Sys2Proof/Machine/Contexts.lean ====
section
/-! DEFINITION. Contexts: creation and removal, Hatch, aborts, pre-emption, swaps, and the answers of remote requests (R367 to
R383, R391, R393). -/

namespace Sys2Proof.Machine

/-! ### Which contexts exist (R370) -/

/-- CTX_LIMIT. -/
def State.ctxLimit (s : State) : Nat := s.fld Reg.schStatus 4 0

/-- The contexts that a Hatch of n bytes holds; a Hatch below 96 MiB starts no context and raises F_SCHED_CFG (R370). From
here on SCH_STATUS shows that no engine is in a slot (assumption log 64). -/
def State.fixHatch (s : State) (n : Nat) : State :=
  let s := (s.wr Reg.pntHatchSize n).setFld Reg.schStatus 14 8 0x7F
  if n < 100663296 then
    postFault ((s.setFld Reg.schStatus 4 0 0).event Reg.schIntStatus 3)
      { code := F.schedCfg, cls := Class.degraded, block := Blk.sch, payload := defaultPayload n 0 0 0 0 }
  else s.setFld Reg.schStatus 4 0 (min 16 (n / 25165824))

/-- Engine and context that SCH_CTX_SEL names. -/
def State.selected (s : State) : Nat × Nat := (s.fld Reg.schCtxSel 6 0, s.fld Reg.schCtxSel 10 7)

/-- Whether engine e has a context k. -/
def State.ctxExists (s : State) (e k : Nat) : Bool := decide (e < 96) && decide (k < s.ctxLimit)

/-- DA of the save area of a context (R371). -/
def saveArea (e k : Nat) : Nat := (k * 96 + e) * 262144

/-! ### Slots and Hatch (R371, R372, R376) -/

/-- The lowest free slot of an engine. -/
def State.freeSlot (s : State) (e : Nat) : Option Nat := (List.range 4).find? fun q => (s.slotCtx e q).isNone

/-- The queue registers of a slot take a context's values. -/
def State.putQRegs (s : State) (e q : Nat) (c : Ctx) : State :=
  ((((s.wr (Reg.engQCfg e q) c.qCfg).wr (Reg.engQBase e q) c.qBase).wr (Reg.engQTailDa e q) c.qTail).wr
    (Reg.engQStatusDa e q) c.qStatus).wr (Reg.engQCompDa e q) c.qComp

/-- A context with the queue registers of a slot. -/
def State.getQRegs (s : State) (e q : Nat) (c : Ctx) : Ctx :=
  { c with qCfg := s.rd (Reg.engQCfg e q), qBase := s.rd (Reg.engQBase e q), qTail := s.rd (Reg.engQTailDa e q),
           qStatus := s.rd (Reg.engQStatusDa e q), qComp := s.rd (Reg.engQCompDa e q) }

/-- The bytes of a Keeper data slot that are not 0, by offset. -/
def State.dataSlot (s : State) (e q : Nat) : List (Nat × Byte) :=
  let lo := e * 131072 + q * 32768
  (s.kdata.filter fun x => decide (lo ≤ x.1) && decide (x.1 < lo + 32768)).map fun x => (x.1 - lo, x.2)

/-- A Keeper data slot holds these bytes, and 0 elsewhere. -/
def State.putDataSlot (s : State) (e q : Nat) (bs : List (Nat × Byte)) : State :=
  let lo := e * 131072 + q * 32768
  let rest := s.kdata.filter fun x => !(decide (lo ≤ x.1) && decide (x.1 < lo + 32768))
  { s with kdata := bs.foldl (fun m x => tabSet (fun _ => 0) m (lo + x.1) x.2) rest }

/-- Context k becomes resident in slot q with its queue and data. -/
def State.enterSlot (s : State) (e k q : Nat) : State :=
  let c := s.ctx e k
  let s := (s.putQRegs e q c).setQueue e q (c.saved.getD {})
  let s := s.putDataSlot e q c.savedData
  s.setCtx e k { c with place := .resident, slot := q, saved := none, savedData := [] }

/-- Context k leaves its slot for Hatch, or is removed: the slot is left with no queue, and with the bytes that its data memory held
(assumption log 68). -/
def State.leaveSlot (s : State) (e k : Nat) (place : CtxPlace) : State :=
  let c := s.ctx e k
  let q := c.slot
  let x := s.queue e q
  let c := s.getQRegs e q c
  let c := { c with place := place, saved := some x, savedData := s.dataSlot e q, running := false, accSaved := x.liveAcc }
  ((s.setCtx e k c).setQueue e q {}).putQRegs e q {}

/-- Counts a swap. -/
def State.countSwap (s : State) : State := s.bump Reg.schPreemptCount 63 32 1

/-! ### Creation and removal (R372, R393) -/

/-- The queue that a context is created with: enabled by its ENABLE, its HEAD the TAIL then read (R185). -/
def State.newQueue (s : State) (c : Ctx) : QueueSt :=
  if !bit c.qCfg 0 then {}
  else if bit c.qCfg 1 then { state := .idle }
  else if (s.memFault c.qTail 4).isSome ∨ s.holdsBytes c.qTail 4 = false then { state := .idle, fresh := true }
  else
    let t := s.loadNat c.qTail 4
    { state := .idle, head := t, tail := t, seen := t, next := t }

/-- The Shelf blocks of a context: from the first, how many. -/
def Ctx.shelf (c : Ctx) : Nat × Nat := (bits c.cfg 42 32, bits c.cfg 53 43)

/-- Whether the Shelf region of context k meets that of another context of the engine (R372). -/
def State.shelvesMeet (s : State) (e k : Nat) : Bool :=
  let (a, n) := (s.ctx e k).shelf
  (List.range 16).any fun j =>
    let (b, m) := (s.ctx e j).shelf
    decide (j ≠ k) && bit (s.ctx e j).cfg 0 && decide (a < b + m) && decide (b < a + n)

/-- A partition has broken an obligation whose breach has no stated behaviour (R4). -/
def State.breach (s : State) (p : Nat) : State := if p ∈ s.broken then s else { s with broken := s.broken ++ [p] }

/-- Context k is created: resident in the lowest free slot, whose data memory it takes as it stands, else in Hatch. A Shelf region that meets
another's is no fault: the partition's results are undefined (R4, R372). -/
def State.createCtx (s : State) (e k v : Nat) : State :=
  let old := s.ctx e k
  let c : Ctx := { cfg := v, qCfg := old.qCfg, qBase := old.qBase, qTail := old.qTail, qStatus := old.qStatus,
                   qComp := old.qComp, place := .swapped, saved := some (s.newQueue old), blockedAt := s.now }
  let s := s.setCtx e k c
  let s := if s.shelvesMeet e k then s.breach c.part else s
  match s.freeSlot e with
  | some q => if s.inSlot e then s else
      ((s.setCtx e k { c with savedData := s.dataSlot e q }).enterSlot e k q).writeStatusLine e q
  | none => s

/-- Context k is removed. -/
def State.deleteCtx (s : State) (e k v : Nat) : State :=
  let s := if (s.ctx e k).place = .resident then s.leaveSlot e k .free else s
  let c := s.ctx e k
  s.setCtx e k { cfg := v, qCfg := c.qCfg, qBase := c.qBase, qTail := c.qTail, qStatus := c.qStatus, qComp := c.qComp }

/-- The fields of SCH_CTX_CFG that a write may change while VALID is 1. -/
def freeCtxFields (v : Nat) : Nat := putBits (putBits v 7 4 0) 0 0 0

/-- A write of SCH_CTX_CFG (R372, R393). -/
def State.writeCtxCfg (s : State) (v : Nat) : State :=
  let (e, k) := s.selected
  if s.ctxExists e k = false then s.regAccess Reg.schCtxCfg else
  let c := s.ctx e k
  let x := s.ctxQueue e k
  if !bit c.cfg 0 then (if bit v 0 then s.createCtx e k v else s.setCtx e k { c with cfg := v })
  else if freeCtxFields v ≠ freeCtxFields c.cfg then s.regAccess Reg.schCtxCfg
  else if bit v 0 then s.setCtx e k { c with cfg := v }
  else if x.ops.isEmpty ∧ (x.state = .disabled ∨ x.state = .idle ∨ x.state = .halted) then s.deleteCtx e k v
  else s.regAccess Reg.schCtxCfg

/-- A write of an SCH_CTX_Q register: `i` counts them from SCH_CTX_Q_CFG (R393). -/
def State.writeCtxQ (s : State) (i v : Nat) : State :=
  let (e, k) := s.selected
  let c := s.ctx e k
  if s.ctxExists e k = false ∨ bit c.cfg 0 = true then s.regAccess (Reg.schCtxQCfg + 8 * i) else
  s.setCtx e k (match i with
    | 0 => { c with qCfg := v }
    | 1 => { c with qBase := v }
    | 2 => { c with qTail := v }
    | 3 => { c with qStatus := v }
    | _ => { c with qComp := v })

/-- A read of an SCH_CTX_Q register. -/
def State.readCtxQ (s : State) (i : Nat) : Nat :=
  let (e, k) := s.selected
  if s.ctxExists e k = false then 0 else
  let c := s.ctx e k
  let c := if c.place = .resident then s.getQRegs e c.slot c else c
  match i with
  | 0 => c.qCfg
  | 1 => c.qBase
  | 2 => c.qTail
  | 3 => c.qStatus
  | _ => c.qComp

/-- SCH_CTX_STATE.STATE (R373). -/
def State.ctxStateCode (s : State) (e k : Nat) : Nat :=
  let c := s.ctx e k
  let ready := decide (s.blockCause e k = 0)
  match c.place with
  | .free => 0
  | .resident => if c.running && ready then 1 else if ready then 2 else 3
  | .swapped => if ready then 4 else 5
  | .saving => 6
  | .restoring => 7
  | .withdrawn => 8

/-- SCH_CTX_STATE of the selected context. -/
def State.readCtxState (s : State) : Nat :=
  let (e, k) := s.selected
  let c := s.ctx e k
  if s.ctxExists e k = false ∨ c.place = .free then 0 else
  let cause := s.blockCause e k
  let since := if cause = 0 then 0 else if c.blocked then (s.now - c.blockedAt) / 1100 else 0
  s.ctxStateCode e k + cause * 2 ^ 4 + (if c.place = .resident then c.slot else 0) * 2 ^ 8 + b2n c.accSaved * 2 ^ 10 +
    c.tags.length % 512 * 2 ^ 11 + min since (2 ^ 32 - 1) * 2 ^ 32

/-! ### Aborts (R381 to R383) -/

/-- A context is lost: its record, its fault record, and what Hatch held of it (R383). -/
def State.loseCtx (s : State) (e k da : Nat) : State :=
  let s := s.abortInHatch e k (fun _ => true) ⟨F.memUe, da, 0⟩
  let c := s.ctx e k
  let s := s.setCtx e k { c with savedData := [], tags := [], landing := [], accSaved := false, lost := some da,
                                 place := if c.place = .withdrawn then .withdrawn else .swapped }
  postFault s { code := F.memUe, cls := Class.contained, block := Blk.sch, part := c.part,
                payload := defaultPayload da 0 0 e 0 }

/-- A map-out displaces bytes that the test names: contexts whose save areas hold some are lost (R383). -/
def State.loseDisplaced (s : State) (gone : Nat → Bool) : State :=
  s.ctxs.foldl (fun s x =>
    let e := x.1 / 16
    let k := x.1 % 16
    if x.2.place = .free ∨ x.2.place = .resident then s else
    match (List.range 1024).find? fun i => gone (saveArea e k + 256 * i) with
    | some i => s.loseCtx e k (saveArea e k + 256 * i)
    | none => s) s

/-- Whether an open macro-op of a resident context stands at a step boundary, making no progress (R381): one whose context has left the
engine there, one that awaits only responses, and a WAIT or FENCE, of which any cycle is a boundary (R158). -/
def State.atRest (c : Ctx) (o : OpenOp) : Bool :=
  (needsEngine (Desc.op o.desc) && !c.running &&
    (o.stepDue || !o.full.isEmpty || (decide (Desc.op o.desc = Op.pulse) && !o.finished))) || c.awaits o ||
    (decide (Desc.op o.desc = Op.wait ∨ Desc.op o.desc = Op.fence) && !o.finished)

/-- Context k gives up what it asked of other modules, and its saved accumulators. -/
def State.releaseCtx (s : State) (e k : Nat) : State :=
  s.setCtx e k { s.ctx e k with tags := [], landing := [], remoteErr := none, accSaved := false }

/-- SCH_CTX_CTRL.ABORT of a context (R381), before a placement on it in the same cycle (R391). -/
def State.abortContext (s : State) (e k : Nat) : State :=
  let c := s.ctx e k
  match c.place with
  | .free => s
  | .resident =>
    let x := s.queue e c.slot
    if x.state = .disabled ∨ (x.state = .halted ∧ x.ops.isEmpty) then s
    else
      let s := s.inOrder (ctxPlace e k) 0
      let atRest := (s.queue e c.slot).ops.filter (State.atRest (s.ctx e k) ·)
      let s := (s.releaseCtx e k).abortQueue e c.slot
      atRest.foldl (fun s o => s.stopOpen e c.slot k { o with abort := true } none) s
  | _ => (s.inOrder (ctxPlace e k) 0).abortInHatch e k (fun _ => true) ⟨0, 0, 0⟩

/-- Whether every writeback buffer of a context has drained: the drain lies under the save (R224). -/
def State.drained (s : State) (e k : Nat) : Bool := (s.ctxQueue e k).ops.all fun o => o.wbuf.isNone

/-- EVICT: a resident context that is neither RUNNING nor PINNED is swapped out. -/
def State.evict (s : State) (e k : Nat) : State :=
  let c := s.ctx e k
  if c.place = .resident ∧ !c.running ∧ !bit c.cfg 7 ∧ s.drained e k then (s.leaveSlot e k .swapped).countSwap else s

/-- A write of SCH_CTX_CTRL (R381, R393). -/
def State.writeCtxCtrl (s : State) (v : Nat) : State :=
  let (e, k) := s.selected
  if s.ctxExists e k = false then s.regAccess Reg.schCtxCtrl else
  let s := if !bit v 0 then s
    else if (s.ctx e k).place = .free then s.regAccess Reg.schCtxCtrl
    else s.abortContext e k
  if bit v 1 then s.evict e k else s

/-! ### Pre-emption (R374, R375, R379) -/

/-- Copies a context's landed responses to their destinations (R379). -/
def State.landAll (s : State) (e k : Nat) : State :=
  let c := s.ctx e k
  let landed := c.landing
  let s := s.setCtx e k { c with landing := [] }
  let s := landed.foldl (fun s l => s.landData e k l.tag l.data) s
  (dedup (landed.map (·.tag.issue))).foldl (fun s i => (s.copyProgress e k i).gatherResume e k i) s

/-- The RUNNING context of an engine. -/
def State.runner (s : State) (e : Nat) : Option Nat := (List.range 16).find? fun k => (s.ctx e k).running

/-- Finished banks of a context that takes the engine pass to free writeback buffers (R112). -/
def State.nextTiles (s : State) (e q : Nat) : State :=
  (s.queue e q).ops.foldl (fun s o =>
    if o.tiled ∧ o.fault.isNone then
      let (s, o) := s.nextTile e o
      s.putOp e q o
    else s) s

/-- Context k is switched in: its accumulators are restored, landed data is copied, and a remote error ends its macro-op (R375,
R379, R380). -/
def State.switchIn (s : State) (e k : Nat) : State :=
  let s := s.takeEngine e k
  let s := s.setCtx e k { s.ctx e k with accSaved := false }
  ((s.nextTiles e (s.ctx e k).slot).landAll e k).takeRemoteErr e k

/-- The engine passes to the context that comes first: from a RUNNING one at the step boundary of its macro-op, or once none is open
(R374, R375). -/
def State.passEngine (s : State) (e : Nat) : State :=
  if s.leaving e then s else
  match s.nextHolder e with
  | none => s
  | some k =>
    if (s.ctx e k).running then s else
    match s.runner e with
    | none => s.switchIn e k
    | some r => if (s.ctxQueue e r).ops.any fun o => needsEngine (Desc.op o.desc) then s else (s.preempt e r).switchIn e k

/-! ### Swaps (R376, R377) -/

/-- The place of a context's phase in the order of R377: START, then index; an unbound context is later than all. -/
def State.phaseRank (s : State) (c : Ctx) : Nat :=
  match c.phase with
  | some p => (s.phaseDef p).start * 16 + p
  | none => 2 ^ 40

/-- The better of two swapped contexts (R377). -/
def State.swapBefore (s : State) (e a b : Nat) : Bool :=
  let x := s.ctx e a
  let y := s.ctx e b
  let p := s.prioOf e x
  let q := s.prioOf e y
  if p ≠ q then decide (q < p)
  else if s.phaseRank x ≠ s.phaseRank y then decide (s.phaseRank x < s.phaseRank y)
  else decide (x.readyAt < y.readyAt)

/-- The contexts of engine e in a place. -/
def State.ctxsIn (s : State) (e : Nat) (p : CtxPlace) : List Nat := (List.range 16).filter fun k => decide ((s.ctx e k).place = p)

/-- The first of a list by a strict order. -/
def firstBy (before : Nat → Nat → Bool) (xs : List Nat) : Option Nat :=
  xs.foldl (fun best k => match best with
    | none => some k
    | some b => if before k b then some k else some b) none

/-- The incoming context of a swap. -/
def State.swapIncoming (s : State) (e : Nat) : Option Nat :=
  firstBy (s.swapBefore e) ((s.ctxsIn e .swapped).filter fun k => decide (s.blockCause e k = 0))

/-- Whether resident context a has been blocked longer than b; ties go to the lower slot. -/
def State.victimBefore (s : State) (e a b : Nat) : Bool :=
  let x := s.ctx e a
  let y := s.ctx e b
  if x.blockedAt ≠ y.blockedAt then decide (x.blockedAt < y.blockedAt) else decide (x.slot < y.slot)

/-- The victim of a swap for incoming context k (R377). -/
def State.swapVictim (s : State) (e k : Nat) : Option Nat :=
  firstBy (s.victimBefore e) ((s.ctxsIn e .resident).filter fun r =>
    let c := s.ctx e r
    !bit c.cfg 7 && s.drained e r && !(decide (s.blockCause e r = 5) && decide (s.phaseRank c < s.phaseRank (s.ctx e k))))

/-- The scheduler swaps: the incoming context is RESTORING in the slot of the victim, which is SAVING. `ue` is the offset in
the victim's save area of a write that ends with F_MEM_UE (R377, R383). -/
def State.swap (s : State) (e : Nat) (ue : Option Nat) : State :=
  if s.inSlot e ∨ (s.ctxsIn e .restoring).length ≠ 0 ∨ (s.ctxsIn e .resident).any (fun k => decide (s.blockCause e k = 0)) = true
  then s else
  match s.swapIncoming e with
  | none => s
  | some k =>
    match s.freeSlot e with
    | some q => (s.setCtx e k { s.ctx e k with place := .restoring, slot := q }).countSwap
    | none =>
      match s.swapVictim e k with
      | none => s
      | some v =>
        let q := (s.ctx e v).slot
        let s := (s.leaveSlot e v .saving).countSwap
        let s := match ue with
          | some i => s.loseCtx e v (saveArea e v + i)
          | none => s
        s.setCtx e k { s.ctx e k with place := .restoring, slot := q }

/-- The swap ends: the saved context is in Hatch, and the incoming one is resident, unless a read of Hatch has failed or it has
been aborted meanwhile (R376, R383). -/
def State.swapIn (s : State) (e : Nat) (ue : Option Nat) : State :=
  let s := (s.ctxsIn e .saving).foldl (fun s k => s.setCtx e k { s.ctx e k with place := .swapped }) s
  match s.ctxsIn e .restoring with
  | [] => s
  | k :: _ =>
    match ue with
    | some i => s.loseCtx e k (saveArea e k + i)
    | none =>
      if (s.ctxQueue e k).state = .halted then s.setCtx e k { s.ctx e k with place := .swapped }
      else s.enterSlot e k (s.ctx e k).slot

/-! ### Answers of remote requests (R379, R380, R417) -/

/-- A response for a tag: to its destination while the context holds the engine or in the cycle in which it leaves it (R391), else to the
landing buffer. One without a tag is discarded and counted. -/
def State.answerTag (s : State) (tag status : Nat) (data : List Byte) : State :=
  match s.tagOwner tag with
  | none => s.bump Reg.ktfRemoteCount 63 32 1
  | some (e, k, t) =>
    if status ≠ 0 then s.remoteFail e k t ⟨F.remoteError, t.da, status⟩ else
    let s := s.releaseTag e k tag
    let c := s.ctx e k
    if c.running || decide (c.leftAt = some s.now) then
      ((s.landData e k t data).copyProgress e k t.issue).gatherResume e k t.issue
    else (s.setCtx e k { c with landing := c.landing ++ [⟨t, data⟩] }).bump Reg.schRemoteCount 31 0 1

/-- A tag is not answered within KTF_TIMEOUT (R380, R417). -/
def State.tagTimeout (s : State) (tag : Nat) : State :=
  match s.tagOwner tag with
  | none => s
  | some (e, k, t) =>
    if s.now < t.issuedAt + us (s.fld Reg.ktfTimeout 15 0) then s else
    ((s.bump Reg.ktfRemoteCount 31 0 1).event Reg.ktfIntStatus 5).remoteFail e k t ⟨F.remoteTimeout, t.da, 0⟩

/-! ### Meanings -/

/-- CONTEXT_SWAP_IN (R376). -/
def execContextSwapIn (t : Nat) (e : Fin 96) (ue : Option (Fin 262144)) (s : State) : Host.Outcome State Fault Refusal :=
  .next (s.live t fun s => s.swapIn e (ue.map (·.val)))

/-- REMOTE_RESPONSE (R379). -/
def execRemoteResponse (t : Nat) (tag : BitVec 24) (status : BitVec 16) (data : List Byte) (s : State) :
    Host.Outcome State Fault Refusal := 
    .next (s.live t fun s => (s.inOrder (tagPlace tag.toNat) 0).answerTag tag.toNat status.toNat data)

/-- REMOTE_TAG_TIMEOUT (R417): a response of the same cycle is accepted before (R391). -/
def execRemoteTagTimeout (t : Nat) (tag : BitVec 24) (s : State) : Host.Outcome State Fault Refusal :=
  .next (s.live t fun s => (s.inOrder (tagPlace tag.toNat) 1).tagTimeout tag.toNat)

end Sys2Proof.Machine
end

