-- ==== Sys2Proof/Machine/Jobs.lean ====
section
/-! DEFINITION. Job rings and the placement of job steps (R382, R384 to R387). -/

namespace Sys2Proof.Machine

/-- The job ring of a partition. -/
def State.job (s : State) (p : Nat) : JobRing := tabGet (fun _ => {}) s.jobs p

/-- Sets a job ring; SCH_JOB_STATE follows it. -/
def State.setJob (s : State) (p : Nat) (x : JobRing) : State :=
  ({ s with jobs := tabSet (fun _ => {}) s.jobs p x }).wr (Reg.schJobState p) (x.head % 2 ^ 32 + b2n x.halted * 2 ^ 32)

/-- DA of the job entry with a sequence number. -/
def State.jobDa (s : State) (p n : Nat) : Nat := s.rd (Reg.schJobBase p) + n % 2 ^ s.fld (Reg.schJobCfg p) 12 8 * 64

/-- A job ring halts with F_QUEUE_SEQ (R147, R384). -/
def State.jobHalt (s : State) (p expected found case : Nat) : State :=
  let s := (s.setJob p { s.job p with halted := true }).event Reg.schIntStatus 1
  postFault s { code := F.queueSeq, cls := Class.contained, block := Blk.sch, part := p,
                payload := queueSeqPayload expected found case 0 0 0x7F 0 }

/-- The tail line of a job ring is read. The first TAIL after the ring is enabled is HEAD. -/
def State.jobTail (s : State) (p : Nat) : State :=
  let a := s.rd (Reg.schJobTailDa p)
  if (s.memFault a 4).isSome then s
  else if !(s.holdsBytes a 4) then s.askFor a 4
  else
    let tail := s.loadNat a 4
    let x := s.job p
    let back := !x.fresh && decide (ahead32 tail x.tail < 0)
    let head := if x.fresh then tail else x.head
    let s := s.setJob p { x with tail := tail, head := head, fresh := false }
    if back ∨ ((2 ^ s.fld (Reg.schJobCfg p) 12 8 : Nat) : Int) < ahead32 tail head then s.jobHalt p head tail 1 else s

/-- Retires placed entries from HEAD on, in SEQ order; k bounds their number (R385). -/
def JobRing.settle (x : JobRing) : Nat → JobRing
  | 0 => x
  | k + 1 =>
    if x.head ∈ x.placed then
      ({ x with head := (x.head + 1) % 2 ^ 32, placed := x.placed.filter (· ≠ x.head) } : JobRing).settle k
    else x

/-- An entry is placed, or retires unplaced. -/
def State.jobRetire (s : State) (p n : Nat) : State :=
  let x := s.job p
  s.setJob p (({ x with placed := n :: x.placed } : JobRing).settle 65536)

/-! ### Entries (R384) -/

/-- A job entry. -/
structure JobEntry where
  client : Nat
  phase : Nat
  prio : Nat
  gOnly : Bool
  pin : Bool
  list : Nat
  entries : Nat
  aff : Nat
  engines : Nat
  dep : Nat
  depValue : Nat
  hint : Nat
  done : Nat
  deriving DecidableEq, Repr

/-- The entry held in 64 bytes. -/
def jobOf (b : List Byte) : JobEntry :=
  { client := bits (leField b 4 1) 5 0, phase := leField b 5 1, prio := bits (leField b 6 1) 2 0,
    gOnly := bit (leField b 7 1) 0, pin := bit (leField b 7 1) 1, list := leField b 8 8, entries := leField b 16 2,
    aff := bits (leField b 18 1) 6 0, engines := leField b 20 12, dep := leField b 32 8, depValue := leField b 40 8,
    hint := leField b 48 8, done := leField b 56 8 }

/-- Whether an entry's fields break R384. -/
def jobBad (b : List Byte) : Bool :=
  decide (63 < leField b 4 1) || !(decide (leField b 5 1 ≤ 15) || decide (leField b 5 1 = 0xFF)) ||
  decide (7 < leField b 6 1) || decide (3 < leField b 7 1) || leField b 8 8 % 64 != 0 || leField b 16 2 == 0 ||
  decide (127 < leField b 18 1) || leField b 19 1 != 0

/-- An invalid entry retires unplaced, counts as faulted for its client, and raises F_JOB_INVALID (R385). -/
def State.jobInvalid (s : State) (p n : Nat) (j : JobEntry) : State :=
  let s := (s.jobRetire p n).bump (Reg.schClientFaults j.client) 31 0 1
  postFault (s.event Reg.schIntStatus 0)
    { code := F.jobInvalid, cls := Class.contained, block := Blk.sch, part := p,
      payload := defaultPayload (s.jobDa p n) n 0 0 0 }

/-! ### Placement (R385 to R387) -/

/-- Job steps of a client that are placed and not over. -/
def State.outstandingJobs (s : State) (c : Nat) : Nat :=
  s.ctxs.foldl (fun n x =>
    n + ((x.2.job.toList ++ x.2.later).filter fun j => decide (j.client = c) && !j.failed).length) 0

/-- The client is enabled, belongs to the partition, and is below its limit. -/
def State.clientReady (s : State) (p c : Nat) : Bool :=
  let r := s.rd (Reg.schClientCfg c)
  bit r 0 && decide (bits r 3 1 = p) && decide (s.outstandingJobs c < bits r 31 16)

/-- DEP is satisfied. -/
def State.depMet (s : State) (j : JobEntry) : Bool :=
  decide (j.dep = 0) || ((s.memFault j.dep 8).isNone && s.holdsBytes j.dep 8 && decide (j.depValue ≤ s.loadNat j.dep 8))

/-- Whether the entry's phase runs and engine e is eligible. -/
def State.jobEngine (s : State) (j : JobEntry) (e : Nat) : Bool :=
  let bound := j.phase == 0xFF ||
    ((s.run j.phase).state.active && (s.phaseDef j.phase).engines.testBit e)
  bound && j.engines.testBit e && !(s.inSlot e) && (!j.gOnly || decide (e % 3 ≠ 0)) && (!j.pin || decide (e = j.aff))

/-- The tail line of a context's ring, as its producer, the scheduler, has written it. -/
def State.ringTail (s : State) (c : Ctx) : Nat := s.loadNat c.qTail 4

/-- A context with its queue registers, wherever it is. -/
def State.ctxRegs (s : State) (e k : Nat) : Ctx :=
  let c := s.ctx e k
  if c.place = .resident then s.getQRegs e c.slot c else c

/-- Whether context k of engine e can take a step of partition p: POOLED, enabled and not HALTED, with two free ring slots. -/
def State.takesJob (s : State) (p e k : Nat) : Bool :=
  let c := s.ctxRegs e k
  let x := s.ctxQueue e k
  decide (c.place ≠ .free) && decide (bits c.cfg 9 8 = 1) && decide (c.part = p) && !bit c.qCfg 1 &&
    decide (x.state ≠ .halted) && decide (x.state ≠ .disabled) && (s.memFault c.qTail 4).isNone &&
    s.holdsBytes c.qTail 4 && decide ((s.ringTail c + 2 ^ 32 - x.head) % 2 ^ 32 + 2 ≤ 2 ^ bits c.qCfg 12 8)

/-- Affinity cost of engine e for a HINT (R386). -/
def affinity (hint e : Nat) : Nat :=
  if hint = 0 ∨ regionOf hint = .remote ∨ regionOf hint = .attic then 0
  else if homeDie hint ≠ e / 48 then 2
  else if homeSlice hint / 4 % 16 = e % 48 / 3 then 0
  else 1

/-- The order of R386 on contexts, given as engine × 16 + context: cost, DEPTH, engine, context. -/
def State.jobBefore (s : State) (hint a b : Nat) : Bool :=
  let ca := affinity hint (a / 16)
  let cb := affinity hint (b / 16)
  let da := (s.ctxQueue (a / 16) (a % 16)).depth
  let db := (s.ctxQueue (b / 16) (b % 16)).depth
  if ca ≠ cb then decide (ca < cb) else if da ≠ db then decide (da < db) else decide (a < b)

/-- The context that an entry goes to. -/
def State.jobTarget (s : State) (p : Nat) (j : JobEntry) : Option Nat :=
  firstBy (s.jobBefore j.hint)
    (((s.ctxs.map (·.1)).filter fun x => s.jobEngine j (x / 16)).filter fun x => s.takesJob p (x / 16) (x % 16))

/-- The CALL of kind LIST for an entry (R170, R387). -/
def jobCall (seq : Nat) (j : JobEntry) : List Byte :=
  leBytes 8 (seq + Op.call * 2 ^ 32) ++ leBytes 8 0 ++ leBytes 8 0 ++ leBytes 8 j.list ++ leBytes 8 j.entries ++ leBytes 24 0

/-- The SIGNAL ADD of 1 to DONE (R168, R387). -/
def jobSignal (seq : Nat) (j : JobEntry) : List Byte :=
  leBytes 8 (seq + Op.signal * 2 ^ 32) ++ leBytes 8 0 ++ leBytes 8 0 ++ leBytes 8 j.done ++ leBytes 8 1 ++ leBytes 24 0

/-- Places an entry on context k of engine e: the entries, then the tail line (R387). -/
def State.placeJob (s : State) (p n : Nat) (j : JobEntry) (e k : Nat) : State :=
  let s := s.inOrder (ctxPlace e k) 1
  let c := s.ctxRegs e k
  let t := s.ringTail c
  let size := 2 ^ bits c.qCfg 12 8
  let s := s.storeIfMem (c.qBase + t % size * 64) (jobCall t j)
  let u := (t + 1) % 2 ^ 32
  let s := if j.done = 0 then s else s.storeIfMem (c.qBase + u % size * 64) (jobSignal u j)
  let s := s.storeIfMem c.qTail (leBytes 4 (if j.done = 0 then u else u + 1))
  let r : JobRun := { client := j.client, prio := j.prio, phase := j.phase, hasDone := decide (j.done ≠ 0) }
  let c := s.ctx e k
  let s := s.setCtx e k (if c.job.isNone then { c with job := some r } else { c with later := c.later ++ [r] })
  (s.jobRetire p n).bump (Reg.schClientJobs j.client) 31 0 1

/-- What the scheduler does with the entry of sequence number n: none when it stays in the ring. -/
def State.jobStep (s : State) (p n : Nat) : Option State :=
  let a := s.jobDa p n
  if (s.memFault a 64).isSome then none
  else if !(s.holdsBytes a 64) then some (s.askFor a 64)
  else
    let b := s.load a 64
    let j := jobOf b
    if leField b 0 4 ≠ n then some (s.jobHalt p n (leField b 0 4) 2)
    else if jobBad b then some (s.jobInvalid p n j)
    else if s.clientReady p j.client && s.depMet j then
      (s.jobTarget p j).map fun x => s.placeJob p n j (x / 16) (x % 16)
    else none

/-- The entries the scheduler looks at: up to 16 from HEAD forward, less those already placed. -/
def JobRing.window (x : JobRing) : List Nat :=
  ((List.range (min 16 ((x.tail + 2 ^ 32 - x.head) % 2 ^ 32))).map fun i => (x.head + i) % 2 ^ 32).filter (· ∉ x.placed)

/-- The scheduler places the first placeable entry of a partition's ring, or deals with an invalid one before it (R385). -/
def State.placeNext (s : State) (p : Nat) : State :=
  if !bit (s.rd Reg.schCtrl) 0 ∨ !bit (s.rd (Reg.schJobCfg p)) 0 ∨ (s.job p).halted then s else
  let s := s.jobTail p
  let x := s.job p
  if x.halted ∨ x.fresh then s else (x.window.findSome? (s.jobStep p)).getD s

/-- A write of SCH_JOB_CFG ends a halt; while the ring stays enabled its position stays. -/
def State.writeJobCfg (s : State) (p v : Nat) : State :=
  let old := s.rd (Reg.schJobCfg p)
  let x := s.job p
  let s := s.wr (Reg.schJobCfg p) v
  if bit v 0 ∧ (!bit old 0 ∨ x.halted) then s.setJob p { fresh := true, head := x.head, tail := x.tail } else s

/-- SCH_PART_CTRL.ABORT: every context of the partition, and the entries of its job ring that have not been placed (R382). -/
def State.abortPartition (s : State) (p : Nat) : State :=
  let s := s.ctxs.foldl (fun s x =>
    if x.2.place ≠ .free ∧ x.2.part = p then s.abortContext (x.1 / 16) (x.1 % 16) else s) s
  if !bit (s.rd (Reg.schJobCfg p)) 0 then s else
  let s := s.jobTail p
  let x := s.job p
  let n := (x.tail + 2 ^ 32 - x.head) % 2 ^ 32
  let left := ((List.range (min n 65536)).map fun i => (x.head + i) % 2 ^ 32).filter (· ∉ x.placed)
  let s := left.foldl (fun s n =>
    s.bump (Reg.schClientFaults (bits (leField (s.load (s.jobDa p n) 64) 4 1) 5 0)) 63 32 1) s
  s.setJob p { x with head := x.tail, placed := [] }

/-- JOB_PLACE (R385). -/
def execJobPlace (t : Nat) (p : Fin 8) (s : State) : Host.Outcome State Fault Refusal :=
  .next (s.live t fun s => s.placeNext p)

end Sys2Proof.Machine
end

