-- ==== Sys2Proof/Machine/Publish.lean ====
section
/-! DEFINITION. Publishing result frames: the publish ring and the datagrams of a message (R362, R363). -/

namespace Sys2Proof.Machine

/-- Payload bytes of a datagram, P of R363. -/
def pubPayload (mtu : Nat) (ipv6 : Bool) : Nat := (mtu - (if ipv6 then 40 else 20) - 40) / 8 * 8

/-- The header of a datagram, in network byte order (R363). -/
def pubHeader (last : Bool) (module channel tick msg len ofs : Nat) (data : List Byte) : List Byte :=
  beBytes 2 0x4C46 ++ beBytes 1 1 ++ beBytes 1 (b2n last) ++ beBytes 2 module ++ beBytes 1 channel ++ beBytes 1 0 ++
    beBytes 8 tick ++ beBytes 4 msg ++ beBytes 4 len ++ beBytes 4 ofs ++ beBytes 4 (crc32 data)

/-- The ring halts with F_QUEUE_SEQ until ING_PUB_CFG is rewritten (R362, R147). -/
def State.pubHalt (s : State) (expected found case : Nat) : State :=
  let s := ({ s with ing := { s.ing with pub := { s.ing.pub with halted := true } } }).event Reg.ingIntStatus 7
  postFault s { code := F.queueSeq, cls := Class.contained, block := Blk.ing,
                payload := queueSeqPayload expected found case 0 0 0x7F 0 }

/-- ING_PUB_STATE follows HEAD. -/
def State.pubHead (s : State) (h : Nat) : State :=
  ({ s with ing := { s.ing with pub := { s.ing.pub with head := h } } }).setFld Reg.ingPubState 31 0 h

/-- Sends one datagram of a message on the channel's port. -/
def State.pubDatagram (s : State) (ch : List Byte) (e : List Byte) (ofs n : Nat) : State :=
  let len := leField e 16 4
  let data := s.load (leField e 8 8 + ofs) n
  let s := s.ioRead (leField e 8 8 + ofs) n
  let v6 := bit (leField ch 1 1) 0
  let head := pubHeader (decide (ofs + n = len)) (s.fld Reg.ktfId 12 0) (leField e 4 1) (s.rd Reg.tckCount)
    (leField e 20 4) len ofs data
  let port := leField ch 0 1
  (s.bump (Reg.ingTx port) 63 0 1).emit (.datagram port (beField ch 2 6) v6
    (if v6 then beField ch 8 16 else beField ch 8 4) (leField ch 24 2) (leField ch 26 2) (bits (leField ch 28 1) 5 0) 64
    (head ++ data))

/-- Sends the datagrams of a message from offset `ofs` on until one cannot be read: `left` of them can be. Answers whether
the whole message went out; k bounds their number. -/
def State.pubSend (s : State) (ch e : List Byte) (p ofs : Nat) (left : Option Nat) : Nat → State × Bool
  | 0 => (s, true)
  | k + 1 =>
    let len := leField e 16 4
    if len ≤ ofs then (s, true)
    else if left = some 0 then (s, false)
    else
      let n := min p (len - ofs)
      if (s.memFault (leField e 8 8 + ofs) n).isSome then (s, false)
      else (s.pubDatagram ch e ofs n).pubSend ch e p (ofs + n) (left.map (· - 1)) k

/-- An entry is sent. One whose CHANNEL or LEN is out of range sends nothing (assumption log 64). -/
def State.pubMessage (s : State) (e : List Byte) (ue : Option Nat) : State :=
  let c := s.ing.cfg.getD []
  let len := leField e 16 4
  match (cfgPubList c)[leField e 4 1]? with
  | none => s
  | some ch =>
    if len = 0 ∨ 16777216 < len then s else
    let p := pubPayload (PortEnt.mtu (cfgPort c (leField ch 0 1))) (bit (leField ch 1 1) 0)
    let (s, whole) := s.pubSend ch e p 0 ue (len / 1024 + 1)
    if whole then s.bump Reg.ingPubState 63 32 1 else s

/-- The tail line of the publish ring is read: TAIL, or a halt (R144, R147). The first TAIL after the ring is enabled is
HEAD. -/
def State.pubTail (s : State) : State :=
  let a := s.rd Reg.ingPubTailDa
  if (s.memFault a 4).isSome then s
  else if !(s.holdsBytes a 4) then s.askFor a 4
  else
    let tail := s.loadNat a 4
    let s := s.ioRead a 4
    let x := s.ing.pub
    let back := !x.fresh && decide (ahead32 tail x.tail < 0)
    let head := if x.fresh then tail else x.head
    let s := ({ s with ing := { s.ing with pub := { x with tail := tail, fresh := false } } }).pubHead head
    if back ∨ ((2 ^ s.fld Reg.ingPubCfg 12 8 : Nat) : Int) < ahead32 tail head then s.pubHalt head tail 1 else s

/-- The next entry is taken: its SEQ is checked, its message is sent, and it retires. -/
def State.pubTake (s : State) (ue : Option Nat) : State :=
  let x := s.ing.pub
  if x.halted ∨ x.fresh ∨ x.head = x.tail then s else
  let a := s.rd Reg.ingPubBase + x.head % 2 ^ s.fld Reg.ingPubCfg 12 8 * 32
  if (s.memFault a 32).isSome then s
  else if !(s.holdsBytes a 32) then s.askFor a 32
  else
    let e := s.load a 32
    let s := s.ioRead a 32
    if leField e 0 4 ≠ x.head then s.pubHalt x.head (leField e 0 4) 2
    else if (s.memFault (leField e 8 8) 1).isNone && !(s.holdsBytes (leField e 8 8) (leField e 16 4)) then
      s.askFor (leField e 8 8) (leField e 16 4)
    else (s.pubMessage e ue).pubHead ((x.head + 1) % 2 ^ 32)

/-- A write of ING_PUB_CFG ends a halt; the next TAIL read is HEAD again. -/
def State.pubRestart (s : State) : State :=
  { s with ing := { s.ing with pub := { s.ing.pub with halted := false, fresh := true } } }

/-- PUBLISH_ENTRY (R362, R363): the ring reads its tail line, takes the next entry and sends its message. `ue` is the number
of datagrams sent before the payload read ends with F_MEM_UE. -/
def execPublishEntry (t : Nat) (ue : Option Nat) (s : State) : Host.Outcome State Fault Refusal :=
  let s := s.advance t
  if s.stopped then .next s else
  .next (if !bit (s.rd Reg.ingPubCfg) 0 ∨ s.ing.pub.halted then s else s.pubTail.pubTake ue)

end Sys2Proof.Machine
end

