-- ==== Sys2Proof/Machine/Fabric.lean ====
section
/-! DEFINITION. The Ketric fabric: training and failure of links, requests from other modules at their destination, responses,
and tick packets (R396 to R401, R405 to R408, R414 to R419, R428, R429). -/

namespace Sys2Proof.Machine

/-! ### Training and failure (R397 to R401, R404, R429) -/

/-- The module whose coordinate in a dimension is c, the others those of `id`. -/
def withCoord (id dim c : Nat) : Nat :=
  match dim with
  | 0 => putBits id 3 0 c
  | 1 => putBits id 7 4 c
  | _ => putBits id 12 8 c

/-- The neighbour in a dimension and direction (R400). -/
def State.neighbour (s : State) (id dim : Nat) (plus : Bool) : Nat :=
  let n := s.dimSize dim
  withCoord id dim (if plus then (coord id dim + 1) % n else (coord id dim + n - 1) % n)

/-- The ID and port that a port's neighbour must show (R400, R401). A spare shows the number of the port it backs. -/
def State.requiredPeer (s : State) (n : Nat) : Nat × Nat :=
  let k := s.standsFor n
  if s.role n = 2 then
    let d := s.dimSize 2
    (withCoord s.moduleId 2 ((coord s.moduleId 2 + (if n = 6 then d / 2 else d - d / 2)) % d), 13 - n)
  else (s.neighbour s.moduleId (k / 2) (decide (k % 2 = 0)), if k % 2 = 0 then k + 1 else k - 1)

/-- The HELLO of port n: the ID in bytes 0 and 1 of its payload and the port in byte 2 (R401, R406; assumption log 65). -/
def State.helloOf (s : State) (n : Nat) : Packet :=
  { type := 0x12, vc := 8, src := s.moduleId, len := 32, payload := leBytes 2 s.moduleId ++ leBytes 1 (s.standsFor n) ++ leBytes 29 0 }

/-- Training starts at full width, and a Ketric port sends its HELLO (R401); a link that carried no traffic starts its sequence and its
neighbour check afresh. -/
def State.startTraining (s : State) (n : Nat) : State :=
  let x := s.link n
  let x : LinkSt := if s.linkState n = 2 then { x with lanes := 15, bad := [] }
    else { x with lanes := 15, bad := [], matched := false, tx := 4095, rx := 4095, unacked := [] }
  let s := (s.setLink n x).setLinkState n 1
  if n = dulis then s else s.emit (.packet n (s.helloOf n))

/-- Training is complete: the link is UP. A first training grants the credits of R409; a retraining replays what was in flight
(R397). -/
def State.linkUp (s : State) (n : Nat) : State :=
  let x := s.link n
  let first := !x.matched
  let x : LinkSt := if first then { x.granted with matched := true } else x
  let s := (s.setLink n x).setLinkState n 2
  let s := if first then s else s.replay n
  s.drainLink n (x.queue.length + 1)

/-- BLOCK, UNIT and code of a link's records. -/
def linkFault (n : Nat) : Nat × Nat × Nat :=
  if n = dulis then (Blk.atc, 0xFFFF, F.dulisLink) else (Blk.ktf, n, F.fabricLink)

/-- The event register of a link. -/
def linkInts (n : Nat) : Nat := if n = dulis then Reg.atcIntStatus else Reg.ktfIntStatus

/-- The fault record of a link: cause 1 LANE or 2 FAILED, the lane and the width afterwards (R397, R451). -/
def State.linkRecord (s : State) (n cause lane width : Nat) : State :=
  let (b, u, c) := linkFault n
  postFault (s.event (linkInts n) (cause - 1))
    { code := c, cls := if cause = 1 then Class.corrected else Class.degraded, block := b, unit := u,
      payload := cause + lane * 2 ^ 8 + width * 2 ^ 16 }

/-- A packet that waited for a failed port is routed again, or dropped (R404, R417). -/
def State.reroute (s : State) (q : Queued) : State :=
  let src := q.buf.map (·.1)
  if q.pkt.vc / 4 = 2 then s.freeBuf q.buf else
  match s.route src { q.pkt with hops := q.pkt.hops - 1 } with
  | some (n, p) => s.sendOn n { q with pkt := p }
  | none =>
    let s := s.dropPacket.freeBuf q.buf
    if q.pkt.isRequest ∧ src.isSome then s.sendOwn (q.pkt.response s.moduleId F.fabricRoute []) else s

/-- A link has become FAILED: unacknowledged packets are dropped; those not yet sent take another way, and on Dulis every Attic
request ends (R397, R404, R417, R427). -/
def State.failLink (s : State) (n lane : Nat) : State :=
  let x := s.link n
  let waiting := x.queue
  let s := s.setLink n { x with lanes := 0, unacked := [], queue := [], matched := false }
  let s := (s.setLinkState n 3).linkRecord n 2 lane 0
  if n = dulis then s.atticLost else waiting.foldl (fun s q => s.reroute q) s

/-- A lane is removed: the link retrains one lane narrower, or fails with its last lane (R397). -/
def State.removeLane (s : State) (n lane : Nat) : State :=
  let x := s.link n
  let lanes := x.lanes &&& (15 ^^^ 2 ^ lane)
  let s := (s.setLink n { x with lanes := lanes, bad := x.bad.filter fun y => decide (y.1 ≠ lane) }).linkRecord n 1 lane (laneCount lanes)
  if lanes = 0 then s.failLink n lane else s.setLinkState n 1

/-- The register of a link's codeword counts. -/
def fecReg (n : Nat) : Nat := if n = dulis then Reg.atcFec else Reg.ktfPortFec n

/-- The codewords of a lane since the last report: those corrected and those that could not be, and whether lock was lost. The lane is
removed when those of the last 1 ms reach KTF_LANE_THRESH (R394, R397). -/
def State.laneReport (s : State) (n lane good bad : Nat) (lost : Bool) : State :=
  if (s.linkState n = 1 ∨ s.linkState n = 2) ∧ (s.link n).lanes.testBit lane then
    let s := (s.bump (fecReg n) 31 0 good).bump (fecReg n) 63 32 bad
    let recent := ((s.link n).bad.filter fun x => decide (s.now < x.2.1 + us 1000)) ++ [(lane, s.now, bad)]
    let s := s.setLink n { s.link n with bad := recent }
    let count := ((recent.filter fun x => decide (x.1 = lane)).map (·.2.2)).foldl (· + ·) 0
    if lost ∨ s.fld Reg.ktfLaneThresh 7 0 ≤ count then s.removeLane n lane else s
  else s

/-- A HELLO arrives during training (R401). F_FABRIC_TOPO carries both IDs (assumption log 65). -/
def State.hello (s : State) (n id port : Nat) : State :=
  if s.linkState n ≠ 1 then s else
  let s := s.wr (Reg.ktfPortNeighbor n) (id + port * 2 ^ 16)
  if (id, port) = s.requiredPeer n then s.linkUp n else
  let s := (s.setLinkState n 4).event Reg.ktfIntStatus 2
  postFault s { code := F.fabricTopo, cls := Class.degraded, block := Blk.ktf, unit := n,
                payload := defaultPayload 0 (s.moduleId + id * 2 ^ 16) 0 0 0 }

/-- Training ends on a link whose neighbour is known: the companion's, or a port that retrains (R397). When Dulis is UP again,
every watched sector is refetched and its watcher notified (R427). -/
def State.trainingDone (s : State) (n : Nat) : State :=
  if n = dulis then
    let st := s.linkState n
    if st = 2 then s else
    let again := !(s.link n).matched
    let s := (if st = 1 then s else s.startTraining n).linkUp n
    if again then (dedup (s.queues.flatMap fun x =>
        (if x.2.state = .disabled then [] else [s.rd (Reg.engQTailDa (x.1 / 4) (x.1 % 4))]) ++
          (x.2.ops.filter fun o => decide (Desc.op o.desc = Op.wait)).map fun o => Desc.arg o.desc 0)
        |>.filter fun a => decide (regionOf a = .attic)).foldl (fun s a => s.refetch (sectorOf a)) s
    else s
  else if s.linkState n = 1 ∧ (s.link n).matched = true then s.linkUp n else s

/-- KTF_PORT_CTRL.RETRAIN: the port retrains at full width. -/
def State.retrain (s : State) (n : Nat) : State :=
  if bit (s.rd Reg.ktfCtrl) 0 ∧ s.role n ≠ 0 then s.startTraining n else s

/-- A write of KTF_CTRL: every port with a role trains, or goes DOWN (R398, R429). -/
def State.writeKtfCtrl (s : State) (v : Nat) : State :=
  let was := bit (s.rd Reg.ktfCtrl) 0
  let s := s.wr Reg.ktfCtrl (v % 2)
  (List.range 8).foldl (fun s n =>
    if bit v 0 && !was then (if s.role n = 0 then s else s.startTraining n)
    else if !bit v 0 && was then (s.setLink n {}).setLinkState n 0
    else s) s

/-- KTF_STATUS: READY, and the ports that are UP. -/
def State.readKtfStatus (s : State) : Nat :=
  let torus := (List.range 6).filter fun n => decide (s.role n = 1)
  let ready := bit (s.rd Reg.ktfCtrl) 0 && torus.all fun n => decide (s.linkState n = 2) || (s.spareFor n).isSome && decide (s.linkState n = 3)
  b2n ready + (List.range 8).foldl (fun a n => a + b2n (decide (s.linkState n = 2)) * 2 ^ (n + 1)) 0

/-- KTF_PORT_STATUS_n with SPARED. -/
def State.readPortStatus (s : State) (n : Nat) : Nat :=
  let spared := if n < 6 then decide (s.linkState n = 3) && (s.spareFor n).isSome
    else decide (s.role n = 3) && decide (s.linkState (s.standsFor n) = 3) && decide (s.spareFor (s.standsFor n) = some n)
  putBits (s.rd (Reg.ktfPortStatus n)) 10 10 (b2n spared)

/-! ### Requests at their destination (R405 to R408, R414 to R416) -/

/-- The atomic that OP names (R408). -/
def packetAtom (p : Packet) : Option (AtomOp × AtomType) :=
  let ty : Option AtomType := match p.op / 16 with
    | 0 => some .int32 | 1 => some .uint32 | 2 => some .int64 | 3 => some .uint64 | 4 => some .fp32 | 5 => some .b128
    | _ => none
  let op : Option AtomOp := match p.op % 16 with
    | 0 => some .fadd | 1 => some .min | 2 => some .max | 3 => some .and | 4 => some .or | 5 => some .xor
    | 6 => some .swap | 7 => some .cas | 8 => some .cnt2
    | _ => none
  match op, ty with
  | some o, some t => if (AtomReq.defined { op := o, ty := t }) then some (o, t) else none
  | _, _ => none

/-- The reduction that OP names (R408). -/
def packetRed (op : Nat) : Option RedOp :=
  match op with
  | 0 => some .addFp32 | 1 => some .addBf16 | 2 => some .addInt32 | 3 => some .maxFp32 | 4 => some .minFp32
  | _ => none

/-- What a request asks of its home slice; none when it breaks R405 to R408. -/
def packetAct (p : Packet) : Option MemAct :=
  let inLine := decide (p.addr % 256 + p.len ≤ 256)
  if p.status ≠ 0 ∨ 2 ^ 45 ≤ p.addr ∨ 256 < p.len ∨ p.vc / 4 ≠ 0 then none
  else match p.type with
    | 0x01 => if p.len % 64 = 0 ∧ 0 < p.len ∧ p.addr % 64 = 0 ∧ inLine ∧ p.payload = [] then some .read else none
    | 0x02 => if p.len % 64 = 0 ∧ 0 < p.len ∧ p.addr % 64 = 0 ∧ inLine ∧ p.payload.length = p.len then some (.write p.payload)
      else none
    | 0x03 => (match packetAtom p with
      | some (o, t) =>
        let w := t.bytes
        if p.addr % w = 0 ∧ p.len = (if o = .cas then 2 * w else w) ∧ p.payload.length = p.len then
          some (.atom { op := o, ty := t, opnd := leField p.payload 0 w, cmp := leField p.payload w w,
                        dPin := toSigned 16 (bits (leField p.payload 0 4) 31 16),
                        dRef := toSigned 16 (bits (leField p.payload 0 4) 15 0) })
        else none
      | none => none)
    | 0x04 => (match packetRed p.op with
      | some o =>
        if 0 < p.len ∧ p.len % o.bytes = 0 ∧ p.addr % o.bytes = 0 ∧ inLine ∧ p.payload.length = p.len then
          some (.red o (2 ^ (p.len / o.bytes) - 1) p.payload)
        else none
      | none => none)
    | _ => none

/-- The bytes of memory a request covers. -/
def packetSpan (p : Packet) (act : MemAct) : Nat :=
  match act with
  | .atom r => r.ty.bytes
  | _ => p.len

/-- Whether an offset lies in the usable Pantry or Cellar (R60). A tier that is not READY answers later (R98). -/
def State.offsetFault (s : State) (a len : Nat) : Option Nat :=
  match regionOf a with
  | .pantry => (s.memFault a len).map (·.1)
  | .cellar => (s.memFault a len).map (·.1)
  | _ => some F.addrRange

/-- Whether export window i admits a request (R414). -/
def State.windowAdmits (s : State) (i : Nat) (p : Packet) : Bool :=
  let c := s.rd (Reg.ktfExportCfg i)
  let base := s.rd (Reg.ktfExportBase i)
  bit c 0 && decide (base ≤ p.addr) && decide (p.addr < base + bits c 31 8 * 2097152) && bit c (3 + p.type) &&
    decide (bits c 44 32 ≤ p.src) && decide (p.src ≤ bits c 57 45)

/-- The number under which a request from another module waits at a tier. -/
def packetId (p : Packet) : Nat := 2 ^ 64 + p.src * 2 ^ 24 + p.tag

/-- A request at its destination: checked in the order of R414, and performed at its home slice or answered with its
STATUS. -/
def State.servePacket (s : State) (n : Nat) (p : Packet) : State :=
  let refuse := fun (part code : Nat) => (s.noteReject n part p.addr code).sendOwn (p.response s.moduleId code [])
  match packetAct p with
  | none => refuse 0x80 F.fabricPacket
  | some act =>
    if s.offsetFault p.addr (packetSpan p act) = some F.addrRange then refuse 0x80 F.addrRange else
    match (List.range 8).find? fun i => s.windowAdmits i p with
    | none => refuse 0x80 F.fabricAccess
    | some i =>
      let part : Nat := s.fld (Reg.ktfExportCfg i) 3 1
      match s.offsetFault p.addr (packetSpan p act) with
      | some code => refuse part code
      | none => s.request { req := ⟨packetId p, .fabric, Fin.ofNat 8 part, p.addr, packetSpan p act⟩, act := act, pkt := some (n, p) }

/-- A packet from another module: onward, or handled here when it is this module's (R402, R414). -/
def State.fromFabric (s : State) (n : Nat) (p : Packet) (f : State → State) : State :=
  match s.linkReceive n p with
  | (s, false) => s
  | (s, true) => if p.dst = s.moduleId then (f s).consume n p else s.forward n p

/-- Whether a response is well formed (R405, R406). -/
def responseOk (p : Packet) : Bool :=
  decide (p.vc / 4 = 1) && decide (p.payload.length = p.len) && decide (p.len ≤ 256) &&
    (if p.status ≠ 0 then decide (p.len = 0)
     else if p.type = 0x09 then decide (p.len = 0)
     else if p.type = 0x0A then decide (p.len = 4 ∨ p.len = 8 ∨ p.len = 16)
     else decide (0 < p.len))

/-- A response at its source: to its tag, before a timeout of the same cycle; a malformed one is discarded and counted (R407, R417,
R428). -/
def State.takeResponse (s : State) (p : Packet) : State :=
  if responseOk p then (s.inOrder (tagPlace p.tag) 0).answerTag p.tag p.status p.payload else s.bump Reg.ktfRemoteCount 63 32 1

/-! ### Tick packets (R26, R30, R418, R419) -/

/-- The offset of a coordinate from the master's: the shorter signed distance, + at exactly half (R419). -/
def State.tickOfs (s : State) (id master dim : Nat) : Int :=
  let n := s.dimSize dim
  let (plus, d) := shorter (coord master dim) (coord id dim) n
  if plus then (d : Int) else -(d : Int)

/-- The parent of a module: its neighbour one step toward the master (R419). -/
def State.tickParent (s : State) (id master : Nat) : Option Nat :=
  ([2, 1, 0].find? fun dim => decide (s.tickOfs id master dim ≠ 0)).map fun dim =>
    s.neighbour id dim (decide (s.tickOfs id master dim < 0))

/-- The payload of a TICK (R418). -/
def State.tickPayload (s : State) (master : Nat) : List Byte :=
  leBytes 8 (s.rd Reg.tckCount) ++ leBytes 4 (s.rd Reg.tckPeriod) ++ leBytes 2 master ++ leBytes 18 0

/-- Sends a TICK on a torus port that is UP or spared. -/
def State.sendTick (s : State) (n hops : Nat) (payload : List Byte) : State :=
  match s.carrier n with
  | some k =>
    let out : Packet := { type := 0x10, vc := 8, src := s.moduleId, hops := hops, len := 32, payload := payload }
    if s.linkState k = 2 then s.sendOn k { pkt := out } else s
  | none => s

/-- The master sends a TICK at its boundary on every torus port that is UP (R418). -/
def State.originateTick (s : State) : State :=
  if bit (s.rd Reg.tckCtrl) 3 then
    (List.range 6).foldl (fun s n =>
      if s.role n = 1 ∧ s.linkState n = 2 then s.sendTick n 0 (s.tickPayload s.moduleId) else s) s
  else s

/-- Forwards an accepted TICK to the neighbours that have this module as parent (R419). -/
def State.forwardTick (s : State) (master : Nat) (payload : List Byte) : State :=
  let me := s.moduleId
  let hops := ([0, 1, 2].map fun d => (s.tickOfs me master d).natAbs).foldl (· + ·) 0
  (List.range 6).foldl (fun s n =>
    if s.role n = 1 ∧ s.tickParent (s.neighbour me (n / 2) (decide (n % 2 = 0))) master = some me
    then s.sendTick n hops payload else s) s

/-- The boundary of a tick packet that records `hops`: its first one is placed there; a later one is approached by the timer
frequency alone (R26, R30). -/
def State.placeFabric (s : State) (hops : Nat) : State :=
  let ns : Int := (s.fld Reg.tckFabDelay 15 0 : Int) - 180 * hops
  let late := decide (ns < 0)
  let target := s.now + (if late then 0 else (ns.toNat * 11 + 9) / 10)
  let s := if late then s.bump Reg.tckBgDefer 63 32 1 else s
  if s.tick.gap ∨ s.tick.next = none then { s with tick := { s.tick with next := some target } } else
  let nominal := s.tick.boundary + s.period
  let corr := if s.now < s.tick.boundary + s.period / 2 then s.limitCorr ((target : Int) - s.tick.boundary)
    else s.limitCorr ((target : Int) - nominal)
  { s with tick := { s.tick with next := some (max s.now ((nominal : Int) + corr).toNat), corr := corr } }

/-- Notes an accepted TICK. -/
def State.hearTick (s : State) (count : Nat) : State :=
  { s with tick := { s.tick with heardFab := s.now + 1, fabSeen := some count } }

/-- A receiving module whose timeline follows the fabric takes the boundary of an accepted TICK. -/
def State.followTick (s : State) (hops : Nat) : State :=
  let ok : Bool := s.tick.on && decide (s.fld Reg.tckStatus 1 0 = 2) && !bit (s.rd Reg.tckCtrl) 3 && s.following
  if ok then s.placeFabric hops else s

/-- A TICK arrives: accepted and forwarded, or discarded and counted (R418, R428). -/
def State.takeTick (s : State) (p : Packet) : State :=
  let master := leField p.payload 12 2 % 8192
  let count := leField p.payload 0 8
  let c := s.rd Reg.ktfTickCfg
  let ok : Bool := bit c 16 && decide (bits c 12 0 = master) && decide (s.tick.fabSeen ≠ some count)
  if ok then (((s.bump Reg.ktfTickCount 31 0 1).forwardTick master p.payload).hearTick count).followTick p.hops
  else (s.bump Reg.ktfTickCount 63 32 1).event Reg.ktfIntStatus 6

/-! ### Meanings -/

/-- GET (R402, R414). -/
def execGet (t : Nat) (n : Fin 8) (p : Packet) (s : State) : Host.Outcome State Fault Refusal :=
  .next (s.live t fun s => s.fromFabric n { p with type := 0x01 } fun s => s.servePacket n { p with type := 0x01 })

/-- PUT (R402, R414). -/
def execPut (t : Nat) (n : Fin 8) (p : Packet) (s : State) : Host.Outcome State Fault Refusal :=
  .next (s.live t fun s => s.fromFabric n { p with type := 0x02 } fun s => s.servePacket n { p with type := 0x02 })

/-- ATOMIC (R402, R414). -/
def execAtomic (t : Nat) (n : Fin 8) (p : Packet) (s : State) : Host.Outcome State Fault Refusal :=
  .next (s.live t fun s => s.fromFabric n { p with type := 0x03 } fun s => s.servePacket n { p with type := 0x03 })

/-- RED (R402, R414). -/
def execRed (t : Nat) (n : Fin 8) (p : Packet) (s : State) : Host.Outcome State Fault Refusal :=
  .next (s.live t fun s => s.fromFabric n { p with type := 0x04 } fun s => s.servePacket n { p with type := 0x04 })

/-- GET_RSP (R379, R415). -/
def execGetRsp (t : Nat) (n : Fin 8) (p : Packet) (s : State) : Host.Outcome State Fault Refusal :=
  .next (s.live t fun s => s.fromFabric n { p with type := 0x08 } fun s => s.takeResponse { p with type := 0x08 })

/-- ACK (R415). -/
def execAck (t : Nat) (n : Fin 8) (p : Packet) (s : State) : Host.Outcome State Fault Refusal :=
  .next (s.live t fun s => s.fromFabric n { p with type := 0x09 } fun s => s.takeResponse { p with type := 0x09 })

/-- ATOMIC_RSP (R415). -/
def execAtomicRsp (t : Nat) (n : Fin 8) (p : Packet) (s : State) : Host.Outcome State Fault Refusal :=
  .next (s.live t fun s => s.fromFabric n { p with type := 0x0A } fun s => s.takeResponse { p with type := 0x0A })

/-- FABRIC_TICK (R418, R419). -/
def execFabricTick (t : Nat) (n : Fin 8) (p : Packet) (s : State) : Host.Outcome State Fault Refusal :=
  let s := s.advance t
  if s.stopped then .next s else
  .next (match s.linkReceive n { p with type := 0x10 } with
    | (s, true) => (s.takeTick p).consume n { p with type := 0x10 }
    | (s, false) => s)

/-- IDLE (R409): credits and link fields. -/
def execIdle (t : Nat) (n : Fin 9) (p : Packet) (s : State) : Host.Outcome State Fault Refusal :=
  let s := s.advance t
  if s.stopped then .next s else
  .next (match s.linkReceive n { p with type := 0x11 } with
    | (s, true) => s.consume n { p with type := 0x11 }
    | (s, false) => s)

/-- HELLO (R401). -/
def execHello (t : Nat) (n : Fin 8) (id : BitVec 13) (port : Fin 8) (s : State) : Host.Outcome State Fault Refusal :=
  .next (s.live t fun s => s.hello n id.toNat port)

/-- NAK (R396): a packet of link fields whose NAK bit is set. -/
def execNak (t : Nat) (n : Fin 9) (p : Packet) (s : State) : Host.Outcome State Fault Refusal :=
  let s := s.advance t
  if s.stopped then .next s else
  .next (match s.linkReceive n { p with type := 0x11, nak := true } with
    | (s, true) => s.consume n { p with type := 0x11, nak := true }
    | (s, false) => s)

/-- PACKET_CRC_FAIL (R396). -/
def execPacketCrcFail (t : Nat) (n : Fin 9) (s : State) : Host.Outcome State Fault Refusal :=
  let s := s.advance t
  if s.stopped then .next s else
  .next (if s.linkState n = 2 then (s.bump (replayReg n) 63 32 1).sendNak n else s)

/-- LANE_REMOVE (R397). -/
def execLaneRemove (t : Nat) (n : Fin 9) (lane : Fin 4) (good bad : Nat) (lost : Bool) (s : State) :
    Host.Outcome State Fault Refusal := .next (s.live t fun s => s.laneReport n lane good bad lost)

/-- LINK_RETRAIN_DONE (R397). -/
def execLinkRetrainDone (t : Nat) (n : Fin 9) (s : State) : Host.Outcome State Fault Refusal :=
  .next (s.live t fun s => s.trainingDone n)

end Sys2Proof.Machine
end

