-- ==== Sys2Proof/Machine/SelfTest.lean ====
section
/-! DEFINITION. The rotating self-test, the withdrawal of engines for it, and the Pulse stand-in (R388 to R390, R437 to R442,
R462). -/

namespace Sys2Proof.Machine

/-! ### Engines in service -/

/-- What the rotation keeps of an engine. -/
def State.engHealth (s : State) (e : Nat) : EngineHealth := tabGet (fun _ => {}) s.health.engines e

/-- Sets it. -/
def State.setEngHealth (s : State) (e : Nat) (x : EngineHealth) : State :=
  { s with health := { s.health with engines := tabSet (fun _ => {}) s.health.engines e x } }

/-- Takes an engine out of service, or returns it. -/
def State.setEngineOut (s : State) (e : Nat) (out : Bool) : State :=
  if e < 64 then s.setBit Reg.hltEngOosLo e out else s.setBit Reg.hltEngOosHi (e - 64) out

/-- The stand-in engine that keeps the Pulse work of an engine out of service (R442). -/
def State.keepsPulse (s : State) (e : Nat) : Bool :=
  (List.range 4).any fun i => match s.standinOf i with
    | some (er, es, _) => decide (es = e) && s.engineOut er && s.reservedEngine er
    | none => false

/-- Whether the rotation skips an engine (R439, R442). -/
def State.skipped (s : State) (e : Nat) : Bool := s.engineOut e || s.keepsPulse e

/-- The engine of the next rotation slot: the first in ascending order from `next` on that is not skipped. -/
def State.rotationNext (s : State) : Option Nat :=
  ((List.range 96).map fun i => (s.health.next + i) % 96).find? fun e => !(s.skipped e)

/-- Whether the rotation runs: the tick block is enabled, and full-rate mode does not suspend it (R392, R443). -/
def State.rotates (s : State) : Bool := s.tick.on && s.health.fullSince.isNone

/-- The rotation has passed an engine: a rotation is complete when the order wraps (HLT_ST_STATUS). -/
def State.rotationPast (s : State) (e : Nat) : State :=
  let s := { s with health := { s.health with next := (e + 1) % 96 } }
  match s.rotationNext with
  | some n => if n ≤ e then s.bump Reg.hltStStatus 63 32 1 else s
  | none => s

/-- The engine in its slot, as SCH_STATUS and HLT_ST_STATUS show it; SKIPPED names a stand-in engine that is skipped. -/
def State.showSlot (s : State) : State :=
  let e := match s.health.slots with
    | x :: _ => x.engine
    | [] => 0x7F
  let k := ((List.range 96).find? fun e => s.keepsPulse e).getD 0x7F
  ((s.setFld Reg.schStatus 14 8 e).setFld Reg.hltStStatus 6 0 e).setFld Reg.hltStStatus 14 8 k

/-- The slot of an engine. -/
def State.slotOf (s : State) (e : Nat) : Option TestSlot := s.health.slots.find? fun x => decide (x.engine = e)

/-- Sets the slot of an engine; none removes it. -/
def State.setSlot (s : State) (e : Nat) (x : Option TestSlot) : State :=
  let rest := s.health.slots.filter fun y => decide (y.engine ≠ e)
  ({ s with health := { s.health with slots := rest ++ x.toList } }).showSlot

/-! ### Withdrawal and return (R388) -/

/-- Every resident context of engine e is swapped out in ascending slot order and marked WITHDRAWN; `ues` are the contexts whose
save fails, with the offset in the save area (R383, R388). -/
def State.withdraw (s : State) (e : Nat) (x : TestSlot) (ues : List (Nat × Nat)) : State :=
  let s := match s.runner e with
    | some r => s.preempt e r
    | none => s
  let held := (List.range 4).filterMap fun q => (s.slotCtx e q).map fun k => (k, q)
  let s := held.foldl (fun (s : State) (y : Nat × Nat) => s.leaveSlot e y.1 .withdrawn) s
  let s := (s.bump Reg.schWithdraw 31 0 1).setSlot e (some { x with draining := false })
  ues.foldl (fun (s : State) (u : Nat × Nat) =>
    if (held.map (·.1)).contains u.1 then s.loseCtx e u.1 (saveArea e u.1 + u.2) else s) s

/-- Whether engine e can be withdrawn: its RUNNING context has left it at a step boundary, or stands between macro-ops (R388), and it steps no triggers that a stand-in waits
for (R390). -/
def State.canWithdraw (s : State) (e : Nat) : Bool :=
  (match s.runner e with
   | some r => !((s.ctxQueue e r).ops.any fun o => needsEngine (Desc.op o.desc)) && s.drained e r
   | none => true) && !(s.mirrors.any fun i => decide ((s.standinOf i).map (·.1) = some e))

/-- The contexts that the withdrawal left WITHDRAWN come back into the slots they held, lowest slot first. One that is lost stays in
Hatch, as does one whose read fails (R383, R388). -/
def State.readmit (s : State) (e : Nat) (ues : List (Nat × Nat)) : State :=
  let held := (List.range 4).flatMap fun q => (s.ctxsIn e .withdrawn).filter fun k => decide ((s.ctx e k).slot = q)
  held.foldl (fun (s : State) (k : Nat) =>
    let s := match ues.lookup k with
      | some i => s.loseCtx e k (saveArea e k + i)
      | none => s
    let c := s.ctx e k
    if c.lost.isSome then s.setCtx e k { c with place := .swapped } else s.enterSlot e k c.slot) s

/-! ### The test (R437 to R441) -/

/-- Whether the slack window takes a host's test of an engine: 121,796 ACLK and its withdrawal, which may last until the latest start of the
test (R52, R388, R444). -/
def State.hostFits (s : State) : Bool :=
  s.tick.on && s.tick.placed && decide (121796 + Config.freeNat s.free % (us 50 + 1) + us 10 ≤ s.slackLeft)

/-- Why a slot of engine e may start now: it is sent for retest, it is the next of the rotation, or a request for it fits into
slack (R388, R439, R444). -/
def State.slotKind (s : State) (e : Nat) : Option TestKind :=
  if (s.slotOf e).isSome then none
  else if e ∈ s.health.retest ∧ s.health.slots.all (fun x => decide (x.kind ≠ .retest)) = true then some .retest
  else if s.rotates = true ∧ s.rotationNext = some e ∧ (s.health.slotAt = 0 ∨ s.health.slotAt - 1 + us 200 ≤ s.now) then
    some .rotation
  else if (s.health.requests.any fun r => decide (r = (0, e))) ∧ s.hostFits then some .host
  else none

/-- Removes the oldest request of a kind for a target. -/
def State.takeRequest (s : State) (kind target : Nat) : State :=
  let rs := s.health.requests.erase (kind, target)
  ({ s with health := { s.health with requests := rs } }).setFld Reg.hltStStatus 28 24 rs.length

/-- Posts a result to HLT_ST_RESULT (R444). -/
def State.postResult (s : State) (kind target : Nat) (pass : Bool) (first items : Nat) : State :=
  (s.wr Reg.hltStResult (kind + target * 2 ^ 8 + b2n pass * 2 ^ 16 + first * 2 ^ 24 + items * 2 ^ 32)).event
    Reg.hltIntStatus 7

/-- F_SELFTEST with its payload (R451). -/
def State.selfTestRecord (s : State) (e cause : Nat) (kind : TestKind) (cls items last : Nat) : State :=
  let first := match setBits 12 items with
    | i :: _ => i + 1
    | [] => 0
  postFault s { code := F.selftest, cls := cls, block := Blk.hlt, unit := e,
                payload := cause + kind.code * 2 ^ 8 + first * 2 ^ 16 + items * 2 ^ 24 + last * 2 ^ 64 + s.timeNs * 2 ^ 128 }

/-- A slot of engine e starts: it is withdrawn now or, if it cannot be yet, when the test starts (R388). -/
def State.slotStart (s : State) (e : Nat) (ues : List (Nat × Nat)) : State :=
  match s.slotKind e with
  | none => s
  | some k =>
    let x : TestSlot := { engine := e, kind := k, start := s.now }
    let s := { s with free := s.free + 1 }
    let s := if k = .rotation then { s with health := { s.health with slotAt := s.now + 1 } } else s
    let s := s.setSlot e (some x)
    if s.canWithdraw e then s.withdraw e x ues else s

/-- The test starts once the engine is withdrawn, within 50 µs of the slot's start (R388). -/
def State.testStart (s : State) (e : Nat) : State :=
  match s.slotOf e with
  | none => s
  | some x =>
    if x.testing.isSome ∨ x.start + us 50 < s.now then s else
    let s := if x.draining && s.canWithdraw e then s.withdraw e x [] else s
    match s.slotOf e with
    | some y => if y.draining then s else s.setSlot e (some { y with testing := some s.now })
    | none => s

/-- What the test leaves of the engine: no W_in in the feeders, and generators to reseed (R438). -/
def State.testWorn (s : State) (e : Nat) : State :=
  (s.setEng e { s.eng e with station := none, reseed := true }).wr (Reg.engStation e) 0

/-- The slot of engine e is over: it counts for the rotation where it was the rotation's, or took its place (R462). -/
def State.slotOver (s : State) (e : Nat) (k : TestKind) : State :=
  let s := (s.setSlot e none)
  let s := { s with leads := tabSet (fun _ => 0) s.leads e 0,
                    health := { s.health with retest := s.health.retest.filter (· ≠ e) } }
  if k = .rotation ∨ (k = .retest ∧ s.rotationNext = some e) then s.rotationPast e else s

/-- The result of a test for the request that it serves, if one waits for the engine (R462). -/
def State.serveRequest (s : State) (e : Nat) (pass : Bool) (items : Nat) : State :=
  if s.health.requests.any fun r => decide (r = (0, e)) then
    let first := match setBits 12 items with
      | i :: _ => i + 1
      | [] => 0
    (s.takeRequest 0 e).postResult 0 e pass first items
  else s

/-- A test passes: the engine returns to service; one that was out returns after two passes in a row, unless it has failed three
tests (R439, R440). -/
def State.testPass (s : State) (e : Nat) (x : TestSlot) (ues : List (Nat × Nat)) : State :=
  let h := s.engHealth e
  let passes := if s.engineOut e then h.passes + 1 else 0
  let s := (s.bump Reg.hltStCount 23 0 1).setEngHealth e { h with lastPass := s.timeNs, passes := passes }
  let s := s.slotOver e x.kind
  if s.engineOut e then
    (if 2 ≤ passes ∧ h.failed < 3 then
      let s := s.setEngineOut e false
      s.readmit e ues
     else s)
  else s.readmit e ues

/-- A test fails: the engine is out of service, and its contexts stay WITHDRAWN (R439). -/
def State.testFail (s : State) (e : Nat) (x : TestSlot) (items : Nat) : State :=
  let h := s.engHealth e
  let s := (s.bump Reg.hltStCount 47 24 1).setEngHealth e { h with passes := 0, failed := h.failed + 1 }
  let s := (s.slotOver e x.kind).setEngineOut e true
  let covers := fun (i : Nat) => decide ((s.standinOf i).map (·.1) = some e)
  let s := { s with mirrors := s.mirrors.filter fun i => !(covers i) }
  (s.showSlot.event Reg.hltIntStatus 0).selfTestRecord e 1 x.kind Class.degraded items h.lastPass

/-- The test of engine e ends; `items` is the bitmap of the items that failed (R437, R439). -/
def State.testEnd (s : State) (e items : Nat) (ues : List (Nat × Nat)) : State :=
  match s.slotOf e with
  | none => s
  | some x =>
    if x.testing.isNone then s else
    let s := s.testWorn e
    let s := if items = 0 then s.testPass e x ues else s.testFail e x items
    s.serveRequest e (decide (items = 0)) items

/-- A test that has not started 50 µs after its slot is abandoned (R388, R441). -/
def State.testAbandon (s : State) (e : Nat) : State :=
  match s.slotOf e with
  | none => s
  | some x =>
    if x.testing.isSome ∨ s.now < x.start + us 50 then s else
    let s := ((s.slotOver e x.kind).readmit e []).bump Reg.schWithdraw 63 32 1
    let s := (s.event Reg.schIntStatus 2).event Reg.hltIntStatus 1
    s.selfTestRecord e 2 x.kind Class.info 0 (s.engHealth e).lastPass

/-! ### The Pulse stand-in (R389, R390) -/

/-- The context of engine e whose slot stand-in context takes: the resident one that is not pinned with the longest blocked time,
or, with none blocked, the one of lowest priority. -/
def State.standinVictim (s : State) (e : Nat) : Option Nat :=
  let ks := (s.ctxsIn e .resident).filter fun k => !bit (s.ctx e k).cfg 7
  let blocked := ks.filter fun k => decide (s.blockCause e k ≠ 0)
  if blocked.isEmpty then
    firstBy (fun a b => decide (s.prioOf e (s.ctx e a) < s.prioOf e (s.ctx e b))) ks
  else firstBy (s.victimBefore e) blocked

/-- Context k of engine e is made resident and PINNED, with the effective priority of the stand-in (R373, R390). -/
def State.pinStandin (s : State) (e k : Nat) : State :=
  let s := if (s.ctx e k).place ≠ .swapped || (s.ctx e k).lost.isSome then s else
    match s.freeSlot e with
    | some q => s.enterSlot e k q
    | none =>
      match s.standinVictim e with
      | none => s
      | some v =>
        let q := (s.ctx e v).slot
        let s := if (s.ctx e v).running then s.preempt e v else s
        (s.leaveSlot e v .swapped).countSwap.enterSlot e k q
  let c := s.ctx e k
  if c.place = .resident then s.setCtx e k { c with cfg := putBits c.cfg 7 7 1, standin := true } else s

/-- T − 200 µs: the area is copied, mirroring starts, and the context is made resident (R390). -/
def State.standinPrepare (s : State) (i : Nat) : State :=
  match s.standinOf i with
  | none => s
  | some (er, es, k) =>
    if i ∈ s.mirrors ∨ s.engineOut er then s else
    let r := s.rd (Reg.schStandin i)
    let first := bits r 29 19
    let n := bits r 40 30
    let s := s.store (shelfDa es (first * 4096)) (s.load (shelfDa er (first * 4096)) (n * 4096))
    let s := (List.range n).foldl (fun s b => s.setTag es (first + b) (s.tag er (first + b))) s
    ({ s with mirrors := s.mirrors ++ [i] }).pinStandin es k

/-- Moves the triggers held for engine a to engine b, queue q. -/
def State.moveHeld (s : State) (a b q : Nat) : State :=
  let xs := tabGet (fun _ => []) s.ing.held a
  let m := tabSet (fun _ => []) s.ing.held a []
  let ys := tabGet (fun _ => []) m b ++ xs.map fun x => (q, x.2)
  { s with ing := { s.ing with held := tabSet (fun _ => []) m b ys } }

/-- The queue of engine er that ingest feeds: a measurement binding's. -/
def State.pulseQueue (s : State) (er : Nat) : Nat :=
  (s.ing.meas.findSome? fun x => match x.2.bound with
    | some (e, q, _) => if e = er then some q else none
    | none => none).getD 0

/-- A handover: at the slot's start new triggers go to the stand-in, and at its end back to the reserved engine, unless that is
out of service (R390, R442). -/
def State.standinHandover (s : State) (i : Nat) : State :=
  match s.standinOf i with
  | none => s
  | some (er, es, k) =>
    if i ∈ s.moved then
      (if s.engineOut er ∨ (s.slotOf er).isSome then s else
        let s := s.moveHeld es er (s.pulseQueue er)
        { s with moved := s.moved.filter (· ≠ i), returning := s.returning ++ [i] })
    else if i ∈ s.mirrors ∧ i ∉ s.returning then
      { s.moveHeld er es (s.ctx es k).slot with moved := s.moved ++ [i] }
    else s

/-- No TRIGGER queue of engine e has a trigger in its FIFO or in hand. -/
def State.fifosEmpty (s : State) (e : Nat) : Bool :=
  (List.range 4).all fun q =>
    let x := s.queue e q
    !(bit (s.rd (Reg.engQCfg e q)) 1) || (x.fifo.isEmpty && x.arg.isNone && x.ops.isEmpty)

/-- The FIFO of the engine that hands over is empty: the reserved engine is withdrawn, or mirroring stops and the stand-in's
context is unpinned (R390). -/
def State.standinDrained (s : State) (i : Nat) (ues : List (Nat × Nat)) : State :=
  match s.standinOf i with
  | none => s
  | some (er, es, k) =>
    if i ∈ s.moved then
      (match s.slotOf er with
       | some x => if x.draining && s.fifosEmpty er then s.withdraw er x ues else s
       | none => s)
    else if i ∈ s.returning ∧ s.fifosEmpty es = true then
      let c := s.ctx es k
      let s := s.setCtx es k { c with cfg := putBits c.cfg 7 7 0, standin := false }
      { s with mirrors := s.mirrors.filter (· ≠ i), returning := s.returning.filter (· ≠ i) }
    else s

/-- A write of SCH_STANDIN_i (R389). DESIGN CHOICE: an engine field of 96 to 127, which names no engine, is no reserved encoding; the manual
does not say (assumption log 88). -/
def State.writeStandin (s : State) (i v : Nat) : State :=
  let es := bits v 14 8
  if es = bits v 7 1 ∨ s.reservedEngine es = true ∨ 1536 < bits v 29 19 + bits v 40 30 then s.regAccess (Reg.schStandin i)
  else s.wr (Reg.schStandin i) v

/-! ### Meanings -/

/-- Contexts and offsets of failed Hatch accesses. -/
def hatchErrs (ues : List (Fin 16 × Fin 262144)) : List (Nat × Nat) := ues.map fun u => (u.1.val, u.2.val)

/-- SELFTEST_LEAD (R388): 100 µs before the rotation's next slot may start. -/
def execSelftestLead (t : Nat) (e : Fin 96) (s : State) : Host.Outcome State Fault Refusal :=
  .next (s.live t fun s =>
    if s.rotates ∧ s.rotationNext = some e.val ∧ (s.health.slotAt = 0 ∨ s.health.slotAt - 1 + us 100 ≤ s.now) then { s with leads := tabSet (fun _ => 0) s.leads e 1 } else s)

/-- SELFTEST_SLOT_START (R388). -/
def execSelftestSlotStart (t : Nat) (e : Fin 96) (ues : List (Fin 16 × Fin 262144)) (s : State) :
    Host.Outcome State Fault Refusal := .next (s.live t fun s => s.slotStart e (hatchErrs ues))

/-- SELFTEST_START (R437). -/
def execSelftestStart (t : Nat) (e : Fin 96) (s : State) : Host.Outcome State Fault Refusal :=
  .next (s.live t fun s => s.testStart e)

/-- SELFTEST_END (R439). -/
def execSelftestEnd (t : Nat) (e : Fin 96) (items : BitVec 12) (ues : List (Fin 16 × Fin 262144)) (s : State) :
    Host.Outcome State Fault Refusal := .next (s.live t fun s => s.testEnd e items.toNat (hatchErrs ues))

/-- SELFTEST_ABANDON (R441). -/
def execSelftestAbandon (t : Nat) (e : Fin 96) (s : State) : Host.Outcome State Fault Refusal :=
  .next (s.live t fun s => s.testAbandon e)

/-- STANDIN_PREPARE (R390). -/
def execStandinPrepare (t : Nat) (i : Fin 4) (s : State) : Host.Outcome State Fault Refusal :=
  .next (s.live t fun s => s.standinPrepare i)

/-- STANDIN_HANDOVER (R390). -/
def execStandinHandover (t : Nat) (i : Fin 4) (s : State) : Host.Outcome State Fault Refusal :=
  .next (s.live t fun s => s.standinHandover i)

/-- STANDIN_FIFO_DRAINED (R390). -/
def execStandinFifoDrained (t : Nat) (i : Fin 4) (ues : List (Fin 16 × Fin 262144)) (s : State) :
    Host.Outcome State Fault Refusal := .next (s.live t fun s => s.standinDrained i (hatchErrs ues))

end Sys2Proof.Machine
end

