-- ==== Sys2Proof/Machine/Nor.lean ====
section
/-! DEFINITION. The boot NOR: reading, programming, erasing, and the logs held in it (R460, R461, R465 to R467, R482, R485). -/

namespace Sys2Proof.Machine

/-- Bytes of a NOR sector. -/
def sectorSize : Nat := 65536

/-- What an erased NOR byte reads as. -/
def norDefault (_ : Nat) : Byte := 0xFF

/-- n bytes of the NOR from an offset. -/
def State.norLoad (s : State) (a n : Nat) : List Byte := tabGetList norDefault s.persist.nor a n

/-- Programs bytes: a bit that is programmed to 0 stays 0 until its sector is erased. -/
def State.norProgram (s : State) (a : Nat) (bs : List Byte) : State :=
  let new := (List.range bs.length).map fun i => tabGet norDefault s.persist.nor (a + i) &&& bs.getD i 0xFF
  { s with persist := { s.persist with nor := tabSetList norDefault s.persist.nor a new } }

/-- Erase count of a sector. -/
def State.eraseCount (s : State) (n : Nat) : Nat := tabGet (fun _ => 0) s.persist.erases n

/-- Erases a sector. -/
def State.norErase (s : State) (n : Nat) : State :=
  let nor := s.persist.nor.filter fun c => !(decide (n * sectorSize ≤ c.1) && decide (c.1 < (n + 1) * sectorSize))
  { s with persist := { s.persist with nor := nor, erases := tabSet (fun _ => 0) s.persist.erases n (s.eraseCount n + 1) } }

/-- The header of a log sector (R460, R482). -/
def sectorHeader (magic erases seq : Nat) : List Byte :=
  let head := leBytes 2 magic ++ [0xFF, 0xFF] ++ leBytes 4 erases ++ leBytes 4 seq
  head ++ leBytes 4 (crc32 head)

/-- The log whose sector has failed goes on in the next sector of its area that is not skipped. -/
def NorLog.onward (l : NorLog) (first count : Nat) : NorLog :=
  let order := (List.range count).map fun i => first + (l.sector - first + 1 + i) % count
  { l with sector := (order.find? (· ∉ l.skipped)).getD first, used := 0 }

/-- Appends a record to a log: a fresh sector that is not erased yet is erased, and gets its header first; a full one is left for the
next. -/
def State.logAppend (s : State) (l : NorLog) (first count magic seq : Nat) (rec : List Byte) : State × NorLog :=
  let l := if first ≤ l.sector ∧ l.sector < first + count then l else { l with sector := first, used := 0 }
  let s := if l.used = 0 then
      let s := if l.ahead = some l.sector then s else s.norErase l.sector
      s.norProgram (l.sector * sectorSize) (sectorHeader magic (s.eraseCount l.sector) seq)
    else s
  let s := s.norProgram (l.sector * sectorSize + 64 + 64 * l.used) rec
  let l := { l with used := l.used + 1, ahead := if l.used = 0 then none else l.ahead }
  (s, if l.used = 1023 then l.onward first count else l)

/-- The highest erase count of an area. -/
def State.highestErase (s : State) (first count : Nat) : Nat :=
  (s.persist.erases.filter fun x => decide (first ≤ x.1) && decide (x.1 < first + count)).foldl (fun m x => max m x.2) 0

/-! ### The fault log (R460, R461) -/

/-- The area of the fault log: its first sector and their number (FLT_NOR_CFG). -/
def State.faultArea (s : State) : Nat × Nat := (s.fld Reg.fltNorCfg 31 8, s.fld Reg.fltNorCfg 7 0)

/-- FLT_NOR_STATE after a change of the log. -/
def State.showFaultLog (s : State) (logged : Nat) : State :=
  let (first, count) := s.faultArea
  let v := satAdd (s.rd Reg.fltNorState) 31 0 logged
  s.wr Reg.fltNorState (putBits (putBits v 47 32 s.persist.log.sector) 63 48 (min 65535 (s.highestErase first count)))

/-- Whether the oldest record that waits to be programmed is FATAL. -/
def State.fatalWaits (s : State) : Bool :=
  s.flt.norQueue.any fun r => decide (leField r 2 1 = Class.fatal)

/-- The record that goes next: the oldest FATAL one, or the oldest. -/
def State.nextLogged (s : State) : Option (List Byte) :=
  match s.flt.norQueue.find? fun r => decide (leField r 2 1 = Class.fatal) with
  | some r => some r
  | none => s.flt.norQueue.head?

/-- Whether a background item whose duration the spec does not declare, and which is therefore free, may run: it fits the slack window, or
no plan runs (R52, R53; assumption log 66). -/
def State.slackNow (s : State) : Bool :=
  !(s.tick.on && s.tick.placed) || decide (Config.freeNat s.free + us 10 ≤ s.slackLeft)

/-- Such an item uses its window (R54). -/
def State.takeSlack (s : State) : State :=
  if s.tick.on && s.tick.placed then ({ s with free := s.free + 1 } : State).useSlack (Config.freeNat s.free / 1100) else s

/-- A program of the fault log ends, with the erase before it in a fresh sector; one that fails writes F_NOR_LOG, and the log skips the sector (R460). -/
def State.logProgram (s : State) (fail : Bool) : State :=
  let (first, count) := s.faultArea
  match s.nextLogged with
  | none => s
  | some r =>
    if count = 0 then s else
    if fail then
      let l := s.persist.log
      let here := decide (first ≤ l.sector) && decide (l.sector < first + count)
      let bad := if here then l.sector else first
      let cause : Nat := if here && (decide (l.used ≠ 0) || decide (l.ahead = some l.sector)) then 1 else 2
      let l := ({ l with sector := bad, skipped := bad :: l.skipped } : NorLog).onward first count
      let s := ({ s with persist := { s.persist with log := l } }).showFaultLog 0
      postFault s { code := F.norLog, cls := Class.degraded, block := Blk.flt, payload := cause + bad * 2 ^ 8 }
    else
      let (s, l) := s.logAppend s.persist.log first count 0x4C46 (leField r 24 4) r
      ({ s with persist := { s.persist with log := l },
                flt := { s.flt with norQueue := s.flt.norQueue.erase r } }).showFaultLog 1

/-- The priority of the firmware command in progress: an erase gives way to every other operation (R467). -/
def NorOp.rank (o : NorOp) : Nat := if o.cmd = 2 then 5 else 3

/-- Whether a record of the fault log waits for the NOR port, and no operation of a higher rank holds it (R460, R467). In RECOVERY nothing
is logged (R476). -/
def State.logReady (s : State) : Bool :=
  decide (s.fld Reg.secStatus 2 0 ≠ 6) && !s.flt.norQueue.isEmpty && decide (s.fld Reg.fltNorCfg 7 0 ≠ 0) &&
    (s.fatalWaits || (match s.sec.op with
      | some o => decide (4 < o.rank)
      | none => true))

/-- Whether such a record is the NOR port's next operation: a FATAL one at once, others in slack (R460). -/
def State.logTurn (s : State) : Bool := s.logReady && (s.fatalWaits || s.slackNow)

/-- The sector that the fault log enters next, when it has to be erased before the current one fills: background work that gives way to every
other operation of the NOR (R460, R467, R476). -/
def State.eraseDue (s : State) : Option Nat :=
  let l := s.persist.log
  let (first, count) := s.faultArea
  let n := (l.onward first count).sector
  if s.fld Reg.secStatus 2 0 ≠ 6 ∧ count ≠ 0 ∧ l.used ≠ 0 ∧ l.ahead = none ∧ n ≠ l.sector ∧ s.sec.op.isNone then some n else none

/-- The erase of the log's next sector ends; one that fails writes F_NOR_LOG, and the log skips the sector (R460). -/
def State.eraseNext (s : State) (n : Nat) (fail : Bool) : State :=
  let l := s.persist.log
  if fail then
    postFault { s with persist := { s.persist with log := { l with skipped := n :: l.skipped } } }
      { code := F.norLog, cls := Class.degraded, block := Blk.flt, payload := 2 + n * 2 ^ 8 }
  else
    let s := s.norErase n
    ({ s with persist := { s.persist with log := { l with ahead := some n } } } : State).showFaultLog 0

/-- The admission bucket gains a token: SECTORS / 8 records per second, up to 64 (R461). -/
def State.norTokenRefill (s : State) : State :=
  let n := s.fld Reg.fltNorCfg 7 0
  if n = 0 ∨ s.now < s.flt.norTokensAt + us 8000000 / n then s else
  { s with flt := { s.flt with norTokens := min 512 (s.flt.norTokens + 8), norTokensAt := s.now } }

/-! ### Meanings -/

/-- NOR_LOG_PROGRAM (R460): a record that waits, or with none the erase of the log's next sector; outside slack they are deferred (R52). -/
def execNorLogProgram (t : Nat) (fail : Bool) (s : State) : Host.Outcome State Fault Refusal :=
  .next (s.live t fun s =>
    if s.logTurn then (if s.fatalWaits then s else s.takeSlack).logProgram fail
    else if s.logReady then s.deferItem
    else match s.eraseDue with
      | some n => if s.slackNow then s.takeSlack.eraseNext n fail else s.deferItem
      | none => s)

/-- NOR_LOG_TOKEN_REFILL (R461). -/
def execNorLogTokenRefill (t : Nat) (s : State) : Host.Outcome State Fault Refusal :=
  .next (s.live t fun s => s.norTokenRefill)

end Sys2Proof.Machine
end

