-- ==== Sys2Proof/Machine/Health.lean ====
section
/-! DEFINITION. Health: sensors and thermal caps, droops and the FATAL shutdown, process monitors, units taken out of service,
requests, full-rate mode, lockstep, telemetry (R436, R443 to R449, R455, R458, R459, R493). -/

namespace Sys2Proof.Machine

/-! ### Shutdown (R447, R448, R495, R499) -/

/-- An orderly shutdown begins: PWR_STATUS holds its cause, and every issue gate closes (R499). -/
def State.beginShutdown (s : State) (cause rail : Nat) : State :=
  if s.power.shutting.isSome then s else
  let st := putBits (putBits (putBits (s.rd Reg.pwrStatus) 3 3 1) 7 4 cause) 12 8 rail
  let s := { s.wr Reg.pwrStatus st with power := { s.power with shutting := some (cause, rail) } }
  (List.range 96).foldl (fun (s : State) (e : Nat) =>
    s.setEng e { s.eng e with gateClosed := true, ramp := .idle, rampStep := 0 }) s

/-! ### Temperature (R445 to R447) -/

/-- The die of a sensor: D0, D1, IOA, IOB. -/
def sensorDie (i : Nat) : Nat := if i < 48 then 0 else if i < 96 then 1 else if i < 112 then 2 else 3

/-- The first sensor of a die, and how many it has. -/
def dieSensors (d : Nat) : Nat × Nat := if d < 2 then (48 * d, 48) else (96 + 16 * (d - 2), 16)

/-- The four nearest neighbours of a sensor on its die: the manual does not give the sensors' places. -/
def nearSensors (i : Nat) : List Nat :=
  let (b, n) := dieSensors (sensorDie i)
  (List.range 4).map fun k => b + (i - b + 1 + Config.sensorNear i k % (n - 1)) % n

/-- The reading of a sensor in 1/16 °C. -/
def State.temp (s : State) (i : Nat) : Int := toSigned 16 (s.fld (Reg.hltTemp i) 15 0)

/-- Whether a sensor is marked FAILED. -/
def State.sensorFailed (s : State) (i : Nat) : Bool := bit (s.rd (Reg.hltTemp i)) 16

/-- Twice the median of four readings: the sum of the two in the middle. -/
def median4 (xs : List Int) : Int :=
  xs.foldl (· + ·) 0 - xs.foldl max (xs.headD 0) - xs.foldl min (xs.headD 0)

/-- The sensor of a die with the highest valid reading. -/
def State.hottest (s : State) (d : Nat) : Option Nat :=
  let (b, n) := dieSensors d
  ((List.range n).map (b + ·)).foldl (fun best i =>
    if s.sensorFailed i then best else
    match best with
    | some j => if s.temp j < s.temp i then some i else best
    | none => some i) none

/-- A sensor's state. -/
def State.sensorSt (s : State) (i : Nat) : SensorSt := tabGet (fun _ => {}) s.health.sensors i

/-- Sets it. -/
def State.setSensorSt (s : State) (i : Nat) (x : SensorSt) : State :=
  { s with health := { s.health with sensors := tabSet (fun _ => {}) s.health.sensors i x } }

/-- The cross-check of a sensor: more than 10 °C from the median of its neighbours in three samples in a row marks it FAILED
(R445). -/
def State.crossCheck (s : State) (i : Nat) : State :=
  if s.sensorFailed i then s else
  let m2 := median4 ((nearSensors i).map s.temp)
  let x := s.sensorSt i
  if (2 * s.temp i - m2).natAbs ≤ 320 then s.setSensorSt i { x with far := 0 }
  else if x.far + 1 < 3 then s.setSensorSt i { x with far := x.far + 1 }
  else
    let s := ((s.setSensorSt i { x with far := 3 }).setBit (Reg.hltTemp i) 16 true).event Reg.hltIntStatus 4
    postFault s { code := F.sensor, cls := Class.degraded, block := Blk.hlt, unit := i,
                  payload := i + s.fld (Reg.hltTemp i) 15 0 * 2 ^ 16 + ofSigned 16 (m2 / 2) * 2 ^ 32 }

/-- F_THERMAL: cause 1 THROTTLE or 2 SHUTDOWN (R451). -/
def State.thermalRecord (s : State) (cause cls i : Nat) : State :=
  postFault s { code := F.thermal, cls := cls, block := Blk.hlt, unit := i,
                payload := cause + i * 2 ^ 8 + s.fld (Reg.hltTemp i) 15 0 * 2 ^ 16 }

/-- A valid sensor at 115 °C or more in two samples in a row shuts the module down (R447). -/
def State.tripCheck (s : State) (i : Nat) : State :=
  let x := s.sensorSt i
  if s.sensorFailed i ∨ s.temp i < 1840 then s.setSensorSt i { x with hot := 0 }
  else if x.hot = 0 then s.setSensorSt i { x with hot := 1 }
  else if s.power.shutting.isSome then s
  else (s.thermalRecord 2 Class.fatal i).beginShutdown 1 0

/-- A die's thermal cap. -/
def State.dieSt (s : State) (d : Nat) : DieSt := s.health.dies.getD d {}

/-- Sets it. -/
def State.setDieSt (s : State) (d : Nat) (x : DieSt) : State :=
  { s with health := { s.health with dies := s.health.dies.set d x } }

/-- The cap that a die imposes: its thermal cap, and 4/8 with more than four failed sensors (R445, R446). -/
def State.dieCap (s : State) (d : Nat) : Nat :=
  let (b, n) := dieSensors d
  let failed := ((List.range n).filter fun i => s.sensorFailed (b + i)).length
  if 4 < failed then min 4 (s.dieSt d).cap else (s.dieSt d).cap

/-- Cycles for which some cap has been below 8/8 (HLT_THROTTLE_COUNT). -/
def State.throttledCycles (s : State) : Nat :=
  s.health.hotCycles + (match s.health.hotSince with
    | some c => s.now - c
    | none => 0)

/-- Notes since when some die's cap has been below 8/8. -/
def State.noteThrottle (s : State) : State :=
  let hot := s.health.dies.any fun d => decide (d.cap < 8)
  match s.health.hotSince, hot with
  | none, true => { s with health := { s.health with hotSince := some s.now } }
  | some _, false => { s with health := { s.health with hotCycles := s.throttledCycles, hotSince := none } }
  | _, _ => s

/-- The thermal caps in force on every engine (R446). -/
def State.applyThermal (s : State) : State :=
  let io := min (s.dieCap 2) (s.dieCap 3)
  let c0 := min (s.dieCap 0) io
  let c1 := min (s.dieCap 1) io
  (List.range 96).foldl (fun (s : State) (e : Nat) =>
    s.setEng e { s.eng e with capThermal := if e < 48 then c0 else c1 }) s.noteThrottle

/-- The cap of a die falls by 1/8; from 8/8 that is an entry into throttling (R446). -/
def State.capDown (s : State) (d i : Nat) : State :=
  let x := s.dieSt d
  let s := s.setDieSt d { x with cap := max 1 (x.cap - 1), downAt := some s.now, upAt := none }
  if x.cap = 8 then ((s.bump Reg.hltThrottleCount 31 0 1).event Reg.hltIntStatus 3).thermalRecord 1 Class.info i else s

/-- A sample of a die: the first hot one steps its cap down, and the band between the two limits holds it (R446). -/
def State.dieSample (s : State) (d : Nat) : State :=
  match s.hottest d with
  | none => s
  | some i =>
    let limit : Int := (s.fld Reg.hltThermCfg 7 0 * 16 : Nat)
    let low : Int := limit - (s.fld Reg.hltThermCfg 15 8 * 16 : Nat)
    let x := s.dieSt d
    let s := s.setFld Reg.hltThermStatus (16 * d + 15) (16 * d) (s.fld (Reg.hltTemp i) 15 0)
    if limit ≤ s.temp i then (if x.downAt.isSome then s else s.capDown d i)
    else if s.temp i < low then s.setDieSt d { x with downAt := none, upAt := some (x.upAt.getD s.now) }
    else s.setDieSt d { x with downAt := none, upAt := none }

/-- A sample of all 128 sensors: readings by sensor, in 1/16 °C (R445 to R447). A SENSORS request that fits into slack is answered
by it (R444). -/
def State.sampleAll (s : State) (readings : List Nat) : State :=
  let before := (List.range 128).filter s.sensorFailed
  let s := (List.range 128).foldl (fun (s : State) (i : Nat) => s.setFld (Reg.hltTemp i) 15 0 (readings.getD i 0)) s
  let s := (List.range 128).foldl (fun (s : State) (i : Nat) => s.crossCheck i) s
  let s := (List.range 128).foldl (fun (s : State) (i : Nat) => s.tripCheck i) s
  let s := ((List.range 4).foldl (fun (s : State) (d : Nat) => s.dieSample d) s).applyThermal
  match s.health.requests.find? fun r => decide (r.1 = 1) with
  | some r =>
    if s.slackFits 50 then
      (s.takeRequest 1 r.2).postResult 1 r.2 (decide ((List.range 128).filter s.sensorFailed = before)) 0 0
    else s
  | none => s

/-- A step of a die's cap that is due: down every 100 µs, up every 1 ms (R446). -/
def State.capStep (s : State) (d : Nat) : State :=
  let x := s.dieSt d
  let s := match x.downAt, x.upAt with
    | some c, _ => if c + us 100 ≤ s.now then s.capDown d ((s.hottest d).getD 0) else s
    | none, some c =>
      if c + us 1000 ≤ s.now then s.setDieSt d { x with cap := min 8 (x.cap + 1), upAt := some s.now } else s
    | none, none => s
  s.applyThermal

/-! ### Rails and process monitors (R448, R449, R493) -/

/-- Nominal voltage of a rail in mV. -/
def railNominal (r : Nat) : Nat :=
  if r < 16 then 750 else if r < 20 then 800 else if r < 22 then 900 else if r < 24 then 1200 else if r < 26 then 1100
  else if r < 28 then 400 else if r = 28 then 1800 else if r = 29 then 1050 else if r = 30 then 500 else 1800

/-- Whether a rail feeds an engine. -/
def railFeeds (r e : Nat) : Bool :=
  if r < 16 then decide (e / 6 = r) else if r = 16 then decide (e < 48) else if r = 17 then decide (48 ≤ e) else false

/-- A rail's droop detector. -/
def State.railSt (s : State) (r : Nat) : RailSt := tabGet (fun _ => {}) s.health.rails r

/-- Sets it. -/
def State.setRailSt (s : State) (r : Nat) (x : RailSt) : State :=
  { s with health := { s.health with rails := tabSet (fun _ => {}) s.health.rails r x } }

/-- The droop caps in force on every engine. -/
def State.applyDroop (s : State) : State :=
  (List.range 96).foldl (fun (s : State) (e : Nat) =>
    let low := (List.range 18).any fun r => railFeeds r e && (s.railSt r).droop.isSome
    s.setEng e { s.eng e with capDroop := if low then 4 else 8 }) s

/-- The lowest voltage a rail has shown. -/
def State.noteLowest (s : State) (r mv : Nat) : State :=
  let old := s.fld (Reg.hltDroop r) 47 32
  s.setFld (Reg.hltDroop r) 47 32 (if old = 0 then mv else min old mv)

/-- F_POWER (R451). -/
def State.powerRecord (s : State) (cause cls rail v : Nat) : State :=
  postFault s { code := F.power, cls := cls, block := Blk.hlt, unit := if cause = 3 then 0xFFFF else rail,
                payload := cause + rail * 2 ^ 8 + v * 2 ^ 16 }

/-- A rail droops: counted; the engines on it go to 4/8, and a record is written once in 1 ms (R448). -/
def State.droopStart (s : State) (r mv : Nat) : State :=
  if railNominal r * (100 - s.fld Reg.hltDroopCfg 3 0) < mv * 100 then s else
  let s := (((s.bump (Reg.hltDroop r) 31 0 1).noteLowest r mv).event Reg.hltIntStatus 5)
  let x := s.railSt r
  let quiet := decide (0 < x.noted) && decide (s.now < x.noted - 1 + us 1000)
  let s := (s.setRailSt r { droop := some s.now, noted := if quiet then x.noted else s.now + 1 }).applyDroop
  if quiet then s else s.powerRecord 1 Class.info r (s.fld (Reg.hltDroop r) 47 32)

/-- 10 µs after the cap has reached 4/8 it steps back (R448). -/
def State.droopEnd (s : State) (r : Nat) : State :=
  let x := s.railSt r
  match x.droop with
  | some c => if c + 256 + us 10 ≤ s.now then (s.setRailSt r { x with droop := none }).applyDroop else s
  | none => s

/-- A rail has been below 90 % for more than 1 µs (R448). -/
def State.undervolt (s : State) (r mv : Nat) : State :=
  if railNominal r * 9 ≤ mv * 10 ∨ s.power.shutting.isSome then s else
  let s := (s.noteLowest r mv).setBit (Reg.hltDroop r) 48 true
  (s.powerRecord 2 Class.fatal r (s.fld (Reg.hltDroop r) 47 32)).beginShutdown 2 r

/-- Input power has been above the fused cap for 10 ms with every duty cap at 1/8 (R448). -/
def State.overcap (s : State) (watts : Nat) : State :=
  if watts ≤ s.fld Reg.pwrCapFuse 15 0 ∨ s.power.shutting.isSome ∨
      !((List.range 96).all fun e => decide ((s.eng e).duty = 1)) then s else
  (s.powerRecord 3 Class.fatal 0 watts).beginShutdown 3 0

/-- A count of a ring-oscillator monitor (R449). -/
def State.procSample (s : State) (i n : Nat) : State :=
  let old := s.fld (Reg.hltProc i) 63 32
  s.wr (Reg.hltProc i) (n + (if old = 0 then n else min old n) * 2 ^ 32)

/-! ### Units out of service (R436) -/

/-- The key under which a unit's check failures are kept, its BLOCK and its UNIT. -/
def CheckedUnit.site : CheckedUnit → Nat × Nat
  | .engine e => (Blk.eng, e.val)
  | .decoder i => (Blk.vdc, i.val)
  | .controller .pantry ch => (Blk.pnt, ch.val)
  | .controller .cellar ch => (Blk.cel, ch.val)
  | .port n => (Blk.ktf, n.val)
  | .tickBlock => (Blk.tck, 0xFFFF)
  | .schedulerBlock => (Blk.sch, 0xFFFF)
  | .aligner => (Blk.ing, 0xFFFF)
  | .securityBlock => (Blk.sec, 0xFFFF)

/-- Check failures of a unit within the last 1 s. -/
def State.recentChecks (s : State) (u : CheckedUnit) : Nat :=
  (s.flt.checks.filter fun c => decide (c.1 = u.site.1 * 65536 + u.site.2) && decide (s.now < c.2 + us 1000000)).length

/-- F_CTL_CHECK (R451). -/
def State.ctlCheck (s : State) (u : CheckedUnit) (cls cause structure' da : Nat) : State :=
  postFault s { code := F.ctlCheck, cls := cls, block := u.site.1, unit := u.site.2,
                payload := cause + structure' * 2 ^ 8 + da * 2 ^ 16 }

/-- A unit is taken out of service: an engine goes to its retest, a decoder is withdrawn, a port and a memory channel fail
(R436). -/
def State.takeOut (s : State) (u : CheckedUnit) : State :=
  match u with
  | .engine e => { s with health := { s.health with retest := s.health.retest ++ [e.val] } }
  | .decoder i => s.setBit Reg.hltEngOosHi (32 + i.val) true
  | .controller tr ch => if ch.val ∈ (s.tier tr).failed ∨ tr.channels ≤ ch.val then s else s.failChannel tr ch
  | .port n => if s.linkState n = 3 then s else s.failLink n 0
  | _ => s

/-- Whether a unit has no spare: its persistent failure is FATAL (R436). -/
def CheckedUnit.vital : CheckedUnit → Bool
  | .tickBlock => true
  | .schedulerBlock => true
  | .aligner => true
  | .securityBlock => true
  | _ => false

/-- The picture that a decoder instance decodes when a check of it fails ends FAULTED with F_CTL_CHECK (R434). -/
def State.checkedPicture (s : State) (u : CheckedUnit) : State :=
  match u with
  | .decoder i =>
    (match s.decoding i with
     | some (ent, d) => s.failPic ent d.pic { cause := 0, check := true } (some d) false
     | none => s)
  | _ => s

/-- A check of a unit fails. It is kept with those of the last 1 s; at the threshold the unit is taken out of service. The failures
of an engine's datapath are kept by their own commands, so an engine is only judged here (R436). -/
def State.unitCheck (s : State) (u : CheckedUnit) (cause structure' da : Nat) : State :=
  let isEngine := decide (u.site.1 = Blk.eng)
  let s := if isEngine then s else
    { s with flt := { s.flt with checks := (u.site.1 * 65536 + u.site.2, s.now) :: s.flt.checks } }
  let reached := decide (s.fld Reg.hltFailThresh 7 0 ≤ s.recentChecks u)
  if isEngine then
    (if reached && !(s.engineOut u.site.2) && !(s.health.retest.contains u.site.2) then s.takeOut u else s)
  else
    let cls := if !reached then Class.contained else if u.vital then Class.fatal else Class.degraded
    let s := (s.ctlCheck u cls cause structure' da).checkedPicture u
    if reached then s.takeOut u else s

/-! ### Requests and full-rate mode (R443, R444) -/

/-- Targets of a kind of request. -/
def requestTargets (kind : Nat) : Nat :=
  match kind with
  | 0 => 96
  | 1 => 256
  | 2 => 192
  | 3 => 256
  | _ => 0

/-- A write of HLT_ST_REQ: the request is queued, or dropped and counted when sixteen wait. A reserved kind or target drops the
write (R13, R444). -/
def State.writeStReq (s : State) (v : Nat) : State :=
  let kind := bits v 2 0
  let target := bits v 15 8
  if requestTargets kind ≤ target then s.regReserved Reg.hltStReq
  else if 16 ≤ s.health.requests.length then (s.bump Reg.hltStCount 63 48 1).setBit Reg.hltStStatus 17 true
  else
    let rs := s.health.requests ++ [(kind, target)]
    ({ s with health := { s.health with requests := rs } }).setFld Reg.hltStStatus 28 24 rs.length

/-- A calibration has ended: the request for it is answered (R93, R444). -/
def State.calibrationDone (s : State) (tr : Tier) (ch : Nat) : State :=
  let was := (s.tier tr).paused.any fun c => decide (c.1 = ch)
  let s := s.calibrated tr ch
  let kind := match tr with
    | .pantry => 2
    | .cellar => 3
  if was && s.health.requests.contains (kind, ch) then (s.takeRequest kind ch).postResult kind ch true 0 0 else s

/-- Full-rate mode begins or ends; HLT_ST_STATUS shows it (R443). -/
def State.setFullRate (s : State) (since : Option Nat) : State :=
  ({ s with health := { s.health with fullSince := since } }).setBit Reg.hltStStatus 16 since.isSome

/-- A write of HLT_ST_CTRL (R443). -/
def State.writeStCtrl (s : State) (v : Nat) : State :=
  let s := s.wr Reg.hltStCtrl (v &&& 0x0FFF0001)
  if bit v 0 then (if s.health.fullSince.isSome then s else s.setFullRate (some s.now)) else s.setFullRate none

/-- FULLRATE_LIMIT has passed (R443). -/
def State.fullRateOver (s : State) : State :=
  match s.health.fullSince with
  | some c =>
    if c + us (s.fld Reg.hltStCtrl 27 16 * 1000000) ≤ s.now then (s.setFullRate none).event Reg.hltIntStatus 2 else s
  | none => s

/-! ### Lockstep (R455) -/

/-- A lockstep mismatch of the active pair, whose PC it was (R455). -/
def State.lockstepMismatch (s : State) (pc : Nat) : State :=
  let second := s.health.standby || s.health.mismatch.isSome
  let s := { s with health := { s.health with mismatch := some pc } }
  postFault s { code := F.stewardLockstep, cls := if second then Class.fatal else Class.degraded, block := Blk.hlt,
                payload := (if second then 2 else 1) + pc * 2 ^ 8 }

/-- The standby pair resumes (R455). -/
def State.failover (s : State) : State :=
  if s.health.mismatch.isSome && !s.health.standby then
    { s with health := { s.health with mismatch := none, standby := true } }
  else s

/-! ### Register writes of FLT (R458, R464) -/

/-- A write of FLT_INJECT (R458). -/
def State.writeInject (s : State) (v : Nat) : State :=
  let code := bits v 15 0
  if codeKnown code then
    postFault s { code := code, cls := codeClass code, block := Blk.flt, injected := true }
  else s.regReserved Reg.fltInject

/-- A write of FLT_RING_HEAD, dropped beyond TAIL (R464). -/
def State.writeRingHead (s : State) (v : Nat) : State :=
  if 0 < ahead32 (bits v 31 0) (s.fld Reg.fltRingTail 31 0) then s.regAccess Reg.fltRingHead
  else s.wr Reg.fltRingHead (bits v 31 0)

/-! ### Telemetry (R459) -/

/-- The sum of a field over registers. -/
def State.sumFld (s : State) (rs : List Nat) (hi lo : Nat) : Nat := (rs.map fun a => s.fld a hi lo).foldl (· + ·) 0

/-- The counters whose deltas telemetry reports, in the order of the record. -/
def State.telCounters (s : State) : List Nat :=
  let engs := List.range 96
  let parts := List.range 8
  let stalls := fun (f : List (Nat → Nat)) => (f.map fun r => s.sumFld (parts.map r) 63 0).foldl (· + ·) 0
  let ports := List.range 8
  [s.throttledCycles / 1100,
   s.sumFld (engs.map Reg.engIssueCycles) 63 0, s.sumFld (engs.map Reg.engHoldCycles) 63 0,
   stalls [Reg.pntStallReg, Reg.pntStallCal, Reg.pntStallRef, Reg.pntStallLate],
   stalls [Reg.celStallReg, Reg.celStallCal, Reg.celStallRef, Reg.celStallLate],
   s.rd Reg.pntCeCount, s.rd Reg.pntUeCount, s.rd Reg.celCeCount, s.rd Reg.celUeCount,
   s.sumFld (ports.map Reg.ktfPortFec ++ [Reg.atcFec]) 31 0,
   s.sumFld (ports.map Reg.ktfPortReplay ++ [Reg.atcReplay]) 31 0,
   s.rd (Reg.fltCount 0), s.rd (Reg.fltCount 1), s.rd (Reg.fltCount 2), s.rd (Reg.fltCount 3), s.rd (Reg.fltCount 4),
   s.sumFld ((List.range 32).map Reg.hltDroop) 31 0]

/-- The mean valid temperature of a die, in 1/16 °C. -/
def State.meanTemp (s : State) (d : Nat) : Int :=
  let (b, n) := dieSensors d
  let ok := ((List.range n).map (b + ·)).filter fun i => !s.sensorFailed i
  if ok.isEmpty then 0 else (ok.map s.temp).foldl (· + ·) 0 / (ok.length : Int)

/-- A value as an unsigned field of n bytes, saturating. -/
def satBytes (n v : Nat) : List Byte := leBytes n (min v (2 ^ (8 * n) - 1))

/-- The 256 bytes of a telemetry record. -/
def State.telRecord (s : State) : List Byte :=
  let cs := s.telCounters
  let d := fun (i : Nat) => cs.getD i 0 - s.health.telBase.getD i 0
  let dies := List.range 4
  let hot := s.health.dies.any fun x => decide (x.cap < 8)
  let skip := (List.range 96).any s.skipped
  let flags := b2n hot + 2 * b2n s.health.fullSince.isSome + 4 * b2n skip + 8 * b2n s.health.telDropped
  let mean := fun (v : Nat) => if s.power.samples = 0 then 0 else v / s.power.samples
  let temps := fun (f : Nat → Int) => dies.flatMap fun i => leBytes 2 (ofSigned 16 (f i))
  let proc := dies.flatMap fun i => satBytes 4 (s.sumFld ((List.range 8).map fun k => Reg.hltProc (8 * i + k)) 31 0 / 8)
  let sensors := ((List.range 128).filter s.sensorFailed).length
  leBytes 4 s.health.telSeq ++ leBytes 2 1 ++ leBytes 2 flags ++ leBytes 8 s.timeNs ++ leBytes 8 (s.rd Reg.tckCount) ++
    temps (fun i => toSigned 16 (s.fld Reg.hltThermStatus (16 * i + 15) (16 * i))) ++ temps s.meanTemp ++
    satBytes 4 (mean s.power.sumPower) ++ satBytes 4 s.power.peak ++ satBytes 4 (mean s.power.sumVolts) ++ satBytes 4 (d 0) ++
    leBytes 8 (s.rd Reg.hltEngOosLo) ++ leBytes 4 (s.fld Reg.hltEngOosHi 31 0) ++
    leBytes 4 (s.fld Reg.hltEngOosHi 55 32 + sensors * 2 ^ 24) ++
    satBytes 8 (d 1 / 1024) ++ satBytes 8 (d 2 / 1024) ++ satBytes 8 (d 3) ++ satBytes 8 (d 4) ++
    satBytes 4 (d 5) ++ satBytes 4 (d 6) ++ satBytes 4 (d 7) ++ satBytes 4 (d 8) ++ satBytes 4 (d 9) ++ satBytes 4 (d 10) ++
    (List.range 5).flatMap (fun c => satBytes 4 (d (11 + c))) ++ proc ++ satBytes 4 (d 16) ++ leBytes 88 0

/-- Writes the buffered records to the telemetry ring. -/
def State.telFlush (s : State) : State :=
  let size := 2 ^ s.fld Reg.hltTelCfg 20 16
  let recs := s.health.tel
  let s := recs.foldl (fun (s : State) (r : List Byte) =>
    s.storeIfMem (s.rd Reg.hltTelDa + leField r 0 4 % size * 256) r) s
  { s with health := { s.health with tel := [] } }

/-- Whether a telemetry record is due: every PERIOD_MS ms, or once in each tick. -/
def State.telDue (s : State) : Bool :=
  let ms := s.fld Reg.hltTelCfg 47 32
  bit (s.rd Reg.hltTelCfg) 0 &&
    (if ms = 0 then s.tick.placed && decide (s.health.telAt < s.tick.boundary) else decide (s.health.telAt + us (ms * 1000) ≤ s.now))

/-- A telemetry record is formed; the buffer of 64 drops its oldest when full, and is flushed in slack (R459). -/
def State.telForm (s : State) : State :=
  let full := decide (64 ≤ s.health.tel.length)
  let s := if full then (s.bump Reg.hltTelState 63 32 1).event Reg.hltIntStatus 6 else s
  let kept := if full then s.health.tel.drop 1 else s.health.tel
  let dropped := full || s.health.telDropped
  let s := { s with health := { s.health with telDropped := dropped } }
  let rec' := s.telRecord
  let s := { s with
    health := { s.health with tel := kept ++ [rec'], telSeq := (s.health.telSeq + 1) % 2 ^ 32, telDropped := false,
                              telBase := s.telCounters, telAt := s.now }
    power := { s.power with samples := 0, sumPower := 0, sumVolts := 0, peak := 0 } }
  let s := s.setFld Reg.hltTelState 31 0 s.health.telSeq
  if s.slackNow then s.takeSlack.telFlush else s.deferItem

/-! ### Meanings -/

/-- SENSOR_SAMPLE (R445 to R447). -/
def execSensorSample (t : Nat) (readings : List (BitVec 16)) (s : State) : Host.Outcome State Fault Refusal :=
  .next (s.live t fun s => s.sampleAll (readings.map (·.toNat)))

/-- THERMAL_CAP_STEP (R446). -/
def execThermalCapStep (t : Nat) (die : Fin 4) (s : State) : Host.Outcome State Fault Refusal :=
  .next (s.live t fun s => s.capStep die)

/-- DROOP (R448). -/
def execDroop (t : Nat) (rail : Fin 32) (mv : BitVec 16) (s : State) : Host.Outcome State Fault Refusal :=
  .next (s.live t fun s => s.droopStart rail mv.toNat)

/-- DROOP_RECOVER (R448). -/
def execDroopRecover (t : Nat) (rail : Fin 32) (s : State) : Host.Outcome State Fault Refusal :=
  .next (s.live t fun s => s.droopEnd rail)

/-- UNDERVOLT (R448). -/
def execUndervolt (t : Nat) (rail : Fin 32) (mv : BitVec 16) (s : State) : Host.Outcome State Fault Refusal :=
  .next (s.live t fun s => s.undervolt rail mv.toNat)

/-- OVERCAP (R448). -/
def execOvercap (t : Nat) (watts : BitVec 16) (s : State) : Host.Outcome State Fault Refusal :=
  .next (s.live t fun s => s.overcap watts.toNat)

/-- PROC_MONITOR_SAMPLE (R449). -/
def execProcMonitorSample (t : Nat) (i : Fin 32) (n : BitVec 32) (s : State) : Host.Outcome State Fault Refusal :=
  .next (s.live t fun s => s.procSample i n.toNat)

/-- UNIT_OUT_OF_SERVICE (R436). -/
def execUnitOutOfService (t : Nat) (u : CheckedUnit) (cause structure' : BitVec 8) (da : BitVec 64) (s : State) :
    Host.Outcome State Fault Refusal := .next (s.live t fun s => s.unitCheck u cause.toNat structure'.toNat da.toNat)

/-- CALIBRATION_END (R93, R444). -/
def execCalibrationEnd (t : Nat) (tier : Tier) (ch : Fin 256) (s : State) : Host.Outcome State Fault Refusal :=
  .next (s.live t fun s => s.calibrationDone tier ch)

/-- FULLRATE_EXPIRED (R443). -/
def execFullrateExpired (t : Nat) (s : State) : Host.Outcome State Fault Refusal :=
  .next (s.live t fun s => s.fullRateOver)

/-- LOCKSTEP_MISMATCH (R455). -/
def execLockstepMismatch (t : Nat) (pc : BitVec 64) (s : State) : Host.Outcome State Fault Refusal :=
  .next (s.live t fun s => s.lockstepMismatch pc.toNat)

/-- STEWARD_FAILOVER (R455). -/
def execStewardFailover (t : Nat) (s : State) : Host.Outcome State Fault Refusal :=
  .next (s.live t fun s => s.failover)

/-- TELEMETRY_RECORD (R459). -/
def execTelemetryRecord (t : Nat) (s : State) : Host.Outcome State Fault Refusal :=
  .next (s.live t fun s => if s.telDue then s.telForm else s)

end Sys2Proof.Machine
end

