-- ==== Sys2Proof/Machine/Secure.lean ====
section
/-! DEFINITION. The security block: the slot checks, keys and the SVN floor, the signing state and attestation, and firmware's NOR
commands (R465 to R486, R489, R490). -/

namespace Sys2Proof.Machine

/-! ### The image (R466, R468 to R471) -/

/-- Bytes of a slot. -/
def slotSize : Nat := 0x1800000

/-- NOR offset of slot A (0) or B (1). -/
def slotBase (slot : Nat) : Nat := slot * slotSize

/-- A field of n bytes in a slot. -/
def State.slotField (s : State) (slot ofs n : Nat) : Nat := leNat (s.norLoad (slotBase slot + ofs) n)

/-- n bytes of SHA-256. -/
def sha256Bytes (bs : List Byte) : List Byte := (List.range 32).map (Config.sha256 bs)

/-- Check 1: MAGIC, FORMAT, BYTES, SIG_OFS, KEY_SLOT and the RSV fields (R475). -/
def State.headerOk (s : State) (slot : Nat) : Bool :=
  let f := s.slotField slot
  decide (f 0 4 = 0x4C535745) && decide (f 4 2 = 1) && decide (f 16 4 % 64 = 0) && decide (f 16 4 ≤ f 28 4) &&
    decide (f 28 4 + 2828 ≤ slotSize) && decide (f 24 1 ≤ 3) && decide (f 25 3 = 0) && decide (f 88 40 = 0)

/-- IMAGE_SEQ of a slot. -/
def State.imageSeq (s : State) (slot : Nat) : Nat := s.slotField slot 12 4

/-- The slot tried first (R474). -/
def State.firstSlot (s : State) : Nat :=
  match s.headerOk 0, s.headerOk 1 with
  | true, true => if s.imageSeq 0 < s.imageSeq 1 then 1 else 0
  | false, true => 1
  | _, _ => 0

/-- The signed region of a slot. -/
def State.signedRegion (s : State) (slot : Nat) : List Byte := s.norLoad (slotBase slot) (s.slotField slot 16 4)

/-- The 32 bytes of a key slot's hash (R473, R516). -/
def State.keyHash (s : State) (k : Nat) : List Byte :=
  if k < 2 then (List.range 4).flatMap fun i => leBytes 8 (Config.keyHash k i).toNat
  else tabGet (fun _ => []) s.persist.keys k

/-- Whether a key slot is programmed: slots 0 and 1 by Felras, 2 and 3 by the integrator. -/
def State.keyProgrammed (s : State) (k : Nat) : Bool := decide (k < 2) || !(s.keyHash k).isEmpty

/-- Whether a key slot is revoked. -/
def State.keyRevoked (s : State) (k : Nat) : Bool := s.persist.revoked.contains k

/-- Whether a DA names a register of the SEC block. -/
def isSecReg (a : Nat) : Bool := decide (regBase + 11 * 2 ^ 24 ≤ a) && decide (a < regBase + 12 * 2 ^ 24)

/-- Whether the record of a slot at an offset meets R470 and R471 by itself. -/
def State.recordOk (s : State) (slot ofs : Nat) : Bool :=
  let f := fun (i n : Nat) => s.slotField slot (ofs + i) n
  let len := f 4 4
  let target := f 8 8
  let pay := fun (i n : Nat) => f (16 + i) n
  let pads := decide (f (16 + len) ((16 - len % 16) % 16) = 0)
  decide (f 2 2 = 0) && pads &&
    match f 0 2 with
    | 1 => decide (target = 0) && decide (len % 16 = 0) && (List.range (len / 16)).all fun i => !isSecReg (pay (16 * i) 8)
    | 2 => decide (target % 64 = 0) && (tierOf target).isSome
    | 3 => decide (tierOf target = some .pantry) && decide (8 ≤ len)
    | 4 => decide (target = 0) && decide (12 ≤ len) && decide (len ≤ 12 + 32768)
    | 5 => decide (target = 0) && decide (len = 80) && decide (pay 0 1 < 8)
    | 6 => decide (target = 0) && decide (8 ≤ len) && decide (pay 0 8 % 2097152 = 0)
    | 7 => decide (target = 0) && decide (8 ≤ len) && inRange (pay 0 1) 4 64 && inRange (pay 4 4) 768 1007 &&
        decide (pay 4 4 + pay 0 1 ≤ 1008)
    | _ => false

/-- Bytes of a record with its header and padding. -/
def State.recordSize (s : State) (slot ofs : Nat) : Nat := 16 + ceilDiv (s.slotField slot (ofs + 4) 4) 16 * 16

/-- Goes through the records of a slot from one at an offset: the index of the first that is wrong, or the types seen. n is how many
remain (check 6). -/
def State.scanRecords (s : State) (slot stop : Nat) : Nat → Nat → Nat → List Nat → Nat ⊕ List Nat
  | 0, ofs, i, seen => if ofs = stop then .inr seen else .inl i
  | n + 1, ofs, i, seen =>
    if stop < ofs + s.recordSize slot ofs ∨ s.recordOk slot ofs = false then .inl i
    else s.scanRecords slot stop n (ofs + s.recordSize slot ofs) (i + 1) (s.slotField slot ofs 2 :: seen)

/-- Check 6: every record is sound, they fill the signed region, and there is one STEWARD, HATCH and NOR_LAYOUT each. The answer is
the record at fault. -/
def State.recordsBad (s : State) (slot : Nat) : Option Nat :=
  let n := s.slotField slot 20 4
  if n = 0 ∨ 65535 < n then some 0 else
  match s.scanRecords slot (s.slotField slot 16 4) n 128 0 [] with
  | .inl i => some i
  | .inr seen => if [3, 6, 7].all (fun t => decide ((seen.filter (· = t)).length = 1)) then none else some n

/-- The slot checks in their order: code, check and record of the first failure (R475). -/
def State.slotFault (s : State) (slot : Nat) : Option (Nat × Nat × Nat) :=
  let f := s.slotField slot
  let k := f 24 1
  let pub := s.norLoad (slotBase slot + 32) 56
  if s.headerOk slot = false then some (F.bootImage, 1, 0)
  else if s.keyProgrammed k = false ∨ s.keyRevoked k = true ∨ sha256Bytes pub ≠ s.keyHash k then some (F.bootSig, 2, 0)
  else if Config.lmsVerify pub (s.signedRegion slot) (s.norLoad (slotBase slot + f 28 4) 2828) = false then
    some (F.bootSig, 3, 0)
  else if f 8 4 < s.persist.floor then some (F.bootRollback, 4, 0)
  else if f 6 2 < 1 ∨ 1 + Config.levelAbove.toNat < f 6 2 then some (F.bootLevel, 5, 0)
  else (s.recordsBad slot).map fun i => (F.bootImage, 6, i)

/-! ### Boot, up to the verdict (R465, R474 to R476, R484) -/

/-- SEC_STATUS.STAGE. -/
def State.stage (s : State) : Nat := s.fld Reg.secStatus 2 0

/-- Sets it. -/
def State.setStage (s : State) (n : Nat) : State := s.setFld Reg.secStatus 2 0 n

/-- A boot or security record (R490). -/
def State.secRecord (s : State) (code cls slot cause record : Nat) : State :=
  postFault s { code := code, cls := cls, block := Blk.sec, payload := slot + cause * 2 ^ 8 + record * 2 ^ 16 }

/-- The records of the slots that were rejected. -/
def State.postRejected (s : State) (cls : Nat) : State :=
  s.sec.rejected.foldl (fun (s : State) (r : Rejected) => s.secRecord r.code cls r.slot r.check r.record) s

/-- A slot has passed: SEC shows it, and training follows (R474, R475). -/
def State.slotPassed (s : State) (slot : Nat) : State :=
  let f := s.slotField slot
  let other := 1 - slot
  let st := 3 + slot * 2 ^ 3 + b2n (!s.sec.rejected.isEmpty) * 2 ^ 4 + f 6 2 * 2 ^ 16 + f 8 4 % 256 * 2 ^ 32 +
    s.persist.floor * 2 ^ 40 + f 24 1 * 2 ^ 48
  let s := s.wr Reg.secStatus st
  let s := s.wr Reg.secImageSeq (s.imageSeq slot + (if s.headerOk other then s.imageSeq other else 0xFFFFFFFF) * 2 ^ 32)
  let digest := sha256Bytes (s.signedRegion slot)
  let s := (List.range 4).foldl (fun (s : State) (i : Nat) => s.wr (Reg.secImageDigest i) (leField digest (8 * i) 8)) s
  { s with sec := { s.sec with slot := some slot, cursor := 128, applied := 0 } }

/-- The verdict on the slot being tried: it passes, or the other follows, or both have failed and RECOVERY begins (R475, R476). -/
def State.slotVerify (s : State) : State :=
  if s.stage ≠ 2 ∨ s.sec.slot.isSome then s else
  let first := s.firstSlot
  let slot := if s.sec.rejected.isEmpty then first else 1 - first
  match s.slotFault slot with
  | none => (s.postRejected Class.degraded).slotPassed slot
  | some (code, check, record) =>
    let s := { s with sec := { s.sec with rejected := s.sec.rejected ++ [⟨slot, code, check, record⟩] } }
    if 2 ≤ s.sec.rejected.length then (s.setStage 6).postRejected Class.fatal else s

/-! ### The signing log (R482 to R485) -/

/-- A record of the signing log. -/
def signRecord (seq q jRes kind : Nat) (hash : List Byte) : List Byte :=
  let body := leBytes 4 seq ++ leBytes 4 q ++ leBytes 4 jRes ++ leBytes 1 kind ++ leBytes 3 0 ++ hash ++ leBytes 12 0
  body ++ leBytes 4 (crc32 body)

/-- The hash of a lower tree's public key. -/
def treeHash (q : Nat) : List Byte := sha256Bytes ((List.range 56).map (Config.treeKey q))

/-- SEC_SIGN_STATE and SEC_SIGN_LOG. -/
def State.showSign (s : State) (written : Nat) : State :=
  let x := s.sec
  let s := s.wr Reg.secSignState (s.persist.q % 65536 + x.j % 65536 * 2 ^ 16 + x.jRes % 65536 * 2 ^ 32 +
    b2n x.ready * 2 ^ 48 + b2n x.exhausted * 2 ^ 49)
  let v := satAdd (s.rd Reg.secSignLog) 31 0 written
  s.wr Reg.secSignLog (putBits (putBits v 47 32 x.sign.sector) 63 48 (min 65535 (s.highestErase 1008 16)))

/-- F_SIGN_STATE (R490). -/
def State.signFault (s : State) (cause : Nat) : State :=
  (s.event Reg.secIntStatus 3).secRecord F.signState Class.degraded 0 cause 0

/-- Writes a record to the signing log. When the sector fails, F_SIGN_STATE is written, the sector is skipped, and the record goes to
the next (R485). -/
def State.signLog (s : State) (jRes kind : Nat) (fail : Bool) : State :=
  let q := s.persist.q - 1
  let s := if fail then
      let l := ({ s.sec.sign with skipped := s.sec.sign.sector :: s.sec.sign.skipped } : NorLog).onward 1008 16
      ({ s with sec := { s.sec with sign := l } }).signFault 1
    else s
  let (s, l) := s.logAppend s.sec.sign 1008 16 0x5347 s.sec.signSeq (signRecord s.sec.signSeq q jRes kind (treeHash q))
  ({ s with sec := { s.sec with sign := l, signSeq := (s.sec.signSeq + 1) % 2 ^ 32, jRes := jRes } }).showSign 1

/-- The sector that the signing log enters next, when it has to be erased before the current one fills: background work, which waits while
a firmware command holds the NOR (R467, R483). -/
def State.signEraseDue (s : State) : Option Nat :=
  let l := s.sec.sign
  let n := (l.onward 1008 16).sector
  if s.sec.signRead ∧ l.used ≠ 0 ∧ l.ahead = none ∧ n ≠ l.sector ∧ s.sec.op.isNone then some n else none

/-- That erase ends; one that fails writes F_SIGN_STATE, and the log skips the sector (R483, R485). -/
def State.signErase (s : State) (n : Nat) (fail : Bool) : State :=
  let l := s.sec.sign
  if fail then ({ s with sec := { s.sec with sign := { l with skipped := n :: l.skipped } } } : State).signFault 1
  else
    let s := s.norErase n
    ({ s with sec := { s.sec with sign := { l with ahead := some n } } } : State).showSign 0

/-- Whether a log sector has a good header. -/
def State.signHeaderOk (s : State) (n : Nat) : Bool :=
  let h := s.norLoad (n * sectorSize) 16
  decide (leField h 0 2 = 0x5347) && decide (crc32 (h.take 12) = leField h 12 4)

/-- The valid records of a log sector: index and bytes. -/
def State.signRecords (s : State) (n : Nat) : List (Nat × List Byte) :=
  if s.signHeaderOk n = false then [] else
  ((List.range 1023).map fun i => (i, s.norLoad (n * sectorSize + 64 + 64 * i) 64)).filter fun r =>
    decide (crc32 (r.2.take 60) = leField r.2 60 4)

/-- The valid record with the highest SEQ: sector, index and bytes (R484). -/
def State.lastSigned (s : State) : Option (Nat × Nat × List Byte) :=
  ((List.range 16).flatMap fun k => (s.signRecords (1008 + k)).map fun r => (1008 + k, r)).foldl (fun best r =>
    match best with
    | none => some r
    | some b => if leField b.2.2 0 4 < leField r.2.2 0 4 then some r else some b) none

/-- Records of a sector up to the last that is not blank. -/
def State.usedRecords (s : State) (n : Nat) : Nat :=
  ((List.range 1023).filter fun i => (s.norLoad (n * sectorSize + 64 + 64 * i) 64).any (· != 0xFF)).foldl (fun m i => max m (i + 1)) 0

/-- The signing state at boot: the tree is resumed at its reservation, or a new one is due (R484). -/
def State.readSigning (s : State) : State :=
  let x := s.sec
  let sec : SecSt := match s.lastSigned with
    | none => { x with signRead := true }
    | some (n, _, r) =>
      let q := leField r 4 4
      let resume := decide (q + 1 = s.persist.q) && !Config.advanceEachBoot && decide (fieldBytes r 16 32 = treeHash q)
      let used := s.usedRecords n
      let l : NorLog := { sector := n, used := used }
      let x := { x with signRead := true, sign := if used = 1023 then l.onward 1008 16 else l,
                        signSeq := (leField r 0 4 + 1) % 2 ^ 32 }
      if resume then { x with j := leField r 8 4, jRes := leField r 8 4, ready := decide (leField r 8 4 < 32768) } else x
  ({ s with sec := sec }).showSign 0

/-- NOR discovery: the boot ROM reads the logs and goes on to the slots, or the boot ends (R465, R474, R484). A boot makes it once. -/
def State.norDiscovery (s : State) (ok : Bool) : State :=
  if s.stage ≠ 0 ∨ s.sec.signRead then s
  else if ok then (s.setStage 2).readSigning
  else (s.setStage 1).secRecord F.bootNor Class.fatal 0 0 0

/-! ### OTP (R473, R478, R479) -/

/-- A burn fails verification (R473). -/
def State.burnFault (s : State) : State := (s.event Reg.secIntStatus 4).secRecord F.otp Class.degraded 0 1 0

/-- SVN_COMMIT (R478). -/
def State.svnCommit (s : State) (fail : Bool) : State :=
  let svn := min 255 (s.fld Reg.secStatus 39 32)
  if s.sec.slot.isNone ∨ svn ≤ s.persist.floor then s
  else if fail then s.burnFault
  else ({ s with persist := { s.persist with floor := svn } }).setFld Reg.secStatus 47 40 svn

/-- REVOKE of a key slot, or its refusal (R479). -/
def State.revokeKey (s : State) (k : Nat) (fail : Bool) : State :=
  let left := [0, 1, 2, 3].any fun i => decide (i ≠ k) && s.keyProgrammed i && !s.keyRevoked i
  if (s.sec.slot.isSome ∧ s.fld Reg.secStatus 49 48 = k) ∨ left = false then s.regAccess Reg.secCtrl
  else if fail then s.burnFault
  else if s.keyRevoked k then s
  else { s with persist := { s.persist with revoked := s.persist.revoked ++ [k] } }

/-- A write of SEC_CTRL: the commit, then the revocation (R489). -/
def State.writeSecCtrl (s : State) (v : Nat) (fail : Bool) : State :=
  let s := if bit v 0 then s.svnCommit fail else s
  if bit v 1 then s.revokeKey (bits v 3 2) fail else s

/-- A write of SEC_OTP_KEY_CTRL (R479). -/
def State.writeOtpKey (s : State) (v : Nat) (fail : Bool) : State :=
  let k := bits v 1 0
  let da := s.rd Reg.secOtpKeyDa
  if bit v 2 = false ∨ k < 2 ∨ s.keyProgrammed k = true ∨ (s.memFault da 32).isSome then s.regAccess Reg.secOtpKeyCtrl
  else if fail then s.burnFault
  else { s with persist := { s.persist with keys := tabSet (fun _ => []) s.persist.keys k (s.load da 32) } }

/-- SEC_FUSE (R516). -/
def State.readFuse (s : State) : Nat :=
  b2n Config.debugLock + b2n Config.advanceEachBoot * 2 +
    ([0, 1, 2, 3].map fun k => b2n (s.keyProgrammed k) * 2 ^ (8 + k) + b2n (s.keyRevoked k) * 2 ^ (12 + k)).foldl (· + ·) 0

/-! ### Attestation (R481, R483, R486) -/

/-- Bytes 0 to 255 of a report over the request's NONCE and USER. -/
def State.reportBody (s : State) (req : List Byte) : List Byte :=
  let k := s.fld Reg.secStatus 49 48
  let out := ((List.range 96).filter s.engineOut).length
  leBytes 2 1 ++ leBytes 2 (s.fld Reg.secStatus 31 16) ++ leBytes 4 (s.fld Reg.secStatus 39 32) ++
    leBytes 8 Config.serial.toNat ++ req.take 32 ++
    (List.range 4).flatMap (fun i => leBytes 8 (s.rd (Reg.secImageDigest i))) ++ fieldBytes (s.keyHash k) 0 32 ++ leBytes 1 k ++
    leBytes 1 (b2n Config.debugLock + 2 * b2n Config.advanceEachBoot + 4 * s.fld Reg.secStatus 4 4) ++
    leBytes 2 s.persist.floor ++ leBytes 4 s.persist.q ++ leBytes 8 (s.rd Reg.tckCount) ++ leBytes 8 s.timeNs ++
    leBytes 4 out ++ fieldBytes req 32 32 ++ leBytes 84 0

/-- SEC_ATTEST_STATUS shows a state, a result and the tokens. -/
def State.showAttest (s : State) (st result : Nat) : State :=
  let s := (s.setFld Reg.secAttestStatus 1 0 st).setFld Reg.secAttestStatus 15 8 s.sec.tokens
  s.setFld Reg.secAttestStatus 3 2 result

/-- An attestation ends with a result. -/
def State.attestDone (s : State) (result : Nat) : State := (s.showAttest 2 result).event Reg.secIntStatus 0

/-- Signs the report of a waiting request with the next index; a reservation goes before it where one is due (R483). -/
def State.attestSign (s : State) (fail : Bool) : State :=
  let req := s.rd Reg.secAttestReqDa
  let out := s.rd Reg.secAttestOutDa
  if (s.memFault req 64).isSome ∨ (s.memFault out 5652).isSome then s.attestDone 3 else
  let s := if s.sec.jRes ≤ s.sec.j then s.signLog (min (s.sec.jRes + 64) 32768) 0 fail else s
  let body := s.reportBody (s.load req 64)
  let q := s.persist.q - 1
  let sig := (List.range 5396).map (Config.hssSignature q s.sec.j body)
  let s := s.store out (body ++ sig)
  let j := s.sec.j + 1
  let s := { s with sec := { s.sec with j := j, tokens := s.sec.tokens - 1, ready := decide (j < 32768) } }
  ((s.bump Reg.secAttestStatus 63 32 1).showSign 0).attestDone 0

/-- A write of SEC_ATTEST_CTRL with GO (R486). The report takes no time here, so a second GO in the cycle of one that was taken is told
apart by that cycle, and finds it busy (R489). -/
def State.attestGo (s : State) (fail : Bool) : State :=
  if s.fld Reg.secAttestStatus 1 0 = 1 ∨ s.sec.goAt = s.now + 1 then s.regAccess Reg.secAttestCtrl else
  let s := { s with sec := { s.sec with goAt := s.now + 1 } }
  if s.sec.tokens = 0 then s.attestDone 1
  else if s.sec.exhausted ∨ s.sec.signRead = false ∨ s.sec.slot.isNone then s.attestDone 2
  else if s.sec.ready then s.attestSign fail
  else ({ s with sec := { s.sec with waiting := true } }).showAttest 1 0

/-- A new lower tree begins, when one is due: OTP bit Q, its record, its key; a waiting request is signed with it (R481). A burn
that fails verification leaves Q as it was. -/
def State.treeBegin (s : State) (burnFail logFail : Bool) : State :=
  if s.sec.signRead = false ∨ s.sec.ready ∨ s.sec.exhausted then s
  else if 32768 ≤ s.persist.q then
    let s := ({ s with sec := { s.sec with exhausted := true } }).showSign 0
    let s := s.signFault 2
    if s.sec.waiting then ({ s with sec := { s.sec with waiting := false } }).attestDone 2 else s
  else if burnFail then s.burnFault
  else
    let s := { s with persist := { s.persist with q := s.persist.q + 1 }, sec := { s.sec with j := 0, jRes := 0 } }
    let s := s.signLog 0 1 logFail
    let s := ({ s with sec := { s.sec with ready := true } }).showSign 0
    if s.sec.waiting then ({ s with sec := { s.sec with waiting := false } }).attestSign false else s

/-- The attestation bucket gains a token, twice a second, up to 255 (R486). -/
def State.attestRefill (s : State) : State :=
  if s.now < s.sec.tokensAt + us 500000 then s else
  let s := { s with sec := { s.sec with tokens := min 255 (s.sec.tokens + 1), tokensAt := s.now } }
  s.setFld Reg.secAttestStatus 15 8 s.sec.tokens

/-! ### Firmware's NOR commands (R467, R480) -/

/-- Whether firmware may program or erase a range: it lies in the slot not running; in RECOVERY in either slot (R467, R476). -/
def State.norMay (s : State) (a n : Nat) : Bool :=
  let within := fun (slot : Nat) => decide (slotBase slot ≤ a) && decide (a + n ≤ slotBase slot + slotSize)
  if s.stage = 6 then within 0 || within 1 else
  match s.sec.slot with
  | some r => within (1 - r)
  | none => false

/-- A write of SEC_NOR_CTRL (R467). -/
def State.writeNorCtrl (s : State) (v : Nat) : State :=
  let cmd := bits v 1 0
  let len := bits v 31 8
  let a := s.rd Reg.secNorAddr
  let erase := a / sectorSize * sectorSize
  if bit (s.rd Reg.secNorStatus) 0 then s.regAccess Reg.secNorCtrl
  else if cmd = 3 ∨ (cmd = 1 ∧ len % 256 ≠ 0) then s.regReserved Reg.secNorCtrl
  else if (cmd = 1 ∧ s.norMay a len = false) ∨ (cmd = 2 ∧ s.norMay erase sectorSize = false) then
    ((s.wr Reg.secNorStatus 4).event Reg.secIntStatus 2).secRecord F.norAccess Class.info (s.sec.slot.getD 0) 0 0
  else { s.wr Reg.secNorStatus 1 with sec := { s.sec with op := some ⟨cmd, a, s.rd Reg.secNorDa, len⟩ } }

/-- What a NOR command does; none when its range or its DA does not allow it. -/
def State.norRun (s : State) (o : NorOp) : Option State :=
  match o.cmd with
  | 0 => if 2 ^ 26 < o.ofs + o.len ∨ (s.memFault o.da o.len).isSome then none else some (s.store o.da (s.norLoad o.ofs o.len))
  | 1 => if (s.memFault o.da o.len).isSome then none else some (s.norProgram o.ofs (s.load o.da o.len))
  | _ => some (s.norErase (o.ofs / sectorSize))

/-- The firmware command in progress ends: BUSY clears, and ERROR is set where it failed. -/
def State.norEnd (s : State) (o : NorOp) (fail : Bool) : State :=
  let (s, bad) := match s.norRun o, fail with
    | some s', false => (s', false)
    | _, _ => (s, true)
  ({ s with sec := { s.sec with op := none } }.wr Reg.secNorStatus (2 * b2n bad)).event Reg.secIntStatus 1

/-- The NOR port's operation of highest priority ends (R467). -/
def State.norDone (s : State) (fail : Bool) : State :=
  match s.sec.op with
  | some o => if s.logTurn then s.logProgram fail else s.norEnd o fail
  | none =>
    if s.logTurn then s.logProgram fail else
    match s.signEraseDue with
    | some n => s.signErase n fail
    | none => s

/-! ### Meanings -/

/-- NOR_DISCOVERY (R465). -/
def execNorDiscovery (t : Nat) (ok : Bool) (s : State) : Host.Outcome State Fault Refusal :=
  .next (s.live t fun s => s.norDiscovery ok)

/-- SLOT_VERIFY (R475). -/
def execSlotVerify (t : Nat) (s : State) : Host.Outcome State Fault Refusal :=
  .next (s.live t fun s => s.slotVerify)

/-- TREE_BEGIN (R481). -/
def execTreeBegin (t : Nat) (burnFail logFail : Bool) (s : State) : Host.Outcome State Fault Refusal :=
  .next (s.live t fun s => s.treeBegin burnFail logFail)

/-- ATTEST_TOKEN_REFILL (R486). -/
def execAttestTokenRefill (t : Nat) (s : State) : Host.Outcome State Fault Refusal :=
  .next (s.live t fun s => s.attestRefill)

/-- NOR_OP_DONE (R467). -/
def execNorOpDone (t : Nat) (fail : Bool) (s : State) : Host.Outcome State Fault Refusal :=
  .next (s.live t fun s => s.norDone fail)

end Sys2Proof.Machine
end

