-- ==== Sys2Proof/Machine/RegWrite.lean ====
section
/-! DEFINITION. Register accesses: who may make them (R513), their checks (R9, R13, R512), and what a write does in each block. -/

namespace Sys2Proof.Machine

/-! ### Who may write (R426, R476, R504, R513, R517) -/

/-- The SEC registers that the companion may write. -/
def attestRegs : List Nat := [Reg.secAttestReqDa, Reg.secAttestOutDa, Reg.secAttestCtrl]

/-- The SEC registers that the companion may write in RECOVERY (R476). -/
def recoveryRegs : List Nat := [Reg.secNorAddr, Reg.secNorDa, Reg.secNorCtrl]

/-- The registers that the sideband may write (R504). -/
def sidebandRegs : List Nat := [Reg.pwrSbCap, Reg.fltAlertStatus]

/-- Whether the block is in the RECOVERY stage of boot. -/
def State.inRecovery (s : State) : Bool := decide (s.stage = 6)

/-- Whether an agent may write a register. -/
def State.mayWrite (s : State) (ag : Agent) (a : Nat) : Bool :=
  match ag with
  | .steward => true
  | .bootRom => !isSecReg a
  | .companion =>
    (bit (s.rd Reg.atcCtrl) 1 && (!isSecReg a || (regFind a).isNone || decide (a ∈ attestRegs))) || (s.inRecovery && decide (a ∈ recoveryRegs))
  | .sideband => decide (a ∈ sidebandRegs)

/-- Whether the sideband may read a register: those of PWR, HLT, FLT and SEC (R504). -/
def sidebandReads (a : Nat) : Bool := decide (past a regBase / 2 ^ 24 ∈ [10, 11, 12, 13])

/-- Whether an agent may read a register. -/
def State.mayRead (s : State) (ag : Agent) (a : Nat) : Bool :=
  match ag with
  | .steward => true
  | .bootRom => false
  | .companion => bit (s.rd Reg.atcCtrl) 1 || s.inRecovery
  | .sideband => sidebandReads a

/-! ### Reserved values that depend on the state (R13) -/

/-- Block and engine of a register's address, and its offset. -/
def regEngine (a : Nat) : Nat := past a regBase % 2 ^ 24 / 2 ^ 16

/-- The number of a register among `count` that stand `stride` apart from DA `first`. -/
def regNumber (a first stride count : Nat) : Option Nat :=
  if first ≤ a ∧ (a - first) % stride = 0 ∧ (a - first) / stride < count then some ((a - first) / stride) else none

/-- A module ID with a coordinate at or above its dimension (R399). -/
def State.idBad (s : State) (v : Nat) : Bool := [0, 1, 2].any fun d => decide (s.dimSize d ≤ coord (bits v 12 0) d)

/-- A role that the port cannot have (R400). -/
def roleBad (n v : Nat) : Bool :=
  (decide (bits v 2 0 = 1) && decide (6 ≤ n)) || ((decide (bits v 2 0 = 2) || decide (bits v 2 0 = 3)) && decide (n < 6))

/-- Whether a write carries a value that is reserved as the block now stands. DESIGN CHOICE: with no active plan there is no period, and
TCK_ALIGN_OFS takes any value (assumption log 88). -/
def State.valueBad (s : State) (a v : Nat) : Bool :=
  if a = Reg.tckAlignOfs then
    match s.tick.plan with
    | some pl => decide (pl.period ≤ bits v 23 0)
    | none => false
  else if a = Reg.ktfId then s.idBad v
  else if a = Reg.schCtxSel then !(s.ctxExists (bits v 6 0) (bits v 10 7))
  else match regNumber a (Reg.ktfPortCfg 0) 64 8, regNumber a (Reg.schClientCfg 0) 32 64 with
    | some n, _ => roleBad n v
    | none, some _ => bit v 0 && decide (bits v 31 16 = 0)
    | none, none => false

/-! ### Registers that are locked as the block now stands (R186, R366, R393, R430, R464) -/

/-- Whether a register of a queue is locked: its queue is not DISABLED, and the write does not only clear ENABLE (R186). -/
def State.queueLocked (s : State) (e q a o v : Nat) : Bool :=
  decide (o ≤ 0x20) && decide ((s.queue e q).state ≠ .disabled) &&
    !(decide (o = 0) && bit (s.rd a) 0 && decide (v = putBits (s.rd a) 0 0 0))

/-- Whether a register of SCH is locked: an SCH_CTX_Q register of a valid context, and the base and tail of a job ring that is enabled
(R393). -/
def State.schLocked (s : State) (a : Nat) : Bool :=
  let ring := fun p : Nat => bit (s.rd (Reg.schJobCfg p)) 0
  ((regNumber a Reg.schCtxQCfg 8 5).isSome && s.ctxExists s.selected.1 s.selected.2 && bit (s.ctx s.selected.1 s.selected.2).cfg 0) ||
    ((regNumber a (Reg.schJobBase 0) 32 8).any ring || (regNumber a (Reg.schJobTailDa 0) 32 8).any ring)

/-- Whether every write of a register is dropped as the block now stands, whatever its value: F_REG_ACCESS. v has the bits of the
register. -/
def State.locked (s : State) (a v : Nat) : Bool :=
  match past a regBase / 2 ^ 24 with
  | 1 =>
    let o := regOffset a
    decide (0x200 ≤ o) && decide (o < 0x300) && s.queueLocked (regEngine a) ((o - 0x200) / 0x40) a (o % 0x40) v
  | 5 => (decide (a = Reg.atcWinBase) || decide (a = Reg.atcWinSize)) && bit (s.rd Reg.atcCtrl) 0
  | 6 =>
    (decide (a = Reg.ktfId) || decide (a = Reg.ktfTopo) || (regNumber a (Reg.ktfPortCfg 0) 64 8).isSome) && bit (s.rd Reg.ktfCtrl) 0
  | 7 =>
    (decide (a = Reg.ingCfgBase) && bit (s.rd Reg.ingStatus) 1) ||
      ((decide (a = Reg.ingPubBase) || decide (a = Reg.ingPubTailDa)) && bit (s.rd Reg.ingPubCfg) 0)
  | 9 => s.schLocked a
  | 10 => decide (a = Reg.hltTelDa) && bit (s.rd Reg.hltTelCfg) 0
  | 13 =>
    bit (s.rd Reg.fltCtrl) 0 && (decide (a = Reg.fltRingDa) || (decide (a = Reg.fltCtrl) && decide (bits v 12 8 ≠ s.fld a 12 8)))
  | _ => false

/-! ### Engines -/

/-- Whether a layer of a CONV.FUSED record uses the user table. -/
def recordUser (bs : List Byte) : Bool :=
  (List.range (leField bs 0 1)).any fun i => decide (bits (leField bs (64 * (i + 1) + 3) 1) 4 2 = 5)

/-- Whether an open macro-op uses the user table (R128). -/
def OpenOp.user (o : OpenOp) : Bool :=
  let op := Desc.op o.desc
  (decide (op = Op.gate) && decide (Desc.opx o.desc 18 16 = 5)) ||
    (decide (op = Op.pulse) && decide (Desc.opx o.desc 20 18 = 4)) ||
    (decide (op = Op.conv) && decide (Desc.opx o.desc 20 18 = 5)) ||
    (decide (op = Op.convFused) && recordUser (o.entries.getD recordPlace []))

/-- Whether a macro-op that uses USER is open on the engine (R128). -/
def State.userBusy (s : State) (e : Nat) : Bool :=
  [0, 1, 2, 3].any fun q => (s.queue e q).ops.any OpenOp.user

/-- A write of the user table (R128, R142). -/
def State.writeUser (s : State) (e a v : Nat) : State :=
  if s.userBusy e then
    postFault (s.event (Reg.engIntStatus e) 5) { code := F.pwlBusy, cls := Class.info, block := Blk.eng, unit := e, payload := defaultPayload a 0 0 e 0 }
  else s.wr a v

/-- A write of ENG_DP_CTRL: the target array, and the faults to inject (R134, R142). Held arrays take them in their next issue cycle;
otherwise they wait for the next macro-op that issues on the arrays. -/
def State.writeDpCtrl (s : State) (e v : Nat) : State :=
  let x := s.eng e
  ((s.wr (Reg.engDpCtrl e) (bits v 1 0)).setEng e
    { x with injResidue := x.injResidue || bit v 2, injParity := x.injParity || bit v 3 }).injectHeld e

/-- A write of ENG_SR_SEED (R124). -/
def State.writeSeed (s : State) (e v : Nat) : State :=
  (s.wr (Reg.engSrSeed e) v).setEng e { s.eng e with reseed := true }

/-- A write to a queue's register, by its offset from ENG_Q_CFG_q. -/
def State.writeQReg (s : State) (e q a o v : Nat) : State :=
  if o = 0 then s.writeQCfg e q v else if o = 0x30 then s.writeQCtrl e q v else s.wr a v

/-- A write to an engine's register, by its offset in the engine's window. -/
def State.writeEng (s : State) (e a o v : Nat) : State :=
  if o = 0x8 then s.writeDpCtrl e v
  else if o = 0x20 then s.writeSeed e v
  else if o = 0x28 ∨ (0x100 ≤ o ∧ o < 0x200) then s.writeUser e a v
  else if 0x200 ≤ o ∧ o < 0x300 then s.writeQReg e ((o - 0x200) / 0x40) a (o % 0x40) v
  else if o = 0x310 then s.writeImemSwap e v
  else if 0x8000 ≤ o then s.writeImemWin e ((o - 0x8000) / 8) v
  else s.wr a v

/-! ### Tiers -/

/-- A write of PNT_CTRL or CEL_CTRL: with SCRUB_EN 0, SCRUB_BEHIND is not held (R92). -/
def State.writeTierCtrl (s : State) (tr : Tier) (v : Nat) : State :=
  let was := bit (s.rd (tr.reg Reg.pntCtrl Reg.celCtrl)) 0
  let s := s.wr (tr.reg Reg.pntCtrl Reg.celCtrl) v
  if bit v 0 then (if was then s else s.beginFloor tr) else s.setBit (tr.reg Reg.pntStatus Reg.celStatus) 3 false

/-- A write of MAP_COMMIT (R94, R101); contexts whose save area is displaced are lost (R383). -/
def State.writeMapCommit (s : State) (tr : Tier) (v : Nat) : State :=
  if !bit v 0 then
    (if bit (s.rd (tr.reg Reg.pntStatus Reg.celStatus)) 2 then s.regAccess (tr.reg Reg.pntMapCommit Reg.celMapCommit) else s)
  else
  let old := (s.tier tr).dead
  let s := s.mapCommit tr
  let dead := (s.tier tr).dead
  if dead = old then s else s.loseDisplaced (displaced tr dead)

/-- A write to a PNT or CEL register. -/
def State.writeTier (s : State) (tr : Tier) (a v : Nat) : State :=
  if a = tr.reg Reg.pntCtrl Reg.celCtrl then s.writeTierCtrl tr v
  else if a = tr.reg Reg.pntMapCommit Reg.celMapCommit then s.writeMapCommit tr v
  else match regNumber a (tr.reg (Reg.pntMapout 0) (Reg.celMapout 0)) 8 (tr.channels / 64),
      regNumber a (tr.reg (Reg.pntRegRate 0) (Reg.celRegRate 0)) 8 8 with
    | some i, _ => s.writeMapout tr i v
    | none, some _ => (s.wr a v).ratesChange
    | none, none => s.wr a v

/-! ### The other blocks -/

/-- A write to a TCK register; `raw` has the bits of TCK_CTRL's actions. -/
def State.writeTck (s : State) (a v raw : Nat) : State :=
  if a = Reg.tckCtrl then s.writeTckCtrl raw
  else if a = Reg.tckPhaseSkip then s.writePhaseSkip raw
  else s.wr a v

/-- A write to a KTF register (R397, R429). -/
def State.writeKtf (s : State) (a v : Nat) : State :=
  if a = Reg.ktfCtrl then s.writeKtfCtrl v
  else match regNumber a (Reg.ktfPortCtrl 0) 64 8 with
    | some n => if bit v 0 then s.retrain n else s
    | none => s.wr a v

/-- A write to an ING register (R329). -/
def State.writeIng (s : State) (a v raw : Nat) : State :=
  if a = Reg.ingCtrl then
    let s := s.wr a v
    if bit raw 3 then s.cfgSwap else s
  else if a = Reg.ingPubCfg then (s.wr a v).pubRestart
  else s.wr a v

/-- A write to a VDC register (R345, R361). -/
def State.writeVdc (s : State) (a v : Nat) : State :=
  if a = Reg.vdcRelease then s.releasePics v
  else if a = Reg.vdcRearm then s.rearm (bits v 15 0)
  else s.wr a v

/-- A write to an SCH register (R372, R376, R381, R382, R389, R393). -/
def State.writeSch (s : State) (a v : Nat) : State :=
  if a = Reg.schCtxCfg then s.writeCtxCfg v
  else if a = Reg.schCtxCtrl then s.writeCtxCtrl v
  else match regNumber a Reg.schCtxQCfg 8 5, regNumber a (Reg.schStandin 0) 8 4, regNumber a (Reg.schPartCtrl 0) 8 8 with
    | some i, _, _ => s.writeCtxQ i v
    | none, some i, _ => s.writeStandin i v
    | none, none, some p => if bit v 0 then s.abortPartition p else s
    | none, none, none =>
      match regNumber a (Reg.schJobCfg 0) 32 8 with
      | some p => s.writeJobCfg p v
      | none => s.wr a v

/-- A write of HLT_TEL_CFG; a period starts when telemetry is enabled (R459). -/
def State.writeTelCfg (s : State) (v : Nat) : State :=
  let was := bit (s.rd Reg.hltTelCfg) 0
  let s := s.wr Reg.hltTelCfg v
  if bit v 0 && !was then { s with health := { s.health with telAt := s.now } } else s

/-- A write to an HLT register (R443, R444). -/
def State.writeHlt (s : State) (a v : Nat) : State :=
  if a = Reg.hltStCtrl then s.writeStCtrl v
  else if a = Reg.hltStReq then s.writeStReq v
  else if a = Reg.hltTelCfg then s.writeTelCfg v
  else s.wr a v

/-- A write to a SEC register (R467, R478, R479, R486); `fail` says whether the OTP burn or the log write that it starts fails. -/
def State.writeSec (s : State) (a v : Nat) (fail : Bool) : State :=
  if a = Reg.secCtrl then s.writeSecCtrl v fail
  else if a = Reg.secOtpKeyCtrl then s.writeOtpKey v fail
  else if a = Reg.secAttestCtrl then (if bit v 0 then s.attestGo fail else s)
  else if a = Reg.secNorCtrl then s.writeNorCtrl v
  else s.wr a v

/-- A write to an FLT register (R458, R464). -/
def State.writeFlt (s : State) (a v : Nat) : State :=
  if a = Reg.fltRingHead then s.writeRingHead v
  else if a = Reg.fltInject then s.writeInject v
  else s.wr a v

/-- What an admitted write does: v has the bits of the register, raw all bits written. -/
def State.applyWrite (s : State) (a v raw : Nat) (fail : Bool) : State :=
  match past a regBase / 2 ^ 24 with
  | 0 => s.writeTck a v raw
  | 1 => s.writeEng (regEngine a) a (regOffset a) v
  | 3 => s.writeTier .pantry a v
  | 4 => s.writeTier .cellar a v
  | 6 => s.writeKtf a v
  | 7 => s.writeIng a v raw
  | 8 => s.writeVdc a v
  | 9 => s.writeSch a v
  | 10 => s.writeHlt a v
  | 11 => s.writeSec a v fail
  | 13 => s.writeFlt a v
  | _ => s.wr a v

/-! ### A write (R9 to R13, R512, R513) -/

/-- A write that its agent may not make has no effect; one from the companion sets INBOUND_REJECT (R426, R517). -/
def State.refuseWrite (s : State) (ag : Agent) : State :=
  match ag with
  | .companion => s.event Reg.atcIntStatus 4
  | _ => s

/-- A write by access code: a W1C bit written 1 clears, RO is ignored; a locked register, and one written with a reserved encoding, stays
as it is. -/
def State.writeRow (s : State) (d : RegDesc) (a v : Nat) (fail : Bool) : State :=
  match d.acc with
  | .ro => s
  | .w1c => s.wr a (w1c (s.rd a) v d.mask (s.setInCycle a))
  | _ =>
    if s.locked a (v &&& d.mask) then s.regAccess a
    else if d.bad v || s.valueBad a v then s.regReserved a
    else s.applyWrite a (v &&& d.mask) v fail

/-- A write of `width` bytes at a DA of the register space. One that its agent may not make is refused before anything else; an address
that names no register is refused to an agent as the registers are (R512, R513, R517). -/
def State.writeReg (s : State) (ag : Agent) (a width v : Nat) (fail : Bool) : State :=
  if regionOf a ≠ .register then s
  else if s.mayWrite ag a = false then s.refuseWrite ag
  else if width ≠ 8 ∨ a % 8 ≠ 0 then s.regAccess a
  else match regFind a with
    | none => s.regAccess a
    | some d => s.writeRow d a v fail

/-! ### The order of the accesses to one register in one cycle (R515) -/

/-- A read: it returns the value from before all of the writes of its cycle. -/
def readRank : Nat := 0

/-- The writes: Steward, inbound Dulis, sideband. The boot ROM is the only writer while it writes. -/
def Agent.writeRank (ag : Agent) : Nat :=
  match ag with
  | .steward => 1
  | .bootRom => 1
  | .companion => 2
  | .sideband => 3

/-- A write by an agent, in its place among the accesses that reach the register in the cycle. Where hardware updates an RW field it
does so while no write is admitted (the queue registers at a switch), or both only set bits (MAPOUT): no write meets an update that
would undo it. -/
def State.writeFrom (s : State) (ag : Agent) (a width v : Nat) (fail : Bool) : State :=
  (s.inOrder a ag.writeRank).writeReg ag a width v fail

/-! ### A read (R9, R10, R512, R514) -/

/-- ENG_HOLD_STATUS (R135, R139). -/
def State.readHold (s : State) (e : Nat) : Nat :=
  let x := s.eng e
  x.ramp.code + b2n (s.holding e) * 2 ^ 2 + (x.duty - 1) % 8 * 2 ^ 3

/-- ENG_KPR_STATUS. -/
def State.readKeeper (s : State) (e : Nat) : Nat :=
  let x := s.eng e
  let base := x.activeBank * 2 + b2n (x.swapPending || x.swapAtReturn) * 2 ^ 2
  match x.routine with
  | none => base
  | some r => base + 1 + r.q * 2 ^ 3 + r.emitted.length % 32 * 2 ^ 8

/-- A register of an engine. -/
def State.readEng (s : State) (e a o : Nat) : Nat :=
  if o = 0x18 then s.readHold e
  else if 0x200 ≤ o ∧ o < 0x300 ∧ o % 0x40 = 0x28 then (s.queue e ((o - 0x200) / 0x40)).reg
  else if o = 0x300 then s.readKeeper e
  else if 0x8000 ≤ o then s.imemWord e (s.fld (Reg.engImemSel e) 0 0) ((o - 0x8000) / 8)
  else s.rd a

/-- A register of TCK. -/
def State.readTck (s : State) (a : Nat) : Nat :=
  if a = Reg.tckTime then s.tckTimeAt s.now
  else if a = Reg.tckPhaseState then s.phaseStateReg
  else if a = Reg.tckNextSlack then s.nextSlack
  else s.rd a

/-- A register of ATC. -/
def State.readAtc (s : State) (a : Nat) : Nat :=
  if a = Reg.atcStatus then putBits (s.rd a) 6 6 (b2n (decide (s.rd Reg.atcWinSize ≠ 0)))
  else if a = Reg.atcWatchCount then putBits (s.rd a) 15 0 s.watchedCount
  else s.rd a

/-- A register of KTF. -/
def State.readKtf (s : State) (a : Nat) : Nat :=
  if a = Reg.ktfStatus then s.readKtfStatus
  else match regNumber a (Reg.ktfPortStatus 0) 64 8 with
    | some n => s.readPortStatus n
    | none => s.rd a

/-- A register of VDC. -/
def State.readVdc (s : State) (a : Nat) : Nat :=
  if a = Reg.vdcStatus then s.vdcStatusReg
  else match regNumber a (Reg.vdcStreamState 0) 8 512 with
    | some j => s.vdcStreamReg j
    | none => s.rd a

/-- A register of SCH. -/
def State.readSch (s : State) (a : Nat) : Nat :=
  if a = Reg.schCtxState then s.readCtxState
  else if a = Reg.schCtxCfg then
    (let (e, k) := s.selected
     if s.ctxExists e k then (s.ctx e k).cfg else 0)
  else match regNumber a Reg.schCtxQCfg 8 5 with
    | some i => s.readCtxQ i
    | none => s.rd a

/-- ms of a number of cycles, in the upper half of a counter register. -/
def State.withMs (s : State) (a cycles : Nat) : Nat := putBits (s.rd a) 63 32 (min (cycles / us 1000) (2 ^ 32 - 1))

/-- Cycles that the power cap has limited (R501). -/
def State.limitedCycles (s : State) : Nat :=
  s.power.limitedFor + (match s.power.limited with
    | some c => s.now - c
    | none => 0)

/-- A register of SEC. -/
def State.readSec (s : State) (a : Nat) : Nat :=
  if a = Reg.secFuse then s.readFuse
  else match regNumber a (Reg.secKeyHash 0) 8 16 with
    | some i => leField (s.keyHash (i / 4)) (8 * (i % 4)) 8
    | none => s.rd a

/-- What a read of a register returns (R10, R514). -/
def State.readReg (s : State) (a : Nat) : Nat :=
  match past a regBase / 2 ^ 24 with
  | 0 => s.readTck a
  | 1 => s.readEng (regEngine a) a (regOffset a)
  | 5 => s.readAtc a
  | 6 => s.readKtf a
  | 7 => if a = Reg.ingPtpTime then s.timeNs % 2 ^ 64 else s.rd a
  | 8 => s.readVdc a
  | 9 => s.readSch a
  | 10 => if a = Reg.hltThrottleCount then s.withMs a s.throttledCycles else s.rd a
  | 11 => s.readSec a
  | 12 => if a = Reg.pwrCapCount then s.withMs a s.limitedCycles else s.rd a
  | 13 => if a = Reg.fltStatus then putBits (s.rd a) 1 1 (b2n s.alert) else s.rd a
  | _ => s.rd a

/-- A read of `width` bytes at a DA of the register space: what it returns, and the record of one that names no register. -/
def State.readAt (s : State) (a width : Nat) : Nat × State :=
  if width ≠ 8 ∨ a % 8 ≠ 0 then (0, s.regAccess a)
  else match regFind a with
    | none => (0, s.regAccess a)
    | some d => (if d.acc = .wo then 0 else s.readReg a, s)

end Sys2Proof.Machine
end

