-- ==== Sys2Proof/Machine/Boot.lean ====
section
/-! DEFINITION. The boot from training to the handover: the tiers, the boot-time engine tests, and the records of the image (R96 to R98,
R470 to R477). -/

namespace Sys2Proof.Machine

/-- The boot is in TRAIN or RECORDS. -/
def State.booting (s : State) : Bool := decide (s.stage = 3) || decide (s.stage = 4)

/-! ### Training (R96 to R98) -/

/-- The first failing lane of each stack, which its spare lane replaces (R97). -/
def repairable : List (Nat × Nat × Nat) → List (Nat × Nat × Nat)
  | [] => []
  | x :: r => x :: (repairable r).filter fun y => decide (y.1 ≠ x.1)

/-- PNT_LANE_REPAIR after repairs. -/
def State.showRepairs (s : State) (xs : List (Nat × Nat × Nat)) : State :=
  match xs.getLast? with
  | none => s
  | some x => s.wr Reg.pntLaneRepair (min xs.length 255 + x.1 * 2 ^ 8 + x.2.1 * 2 ^ 12 + x.2.2 * 2 ^ 16)

/-- The lanes that fail: repaired under W720_LANE_REPAIR as far as spare lanes go; the channel of any other is mapped out. -/
def State.failLanes (s : State) (xs : List (Nat × Nat × Nat)) : State :=
  let fixed := if bit (s.rd Reg.pntCtrl) 2 then repairable xs else []
  let lost := (xs.filter (· ∉ fixed)).map fun x => x.1 * 16 + x.2.1
  lost.eraseDups.foldl (fun (s : State) (ch : Nat) => s.failTraining .pantry ch) (s.showRepairs fixed)

/-- A tier is trained, mapped out where training failed, and zeroed; then it is READY (R96, R98). -/
def State.trainTier (s : State) (tr : Tier) (chs : List Nat) (lanes : List (Nat × Nat × Nat)) : State :=
  let st := tr.reg Reg.pntStatus Reg.celStatus
  if !s.booting || bit (s.rd st) 0 then s else
  let s := match tr with
    | .pantry => s.failLanes lanes
    | .cellar => s
  let s := chs.foldl (fun (s : State) (ch : Nat) => if ch < tr.channels then s.failTraining tr ch else s) s
  let s := s.fixRange tr (s.mapoutUnits tr)
  let s := { s with mem := s.mem.filter fun c => decide (tierOf c.1 ≠ some tr) }
  ((s.setBit st 0 true).setBit st 1 true).beginFloor tr

/-! ### The engine tests (R477) -/

/-- An engine's boot-time test: items that failed, or 0. -/
def State.bootTest (s : State) (e items : Nat) : State :=
  let h := s.engHealth e
  if items = 0 then (s.bump Reg.hltStCount 23 0 1).setEngHealth e { h with lastPass := s.timeNs }
  else
    let s := ((s.bump Reg.hltStCount 47 24 1).setEngHealth e { h with failed := h.failed + 1 }).setEngineOut e true
    (s.event Reg.hltIntStatus 0).selfTestRecord e 1 .rotation Class.degraded items h.lastPass

/-- The boot-time tests of all engines end. -/
def State.bootTests (s : State) (bad : List (Nat × Nat)) : State :=
  if !s.booting || s.sec.tested then s else
  (List.range 96).foldl (fun (s : State) (e : Nat) => s.bootTest e ((bad.find? (·.1 = e)).map (·.2) |>.getD 0))
    { s with sec := { s.sec with tested := true } }

/-! ### Records (R470 to R472, R474, R476) -/

/-- How a record comes out. -/
inductive RecordEnd
  | applied (s : State)
  | waits
  | fails
  deriving DecidableEq, Repr

/-- A LOAD, or the code of a STEWARD record: it waits for its tier's READY, and fails outside the usable range or in Hatch (R59, R100). -/
def State.loadRecord (s : State) (target : Nat) (bs : List Byte) : RecordEnd :=
  match tierOf target with
  | none => .fails
  | some tr =>
    match s.tierFault tr target bs.length with
    | none => if decide (tr = .pantry) && s.inHatch target bs.length then .fails else .applied (s.store target bs)
    | some c => if c = F.memNotReady then .waits else .fails

/-- A REG record: its pairs are written in order; a write that is dropped does not stop the boot. -/
def State.regRecord (s : State) (bs : List Byte) : State :=
  (List.range (bs.length / 16)).foldl (fun (s : State) (i : Nat) =>
    s.writeReg .bootRom (leField bs (16 * i) 8) 8 (leField bs (16 * i + 8) 8) false) s

/-- A KEEPER record: its code goes to bank 1 of the engines of its mask. -/
def State.keeperRecord (s : State) (bs : List Byte) : State :=
  (setBits 96 (leField bs 0 12)).foldl (fun (s : State) (e : Nat) => s.imemStore e 1 0 (bs.drop 12)) s

/-- A PARTITION record (R472). -/
def State.partRecord (s : State) (bs : List Byte) : State :=
  let regions := (List.range 4).map fun i => (leField bs (16 + 16 * i) 8, leField bs (24 + 16 * i) 8)
  let lim : PartLimits := { clients := leField bs 8 8, regions := regions.filter fun r => decide (r.2 ≠ 0) }
  { s with parts := tabSet (fun _ => {}) s.parts (leField bs 0 1) lim }

/-- A HATCH record: it waits for the training of Pantry, and fails beyond PNT_CAP. -/
def State.hatchRecord (s : State) (n : Nat) : RecordEnd :=
  if !bit (s.rd Reg.pntStatus) 1 then .waits
  else if s.rd Reg.pntCap < n then .fails
  else .applied (s.fixHatch n)

/-- Applies one record. -/
def State.applyRecord (s : State) (type target : Nat) (bs : List Byte) : RecordEnd :=
  match type with
  | 1 => .applied (s.regRecord bs)
  | 2 => s.loadRecord target bs
  | 3 => ({ s with sec := { s.sec with entry := leField bs 0 8 } } : State).loadRecord target (bs.drop 8)
  | 4 => .applied (s.keeperRecord bs)
  | 5 => .applied (s.partRecord bs)
  | 6 => s.hatchRecord (leField bs 0 8)
  | 7 => .applied (s.wr Reg.fltNorCfg (leField bs 0 1 + leField bs 4 4 % 2 ^ 24 * 2 ^ 8))
  | _ => .fails

/-- The handover to the Steward pair. -/
def State.bootEnds (s : State) : State := (s.setStage 5).wr Reg.secBootTime (min (s.now / 1100) (2 ^ 32 - 1))

/-- Both tiers are trained and zeroed: step 4 of the boot is over (R98, R474). -/
def State.tiersReady (s : State) : Bool := bit (s.rd Reg.pntStatus) 1 && bit (s.rd Reg.celStatus) 1

/-- Applies the records from the cursor on, n at most: up to one that waits or fails, or to the handover, which waits for both tiers
(assumption log 84). -/
def State.applyRecords (s : State) (slot : Nat) : Nat → State
  | 0 => if s.tiersReady then s.bootEnds else s
  | n + 1 =>
    let ofs := s.sec.cursor
    let len := s.slotField slot (ofs + 4) 4
    match s.applyRecord (s.slotField slot ofs 2) (s.slotField slot (ofs + 8) 8) (s.norLoad (slotBase slot + ofs + 16) len) with
    | .applied s' =>
      ({ s' with sec := { s'.sec with cursor := ofs + s.recordSize slot ofs, applied := s.sec.applied + 1 } } : State).applyRecords
        slot n
    | .waits => s
    | .fails => (s.setStage 6).secRecord F.bootRecord Class.fatal slot 0 s.sec.applied

/-- The boot ROM goes on with the records of the slot that passed. -/
def State.recordsOn (s : State) : State :=
  match s.sec.slot with
  | none => s
  | some slot => if s.booting then (s.setStage 4).applyRecords slot (s.slotField slot 20 4 - s.sec.applied) else s

/-! ### Meanings -/

/-- TIER_TRAIN (R98). -/
def execTierTrain (t : Nat) (tier : Tier) (chs : List (Fin 256)) (lanes : List (Fin 12 × Fin 16 × Fin 64)) (s : State) :
    Host.Outcome State Fault Refusal :=
  .next (s.live t fun s => s.trainTier tier (chs.map (·.val)) (lanes.map fun x => (x.1.val, x.2.1.val, x.2.2.val)))

/-- BOOT_ENGINE_TEST (R477). -/
def execBootEngineTest (t : Nat) (bad : List (Fin 96 × BitVec 12)) (s : State) : Host.Outcome State Fault Refusal :=
  .next (s.live t fun s => s.bootTests (bad.map fun x => (x.1.val, x.2.toNat)))

/-- RECORD_APPLY (R474). -/
def execRecordApply (t : Nat) (s : State) : Host.Outcome State Fault Refusal :=
  .next (s.live t fun s => s.recordsOn)

end Sys2Proof.Machine
end

