-- ==== Sys2Proof/Machine/Loader.lean ====
section
/-! DEFINITION. The mapping bundle and the loader's checks, in the manual's order, and its installation (R205 to R209). The
manual gives the fields of a record's payload but not their bytes: the packing is this model's (assumption log 54). -/

namespace Sys2Proof.Machine

/-! ### Records (R206) -/

/-- A record: its bytes, header included. -/
abbrev BRec := List Byte

/-- TYPE, LENGTH in bytes and INDEX. -/
def recTy (r : BRec) : Nat := leField r 0 1
def recLen (r : BRec) : Nat := 8 * leField r 1 3
def recIdx (r : BRec) : Nat := leField r 4 4

/-- Cuts n records off a byte string. -/
def splitRecords : Nat → List Byte → List BRec
  | 0, _ => []
  | n + 1, bs => bs.take (recLen bs) :: splitRecords n (bs.drop (recLen bs))

/-- REGION: DA, size, USE and PHASES. -/
structure RegionRec where
  da : Nat
  size : Nat
  use : Nat
  deriving DecidableEq, Repr

def regionRec (r : BRec) : RegionRec := ⟨leField r 8 8, leField r 16 8, leField r 24 1⟩

/-- TENSOR: engine, context slot, table index and entry. -/
def tensorEngine (r : BRec) : Nat := leField r 8 1
def tensorSlot (r : BRec) : Nat := leField r 9 1
def tensorIndex (r : BRec) : Nat := leField r 10 1
def tensorEntry (r : BRec) : List Byte := fieldBytes r 16 32

/-- LIST: target DA, count and descriptors. -/
structure ListRec where
  idx : Nat
  da : Nat
  descs : List Desc
  deriving DecidableEq, Repr

def listRec (r : BRec) : ListRec :=
  ⟨recIdx r, leField r 8 8, (List.range (leField r 16 2)).map fun i => descOf (fieldBytes r (24 + 64 * i) 64)⟩

/-- PLACE: engine, queue, phase, MODE and the LIST record's INDEX. -/
structure PlaceRec where
  idx : Nat
  e : Nat
  q : Nat
  phase : Nat
  mode : Nat
  list : Nat
  deriving DecidableEq, Repr

def placeRec (r : BRec) : PlaceRec :=
  ⟨recIdx r, leField r 8 1, leField r 9 1, leField r 10 1, leField r 11 1, leField r 12 4⟩

/-- KEEPER: engine mask, code length and code. -/
def keeperMask (r : BRec) : Nat := leField r 8 12
def keeperLen (r : BRec) : Nat := leField r 20 3
def keeperCode (r : BRec) : List Byte := fieldBytes r 24 (keeperLen r)

/-- LENGTH of a record, from its payload (the packing of assumption log 54). -/
def recWords (r : BRec) : Nat :=
  match recTy r with
  | 1 => 4 | 2 => 6 | 3 => 3 + 8 * leField r 16 2 | 4 => 2 | 5 => 2 | 6 => 3
  | _ => 3 + ceilDiv (keeperLen r) 8

/-- The values a record's fields can take, and the bytes its packing leaves 0. -/
def recFieldsBad (r : BRec) : Bool :=
  match recTy r with
  | 1 => decide (2 < leField r 24 1) || leField r 16 8 % 64 != 0 || leField r 25 1 != 0 || leField r 28 4 != 0
  | 2 => decide (95 < tensorEngine r) || decide (3 < tensorSlot r) || decide (0xFE < tensorIndex r) || leField r 11 5 != 0
  | 3 => leField r 8 8 % 64 != 0 || leField r 16 2 == 0 || leField r 18 6 != 0
  | 4 => decide (95 < leField r 8 1) || decide (3 < leField r 9 1) || decide (15 < leField r 10 1) || decide (1 < leField r 11 1)
  | 5 => false
  | 6 => decide (15 < leField r 8 1) || leField r 9 7 != 0
  | _ => decide (32768 < keeperLen r) || leField r 23 1 != 0

/-! ### The bundle (R205) -/

/-- A bundle: its header and records. -/
structure Bundle where
  part : Nat
  planSeq : Nat
  level : Nat
  recs : List BRec
  deriving DecidableEq, Repr

def bundleOf (bs : List Byte) : Bundle :=
  ⟨leField bs 2 1 % 8, leField bs 16 4, leField bs 20 2, splitRecords (leField bs 4 4) (bs.drop 64)⟩

/-- The records of one TYPE. -/
def Bundle.ofTy (b : Bundle) (ty : Nat) : List BRec := b.recs.filter fun r => decide (recTy r = ty)

def Bundle.lists (b : Bundle) : List ListRec := (b.ofTy 3).map listRec
def Bundle.places (b : Bundle) : List PlaceRec := (b.ofTy 4).map placeRec
def Bundle.regions (b : Bundle) : List RegionRec := (b.ofTy 1).map regionRec

/-- The first failure: sub-code, RECORD, OPERAND and ENTRY (R208). -/
structure LdrFail where
  sub : Nat
  record : Nat := 0xFFFF
  opnd : Nat := 0
  entry : Nat := 0
  deriving DecidableEq, Repr

/-- Fails with the first record that a test finds bad. -/
def failRec (sub : Nat) (rs : List BRec) (bad : BRec → Bool) : Option LdrFail :=
  (rs.find? bad).map fun r => { sub := sub, record := recIdx r }

/-! ### Checks 0x01 to 0x05 -/

/-- Check 0x02: the header, then every record in turn, then BYTES against what the records take. -/
def bundleForm (bs : List Byte) : Option LdrFail :=
  let n := leField bs 4 4
  let b := bundleOf bs
  if leField bs 0 2 ≠ 1 ∨ 7 < leField bs 2 1 ∨ leField bs 3 1 ≠ 0 ∨ n = 0 ∨ 65535 < n ∨ bs.length % 8 ≠ 0 ∨ bs.length < 64 ∨
      leField bs 24 40 ≠ 0 then some { sub := 2 }
  else
    (((List.range n).zip b.recs).findSome? fun x =>
      let r := x.2
      if !(inRange (recTy r) 1 7) || decide (recLen r ≠ 8 * recWords r) || decide (recLen r ≠ r.length) ||
          decide (recIdx r ≠ x.1) || recFieldsBad r then
        some ({ sub := 2, record := x.1 } : LdrFail)
      else none).orElse fun _ =>
    if 64 + (b.recs.map recLen).foldl (· + ·) 0 ≠ bs.length then some { sub := 2 } else none

/-- The plan a bundle was mapped for: the active or the pending one (check 0x03). -/
def State.planFor (s : State) (seq : Nat) : Option Plan :=
  [s.tick.plan, s.tick.pending].findSome? fun p => p.filter fun pl => decide (pl.seq = seq)

/-- Check 0x03. -/
def State.bundlePlan (s : State) (b : Bundle) : Option LdrFail :=
  match s.planFor b.planSeq with
  | none => some { sub := 3 }
  | some pl =>
    if (pl.phases.any fun d => decide (d.cls ≠ 0) && decide (d.part = b.part)) && decide (b.level ≤ s.fld Reg.secStatus 31 16)
    then none else some { sub := 3 }

/-- The bundles of partition p. -/
def State.bundle (s : State) (p : Nat) : BundleSt := tabGet (fun _ => {}) s.bundles p

/-- Every bundle installed, with its partition. -/
def State.installed (s : State) : List (Nat × Installed) :=
  (List.range 8).flatMap fun p => ((s.bundle p).live.toList ++ (s.bundle p).next.toList).map fun x => (p, x)

/-- Whether two byte ranges share a byte. -/
def rangesMeet (a b : Nat × Nat) : Bool := decide (a.1 < b.1 + b.2) && decide (b.1 < a.1 + a.2)

/-- Check 0x04 on one REGION. -/
def State.regionBad (s : State) (p : Nat) (r : RegionRec) : Bool :=
  let inTier := decide (r.da + r.size ≤ s.rd Reg.pntCap) ||
    (decide (cellarBase ≤ r.da) && decide (r.da + r.size ≤ cellarBase + s.rd Reg.celCap))
  let hatch := rangesMeet (r.da, r.size) (s.rd Reg.pntHatchBase, s.rd Reg.pntHatchSize)
  let other := s.installed.any fun x => decide (x.1 ≠ p) && x.2.writes.any (rangesMeet (r.da, r.size))
  !inTier || hatch || !(s.inPartition p r.da r.size) || other

/-- Bytes of a row of elements, or of a block row: whole 64-byte sectors, or whole blocks (R194, R212). -/
def Tensor.rowFoot (t : Tensor) : Nat :=
  if t.blocked then ceilDiv t.cols t.fmt.perBlockRow * 4096 else rowBytes t.cols t.fmt.width

/-- The end of a tensor's footprint past its BASE: its rows or whole blocks, and its scale plane of ROWS rows, or of 8 bytes for each
block (R194, R196, R213, R214). -/
def Tensor.extent (t : Tensor) : Nat :=
  let n := if t.blocked then ceilDiv t.rows 64 else t.rows
  if n = 0 ∨ t.cols = 0 then 0 else
  let plane := if t.blocked then ((n - 1) * t.stride / 4096 + ceilDiv t.cols t.fmt.perBlockRow) * 8
    else n * (t.stride / (4 * t.fmt.width))
  max ((n - 1) * t.stride + t.rowFoot) (if t.scaled then t.scaleOfs * 256 + plane else 0)

/-- Check 0x05 on one TENSOR: its entry, its stride, and where its footprint lies. -/
def tensorBad (regions : List RegionRec) (bs : List Byte) : Bool :=
  match tensorOf bs with
  | .error _ => true
  | .ok t =>
    decide (t.stride < t.rowFoot) ||
      (if t.shelf then decide (0x600000 < t.base + t.extent)
       else !(regions.any fun r => decide (r.da ≤ t.base) && decide (t.base + t.extent ≤ r.da + r.size)))

/-! ### Lists: where they run (R170, R171) -/

/-- The list a CALL or BRANCH-ON-SCALAR names, and whether it pushes a level. -/
def targetOf (d : Desc) : Option (Nat × Nat × Bool) :=
  if d.op = Op.call ∧ d.opx 17 16 = 0 then some (d.arg 0, bits (d.arg 1) 15 0, true)
  else if d.op = Op.branch ∧ d.opx 22 21 = 0 then some (d.arg 1, bits (d.arg 2) 15 0, true)
  else if d.op = Op.branch ∧ d.opx 22 21 = 1 then some (d.arg 1, bits (d.arg 2) 15 0, false)
  else none

/-- The LIST record that a target names. -/
def findList (ls : List ListRec) (t : Nat × Nat × Bool) : Option ListRec :=
  ls.find? fun l => decide (l.da = t.1) && decide (l.descs.length = t.2.1)

/-- The lists one step away from a list at a level. -/
def listSteps (ls : List ListRec) (x : Nat × Nat) : List (Nat × Nat) :=
  match ls.find? fun l => decide (l.idx = x.1) with
  | none => []
  | some l => l.descs.filterMap fun d =>
    match targetOf d with
    | none => none
    | some t => (findList ls t).map fun m => (m.idx, if t.2.2 then x.2 + 1 else max x.2 1)

/-- Lists and levels reachable from `seen` in at most k rounds; nothing is followed past level 4. -/
def listReach (ls : List ListRec) : Nat → List (Nat × Nat) → List (Nat × Nat)
  | 0, seen => seen
  | k + 1, seen =>
    let new := (seen.filter fun x => decide (x.2 ≤ 4)).flatMap (listSteps ls)
    listReach ls k (new.foldl (fun a x => if x ∈ a then a else a ++ [x]) seen)

/-- The lists that run on a placed queue. -/
def Bundle.reach (b : Bundle) (p : PlaceRec) : List (Nat × Nat) :=
  listReach b.lists (6 * b.lists.length + 1) [(p.list, 0)]

/-- The queues on which a list runs. -/
def Bundle.runsOn (b : Bundle) (l : ListRec) : List (Nat × Nat) :=
  (b.places.filter fun p => (b.reach p).any fun x => decide (x.1 = l.idx)).map fun p => (p.e, p.q)

/-! ### Checks of descriptors (0x06 to 0x0D) -/

/-- The state in which descriptors are judged: the bundle's TENSOR records in place. -/
def State.withTensors (s : State) (b : Bundle) : State :=
  (b.ofTy 2).foldl (fun s r =>
    s.kstore (tensorEngine r) (tensorSlot r * 32768 + 0x4000 + 32 * tensorIndex r) (tensorEntry r)) s

/-- What is known of a macro-op's regions where its rows come from memory: columns [0, dh) of a tensor. -/
def dhRegion (dh : Nat) : Reg2 := ⟨0, 0, 0, dh⟩

/-- What CONV.FUSED's descriptor and table entries alone show: its fusion record is no part of the bundle. -/
def State.judgeFused (s : State) (site : Site) (o : OpenOp) : Issue :=
  issueOf do
    let d := o.desc
    stopIf (fusedReserved d) (invalidAt 0)
    let _ ← s.operand site (Desc.tdA d)
    let scratch ← s.operand site (Desc.tdB d)
    let y ← s.operand site (Desc.tdD d)
    y.destOk (Desc.twrite d) ⟨bits (Desc.arg d 2) 23 0, 0, bits (Desc.arg d 3) 23 0, 0⟩
    stopIf (!scratch.shelf) (invalidAt 0)
    return .ends s .completed

/-- What ATTN's and ATTN.BWD's descriptor and table entries alone show, and the scratch blocks they write: the length table is no part
of the bundle. -/
def State.judgeAttn (s : State) (site : Site) (o : OpenOp) (bwd : Bool) : Issue :=
  issueOf do
    let d := o.desc
    let x ← s.attnCheck site d bwd
    x.q.within (dhRegion x.dh)
    if bwd then x.tb.within (dhRegion x.dh)
    x.o.destOk (Desc.twrite d) (dhRegion x.dh)
    return .ends (s.setTags site.e 15 x.scratchBlocks) .completed

/-- What SCATTER's descriptor and table entries alone show. -/
def State.judgeScatter (s : State) (site : Site) (o : OpenOp) : Issue :=
  issueOf do
    let d := o.desc
    let x ← scatArgs d
    if x.action = 0 then
      [Desc.tdA d, Desc.tdB d].forM fun i => do
        let t ← s.operand site i
        stopIf (!(decide (t.fmt = .fp32 ∨ t.fmt = .bf16))) (invalidAt 0)
        t.within (dhRegion x.dh)
    return .ends s .completed

/-- What GATHER's descriptor and table entries alone show. -/
def State.judgeGather (s : State) (site : Site) (o : OpenOp) : Issue :=
  issueOf do
    let d := o.desc
    let x ← gatherArgs d
    if !x.lookup then
      let t ← s.operand site (Desc.tdD d)
      t.destOk (Desc.twrite d) (dhRegion x.dh)
    return .ends s .completed

/-- What the loader runs of a descriptor's issue: its checks, where they depend on the descriptor and its tensors alone. ATTN,
ATTN.BWD, SCATTER, GATHER and CONV.FUSED read headers and records in memory that the bundle does not carry: what these decide is not
judged (assumption log 55). -/
def issueBody (d : Desc) : Option (State → Site → OpenOp → Issue) :=
  let op := d.op
  if op = Op.mma then some fun s x o => s.mmaBody x o false
  else if op = Op.mmaBwdX ∨ op = Op.mmaBwdW then some fun s x o =>
    if x.e % 3 = 0 then .fault ⟨F.engineClass, 0, 0⟩ else s.mmaBody x o true
  else if op = Op.conv then some State.convBody
  else if op = Op.convFused then some State.judgeFused
  else if op = Op.attn then some fun s x o => s.judgeAttn x o false
  else if op = Op.attnBwd then some fun s x o => if x.e % 3 = 0 then .fault ⟨F.engineClass, 0, 0⟩ else s.judgeAttn x o true
  else if op = Op.scan then some State.scanBody
  else if op = Op.pulse then some State.pulseBody
  else if op = Op.norm then some State.normBody
  else if op = Op.normBwd then some State.normBwdBody
  else if op = Op.smax then some State.smaxBody
  else if op = Op.smaxBwd then some State.smaxBwdBody
  else if op = Op.gate then some State.gateBody
  else if op = Op.reduce then some State.reduceBody
  else if op = Op.sort then some State.sortBody
  else if op = Op.boxdec then some State.boxdecBody
  else if op = Op.nms then some State.nmsBody
  else if op = Op.scatter then some State.judgeScatter
  else if op = Op.gather then some State.judgeGather
  else if op = Op.copy then some State.copyBody
  else if op = Op.prefetch then some State.prefetchBody
  else if op = Op.wait then some State.waitBody
  else if op = Op.signal then some fun s x o => if d.opx 17 16 = 2 then s.signalTriggerBody o else s.signalBody x o
  else if op = Op.call then some fun s x o => if d.opx 17 16 = 0 then s.callListBody x o else s.callKeeperBody x o
  else if op = Op.branch then some fun s x o => s.branchBody x o (decide (d.opx 22 21 ≠ 2)) false (fun x _ => x)
  else none

/-- What a descriptor would end with at issue, and the state it would leave. -/
def State.trial (s : State) (site : Site) (d : Desc) : Option OpFault × State :=
  if descCommonBad d ∨ reservedOp d then (some (invalidAt 0), s)
  else match issueBody d with
  | none => (none, s)
  | some body =>
    match body s site (Entry.opened ⟨d, 0, 0, 0⟩ s site 0) with
    | .fault f => (some f, s)
    | .opens s _ => (none, s)
    | .ends s _ => (none, s)

/-- How the four table entries of a descriptor are set for a trial: as they are; with integer formats as floating-point formats of the
same width, so that every pair is legal; with D not block-scaled, so that its edges are; or unknown, so that every entry is invalid. -/
structure TrialMode where
  floats : Bool := false
  unscaled : Bool := false
  loose : Bool := false
  deriving DecidableEq, Repr

/-- FMT with an integer format turned into the floating-point format of its width. -/
def floatCode : Nat → Nat
  | 6 => 3
  | 7 => 5
  | n => n

/-- Entry i of A to D for a trial: its BASE names the operand, at (i + 1) × 1 MiB, with the alignment it has. -/
def trialEntry (m : TrialMode) (i : Nat) (bs : List Byte) : List Byte :=
  let x := leNat bs
  let x := putBits x 63 0 ((i + 1) * 2 ^ 20 + bits x 11 0)
  let x := if m.floats then putBits x 115 112 (floatCode (bits x 115 112)) else x
  let x := if m.unscaled && decide (i = 3) then putBits x 118 118 0 else x
  leBytes 32 (if m.loose then putBits x 115 112 15 else x)

/-- The state and the descriptor of a trial: A, B, C and D stand in entries 0 to 3 of the slot's table, each with a BASE of its own and
no bytes of a list there; scalar slot 0, which an INDEXED PULSE reads, is 0. -/
def State.apart (s : State) (site : Site) (m : TrialMode) (d : Desc) : State × Desc :=
  let tds := [d.tdA, d.tdB, d.tdC, d.tdD]
  let at0 := fun i => site.q * 32768 + 0x4000 + 32 * i
  let entries := tds.mapIdx fun i td => trialEntry m i (s.kload site.e (at0 td) 32)
  let s' := (s.kstore site.e (at0 0) entries.flatten).kstore site.e (site.q * 32768 + 0x6000) (leBytes 8 0)
  let s' := (List.range 4).foldl (fun s i =>
    (s.store ((i + 1) * 2 ^ 20) (leBytes 4 0)).store (shelfDa site.e ((i + 1) * 2 ^ 20)) (leBytes 4 0)) s'
  let place := fun i => if tds.getD i 0xFF = 0xFF then 0xFF else i
  (s', d.set 1 (putBits (putBits (putBits (putBits (d.w 1) 7 0 (place 0)) 15 8 (place 1)) 23 16 (place 2)) 31 24 (place 3)))

/-- What a descriptor's trial finds wrong with it: an encoding or region (F_DESC_INVALID) or a pairing (F_FORMAT). -/
def State.judged (s : State) (site : Site) (m : TrialMode) (d : Desc) : Option OpFault :=
  let (s, d) := s.apart site m d
  (s.trial site d).1.filter fun f => decide (f.code = F.descInvalid ∨ f.code = F.format)

/-- The tensors of A to D, where their entries are valid. -/
def State.tensorAt (s : State) (site : Site) (d : Desc) (i : Nat) : Option Tensor :=
  let td := [d.tdA, d.tdB, d.tdC, d.tdD].getD i 0xFF
  if td = 0xFF then none else (s.tensor site.e site.q td).toOption

/-- The operand that a fault of a trial names: the one whose BASE it carries, or the one that breaks R216 (R208). -/
def State.opndOf (s : State) (site : Site) (d : Desc) (f : OpFault) : Nat :=
  if 2 ^ 20 ≤ f.addr then f.addr / 2 ^ 20 - 1
  else if inRange d.op Op.mma Op.mmaBwdW then
    match s.tensorAt site d 0, s.tensorAt site d 1, s.tensorAt site d 3 with
    | some a, some b, some t => (mmaArgs d a b t).unblocked.getD 0
    | _, _, _ => 0
  else 0

/-- Sub-code 0x06 or 0x08 of a descriptor, with the operand: what its issue finds invalid. An invalid encoding or region comes before a
pairing (R114) and before the edges of a block-scaled destination (R204). -/
def State.descSub (s : State) (site : Site) (d : Desc) : Option (Nat × Nat) :=
  let invalid := fun (m : TrialMode) => (s.judged site m d).filter fun f => decide (f.code = F.descInvalid)
  match s.judged site {} d with
  | none => none
  | some f =>
    match invalid { floats := decide (f.code = F.format), unscaled := true } with
    | some g => some (6, s.opndOf site d g)
    | none => some (8, if f.code = F.format then 0 else 3)

/-- The encoding of a descriptor whose tensors are unknown. -/
def State.encodingBad (s : State) (site : Site) (d : Desc) : Bool :=
  (s.judged site { loose := true } d).any fun f => decide (f.addr < 2 ^ 20)

/-- A tensor of the widest rate, for a grid of which only K and k_step count. -/
def someTensor : Tensor := ⟨0, 0, 0, .e2m1, true, false, false, 0, 0, 0, 0⟩

/-- Check 0x07 on an array macro-op: TILE, and k_step between 128 and the lanes' limit, or K rounded up to 32 below 128
(R189). -/
def State.tileBad (s : State) (site : Site) (d : Desc) : Bool :=
  let td := fun i => (s.tensorAt site d i).getD someTensor
  let grid : Option Grid :=
    if inRange d.op Op.mma Op.mmaBwdW then some (mmaArgs d (td 0) (td 1) (td 3)).grid
    else if d.op = Op.conv ∧ !(bit (d.w 2) 21) then some (convArgs d (td 0) (some (td 1)) none (td 3)).grid
    else none
  match grid with
  | none => false
  | some g => !(inRange d.tileNo 1 5) ||
    (if g.k < 128 then decide (g.kstep ≠ ceilDiv g.k 32 * 32) else !(inRange g.kstep 128 (32 * g.lanes)))

/-- A pad that no maximum, or no minimum, takes: an infinity, or the extreme of a format without one (R199). The 16 bits of
PAD cannot hold an FP32 infinity, so no FP32 operand has such a pad (assumption log 54). -/
def Tensor.padExtreme (t : Tensor) (isMax : Bool) : Bool :=
  let sign := b2n isMax
  let is := fun p => decide (t.pad % 2 ^ t.fmt.width = p)
  match t.fmt with
  | .e2m1 => is (0x7 + 0x8 * sign)
  | .e4m3 => is (0x7E + 0x80 * sign)
  | .e5m2 => is (0x7C + 0x80 * sign)
  | .bf16 => is (0x7F80 + 0x8000 * sign)
  | .fp16 => is (0x7C00 + 0x8000 * sign)
  | .int8 => is (if isMax then 0x80 else 0x7F)
  | .int4 => is (if isMax then 0x8 else 0x7)
  | .fp32 => false

/-- A pad that is no NaN, for positions that affect only masked outputs (R199). -/
def Tensor.padNumber (t : Tensor) : Bool := t.fmt.isInt || !(t.fmt.decode t.pad).isNan

/-- What R199 asks of the pads of a descriptor's operands. It does not apply to NORM, SMAX and their gradients (R231). -/
def padRules (d : Desc) : List (Nat × (Tensor → Bool)) :=
  let pool := decide (d.op = Op.conv) && bit (d.w 2) 21
  let init := if d.accInit then [(3, Tensor.padNumber)] else []
  if pool then [(0, fun t => t.padExtreme true)]
  else if inRange d.op Op.mma Op.mmaBwdW then [(0, Tensor.padZero), (1, Tensor.padZero)] ++ init
  else if d.op = Op.conv then [(0, Tensor.padZero), (1, Tensor.padZero), (2, Tensor.padNumber)] ++ init
  else if d.op = Op.convFused ∨ d.op = Op.attn then [(0, Tensor.padZero)]
  else if d.op = Op.reduce ∧ (d.opx 18 16 = 2 ∨ d.opx 18 16 = 4) then [(0, fun t => t.padExtreme true)]
  else if d.op = Op.reduce ∧ (d.opx 18 16 = 3 ∨ d.opx 18 16 = 5) then [(0, fun t => t.padExtreme false)]
  else []

/-- Check 0x09: the first operand of a descriptor whose PAD breaks R199. -/
def State.padBad (s : State) (site : Site) (d : Desc) : Option Nat :=
  ((padRules d).find? fun x => (s.tensorAt site d x.1).any fun t => !(x.2 t)).map (·.1)

/-- Whether a descriptor's destination is at a DA (R160). -/
def State.descDa (s : State) (site : Site) (d : Desc) : Bool :=
  let op := d.op
  let e := site.e
  let q := site.q
  if op = Op.copy then copyDa d
  else if op = Op.prefetch ∨ op = Op.scatter then true
  else if op = Op.gather then s.gatherDa e q d
  else if op = Op.scan then s.scanDa e q d
  else if op = Op.reduce then !(bit (d.w 2) 20) && s.rowDa e q d
  else if op = Op.norm then s.normDa e q d
  else if op = Op.normBwd then s.normBwdDa e q d
  else if op = Op.smax ∨ op = Op.smaxBwd ∨ op = Op.gate then s.rowDa e q d
  else if op = Op.attn ∨ op = Op.attnBwd then s.attnDa e q d
  else if inRange op Op.mma Op.attnBwd then s.daDest e q d
  else false

/-- Check 0x0C: the entries of a list that chain to a DA destination. -/
def State.chainBad (s : State) (site : Site) : Bool → List Desc → List Bool
  | _, [] => []
  | lastDa, d :: ds => (d.chain && lastDa) :: s.chainBad site (s.descDa site d) ds

/-- The Shelf blocks a descriptor writes: those it claims when every tag and every GEN it names is 1 and DST_GEN is 2. -/
def State.blocksOf (s : State) (site : Site) (d : Desc) : List Nat :=
  let d' := d.set 0 (putBits (putBits (d.w 0) 51 48 2) 63 52 0x111)
  let s' := ((s.setTags site.e 1 (List.range 1536)).trial site d').2
  (List.range 1536).filter fun b => decide (s'.tag site.e b ≠ 1)

/-- Check 0x0D: the entries of a list that write a block under the DST_GEN its previous writer gave it. -/
def State.genBad (s : State) (site : Site) : List (Nat × Nat) → List Desc → List Bool
  | _, [] => []
  | gens, d :: ds =>
    let bs := s.blocksOf site d
    let bad := bs.any fun b => decide ((gens.lookup b) = some d.dstGen)
    bad :: s.genBad site (bs.map (fun b => (b, d.dstGen)) ++ gens) ds

/-- The site of a bundle's descriptors on a queue. -/
def Bundle.site (b : Bundle) (s : State) (x : Nat × Nat) : Site := ⟨x.1, x.2, (s.slotCtx x.1 x.2).getD 0, b.part⟩

/-- The queues on which a list is judged: those where it runs; a list that no PLACE reaches is judged once, with no tensors known
(assumption log 55). -/
def Bundle.sites (b : Bundle) (s : State) (l : ListRec) : List (Bool × Site) :=
  match b.runsOn l with
  | [] => [(true, b.site s (0, 0))]
  | qs => qs.map fun q => (false, b.site s q)

/-- The slot of a site with no tensor known: every entry of its table is invalid. -/
def State.untabled (s : State) (site : Site) : State :=
  s.kstore site.e (site.q * 32768 + 0x4000) (List.replicate 8160 0xFF)

/-- Runs a test over every descriptor of every list, on every queue where the list runs. The test answers the operand it fails on. -/
def Bundle.eachDesc (b : Bundle) (s : State) (sub : Nat) (test : Bool → Site → Desc → Option Nat) : Option LdrFail :=
  b.lists.findSome? fun l =>
    ((List.range l.descs.length).zip l.descs).findSome? fun x =>
      (b.sites s l).findSome? fun q =>
        (test q.1 q.2 x.2).map fun i => { sub := sub, record := l.idx, opnd := i, entry := x.1 }

/-- Runs a test over whole lists, answering the entries it fails. -/
def Bundle.eachList (b : Bundle) (s : State) (sub : Nat) (test : Bool → Site → List Desc → List Bool) : Option LdrFail :=
  b.lists.findSome? fun l =>
    (b.sites s l).findSome? fun q =>
      ((test q.1 q.2 l.descs).findIdx? id).map fun i => { sub := sub, record := l.idx, entry := i }

/-! ### Checks 0x0E to 0x11 -/

/-- Check 0x0E: SEQ, targets and nesting. -/
def Bundle.seqCheck (b : Bundle) : Option LdrFail :=
  let deep := b.places.flatMap fun p => (b.reach p).filterMap fun x => if 4 ≤ x.2 then some x.1 else none
  b.lists.findSome? fun l =>
    let bad := ((List.range l.descs.length).zip l.descs).find? fun x =>
      decide (x.2.seq ≠ x.1) ||
      (match targetOf x.2 with
       | none => false
       | some t => (findList b.lists t).isNone || (t.2.2 && decide (l.idx ∈ deep)))
    bad.map fun x => { sub := 0x0E, record := l.idx, entry := x.1 }

/-- Check 0x0F. -/
def State.placeCheck (s : State) (b : Bundle) (pl : Plan) : Option LdrFail :=
  (b.places.find? fun p =>
    !((pl.phases.getD p.phase {}).engines.testBit p.e) ||
    (b.lists.all fun l => decide (l.idx ≠ p.list)) ||
    s.installed.any fun x => decide (x.1 ≠ b.part) && x.2.places.any fun y => decide (y.1 = p.e) && decide (y.2.1 = p.q)).map
  fun p => { sub := 0x0F, record := p.idx }

/-- Check 0x10: the Cellar-resident weights and WORKSET. DESIGN CHOICE: the weights are the Cellar regions of USE 0, which are only read;
the manual does not say which records they are (assumption log 90). -/
def State.cellarCheck (s : State) (b : Bundle) : Option LdrFail :=
  let weights := ((b.regions.filter fun r => decide (r.use = 0) && decide (cellarBase ≤ r.da)).map (·.size)).foldl (· + ·) 0
  let work := ((b.ofTy 5).map fun r => leField r 8 8).foldl (· + ·) 0
  if weights + work ≤ s.rd Reg.celCap then none else some { sub := 0x10, record := ((b.ofTy 5).map recIdx).getD 0 0xFFFF }

/-- Check 0x11. -/
def timingCheck (b : Bundle) (pl : Plan) : Option LdrFail :=
  failRec 0x11 (b.ofTy 6) fun r =>
    let d := pl.phases.getD (leField r 8 1) {}
    decide (d.cls = 1) && decide ((d.budget + d.allow) * 1100 < leField r 16 8)

/-! ### The loader -/

/-- The checks after 0x02, in their order (R207). -/
def State.bundleChecks (s : State) (b : Bundle) : Option LdrFail :=
  let h := s.withTensors b
  let pl := (s.planFor b.planSeq).getD {}
  let urgent := fun (e : Nat) => pl.phases.any fun d => decide (d.cls ≠ 0) && bit d.flags 2 && d.engines.testBit e
  let tables := fun (loose : Bool) (site : Site) => if loose then h.untabled site else h
  (s.bundlePlan b).orElse fun _ =>
  (failRec 4 (b.ofTy 1) fun r => s.regionBad b.part (regionRec r)).orElse fun _ =>
  (failRec 5 (b.ofTy 2) fun r => tensorBad b.regions (tensorEntry r)).orElse fun _ =>
  (b.eachDesc s 6 fun loose x d =>
    if loose then (if h.encodingBad x d then some 0 else none)
    else ((h.descSub x d).filter fun y => decide (y.1 = 6)).map (·.2)).orElse fun _ =>
  (b.eachDesc s 7 fun loose x d => if (tables loose x).tileBad x d then some 0 else none).orElse fun _ =>
  (b.eachDesc s 8 fun loose x d =>
    if loose then none else ((h.descSub x d).filter fun y => decide (y.1 = 8)).map (·.2)).orElse fun _ =>
  (b.eachDesc s 9 fun loose x d => (tables loose x).padBad x d).orElse fun _ =>
  (b.eachDesc s 0x0A fun loose x d => if !loose && descClassBad x.e d then some 0 else none).orElse fun _ =>
  (b.eachDesc s 0x0B fun loose x d => if !loose && !(preemptible d) && urgent x.e then some 0 else none).orElse fun _ =>
  (b.eachList s 0x0C fun loose x ds => (tables loose x).chainBad x false ds).orElse fun _ =>
  (b.eachList s 0x0D fun loose x ds => (tables loose x).genBad x [] ds).orElse fun _ =>
  b.seqCheck.orElse fun _ =>
  (s.placeCheck b pl).orElse fun _ =>
  (s.cellarCheck b).orElse fun _ => timingCheck b pl

/-- All checks of the bundle at a DA. One that cannot be read fails check 0x01 (assumption log 22). -/
def State.loaderVerdict (s : State) (a : Nat) : Option LdrFail × List Byte :=
  let readable := decide (a % 64 = 0) && (s.memFault a 64).isNone && (s.memFault a (max 64 (s.loadNat (a + 8) 4))).isNone
  if !readable then (some { sub := 1 }, []) else
  let n := s.loadNat (a + 8) 4
  let bs := s.load a n
  if crc32 (putField (s.load a (max 64 n)) 12 (leBytes 4 0) |>.take n) ≠ s.loadNat (a + 12) 4 then (some { sub := 1 }, bs)
  else match bundleForm bs with
  | some f => (some f, bs)
  | none => (s.bundleChecks (bundleOf bs), bs)

/-- What the loader keeps of an accepted bundle. -/
def Bundle.kept (b : Bundle) : Installed :=
  { seq := b.planSeq
    writes := (b.regions.filter fun r => decide (r.use ≠ 0)).map fun r => (r.da, r.size)
    places := b.places.filterMap fun p =>
      (b.lists.find? fun l => decide (l.idx = p.list)).map fun l => (p.e, p.q, p.mode, l.da, l.descs.length)
    keepers := dedup ((b.ofTy 7).flatMap fun r => setBits 96 (keeperMask r)) }

/-- Installs an accepted bundle (R209). -/
def State.installBundle (s : State) (b : Bundle) : State :=
  let s := (b.ofTy 3).foldl (fun s r => s.store (leField r 8 8) (fieldBytes r 24 (64 * leField r 16 2))) s
  let s := s.withTensors b
  let s := (b.ofTy 7).foldl (fun s r =>
    (setBits 96 (keeperMask r)).foldl (fun s e => s.imemStore e (1 - (s.eng e).activeBank) 0 (keeperCode r)) s) s
  { s with bundles := tabSet (fun _ => {}) s.bundles b.part { s.bundle b.part with next := some b.kept } }

/-- The loader takes a bundle (R207 to R209). -/
def State.loaderCheck (s : State) (a : Nat) : State :=
  match s.loaderVerdict a with
  | (none, bs) => s.installBundle (bundleOf bs)
  | (some f, bs) =>
    postFault s { code := F.loaderCheck, cls := Class.info, block := Blk.ldr,
                  part := if f.sub ≤ 2 then 0x80 else (bundleOf bs).part
                  payload := f.sub + f.record % 65536 * 2 ^ 8 + f.opnd * 2 ^ 24 + f.entry * 2 ^ 32 }

/-- A queue leaves the bundle it ran: it issues nothing more, and is DISABLED once its open macro-ops end (R186). -/
def State.leaveBundle (s : State) (e q : Nat) : State :=
  let cfg := s.rd (Reg.engQCfg e q)
  if (s.queue e q).state ≠ .disabled ∧ bit cfg 0 then s.writeQCfg e q (putBits cfg 0 0 0) else s

/-- A placed queue goes live, once it is DISABLED: its ring or templates are the LIST, its MODE is the record's, and it is enabled
(R209). Until then the placement is due. -/
def State.placeLive (s : State) (part : Nat) (p : Nat × Nat × Nat × Nat × Nat) : State :=
  let (e, q, mode, da, n) := p
  if (s.queue e q).state ≠ .disabled then
    { s with bundles := tabSet (fun _ => {}) s.bundles part { s.bundle part with due := (s.bundle part).due ++ [p] } }
  else
    let cfg := putBits (putBits (s.rd (Reg.engQCfg e q)) 1 1 mode) 0 0 1
    let cfg := if mode = 1 then putBits cfg 27 24 (n - 1) else cfg
    (s.wr (Reg.engQBase e q) da).writeQCfg e q cfg

/-- The placements of a partition that are due are tried again: a queue that its predecessor's macro-ops kept open at the boundary
goes live at the first later boundary that finds it DISABLED (assumption log 80). -/
def State.placeDue (s : State) (p : Nat) : State :=
  let due := (s.bundle p).due
  let s := { s with bundles := tabSet (fun _ => {}) s.bundles p { s.bundle p with due := [] } }
  due.foldl (State.placeLive · p ·) s

/-- The bundle installed for partition p becomes live: its predecessor's queues stop, its own are enabled, its Keeper swaps are asked
for, and a breach of the partition is past (R4, R209). -/
def State.goLive (s : State) (p : Nat) (x : Installed) : State :=
  let old := (s.bundle p).live.toList.flatMap (·.places)
  let s := { s with bundles := tabSet (fun _ => {}) s.bundles p { live := some x, next := none, due := [] }
                    broken := s.broken.filter (· ≠ p) }
  let s := (old ++ x.places).foldl (fun s y => s.leaveBundle y.1 y.2.1) s
  let s := x.places.foldl (State.placeLive · p ·) s
  x.keepers.foldl (fun s e => s.setEng e { s.eng e with swapPending := true }) s

/-- At a tick boundary the bundles installed for the active plan become live (R209). -/
def State.bundlesLive (s : State) : State :=
  let seq := s.tick.plan.map (·.seq)
  (List.range 8).foldl (fun s p =>
    match (s.bundle p).next with
    | some x => if seq = some x.seq then s.goLive p x else s.placeDue p
    | none => s.placeDue p) s

/-- LOADER_CHECK (R207): the firmware starts the loader with the bundle's DA. -/
def execLoaderCheck (t da : Nat) (s : State) : Host.Outcome State Fault Refusal := .next (s.live t fun s => s.loaderCheck da)

end Sys2Proof.Machine
end

