-- ==== Sys2Proof/Machine/Boundary.lean ====
section
/-! DEFINITION. What falls on a tick boundary: the tick block, the mapping bundles, the Aligner's windows and the fabric's TICK; the
activation of a plan while no boundary falls; and the phase events, in the order of a cycle (R34, R40, R45 to R47, R50, R209, R330,
R418). -/

namespace Sys2Proof.Machine

/-- The boundary at cycle b: phases and plan, then ingest configuration and windows, then bundles, then the TICK of a fabric master. -/
def State.boundary (s : State) (b : Nat) : State :=
  let s := (s.tickBoundary b).windowsAt b
  if s.tick.on && !s.tick.gap then s.bundlesLive.originateTick else s

/-- The boundary falls when its time has come. -/
def State.fallDue (s : State) : State :=
  match s.tick.on, s.tick.next with
  | true, some b => if b ≤ s.now then s.boundary b else s
  | _, _ => s

/-- TICK_BOUNDARY (R45): the boundary falls when its time has come. -/
def execTickBoundary (t : Nat) (s : State) : Host.Outcome State Fault Refusal :=
  .next (s.live t fun s => (s.inOrder tickPlace 1).fallDue)

/-- DEADLINE (R36, R39, R46, R47): the deadline of phase p, after a boundary and the deadlines of lower phases that are due in its
cycle (R50). -/
def execDeadline (t : Nat) (p : Fin 16) (s : State) : Host.Outcome State Fault Refusal :=
  .next (s.live t fun s => ((s.inOrder tickPlace 2).fallDue).deadlinesDue (p + 1))

/-- BUDGET_END (R33, R37): the budget end of phase p, after the boundary and the deadlines that are due in its cycle (R50). -/
def execBudgetEnd (t : Nat) (p : Fin 16) (s : State) : Host.Outcome State Fault Refusal :=
  .next (s.live t fun s =>
    let s := ((s.inOrder tickPlace 3).fallDue).deadlinesDue 16
    if s.budgetDue p s.now then s.budgetEnd p else s)

/-- PHASE_START (R34): the start of phase p, after the boundary, the deadlines and the budget ends that are due in its cycle (R50). -/
def execPhaseStart (t : Nat) (p : Fin 16) (s : State) : Host.Outcome State Fault Refusal :=
  .next (s.live t fun s =>
    let s := (((s.inOrder tickPlace 4).fallDue).deadlinesDue 16).budgetsDue
    if s.startDue p s.now then s.startPhase p else s)

/-- CONTEXT_SWITCH_IN (R375): the scheduler passes engine e on after all that the tick plan has due in the cycle (R50). -/
def execContextSwitchIn (t : Nat) (e : Fin 96) (s : State) : Host.Outcome State Fault Refusal :=
  .next (s.live t fun s => (((s.inOrder tickPlace 5).fallDue).tickDue).passEngine e)

/-- CONTEXT_SWAP (R377): the scheduler chooses a swap after all that the tick plan has due in the cycle, and after what makes a resident
context READY in it (R50, R391). -/
def execContextSwap (t : Nat) (e : Fin 96) (ue : Option (Fin 262144)) (s : State) : Host.Outcome State Fault Refusal :=
  .next (s.live t fun s => (((s.inOrder tickPlace 5).fallDue).tickDue).swap e (ue.map (·.val)))

/-- PLAN_ACTIVATE (R40): due 100 µs after the request while no boundary falls; otherwise the boundary activates the plan. -/
def execPlanActivate (t : Nat) (s : State) : Host.Outcome State Fault Refusal :=
  .next (s.live t fun s =>
    if s.tick.pending.isSome ∧ s.tick.on = false ∧ s.tick.pendingAt + us 100 ≤ s.now then s.activatePlan else s)

end Sys2Proof.Machine
end

