-- ==== Sys2Proof/Machine/Writes.lean ====
section
/-! DEFINITION. The meanings of the rows that are register writes. A row that changes one field of a register writes the others as
they stand. -/

namespace Sys2Proof.Machine

/-- An 8-byte write of a register by an agent at cycle t. -/
def State.writeAt (s : State) (t : Nat) (ag : Agent) (a v : Nat) (fail : Bool) : Host.Outcome State Fault Refusal :=
  .next (s.live t fun s => s.writeFrom ag a 8 v fail)

/-- An 8-byte write at cycle t of a value formed from what the register holds then. -/
def State.updateAt (s : State) (t : Nat) (ag : Agent) (a : Nat) (f : Nat → Nat) : Host.Outcome State Fault Refusal :=
  .next (s.live t fun s =>
    let s := s.inOrder a ag.writeRank
    s.writeReg ag a 8 (f (s.rd a)) false)

/-! ### Memory tiers -/

/-- MAP_COMMIT (R94, R101). -/
def execMapCommit (t : Nat) (tier : Tier) (ag : Agent) (s : State) : Host.Outcome State Fault Refusal :=
  s.writeAt t ag (tier.reg Reg.pntMapCommit Reg.celMapCommit) 1 false

/-- MAPOUT_WRITE (R101). -/
def execMapoutWrite (t : Nat) (tier : Tier) (i : Fin 4) (v : BitVec 64) (ag : Agent) (s : State) :
    Host.Outcome State Fault Refusal :=
  if tier.channels / 64 ≤ i.val then .next (s.advance t) else s.writeAt t ag (tier.mapout i) v.toNat false

/-! ### Engines -/

/-- INJ_RESIDUE (R134). -/
def execInjResidue (t : Nat) (e : Fin 96) (array : Fin 4) (ag : Agent) (s : State) : Host.Outcome State Fault Refusal :=
  s.writeAt t ag (Reg.engDpCtrl e) (array.val + 4) false

/-- INJ_PARITY (R134). -/
def execInjParity (t : Nat) (e : Fin 96) (array : Fin 4) (ag : Agent) (s : State) : Host.Outcome State Fault Refusal :=
  s.writeAt t ag (Reg.engDpCtrl e) (array.val + 8) false

/-- SR_SEED_WRITE (R124). -/
def execSrSeedWrite (t : Nat) (e : Fin 96) (v : BitVec 64) (ag : Agent) (s : State) : Host.Outcome State Fault Refusal :=
  s.writeAt t ag (Reg.engSrSeed e) v.toNat false

/-- PWL_USER_WRITE (R128): entry i of the table, or ENG_PWL_USER_CFG. -/
def execPwlUserWrite (t : Nat) (e : Fin 96) (i : Option (Fin 32)) (v : BitVec 64) (ag : Agent) (s : State) :
    Host.Outcome State Fault Refusal :=
  s.writeAt t ag (match i with
    | some i => Reg.engPwlUser e i
    | none => Reg.engPwlUserCfg e) v.toNat false

/-- HOLD_CTRL_WRITE (R138). -/
def execHoldCtrlWrite (t : Nat) (e : Fin 96) (v : BitVec 64) (ag : Agent) (s : State) : Host.Outcome State Fault Refusal :=
  s.writeAt t ag (Reg.engHoldCtrl e) v.toNat false

/-- QUEUE_ENABLE (R185). -/
def execQueueEnable (t : Nat) (e : Fin 96) (q : Fin 4) (v : BitVec 64) (ag : Agent) (s : State) :
    Host.Outcome State Fault Refusal :=
  s.writeAt t ag (Reg.engQCfg e q) (putBits v.toNat 0 0 1) false

/-- QUEUE_DISABLE (R186). -/
def execQueueDisable (t : Nat) (e : Fin 96) (q : Fin 4) (v : BitVec 64) (ag : Agent) (s : State) :
    Host.Outcome State Fault Refusal :=
  s.writeAt t ag (Reg.engQCfg e q) (putBits v.toNat 0 0 0) false

/-- RESUME (R183). -/
def execResume (t : Nat) (e : Fin 96) (q : Fin 4) (ag : Agent) (s : State) : Host.Outcome State Fault Refusal :=
  s.writeAt t ag (Reg.engQCtrl e q) 1 false

/-- ABORT (R182). -/
def execAbort (t : Nat) (e : Fin 96) (q : Fin 4) (ag : Agent) (s : State) : Host.Outcome State Fault Refusal :=
  s.writeAt t ag (Reg.engQCtrl e q) 2 false

/-- RESET (R185). -/
def execReset (t : Nat) (e : Fin 96) (q : Fin 4) (ag : Agent) (s : State) : Host.Outcome State Fault Refusal :=
  s.writeAt t ag (Reg.engQCtrl e q) 4 false

/-- IMEM_SWAP (R179). -/
def execImemSwap (t : Nat) (e : Fin 96) (ag : Agent) (s : State) : Host.Outcome State Fault Refusal :=
  s.writeAt t ag (Reg.engImemSwap e) 1 false

/-- IMEM_WIN_WRITE (R178). -/
def execImemWinWrite (t : Nat) (e : Fin 96) (i : Fin 4096) (v : BitVec 64) (ag : Agent) (s : State) :
    Host.Outcome State Fault Refusal :=
  s.writeAt t ag (Reg.engImemWin e i) v.toNat false

/-! ### The tick block -/

/-- TCK_ENABLE (R41). -/
def execTckEnable (t : Nat) (en : Bool) (ag : Agent) (s : State) : Host.Outcome State Fault Refusal :=
  s.updateAt t ag Reg.tckCtrl fun r => putBits r 0 0 (b2n en)

/-- TCK_SRC_CHANGE (R29). -/
def execTckSrcChange (t : Nat) (src : BitVec 2) (ag : Agent) (s : State) : Host.Outcome State Fault Refusal :=
  s.updateAt t ag Reg.tckCtrl fun r => putBits r 2 1 src.toNat

/-- REALIGN (R29). -/
def execRealign (t : Nat) (ag : Agent) (s : State) : Host.Outcome State Fault Refusal :=
  s.updateAt t ag Reg.tckCtrl fun r => r + 64

/-- PLAN_SWAP (R40). -/
def execPlanSwap (t : Nat) (ag : Agent) (s : State) : Host.Outcome State Fault Refusal :=
  s.updateAt t ag Reg.tckCtrl fun r => r + 32

/-- TCK_PHASE_SKIP (R38). -/
def execTckPhaseSkip (t : Nat) (v : BitVec 64) (ag : Agent) (s : State) : Host.Outcome State Fault Refusal :=
  s.writeAt t ag Reg.tckPhaseSkip v.toNat false

/-! ### Ingest, video and the fabric -/

/-- CFG_SWAP (R329). -/
def execCfgSwap (t : Nat) (ag : Agent) (s : State) : Host.Outcome State Fault Refusal :=
  s.updateAt t ag Reg.ingCtrl fun r => r + 8

/-- VDC_RELEASE (R361). -/
def execVdcRelease (t : Nat) (v : BitVec 64) (ag : Agent) (s : State) : Host.Outcome State Fault Refusal :=
  s.writeAt t ag Reg.vdcRelease v.toNat false

/-- VDC_REARM (R345). -/
def execVdcRearm (t : Nat) (stream : BitVec 16) (ag : Agent) (s : State) : Host.Outcome State Fault Refusal :=
  s.writeAt t ag Reg.vdcRearm stream.toNat false

/-- RETRAIN (R397). -/
def execRetrain (t : Nat) (port : Fin 8) (ag : Agent) (s : State) : Host.Outcome State Fault Refusal :=
  s.writeAt t ag (Reg.ktfPortCtrl port) 1 false

/-- KTF_ENABLE (R429). -/
def execKtfEnable (t : Nat) (en : Bool) (ag : Agent) (s : State) : Host.Outcome State Fault Refusal :=
  s.writeAt t ag Reg.ktfCtrl (b2n en) false

/-! ### Contexts -/

/-- CONTEXT_CREATE (R372). -/
def execContextCreate (t : Nat) (v : BitVec 64) (ag : Agent) (s : State) : Host.Outcome State Fault Refusal :=
  s.writeAt t ag Reg.schCtxCfg (putBits v.toNat 0 0 1) false

/-- CONTEXT_DELETE (R393). -/
def execContextDelete (t : Nat) (ag : Agent) (s : State) : Host.Outcome State Fault Refusal :=
  .next (s.live t fun s =>
    let s := s.inOrder Reg.schCtxCfg ag.writeRank
    s.writeReg ag Reg.schCtxCfg 8 (putBits (s.readReg Reg.schCtxCfg) 0 0 0) false)

/-- CONTEXT_ABORT (R381). -/
def execContextAbort (t : Nat) (ag : Agent) (s : State) : Host.Outcome State Fault Refusal :=
  s.writeAt t ag Reg.schCtxCtrl 1 false

/-- EVICT (R376). -/
def execEvict (t : Nat) (ag : Agent) (s : State) : Host.Outcome State Fault Refusal :=
  s.writeAt t ag Reg.schCtxCtrl 2 false

/-- PARTITION_ABORT (R382). -/
def execPartitionAbort (t : Nat) (p : Fin 8) (ag : Agent) (s : State) : Host.Outcome State Fault Refusal :=
  s.writeAt t ag (Reg.schPartCtrl p) 1 false

/-- STANDIN_WRITE (R389). -/
def execStandinWrite (t : Nat) (i : Fin 4) (v : BitVec 64) (ag : Agent) (s : State) : Host.Outcome State Fault Refusal :=
  s.writeAt t ag (Reg.schStandin i) v.toNat false

/-! ### Health and faults -/

/-- ST_REQ_ENGINE (R444). -/
def execStReqEngine (t : Nat) (e : Fin 96) (ag : Agent) (s : State) : Host.Outcome State Fault Refusal :=
  s.writeAt t ag Reg.hltStReq (e.val * 2 ^ 8) false

/-- ST_REQ_SENSORS (R444). -/
def execStReqSensors (t : Nat) (ag : Agent) (s : State) : Host.Outcome State Fault Refusal :=
  s.writeAt t ag Reg.hltStReq 1 false

/-- ST_REQ_CAL_PANTRY (R444). -/
def execStReqCalPantry (t : Nat) (ch : Fin 192) (ag : Agent) (s : State) : Host.Outcome State Fault Refusal :=
  s.writeAt t ag Reg.hltStReq (2 + ch.val * 2 ^ 8) false

/-- ST_REQ_CAL_CELLAR (R444). -/
def execStReqCalCellar (t : Nat) (ch : Fin 256) (ag : Agent) (s : State) : Host.Outcome State Fault Refusal :=
  s.writeAt t ag Reg.hltStReq (3 + ch.val * 2 ^ 8) false

/-- FULL_RATE (R443). -/
def execFullRate (t : Nat) (on : Bool) (ag : Agent) (s : State) : Host.Outcome State Fault Refusal :=
  s.updateAt t ag Reg.hltStCtrl fun r => putBits r 0 0 (b2n on)

/-- FLT_INJECT (R458). -/
def execFltInject (t : Nat) (code : BitVec 16) (ag : Agent) (s : State) : Host.Outcome State Fault Refusal :=
  s.writeAt t ag Reg.fltInject code.toNat false

/-- FLT_RING_HEAD_WRITE (R464). -/
def execFltRingHeadWrite (t : Nat) (v : BitVec 32) (ag : Agent) (s : State) : Host.Outcome State Fault Refusal :=
  s.writeAt t ag Reg.fltRingHead v.toNat false

/-- ALERT_STATUS_CLEAR (R457). -/
def execAlertStatusClear (t : Nat) (v : BitVec 5) (ag : Agent) (s : State) : Host.Outcome State Fault Refusal :=
  s.writeAt t ag Reg.fltAlertStatus v.toNat false

/-! ### The security block -/

/-- SVN_COMMIT (R478). -/
def execSvnCommit (t : Nat) (fail : Bool) (ag : Agent) (s : State) : Host.Outcome State Fault Refusal :=
  s.writeAt t ag Reg.secCtrl 1 fail

/-- REVOKE (R479). -/
def execRevoke (t : Nat) (k : Fin 4) (fail : Bool) (ag : Agent) (s : State) : Host.Outcome State Fault Refusal :=
  s.writeAt t ag Reg.secCtrl (2 + k.val * 2 ^ 2) fail

/-- OTP_KEY_PROGRAM (R479). -/
def execOtpKeyProgram (t : Nat) (k : Fin 4) (fail : Bool) (ag : Agent) (s : State) : Host.Outcome State Fault Refusal :=
  s.writeAt t ag Reg.secOtpKeyCtrl (k.val + 4) fail

/-- ATTEST_GO (R486). -/
def execAttestGo (t : Nat) (fail : Bool) (ag : Agent) (s : State) : Host.Outcome State Fault Refusal :=
  s.writeAt t ag Reg.secAttestCtrl 1 fail

/-- NOR_READ (R467). -/
def execNorRead (t : Nat) (len : BitVec 24) (ag : Agent) (s : State) : Host.Outcome State Fault Refusal :=
  s.writeAt t ag Reg.secNorCtrl (len.toNat * 2 ^ 8) false

/-- NOR_PROGRAM (R467). -/
def execNorProgram (t : Nat) (len : BitVec 24) (ag : Agent) (s : State) : Host.Outcome State Fault Refusal :=
  s.writeAt t ag Reg.secNorCtrl (1 + len.toNat * 2 ^ 8) false

/-- NOR_ERASE (R467). -/
def execNorErase (t : Nat) (ag : Agent) (s : State) : Host.Outcome State Fault Refusal :=
  s.writeAt t ag Reg.secNorCtrl 2 false

/-! ### Any register -/

/-- REGISTER_WRITE (R9 to R13). -/
def execRegisterWrite (t da width : Nat) (v : BitVec 64) (ag : Agent) (s : State) : Host.Outcome State Fault Refusal :=
  .next (s.live t fun s => s.writeFrom ag da width v.toNat false)

/-- A read of a register by an agent: what it returns goes to the agent. One that the agent may not make is refused as a write is. -/
def State.readFor (s : State) (ag : Agent) (da width : Nat) : State :=
  if regionOf da ≠ .register then s
  else if s.mayRead ag da = false then s.refuseWrite ag else
  let (v, s) := (s.inOrder da readRank).readAt da width
  s.emit (.regValue ag da (BitVec.ofNat 64 v))

/-- UNMAPPED_REGISTER_ACCESS (R512): it reads 0, or its write is dropped, with F_REG_ACCESS. At a DA that names a register the access is
that register's. -/
def execUnmappedRegisterAccess (t da width : Nat) (v : Option (BitVec 64)) (ag : Agent) (s : State) :
    Host.Outcome State Fault Refusal :=
  .next (s.live t fun s => match v with
    | some v => s.writeFrom ag da width v.toNat false
    | none => s.readFor ag da width)

end Sys2Proof.Machine
end

