-- ==== Sys2Proof/Machine/Inbound.lean ====
section
/-! DEFINITION. The companion's inbound requests: to Pantry and Cellar, to the Shelf windows, and to registers (R420, R426, R517). -/

namespace Sys2Proof.Machine

/-- Answers an inbound message. -/
def State.inboundReply (s : State) (p : Packet) (status : Nat) (data : List Byte) : State :=
  let data := if status = 0 then data else []
  s.sendOn dulis { pkt := { type := 0x38, vc := 4, tag := p.tag, status := status, len := data.length, payload := data } }

/-- Refuses an inbound message: F_ADDR_RANGE, counted, and INBOUND_REJECT (R426, R517). -/
def State.inboundRefuse (s : State) (p : Packet) : State :=
  (({ s with attic := { s.attic with refused := s.attic.refused + 1 } } : State).event Reg.atcIntStatus 4).inboundReply p F.addrRange []

/-- A message that breaks its own form (assumption log 65). -/
def State.inboundBad (s : State) (p : Packet) : State := s.inboundReply p F.fabricPacket []

/-- The byte mask and data of an INB_WR in the form of WR_PART: LEN 96, one whole sector. -/
def inboundPart (p : Packet) : Option (Nat × List Byte) :=
  if p.len = 96 ∧ p.payload.length = 96 ∧ p.addr % 64 = 0 then some (leField p.payload 0 8, fieldBytes p.payload 32 64) else none

/-- What an inbound message asks, and how many bytes it covers; none when it breaks its form. -/
def inboundAct (p : Packet) : Option (MemAct × Nat) :=
  match p.type with
  | 0x30 => if 0 < p.len ∧ p.len ≤ 256 ∧ p.payload = [] then some (.read, p.len) else none
  | 0x31 =>
    (match inboundPart p with
     | some (m, d) => some (.red .setByte m d, 64)
     | none =>
       if 0 < p.len ∧ p.len ≤ 256 ∧ p.len ≠ 96 ∧ p.payload.length = p.len then some (.write p.payload, p.len) else none)
  | 0x32 =>
    (match packetAtom p with
     | some (o, t) =>
       let w := t.bytes
       if p.len = (if o = .cas then 2 * w else w) ∧ p.payload.length = p.len then
         some (.atom { op := o, ty := t, opnd := leField p.payload 0 w, cmp := leField p.payload w w,
                       dPin := toSigned 16 (bits (leField p.payload 0 4) 31 16),
                       dRef := toSigned 16 (bits (leField p.payload 0 4) 15 0) }, w)
       else none
     | none => none)
  | _ => none

/-- An inbound access to a register (R426, R476, R517). -/
def State.inboundRegister (s : State) (p : Packet) (act : MemAct) : State :=
  match act with
  | .read =>
    if s.mayRead .companion p.addr = false then s.inboundRefuse p else
    let (v, s) := (s.inOrder p.addr readRank).readAt p.addr p.len
    s.inboundReply p 0 (leBytes p.len v)
  | .write data =>
    if s.mayWrite .companion p.addr = false then s.inboundRefuse p else
    (s.writeFrom .companion p.addr p.len (leNat data) false).inboundReply p 0 []
  | .red _ _ _ =>
    if s.mayWrite .companion p.addr = false then s.inboundRefuse p else
    (s.regAccess p.addr).inboundReply p 0 []
  | .atom _ =>
    if bit (s.rd Reg.atcCtrl) 1 then (s.noteAtomic p.addr F.atomicAlign).inboundReply p F.atomicAlign [] else s.inboundRefuse p

/-- An inbound access to a Shelf window: atomics do not reach it (R69). -/
def State.inboundShelf (s : State) (p : Packet) (act : MemAct) (n : Nat) : State :=
  if (s.memFault p.addr n).isSome then s.inboundRefuse p else
  match act with
  | .read =>
    (match s.deadWord p.addr n with
     | some a => (s.noteDead a).inboundReply p F.memUe []
     | none => s.inboundReply p 0 (s.load p.addr n))
  | .write data => (s.windowStore p.addr data).inboundReply p 0 []
  | .red op mask data => (s.windowStore p.addr (op.apply mask (s.load p.addr data.length) data)).inboundReply p 0 []
  | .atom _ => (s.noteAtomic p.addr F.atomicAlign).inboundReply p F.atomicAlign []

/-- An inbound access to Pantry or Cellar, charged to ATC_INBOUND_PART (R426); Hatch and a range outside the usable one are refused. -/
def State.inboundTier (s : State) (p : Packet) (act : MemAct) (n : Nat) : State :=
  let aligned := match act with
    | .atom _ => decide (p.addr % n = 0)
    | _ => true
  if (s.memFault p.addr n).map (·.1) = some F.addrRange then s.inboundRefuse p
  else if !aligned then (s.noteAtomic p.addr F.atomicAlign).inboundReply p F.atomicAlign []
  else
    s.request { req := ⟨2 ^ 65 + p.tag, .companion, Fin.ofNat 8 (s.fld Reg.atcInboundPart 2 0), p.addr, n⟩, act := act,
                pkt := some (dulis, p) }

/-- An inbound message: by the region of its DA. -/
def State.inbound (s : State) (p : Packet) : State :=
  match inboundAct p with
  | none => if bit (s.rd Reg.atcCtrl) 1 then s.inboundBad p else s.inboundRefuse p
  | some (act, n) =>
    match regionOf p.addr with
    | .register => s.inboundRegister p act
    | r =>
      if bit (s.rd Reg.atcCtrl) 1 = false then s.inboundRefuse p else
      match r with
      | .shelf _ _ => s.inboundShelf p act n
      | .pantry => s.inboundTier p act n
      | .cellar => s.inboundTier p act n
      | _ => s.inboundRefuse p

/-- INB_RD (R426). -/
def execInbRd (t : Nat) (p : Packet) (s : State) : Host.Outcome State Fault Refusal :=
  .next (s.live t fun s => s.fromCompanion p fun s => s.inbound { p with type := 0x30 })

/-- INB_WR (R426). -/
def execInbWr (t : Nat) (p : Packet) (s : State) : Host.Outcome State Fault Refusal :=
  .next (s.live t fun s => s.fromCompanion p fun s => s.inbound { p with type := 0x31 })

/-- INB_ATOMIC (R426). -/
def execInbAtomic (t : Nat) (p : Packet) (s : State) : Host.Outcome State Fault Refusal :=
  .next (s.live t fun s => s.fromCompanion p fun s => s.inbound { p with type := 0x32 })

end Sys2Proof.Machine
end

