-- ==== Sys2Proof/Machine/Power.lean ====
section
/-! DEFINITION. Power, reset, the sideband and the timing pins (R491 to R508, R511). -/

namespace Sys2Proof.Machine

/-! ### The pins (R456, R457, R497, R500, R506) -/

/-- FAULT_N is asserted: by a record, or by a shutdown or a REFCLK loss that the standby latch holds. -/
def State.faultPin (s : State) : Bool :=
  s.power.latched || s.power.shutting.isSome || (s.power.released && decide (s.power.step = .good) && s.faultN)

/-- ALERT_N is asserted; it is released while the rails are off and in reset. -/
def State.alertPin (s : State) : Bool := s.power.released && decide (s.power.step = .good) && s.alert

/-- The rails are not all up. -/
def State.railsOff (s : State) : Bool := decide (s.power.step ≠ .good)

/-! ### Reset (R12, R496, R497, R500) -/

/-- The registers that the standby latch holds (R500). -/
def latchRegs : List Nat :=
  [Reg.pwrStatus, Reg.pwrInput] ++ (List.range 8).map Reg.fltLast

/-- A NOR program or erase that stops half-way leaves what it was writing undefined (R480, R497). -/
def State.tearNor (s : State) : Persist :=
  let torn := fun (a n : Nat) => { s.persist with nor := tabSetList norDefault s.persist.nor a (freeBytes s.free n) }
  match s.sec.op with
  | some ⟨1, a, _, n⟩ => torn a n
  | some ⟨2, a, _, _⟩ => torn (a / sectorSize * sectorSize) sectorSize
  | _ => s.persist

/-- Bytes that `tearNor` makes undefined. -/
def State.torn (s : State) : Nat :=
  match s.sec.op with
  | some ⟨1, _, _, n⟩ => n
  | some ⟨2, _, _, _⟩ => sectorSize
  | _ => 0

/-- Every block stops, and everything takes its reset value but the latch registers, the OTP and the NOR; `power` is what the power
block then is. The latch registers keep their values through any reset (R12, R500). -/
def State.resetAll (s : State) (power : PowerSt) : State :=
  let fresh : State := { pending := s.pending, now := s.now, free := s.free + s.torn, outbox := s.outbox, persist := s.tearNor,
                         power := { power with address := s.power.address } }
  (latchRegs.foldl (fun (x : State) (a : Nat) => x.wr a (s.rd a)) fresh).setBit Reg.pwrStatus 0 (decide (power.step = .good))

/-- The internal reset release: the latch clears, and time counts from here (R496, R500). -/
def State.release (s : State) : State :=
  { pending := s.pending, free := s.free, outbox := s.outbox, persist := s.persist, power := { address := s.power.address } }

/-- Whether the internal reset release is due: RESET_N is high, 100 µs have passed since PWR_GOOD, and no REFCLK loss awaits a reset. -/
def State.releaseDue (s : State) : Bool :=
  !s.power.released && decide (s.power.step = .good) && !s.power.refLost && decide (s.power.goodAt + us 100 ≤ s.now)

/-- RESET_N is taken. A pulse during an orderly shutdown, or within 10 s of a thermal one, does nothing; after a shutdown it lets the
power-up start at group 1 (R497, R500, R511). -/
def State.takeReset (s : State) : State :=
  let hot := match s.power.thermalAt with
    | some c => decide (s.now < c + us 10000000)
    | none => false
  if s.power.shutting.isSome ∨ hot = true then s
  else s.resetAll { step := s.power.step, goodAt := s.power.goodAt, low := true, released := false, latched := s.power.latched }

/-! ### Power-up (R494, R495) -/

/-- The input rises: the standby converter starts. With 3V3_SB gone before, the latch and the dynamic address are gone too. -/
def State.inputRise (s : State) (cold : Bool) : State :=
  if s.power.step ≠ .off then s else
  let s := if cold then { s with regs := [], power := { s.power with address := none } } else s
  s.resetAll { step := .standby, low := s.power.low, released := false, latched := s.power.latched && !cold }

/-- A step of the power-up ends. -/
def State.powerStep (s : State) (next : PowerStep) : State :=
  { s with power := { s.power with step := next } }

/-- The group of rails that is starting comes into regulation; after the last PWR_GOOD rises. -/
def State.groupUp (s : State) : State :=
  if s.power.down then s else
  match s.power.step with
  | .charged => s.powerStep .group1
  | .group1 => s.powerStep .group2
  | .group2 => s.powerStep .group3a
  | .group3a => s.powerStep .group3b
  | .group3b =>
    let s := s.powerStep .good
    ({ s with power := { s.power with goodAt := s.now } }).setBit Reg.pwrStatus 0 true
  | _ => s

/-- The step of the power-up at which a rail starts (R493). -/
def railStep (r : Nat) : PowerStep :=
  if r < 16 then .group1
  else if r < 24 then .charged
  else if r = 28 ∨ r = 31 then .group2
  else if r = 24 ∨ r = 25 ∨ r = 29 then .group3a
  else .group3b

/-! ### Power-down (R498 to R500) -/

/-- PWR_STATUS of a power-down. -/
def State.downStatus (s : State) (cause rail : Nat) : State :=
  s.wr Reg.pwrStatus (putBits (putBits (putBits (s.rd Reg.pwrStatus) 3 3 1) 7 4 cause) 12 8 rail)

/-- The rails are off after a shutdown: the module stays off until RESET_N is pulsed. -/
def State.railsDown (s : State) (thermal : Bool) : State :=
  s.resetAll { step := .charged, low := s.power.low, released := false, latched := true, down := true,
               thermalAt := if thermal then some s.now else none }

/-- A rail misses regulation during power-up (R495). -/
def State.railFail (s : State) (r : Nat) : State :=
  if s.power.down ∨ s.power.step ≠ railStep r then s else (s.downStatus 4 r).railsDown false

/-- An orderly shutdown completes: the FATAL record goes to NOR, and the rails go off (R499). -/
def State.shutdownDone (s : State) : State :=
  match s.power.shutting with
  | none => s
  | some (cause, _) =>
    let s := if s.fatalWaits && decide (s.fld Reg.fltNorCfg 7 0 ≠ 0) && decide (s.stage ≠ 6) then s.logProgram false else s
    s.railsDown (decide (cause = 1))

/-- An uncontrolled power-down: no record is written (R498). The rails are off until the input rises through 46 V again, or, above 62 V,
until RESET_N is pulsed; one that finds the rails off keeps the cause that the latch holds. -/
def State.uncontrolled (s : State) (cause : Nat) (off : Bool) : State :=
  if s.power.step = .off then s else
  let dead := s.power.step = .standby ∨ s.power.down
  let s := if dead then s else s.downStatus cause 0
  s.resetAll { step := if off then .off else if s.power.step = .standby then .standby else .charged, low := s.power.low,
               released := false, latched := s.power.latched || !(decide dead), down := !off && decide (s.power.step ≠ .standby),
               thermalAt := s.power.thermalAt }

/-- REFCLK is lost: every block stops as a reset does (R505). -/
def State.refclkLost (s : State) : State :=
  if s.railsOff then s else
  (s.setBit Reg.pwrStatus 2 true).resetAll
    { step := s.power.step, goodAt := s.power.goodAt, low := s.power.low, released := s.power.released, refLost := true,
      latched := true, shutting := s.power.shutting }

/-! ### The power cap (R501) -/

/-- The cap in force in W. -/
def State.capInForce (s : State) : Nat :=
  min (s.fld Reg.pwrCapFuse 15 0) (min (s.fld Reg.pwrCap 15 0) (s.fld Reg.pwrSbCap 15 0))

/-- The power cap in eighths. -/
def State.powerCap (s : State) : Nat := s.fld Reg.pwrStatus 18 16 + 1

/-- The power cap moves to c eighths. -/
def State.setPowerCap (s : State) (c : Nat) : State :=
  let was := s.powerCap
  let s := (s.setFld Reg.pwrStatus 18 16 (c - 1)).setBit Reg.pwrStatus 1 (decide (c < 8))
  let s := (List.range 96).foldl (fun (s : State) (e : Nat) => s.setEng e { s.eng e with capPower := c }) s
  if was = 8 ∧ c < 8 then
    let s := (s.bump Reg.pwrCapCount 31 0 1).event Reg.pwrIntStatus 0
    { s with power := { s.power with limited := some s.now } }
  else if was < 8 ∧ c = 8 then
    { s with power := { s.power with limited := none, limitedFor := s.limitedCycles } }
  else s

/-- The cap moves by one eighth: down when the mean power dw lies above the cap in force, up once it has stayed below 97 % of it for
1 ms. -/
def State.moveCap (s : State) (dw : Nat) : State :=
  let cap := s.capInForce
  if 10 * cap < dw then
    let s := s.setPowerCap (max 1 (s.powerCap - 1))
    { s with power := { s.power with calm := none } }
  else if 10 * dw < 97 * cap then
    let since := s.power.calm.getD s.now
    let s := { s with power := { s.power with calm := some since } }
    if since + us 1000 ≤ s.now then s.setPowerCap (min 8 (s.powerCap + 1)) else s
  else { s with power := { s.power with calm := none } }

/-- PWR_RAIL_r of a reading: mV, 10 mA, nominal mV, IN_REG within 3 % (R493). -/
def railReg (r mv ma : Nat) : Nat :=
  let nom := railNominal r
  mv + ma * 2 ^ 16 + nom * 2 ^ 32 + b2n (decide (97 * nom ≤ 100 * mv) && decide (100 * mv ≤ 103 * nom)) * 2 ^ 48

/-- The evaluation every 100 µs. It follows the cap writes of its cycle (R511). -/
def State.powerEval (s : State) (mv ma dw uj : Nat) (rails : List (Nat × Nat)) : State :=
  if 0 < s.power.evalAt ∧ s.now < s.power.evalAt - 1 + us 100 then s else
  let s := (s.reached Reg.pwrCap 4).reached Reg.pwrSbCap 4
  let p := s.power
  let s := { s with power := { p with evalAt := s.now + 1, energy := p.energy + uj, samples := p.samples + 1,
                                      sumPower := p.sumPower + dw, sumVolts := p.sumVolts + mv, peak := max p.peak dw } }
  let s := (s.wr Reg.pwrInput (mv + ma * 2 ^ 16 + dw * 2 ^ 32)).wr Reg.pwrInputPeak (max (s.rd Reg.pwrInputPeak) dw)
  let s := s.wr Reg.pwrEnergy (min (s.power.energy / 1000) (2 ^ 64 - 1))
  let s := ((List.range 32).zip rails).foldl (fun (s : State) (x : Nat × Nat × Nat) =>
    s.wr (Reg.pwrRail x.1) (railReg x.1 x.2.1 x.2.2)) s
  s.moveCap dw

/-! ### PPS_IN (R508) -/

/-- Offset of a PTP time from the nearest whole second; exactly half-way the manual leaves its sign open (free value). -/
def State.ppsOffset (s : State) (ns : Nat) : Int × State :=
  let r := ns % 1000000000
  if r < 500000000 then (r, s)
  else if 500000000 < r then ((r : Int) - 1000000000, s)
  else
    let (k, s) := s.freeNat
    (if k % 2 = 0 then 500000000 else -500000000, s)

/-- A rising edge stamped at ns. -/
def State.ppsEdge (s : State) (ns : Nat) : State :=
  let p := s.power
  let s := { s with power := { p with ppsEdge := s.now + 1, ppsMissing := false } }
  if 0 < p.pps ∧ s.now < p.pps - 1 + us 900000 then s.bump Reg.pwrPpsOffset 63 48 1
  else
    let (d, s) := s.ppsOffset ns
    let s := { s with power := { s.power with pps := s.now + 1 } }
    ((s.wr Reg.pwrPpsStamp ns).setFld Reg.pwrPpsOffset 31 0 (ofSigned 32 d)).bump Reg.pwrPpsOffset 47 32 1

/-- No edge for 1.5 s. -/
def State.ppsLate (s : State) : State :=
  if s.power.ppsMissing ∨ s.now < s.power.ppsEdge - 1 + us 1500000 then s
  else ({ s with power := { s.power with ppsMissing := true } }).event Reg.pwrIntStatus 1

/-! ### The sideband (R504) -/

/-- The static address. -/
def sbStatic : Nat := 0x3C + Config.sbAddr.toNat

/-- Whether a transaction is addressed to the block: by its dynamic address, or over I²C by its static one. The sideband answers once
3V3_SB is up. -/
def State.sbMine (s : State) (target : Nat) : Bool :=
  decide (s.power.step ≠ .off) && (decide (target = sbStatic) || decide (s.power.address = some target))

/-- What a transaction returns; the manual gives the value bytes only with a read's status OK or POWERED_DOWN (free value otherwise). -/
def State.sbReply (s : State) (status : Nat) (value : Option Nat) : State :=
  match value with
  | some v => s.emit (.sideband status (BitVec.ofNat 64 v))
  | none =>
    let (v, s) := s.freeNat
    s.emit (.sideband status (BitVec.ofNat 64 v))

/-- A sideband READ. -/
def State.sbRead (s : State) (da : Nat) (busy : Bool) : State :=
  if s.railsOff && !(decide (da ∈ latchRegs)) then s.sbReply 2 (some 0)
  else if regionOf da ≠ .register ∨ (regFind da).isNone = true ∨ s.mayRead .sideband da = false then s.sbReply 1 none
  else if busy then s.sbReply 3 none
  else
    let s := s.inOrder da readRank
    s.sbReply 0 (some (s.readAt da 8).1)

/-- A sideband WRITE. One that finds the block in reset is answered BUSY (assumption log 67). -/
def State.sbWrite (s : State) (da v : Nat) (busy : Bool) : State :=
  if s.mayWrite .sideband da = false then s.sbReply 1 none
  else if s.railsOff then s.sbReply 2 none
  else if busy || s.stopped then s.sbReply 3 none
  else (s.writeFrom .sideband da 8 v false).sbReply 0 none

/-! ### Meanings: they do not wait for the block to run -/

/-- INTERNAL_RESET_RELEASE (R496). -/
def execInternalResetRelease (t : Nat) (s : State) : Host.Outcome State Fault Refusal :=
  let s := s.advance t
  .next (if s.releaseDue then s.release else s)

/-- INPUT_RISE (R494). -/
def execInputRise (t : Nat) (cold : Bool) (s : State) : Host.Outcome State Fault Refusal := .next ((s.advance t).inputRise cold)

/-- INPUT_CAPACITANCE_CHARGED (R494). -/
def execInputCapacitanceCharged (t : Nat) (s : State) : Host.Outcome State Fault Refusal :=
  let s := s.advance t
  .next (if s.power.step = .standby then s.powerStep .charged else s)

/-- RAIL_GROUP_UP (R494). -/
def execRailGroupUp (t : Nat) (s : State) : Host.Outcome State Fault Refusal := .next (s.advance t).groupUp

/-- RAIL_FAIL (R495). -/
def execRailFail (t : Nat) (rail : Fin 32) (s : State) : Host.Outcome State Fault Refusal := .next ((s.advance t).railFail rail)

/-- INPUT_UV (R498). -/
def execInputUv (t : Nat) (s : State) : Host.Outcome State Fault Refusal := .next ((s.advance t).uncontrolled 5 true)

/-- INPUT_OV (R498). -/
def execInputOv (t : Nat) (s : State) : Host.Outcome State Fault Refusal := .next ((s.advance t).uncontrolled 6 false)

/-- INPUT_LOW (R491). -/
def execInputLow (t : Nat) (s : State) : Host.Outcome State Fault Refusal := .next (s.live t fun s => s.event Reg.pwrIntStatus 2)

/-- INPUT_HIGH (R491). -/
def execInputHigh (t : Nat) (s : State) : Host.Outcome State Fault Refusal := .next (s.live t fun s => s.event Reg.pwrIntStatus 3)

/-- ORDERLY_SHUTDOWN (R499). -/
def execOrderlyShutdown (t : Nat) (s : State) : Host.Outcome State Fault Refusal := .next (s.advance t).shutdownDone

/-- RESET_ASSERT (R497). -/
def execResetAssert (t : Nat) (s : State) : Host.Outcome State Fault Refusal := .next (s.advance t).takeReset

/-- REFCLK_LOST (R505). -/
def execRefclkLost (t : Nat) (s : State) : Host.Outcome State Fault Refusal := .next (s.advance t).refclkLost

/-- POWER_CAP_EVAL (R501). -/
def execPowerCapEval (t : Nat) (mv ma10 dw : BitVec 16) (uj : Nat) (rails : List (BitVec 16 × BitVec 16)) (s : State) :
    Host.Outcome State Fault Refusal :=
  .next (s.live t fun s => s.powerEval mv.toNat ma10.toNat dw.toNat uj (rails.map fun x => (x.1.toNat, x.2.toNat)))

/-- PPS_EDGE (R508). -/
def execPpsEdge (t : Nat) (err : Fin 17) (s : State) : Host.Outcome State Fault Refusal :=
  .next (s.live t fun s => s.ppsEdge (s.timeNs + err.val - 8))

/-- PPS_MISSING (R508). -/
def execPpsMissing (t : Nat) (s : State) : Host.Outcome State Fault Refusal := .next (s.live t fun s => s.ppsLate)

/-- SETDASA (R504): a target that has a dynamic address does not take another. -/
def execSetdasa (t : Nat) (static dyn : BitVec 7) (s : State) : Host.Outcome State Fault Refusal :=
  let s := s.advance t
  .next (if s.power.step ≠ .off ∧ static.toNat = sbStatic ∧ s.power.address = none then
    { s with power := { s.power with address := some dyn.toNat } } else s)

/-- SIDEBAND_READ (R504). -/
def execSidebandRead (t : Nat) (target : BitVec 7) (da : BitVec 64) (busy : Bool) (s : State) : Host.Outcome State Fault Refusal :=
  let s := s.advance t
  .next (if s.sbMine target.toNat then s.sbRead da.toNat busy else s)

/-- SIDEBAND_WRITE (R504). -/
def execSidebandWrite (t : Nat) (target : BitVec 7) (da v : BitVec 64) (busy : Bool) (s : State) :
    Host.Outcome State Fault Refusal :=
  let s := s.advance t
  .next (if s.sbMine target.toNat then s.sbWrite da.toNat v.toNat busy else s)

end Sys2Proof.Machine
end

