-- ==== Sys2Proof/Machine/Dispatch.lean ====
section
/-! DEFINITION. The meaning of every command: one arm per constructor. -/

namespace Sys2Proof.Machine

def exec (i : Instr) (s : State) : Host.Outcome State Fault Refusal :=
  match i with
  | .tickBoundary t => Sys2Proof.Machine.execTickBoundary t s
  | .tckEnable t en ag => Sys2Proof.Machine.execTckEnable t en ag s
  | .tckSrcChange t src ag => Sys2Proof.Machine.execTckSrcChange t src ag s
  | .realign t ag => Sys2Proof.Machine.execRealign t ag s
  | .planSwap t ag => Sys2Proof.Machine.execPlanSwap t ag s
  | .planActivate t => Sys2Proof.Machine.execPlanActivate t s
  | .tckPhaseSkip t v ag => Sys2Proof.Machine.execTckPhaseSkip t v ag s
  | .phaseStart t p => Sys2Proof.Machine.execPhaseStart t p s
  | .budgetEnd t p => Sys2Proof.Machine.execBudgetEnd t p s
  | .deadline t p => Sys2Proof.Machine.execDeadline t p s
  | .sourceLost t => Sys2Proof.Machine.execSourceLost t s
  | .holdoverLimitExpiry t => Sys2Proof.Machine.execHoldoverLimitExpiry t s
  | .sourceReturn t offset => Sys2Proof.Machine.execSourceReturn t offset s
  | .backgroundAdmit t d engines => Sys2Proof.Machine.execBackgroundAdmit t d engines s
  | .tickOutEnd t => Sys2Proof.Machine.execTickOutEnd t s
  | .memRead t r errs late => Sys2Proof.Machine.execMemRead t r errs late s
  | .memWrite t r data errs late => Sys2Proof.Machine.execMemWrite t r data errs late s
  | .larderFill t die da errs => Sys2Proof.Machine.execLarderFill t die da errs s
  | .atomicFadd t who ty da opnd => Sys2Proof.Machine.execAtomicFadd t who ty da opnd s
  | .atomicMin t who ty da opnd => Sys2Proof.Machine.execAtomicMin t who ty da opnd s
  | .atomicMax t who ty da opnd => Sys2Proof.Machine.execAtomicMax t who ty da opnd s
  | .atomicAnd t who ty da opnd => Sys2Proof.Machine.execAtomicAnd t who ty da opnd s
  | .atomicOr t who ty da opnd => Sys2Proof.Machine.execAtomicOr t who ty da opnd s
  | .atomicXor t who ty da opnd => Sys2Proof.Machine.execAtomicXor t who ty da opnd s
  | .atomicSwap t who ty da opnd => Sys2Proof.Machine.execAtomicSwap t who ty da opnd s
  | .atomicCas t who ty da cmp opnd => Sys2Proof.Machine.execAtomicCas t who ty da cmp opnd s
  | .atomicCnt2 t who da dPin dRef => Sys2Proof.Machine.execAtomicCnt2 t who da dPin dRef s
  | .redAddFp32 t who da mask data => Sys2Proof.Machine.execRedAddFp32 t who da mask data s
  | .redAddBf16 t who da mask data => Sys2Proof.Machine.execRedAddBf16 t who da mask data s
  | .redAddInt32 t who da mask data => Sys2Proof.Machine.execRedAddInt32 t who da mask data s
  | .redMaxFp32 t who da mask data => Sys2Proof.Machine.execRedMaxFp32 t who da mask data s
  | .redMinFp32 t who da mask data => Sys2Proof.Machine.execRedMinFp32 t who da mask data s
  | .regulatorRefill t tier p => Sys2Proof.Machine.execRegulatorRefill t tier p s
  | .memTimeout t id => Sys2Proof.Machine.execMemTimeout t id s
  | .channelFail t tier ch training => Sys2Proof.Machine.execChannelFail t tier ch training s
  | .scrubGranule t tier da errs overtaken => Sys2Proof.Machine.execScrubGranule t tier da errs overtaken s
  | .scrubFloorEnd t tier => Sys2Proof.Machine.execScrubFloorEnd t tier s
  | .shelfLarderScrub t da die nbits => Sys2Proof.Machine.execShelfLarderScrub t da die nbits s
  | .forcedCalibration t tier ch => Sys2Proof.Machine.execForcedCalibration t tier ch s
  | .calibrationEnd t tier ch => Sys2Proof.Machine.execCalibrationEnd t tier ch s
  | .mapCommit t tier ag => Sys2Proof.Machine.execMapCommit t tier ag s
  | .mapDone t tier => Sys2Proof.Machine.execMapDone t tier s
  | .mapoutWrite t tier ix v ag => Sys2Proof.Machine.execMapoutWrite t tier ix v ag s
  | .tileWriteback t e q k => Sys2Proof.Machine.execTileWriteback t e q k s
  | .residueCheckFail t e q site parity => Sys2Proof.Machine.execResidueCheckFail t e q site parity s
  | .injResidue t e array ag => Sys2Proof.Machine.execInjResidue t e array ag s
  | .injParity t e array ag => Sys2Proof.Machine.execInjParity t e array ag s
  | .holdExpiry t e => Sys2Proof.Machine.execHoldExpiry t e s
  | .rampStep t e => Sys2Proof.Machine.execRampStep t e s
  | .dutyStep t e => Sys2Proof.Machine.execDutyStep t e s
  | .srSeedWrite t e v ag => Sys2Proof.Machine.execSrSeedWrite t e v ag s
  | .pwlUserWrite t e ix v ag => Sys2Proof.Machine.execPwlUserWrite t e ix v ag s
  | .holdCtrlWrite t e v ag => Sys2Proof.Machine.execHoldCtrlWrite t e v ag s
  | .watchNotify t e q note => Sys2Proof.Machine.execWatchNotify t e q note s
  | .descriptorFetch t e q tail entry => Sys2Proof.Machine.execDescriptorFetch t e q tail entry s
  | .mma t e q => Sys2Proof.Machine.execMma t e q s
  | .mmaBwdX t e q => Sys2Proof.Machine.execMmaBwdX t e q s
  | .mmaBwdW t e q => Sys2Proof.Machine.execMmaBwdW t e q s
  | .conv t e q => Sys2Proof.Machine.execConv t e q s
  | .maxpool t e q => Sys2Proof.Machine.execMaxpool t e q s
  | .convFused t e q => Sys2Proof.Machine.execConvFused t e q s
  | .attn t e q => Sys2Proof.Machine.execAttn t e q s
  | .attnBwd t e q => Sys2Proof.Machine.execAttnBwd t e q s
  | .scanFull t e q => Sys2Proof.Machine.execScanFull t e q s
  | .scanLocal t e q => Sys2Proof.Machine.execScanLocal t e q s
  | .scanReverse t e q => Sys2Proof.Machine.execScanReverse t e q s
  | .pulse t e q => Sys2Proof.Machine.execPulse t e q s
  | .norm t e q => Sys2Proof.Machine.execNorm t e q s
  | .normBwd t e q => Sys2Proof.Machine.execNormBwd t e q s
  | .smax t e q => Sys2Proof.Machine.execSmax t e q s
  | .smaxBwd t e q => Sys2Proof.Machine.execSmaxBwd t e q s
  | .gate t e q => Sys2Proof.Machine.execGate t e q s
  | .reduce t e q => Sys2Proof.Machine.execReduce t e q s
  | .sort t e q => Sys2Proof.Machine.execSort t e q s
  | .boxdec t e q => Sys2Proof.Machine.execBoxdec t e q s
  | .nms t e q => Sys2Proof.Machine.execNms t e q s
  | .gatherRows t e q => Sys2Proof.Machine.execGatherRows t e q s
  | .gatherLookup t e q => Sys2Proof.Machine.execGatherLookup t e q s
  | .scatterAppend t e q => Sys2Proof.Machine.execScatterAppend t e q s
  | .scatterRelease t e q => Sys2Proof.Machine.execScatterRelease t e q s
  | .scatterRetain t e q => Sys2Proof.Machine.execScatterRetain t e q s
  | .scatterInsert t e q => Sys2Proof.Machine.execScatterInsert t e q s
  | .scatterEvict t e q => Sys2Proof.Machine.execScatterEvict t e q s
  | .copy t e q => Sys2Proof.Machine.execCopy t e q s
  | .prefetch t e q => Sys2Proof.Machine.execPrefetch t e q s
  | .wait t e q => Sys2Proof.Machine.execWait t e q s
  | .waitTimeout t e q => Sys2Proof.Machine.execWaitTimeout t e q s
  | .signalAdd t e q => Sys2Proof.Machine.execSignalAdd t e q s
  | .signalSet t e q => Sys2Proof.Machine.execSignalSet t e q s
  | .signalTrigger t e q => Sys2Proof.Machine.execSignalTrigger t e q s
  | .fence t e q => Sys2Proof.Machine.execFence t e q s
  | .callList t e q => Sys2Proof.Machine.execCallList t e q s
  | .callKeeper t e q => Sys2Proof.Machine.execCallKeeper t e q s
  | .kemit t e n addr => Sys2Proof.Machine.execKemit t e n addr s
  | .keeperReturn t e n a0 => Sys2Proof.Machine.execKeeperReturn t e n a0 s
  | .keeperTrap t e n mcause mepc => Sys2Proof.Machine.execKeeperTrap t e n mcause mepc s
  | .keeperTimeout t e n => Sys2Proof.Machine.execKeeperTimeout t e n s
  | .branchCall t e q => Sys2Proof.Machine.execBranchCall t e q s
  | .branchJump t e q => Sys2Proof.Machine.execBranchJump t e q s
  | .branchExit t e q => Sys2Proof.Machine.execBranchExit t e q s
  | .stepBoundary t e q k => Sys2Proof.Machine.execStepBoundary t e q k s
  | .macroOpCommit t e q k => Sys2Proof.Machine.execMacroOpCommit t e q k s
  | .triggerAccept t e q arg => Sys2Proof.Machine.execTriggerAccept t e q arg s
  | .queueEnable t e q v ag => Sys2Proof.Machine.execQueueEnable t e q v ag s
  | .queueDisable t e q v ag => Sys2Proof.Machine.execQueueDisable t e q v ag s
  | .resume t e q ag => Sys2Proof.Machine.execResume t e q ag s
  | .abort t e q ag => Sys2Proof.Machine.execAbort t e q ag s
  | .reset t e q ag => Sys2Proof.Machine.execReset t e q ag s
  | .imemSwap t e ag => Sys2Proof.Machine.execImemSwap t e ag s
  | .imemWinWrite t e ix v ag => Sys2Proof.Machine.execImemWinWrite t e ix v ag s
  | .loaderCheck t da => Sys2Proof.Machine.execLoaderCheck t da s
  | .ethFrameRx t port err frame => Sys2Proof.Machine.execEthFrameRx t port err frame s
  | .sync t => Sys2Proof.Machine.execSync t s
  | .followUp t => Sys2Proof.Machine.execFollowUp t s
  | .delayResp t => Sys2Proof.Machine.execDelayResp t s
  | .announce t => Sys2Proof.Machine.execAnnounce t s
  | .delayReq t => Sys2Proof.Machine.execDelayReq t s
  | .dataFrame t => Sys2Proof.Machine.execDataFrame t s
  | .cfgFrame t => Sys2Proof.Machine.execCfgFrame t s
  | .headerFrame t => Sys2Proof.Machine.execHeaderFrame t s
  | .commandFrame t => Sys2Proof.Machine.execCommandFrame t s
  | .pulseTriggerPresent t e => Sys2Proof.Machine.execPulseTriggerPresent t e s
  | .rtpPacket t => Sys2Proof.Machine.execRtpPacket t s
  | .pictureHandover t j isRef rap => Sys2Proof.Machine.execPictureHandover t j isRef rap s
  | .pictureDecodeStart t hdr => Sys2Proof.Machine.execPictureDecodeStart t hdr s
  | .pictureDecodeEnd t inst complete film stalled refs => Sys2Proof.Machine.execPictureDecodeEnd t inst complete film stalled refs s
  | .pictureWatchdog t inst => Sys2Proof.Machine.execPictureWatchdog t inst s
  | .alignerSample t => Sys2Proof.Machine.execAlignerSample t s
  | .windowCutoff t left => Sys2Proof.Machine.execWindowCutoff t left s
  | .cfgSwap t ag => Sys2Proof.Machine.execCfgSwap t ag s
  | .ingestCfgActivate t => Sys2Proof.Machine.execIngestCfgActivate t s
  | .vdcRelease t v ag => Sys2Proof.Machine.execVdcRelease t v ag s
  | .vdcRearm t stream ag => Sys2Proof.Machine.execVdcRearm t stream ag s
  | .publishEntry t ue => Sys2Proof.Machine.execPublishEntry t ue s
  | .contextCreate t v ag => Sys2Proof.Machine.execContextCreate t v ag s
  | .contextDelete t ag => Sys2Proof.Machine.execContextDelete t ag s
  | .contextAbort t ag => Sys2Proof.Machine.execContextAbort t ag s
  | .evict t ag => Sys2Proof.Machine.execEvict t ag s
  | .partitionAbort t p ag => Sys2Proof.Machine.execPartitionAbort t p ag s
  | .contextSwitchIn t e => Sys2Proof.Machine.execContextSwitchIn t e s
  | .contextSwap t e ue => Sys2Proof.Machine.execContextSwap t e ue s
  | .contextSwapIn t e ue => Sys2Proof.Machine.execContextSwapIn t e ue s
  | .remoteResponse t tag status data => Sys2Proof.Machine.execRemoteResponse t tag status data s
  | .remoteTagTimeout t tag => Sys2Proof.Machine.execRemoteTagTimeout t tag s
  | .jobPlace t p => Sys2Proof.Machine.execJobPlace t p s
  | .selftestLead t e => Sys2Proof.Machine.execSelftestLead t e s
  | .selftestSlotStart t e ues => Sys2Proof.Machine.execSelftestSlotStart t e ues s
  | .selftestStart t e => Sys2Proof.Machine.execSelftestStart t e s
  | .selftestEnd t e items ues => Sys2Proof.Machine.execSelftestEnd t e items ues s
  | .selftestAbandon t e => Sys2Proof.Machine.execSelftestAbandon t e s
  | .standinPrepare t ix => Sys2Proof.Machine.execStandinPrepare t ix s
  | .standinHandover t ix => Sys2Proof.Machine.execStandinHandover t ix s
  | .standinFifoDrained t ix ues => Sys2Proof.Machine.execStandinFifoDrained t ix ues s
  | .standinWrite t ix v ag => Sys2Proof.Machine.execStandinWrite t ix v ag s
  | .get t port p => Sys2Proof.Machine.execGet t port p s
  | .put t port p => Sys2Proof.Machine.execPut t port p s
  | .atomic t port p => Sys2Proof.Machine.execAtomic t port p s
  | .red t port p => Sys2Proof.Machine.execRed t port p s
  | .getRsp t port p => Sys2Proof.Machine.execGetRsp t port p s
  | .ack t port p => Sys2Proof.Machine.execAck t port p s
  | .atomicRsp t port p => Sys2Proof.Machine.execAtomicRsp t port p s
  | .fabricTick t port p => Sys2Proof.Machine.execFabricTick t port p s
  | .idle t link p => Sys2Proof.Machine.execIdle t link p s
  | .hello t port id peer => Sys2Proof.Machine.execHello t port id peer s
  | .nak t link p => Sys2Proof.Machine.execNak t link p s
  | .laneRemove t link lane good bad lost => Sys2Proof.Machine.execLaneRemove t link lane good bad lost s
  | .linkRetrainDone t link => Sys2Proof.Machine.execLinkRetrainDone t link s
  | .retrain t port ag => Sys2Proof.Machine.execRetrain t port ag s
  | .ktfEnable t en ag => Sys2Proof.Machine.execKtfEnable t en ag s
  | .dataS t p => Sys2Proof.Machine.execDataS t p s
  | .dataE t p => Sys2Proof.Machine.execDataE t p s
  | .wrAck t p => Sys2Proof.Machine.execWrAck t p s
  | .snpInv t p => Sys2Proof.Machine.execSnpInv t p s
  | .snpShared t p => Sys2Proof.Machine.execSnpShared t p s
  | .inbRd t p => Sys2Proof.Machine.execInbRd t p s
  | .inbWr t p => Sys2Proof.Machine.execInbWr t p s
  | .inbAtomic t p => Sys2Proof.Machine.execInbAtomic t p s
  | .atticTimeout t da => Sys2Proof.Machine.execAtticTimeout t da s
  | .sensorSample t readings => Sys2Proof.Machine.execSensorSample t readings s
  | .thermalCapStep t die => Sys2Proof.Machine.execThermalCapStep t die s
  | .droop t rail mv => Sys2Proof.Machine.execDroop t rail mv s
  | .droopRecover t rail => Sys2Proof.Machine.execDroopRecover t rail s
  | .undervolt t rail mv => Sys2Proof.Machine.execUndervolt t rail mv s
  | .overcap t watts => Sys2Proof.Machine.execOvercap t watts s
  | .procMonitorSample t ix n => Sys2Proof.Machine.execProcMonitorSample t ix n s
  | .unitOutOfService t u cause area da => Sys2Proof.Machine.execUnitOutOfService t u cause area da s
  | .stReqEngine t e ag => Sys2Proof.Machine.execStReqEngine t e ag s
  | .stReqSensors t ag => Sys2Proof.Machine.execStReqSensors t ag s
  | .stReqCalPantry t ch ag => Sys2Proof.Machine.execStReqCalPantry t ch ag s
  | .stReqCalCellar t ch ag => Sys2Proof.Machine.execStReqCalCellar t ch ag s
  | .fullRate t on ag => Sys2Proof.Machine.execFullRate t on ag s
  | .fullrateExpired t => Sys2Proof.Machine.execFullrateExpired t s
  | .lockstepMismatch t pc => Sys2Proof.Machine.execLockstepMismatch t pc s
  | .stewardFailover t => Sys2Proof.Machine.execStewardFailover t s
  | .fltInject t code ag => Sys2Proof.Machine.execFltInject t code ag s
  | .fltRingHeadWrite t v ag => Sys2Proof.Machine.execFltRingHeadWrite t v ag s
  | .alertStatusClear t v ag => Sys2Proof.Machine.execAlertStatusClear t v ag s
  | .telemetryRecord t => Sys2Proof.Machine.execTelemetryRecord t s
  | .norLogProgram t fail => Sys2Proof.Machine.execNorLogProgram t fail s
  | .norOpDone t fail => Sys2Proof.Machine.execNorOpDone t fail s
  | .internalResetRelease t => Sys2Proof.Machine.execInternalResetRelease t s
  | .norDiscovery t ok => Sys2Proof.Machine.execNorDiscovery t ok s
  | .slotVerify t => Sys2Proof.Machine.execSlotVerify t s
  | .tierTrain t tier chs lanes => Sys2Proof.Machine.execTierTrain t tier chs lanes s
  | .bootEngineTest t bad => Sys2Proof.Machine.execBootEngineTest t bad s
  | .recordApply t => Sys2Proof.Machine.execRecordApply t s
  | .svnCommit t fail ag => Sys2Proof.Machine.execSvnCommit t fail ag s
  | .revoke t k fail ag => Sys2Proof.Machine.execRevoke t k fail ag s
  | .otpKeyProgram t k fail ag => Sys2Proof.Machine.execOtpKeyProgram t k fail ag s
  | .attestGo t fail ag => Sys2Proof.Machine.execAttestGo t fail ag s
  | .treeBegin t burnFail logFail => Sys2Proof.Machine.execTreeBegin t burnFail logFail s
  | .norRead t len ag => Sys2Proof.Machine.execNorRead t len ag s
  | .norProgram t len ag => Sys2Proof.Machine.execNorProgram t len ag s
  | .norErase t ag => Sys2Proof.Machine.execNorErase t ag s
  | .inputRise t cold => Sys2Proof.Machine.execInputRise t cold s
  | .railGroupUp t => Sys2Proof.Machine.execRailGroupUp t s
  | .railFail t rail => Sys2Proof.Machine.execRailFail t rail s
  | .inputUv t => Sys2Proof.Machine.execInputUv t s
  | .inputOv t => Sys2Proof.Machine.execInputOv t s
  | .orderlyShutdown t => Sys2Proof.Machine.execOrderlyShutdown t s
  | .resetAssert t => Sys2Proof.Machine.execResetAssert t s
  | .refclkLost t => Sys2Proof.Machine.execRefclkLost t s
  | .powerCapEval t mv ma10 dw uj rails => Sys2Proof.Machine.execPowerCapEval t mv ma10 dw uj rails s
  | .ppsEdge t err => Sys2Proof.Machine.execPpsEdge t err s
  | .ppsMissing t => Sys2Proof.Machine.execPpsMissing t s
  | .setdasa t static dyn => Sys2Proof.Machine.execSetdasa t static dyn s
  | .sidebandRead t target da busy => Sys2Proof.Machine.execSidebandRead t target da busy s
  | .sidebandWrite t target da v busy => Sys2Proof.Machine.execSidebandWrite t target da v busy s
  | .registerWrite t da width v ag => Sys2Proof.Machine.execRegisterWrite t da width v ag s
  | .unmappedRegisterAccess t da width v ag => Sys2Proof.Machine.execUnmappedRegisterAccess t da width v ag s
  | .bankRefresh t tier unit cycles => Sys2Proof.Machine.execBankRefresh t tier unit cycles s
  | .inputCapacitanceCharged t => Sys2Proof.Machine.execInputCapacitanceCharged t s
  | .inputLow t => Sys2Proof.Machine.execInputLow t s
  | .inputHigh t => Sys2Proof.Machine.execInputHigh t s
  | .announceReceiptTimeout t => Sys2Proof.Machine.execAnnounceReceiptTimeout t s
  | .packetCrcFail t link => Sys2Proof.Machine.execPacketCrcFail t link s
  | .attestTokenRefill t => Sys2Proof.Machine.execAttestTokenRefill t s
  | .norLogTokenRefill t => Sys2Proof.Machine.execNorLogTokenRefill t s

end Sys2Proof.Machine
end

