-- ==== Sys2Proof/Safety.lean ====
section
/-! DEFINITION. What counts as a safe state: every table of the state is in the canonical form of Tab.lean, so that
equal contents are equal data. -/

namespace Sys2Proof.Machine

/-- Memory is in its canonical form: addresses strictly rising, and no entry equal to what an unlisted address reads
as. -/
abbrev Memory.wf (m : List Host.Cell) : Prop := tabWf memDefault m = true

/-- The register file is in its canonical form: no register is listed that holds its reset value. -/
abbrev Registers.wf (m : List (Nat × Word)) : Prop := tabWf regReset m = true

/-- Shelf tags, Keeper data, instruction banks, engines, queues and contexts are in canonical form. -/
structure Tables.wf (tags : List (Nat × Nat)) (kdata imem : List (Nat × Byte)) (engines : List (Nat × EngineSt))
    (queues : List (Nat × QueueSt)) (ctxs : List (Nat × Ctx)) : Prop where
  tags : tabWf (fun _ => 0) tags = true
  kdata : tabWf (fun _ => 0) kdata = true
  imem : tabWf (fun _ => 0) imem = true
  engines : tabWf (fun _ => {}) engines = true
  queues : tabWf (fun _ => {}) queues = true
  ctxs : tabWf (fun _ => {}) ctxs = true

/-- The invariant of the model: memory, the register file and the other tables are canonical. -/
def State.Inv (s : State) : Prop :=
  Memory.wf s.mem ∧ Registers.wf s.regs ∧ Tables.wf s.tags s.kdata s.imem s.engines s.queues s.ctxs

/-- The block runs at cycle t, and stands in state u when the command of that cycle takes effect: what the cycles up to t
bring about by themselves has been charged. -/
abbrev State.RunsAt (s : State) (t : Nat) (u : State) : Prop := s.advance t = u ∧ u.stopped = false

/-- The block runs at cycle t, and stands in state u when an action of a rank at a place has its turn in the order of the cycle (R50,
R515; assumption log 13). -/
abbrev State.TurnAt (s : State) (t place rank : Nat) (u : State) : Prop :=
  (s.advance t).stopped = false ∧ (s.advance t).inOrder place rank = u

/-- The block runs at cycle t, and stands in state u when an agent's write of register a has its turn (R515). -/
abbrev State.WritesAt (s : State) (t : Nat) (ag : Agent) (a : Nat) (u : State) : Prop := s.TurnAt t a ag.writeRank u

end Sys2Proof.Machine
end

