-- ==== Sys2Proof/Certificates/Slice0/Obligations.lean ====
section
/-! DEFINITION. The statements for the provers, from the rules of spec/. Each docstring names the rules, and the assumption log where a
clause rests on a choice of the model. -/

open Sys2Proof Sys2Proof.Machine

/-- Entry f at the head of queue q of engine e is one of the macro-ops `isIt`, may issue from the slot `site`, and its encoding
is none that the queue rejects at issue (R103, R154, R159, R160). -/
abbrev Sys2Proof.Machine.State.IssuesNext (u : State) (e q : Nat) (isIt : Desc → Bool) (site : Site) (f : Entry) : Prop :=
  u.issuable e q isIt = some (site, f) ∧ descCommonBad f.desc = false ∧ descClassBad e f.desc = false ∧
    ¬(Desc.chain f.desc = true ∧ (u.queue e q).lastDa = true)

/-- The state in which entry f opens: it has left the fetch store as macro-op number ISSUE, and its context holds the engine when it uses
the arrays or the row unit. -/
def Sys2Proof.Machine.State.issuing (u : State) (e q : Nat) (site : Site) (f : Entry) : State :=
  let s := { u.dequeue e q with free := u.free + 1 }
  if needsEngine (Desc.op f.desc) then s.takeEngine e site.k else s

/-- The state in which the body of entry f runs: a pending reseed has taken effect (R124). -/
def Sys2Proof.Machine.State.issued (u : State) (e q : Nat) (site : Site) (f : Entry) : State := (u.issuing e q site f).reseeds e

/-- The open macro-op of entry f. -/
def Sys2Proof.Machine.State.opened (u : State) (e q : Nat) (site : Site) (f : Entry) : OpenOp :=
  f.opened (u.issuing e q site f) site (u.queue e q).issue

/-- The macro-op o of entry f, whose body left state x, is open in its queue; work that begins on the arrays ramps them up (R136). -/
def Sys2Proof.Machine.State.opensAs (u : State) (e q : Nat) (f : Entry) (da : Bool) (x : State) (o : OpenOp) : State :=
  let s := (x.blur e o).ownWrites u.attic.writes.length e q (u.queue e q).issue
  let s := if EngUnit.arrays.neededBy f.desc && o.fault.isNone && !o.finished || decide (Desc.op f.desc = Op.pulse) then s.workBegins e
    else s
  (s.setQueue e q { s.queue e q with ops := (s.queue e q).ops ++ [o], lastDa := da }).settle e q (u.queue e q).state

/-- The macro-op of entry f ends at issue with a fault: nothing is read or written (R180). -/
def Sys2Proof.Machine.State.faultsAs (u : State) (e q : Nat) (site : Site) (f : Entry) (da : Bool) (flt : OpFault) : State :=
  (u.issuing e q site f).failAtIssue e q (u.opened e q site f) da flt

/-- The macro-op of entry f, whose body left state x, posts its record at once. -/
def Sys2Proof.Machine.State.endsAs (u : State) (e q : Nat) (site : Site) (f : Entry) (da : Bool) (x : State) (st : EndStatus) :
    State :=
  (x.setQueue e q { x.queue e q with ops := (x.queue e q).ops ++ [u.opened e q site f], lastDa := da }).endOp e q
    (u.opened e q site f) st

/-- Every check of a launch passes: no remote address and no other engine's Shelf, every source block carries the generation expected of
it, and sources and destination can be read and written (R162, R192). -/
abbrev Sys2Proof.Machine.State.LaunchPasses (s : State) (site : Site) (l : Launch) : Prop :=
  let reads := l.srcs.flatMap (·.ranges)
  (∀ r ∈ reads ++ l.dst, regionOf r.1 ≠ .remote) ∧ strayShelf site.e reads = none ∧ s.sweep site.e [] false l.srcs = none ∧
    s.readsFault site.part reads = none ∧ (s.setTags site.e 15 l.blocks).writesFault site.part l.dst = none

/-- The state and the macro-op right after a launch: the destination blocks are WRITING, those that already carry DST_GEN are noted,
and the bytes are charged (R80, R163, R165). -/
def Sys2Proof.Machine.State.launched (s : State) (site : Site) (o : OpenOp) (l : Launch) : State × OpenOp :=
  (s.setTags site.e 15 l.blocks).chargeOp
    { o with dst := l.dst, stepsTotal := l.steps, claimed := l.blocks, claims := l.blocks,
             sameGen := l.blocks.filter fun b => decide (s.tag site.e b = Desc.dstGen o.desc) }
    (l.srcs.flatMap (·.ranges) ++ l.dst)

/-- The same for a macro-op whose work is made of units (R158). -/
def Sys2Proof.Machine.State.launchedUnits (s : State) (site : Site) (o : OpenOp) (l : Launch) (units : List WorkUnit) : State × OpenOp :=
  ((s.launched site o l).1, { (s.launched site o l).2 with units := units, finished := units.isEmpty })

/-- Operand i of a macro-op at a site is tensor t: its table entry names one (R155). -/
abbrev Sys2Proof.Machine.State.OperandIs (s : State) (site : Site) (i : Nat) (t : Tensor) : Prop :=
  i ≠ 0xFF ∧ s.tensor site.e site.q i = .ok t

/-- Operand i of a macro-op at a site is absent (0xFF), or tensor t. -/
def Sys2Proof.Machine.State.OperandMay (s : State) (site : Site) (i : Nat) : Option Tensor → Prop
  | none => i = 0xFF
  | some t => s.OperandIs site i t

/-- The requester, the DA and the atomic of an atomic command, with its time (R66, R67). -/
def Sys2Proof.Machine.atomicOf : Instr → Option (Nat × Requester × Nat × AtomReq)
  | .atomicFadd t who ty da x => some (t, who, da, { op := .fadd, ty := ty, opnd := x })
  | .atomicMin t who ty da x => some (t, who, da, { op := .min, ty := ty, opnd := x })
  | .atomicMax t who ty da x => some (t, who, da, { op := .max, ty := ty, opnd := x })
  | .atomicAnd t who ty da x => some (t, who, da, { op := .and, ty := ty, opnd := x })
  | .atomicOr t who ty da x => some (t, who, da, { op := .or, ty := ty, opnd := x })
  | .atomicXor t who ty da x => some (t, who, da, { op := .xor, ty := ty, opnd := x })
  | .atomicSwap t who ty da x => some (t, who, da, { op := .swap, ty := ty, opnd := x })
  | .atomicCas t who ty da c x => some (t, who, da, { op := .cas, ty := ty, opnd := x, cmp := c })
  | .atomicCnt2 t who da p r => some (t, who, da, { op := .cnt2, ty := .b32, dPin := p, dRef := r })
  | _ => none
/-- The requester, the DA, the operation, the mask and the data of a reduction command, with its time (R68). -/
def Sys2Proof.Machine.reductionOf : Instr → Option (Nat × Requester × Nat × RedOp × Nat × List Byte)
  | .redAddFp32 t who da m d => some (t, who, da, .addFp32, m, d)
  | .redAddBf16 t who da m d => some (t, who, da, .addBf16, m, d)
  | .redAddInt32 t who da m d => some (t, who, da, .addInt32, m, d)
  | .redMaxFp32 t who da m d => some (t, who, da, .maxFp32, m, d)
  | .redMinFp32 t who da m d => some (t, who, da, .minFp32, m, d)
  | _ => none
/-- Every byte of b outside [a, a + n) is as in s. -/
abbrev Sys2Proof.Machine.State.SameOutside (b s : State) (a n : Nat) : Prop :=
  ∀ x, ¬ (a ≤ x ∧ x < a + n) → b.byteAt x = s.byteAt x
/-- Registers, queues, contexts, engines, tags, Keeper data, the tick and the fault block of b are as in s. -/
abbrev Sys2Proof.Machine.State.SameBlocks (b s : State) : Prop :=
  b.regs = s.regs ∧ b.queues = s.queues ∧ b.ctxs = s.ctxs ∧ b.engines = s.engines ∧ b.tags = s.tags ∧ b.kdata = s.kdata ∧
  b.tick = s.tick ∧ b.flt = s.flt

/-- Everything of b but registers, memory, the fault block, links and outputs is as in s. -/
def Sys2Proof.Machine.State.SameUnits (b s : State) : Prop :=
  b.pending = s.pending ∧ b.now = s.now ∧ b.free = s.free ∧ b.tags = s.tags ∧ b.kdata = s.kdata ∧ b.imem = s.imem ∧
  b.pantry = s.pantry ∧ b.cellar = s.cellar ∧ b.tick = s.tick ∧ b.engines = s.engines ∧ b.queues = s.queues ∧
  b.ctxs = s.ctxs ∧ b.ing = s.ing ∧ b.ptp = s.ptp ∧ b.parts = s.parts ∧ b.bundles = s.bundles ∧ b.jobs = s.jobs ∧
  b.health = s.health ∧ b.sec = s.sec ∧ b.power = s.power

/-- Link n is UP and takes packet p in sequence, and stands afterwards as v: the ACK and credits are taken in, the flits are counted,
a NAK is answered by a replay, and what may go is sent (R396, R409). -/
def Sys2Proof.Machine.State.Takes (u : State) (n : Nat) (p : Packet) (v : State) : Prop :=
  u.linkState n = 2 ∧ p.seq % 4096 = ((u.link n).rx + 1) % 4096 ∧
    let x := (({ u.link n with rx := p.seq % 4096 }).acked p.ack).credited p
    let w := u.setLink n x
    let w := if n = dulis then w else w.bump (Reg.ktfPortRx n) 63 0 p.flits
    v = (if p.nak then w.replay n else w).drainLink n (x.queue.length + 1)

/-- The requests of the fabric, with their TYPE less 1. -/
def fabricRequest (k : Fin 4) (t : Nat) (n : Fin 8) (p : Packet) : Instr :=
  match k with
  | 0 => .get t n p
  | 1 => .put t n p
  | 2 => .atomic t n p
  | 3 => .red t n p

/-- The responses of the fabric, with their TYPE less 8. -/
def fabricResponse (k : Fin 3) (t : Nat) (n : Fin 8) (p : Packet) : Instr :=
  match k with
  | 0 => .getRsp t n p
  | 1 => .ack t n p
  | 2 => .atomicRsp t n p

/-- The companion's inbound requests, with their TYPE less 0x30. -/
def inboundRequest (k : Fin 3) (t : Nat) (p : Packet) : Instr :=
  match k with
  | 0 => .inbRd t p
  | 1 => .inbWr t p
  | 2 => .inbAtomic t p

/-- The commands that write a request to HLT_ST_REQ, with their kind and target (R444). -/
def stRequests (t : Nat) (e : Fin 96) (p : Fin 192) (c : Fin 256) (ag : Agent) : List (Instr × Nat × Nat) :=
  [(.stReqEngine t e ag, 0, e.val), (.stReqSensors t ag, 1, 0), (.stReqCalPantry t p ag, 2, p.val), (.stReqCalCellar t c ag, 3, c.val)]

/-- The commands that start an operation of the NOR port for firmware, with their code and length (R467). -/
def norCommands (t : Nat) (len : BitVec 24) (ag : Agent) : List (Instr × Nat × Nat) :=
  [(.norRead t len ag, 0, len.toNat), (.norProgram t len ag, 1, len.toNat), (.norErase t ag, 2, 0)]

/-- A sideband answer whose value bytes the manual leaves open: they are a free value. -/
def Sys2Proof.Machine.State.answersOpen (s : State) (status : Nat) : State :=
  { s with free := s.free + 1, outbox := .sideband status (BitVec.ofNat 64 (Config.freeNat s.free)) :: s.outbox }

/-- Open macro-op k of queue q is o, of the queue's resident context, and a step boundary of it is due: it makes progress, no remote error of
its context is pending, and no request of a remote batch is still to be made (R109, R158, R379, R380). -/
abbrev Sys2Proof.Machine.State.AtBoundary (u : State) (e q k : Nat) (site : Site) (o : OpenOp) : Prop :=
  u.siteOf e q o = some site ∧ (u.ctx e site.k).remoteErr = none ∧ u.openOp e q k = some o ∧ o.stop = none ∧ o.stepDue = true ∧
    u.progresses site o = true ∧ u.midBatch site o = false

/-- The state and macro-op that do the work of the step which a boundary of o ends: a pending injection has struck, the macro-op has its place
at the home slices of its destination, and the errors of its arithmetic are drawn anew (R2, R70, R134). -/
def Sys2Proof.Machine.State.stepOf (u : State) (site : Site) (o : OpenOp) : State × OpenOp :=
  let p := u.injected site.e site.q { o with steps := o.steps + 1 }
  let s := p.1.atDest site.e p.2
  ({ s with free := s.free + 1 }, p.2)

/-- What a boundary of o comes to once the step's work has left p: its Attic writes are its own, its issue cycles are counted, and aborts,
faults and pre-emptions are sampled (R108, R109, R181). -/
def Sys2Proof.Machine.State.boundaryEnds (u : State) (site : Site) (o : OpenOp) (p : State × OpenOp) : State :=
  let s := (p.1.blur site.e p.2).ownWrites (u.stepOf site o).1.attic.writes.length site.e site.q o.issue
  ((s.countIssue site.e p.2).putOp site.e site.q p.2).sample site p.2

/-- A boundary of o at which its next unit w is due, the units `rest` are not, and nothing stops w (R158, R163 to R165). -/
abbrev Sys2Proof.Machine.State.UnitDue (u : State) (e q k : Nat) (site : Site) (o : OpenOp) (w : WorkUnit) (rest : List WorkUnit) : Prop :=
  u.AtBoundary e q k site o ∧ o.tiled = false ∧ o.units = w :: rest ∧ w.due ≤ o.steps + 1 ∧ (∀ x ∈ rest, o.steps + 1 < x.due) ∧
    (u.stepOf site o).2.fault = none ∧ (u.stepOf site o).1.unitFault e (u.stepOf site o).2 w = none

/-- What that boundary comes to once unit w has left p: blocks that no later unit writes carry DST_GEN. -/
def Sys2Proof.Machine.State.unitEnds (u : State) (site : Site) (o : OpenOp) (w : WorkUnit) (rest : List WorkUnit) (p : State × OpenOp) :
    State :=
  u.boundaryEnds site o (p.1.unitDone site.e p.2 w rest)

/-- Request w, at its tier in state x, may be made (R59, R88, R94, R98, R100) and goes at once: its regulator admits it (R80, R81), its channel
is not paused (R93), nothing earlier is to be performed on its line (R70), and it meets no word known to be uncorrectable (R85). -/
abbrev Sys2Proof.Machine.State.GoesAtOnce (x : State) (tr : Tier) (w : Waiting) : Prop :=
  x.requestFault w = none ∧ (w.uncharged = true ∨ x.heldBack tr w.req.part.val = false) ∧ w.late = false ∧ x.pausedFor tr w = false ∧
    w.behind (x.tier tr).waiting = false ∧ x.firstLost tr w.req.da w.bytes = none ∧ x.deadMet tr w.act w.req.da w.bytes = none

/-- An atomic or reduction of a requester of the block, as a request (R80, R367). -/
def Sys2Proof.Machine.State.homeWait (u : State) (who : Requester) (da : Nat) (act : MemAct) : Waiting :=
  { req := ⟨0, who, Fin.ofNat 8 ((u.partOf who).getD 0), da, act.size⟩, act := act, noPart := (u.partOf who).isNone }

/-- A step runs the command at the front of the queue, on the state with the queue's rest. With no command waiting the block idles,
which is the model's choice (assumption log 25). -/
def Obligations.FrontCommandRuns : Prop :=
  (∀ (c : Instr) (rest : List Instr) (s : State), step { s with pending := c :: rest } = exec c { s with pending := rest }) ∧
  ∀ s : State, s.pending = [] → step s = .next s

/-- No command of any state ends in a fault or a refusal: what goes wrong in the block is a record, an answer or an event. -/
def Obligations.EveryCommandAnswersAState : Prop := ∀ (c : Instr) (s : State), ∃ r, exec c s = .next r

/-- The invariant holds right after reset. -/
def Obligations.StateIsCanonicalAtReset : Prop := State.reset.Inv

/-- Every step keeps the invariant, whatever command stands in front of the queue. -/
def Obligations.StepsKeepTheStateCanonical : Prop :=
  ∀ s r : State, s.Inv → step s = .next r → r.Inv

/-- A register that is set reads back the value's 64 bits; the others read as before. -/
def Obligations.RegisterReadsBack : Prop :=
  ∀ (s : State) (a v : Nat), Registers.wf s.regs →
    (s.wr a v).rd a = v % 2 ^ 64 ∧ (∀ b, b ≠ a → (s.wr a v).rd b = s.rd b) ∧ Registers.wf (s.wr a v).regs

/-- Bytes that are stored outside Attic read back; every other byte, and everything that is no memory, stays. -/
def Obligations.MemoryReadsBack : Prop :=
  ∀ (s : State) (a : Nat) (bs : List Byte), Memory.wf s.mem → (a < atticBase ∨ shelfBase ≤ a) →
    (∀ i, i < bs.length → (s.store a bs).byteAt (a + i) = bs.getD i 0) ∧
    (∀ b, ¬ (a ≤ b ∧ b < a + bs.length) → (s.store a bs).byteAt b = s.byteAt b) ∧
    Memory.wf (s.store a bs).mem ∧ (s.store a bs).regs = s.regs ∧ (s.store a bs).queues = s.queues ∧
    (s.store a bs).ctxs = s.ctxs ∧ (s.store a bs).tags = s.tags ∧ (s.store a bs).outbox = s.outbox

/-- Queues, engines, contexts, tags and Keeper data read back what was set; the others of their kind stay. -/
def Obligations.TablesReadBack : Prop :=
  ∀ (s : State), s.Inv → ∀ (e e' : Nat),
    (∀ (q q' : Fin 4) (x : QueueSt), (s.setQueue e q x).queue e' q' = if e' = e ∧ q' = q then x else s.queue e' q') ∧
    (∀ x : EngineSt, (s.setEng e x).eng e' = if e' = e then x else s.eng e') ∧
    (∀ (k k' : Fin 16) (x : Ctx), (s.setCtx e k x).ctx e' k' = if e' = e ∧ k' = k then x else s.ctx e' k') ∧
    (∀ (b b' : Fin 1536) (v : Nat), (s.setTag e b v).tag e' b' = if e' = e ∧ b' = b then v else s.tag e' b') ∧
    (∀ (i j : Fin 131072) (v : Byte),
      (s.kstore e i [v]).kload e' j 1 = if e' = e ∧ j = i then [v] else s.kload e' j 1)

/-- INJ_RESIDUE and INJ_PARITY (R134), SR_SEED_WRITE (R124) and HOLD_CTRL_WRITE (R138): each sets its register, and arms what
the register arms; an injection strikes arrays that hold at once. Nothing else changes. -/
def Obligations.EngineDatapathRegisterWrites : Prop :=
  ∀ (s u : State) (t : Nat) (e : Fin 96) (ag : Agent),
    (∀ array : Fin 4, s.WritesAt t ag (Reg.engDpCtrl e) u → u.mayWrite ag (Reg.engDpCtrl e) = true →
      exec (.injResidue t e array ag) s =
        .next (((u.wr (Reg.engDpCtrl e) array).setEng e { u.eng e with injResidue := true }).injectHeld e) ∧
      exec (.injParity t e array ag) s =
        .next (((u.wr (Reg.engDpCtrl e) array).setEng e { u.eng e with injParity := true }).injectHeld e)) ∧
    (∀ v : BitVec 64, s.WritesAt t ag (Reg.engSrSeed e) u → u.mayWrite ag (Reg.engSrSeed e) = true →
      exec (.srSeedWrite t e v ag) s =
        .next ((u.wr (Reg.engSrSeed e) (v.toNat &&& 0xFFFFFFFF)).setEng e { u.eng e with reseed := true })) ∧
    (∀ v : BitVec 64, s.WritesAt t ag (Reg.engHoldCtrl e) u → u.mayWrite ag (Reg.engHoldCtrl e) = true → bits v.toNat 1 0 ≠ 3 →
      64 ≤ bits v.toNat 28 16 → bits v.toNat 28 16 ≤ 4096 →
      exec (.holdCtrlWrite t e v ag) s = .next (u.wr (Reg.engHoldCtrl e) (v.toNat &&& 0x1FFF0003))) ∧
    (∀ x : State, x.holding e = false ∨ x.unitHeld e .arrays = true → x.injectHeld e = x)

/-- PWL_USER_WRITE (R128, R142), IMEM_SWAP (R179) and IMEM_WIN_WRITE (R178), with what drops them. -/
def Obligations.UserTableAndBankWrites : Prop :=
  ∀ (s u : State) (t : Nat) (e : Fin 96) (ag : Agent),
    (∀ (i : Fin 32) (v : BitVec 64), s.WritesAt t ag (Reg.engPwlUser e i) u → u.mayWrite ag (Reg.engPwlUser e i) = true →
      (u.userBusy e = false →
        exec (.pwlUserWrite t e (some i) v ag) s = .next (u.wr (Reg.engPwlUser e i) (v.toNat &&& 0xFFFFFFFFFFFF))) ∧
      (u.userBusy e = true →
        exec (.pwlUserWrite t e (some i) v ag) s = .next (postFault (u.event (Reg.engIntStatus e) 5)
          { code := F.pwlBusy, cls := Class.info, block := Blk.eng, unit := e,
            payload := defaultPayload (Reg.engPwlUser e i) 0 0 e 0 }))) ∧
    (∀ v : BitVec 64, s.WritesAt t ag (Reg.engPwlUserCfg e) u → u.mayWrite ag (Reg.engPwlUserCfg e) = true →
      bits v.toNat 5 0 ≤ 32 → u.userBusy e = false →
      exec (.pwlUserWrite t e none v ag) s = .next (u.wr (Reg.engPwlUserCfg e) (v.toNat &&& 0x3F))) ∧
    (s.WritesAt t ag (Reg.engImemSwap e) u → u.mayWrite ag (Reg.engImemSwap e) = true →
      exec (.imemSwap t e ag) s = .next (u.setEng e { u.eng e with swapPending := true })) ∧
    (∀ (i : Fin 4096) (v : BitVec 64), s.WritesAt t ag (Reg.engImemWin e i) u → u.mayWrite ag (Reg.engImemWin e i) = true →
      (u.fld (Reg.engImemSel e) 0 0 ≠ (u.eng e).activeBank ∧ (u.eng e).swapPending = false →
        exec (.imemWinWrite t e i v ag) s =
          .next (u.imemStore e (u.fld (Reg.engImemSel e) 0 0) (8 * i) (leBytes 8 v.toNat))) ∧
      (u.fld (Reg.engImemSel e) 0 0 = (u.eng e).activeBank ∨ (u.eng e).swapPending = true →
        exec (.imemWinWrite t e i v ag) s = .next (postFault (u.event (Reg.engQIntStatus e) 12)
          { code := F.imemActive, cls := Class.info, block := Blk.eng, unit := e,
            payload := defaultPayload (Reg.engImemWin e i) 0 0 e 0 })))

/-- QUEUE_ENABLE (R185) and QUEUE_DISABLE (R186), and the writes that R186 drops, whatever their value. -/
def Obligations.QueueEnableAndDisable : Prop :=
  ∀ (s u : State) (t : Nat) (e : Fin 96) (q : Fin 4) (ag : Agent) (v : BitVec 64), s.WritesAt t ag (Reg.engQCfg e q) u →
    u.mayWrite ag (Reg.engQCfg e q) = true →
    (let c := putBits v.toNat 0 0 1
     let m := c &&& 0xFF0F1F1F07
     let h := (u.queue e q).head
     ((u.queue e q).state = .disabled → qCfgBad c = false → bit m 0 = true →
       (u.ringsAligned e q m = true → exec (.queueEnable t e q v ag) s =
         .next ((((u.wr (Reg.engQCfg e q) m).setQueue e q { state := .idle, head := h, tail := h, seen := h, next := h }).writeStatusLine
           e q).firstTail e q)) ∧
       (u.ringsAligned e q m = false → exec (.queueEnable t e q v ag) s = .next (u.regAccess (Reg.engQCfg e q)))) ∧
     ((u.queue e q).state ≠ .disabled → bit m 0 = true →
       exec (.queueEnable t e q v ag) s = .next (u.regAccess (Reg.engQCfg e q)))) ∧
    (let c := putBits v.toNat 0 0 0
     let m := c &&& 0xFF0F1F1F07
     let old := u.rd (Reg.engQCfg e q)
     (u.queue e q).state ≠ .disabled →
     (bit old 0 = true ∧ m = putBits old 0 0 0 → qCfgBad c = false →
       exec (.queueDisable t e q v ag) s =
         .next (((u.wr (Reg.engQCfg e q) m).setQueue e q { u.queue e q with stopping := true }).settle e q (u.queue e q).state)) ∧
     (¬ (bit old 0 = true ∧ m = putBits old 0 0 0) →
       exec (.queueDisable t e q v ag) s = .next (u.regAccess (Reg.engQCfg e q))))

/-- RESUME, ABORT and RESET of a queue (R182, R183, R185). -/
def Obligations.QueueControlWrites : Prop :=
  ∀ (s u : State) (t : Nat) (e : Fin 96) (q : Fin 4) (ag : Agent), s.WritesAt t ag (Reg.engQCtrl e q) u →
    u.mayWrite ag (Reg.engQCtrl e q) = true →
    let x := u.queue e q
    let y : QueueSt := { x with ops := x.ops.map fun o => { o with abort := true } }
    let struck := u.setQueue e q { y with abortedAt := x.fetched.head?.map (u.now, ·) }
    (x.state = .halted →
      exec (.resume t e q ag) s =
        .next ((u.setQueue e q { x with state := .idle, cause := .none, haltAfter := none }).settle e q .halted)) ∧
    (x.state ≠ .halted → exec (.resume t e q ag) s = .next u) ∧
    (x.state ≠ .disabled → x.state ≠ .halted → x.ops ≠ [] → exec (.abort t e q ag) s = .next struck) ∧
    (x.state ≠ .disabled → x.state ≠ .halted → x.ops = [] → exec (.abort t e q ag) s = .next (struck.haltQueue e q .aborted)) ∧
    (x.state = .disabled → exec (.abort t e q ag) s = .next u) ∧
    (x.state = .halted → exec (.abort t e q ag) s = .next (u.setQueue e q { y with
      cause := if x.cause = .faulted ∧ x.recordAt = u.now then .aborted else x.cause })) ∧
    (x.state = .idle ∨ x.state = .halted →
      let v := x.fifo.foldl (fun s a => s.returnCredit e a) u
      let v := match v.slotCtx e q with
        | some k => v.setCtx e k { v.ctx e k with job := none, later := [] }
        | none => v
      exec (.reset t e q ag) s = .next ((v.setQueue e q { x.unfetch with stack := [], fifo := [] }).firstTail e q)) ∧
    (x.state ≠ .idle → x.state ≠ .halted → exec (.reset t e q ag) s = .next (u.regAccess (Reg.engQCtrl e q)))

/-- The four writes of TCK_CTRL (R29, R40, R41), and what a write of TCK_CTRL does. -/
def Obligations.TickControlWrites : Prop :=
  (∀ (s u : State) (t : Nat) (ag : Agent), s.WritesAt t ag Reg.tckCtrl u → u.mayWrite ag Reg.tckCtrl = true →
    let r := u.rd Reg.tckCtrl
    (∀ en : Bool, bits (putBits r 0 0 (b2n en)) 2 1 ≠ 3 →
      exec (.tckEnable t en ag) s = .next (u.writeTckCtrl (putBits r 0 0 (b2n en)))) ∧
    (∀ src : BitVec 2, bits (putBits r 2 1 src.toNat) 2 1 ≠ 3 →
      exec (.tckSrcChange t src ag) s = .next (u.writeTckCtrl (putBits r 2 1 src.toNat))) ∧
    (bits (r + 64) 2 1 ≠ 3 → exec (.realign t ag) s = .next (u.writeTckCtrl (r + 64))) ∧
    (bits (r + 32) 2 1 ≠ 3 → exec (.planSwap t ag) s = .next (u.writeTckCtrl (r + 32)))) ∧
  (∀ (s : State) (v : Nat),
    (bit v 0 = true → s.tick.plan = none → s.writeTckCtrl v = s.regAccess Reg.tckCtrl) ∧
    (bit v 0 = false → s.tick.on = false → bit v 5 = false → s.writeTckCtrl v = s.wr Reg.tckCtrl (v % 32)) ∧
    (bit v 0 = false → s.tick.on = false → bit v 5 = true →
      s.writeTckCtrl v = (s.wr Reg.tckCtrl (v % 32)).planSwap) ∧
    (bit v 0 = true → s.tick.plan ≠ none → s.tick.on = false → bit v 5 = false →
      s.writeTckCtrl v = ({ s.wr Reg.tckCtrl (v % 32) with tick := { s.tick with
        on := true, placed := false, gap := false, srcReq := none, realign := false } } : State).placeTimeline (bits v 2 1)) ∧
    (bit v 0 = true → s.tick.plan ≠ none → s.tick.on = true → bit v 5 = false → bit v 6 = false →
      bits v 2 1 ≠ s.fld Reg.tckCtrl 2 1 →
      s.writeTckCtrl v = { s.wr Reg.tckCtrl (v % 32) with tick := { s.tick with srcReq := some (bits v 2 1) } }) ∧
    (bit v 0 = true → s.tick.plan ≠ none → s.tick.on = true → bit v 5 = false → bit v 6 = true →
      bits v 2 1 = s.fld Reg.tckCtrl 2 1 →
      s.writeTckCtrl v = { s.wr Reg.tckCtrl (v % 32) with tick := { s.tick with realign := true } }))

/-- TCK_PHASE_SKIP (R38): the named phases of the current tick that have not yet started end SKIPPED, without a fault; a bit for
a phase that has already started has no effect. -/
def Obligations.PhaseSkipEndsUnstartedPhases : Prop :=
  ∀ (s u : State) (t : Nat) (v : BitVec 64) (ag : Agent), s.WritesAt t ag Reg.tckPhaseSkip u →
    u.mayWrite ag Reg.tckPhaseSkip = true →
    ∃ r, exec (.tckPhaseSkip t v ag) s = .next r ∧
      (∀ p, p < 16 → p < u.tick.runs.length → bit v.toNat p = true → u.tick.placed = true →
        (u.run p).state = .idle ∨ (u.run p).state = .waiting → (r.run p).state = .skipped) ∧
      (∀ p, bit v.toNat p = false ∨ u.tick.placed = false ∨
        ((u.run p).state ≠ .idle ∧ (u.run p).state ≠ .waiting) → r.run p = u.run p) ∧
      r.flt = u.flt ∧ r.mem = u.mem ∧ r.queues = u.queues ∧ r.ctxs = u.ctxs ∧ r.engines = u.engines ∧ r.outbox = u.outbox

/-- PHASE_START (R34), BUDGET_END (R33, R37) and DEADLINE (R36, R46, R47) when they are due; u is the state once what the tick plan has due
before them in the cycle has been done (R50). That an ALIGN phase which never started has cause NOT_STARTED is assumption log 21. -/
def Obligations.PhaseEventsTakeEffect : Prop :=
  ∀ (s u : State) (t : Nat) (p : Fin 16), (s.advance t).stopped = false →
    let turn := fun (rank : Nat) => ((s.advance t).inOrder tickPlace rank).fallDue
    let r := u.run p
    let d := u.phaseDef p
    (u = ((turn 4).deadlinesDue 16).budgetsDue → u.startDue p u.now = true →
      (u.mayStart p = true → exec (.phaseStart t p) s = .next ((u.setRun p { r with
        state := if r.origin + us d.budgetEnd < u.now then .overrun else .running
        started := some (u.usSince r.origin) }).ratesChange)) ∧
      (u.mayStart p = false → exec (.phaseStart t p) s = .next (u.setRun p { r with state := .waiting }))) ∧
    (u = (turn 3).deadlinesDue 16 → u.budgetDue p u.now = true →
      (d.cls = 1 → r.state = .running → exec (.budgetEnd t p) s = .next (u.setRun p { r with state := .overrun })) ∧
      (d.cls = 2 →
        let x := (((u.event Reg.tckIntStatus 3).setRun p
          { r with state := .truncated, ended := some d.budgetEnd }).writePhTime p).clipBuckets
        (r.state = .running → exec (.budgetEnd t p) s = .next (x.abortPhase p)) ∧
        (r.state = .idle ∨ r.state = .waiting → exec (.budgetEnd t p) s = .next x))) ∧
    (u = (turn 2).deadlinesDue p → u.deadlineDue p u.now = true →
      let v := (u.bump (Reg.tckPhCount p) 63 32 1).event Reg.tckIntStatus 2
      let missed := fun (x : State) (tick cause : Nat) (started : Option Nat) (done : Nat) (ops : List (Nat × Nat × OpenOp)) =>
        (Host.Outcome.next (postFault x (u.deadlineRec p tick cause started done ops)) : Host.Outcome State Fault Refusal)
      let ops := u.phaseOps p
      let cause := if d.name = 1 then 2 else 0
      (r.state = .idle ∨ r.state = .waiting →
        exec (.deadline t p) s = missed (v.finishPhase p .faulted) r.tick 1 none 0 []) ∧
      (r.state = .late → r.missed = false →
        exec (.deadline t p) s = missed (v.setRun p { r with missed := true }) (u.rd Reg.tckCount) 1 none 0 []) ∧
      (r.state = .running ∨ r.state = .overrun → r.ending = false →
        (bit d.flags 0 = true → exec (.deadline t p) s = missed (v.setRun p { r with state := .late }) r.tick cause r.started r.committed ops) ∧
        (bit d.flags 0 = false → ops = [] →
          exec (.deadline t p) s = missed (v.finishPhase p .faulted) r.tick cause r.started r.committed []) ∧
        (bit d.flags 0 = false → ops ≠ [] →
          exec (.deadline t p) s = missed ((v.setRun p { r with ending := true, owed := ops.map fun x => (x.1, x.2.1, x.2.2.issue) }).abortPhase p)
            r.tick cause r.started r.committed ops)))

/-- WAIT (R167) and FENCE (R169) at issue, and WAIT_TIMEOUT. -/
def Obligations.WaitAndFenceIssue : Prop :=
  ∀ (s u : State) (t : Nat) (e : Fin 96) (q : Fin 4) (site : Site) (f : Entry), s.RunsAt t u →
    let a := Desc.arg f.desc 0
    let x := u.issued e q site f
    let o := u.opened e q site f
    (u.IssuesNext e q (fun d => decide (d.op = Op.wait)) site f →
      (regionOf a = .pantry ∨ regionOf a = .cellar ∨ regionOf a = .attic → x.readsFault site.part [(a, 8)] = none →
        exec (.wait t e q) s = .next (u.opensAs e q f false x { o with finished := x.waitMet f.desc })) ∧
      (regionOf a ≠ .pantry → regionOf a ≠ .cellar → regionOf a ≠ .attic →
        exec (.wait t e q) s = .next (u.faultsAs e q site f false ⟨F.addrRange, a, 0⟩))) ∧
    (u.IssuesNext e q (fun d => decide (d.op = Op.fence)) site f → exec (.fence t e q) s = .next (u.opensAs e q f false x o)) ∧
    (∀ w ∈ (u.queue e q).ops, (u.queue e q).ops = [w] → Desc.op w.desc = Op.wait → w.finished = false →
      Desc.opx w.desc 39 20 ≠ 0 → w.issuedAt + us (Desc.opx w.desc 39 20) ≤ u.now →
      exec (.waitTimeout t e q) s = .next (u.endOp e q w (.faulted ⟨F.waitTimeout, Desc.arg w.desc 0, 0⟩)))

/-- SIGNAL (R168, R69). -/
def Obligations.SignalsIssue : Prop :=
  ∀ (s u : State) (t : Nat) (e : Fin 96) (q : Fin 4) (site : Site) (f : Entry), s.RunsAt t u →
    let a := Desc.arg f.desc 0
    let x := u.issued e q site f
    let o := u.opened e q site f
    let add := fun (d : Desc) => decide (d.op = Op.signal) && decide (d.opx 17 16 = 0)
    let set := fun (d : Desc) => decide (d.op = Op.signal) && decide (d.opx 17 16 = 1)
    let trig := fun (d : Desc) => decide (d.op = Op.signal) && decide (d.opx 17 16 = 2)
    let opens := fun (x : State) (o : OpenOp) => (Host.Outcome.next (u.opensAs e q f false x o) : Host.Outcome State Fault Refusal)
    let local' := isRemote a = false ∧ x.atomFault a 8 (decide (a % 8 = 0)) = none ∧ x.opReadFault site.part a 8 = none
    let done := fun (y : State × OpenOp) => opens (y.1.doAtomic a (signalAtomic f.desc)).1 { y.2 with finished := true }
    (local' → regionOf a ≠ .attic →
      let y := (x.inOrder (slicePlace a) (engineRank site.e a)).chargeOp o [(a, 8)]
      (u.IssuesNext e q add site f → exec (.signalAdd t e q) s = done y) ∧
      (u.IssuesNext e q set site f → exec (.signalSet t e q) s = done y)) ∧
    (local' → regionOf a = .attic → x.ownsSectors a 8 = true →
      (u.IssuesNext e q add site f → exec (.signalAdd t e q) s = done (x, o)) ∧
      (u.IssuesNext e q set site f → exec (.signalSet t e q) s = done (x, o))) ∧
    (isRemote a = true → remoteBad a = false →
      let asks := fun (op : Nat) => opens (x.askRemote e site.k o.issue a 0 8 .signal
        { type := 0x03, op := op, len := 8, payload := leBytes 8 (Desc.arg f.desc 1) }) { o with asked := 1 }
      (u.IssuesNext e q add site f → exec (.signalAdd t e q) s = asks 0x20) ∧
      (u.IssuesNext e q set site f → exec (.signalSet t e q) s = asks 0x36)) ∧
    (u.IssuesNext e q trig site f → bits a 6 0 < 96 → exec (.signalTrigger t e q) s =
      opens (x.trigger (bits a 6 0) (bits a 8 7) (bits (Desc.arg f.desc 1) 31 0)) { o with finished := true }) ∧
    (u.IssuesNext e q trig site f → 96 ≤ bits a 6 0 → exec (.signalTrigger t e q) s =
      .next (u.faultsAs e q site f false ⟨F.descInvalid, 0, 0⟩))

/-- CALL LIST and KEEPER (R170, R176) and BRANCH-ON-SCALAR (R171). -/
def Obligations.CallsAndBranchesIssue : Prop :=
  ∀ (s u : State) (t : Nat) (e : Fin 96) (q : Fin 4) (site : Site) (f : Entry), s.RunsAt t u →
    let d := f.desc
    let x := u.issued e q site f
    let o := u.opened e q site f
    let y := x.queue e q
    let call : Level := { da := Desc.arg d 0, count := bits (Desc.arg d 1) 15 0 }
    let target : Level := { da := Desc.arg d 1, count := bits (Desc.arg d 2) 15 0 }
    let is := fun (a : Nat) (d : Desc) => decide (d.op = Op.branch) && decide (d.opx 22 21 = a)
    let ends := fun (z : QueueSt) => (Host.Outcome.next (u.endsAs e q site f false (x.setQueue e q z) .completed) :
      Host.Outcome State Fault Refusal)
    let faults := fun (flt : OpFault) => (Host.Outcome.next (u.faultsAs e q site f false flt) : Host.Outcome State Fault Refusal)
    let rhs := if bit (Desc.w d 2) 23 then x.scalar e q (Desc.opx d 43 34) else Desc.arg d 0
    let holds := branchHolds (Desc.opx d 17 16) (Desc.opx d 20 18) (x.scalar e q (Desc.opx d 33 24)) rhs
    let good := Desc.opx d 17 16 ≠ 3 ∧ Desc.opx d 20 18 ≤ 4
    let aligned := fun (l : Level) => l.da % 64 = 0 ∧ l.count ≠ 0
    let nexts := (Host.Outcome.next (u.endsAs e q site f false x .completed) : Host.Outcome State Fault Refusal)
    (u.IssuesNext e q (fun d => decide (d.op = Op.call) && decide (d.opx 17 16 = 0)) site f →
      (aligned call → y.stack.length < 4 → exec (.callList t e q) s = ends (y.push call)) ∧
      (aligned call → 4 ≤ y.stack.length → exec (.callList t e q) s = faults ⟨F.listDepth, 0, 0⟩) ∧
      (¬aligned call → exec (.callList t e q) s = faults ⟨F.descInvalid, 0, 0⟩)) ∧
    (u.IssuesNext e q (fun d => decide (d.op = Op.call) && decide (d.opx 17 16 = 1)) site f → (u.eng e).routine = none →
      Desc.opx d 19 18 = 0 → Desc.opx d 34 20 % 2 = 0 → Desc.opx d 63 48 ≠ 0 →
      let regs := (List.range 32).map fun i =>
        if 10 ≤ i ∧ i < 15 then BitVec.ofNat 64 (Desc.arg d (i - 10)) else BitVec.ofNat 64 (Config.freeNat (x.free + i))
      let v : State := { x with free := x.free + 32 }
      exec (.callKeeper t e q) s = .next (u.opensAs e q f false (v.setEng e { x.eng e with
        routine := some { q := q, maxCycles := Desc.opx d 63 48, startedAt := x.now, pc := BitVec.ofNat 64 (Desc.opx d 34 20),
                          regs := regs, seen := x.now } }) o)) ∧
    (u.IssuesNext e q (is 0) site f → good → aligned target →
      (holds = false → exec (.branchCall t e q) s = nexts) ∧
      (holds = true → y.stack.length < 4 → exec (.branchCall t e q) s = ends (y.push target)) ∧
      (holds = true → 4 ≤ y.stack.length → exec (.branchCall t e q) s = faults ⟨F.listDepth, 0, 0⟩)) ∧
    (u.IssuesNext e q (is 1) site f → good → aligned target →
      (holds = false → exec (.branchJump t e q) s = nexts) ∧
      (holds = true → exec (.branchJump t e q) s = ends (y.jump target))) ∧
    (u.IssuesNext e q (is 2) site f → good →
      (holds = false → exec (.branchExit t e q) s = nexts) ∧
      (holds = true → exec (.branchExit t e q) s = ends y.exit))

/-- The launch of a macro-op that reads and writes tensors (R162, R163, R192, R80, R130). -/
def Obligations.LaunchChecksClaimsAndCharges : Prop :=
  ∀ (s : State) (site : Site) (o : OpenOp) (l : Launch) (work : State → OpenOp → State × OpenOp),
    let reads := l.srcs.flatMap (·.ranges)
    let claimed := s.setTags site.e 15 l.blocks
    let own := { o with dst := l.dst, stepsTotal := l.steps, claimed := l.blocks, claims := l.blocks,
                        sameGen := l.blocks.filter fun b => decide (s.tag site.e b = Desc.dstGen o.desc) }
    (∀ r, (reads ++ l.dst).find? (fun r => decide (regionOf r.1 = .remote)) = some r →
      s.launch site o l work = .fault ⟨F.addrRange, r.1, 0⟩) ∧
    ((∀ r ∈ reads ++ l.dst, regionOf r.1 ≠ .remote) →
      (∀ a, strayShelf site.e reads = some a → s.launch site o l work = .fault ⟨F.addrRange, a, 0⟩) ∧
      (strayShelf site.e reads = none →
        (∀ b x pre post, l.srcs = pre ++ x :: post →
          (∀ y ∈ pre, ∀ c ∈ y.blocks, s.tag site.e c = y.gen) → (∃ p r, x.blocks = p ++ b :: r ∧ ∀ c ∈ p, s.tag site.e c = x.gen) →
          s.tag site.e b ≠ x.gen →
          s.launch site o l work = .fault (hazardFault site.e b x.gen (s.tag site.e b) false false)) ∧
        ((∀ x ∈ l.srcs, ∀ b ∈ x.blocks, s.tag site.e b = x.gen) →
          (∀ f, s.readsFault site.part reads = some f →
            s.launch site o l work = if regionOf f.addr = .attic then .fault f else .opens claimed (own.failed f)) ∧
          (∀ f, s.readsFault site.part reads = none → claimed.writesFault site.part l.dst = some f →
            s.launch site o l work = .opens claimed (own.failed f)) ∧
          (s.readsFault site.part reads = none → claimed.writesFault site.part l.dst = none →
            let y := claimed.chargeOp own (reads ++ l.dst)
            s.launch site o l work = .opens (work y.1 y.2).1 (work y.1 y.2).2))))

/-- SMAX and SMAX.BWD (R226, R227, R231) and NORM (R226 to R228): what each opens, and what the boundary at which a row is due writes. -/
def Obligations.SoftmaxAndNormResults : Prop :=
  (∀ (s u : State) (t : Nat) (e : Fin 96) (q : Fin 4) (site : Site) (f : Entry) (x y z : Tensor), s.RunsAt t u →
    let d := f.desc
    let i := u.issued e q site f
    let o := i.latch site (u.opened e q site f)
    let g := rowRegion d
    let row := fun (j : Nat) => (⟨g.r + j, g.c, 1, g.n⟩ : Reg2)
    let vec : Reg2 := ⟨0, 0, 1, g.n⟩
    let opens := fun (da : Bool) (l : Launch) (units : List WorkUnit) =>
      let b := i.launchedUnits site o l units
      (Host.Outcome.next (u.opensAs e q f da b.1 b.2) : Host.Outcome State Fault Refusal)
    i.OperandIs site (Desc.tdA d) x → i.OperandIs site (Desc.tdD d) y → x.holds g = true → y.destOk (Desc.twrite d) g = .ok () →
    (u.IssuesNext e q (fun d => decide (d.op = Op.smax)) site f → rowReserved d 16 = false → Desc.arg d 3 = 0 → Desc.arg d 4 = 0 →
      Desc.tdB d = 0xFF → Desc.tdC d = 0xFF →
      let src := fun (r : Reg2) => [x.source site.e r (Desc.genA d)]
      let l := Launch.into { srcs := src g, steps := g.m * 3 } y site.e (destRegion (Desc.twrite d) g)
      i.LaunchPasses site l →
      exec (.smax t e q) s = opens (u.rowDa e q d) l (rowUnits d g y (fun j => src (row j)) fun _ => {})) ∧
    (u.IssuesNext e q (fun d => decide (d.op = Op.smaxBwd)) site f → rowReserved d 16 = false → Desc.arg d 3 = 0 → Desc.arg d 4 = 0 →
      Desc.tdB d = 0xFF → i.OperandIs site (Desc.tdC d) z → z.holds g = true →
      let src := fun (r : Reg2) => [x.source site.e r (Desc.genA d), z.source site.e r (Desc.genC d)]
      let l := Launch.into { srcs := src g, steps := g.m * 2 } y site.e (destRegion (Desc.twrite d) g)
      i.LaunchPasses site l →
      exec (.smaxBwd t e q) s = opens (u.rowDa e q d) l (rowUnits d g y (fun j => src (row j)) fun _ => {})) ∧
    (∀ beta : Option Tensor, i.OperandMay site (Desc.tdC d) beta → beta.all (fun w => w.holds vec) = true →
      u.IssuesNext e q (fun d => decide (d.op = Op.norm)) site f → rowReserved d 18 = false → Desc.arg d 4 = 0 →
      i.OperandIs site (Desc.tdB d) z → z.holds vec = true →
      let vecs := z.source site.e vec (Desc.genB d) :: (match beta with
        | some w => [w.source site.e vec (Desc.genC d)]
        | none => [])
      let src := fun (r : Reg2) => x.source site.e r (Desc.genA d) :: vecs
      let stats := fun (l : Launch) (r n : Nat) =>
        if Desc.arg d 3 = 0 then l else l.intoBytes site.e (bit (Desc.w d 2) 17) (Desc.arg d 3 + 8 * r) (8 * n)
      let l := stats (Launch.into { srcs := src g, steps := g.m * (if bit (Desc.w d 2) 16 then 2 else 3) } y site.e
        (destRegion (Desc.twrite d) g)) 0 g.m
      i.LaunchPasses site l →
      exec (.norm t e q) s = opens (u.normDa e q d) l (rowUnits d g y (fun j => src (row j)) fun j => stats {} j 1))) ∧
  (∀ (s u : State) (t : Nat) (e : Fin 96) (q : Fin 4) (k : Fin 2) (site : Site) (o : OpenOp) (w : WorkUnit) (rest : List WorkUnit)
    (x y : Tensor), s.RunsAt t u → u.UnitDue e q k site o w rest →
    let d := o.desc
    let p := u.stepOf site o
    let g := rowRegion d
    let j := o.tile
    let xs := p.1.row32 e x g j
    let ends := fun (r : State × OpenOp) => (Host.Outcome.next (u.unitEnds site o w rest r) : Host.Outcome State Fault Refusal)
    o.entry 0 = some x → o.entry 3 = some y →
    (Desc.op d = Op.smax → exec (.stepBoundary t e q k) s =
      ends (p.1.putRow e p.2 y g j ((smaxRow p.1.free (rowScalar d) xs).map f32))) ∧
    (∀ z, Desc.op d = Op.smaxBwd → o.entry 2 = some z → exec (.stepBoundary t e q k) s =
      ends (p.1.putRow e p.2 y g j ((smaxBwdRow p.1.free (rowScalar d) xs (p.1.row32 e z g j)).map f32))) ∧
    (∀ z, Desc.op d = Op.norm → o.entry 1 = some z →
      let st := rowStats p.1.free (bit (Desc.w d 2) 16) (rowScalar d) xs
      let betas := match o.entry 2 with
        | some b => p.1.vector32 e b g.n
        | none => List.replicate g.n 0
      let r := p.1.putRow e p.2 y g j ((xs.zip ((p.1.vector32 e z g.n).zip betas)).map fun c => f32 (normElem p.1.free st c.1 c.2.1 c.2.2))
      exec (.stepBoundary t e q k) s = ends (if Desc.arg d 3 = 0 then r.1 else r.1.putStats e d j st, r.2)))

/-- COPY within the module, and PREFETCH (R158, R173): what each opens, and what the boundary of a request batch moves. -/
def Obligations.CopyAndPrefetchResults : Prop :=
  (∀ (s u : State) (t : Nat) (e : Fin 96) (q : Fin 4) (site : Site) (f : Entry), s.RunsAt t u →
    let d := f.desc
    let i := u.issued e q site f
    let o := u.opened e q site f
    let n := bits (Desc.arg d 2) 39 0
    let units := batchUnits site.e d
    (u.IssuesNext e q (fun d => decide (d.op = Op.copy)) site f → copyBad d = false → copyFrom d = false → copyTo d = false →
      i.LaunchPasses site (copyLaunch site.e d) →
      let b := i.launchedUnits site { o with kdst := if bit (Desc.w d 2) 18 then [(site.q * 32768 + Desc.arg d 1, n)] else o.kdst }
        (copyLaunch site.e d) units
      exec (.copy t e q) s = .next (u.opensAs e q f (!(bit (Desc.w d 2) 17) && !(bit (Desc.w d 2) 18)) b.1 b.2)) ∧
    (u.IssuesNext e q (fun d => decide (d.op = Op.prefetch)) site f → n % 64 = 0 → bit (Desc.w d 2) 16 = false →
      bit (Desc.w d 2) 17 = false → bit (Desc.w d 2) 18 = false → regionOf (Desc.arg d 0) = .cellar →
      regionOf (Desc.arg d 1) = .pantry →
      let l : Launch := Launch.intoBytes { srcs := [byteSource site.e false (Desc.arg d 0) n 0], steps := copyBatches d } site.e false
        (Desc.arg d 1) n
      i.LaunchPasses site l →
      let b := i.launchedUnits site o l units
      exec (.prefetch t e q) s = .next (u.opensAs e q f true b.1 b.2))) ∧
  (∀ (s u : State) (t : Nat) (e : Fin 96) (q : Fin 4) (k : Fin 2) (site : Site) (o : OpenOp) (w : WorkUnit) (rest : List WorkUnit),
    s.RunsAt t u → u.UnitDue e q k site o w rest → Desc.op o.desc = Op.copy ∨ Desc.op o.desc = Op.prefetch →
    let d := o.desc
    let p := u.stepOf site o
    let n := bits (Desc.arg d 2) 39 0
    let a := batchStart (Desc.arg d 0) n o.tile
    let len := batchStart (Desc.arg d 0) n (o.tile + 1) - a
    let src := Desc.arg d 0 + a
    let dst := Desc.arg d 1 + a
    let bs := p.1.load (if bit (Desc.w d 2) 16 then shelfDa e src else src) len
    exec (.stepBoundary t e q k) s = .next (u.unitEnds site o w rest
      (if bit (Desc.w d 2) 18 then p.1.kstore e (q * 32768 + dst) bs
       else p.1.windowStore (if bit (Desc.w d 2) 17 then shelfDa e dst else dst) bs, p.2)))

/-- Issue of the macro-ops of the arrays (R157 to R160, R191, R218, R103, R235): under the checks of each, with its descriptor's tensors and
regions, it opens with its claims made and its first work begun. -/
def Obligations.ArrayMacroOpsOpen : Prop :=
  ∀ (s u : State) (t : Nat) (e : Fin 96) (q : Fin 4) (site : Site) (f : Entry), s.RunsAt t u →
    let d := f.desc
    let i := u.issued e q site f
    let o := u.opened e q site f
    let ol := i.latch site o
    let op := fun (n : Nat) (d : Desc) => decide (d.op = n)
    let next := fun (x : State) => (Host.Outcome.next x : Host.Outcome State Fault Refusal)
    let opens := fun (da : Bool) (p : State × OpenOp) => next (u.opensAs e q f da p.1 p.2)
    let refuses := fun (c : Instr) => exec c s = next (u.faultsAs e q site f (u.daDest e q d) ⟨F.engineClass, 0, 0⟩)
    (∀ (a b y : Tensor), i.OperandIs site (Desc.tdA d) a → i.OperandIs site (Desc.tdB d) b → i.OperandIs site (Desc.tdD d) y →
      let x := mmaArgs d a b y
      let region : Reg2 := ⟨x.dr, x.dc, x.grid.m, x.grid.n⟩
      mmaReserved d false = false → a.fmt.isInt = b.fmt.isInt → x.grid.kstep ≤ 32 * x.grid.lanes → x.unblocked = none →
      a.holds x.regionA = true → b.holds x.regionB = true → (a.scaled = true → x.ak % 32 = 0) → (b.scaled = true → x.bk % 32 = 0) →
      y.destOk (Desc.twrite d) region = .ok () → i.mmaCheck site d false = .ok x) ∧
    (∀ x : MmaArgs,
      let b := i.launched site ol (x.launch site.e d)
      let begun := opens (u.daDest e q d) ((b.1.clearStation site.e).mmaEmpty site.e (b.2.tilesOf x.grid) x)
      (u.IssuesNext e q (op Op.mma) site f → i.mmaCheck site d false = .ok x → i.LaunchPasses site (x.launch site.e d) →
        exec (.mma t e q) s = begun) ∧
      (u.IssuesNext e q (op Op.mmaBwdX) site f → e.val % 3 ≠ 0 → i.mmaCheck site d true = .ok x →
        i.LaunchPasses site (x.launch site.e d) → exec (.mmaBwdX t e q) s = begun) ∧
      (u.IssuesNext e q (op Op.mmaBwdW) site f → e.val % 3 ≠ 0 → i.mmaCheck site d true = .ok x →
        i.LaunchPasses site (x.launch site.e d) → exec (.mmaBwdW t e q) s = begun)) ∧
    (e.val % 3 = 0 →
      (u.IssuesNext e q (op Op.mmaBwdX) site f → refuses (.mmaBwdX t e q)) ∧
      (u.IssuesNext e q (op Op.mmaBwdW) site f → refuses (.mmaBwdW t e q)) ∧
      (u.IssuesNext e q (op Op.attnBwd) site f →
        exec (.attnBwd t e q) s = next (u.faultsAs e q site f true ⟨F.engineClass, 0, 0⟩))) ∧
    (∀ x : ConvArgs, i.convCheck site d = .ok x → i.LaunchPasses site (x.launch site.e d) →
      (u.IssuesNext e q (fun d => decide (d.op = Op.conv) && !(bit (d.w 2) 21)) site f →
        let b := i.launched site ol (x.launch site.e d)
        exec (.conv t e q) s = opens (u.daDest e q d) (b.1.clearStation site.e, b.2.tilesOf x.grid)) ∧
      (u.IssuesNext e q (fun d => decide (d.op = Op.conv) && bit (d.w 2) 21) site f →
        exec (.maxpool t e q) s = opens (u.daDest e q d) (i.launchedUnits site ol (x.launch site.e d) (x.poolUnits site.e d)))) ∧
    (∀ (a : FusedArgs) (scratch : Tensor), u.IssuesNext e q (op Op.convFused) site f →
      let at0 := recordDa site.e d
      let bs := i.load at0 320
      let l := a.launch site.e d scratch
      let b := i.launched site (i.latchFused site o bs a) l
      i.readsFault site.part [(at0, 320)] = none → fusedCheck (fun _ => i.operand site) d bs = .ok (a, scratch) → i.LaunchPasses site l →
      exec (.convFused t e q) s = opens (u.daDest e q d)
        (b.1.clearStation site.e, { b.2 with units := a.units site.e d scratch, finished := a.tiles.isEmpty })) ∧
    (∀ (bwd : Bool) (x y : AttnArgs) (table header : List Byte) (pool : Pool) (seqs : List SeqEnt),
      let o1 := { ol with entries := ol.entries ++ [table, header] }
      let l := y.launch site.e d seqs bwd
      let b := i.launched site o1 l
      let begun := fun (da : Bool) => opens da ((b.1.clearStation site.e).attnBegin site.e b.2 y pool seqs)
      i.attnCheck site d bwd = .ok x → (i.work site o false x.heads).1 = .ok (table, header) → o1.attn = some (y, pool, seqs) →
      y.fits d seqs = .ok () → i.LaunchPasses site l →
      (bwd = false → u.IssuesNext e q (op Op.attn) site f → exec (.attn t e q) s = begun (u.attnDa e q d)) ∧
      (bwd = true → e.val % 3 ≠ 0 → u.IssuesNext e q (op Op.attnBwd) site f → exec (.attnBwd t e q) s = begun true)) ∧
    (∀ (a b : Tensor) (w h : Option Tensor) (mode : Fin 3),
      let c : Instr := match mode with
        | 0 => .scanFull t e q
        | 1 => .scanLocal t e q
        | 2 => .scanReverse t e q
      let j := if (scanArgs d).product then i.clearStation site.e else i
      let l := scanLaunch site.e d a b w h
      u.IssuesNext e q (fun d => decide (d.op = Op.scan) && decide (d.opx 17 16 = mode.val)) site f →
      i.scanCheck site d = .ok (a, b, w, h) → j.LaunchPasses site l →
      exec c s = opens (u.scanDa e q d) (j.launchedUnits site ol l (scanUnits site.e d (scanArgs d) a b w (scanBlocks d h)))) ∧
    (∀ x : PulseArgs, u.IssuesNext e q (op Op.pulse) site f →
      let v := i.pulseIndex site d
      pulseArgs d (fun j => i.operand site ((pulseTds d).getD j 0xFF)) v = .ok x → i.pulseSweep site.e d x false = none →
      i.readsFault site.part (x.touched site.e d) = none →
      (i.resident site d x = true → exec (.pulse t e q) s = opens false (i.pulseStep site.e x o)) ∧
      (i.resident site d x = false → exec (.pulse t e q) s =
        opens false (i.loadStation site d x, { i.latchTds site o (pulseTds d) with stepsTotal := 1, asked := v })))

/-- Issue of the other macro-ops that stay open (R158, R159, R172, R173): under the checks of each it opens with its claims made and its work
laid out; SCATTER and GATHER read their length tables first (R286, R296). -/
def Obligations.MemoryMacroOpsOpen : Prop :=
  ∀ (s u : State) (t : Nat) (e : Fin 96) (q : Fin 4) (site : Site) (f : Entry), s.RunsAt t u →
    let d := f.desc
    let i := u.issued e q site f
    let o := u.opened e q site f
    let ol := i.latch site o
    let op := fun (n : Nat) (d : Desc) => decide (d.op = n)
    let opens := fun (da : Bool) (p : State × OpenOp) =>
      (Host.Outcome.next (u.opensAs e q f da p.1 p.2) : Host.Outcome State Fault Refusal)
    let g := rowRegion d
    let row := fun (j : Nat) => (⟨g.r + j, g.c, 1, g.n⟩ : Reg2)
    (∀ (x gam up y : Tensor), u.IssuesNext e q (op Op.normBwd) site f → i.normBwdCheck site d = .ok (x, gam, up, y) →
      let vec := gam.source site.e ⟨0, 0, 1, g.n⟩ (Desc.genB d)
      let src := fun (r : Reg2) (j n : Nat) =>
        [x.source site.e r (Desc.genA d), vec, up.source site.e r (Desc.genC d), statsSource site.e d j n]
      let l := Launch.into { srcs := src g 0 g.m, steps := g.m * rowPasses d } y site.e (destRegion (Desc.twrite d) g)
      i.LaunchPasses site l →
      exec (.normBwd t e q) s = opens (u.normBwdDa e q d) (i.launchedUnits site ol l (rowUnits d g y (fun j => src (row j) j 1) fun _ => {}))) ∧
    (∀ (x y : Tensor) (p z : Option Tensor), u.IssuesNext e q (op Op.gate) site f → i.gateCheck site d = .ok (x, p, z, y) →
      let src := fun (w : Option Tensor) (r : Reg2) (gen : Nat) => match w with
        | some w => [w.source site.e r gen]
        | none => []
      let srcs := fun (rx rp rz : Reg2) => [x.source site.e rx (Desc.genA d)] ++ src p rp (Desc.genB d) ++ src z rz (Desc.genC d)
      let sx := Desc.opx d 20 19
      let sp := Desc.opx d 22 21
      let l := Launch.into { srcs := srcs (shapedRegion sx g) (shapedRegion sp g) g, steps := g.m * rowPasses d } y site.e
        (destRegion (Desc.twrite d) g)
      i.LaunchPasses site l →
      exec (.gate t e q) s = opens (u.rowDa e q d) (i.launchedUnits site ol l
        (rowUnits d g y (fun j => srcs (shapedRow sx g j) (shapedRow sp g j) (shapedRow 0 g j)) fun _ => {}))) ∧
    (∀ x : Tensor, u.IssuesNext e q (op Op.reduce) site f → Desc.opx d 18 16 ≤ 5 → i.OperandIs site (Desc.tdA d) x → x.holds g = true →
      let n := (reduceDest d).m
      let units := fun (blocks : Nat → List Nat) => (List.range g.m).map fun j =>
        ({ due := j + 1, srcs := [x.source site.e (row j) (Desc.genA d)],
           blocks := if reducePerRow d then blocks j else if j + 1 = g.m then blocks 0 else [] } : WorkUnit)
      let l : Launch := { srcs := [x.source site.e g (Desc.genA d)], steps := g.m }
      (reduceSlots d = true → n ≤ 64 → Desc.opx d 30 21 + n ≤ 1024 → i.LaunchPasses site l →
        exec (.reduce t e q) s = opens false (i.launchedUnits site { ol with kdst := [(reduceSlot site.q d 0, 8 * n)] } l (units fun _ => []))) ∧
      (∀ y : Tensor, reduceSlots d = false → i.OperandIs site (Desc.tdD d) y → y.destOk (Desc.twrite d) (reduceDest d) = .ok () →
        let l := l.into y site.e (destRegion (Desc.twrite d) (reduceDest d))
        i.LaunchPasses site l →
        exec (.reduce t e q) s = opens (u.rowDa e q d)
          (i.launchedUnits site ol l (units fun j => y.blocks (destRow (Desc.twrite d) (reduceDest d) j))))) ∧
    (∀ x y : Tensor, u.IssuesNext e q (op Op.sort) site f → i.sortCheck site d = .ok (x, y) →
      let src := x.source site.e (sortRegion d) (Desc.genA d)
      let l := Launch.into { srcs := [src] } y site.e (destRegion (Desc.twrite d) (listRegion (sortMost d)))
      i.LaunchPasses site l →
      exec (.sort t e q) s = opens false (i.launchedUnits site ol l [{ srcs := [src], blocks := l.blocks }])) ∧
    (∀ a b c y : Tensor, u.IssuesNext e q (op Op.boxdec) site f → i.boxdecCheck site d = .ok (a, b, c, y) →
      let idx := (i.listEntries site.e a).map (·.index)
      let l := boxdecLaunch site.e d a b c y idx
      i.LaunchPasses site l →
      exec (.boxdec t e q) s = opens false (i.launchedUnits site { ol with asked := idx.length } l (boxdecUnits site.e d a b c y idx))) ∧
    (∀ a y : Tensor, u.IssuesNext e q (op Op.nms) site f → i.nmsCheck site d = .ok (a, y) →
      let n := i.listCount site.e a
      let src := a.source site.e (listRegion n) (Desc.genA d)
      let l := Launch.into { srcs := [src] } y site.e (destRegion (Desc.twrite d) (listRegion (min (nmsLimit d) n)))
      i.LaunchPasses site l →
      exec (.nms t e q) s =
        opens false (i.launchedUnits site (i.latch site { o with asked := n }) l [{ srcs := [src], blocks := l.blocks }])) ∧
    (∀ (x : GatherArgs) (l : Launch) (lookup : Bool),
      let c : Instr := if lookup then .gatherLookup t e q else .gatherRows t e q
      let b := i.launched site ol l
      let y := b.1.gatherRun site b.2 x
      u.IssuesNext e q (fun d => decide (d.op = Op.gather) && (if lookup then decide (d.opx 17 16 = 1) else decide (d.opx 17 16 ≠ 1))) site f →
      gatherArgs d = .ok x → i.gatherLaunch site ol x = .ok l → i.LaunchPasses site l → (∀ flt, y.2.fault = some flt → flt.waits = false) →
      exec c s = opens (u.gatherDa e q d) y) ∧
    (∀ (x : ScatArgs) (tensors : Option (Tensor × Tensor)) (seqs : List SeqEnt) (k : Fin 5),
      let c : Instr := match k with
        | 0 => .scatterAppend t e q
        | 1 => .scatterRelease t e q
        | 2 => .scatterRetain t e q
        | 3 => .scatterInsert t e q
        | 4 => .scatterEvict t e q
      let live := seqs.filter fun b => decide (b.qLen ≠ 0)
      let l : Launch := { srcs := x.sources site.e d tensors live }
      let b := i.launched site o l
      let y := b.1.scatterRun site b.2 x tensors seqs
      u.IssuesNext e q (fun d => decide (d.op = Op.scatter) && (if k.val = 0 then !(inRange (d.opx 18 16) 1 4) else decide (d.opx 18 16 = k.val)))
        site f →
      scatArgs d = .ok x → i.scatterTensors site d x = .ok tensors →
      (if x.action = 4 then seqs = [] else (i.work site o false (readSeqs x.table x.batch)).1 = .ok seqs ∧ x.total seqs ≤ 4096) →
      x.fits tensors live = .ok () → i.LaunchPasses site l → (∀ flt, y.2.fault = some flt → flt.waits = false) →
      exec c s = opens true y) ∧
    (u.IssuesNext e q (op Op.copy) site f → copyBad d = false → copyFrom d = true ∨ copyTo d = true →
      (copyFrom d = true → remoteBad (Desc.arg d 0) = false) → remoteBad (Desc.arg d 1) = false →
      i.LaunchPasses site (copyLaunch site.e d) →
      let b := i.launched site o (copyLaunch site.e d)
      b.1.sameGenFault site.e b.2 b.2.claims = none →
      exec (.copy t e q) s = opens (copyDa d) (b.1.copyRequests site b.2 64))

/-- STEP_BOUNDARY (R109, R131, R158, R182), TILE_WRITEBACK (R112, R163 to R165) and MACRO_OP_COMMIT (R50, R160, R181). -/
def Obligations.OpenMacroOpsGoOn : Prop :=
  (∀ (s u : State) (t : Nat) (e : Fin 96) (q : Fin 4) (k : Fin 2) (site : Site) (o : OpenOp), s.RunsAt t u →
    let j := u.injected e q { o with steps := o.steps + 1 }
    let p := u.stepOf site o
    let next := fun (x : State) => (Host.Outcome.next x : Host.Outcome State Fault Refusal)
    (u.AtBoundary e q k site o →
      (∀ f, j.2.fault = some f →
        exec (.stepBoundary t e q k) s = next (((j.1.countIssue e j.2).putOp e q j.2).stopOp site j.2 (some f))) ∧
      (j.2.fault = none → (∀ f, (p.1.stepWork site p.2).2.fault = some f → f.waits = false) →
        exec (.stepBoundary t e q k) s = next (u.boundaryEnds site o (p.1.stepWork site p.2)))) ∧
    (∀ (w : WorkUnit) (rest : List WorkUnit), u.UnitDue e q k site o w rest → Desc.op o.desc ≠ Op.attn → Desc.op o.desc ≠ Op.attnBwd →
      (p.1.unitWork site p.2 o.tile).2.fault = none →
      exec (.stepBoundary t e q k) s = next (u.unitEnds site o w rest (p.1.unitWork site p.2 o.tile))) ∧
    (u.siteOf e q o = some site → (u.ctx e site.k).remoteErr = none → u.openOp e q k = some o →
      (o.stop = none → o.stepDue = true → u.progresses site o = true → u.midBatch site o = true →
        exec (.stepBoundary t e q k) s = next (u.goOn site o)) ∧
      (o.stepDue = false ∨ u.progresses site o = false → exec (.stepBoundary t e q k) s = next u) ∧
      (o.tiled = false ∨ o.fault.isSome = true ∨ o.wbuf = none → exec (.tileWriteback t e q k) s = next u) ∧
      (o.tiled = true → o.fault = none →
        let a := u.atDest e o
        let x : State := { a with free := a.free + 1 }
        let written := fun (r : State × OpenOp) =>
          let y := ((r.1.blur e r.2).ownWrites a.attic.writes.length e q o.issue, r.2)
          let z := if (y.1.ctx e site.k).running then y.1.nextTile e y.2 else y
          exec (.tileWriteback t e q k) s = next (z.1.putOp e q z.2)
        (∀ (v : MmaArgs) (i : Nat) (acc : List W32), Desc.op o.desc ≠ Op.conv → o.mmaArgs = some v → o.wbuf = some (i, acc) →
          let tw := Desc.twrite o.desc
          let mine := v.d.blocks (v.grid.destTile tw v.dr v.dc i)
          let later := v.grid.blocksFrom tw v.d v.dr v.dc (i + 1)
          x.sameGenFault e o mine = none →
          (∀ red, o.redMode = some red →
            written ((x.redTile e v.grid v.int red v.d v.dr v.dc i acc).tileDone e o mine later v.grid.tiles)) ∧
          (o.redMode = none →
            let c := x.tileRun e (Desc.sr o.desc) v.grid i (v.spot o.desc) (fun _ => entryVal v.int) acc
            let y := c.1.putOut e o v.d (destRegion tw ⟨v.dr, v.dc, v.grid.m, v.grid.n⟩).has c.2
            written (y.1.tileDone e y.2 mine later v.grid.tiles))) ∧
        (Desc.op o.desc = Op.conv → o.wbuf.isSome = true → (x.convWriteback e o).2.fault = none → written (x.convWriteback e o))))) ∧
  (∀ (s u : State) (t : Nat) (e : Fin 96) (q : Fin 4) (k : Fin 2) (site : Site) (o : OpenOp), s.TurnAt t tickPlace 0 u →
    u.siteOf e q o = some site → (u.ctx e site.k).remoteErr = none → u.openOp e q k = some o → o.stop = none →
    let op := Desc.op o.desc
    let commits := fun (x : State) => exec (.macroOpCommit t e q k) s = .next x
    (o.abort = true → op = Op.wait ∨ op = Op.fence → commits (u.stopOp site o none)) ∧
    (¬ (o.abort = true ∧ (op = Op.wait ∨ op = Op.fence)) →
      (o.stepDue = true → openSteps op = false → commits u) ∧
      (o.stepDue = false ∨ openSteps op = true → o.workLeft = false → op ≠ Op.pulse → commits ((u.putOp e q o).finishOp site o)))) ∧
  (∀ (x : State) (site : Site) (o : OpenOp),
    (∀ f, o.fault = some f → x.sample site o = x.stopOp site o (some f) ∧ x.finishOp site o = x.stopOp site o (some f)) ∧
    (o.fault = none → o.abort = true → x.sample site o = x.stopOp site o none) ∧
    (o.fault = none → o.abort = false →
      let yields := needsEngine (Desc.op o.desc) = true ∧ x.mustYield site.e site.k = true
      (yields → x.sample site o = x.preempt site.e site.k) ∧ (¬ yields → x.sample site o = x.goOn site o)) ∧
    (o.fault = none → x.workDone site o = false → x.finishOp site o = x) ∧
    (o.fault = none → x.workDone site o = true →
      (o.atEnd = [] → x.finishOp site o = (x.putOp site.e site.q o).commitOp site o) ∧
      (o.atEnd ≠ [] →
        let y := x.owning site.e site.q o.issue fun s => o.atEnd.foldl (fun s z => s.redAdd z.1 z.2) s
        x.finishOp site o = (y.putOp site.e site.q { o with atEnd := [] }).commitOp site { o with atEnd := [] })) ∧
    (x.acknowledged site o = false → x.commitOp site o = x) ∧
    (x.acknowledged site o = true →
      let y := x.admitOp .pantry o
      let z := y.1.admitOp .cellar y.2
      (z.2.heldBytes ≠ [] → x.commitOp site o = z.1.putOp site.e site.q z.2) ∧
      (z.2.heldBytes = [] →
        let r := z.1.settleTags site.e z.2
        let p := r.1.endOp site.e site.q r.2 .completed
        x.commitOp site o = if Desc.op r.2.desc = Op.fence then p.fencePoint site.e else p)))

/-- RESIDUE_CHECK_FAIL (R130, R133, R437), HOLD_EXPIRY, RAMP_STEP (R135 to R138) and DUTY_STEP (R139). -/
def Obligations.DatapathChecksAndRamps : Prop :=
  ∀ (s u : State) (t : Nat) (e : Fin 96) (w : CheckSite) (parity : Bool), s.RunsAt t u →
    let x := u.eng e
    let next := fun (y : State) => (Host.Outcome.next y : Host.Outcome State Fault Refusal)
    let moved := fun (y : EngineSt) => u.setEng e { y with rampAt := u.now, prior := none }
    (∀ (q : Fin 4) (o : OpenOp), u.inSlot e = false → u.struckOp e q w = some o →
      let f : OpFault := ⟨if parity then F.dpParity else F.residue, 0, errInfoOf w false (u.wasInjected e w parity) parity⟩
      exec (.residueCheckFail t e (some q) w parity) s = next ((u.checkFailed e w parity false o.part o.issue q).putOp e q
        (if o.fault.isSome then o else { o with fault := some f }))) ∧
    (u.inSlot e = false → u.holding e = true →
      exec (.residueCheckFail t e none w parity) s = next (u.checkFailed e w parity true 0x80 0 0)) ∧
    (∀ q, u.inSlot e = true → exec (.residueCheckFail t e q w parity) s = next u) ∧
    (∀ r, x.ramp = r → r = .active ∨ r = .rampUp → x.working = false → x.gateClosed = false →
      (u.holdMode e = 0 ∧ x.lastReal < u.now) ∨ (u.holdMode e = 1 ∧ x.lastReal + bits x.hold 28 16 ≤ u.now) →
      exec (.holdExpiry t e) s =
        next ((u.setEng e { x with ramp := .rampDown, rampStep := if r = .active then 3 else x.rampStep, rampAt := u.now,
                                   prior := some (r, x.rampAt) }).bump (Reg.engRampCount e) 63 32 1)) ∧
    (x.working = true ∨ u.holdMode e = 2 → exec (.holdExpiry t e) s = next u) ∧
    (x.gateClosed = false → x.rampAt + 64 ≤ u.now →
      (x.ramp = .rampUp → x.rampStep < 3 → exec (.rampStep t e) s = next (moved { x with rampStep := x.rampStep + 1 })) ∧
      (x.ramp = .rampUp → 3 ≤ x.rampStep → exec (.rampStep t e) s = next (moved { x with ramp := .active })) ∧
      (x.ramp = .rampDown → x.rampStep ≠ 0 → exec (.rampStep t e) s = next (moved { x with rampStep := x.rampStep - 1 })) ∧
      (x.ramp = .rampDown → x.rampStep = 0 → exec (.rampStep t e) s = next (moved { x with ramp := .idle }))) ∧
    (x.gateClosed = false → x.ramp = .idle → u.holdMode e = 2 → exec (.rampStep t e) s =
      next (((moved { x with ramp := .rampUp, rampStep := 0 }).bump (Reg.engRampCount e) 31 0 1).injectHeld e)) ∧
    (∀ i, x.ramp = .rampDown → x.prior = none ∨ x.rampAt ≠ u.now → x.rampStep = i →
      ((u.workBegins e).eng e).ramp = .rampUp ∧ ((u.workBegins e).eng e).rampStep = i ∧ ((u.workBegins e).eng e).rampAt = x.rampAt) ∧
    (x.gateClosed = true ∨ (x.rampAt + 64 > u.now ∧ x.ramp ≠ .idle) → exec (.rampStep t e) s = next u) ∧
    (let cap := min x.capThermal (min x.capDroop x.capPower)
     (x.dutyAt + 64 ≤ u.now → x.duty < cap →
        exec (.dutyStep t e) s = next (u.setEng e { x with duty := x.duty + 1, dutyAt := u.now })) ∧
     (x.dutyAt + 64 ≤ u.now → cap < x.duty →
        exec (.dutyStep t e) s = next (u.setEng e { x with duty := x.duty - 1, dutyAt := u.now })) ∧
     (u.now < x.dutyAt + 64 ∨ x.duty = cap → exec (.dutyStep t e) s = next u))

/-- KEMIT, KEEPER_RETURN, KEEPER_TRAP and KEEPER_TIMEOUT (R174 to R177, R179): the routine has run k instructions, none of them an event, and
stands in state x with registers p; then comes the instruction named. A command that does not name the routine's next event changes
nothing. -/
def Obligations.KeeperRoutineEvents : Prop :=
  ∀ (s u : State) (t : Nat) (e : Fin 96) (r : Routine) (o : OpenOp), s.RunsAt t u → u.routineCall e = some (r, o) →
    let next := fun (y : State) => (Host.Outcome.next y : Host.Outcome State Fault Refusal)
    let fails := fun (x : State) (q : Nat) (f : OpFault) => next ((x.routineOver e).endOp e q o (.faulted f))
    (∀ (x : State) (p : Routine) (k n : Nat), u.now ≤ r.startedAt + r.maxCycles → k < n → u.rvRun e r o k = .goes x p →
      let pc := p.pc.toNat
      let csr := fun (c : KeeperCsr) => x.setEng e { x.eng e with csr := c }
      let at32 := fun (i : RvInst) => pc + 4 ≤ 0x8000 ∧ leNat (x.bankBytes e pc 2) % 4 = 3 ∧ rvDecode32 (leNat (x.bankBytes e pc 4)) = some i
      let traps := fun (y : State) (cause : Nat) =>
        fails (y.wr (Reg.engKprTrap e) (cause % 256 + pc % 65536 * 2 ^ 16 + o.issue * 2 ^ 32)) p.q ⟨F.keeperTrap, 0, 0⟩
      (∀ (rd src : Nat), at32 (.csr .write false rd src 0x7C0) →
        let a := (p.reg src).toNat
        let y := { x with free := x.free + 1 }
        let z := y.setEng e { y.eng e with csr := { (y.eng e).csr with instret := (y.eng e).csr.instret + 1 } }
        (p.emitted.length < 16 → 0x10000000 ≤ a → a + 64 ≤ 0x10008000 → exec (.kemit t e n (p.reg src)) s = next (z.setEng e { z.eng e with
          routine := some { ({ p with emitted := p.emitted ++ [descOf (x.kload e (p.q * 32768 + (a - 0x10000000)) 64)] }.setReg rd
            (BitVec.ofNat 64 (Config.freeNat x.free))) with pc := p.pc + 4, seen := u.now } })) ∧
        (16 ≤ p.emitted.length →
          let w := { x with free := x.free + 2 }.setEng e { x.eng e with
            csr := { (x.eng e).csr with cause := 2, epc := p.pc, tval := BitVec.ofNat 64 (Config.freeNat (x.free + 1)) } }
          exec (.kemit t e n (p.reg src)) s = traps w 2 ∧ exec (.keeperTrap t e n 2 pc) s = traps w 2) ∧
        (∀ b, b ≠ p.reg src → p.emitted.length < 16 → 0x10000000 ≤ a → a + 64 ≤ 0x10008000 → exec (.kemit t e n b) s = next u)) ∧
      (at32 .ecall →
        let y := csr { (x.eng e).csr with cause := 11, epc := p.pc }
        let done := y.routineOver e
        (p.reg 10 ≠ 0 → exec (.keeperReturn t e n (p.reg 10)) s = fails y p.q ⟨F.keeperRet, 0, (p.reg 10).toNat % 2 ^ 32⟩) ∧
        (p.reg 10 = 0 → o.abort = true ∨ p.emitted = [] → exec (.keeperReturn t e n 0) s = next (done.endOp e p.q o .completed)) ∧
        (p.reg 10 = 0 → o.abort = false → p.emitted ≠ [] → (done.queue e p.q).stack.length < 4 →
          exec (.keeperReturn t e n 0) s = next ((done.setQueue e p.q ((done.queue e p.q).push
            { count := p.emitted.length, emitted := p.emitted })).endOp e p.q o .completed)) ∧
        (p.reg 10 = 0 → o.abort = false → p.emitted ≠ [] → 4 ≤ (done.queue e p.q).stack.length →
          exec (.keeperReturn t e n 0) s = fails y p.q ⟨F.listDepth, 0, 0⟩) ∧
        (∀ b, b ≠ p.reg 10 → exec (.keeperReturn t e n b) s = next u) ∧ (∀ c b, exec (.keeperTrap t e n c b) s = next u)) ∧
      (pc + 2 ≤ 0x8000 → leNat (x.bankBytes e pc 2) = 0 →
        exec (.keeperTrap t e n 2 pc) s = traps ({ x with free := x.free + 1 }.setEng e { x.eng e with
          csr := { (x.eng e).csr with cause := 2, epc := p.pc, tval := BitVec.ofNat 64 (Config.freeNat x.free) } }) 2) ∧
      (0x8000 < pc + 2 → exec (.keeperTrap t e n 1 pc) s = traps (csr { (x.eng e).csr with cause := 1, epc := p.pc, tval := p.pc }) 1) ∧
      (∀ (rs src : Nat) (ofs : Int), at32 (.store rs src ofs 1) →
        let a := (p.reg rs + sxReg ofs).toNat
        a < 0x10000000 ∨ 0x10008000 ≤ a →
        exec (.keeperTrap t e n 7 pc) s = traps (csr { (x.eng e).csr with cause := 7, epc := p.pc, tval := BitVec.ofNat 64 a }) 7)) ∧
    (∀ n, r.startedAt + r.maxCycles ≤ u.now → exec (.keeperTimeout t e n) s = fails (u.rvStop e r o n) r.q ⟨F.keeperTimeout, 0, 0⟩)

/-- WATCH_NOTIFY and DESCRIPTOR_FETCH (R144 to R147), TRIGGER_ACCEPT (R151, R152) and LOADER_CHECK (R207 to R209). -/
def Obligations.QueueEvents : Prop :=
  ∀ (s u : State) (t : Nat) (e : Fin 96) (q : Fin 4), s.RunsAt t u →
    let x := u.queue e q
    let w := u.recheckWaits e q
    (∀ da tail, (w.queue e q).state ≠ .disabled →
      let atTail := bit (w.rd (Reg.engQCfg e q)) 1 = false ∧ da / 64 = w.rd (Reg.engQTailDa e q) / 64
      (atTail → exec (.watchNotify t e q ⟨da, tail⟩) s = .next (w.readTail e q tail)) ∧
      (¬ atTail → ∀ n, w.ringSeqAt e q da = some n → exec (.watchNotify t e q ⟨da, tail⟩) s = .next (w.seqHalt e q n n 3 0)) ∧
      (¬ atTail → w.ringSeqAt e q da = none → exec (.watchNotify t e q ⟨da, tail⟩) s = .next w)) ∧
    (∀ da tail, (w.queue e q).state = .disabled → exec (.watchNotify t e q ⟨da, tail⟩) s = .next w) ∧
    (let da := u.rd (Reg.engQTailDa e q)
     let tail := u.loadNat da 4
     let depth := (tail + 2 ^ 32 - x.head) % 2 ^ 32
     let size := 2 ^ u.fld (Reg.engQCfg e q) 12 8
     x.fresh = false → u.structFault da 4 .ok none = none → u.holdsBytes da 4 = true →
     (ahead32 tail x.tail < 0 ∨ size < depth →
       u.readTail e q .ok = (u.setQueue e q { x with seen := tail }).seqHalt e q x.head tail 1 0) ∧
     (0 ≤ ahead32 tail x.tail → depth ≤ size →
       u.readTail e q .ok = (u.setQueue e q { x with seen := tail, tail := tail }).settle e q x.state)) ∧
    (∀ (a b : FetchEnd), x.fetches = true →
      let y := if bit (u.rd (Reg.engQCfg e q)) 1 then u.takeArg e q else u.readTail e q a
      (y.queue e q).fetches = true → (y.queue e q).fetched.length < 4 →
      let z := y.fetchNext e q b 5
      z.issuable e q reservedOp = none → exec (.descriptorFetch t e q a b) s = .next z) ∧
    (∀ (a b : FetchEnd), x.fetches = false → exec (.descriptorFetch t e q a b) s = .next u) ∧
    (∀ arg : BitVec 32, x.state ≠ .disabled → x.stopping = false → bit (u.rd (Reg.engQCfg e q)) 1 = true → x.fifo.length < 64 →
      u.draining e = false → exec (.triggerAccept t e q arg) s =
        .next (((u.setQueue e q { x with fifo := x.fifo ++ [arg.toNat] }).bump (Reg.engTrigCount e) 31 0 1).settle e q x.state)) ∧
    (∀ arg : BitVec 32, x.state = .disabled ∨ bit (u.rd (Reg.engQCfg e q)) 1 = false ∨ 64 ≤ x.fifo.length ∨
        x.stopping = true ∨ u.draining e = true →
      exec (.triggerAccept t e q arg) s =
        .next (postFault (((u.bump (Reg.engTrigCount e) 63 32 1).event (Reg.engQIntStatus e) 14)) {
          code := F.triggerDrop, cls := Class.info, block := Blk.eng, unit := e,
          payload := defaultPayload 0 arg.toNat 0 e q })) ∧
    (∀ da, (u.loaderVerdict da).1 = none → exec (.loaderCheck t da) s = .next (u.installBundle (bundleOf (u.loaderVerdict da).2))) ∧
    (∀ da f, (u.loaderVerdict da).1 = some f → exec (.loaderCheck t da) s = .next (postFault u {
      code := F.loaderCheck, cls := Class.info, block := Blk.ldr,
      part := if f.sub ≤ 2 then 0x80 else (bundleOf (u.loaderVerdict da).2).part,
      payload := f.sub + f.record % 65536 * 2 ^ 8 + f.opnd * 2 ^ 24 + f.entry * 2 ^ 32 }))

/-- The atomics of R66, R67 and R69 at a home slice of Pantry or Cellar; x is the state in which the request has its turn there (R70). -/
def Obligations.AtomicsAtTheHomeSlice : Prop :=
  ∀ (i : Instr) (s u : State) (t da : Nat) (who : Requester) (rq : AtomReq) (tr : Tier), atomicOf i = some (t, who, da, rq) →
    s.RunsAt t u → u.Inv → rq.defined = true → tierOf da = some tr →
    let n := rq.ty.bytes
    let w := u.homeWait who da (.atom rq)
    let x := u.atSlices w
    let old := x.loadNat da n
    let fault := u.atomFault da n (decide (da % n = 0))
    (fault = none → x.GoesAtOnce tr w →
      (∀ new, rq.result old = some new → ∃ r, exec i s = .next r ∧
        r.outbox = .atomAnswer who da old (rq.zero new) :: x.outbox ∧ r.load da n = leBytes n new ∧
        r.SameOutside x da n ∧ r.SameBlocks x) ∧
      (rq.result old = none → ∃ r, exec i s = .next r ∧
        r.outbox = .atomRefused who da F.atomicRange :: x.outbox ∧ r.mem = x.mem ∧
        r.regs = (x.noteAtomic da F.atomicRange).regs)) ∧
    (∀ code, fault = some code → ∃ r, exec i s = .next r ∧
      r.outbox = .atomRefused who da code :: u.outbox ∧ r.mem = u.mem ∧ r.regs = (u.noteAtomic da code).regs)

/-- The reductions of R68 and R69 at a home slice of Pantry or Cellar; x is the state in which the request has its turn there (R70). -/
def Obligations.ReductionsAtTheHomeSlice : Prop :=
  ∀ (i : Instr) (s u : State) (t da m : Nat) (who : Requester) (op : RedOp) (d : List Byte) (tr : Tier),
    reductionOf i = some (t, who, da, op, m, d) → s.RunsAt t u → u.Inv → tierOf da = some tr →
    let w := u.homeWait who da (.red op m d)
    let x := u.atSlices w
    let fault := u.atomFault da d.length (redAligned da d.length)
    (fault = none → x.GoesAtOnce tr w → ∃ r, exec i s = .next r ∧
      r.load da d.length = op.apply m (x.load da d.length) d ∧ r.SameOutside x da d.length ∧ r.SameBlocks x ∧ r.outbox = x.outbox) ∧
    (∀ code, fault = some code → ∃ r, exec i s = .next r ∧
      r.outbox = .atomRefused who da code :: u.outbox ∧ r.mem = u.mem ∧ r.regs = (u.noteAtomic da code).regs)

/-- MEM_READ and MEM_WRITE (R58, R59, R70, R80, R81, R84, R85, R87): a request to a DRAM tier, where x is the state in which it has its turn at
the home slices of its lines; the answer of one that is late; and requests to Shelf and Attic. -/
def Obligations.MemoryRequests : Prop :=
  ∀ (s u : State) (t : Nat) (r : MemReq) (data : List Byte), s.RunsAt t u → u.Inv →
    let next := fun (y : State) => (Host.Outcome.next y : Host.Outcome State Fault Refusal)
    let act := fun (write : Bool) => if write then MemAct.write data else .read
    let cmd := fun (write : Bool) (errs : List SymErr) (late : Bool) => if write then Instr.memWrite t r data errs late else .memRead t r errs late
    (∀ (tr : Tier) (write : Bool) (errs : List SymErr) (late : Bool), tierOf r.da = some tr →
      let w : Waiting := { req := r, act := act write, errs := errs, late := late }
      let x := u.atSlices w
      let v := { w with arrived := x.now }
      let charged := if w.uncharged then x else x.charge tr r.part.val w.bytes
      let run := exec (cmd write errs late) s
      (u.outstanding tr r.id = false →
        (∀ c b, x.requestFault w = some (c, b) →
          ∃ z, run = next z ∧ z.outbox = .memAnswer r.id r.who c [] :: x.outbox ∧ z.mem = x.mem ∧ z.regs = x.regs) ∧
        (x.requestFault w = none → w.uncharged = false → x.heldBack tr r.part.val = true → run = next (x.keep tr v)) ∧
        (x.requestFault w = none → w.uncharged = true ∨ x.heldBack tr r.part.val = false →
          late = true ∨ x.pausedFor tr w = true ∨ w.behind (x.tier tr).waiting = true →
          run = next (charged.keep tr { v with admitted := some x.now })) ∧
        (x.GoesAtOnce tr w → errs = [] →
          (write = false → run = next (charged.emit (.memAnswer r.id r.who 0 (x.load r.da r.len)))) ∧
          (write = true → ∃ z, run = next z ∧ z.outbox = .memAnswer r.id r.who 0 [] :: x.outbox ∧
            z.load r.da data.length = data ∧ z.SameOutside x r.da data.length ∧ z.SameBlocks x)) ∧
        (∀ j b, x.GoesAtOnce tr w → j = charged.judgeWords tr (r.da / tr.word * tr.word) errs
            ((errWords tr r.da w.bytes errs).filter (w.act.judges tr r.da w.bytes)) → j.bad = some b →
          ∃ z, run = next z ∧ z.outbox = .memAnswer r.id r.who F.memUe [] :: j.s.outbox ∧ z.mem = j.s.mem ∧ z.regs = j.s.regs)) ∧
      (u.outstanding tr r.id = true → run = next (if late then u else u.arrive tr r.id errs))) ∧
    (∀ (e ofs : Nat) (late : Bool), regionOf r.da = .shelf e ofs → r.who ≠ .scheduler →
      (ofs + r.len ≤ 0x600000 → u.deadWord r.da r.len = none →
        exec (.memRead t r [] late) s = next (u.emit (.memAnswer r.id r.who 0 (u.load r.da r.len)))) ∧
      (ofs + data.length ≤ 0x600000 →
        exec (.memWrite t r data [] late) s = next ((u.windowStore r.da data).emit (.memAnswer r.id r.who 0 [])))) ∧
    (regionOf r.da = .attic → ∀ (write : Bool),
      let w : Waiting := { req := r, act := act write }
      let x := u.atSlices w
      let v := { w with arrived := x.now }
      x.requestFault w = none →
      (write = false → exec (.memRead t r [] false) s = next (x.atticRead v).serveAttic) ∧
      (write = true → exec (.memWrite t r data [] false) s =
        next (((x.store r.da data).sentFor x.attic.writes.length v).emit (.memAnswer r.id r.who 0 []))))

/-- R101: MAPOUT bits are sticky; writes of MAPOUT and MAP_COMMIT while MAP_BUSY is set are dropped. -/
def Obligations.MapOutBitsAreSticky : Prop :=
  ∀ (s u : State) (t : Nat) (ag : Agent) (tr : Tier) (i : Fin 4) (v : BitVec 64),
    let busy := bit (u.rd (tr.reg Reg.pntStatus Reg.celStatus)) 2
    let m := tr.mapout i
    let c := tr.reg Reg.pntMapCommit Reg.celMapCommit
    (i.val < tr.channels / 64 → s.WritesAt t ag m u → u.mayWrite ag m = true → busy = false →
      exec (.mapoutWrite t tr i v ag) s = .next (u.wr m (u.rd m ||| v.toNat))) ∧
    (i.val < tr.channels / 64 → s.WritesAt t ag m u → u.mayWrite ag m = true → busy = true →
      exec (.mapoutWrite t tr i v ag) s = .next (u.regAccess m)) ∧
    (s.WritesAt t ag c u → u.mayWrite ag c = true → busy = true →
      exec (.mapCommit t tr ag) s = .next (u.regAccess c) ∧ ∀ w : Nat, u.writeMapCommit tr w = u.regAccess c) ∧
    (s.RunsAt t u → tr.channels / 64 ≤ i.val → exec (.mapoutWrite t tr i v ag) s = .next u) ∧
    (∀ a, (u.regAccess a).SameUnits u)

/-- REGULATOR_REFILL (R80, R81) and MEM_TIMEOUT (R84; what a timed-out write leaves is a free value, assumption log 23). -/
def Obligations.RegulatorsRefillAndRequestsTimeOut : Prop :=
  ∀ (s u : State) (t : Nat) (tr : Tier) (p : Fin 8) (id : Nat), s.RunsAt t u →
    let x := u.tier tr
    let level := min (x.buckets.getD p 0 + (u.rateInForce tr p * 1000 : Nat)) (u.bucketDepth tr p : Int)
    let v := u.setTier tr { x with buckets := x.buckets.set p level, refilled := x.refilled.set p u.now }
    (x.refilled.getD p 0 + us 1 ≤ u.now →
      exec (.regulatorRefill t tr p) s = .next (((v.admitHeld tr p x.waiting.length).settleTier tr).admitOps tr p)) ∧
    (x.refilled.getD p 0 + us 1 ≤ u.now → x.waiting = [] → u.queues = [] → exec (.regulatorRefill t tr p) s = .next v) ∧
    (u.now < x.refilled.getD p 0 + us 1 → exec (.regulatorRefill t tr p) s = .next u) ∧
    (∀ k, u.rateInForce tr p = 0 ∨ x.buckets.getD p 0 ≤ 0 → u.admitHeld tr p k = u) ∧
    exec (.memTimeout t id) s = .next ((u.timeoutAt .pantry id).timeoutAt .cellar id) ∧
    (x.waiting.find? (fun w => decide (w.req.id = id)) = none → u.timeoutAt tr id = u) ∧
    (∀ (w : Waiting) (a : Nat), x.waiting.find? (fun w => decide (w.req.id = id)) = some w → w.admitted = some a →
      let due := a + us (u.fld (tr.reg Reg.pntTimeout Reg.celTimeout) 9 0)
      let y := u.setTier tr { x with waiting := x.waiting.filter fun v => decide (v.req.id ≠ id) }
      let z := { y with free := y.free + 1 }
      let ends := fun (z : State) => (((z.event (tr.reg Reg.pntIntStatus Reg.celIntStatus) 2).channelEvent tr w.req.da).refuse w
        F.memTimeout w.req.da).settleTier tr
      (u.now < due → u.timeoutAt tr id = u) ∧
      (due ≤ u.now → (∀ d, w.act ≠ .write d) → u.timeoutAt tr id = ends z) ∧
      (∀ d, due ≤ u.now → w.act = .write d → u.timeoutAt tr id = ends z ∨ u.timeoutAt tr id = ends (z.store w.req.da d)))

/-- CHANNEL_FAIL (R88, R89, R96), MAP_COMMIT (R94, R95) and MAP_DONE (R94). -/
def Obligations.ChannelsFailAndAreMappedOut : Prop :=
  ∀ (s u : State) (t : Nat) (ag : Agent) (tr : Tier) (ch : Fin 256),
    let st := tr.reg Reg.pntStatus Reg.celStatus
    let x := u.tier tr
    (s.RunsAt t u → ch.val < tr.channels → u.mappedOut tr ch = false → ch.val ∉ x.failed →
      (bit (u.rd st) 1 = true → u.fld (tr.reg Reg.pntFailThresh Reg.celFailThresh) 7 0 ≤ u.recentEvents tr ch →
        let y := u.raiseChannel tr ch 1 (u.recentEvents tr ch)
        let z := y.setTier tr { y.tier tr with failed := (y.tier tr).failed ++ [ch.val] }
        let z := if tr = .cellar then (z.setBit Reg.celStatus 4 true).event Reg.celIntStatus 6 else z
        exec (.channelFail t tr ch false) s = .next ((z.performKept tr fun w =>
          w.admitted.isSome && decide (tr.channelOf (z.targetUnit tr w.req.da) = ch)).settleTier tr)) ∧
      (bit (u.rd st) 1 = false →
        let y := u.wr (tr.mapout (ch / 64)) (u.rd (tr.mapout (ch / 64)) ||| 2 ^ (ch.val % 64))
        exec (.channelFail t tr ch true) s = .next ((y.raiseChannel tr ch 2 0).fixRange tr (y.mapoutUnits tr)))) ∧
    (s.WritesAt t ag (tr.reg Reg.pntMapCommit Reg.celMapCommit) u → u.mayWrite ag (tr.reg Reg.pntMapCommit Reg.celMapCommit) = true → bit (u.rd st) 2 = false →
      (u.mapoutUnits tr).all (· ∈ x.dead) = false →
      let dead := u.mapoutUnits tr
      let y := (u.fixRange tr dead).setBit st 2 true
      exec (.mapCommit t tr ag) s = .next
        (({ y with mem := y.mem.filter fun c => !(displaced tr dead c.1) } : State).loseDisplaced (displaced tr dead))) ∧
    (s.RunsAt t u → bit (u.rd st) 2 = true →
      let failed := x.failed.filter fun ch => !((tr.unitsOf ch).all (· ∈ x.dead))
      let y := ((u.setTier tr { x with failed := failed }).setBit st 2 false).event (tr.reg Reg.pntIntStatus Reg.celIntStatus) 4
      exec (.mapDone t tr) s = .next (if tr = .cellar ∧ failed = [] then y.setBit st 4 false else y))

/-- SCRUB_GRANULE, SCRUB_FLOOR_END (R90 to R92), SHELF_LARDER_SCRUB (R61, R62), FORCED_CALIBRATION, CALIBRATION_END (R93),
BANK_REFRESH (R82) and LARDER_FILL (R86). -/
def Obligations.ScrubCalibrationAndRefresh : Prop :=
  ∀ (s u : State) (t : Nat) (tr : Tier) (a : Nat) (errs : List SymErr) (overtaken : Bool) (ch : Fin 256) (die : Fin 2), s.RunsAt t u →
    let x := u.tier tr
    let ctrl := tr.reg Reg.pntCtrl Reg.celCtrl
    let st := tr.reg Reg.pntStatus Reg.celStatus
    let base := a / tr.granule * tr.granule
    let unit := u.targetUnit tr base
    let line := a / 256 * 256
    let paused := fun (test : Nat → Bool) => x.paused.any fun c => test c.1 && decide (u.now < c.2 + pauseLimit)
    (bit (u.rd ctrl) 0 = true → tierOf a = some tr → u.tierFault tr base tr.granule = none → tr.channelOf unit ∉ x.failed →
      paused (fun c => decide (c = tr.channelOf unit)) = false →
      let y := (linesOf base tr.granule).foldl (fun s x => s.inOrder (slicePlace x.1) scrubRank) u
      let j := y.judgeWords tr base errs (errWords tr base tr.granule errs)
      exec (.scrubGranule t tr a errs overtaken) s = .next ((if overtaken then j.s else j.s.storeDiffs tr j.diffs).noteScrub tr unit) ∧
      exec (.scrubGranule t tr a [] overtaken) s = .next (y.noteScrub tr unit) ∧ (y.noteScrub tr unit).mem = y.mem) ∧
    (bit (u.rd ctrl) 0 = true → bit (u.rd st) 1 = true → x.floorAt + u.floorLength tr ≤ u.now →
      exec (.scrubFloorEnd t tr) s = .next (if (u.unscrubbed tr).isEmpty then u.setTier tr { x with scrubbed := [], floorAt := u.now } else
        ((u.setBit st 3 true).event (tr.reg Reg.pntIntStatus Reg.celIntStatus) 5).setTier tr { x with scrubbed := [], floorAt := u.now })) ∧
    (bit (u.rd ctrl) 0 = false ∨ u.now < x.floorAt + u.floorLength tr → exec (.scrubFloorEnd t tr) s = .next u) ∧
    (bit (u.rd Reg.ldrCtrl) 0 = true →
      exec (.shelfLarderScrub t a die 0) s = .next (u.countWord die) ∧
      exec (.shelfLarderScrub t a die 1) s = .next
        (((u.bump Reg.ldrCeCount (31 + 32 * die.val) (32 * die.val) 1).event Reg.ldrIntStatus 0).countWord die) ∧
      exec (.shelfLarderScrub t a die 2) s = .next
        (((((u.bump Reg.ldrUeCount (31 + 32 * die.val) (32 * die.val) 1).wr Reg.ldrUeAddr a).event Reg.ldrIntStatus 1).markDead
          (a / 8 * 8) 8 0).countWord die)) ∧
    (ch.val < tr.channels → u.mappedOut tr ch = false → paused (fun c => decide (tr.dieOf c = tr.dieOf ch)) = false →
      exec (.forcedCalibration t tr ch) s = .next (u.setTier tr { x with
        paused := (ch.val, u.now) :: x.paused.filter fun c => decide (u.now < c.2 + pauseLimit) })) ∧
    (ch.val < tr.channels → paused (fun c => decide (tr.dieOf c = tr.dieOf ch)) = true → exec (.forcedCalibration t tr ch) s = .next u) ∧
    (x.paused.any (fun c => decide (c.1 = ch.val)) = true →
      let y := (u.setTier tr { x with paused := x.paused.filter fun c => decide (c.1 ≠ ch.val) }).settleTier tr
      let kind := if tr = .pantry then 2 else 3
      exec (.calibrationEnd t tr ch) s = .next (if y.health.requests.contains (kind, ch.val)
        then (y.takeRequest kind ch).postResult kind ch true 0 0 else y)) ∧
    (x.paused.any (fun c => decide (c.1 = ch.val)) = false → exec (.calibrationEnd t tr ch) s = .next u) ∧
    (∀ (n : Fin 384) (k : Nat), exec (.bankRefresh t tr n k) s = .next (u.setTier tr { x with
      refreshing := (n.val, u.now + k) :: x.refreshing.filter fun r => decide (u.now < r.2) })) ∧
    (tierOf a = some tr → u.memFault line 256 = none →
      exec (.larderFill t die a []) s = .next { u with
        larder := tabSet (fun _ => false) u.larder (2 * (line / 256) + die) true } ∧
      (∀ b, (u.judgeWords tr line errs (errWords tr line 256 errs)).bad = some b →
        let y := (u.judgeWords tr line errs (errWords tr line 256 errs)).s
        let hit := fun (w : Waiting) => decide (w.req.da < line + 256) && decide (line < w.req.da + w.bytes)
        exec (.larderFill t die a errs) s = .next ((((y.tier tr).waiting.filter hit).foldl (fun s w => s.refuse w F.memUe b)
          (y.setTier tr { y.tier tr with waiting := (y.tier tr).waiting.filter fun w => !hit w })).settleTier tr)))

/-- TICK_BOUNDARY (R29, R40, R41, R45, R50) and PLAN_ACTIVATE (R40); the first tick counts 0 (a reading of R45's silence, assumption log 21). -/
def Obligations.TickBoundaries : Prop :=
  (∀ (s u : State) (t : Nat), s.TurnAt t tickPlace 1 u →
    (∀ b, u.tick.on = true → u.tick.next = some b → b ≤ u.now →
      let v := (u.tickBoundary b).windowsAt b
      exec (.tickBoundary t) s = .next (if v.tick.on && !v.tick.gap then v.bundlesLive.originateTick else v)) ∧
    (u.tick.on = false ∨ u.tick.next = none ∨ u.tick.next.any (fun b => decide (u.now < b)) = true →
      exec (.tickBoundary t) s = .next u)) ∧
  (∀ (s u : State) (t : Nat), s.RunsAt t u →
    (∀ pl, u.tick.pending = some pl → u.tick.on = false → u.tick.pendingAt + us 100 ≤ u.now →
      exec (.planActivate t) s = .next u.activatePlan ∧ u.activatePlan.tick.plan = some pl ∧ u.activatePlan.tick.pending = none) ∧
    (u.tick.pending = none ∨ u.tick.on = true ∨ u.now < u.tick.pendingAt + us 100 → exec (.planActivate t) s = .next u)) ∧
  (∀ (u : State) (b : Nat),
    let c := (u.closeTick b).1.activateDue b
    let posts := fun (x : State) => (u.closeTick b).2.foldl postFault x
    (bit (c.rd Reg.tckCtrl) 0 = false →
      u.tickBoundary b = posts { c with tick := { c.tick with on := false, placed := false, next := none, gap := false } }) ∧
    (bit (c.rd Reg.tckCtrl) 0 = true → c.tick.gap = false → c.tick.placed = true →
      (c.tick.srcReq.isSome = true ∨ c.tick.realign = true) → u.tickBoundary b = posts (c.beginGap b)) ∧
    (bit (c.rd Reg.tckCtrl) 0 = true → c.tick.gap = true ∨ c.tick.placed = false ∨ (c.tick.srcReq = none ∧ c.tick.realign = false) →
      u.tickBoundary b = posts (c.beginTick b)) ∧
    (∀ pl, u.tick.pending = some pl →
      (u.tick.pendingAt + us 100 ≤ b → (u.activateDue b).tick.plan = some pl ∧ (u.activateDue b).tick.pending = none) ∧
      (b < u.tick.pendingAt + us 100 → u.activateDue b = u))) ∧
  (∀ (c : State) (b : Nat), Registers.wf c.regs →
    let r := c.beginTick b
    r.rd Reg.tckCount = (if c.tick.placed then (c.rd Reg.tckCount + 1) % 2 ^ 64 else 0) ∧
    r.tick.boundary = b ∧ r.tick.placed = true ∧ r.tick.gap = false ∧ r.tick.bgUsed = 0)

/-- SOURCE_LOST, HOLDOVER_LIMIT_EXPIRY (R27), SOURCE_RETURN (R28), BACKGROUND_ADMIT (R52) and TICK_OUT_END (R507). -/
def Obligations.TickSourcesAndSlack : Prop :=
  ∀ (s u : State) (t : Nat), s.RunsAt t u →
    (∀ c, u.lostFrom = some c → u.tick.on = true → u.tick.lostAt = none → c ≤ u.now →
      let local' := if u.tick.gap then max (u.tick.boundary + u.period) (u.now + us 10) else u.now + us 10
      exec (.sourceLost t) s = .next (((({ u with tick := { u.tick with
        lostAt := some u.now, limitPassed := false, next := some (u.tick.next.getD local') } } : State).setBit
        Reg.tckStatus 3 true).setBit Reg.tckStatus 2 false).event Reg.tckIntStatus 4)) ∧
    (∀ c, u.tick.lostAt = some c → u.tick.on = true → u.tick.limitPassed = false →
      c + us (u.fld Reg.tckHoldoverLimit 15 0 * 1000000) ≤ u.now →
      exec (.holdoverLimitExpiry t) s = .next (postFault { u with tick := { u.tick with limitPassed := true } }
        { code := F.tickSource, cls := Class.degraded, block := Blk.tck })) ∧
    (∀ ofs : Int, u.tick.on = true → u.tick.lostAt.isSome = true → u.tick.stayLocal = false →
      u.sourceHere (u.fld Reg.tckStatus 1 0) = true →
      (ofs.natAbs ≤ 10000000 → exec (.sourceReturn t ofs) s = .next (((({ u with tick := { u.tick with
        lostAt := none, limitPassed := false } } : State).setBit Reg.tckStatus 3 false).setBit Reg.tckStatus 2
          (decide (ofs.natAbs ≤ 1000))).event Reg.tckIntStatus 5)) ∧
      (10000000 < ofs.natAbs → exec (.sourceReturn t ofs) s = .next (postFault { u with tick := { u.tick with stayLocal := true } }
        { code := F.tickSource, cls := Class.degraded, block := Blk.tck }))) ∧
    (∀ (d : Nat) (es : List (Fin 96)),
      (u.tick.on = true → u.tick.placed = true → us (d + 10) ≤ u.slackLeft → exec (.backgroundAdmit t d es) s = .next
        ((es.map (·.val)).foldl (fun s e => s.yieldEngine e) { u with tick := { u.tick with bgUsed := u.tick.bgUsed + d } })) ∧
      (u.tick.on = false ∨ u.tick.placed = false ∨ u.slackLeft < us (d + 10) → exec (.backgroundAdmit t d es) s = .next
        ((u.bump Reg.tckBgDefer 31 0 1).event Reg.tckIntStatus 8))) ∧
    (∀ b, u.tick.outHigh = some b → u.tickOutFalls b ≤ u.now →
      exec (.tickOutEnd t) s = .next { u with tick := { u.tick with outHigh := none } })

/-- The PTP client (R321, R322; what the manual leaves to IEEE 1588 is assumption log 62). -/
def Obligations.PtpClientFollowsItsMaster : Prop :=
  (∀ (s u : State) (t : Nat), s.RunsAt t u →
    (∀ x v, u.takePtp 0 = some (x, v) → v.fromMaster x.data = true →
      (bit (leField x.data 6 1) 1 = true → exec (.sync t) s = .next
        (v.setClient { v.ing.client with sync := some (PtpMsg.seqId x.data, x.stamp, PtpMsg.corr x.data) })) ∧
      (bit (leField x.data 6 1) 1 = false → exec (.sync t) s = .next
        (v.completeSync (PtpMsg.time x.data + PtpMsg.corr x.data) x.stamp))) ∧
    (∀ x v n t2 c, u.takePtp 8 = some (x, v) → v.ing.client.sync = some (n, t2, c) → v.fromMaster x.data = true →
      n = PtpMsg.seqId x.data → exec (.followUp t) s = .next (v.completeSync (PtpMsg.time x.data + c + PtpMsg.corr x.data) t2)) ∧
    (∀ x v n t3 t1 t2, u.takePtp 9 = some (x, v) → v.ing.client.delaySent = some (n, t3) → v.ing.client.last = some (t1, t2) →
      v.fromMaster x.data = true → n = PtpMsg.seqId x.data → beField x.data 44 10 = v.ownIdent →
      let path := ((t2 - t1) + (PtpMsg.time x.data - PtpMsg.corr x.data - t3)) / 2
      let every := PtpMsg.interval x.data
      exec (.delayResp t) s = .next ((v.wr Reg.ingPtpPath (ofSigned 64 path)).setClient { v.ing.client with
        path := path, delaySent := none, delayEvery := some every, delayAt := v.now + every })) ∧
    (∀ x v, u.takePtp 11 = some (x, v) →
      let id := PtpMsg.ident x.data
      let m : PtpMaster := { ident := id, rank := PtpMsg.rank x.data, heard := v.now, every := PtpMsg.interval x.data,
                             before := (v.ing.client.masters.find? fun m => decide (m.ident = id)).map (·.heard) }
      let w := (v.setClient { v.ing.client with
        masters := (v.ing.client.masters.filter fun m => decide (m.ident ≠ id)) ++ [m] }).selectMaster
      exec (.announce t) s = .next (if w.fromMaster x.data then w.setClient { w.ing.client with
        utc := (if bit (leField x.data 7 1) 2 then some (toSigned 16 (beField x.data 44 2)) else none) } else w)) ∧
    (let c := u.ing.client
     let n := u.fld Reg.ingPtpCfg 9 8
     c.sel.isSome = true → c.last.isSome = true → c.delayAt ≤ u.now →
      exec (.delayReq t) s = .next (((u.bump (Reg.ingTx n) 63 0 1).emit (.delayReq n c.delaySeq)).setClient { c with
        delaySeq := (c.delaySeq + 1) % 65536, delaySent := some (c.delaySeq, u.timeNs),
        delayAt := u.now + c.delayEvery.getD 0 })) ∧
    (let c := u.ing.client
     ∀ m, c.masters.find? (fun m => decide (c.sel = some m.ident)) = some m → m.heard + 3 * m.every ≤ u.now →
      exec (.announceReceiptTimeout t) s = .next ((u.setClient { c with
        masters := c.masters.erase m, sel := none, sync := none, last := none, delaySent := none, delayEvery := none,
        utc := none }).setBit Reg.ingStatus 3 false))) ∧
  (∀ (v : State) (t1 t2 : Int),
    let off := t2 - t1 - v.ing.client.path
    let d := (v.completeSync t1 t2).ptp.offset - v.ptp.offset
    (v.completeSync t1 t2).ptp.everLocked = true ∧ (v.completeSync t1 t2).tick.heardPtp = v.now + 1 ∧
    (v.ptp.everLocked = false → d = -off) ∧
    (v.ptp.everLocked = true → off.natAbs ≤ 10000000 →
      d.natAbs ≤ off.natAbs ∧ d.natAbs ≤ (v.now - v.ing.client.lastAt) / 11000 ∧ (0 < off → d ≤ 0) ∧ (off < 0 → 0 ≤ d)))

/-- ETH_FRAME_RX (R318, R319), DATA_FRAME (R334 to R338), CFG_FRAME (R333), HEADER_FRAME and COMMAND_FRAME (R332),
PULSE_TRIGGER_PRESENT (R242, R338). -/
def Obligations.FramesReachTheirParsers : Prop :=
  (∀ (s u : State) (t : Nat) (p : Fin 4) (err : Fin 17) (f : List Byte), s.RunsAt t u →
    let stamp := (u.timeNs : Int) + err.val - 8
    let v := u.bump (Reg.ingRx p) 63 0 1
    (v.ing.cfg = none → exec (.ethFrameRx t p err f) s = .next (v.rxDrop p true)) ∧
    (∀ c, v.ing.cfg = some c →
      (bit (v.rd Reg.ingCtrl) 0 = false ∨ PortEnt.on (cfgPort c p) = false →
        exec (.ethFrameRx t p err f) s = .next (v.rxDrop p true)) ∧
      (bit (v.rd Reg.ingCtrl) 0 = true → PortEnt.on (cfgPort c p) = true →
        let k := frameVerdict c (cfgPort c p) f (decide (v.fld Reg.ingPtpCfg 9 8 = p))
        (k = .bad → exec (.ethFrameRx t p err f) s = .next (v.bump (Reg.ingRxErr p) 31 0 1)) ∧
        (k = .control → exec (.ethFrameRx t p err f) s = .next (v.bump (Reg.ingRxErr p) 63 32 1)) ∧
        (k = .drop → exec (.ethFrameRx t p err f) s = .next (v.rxDrop p true)) ∧
        (k = .unmatched → exec (.ethFrameRx t p err f) s = .next (v.rxDrop p false)) ∧
        (∀ eth v6 d, k = .ptp eth v6 d → exec (.ethFrameRx t p err f) s = .next
          (if v.ptpUses eth v6 d then v.deliver ⟨p, stamp, .ptp eth v6, d⟩ else v.rxDrop p true)) ∧
        (∀ src port d, k = .udp src port d → exec (.ethFrameRx t p err f) s = .next (v.rxUdp p stamp src port d))))) ∧
  (∀ (s u : State) (t : Nat) (e : Fin 96), s.RunsAt t u →
    (∀ x ent v c, u.takeMeas (fun ty => decide (ty = 0)) = some (x, some ent, v) →
      let n := entStream ent
      let m := v.measSt n
      (m.cfg.bind measCfgOf = none → exec (.dataFrame t) s = .next v.measDrop) ∧
      (m.cfg.bind measCfgOf = some c → m.fault = true ∨ x.data.length ≠ c.frameBytes → exec (.dataFrame t) s = .next v.measDrop) ∧
      (m.cfg.bind measCfgOf = some c → m.fault = false → x.data.length = c.frameBytes →
        let w := (v.bump Reg.ingMeasCount 31 0 1).setMeas n
          { m with seq := (m.seq + 1) % 2 ^ 32, changes := m.changes + c.changes x.data }
        let xs := c.chans w.free (MeasEnt.polar ent) (decide (w.fld Reg.ingCtrl 2 1 = 2)) x.data
        let xs := if MeasEnt.tqMax ent < leField x.data 10 1 % 16 then xs.map fun y => (none, y.2) else xs
        let w : State := { w with free := w.free + x.data.length }
        let z := w.queueFrame ent (w.frameTime c x.data) x.stamp xs
        exec (.dataFrame t) s = .next (if MeasEnt.pulse ent then z.feedPulse ent (w.frameTime c x.data) m.seq xs else z))) ∧
    (∀ x ent v c, u.takeMeas (fun ty => decide (ty = 3 ∨ ty = 5)) = some (x, some ent, v) →
      (MeasEnt.fromImage ent = true → exec (.cfgFrame t) s = .next v.measDrop) ∧
      (MeasEnt.fromImage ent = false → frameType x.data = 3 → measCfgOf x.data = some c →
        exec (.cfgFrame t) s = .next ((v.setMeas (entStream ent) (v.measSt (entStream ent))).adoptCfg ent x.data c))) ∧
    (∀ x ent v, u.takeMeas (fun ty => decide (ty = 1 ∨ ty = 2)) = some (x, ent, v) → exec (.headerFrame t) s = .next v.measDrop) ∧
    (∀ x ent v, u.takeMeas (fun ty => decide (ty = 4 ∨ 5 < ty)) = some (x, ent, v) → exec (.commandFrame t) s = .next v.measDrop) ∧
    (∀ q arg r, tabGet (fun _ => []) u.ing.held e = (q, arg) :: r → u.takesTrigger e q = true →
      let v : State := { u with ing := { u.ing with held := tabSet (fun _ => []) u.ing.held e r } }
      (u.streamOf e arg = none → exec (.pulseTriggerPresent t e) s = .next ((v.bump Reg.ingPulseCount 31 0 1).trigger e q arg)) ∧
      (∀ n, u.streamOf e arg = some n →
        ((u.measSt n).taken = (true, true) ∧ (u.measSt n).sentTo ≠ none ∧ (u.measSt n).sentTo ≠ some e.val →
          exec (.pulseTriggerPresent t e) s = .next u) ∧
        ((u.measSt n).taken ≠ (true, true) ∨ (u.measSt n).sentTo = none ∨ (u.measSt n).sentTo = some e.val →
          exec (.pulseTriggerPresent t e) s = .next
            (((v.setMeas n { u.measSt n with sentTo := some e.val }).bump Reg.ingPulseCount 31 0 1).trigger e q arg)))))

/-- RTP_PACKET (R339, R340), PICTURE_HANDOVER (R340, R343), PICTURE_DECODE_START (R343 to R345), PICTURE_DECODE_END (R350),
PICTURE_WATCHDOG (R347), VDC_RELEASE (R361), VDC_REARM (R345). -/
def Obligations.PicturesAreDecoded : Prop :=
  (∀ (s u : State) (t : Nat), s.RunsAt t u →
    (∀ x r n ent, u.ing.rx = x :: r → x.kind = .video n → findStream u.vidEntries n = some ent → entStream ent = n →
      let v : State := { u with ing := { u.ing with rx := r } }
      let w := v.vid n
      let w1 := if w.ssrc = some (Rtp.ssrc x.data) then w else w.restart (some (Rtp.ssrc x.data))
      (w.state = 3 → exec (.rtpPacket t) s = .next v) ∧
      (w.state ≠ 3 → payloadOk (VidEnt.codec ent) (Rtp.payload x.data) = false → exec (.rtpPacket t) s = .next (v.rxDrop x.port true)) ∧
      (w.state ≠ 3 → payloadOk (VidEnt.codec ent) (Rtp.payload x.data) = true →
        let behind := (∃ b, w1.start = some b ∧ ahead16 (Rtp.seq x.data) b < 0) ∨
          ∃ a ∈ w1.asm, ∃ p ∈ a.pkts, 64 < ahead16 p.1 (Rtp.seq x.data)
        (behind → exec (.rtpPacket t) s = .next (v.setVid n w1)) ∧
        (¬behind → (∀ a ∈ w1.asm, a.ts ≠ Rtp.ts x.data) →
          let a : PicAsm := { ts := Rtp.ts x.data, at0 := v.now, stamp := x.stamp, die := x.port / 2 }
          exec (.rtpPacket t) s = .next (v.setVid n { w1 with asm := (w1.asm.map fun b =>
            if b.later = none ∧ 0 < ahead32 (Rtp.ts x.data) b.ts then { b with later := some v.now } else b) ++ [a.add x.data] })) ∧
        (¬behind → ∀ l a r, w1.asm = l ++ a :: r → a.ts = Rtp.ts x.data → (∀ b ∈ l ++ r, b.ts ≠ Rtp.ts x.data ∧
            ¬(b.later = none ∧ 0 < ahead32 (Rtp.ts x.data) b.ts)) →
          exec (.rtpPacket t) s = .next (v.setVid n { w1 with asm := l ++ a.add x.data :: r })))) ∧
    (∀ (j : Fin 512) ent a rest isRef rap, u.vidEntries[j.val]? = some ent → (u.vid (entStream ent)).asm = a :: rest →
      a.due (u.vid (entStream ent)).start (VidEnt.maxFps ent) u.now = true →
      let n := entStream ent
      let v := u.vid n
      let total := (a.pkts.map (·.2)).foldl (· + ·) 0
      let st := v.stampPic ent a
      let w := { st.2 with asm := rest, start := some a.after, seq := (v.seq + 1) % 2 ^ 32 }
      let pic : VPic := { seq := v.seq, t := st.1, bytes := min total (VidEnt.maxPic ent), total := total,
                          cut := decide (VidEnt.maxPic ent < total), die := a.die, handed := u.now, isRef := isRef, rap := rap }
      (8 ≤ v.waiting.length → exec (.pictureHandover t j isRef rap) s = .next
        (((({ u with free := u.free + 1 } : State).setVid n
          { w with state := if isRef = true ∧ w.state = 1 then 2 else w.state }).countFail n (Config.freeNat u.free % 16)).picRecord ent
            pic 2 F.decodeLimit (Config.freeNat u.free % 16) false false 31 0 0 false none 0)) ∧
      (v.waiting.length < 8 → exec (.pictureHandover t j isRef rap) s = .next
        ((u.havoc (VidEnt.codedDa ent pic.seq) pic.bytes).setVid n { w with waiting := w.waiting ++ [pic] }))) ∧
    (∀ ent pic rest inst, u.nextDecode = some ent → (u.vid (entStream ent)).waiting = pic :: rest → u.freeInst pic.die = some inst →
      let n := entStream ent
      let v := u.setVid n { u.vid n with waiting := rest }
      ((v.vid n).state ≠ 4 → exec (.pictureDecodeStart t none) s = .next (v.beginDecode ent pic inst)) ∧
      ((v.vid n).state = 4 → exec (.pictureDecodeStart t none) s = .next
        (v.failPic ent pic { cause := (v.vid n).cause } none false)) ∧
      (∀ h f, headerFail ent h = some f → exec (.pictureDecodeStart t (some h)) s = .next (v.headerRejected ent pic f)) ∧
      (∀ h, headerFail ent h = none → exec (.pictureDecodeStart t (some h)) s = .next ((v.setVid n { v.vid n with
        level := h.level, width := h.width, height := h.height, wide := h.wide }).beginDecode ent pic inst))) ∧
    (∀ (i : Fin 24) ent d film stalled refs, u.decoding i = some (ent, d) →
      exec (.pictureDecodeEnd t i true film stalled refs) s = .next (u.decoded ent d film stalled refs) ∧
      exec (.pictureDecodeEnd t i false film stalled refs) s = .next (u.failPic ent d.pic { cause := 7 } (some d) stalled) ∧
      (d.started + watchdogCycles ent ≤ u.now → exec (.pictureWatchdog t i) s = .next
        ((u.bump Reg.vdcWdCount 31 0 1).failPic ent d.pic { cause := 0, wd := true } (some d) false)))) ∧
  (∀ (s u : State) (t : Nat) (ag : Agent) (v : BitVec 64), s.WritesAt t ag Reg.vdcRelease u → u.mayWrite ag Reg.vdcRelease = true →
    exec (.vdcRelease t v ag) s = .next (u.releasePics v.toNat)) ∧
  (∀ (s u : State) (t : Nat) (ag : Agent) (n : BitVec 16), s.WritesAt t ag Reg.vdcRearm u → u.mayWrite ag Reg.vdcRearm = true →
    ((u.vid n.toNat).state = 3 → (findStream u.vidEntries n.toNat).isSome = true →
      exec (.vdcRearm t n ag) s = .next (u.setVid n.toNat { u.vid n.toNat with state := 0 })) ∧
    ((u.vid n.toNat).state ≠ 3 ∨ findStream u.vidEntries n.toNat = none → exec (.vdcRearm t n ag) s = .next u))

/-- ALIGNER_SAMPLE (R352, R358), WINDOW_CUTOFF (R39, R358, R359), CFG_SWAP and INGEST_CFG_ACTIVATE (R329, R330), PUBLISH_ENTRY (R362,
R363). -/
def Obligations.WindowsCloseAndResultsGoOut : Prop :=
  (∀ (s u : State) (t : Nat), s.RunsAt t u →
    (∀ x r, u.ing.queue = x :: r →
      let v : State := { u with ing := { u.ing with queue := r } }
      let xs := v.chSamples x.ch
      (v.tick.on = false → exec (.alignerSample t) s = .next v) ∧
      (v.tick.on = true → v.sampleLate x = true → exec (.alignerSample t) s = .next (v.discard true)) ∧
      (v.tick.on = true → v.sampleLate x = false → (v.timeNs : Int) + 1000000000 < x.t ∨ xs.getLast?.any (fun y => decide (x.t ≤ y.t)) = true →
        exec (.alignerSample t) s = .next (v.discard false)) ∧
      (v.tick.on = true → v.sampleLate x = false → x.t ≤ (v.timeNs : Int) + 1000000000 → xs.getLast?.any (fun y => decide (x.t ≤ y.t)) = false →
        exec (.alignerSample t) s = .next ((v.setSamples x.ch (xs ++ [x])).writeFinals x.ch xs x.t))) ∧
    (∀ w rest stop b cut c left, u.ing.wins = w :: rest → w.stop = some (stop, b) → w.cutoff = some (cut, c) → c ≤ u.now →
      let late := u.alignMissed w
      let g := u.writeGrid w (if late then left else [])
      let p := g.1.writePics w
      let x := p.1.ioWrite .ingest (cfgWinDa w.cfg w.k) (windowRecord w late g.2 (p.1.takenIn w.start stop) p.2 cut)
      let x := (x.event Reg.ingIntStatus 0).wr Reg.ingLastWindow w.k
      let x := if late then x.event Reg.ingIntStatus 1 else x
      let x : State := { x with ing := { x.ing with wins := rest } }
      let x : State := { x with ing := { x.ing with
        samples := (x.ing.samples.filter fun y => x.grouped y.1).map fun y => (y.1, keepFrom y.2 stop) } }
      let x := x.ing.video.foldl (fun s y => s.pruneVid y.1) x
      (∀ ph, x.alignPhase = some ph → exec (.windowCutoff t left) s = .next (x.phaseCommit ph true)) ∧
      (x.alignPhase = none → exec (.windowCutoff t left) s = .next x)) ∧
    (∀ c, u.ingDue u.now = true → u.tick.on = false → u.ing.pending = some c →
      let old := u.ing.cfg.getD []
      let v : State := { u with ing := { u.ing with cfg := some c, pending := none } }
      let w := (((v.switchMeas (cfgMeasList old) (cfgMeasList c)).keepOlds (cfgVidList old) (cfgVidList c)).switchVideo (cfgVidList old)
        (cfgVidList c)).switchGroups (cfgGroupList old) (cfgGroupList c) u.timeNs
      exec (.ingestCfgActivate t) s = .next ((((w.setBit Reg.ingStatus 0 true).setBit Reg.ingStatus 1 false).setFld Reg.ingStatus 63 32
        (cfgSeq c)).event Reg.ingIntStatus 2)) ∧
    (∀ ue, bit (u.rd Reg.ingPubCfg) 0 = true → u.ing.pub.halted = false →
      let v := u.pubTail
      let x := v.ing.pub
      let a := v.rd Reg.ingPubBase + x.head % 2 ^ v.fld Reg.ingPubCfg 12 8 * 32
      let e := v.load a 32
      let w := v.ioRead a 32
      (x.halted = true ∨ x.fresh = true ∨ x.head = x.tail → exec (.publishEntry t ue) s = .next v) ∧
      (x.halted = false → x.fresh = false → x.head ≠ x.tail → v.memFault a 32 = none → v.holdsBytes a 32 = true →
        (leField e 0 4 ≠ x.head → exec (.publishEntry t ue) s = .next (w.pubHalt x.head (leField e 0 4) 2)) ∧
        (leField e 0 4 = x.head → w.holdsBytes (leField e 8 8) (leField e 16 4) = true →
          exec (.publishEntry t ue) s = .next ((w.pubMessage e ue).pubHead ((x.head + 1) % 2 ^ 32)))))) ∧
  (∀ (s u : State) (t : Nat) (ag : Agent), s.WritesAt t ag Reg.ingCtrl u → u.mayWrite ag Reg.ingCtrl = true → u.rd Reg.ingCtrl < 8 →
    let v := u.wr Reg.ingCtrl (u.rd Reg.ingCtrl)
    let a := v.rd Reg.ingCfgBase
    let n := cfgLength (v.load a 64)
    exec (.cfgSwap t ag) s = .next v.cfgSwap ∧
    (v.memFault a 64 = none → v.memFault a n = none →
      let c := v.load a n
      let w := v.ioRead a n
      (w.ingCheck c = none → v.cfgSwap =
        ({ w with ing := { w.ing with pending := some c, pendingAt := w.now } } : State).setBit Reg.ingStatus 1 true) ∧
      (∀ code i, w.ingCheck c = some (code, i) →
        v.cfgSwap = postFault ((w.wr Reg.ingCfgCheck (code + i % 65536 * 2 ^ 8 + cfgSeq c * 2 ^ 32)).event Reg.ingIntStatus 3)
          { code := F.ingestCfg, cls := Class.info, block := Blk.ing, payload := defaultPayload a (code + i % 65536 * 2 ^ 8) 0 0 0 })))

/-- CONTEXT_CREATE (R4, R372) and CONTEXT_DELETE (R393). That a free slot is taken at once, with the queue it is created with, is assumption log 64. -/
def Obligations.ContextsAreCreatedAndRemoved : Prop :=
  ∀ (s u : State) (t : Nat) (v : BitVec 64) (ag : Agent), s.WritesAt t ag Reg.schCtxCfg u → u.Inv →
    u.mayWrite ag Reg.schCtxCfg = true → u.ctxLimit ≤ 16 →
    let e := u.selected.1
    let k := u.selected.2
    let old := u.ctx e k
    u.ctxExists e k = true →
    (let w := putBits v.toNat 0 0 1
     bits w 9 8 ≤ 1 → bits w 42 32 ≤ 1535 → bits w 53 43 ≤ 1536 → bit (w &&& 0x3fffff001fffff) 0 = true → bit old.cfg 0 = false →
     let c : Ctx := { cfg := w &&& 0x3fffff001fffff, qCfg := old.qCfg, qBase := old.qBase, qTail := old.qTail,
                      qStatus := old.qStatus, qComp := old.qComp, place := .swapped, saved := some (u.newQueue old),
                      blockedAt := u.now }
     let w := u.setCtx e k c
     let w := if w.shelvesMeet e k then w.breach c.part else w
     (w.freeSlot e = none ∨ u.inSlot e = true → exec (.contextCreate t v ag) s = .next w) ∧
     (∀ q, w.freeSlot e = some q → u.inSlot e = false →
       ∃ r : State, exec (.contextCreate t v ag) s = .next (r.writeStatusLine e q) ∧
         r.ctx e k = { c with place := .resident, slot := q, saved := none } ∧ r.queue e q = u.newQueue old ∧ r.mem = u.mem ∧
         (r.rd (Reg.engQCfg e q) = old.qCfg % 2 ^ 64 ∧ r.rd (Reg.engQBase e q) = old.qBase % 2 ^ 64 ∧
          r.rd (Reg.engQTailDa e q) = old.qTail % 2 ^ 64 ∧ r.rd (Reg.engQStatusDa e q) = old.qStatus % 2 ^ 64 ∧
          r.rd (Reg.engQCompDa e q) = old.qComp % 2 ^ 64) ∧
         ∀ e' k', k' < 16 → ¬ (e' = e ∧ k' = k) → r.ctx e' k' = u.ctx e' k')) ∧
    (let w := putBits old.cfg 0 0 0
     let x := u.ctxQueue e k
     bits w 9 8 ≤ 1 → bits w 42 32 ≤ 1535 → bits w 53 43 ≤ 1536 → w &&& 0x3fffff001fffff = w → bit w 0 = false →
     bit old.cfg 0 = true → freeCtxFields w = freeCtxFields old.cfg →
     (x.ops = [] → x.state = .disabled ∨ x.state = .idle ∨ x.state = .halted →
       ∃ r : State, exec (.contextDelete t ag) s = .next r ∧ (r.ctx e k).place = .free ∧ (r.ctx e k).cfg = w ∧ r.mem = u.mem ∧
         (old.place = .resident → r.queue e old.slot = {}) ∧ (old.place ≠ .resident → r.queues = u.queues) ∧
         ∀ e' k', k' < 16 → ¬ (e' = e ∧ k' = k) → r.ctx e' k' = u.ctx e' k') ∧
     (x.ops ≠ [] → exec (.contextDelete t ag) s = .next (u.regAccess Reg.schCtxCfg)))

/-- CONTEXT_ABORT (R183, R381, R391), EVICT (R376) and PARTITION_ABORT (R382). -/
def Obligations.ContextsAreAbortedAndEvicted : Prop :=
  (∀ (s u : State) (t : Nat) (ag : Agent), s.WritesAt t ag Reg.schCtxCtrl u → u.Inv → u.ctxLimit ≤ 16 →
    let e := u.selected.1
    let k := u.selected.2
    let c := u.ctx e k
    let x := u.ctxQueue e k
    u.ctxExists e k = true → u.mayWrite ag Reg.schCtxCtrl = true →
      (c.place = .free → exec (.contextAbort t ag) s = .next (u.regAccess Reg.schCtxCtrl)) ∧
      (c.place ≠ .free → x.state = .disabled ∨ (x.state = .halted ∧ x.ops = []) → c.place = .resident →
        exec (.contextAbort t ag) s = .next u) ∧
      (let v := u.inOrder (ctxPlace e k) 0
       (∀ y, c.place = .resident → x.state ≠ .disabled → x.state ≠ .halted → v.queue e c.slot = y → y.state ≠ .disabled → y.state ≠ .halted →
         let w := (v.releaseCtx e k).setQueue e c.slot
           { y with ops := y.ops.map fun o => { o with abort := true }, abortedAt := y.fetched.head?.map (v.now, ·) }
         (y.ops = [] → exec (.contextAbort t ag) s = .next (w.haltQueue e c.slot .aborted)) ∧
         (y.ops ≠ [] → exec (.contextAbort t ag) s = .next ((y.ops.filter (State.atRest (v.ctx e k) ·)).foldl
           (fun s o => s.stopOpen e c.slot k { o with abort := true } none) w))) ∧
       (∀ y, c.place = .resident → x.state = .halted → x.ops ≠ [] → v.queue e c.slot = y → y.state = .halted →
         let w := (v.releaseCtx e k).setQueue e c.slot { y with
           ops := y.ops.map fun o => { o with abort := true },
           cause := if y.cause = .faulted ∧ y.recordAt = v.now then .aborted else y.cause }
         exec (.contextAbort t ag) s = .next ((y.ops.filter (State.atRest (v.ctx e k) ·)).foldl
           (fun s o => s.stopOpen e c.slot k { o with abort := true } none) w)) ∧
       (∀ y, c.place = .swapped → v.Inv → (v.ctx e k).place = .swapped → (v.ctx e k).saved = some y → y.state ≠ .disabled →
         y.state ≠ .halted → y.ops = [] →
         ∃ r : State, exec (.contextAbort t ag) s = .next (r.hatchStatus e k) ∧
           r.ctx e k = { v.ctx e k with saved := some ({ y with state := .halted, cause := .aborted, haltAfter := none } : QueueSt).unfetch,
                                        tags := [], landing := [], remoteErr := none, accSaved := false } ∧
           r.mem = v.mem ∧ ∀ e' k', k' < 16 → ¬ (e' = e ∧ k' = k) → r.ctx e' k' = v.ctx e' k') ∧
       (c.place ≠ .free → c.place ≠ .resident →
         exec (.contextAbort t ag) s = .next (v.abortInHatch e k (fun _ => true) ⟨0, 0, 0⟩))) ∧
      (c.place = .resident → c.running = false → bit c.cfg 7 = false → (∀ o ∈ x.ops, o.wbuf = none) →
        ∃ r : State, exec (.evict t ag) s = .next r ∧ r.queue e c.slot = {} ∧ r.mem = u.mem ∧
          r.ctx e k = { u.getQRegs e c.slot c with
            place := .swapped, saved := some x, savedData := u.dataSlot e c.slot, running := false, accSaved := x.liveAcc } ∧
          ∀ e' k', k' < 16 → ¬ (e' = e ∧ k' = k) → r.ctx e' k' = u.ctx e' k') ∧
      (c.place ≠ .resident ∨ c.running = true ∨ bit c.cfg 7 = true ∨ (∃ o ∈ x.ops, o.wbuf ≠ none) →
        exec (.evict t ag) s = .next u)) ∧
  (∀ (s u : State) (t : Nat) (ag : Agent) (p : Fin 8), s.WritesAt t ag (Reg.schPartCtrl p) u → u.mayWrite ag (Reg.schPartCtrl p) = true →
    let v := u.ctxs.foldl (fun s x =>
      if x.2.place ≠ .free ∧ x.2.part = p.val then s.abortContext (x.1 / 16) (x.1 % 16) else s) u
    let w := v.jobTail p
    let y := w.job p
    let left := ((List.range (min ((y.tail + 2 ^ 32 - y.head) % 2 ^ 32) 65536)).map fun i => (y.head + i) % 2 ^ 32).filter (· ∉ y.placed)
    (bit (v.rd (Reg.schJobCfg p)) 0 = false → exec (.partitionAbort t p ag) s = .next v) ∧
    (bit (v.rd (Reg.schJobCfg p)) 0 = true → exec (.partitionAbort t p ag) s = .next ((left.foldl (fun s n =>
      s.bump (Reg.schClientFaults (bits (leField (s.load (s.jobDa p n) 64) 4 1) 5 0)) 63 32 1) w).setJob p
        { y with head := y.tail, placed := [] })))

/-- CONTEXT_SWITCH_IN (R50, R374, R375, R379), CONTEXT_SWAP and CONTEXT_SWAP_IN (R376, R377, R383); the two stages of a swap are assumption
log 64. -/
def Obligations.EnginesPassBetweenContexts : Prop :=
  (∀ (s w : State) (t : Nat) (e : Fin 96) (ue : Option (Fin 262144)), s.TurnAt t tickPlace 5 w →
    let u := w.fallDue.tickDue
    (let takes := fun (w : State) (k : Nat) =>
       let w := w.takeEngine e k
       let w := w.setCtx e k { w.ctx e k with accSaved := false }
       ((w.nextTiles e (w.ctx e k).slot).landAll e k).takeRemoteErr e k
     (u.leaving e = true ∨ u.nextHolder e = none → exec (.contextSwitchIn t e) s = .next u) ∧
     ∀ k, u.leaving e = false → u.nextHolder e = some k →
       ((u.ctx e k).running = true → exec (.contextSwitchIn t e) s = .next u) ∧
       ((u.ctx e k).running = false → u.runner e = none → exec (.contextSwitchIn t e) s = .next (takes u k)) ∧
       (∀ r, (u.ctx e k).running = false → u.runner e = some r →
         ((∃ o ∈ (u.ctxQueue e r).ops, needsEngine (Desc.op o.desc) = true) → exec (.contextSwitchIn t e) s = .next u) ∧
         ((∀ o ∈ (u.ctxQueue e r).ops, needsEngine (Desc.op o.desc) = false) →
           exec (.contextSwitchIn t e) s = .next (takes (u.preempt e r) k)))) ∧
    (let idle := u.inSlot e = false ∧ u.ctxsIn e .restoring = [] ∧
       (u.ctxsIn e .resident).any (fun k => decide (u.blockCause e k = 0)) = false
     (¬ idle → exec (.contextSwap t e ue) s = .next u) ∧
     (u.swapIncoming e = none → exec (.contextSwap t e ue) s = .next u) ∧
     (∀ k, idle → u.swapIncoming e = some k →
       (∀ q, u.freeSlot e = some q →
         exec (.contextSwap t e ue) s =
           .next ((u.setCtx e k { u.ctx e k with place := .restoring, slot := q }).bump Reg.schPreemptCount 63 32 1)) ∧
       (u.freeSlot e = none → u.swapVictim e k = none → exec (.contextSwap t e ue) s = .next u) ∧
       (∀ v, u.freeSlot e = none → u.swapVictim e k = some v →
         let w := (u.leaveSlot e v .saving).bump Reg.schPreemptCount 63 32 1
         (exec (.contextSwap t e none) s =
           .next (w.setCtx e k { w.ctx e k with place := .restoring, slot := (u.ctx e v).slot })) ∧
         ∀ i : Fin 262144, let w := w.loseCtx e v (saveArea e v + i)
           exec (.contextSwap t e (some i)) s =
             .next (w.setCtx e k { w.ctx e k with place := .restoring, slot := (u.ctx e v).slot }))))) ∧
  (∀ (s u : State) (t : Nat) (e : Fin 96) (ue : Option (Fin 262144)), s.RunsAt t u →
    let w := (u.ctxsIn e .saving).foldl (fun s k => s.setCtx e k { s.ctx e k with place := .swapped }) u
    (w.ctxsIn e .restoring = [] → exec (.contextSwapIn t e ue) s = .next w) ∧
     ∀ k rest, w.ctxsIn e .restoring = k :: rest →
       (∀ i : Fin 262144, exec (.contextSwapIn t e (some i)) s = .next (w.loseCtx e k (saveArea e k + i))) ∧
       ((w.ctxQueue e k).state = .halted →
         exec (.contextSwapIn t e none) s = .next (w.setCtx e k { w.ctx e k with place := .swapped })) ∧
       ((w.ctxQueue e k).state ≠ .halted →
         exec (.contextSwapIn t e none) s = .next (w.enterSlot e k (w.ctx e k).slot)))

/-- REMOTE_RESPONSE (R379, R380, R391) and REMOTE_TAG_TIMEOUT (R380, R391, R417). -/
def Obligations.RemoteRequestsAreAnswered : Prop :=
  let others := fun (v u : State) (e k : Nat) => v.mem = u.mem ∧ v.queues = u.queues ∧
    ∀ e' k', k' < 16 → ¬ (e' = e ∧ k' = k) → v.ctx e' k' = u.ctx e' k'
  let kept := fun (u : State) (e k tag : Nat) => (u.ctx e k).tags.filter fun x => decide (x.tag ≠ tag)
  let failed := fun (v u : State) (e k tag : Nat) (r : RemoteTag) (f : OpFault) => others v u e k ∧
    v.ctx e k = if (u.ctx e k).remoteErr.isSome then { u.ctx e k with tags := kept u e k tag }
      else { u.ctx e k with tags := kept u e k tag, remoteErr := some f, errIssue := r.issue }
  (∀ (s u : State) (t : Nat) (tag : BitVec 24) (status : BitVec 16) (data : List Byte), s.TurnAt t (tagPlace tag.toNat) 0 u → u.Inv →
    (u.tagOwner tag.toNat = none → exec (.remoteResponse t tag status data) s = .next (u.bump Reg.ktfRemoteCount 63 32 1)) ∧
    ∀ (e k : Nat) (r : RemoteTag), u.tagOwner tag.toNat = some (e, k, r) → r.tag = tag.toNat → k < 16 →
      let c := u.ctx e k
      (status.toNat = 0 → c.running = true ∨ c.leftAt = some u.now →
        exec (.remoteResponse t tag status data) s =
          .next ((((u.releaseTag e k tag.toNat).landData e k r data).copyProgress e k r.issue).gatherResume e k r.issue)) ∧
      (status.toNat = 0 → c.running = false → c.leftAt ≠ some u.now →
        ∃ v : State, exec (.remoteResponse t tag status data) s = .next (v.bump Reg.schRemoteCount 31 0 1) ∧
          others v u e k ∧ v.ctx e k = { c with tags := kept u e k tag.toNat, landing := c.landing ++ [⟨r, data⟩] }) ∧
      (status.toNat ≠ 0 → c.running = false → ∃ v : State, exec (.remoteResponse t tag status data) s = .next v ∧
        failed v u e k tag.toNat r ⟨F.remoteError, r.da, status.toNat⟩)) ∧
  (∀ (s u : State) (t : Nat) (tag : BitVec 24), s.TurnAt t (tagPlace tag.toNat) 1 u → u.Inv →
    (u.tagOwner tag.toNat = none → exec (.remoteTagTimeout t tag) s = .next u) ∧
    ∀ (e k : Nat) (r : RemoteTag), u.tagOwner tag.toNat = some (e, k, r) → r.tag = tag.toNat → k < 16 →
      (u.now < r.issuedAt + us (u.fld Reg.ktfTimeout 15 0) → exec (.remoteTagTimeout t tag) s = .next u) ∧
      (r.issuedAt + us (u.fld Reg.ktfTimeout 15 0) ≤ u.now → (u.ctx e k).running = false →
        ∃ v : State, exec (.remoteTagTimeout t tag) s = .next v ∧ failed v u e k tag.toNat r ⟨F.remoteTimeout, r.da, 0⟩))

/-- JOB_PLACE (R384 to R387, R391; one entry a command is assumption log 64). -/
def Obligations.JobsArePlaced : Prop :=
  ∀ (s u : State) (t : Nat) (p : Fin 8), s.RunsAt t u →
    (bit (u.rd Reg.schCtrl) 0 = false ∨ bit (u.rd (Reg.schJobCfg p)) 0 = false ∨ (u.job p).halted = true →
      exec (.jobPlace t p) s = .next u) ∧
    (bit (u.rd Reg.schCtrl) 0 = true → bit (u.rd (Reg.schJobCfg p)) 0 = true → (u.job p).halted = false →
      let w := u.jobTail p
      let x := w.job p
      (x.halted = true ∨ x.fresh = true ∨ x.window = [] → exec (.jobPlace t p) s = .next w) ∧
      ∀ n rest, x.halted = false → x.fresh = false → x.window = n :: rest → w.memFault (w.jobDa p n) 64 = none →
        w.holdsBytes (w.jobDa p n) 64 = true →
        let b := w.load (w.jobDa p n) 64
        let j := jobOf b
        (leField b 0 4 ≠ n →
          exec (.jobPlace t p) s = .next (postFault ((w.setJob p { x with halted := true }).event Reg.schIntStatus 1)
            { code := F.queueSeq, cls := Class.contained, block := Blk.sch, part := p,
              payload := queueSeqPayload n (leField b 0 4) 2 0 0 0x7F 0 })) ∧
        (leField b 0 4 = n → jobBad b = true →
          let v := (w.jobRetire p n).bump (Reg.schClientFaults j.client) 31 0 1
          exec (.jobPlace t p) s = .next (postFault (v.event Reg.schIntStatus 0)
            { code := F.jobInvalid, cls := Class.contained, block := Blk.sch, part := p,
              payload := defaultPayload (v.jobDa p n) n 0 0 0 })) ∧
        (leField b 0 4 = n → jobBad b = false → w.depMet j = false ∨ w.clientReady p j.client = false → rest = [] →
          exec (.jobPlace t p) s = .next w) ∧
        (leField b 0 4 = n → jobBad b = false → w.depMet j = true → w.clientReady p j.client = true →
          ∀ e k : Nat, k < 16 → w.jobTarget p j = some (16 * e + k) →
            let y := w.inOrder (ctxPlace e k) 1
            let c := y.ctxRegs e k
            let size := 2 ^ bits c.qCfg 12 8
            let a := y.loadNat c.qTail 4
            let b := (a + 1) % 2 ^ 32
            let v := y.storeIfMem (c.qBase + a % size * 64) (jobCall a j)
            let v := if j.done = 0 then v else v.storeIfMem (c.qBase + b % size * 64) (jobSignal b j)
            let v := v.storeIfMem c.qTail (leBytes 4 (if j.done = 0 then b else b + 1))
            let r : JobRun := { client := j.client, prio := j.prio, phase := j.phase, hasDone := decide (j.done ≠ 0) }
            let d := v.ctx e k
            exec (.jobPlace t p) s =
              .next (((v.setCtx e k (if d.job.isNone then { d with job := some r } else { d with later := d.later ++ [r] })).jobRetire
                p n).bump (Reg.schClientJobs j.client) 31 0 1)))

/-- The rotating self-test (R388, R437 to R441, R462). -/
def Obligations.EnginesAreTestedInTurn : Prop :=
  ∀ (s u : State) (t : Nat) (e : Fin 96) (ues : List (Fin 16 × Fin 262144)) (items : BitVec 12), s.RunsAt t u →
    let errs := hatchErrs ues
    (let due := u.rotates = true ∧ u.rotationNext = some e.val ∧ (u.health.slotAt = 0 ∨ u.health.slotAt - 1 + us 100 ≤ u.now)
     (due → exec (.selftestLead t e) s = .next { u with leads := tabSet (fun _ => 0) u.leads e 1 }) ∧
     (¬ due → exec (.selftestLead t e) s = .next u)) ∧
    (u.slotKind e = none → exec (.selftestSlotStart t e ues) s = .next u) ∧
    (∀ k, u.slotKind e = some k →
      let x : TestSlot := { engine := e, kind := k, start := u.now }
      let w : State := { u with free := u.free + 1 }
      let w := if k = .rotation then { w with health := { w.health with slotAt := w.now + 1 } } else w
      let w := w.setSlot e (some x)
      (w.canWithdraw e = false → exec (.selftestSlotStart t e ues) s = .next w) ∧
      (w.canWithdraw e = true → exec (.selftestSlotStart t e ues) s = .next (w.withdraw e x errs))) ∧
    (u.slotOf e = none → exec (.selftestStart t e) s = .next u ∧ exec (.selftestEnd t e items ues) s = .next u ∧
      exec (.selftestAbandon t e) s = .next u) ∧
    ∀ x : TestSlot, u.slotOf e = some x →
      (x.testing.isSome = true → exec (.selftestStart t e) s = .next u ∧ exec (.selftestAbandon t e) s = .next u) ∧
      (x.testing = none → exec (.selftestEnd t e items ues) s = .next u) ∧
      (x.testing = none → x.start + us 50 < u.now → exec (.selftestStart t e) s = .next u) ∧
      (x.testing = none → u.now ≤ x.start + us 50 → x.draining = false →
        exec (.selftestStart t e) s = .next (u.setSlot e (some { x with testing := some u.now }))) ∧
      (x.testing = none → u.now ≤ x.start + us 50 → x.draining = true → u.canWithdraw e = false →
        exec (.selftestStart t e) s = .next u) ∧
      (x.testing = none → u.now ≤ x.start + us 50 → x.draining = true → u.canWithdraw e = true →
        let w := u.withdraw e x []
        ∀ y, w.slotOf e = some y → y.draining = false →
          exec (.selftestStart t e) s = .next (w.setSlot e (some { y with testing := some w.now }))) ∧
      (x.testing = none → x.start + us 50 ≤ u.now →
        let w := ((u.slotOver e x.kind).readmit e []).bump Reg.schWithdraw 63 32 1
        let w := (w.event Reg.schIntStatus 2).event Reg.hltIntStatus 1
        exec (.selftestAbandon t e) s = .next (w.selfTestRecord e 2 x.kind Class.info 0 (w.engHealth e).lastPass)) ∧
      (x.testing.isSome = true →
        let w := (u.setEng e { u.eng e with station := none, reseed := true }).wr (Reg.engStation e) 0
        let h := w.engHealth e
        (items.toNat ≠ 0 →
          let v := ((w.bump Reg.hltStCount 47 24 1).setEngHealth e { h with passes := 0, failed := h.failed + 1 }).slotOver e x.kind
          let v := v.setEngineOut e true
          let v := { v with mirrors := v.mirrors.filter fun i => !decide ((v.standinOf i).map (fun (y : Nat × Nat × Nat) => y.1) = some e.val) }
          exec (.selftestEnd t e items ues) s =
            .next (((v.showSlot.event Reg.hltIntStatus 0).selfTestRecord e 1 x.kind Class.degraded items.toNat h.lastPass).serveRequest e
              false items.toNat)) ∧
        (items.toNat = 0 →
          let n := if w.engineOut e then h.passes + 1 else 0
          let v := ((w.bump Reg.hltStCount 23 0 1).setEngHealth e { h with lastPass := w.timeNs, passes := n }).slotOver e x.kind
          (v.engineOut e = false → exec (.selftestEnd t e items ues) s = .next ((v.readmit e errs).serveRequest e true 0)) ∧
          (v.engineOut e = true → ¬ (2 ≤ n ∧ h.failed < 3) → exec (.selftestEnd t e items ues) s = .next (v.serveRequest e true 0)) ∧
          (v.engineOut e = true → 2 ≤ n → h.failed < 3 →
            exec (.selftestEnd t e items ues) s = .next (((v.setEngineOut e false).readmit e errs).serveRequest e true 0))))

/-- The Pulse stand-in (R389, R390, R442); its stages are assumption log 64. -/
def Obligations.StandInsTakePulseTriggers : Prop :=
  (∀ (s u : State) (t : Nat) (i : Fin 4) (v : BitVec 64) (ag : Agent), s.WritesAt t ag (Reg.schStandin i) u →
    let w := v.toNat &&& 0x1ffffffffff
    let bad := bits w 14 8 = bits w 7 1 ∨ u.reservedEngine (bits w 14 8) = true ∨ 1536 < bits w 29 19 + bits w 40 30
    u.mayWrite ag (Reg.schStandin i) = true → bits v.toNat 40 30 ≠ 0 →
    (bad → exec (.standinWrite t i v ag) s = .next (u.regAccess (Reg.schStandin i))) ∧
    (¬ bad → exec (.standinWrite t i v ag) s = .next (u.wr (Reg.schStandin i) w))) ∧
  (∀ (s u : State) (t : Nat) (i : Fin 4) (ues : List (Fin 16 × Fin 262144)), s.RunsAt t u →
    (u.standinOf i = none → exec (.standinPrepare t i) s = .next u ∧ exec (.standinHandover t i) s = .next u ∧
      exec (.standinFifoDrained t i ues) s = .next u) ∧
    ∀ er es k, u.standinOf i = some (er, es, k) →
      (i.val ∈ u.mirrors ∨ u.engineOut er = true → exec (.standinPrepare t i) s = .next u) ∧
      (i.val ∉ u.mirrors → u.engineOut er = false →
        let first := u.fld (Reg.schStandin i) 29 19
        let n := u.fld (Reg.schStandin i) 40 30
        let w := u.store (shelfDa es (first * 4096)) (u.load (shelfDa er (first * 4096)) (n * 4096))
        let w := (List.range n).foldl (fun w b => w.setTag es (first + b) (w.tag er (first + b))) w
        exec (.standinPrepare t i) s = .next (({ w with mirrors := w.mirrors ++ [i.val] }).pinStandin es k)) ∧
      (i.val ∈ u.moved →
        (u.engineOut er = true ∨ (u.slotOf er).isSome = true → exec (.standinHandover t i) s = .next u) ∧
        (u.engineOut er = false → u.slotOf er = none →
          let w := u.moveHeld es er (u.pulseQueue er)
          exec (.standinHandover t i) s =
            .next { w with moved := w.moved.filter (· ≠ i.val), returning := w.returning ++ [i.val] }) ∧
        (u.slotOf er = none → exec (.standinFifoDrained t i ues) s = .next u) ∧
        ∀ x, u.slotOf er = some x →
          (x.draining = true → u.fifosEmpty er = true →
            exec (.standinFifoDrained t i ues) s = .next (u.withdraw er x (hatchErrs ues))) ∧
          (x.draining = false ∨ u.fifosEmpty er = false → exec (.standinFifoDrained t i ues) s = .next u)) ∧
      (i.val ∉ u.moved → i.val ∈ u.mirrors → i.val ∉ u.returning →
        let w := u.moveHeld er es (u.ctx es k).slot
        exec (.standinHandover t i) s = .next { w with moved := w.moved ++ [i.val] } ∧
        exec (.standinFifoDrained t i ues) s = .next u) ∧
      (i.val ∉ u.moved → i.val ∈ u.returning → u.fifosEmpty es = true →
        let w := u.setCtx es k { u.ctx es k with cfg := putBits (u.ctx es k).cfg 7 7 0, standin := false }
        exec (.standinFifoDrained t i ues) s =
          .next { w with mirrors := w.mirrors.filter (· ≠ i.val), returning := w.returning.filter (· ≠ i.val) }))

/-- Packets in sequence (R396, R402, R409, R415, R418, R428); that a malformed response is counted in KTF_REMOTE_COUNT is assumption log 65. -/
def Obligations.PacketsAreTakenInSequence : Prop :=
  ∀ (s u : State) (t : Nat) (n : Fin 8) (m : Fin 9) (p : Packet), s.RunsAt t u →
    (let out := fun (k : Nat) (c : Instr) =>
       (u.linkState k ≠ 2 → exec c s = .next u) ∧
       (p.seq % 4096 ≠ ((u.link k).rx + 1) % 4096 →
         (((u.link k).rx + 4096 - p.seq % 4096) % 4096 < 2048 → exec c s = .next u) ∧
         (u.linkState k = 2 → ¬ ((u.link k).rx + 4096 - p.seq % 4096) % 4096 < 2048 → exec c s = .next (u.sendNak k)))
     (∀ k, out n (fabricRequest k t n p)) ∧ (∀ k, out n (fabricResponse k t n p)) ∧ out n (.fabricTick t n p) ∧
     out m (.idle t m p) ∧ out m (.nak t m p)) ∧
    (∀ (k : Fin 4) (v : State), let q := { p with type := k.val + 1 }
      u.Takes n q v →
      exec (fabricRequest k t n p) s = .next (if p.dst = v.moduleId then (v.servePacket n q).consume n q else v.forward n q)) ∧
    (∀ (k : Fin 3) (v : State), let q := { p with type := k.val + 8 }
      u.Takes n q v →
      exec (fabricResponse k t n p) s = .next (if p.dst ≠ v.moduleId then v.forward n q
        else if responseOk q then ((v.inOrder (tagPlace p.tag) 0).answerTag p.tag p.status p.payload).consume n q
        else (v.bump Reg.ktfRemoteCount 63 32 1).consume n q)) ∧
    (∀ v : State, let q := { p with type := 0x10 }
      u.Takes n q v →
      let master := leField p.payload 12 2 % 8192
      let count := leField p.payload 0 8
      let good := bit (v.rd Reg.ktfTickCfg) 16 = true ∧ v.fld Reg.ktfTickCfg 12 0 = master ∧ v.tick.fabSeen ≠ some count
      (¬ good → exec (.fabricTick t n p) s =
        .next (((v.bump Reg.ktfTickCount 63 32 1).event Reg.ktfIntStatus 6).consume n q)) ∧
      (good →
        let w := (v.bump Reg.ktfTickCount 31 0 1).forwardTick master p.payload
        exec (.fabricTick t n p) s =
          .next ((({ w with tick := { w.tick with heardFab := w.now + 1, fabSeen := some count } }).followTick p.hops).consume n q))) ∧
    (∀ v : State, (u.Takes m { p with type := 0x11 } v → exec (.idle t m p) s = .next (v.consume m { p with type := 0x11 })) ∧
      (u.Takes m { p with type := 0x11, nak := true } v →
        exec (.nak t m p) s = .next (v.consume m { p with type := 0x11, nak := true }))) ∧
    (u.linkState m = 2 → exec (.packetCrcFail t m) s = .next ((u.bump (replayReg m) 63 32 1).sendNak m)) ∧
    (u.linkState m ≠ 2 → exec (.packetCrcFail t m) s = .next u)

/-- Requests at their destination, in the order of R414. -/
def Obligations.RequestsAreServedInOrder : Prop :=
  ∀ (s u v : State) (t : Nat) (n : Fin 8) (p : Packet) (k : Fin 4), s.RunsAt t u →
    let q := { p with type := k.val + 1 }
    u.Takes n q v → p.dst = v.moduleId →
    let refused := fun (part code : Nat) =>
      exec (fabricRequest k t n p) s =
        .next (((v.noteReject n part p.addr code).sendOwn (q.response v.moduleId code [])).consume n q)
    (packetAct q = none → refused 0x80 F.fabricPacket) ∧
    ∀ act, packetAct q = some act →
      let fault := v.offsetFault p.addr (packetSpan q act)
      let window := (List.range 8).find? fun i => v.windowAdmits i q
      (fault = some F.addrRange → refused 0x80 F.addrRange) ∧
      (fault ≠ some F.addrRange → window = none → refused 0x80 F.fabricAccess) ∧
      ∀ i, fault ≠ some F.addrRange → window = some i →
        let part := v.fld (Reg.ktfExportCfg i) 3 1
        (∀ code, fault = some code → refused part code) ∧
        (fault = none → exec (fabricRequest k t n p) s =
          .next ((v.request { req := ⟨2 ^ 64 + p.src * 2 ^ 24 + p.tag, .fabric, Fin.ofNat 8 part, p.addr, packetSpan q act⟩,
                              act := act, pkt := some (n.val, q) }).consume n q))

/-- The states of a link (R394, R396 to R401, R404, R417, R427, R429); the bytes of a HELLO, and that one arrives as a command that carries
what the neighbour shows, are assumption log 65. -/
def Obligations.LinksTrainAndFail : Prop :=
  let trains := fun (w : State) (k : Nat) =>
    let x := w.link k
    let v := (w.setLink k (if w.linkState k = 2 then { x with lanes := 15, bad := [] }
      else { x with lanes := 15, bad := [], matched := false, tx := 4095, rx := 4095, unacked := [] })).setLinkState k 1
    if k = dulis then v else v.emit (.packet k (v.helloOf k))
  let up := fun (w : State) (k : Nat) =>
    let x := w.link k
    let y : LinkSt := if x.matched = false then { x.granted with matched := true } else x
    let v := (w.setLink k y).setLinkState k 2
    (if x.matched = false then v else v.replay k).drainLink k (y.queue.length + 1)
  (∀ (s u : State) (t : Nat) (ag : Agent), s.WritesAt t ag Reg.ktfCtrl u → u.mayWrite ag Reg.ktfCtrl = true →
    let was := bit (u.rd Reg.ktfCtrl) 0
    (was = false → exec (.ktfEnable t true ag) s =
      .next ((List.range 8).foldl (fun w k => if w.role k = 0 then w else trains w k) (u.wr Reg.ktfCtrl 1))) ∧
    (was = true → exec (.ktfEnable t false ag) s =
      .next ((List.range 8).foldl (fun w k => (w.setLink k {}).setLinkState k 0) (u.wr Reg.ktfCtrl 0))) ∧
    (was = true → exec (.ktfEnable t true ag) s = .next (u.wr Reg.ktfCtrl 1)) ∧
    (was = false → exec (.ktfEnable t false ag) s = .next (u.wr Reg.ktfCtrl 0))) ∧
  (∀ (s u : State) (t : Nat) (n : Fin 8) (ag : Agent), s.WritesAt t ag (Reg.ktfPortCtrl n) u → u.mayWrite ag (Reg.ktfPortCtrl n) = true →
    (bit (u.rd Reg.ktfCtrl) 0 = true → u.role n ≠ 0 → exec (.retrain t n ag) s = .next (trains u n)) ∧
    (bit (u.rd Reg.ktfCtrl) 0 = false ∨ u.role n = 0 → exec (.retrain t n ag) s = .next u)) ∧
  (∀ (s u : State) (t : Nat) (n : Fin 8) (m : Fin 9), s.RunsAt t u →
    (∀ (id : BitVec 13) (peer : Fin 8),
      (u.linkState n ≠ 1 → exec (.hello t n id peer) s = .next u) ∧
      (u.linkState n = 1 →
        let w := u.wr (Reg.ktfPortNeighbor n) (id.toNat + peer * 2 ^ 16)
        ((id.toNat, peer.val) = w.requiredPeer n → exec (.hello t n id peer) s = .next (up w n)) ∧
        ((id.toNat, peer.val) ≠ w.requiredPeer n →
          let v := (w.setLinkState n 4).event Reg.ktfIntStatus 2
          exec (.hello t n id peer) s = .next (postFault v
            { code := F.fabricTopo, cls := Class.degraded, block := Blk.ktf, unit := n,
              payload := defaultPayload 0 (v.moduleId + id.toNat * 2 ^ 16) 0 0 0 })))) ∧
    (∀ (lane : Fin 4) (good bad : Nat) (lost : Bool),
      let live := (u.linkState m = 1 ∨ u.linkState m = 2) ∧ (u.link m).lanes.testBit lane = true
      let w := (u.bump (fecReg m) 31 0 good).bump (fecReg m) 63 32 bad
      let recent := ((w.link m).bad.filter fun x => decide (w.now < x.2.1 + us 1000)) ++ [(lane.val, w.now, bad)]
      let w := w.setLink m { w.link m with bad := recent }
      let count := ((recent.filter fun x => decide (x.1 = lane.val)).map (·.2.2)).foldl (· + ·) 0
      let lanes := (w.link m).lanes &&& (15 ^^^ 2 ^ lane.val)
      let v := (w.setLink m { w.link m with lanes := lanes, bad := (w.link m).bad.filter fun x => decide (x.1 ≠ lane.val) }).linkRecord m 1 lane
        (laneCount lanes)
      (¬ live → exec (.laneRemove t m lane good bad lost) s = .next u) ∧
      (live → lost = false → count < w.fld Reg.ktfLaneThresh 7 0 → exec (.laneRemove t m lane good bad lost) s = .next w) ∧
      (live → lost = true ∨ w.fld Reg.ktfLaneThresh 7 0 ≤ count →
        (lanes ≠ 0 → exec (.laneRemove t m lane good bad lost) s = .next (v.setLinkState m 1)) ∧
        (lanes = 0 →
          let y := v.setLink m { v.link m with lanes := 0, unacked := [], queue := [], matched := false }
          let y := (y.setLinkState m 3).linkRecord m 2 lane 0
          exec (.laneRemove t m lane good bad lost) s =
            .next (if m.val = dulis then y.atticLost else (v.link m).queue.foldl (fun w q => w.reroute q) y)))) ∧
    (u.linkState n = 1 → (u.link n).matched = true → exec (.linkRetrainDone t n.castSucc) s = .next (up u n)) ∧
    (u.linkState n ≠ 1 ∨ (u.link n).matched = false → exec (.linkRetrainDone t n.castSucc) s = .next u) ∧
    (u.linkState dulis = 2 → exec (.linkRetrainDone t 8) s = .next u) ∧
    (u.linkState dulis ≠ 2 →
      let w := up (if u.linkState dulis = 1 then u else trains u dulis) dulis
      let watched := (dedup (w.queues.flatMap fun x =>
        (if x.2.state = .disabled then [] else [w.rd (Reg.engQTailDa (x.1 / 4) (x.1 % 4))]) ++
          (x.2.ops.filter fun o => decide (Desc.op o.desc = Op.wait)).map fun o => Desc.arg o.desc 0)).filter
            fun a => decide (regionOf a = .attic)
      ((u.link dulis).matched = true → exec (.linkRetrainDone t 8) s = .next w) ∧
      ((u.link dulis).matched = false →
        exec (.linkRetrainDone t 8) s = .next (watched.foldl (fun w a => w.refetch (sectorOf a)) w))))

/-- Messages of the companion (R420 to R428, R517); a message that breaks its form is assumption log 65. -/
def Obligations.CompanionMessagesTakeEffect : Prop :=
  ∀ (s u v : State) (t da : Nat) (p : Packet), s.RunsAt t u →
    (u.Takes dulis p v →
      let done := fun w : State => (Host.Outcome.next (w.consume dulis p) : Host.Outcome State Fault Refusal)
      (v.sectorOfTag p.tag = none → exec (.dataS t p) s = done v ∧ exec (.dataE t p) s = done v) ∧
      (∀ n, v.sectorOfTag p.tag = some n →
        let v := v.inOrder (dulisPlace p.tag) 0
        (p.status ≠ 0 →
          let w := (v.noteAttic (sectorDa n) false).failSector n F.memUe
          exec (.dataS t p) s = done w ∧ exec (.dataE t p) s = done w) ∧
        (p.status = 0 →
          let held := fun st : AtticState =>
            ({ v with mem := tabSetList memDefault v.mem (sectorDa n) (fieldBytes p.payload 0 64) } : State).setSector n { st := st }
          let served := fun w : State => w.serveAttic.serveAtoms w.attic.atoms.length
          exec (.dataS t p) s = done (served (held .s)) ∧ exec (.dataE t p) s = done (served (held .e)))) ∧
      (v.attic.writes.find? (fun w => decide (w.tag = p.tag)) = none → exec (.wrAck t p) s = done v) ∧
      (∀ w, v.attic.writes.find? (fun w => decide (w.tag = p.tag)) = some w →
        let v := v.inOrder (dulisPlace p.tag) 0
        (p.status ≠ 0 → exec (.wrAck t p) s = done ((v.noteAttic w.da false).failWrite w F.memUe)) ∧
        (p.status = 0 → exec (.wrAck t p) s =
          done { v with attic := { v.attic with writes := v.attic.writes.filter fun x => decide (x.tag ≠ p.tag) } })) ∧
      (let n := v.sectorAt p.addr
       let v := v.inOrder (sectorPlace n) 1
       let x := v.sector n
       let told := fun (w : State) (op : Nat) => w.sendOn dulis { pkt := { type := 0x24, vc := 4, addr := p.addr, tag := p.tag, op := op } }
       exec (.snpInv t p) s = done ((told (v.setSector n { x with st := .i }) 0).refetch n) ∧
       (x.st = .i → exec (.snpShared t p) s = done (told (v.setSector n { x with st := .i }) 0)) ∧
       (x.st ≠ .i → exec (.snpShared t p) s = done (told (v.setSector n { x with st := .s }) 1)))) ∧
    (∀ k : Fin 3, let q := { p with type := 0x30 + k.val }
      u.Takes dulis p v →
      let done := fun w : State => exec (inboundRequest k t p) s = .next (w.consume dulis p)
      let open' := bit (v.rd Reg.atcCtrl) 1
      (inboundAct q = none → open' = true → done (v.inboundReply q F.fabricPacket [])) ∧
      (inboundAct q = none → open' = false → done (v.inboundRefuse q)) ∧
      ∀ act n, inboundAct q = some (act, n) →
        (regionOf p.addr ≠ .register → open' = false → done (v.inboundRefuse q)) ∧
        (regionOf p.addr = .register → act = .read → v.mayRead .companion p.addr = false → done (v.inboundRefuse q)) ∧
        (regionOf p.addr = .register → act = .read → v.mayRead .companion p.addr = true →
          let r := (v.inOrder p.addr readRank).readAt p.addr p.len
          done (r.2.inboundReply q 0 (leBytes p.len r.1))) ∧
        (∀ d, regionOf p.addr = .register → act = .write d → v.mayWrite .companion p.addr = false → done (v.inboundRefuse q)) ∧
        (∀ d, regionOf p.addr = .register → act = .write d → v.mayWrite .companion p.addr = true →
          done ((v.writeFrom .companion p.addr p.len (leNat d) false).inboundReply q 0 [])) ∧
        (∀ op mask d, regionOf p.addr = .register → act = .red op mask d →
          (v.mayWrite .companion p.addr = false → done (v.inboundRefuse q)) ∧
          (v.mayWrite .companion p.addr = true → done ((v.regAccess p.addr).inboundReply q 0 []))) ∧
        (∀ r, regionOf p.addr = .register → act = .atom r →
          (open' = false → done (v.inboundRefuse q)) ∧
          (open' = true → done ((v.noteAtomic p.addr F.atomicAlign).inboundReply q F.atomicAlign []))) ∧
        (∀ e b, regionOf p.addr = .shelf e b → open' = true →
          (v.memFault p.addr n ≠ none → done (v.inboundRefuse q)) ∧
          (v.memFault p.addr n = none → act = .read →
            (v.deadWord p.addr n = none → done (v.inboundReply q 0 (v.load p.addr n))) ∧
            (∀ a, v.deadWord p.addr n = some a → done ((v.noteDead a).inboundReply q F.memUe []))) ∧
          (∀ d, v.memFault p.addr n = none → act = .write d → done ((v.windowStore p.addr d).inboundReply q 0 [])) ∧
          (∀ op mask d, v.memFault p.addr n = none → act = .red op mask d →
            done ((v.windowStore p.addr (op.apply mask (v.load p.addr d.length) d)).inboundReply q 0 [])) ∧
          (∀ r, v.memFault p.addr n = none → act = .atom r →
            done ((v.noteAtomic p.addr F.atomicAlign).inboundReply q F.atomicAlign []))) ∧
        (regionOf p.addr = .pantry ∨ regionOf p.addr = .cellar → open' = true →
          ((v.memFault p.addr n).map (·.1) = some F.addrRange → done (v.inboundRefuse q)) ∧
          ((v.memFault p.addr n).map (·.1) ≠ some F.addrRange → (∀ r, act = .atom r → p.addr % n = 0) →
            done (v.request { req := ⟨2 ^ 65 + p.tag, .companion, Fin.ofNat 8 (v.fld Reg.atcInboundPart 2 0), p.addr, n⟩,
                              act := act, pkt := some (dulis, q) })) ∧
          (∀ r, (v.memFault p.addr n).map (·.1) ≠ some F.addrRange → act = .atom r → p.addr % n ≠ 0 →
            done ((v.noteAtomic p.addr F.atomicAlign).inboundReply q F.atomicAlign [])))) ∧
    (let limit := us (u.fld Reg.atcTimeout 9 0)
     let n := sectorOf da
     (u.attic.writes = [] → (u.sector n).req = none → exec (.atticTimeout t da) s = .next u) ∧
     (∀ tag own since, (u.sector n).req = some (tag, own, since) → atticBase ≤ da → since + limit ≤ u.now →
       let w := ((u.inOrder (dulisPlace tag) 1).noteAttic (sectorDa n) true).failSector n F.memTimeout
       w.attic.writes = [] → exec (.atticTimeout t da) s = .next w) ∧
     (∀ w, (u.sector n).req = none →
       u.attic.writes.find? (fun w => decide (w.da / 64 = da / 64) && decide (w.since + limit ≤ u.now)) = some w →
       exec (.atticTimeout t da) s = .next (((u.inOrder (dulisPlace w.tag) 1).noteAttic w.da true).failWrite w F.memTimeout)))

/-- Temperature, rails and monitors (R445 to R449); when a droop may end, and which sensors are neighbours, are assumption log 64. -/
def Obligations.TemperatureAndRailsAreWatched : Prop :=
  ∀ (s u : State) (t : Nat) (readings : List (BitVec 16)) (die : Fin 4) (rail : Fin 32) (mv watts : BitVec 16) (i : Fin 32)
    (n : BitVec 32), s.RunsAt t u →
    (let all := List.range 128
     let a := all.foldl (fun (w : State) (i : Nat) => w.setFld (Reg.hltTemp i) 15 0 ((readings.map (·.toNat)).getD i 0)) u
     let b := all.foldl (fun (w : State) (i : Nat) => w.crossCheck i) a
     let c := all.foldl (fun (w : State) (i : Nat) => w.tripCheck i) b
     let d := ((List.range 4).foldl (fun (w : State) (d : Nat) => w.dieSample d) c).applyThermal
     (d.health.requests.find? (fun r => decide (r.1 = 1)) = none ∨ d.slackFits 50 = false →
       exec (.sensorSample t readings) s = .next d) ∧
     (∀ r, d.health.requests.find? (fun r => decide (r.1 = 1)) = some r → d.slackFits 50 = true →
       exec (.sensorSample t readings) s = .next ((d.takeRequest 1 r.2).postResult 1 r.2
         (decide (all.filter d.sensorFailed = all.filter u.sensorFailed)) 0 0))) ∧
    (let x := u.dieSt die
     (∀ c, x.downAt = some c → c + us 100 ≤ u.now →
       exec (.thermalCapStep t die) s = .next (u.capDown die ((u.hottest die).getD 0)).applyThermal) ∧
     (∀ c, x.downAt = none → x.upAt = some c → c + us 1000 ≤ u.now →
       exec (.thermalCapStep t die) s = .next (u.setDieSt die { x with cap := min 8 (x.cap + 1), upAt := some u.now }).applyThermal) ∧
     ((x.downAt = none → x.upAt = none ∨ x.upAt.any (fun c => decide (u.now < c + us 1000)) = true) →
      (∀ c, x.downAt = some c → u.now < c + us 100) → exec (.thermalCapStep t die) s = .next u.applyThermal)) ∧
    (let x := u.railSt rail
     let w := ((u.bump (Reg.hltDroop rail) 31 0 1).noteLowest rail mv.toNat).event Reg.hltIntStatus 5
     let low := mv.toNat * 100 ≤ railNominal rail * (100 - u.fld Reg.hltDroopCfg 3 0)
     (¬ low → exec (.droop t rail mv) s = .next u) ∧
     (low → 0 < x.noted → u.now < x.noted - 1 + us 1000 →
       exec (.droop t rail mv) s = .next (w.setRailSt rail { droop := some u.now, noted := x.noted }).applyDroop) ∧
     (low → ¬ (0 < x.noted ∧ u.now < x.noted - 1 + us 1000) →
       let v := (w.setRailSt rail { droop := some u.now, noted := u.now + 1 }).applyDroop
       exec (.droop t rail mv) s = .next (v.powerRecord 1 Class.info rail (v.fld (Reg.hltDroop rail) 47 32))) ∧
     (∀ c, x.droop = some c → c + 256 + us 10 ≤ u.now →
       exec (.droopRecover t rail) s = .next (u.setRailSt rail { x with droop := none }).applyDroop) ∧
     (x.droop = none ∨ x.droop.any (fun c => decide (u.now < c + 256 + us 10)) = true → exec (.droopRecover t rail) s = .next u)) ∧
    (let w := (u.noteLowest rail mv.toNat).setBit (Reg.hltDroop rail) 48 true
     (railNominal rail * 9 ≤ mv.toNat * 10 ∨ u.power.shutting.isSome = true → exec (.undervolt t rail mv) s = .next u) ∧
     (mv.toNat * 10 < railNominal rail * 9 → u.power.shutting = none →
       exec (.undervolt t rail mv) s =
         .next ((w.powerRecord 2 Class.fatal rail (w.fld (Reg.hltDroop rail) 47 32)).beginShutdown 2 rail))) ∧
    (let slow := (List.range 96).all fun e => decide ((u.eng e).duty = 1)
     (watts.toNat ≤ u.fld Reg.pwrCapFuse 15 0 ∨ u.power.shutting.isSome = true ∨ slow = false →
       exec (.overcap t watts) s = .next u) ∧
     (u.fld Reg.pwrCapFuse 15 0 < watts.toNat → u.power.shutting = none → slow = true →
       exec (.overcap t watts) s = .next ((u.powerRecord 3 Class.fatal 0 watts.toNat).beginShutdown 3 0))) ∧
    (let old := u.fld (Reg.hltProc i) 63 32
     exec (.procMonitorSample t i n) s =
       .next (u.wr (Reg.hltProc i) (n.toNat + (if old = 0 then n.toNat else min old n.toNat) * 2 ^ 32)))

/-- Fault records (R11, R450, R453, R454, R457, R458, R460, R461, R464). -/
def Obligations.FaultRecordsAreKept : Prop :=
  (∀ (u : State) (r : FaultRec), u.Inv → r.cls = Class.info ∨ r.cls = Class.contained →
    let v := postFault u r
    let size := 2 ^ u.fld Reg.fltCtrl 12 8
    let tail := u.fld Reg.fltRingTail 31 0
    let slot := u.rd Reg.fltRingDa + tail % size * 64
    let full := (size : Int) ≤ ahead32 tail (u.fld Reg.fltRingHead 31 0)
    let on := bit (u.rd Reg.fltCtrl) 0
    slot < atticBase →
    v.flt.seq = (u.flt.seq + 1) % 2 ^ 32 ∧ v.flt.posted = (u.postCycle r, r.block * 65536 + r.unit) ∧
    (on = false → v.mem = u.mem ∧ v.flt.lossy = u.flt.lossy) ∧
    (on = true → full → v.mem = u.mem ∧ v.flt.lossy = true) ∧
    (on = true → ¬ full →
      v.mem = (u.store slot (recordBytes { u with now := u.postCycle r } r u.flt.lossy false)).mem ∧ v.flt.lossy = false)) ∧
  (∀ (s u : State) (t : Nat) (ag : Agent) (code : BitVec 16), s.WritesAt t ag Reg.fltInject u → u.mayWrite ag Reg.fltInject = true →
    (codeKnown code.toNat = true → exec (.fltInject t code ag) s =
      .next (postFault u { code := code.toNat, cls := codeClass code.toNat, block := Blk.flt, injected := true })) ∧
    (codeKnown code.toNat = false → exec (.fltInject t code ag) s = .next (u.regReserved Reg.fltInject))) ∧
  (∀ (s u : State) (t : Nat) (ag : Agent) (v : BitVec 32), s.WritesAt t ag Reg.fltRingHead u → u.mayWrite ag Reg.fltRingHead = true →
    (ahead32 v.toNat (u.fld Reg.fltRingTail 31 0) ≤ 0 →
      exec (.fltRingHeadWrite t v ag) s = .next (u.wr Reg.fltRingHead v.toNat)) ∧
    (0 < ahead32 v.toNat (u.fld Reg.fltRingTail 31 0) →
      exec (.fltRingHeadWrite t v ag) s = .next (u.regAccess Reg.fltRingHead))) ∧
  (∀ (s u : State) (t : Nat) (ag : Agent) (v : BitVec 5), s.WritesAt t ag Reg.fltAlertStatus u → u.mayWrite ag Reg.fltAlertStatus = true →
    exec (.alertStatusClear t v ag) s =
      .next (u.wr Reg.fltAlertStatus (w1c (u.rd Reg.fltAlertStatus) v.toNat 0x1f (u.setInCycle Reg.fltAlertStatus)))) ∧
  (∀ (s u : State) (t : Nat), s.RunsAt t u →
    (∀ fail, u.logTurn = false → u.logReady = true → exec (.norLogProgram t fail) s = .next u.deferItem) ∧
    (∀ fail, u.logReady = false → u.eraseDue = none → exec (.norLogProgram t fail) s = .next u) ∧
    (∀ fail n, u.logReady = false → u.eraseDue = some n →
      (u.slackNow = false → exec (.norLogProgram t fail) s = .next u.deferItem) ∧
      (u.slackNow = true → exec (.norLogProgram t fail) s = .next (u.takeSlack.eraseNext n fail))) ∧
    (∀ r, u.logTurn = true →
      let w := if u.fatalWaits then u else u.takeSlack
      w.nextLogged = some r → w.fld Reg.fltNorCfg 7 0 ≠ 0 →
      let first := w.fld Reg.fltNorCfg 31 8
      let count := w.fld Reg.fltNorCfg 7 0
      let l := w.persist.log
      (let x := w.logAppend l first count 0x4C46 (leField r 24 4) r
       exec (.norLogProgram t false) s = .next (({ x.1 with
         persist := { x.1.persist with log := x.2 }
         flt := { x.1.flt with norQueue := x.1.flt.norQueue.erase r } } : State).showFaultLog 1)) ∧
      (first ≤ l.sector → l.sector < first + count →
        let v := ({ w with persist := { w.persist with
          log := ({ l with skipped := l.sector :: l.skipped } : NorLog).onward first count } } : State).showFaultLog 0
        exec (.norLogProgram t true) s = .next (postFault v
          { code := F.norLog, cls := Class.degraded, block := Blk.flt,
            payload := (if l.used ≠ 0 ∨ l.ahead = some l.sector then 1 else 2) + l.sector * 2 ^ 8 }))) ∧
    (let n := u.fld Reg.fltNorCfg 7 0
     (n = 0 ∨ u.now < u.flt.norTokensAt + us 8000000 / n → exec (.norLogTokenRefill t) s = .next u) ∧
     (n ≠ 0 → u.flt.norTokensAt + us 8000000 / n ≤ u.now → exec (.norLogTokenRefill t) s =
       .next { u with flt := { u.flt with norTokens := min 512 (u.flt.norTokens + 8), norTokensAt := u.now } })))

/-- Units, requests, full-rate mode, lockstep and telemetry (R436, R443, R444, R455, R459); the choices are assumption log 64. -/
def Obligations.UnitsRequestsAndTelemetry : Prop :=
  (∀ (s u : State) (t : Nat), s.RunsAt t u →
    (∀ (x : CheckedUnit) (cause st : BitVec 8) (da : BitVec 64), x.site.1 ≠ Blk.eng →
      let w := { u with flt := { u.flt with checks := (x.site.1 * 65536 + x.site.2, u.now) :: u.flt.checks } }
      let record := fun cls : Nat => postFault w
        { code := F.ctlCheck, cls := cls, block := x.site.1, unit := x.site.2,
          payload := cause.toNat + st.toNat * 2 ^ 8 + da.toNat * 2 ^ 16 }
      (w.recentChecks x < w.fld Reg.hltFailThresh 7 0 →
        exec (.unitOutOfService t x cause st da) s = .next ((record Class.contained).checkedPicture x)) ∧
      (w.fld Reg.hltFailThresh 7 0 ≤ w.recentChecks x →
        exec (.unitOutOfService t x cause st da) s =
          .next (((record (if x.vital then Class.fatal else Class.degraded)).checkedPicture x).takeOut x))) ∧
    (∀ (e : Fin 96) (cause st : BitVec 8) (da : BitVec 64),
      (u.fld Reg.hltFailThresh 7 0 ≤ u.recentChecks (.engine e) → u.engineOut e = false → u.health.retest.contains e.val = false →
        exec (.unitOutOfService t (.engine e) cause st da) s =
          .next { u with health := { u.health with retest := u.health.retest ++ [e.val] } }) ∧
      (u.recentChecks (.engine e) < u.fld Reg.hltFailThresh 7 0 ∨ u.engineOut e = true ∨ u.health.retest.contains e.val = true →
        exec (.unitOutOfService t (.engine e) cause st da) s = .next u)) ∧
    (u.health.fullSince = none → exec (.fullrateExpired t) s = .next u) ∧
    (∀ c, u.health.fullSince = some c →
      let limit := us (u.fld Reg.hltStCtrl 27 16 * 1000000)
      (u.now < c + limit → exec (.fullrateExpired t) s = .next u) ∧
      (c + limit ≤ u.now → exec (.fullrateExpired t) s =
        .next ((({ u with health := { u.health with fullSince := none } } : State).setBit Reg.hltStStatus 16 false).event
          Reg.hltIntStatus 2))) ∧
    (∀ pc : BitVec 64,
      let second := u.health.standby || u.health.mismatch.isSome
      exec (.lockstepMismatch t pc) s =
        .next (postFault { u with health := { u.health with mismatch := some pc.toNat } }
          { code := F.stewardLockstep, cls := if second then Class.fatal else Class.degraded, block := Blk.hlt,
            payload := (if second then 2 else 1) + pc.toNat * 2 ^ 8 })) ∧
    (u.health.mismatch.isSome = true → u.health.standby = false →
      exec (.stewardFailover t) s = .next { u with health := { u.health with mismatch := none, standby := true } }) ∧
    (u.health.mismatch = none ∨ u.health.standby = true → exec (.stewardFailover t) s = .next u) ∧
    (u.telDue = false → exec (.telemetryRecord t) s = .next u) ∧
    (u.telDue = true →
      let full := decide (64 ≤ u.health.tel.length)
      let v := if full then (u.bump Reg.hltTelState 63 32 1).event Reg.hltIntStatus 6 else u
      let v := { v with health := { v.health with telDropped := full || u.health.telDropped } }
      let w := { v with
        health := { v.health with
          tel := (if full then u.health.tel.drop 1 else u.health.tel) ++ [v.telRecord]
          telSeq := (v.health.telSeq + 1) % 2 ^ 32
          telDropped := false
          telBase := v.telCounters
          telAt := v.now }
        power := { v.power with samples := 0, sumPower := 0, sumVolts := 0, peak := 0 } }
      let w := w.setFld Reg.hltTelState 31 0 w.health.telSeq
      exec (.telemetryRecord t) s = .next (if w.slackNow then w.takeSlack.telFlush else w.deferItem))) ∧
  (∀ (s u : State) (t : Nat) (ag : Agent) (e : Fin 96) (p : Fin 192) (ch : Fin 256) (c : Instr) (kind target : Nat),
    s.WritesAt t ag Reg.hltStReq u → u.mayWrite ag Reg.hltStReq = true → (c, kind, target) ∈ stRequests t e p ch ag →
    (u.health.requests.length < 16 →
      let rs := u.health.requests ++ [(kind, target)]
      exec c s = .next (({ u with health := { u.health with requests := rs } } : State).setFld Reg.hltStStatus 28 24 rs.length)) ∧
    (16 ≤ u.health.requests.length →
      exec c s = .next ((u.bump Reg.hltStCount 63 48 1).setBit Reg.hltStStatus 17 true))) ∧
  (∀ (s u : State) (t : Nat) (ag : Agent) (on : Bool), s.WritesAt t ag Reg.hltStCtrl u → u.mayWrite ag Reg.hltStCtrl = true →
    let v := putBits (u.rd Reg.hltStCtrl) 0 0 (b2n on)
    1 ≤ bits v 27 16 → bits v 27 16 ≤ 3600 →
    let w := u.wr Reg.hltStCtrl (v &&& 0xfff0001 &&& 0xfff0001)
    let mode := fun since : Option Nat =>
      ({ w with health := { w.health with fullSince := since } } : State).setBit Reg.hltStStatus 16 since.isSome
    exec (.fullRate t on ag) s =
      .next (if on then (if u.health.fullSince.isSome then w else mode (some u.now)) else mode none))

/-- The stages of boot (R465, R468 to R477, R484); which conditions a record waits for is assumption log 64, and what the handover waits for 84. -/
def Obligations.BootGoesThroughItsStages : Prop :=
  ∀ (s u : State) (t : Nat), s.RunsAt t u →
    (∀ ok, u.stage ≠ 0 ∨ u.sec.signRead = true → exec (.norDiscovery t ok) s = .next u) ∧
    (u.stage = 0 → u.sec.signRead = false →
      exec (.norDiscovery t true) s = .next (u.setFld Reg.secStatus 2 0 2).readSigning ∧
      exec (.norDiscovery t false) s = .next (postFault (u.setFld Reg.secStatus 2 0 1)
        { code := F.bootNor, cls := Class.fatal, block := Blk.sec, payload := 0 })) ∧
    (u.stage ≠ 2 ∨ u.sec.slot.isSome = true → exec (.slotVerify t) s = .next u) ∧
    (u.stage = 2 → u.sec.slot = none →
      let slot := if u.sec.rejected = [] then u.firstSlot else 1 - u.firstSlot
      (u.slotFault slot = none →
        let w := u.sec.rejected.foldl (fun (w : State) (r : Rejected) => w.secRecord r.code Class.degraded r.slot r.check r.record) u
        exec (.slotVerify t) s = .next (w.slotPassed slot)) ∧
      ∀ code check i, u.slotFault slot = some (code, check, i) →
        let rs := u.sec.rejected ++ [⟨slot, code, check, i⟩]
        let w := { u with sec := { u.sec with rejected := rs } }
        (rs.length < 2 → exec (.slotVerify t) s = .next w) ∧
        (2 ≤ rs.length → exec (.slotVerify t) s = .next
          (rs.foldl (fun (w : State) (r : Rejected) => w.secRecord r.code Class.fatal r.slot r.check r.record) (w.setFld Reg.secStatus 2 0 6)))) ∧
    (∀ slot, (u.headerOk slot = false → u.slotFault slot = some (F.bootImage, 1, 0)) ∧
      (u.headerOk slot = true → (u.keyProgrammed (u.slotField slot 24 1) = false ∨ u.keyRevoked (u.slotField slot 24 1) = true) →
        u.slotFault slot = some (F.bootSig, 2, 0))) ∧
    (∀ (tr : Tier) (chs : List (Fin 256)) (lanes : List (Fin 12 × Fin 16 × Fin 64)),
      let st := tr.reg Reg.pntStatus Reg.celStatus
      (u.booting = false ∨ bit (u.rd st) 0 = true → exec (.tierTrain t tr chs lanes) s = .next u) ∧
      (u.booting = true → bit (u.rd st) 0 = false →
        let a := match tr with
          | .pantry => u.failLanes (lanes.map fun x => (x.1.val, x.2.1.val, x.2.2.val))
          | .cellar => u
        let b := (chs.map (·.val)).foldl (fun (w : State) (ch : Nat) => if ch < tr.channels then w.failTraining tr ch else w) a
        let c := b.fixRange tr (b.mapoutUnits tr)
        let d := { c with mem := c.mem.filter fun x => decide (tierOf x.1 ≠ some tr) }
        exec (.tierTrain t tr chs lanes) s = .next (((d.setBit st 0 true).setBit st 1 true).beginFloor tr))) ∧
    (∀ bad : List (Fin 96 × BitVec 12),
      (u.booting = false ∨ u.sec.tested = true → exec (.bootEngineTest t bad) s = .next u) ∧
      (u.booting = true → u.sec.tested = false →
        let items := fun e : Nat => (((bad.map fun x => (x.1.val, x.2.toNat)).find? (fun x => decide (x.1 = e))).map (·.2)).getD 0
        exec (.bootEngineTest t bad) s =
          .next ((List.range 96).foldl (fun (w : State) (e : Nat) => w.bootTest e (items e)) { u with sec := { u.sec with tested := true } }))) ∧
    (u.sec.slot = none ∨ u.booting = false → exec (.recordApply t) s = .next u) ∧
    (∀ slot, u.sec.slot = some slot → u.booting = true →
      let w := u.setFld Reg.secStatus 2 0 4
      let left := u.slotField slot 20 4 - u.sec.applied
      let ofs := w.sec.cursor
      let outcome := w.applyRecord (w.slotField slot ofs 2) (w.slotField slot (ofs + 8) 8)
        (w.norLoad (slotBase slot + ofs + 16) (w.slotField slot (ofs + 4) 4))
      let trained := bit (w.rd Reg.pntStatus) 1 = true ∧ bit (w.rd Reg.celStatus) 1 = true
      (left = 0 → ¬ trained → exec (.recordApply t) s = .next w) ∧
      (left = 0 → trained → exec (.recordApply t) s =
        .next ((w.setFld Reg.secStatus 2 0 5).wr Reg.secBootTime (min (w.now / 1100) (2 ^ 32 - 1)))) ∧
      (∀ n, left = n + 1 →
        (outcome = .waits → exec (.recordApply t) s = .next w) ∧
        (outcome = .fails → exec (.recordApply t) s = .next (postFault (w.setFld Reg.secStatus 2 0 6)
          { code := F.bootRecord, cls := Class.fatal, block := Blk.sec, payload := slot + 0 * 2 ^ 8 + w.sec.applied * 2 ^ 16 })) ∧
        (∀ x, outcome = .applied x → exec (.recordApply t) s =
          .next (({ x with sec := { x.sec with cursor := ofs + w.recordSize slot ofs, applied := w.sec.applied + 1 } } : State).applyRecords
            slot n))))

/-- Keys, signing and the NOR (R467, R473, R478 to R481, R483, R486); SVN over 255, tokens at reset and ERROR for an unusable address are
assumption log 64. -/
def Obligations.KeysSigningAndTheNor : Prop :=
  (∀ (s u : State) (t : Nat) (fail : Bool) (ag : Agent),
    let burnt := postFault (u.event Reg.secIntStatus 4)
      { code := F.otp, cls := Class.degraded, block := Blk.sec, payload := 0 + 1 * 2 ^ 8 + 0 * 2 ^ 16 }
    (s.WritesAt t ag Reg.secCtrl u → u.mayWrite ag Reg.secCtrl = true →
      let svn := min 255 (u.fld Reg.secStatus 39 32)
      (u.sec.slot = none ∨ svn ≤ u.persist.floor → exec (.svnCommit t fail ag) s = .next u) ∧
      (u.sec.slot.isSome = true → u.persist.floor < svn → exec (.svnCommit t fail ag) s = .next (if fail then burnt else
        ({ u with persist := { u.persist with floor := svn } } : State).setFld Reg.secStatus 47 40 svn))) ∧
    (s.WritesAt t ag Reg.secCtrl u → u.mayWrite ag Reg.secCtrl = true → ∀ k : Fin 4,
      let own := u.sec.slot.isSome = true ∧ u.fld Reg.secStatus 49 48 = k.val
      let others := ∃ i < 4, i ≠ k.val ∧ u.keyProgrammed i = true ∧ u.keyRevoked i = false
      (own ∨ ¬ others → exec (.revoke t k fail ag) s = .next (u.regAccess Reg.secCtrl)) ∧
      (¬ own → others → exec (.revoke t k fail ag) s = .next (if fail then burnt else if u.keyRevoked k.val then u else
        { u with persist := { u.persist with revoked := u.persist.revoked ++ [k.val] } }))) ∧
    (s.WritesAt t ag Reg.secOtpKeyCtrl u → u.mayWrite ag Reg.secOtpKeyCtrl = true → ∀ k : Fin 4,
      let da := u.rd Reg.secOtpKeyDa
      let refused := k.val < 2 ∨ u.keyProgrammed k.val = true ∨ (u.memFault da 32).isSome = true
      (refused → exec (.otpKeyProgram t k fail ag) s = .next (u.regAccess Reg.secOtpKeyCtrl)) ∧
      (¬ refused → exec (.otpKeyProgram t k fail ag) s = .next (if fail then burnt else
        { u with persist := { u.persist with keys := tabSet (fun _ => []) u.persist.keys k.val (u.load da 32) } }))) ∧
    (s.WritesAt t ag Reg.secAttestCtrl u → u.mayWrite ag Reg.secAttestCtrl = true →
      let go := exec (.attestGo t fail ag) s
      let st := u.fld Reg.secAttestStatus 1 0
      let busy := st = 1 ∨ u.sec.goAt = u.now + 1
      let unavailable := u.sec.exhausted = true ∨ u.sec.signRead = false ∨ u.sec.slot = none
      let w := { u with sec := { u.sec with goAt := u.now + 1 } }
      (busy → go = .next (u.regAccess Reg.secAttestCtrl)) ∧
      (¬ busy → u.sec.tokens = 0 → go = .next (w.attestDone 1)) ∧
      (¬ busy → 0 < u.sec.tokens → unavailable → go = .next (w.attestDone 2)) ∧
      (¬ busy → 0 < u.sec.tokens → ¬ unavailable →
        go = .next (if u.sec.ready then w.attestSign fail else
          ({ w with sec := { w.sec with waiting := true } } : State).showAttest 1 0))) ∧
    (let req := u.rd Reg.secAttestReqDa
      let out := u.rd Reg.secAttestOutDa
      let bad := (u.memFault req 64).isSome = true ∨ (u.memFault out 5652).isSome = true
      (bad → u.attestSign fail = u.attestDone 3) ∧
      (¬ bad →
        let w := if u.sec.jRes ≤ u.sec.j then u.signLog (min (u.sec.jRes + 64) 32768) 0 fail else u
        let body := w.reportBody (w.load req 64)
        let v := w.store out (body ++ (List.range 5396).map (Config.hssSignature (w.persist.q - 1) w.sec.j body))
        let j := v.sec.j + 1
        let v := { v with sec := { v.sec with j := j, tokens := v.sec.tokens - 1, ready := decide (j < 32768) } }
        u.attestSign fail = ((v.bump Reg.secAttestStatus 63 32 1).showSign 0).attestDone 0)) ∧
    (s.WritesAt t ag Reg.secNorCtrl u → u.mayWrite ag Reg.secNorCtrl = true → ∀ (len : BitVec 24) (c : Instr) (cmd n : Nat), (c, cmd, n) ∈ norCommands t len ag →
      let a := u.rd Reg.secNorAddr
      let busy := bit (u.rd Reg.secNorStatus) 0
      let denied := (cmd = 1 ∧ u.norMay a n = false) ∨ (cmd = 2 ∧ u.norMay (a / sectorSize * sectorSize) sectorSize = false)
      (busy = true → exec c s = .next (u.regAccess Reg.secNorCtrl)) ∧
      (busy = false → cmd = 1 → n % 256 ≠ 0 → exec c s = .next (u.regReserved Reg.secNorCtrl)) ∧
      (busy = false → (cmd = 1 → n % 256 = 0) →
        (denied → exec c s = .next (postFault ((u.wr Reg.secNorStatus 4).event Reg.secIntStatus 2)
          { code := F.norAccess, cls := Class.info, block := Blk.sec, payload := u.sec.slot.getD 0 + 0 * 2 ^ 8 + 0 * 2 ^ 16 })) ∧
        (¬ denied → exec c s = .next
          { u.wr Reg.secNorStatus 1 with sec := { u.sec with op := some ⟨cmd, a, u.rd Reg.secNorDa, n⟩ } }))) ∧
    (∀ a n, u.stage ≠ 6 → u.norMay a n = true →
      ∃ r, u.sec.slot = some r ∧ slotBase (1 - r) ≤ a ∧ a + n ≤ slotBase (1 - r) + slotSize)) ∧
  (∀ (s u : State) (t : Nat) (fail : Bool), s.RunsAt t u →
    let burnt := postFault (u.event Reg.secIntStatus 4)
      { code := F.otp, cls := Class.degraded, block := Blk.sec, payload := 0 + 1 * 2 ^ 8 + 0 * 2 ^ 16 }
    (∀ burnFail logFail,
      let due := u.sec.signRead = true ∧ u.sec.ready = false ∧ u.sec.exhausted = false
      let begin := exec (.treeBegin t burnFail logFail) s
      (¬ due → begin = .next u) ∧
      (due → 32768 ≤ u.persist.q →
        let w := (({ u with sec := { u.sec with exhausted := true } } : State).showSign 0).signFault 2
        begin = .next (if w.sec.waiting then ({ w with sec := { w.sec with waiting := false } } : State).attestDone 2 else w)) ∧
      (due → u.persist.q < 32768 → burnFail = true → begin = .next burnt) ∧
      (due → u.persist.q < 32768 → burnFail = false →
        let w := { u with persist := { u.persist with q := u.persist.q + 1 }, sec := { u.sec with j := 0, jRes := 0 } }
        let v := w.signLog 0 1 logFail
        let r := ({ v with sec := { v.sec with ready := true } } : State).showSign 0
        begin = .next (if r.sec.waiting then ({ r with sec := { r.sec with waiting := false } } : State).attestSign false else r))) ∧
    (u.now < u.sec.tokensAt + us 500000 → exec (.attestTokenRefill t) s = .next u) ∧
    (u.sec.tokensAt + us 500000 ≤ u.now →
      let n := min 255 (u.sec.tokens + 1)
      exec (.attestTokenRefill t) s =
        .next (({ u with sec := { u.sec with tokens := n, tokensAt := u.now } } : State).setFld Reg.secAttestStatus 15 8 n)) ∧
    (u.logTurn = true → exec (.norOpDone t fail) s = .next (u.logProgram fail)) ∧
    (u.logTurn = false → u.sec.op = none →
      (u.signEraseDue = none → exec (.norOpDone t fail) s = .next u) ∧
      (∀ n, u.signEraseDue = some n → exec (.norOpDone t fail) s = .next (u.signErase n fail))) ∧
    (∀ o, u.logTurn = false → u.sec.op = some o →
      let ended := fun (w : State) (bad : Bool) =>
        ({ w with sec := { w.sec with op := none } }.wr Reg.secNorStatus (2 * b2n bad)).event Reg.secIntStatus 1
      let badRange := (o.cmd = 0 ∧ (2 ^ 26 < o.ofs + o.len ∨ (u.memFault o.da o.len).isSome = true)) ∨
        (o.cmd = 1 ∧ (u.memFault o.da o.len).isSome = true)
      (fail = true ∨ badRange → exec (.norOpDone t fail) s = .next (ended u true)) ∧
      (fail = false → ¬ badRange →
        let w := if o.cmd = 0 then u.store o.da (u.norLoad o.ofs o.len)
          else if o.cmd = 1 then u.norProgram o.ofs (u.load o.da o.len)
          else u.norErase (o.ofs / sectorSize)
        exec (.norOpDone t fail) s = .next (ended w false))))

/-- Power-up, power-down and reset (R494 to R500, R505, R511); the queue and what left the block stay with the model's own fields, and a restart after
INPUT_OV by RESET_N is assumption log 64. -/
def Obligations.PowerComesUpAndGoesDown : Prop :=
  (∀ (w : State) (p : PowerSt),
    let r := w.resetAll p
    let kept := fun a : Nat => if a ∈ latchRegs then w.rd a else State.reset.rd a
    { r with pending := [], now := 0, free := 0, regs := [], outbox := [], persist := {}, power := {} } = State.reset ∧
    r.pending = w.pending ∧ r.now = w.now ∧ r.outbox = w.outbox ∧ r.power = { p with address := w.power.address } ∧
    r.persist = { w.persist with nor := r.persist.nor } ∧ (w.sec.op = none → r.persist = w.persist) ∧
    ∀ a, r.rd a = if a = Reg.pwrStatus then putBits (kept a) 0 0 (b2n (decide (p.step = .good))) % 2 ^ 64 else kept a) ∧
  (latchRegs = [Reg.pwrStatus, Reg.pwrInput, Reg.fltLast 0, Reg.fltLast 1, Reg.fltLast 2, Reg.fltLast 3, Reg.fltLast 4, Reg.fltLast 5,
    Reg.fltLast 6, Reg.fltLast 7]) ∧
  ∀ (s : State) (t : Nat),
    let u := s.advance t
    let p := u.power
    let cause := fun (c rail : Nat) => u.wr Reg.pwrStatus (putBits (putBits (putBits (u.rd Reg.pwrStatus) 3 3 1) 7 4 c) 12 8 rail)
    let stepTo := fun st : PowerStep => { u with power := { p with step := st } }
    (∀ cold, (p.step ≠ .off → exec (.inputRise t cold) s = .next u) ∧
      (p.step = .off →
        let w := if cold then { u with regs := [], power := { p with address := none } } else u
        exec (.inputRise t cold) s =
          .next (w.resetAll { step := .standby, low := w.power.low, released := false, latched := w.power.latched && !cold }))) ∧
    (exec (.inputCapacitanceCharged t) s = .next (if p.step = .standby then stepTo .charged else u)) ∧
    (p.down = true → exec (.railGroupUp t) s = .next u) ∧
    (p.down = false →
      (p.step = .charged → exec (.railGroupUp t) s = .next (stepTo .group1)) ∧
      (p.step = .group1 → exec (.railGroupUp t) s = .next (stepTo .group2)) ∧
      (p.step = .group2 → exec (.railGroupUp t) s = .next (stepTo .group3a)) ∧
      (p.step = .group3a → exec (.railGroupUp t) s = .next (stepTo .group3b)) ∧
      (p.step = .group3b → exec (.railGroupUp t) s = .next
        (({ u with power := { p with step := .good, goodAt := u.now } } : State).setFld Reg.pwrStatus 0 0 1)) ∧
      (p.step = .off ∨ p.step = .standby ∨ p.step = .good → exec (.railGroupUp t) s = .next u)) ∧
    (∀ rail : Fin 32,
      (p.down = true ∨ p.step ≠ railStep rail.val → exec (.railFail t rail) s = .next u) ∧
      (p.down = false → p.step = railStep rail.val → exec (.railFail t rail) s = .next ((cause 4 rail.val).resetAll
        { step := .charged, low := p.low, released := false, latched := true, down := true }))) ∧
    (∀ (c : Instr) (n : Nat) (off : Bool), (c, n, off) ∈ [(Instr.inputUv t, 5, true), (Instr.inputOv t, 6, false)] →
      let dead := p.step = .standby ∨ p.down = true
      (p.step = .off → exec c s = .next u) ∧
      (p.step ≠ .off → ¬ dead → exec c s = .next ((cause n 0).resetAll
        { step := (if off then .off else .charged), low := p.low, released := false, latched := true, down := !off,
          thermalAt := p.thermalAt })) ∧
      (p.step ≠ .off → dead → exec c s = .next (u.resetAll
        { step := (if off then .off else if p.step = .standby then .standby else .charged), low := p.low, released := false, latched := p.latched,
          down := !off && decide (p.step ≠ .standby), thermalAt := p.thermalAt }))) ∧
    (p.shutting = none → exec (.orderlyShutdown t) s = .next u) ∧
    (∀ c rail, p.shutting = some (c, rail) →
      let logs := u.fatalWaits = true ∧ u.fld Reg.fltNorCfg 7 0 ≠ 0 ∧ u.stage ≠ 6
      let done := fun w : State => w.resetAll
        { step := .charged, low := w.power.low, released := false, latched := true, down := true,
          thermalAt := (if c = 1 then some w.now else none) }
      (logs → exec (.orderlyShutdown t) s = .next (done (u.logProgram false))) ∧
      (¬ logs → exec (.orderlyShutdown t) s = .next (done u))) ∧
    (let hot := ∃ c, p.thermalAt = some c ∧ u.now < c + us 10000000;
      (p.shutting.isSome = true ∨ hot → exec (.resetAssert t) s = .next u) ∧
      (p.shutting = none → ¬ hot → exec (.resetAssert t) s = .next (u.resetAll
        { step := p.step, goodAt := p.goodAt, low := true, released := false, latched := p.latched }))) ∧
    (let due := p.released = false ∧ p.step = .good ∧ p.refLost = false ∧ p.goodAt + us 100 ≤ u.now;
      (¬ due → exec (.internalResetRelease t) s = .next u) ∧
      (due → exec (.internalResetRelease t) s = .next
        { State.reset with pending := u.pending, free := u.free, outbox := u.outbox, persist := u.persist, power := { address := p.address } })) ∧
    (p.step ≠ .good → exec (.refclkLost t) s = .next u) ∧
    (p.step = .good → exec (.refclkLost t) s = .next ((u.setFld Reg.pwrStatus 2 2 1).resetAll
      { step := p.step, goodAt := p.goodAt, low := p.low, released := p.released, refLost := true, latched := true,
        shutting := p.shutting }))

/-- The power cap, the input events, PPS_IN and the sideband (R491, R501, R504, R508); a write that finds the block in reset is
assumption log 67, the other choices 64. -/
def Obligations.PowerCapPinsAndSideband : Prop :=
  ∀ (s : State) (t : Nat),
    let u := s.advance t
    let p := u.power
    (u.stopped = false →
      exec (.inputLow t) s = .next (u.event Reg.pwrIntStatus 2) ∧ exec (.inputHigh t) s = .next (u.event Reg.pwrIntStatus 3)) ∧
    (∀ (mv ma dw : BitVec 16) (uj : Nat) (rails : List (BitVec 16 × BitVec 16)), u.stopped = false →
      let early := 0 < p.evalAt ∧ u.now < p.evalAt - 1 + us 100
      (early → exec (.powerCapEval t mv ma dw uj rails) s = .next u) ∧
      (¬ early →
        let u := (u.reached Reg.pwrCap 4).reached Reg.pwrSbCap 4
        let p := u.power
        let a := { u with power := { p with evalAt := u.now + 1, energy := p.energy + uj, samples := p.samples + 1,
                                            sumPower := p.sumPower + dw.toNat, sumVolts := p.sumVolts + mv.toNat, peak := max p.peak dw.toNat } }
        let b := a.wr Reg.pwrInput (mv.toNat + ma.toNat * 2 ^ 16 + dw.toNat * 2 ^ 32)
        let c := b.wr Reg.pwrInputPeak (max (a.rd Reg.pwrInputPeak) dw.toNat)
        let d := c.wr Reg.pwrEnergy (min ((p.energy + uj) / 1000) (2 ^ 64 - 1))
        let m := ((List.range 32).zip (rails.map fun x => (x.1.toNat, x.2.toNat))).foldl
          (fun (w : State) (x : Nat × Nat × Nat) => w.wr (Reg.pwrRail x.1) (railReg x.1 x.2.1 x.2.2)) d
        let cap := min (m.fld Reg.pwrCapFuse 15 0) (min (m.fld Reg.pwrCap 15 0) (m.fld Reg.pwrSbCap 15 0))
        let now := m.fld Reg.pwrStatus 18 16 + 1
        let calm := fun (w : State) (c : Option Nat) => { w with power := { w.power with calm := c } }
        let since := m.power.calm.getD m.now
        let after := if 10 * cap < dw.toNat then calm (m.setPowerCap (max 1 (now - 1))) none
          else if 10 * dw.toNat < 97 * cap then
            (if since + us 1000 ≤ m.now then (calm m (some since)).setPowerCap (min 8 (now + 1)) else calm m (some since))
          else calm m none
        exec (.powerCapEval t mv ma dw uj rails) s = .next after)) ∧
    (∀ err : Fin 17, u.stopped = false →
      let ns := u.timeNs + err.val - 8
      let a := { u with power := { p with ppsEdge := u.now + 1, ppsMissing := false } }
      let r := ns % 1000000000
      let soon := 0 < p.pps ∧ u.now < p.pps - 1 + us 900000
      let shown := fun (w : State) (d : Int) =>
        ((({ w with power := { w.power with pps := w.now + 1 } } : State).wr Reg.pwrPpsStamp ns).setFld Reg.pwrPpsOffset 31 0
          (ofSigned 32 d)).bump Reg.pwrPpsOffset 47 32 1
      (soon → exec (.ppsEdge t err) s = .next (a.bump Reg.pwrPpsOffset 63 48 1)) ∧
      (¬ soon →
        (r < 500000000 → exec (.ppsEdge t err) s = .next (shown a r)) ∧
        (500000000 < r → exec (.ppsEdge t err) s = .next (shown a ((r : Int) - 1000000000))) ∧
        (r = 500000000 → exec (.ppsEdge t err) s = .next (shown { a with free := a.free + 1 }
          (if Config.freeNat a.free % 2 = 0 then 500000000 else -500000000))))) ∧
    (u.stopped = false →
      let late := p.ppsMissing = false ∧ p.ppsEdge - 1 + us 1500000 ≤ u.now
      (¬ late → exec (.ppsMissing t) s = .next u) ∧
      (late → exec (.ppsMissing t) s = .next (({ u with power := { p with ppsMissing := true } } : State).event Reg.pwrIntStatus 1))) ∧
    (∀ static dyn : BitVec 7,
      let taken := p.step ≠ .off ∧ static.toNat = 0x3C + Config.sbAddr.toNat ∧ p.address = none
      (taken → exec (.setdasa t static dyn) s = .next { u with power := { p with address := some dyn.toNat } }) ∧
      (¬ taken → exec (.setdasa t static dyn) s = .next u)) ∧
    (∀ (target : BitVec 7) (da v : BitVec 64) (busy : Bool),
      let a := da.toNat
      let mine := p.step ≠ .off ∧ (target.toNat = 0x3C + Config.sbAddr.toNat ∨ p.address = some target.toNat)
      let answers := fun (w : State) (status : Nat) (x : Nat) => w.emit (.sideband status (BitVec.ofNat 64 x))
      (¬ mine → exec (.sidebandRead t target da busy) s = .next u ∧ exec (.sidebandWrite t target da v busy) s = .next u) ∧
      (mine →
        let read := exec (.sidebandRead t target da busy) s
        let write := exec (.sidebandWrite t target da v busy) s
        let permitted := regionOf a = .register ∧ (regFind a).isSome = true ∧ u.mayRead .sideband a = true
        let writable := a = Reg.pwrSbCap ∨ a = Reg.fltAlertStatus
        (p.step ≠ .good → a ∉ latchRegs → read = .next (answers u 2 0)) ∧
        (p.step = .good ∨ a ∈ latchRegs →
          (¬ permitted → read = .next (u.answersOpen 1)) ∧
          (permitted → busy = true → read = .next (u.answersOpen 3)) ∧
          (permitted → busy = false → ∀ w, u.inOrder a readRank = w → read = .next (answers w 0 (w.readAt a 8).1))) ∧
        (¬ writable → write = .next (u.answersOpen 1)) ∧
        (writable → p.step ≠ .good → write = .next (u.answersOpen 2)) ∧
        (writable → p.step = .good → busy = true ∨ u.stopped = true → write = .next (u.answersOpen 3)) ∧
        (writable → p.step = .good → busy = false → u.stopped = false →
          ∀ w, u.inOrder a Agent.sideband.writeRank = w → write = .next ((w.writeReg .sideband a 8 v.toNat false).answersOpen 0))))

/-- Register accesses (R9, R10, R11, R13, R504, R512, R513, R517); an access at an address that names a register is that register's (assumption log 64). -/
def Obligations.RegistersFollowTheIndex : Prop :=
  (∀ (s u : State) (t da width : Nat) (v : BitVec 64) (ag : Agent), s.WritesAt t ag da u →
    let refused := match ag with
      | .companion => u.event Reg.atcIntStatus 4
      | _ => u
    ∀ c ∈ [Instr.registerWrite t da width v ag, .unmappedRegisterAccess t da width (some v) ag],
      (regionOf da ≠ .register → exec c s = .next u) ∧
      (regionOf da = .register → u.mayWrite ag da = false → exec c s = .next refused) ∧
      (regionOf da = .register → u.mayWrite ag da = true →
        (width ≠ 8 ∨ da % 8 ≠ 0 ∨ regFind da = none → exec c s = .next (u.regAccess da)) ∧
        (∀ d, width = 8 → da % 8 = 0 → regFind da = some d →
          let x := v.toNat &&& d.mask
          (d.acc = .ro → exec c s = .next u) ∧
          (d.acc = .w1c → exec c s = .next (u.wr da (w1c (u.rd da) v.toNat d.mask (u.setInCycle da)))) ∧
          (d.acc = .rw ∨ d.acc = .wo →
            (u.locked da x = true → exec c s = .next (u.regAccess da)) ∧
            (u.locked da x = false → d.bad v.toNat = true ∨ u.valueBad da v.toNat = true → exec c s = .next (u.regReserved da)) ∧
            (u.locked da x = false → d.bad v.toNat = false → u.valueBad da v.toNat = false →
              exec c s = .next (u.applyWrite da x v.toNat false)))))) ∧
  (∀ (s u w : State) (t da width : Nat) (ag : Agent), s.RunsAt t u → u.inOrder da readRank = w →
    let refused := match ag with
      | .companion => u.event Reg.atcIntStatus 4
      | _ => u
    let read := exec (.unmappedRegisterAccess t da width none ag) s
    (regionOf da ≠ .register → read = .next u) ∧
    (regionOf da = .register → u.mayRead ag da = false → read = .next refused) ∧
    (regionOf da = .register → u.mayRead ag da = true →
      (width ≠ 8 ∨ da % 8 ≠ 0 ∨ regFind da = none → read = .next ((w.regAccess da).emit (.regValue ag da 0))) ∧
      (∀ d, width = 8 → da % 8 = 0 → regFind da = some d →
        (d.acc = .wo → read = .next (w.emit (.regValue ag da 0))) ∧
        (d.acc ≠ .wo → read = .next (w.emit (.regValue ag da (BitVec.ofNat 64 (w.readReg da)))))))) ∧
  (∀ old v mask now i, i < 64 →
    (w1c old v mask now).testBit i = (old.testBit i && !(v.testBit i && mask.testBit i && !now.testBit i))) ∧
  (∀ (u : State) (a : Nat),
    u.mayWrite .steward a = true ∧ u.mayWrite .bootRom a = !isSecReg a ∧
    (u.mayWrite .sideband a = true ↔ a = Reg.pwrSbCap ∨ a = Reg.fltAlertStatus) ∧
    (u.mayWrite .companion a = true ↔
      (bit (u.rd Reg.atcCtrl) 1 = true ∧ (isSecReg a = false ∨ regFind a = none ∨
        a = Reg.secAttestReqDa ∨ a = Reg.secAttestOutDa ∨ a = Reg.secAttestCtrl)) ∨
      (u.stage = 6 ∧ (a = Reg.secNorAddr ∨ a = Reg.secNorDa ∨ a = Reg.secNorCtrl))) ∧
    u.mayRead .steward a = true ∧ u.mayRead .bootRom a = false ∧
    (u.mayRead .companion a = true ↔ bit (u.rd Reg.atcCtrl) 1 = true ∨ u.stage = 6)) ∧
  (∀ (s : State) (t da width : Nat) (v : BitVec 64) (w : Option (BitVec 64)) (ag : Agent), (s.advance t).stopped = true →
    exec (.registerWrite t da width v ag) s = .next (s.advance t) ∧
    exec (.unmappedRegisterAccess t da width w ag) s = .next (s.advance t))
end

