-- ==== Sys2Proof/Laws/Tab.lean ====
section
/-! SUPPORT. The laws of the sparse tables: what a write changes, and that every operation keeps the canonical form. -/

namespace Sys2Proof.Machine

variable {α : Type} [DecidableEq α] {d : Nat → α}

/-- A canonical table whose keys start at `b` is canonical from every lower bound. -/
theorem tabWfFrom_mono {m : List (Nat × α)} {a b : Nat} (hab : a ≤ b) (h : tabWfFrom d b m = true) :
    tabWfFrom d a m = true := by
  cases m with
  | nil => rfl
  | cons x r =>
    obtain ⟨j, w⟩ := x
    simp only [tabWfFrom, Bool.and_eq_true, decide_eq_true_eq] at h ⊢
    exact ⟨⟨Nat.le_trans hab h.1.1, h.1.2⟩, h.2⟩

/-- Below its first key a canonical table reads as the default. -/
theorem tabGet_below {m : List (Nat × α)} {b k : Nat} (h : tabWfFrom d b m = true) (hk : k < b) : tabGet d m k = d k := by
  cases m with
  | nil => rfl
  | cons x r =>
    obtain ⟨j, w⟩ := x
    simp only [tabWfFrom, Bool.and_eq_true, decide_eq_true_eq] at h
    have h1 : j ≠ k := by omega
    have h2 : k < j := by omega
    simp [tabGet, h1, h2]

/-- A write keeps the canonical form, and the bound of the keys as far as the written key allows. -/
theorem tabSet_wfFrom {m : List (Nat × α)} {b k : Nat} {v : α} (h : tabWfFrom d b m = true) (hk : b ≤ k) :
    tabWfFrom d b (tabSet d m k v) = true := by
  induction m generalizing b with
  | nil =>
    simp only [tabSet]
    split
    · rfl
    · simp [tabWfFrom, *]
  | cons x r ih =>
    obtain ⟨j, w⟩ := x
    simp only [tabWfFrom, Bool.and_eq_true, decide_eq_true_eq] at h
    obtain ⟨⟨hb, hw⟩, hr⟩ := h
    simp only [tabSet]
    split
    · rename_i hj
      subst hj
      split
      · exact tabWfFrom_mono (by omega) hr
      · simp [tabWfFrom, *]
    · rename_i hj
      split
      · rename_i hlt
        split
        · simp [tabWfFrom, *]
        · simp only [tabWfFrom, Bool.and_eq_true, decide_eq_true_eq]
          exact ⟨⟨hk, by assumption⟩, ⟨by omega, hw⟩, hr⟩
      · simp only [tabWfFrom, Bool.and_eq_true, decide_eq_true_eq]
        exact ⟨⟨hb, hw⟩, ih hr (by omega)⟩

/-- A write keeps the canonical form. -/
theorem tabSet_wf {m : List (Nat × α)} {k : Nat} {v : α} (h : tabWf d m = true) : tabWf d (tabSet d m k v) = true :=
  tabSet_wfFrom h (Nat.zero_le k)

/-- What a canonical table reads as after a write. -/
theorem tabGet_tabSet {m : List (Nat × α)} {b k i : Nat} {v : α} (h : tabWfFrom d b m = true) :
    tabGet d (tabSet d m k v) i = if i = k then v else tabGet d m i := by
  induction m generalizing b with
  | nil =>
    simp only [tabSet]
    split
    · simp only [tabGet]
      split <;> simp_all
    · simp only [tabGet]
      by_cases hi : i = k
      · simp [hi]
      · have : k ≠ i := fun e => hi e.symm
        simp [hi, this]
  | cons x r ih =>
    obtain ⟨j, w⟩ := x
    simp only [tabWfFrom, Bool.and_eq_true, decide_eq_true_eq] at h
    obtain ⟨⟨hb, hw⟩, hr⟩ := h
    simp only [tabSet]
    split
    · rename_i hj
      subst hj
      split
      · rename_i hv
        by_cases hi : i = j
        · subst hi
          simp [hv, tabGet_below hr (Nat.lt_succ_self i)]
        · have : j ≠ i := fun e => hi e.symm
          simp only [hi, if_false, tabGet, this]
          split
          · rename_i hlt
            exact tabGet_below hr (by omega)
          · rfl
      · by_cases hi : i = j
        · simp [hi, tabGet]
        · have : j ≠ i := fun e => hi e.symm
          simp [hi, this, tabGet]
    · rename_i hj
      split
      · rename_i hlt
        split
        · rename_i hv
          by_cases hi : i = k
          · subst hi
            simp [tabGet, hj, hlt, hv]
          · simp [hi]
        · by_cases hi : i = k
          · simp [hi, tabGet]
          · have : k ≠ i := fun e => hi e.symm
            simp only [hi, if_false, tabGet, this]
            split
            · rename_i h2
              have h3 : j ≠ i := by omega
              have h4 : i < j := by omega
              simp [h3, h4]
            · rfl
      · simp only [tabGet]
        by_cases hi : i = j
        · have : i ≠ k := by omega
          simp [hi]
          intro h; omega
        · have h1 : j ≠ i := fun e => hi e.symm
          simp only [h1, if_false]
          split
          · have : i ≠ k := by omega
            simp [this]
          · exact ih hr

/-- Writes of consecutive keys keep the canonical form. -/
theorem tabSetList_wf {m : List (Nat × α)} {k : Nat} {vs : List α} (h : tabWf d m = true) :
    tabWf d (tabSetList d m k vs) = true := by
  induction vs generalizing m k with
  | nil => exact h
  | cons v vs ih => exact ih (tabSet_wf h)

/-- What a canonical table reads as after writes of consecutive keys. -/
theorem tabGet_tabSetList {m : List (Nat × α)} {k i : Nat} {vs : List α} (h : tabWf d m = true) :
    tabGet d (tabSetList d m k vs) i =
      if k ≤ i ∧ i < k + vs.length then vs.getD (i - k) (tabGet d m i) else tabGet d m i := by
  induction vs generalizing m k with
  | nil =>
    have : ¬(k ≤ i ∧ i < k + 0) := by omega
    simp [tabSetList]
  | cons v vs ih =>
    simp only [tabSetList]
    rw [ih (tabSet_wf h), tabGet_tabSet (b := 0) h]
    simp only [List.length_cons]
    by_cases h1 : i = k
    · subst h1
      have : ¬(i + 1 ≤ i ∧ i < i + 1 + vs.length) := by omega
      simp [this]
    · by_cases h2 : k + 1 ≤ i ∧ i < k + 1 + vs.length
      · have h3 : k ≤ i ∧ i < k + (vs.length + 1) := by omega
        have h4 : i - k = (i - (k + 1)) + 1 := by omega
        rw [if_pos h2, if_pos h3, h4]
        simp [h1]
      · have h3 : ¬(k ≤ i ∧ i < k + (vs.length + 1)) := by omega
        rw [if_neg h2, if_neg h3]
        simp [h1]

/-- Dropping entries keeps the canonical form. -/
theorem tabFilter_wfFrom {m : List (Nat × α)} {b : Nat} {p : Nat × α → Bool} (h : tabWfFrom d b m = true) :
    tabWfFrom d b (m.filter p) = true := by
  induction m generalizing b with
  | nil => rfl
  | cons x r ih =>
    obtain ⟨j, w⟩ := x
    simp only [tabWfFrom, Bool.and_eq_true, decide_eq_true_eq] at h
    obtain ⟨⟨hb, hw⟩, hr⟩ := h
    rw [List.filter_cons]
    split
    · simp only [tabWfFrom, Bool.and_eq_true, decide_eq_true_eq]
      exact ⟨⟨hb, hw⟩, ih hr⟩
    · exact tabWfFrom_mono (by omega) (ih hr)

/-- Dropping entries keeps the canonical form. -/
theorem tabFilter_wf {m : List (Nat × α)} {p : Nat × α → Bool} (h : tabWf d m = true) : tabWf d (m.filter p) = true :=
  tabFilter_wfFrom h

/-- Two canonical tables that read alike are the same data. -/
theorem tab_ext {m n : List (Nat × α)} {a b : Nat} (hm : tabWfFrom d a m = true) (hn : tabWfFrom d b n = true)
    (h : ∀ k, tabGet d m k = tabGet d n k) : m = n := by
  induction m generalizing n a b with
  | nil =>
    cases n with
    | nil => rfl
    | cons y r =>
      obtain ⟨j, w⟩ := y
      simp only [tabWfFrom, Bool.and_eq_true, decide_eq_true_eq] at hn
      have := h j
      simp [tabGet] at this
      exact absurd this.symm hn.1.2
  | cons x r ih =>
    obtain ⟨i, v⟩ := x
    simp only [tabWfFrom, Bool.and_eq_true, decide_eq_true_eq] at hm
    cases n with
    | nil =>
      have := h i
      simp [tabGet] at this
      exact absurd this hm.1.2
    | cons y q =>
      obtain ⟨j, w⟩ := y
      simp only [tabWfFrom, Bool.and_eq_true, decide_eq_true_eq] at hn
      have hij : i = j := by
        rcases Nat.lt_trichotomy i j with hlt | he | hlt
        · have := h i
          have h1 : j ≠ i := by omega
          simp [tabGet, h1, hlt] at this
          exact absurd this hm.1.2
        · exact he
        · have := h j
          have h1 : i ≠ j := by omega
          simp [tabGet, h1, hlt] at this
          exact absurd this.symm hn.1.2
      subst hij
      have hv : v = w := by
        have := h i
        simpa [tabGet] using this
      subst hv
      congr 1
      refine ih hm.2 hn.2 fun k => ?_
      by_cases hk : k < i + 1
      · rw [tabGet_below hm.2 hk, tabGet_below hn.2 hk]
      · have := h k
        have h1 : i ≠ k := by omega
        have h2 : ¬k < i := by omega
        simpa [tabGet, h1, h2] using this

end Sys2Proof.Machine
end

