-- ==== Sys2Proof/Laws/Inv.lean ====
section
/-! SUPPORT. The invariant of the model: how it passes through updates of fields, folds and tables. -/

namespace Sys2Proof.Machine

/-- The outcome of a command keeps the invariant. -/
def Keeps : Host.Outcome State Fault Refusal → Prop
  | .next t => t.Inv
  | _ => True

/-- What an issue leads to keeps the invariant. -/
def Issue.Inv : Issue → Prop
  | .fault _ => True
  | .opens s _ => s.Inv
  | .ends s _ => s.Inv

/-- A checked body keeps the invariant. -/
def BodyInv (x : Except OpFault Issue) : Prop := ∀ i, x = .ok i → i.Inv

/-- The tables of a state. -/
def Canon (mem : List Host.Cell) (regs : List (Nat × Word)) (tags : List (Nat × Nat)) (kdata imem : List (Nat × Byte))
    (engines : List (Nat × EngineSt)) (queues : List (Nat × QueueSt)) (ctxs : List (Nat × Ctx)) : Prop :=
  Memory.wf mem ∧ Registers.wf regs ∧ Tables.wf tags kdata imem engines queues ctxs

theorem inv_mk {p n f rg mm tg kd im l pt ct ti en qu cx mi mo re le fl ing ptp pa bu li at' jo he se pe po kt wo cy sn br de ou} :
    State.Inv (State.mk p n f rg mm tg kd im l pt ct ti en qu cx mi mo re le fl ing ptp pa bu li at' jo he se pe po kt wo cy sn br de
      ou) =
      Canon mm rg tg kd im en qu cx := rfl

/-- The invariant does not see the fields that are not tables. -/
theorem canon_of {s : State} (h : s.Inv) : Canon s.mem s.regs s.tags s.kdata s.imem s.engines s.queues s.ctxs := h

theorem inv_any {s : State} {x0 x1 x2 x3 x4 x5 x6 x7 x8 x9 x10 x11 x12 x13 x14 x15 x16 x17 x18 x19 x20 x21 x22 x23 x24 x25 x26 x27 x28 x29}
    (h : s.Inv) : State.Inv { s with
      pending := x0, now := x1, free := x2, larder := x3, pantry := x4, cellar := x5, tick := x6, mirrors := x7, moved := x8,
      returning := x9, leads := x10, flt := x11, ing := x12, ptp := x13, parts := x14, bundles := x15, links := x16,
      attic := x17, jobs := x18, health := x19, sec := x20, persist := x21, power := x22, ktag := x23, words := x24,
      cycle := x25, setNow := x26, broken := x27, dead := x28, outbox := x29 } := h

theorem ite_inv {c : Prop} [Decidable c] {a b : State} (ha : a.Inv) (hb : b.Inv) : (if c then a else b).Inv := by
  split
  · exact ha
  · exact hb

theorem ite_inv_fst {γ : Type} {c : Prop} [Decidable c] {a b : State × γ} (ha : a.1.Inv) (hb : b.1.Inv) :
    (if c then a else b).1.Inv := by
  split
  · exact ha
  · exact hb

/-- A state that is named keeps the invariant, and what follows may use that. -/
theorem inv_let {z : State} {Q : Prop} (val : z.Inv) (main : z.Inv → Q) : Q := main val

theorem foldl_inv {β : Type} {g : State → β → State} {l : List β} {s : State} (hg : ∀ s x, s.Inv → (g s x).Inv)
    (h : s.Inv) : (l.foldl g s).Inv := by
  induction l generalizing s with
  | nil => exact h
  | cons x l ih => exact ih (hg s x h)

theorem foldl_inv_fst {β γ : Type} {g : State × γ → β → State × γ} {l : List β} {a : State × γ}
    (hg : ∀ a x, a.1.Inv → (g a x).1.Inv) (h : a.1.Inv) : (l.foldl g a).1.Inv := by
  induction l generalizing a with
  | nil => exact h
  | cons x l ih => exact ih (hg a x h)

/-- The state of a pair whose first part keeps the invariant. -/
theorem inv_of_fst {γ : Type} {p : State × γ} {a : State} {b : γ} (e : p = (a, b)) (h : p.1.Inv) : a.Inv := by
  subst e; exact h

/-- The state of a pair whose second part keeps the invariant. -/
theorem inv_of_snd {γ : Type} {p : γ × State} {a : State} {b : γ} (e : p = (b, a)) (h : p.2.Inv) : a.Inv := by
  subst e; exact h

/-- The state that work on pages leaves. -/
theorem inv_of_work {γ : Type} {p : γ × PageWork} {w : PageWork} {b : γ} (e : p = (b, w)) (h : p.2.s.Inv) : w.s.Inv := by
  subst e; exact h

theorem inv_of_opens {i : Issue} {s : State} {o : OpenOp} (e : i = .opens s o) (h : i.Inv) : s.Inv := by
  subst e; exact h

theorem inv_of_ends {i : Issue} {s : State} {st : EndStatus} (e : i = .ends s st) (h : i.Inv) : s.Inv := by
  subst e; exact h

theorem bodyInv_ok {i : Issue} (h : i.Inv) : BodyInv (.ok i) := by
  intro j e; cases e; exact h

theorem bodyInv_error {f : OpFault} : BodyInv (.error f) := by
  intro j e; cases e

theorem bodyInv_pure {i : Issue} (h : i.Inv) : BodyInv (pure i) := bodyInv_ok h

theorem bodyInv_bind {β : Type} {x : Except OpFault β} {f : β → Except OpFault Issue} (h : ∀ a, BodyInv (f a)) :
    BodyInv (x >>= f) := by
  cases x with
  | error e => exact bodyInv_error
  | ok a => exact h a

/-- A checked continuation that is named keeps the invariant, and what follows may use that. -/
theorem body_let {α : Type} {z : α → Except OpFault Issue} {Q : Prop} (val : ∀ a, BodyInv (z a))
    (main : (∀ a, BodyInv (z a)) → Q) : Q := main val

theorem issueOf_inv {x : Except OpFault Issue} (h : BodyInv x) : (issueOf x).Inv := by
  cases x with
  | error f => exact trivial
  | ok i => exact h i rfl

theorem issue_fault {f : OpFault} : (Issue.fault f).Inv := trivial

theorem issue_opens {s : State} {o : OpenOp} (h : s.Inv) : (Issue.opens s o).Inv := h

theorem issue_ends {s : State} {st : EndStatus} (h : s.Inv) : (Issue.ends s st).Inv := h

theorem keeps_next {t : State} (h : t.Inv) : Keeps (.next t) := h

/-! ### Work on pages -/

/-- Work on pages keeps the invariant. -/
def WorkInv {α : Type} (m : Work α) : Prop := ∀ w : PageWork, w.s.Inv → (m w).2.s.Inv

section
variable {α β : Type}

theorem workInv_pure {a : α} : WorkInv (pure a : Work α) := fun _ h => h

theorem workInv_throw {f : OpFault} : WorkInv (throw f : Work α) := fun _ h => h

theorem workInv_bind {m : Work α} {f : α → Work β} (hm : WorkInv m) (hf : ∀ a, WorkInv (f a)) : WorkInv (m >>= f) := by
  intro w h
  have h1 := hm w h
  show ((m >>= f) w).2.s.Inv
  have e : (m >>= f) w = (match m w with
    | (.ok a, w') => f a w'
    | (.error e, w') => (.error e, w')) := by
    simp only [bind, ExceptT.bind, ExceptT.mk, StateT.bind]
    cases m w with
    | mk r w' => cases r <;> rfl
  rw [e]
  cases hr : m w with
  | mk r w' =>
    rw [hr] at h1
    cases r with
    | ok a => exact hf a w' h1
    | error e => exact h1

theorem workInv_get {f : PageWork → Work β} (hf : ∀ w : PageWork, w.s.Inv → WorkInv (f w)) : WorkInv (get >>= f) :=
  fun w h => hf w h w h

theorem workInv_set {w : PageWork} (hw : w.s.Inv) : WorkInv (set w : Work PUnit) := fun _ _ => hw

theorem workInv_modify {g : PageWork → PageWork} (hg : ∀ w, w.s.Inv → (g w).s.Inv) : WorkInv (modify g : Work PUnit) :=
  fun w h => hg w h

theorem workInv_tryCatch {m : Work α} {f : OpFault → Work α} (hm : WorkInv m) (hf : ∀ e, WorkInv (f e)) :
    WorkInv (tryCatch m f) := by
  intro w h
  have h1 := hm w h
  have e : (tryCatch m f : Work α) w = (match m w with
    | (.ok a, w') => (.ok a, w')
    | (.error e, w') => f e w') := by
    simp only [tryCatch, tryCatchThe, MonadExceptOf.tryCatch, ExceptT.tryCatch, ExceptT.mk, bind, StateT.bind]
    cases m w with
    | mk r w' => cases r <;> rfl
  rw [e]
  cases hr : m w with
  | mk r w' =>
    rw [hr] at h1
    cases r with
    | ok a => exact h1
    | error e => exact hf e w' h1

theorem workInv_foldlM {f : β → α → Work β} {l : List α} {b : β} (hf : ∀ b a, WorkInv (f b a)) : WorkInv (l.foldlM f b) := by
  induction l generalizing b with
  | nil => exact workInv_pure
  | cons x l ih => rw [List.foldlM_cons]; exact workInv_bind (hf b x) fun _ => ih

theorem workInv_mapM {f : α → Work β} {l : List α} (hf : ∀ a, WorkInv (f a)) : WorkInv (l.mapM f) := by
  induction l with
  | nil => rw [List.mapM_nil]; exact workInv_pure
  | cons x l ih =>
    rw [List.mapM_cons]
    exact workInv_bind (hf x) fun _ => workInv_bind ih fun _ => workInv_pure

theorem workInv_forM {f : α → Work PUnit} {l : List α} (hf : ∀ a, WorkInv (f a)) : WorkInv (l.forM f) := by
  induction l with
  | nil => exact workInv_pure
  | cons x l ih => exact workInv_bind (hf x) fun _ => ih

theorem workInv_forIn {f : α → β → Work (ForInStep β)} {l : List α} {b : β} (hf : ∀ a b, WorkInv (f a b)) :
    WorkInv (forIn l b f) := by
  induction l generalizing b with
  | nil => exact workInv_pure
  | cons x l ih =>
    rw [List.forIn_cons]
    refine workInv_bind (hf x b) fun r => ?_
    cases r with
    | done b => exact workInv_pure
    | yield b => exact ih

end

/-! ### The operations on tables -/

theorem State.wr_inv {s : State} {a v : Nat} (h : s.Inv) : (s.wr a v).Inv := ⟨h.1, tabSet_wf h.2.1, h.2.2⟩

theorem State.setEng_inv {s : State} {e : Nat} {x : EngineSt} (h : s.Inv) : (s.setEng e x).Inv :=
  ⟨h.1, h.2.1, { h.2.2 with engines := tabSet_wf h.2.2.engines }⟩

theorem State.setQueue_inv {s : State} {e q : Nat} {x : QueueSt} (h : s.Inv) : (s.setQueue e q x).Inv :=
  ⟨h.1, h.2.1, { h.2.2 with queues := tabSet_wf h.2.2.queues }⟩

theorem State.setCtx_inv {s : State} {e k : Nat} {x : Ctx} (h : s.Inv) : (s.setCtx e k x).Inv :=
  ⟨h.1, h.2.1, { h.2.2 with ctxs := tabSet_wf h.2.2.ctxs }⟩

theorem State.setTag_inv {s : State} {e b v : Nat} (h : s.Inv) : (s.setTag e b v).Inv :=
  ⟨h.1, h.2.1, { h.2.2 with tags := tabSet_wf h.2.2.tags }⟩

theorem State.kstore_inv {s : State} {e ofs : Nat} {bs : List Byte} (h : s.Inv) : (s.kstore e ofs bs).Inv :=
  ⟨h.1, h.2.1, { h.2.2 with kdata := tabSetList_wf h.2.2.kdata }⟩

/-- Memory written at consecutive bytes. -/
theorem inv_mem {s : State} {a : Nat} {bs : List Byte} {l} (h : s.Inv) :
    State.Inv { s with mem := tabSetList memDefault s.mem a bs, larder := l } := ⟨tabSetList_wf h.1, h.2⟩

theorem canon_mem {s : State} {a : Nat} {bs : List Byte} (h : s.Inv) :
    Canon (tabSetList memDefault s.mem a bs) s.regs s.tags s.kdata s.imem s.engines s.queues s.ctxs :=
  ⟨tabSetList_wf h.1, h.2⟩

/-- Memory with bytes dropped. -/
theorem canon_drop {s : State} {p : Host.Cell → Bool} (h : s.Inv) :
    Canon (s.mem.filter p) s.regs s.tags s.kdata s.imem s.engines s.queues s.ctxs := ⟨tabFilter_wf h.1, h.2⟩

/-- Instruction banks written at consecutive bytes. -/
theorem canon_imem {s : State} {a : Nat} {bs : List Byte} (h : s.Inv) :
    Canon s.mem s.regs s.tags s.kdata (tabSetList (fun _ => 0) s.imem a bs) s.engines s.queues s.ctxs :=
  ⟨h.1, h.2.1, { h.2.2 with imem := tabSetList_wf h.2.2.imem }⟩

/-- The register file emptied. -/
theorem canon_regs {s : State} (h : s.Inv) : Canon s.mem [] s.tags s.kdata s.imem s.engines s.queues s.ctxs := ⟨h.1, rfl, h.2.2⟩

/-- Empty tables. -/
theorem canon_empty : Canon [] [] [] [] [] [] [] [] := ⟨rfl, rfl, ⟨rfl, rfl, rfl, rfl, rfl, rfl⟩⟩

/-- What holds of both answers of a choice. -/
theorem ite_some_of {α : Type} {c : Prop} [Decidable c] {a b : Option α} {P : α → Prop} (ha : ∀ f, a = some f → P f)
    (hb : ∀ f, b = some f → P f) : ∀ f, (if c then a else b) = some f → P f := by
  split
  · exact ha
  · exact hb

end Sys2Proof.Machine
end

