-- ==== Sys2Proof/Laws/InvCore.lean ====
section
/-! SUPPORT. The invariant of State through registers, links, faults, phases and the homes of data: every operation and every command of these files keeps it. -/

namespace Sys2Proof.Machine

theorem State.setFld_inv {s : State} {a hi lo v : Nat} (hInv : s.Inv) : (State.setFld s a hi lo v).Inv := by
  unfold State.setFld
  with_reducible exact State.wr_inv (by assumption)

theorem State.setBit_inv {s : State} {a i : Nat} {b : Bool} (hInv : s.Inv) : (State.setBit s a i b).Inv := by
  unfold State.setBit
  with_reducible exact State.setFld_inv (by assumption)

theorem State.bump_inv {s : State} {a hi lo n : Nat} (hInv : s.Inv) : (State.bump s a hi lo n).Inv := by
  unfold State.bump
  with_reducible exact State.wr_inv (by assumption)

theorem State.event_inv {s : State} {a : Nat} {i : Nat} (hInv : s.Inv) : (State.event s a i).Inv := by
  unfold State.event
  repeat' first
    | with_reducible assumption
    | with_reducible apply State.setBit_inv
    | with_reducible intro _
    | dsimp only
    | (simp only [inv_mk]; with_reducible apply canon_of)
    | split

theorem State.freeByte_inv {s : State} (hInv : s.Inv) : (State.freeByte s).2.Inv := by
  unfold State.freeByte
  simp only [inv_mk]
  with_reducible exact canon_of (by assumption)

theorem State.freeNat_inv {s : State} (hInv : s.Inv) : (State.freeNat s).2.Inv := by
  unfold State.freeNat
  simp only [inv_mk]
  with_reducible exact canon_of (by assumption)

theorem State.emit_inv {s : State} {o : Output} (hInv : s.Inv) : (State.emit s o).Inv := by
  unfold State.emit
  simp only [inv_mk]
  with_reducible exact canon_of (by assumption)

theorem State.reached_inv {s : State} {place : Nat} {rank : Nat} (hInv : s.Inv) : (State.reached s place rank).Inv := by
  unfold State.reached
  repeat' first
    | with_reducible assumption
    | with_reducible intro _
    | dsimp only
    | (simp only [inv_mk]; with_reducible apply canon_of)

theorem State.setLink_inv {s : State} {n : Nat} {x : LinkSt} (hInv : s.Inv) : (State.setLink s n x).Inv := by
  unfold State.setLink
  simp only [inv_mk]
  with_reducible exact canon_of (by assumption)

theorem State.setLinkState_inv {s : State} {n st : Nat} (hInv : s.Inv) : (State.setLinkState s n st).Inv := by
  unfold State.setLinkState
  simp only
  split
  with_reducible exact State.setFld_inv (State.setFld_inv (by assumption))
  with_reducible exact State.setFld_inv (State.setFld_inv (State.setFld_inv (by assumption)))

theorem State.freeBuf_inv {s : State} {b : Option (Nat × Nat × Bool × Nat)} (hInv : s.Inv) : (s.freeBuf b).Inv := by
  unfold State.freeBuf
  split
  · exact hInv
  · exact State.setLink_inv hInv

theorem State.transmit_inv {s : State} {n : Nat} {q : Queued} (hInv : s.Inv) : (State.transmit s n q).Inv := by
  unfold State.transmit
  with_reducible apply State.freeBuf_inv
  split
  with_reducible exact State.emit_inv (State.setLink_inv (by assumption))
  with_reducible exact State.bump_inv (State.emit_inv (State.setLink_inv (by assumption)))

theorem State.drainLink_inv {s : State} {n k : Nat} (hInv : s.Inv) : (s.drainLink n k).Inv := by
  induction k generalizing s with
  | zero => exact hInv
  | succ k ih =>
    unfold State.drainLink
    repeat' first
      | with_reducible assumption
      | with_reducible apply ih
      | with_reducible apply State.transmit_inv
      | with_reducible apply State.setLink_inv
      | split
      | dsimp only

theorem State.sendOn_inv {s : State} {n : Nat} {q : Queued} (hInv : s.Inv) : (State.sendOn s n q).Inv := by
  unfold State.sendOn
  with_reducible exact State.drainLink_inv (State.setLink_inv (by assumption))

theorem State.sendNak_inv {s : State} {n : Nat} (hInv : s.Inv) : (State.sendNak s n).Inv := by
  unfold State.sendNak
  with_reducible exact State.sendOn_inv (by assumption)

theorem State.replay_inv {s : State} {n : Nat} (hInv : s.Inv) : (State.replay s n).Inv := by
  unfold State.replay
  with_reducible refine foldl_inv (fun _ _ _ => ?_) ?_
  with_reducible exact State.emit_inv (by assumption)
  with_reducible exact State.bump_inv (by assumption)

theorem State.linkReceive_inv {s : State} {n : Nat} {p : Packet} (hInv : s.Inv) : (State.linkReceive s n p).1.Inv := by
  unfold State.linkReceive
  simp only
  split
  with_reducible assumption
  split
  with_reducible apply State.drainLink_inv
  split
  with_reducible apply State.replay_inv
  split
  with_reducible exact State.setLink_inv (by assumption)
  with_reducible exact State.bump_inv (State.setLink_inv (by assumption))
  split
  with_reducible exact State.setLink_inv (by assumption)
  with_reducible exact State.bump_inv (State.setLink_inv (by assumption))
  split
  with_reducible assumption
  with_reducible exact State.sendNak_inv (by assumption)

theorem State.consume_inv {s : State} {n : Nat} {p : Packet} (hInv : s.Inv) : (State.consume s n p).Inv := by
  unfold State.consume
  simp only
  split
  with_reducible exact State.sendOn_inv (State.freeBuf_inv (by assumption))
  with_reducible exact State.freeBuf_inv (by assumption)

theorem State.atticSend_inv {s : State} {a : Nat} {bs : List Byte} (hInv : s.Inv) : (State.atticSend s a bs).Inv := by
  unfold State.atticSend
  with_reducible apply State.sendOn_inv
  simp only [inv_mk]
  with_reducible exact canon_of (by assumption)

theorem State.atticSendAll_inv {s : State} {a : Nat} {bs : List Byte} {k : Nat} (hInv : s.Inv) :
    (s.atticSendAll a bs k).Inv := by
  induction k generalizing s a bs with
  | zero => exact hInv
  | succ k ih =>
    unfold State.atticSendAll
    split
    · exact hInv
    · exact ih (State.atticSend_inv hInv)

theorem State.store_inv {s : State} {a : Nat} {bs : List Byte} (hInv : s.Inv) : (s.store a bs).Inv := by
  unfold State.store
  have h : State.Inv { s with mem := tabSetList memDefault s.mem a bs, larder := dropCopies s.larder a bs.length } := inv_mem hInv
  extract_lets s1
  have h1 : s1.Inv := h
  split
  · exact State.atticSendAll_inv h1
  · exact h1

theorem State.havoc_inv {s : State} {a n : Nat} (hInv : s.Inv) : (State.havoc s a n).Inv := by
  unfold State.havoc
  simp only [inv_mk]
  with_reducible exact canon_of (State.store_inv (by assumption))

theorem State.havocAll_inv {s : State} {l : List (Nat × Nat)} (hInv : s.Inv) : (s.havocAll l).Inv := by
  induction l generalizing s with
  | nil => exact hInv
  | cons x l ih => exact ih (State.havoc_inv hInv)

theorem State.setTier_inv {s : State} {tr : Tier} {x : TierSt} (hInv : s.Inv) : (State.setTier s tr x).Inv := by
  unfold State.setTier
  split
  simp only [inv_mk]
  with_reducible exact canon_of (by assumption)
  simp only [inv_mk]
  with_reducible exact canon_of (by assumption)

theorem State.setTags_inv {s : State} {e v : Nat} {bs : List Nat} (hInv : s.Inv) : (State.setTags s e v bs).Inv := by
  unfold State.setTags
  with_reducible refine foldl_inv (fun _ _ _ => ?_) ?_
  with_reducible exact State.setTag_inv (by assumption)
  with_reducible assumption

theorem State.setScalar_inv {s : State} {e q i v : Nat} (hInv : s.Inv) : (State.setScalar s e q i v).Inv := by
  unfold State.setScalar
  with_reducible exact State.kstore_inv (by assumption)

theorem State.dropPacket_inv {s : State} (hInv : s.Inv) : (State.dropPacket s).Inv := by
  unfold State.dropPacket
  repeat' first
    | with_reducible assumption
    | with_reducible apply State.event_inv
    | with_reducible apply State.bump_inv
    | with_reducible intro _
    | dsimp only
    | (simp only [inv_mk]; with_reducible apply canon_of)

theorem State.sendOwn_inv {s : State} {p : Packet} (hInv : s.Inv) : (State.sendOwn s p).Inv := by
  unfold State.sendOwn
  split
  with_reducible exact State.sendOn_inv (by assumption)
  with_reducible exact State.dropPacket_inv (by assumption)

theorem State.forward_inv {s : State} {src : Nat} {p : Packet} (hInv : s.Inv) : (State.forward s src p).Inv := by
  unfold State.forward
  simp only
  split
  with_reducible exact State.sendOn_inv (by assumption)
  split
  with_reducible exact State.sendOwn_inv (State.consume_inv (State.dropPacket_inv (by assumption)))
  with_reducible exact State.consume_inv (State.dropPacket_inv (by assumption))

theorem State.countNum_inv {s : State} {e : Nat} {n : NumCount} (hInv : s.Inv) : (State.countNum s e n).Inv := by
  unfold State.countNum
  split
  with_reducible assumption
  with_reducible exact State.event_inv (State.bump_inv (State.bump_inv (State.bump_inv (by assumption))))

theorem State.admitNor_inv {s : State} {cls : Nat} (hInv : s.Inv) : (State.admitNor s cls).2.Inv := by
  unfold State.admitNor
  simp only
  split
  with_reducible assumption
  split
  simp only [inv_mk]
  with_reducible exact canon_of (by assumption)
  split
  with_reducible assumption
  with_reducible exact State.bump_inv (by assumption)

theorem State.ringPost_inv {s : State} {bytes : List Byte} (hInv : s.Inv) : (State.ringPost s bytes).Inv := by
  unfold State.ringPost
  repeat' first
    | with_reducible assumption
    | with_reducible apply State.reached_inv
    | with_reducible apply State.setBit_inv
    | with_reducible apply State.bump_inv
    | with_reducible apply State.store_inv
    | with_reducible apply State.setFld_inv
    | with_reducible intro _
    | with_reducible refine ite_inv ?_ ?_
    | dsimp only
    | (simp only [inv_mk]; with_reducible apply canon_of)
    | split

theorem State.latchLast_inv {s : State} {bytes : List Byte} (hInv : s.Inv) : (State.latchLast s bytes).Inv := by
  unfold State.latchLast
  with_reducible refine foldl_inv (fun _ _ _ => ?_) ?_
  with_reducible exact State.wr_inv (by assumption)
  with_reducible assumption

theorem postFault_inv {s : State} {r : FaultRec} (hInv : s.Inv) : (postFault s r).Inv := by
  unfold postFault
  repeat' first
    | with_reducible assumption
    | with_reducible apply State.bump_inv
    | with_reducible apply State.admitNor_inv
    | with_reducible apply State.ringPost_inv
    | with_reducible apply State.latchLast_inv
    | with_reducible apply State.event_inv
    | with_reducible apply State.setBit_inv
    | with_reducible refine inv_of_fst (by with_reducible assumption) ?_
    | with_reducible refine inv_of_snd (by with_reducible assumption) ?_
    | with_reducible intro _
    | with_reducible refine ite_inv ?_ ?_
    | dsimp only
    | (simp only [inv_mk]; with_reducible apply canon_of)
    | split

theorem State.regAccess_inv {s : State} {a : Nat} (hInv : s.Inv) : (State.regAccess s a).Inv := by
  unfold State.regAccess
  with_reducible exact postFault_inv (by assumption)

theorem State.regReserved_inv {s : State} {a : Nat} (hInv : s.Inv) : (State.regReserved s a).Inv := by
  unfold State.regReserved
  with_reducible exact postFault_inv (by assumption)

theorem State.putElem_inv {s : State} {e : Nat} {t : Tensor} {r c v : Nat} (hInv : s.Inv) : (State.putElem s e t r c v).Inv := by
  unfold State.putElem
  simp only
  split
  with_reducible exact State.store_inv (by assumption)
  with_reducible exact State.store_inv (by assumption)

theorem State.putScale_inv {s : State} {e : Nat} {t : Tensor} {r c v : Nat} (hInv : s.Inv) : (State.putScale s e t r c v).Inv := by
  unfold State.putScale
  with_reducible exact State.store_inv (by assumption)

theorem State.setRun_inv {s : State} {p : Nat} {x : PhaseRun} (hInv : s.Inv) : (State.setRun s p x).Inv := by
  unfold State.setRun
  simp only [inv_mk]
  with_reducible exact canon_of (by assumption)

theorem State.clipBuckets_inv {s : State} (hInv : s.Inv) : (State.clipBuckets s).Inv := by
  unfold State.clipBuckets
  simp only [inv_mk]
  with_reducible exact canon_of (by assumption)

theorem State.writePhTime_inv {s : State} {p : Nat} (hInv : s.Inv) : (State.writePhTime s p).Inv := by
  unfold State.writePhTime
  with_reducible exact State.wr_inv (by assumption)

theorem State.finishPhase_inv {s : State} {p : Nat} {st : PhState} (hInv : s.Inv) : (State.finishPhase s p st).Inv := by
  unfold State.finishPhase
  with_reducible exact State.clipBuckets_inv (State.writePhTime_inv (State.setRun_inv (by assumption)))

theorem State.endPhase_inv {s : State} {p : Nat} (hInv : s.Inv) : (State.endPhase s p).Inv := by
  unfold State.endPhase
  simp only
  split
  with_reducible exact State.finishPhase_inv (by assumption)
  split
  split
  with_reducible exact State.finishPhase_inv (by assumption)
  with_reducible exact State.finishPhase_inv (State.event_inv (State.bump_inv (by assumption)))
  with_reducible assumption

theorem State.phaseCommit_inv {s : State} {p : Nat} {committed : Bool} (hInv : s.Inv) : (State.phaseCommit s p committed).Inv := by
  unfold State.phaseCommit
  repeat' first
    | with_reducible assumption
    | with_reducible apply State.setRun_inv
    | with_reducible apply State.finishPhase_inv
    | with_reducible apply State.endPhase_inv
    | with_reducible intro _
    | with_reducible refine ite_inv ?_ ?_
    | dsimp only
    | (simp only [inv_mk]; with_reducible apply canon_of)
    | split

theorem State.noteCtx_inv {s : State} {e k : Nat} (hInv : s.Inv) : (State.noteCtx s e k).Inv := by
  unfold State.noteCtx
  simp only
  split
  with_reducible assumption
  with_reducible exact State.setCtx_inv (by assumption)

theorem State.noteCtxs_inv {s : State} (hInv : s.Inv) : (State.noteCtxs s).Inv := by
  unfold State.noteCtxs
  with_reducible refine foldl_inv (fun _ _ _ => ?_) ?_
  with_reducible exact State.noteCtx_inv (by assumption)
  with_reducible assumption

theorem State.chargeClients_inv {s : State} {t : Nat} (hInv : s.Inv) : (State.chargeClients s t).Inv := by
  unfold State.chargeClients
  with_reducible refine foldl_inv (fun _ _ _ => ?_) ?_
  split
  with_reducible exact State.bump_inv (by assumption)
  with_reducible assumption
  with_reducible assumption

theorem State.workBegins_inv {s : State} {e : Nat} (hInv : s.Inv) : (State.workBegins s e).Inv := by
  unfold State.workBegins
  repeat' first
    | with_reducible assumption
    | with_reducible apply State.bump_inv
    | with_reducible apply State.setEng_inv
    | with_reducible apply State.setFld_inv
    | with_reducible refine inv_of_fst (by with_reducible assumption) ?_
    | with_reducible refine inv_of_snd (by with_reducible assumption) ?_
    | with_reducible intro _
    | with_reducible refine ite_inv ?_ ?_
    | dsimp only
    | (simp only [inv_mk]; with_reducible apply canon_of)
    | split

theorem State.workEnds_inv {s : State} {e : Nat} (hInv : s.Inv) : (State.workEnds s e).Inv := by
  unfold State.workEnds
  repeat' first
    | with_reducible assumption
    | with_reducible apply State.setEng_inv
    | with_reducible intro _
    | dsimp only
    | (simp only [inv_mk]; with_reducible apply canon_of)

theorem State.noteArrays_inv {s : State} {e : Nat} (hInv : s.Inv) : (State.noteArrays s e).Inv := by
  unfold State.noteArrays
  repeat' first
    | with_reducible assumption
    | with_reducible apply State.workBegins_inv
    | with_reducible apply State.workEnds_inv
    | with_reducible intro _
    | with_reducible refine ite_inv ?_ ?_
    | dsimp only
    | (simp only [inv_mk]; with_reducible apply canon_of)
    | split

theorem State.noteEngines_inv {s : State} (hInv : s.Inv) : (State.noteEngines s).Inv := by
  unfold State.noteEngines
  repeat' first
    | with_reducible assumption
    | with_reducible apply State.noteArrays_inv
    | with_reducible refine foldl_inv (fun _ _ _ => ?_) ?_
    | with_reducible refine foldl_inv_fst (fun _ _ _ => ?_) ?_
    | with_reducible intro _
    | dsimp only
    | (simp only [inv_mk]; with_reducible apply canon_of)

theorem State.chargeHold_inv {s : State} {t : Nat} {e : Nat} (hInv : s.Inv) : (State.chargeHold s t e).Inv := by
  unfold State.chargeHold
  repeat' first
    | with_reducible assumption
    | with_reducible apply State.freeNat_inv
    | with_reducible apply State.bump_inv
    | with_reducible apply State.setEng_inv
    | with_reducible refine inv_of_fst (by with_reducible assumption) ?_
    | with_reducible refine inv_of_snd (by with_reducible assumption) ?_
    | with_reducible intro _
    | with_reducible refine ite_inv ?_ ?_
    | dsimp only
    | (simp only [inv_mk]; with_reducible apply canon_of)
    | split

theorem State.chargeHolds_inv {s : State} {t : Nat} (hInv : s.Inv) : (State.chargeHolds s t).Inv := by
  unfold State.chargeHolds
  repeat' first
    | with_reducible assumption
    | with_reducible apply State.chargeHold_inv
    | with_reducible refine foldl_inv (fun _ _ _ => ?_) ?_
    | with_reducible refine foldl_inv_fst (fun _ _ _ => ?_) ?_
    | with_reducible intro _
    | dsimp only
    | (simp only [inv_mk]; with_reducible apply canon_of)

theorem State.markStalled_inv {s : State} {e q : Nat} (hInv : s.Inv) : (State.markStalled s e q).Inv := by
  unfold State.markStalled
  simp only
  split
  with_reducible exact State.setQueue_inv (by assumption)
  with_reducible assumption

theorem State.chargeStalls_inv {s : State} {t : Nat} {tr : Tier} {p : Nat} (hInv : s.Inv) : (State.chargeStalls s t tr p).Inv := by
  unfold State.chargeStalls
  simp only
  split
  with_reducible assumption
  with_reducible refine foldl_inv (fun _ _ _ => ?_) ?_
  split
  with_reducible exact State.markStalled_inv (by assumption)
  with_reducible assumption
  with_reducible exact State.bump_inv (State.bump_inv (State.bump_inv (State.bump_inv (by assumption))))

theorem State.chargeAll_inv {s : State} {t : Nat} (hInv : s.Inv) : (State.chargeAll s t).Inv := by
  unfold State.chargeAll
  simp only
  split
  with_reducible assumption
  with_reducible refine foldl_inv (fun _ _ _ => ?_) ?_
  with_reducible exact State.chargeStalls_inv (State.chargeStalls_inv (by assumption))
  with_reducible assumption

theorem State.endQuiet_inv {s : State} (hInv : s.Inv) : (State.endQuiet s).Inv := by
  unfold State.endQuiet
  with_reducible refine foldl_inv (fun _ _ _ => ?_) ?_
  split
  with_reducible exact State.endPhase_inv (by assumption)
  with_reducible assumption
  with_reducible assumption

theorem State.advance_inv {s : State} {t : Nat} (hInv : s.Inv) : (State.advance s t).Inv := by
  unfold State.advance
  repeat' first
    | with_reducible assumption
    | with_reducible apply State.noteEngines_inv
    | with_reducible apply State.noteCtxs_inv
    | with_reducible apply State.chargeAll_inv
    | with_reducible apply State.chargeHolds_inv
    | with_reducible apply State.chargeClients_inv
    | with_reducible apply State.endQuiet_inv
    | with_reducible intro _
    | with_reducible refine ite_inv ?_ ?_
    | dsimp only
    | (simp only [inv_mk]; with_reducible apply canon_of)
    | split

theorem State.inOrder_inv {s : State} {place : Nat} {rank : Nat} (hInv : s.Inv) : (State.inOrder s place rank).Inv := by
  unfold State.inOrder
  repeat' first
    | with_reducible assumption
    | with_reducible apply State.advance_inv
    | with_reducible apply State.reached_inv
    | with_reducible intro _
    | with_reducible refine ite_inv ?_ ?_
    | dsimp only
    | (simp only [inv_mk]; with_reducible apply canon_of)
    | split

theorem State.live_inv {s : State} {t : Nat} {f : State → State} (hInv : s.Inv) (hf : ∀ s, s.Inv → (f s).Inv) :
    (s.live t f).Inv := by
  have h := State.advance_inv (t := t) hInv
  unfold State.live
  extract_lets s1
  split
  · exact h
  · exact hf _ h

theorem State.claimLine_inv {s : State} {a n : Nat} (hInv : s.Inv) : (State.claimLine s a n).Inv := by
  unfold State.claimLine
  simp only [inv_mk]
  with_reducible exact canon_of (by assumption)

theorem State.storeIfChanged_inv {s : State} {a : Nat} {bs : List Byte} (hInv : s.Inv) : (State.storeIfChanged s a bs).Inv := by
  unfold State.storeIfChanged
  split
  with_reducible assumption
  with_reducible exact State.store_inv (by assumption)

theorem State.noteAtomic_inv {s : State} {a code : Nat} (hInv : s.Inv) : (State.noteAtomic s a code).Inv := by
  unfold State.noteAtomic
  split
  with_reducible exact State.event_inv (State.wr_inv (by assumption))
  with_reducible assumption

theorem State.doAtomic_inv {s : State} {a : Nat} {r : AtomReq} (hInv : s.Inv) : (State.doAtomic s a r).1.Inv := by
  unfold State.doAtomic
  simp only
  split
  with_reducible exact State.noteAtomic_inv (State.claimLine_inv (by assumption))
  with_reducible exact State.storeIfChanged_inv (State.claimLine_inv (by assumption))

theorem State.doRed_inv {s : State} {a : Nat} {op : RedOp} {mask : Nat} {data : List Byte} (hInv : s.Inv) : (State.doRed s a op mask data).Inv := by
  unfold State.doRed
  with_reducible exact State.storeIfChanged_inv (State.claimLine_inv (by assumption))

theorem State.failOp_inv {s : State} {e q code addr : Nat} (hInv : s.Inv) : (State.failOp s e q code addr).Inv := by
  unfold State.failOp
  simp only
  split
  with_reducible assumption
  with_reducible exact State.setQueue_inv (by assumption)

theorem State.noteReject_inv {s : State} {port part addr code : Nat} (hInv : s.Inv) : (State.noteReject s port part addr code).Inv := by
  unfold State.noteReject
  simp only
  split
  with_reducible exact State.event_inv (State.bump_inv (by assumption))
  with_reducible apply postFault_inv
  simp only [inv_mk]
  with_reducible exact canon_of (State.event_inv (State.bump_inv (by assumption)))

theorem State.answer_inv {s : State} {w : Waiting} {code : Nat} {addr : Nat} {data : List Byte} (hInv : s.Inv) : (State.answer s w code addr data).Inv := by
  unfold State.answer
  repeat' first
    | with_reducible assumption
    | with_reducible apply State.sendOn_inv
    | with_reducible apply State.noteReject_inv
    | with_reducible apply State.sendOwn_inv
    | with_reducible apply State.emit_inv
    | with_reducible apply State.failOp_inv
    | with_reducible refine inv_of_fst (by with_reducible assumption) ?_
    | with_reducible refine inv_of_snd (by with_reducible assumption) ?_
    | with_reducible intro _
    | with_reducible refine ite_inv ?_ ?_
    | dsimp only
    | (simp only [inv_mk]; with_reducible apply canon_of)
    | split

theorem State.answerAtom_inv {s : State} {w : Waiting} {r : HomeAnswer} {width : Nat} (hInv : s.Inv) : (State.answerAtom s w r width).Inv := by
  unfold State.answerAtom
  simp only
  split
  with_reducible exact State.answer_inv (by assumption)
  split
  with_reducible exact State.emit_inv (by assumption)
  split
  with_reducible exact State.failOp_inv (State.emit_inv (by assumption))
  with_reducible exact State.emit_inv (by assumption)

end Sys2Proof.Machine
end

