-- ==== Sys2Proof/Laws/InvMemory.lean ====
section
/-! SUPPORT. The invariant of State through the Attic, memory requests, pins and credits: every operation and every command of these files keeps it. -/

namespace Sys2Proof.Machine

theorem State.setSector_inv {s : State} {n : Nat} {x : AtticSec} (hInv : s.Inv) : (State.setSector s n x).Inv := by
  unfold State.setSector
  simp only [inv_mk]
  with_reducible exact canon_of (by assumption)

theorem State.askSector_inv {s : State} {n : Nat} {own : Bool} (hInv : s.Inv) : (State.askSector s n own).Inv := by
  unfold State.askSector
  simp only
  split
  with_reducible assumption
  with_reducible apply State.sendOn_inv
  with_reducible apply State.setSector_inv
  simp only [inv_mk]
  with_reducible exact canon_of (by assumption)

theorem State.atticRead_inv {s : State} {w : Waiting} (hInv : s.Inv) : (State.atticRead s w).Inv := by
  unfold State.atticRead
  repeat' first
    | with_reducible assumption
    | with_reducible apply State.inOrder_inv
    | with_reducible apply State.askSector_inv
    | with_reducible refine foldl_inv (fun _ _ _ => ?_) ?_
    | with_reducible refine foldl_inv_fst (fun _ _ _ => ?_) ?_
    | with_reducible intro _
    | with_reducible refine ite_inv ?_ ?_
    | dsimp only
    | (simp only [inv_mk]; with_reducible apply canon_of)
    | split

theorem State.serveAttic_inv {s : State} (hInv : s.Inv) : (State.serveAttic s).Inv := by
  unfold State.serveAttic
  with_reducible refine foldl_inv (fun _ _ _ => ?_) ?_
  with_reducible exact State.answer_inv (by assumption)
  simp only [inv_mk]
  with_reducible exact canon_of (by assumption)

theorem State.sentFor_inv {s : State} {n : Nat} {w : Waiting} (hInv : s.Inv) : (State.sentFor s n w).Inv := by
  unfold State.sentFor
  repeat' first
    | with_reducible assumption
    | with_reducible intro _
    | dsimp only
    | (simp only [inv_mk]; with_reducible apply canon_of)

theorem State.atticPerform_inv {s : State} {w : AtticAtom} (hInv : s.Inv) : (State.atticPerform s w).Inv := by
  unfold State.atticPerform
  repeat' first
    | with_reducible assumption
    | with_reducible apply State.doAtomic_inv
    | with_reducible apply State.answerAtom_inv
    | with_reducible apply State.sentFor_inv
    | with_reducible apply State.setQueue_inv
    | with_reducible apply State.doRed_inv
    | with_reducible refine inv_of_fst (by with_reducible assumption) ?_
    | with_reducible refine inv_of_snd (by with_reducible assumption) ?_
    | with_reducible intro _
    | with_reducible refine ite_inv ?_ ?_
    | dsimp only
    | (simp only [inv_mk]; with_reducible apply canon_of)
    | split

theorem State.atticAtomic_inv {s : State} {w : AtticAtom} (hInv : s.Inv) : (State.atticAtomic s w).Inv := by
  unfold State.atticAtomic
  simp only
  split
  with_reducible exact State.atticPerform_inv (by assumption)
  with_reducible refine foldl_inv (fun _ _ _ => ?_) ?_
  split
  with_reducible assumption
  with_reducible exact State.askSector_inv (by assumption)
  simp only [inv_mk]
  with_reducible exact canon_of (by assumption)

theorem State.serveAtoms_inv {s : State} {k : Nat} (hInv : s.Inv) : (s.serveAtoms k).Inv := by
  induction k generalizing s with
  | zero => exact hInv
  | succ k ih =>
    unfold State.serveAtoms
    split
    · exact hInv
    · split
      · exact ih (State.atticPerform_inv (inv_any hInv))
      · exact hInv

theorem State.noteAttic_inv {s : State} {a : Nat} {timeout : Bool} (hInv : s.Inv) : (State.noteAttic s a timeout).Inv := by
  unfold State.noteAttic
  repeat' first
    | with_reducible assumption
    | with_reducible apply State.wr_inv
    | with_reducible apply State.event_inv
    | with_reducible apply State.bump_inv
    | with_reducible apply postFault_inv
    | with_reducible intro _
    | with_reducible refine ite_inv ?_ ?_
    | dsimp only
    | (simp only [inv_mk]; with_reducible apply canon_of)
    | split

theorem State.failSector_inv {s : State} {n code : Nat} (hInv : s.Inv) : (State.failSector s n code).Inv := by
  unfold State.failSector
  with_reducible refine foldl_inv (fun _ _ _ => ?_) ?_
  with_reducible exact State.answerAtom_inv (by assumption)
  with_reducible refine foldl_inv (fun _ _ _ => ?_) ?_
  with_reducible exact State.answer_inv (by assumption)
  simp only [inv_mk]
  with_reducible exact canon_of (State.setSector_inv (by assumption))

theorem State.failWrite_inv {s : State} {w : AtticWrite} {code : Nat} (hInv : s.Inv) : (State.failWrite s w code).Inv := by
  unfold State.failWrite
  repeat' first
    | with_reducible assumption
    | with_reducible apply State.setQueue_inv
    | with_reducible apply State.answer_inv
    | with_reducible refine inv_of_fst (by with_reducible assumption) ?_
    | with_reducible refine inv_of_snd (by with_reducible assumption) ?_
    | with_reducible intro _
    | with_reducible refine ite_inv ?_ ?_
    | dsimp only
    | (simp only [inv_mk]; with_reducible apply canon_of)
    | split

theorem State.atticLost_inv {s : State} (hInv : s.Inv) : (State.atticLost s).Inv := by
  unfold State.atticLost
  simp only [inv_mk]
  with_reducible apply canon_of
  with_reducible refine foldl_inv (fun _ _ _ => ?_) ?_
  with_reducible exact State.failWrite_inv (by assumption)
  with_reducible refine foldl_inv (fun _ _ _ => ?_) ?_
  with_reducible exact State.failSector_inv (by assumption)
  with_reducible assumption

theorem State.atticData_inv {s : State} {p : Packet} {st : AtticState} (hInv : s.Inv) : (State.atticData s p st).Inv := by
  unfold State.atticData
  repeat' first
    | with_reducible assumption
    | with_reducible apply State.inOrder_inv
    | with_reducible apply State.failSector_inv
    | with_reducible apply State.noteAttic_inv
    | with_reducible apply State.setSector_inv
    | with_reducible apply State.serveAtoms_inv
    | with_reducible apply State.serveAttic_inv
    | with_reducible refine inv_of_fst (by with_reducible assumption) ?_
    | with_reducible refine inv_of_snd (by with_reducible assumption) ?_
    | with_reducible intro _
    | with_reducible refine ite_inv ?_ ?_
    | dsimp only
    | (simp only [inv_mk]; with_reducible apply canon_of)
    | split
    | (simp only [inv_mk]; with_reducible apply canon_mem)

theorem State.snoop_inv {s : State} {p : Packet} {after : AtticState → AtticState} (hInv : s.Inv) : (State.snoop s p after).Inv := by
  unfold State.snoop
  repeat' first
    | with_reducible assumption
    | with_reducible apply State.inOrder_inv
    | with_reducible apply State.setSector_inv
    | with_reducible apply State.sendOn_inv
    | with_reducible intro _
    | with_reducible refine ite_inv ?_ ?_
    | dsimp only
    | (simp only [inv_mk]; with_reducible apply canon_of)
    | split

theorem State.refetch_inv {s : State} {n : Nat} (hInv : s.Inv) : (State.refetch s n).Inv := by
  unfold State.refetch
  split
  with_reducible exact State.askSector_inv (State.bump_inv (by assumption))
  with_reducible assumption

theorem State.fromCompanion_inv {s : State} {p : Packet} {f : State → State} (hInv : s.Inv)
    (hf : ∀ s, s.Inv → (f s).Inv) : (s.fromCompanion p f).Inv := by
  unfold State.fromCompanion
  split
  · rename_i e; exact State.consume_inv (hf _ (inv_of_fst e (State.linkReceive_inv hInv)))
  · rename_i e; exact inv_of_fst e (State.linkReceive_inv hInv)

theorem execDataS_inv {s : State} {t : Nat} {p : Packet} (hInv : s.Inv) : Keeps (execDataS t p s) := by
  unfold execDataS
  with_reducible apply keeps_next
  with_reducible refine State.live_inv ?_ (fun _ _ => ?_)
  with_reducible assumption
  with_reducible refine State.fromCompanion_inv ?_ (fun _ _ => ?_)
  with_reducible assumption
  with_reducible exact State.atticData_inv (by assumption)

theorem execDataE_inv {s : State} {t : Nat} {p : Packet} (hInv : s.Inv) : Keeps (execDataE t p s) := by
  unfold execDataE
  with_reducible apply keeps_next
  with_reducible refine State.live_inv ?_ (fun _ _ => ?_)
  with_reducible assumption
  with_reducible refine State.fromCompanion_inv ?_ (fun _ _ => ?_)
  with_reducible assumption
  with_reducible exact State.atticData_inv (by assumption)

theorem execWrAck_inv {t : Nat} {p : Packet} {s : State} (hInv : s.Inv) : Keeps (execWrAck t p s) := by
  unfold execWrAck
  repeat' first
    | with_reducible assumption
    | with_reducible exact trivial
    | with_reducible apply keeps_next
    | with_reducible apply State.live_inv
    | with_reducible apply State.fromCompanion_inv
    | with_reducible apply State.inOrder_inv
    | with_reducible apply State.failWrite_inv
    | with_reducible apply State.noteAttic_inv
    | with_reducible refine inv_of_fst (by with_reducible assumption) ?_
    | with_reducible refine inv_of_snd (by with_reducible assumption) ?_
    | with_reducible intro _
    | with_reducible refine ite_inv ?_ ?_
    | with_reducible refine ite_inv_fst ?_ ?_
    | dsimp only
    | (simp only [inv_mk]; with_reducible apply canon_of)
    | split

theorem execSnpInv_inv {s : State} {t : Nat} {p : Packet} (hInv : s.Inv) : Keeps (execSnpInv t p s) := by
  unfold execSnpInv
  with_reducible apply keeps_next
  with_reducible refine State.live_inv ?_ (fun _ _ => ?_)
  with_reducible assumption
  with_reducible refine State.fromCompanion_inv ?_ (fun _ _ => ?_)
  with_reducible assumption
  with_reducible exact State.refetch_inv (State.snoop_inv (by assumption))

theorem execSnpShared_inv {s : State} {t : Nat} {p : Packet} (hInv : s.Inv) : Keeps (execSnpShared t p s) := by
  unfold execSnpShared
  with_reducible apply keeps_next
  with_reducible refine State.live_inv ?_ (fun _ _ => ?_)
  with_reducible assumption
  with_reducible refine State.fromCompanion_inv ?_ (fun _ _ => ?_)
  with_reducible assumption
  with_reducible exact State.snoop_inv (by assumption)

theorem execAtticTimeout_inv {t : Nat} {da : Nat} {s : State} (hInv : s.Inv) : Keeps (execAtticTimeout t da s) := by
  unfold execAtticTimeout
  repeat' first
    | with_reducible assumption
    | with_reducible exact trivial
    | with_reducible apply keeps_next
    | with_reducible apply State.advance_inv
    | with_reducible apply State.failSector_inv
    | with_reducible apply State.noteAttic_inv
    | with_reducible apply State.inOrder_inv
    | with_reducible apply State.failWrite_inv
    | with_reducible refine inv_of_fst (by with_reducible assumption) ?_
    | with_reducible refine inv_of_snd (by with_reducible assumption) ?_
    | with_reducible intro _
    | with_reducible refine ite_inv ?_ ?_
    | with_reducible refine ite_inv_fst ?_ ?_
    | dsimp only
    | (simp only [inv_mk]; with_reducible apply canon_of)
    | split

theorem State.windowStore_inv {s : State} {a : Nat} {bs : List Byte} (hInv : s.Inv) : (State.windowStore s a bs).Inv := by
  unfold State.windowStore
  repeat' first
    | with_reducible assumption
    | with_reducible apply State.havocAll_inv
    | with_reducible apply State.store_inv
    | with_reducible refine inv_of_fst (by with_reducible assumption) ?_
    | with_reducible refine inv_of_snd (by with_reducible assumption) ?_
    | with_reducible intro _
    | with_reducible refine ite_inv ?_ ?_
    | dsimp only
    | (simp only [inv_mk]; with_reducible apply canon_of)
    | split

theorem State.noteCe_inv {s : State} {tr : Tier} {a : Nat} {es : Errs} (hInv : s.Inv) : (State.noteCe s tr a es).Inv := by
  unfold State.noteCe
  with_reducible exact State.event_inv (State.wr_inv (State.bump_inv (by assumption)))

theorem State.channelEvent_inv {s : State} {tr : Tier} {a : Nat} (hInv : s.Inv) : (State.channelEvent s tr a).Inv := by
  unfold State.channelEvent
  with_reducible exact State.setTier_inv (by assumption)

theorem State.markDead_inv {s : State} {a : Nat} {n : Nat} {info : Nat} (hInv : s.Inv) : (State.markDead s a n info).Inv := by
  unfold State.markDead
  repeat' first
    | with_reducible assumption
    | with_reducible intro _
    | with_reducible refine ite_inv ?_ ?_
    | dsimp only
    | (simp only [inv_mk]; with_reducible apply canon_of)
    | split

theorem State.noteUe_inv {s : State} {tr : Tier} {a : Nat} {info : Nat} (hInv : s.Inv) : (State.noteUe s tr a info).Inv := by
  unfold State.noteUe
  repeat' first
    | with_reducible assumption
    | with_reducible apply State.wr_inv
    | with_reducible apply State.bump_inv
    | with_reducible apply State.channelEvent_inv
    | with_reducible apply State.event_inv
    | with_reducible apply postFault_inv
    | with_reducible intro _
    | dsimp only
    | (simp only [inv_mk]; with_reducible apply canon_of)

theorem State.judge_inv {s : State} {tr : Tier} {a : Nat} {es : Errs} (hInv : s.Inv) : (State.judge s tr a es).1.Inv := by
  unfold State.judge
  repeat' first
    | with_reducible assumption
    | with_reducible apply State.noteCe_inv
    | with_reducible apply State.noteUe_inv
    | with_reducible apply State.markDead_inv
    | with_reducible refine inv_of_fst (by with_reducible assumption) ?_
    | with_reducible refine inv_of_snd (by with_reducible assumption) ?_
    | with_reducible intro _
    | with_reducible refine ite_inv ?_ ?_
    | with_reducible refine ite_inv_fst ?_ ?_
    | dsimp only
    | (simp only [inv_mk]; with_reducible apply canon_of)
    | split

theorem State.judgeWords_inv {s : State} {tr : Tier} {base : Nat} {errs : List SymErr} {words : List Nat} (hInv : s.Inv) :
    (s.judgeWords tr base errs words).s.Inv := by
  unfold State.judgeWords
  have key : ∀ (l : List Nat) (j : Judged), j.s.Inv → (l.foldl (fun j i =>
      let a := base + i * tr.word
      match j.s.judge tr a (errsOf errs i) with
      | (s, some d) => { j with s := s, diffs := j.diffs ++ [(a, d)] }
      | (s, none) => { j with s := s, bad := some (j.bad.getD a) }) j).s.Inv := by
    intro l
    induction l with
    | nil => intro j h; exact h
    | cons x l ih =>
      intro j h
      refine ih _ ?_
      dsimp only
      split
      · rename_i e; exact inv_of_fst e (State.judge_inv h)
      · rename_i e; exact inv_of_fst e (State.judge_inv h)
  exact key words { s := s } hInv

theorem State.noteWordUe_inv {s : State} {a : Nat} {die : Nat} (hInv : s.Inv) : (State.noteWordUe s a die).Inv := by
  unfold State.noteWordUe
  repeat' first
    | with_reducible assumption
    | with_reducible apply State.wr_inv
    | with_reducible apply State.event_inv
    | with_reducible apply State.bump_inv
    | with_reducible intro _
    | dsimp only
    | (simp only [inv_mk]; with_reducible apply canon_of)

theorem State.noteDead_inv {s : State} {a : Nat} (hInv : s.Inv) : (State.noteDead s a).Inv := by
  unfold State.noteDead
  repeat' first
    | with_reducible assumption
    | with_reducible apply State.noteWordUe_inv
    | with_reducible apply State.noteUe_inv
    | with_reducible refine inv_of_fst (by with_reducible assumption) ?_
    | with_reducible refine inv_of_snd (by with_reducible assumption) ?_
    | with_reducible intro _
    | with_reducible refine ite_inv ?_ ?_
    | dsimp only
    | (simp only [inv_mk]; with_reducible apply canon_of)
    | split

theorem State.storeDiffs_inv {s : State} {tr : Tier} {diffs : List (Nat × Errs)} (hInv : s.Inv) : (State.storeDiffs s tr diffs).Inv := by
  unfold State.storeDiffs
  with_reducible refine foldl_inv (fun _ _ _ => ?_) ?_
  split
  with_reducible assumption
  with_reducible exact State.storeIfChanged_inv (by assumption)
  with_reducible assumption

theorem State.refuse_inv {s : State} {w : Waiting} {code : Nat} {b : Nat} (hInv : s.Inv) : (State.refuse s w code b).Inv := by
  unfold State.refuse
  repeat' first
    | with_reducible assumption
    | with_reducible apply State.answerAtom_inv
    | with_reducible apply State.answer_inv
    | with_reducible refine inv_of_fst (by with_reducible assumption) ?_
    | with_reducible refine inv_of_snd (by with_reducible assumption) ?_
    | with_reducible intro _
    | dsimp only
    | (simp only [inv_mk]; with_reducible apply canon_of)
    | split

theorem State.perform_inv {s : State} {tr : Tier} {w : Waiting} (hInv : s.Inv) : (State.perform s tr w).Inv := by
  unfold State.perform
  repeat' first
    | with_reducible assumption
    | with_reducible apply State.refuse_inv
    | with_reducible apply State.noteDead_inv
    | with_reducible apply State.judgeWords_inv
    | with_reducible apply State.answer_inv
    | with_reducible apply State.store_inv
    | with_reducible apply State.storeDiffs_inv
    | with_reducible apply State.doAtomic_inv
    | with_reducible apply State.answerAtom_inv
    | with_reducible apply State.doRed_inv
    | with_reducible refine inv_of_fst (by with_reducible assumption) ?_
    | with_reducible refine inv_of_snd (by with_reducible assumption) ?_
    | with_reducible intro _
    | with_reducible refine ite_inv ?_ ?_
    | dsimp only
    | (simp only [inv_mk]; with_reducible apply canon_of)
    | split

theorem State.keep_inv {s : State} {tr : Tier} {w : Waiting} (hInv : s.Inv) : (State.keep s tr w).Inv := by
  unfold State.keep
  with_reducible exact State.setTier_inv (by assumption)

theorem State.performReady_inv {s : State} {tr : Tier} {a2 : Nat} (hInv : s.Inv) : (State.performReady s tr a2).Inv := by
  induction a2 generalizing s tr with
  | zero =>
    unfold State.performReady
    repeat' first
      | with_reducible assumption
      | with_reducible apply State.perform_inv
      | with_reducible apply State.setTier_inv
      | with_reducible refine inv_of_fst (by with_reducible assumption) ?_
      | with_reducible refine inv_of_snd (by with_reducible assumption) ?_
      | with_reducible intro _
      | dsimp only
      | (simp only [inv_mk]; with_reducible apply canon_of)
      | split
  | succ k ih =>
    unfold State.performReady
    repeat' first
      | with_reducible assumption
      | with_reducible apply ih
      | with_reducible assumption
      | with_reducible apply State.perform_inv
      | with_reducible apply State.setTier_inv
      | with_reducible refine inv_of_fst (by with_reducible assumption) ?_
      | with_reducible refine inv_of_snd (by with_reducible assumption) ?_
      | with_reducible intro _
      | dsimp only
      | (simp only [inv_mk]; with_reducible apply canon_of)
      | split

theorem State.settleTier_inv {s : State} {tr : Tier} (hInv : s.Inv) : (State.settleTier s tr).Inv := by
  unfold State.settleTier
  repeat' first
    | with_reducible assumption
    | with_reducible apply State.performReady_inv
    | with_reducible intro _
    | dsimp only
    | (simp only [inv_mk]; with_reducible apply canon_of)

theorem State.charge_inv {s : State} {tr : Tier} {p n : Nat} (hInv : s.Inv) : (State.charge s tr p n).Inv := by
  unfold State.charge
  with_reducible exact State.setTier_inv (by assumption)

theorem State.admitTier_inv {s : State} {tr : Tier} {p n : Nat} (hInv : s.Inv) : (State.admitTier s tr p n).1.Inv := by
  unfold State.admitTier
  with_reducible exact State.charge_inv (by assumption)

theorem State.admitOp_inv {s : State} {tr : Tier} {o : OpenOp} (hInv : s.Inv) : (State.admitOp s tr o).1.Inv := by
  unfold State.admitOp
  with_reducible refine foldl_inv_fst (fun _ _ _ => ?_) ?_
  simp only
  split
  with_reducible assumption
  with_reducible exact State.admitTier_inv (by assumption)
  with_reducible assumption

theorem State.admitOps_inv {s : State} {tr : Tier} {p : Nat} (hInv : s.Inv) : (State.admitOps s tr p).Inv := by
  unfold State.admitOps
  simp only
  split
  with_reducible assumption
  with_reducible refine foldl_inv (fun _ _ _ => ?_) ?_
  with_reducible apply State.setQueue_inv
  with_reducible refine foldl_inv_fst (fun _ _ _ => ?_) ?_
  split
  with_reducible assumption
  with_reducible exact State.admitOp_inv (by assumption)
  with_reducible assumption
  with_reducible assumption

theorem State.tierRequest_inv {s : State} {tr : Tier} {w : Waiting} (hInv : s.Inv) : (State.tierRequest s tr w).Inv := by
  unfold State.tierRequest
  repeat' first
    | with_reducible assumption
    | with_reducible apply State.keep_inv
    | with_reducible apply State.charge_inv
    | with_reducible apply State.perform_inv
    | with_reducible intro _
    | with_reducible refine ite_inv ?_ ?_
    | dsimp only
    | (simp only [inv_mk]; with_reducible apply canon_of)
    | split

theorem State.arrive_inv {s : State} {tr : Tier} {id : Nat} {errs : List SymErr} (hInv : s.Inv) : (State.arrive s tr id errs).Inv := by
  unfold State.arrive
  repeat' first
    | with_reducible assumption
    | with_reducible apply State.settleTier_inv
    | with_reducible apply State.setTier_inv
    | with_reducible intro _
    | with_reducible refine ite_inv ?_ ?_
    | dsimp only
    | (simp only [inv_mk]; with_reducible apply canon_of)
    | split

theorem State.atSlices_inv {s : State} {w : Waiting} (hInv : s.Inv) : (State.atSlices s w).Inv := by
  unfold State.atSlices
  repeat' first
    | with_reducible assumption
    | with_reducible apply State.inOrder_inv
    | with_reducible refine foldl_inv (fun _ _ _ => ?_) ?_
    | with_reducible refine foldl_inv_fst (fun _ _ _ => ?_) ?_
    | with_reducible intro _
    | dsimp only
    | (simp only [inv_mk]; with_reducible apply canon_of)

theorem State.request_inv {s : State} {w : Waiting} (hInv : s.Inv) : (State.request s w).Inv := by
  unfold State.request
  repeat' first
    | with_reducible assumption
    | with_reducible apply State.atSlices_inv
    | with_reducible apply State.refuse_inv
    | with_reducible apply State.serveAttic_inv
    | with_reducible apply State.atticRead_inv
    | with_reducible apply State.answer_inv
    | with_reducible apply State.sentFor_inv
    | with_reducible apply State.store_inv
    | with_reducible apply State.atticAtomic_inv
    | with_reducible apply State.noteDead_inv
    | with_reducible apply State.windowStore_inv
    | with_reducible apply State.tierRequest_inv
    | with_reducible refine inv_of_fst (by with_reducible assumption) ?_
    | with_reducible refine inv_of_snd (by with_reducible assumption) ?_
    | with_reducible intro _
    | with_reducible refine ite_inv ?_ ?_
    | dsimp only
    | (simp only [inv_mk]; with_reducible apply canon_of)
    | split

theorem State.admitHeld_inv {s : State} {tr : Tier} {p k : Nat} (hInv : s.Inv) : (s.admitHeld tr p k).Inv := by
  induction k generalizing s with
  | zero => exact hInv
  | succ k ih =>
    unfold State.admitHeld
    repeat' first
      | with_reducible assumption
      | with_reducible apply ih
      | with_reducible apply State.admitted_inv
      | with_reducible apply State.charge_inv
      | with_reducible apply State.setTier_inv
      | split
      | dsimp only

theorem State.admitPart_inv {s : State} {tr : Tier} {p : Nat} (hInv : s.Inv) : (State.admitPart s tr p).Inv := by
  unfold State.admitPart
  repeat' first
    | with_reducible assumption
    | with_reducible apply State.admitOps_inv
    | with_reducible apply State.settleTier_inv
    | with_reducible apply State.admitHeld_inv
    | with_reducible intro _
    | dsimp only
    | (simp only [inv_mk]; with_reducible apply canon_of)

theorem State.refill_inv {s : State} {tr : Tier} {p : Nat} (hInv : s.Inv) : (State.refill s tr p).Inv := by
  unfold State.refill
  repeat' first
    | with_reducible assumption
    | with_reducible apply State.admitPart_inv
    | with_reducible apply State.setTier_inv
    | with_reducible intro _
    | with_reducible refine ite_inv ?_ ?_
    | dsimp only
    | (simp only [inv_mk]; with_reducible apply canon_of)
    | split

theorem State.ratesChange_inv {s : State} (hInv : s.Inv) : (State.ratesChange s).Inv := by
  unfold State.ratesChange
  repeat' first
    | with_reducible assumption
    | with_reducible apply State.admitPart_inv
    | with_reducible apply State.clipBuckets_inv
    | with_reducible refine foldl_inv (fun _ _ _ => ?_) ?_
    | with_reducible refine foldl_inv_fst (fun _ _ _ => ?_) ?_
    | with_reducible intro _
    | dsimp only
    | (simp only [inv_mk]; with_reducible apply canon_of)

theorem State.performKept_inv {s : State} {tr : Tier} {ready : Waiting → Bool} (hInv : s.Inv) : (State.performKept s tr ready).Inv := by
  unfold State.performKept
  with_reducible refine foldl_inv (fun _ _ _ => ?_) ?_
  with_reducible exact State.perform_inv (by assumption)
  with_reducible exact State.setTier_inv (by assumption)

theorem State.timeoutAt_inv {s : State} {tr : Tier} {id : Nat} (hInv : s.Inv) : (State.timeoutAt s tr id).Inv := by
  unfold State.timeoutAt
  repeat' first
    | with_reducible assumption
    | with_reducible apply State.setTier_inv
    | with_reducible apply State.freeNat_inv
    | with_reducible apply State.store_inv
    | with_reducible apply State.channelEvent_inv
    | with_reducible apply State.event_inv
    | with_reducible apply State.settleTier_inv
    | with_reducible apply State.refuse_inv
    | with_reducible refine inv_of_fst (by with_reducible assumption) ?_
    | with_reducible refine inv_of_snd (by with_reducible assumption) ?_
    | with_reducible intro _
    | with_reducible refine ite_inv ?_ ?_
    | dsimp only
    | (simp only [inv_mk]; with_reducible apply canon_of)
    | split

theorem State.raiseChannel_inv {s : State} {tr : Tier} {ch cause count : Nat} (hInv : s.Inv) : (State.raiseChannel s tr ch cause count).Inv := by
  unfold State.raiseChannel
  with_reducible exact postFault_inv (State.event_inv (by assumption))

theorem State.caughtUp_inv {s : State} {tr : Tier} (hInv : s.Inv) : (State.caughtUp s tr).Inv := by
  unfold State.caughtUp
  repeat' first
    | with_reducible assumption
    | with_reducible apply State.setBit_inv
    | with_reducible intro _
    | with_reducible refine ite_inv ?_ ?_
    | dsimp only
    | (simp only [inv_mk]; with_reducible apply canon_of)
    | split

theorem State.fixRange_inv {s : State} {tr : Tier} {dead : List Nat} (hInv : s.Inv) : (State.fixRange s tr dead).Inv := by
  unfold State.fixRange
  repeat' first
    | with_reducible assumption
    | with_reducible apply State.wr_inv
    | with_reducible apply State.setTier_inv
    | with_reducible apply State.caughtUp_inv
    | with_reducible apply State.setFld_inv
    | with_reducible intro _
    | dsimp only
    | (simp only [inv_mk]; with_reducible apply canon_of)

theorem State.mapCommit_inv {s : State} {tr : Tier} (hInv : s.Inv) : (State.mapCommit s tr).Inv := by
  unfold State.mapCommit
  simp only
  split
  with_reducible exact State.regAccess_inv (by assumption)
  split
  with_reducible assumption
  simp only [inv_mk]
  with_reducible exact canon_drop (State.setBit_inv (State.fixRange_inv (by assumption)))

theorem State.mapDone_inv {s : State} {tr : Tier} (hInv : s.Inv) : (State.mapDone s tr).Inv := by
  unfold State.mapDone
  simp only
  split
  with_reducible assumption
  split
  split
  with_reducible exact State.setBit_inv (State.event_inv (State.setBit_inv (State.setTier_inv (by assumption))))
  with_reducible exact State.event_inv (State.setBit_inv (State.setTier_inv (by assumption)))
  with_reducible exact State.event_inv (State.setBit_inv (State.setTier_inv (by assumption)))

theorem State.writeMapout_inv {s : State} {tr : Tier} {i v : Nat} (hInv : s.Inv) : (State.writeMapout s tr i v).Inv := by
  unfold State.writeMapout
  split
  with_reducible exact State.regAccess_inv (by assumption)
  with_reducible exact State.wr_inv (by assumption)

theorem State.failChannel_inv {s : State} {tr : Tier} {ch : Nat} (hInv : s.Inv) : (State.failChannel s tr ch).Inv := by
  unfold State.failChannel
  repeat' first
    | with_reducible assumption
    | with_reducible apply State.raiseChannel_inv
    | with_reducible apply State.setTier_inv
    | with_reducible apply State.event_inv
    | with_reducible apply State.setBit_inv
    | with_reducible apply State.settleTier_inv
    | with_reducible apply State.performKept_inv
    | with_reducible refine inv_of_fst (by with_reducible assumption) ?_
    | with_reducible refine inv_of_snd (by with_reducible assumption) ?_
    | with_reducible intro _
    | dsimp only
    | (simp only [inv_mk]; with_reducible apply canon_of)
    | split

theorem State.failTraining_inv {s : State} {tr : Tier} {ch : Nat} (hInv : s.Inv) : (State.failTraining s tr ch).Inv := by
  unfold State.failTraining
  with_reducible exact State.fixRange_inv (State.raiseChannel_inv (State.wr_inv (by assumption)))

theorem State.noteScrub_inv {s : State} {tr : Tier} {u : Nat} (hInv : s.Inv) : (State.noteScrub s tr u).Inv := by
  unfold State.noteScrub
  repeat' first
    | with_reducible assumption
    | with_reducible apply State.setTier_inv
    | with_reducible apply State.bump_inv
    | with_reducible apply State.caughtUp_inv
    | with_reducible apply State.setFld_inv
    | with_reducible intro _
    | with_reducible refine ite_inv ?_ ?_
    | dsimp only
    | (simp only [inv_mk]; with_reducible apply canon_of)
    | split

theorem State.scrub_inv {s : State} {tr : Tier} {a : Nat} {errs : List SymErr} {overtaken : Bool} (hInv : s.Inv) : (State.scrub s tr a errs overtaken).Inv := by
  unfold State.scrub
  repeat' first
    | with_reducible assumption
    | with_reducible apply State.inOrder_inv
    | with_reducible apply State.judgeWords_inv
    | with_reducible apply State.storeDiffs_inv
    | with_reducible apply State.noteScrub_inv
    | with_reducible refine foldl_inv (fun _ _ _ => ?_) ?_
    | with_reducible refine foldl_inv_fst (fun _ _ _ => ?_) ?_
    | with_reducible intro _
    | with_reducible refine ite_inv ?_ ?_
    | dsimp only
    | (simp only [inv_mk]; with_reducible apply canon_of)
    | split

theorem State.beginFloor_inv {s : State} {tr : Tier} (hInv : s.Inv) : (State.beginFloor s tr).Inv := by
  unfold State.beginFloor
  repeat' first
    | with_reducible assumption
    | with_reducible apply State.setTier_inv
    | with_reducible intro _
    | dsimp only
    | (simp only [inv_mk]; with_reducible apply canon_of)

theorem State.floorEnd_inv {s : State} {tr : Tier} (hInv : s.Inv) : (State.floorEnd s tr).Inv := by
  unfold State.floorEnd
  repeat' first
    | with_reducible assumption
    | with_reducible apply State.event_inv
    | with_reducible apply State.setBit_inv
    | with_reducible apply State.beginFloor_inv
    | with_reducible intro _
    | with_reducible refine ite_inv ?_ ?_
    | dsimp only
    | (simp only [inv_mk]; with_reducible apply canon_of)
    | split

theorem State.countWord_inv {s : State} {die : Nat} (hInv : s.Inv) : (State.countWord s die).Inv := by
  unfold State.countWord
  simp only
  split
  split
  with_reducible apply State.bump_inv
  simp only [inv_mk]
  with_reducible exact canon_of (by assumption)
  simp only [inv_mk]
  with_reducible exact canon_of (by assumption)
  split
  with_reducible apply State.bump_inv
  simp only [inv_mk]
  with_reducible exact canon_of (by assumption)
  simp only [inv_mk]
  with_reducible exact canon_of (by assumption)

theorem State.secded_inv {s : State} {a : Nat} {die : Nat} {nbits : Nat} (hInv : s.Inv) : (State.secded s a die nbits).Inv := by
  unfold State.secded
  repeat' first
    | with_reducible assumption
    | with_reducible apply State.event_inv
    | with_reducible apply State.bump_inv
    | with_reducible apply State.markDead_inv
    | with_reducible apply State.noteWordUe_inv
    | with_reducible refine inv_of_fst (by with_reducible assumption) ?_
    | with_reducible refine inv_of_snd (by with_reducible assumption) ?_
    | with_reducible intro _
    | dsimp only
    | (simp only [inv_mk]; with_reducible apply canon_of)
    | split

theorem State.calibrate_inv {s : State} {tr : Tier} {ch : Nat} (hInv : s.Inv) : (State.calibrate s tr ch).Inv := by
  unfold State.calibrate
  simp only
  split
  with_reducible assumption
  with_reducible exact State.setTier_inv (by assumption)

theorem State.calibrated_inv {s : State} {tr : Tier} {ch : Nat} (hInv : s.Inv) : (State.calibrated s tr ch).Inv := by
  unfold State.calibrated
  repeat' first
    | with_reducible assumption
    | with_reducible apply State.settleTier_inv
    | with_reducible apply State.setTier_inv
    | with_reducible intro _
    | with_reducible refine ite_inv ?_ ?_
    | dsimp only
    | (simp only [inv_mk]; with_reducible apply canon_of)
    | split

theorem State.larderFill_inv {s : State} {die : Nat} {a : Nat} {errs : List SymErr} (hInv : s.Inv) : (State.larderFill s die a errs).Inv := by
  unfold State.larderFill
  repeat' first
    | with_reducible assumption
    | with_reducible apply State.judgeWords_inv
    | with_reducible apply State.storeDiffs_inv
    | with_reducible apply State.setTier_inv
    | with_reducible apply State.settleTier_inv
    | with_reducible apply State.refuse_inv
    | with_reducible refine inv_of_fst (by with_reducible assumption) ?_
    | with_reducible refine inv_of_snd (by with_reducible assumption) ?_
    | with_reducible refine foldl_inv (fun _ _ _ => ?_) ?_
    | with_reducible refine foldl_inv_fst (fun _ _ _ => ?_) ?_
    | with_reducible intro _
    | with_reducible refine ite_inv ?_ ?_
    | dsimp only
    | (simp only [inv_mk]; with_reducible apply canon_of)
    | split

theorem State.ioWrite_inv {s : State} {who : Requester} {a : Nat} {bs : List Byte} (hInv : s.Inv) : (State.ioWrite s who a bs).Inv := by
  unfold State.ioWrite
  repeat' first
    | with_reducible assumption
    | with_reducible apply State.request_inv
    | with_reducible refine foldl_inv (fun _ _ _ => ?_) ?_
    | with_reducible refine foldl_inv_fst (fun _ _ _ => ?_) ?_
    | with_reducible intro _
    | dsimp only
    | (simp only [inv_mk]; with_reducible apply canon_of)

theorem State.ioRead_inv {s : State} {a : Nat} {n : Nat} (hInv : s.Inv) : (State.ioRead s a n).Inv := by
  unfold State.ioRead
  repeat' first
    | with_reducible assumption
    | with_reducible apply State.charge_inv
    | with_reducible refine inv_of_fst (by with_reducible assumption) ?_
    | with_reducible refine inv_of_snd (by with_reducible assumption) ?_
    | with_reducible intro _
    | dsimp only
    | (simp only [inv_mk]; with_reducible apply canon_of)
    | split

theorem State.homeRequest_inv {s : State} {who : Requester} {a : Nat} {act : MemAct} {aligned : Bool} (hInv : s.Inv) : (State.homeRequest s who a act aligned).Inv := by
  unfold State.homeRequest
  repeat' first
    | with_reducible assumption
    | with_reducible apply State.refuse_inv
    | with_reducible apply State.noteAtomic_inv
    | with_reducible apply State.request_inv
    | with_reducible refine inv_of_fst (by with_reducible assumption) ?_
    | with_reducible refine inv_of_snd (by with_reducible assumption) ?_
    | with_reducible intro _
    | with_reducible refine ite_inv ?_ ?_
    | dsimp only
    | (simp only [inv_mk]; with_reducible apply canon_of)
    | split

theorem State.atomicAt_inv {s : State} {who : Requester} {a : Nat} {r : AtomReq} (hInv : s.Inv) : (State.atomicAt s who a r).Inv := by
  unfold State.atomicAt
  repeat' first
    | with_reducible assumption
    | with_reducible apply State.homeRequest_inv
    | with_reducible intro _
    | with_reducible refine ite_inv ?_ ?_
    | dsimp only
    | (simp only [inv_mk]; with_reducible apply canon_of)
    | split

theorem State.reduceAt_inv {s : State} {who : Requester} {a : Nat} {op : RedOp} {mask : Nat} {data : List Byte} (hInv : s.Inv) : (State.reduceAt s who a op mask data).Inv := by
  unfold State.reduceAt
  repeat' first
    | with_reducible assumption
    | with_reducible apply State.homeRequest_inv
    | with_reducible intro _
    | dsimp only
    | (simp only [inv_mk]; with_reducible apply canon_of)

theorem execMemRead_inv {s : State} {t : Nat} {r : MemReq} {errs : List SymErr} {late : Bool} (hInv : s.Inv) : Keeps (execMemRead t r errs late s) := by
  unfold execMemRead
  dsimp only
  split
  with_reducible exact keeps_next (State.advance_inv (by assumption))
  with_reducible apply keeps_next
  split
  split
  split
  with_reducible exact State.advance_inv (by assumption)
  with_reducible exact State.arrive_inv (State.advance_inv (by assumption))
  with_reducible exact State.request_inv (State.advance_inv (by assumption))
  with_reducible exact State.request_inv (State.advance_inv (by assumption))

theorem execMemWrite_inv {s : State} {t : Nat} {r : MemReq} {data : List Byte} {errs : List SymErr} {late : Bool} (hInv : s.Inv) : Keeps (execMemWrite t r data errs late s) := by
  unfold execMemWrite
  dsimp only
  split
  with_reducible exact keeps_next (State.advance_inv (by assumption))
  with_reducible apply keeps_next
  split
  split
  split
  with_reducible exact State.advance_inv (by assumption)
  with_reducible exact State.arrive_inv (State.advance_inv (by assumption))
  with_reducible exact State.request_inv (State.advance_inv (by assumption))
  with_reducible exact State.request_inv (State.advance_inv (by assumption))

theorem execLarderFill_inv {s : State} {t : Nat} {die : Fin 2} {da : Nat} {errs : List SymErr} (hInv : s.Inv) : Keeps (execLarderFill t die da errs s) := by
  unfold execLarderFill
  with_reducible apply keeps_next
  with_reducible refine State.live_inv ?_ (fun _ _ => ?_)
  with_reducible assumption
  with_reducible exact State.larderFill_inv (by assumption)

theorem execAtomicFadd_inv {s : State} {t : Nat} {who : Requester} {ty : AtomType} {da opnd : Nat} (hInv : s.Inv) : Keeps (execAtomicFadd t who ty da opnd s) := by
  unfold execAtomicFadd
  with_reducible apply keeps_next
  with_reducible refine State.live_inv ?_ (fun _ _ => ?_)
  with_reducible assumption
  with_reducible exact State.atomicAt_inv (by assumption)

theorem execAtomicMin_inv {s : State} {t : Nat} {who : Requester} {ty : AtomType} {da opnd : Nat} (hInv : s.Inv) : Keeps (execAtomicMin t who ty da opnd s) := by
  unfold execAtomicMin
  with_reducible apply keeps_next
  with_reducible refine State.live_inv ?_ (fun _ _ => ?_)
  with_reducible assumption
  with_reducible exact State.atomicAt_inv (by assumption)

theorem execAtomicMax_inv {s : State} {t : Nat} {who : Requester} {ty : AtomType} {da opnd : Nat} (hInv : s.Inv) : Keeps (execAtomicMax t who ty da opnd s) := by
  unfold execAtomicMax
  with_reducible apply keeps_next
  with_reducible refine State.live_inv ?_ (fun _ _ => ?_)
  with_reducible assumption
  with_reducible exact State.atomicAt_inv (by assumption)

theorem execAtomicAnd_inv {s : State} {t : Nat} {who : Requester} {ty : AtomType} {da opnd : Nat} (hInv : s.Inv) : Keeps (execAtomicAnd t who ty da opnd s) := by
  unfold execAtomicAnd
  with_reducible apply keeps_next
  with_reducible refine State.live_inv ?_ (fun _ _ => ?_)
  with_reducible assumption
  with_reducible exact State.atomicAt_inv (by assumption)

theorem execAtomicOr_inv {s : State} {t : Nat} {who : Requester} {ty : AtomType} {da opnd : Nat} (hInv : s.Inv) : Keeps (execAtomicOr t who ty da opnd s) := by
  unfold execAtomicOr
  with_reducible apply keeps_next
  with_reducible refine State.live_inv ?_ (fun _ _ => ?_)
  with_reducible assumption
  with_reducible exact State.atomicAt_inv (by assumption)

theorem execAtomicXor_inv {s : State} {t : Nat} {who : Requester} {ty : AtomType} {da opnd : Nat} (hInv : s.Inv) : Keeps (execAtomicXor t who ty da opnd s) := by
  unfold execAtomicXor
  with_reducible apply keeps_next
  with_reducible refine State.live_inv ?_ (fun _ _ => ?_)
  with_reducible assumption
  with_reducible exact State.atomicAt_inv (by assumption)

theorem execAtomicSwap_inv {s : State} {t : Nat} {who : Requester} {ty : AtomType} {da opnd : Nat} (hInv : s.Inv) : Keeps (execAtomicSwap t who ty da opnd s) := by
  unfold execAtomicSwap
  with_reducible apply keeps_next
  with_reducible refine State.live_inv ?_ (fun _ _ => ?_)
  with_reducible assumption
  with_reducible exact State.atomicAt_inv (by assumption)

theorem execAtomicCas_inv {s : State} {t : Nat} {who : Requester} {ty : AtomType} {da cmp opnd : Nat} (hInv : s.Inv) : Keeps (execAtomicCas t who ty da cmp opnd s) := by
  unfold execAtomicCas
  with_reducible apply keeps_next
  with_reducible refine State.live_inv ?_ (fun _ _ => ?_)
  with_reducible assumption
  with_reducible exact State.atomicAt_inv (by assumption)

theorem execAtomicCnt2_inv {s : State} {t : Nat} {who : Requester} {da : Nat} {dPin dRef : Int} (hInv : s.Inv) : Keeps (execAtomicCnt2 t who da dPin dRef s) := by
  unfold execAtomicCnt2
  with_reducible apply keeps_next
  with_reducible refine State.live_inv ?_ (fun _ _ => ?_)
  with_reducible assumption
  with_reducible exact State.atomicAt_inv (by assumption)

theorem execRedAddFp32_inv {s : State} {t : Nat} {who : Requester} {da mask : Nat} {data : List Byte} (hInv : s.Inv) : Keeps (execRedAddFp32 t who da mask data s) := by
  unfold execRedAddFp32
  with_reducible apply keeps_next
  with_reducible refine State.live_inv ?_ (fun _ _ => ?_)
  with_reducible assumption
  with_reducible exact State.reduceAt_inv (by assumption)

theorem execRedAddBf16_inv {s : State} {t : Nat} {who : Requester} {da mask : Nat} {data : List Byte} (hInv : s.Inv) : Keeps (execRedAddBf16 t who da mask data s) := by
  unfold execRedAddBf16
  with_reducible apply keeps_next
  with_reducible refine State.live_inv ?_ (fun _ _ => ?_)
  with_reducible assumption
  with_reducible exact State.reduceAt_inv (by assumption)

theorem execRedAddInt32_inv {s : State} {t : Nat} {who : Requester} {da mask : Nat} {data : List Byte} (hInv : s.Inv) : Keeps (execRedAddInt32 t who da mask data s) := by
  unfold execRedAddInt32
  with_reducible apply keeps_next
  with_reducible refine State.live_inv ?_ (fun _ _ => ?_)
  with_reducible assumption
  with_reducible exact State.reduceAt_inv (by assumption)

theorem execRedMaxFp32_inv {s : State} {t : Nat} {who : Requester} {da mask : Nat} {data : List Byte} (hInv : s.Inv) : Keeps (execRedMaxFp32 t who da mask data s) := by
  unfold execRedMaxFp32
  with_reducible apply keeps_next
  with_reducible refine State.live_inv ?_ (fun _ _ => ?_)
  with_reducible assumption
  with_reducible exact State.reduceAt_inv (by assumption)

theorem execRedMinFp32_inv {s : State} {t : Nat} {who : Requester} {da mask : Nat} {data : List Byte} (hInv : s.Inv) : Keeps (execRedMinFp32 t who da mask data s) := by
  unfold execRedMinFp32
  with_reducible apply keeps_next
  with_reducible refine State.live_inv ?_ (fun _ _ => ?_)
  with_reducible assumption
  with_reducible exact State.reduceAt_inv (by assumption)

theorem execRegulatorRefill_inv {s : State} {t : Nat} {tier : Tier} {p : Fin 8} (hInv : s.Inv) : Keeps (execRegulatorRefill t tier p s) := by
  unfold execRegulatorRefill
  with_reducible apply keeps_next
  with_reducible refine State.live_inv ?_ (fun _ _ => ?_)
  with_reducible assumption
  with_reducible exact State.refill_inv (by assumption)

theorem execMemTimeout_inv {s : State} {t id : Nat} (hInv : s.Inv) : Keeps (execMemTimeout t id s) := by
  unfold execMemTimeout
  with_reducible apply keeps_next
  with_reducible refine State.live_inv ?_ (fun _ _ => ?_)
  with_reducible assumption
  with_reducible exact State.timeoutAt_inv (State.timeoutAt_inv (by assumption))

theorem execChannelFail_inv {s : State} {t : Nat} {tier : Tier} {ch : Fin 256} {training : Bool} (hInv : s.Inv) : Keeps (execChannelFail t tier ch training s) := by
  unfold execChannelFail
  dsimp only
  split
  with_reducible exact keeps_next (State.advance_inv (by assumption))
  with_reducible apply keeps_next
  split
  with_reducible exact State.advance_inv (by assumption)
  split
  with_reducible exact State.failTraining_inv (State.advance_inv (by assumption))
  split
  with_reducible exact State.failChannel_inv (State.advance_inv (by assumption))
  with_reducible exact State.advance_inv (by assumption)

theorem execScrubGranule_inv {s : State} {t : Nat} {tier : Tier} {da : Nat} {errs : List SymErr} {overtaken : Bool} (hInv : s.Inv) : Keeps (execScrubGranule t tier da errs overtaken s) := by
  unfold execScrubGranule
  with_reducible apply keeps_next
  with_reducible refine State.live_inv ?_ (fun _ _ => ?_)
  with_reducible assumption
  with_reducible exact State.scrub_inv (by assumption)

theorem execScrubFloorEnd_inv {s : State} {t : Nat} {tier : Tier} (hInv : s.Inv) : Keeps (execScrubFloorEnd t tier s) := by
  unfold execScrubFloorEnd
  with_reducible apply keeps_next
  with_reducible refine State.live_inv ?_ (fun _ _ => ?_)
  with_reducible assumption
  with_reducible exact State.floorEnd_inv (by assumption)

theorem execShelfLarderScrub_inv {s : State} {t da : Nat} {die : Fin 2} {nbits : Fin 3} (hInv : s.Inv) : Keeps (execShelfLarderScrub t da die nbits s) := by
  unfold execShelfLarderScrub
  dsimp only
  split
  with_reducible exact keeps_next (State.advance_inv (by assumption))
  with_reducible apply keeps_next
  split
  with_reducible exact State.countWord_inv (State.secded_inv (State.advance_inv (by assumption)))
  with_reducible exact State.advance_inv (by assumption)

theorem execForcedCalibration_inv {s : State} {t : Nat} {tier : Tier} {ch : Fin 256} (hInv : s.Inv) : Keeps (execForcedCalibration t tier ch s) := by
  unfold execForcedCalibration
  with_reducible apply keeps_next
  with_reducible refine State.live_inv ?_ (fun _ _ => ?_)
  with_reducible assumption
  with_reducible exact State.calibrate_inv (by assumption)

theorem execBankRefresh_inv {s : State} {t : Nat} {tier : Tier} {unit : Fin 384} {cycles : Nat} (hInv : s.Inv) : Keeps (execBankRefresh t tier unit cycles s) := by
  unfold execBankRefresh
  dsimp only
  split
  with_reducible exact keeps_next (State.advance_inv (by assumption))
  with_reducible exact keeps_next (State.setTier_inv (State.advance_inv (by assumption)))

theorem execMapDone_inv {s : State} {t : Nat} {tier : Tier} (hInv : s.Inv) : Keeps (execMapDone t tier s) := by
  unfold execMapDone
  with_reducible apply keeps_next
  with_reducible refine State.live_inv ?_ (fun _ _ => ?_)
  with_reducible assumption
  with_reducible exact State.mapDone_inv (by assumption)

theorem State.returnPage_inv {s : State} {e pool p : Nat} (hInv : s.Inv) : (State.returnPage s e pool p).Inv := by
  unfold State.returnPage
  with_reducible exact State.bump_inv (State.doAtomic_inv (State.store_inv (State.store_inv (by assumption))))

theorem State.unpinRemote_inv {s : State} {pool p : Nat} (hInv : s.Inv) : (State.unpinRemote s pool p).Inv := by
  unfold State.unpinRemote
  with_reducible apply State.sendOwn_inv
  simp only [inv_mk]
  with_reducible exact canon_of (by assumption)

theorem State.unpin_inv {s : State} {e : Nat} {x : Nat × Nat} (hInv : s.Inv) : (State.unpin s e x).Inv := by
  unfold State.unpin
  simp only
  split
  with_reducible exact State.unpinRemote_inv (by assumption)
  split
  with_reducible assumption
  split
  with_reducible exact State.returnPage_inv (State.doAtomic_inv (by assumption))
  with_reducible exact State.doAtomic_inv (by assumption)

theorem State.unpinAll_inv {s : State} {e : Nat} {o : OpenOp} (hInv : s.Inv) : (State.unpinAll s e o).Inv := by
  unfold State.unpinAll
  with_reducible refine foldl_inv (fun _ _ _ => ?_) ?_
  with_reducible exact State.unpin_inv (by assumption)
  with_reducible assumption

theorem State.setMeas_inv {s : State} {n : Nat} {x : MeasSt} (hInv : s.Inv) : (State.setMeas s n x).Inv := by
  unfold State.setMeas
  simp only [inv_mk]
  with_reducible exact canon_of (by assumption)

theorem State.returnCredit_inv {s : State} {e arg : Nat} (hInv : s.Inv) : (State.returnCredit s e arg).Inv := by
  unfold State.returnCredit
  with_reducible refine foldl_inv (fun _ _ _ => ?_) ?_
  simp only
  split
  with_reducible assumption
  split
  with_reducible exact State.setMeas_inv (by assumption)
  with_reducible assumption
  with_reducible assumption

end Sys2Proof.Machine
end

