-- ==== Sys2Proof/Laws/InvQueue.lean ====
section
/-! SUPPORT. The invariant of State through queues and the macro-op frame: every operation and every command of these files keeps it. -/

namespace Sys2Proof.Machine

theorem State.storeIfMem_inv {s : State} {a : Nat} {bs : List Byte} (hInv : s.Inv) : (State.storeIfMem s a bs).Inv := by
  unfold State.storeIfMem
  split
  with_reducible exact State.store_inv (by assumption)
  with_reducible assumption

theorem State.writeStatusLine_inv {s : State} {e q : Nat} (hInv : s.Inv) : (State.writeStatusLine s e q).Inv := by
  unfold State.writeStatusLine
  with_reducible exact State.storeIfMem_inv (State.setQueue_inv (by assumption))

theorem State.settle_inv {s : State} {e q : Nat} {before : QState} (hInv : s.Inv) : (State.settle s e q before).Inv := by
  unfold State.settle
  simp only
  split
  split
  split
  split
  split
  with_reducible apply State.writeStatusLine_inv
  split
  with_reducible exact State.event_inv (State.setQueue_inv (by assumption))
  with_reducible exact State.setQueue_inv (by assumption)
  split
  with_reducible exact State.event_inv (State.setQueue_inv (by assumption))
  with_reducible exact State.setQueue_inv (by assumption)
  split
  with_reducible apply State.writeStatusLine_inv
  split
  with_reducible exact State.event_inv (State.setQueue_inv (by assumption))
  with_reducible exact State.setQueue_inv (by assumption)
  split
  with_reducible exact State.event_inv (State.setQueue_inv (by assumption))
  with_reducible exact State.setQueue_inv (by assumption)
  split
  split
  with_reducible apply State.writeStatusLine_inv
  split
  with_reducible exact State.event_inv (State.setQueue_inv (by assumption))
  with_reducible exact State.setQueue_inv (by assumption)
  split
  with_reducible exact State.event_inv (State.setQueue_inv (by assumption))
  with_reducible exact State.setQueue_inv (by assumption)
  split
  with_reducible apply State.writeStatusLine_inv
  split
  with_reducible exact State.event_inv (State.setQueue_inv (by assumption))
  with_reducible exact State.setQueue_inv (by assumption)
  split
  with_reducible exact State.event_inv (State.setQueue_inv (by assumption))
  with_reducible exact State.setQueue_inv (by assumption)
  split
  split
  with_reducible apply State.writeStatusLine_inv
  split
  with_reducible exact State.event_inv (State.setQueue_inv (by assumption))
  with_reducible exact State.setQueue_inv (by assumption)
  split
  with_reducible exact State.event_inv (State.setQueue_inv (by assumption))
  with_reducible exact State.setQueue_inv (by assumption)
  split
  with_reducible apply State.writeStatusLine_inv
  split
  with_reducible exact State.event_inv (State.setQueue_inv (by assumption))
  with_reducible exact State.setQueue_inv (by assumption)
  split
  with_reducible exact State.event_inv (State.setQueue_inv (by assumption))
  with_reducible exact State.setQueue_inv (by assumption)
  split
  split
  split
  split
  with_reducible apply State.writeStatusLine_inv
  split
  with_reducible exact State.event_inv (State.setQueue_inv (by assumption))
  with_reducible exact State.setQueue_inv (by assumption)
  split
  with_reducible exact State.event_inv (State.setQueue_inv (by assumption))
  with_reducible exact State.setQueue_inv (by assumption)
  split
  with_reducible apply State.writeStatusLine_inv
  split
  with_reducible exact State.event_inv (State.setQueue_inv (by assumption))
  with_reducible exact State.setQueue_inv (by assumption)
  split
  with_reducible exact State.event_inv (State.setQueue_inv (by assumption))
  with_reducible exact State.setQueue_inv (by assumption)
  split
  split
  with_reducible apply State.writeStatusLine_inv
  split
  with_reducible exact State.event_inv (State.setQueue_inv (by assumption))
  with_reducible exact State.setQueue_inv (by assumption)
  split
  with_reducible exact State.event_inv (State.setQueue_inv (by assumption))
  with_reducible exact State.setQueue_inv (by assumption)
  split
  with_reducible apply State.writeStatusLine_inv
  split
  with_reducible exact State.event_inv (State.setQueue_inv (by assumption))
  with_reducible exact State.setQueue_inv (by assumption)
  split
  with_reducible exact State.event_inv (State.setQueue_inv (by assumption))
  with_reducible exact State.setQueue_inv (by assumption)
  split
  split
  with_reducible apply State.writeStatusLine_inv
  split
  with_reducible exact State.event_inv (State.setQueue_inv (by assumption))
  with_reducible exact State.setQueue_inv (by assumption)
  split
  with_reducible exact State.event_inv (State.setQueue_inv (by assumption))
  with_reducible exact State.setQueue_inv (by assumption)
  split
  with_reducible apply State.writeStatusLine_inv
  split
  with_reducible exact State.event_inv (State.setQueue_inv (by assumption))
  with_reducible exact State.setQueue_inv (by assumption)
  split
  with_reducible exact State.event_inv (State.setQueue_inv (by assumption))
  with_reducible exact State.setQueue_inv (by assumption)
  simp only
  split
  split
  split
  split
  with_reducible apply State.writeStatusLine_inv
  split
  with_reducible exact State.event_inv (State.setQueue_inv (by assumption))
  with_reducible exact State.setQueue_inv (by assumption)
  split
  with_reducible exact State.event_inv (State.setQueue_inv (by assumption))
  with_reducible exact State.setQueue_inv (by assumption)
  split
  with_reducible apply State.writeStatusLine_inv
  split
  with_reducible exact State.event_inv (State.setQueue_inv (by assumption))
  with_reducible exact State.setQueue_inv (by assumption)
  split
  with_reducible exact State.event_inv (State.setQueue_inv (by assumption))
  with_reducible exact State.setQueue_inv (by assumption)
  split
  split
  with_reducible apply State.writeStatusLine_inv
  split
  with_reducible exact State.event_inv (State.setQueue_inv (by assumption))
  with_reducible exact State.setQueue_inv (by assumption)
  split
  with_reducible exact State.event_inv (State.setQueue_inv (by assumption))
  with_reducible exact State.setQueue_inv (by assumption)
  split
  with_reducible apply State.writeStatusLine_inv
  split
  with_reducible exact State.event_inv (State.setQueue_inv (by assumption))
  with_reducible exact State.setQueue_inv (by assumption)
  split
  with_reducible exact State.event_inv (State.setQueue_inv (by assumption))
  with_reducible exact State.setQueue_inv (by assumption)
  split
  split
  with_reducible apply State.writeStatusLine_inv
  split
  with_reducible exact State.event_inv (State.setQueue_inv (by assumption))
  with_reducible exact State.setQueue_inv (by assumption)
  split
  with_reducible exact State.event_inv (State.setQueue_inv (by assumption))
  with_reducible exact State.setQueue_inv (by assumption)
  split
  with_reducible apply State.writeStatusLine_inv
  split
  with_reducible exact State.event_inv (State.setQueue_inv (by assumption))
  with_reducible exact State.setQueue_inv (by assumption)
  split
  with_reducible exact State.event_inv (State.setQueue_inv (by assumption))
  with_reducible exact State.setQueue_inv (by assumption)

theorem State.haltQueue_inv {s : State} {e q : Nat} {c : HaltCause} (hInv : s.Inv) : (State.haltQueue s e q c).Inv := by
  unfold State.haltQueue
  with_reducible exact State.settle_inv (State.setQueue_inv (by assumption))

theorem State.queueSeqFault_inv {s : State} {e q expected found case level : Nat} (hInv : s.Inv) : (State.queueSeqFault s e q expected found case level).Inv := by
  unfold State.queueSeqFault
  with_reducible exact postFault_inv (State.event_inv (State.wr_inv (by assumption)))

theorem State.faultEvent_inv {s : State} {e code : Nat} (hInv : s.Inv) : (State.faultEvent s e code).Inv := by
  unfold State.faultEvent
  split
  with_reducible exact State.event_inv (by assumption)
  split
  with_reducible exact State.event_inv (by assumption)
  split
  with_reducible exact State.event_inv (by assumption)
  with_reducible assumption

theorem State.jobRecord_inv {s : State} {e k : Nat} {x : QueueSt} {o : OpenOp} {st : EndStatus} (hInv : s.Inv) : (State.jobRecord s e k x o st).Inv := by
  unfold State.jobRecord
  simp only
  split
  with_reducible assumption
  with_reducible apply State.setCtx_inv
  split
  split
  with_reducible exact State.bump_inv (by assumption)
  with_reducible assumption
  split
  with_reducible assumption
  with_reducible exact State.bump_inv (by assumption)
  split
  with_reducible assumption
  with_reducible exact State.bump_inv (by assumption)

theorem State.setCtxQueue_inv {s : State} {e k : Nat} {x : QueueSt} (hInv : s.Inv) : (State.setCtxQueue s e k x).Inv := by
  unfold State.setCtxQueue
  simp only
  split
  with_reducible exact State.setQueue_inv (by assumption)
  with_reducible exact State.setCtx_inv (by assumption)

theorem State.putOp_inv {s : State} {e q : Nat} {o : OpenOp} (hInv : s.Inv) : (State.putOp s e q o).Inv := by
  unfold State.putOp
  with_reducible exact State.setQueue_inv (by assumption)

theorem State.dropSaved_inv {s : State} {e : Nat} {k : Nat} (hInv : s.Inv) : (State.dropSaved s e k).Inv := by
  unfold State.dropSaved
  repeat' first
    | with_reducible assumption
    | with_reducible apply State.setCtx_inv
    | with_reducible intro _
    | dsimp only
    | (simp only [inv_mk]; with_reducible apply canon_of)

theorem State.endOp_inv {s : State} {e : Nat} {q : Nat} {o : OpenOp} {st : EndStatus} (hInv : s.Inv) : (State.endOp s e q o st).Inv := by
  unfold State.endOp
  repeat' first
    | with_reducible assumption
    | with_reducible apply State.unpinAll_inv
    | with_reducible apply State.returnCredit_inv
    | with_reducible apply State.storeIfMem_inv
    | with_reducible apply State.event_inv
    | with_reducible apply State.faultEvent_inv
    | with_reducible apply State.noteDead_inv
    | with_reducible apply State.setQueue_inv
    | with_reducible apply State.writeStatusLine_inv
    | with_reducible apply State.settle_inv
    | with_reducible apply State.dropSaved_inv
    | with_reducible apply State.jobRecord_inv
    | with_reducible apply State.phaseCommit_inv
    | with_reducible refine inv_of_fst (by with_reducible assumption) ?_
    | with_reducible refine inv_of_snd (by with_reducible assumption) ?_
    | with_reducible intro _
    | (extract_lets +onlyGivenNames z; with_reducible apply inv_let (z := z); (case' val => (dsimp only [z]; try clear z)); (case' main => (intro hz; clear_value z)))
    | (extract_lets +onlyGivenNames z; with_reducible apply inv_let (z := z.1); (case' val => (dsimp only [z]; try clear z)); (case' main => (intro hz; clear_value z)))
    | (extract_lets +onlyGivenNames z; with_reducible apply inv_let (z := z.2); (case' val => (dsimp only [z]; try clear z)); (case' main => (intro hz; clear_value z)))
    | (extract_lets +onlyGivenNames z; clear_value z)
    | split
    | with_reducible refine ite_inv ?_ ?_
    | dsimp only
    | (simp only [inv_mk]; with_reducible apply canon_of)
    | split

theorem State.havocK_inv {s : State} {e : Nat} {ofs : Nat} {n : Nat} (hInv : s.Inv) : (State.havocK s e ofs n).Inv := by
  unfold State.havocK
  repeat' first
    | with_reducible assumption
    | with_reducible apply State.kstore_inv
    | with_reducible intro _
    | dsimp only
    | (simp only [inv_mk]; with_reducible apply canon_of)

theorem State.undefine_inv {s : State} {e : Nat} {o : OpenOp} {rs : List (Nat × Nat)} (hInv : s.Inv) : (State.undefine s e o rs).Inv := by
  unfold State.undefine
  repeat' first
    | with_reducible assumption
    | with_reducible apply State.havocK_inv
    | with_reducible apply State.havocAll_inv
    | with_reducible refine foldl_inv (fun _ _ _ => ?_) ?_
    | with_reducible refine foldl_inv_fst (fun _ _ _ => ?_) ?_
    | with_reducible intro _
    | dsimp only
    | (simp only [inv_mk]; with_reducible apply canon_of)

theorem State.blur_inv {s : State} {e : Nat} {o : OpenOp} (hInv : s.Inv) : (State.blur s e o).Inv := by
  unfold State.blur
  repeat' first
    | with_reducible assumption
    | with_reducible apply State.undefine_inv
    | with_reducible intro _
    | with_reducible refine ite_inv ?_ ?_
    | dsimp only
    | (simp only [inv_mk]; with_reducible apply canon_of)
    | split

theorem State.spoil_inv {s : State} {e : Nat} {o : OpenOp} (hInv : s.Inv) : (State.spoil s e o).Inv := by
  unfold State.spoil
  repeat' first
    | with_reducible assumption
    | with_reducible apply State.undefine_inv
    | with_reducible apply State.setTags_inv
    | with_reducible refine inv_of_fst (by with_reducible assumption) ?_
    | with_reducible refine inv_of_snd (by with_reducible assumption) ?_
    | with_reducible intro _
    | with_reducible refine ite_inv ?_ ?_
    | dsimp only
    | (simp only [inv_mk]; with_reducible apply canon_of)
    | split

theorem State.hatchStatus_inv {s : State} {e k : Nat} (hInv : s.Inv) : (State.hatchStatus s e k).Inv := by
  unfold State.hatchStatus
  with_reducible exact State.storeIfMem_inv (by assumption)

theorem State.endInHatch_inv {s : State} {e : Nat} {k : Nat} {f : OpFault} {o : OpenOp} (hInv : s.Inv) : (State.endInHatch s e k f o).Inv := by
  unfold State.endInHatch
  repeat' first
    | with_reducible assumption
    | with_reducible apply State.unpinAll_inv
    | with_reducible apply State.returnCredit_inv
    | with_reducible apply State.storeIfMem_inv
    | with_reducible apply State.event_inv
    | with_reducible apply State.spoil_inv
    | with_reducible apply State.jobRecord_inv
    | with_reducible apply State.setCtxQueue_inv
    | with_reducible apply State.phaseCommit_inv
    | with_reducible refine inv_of_fst (by with_reducible assumption) ?_
    | with_reducible refine inv_of_snd (by with_reducible assumption) ?_
    | with_reducible intro _
    | with_reducible refine ite_inv ?_ ?_
    | dsimp only
    | (simp only [inv_mk]; with_reducible apply canon_of)
    | split

theorem State.abortInHatch_inv {s : State} {e : Nat} {k : Nat} {mine : OpenOp → Bool} {f : OpFault} (hInv : s.Inv) : (State.abortInHatch s e k mine f).Inv := by
  unfold State.abortInHatch
  repeat' first
    | with_reducible assumption
    | with_reducible apply State.endInHatch_inv
    | with_reducible apply State.setCtxQueue_inv
    | with_reducible apply State.hatchStatus_inv
    | with_reducible apply State.setCtx_inv
    | with_reducible refine foldl_inv (fun _ _ _ => ?_) ?_
    | with_reducible refine foldl_inv_fst (fun _ _ _ => ?_) ?_
    | with_reducible intro _
    | with_reducible refine ite_inv ?_ ?_
    | dsimp only
    | (simp only [inv_mk]; with_reducible apply canon_of)
    | split

theorem State.takeEngine_inv {s : State} {e k : Nat} (hInv : s.Inv) : (State.takeEngine s e k).Inv := by
  unfold State.takeEngine
  simp only
  split
  with_reducible assumption
  with_reducible exact State.setCtx_inv (by assumption)

theorem State.preempt_inv {s : State} {e k : Nat} (hInv : s.Inv) : (State.preempt s e k).Inv := by
  unfold State.preempt
  with_reducible exact State.bump_inv (State.setCtx_inv (by assumption))

theorem State.reseeds_inv {s : State} {e : Nat} (hInv : s.Inv) : (State.reseeds s e).Inv := by
  unfold State.reseeds
  repeat' first
    | with_reducible assumption
    | with_reducible apply State.setEng_inv
    | with_reducible intro _
    | with_reducible refine ite_inv ?_ ?_
    | dsimp only
    | (simp only [inv_mk]; with_reducible apply canon_of)
    | split

theorem State.dequeue_inv {s : State} {e q : Nat} (hInv : s.Inv) : (State.dequeue s e q).Inv := by
  unfold State.dequeue
  with_reducible exact State.setQueue_inv (by assumption)

theorem State.ownWrites_inv {s : State} {n e q issue : Nat} (hInv : s.Inv) : (State.ownWrites s n e q issue).Inv := by
  unfold State.ownWrites
  simp only [inv_mk]
  with_reducible exact canon_of (by assumption)

theorem State.owning_inv {s : State} {e : Nat} {q : Nat} {issue : Nat} {f : State → State} (hInv : s.Inv) (h_f : ∀ (z0 : State), z0.Inv → (f z0).Inv) : (State.owning s e q issue f).Inv := by
  unfold State.owning
  repeat' first
    | with_reducible assumption
    | with_reducible apply h_f
    | with_reducible apply State.ownWrites_inv
    | with_reducible intro _
    | dsimp only
    | (simp only [inv_mk]; with_reducible apply canon_of)

theorem State.failAtIssue_inv {s : State} {e : Nat} {q : Nat} {o : OpenOp} {da : Bool} {f : OpFault} (hInv : s.Inv) : (State.failAtIssue s e q o da f).Inv := by
  unfold State.failAtIssue
  repeat' first
    | with_reducible assumption
    | with_reducible apply State.setSector_inv
    | with_reducible apply State.endOp_inv
    | with_reducible apply State.setQueue_inv
    | with_reducible intro _
    | with_reducible refine ite_inv ?_ ?_
    | dsimp only
    | (simp only [inv_mk]; with_reducible apply canon_of)
    | split

theorem State.failStruck_inv {s : State} {e : Nat} {q : Nat} {isIt : Desc → Bool} {body : State → Site → OpenOp → Issue} (hInv : s.Inv) (h_body : ∀ (z0 : State) (z1 : Site) (z2 : OpenOp), z0.Inv → (body z0 z1 z2).Inv) : (State.failStruck s e q isIt body).Inv := by
  unfold State.failStruck
  repeat' first
    | with_reducible assumption
    | with_reducible apply h_body
    | with_reducible apply State.failAtIssue_inv
    | with_reducible apply State.setQueue_inv
    | with_reducible refine inv_of_fst (by with_reducible assumption) ?_
    | with_reducible refine inv_of_snd (by with_reducible assumption) ?_
    | with_reducible refine inv_of_opens (by with_reducible assumption) ?_
    | with_reducible refine inv_of_ends (by with_reducible assumption) ?_
    | with_reducible intro _
    | with_reducible refine ite_inv ?_ ?_
    | dsimp only
    | (simp only [inv_mk]; with_reducible apply canon_of)
    | split

theorem State.issueNext_inv {s : State} {e : Nat} {q : Nat} {isIt : Desc → Bool} {da : Desc → Bool} {body : State → Site → OpenOp → Issue} (hInv : s.Inv) (h_body : ∀ (z0 : State) (z1 : Site) (z2 : OpenOp), z0.Inv → (body z0 z1 z2).Inv) : (State.issueNext s e q isIt da body).Inv := by
  unfold State.issueNext
  repeat' first
    | with_reducible assumption
    | with_reducible apply h_body
    | with_reducible apply State.failStruck_inv
    | with_reducible apply State.dequeue_inv
    | with_reducible apply State.takeEngine_inv
    | with_reducible apply State.failAtIssue_inv
    | with_reducible apply State.reseeds_inv
    | with_reducible apply State.askSector_inv
    | with_reducible apply State.ownWrites_inv
    | with_reducible apply State.blur_inv
    | with_reducible apply State.workBegins_inv
    | with_reducible apply State.settle_inv
    | with_reducible apply State.setQueue_inv
    | with_reducible apply State.endOp_inv
    | with_reducible refine inv_of_fst (by with_reducible assumption) ?_
    | with_reducible refine inv_of_snd (by with_reducible assumption) ?_
    | with_reducible refine inv_of_opens (by with_reducible assumption) ?_
    | with_reducible refine inv_of_ends (by with_reducible assumption) ?_
    | with_reducible intro _
    | with_reducible refine ite_inv ?_ ?_
    | dsimp only
    | (simp only [inv_mk]; with_reducible apply canon_of)
    | split

theorem State.chargeTier_inv {s : State} {o : OpenOp} {tr : Tier} {n : Nat} (hInv : s.Inv) : (State.chargeTier s o tr n).1.Inv := by
  unfold State.chargeTier
  simp only
  split
  with_reducible exact State.admitTier_inv (by assumption)
  with_reducible exact State.admitTier_inv (by assumption)

theorem State.chargeOp_inv {s : State} {o : OpenOp} {rs : List (Nat × Nat)} (hInv : s.Inv) : (State.chargeOp s o rs).1.Inv := by
  unfold State.chargeOp
  with_reducible exact State.chargeTier_inv (State.chargeTier_inv (by assumption))

theorem State.launch_inv {s : State} {site : Site} {o : OpenOp} {l : Launch} {work : State → OpenOp → State × OpenOp} (hInv : s.Inv) (h_work : ∀ (z0 : State) (z1 : OpenOp), z0.Inv → (work z0 z1).1.Inv) : (State.launch s site o l work).Inv := by
  unfold State.launch
  repeat' first
    | with_reducible assumption
    | with_reducible apply h_work
    | with_reducible apply State.setTags_inv
    | with_reducible apply State.chargeOp_inv
    | with_reducible refine inv_of_fst (by with_reducible assumption) ?_
    | with_reducible refine inv_of_snd (by with_reducible assumption) ?_
    | with_reducible apply issueOf_inv
    | with_reducible apply issue_opens
    | with_reducible apply issue_ends
    | with_reducible apply issue_fault
    | with_reducible refine bodyInv_bind (fun _ => ?_)
    | with_reducible apply bodyInv_pure
    | with_reducible apply bodyInv_ok
    | with_reducible apply bodyInv_error
    | with_reducible refine inv_of_opens (by with_reducible assumption) ?_
    | with_reducible refine inv_of_ends (by with_reducible assumption) ?_
    | with_reducible intro _
    | dsimp only
    | (simp only [inv_mk]; with_reducible apply canon_of)
    | split

theorem State.launchUnits_inv {s : State} {site : Site} {o : OpenOp} {l : Launch} {units : List WorkUnit} (hInv : s.Inv) : (State.launchUnits s site o l units).Inv := by
  unfold State.launchUnits
  repeat' first
    | with_reducible assumption
    | with_reducible apply State.launch_inv
    | with_reducible apply issueOf_inv
    | with_reducible apply issue_opens
    | with_reducible apply issue_ends
    | with_reducible apply issue_fault
    | with_reducible refine bodyInv_bind (fun _ => ?_)
    | with_reducible apply bodyInv_pure
    | with_reducible apply bodyInv_ok
    | with_reducible apply bodyInv_error
    | with_reducible intro _
    | dsimp only
    | (simp only [inv_mk]; with_reducible apply canon_of)

theorem State.unitDone_inv {s : State} {e : Nat} {o : OpenOp} {u : WorkUnit} {rest : List WorkUnit} (hInv : s.Inv) : (State.unitDone s e o u rest).1.Inv := by
  unfold State.unitDone
  repeat' first
    | with_reducible assumption
    | with_reducible apply State.setTags_inv
    | with_reducible intro _
    | dsimp only
    | (simp only [inv_mk]; with_reducible apply canon_of)

theorem State.runUnits_inv {s : State} {e : Nat} {o : OpenOp} {work : State → OpenOp → Nat → State × OpenOp} {a4 : Nat} (hInv : s.Inv) (h_work : ∀ (z0 : State) (z1 : OpenOp) (z2 : Nat), z0.Inv → (work z0 z1 z2).1.Inv) : (State.runUnits s e o work a4).1.Inv := by
  induction a4 generalizing s e o work with
  | zero =>
    unfold State.runUnits
    repeat' first
      | with_reducible assumption
      | with_reducible apply h_work
      | with_reducible apply State.unitDone_inv
      | with_reducible refine inv_of_fst (by with_reducible assumption) ?_
      | with_reducible refine inv_of_snd (by with_reducible assumption) ?_
      | with_reducible intro _
      | with_reducible refine ite_inv ?_ ?_
      | with_reducible refine ite_inv_fst ?_ ?_
      | dsimp only
      | (simp only [inv_mk]; with_reducible apply canon_of)
      | split
  | succ k ih =>
    unfold State.runUnits
    repeat' first
      | with_reducible assumption
      | with_reducible apply ih
      | with_reducible assumption
      | with_reducible apply h_work
      | with_reducible apply State.unitDone_inv
      | with_reducible refine inv_of_fst (by with_reducible assumption) ?_
      | with_reducible refine inv_of_snd (by with_reducible assumption) ?_
      | with_reducible intro _
      | with_reducible refine ite_inv ?_ ?_
      | with_reducible refine ite_inv_fst ?_ ?_
      | dsimp only
      | (simp only [inv_mk]; with_reducible apply canon_of)
      | split

theorem State.settleTags_inv {s : State} {e : Nat} {o : OpenOp} (hInv : s.Inv) : (State.settleTags s e o).1.Inv := by
  unfold State.settleTags
  with_reducible exact State.setTags_inv (by assumption)

theorem State.clearStation_inv {s : State} {e : Nat} (hInv : s.Inv) : (State.clearStation s e).Inv := by
  unfold State.clearStation
  with_reducible exact State.wr_inv (State.setEng_inv (by assumption))

theorem State.redAdd_inv {s : State} {a : Nat} {v : W32} (hInv : s.Inv) : (State.redAdd s a v).Inv := by
  unfold State.redAdd
  with_reducible exact State.doRed_inv (by assumption)

theorem State.stepLanes_inv {s : State} {e : Nat} {sr : Bool} {n : Nat} (hInv : s.Inv) : (State.stepLanes s e sr n).Inv := by
  unfold State.stepLanes
  simp only
  split
  with_reducible exact State.setEng_inv (by assumption)
  with_reducible assumption

theorem State.putCell_inv {s : State} {e : Nat} {t : Tensor} {cells : List OutCell} {x : OutCell} (hInv : s.Inv) : (State.putCell s e t cells x).1.Inv := by
  unfold State.putCell
  simp only
  split
  with_reducible exact State.putScale_inv (State.putElem_inv (by assumption))
  with_reducible exact State.putElem_inv (by assumption)

theorem State.putCells_inv {s : State} {e : Nat} {t : Tensor} {cells : List OutCell} (hInv : s.Inv) : (State.putCells s e t cells).1.Inv := by
  unfold State.putCells
  with_reducible refine foldl_inv_fst (fun _ _ _ => ?_) ?_
  with_reducible exact State.putCell_inv (by assumption)
  with_reducible assumption

theorem State.putOut_inv {s : State} {e : Nat} {o : OpenOp} {t : Tensor} {valid : Nat → Nat → Bool} {cells : List OutCell} (hInv : s.Inv) : (State.putOut s e o t valid cells).1.Inv := by
  unfold State.putOut
  repeat' first
    | with_reducible assumption
    | with_reducible apply State.putCells_inv
    | with_reducible apply State.countNum_inv
    | with_reducible refine inv_of_fst (by with_reducible assumption) ?_
    | with_reducible refine inv_of_snd (by with_reducible assumption) ?_
    | with_reducible intro _
    | with_reducible refine ite_inv ?_ ?_
    | with_reducible refine ite_inv_fst ?_ ?_
    | dsimp only
    | (simp only [inv_mk]; with_reducible apply canon_of)
    | split

theorem State.rowRun_inv {s : State} {e : Nat} {sr : Bool} {tw : Bool} {g : Reg2} {i : Nat} {vs : List FVal} (hInv : s.Inv) : (State.rowRun s e sr tw g i vs).1.Inv := by
  unfold State.rowRun
  repeat' first
    | with_reducible assumption
    | with_reducible apply State.stepLanes_inv
    | with_reducible intro _
    | dsimp only
    | (simp only [inv_mk]; with_reducible apply canon_of)

theorem State.putRow_inv {s : State} {e : Nat} {o : OpenOp} {t : Tensor} {g : Reg2} {i : Nat} {vs : List FVal} (hInv : s.Inv) : (State.putRow s e o t g i vs).1.Inv := by
  unfold State.putRow
  repeat' first
    | with_reducible assumption
    | with_reducible apply State.rowRun_inv
    | with_reducible apply State.putOut_inv
    | with_reducible refine inv_of_fst (by with_reducible assumption) ?_
    | with_reducible refine inv_of_snd (by with_reducible assumption) ?_
    | with_reducible intro _
    | dsimp only
    | (simp only [inv_mk]; with_reducible apply canon_of)
    | split

end Sys2Proof.Machine
end

