-- ==== Sys2Proof/Laws/InvTick.lean ====
section
/-! SUPPORT. The invariant of State through the tick, remote requests and the page pool: every operation and every command of these files keeps it. -/

namespace Sys2Proof.Machine

theorem State.planSwap_inv {s : State} (hInv : s.Inv) : (State.planSwap s).Inv := by
  unfold State.planSwap
  simp only
  split
  with_reducible apply State.setBit_inv
  simp only [inv_mk]
  with_reducible exact canon_of (by assumption)
  with_reducible exact postFault_inv (State.event_inv (State.wr_inv (by assumption)))

theorem State.endRunning_inv {s : State} {late : Bool} (hInv : s.Inv) : (State.endRunning s late).Inv := by
  unfold State.endRunning
  with_reducible refine foldl_inv (fun _ _ _ => ?_) ?_
  split
  with_reducible exact State.finishPhase_inv (by assumption)
  with_reducible assumption
  with_reducible assumption

theorem State.activatePlan_inv {s : State} (hInv : s.Inv) : s.activatePlan.Inv := by
  unfold State.activatePlan
  split
  · exact hInv
  · extract_lets s1 x s2 s3
    have h1 : s1.Inv := State.endRunning_inv hInv
    have h2 : s2.Inv := inv_any h1
    have h3 : s3.Inv := State.wr_inv (State.setFld_inv (State.setBit_inv h2))
    exact State.clipBuckets_inv (State.event_inv h3)

theorem State.lostIfAway_inv {s : State} {src : Nat} (hInv : s.Inv) : (State.lostIfAway s src).Inv := by
  unfold State.lostIfAway
  simp only
  split
  with_reducible apply State.setBit_inv
  simp only [inv_mk]
  with_reducible exact canon_of (by assumption)
  with_reducible apply State.event_inv
  with_reducible apply State.setBit_inv
  simp only [inv_mk]
  with_reducible exact canon_of (by assumption)

theorem State.placeTimeline_inv {s : State} {src : Nat} (hInv : s.Inv) : (State.placeTimeline s src).Inv := by
  unfold State.placeTimeline
  with_reducible apply State.lostIfAway_inv
  with_reducible apply State.setFld_inv
  simp only [inv_mk]
  with_reducible exact canon_of (by assumption)

theorem State.setLocked_inv {s : State} {b : Nat} (hInv : s.Inv) : (State.setLocked s b).Inv := by
  unfold State.setLocked
  simp only
  split
  with_reducible exact State.event_inv (State.setBit_inv (by assumption))
  with_reducible exact State.setBit_inv (by assumption)

theorem State.countDeadline_inv {s : State} {p : Nat} (hInv : s.Inv) : (State.countDeadline s p).Inv := by
  unfold State.countDeadline
  repeat' first
    | with_reducible assumption
    | with_reducible apply State.event_inv
    | with_reducible apply State.bump_inv
    | with_reducible intro _
    | dsimp only
    | (simp only [inv_mk]; with_reducible apply canon_of)

theorem State.abortPhase_inv {s : State} {p : Nat} (hInv : s.Inv) : (State.abortPhase s p).Inv := by
  unfold State.abortPhase
  repeat' first
    | with_reducible assumption
    | with_reducible apply State.dropSaved_inv
    | with_reducible apply State.setQueue_inv
    | with_reducible apply State.abortInHatch_inv
    | with_reducible refine foldl_inv (fun _ _ _ => ?_) ?_
    | with_reducible refine foldl_inv_fst (fun _ _ _ => ?_) ?_
    | with_reducible intro _
    | with_reducible refine ite_inv ?_ ?_
    | dsimp only
    | (simp only [inv_mk]; with_reducible apply canon_of)
    | split

theorem State.missDeadline_inv {s : State} {p : Nat} (hInv : s.Inv) : (State.missDeadline s p).1.Inv := by
  unfold State.missDeadline
  repeat' first
    | with_reducible assumption
    | with_reducible apply State.finishPhase_inv
    | with_reducible apply State.countDeadline_inv
    | with_reducible apply State.setRun_inv
    | with_reducible apply State.abortPhase_inv
    | with_reducible refine inv_of_fst (by with_reducible assumption) ?_
    | with_reducible refine inv_of_snd (by with_reducible assumption) ?_
    | with_reducible intro _
    | with_reducible refine ite_inv ?_ ?_
    | with_reducible refine ite_inv_fst ?_ ?_
    | dsimp only
    | (simp only [inv_mk]; with_reducible apply canon_of)
    | split

theorem State.deadline_inv {s : State} {p : Nat} (hInv : s.Inv) : (State.deadline s p).Inv := by
  unfold State.deadline
  repeat' first
    | with_reducible assumption
    | with_reducible apply State.missDeadline_inv
    | with_reducible apply postFault_inv
    | with_reducible refine inv_of_fst (by with_reducible assumption) ?_
    | with_reducible refine inv_of_snd (by with_reducible assumption) ?_
    | with_reducible refine foldl_inv (fun _ _ _ => ?_) ?_
    | with_reducible refine foldl_inv_fst (fun _ _ _ => ?_) ?_
    | with_reducible intro _
    | dsimp only
    | (simp only [inv_mk]; with_reducible apply canon_of)
    | split

theorem State.budgetEnd_inv {s : State} {p : Nat} (hInv : s.Inv) : (State.budgetEnd s p).Inv := by
  unfold State.budgetEnd
  repeat' first
    | with_reducible assumption
    | with_reducible apply State.setRun_inv
    | with_reducible apply State.event_inv
    | with_reducible apply State.clipBuckets_inv
    | with_reducible apply State.writePhTime_inv
    | with_reducible apply State.abortPhase_inv
    | with_reducible intro _
    | with_reducible refine ite_inv ?_ ?_
    | dsimp only
    | (simp only [inv_mk]; with_reducible apply canon_of)
    | split

theorem State.startPhase_inv {s : State} {p : Nat} (hInv : s.Inv) : (State.startPhase s p).Inv := by
  unfold State.startPhase
  repeat' first
    | with_reducible assumption
    | with_reducible apply State.ratesChange_inv
    | with_reducible apply State.setRun_inv
    | with_reducible intro _
    | with_reducible refine ite_inv ?_ ?_
    | dsimp only
    | (simp only [inv_mk]; with_reducible apply canon_of)
    | split

theorem State.deferItem_inv {s : State} (hInv : s.Inv) : (State.deferItem s).Inv := by
  unfold State.deferItem
  repeat' first
    | with_reducible assumption
    | with_reducible apply State.event_inv
    | with_reducible apply State.bump_inv
    | with_reducible intro _
    | dsimp only
    | (simp only [inv_mk]; with_reducible apply canon_of)

theorem State.useSlack_inv {s : State} {d : Nat} (hInv : s.Inv) : (State.useSlack s d).Inv := by
  unfold State.useSlack
  repeat' first
    | with_reducible assumption
    | with_reducible intro _
    | dsimp only
    | (simp only [inv_mk]; with_reducible apply canon_of)

theorem State.yieldEngine_inv {s : State} {e : Nat} (hInv : s.Inv) : (State.yieldEngine s e).Inv := by
  unfold State.yieldEngine
  with_reducible refine foldl_inv (fun _ _ _ => ?_) ?_
  with_reducible exact State.setQueue_inv (by assumption)
  with_reducible assumption

theorem State.admitBackground_inv {s : State} {d : Nat} {engines : List Nat} (hInv : s.Inv) : (State.admitBackground s d engines).Inv := by
  unfold State.admitBackground
  repeat' first
    | with_reducible assumption
    | with_reducible apply State.yieldEngine_inv
    | with_reducible apply State.useSlack_inv
    | with_reducible apply State.deferItem_inv
    | with_reducible refine foldl_inv (fun _ _ _ => ?_) ?_
    | with_reducible refine foldl_inv_fst (fun _ _ _ => ?_) ?_
    | with_reducible intro _
    | with_reducible refine ite_inv ?_ ?_
    | dsimp only
    | (simp only [inv_mk]; with_reducible apply canon_of)
    | split

theorem State.closeTick_inv {s : State} {b : Nat} (hInv : s.Inv) : (State.closeTick s b).1.Inv := by
  unfold State.closeTick
  repeat' first
    | with_reducible assumption
    | with_reducible apply State.wr_inv
    | with_reducible apply State.missDeadline_inv
    | with_reducible apply State.budgetEnd_inv
    | with_reducible apply State.endRunning_inv
    | with_reducible refine inv_of_fst (by with_reducible assumption) ?_
    | with_reducible refine inv_of_snd (by with_reducible assumption) ?_
    | with_reducible refine foldl_inv (fun _ _ _ => ?_) ?_
    | with_reducible refine foldl_inv_fst (fun _ _ _ => ?_) ?_
    | with_reducible intro _
    | with_reducible refine ite_inv ?_ ?_
    | with_reducible refine ite_inv_fst ?_ ?_
    | dsimp only
    | (simp only [inv_mk]; with_reducible apply canon_of)
    | split

theorem State.restartPhases_inv {s : State} {b : Nat} (hInv : s.Inv) : (State.restartPhases s b).Inv := by
  unfold State.restartPhases
  simp only
  split
  with_reducible assumption
  with_reducible apply State.clipBuckets_inv
  simp only [inv_mk]
  with_reducible exact canon_of (by assumption)

theorem State.beginTick_inv {s : State} {b : Nat} (hInv : s.Inv) : (State.beginTick s b).Inv := by
  unfold State.beginTick
  repeat' first
    | with_reducible assumption
    | with_reducible apply State.wr_inv
    | with_reducible apply State.setLocked_inv
    | with_reducible apply State.event_inv
    | with_reducible apply State.restartPhases_inv
    | with_reducible refine inv_of_fst (by with_reducible assumption) ?_
    | with_reducible refine inv_of_snd (by with_reducible assumption) ?_
    | with_reducible intro _
    | with_reducible refine ite_inv ?_ ?_
    | dsimp only
    | (simp only [inv_mk]; with_reducible apply canon_of)
    | split

theorem State.beginGap_inv {s : State} {b : Nat} (hInv : s.Inv) : (State.beginGap s b).Inv := by
  unfold State.beginGap
  with_reducible apply State.placeTimeline_inv
  with_reducible apply State.restartPhases_inv
  simp only [inv_mk]
  with_reducible exact canon_of (by assumption)

theorem State.activateDue_inv {s : State} {b : Nat} (hInv : s.Inv) : (State.activateDue s b).Inv := by
  unfold State.activateDue
  repeat' first
    | with_reducible assumption
    | with_reducible apply State.activatePlan_inv
    | with_reducible intro _
    | with_reducible refine ite_inv ?_ ?_
    | dsimp only
    | (simp only [inv_mk]; with_reducible apply canon_of)
    | split

theorem State.stopTicks_inv {s : State} (hInv : s.Inv) : (State.stopTicks s).Inv := by
  unfold State.stopTicks
  repeat' first
    | with_reducible assumption
    | with_reducible intro _
    | dsimp only
    | (simp only [inv_mk]; with_reducible apply canon_of)

theorem State.beginAt_inv {s : State} {b : Nat} (hInv : s.Inv) : (State.beginAt s b).Inv := by
  unfold State.beginAt
  repeat' first
    | with_reducible assumption
    | with_reducible apply State.stopTicks_inv
    | with_reducible apply State.beginGap_inv
    | with_reducible apply State.beginTick_inv
    | with_reducible intro _
    | with_reducible refine ite_inv ?_ ?_
    | dsimp only
    | (simp only [inv_mk]; with_reducible apply canon_of)
    | split

theorem State.tickBoundary_inv {s : State} {b : Nat} (hInv : s.Inv) : (State.tickBoundary s b).Inv := by
  unfold State.tickBoundary
  repeat' first
    | with_reducible assumption
    | with_reducible apply State.closeTick_inv
    | with_reducible apply postFault_inv
    | with_reducible apply State.beginAt_inv
    | with_reducible apply State.activateDue_inv
    | with_reducible refine inv_of_fst (by with_reducible assumption) ?_
    | with_reducible refine inv_of_snd (by with_reducible assumption) ?_
    | with_reducible refine foldl_inv (fun _ _ _ => ?_) ?_
    | with_reducible refine foldl_inv_fst (fun _ _ _ => ?_) ?_
    | with_reducible intro _
    | dsimp only
    | (simp only [inv_mk]; with_reducible apply canon_of)
    | split

theorem State.sourceLost_inv {s : State} (hInv : s.Inv) : (State.sourceLost s).Inv := by
  unfold State.sourceLost
  with_reducible apply State.event_inv
  with_reducible apply State.setBit_inv
  with_reducible apply State.setBit_inv
  simp only [inv_mk]
  with_reducible exact canon_of (by assumption)

theorem State.raiseTickSource_inv {s : State} (hInv : s.Inv) : (State.raiseTickSource s).Inv := by
  unfold State.raiseTickSource
  with_reducible exact postFault_inv (by assumption)

theorem State.sourceReturn_inv {s : State} {offset : Int} (hInv : s.Inv) : (State.sourceReturn s offset).Inv := by
  unfold State.sourceReturn
  simp only
  split
  with_reducible apply State.event_inv
  with_reducible apply State.setBit_inv
  with_reducible apply State.setBit_inv
  simp only [inv_mk]
  with_reducible exact canon_of (by assumption)
  with_reducible apply State.raiseTickSource_inv
  simp only [inv_mk]
  with_reducible exact canon_of (by assumption)

theorem State.deadlinesDue_inv {s : State} {n : Nat} (hInv : s.Inv) : (State.deadlinesDue s n).Inv := by
  unfold State.deadlinesDue
  repeat' first
    | with_reducible assumption
    | with_reducible apply State.deadline_inv
    | with_reducible refine foldl_inv (fun _ _ _ => ?_) ?_
    | with_reducible refine foldl_inv_fst (fun _ _ _ => ?_) ?_
    | with_reducible intro _
    | with_reducible refine ite_inv ?_ ?_
    | dsimp only
    | (simp only [inv_mk]; with_reducible apply canon_of)
    | split

theorem State.budgetsDue_inv {s : State} (hInv : s.Inv) : (State.budgetsDue s).Inv := by
  unfold State.budgetsDue
  repeat' first
    | with_reducible assumption
    | with_reducible apply State.budgetEnd_inv
    | with_reducible refine foldl_inv (fun _ _ _ => ?_) ?_
    | with_reducible refine foldl_inv_fst (fun _ _ _ => ?_) ?_
    | with_reducible intro _
    | with_reducible refine ite_inv ?_ ?_
    | dsimp only
    | (simp only [inv_mk]; with_reducible apply canon_of)
    | split

theorem State.startsDue_inv {s : State} (hInv : s.Inv) : (State.startsDue s).Inv := by
  unfold State.startsDue
  repeat' first
    | with_reducible assumption
    | with_reducible apply State.startPhase_inv
    | with_reducible refine foldl_inv (fun _ _ _ => ?_) ?_
    | with_reducible refine foldl_inv_fst (fun _ _ _ => ?_) ?_
    | with_reducible intro _
    | with_reducible refine ite_inv ?_ ?_
    | dsimp only
    | (simp only [inv_mk]; with_reducible apply canon_of)
    | split

theorem State.tickDue_inv {s : State} (hInv : s.Inv) : (State.tickDue s).Inv := by
  unfold State.tickDue
  repeat' first
    | with_reducible assumption
    | with_reducible apply State.startsDue_inv
    | with_reducible apply State.budgetsDue_inv
    | with_reducible apply State.deadlinesDue_inv
    | with_reducible intro _
    | dsimp only
    | (simp only [inv_mk]; with_reducible apply canon_of)

theorem State.writeTckCtrl_inv {s : State} {v : Nat} (hInv : s.Inv) : (State.writeTckCtrl s v).Inv := by
  unfold State.writeTckCtrl
  simp only
  split
  with_reducible exact State.regAccess_inv (by assumption)
  split
  with_reducible apply State.planSwap_inv
  split
  with_reducible apply State.placeTimeline_inv
  simp only [inv_mk]
  with_reducible apply canon_of
  split
  simp only
  split
  simp only [inv_mk]
  with_reducible exact canon_of (State.wr_inv (by assumption))
  simp only [inv_mk]
  with_reducible exact canon_of (State.wr_inv (by assumption))
  split
  simp only [inv_mk]
  with_reducible exact canon_of (State.wr_inv (by assumption))
  with_reducible exact State.wr_inv (by assumption)
  split
  simp only
  split
  simp only [inv_mk]
  with_reducible exact canon_of (State.wr_inv (by assumption))
  simp only [inv_mk]
  with_reducible exact canon_of (State.wr_inv (by assumption))
  split
  simp only [inv_mk]
  with_reducible exact canon_of (State.wr_inv (by assumption))
  with_reducible exact State.wr_inv (by assumption)
  split
  with_reducible apply State.placeTimeline_inv
  simp only [inv_mk]
  with_reducible apply canon_of
  split
  simp only
  split
  simp only [inv_mk]
  with_reducible exact canon_of (State.wr_inv (by assumption))
  simp only [inv_mk]
  with_reducible exact canon_of (State.wr_inv (by assumption))
  split
  simp only [inv_mk]
  with_reducible exact canon_of (State.wr_inv (by assumption))
  with_reducible exact State.wr_inv (by assumption)
  split
  simp only
  split
  simp only [inv_mk]
  with_reducible exact canon_of (State.wr_inv (by assumption))
  simp only [inv_mk]
  with_reducible exact canon_of (State.wr_inv (by assumption))
  split
  simp only [inv_mk]
  with_reducible exact canon_of (State.wr_inv (by assumption))
  with_reducible exact State.wr_inv (by assumption)

theorem State.writePhaseSkip_inv {s : State} {v : Nat} (hInv : s.Inv) : (State.writePhaseSkip s v).Inv := by
  unfold State.writePhaseSkip
  with_reducible refine foldl_inv (fun _ _ _ => ?_) ?_
  split
  with_reducible exact State.finishPhase_inv (by assumption)
  with_reducible assumption
  with_reducible assumption

theorem execSourceLost_inv {s : State} {t : Nat} (hInv : s.Inv) : Keeps (execSourceLost t s) := by
  unfold execSourceLost
  dsimp only
  split
  with_reducible exact keeps_next (State.advance_inv (by assumption))
  with_reducible apply keeps_next
  split
  split
  with_reducible exact State.sourceLost_inv (State.advance_inv (by assumption))
  with_reducible exact State.advance_inv (by assumption)
  with_reducible exact State.advance_inv (by assumption)

theorem execHoldoverLimitExpiry_inv {s : State} {t : Nat} (hInv : s.Inv) : Keeps (execHoldoverLimitExpiry t s) := by
  unfold execHoldoverLimitExpiry
  dsimp only
  split
  with_reducible exact keeps_next (State.advance_inv (by assumption))
  with_reducible apply keeps_next
  split
  split
  with_reducible apply State.raiseTickSource_inv
  simp only [inv_mk]
  with_reducible exact canon_of (State.advance_inv (by assumption))
  with_reducible exact State.advance_inv (by assumption)
  with_reducible exact State.advance_inv (by assumption)

theorem execSourceReturn_inv {s : State} {t : Nat} {offset : Int} (hInv : s.Inv) : Keeps (execSourceReturn t offset s) := by
  unfold execSourceReturn
  dsimp only
  split
  with_reducible exact keeps_next (State.advance_inv (by assumption))
  with_reducible apply keeps_next
  split
  with_reducible exact State.sourceReturn_inv (State.advance_inv (by assumption))
  with_reducible exact State.advance_inv (by assumption)

theorem execBackgroundAdmit_inv {s : State} {t d : Nat} {engines : List (Fin 96)} (hInv : s.Inv) : Keeps (execBackgroundAdmit t d engines s) := by
  unfold execBackgroundAdmit
  with_reducible apply keeps_next
  with_reducible refine State.live_inv ?_ (fun _ _ => ?_)
  with_reducible assumption
  with_reducible exact State.admitBackground_inv (by assumption)

theorem execTickOutEnd_inv {s : State} {t : Nat} (hInv : s.Inv) : Keeps (execTickOutEnd t s) := by
  unfold execTickOutEnd
  dsimp only
  split
  with_reducible exact keeps_next (State.advance_inv (by assumption))
  with_reducible apply keeps_next
  split
  split
  simp only [inv_mk]
  with_reducible exact canon_of (State.advance_inv (by assumption))
  with_reducible exact State.advance_inv (by assumption)
  with_reducible exact State.advance_inv (by assumption)

theorem State.releaseTag_inv {s : State} {e k tag : Nat} (hInv : s.Inv) : (State.releaseTag s e k tag).Inv := by
  unfold State.releaseTag
  with_reducible exact State.setCtx_inv (by assumption)

theorem State.releaseOp_inv {s : State} {e k issue : Nat} (hInv : s.Inv) : (State.releaseOp s e k issue).Inv := by
  unfold State.releaseOp
  with_reducible exact State.setCtx_inv (by assumption)

theorem State.stopOpen_inv {s : State} {e : Nat} {q : Nat} {k : Nat} {o : OpenOp} {f : Option OpFault} (hInv : s.Inv) : (State.stopOpen s e q k o f).Inv := by
  unfold State.stopOpen
  repeat' first
    | with_reducible assumption
    | with_reducible apply State.spoil_inv
    | with_reducible apply State.releaseOp_inv
    | with_reducible apply State.putOp_inv
    | with_reducible apply State.endOp_inv
    | with_reducible intro _
    | with_reducible refine ite_inv ?_ ?_
    | dsimp only
    | (simp only [inv_mk]; with_reducible apply canon_of)
    | split

theorem State.takeRemoteErr_inv {s : State} {e : Nat} {k : Nat} (hInv : s.Inv) : (State.takeRemoteErr s e k).Inv := by
  unfold State.takeRemoteErr
  repeat' first
    | with_reducible assumption
    | with_reducible apply State.stopOpen_inv
    | with_reducible apply State.setCtx_inv
    | with_reducible refine inv_of_fst (by with_reducible assumption) ?_
    | with_reducible refine inv_of_snd (by with_reducible assumption) ?_
    | with_reducible intro _
    | with_reducible refine ite_inv ?_ ?_
    | dsimp only
    | (simp only [inv_mk]; with_reducible apply canon_of)
    | split

theorem State.remoteFail_inv {s : State} {e k : Nat} {t : RemoteTag} {f : OpFault} (hInv : s.Inv) : (State.remoteFail s e k t f).Inv := by
  unfold State.remoteFail
  with_reducible apply State.takeRemoteErr_inv
  split
  with_reducible exact State.bump_inv (State.releaseTag_inv (by assumption))
  with_reducible exact State.setCtx_inv (State.bump_inv (State.releaseTag_inv (by assumption)))

theorem State.askRemote_inv {s : State} {e k issue a dst len : Nat} {kind : RemoteKind} {p : Packet} (hInv : s.Inv) : (State.askRemote s e k issue a dst len kind p).Inv := by
  unfold State.askRemote
  simp only
  split
  with_reducible apply State.sendOn_inv
  simp only [inv_mk]
  with_reducible exact canon_of (State.setCtx_inv (by assumption))
  with_reducible apply State.remoteFail_inv
  with_reducible apply State.dropPacket_inv
  simp only [inv_mk]
  with_reducible exact canon_of (State.setCtx_inv (by assumption))

theorem State.copyRequests_inv {s : State} {site : Site} {o : OpenOp} {a3 : Nat} (hInv : s.Inv) : (State.copyRequests s site o a3).1.Inv := by
  induction a3 generalizing s site o with
  | zero =>
    unfold State.copyRequests
    repeat' first
      | with_reducible assumption
      | with_reducible apply State.askRemote_inv
      | with_reducible intro _
      | with_reducible refine ite_inv ?_ ?_
      | with_reducible refine ite_inv_fst ?_ ?_
      | dsimp only
      | (simp only [inv_mk]; with_reducible apply canon_of)
      | split
  | succ k ih =>
    unfold State.copyRequests
    repeat' first
      | with_reducible assumption
      | with_reducible apply ih
      | with_reducible assumption
      | with_reducible apply State.askRemote_inv
      | with_reducible intro _
      | with_reducible refine ite_inv ?_ ?_
      | with_reducible refine ite_inv_fst ?_ ?_
      | dsimp only
      | (simp only [inv_mk]; with_reducible apply canon_of)
      | split

theorem State.landData_inv {s : State} {e : Nat} {k : Nat} {t : RemoteTag} {data : List Byte} (hInv : s.Inv) : (State.landData s e k t data).Inv := by
  unfold State.landData
  repeat' first
    | with_reducible assumption
    | with_reducible apply State.windowStore_inv
    | with_reducible apply State.kstore_inv
    | with_reducible apply State.setCtxQueue_inv
    | with_reducible refine inv_of_fst (by with_reducible assumption) ?_
    | with_reducible refine inv_of_snd (by with_reducible assumption) ?_
    | with_reducible intro _
    | dsimp only
    | (simp only [inv_mk]; with_reducible apply canon_of)
    | split

theorem State.copyProgress_inv {s : State} {e k issue : Nat} (hInv : s.Inv) : (State.copyProgress s e k issue).Inv := by
  unfold State.copyProgress
  simp only
  split
  with_reducible assumption
  split
  with_reducible assumption
  with_reducible exact State.setCtxQueue_inv (State.setTags_inv (by assumption))

theorem Work.access_inv {far : Option (Nat × Packet)} {near : State → Except OpFault (List Byte) × State} (hn : ∀ s, s.Inv → (near s).2.Inv) : WorkInv (Work.access far near) := by
  unfold Work.access
  refine workInv_get fun w hw => ?_
  split
  · exact workInv_bind (workInv_set hw) fun _ => workInv_pure
  · split
    · exact workInv_bind (workInv_set (State.askRemote_inv hw)) fun _ => workInv_throw
    · split
      · rename_i e
        exact workInv_bind (workInv_set (inv_of_snd e (hn _ hw))) fun _ => workInv_pure
      · rename_i e
        exact workInv_bind (workInv_set (inv_of_snd e (hn _ hw))) fun _ => workInv_throw

theorem Work.effect_inv {f : State → State} (hf : ∀ s, s.Inv → (f s).Inv) : WorkInv (Work.effect f) := by
  unfold Work.effect
  exact workInv_bind (Work.access_inv hf) fun _ => workInv_pure

theorem Work.note_inv {a n : Nat} : WorkInv (Work.note a n) := by
  unfold Work.note
  with_reducible refine workInv_modify (fun _ _ => ?_)
  with_reducible assumption

theorem Work.goesOut_inv {a : Nat} : WorkInv (Work.goesOut a) := by
  unfold Work.goesOut
  with_reducible refine workInv_get (fun _ _ => ?_)
  split
  with_reducible exact workInv_pure
  split
  with_reducible exact workInv_pure
  with_reducible exact workInv_throw

theorem Work.read_inv {a : Nat} {n : Nat}  : WorkInv (Work.read a n) := by
  unfold Work.read
  repeat' first
    | with_reducible assumption
    | with_reducible apply Work.goesOut_inv
    | with_reducible apply Work.access_inv
    | with_reducible apply Work.note_inv
    | with_reducible refine inv_of_fst (by with_reducible assumption) ?_
    | with_reducible refine inv_of_snd (by with_reducible assumption) ?_
    | with_reducible apply workInv_pure
    | with_reducible apply workInv_throw
    | with_reducible refine workInv_get (fun _ _ => ?_)
    | with_reducible refine workInv_bind ?_ (fun _ => ?_)
    | with_reducible apply workInv_foldlM
    | with_reducible apply workInv_forM
    | with_reducible apply workInv_forIn
    | with_reducible apply workInv_mapM
    | with_reducible apply workInv_set
    | with_reducible apply workInv_modify
    | with_reducible intro _
    | dsimp only
    | (simp only [inv_mk]; with_reducible apply canon_of)
    | split

theorem Work.readNat_inv {a : Nat} {n : Nat}  : WorkInv (Work.readNat a n) := by
  unfold Work.readNat
  repeat' first
    | with_reducible assumption
    | with_reducible apply Work.read_inv
    | with_reducible refine inv_of_fst (by with_reducible assumption) ?_
    | with_reducible refine inv_of_snd (by with_reducible assumption) ?_
    | with_reducible apply workInv_pure
    | with_reducible apply workInv_throw
    | with_reducible refine workInv_get (fun _ _ => ?_)
    | with_reducible refine workInv_bind ?_ (fun _ => ?_)
    | with_reducible apply workInv_foldlM
    | with_reducible apply workInv_forM
    | with_reducible apply workInv_forIn
    | with_reducible apply workInv_mapM
    | with_reducible apply workInv_set
    | with_reducible apply workInv_modify
    | (extract_lets +onlyGivenNames z; with_reducible apply inv_let (z := z); (case' val => (dsimp only [z]; try clear z)); (case' main => (intro hz; clear_value z)))
    | (extract_lets +onlyGivenNames z; with_reducible apply inv_let (z := z.1); (case' val => (dsimp only [z]; try clear z)); (case' main => (intro hz; clear_value z)))
    | (extract_lets +onlyGivenNames z; with_reducible apply inv_let (z := z.2); (case' val => (dsimp only [z]; try clear z)); (case' main => (intro hz; clear_value z)))
    | (extract_lets +onlyGivenNames z; clear_value z)
    | split
    | dsimp only
    | (simp only [inv_mk]; with_reducible apply canon_of)
    | split

theorem Work.write_inv {a : Nat} {bs : List Byte} : WorkInv (Work.write a bs) := by
  unfold Work.write
  with_reducible refine workInv_bind ?_ (fun _ => ?_)
  with_reducible apply Work.goesOut_inv
  dsimp only
  split
  with_reducible refine workInv_bind ?_ (fun _ => ?_)
  with_reducible refine Work.access_inv (fun _ _ => ?_)
  with_reducible assumption
  with_reducible exact workInv_pure
  with_reducible refine workInv_bind ?_ (fun _ => ?_)
  with_reducible apply Work.note_inv
  with_reducible refine workInv_get (fun _ _ => ?_)
  with_reducible refine workInv_bind ?_ (fun _ => ?_)
  with_reducible refine Work.access_inv (fun _ _ => ?_)
  split
  with_reducible assumption
  with_reducible exact State.store_inv (by assumption)
  with_reducible exact workInv_pure

theorem Work.atom_inv {a : Nat} {r : AtomReq} : WorkInv (Work.atom a r) := by
  unfold Work.atom
  with_reducible refine workInv_bind ?_ (fun _ => ?_)
  with_reducible apply Work.goesOut_inv
  dsimp only
  split
  with_reducible refine workInv_bind ?_ (fun _ => ?_)
  with_reducible refine Work.access_inv (fun _ _ => ?_)
  with_reducible assumption
  with_reducible exact workInv_pure
  with_reducible refine workInv_bind ?_ (fun _ => ?_)
  with_reducible apply Work.note_inv
  with_reducible refine workInv_get (fun _ _ => ?_)
  with_reducible refine workInv_bind ?_ (fun _ => ?_)
  with_reducible refine Work.access_inv (fun _ _ => ?_)
  split
  with_reducible exact State.noteAtomic_inv (by assumption)
  split
  with_reducible assumption
  split
  with_reducible assumption
  split
  with_reducible exact State.doAtomic_inv (by assumption)
  with_reducible exact State.doAtomic_inv (by assumption)
  with_reducible exact workInv_pure

theorem Work.engine_inv  : WorkInv (Work.engine ) := by
  unfold Work.engine
  with_reducible refine workInv_get (fun _ _ => ?_)
  with_reducible exact workInv_pure

theorem Work.count_inv {reg : Nat → Nat} {hi lo : Nat} : WorkInv (Work.count reg hi lo) := by
  unfold Work.count
  with_reducible refine workInv_bind ?_ (fun _ => ?_)
  with_reducible apply Work.engine_inv
  with_reducible refine Work.effect_inv (fun _ _ => ?_)
  with_reducible exact State.bump_inv (by assumption)

theorem readPool_inv {a : Nat}  : WorkInv (readPool a) := by
  unfold readPool
  repeat' first
    | with_reducible assumption
    | with_reducible apply Work.read_inv
    | with_reducible refine inv_of_fst (by with_reducible assumption) ?_
    | with_reducible refine inv_of_snd (by with_reducible assumption) ?_
    | with_reducible apply workInv_pure
    | with_reducible apply workInv_throw
    | with_reducible refine workInv_get (fun _ _ => ?_)
    | with_reducible refine workInv_bind ?_ (fun _ => ?_)
    | with_reducible apply workInv_foldlM
    | with_reducible apply workInv_forM
    | with_reducible apply workInv_forIn
    | with_reducible apply workInv_mapM
    | with_reducible apply workInv_set
    | with_reducible apply workInv_modify
    | (extract_lets +onlyGivenNames z; with_reducible apply inv_let (z := z); (case' val => (dsimp only [z]; try clear z)); (case' main => (intro hz; clear_value z)))
    | (extract_lets +onlyGivenNames z; with_reducible apply inv_let (z := z.1); (case' val => (dsimp only [z]; try clear z)); (case' main => (intro hz; clear_value z)))
    | (extract_lets +onlyGivenNames z; with_reducible apply inv_let (z := z.2); (case' val => (dsimp only [z]; try clear z)); (case' main => (intro hz; clear_value z)))
    | (extract_lets +onlyGivenNames z; clear_value z)
    | split
    | dsimp only
    | (simp only [inv_mk]; with_reducible apply canon_of)
    | split

theorem Pool.casHead_inv {x : Pool} {old top : Nat} : WorkInv (Pool.casHead x old top) := by
  unfold Pool.casHead
  with_reducible refine workInv_bind ?_ (fun _ => ?_)
  with_reducible apply Work.atom_inv
  split
  with_reducible exact workInv_pure
  with_reducible refine workInv_bind ?_ (fun _ => ?_)
  with_reducible apply Work.count_inv
  with_reducible exact workInv_pure

theorem Pool.push_inv {x : Pool} {p kk : Nat} : WorkInv (Pool.push x p kk) := by
  induction kk generalizing x p with
  | zero =>
    unfold Pool.push
    with_reducible exact workInv_pure
  | succ k ih =>
    unfold Pool.push
    with_reducible refine workInv_bind ?_ (fun _ => ?_)
    with_reducible apply Work.readNat_inv
    with_reducible refine workInv_bind ?_ (fun _ => ?_)
    with_reducible apply Work.write_inv
    with_reducible refine workInv_bind ?_ (fun _ => ?_)
    with_reducible apply Pool.casHead_inv
    split
    with_reducible exact workInv_pure
    with_reducible apply ih

theorem Pool.giveBack_inv {x : Pool} {p : Nat} : WorkInv (Pool.giveBack x p) := by
  unfold Pool.giveBack
  with_reducible refine workInv_bind ?_ (fun _ => ?_)
  with_reducible apply Pool.push_inv
  with_reducible refine workInv_bind ?_ (fun _ => ?_)
  with_reducible apply Work.atom_inv
  with_reducible apply Work.count_inv

theorem Pool.cnt2_inv {x : Pool} {p : Nat} {dPin dRef : Int} : WorkInv (Pool.cnt2 x p dPin dRef) := by
  unfold Pool.cnt2
  with_reducible apply Work.atom_inv

theorem Pool.release_inv {x : Pool} {p : Nat} {dPin dRef : Int} : WorkInv (Pool.release x p dPin dRef) := by
  unfold Pool.release
  with_reducible refine workInv_bind ?_ (fun _ => ?_)
  with_reducible apply Pool.cnt2_inv
  dsimp only
  split
  with_reducible apply Pool.giveBack_inv
  with_reducible exact workInv_pure

theorem Pool.pop_inv {x : Pool} {seq kk : Nat} : WorkInv (Pool.pop x seq kk) := by
  induction kk generalizing x seq with
  | zero =>
    unfold Pool.pop
    with_reducible exact workInv_throw
  | succ k ih =>
    unfold Pool.pop
    with_reducible refine workInv_bind ?_ (fun _ => ?_)
    with_reducible apply Work.readNat_inv
    dsimp only
    split
    with_reducible refine workInv_bind ?_ (fun _ => ?_)
    with_reducible exact workInv_throw
    with_reducible refine workInv_bind ?_ (fun _ => ?_)
    with_reducible apply Work.readNat_inv
    with_reducible refine workInv_bind ?_ (fun _ => ?_)
    with_reducible apply Pool.casHead_inv
    split
    with_reducible exact workInv_pure
    with_reducible apply ih
    with_reducible refine workInv_bind ?_ (fun _ => ?_)
    with_reducible apply Work.readNat_inv
    with_reducible refine workInv_bind ?_ (fun _ => ?_)
    with_reducible apply Pool.casHead_inv
    split
    with_reducible exact workInv_pure
    with_reducible apply ih

theorem Pool.alloc_inv {x : Pool} {seq : Nat} : WorkInv (Pool.alloc x seq) := by
  unfold Pool.alloc
  with_reducible refine workInv_bind ?_ (fun _ => ?_)
  with_reducible apply Pool.pop_inv
  with_reducible refine workInv_bind ?_ (fun _ => ?_)
  with_reducible apply Work.atom_inv
  with_reducible refine workInv_bind ?_ (fun _ => ?_)
  with_reducible apply Work.atom_inv
  with_reducible refine workInv_bind ?_ (fun _ => ?_)
  with_reducible apply Work.count_inv
  with_reducible exact workInv_pure

theorem Pool.pin_inv {x : Pool} {seq p : Nat} : WorkInv (Pool.pin x seq p) := by
  unfold Pool.pin
  with_reducible refine workInv_bind ?_ (fun _ => ?_)
  with_reducible apply Pool.cnt2_inv
  split
  with_reducible refine workInv_bind ?_ (fun _ => ?_)
  with_reducible apply Pool.cnt2_inv
  with_reducible refine workInv_bind ?_ (fun _ => ?_)
  with_reducible apply Work.count_inv
  with_reducible exact workInv_throw
  with_reducible refine workInv_bind ?_ (fun _ => ?_)
  with_reducible apply Work.count_inv
  with_reducible refine workInv_modify (fun _ _ => ?_)
  with_reducible assumption

theorem Pool.unpin_inv {x : Pool} {p : Nat} : WorkInv (Pool.unpin x p) := by
  unfold Pool.unpin
  with_reducible refine workInv_bind ?_ (fun _ => ?_)
  with_reducible refine workInv_modify (fun _ _ => ?_)
  with_reducible assumption
  with_reducible apply Pool.release_inv

theorem Pool.header_inv {x : Pool} {seq : Nat} {num : Nat} {epoch : Nat} {dh : Nat} {index : Option Nat}  : WorkInv (Pool.header x seq num epoch dh index) := by
  unfold Pool.header
  repeat' first
    | with_reducible assumption
    | with_reducible apply Work.read_inv
    | with_reducible refine inv_of_fst (by with_reducible assumption) ?_
    | with_reducible refine inv_of_snd (by with_reducible assumption) ?_
    | with_reducible apply workInv_pure
    | with_reducible apply workInv_throw
    | with_reducible refine workInv_get (fun _ _ => ?_)
    | with_reducible refine workInv_bind ?_ (fun _ => ?_)
    | with_reducible apply workInv_foldlM
    | with_reducible apply workInv_forM
    | with_reducible apply workInv_forIn
    | with_reducible apply workInv_mapM
    | with_reducible apply workInv_set
    | with_reducible apply workInv_modify
    | dsimp only
    | (simp only [inv_mk]; with_reducible apply canon_of)
    | split

theorem Page.slot_inv {p : Page} {side : Nat} {s : Nat}  : WorkInv (Page.slot p side s) := by
  unfold Page.slot
  repeat' first
    | with_reducible assumption
    | with_reducible apply Work.read_inv
    | with_reducible refine inv_of_fst (by with_reducible assumption) ?_
    | with_reducible refine inv_of_snd (by with_reducible assumption) ?_
    | with_reducible apply workInv_pure
    | with_reducible apply workInv_throw
    | with_reducible refine workInv_get (fun _ _ => ?_)
    | with_reducible refine workInv_bind ?_ (fun _ => ?_)
    | with_reducible apply workInv_foldlM
    | with_reducible apply workInv_forM
    | with_reducible apply workInv_forIn
    | with_reducible apply workInv_mapM
    | with_reducible apply workInv_set
    | with_reducible apply workInv_modify
    | with_reducible intro _
    | dsimp only
    | (simp only [inv_mk]; with_reducible apply canon_of)
    | split

theorem readSeq_inv {table : Nat} {b : Nat}  : WorkInv (readSeq table b) := by
  unfold readSeq
  repeat' first
    | with_reducible assumption
    | with_reducible apply Work.read_inv
    | with_reducible refine inv_of_fst (by with_reducible assumption) ?_
    | with_reducible refine inv_of_snd (by with_reducible assumption) ?_
    | with_reducible apply workInv_pure
    | with_reducible apply workInv_throw
    | with_reducible refine workInv_get (fun _ _ => ?_)
    | with_reducible refine workInv_bind ?_ (fun _ => ?_)
    | with_reducible apply workInv_foldlM
    | with_reducible apply workInv_forM
    | with_reducible apply workInv_forIn
    | with_reducible apply workInv_mapM
    | with_reducible apply workInv_set
    | with_reducible apply workInv_modify
    | (extract_lets +onlyGivenNames z; with_reducible apply inv_let (z := z); (case' val => (dsimp only [z]; try clear z)); (case' main => (intro hz; clear_value z)))
    | (extract_lets +onlyGivenNames z; with_reducible apply inv_let (z := z.1); (case' val => (dsimp only [z]; try clear z)); (case' main => (intro hz; clear_value z)))
    | (extract_lets +onlyGivenNames z; with_reducible apply inv_let (z := z.2); (case' val => (dsimp only [z]; try clear z)); (case' main => (intro hz; clear_value z)))
    | (extract_lets +onlyGivenNames z; clear_value z)
    | split
    | dsimp only
    | (simp only [inv_mk]; with_reducible apply canon_of)
    | split

theorem readSeqs_inv {table n : Nat} : WorkInv (readSeqs table n) := by
  unfold readSeqs
  with_reducible refine workInv_mapM (fun _ => ?_)
  with_reducible apply readSeq_inv

theorem readEntry_inv {x : SeqEnt} {j : Nat} : WorkInv (readEntry x j) := by
  unfold readEntry
  with_reducible refine workInv_bind ?_ (fun _ => ?_)
  with_reducible apply Work.readNat_inv
  with_reducible exact workInv_pure

theorem slotsOf_inv {pool : Pool} {seq : Nat} {x : SeqEnt} {a3 : List Nat}  : WorkInv (slotsOf pool seq x a3) := by
  induction a3 generalizing pool seq x with
  | nil =>
    unfold slotsOf
    repeat' first
      | with_reducible assumption
      | with_reducible apply readEntry_inv
      | with_reducible apply Work.readNat_inv
      | with_reducible refine inv_of_fst (by with_reducible assumption) ?_
      | with_reducible refine inv_of_snd (by with_reducible assumption) ?_
      | with_reducible apply workInv_pure
      | with_reducible apply workInv_throw
      | with_reducible refine workInv_get (fun _ _ => ?_)
      | with_reducible refine workInv_bind ?_ (fun _ => ?_)
      | with_reducible apply workInv_foldlM
      | with_reducible apply workInv_forM
      | with_reducible apply workInv_forIn
      | with_reducible apply workInv_mapM
      | with_reducible apply workInv_set
      | with_reducible apply workInv_modify
      | dsimp only
      | (simp only [inv_mk]; with_reducible apply canon_of)
      | split
  | cons x l ih =>
    unfold slotsOf
    repeat' first
      | with_reducible assumption
      | with_reducible apply ih
      | with_reducible assumption
      | with_reducible apply readEntry_inv
      | with_reducible apply Work.readNat_inv
      | with_reducible refine inv_of_fst (by with_reducible assumption) ?_
      | with_reducible refine inv_of_snd (by with_reducible assumption) ?_
      | with_reducible apply workInv_pure
      | with_reducible apply workInv_throw
      | with_reducible refine workInv_get (fun _ _ => ?_)
      | with_reducible refine workInv_bind ?_ (fun _ => ?_)
      | with_reducible apply workInv_foldlM
      | with_reducible apply workInv_forM
      | with_reducible apply workInv_forIn
      | with_reducible apply workInv_mapM
      | with_reducible apply workInv_set
      | with_reducible apply workInv_modify
      | dsimp only
      | (simp only [inv_mk]; with_reducible apply canon_of)
      | split

theorem State.work_inv {α : Type} {s : State} {site : Site} {o : OpenOp} {remote : Bool} {x : Work α} (hInv : s.Inv)
    (hx : WorkInv x) : (s.work site o remote x).2.s.Inv := hx _ hInv

theorem PageWork.close_inv {w : PageWork} {o : OpenOp} (h_w : w.s.Inv) : (PageWork.close w o).1.Inv := by
  unfold PageWork.close
  repeat' first
    | with_reducible assumption
    | with_reducible apply State.chargeOp_inv
    | with_reducible refine inv_of_fst (by with_reducible assumption) ?_
    | with_reducible refine inv_of_snd (by with_reducible assumption) ?_
    | with_reducible refine inv_of_work (by with_reducible assumption) ?_
    | with_reducible refine ite_inv ?_ ?_
    | with_reducible refine ite_inv_fst ?_ ?_
    | dsimp only
    | (simp only [inv_mk]; with_reducible apply canon_of)
    | split

end Sys2Proof.Machine
end

