-- ==== Sys2Proof/Laws/InvArrays.lean ====
section
/-! SUPPORT. The invariant of State through the arrays, the row unit, scans, convolution and pulses: every operation and every command of these files keeps it. -/

namespace Sys2Proof.Machine

theorem State.tileRun_inv {s : State} {e : Nat} {sr : Bool} {g : Grid} {i : Nat} {spot : Nat → Nat → Nat × Nat} {val : Nat → W32 → FVal} {acc : List W32} (hInv : s.Inv) : (State.tileRun s e sr g i spot val acc).1.Inv := by
  unfold State.tileRun
  repeat' first
    | with_reducible assumption
    | with_reducible apply State.stepLanes_inv
    | with_reducible refine inv_of_fst (by with_reducible assumption) ?_
    | with_reducible refine inv_of_snd (by with_reducible assumption) ?_
    | with_reducible intro _
    | dsimp only
    | (simp only [inv_mk]; with_reducible apply canon_of)
    | split

theorem State.redTile_inv {s : State} {e : Nat} {g : Grid} {int : Bool} {op : RedOp} {t : Tensor} {r0 c0 i : Nat} {acc : List W32} (hInv : s.Inv) : (State.redTile s e g int op t r0 c0 i acc).Inv := by
  unfold State.redTile
  with_reducible refine foldl_inv (fun _ _ _ => ?_) ?_
  with_reducible exact State.storeIfChanged_inv (State.claimLine_inv (by assumption))
  with_reducible assumption

theorem State.tileDone_inv {s : State} {e : Nat} {o : OpenOp} {mine : List Nat} {later : List Nat} {tiles : Nat} (hInv : s.Inv) : (State.tileDone s e o mine later tiles).1.Inv := by
  unfold State.tileDone
  repeat' first
    | with_reducible assumption
    | with_reducible apply State.setTags_inv
    | with_reducible intro _
    | dsimp only
    | (simp only [inv_mk]; with_reducible apply canon_of)

theorem State.tileStep_inv {s : State} {e : Nat} {o : OpenOp} {g : Grid} {int : Bool} {zeroPads : Bool} {srcs : Nat → Nat → List Source} {init : List W32 × Nat} {fa : Nat → Nat → Fed} {fb : Nat → Nat → Fed} {skip : Nat → Nat → Bool} (hInv : s.Inv) : (State.tileStep s e o g int zeroPads srcs init fa fb skip).1.Inv := by
  unfold State.tileStep
  repeat' first
    | with_reducible assumption
    | with_reducible apply State.countNum_inv
    | with_reducible refine inv_of_fst (by with_reducible assumption) ?_
    | with_reducible refine inv_of_snd (by with_reducible assumption) ?_
    | with_reducible intro _
    | with_reducible refine ite_inv ?_ ?_
    | with_reducible refine ite_inv_fst ?_ ?_
    | dsimp only
    | (simp only [inv_mk]; with_reducible apply canon_of)
    | split

theorem State.mmaStep_inv {s : State} {e : Nat} {o : OpenOp} {x : MmaArgs} (hInv : s.Inv) : (State.mmaStep s e o x).1.Inv := by
  unfold State.mmaStep
  repeat' first
    | with_reducible assumption
    | with_reducible apply State.tileStep_inv
    | with_reducible intro _
    | dsimp only
    | (simp only [inv_mk]; with_reducible apply canon_of)

theorem State.mmaEmpty_inv {s : State} {e : Nat} {o : OpenOp} {x : MmaArgs} (hInv : s.Inv) : (State.mmaEmpty s e o x).1.Inv := by
  unfold State.mmaEmpty
  repeat' first
    | with_reducible assumption
    | with_reducible apply State.countNum_inv
    | with_reducible refine inv_of_fst (by with_reducible assumption) ?_
    | with_reducible refine inv_of_snd (by with_reducible assumption) ?_
    | with_reducible intro _
    | with_reducible refine ite_inv ?_ ?_
    | with_reducible refine ite_inv_fst ?_ ?_
    | dsimp only
    | (simp only [inv_mk]; with_reducible apply canon_of)
    | split

theorem State.mmaBody_inv {s : State} {site : Site} {o : OpenOp} {bwd : Bool} (hInv : s.Inv) : (State.mmaBody s site o bwd).Inv := by
  unfold State.mmaBody
  repeat' first
    | with_reducible assumption
    | with_reducible apply State.launch_inv
    | with_reducible apply State.mmaEmpty_inv
    | with_reducible apply State.clearStation_inv
    | with_reducible refine inv_of_fst (by with_reducible assumption) ?_
    | with_reducible refine inv_of_snd (by with_reducible assumption) ?_
    | with_reducible apply issueOf_inv
    | with_reducible apply issue_opens
    | with_reducible apply issue_ends
    | with_reducible apply issue_fault
    | with_reducible refine bodyInv_bind (fun _ => ?_)
    | with_reducible apply bodyInv_pure
    | with_reducible apply bodyInv_ok
    | with_reducible apply bodyInv_error
    | with_reducible intro _
    | dsimp only
    | (simp only [inv_mk]; with_reducible apply canon_of)
    | split

theorem State.mmaWriteback_inv {s : State} {e : Nat} {o : OpenOp} (hInv : s.Inv) : (State.mmaWriteback s e o).1.Inv := by
  unfold State.mmaWriteback
  repeat' first
    | with_reducible assumption
    | with_reducible apply State.redTile_inv
    | with_reducible apply State.tileRun_inv
    | with_reducible apply State.putOut_inv
    | with_reducible apply State.tileDone_inv
    | with_reducible refine inv_of_fst (by with_reducible assumption) ?_
    | with_reducible refine inv_of_snd (by with_reducible assumption) ?_
    | with_reducible intro _
    | dsimp only
    | (simp only [inv_mk]; with_reducible apply canon_of)
    | split

theorem State.redPart_inv {s : State} {e : Nat} {o : OpenOp} (hInv : s.Inv) : (State.redPart s e o).Inv := by
  unfold State.redPart
  repeat' first
    | with_reducible assumption
    | with_reducible apply State.freeNat_inv
    | with_reducible apply State.redTile_inv
    | with_reducible refine inv_of_fst (by with_reducible assumption) ?_
    | with_reducible refine inv_of_snd (by with_reducible assumption) ?_
    | with_reducible intro _
    | dsimp only
    | (simp only [inv_mk]; with_reducible apply canon_of)
    | split

theorem State.nextTile_inv {s : State} {e : Nat} {o : OpenOp} (hInv : s.Inv) : (State.nextTile s e o).1.Inv := by
  unfold State.nextTile
  repeat' first
    | with_reducible assumption
    | with_reducible apply State.mmaEmpty_inv
    | with_reducible refine inv_of_fst (by with_reducible assumption) ?_
    | with_reducible refine inv_of_snd (by with_reducible assumption) ?_
    | with_reducible intro _
    | with_reducible refine ite_inv ?_ ?_
    | with_reducible refine ite_inv_fst ?_ ?_
    | dsimp only
    | (simp only [inv_mk]; with_reducible apply canon_of)
    | split

theorem execMma_inv {s : State} {t : Nat} {e : Fin 96} {q : Fin 4} (hInv : s.Inv) : Keeps (execMma t e q s) := by
  unfold execMma
  dsimp only
  split
  with_reducible exact keeps_next (State.advance_inv (by assumption))
  with_reducible apply keeps_next
  with_reducible refine State.issueNext_inv ?_ (fun _ _ _ _ => ?_)
  with_reducible exact State.advance_inv (by assumption)
  with_reducible exact State.mmaBody_inv (by assumption)

theorem execMmaBwdX_inv {s : State} {t : Nat} {e : Fin 96} {q : Fin 4} (hInv : s.Inv) : Keeps (execMmaBwdX t e q s) := by
  unfold execMmaBwdX
  dsimp only
  split
  with_reducible exact keeps_next (State.advance_inv (by assumption))
  with_reducible apply keeps_next
  with_reducible refine State.issueNext_inv ?_ (fun _ _ _ _ => ?_)
  with_reducible exact State.advance_inv (by assumption)
  split
  with_reducible apply issue_fault
  with_reducible apply State.mmaBody_inv
  with_reducible assumption

theorem execMmaBwdW_inv {s : State} {t : Nat} {e : Fin 96} {q : Fin 4} (hInv : s.Inv) : Keeps (execMmaBwdW t e q s) := by
  unfold execMmaBwdW
  dsimp only
  split
  with_reducible exact keeps_next (State.advance_inv (by assumption))
  with_reducible apply keeps_next
  with_reducible refine State.issueNext_inv ?_ (fun _ _ _ _ => ?_)
  with_reducible exact State.advance_inv (by assumption)
  split
  with_reducible apply issue_fault
  with_reducible apply State.mmaBody_inv
  with_reducible assumption

theorem State.putFp32_inv {s : State} {e : Nat} {sr : Bool} {a : Nat} {vs : List W32} (hInv : s.Inv) : (State.putFp32 s e sr a vs).Inv := by
  unfold State.putFp32
  repeat' first
    | with_reducible assumption
    | with_reducible apply State.countNum_inv
    | with_reducible apply State.stepLanes_inv
    | with_reducible apply State.store_inv
    | with_reducible refine foldl_inv (fun _ _ _ => ?_) ?_
    | with_reducible refine foldl_inv_fst (fun _ _ _ => ?_) ?_
    | with_reducible intro _
    | dsimp only
    | (simp only [inv_mk]; with_reducible apply canon_of)

theorem State.putStats_inv {s : State} {e : Nat} {d : Desc} {r : Nat} {st : Stats} (hInv : s.Inv) : (State.putStats s e d r st).Inv := by
  unfold State.putStats
  repeat' first
    | with_reducible assumption
    | with_reducible apply State.putFp32_inv
    | with_reducible intro _
    | dsimp only
    | (simp only [inv_mk]; with_reducible apply canon_of)

theorem State.normBody_inv {s : State} {site : Site} {o : OpenOp} (hInv : s.Inv) : (State.normBody s site o).Inv := by
  unfold State.normBody
  repeat' first
    | with_reducible assumption
    | with_reducible apply State.launchUnits_inv
    | with_reducible refine inv_of_fst (by with_reducible assumption) ?_
    | with_reducible refine inv_of_snd (by with_reducible assumption) ?_
    | with_reducible apply issueOf_inv
    | with_reducible apply issue_opens
    | with_reducible apply issue_ends
    | with_reducible apply issue_fault
    | with_reducible refine bodyInv_bind (fun _ => ?_)
    | with_reducible apply bodyInv_pure
    | with_reducible apply bodyInv_ok
    | with_reducible apply bodyInv_error
    | with_reducible intro _
    | dsimp only
    | (simp only [inv_mk]; with_reducible apply canon_of)
    | split

theorem State.normUnit_inv {s : State} {e : Nat} {o : OpenOp} {i : Nat} (hInv : s.Inv) : (State.normUnit s e o i).1.Inv := by
  unfold State.normUnit
  repeat' first
    | with_reducible assumption
    | with_reducible apply State.putRow_inv
    | with_reducible apply State.putStats_inv
    | with_reducible refine inv_of_fst (by with_reducible assumption) ?_
    | with_reducible refine inv_of_snd (by with_reducible assumption) ?_
    | with_reducible intro _
    | with_reducible refine ite_inv ?_ ?_
    | with_reducible refine ite_inv_fst ?_ ?_
    | dsimp only
    | (simp only [inv_mk]; with_reducible apply canon_of)
    | split

theorem State.normBwdBody_inv {s : State} {site : Site} {o : OpenOp} (hInv : s.Inv) : (State.normBwdBody s site o).Inv := by
  unfold State.normBwdBody
  repeat' first
    | with_reducible assumption
    | with_reducible apply State.launchUnits_inv
    | with_reducible refine inv_of_fst (by with_reducible assumption) ?_
    | with_reducible refine inv_of_snd (by with_reducible assumption) ?_
    | with_reducible apply issueOf_inv
    | with_reducible apply issue_opens
    | with_reducible apply issue_ends
    | with_reducible apply issue_fault
    | with_reducible refine bodyInv_bind (fun _ => ?_)
    | with_reducible apply bodyInv_pure
    | with_reducible apply bodyInv_ok
    | with_reducible apply bodyInv_error
    | with_reducible intro _
    | dsimp only
    | (simp only [inv_mk]; with_reducible apply canon_of)
    | split

theorem State.normBwdUnit_inv {s : State} {e : Nat} {o : OpenOp} {i : Nat} (hInv : s.Inv) : (State.normBwdUnit s e o i).1.Inv := by
  unfold State.normBwdUnit
  repeat' first
    | with_reducible assumption
    | with_reducible apply State.putRow_inv
    | with_reducible refine inv_of_fst (by with_reducible assumption) ?_
    | with_reducible refine inv_of_snd (by with_reducible assumption) ?_
    | with_reducible intro _
    | with_reducible refine ite_inv ?_ ?_
    | with_reducible refine ite_inv_fst ?_ ?_
    | dsimp only
    | (simp only [inv_mk]; with_reducible apply canon_of)
    | split

theorem State.smaxBody_inv {s : State} {site : Site} {o : OpenOp} (hInv : s.Inv) : (State.smaxBody s site o).Inv := by
  unfold State.smaxBody
  repeat' first
    | with_reducible assumption
    | with_reducible apply State.launchUnits_inv
    | with_reducible refine inv_of_fst (by with_reducible assumption) ?_
    | with_reducible refine inv_of_snd (by with_reducible assumption) ?_
    | with_reducible apply issueOf_inv
    | with_reducible apply issue_opens
    | with_reducible apply issue_ends
    | with_reducible apply issue_fault
    | with_reducible refine bodyInv_bind (fun _ => ?_)
    | with_reducible apply bodyInv_pure
    | with_reducible apply bodyInv_ok
    | with_reducible apply bodyInv_error
    | with_reducible intro _
    | dsimp only
    | (simp only [inv_mk]; with_reducible apply canon_of)
    | split

theorem State.smaxUnit_inv {s : State} {e : Nat} {o : OpenOp} {i : Nat} (hInv : s.Inv) : (State.smaxUnit s e o i).1.Inv := by
  unfold State.smaxUnit
  repeat' first
    | with_reducible assumption
    | with_reducible apply State.putRow_inv
    | with_reducible refine inv_of_fst (by with_reducible assumption) ?_
    | with_reducible refine inv_of_snd (by with_reducible assumption) ?_
    | with_reducible intro _
    | dsimp only
    | (simp only [inv_mk]; with_reducible apply canon_of)
    | split

theorem State.smaxBwdBody_inv {s : State} {site : Site} {o : OpenOp} (hInv : s.Inv) : (State.smaxBwdBody s site o).Inv := by
  unfold State.smaxBwdBody
  repeat' first
    | with_reducible assumption
    | with_reducible apply State.launchUnits_inv
    | with_reducible refine inv_of_fst (by with_reducible assumption) ?_
    | with_reducible refine inv_of_snd (by with_reducible assumption) ?_
    | with_reducible apply issueOf_inv
    | with_reducible apply issue_opens
    | with_reducible apply issue_ends
    | with_reducible apply issue_fault
    | with_reducible refine bodyInv_bind (fun _ => ?_)
    | with_reducible apply bodyInv_pure
    | with_reducible apply bodyInv_ok
    | with_reducible apply bodyInv_error
    | with_reducible intro _
    | dsimp only
    | (simp only [inv_mk]; with_reducible apply canon_of)
    | split

theorem State.smaxBwdUnit_inv {s : State} {e : Nat} {o : OpenOp} {i : Nat} (hInv : s.Inv) : (State.smaxBwdUnit s e o i).1.Inv := by
  unfold State.smaxBwdUnit
  repeat' first
    | with_reducible assumption
    | with_reducible apply State.putRow_inv
    | with_reducible refine inv_of_fst (by with_reducible assumption) ?_
    | with_reducible refine inv_of_snd (by with_reducible assumption) ?_
    | with_reducible intro _
    | dsimp only
    | (simp only [inv_mk]; with_reducible apply canon_of)
    | split

theorem State.reduceOne_inv {s : State} {fn : Nat} {xs : List W32} (hInv : s.Inv) : (State.reduceOne s fn xs).1.Inv := by
  unfold State.reduceOne
  simp only
  split
  with_reducible assumption
  with_reducible assumption
  with_reducible assumption
  with_reducible assumption
  split
  with_reducible assumption
  with_reducible exact State.freeNat_inv (by assumption)

theorem State.reduceBody_inv {s : State} {site : Site} {o : OpenOp} (hInv : s.Inv) : (State.reduceBody s site o).Inv := by
  unfold State.reduceBody
  repeat' first
    | with_reducible assumption
    | with_reducible apply State.launchUnits_inv
    | with_reducible refine inv_of_fst (by with_reducible assumption) ?_
    | with_reducible refine inv_of_snd (by with_reducible assumption) ?_
    | with_reducible apply issueOf_inv
    | with_reducible apply issue_opens
    | with_reducible apply issue_ends
    | with_reducible apply issue_fault
    | with_reducible refine bodyInv_bind (fun _ => ?_)
    | with_reducible apply bodyInv_pure
    | with_reducible apply bodyInv_ok
    | with_reducible apply bodyInv_error
    | with_reducible intro _
    | dsimp only
    | (simp only [inv_mk]; with_reducible apply canon_of)
    | split

theorem State.putReduced_inv {s : State} {e : Nat} {q : Nat} {o : OpenOp} {i : Nat} {xs : List W32} (hInv : s.Inv) : (State.putReduced s e q o i xs).1.Inv := by
  unfold State.putReduced
  repeat' first
    | with_reducible assumption
    | with_reducible apply State.reduceOne_inv
    | with_reducible apply State.kstore_inv
    | with_reducible apply State.putRow_inv
    | with_reducible refine inv_of_fst (by with_reducible assumption) ?_
    | with_reducible refine inv_of_snd (by with_reducible assumption) ?_
    | with_reducible intro _
    | with_reducible refine ite_inv ?_ ?_
    | with_reducible refine ite_inv_fst ?_ ?_
    | dsimp only
    | (simp only [inv_mk]; with_reducible apply canon_of)
    | split

theorem State.reduceUnit_inv {s : State} {e : Nat} {q : Nat} {o : OpenOp} {i : Nat} (hInv : s.Inv) : (State.reduceUnit s e q o i).1.Inv := by
  unfold State.reduceUnit
  repeat' first
    | with_reducible assumption
    | with_reducible apply State.putReduced_inv
    | with_reducible refine inv_of_fst (by with_reducible assumption) ?_
    | with_reducible refine inv_of_snd (by with_reducible assumption) ?_
    | with_reducible intro _
    | with_reducible refine ite_inv ?_ ?_
    | with_reducible refine ite_inv_fst ?_ ?_
    | dsimp only
    | (simp only [inv_mk]; with_reducible apply canon_of)
    | split

theorem execNorm_inv {s : State} {t : Nat} {e : Fin 96} {q : Fin 4} (hInv : s.Inv) : Keeps (execNorm t e q s) := by
  unfold execNorm
  dsimp only
  split
  with_reducible exact keeps_next (State.advance_inv (by assumption))
  with_reducible apply keeps_next
  with_reducible refine State.issueNext_inv ?_ (fun _ _ _ _ => ?_)
  with_reducible exact State.advance_inv (by assumption)
  with_reducible exact State.normBody_inv (by assumption)

theorem execNormBwd_inv {s : State} {t : Nat} {e : Fin 96} {q : Fin 4} (hInv : s.Inv) : Keeps (execNormBwd t e q s) := by
  unfold execNormBwd
  dsimp only
  split
  with_reducible exact keeps_next (State.advance_inv (by assumption))
  with_reducible apply keeps_next
  with_reducible refine State.issueNext_inv ?_ (fun _ _ _ _ => ?_)
  with_reducible exact State.advance_inv (by assumption)
  with_reducible exact State.normBwdBody_inv (by assumption)

theorem execSmax_inv {s : State} {t : Nat} {e : Fin 96} {q : Fin 4} (hInv : s.Inv) : Keeps (execSmax t e q s) := by
  unfold execSmax
  dsimp only
  split
  with_reducible exact keeps_next (State.advance_inv (by assumption))
  with_reducible apply keeps_next
  with_reducible refine State.issueNext_inv ?_ (fun _ _ _ _ => ?_)
  with_reducible exact State.advance_inv (by assumption)
  with_reducible exact State.smaxBody_inv (by assumption)

theorem execSmaxBwd_inv {s : State} {t : Nat} {e : Fin 96} {q : Fin 4} (hInv : s.Inv) : Keeps (execSmaxBwd t e q s) := by
  unfold execSmaxBwd
  dsimp only
  split
  with_reducible exact keeps_next (State.advance_inv (by assumption))
  with_reducible apply keeps_next
  with_reducible refine State.issueNext_inv ?_ (fun _ _ _ _ => ?_)
  with_reducible exact State.advance_inv (by assumption)
  with_reducible exact State.smaxBwdBody_inv (by assumption)

theorem execReduce_inv {s : State} {t : Nat} {e : Fin 96} {q : Fin 4} (hInv : s.Inv) : Keeps (execReduce t e q s) := by
  unfold execReduce
  dsimp only
  split
  with_reducible exact keeps_next (State.advance_inv (by assumption))
  with_reducible apply keeps_next
  with_reducible refine State.issueNext_inv ?_ (fun _ _ _ _ => ?_)
  with_reducible exact State.advance_inv (by assumption)
  with_reducible exact State.reduceBody_inv (by assumption)

theorem State.gateBody_inv {s : State} {site : Site} {o : OpenOp} (hInv : s.Inv) : (State.gateBody s site o).Inv := by
  unfold State.gateBody
  repeat' first
    | with_reducible assumption
    | with_reducible apply State.launchUnits_inv
    | with_reducible refine inv_of_fst (by with_reducible assumption) ?_
    | with_reducible refine inv_of_snd (by with_reducible assumption) ?_
    | with_reducible apply issueOf_inv
    | with_reducible apply issue_opens
    | with_reducible apply issue_ends
    | with_reducible apply issue_fault
    | with_reducible refine bodyInv_bind (fun _ => ?_)
    | with_reducible apply bodyInv_pure
    | with_reducible apply bodyInv_ok
    | with_reducible apply bodyInv_error
    | with_reducible intro _
    | dsimp only
    | (simp only [inv_mk]; with_reducible apply canon_of)
    | split

theorem State.gateUnit_inv {s : State} {e : Nat} {o : OpenOp} {i : Nat} (hInv : s.Inv) : (State.gateUnit s e o i).1.Inv := by
  unfold State.gateUnit
  repeat' first
    | with_reducible assumption
    | with_reducible apply State.putRow_inv
    | with_reducible refine inv_of_fst (by with_reducible assumption) ?_
    | with_reducible refine inv_of_snd (by with_reducible assumption) ?_
    | with_reducible intro _
    | dsimp only
    | (simp only [inv_mk]; with_reducible apply canon_of)
    | split

theorem ScanRun.step_inv {k : ScanRun} {e : Nat} {d : Desc} {x : ScanArgs} {a b : Tensor} {w h : Option Tensor} {g t : Nat} (hInv : k.s.Inv) : (ScanRun.step k e d x a b w h g t).s.Inv := by
  unfold ScanRun.step
  simp only
  split
  with_reducible assumption
  with_reducible exact State.stepLanes_inv (by assumption)

theorem State.putCarry_inv {s : State} {e : Nat} {sr : Bool} {x : ScanArgs} {f : Fmt} {g : Nat} {h : List W32} (hInv : s.Inv) : (State.putCarry s e sr x f g h).Inv := by
  unfold State.putCarry
  repeat' first
    | with_reducible assumption
    | with_reducible apply State.countNum_inv
    | with_reducible apply State.stepLanes_inv
    | with_reducible apply State.store_inv
    | with_reducible refine foldl_inv (fun _ _ _ => ?_) ?_
    | with_reducible refine foldl_inv_fst (fun _ _ _ => ?_) ?_
    | with_reducible intro _
    | dsimp only
    | (simp only [inv_mk]; with_reducible apply canon_of)

theorem State.putSummary_inv {s : State} {e : Nat} {o : OpenOp} {x : ScanArgs} {t : Tensor} {g : Nat} {sums : List (List W32)} (hInv : s.Inv) : (State.putSummary s e o x t g sums).1.Inv := by
  unfold State.putSummary
  repeat' first
    | with_reducible assumption
    | with_reducible apply State.putOut_inv
    | with_reducible apply State.stepLanes_inv
    | with_reducible refine foldl_inv (fun _ _ _ => ?_) ?_
    | with_reducible refine foldl_inv_fst (fun _ _ _ => ?_) ?_
    | with_reducible intro _
    | dsimp only
    | (simp only [inv_mk]; with_reducible apply canon_of)

theorem State.putFlags_inv {s : State} {e : Nat} {d : Desc} {x : ScanArgs} {t : Tensor} {flags : List W32} (hInv : s.Inv) : (State.putFlags s e d x t flags).Inv := by
  unfold State.putFlags
  repeat' first
    | with_reducible assumption
    | with_reducible apply State.putElem_inv
    | with_reducible refine foldl_inv (fun _ _ _ => ?_) ?_
    | with_reducible refine foldl_inv_fst (fun _ _ _ => ?_) ?_
    | with_reducible intro _
    | with_reducible refine ite_inv ?_ ?_
    | dsimp only
    | (simp only [inv_mk]; with_reducible apply canon_of)
    | split

theorem State.scanBody_inv {s : State} {site : Site} {o : OpenOp} (hInv : s.Inv) : (State.scanBody s site o).Inv := by
  unfold State.scanBody
  repeat' first
    | with_reducible assumption
    | with_reducible apply State.launchUnits_inv
    | with_reducible apply State.clearStation_inv
    | with_reducible refine inv_of_fst (by with_reducible assumption) ?_
    | with_reducible refine inv_of_snd (by with_reducible assumption) ?_
    | with_reducible apply issueOf_inv
    | with_reducible apply issue_opens
    | with_reducible apply issue_ends
    | with_reducible apply issue_fault
    | with_reducible refine bodyInv_bind (fun _ => ?_)
    | with_reducible apply bodyInv_pure
    | with_reducible apply bodyInv_ok
    | with_reducible apply bodyInv_error
    | with_reducible intro _
    | dsimp only
    | (simp only [inv_mk]; with_reducible apply canon_of)
    | split

theorem ScanRun.foldl_inv {β : Type} {g : ScanRun → β → ScanRun} {l : List β} {k : ScanRun} (hg : ∀ k x, k.s.Inv → (g k x).s.Inv)
    (h : k.s.Inv) : (l.foldl g k).s.Inv := by
  induction l generalizing k with
  | nil => exact h
  | cons x l ih => exact ih (hg k x h)

theorem State.scanChunk_inv {s : State} {e : Nat} {o : OpenOp} {x : ScanArgs} {a : Tensor} {b : Tensor} {j : Nat} {g : Nat} (hInv : s.Inv) : (State.scanChunk s e o x a b j g).1.Inv := by
  unfold State.scanChunk
  repeat' first
    | with_reducible assumption
    | with_reducible refine ScanRun.foldl_inv (fun _ _ _ => ?_) ?_
    | with_reducible apply ScanRun.step_inv
    | with_reducible apply State.countNum_inv
    | with_reducible apply State.putOut_inv
    | with_reducible apply State.putCarry_inv
    | with_reducible refine inv_of_fst (by with_reducible assumption) ?_
    | with_reducible refine inv_of_snd (by with_reducible assumption) ?_
    | with_reducible refine foldl_inv (fun _ _ _ => ?_) ?_
    | with_reducible refine foldl_inv_fst (fun _ _ _ => ?_) ?_
    | with_reducible intro _
    | dsimp only
    | (simp only [inv_mk]; with_reducible apply canon_of)
    | split

theorem State.scanPart_inv {s : State} {e : Nat} {o : OpenOp} {x : ScanArgs} {a : Tensor} {b : Tensor} {j : Nat} {g : Nat} (hInv : s.Inv) : (State.scanPart s e o x a b j g).1.Inv := by
  unfold State.scanPart
  repeat' first
    | with_reducible assumption
    | with_reducible apply State.countNum_inv
    | with_reducible apply State.putSummary_inv
    | with_reducible apply State.putFlags_inv
    | with_reducible refine inv_of_fst (by with_reducible assumption) ?_
    | with_reducible refine inv_of_snd (by with_reducible assumption) ?_
    | with_reducible refine foldl_inv (fun _ _ _ => ?_) ?_
    | with_reducible refine foldl_inv_fst (fun _ _ _ => ?_) ?_
    | with_reducible intro _
    | with_reducible refine ite_inv ?_ ?_
    | with_reducible refine ite_inv_fst ?_ ?_
    | dsimp only
    | (simp only [inv_mk]; with_reducible apply canon_of)
    | split

theorem State.scanUnit_inv {s : State} {e : Nat} {o : OpenOp} {i : Nat} (hInv : s.Inv) : (State.scanUnit s e o i).1.Inv := by
  unfold State.scanUnit
  repeat' first
    | with_reducible assumption
    | with_reducible apply State.scanPart_inv
    | with_reducible apply State.scanChunk_inv
    | with_reducible refine inv_of_fst (by with_reducible assumption) ?_
    | with_reducible refine inv_of_snd (by with_reducible assumption) ?_
    | with_reducible intro _
    | with_reducible refine ite_inv ?_ ?_
    | with_reducible refine ite_inv_fst ?_ ?_
    | dsimp only
    | (simp only [inv_mk]; with_reducible apply canon_of)
    | split

theorem execScanFull_inv {s : State} {t : Nat} {e : Fin 96} {q : Fin 4} (hInv : s.Inv) : Keeps (execScanFull t e q s) := by
  unfold execScanFull
  dsimp only
  split
  with_reducible exact keeps_next (State.advance_inv (by assumption))
  with_reducible apply keeps_next
  with_reducible refine State.issueNext_inv ?_ (fun _ _ _ _ => ?_)
  with_reducible exact State.advance_inv (by assumption)
  with_reducible exact State.scanBody_inv (by assumption)

theorem execScanLocal_inv {s : State} {t : Nat} {e : Fin 96} {q : Fin 4} (hInv : s.Inv) : Keeps (execScanLocal t e q s) := by
  unfold execScanLocal
  dsimp only
  split
  with_reducible exact keeps_next (State.advance_inv (by assumption))
  with_reducible apply keeps_next
  with_reducible refine State.issueNext_inv ?_ (fun _ _ _ _ => ?_)
  with_reducible exact State.advance_inv (by assumption)
  with_reducible exact State.scanBody_inv (by assumption)

theorem execScanReverse_inv {s : State} {t : Nat} {e : Fin 96} {q : Fin 4} (hInv : s.Inv) : Keeps (execScanReverse t e q s) := by
  unfold execScanReverse
  dsimp only
  split
  with_reducible exact keeps_next (State.advance_inv (by assumption))
  with_reducible apply keeps_next
  with_reducible refine State.issueNext_inv ?_ (fun _ _ _ _ => ?_)
  with_reducible exact State.advance_inv (by assumption)
  with_reducible exact State.scanBody_inv (by assumption)

theorem execGate_inv {s : State} {t : Nat} {e : Fin 96} {q : Fin 4} (hInv : s.Inv) : Keeps (execGate t e q s) := by
  unfold execGate
  dsimp only
  split
  with_reducible exact keeps_next (State.advance_inv (by assumption))
  with_reducible apply keeps_next
  with_reducible refine State.issueNext_inv ?_ (fun _ _ _ _ => ?_)
  with_reducible exact State.advance_inv (by assumption)
  with_reducible exact State.gateBody_inv (by assumption)

theorem State.convStep_inv {s : State} {e : Nat} {o : OpenOp} {x : ConvArgs} {w : Tensor} (hInv : s.Inv) : (State.convStep s e o x w).1.Inv := by
  unfold State.convStep
  repeat' first
    | with_reducible assumption
    | with_reducible apply State.tileStep_inv
    | with_reducible intro _
    | with_reducible refine ite_inv ?_ ?_
    | with_reducible refine ite_inv_fst ?_ ?_
    | dsimp only
    | (simp only [inv_mk]; with_reducible apply canon_of)
    | split

theorem State.convWriteback_inv {s : State} {e : Nat} {o : OpenOp} (hInv : s.Inv) : (State.convWriteback s e o).1.Inv := by
  unfold State.convWriteback
  repeat' first
    | with_reducible assumption
    | with_reducible apply State.tileRun_inv
    | with_reducible apply State.putOut_inv
    | with_reducible apply State.tileDone_inv
    | with_reducible refine inv_of_fst (by with_reducible assumption) ?_
    | with_reducible refine inv_of_snd (by with_reducible assumption) ?_
    | with_reducible intro _
    | dsimp only
    | (simp only [inv_mk]; with_reducible apply canon_of)
    | split

theorem State.poolUnit_inv {s : State} {e : Nat} {o : OpenOp} {m : Nat} (hInv : s.Inv) : (State.poolUnit s e o m).1.Inv := by
  unfold State.poolUnit
  repeat' first
    | with_reducible assumption
    | with_reducible apply State.putOut_inv
    | with_reducible apply State.stepLanes_inv
    | with_reducible refine inv_of_fst (by with_reducible assumption) ?_
    | with_reducible refine inv_of_snd (by with_reducible assumption) ?_
    | with_reducible intro _
    | dsimp only
    | (simp only [inv_mk]; with_reducible apply canon_of)
    | split

theorem State.convBody_inv {s : State} {site : Site} {o : OpenOp} (hInv : s.Inv) : (State.convBody s site o).Inv := by
  unfold State.convBody
  repeat' first
    | with_reducible assumption
    | with_reducible apply State.launchUnits_inv
    | with_reducible apply State.launch_inv
    | with_reducible apply State.clearStation_inv
    | with_reducible refine inv_of_fst (by with_reducible assumption) ?_
    | with_reducible refine inv_of_snd (by with_reducible assumption) ?_
    | with_reducible apply issueOf_inv
    | with_reducible apply issue_opens
    | with_reducible apply issue_ends
    | with_reducible apply issue_fault
    | with_reducible refine bodyInv_bind (fun _ => ?_)
    | with_reducible apply bodyInv_pure
    | with_reducible apply bodyInv_ok
    | with_reducible apply bodyInv_error
    | with_reducible intro _
    | dsimp only
    | (simp only [inv_mk]; with_reducible apply canon_of)
    | split

theorem State.layerRun_inv {s : State} {e : Nat} {sr : Bool} {f : FusedLayer} {x : LayerIn} {px : List (Nat × Nat)} (hInv : s.Inv) : (State.layerRun s e sr f x px).1.Inv := by
  unfold State.layerRun
  repeat' first
    | with_reducible assumption
    | with_reducible apply State.tileRun_inv
    | with_reducible apply State.countNum_inv
    | with_reducible refine inv_of_fst (by with_reducible assumption) ?_
    | with_reducible refine inv_of_snd (by with_reducible assumption) ?_
    | with_reducible refine foldl_inv (fun _ _ _ => ?_) ?_
    | with_reducible refine foldl_inv_fst (fun _ _ _ => ?_) ?_
    | with_reducible intro _
    | dsimp only
    | (simp only [inv_mk]; with_reducible apply canon_of)
    | split

theorem State.layerFeed_inv {s : State} {e : Nat} {f : FusedLayer} {ys : List Nat} {xs : List Nat} {cells : List OutCell} (hInv : s.Inv) : (State.layerFeed s e f ys xs cells).1.Inv := by
  unfold State.layerFeed
  repeat' first
    | with_reducible assumption
    | with_reducible apply State.countNum_inv
    | with_reducible refine foldl_inv (fun _ _ _ => ?_) ?_
    | with_reducible refine foldl_inv_fst (fun _ _ _ => ?_) ?_
    | with_reducible intro _
    | with_reducible refine ite_inv ?_ ?_
    | with_reducible refine ite_inv_fst ?_ ?_
    | dsimp only
    | (simp only [inv_mk]; with_reducible apply canon_of)
    | split

theorem State.fusedInner_inv {s : State} {e : Nat} {sr : Bool} {x : LayerIn} {a4 : List (FusedLayer × List Nat × List Nat)} (hInv : s.Inv) : (State.fusedInner s e sr x a4).1.Inv := by
  induction a4 generalizing s e sr x with
  | nil =>
    unfold State.fusedInner
    repeat' first
      | with_reducible assumption
      | with_reducible apply State.layerRun_inv
      | with_reducible apply State.layerFeed_inv
      | with_reducible refine inv_of_fst (by with_reducible assumption) ?_
      | with_reducible refine inv_of_snd (by with_reducible assumption) ?_
      | with_reducible intro _
      | dsimp only
      | (simp only [inv_mk]; with_reducible apply canon_of)
      | split
  | cons x l ih =>
    unfold State.fusedInner
    repeat' first
      | with_reducible assumption
      | with_reducible apply ih
      | with_reducible assumption
      | with_reducible apply State.layerRun_inv
      | with_reducible apply State.layerFeed_inv
      | with_reducible refine inv_of_fst (by with_reducible assumption) ?_
      | with_reducible refine inv_of_snd (by with_reducible assumption) ?_
      | with_reducible intro _
      | dsimp only
      | (simp only [inv_mk]; with_reducible apply canon_of)
      | split

theorem State.fusedTile_inv {s : State} {e : Nat} {o : OpenOp} {a : FusedArgs} {t : FusedTile} (hInv : s.Inv) : (State.fusedTile s e o a t).1.Inv := by
  unfold State.fusedTile
  repeat' first
    | with_reducible assumption
    | with_reducible apply State.fusedInner_inv
    | with_reducible apply State.layerRun_inv
    | with_reducible apply State.putOut_inv
    | with_reducible refine inv_of_fst (by with_reducible assumption) ?_
    | with_reducible refine inv_of_snd (by with_reducible assumption) ?_
    | with_reducible intro _
    | dsimp only
    | (simp only [inv_mk]; with_reducible apply canon_of)
    | split

theorem State.fusedBody_inv {s : State} {site : Site} {o : OpenOp} (hInv : s.Inv) : (State.fusedBody s site o).Inv := by
  unfold State.fusedBody
  repeat' first
    | with_reducible assumption
    | with_reducible apply State.launch_inv
    | with_reducible apply State.clearStation_inv
    | with_reducible refine inv_of_fst (by with_reducible assumption) ?_
    | with_reducible refine inv_of_snd (by with_reducible assumption) ?_
    | with_reducible apply issueOf_inv
    | with_reducible apply issue_opens
    | with_reducible apply issue_ends
    | with_reducible apply issue_fault
    | with_reducible refine bodyInv_bind (fun _ => ?_)
    | with_reducible apply bodyInv_pure
    | with_reducible apply bodyInv_ok
    | with_reducible apply bodyInv_error
    | with_reducible intro _
    | dsimp only
    | (simp only [inv_mk]; with_reducible apply canon_of)
    | split

theorem State.fusedUnit_inv {s : State} {e : Nat} {o : OpenOp} {i : Nat} (hInv : s.Inv) : (State.fusedUnit s e o i).1.Inv := by
  unfold State.fusedUnit
  repeat' first
    | with_reducible assumption
    | with_reducible apply State.fusedTile_inv
    | with_reducible apply State.havoc_inv
    | with_reducible apply State.bump_inv
    | with_reducible refine inv_of_fst (by with_reducible assumption) ?_
    | with_reducible refine inv_of_snd (by with_reducible assumption) ?_
    | with_reducible refine foldl_inv (fun _ _ _ => ?_) ?_
    | with_reducible refine foldl_inv_fst (fun _ _ _ => ?_) ?_
    | with_reducible intro _
    | dsimp only
    | (simp only [inv_mk]; with_reducible apply canon_of)
    | split

theorem execConv_inv {s : State} {t : Nat} {e : Fin 96} {q : Fin 4} (hInv : s.Inv) : Keeps (execConv t e q s) := by
  unfold execConv
  dsimp only
  split
  with_reducible exact keeps_next (State.advance_inv (by assumption))
  with_reducible apply keeps_next
  with_reducible refine State.issueNext_inv ?_ (fun _ _ _ _ => ?_)
  with_reducible exact State.advance_inv (by assumption)
  with_reducible exact State.convBody_inv (by assumption)

theorem execMaxpool_inv {s : State} {t : Nat} {e : Fin 96} {q : Fin 4} (hInv : s.Inv) : Keeps (execMaxpool t e q s) := by
  unfold execMaxpool
  dsimp only
  split
  with_reducible exact keeps_next (State.advance_inv (by assumption))
  with_reducible apply keeps_next
  with_reducible refine State.issueNext_inv ?_ (fun _ _ _ _ => ?_)
  with_reducible exact State.advance_inv (by assumption)
  with_reducible exact State.convBody_inv (by assumption)

theorem execConvFused_inv {s : State} {t : Nat} {e : Fin 96} {q : Fin 4} (hInv : s.Inv) : Keeps (execConvFused t e q s) := by
  unfold execConvFused
  dsimp only
  split
  with_reducible exact keeps_next (State.advance_inv (by assumption))
  with_reducible apply keeps_next
  with_reducible refine State.issueNext_inv ?_ (fun _ _ _ _ => ?_)
  with_reducible exact State.advance_inv (by assumption)
  with_reducible exact State.fusedBody_inv (by assumption)

theorem State.mirror_inv {s : State} {e ofs n : Nat} (hInv : s.Inv) : (State.mirror s e ofs n).Inv := by
  unfold State.mirror
  with_reducible refine foldl_inv (fun _ _ _ => ?_) ?_
  simp only
  split
  with_reducible assumption
  with_reducible refine foldl_inv (fun _ _ _ => ?_) ?_
  split
  with_reducible exact State.setTag_inv (by assumption)
  with_reducible assumption
  with_reducible refine foldl_inv (fun _ _ _ => ?_) ?_
  split
  with_reducible exact State.store_inv (by assumption)
  with_reducible assumption
  with_reducible assumption
  with_reducible assumption

theorem State.advanceTags_inv {s : State} {e : Nat} {bs : List Nat} (hInv : s.Inv) : (State.advanceTags s e bs).Inv := by
  unfold State.advanceTags
  with_reducible refine foldl_inv (fun _ _ _ => ?_) ?_
  with_reducible exact State.setTag_inv (by assumption)
  with_reducible assumption

theorem State.loadStation_inv {s : State} {site : Site} {d : Desc} {x : PulseArgs} (hInv : s.Inv) : (State.loadStation s site d x).Inv := by
  unfold State.loadStation
  with_reducible exact State.bump_inv (State.wr_inv (State.setEng_inv (by assumption)))

theorem State.putTableRow_inv {s : State} {e : Nat} {sr : Bool} {tw : Bool} {t : Tensor} {r : Nat} {vs : List W32} (hInv : s.Inv) : (State.putTableRow s e sr tw t r vs).Inv := by
  unfold State.putTableRow
  repeat' first
    | with_reducible assumption
    | with_reducible apply State.rowRun_inv
    | with_reducible apply State.putCells_inv
    | with_reducible apply State.countNum_inv
    | with_reducible refine inv_of_fst (by with_reducible assumption) ?_
    | with_reducible refine inv_of_snd (by with_reducible assumption) ?_
    | with_reducible intro _
    | dsimp only
    | (simp only [inv_mk]; with_reducible apply canon_of)
    | split

theorem State.pulseSkip_inv {s : State} {e : Nat} {x : PulseArgs} {o : OpenOp} {outcome : Nat} (hInv : s.Inv) : (State.pulseSkip s e x o outcome).1.Inv := by
  unfold State.pulseSkip
  with_reducible apply State.mirror_inv
  split
  with_reducible exact State.bump_inv (State.advanceTags_inv (State.store_inv (by assumption)))
  with_reducible exact State.bump_inv (State.advanceTags_inv (State.store_inv (by assumption)))

theorem State.pulseWrites_inv {s : State} {e : Nat} {d : Desc} {x : PulseArgs} {h : List W32} {norm2 : W32} {dev : W32} {ts : Nat} {seq : Nat} (hInv : s.Inv) : (State.pulseWrites s e d x h norm2 dev ts seq).Inv := by
  unfold State.pulseWrites
  repeat' first
    | with_reducible assumption
    | with_reducible apply State.store_inv
    | with_reducible apply State.putTableRow_inv
    | with_reducible refine inv_of_fst (by with_reducible assumption) ?_
    | with_reducible refine inv_of_snd (by with_reducible assumption) ?_
    | with_reducible intro _
    | dsimp only
    | (simp only [inv_mk]; with_reducible apply canon_of)
    | split

theorem State.pulseStep_inv {s : State} {e : Nat} {x : PulseArgs} {o : OpenOp} (hInv : s.Inv) : (State.pulseStep s e x o).1.Inv := by
  unfold State.pulseStep
  repeat' first
    | with_reducible assumption
    | with_reducible apply State.pulseSkip_inv
    | with_reducible apply State.pulseWrites_inv
    | with_reducible apply State.advanceTags_inv
    | with_reducible apply State.bump_inv
    | with_reducible apply State.mirror_inv
    | with_reducible refine inv_of_fst (by with_reducible assumption) ?_
    | with_reducible refine inv_of_snd (by with_reducible assumption) ?_
    | with_reducible refine foldl_inv (fun _ _ _ => ?_) ?_
    | with_reducible refine foldl_inv_fst (fun _ _ _ => ?_) ?_
    | with_reducible intro _
    | with_reducible refine ite_inv ?_ ?_
    | with_reducible refine ite_inv_fst ?_ ?_
    | dsimp only
    | (simp only [inv_mk]; with_reducible apply canon_of)
    | split

theorem State.pulseOpen_inv {s : State} {site : Site} {o : OpenOp} {v : Nat} {x : PulseArgs} (hInv : s.Inv) : (State.pulseOpen s site o v x).Inv := by
  unfold State.pulseOpen
  dsimp only
  split
  with_reducible exact issue_opens (State.pulseStep_inv (by assumption))
  with_reducible exact issue_opens (State.loadStation_inv (by assumption))

theorem State.pulseBody_inv {s : State} {site : Site} {o : OpenOp} (hInv : s.Inv) : (State.pulseBody s site o).Inv := by
  unfold State.pulseBody
  refine issueOf_inv ?_
  refine bodyInv_bind fun x => ?_
  generalize s.pulseSweep site.e o.desc x false = y
  generalize s.readsFault site.part (x.touched site.e o.desc) = z
  cases y with
  | some f => exact bodyInv_error
  | none =>
    cases z with
    | some f => exact bodyInv_error
    | none => exact bodyInv_pure (State.pulseOpen_inv hInv)

theorem State.pulseLoaded_inv {s : State} {site : Site} {o : OpenOp} (hInv : s.Inv) : (State.pulseLoaded s site o).1.Inv := by
  unfold State.pulseLoaded
  simp only
  split
  with_reducible assumption
  split
  with_reducible assumption
  with_reducible apply State.pulseStep_inv
  split
  with_reducible assumption
  with_reducible exact State.loadStation_inv (by assumption)

theorem execPulse_inv {s : State} {t : Nat} {e : Fin 96} {q : Fin 4} (hInv : s.Inv) : Keeps (execPulse t e q s) := by
  unfold execPulse
  with_reducible apply keeps_next
  with_reducible refine State.live_inv ?_ (fun _ _ => ?_)
  with_reducible assumption
  with_reducible refine State.issueNext_inv ?_ (fun _ _ _ _ => ?_)
  with_reducible assumption
  with_reducible exact State.pulseBody_inv (by assumption)

end Sys2Proof.Machine
end

