-- ==== Sys2Proof/Laws/InvAttention.lean ====
section
/-! SUPPORT. The invariant of State through attention and detection: every operation and every command of these files keeps it. -/

namespace Sys2Proof.Machine

theorem fetchPage_inv {pool : Pool} {x : SeqEnt} {seq : Nat} {dh : Nat} {bwd : Bool} {got : Pinned} {j : Nat}  : WorkInv (fetchPage pool x seq dh bwd got j) := by
  unfold fetchPage
  repeat' first
    | with_reducible assumption
    | with_reducible apply readEntry_inv
    | with_reducible apply Pool.pin_inv
    | with_reducible apply Pool.header_inv
    | with_reducible refine inv_of_fst (by with_reducible assumption) ?_
    | with_reducible refine inv_of_snd (by with_reducible assumption) ?_
    | with_reducible apply workInv_pure
    | with_reducible apply workInv_throw
    | with_reducible refine workInv_get (fun _ _ => ?_)
    | with_reducible refine workInv_bind ?_ (fun _ => ?_)
    | with_reducible apply workInv_foldlM
    | with_reducible apply workInv_forM
    | with_reducible apply workInv_forIn
    | with_reducible apply workInv_mapM
    | with_reducible apply workInv_set
    | with_reducible apply workInv_modify
    | with_reducible intro _
    | dsimp only
    | (simp only [inv_mk]; with_reducible apply canon_of)
    | split

theorem readBlock_inv {pool : Pool} {x : AttnArgs} {k : QBlock} {got : Pinned} {kb : KeyBlock}  : WorkInv (readBlock pool x k got kb) := by
  unfold readBlock
  repeat' first
    | with_reducible assumption
    | with_reducible apply fetchPage_inv
    | with_reducible apply Page.slot_inv
    | with_reducible refine inv_of_fst (by with_reducible assumption) ?_
    | with_reducible refine inv_of_snd (by with_reducible assumption) ?_
    | with_reducible apply workInv_pure
    | with_reducible apply workInv_throw
    | with_reducible refine workInv_get (fun _ _ => ?_)
    | with_reducible refine workInv_bind ?_ (fun _ => ?_)
    | with_reducible apply workInv_foldlM
    | with_reducible apply workInv_forM
    | with_reducible apply workInv_forIn
    | with_reducible apply workInv_mapM
    | with_reducible apply workInv_set
    | with_reducible apply workInv_modify
    | with_reducible intro _
    | dsimp only
    | (simp only [inv_mk]; with_reducible apply canon_of)
    | split

theorem State.storeRun_inv {s : State} {e : Nat} {x : AttnArgs} {r : Nat} {run : RowRun} (hInv : s.Inv) : (State.storeRun s e x r run).Inv := by
  unfold State.storeRun
  repeat' first
    | with_reducible assumption
    | with_reducible apply State.putElem_inv
    | with_reducible refine foldl_inv (fun _ _ _ => ?_) ?_
    | with_reducible refine foldl_inv_fst (fun _ _ _ => ?_) ?_
    | with_reducible intro _
    | dsimp only
    | (simp only [inv_mk]; with_reducible apply canon_of)

theorem State.attnRows_inv {s : State} {e : Nat} {x : AttnArgs} {k : QBlock} {n : Nat} {p : PageData} {kb : KeyBlock} (hInv : s.Inv) : (State.attnRows s e x k n p kb).Inv := by
  unfold State.attnRows
  repeat' first
    | with_reducible assumption
    | with_reducible apply State.storeRun_inv
    | with_reducible refine foldl_inv (fun _ _ _ => ?_) ?_
    | with_reducible refine foldl_inv_fst (fun _ _ _ => ?_) ?_
    | with_reducible intro _
    | dsimp only
    | (simp only [inv_mk]; with_reducible apply canon_of)

theorem State.attnOut_inv {s : State} {e : Nat} {o : OpenOp} {x : AttnArgs} {k : QBlock} {blank : Bool} (hInv : s.Inv) : (State.attnOut s e o x k blank).1.Inv := by
  unfold State.attnOut
  repeat' first
    | with_reducible assumption
    | with_reducible apply State.putRow_inv
    | with_reducible apply State.putCells_inv
    | with_reducible apply State.stepLanes_inv
    | with_reducible apply State.countNum_inv
    | with_reducible refine inv_of_fst (by with_reducible assumption) ?_
    | with_reducible refine inv_of_snd (by with_reducible assumption) ?_
    | with_reducible refine foldl_inv (fun _ _ _ => ?_) ?_
    | with_reducible refine foldl_inv_fst (fun _ _ _ => ?_) ?_
    | with_reducible intro _
    | dsimp only
    | (simp only [inv_mk]; with_reducible apply canon_of)
    | split

theorem State.bwdRows_inv {s : State} {e : Nat} {o : OpenOp} {x : AttnArgs} {k : QBlock} {n : Nat} {p : PageData} {kb : KeyBlock} (hInv : s.Inv) : (State.bwdRows s e o x k n p kb).1.Inv := by
  unfold State.bwdRows
  repeat' first
    | with_reducible assumption
    | with_reducible apply State.redAdd_inv
    | with_reducible refine inv_of_fst (by with_reducible assumption) ?_
    | with_reducible refine inv_of_snd (by with_reducible assumption) ?_
    | with_reducible refine foldl_inv (fun _ _ _ => ?_) ?_
    | with_reducible refine foldl_inv_fst (fun _ _ _ => ?_) ?_
    | with_reducible intro _
    | with_reducible refine ite_inv ?_ ?_
    | with_reducible refine ite_inv_fst ?_ ?_
    | dsimp only
    | (simp only [inv_mk]; with_reducible apply canon_of)
    | split

theorem State.bwdOut_inv {s : State} {e : Nat} {o : OpenOp} {x : AttnArgs} {k : QBlock} (hInv : s.Inv) : (State.bwdOut s e o x k).1.Inv := by
  unfold State.bwdOut
  repeat' first
    | with_reducible assumption
    | with_reducible apply State.putRow_inv
    | with_reducible refine inv_of_fst (by with_reducible assumption) ?_
    | with_reducible refine inv_of_snd (by with_reducible assumption) ?_
    | with_reducible refine foldl_inv (fun _ _ _ => ?_) ?_
    | with_reducible refine foldl_inv_fst (fun _ _ _ => ?_) ?_
    | with_reducible intro _
    | dsimp only
    | (simp only [inv_mk]; with_reducible apply canon_of)
    | split

theorem State.attnEnd_inv {s : State} {e : Nat} {o : OpenOp} {x : AttnArgs} {k : QBlock} {blank : Bool} (hInv : s.Inv) : (State.attnEnd s e o x k blank).1.Inv := by
  unfold State.attnEnd
  repeat' first
    | with_reducible assumption
    | with_reducible apply State.bwdOut_inv
    | with_reducible apply State.attnOut_inv
    | with_reducible apply State.unitDone_inv
    | with_reducible apply State.bump_inv
    | with_reducible refine inv_of_fst (by with_reducible assumption) ?_
    | with_reducible refine inv_of_snd (by with_reducible assumption) ?_
    | with_reducible intro _
    | with_reducible refine ite_inv ?_ ?_
    | with_reducible refine ite_inv_fst ?_ ?_
    | dsimp only
    | (simp only [inv_mk]; with_reducible apply canon_of)
    | split

theorem State.attnSettle_inv {s : State} {e : Nat} {o : OpenOp} {x : AttnArgs} {pool : Pool} {ks : List QBlock} {a6 : Nat} (hInv : s.Inv) : (State.attnSettle s e o x pool ks a6).1.Inv := by
  induction a6 generalizing s e o x pool ks with
  | zero =>
    unfold State.attnSettle
    repeat' first
      | with_reducible assumption
      | with_reducible apply State.attnEnd_inv
      | with_reducible refine inv_of_fst (by with_reducible assumption) ?_
      | with_reducible refine inv_of_snd (by with_reducible assumption) ?_
      | with_reducible intro _
      | with_reducible refine ite_inv ?_ ?_
      | with_reducible refine ite_inv_fst ?_ ?_
      | dsimp only
      | (simp only [inv_mk]; with_reducible apply canon_of)
      | split
  | succ k ih =>
    unfold State.attnSettle
    repeat' first
      | with_reducible assumption
      | with_reducible apply ih
      | with_reducible assumption
      | with_reducible apply State.attnEnd_inv
      | with_reducible refine inv_of_fst (by with_reducible assumption) ?_
      | with_reducible refine inv_of_snd (by with_reducible assumption) ?_
      | with_reducible intro _
      | with_reducible refine ite_inv ?_ ?_
      | with_reducible refine ite_inv_fst ?_ ?_
      | dsimp only
      | (simp only [inv_mk]; with_reducible apply canon_of)
      | split

theorem State.attnCycles_inv {s : State} {x : AttnArgs} {k : QBlock} {p : PageData} {kb : KeyBlock} (hInv : s.Inv) : (State.attnCycles s x k p kb).2.Inv := by
  unfold State.attnCycles
  repeat' first
    | with_reducible assumption
    | with_reducible apply State.freeNat_inv
    | with_reducible refine inv_of_fst (by with_reducible assumption) ?_
    | with_reducible refine inv_of_snd (by with_reducible assumption) ?_
    | with_reducible intro _
    | with_reducible refine ite_inv ?_ ?_
    | with_reducible refine ite_inv_fst ?_ ?_
    | dsimp only
    | (simp only [inv_mk]; with_reducible apply canon_of)
    | split

theorem State.attnBlock_inv {s : State} {e : Nat} {o : OpenOp} {x : AttnArgs} {pool : Pool} {ks : List QBlock} {k : QBlock} {last : Bool} {p : PageData} {kb : KeyBlock} (hInv : s.Inv) : (State.attnBlock s e o x pool ks k last p kb).1.Inv := by
  unfold State.attnBlock
  repeat' first
    | with_reducible assumption
    | with_reducible apply State.bwdRows_inv
    | with_reducible apply State.attnRows_inv
    | with_reducible apply State.attnCycles_inv
    | with_reducible apply State.bump_inv
    | with_reducible apply State.attnEnd_inv
    | with_reducible apply State.attnSettle_inv
    | with_reducible refine inv_of_fst (by with_reducible assumption) ?_
    | with_reducible refine inv_of_snd (by with_reducible assumption) ?_
    | with_reducible intro _
    | with_reducible refine ite_inv ?_ ?_
    | with_reducible refine ite_inv_fst ?_ ?_
    | dsimp only
    | (simp only [inv_mk]; with_reducible apply canon_of)
    | split

theorem State.attnStep_inv {s : State} {site : Site} {o : OpenOp} (hInv : s.Inv) : (State.attnStep s site o).1.Inv := by
  unfold State.attnStep
  repeat' first
    | with_reducible assumption
    | with_reducible apply State.work_inv
    | with_reducible apply readBlock_inv
    | with_reducible apply PageWork.close_inv
    | with_reducible apply State.attnBlock_inv
    | with_reducible refine inv_of_fst (by with_reducible assumption) ?_
    | with_reducible refine inv_of_snd (by with_reducible assumption) ?_
    | with_reducible refine inv_of_work (by with_reducible assumption) ?_
    | with_reducible intro _
    | (extract_lets +onlyGivenNames z; with_reducible apply inv_let (z := z); (case' val => (dsimp only [z]; try clear z)); (case' main => (intro hz; clear_value z)))
    | (extract_lets +onlyGivenNames z; with_reducible apply inv_let (z := z.1); (case' val => (dsimp only [z]; try clear z)); (case' main => (intro hz; clear_value z)))
    | (extract_lets +onlyGivenNames z; with_reducible apply inv_let (z := z.2); (case' val => (dsimp only [z]; try clear z)); (case' main => (intro hz; clear_value z)))
    | (extract_lets +onlyGivenNames z; clear_value z)
    | split
    | dsimp only
    | (simp only [inv_mk]; with_reducible apply canon_of)
    | split

theorem AttnArgs.heads_inv {x : AttnArgs}  : WorkInv (AttnArgs.heads x) := by
  unfold AttnArgs.heads
  repeat' first
    | with_reducible assumption
    | with_reducible apply Work.read_inv
    | with_reducible refine inv_of_fst (by with_reducible assumption) ?_
    | with_reducible refine inv_of_snd (by with_reducible assumption) ?_
    | with_reducible apply workInv_pure
    | with_reducible apply workInv_throw
    | with_reducible refine workInv_get (fun _ _ => ?_)
    | with_reducible refine workInv_bind ?_ (fun _ => ?_)
    | with_reducible apply workInv_foldlM
    | with_reducible apply workInv_forM
    | with_reducible apply workInv_forIn
    | with_reducible apply workInv_mapM
    | with_reducible apply workInv_set
    | with_reducible apply workInv_modify
    | with_reducible intro _
    | dsimp only
    | (simp only [inv_mk]; with_reducible apply canon_of)
    | split

theorem State.attnBegin_inv {s : State} {e : Nat} {o : OpenOp} {x : AttnArgs} {pool : Pool} {seqs : List SeqEnt} (hInv : s.Inv) : (State.attnBegin s e o x pool seqs).1.Inv := by
  unfold State.attnBegin
  repeat' first
    | with_reducible assumption
    | with_reducible apply State.attnSettle_inv
    | with_reducible intro _
    | dsimp only
    | (simp only [inv_mk]; with_reducible apply canon_of)

theorem State.attnOpen_inv {s : State} {site : Site} {o : OpenOp} {bwd : Bool} (hInv : s.Inv) : (State.attnOpen s site o bwd).Inv := by
  unfold State.attnOpen
  repeat' first
    | with_reducible assumption
    | with_reducible apply State.work_inv
    | with_reducible apply AttnArgs.heads_inv
    | with_reducible apply State.launch_inv
    | with_reducible apply State.attnBegin_inv
    | with_reducible apply State.clearStation_inv
    | with_reducible refine inv_of_fst (by with_reducible assumption) ?_
    | with_reducible refine inv_of_snd (by with_reducible assumption) ?_
    | with_reducible apply issueOf_inv
    | with_reducible apply issue_opens
    | with_reducible apply issue_ends
    | with_reducible apply issue_fault
    | with_reducible refine bodyInv_bind (fun _ => ?_)
    | with_reducible apply bodyInv_pure
    | with_reducible apply bodyInv_ok
    | with_reducible apply bodyInv_error
    | with_reducible refine inv_of_work (by with_reducible assumption) ?_
    | with_reducible intro _
    | dsimp only
    | (simp only [inv_mk]; with_reducible apply canon_of)
    | split

theorem State.attnBody_inv {s : State} {site : Site} {o : OpenOp} (hInv : s.Inv) : (State.attnBody s site o).Inv := by
  unfold State.attnBody
  repeat' first
    | with_reducible assumption
    | with_reducible apply State.attnOpen_inv
    | with_reducible apply issueOf_inv
    | with_reducible apply issue_opens
    | with_reducible apply issue_ends
    | with_reducible apply issue_fault
    | with_reducible refine bodyInv_bind (fun _ => ?_)
    | with_reducible apply bodyInv_pure
    | with_reducible apply bodyInv_ok
    | with_reducible apply bodyInv_error
    | with_reducible intro _
    | dsimp only
    | (simp only [inv_mk]; with_reducible apply canon_of)

theorem State.attnBwdBody_inv {s : State} {site : Site} {o : OpenOp} (hInv : s.Inv) : (State.attnBwdBody s site o).Inv := by
  unfold State.attnBwdBody
  repeat' first
    | with_reducible assumption
    | with_reducible apply State.attnOpen_inv
    | with_reducible apply issueOf_inv
    | with_reducible apply issue_opens
    | with_reducible apply issue_ends
    | with_reducible apply issue_fault
    | with_reducible refine bodyInv_bind (fun _ => ?_)
    | with_reducible apply bodyInv_pure
    | with_reducible apply bodyInv_ok
    | with_reducible apply bodyInv_error
    | with_reducible intro _
    | dsimp only
    | (simp only [inv_mk]; with_reducible apply canon_of)
    | split

theorem execAttn_inv {s : State} {t : Nat} {e : Fin 96} {q : Fin 4} (hInv : s.Inv) : Keeps (execAttn t e q s) := by
  unfold execAttn
  dsimp only
  split
  with_reducible exact keeps_next (State.advance_inv (by assumption))
  with_reducible apply keeps_next
  with_reducible refine State.issueNext_inv ?_ (fun _ _ _ _ => ?_)
  with_reducible exact State.advance_inv (by assumption)
  with_reducible exact State.attnBody_inv (by assumption)

theorem execAttnBwd_inv {s : State} {t : Nat} {e : Fin 96} {q : Fin 4} (hInv : s.Inv) : Keeps (execAttnBwd t e q s) := by
  unfold execAttnBwd
  dsimp only
  split
  with_reducible exact keeps_next (State.advance_inv (by assumption))
  with_reducible apply keeps_next
  with_reducible refine State.issueNext_inv ?_ (fun _ _ _ _ => ?_)
  with_reducible exact State.advance_inv (by assumption)
  with_reducible exact State.attnBwdBody_inv (by assumption)

theorem State.putListRow_inv {s : State} {e : Nat} {tw : Bool} {t : Tensor} {i : Nat} {ws : List Nat} (hInv : s.Inv) : (State.putListRow s e tw t i ws).Inv := by
  unfold State.putListRow
  repeat' first
    | with_reducible assumption
    | with_reducible apply State.putElem_inv
    | with_reducible refine foldl_inv (fun _ _ _ => ?_) ?_
    | with_reducible refine foldl_inv_fst (fun _ _ _ => ?_) ?_
    | with_reducible intro _
    | dsimp only
    | (simp only [inv_mk]; with_reducible apply canon_of)

theorem State.putHeader_inv {s : State} {e : Nat} {tw : Bool} {t : Tensor} {n : Nat} {dropped : Nat} (hInv : s.Inv) : (State.putHeader s e tw t n dropped).Inv := by
  unfold State.putHeader
  repeat' first
    | with_reducible assumption
    | with_reducible apply State.putListRow_inv
    | with_reducible intro _
    | dsimp only
    | (simp only [inv_mk]; with_reducible apply canon_of)

theorem State.putList_inv {s : State} {e : Nat} {tw : Bool} {t : Tensor} {dropped : Nat} {xs : List Cand} (hInv : s.Inv) : (State.putList s e tw t dropped xs).Inv := by
  unfold State.putList
  repeat' first
    | with_reducible assumption
    | with_reducible apply State.putListRow_inv
    | with_reducible apply State.putHeader_inv
    | with_reducible refine foldl_inv (fun _ _ _ => ?_) ?_
    | with_reducible refine foldl_inv_fst (fun _ _ _ => ?_) ?_
    | with_reducible intro _
    | dsimp only
    | (simp only [inv_mk]; with_reducible apply canon_of)

theorem State.putCount_inv {s : State} {e : Nat} {q : Nat} {d : Desc} {n : Nat} (hInv : s.Inv) : (State.putCount s e q d n).Inv := by
  unfold State.putCount
  repeat' first
    | with_reducible assumption
    | with_reducible apply State.setScalar_inv
    | with_reducible intro _
    | with_reducible refine ite_inv ?_ ?_
    | dsimp only
    | (simp only [inv_mk]; with_reducible apply canon_of)
    | split

theorem State.launchList_inv {s : State} {site : Site} {o : OpenOp} {src : Source} {t : Tensor} {n : Nat} (hInv : s.Inv) : (State.launchList s site o src t n).Inv := by
  unfold State.launchList
  repeat' first
    | with_reducible assumption
    | with_reducible apply State.launchUnits_inv
    | with_reducible apply issueOf_inv
    | with_reducible apply issue_opens
    | with_reducible apply issue_ends
    | with_reducible apply issue_fault
    | with_reducible refine bodyInv_bind (fun _ => ?_)
    | with_reducible apply bodyInv_pure
    | with_reducible apply bodyInv_ok
    | with_reducible apply bodyInv_error
    | with_reducible intro _
    | dsimp only
    | (simp only [inv_mk]; with_reducible apply canon_of)

theorem State.countDet_inv {s : State} {e nans suppressed : Nat} (hInv : s.Inv) : (State.countDet s e nans suppressed).Inv := by
  unfold State.countDet
  with_reducible exact State.bump_inv (State.bump_inv (by assumption))

theorem State.sortBody_inv {s : State} {site : Site} {o : OpenOp} (hInv : s.Inv) : (State.sortBody s site o).Inv := by
  unfold State.sortBody
  repeat' first
    | with_reducible assumption
    | with_reducible apply State.launchList_inv
    | with_reducible refine inv_of_fst (by with_reducible assumption) ?_
    | with_reducible refine inv_of_snd (by with_reducible assumption) ?_
    | with_reducible apply issueOf_inv
    | with_reducible apply issue_opens
    | with_reducible apply issue_ends
    | with_reducible apply issue_fault
    | with_reducible refine bodyInv_bind (fun _ => ?_)
    | with_reducible apply bodyInv_pure
    | with_reducible apply bodyInv_ok
    | with_reducible apply bodyInv_error
    | with_reducible intro _
    | dsimp only
    | (simp only [inv_mk]; with_reducible apply canon_of)
    | split

theorem State.sortUnit_inv {s : State} {e : Nat} {q : Nat} {o : OpenOp} (hInv : s.Inv) : (State.sortUnit s e q o).1.Inv := by
  unfold State.sortUnit
  repeat' first
    | with_reducible assumption
    | with_reducible apply State.countDet_inv
    | with_reducible apply State.putCount_inv
    | with_reducible apply State.putList_inv
    | with_reducible refine inv_of_fst (by with_reducible assumption) ?_
    | with_reducible refine inv_of_snd (by with_reducible assumption) ?_
    | with_reducible intro _
    | (extract_lets +onlyGivenNames z; with_reducible apply inv_let (z := z); (case' val => (dsimp only [z]; try clear z)); (case' main => (intro hz; clear_value z)))
    | (extract_lets +onlyGivenNames z; with_reducible apply inv_let (z := z.1); (case' val => (dsimp only [z]; try clear z)); (case' main => (intro hz; clear_value z)))
    | (extract_lets +onlyGivenNames z; with_reducible apply inv_let (z := z.2); (case' val => (dsimp only [z]; try clear z)); (case' main => (intro hz; clear_value z)))
    | (extract_lets +onlyGivenNames z; clear_value z)
    | split
    | dsimp only
    | (simp only [inv_mk]; with_reducible apply canon_of)
    | split

theorem State.boxdecBody_inv {s : State} {site : Site} {o : OpenOp} (hInv : s.Inv) : (State.boxdecBody s site o).Inv := by
  unfold State.boxdecBody
  repeat' first
    | with_reducible assumption
    | with_reducible apply State.launchUnits_inv
    | with_reducible refine inv_of_fst (by with_reducible assumption) ?_
    | with_reducible refine inv_of_snd (by with_reducible assumption) ?_
    | with_reducible apply issueOf_inv
    | with_reducible apply issue_opens
    | with_reducible apply issue_ends
    | with_reducible apply issue_fault
    | with_reducible refine bodyInv_bind (fun _ => ?_)
    | with_reducible apply bodyInv_pure
    | with_reducible apply bodyInv_ok
    | with_reducible apply bodyInv_error
    | with_reducible intro _
    | dsimp only
    | (simp only [inv_mk]; with_reducible apply canon_of)
    | split

theorem State.boxdecUnit_inv {s : State} {e : Nat} {q : Nat} {o : OpenOp} {i : Nat} (hInv : s.Inv) : (State.boxdecUnit s e q o i).1.Inv := by
  unfold State.boxdecUnit
  repeat' first
    | with_reducible assumption
    | with_reducible apply State.putCount_inv
    | with_reducible apply State.putHeader_inv
    | with_reducible apply State.putListRow_inv
    | with_reducible refine inv_of_fst (by with_reducible assumption) ?_
    | with_reducible refine inv_of_snd (by with_reducible assumption) ?_
    | with_reducible refine foldl_inv (fun _ _ _ => ?_) ?_
    | with_reducible refine foldl_inv_fst (fun _ _ _ => ?_) ?_
    | with_reducible intro _
    | (extract_lets +onlyGivenNames z; with_reducible apply inv_let (z := z); (case' val => (dsimp only [z]; try clear z)); (case' main => (intro hz; clear_value z)))
    | (extract_lets +onlyGivenNames z; with_reducible apply inv_let (z := z.1); (case' val => (dsimp only [z]; try clear z)); (case' main => (intro hz; clear_value z)))
    | (extract_lets +onlyGivenNames z; with_reducible apply inv_let (z := z.2); (case' val => (dsimp only [z]; try clear z)); (case' main => (intro hz; clear_value z)))
    | (extract_lets +onlyGivenNames z; clear_value z)
    | split
    | with_reducible refine ite_inv ?_ ?_
    | with_reducible refine ite_inv_fst ?_ ?_
    | dsimp only
    | (simp only [inv_mk]; with_reducible apply canon_of)
    | split

theorem State.nmsBody_inv {s : State} {site : Site} {o : OpenOp} (hInv : s.Inv) : (State.nmsBody s site o).Inv := by
  unfold State.nmsBody
  repeat' first
    | with_reducible assumption
    | with_reducible apply State.launchList_inv
    | with_reducible refine inv_of_fst (by with_reducible assumption) ?_
    | with_reducible refine inv_of_snd (by with_reducible assumption) ?_
    | with_reducible apply issueOf_inv
    | with_reducible apply issue_opens
    | with_reducible apply issue_ends
    | with_reducible apply issue_fault
    | with_reducible refine bodyInv_bind (fun _ => ?_)
    | with_reducible apply bodyInv_pure
    | with_reducible apply bodyInv_ok
    | with_reducible apply bodyInv_error
    | with_reducible intro _
    | dsimp only
    | (simp only [inv_mk]; with_reducible apply canon_of)
    | split

theorem State.nmsUnit_inv {s : State} {e : Nat} {q : Nat} {o : OpenOp} (hInv : s.Inv) : (State.nmsUnit s e q o).1.Inv := by
  unfold State.nmsUnit
  repeat' first
    | with_reducible assumption
    | with_reducible apply State.countDet_inv
    | with_reducible apply State.putCount_inv
    | with_reducible apply State.putList_inv
    | with_reducible refine inv_of_fst (by with_reducible assumption) ?_
    | with_reducible refine inv_of_snd (by with_reducible assumption) ?_
    | with_reducible refine foldl_inv (fun _ _ _ => ?_) ?_
    | with_reducible refine foldl_inv_fst (fun _ _ _ => ?_) ?_
    | with_reducible intro _
    | (extract_lets +onlyGivenNames z; with_reducible apply inv_let (z := z); (case' val => (dsimp only [z]; try clear z)); (case' main => (intro hz; clear_value z)))
    | (extract_lets +onlyGivenNames z; with_reducible apply inv_let (z := z.1); (case' val => (dsimp only [z]; try clear z)); (case' main => (intro hz; clear_value z)))
    | (extract_lets +onlyGivenNames z; with_reducible apply inv_let (z := z.2); (case' val => (dsimp only [z]; try clear z)); (case' main => (intro hz; clear_value z)))
    | (extract_lets +onlyGivenNames z; clear_value z)
    | split
    | dsimp only
    | (simp only [inv_mk]; with_reducible apply canon_of)
    | split

theorem execSort_inv {s : State} {t : Nat} {e : Fin 96} {q : Fin 4} (hInv : s.Inv) : Keeps (execSort t e q s) := by
  unfold execSort
  dsimp only
  split
  with_reducible exact keeps_next (State.advance_inv (by assumption))
  with_reducible apply keeps_next
  with_reducible refine State.issueNext_inv ?_ (fun _ _ _ _ => ?_)
  with_reducible exact State.advance_inv (by assumption)
  with_reducible exact State.sortBody_inv (by assumption)

theorem execBoxdec_inv {s : State} {t : Nat} {e : Fin 96} {q : Fin 4} (hInv : s.Inv) : Keeps (execBoxdec t e q s) := by
  unfold execBoxdec
  dsimp only
  split
  with_reducible exact keeps_next (State.advance_inv (by assumption))
  with_reducible apply keeps_next
  with_reducible refine State.issueNext_inv ?_ (fun _ _ _ _ => ?_)
  with_reducible exact State.advance_inv (by assumption)
  with_reducible exact State.boxdecBody_inv (by assumption)

theorem execNms_inv {s : State} {t : Nat} {e : Fin 96} {q : Fin 4} (hInv : s.Inv) : Keeps (execNms t e q s) := by
  unfold execNms
  dsimp only
  split
  with_reducible exact keeps_next (State.advance_inv (by assumption))
  with_reducible apply keeps_next
  with_reducible refine State.issueNext_inv ?_ (fun _ _ _ _ => ?_)
  with_reducible exact State.advance_inv (by assumption)
  with_reducible exact State.nmsBody_inv (by assumption)

end Sys2Proof.Machine
end

