-- ==== Sys2Proof/Laws/InvScatter.lean ====
section
/-! SUPPORT. The invariant of State through the page macro-ops, scatter and gather: every operation and every command of these files keeps it. -/

namespace Sys2Proof.Machine

theorem Work.free_inv {n : Nat} : WorkInv (Work.free n) := by
  unfold Work.free
  with_reducible refine workInv_get (fun _ _ => ?_)
  with_reducible refine workInv_bind ?_ (fun _ => ?_)
  with_reducible apply workInv_set
  dsimp only
  simp only [inv_mk]
  with_reducible exact canon_of (by assumption)
  with_reducible exact workInv_pure

theorem Work.putSlot_inv {p : Page} {side s : Nat} {t : Tensor} {row : Nat} {sr : Bool} : WorkInv (Work.putSlot p side s t row sr) := by
  unfold Work.putSlot
  with_reducible refine workInv_get (fun _ _ => ?_)
  with_reducible refine workInv_bind ?_ (fun _ => ?_)
  with_reducible refine Work.effect_inv (fun _ _ => ?_)
  with_reducible exact State.countNum_inv (State.stepLanes_inv (by assumption))
  with_reducible refine workInv_bind ?_ (fun _ => ?_)
  with_reducible apply Work.write_inv
  split
  with_reducible apply Work.write_inv
  with_reducible exact workInv_pure

theorem ScatArgs.writePiece_inv {x : ScatArgs} {d : Desc} {ta tb : Tensor} {b : SeqEnt} {p : Page} {pc : Piece} : WorkInv (ScatArgs.writePiece x d ta tb b p pc) := by
  unfold ScatArgs.writePiece
  with_reducible refine workInv_bind ?_ (fun _ => ?_)
  with_reducible refine workInv_forM (fun _ => ?_)
  with_reducible refine workInv_bind ?_ (fun _ => ?_)
  with_reducible apply Work.putSlot_inv
  with_reducible refine workInv_bind ?_ (fun _ => ?_)
  with_reducible apply Work.putSlot_inv
  dsimp only
  split
  split
  with_reducible refine workInv_bind ?_ (fun _ => ?_)
  with_reducible apply Work.free_inv
  with_reducible apply Work.write_inv
  with_reducible refine workInv_bind ?_ (fun _ => ?_)
  with_reducible apply Work.read_inv
  with_reducible apply Work.write_inv
  with_reducible exact workInv_pure
  split
  with_reducible apply Work.write_inv
  with_reducible exact workInv_pure

theorem SeqEnt.setEntry_inv {b : SeqEnt} {j p epoch : Nat} : WorkInv (SeqEnt.setEntry b j p epoch) := by
  unfold SeqEnt.setEntry
  with_reducible apply Work.write_inv

theorem Pool.fill_inv {pool : Pool} {seq : Nat} {fill : Nat → Nat → Work Unit} (hf : ∀ p e, WorkInv (fill p e)) :
    WorkInv (pool.fill seq fill) := by
  unfold Pool.fill
  refine workInv_bind Pool.alloc_inv fun x => ?_
  split
  refine workInv_bind (workInv_tryCatch (hf _ _) fun _ => ?_) fun _ => workInv_pure
  exact workInv_bind Pool.release_inv fun _ => workInv_throw

theorem Page.copyTo_inv {old : Page} {a p epoch : Nat} : WorkInv (Page.copyTo old a p epoch) := by
  unfold Page.copyTo
  with_reducible refine workInv_bind ?_ (fun _ => ?_)
  with_reducible apply Work.write_inv
  with_reducible refine workInv_bind ?_ (fun _ => ?_)
  dsimp only
  split
  with_reducible exact workInv_pure
  with_reducible refine workInv_bind ?_ (fun _ => ?_)
  with_reducible apply Work.read_inv
  with_reducible apply Work.write_inv
  with_reducible refine workInv_bind ?_ (fun _ => ?_)
  dsimp only
  split
  with_reducible exact workInv_pure
  with_reducible refine workInv_bind ?_ (fun _ => ?_)
  with_reducible apply Work.read_inv
  with_reducible apply Work.write_inv
  dsimp only
  split
  with_reducible refine workInv_bind ?_ (fun _ => ?_)
  split
  with_reducible exact workInv_pure
  with_reducible refine workInv_bind ?_ (fun _ => ?_)
  with_reducible apply Work.read_inv
  with_reducible apply Work.write_inv
  split
  with_reducible refine workInv_bind ?_ (fun _ => ?_)
  split
  with_reducible exact workInv_pure
  with_reducible refine workInv_bind ?_ (fun _ => ?_)
  with_reducible apply Work.read_inv
  with_reducible apply Work.write_inv
  split
  split
  with_reducible exact workInv_pure
  with_reducible refine workInv_bind ?_ (fun _ => ?_)
  with_reducible apply Work.read_inv
  with_reducible apply Work.write_inv
  with_reducible exact workInv_pure
  split
  split
  with_reducible exact workInv_pure
  with_reducible refine workInv_bind ?_ (fun _ => ?_)
  with_reducible apply Work.read_inv
  with_reducible apply Work.write_inv
  with_reducible exact workInv_pure
  split
  with_reducible refine workInv_bind ?_ (fun _ => ?_)
  split
  with_reducible exact workInv_pure
  with_reducible refine workInv_bind ?_ (fun _ => ?_)
  with_reducible apply Work.read_inv
  with_reducible apply Work.write_inv
  split
  split
  with_reducible exact workInv_pure
  with_reducible refine workInv_bind ?_ (fun _ => ?_)
  with_reducible apply Work.read_inv
  with_reducible apply Work.write_inv
  with_reducible exact workInv_pure
  split
  split
  with_reducible exact workInv_pure
  with_reducible refine workInv_bind ?_ (fun _ => ?_)
  with_reducible apply Work.read_inv
  with_reducible apply Work.write_inv
  with_reducible exact workInv_pure

theorem Page.newLap_inv {p : Page} {b : SeqEnt} {pc : Piece} {slots : Nat} : WorkInv (Page.newLap p b pc slots) := by
  unfold Page.newLap
  split
  with_reducible refine workInv_bind ?_ (fun _ => ?_)
  with_reducible apply Work.write_inv
  with_reducible refine workInv_bind ?_ (fun _ => ?_)
  with_reducible apply Work.write_inv
  with_reducible exact workInv_pure
  with_reducible exact workInv_pure

theorem ScatArgs.appendPiece_inv {x : ScatArgs} {d : Desc} {ta tb : Tensor} {pool : Pool} {seq : Nat} {b : SeqEnt} {pc : Piece} : WorkInv (ScatArgs.appendPiece x d ta tb pool seq b pc) := by
  unfold ScatArgs.appendPiece
  with_reducible refine workInv_bind ?_ (fun _ => ?_)
  with_reducible apply readEntry_inv
  dsimp only
  split
  with_reducible refine workInv_bind ?_ (fun _ => ?_)
  with_reducible refine Pool.fill_inv (fun _ _ => ?_)
  with_reducible refine workInv_bind ?_ (fun _ => ?_)
  with_reducible apply Work.write_inv
  with_reducible apply ScatArgs.writePiece_inv
  with_reducible apply SeqEnt.setEntry_inv
  with_reducible refine workInv_bind ?_ (fun _ => ?_)
  with_reducible apply Pool.cnt2_inv
  with_reducible refine workInv_bind ?_ (fun _ => ?_)
  with_reducible apply Pool.header_inv
  split
  with_reducible refine workInv_bind ?_ (fun _ => ?_)
  with_reducible exact workInv_throw
  split
  with_reducible refine workInv_bind ?_ (fun _ => ?_)
  with_reducible refine Pool.fill_inv (fun _ _ => ?_)
  with_reducible refine workInv_bind ?_ (fun _ => ?_)
  with_reducible apply Page.copyTo_inv
  with_reducible refine workInv_bind ?_ (fun _ => ?_)
  with_reducible apply Page.newLap_inv
  with_reducible apply ScatArgs.writePiece_inv
  with_reducible refine workInv_bind ?_ (fun _ => ?_)
  with_reducible apply SeqEnt.setEntry_inv
  with_reducible refine workInv_bind ?_ (fun _ => ?_)
  with_reducible apply Work.count_inv
  with_reducible apply Pool.release_inv
  with_reducible refine workInv_bind ?_ (fun _ => ?_)
  with_reducible apply Page.newLap_inv
  with_reducible apply ScatArgs.writePiece_inv
  split
  with_reducible refine workInv_bind ?_ (fun _ => ?_)
  with_reducible refine Pool.fill_inv (fun _ _ => ?_)
  with_reducible refine workInv_bind ?_ (fun _ => ?_)
  with_reducible apply Page.copyTo_inv
  with_reducible refine workInv_bind ?_ (fun _ => ?_)
  with_reducible apply Page.newLap_inv
  with_reducible apply ScatArgs.writePiece_inv
  with_reducible refine workInv_bind ?_ (fun _ => ?_)
  with_reducible apply SeqEnt.setEntry_inv
  with_reducible refine workInv_bind ?_ (fun _ => ?_)
  with_reducible apply Work.count_inv
  with_reducible apply Pool.release_inv
  with_reducible refine workInv_bind ?_ (fun _ => ?_)
  with_reducible apply Page.newLap_inv
  with_reducible apply ScatArgs.writePiece_inv

theorem ScatArgs.append_inv {x : ScatArgs} {d : Desc} {ta tb : Tensor} {pool : Pool} {seq : Nat} {b : SeqEnt} : WorkInv (ScatArgs.append x d ta tb pool seq b) := by
  unfold ScatArgs.append
  with_reducible refine workInv_bind ?_ (fun _ => ?_)
  with_reducible refine workInv_forM (fun _ => ?_)
  with_reducible apply ScatArgs.appendPiece_inv
  with_reducible apply Work.write_inv

theorem ScatArgs.drop_inv {x : ScatArgs} {pool : Pool} {b : SeqEnt} : WorkInv (ScatArgs.drop x pool b) := by
  unfold ScatArgs.drop
  with_reducible refine workInv_bind ?_ (fun _ => ?_)
  with_reducible refine workInv_forM (fun _ => ?_)
  with_reducible refine workInv_bind ?_ (fun _ => ?_)
  with_reducible apply readEntry_inv
  dsimp only
  split
  with_reducible exact workInv_pure
  with_reducible refine workInv_bind ?_ (fun _ => ?_)
  with_reducible apply Pool.release_inv
  with_reducible apply Work.write_inv
  with_reducible apply Work.write_inv

theorem ScatArgs.retain_inv {x : ScatArgs} {pool : Pool} {b : SeqEnt} : WorkInv (ScatArgs.retain x pool b) := by
  unfold ScatArgs.retain
  with_reducible refine workInv_forM (fun _ => ?_)
  with_reducible refine workInv_bind ?_ (fun _ => ?_)
  with_reducible apply readEntry_inv
  dsimp only
  split
  with_reducible exact workInv_pure
  with_reducible refine workInv_forM (fun _ => ?_)
  with_reducible refine workInv_bind ?_ (fun _ => ?_)
  with_reducible apply Pool.cnt2_inv
  with_reducible exact workInv_pure

theorem Pool.probeFrom_inv {x : Pool} {i kk : Nat} : WorkInv (Pool.probeFrom x i kk) := by
  induction kk generalizing x i with
  | zero =>
    unfold Pool.probeFrom
    with_reducible exact workInv_pure
  | succ k ih =>
    unfold Pool.probeFrom
    with_reducible refine workInv_bind ?_ (fun _ => ?_)
    with_reducible apply Work.readNat_inv
    split
    with_reducible exact workInv_pure
    with_reducible refine workInv_bind ?_ (fun _ => ?_)
    with_reducible apply ih
    with_reducible exact workInv_pure

theorem Pool.probe_inv {x : Pool} {h : Nat} : WorkInv (Pool.probe x h) := by
  unfold Pool.probe
  split
  with_reducible exact workInv_pure
  with_reducible apply Pool.probeFrom_inv

theorem readNode_inv {a : Nat} : WorkInv (readNode a) := by
  unfold readNode
  with_reducible refine workInv_bind ?_ (fun _ => ?_)
  with_reducible apply Work.read_inv
  with_reducible exact workInv_pure

theorem claimNode_inv  {kk : List (Nat × Nat)} : WorkInv (claimNode  kk) := by
  induction kk with
  | nil =>
    unfold claimNode
    with_reducible exact workInv_pure
  | cons x l ih =>
    unfold claimNode
    split
    with_reducible refine workInv_bind ?_ (fun _ => ?_)
    with_reducible apply Work.atom_inv
    split
    with_reducible exact workInv_pure
    with_reducible assumption
    with_reducible assumption

theorem Pool.fillNode_inv {x : Pool} {a was h : Nat} {n : Node} : WorkInv (Pool.fillNode x a was h n) := by
  unfold Pool.fillNode
  with_reducible refine workInv_bind ?_ (fun _ => ?_)
  with_reducible apply Work.free_inv
  with_reducible refine workInv_bind ?_ (fun _ => ?_)
  with_reducible apply Work.write_inv
  with_reducible refine workInv_bind ?_ (fun _ => ?_)
  with_reducible refine workInv_tryCatch ?_ (fun _ => ?_)
  with_reducible refine workInv_bind ?_ (fun _ => ?_)
  with_reducible apply Pool.cnt2_inv
  with_reducible exact workInv_pure
  with_reducible refine workInv_bind ?_ (fun _ => ?_)
  with_reducible apply Work.write_inv
  with_reducible exact workInv_throw
  with_reducible apply Work.write_inv

theorem ScatArgs.insertFrom_inv {x : ScatArgs} {pool : Pool} {seq : Nat} {b : SeqEnt} {j h : Nat} {parent : Nat × Nat} {kk : Nat} : WorkInv (ScatArgs.insertFrom x pool seq b j h parent kk) := by
  induction kk generalizing x pool seq b j h parent with
  | zero =>
    unfold ScatArgs.insertFrom
    with_reducible exact workInv_pure
  | succ k ih =>
    unfold ScatArgs.insertFrom
    with_reducible refine workInv_bind ?_ (fun _ => ?_)
    with_reducible apply readEntry_inv
    dsimp only
    split
    with_reducible exact workInv_pure
    with_reducible refine workInv_bind ?_ (fun _ => ?_)
    with_reducible apply Pool.header_inv
    split
    with_reducible exact workInv_pure
    with_reducible refine workInv_bind ?_ (fun _ => ?_)
    with_reducible apply Work.read_inv
    with_reducible refine workInv_bind ?_ (fun _ => ?_)
    with_reducible apply Pool.probe_inv
    with_reducible refine workInv_bind ?_ (fun _ => ?_)
    with_reducible refine workInv_mapM (fun _ => ?_)
    with_reducible apply readNode_inv
    split
    with_reducible apply ih
    with_reducible refine workInv_bind ?_ (fun _ => ?_)
    with_reducible apply claimNode_inv
    split
    with_reducible apply Work.count_inv
    with_reducible refine workInv_bind ?_ (fun _ => ?_)
    with_reducible apply Pool.fillNode_inv
    with_reducible apply ih

theorem ScatArgs.insert_inv {x : ScatArgs} {pool : Pool} {seq : Nat} {b : SeqEnt} : WorkInv (ScatArgs.insert x pool seq b) := by
  unfold ScatArgs.insert
  with_reducible apply ScatArgs.insertFrom_inv

theorem Pool.evict_inv {x : Pool} {i : Nat} : WorkInv (Pool.evict x i) := by
  unfold Pool.evict
  with_reducible refine workInv_bind ?_ (fun _ => ?_)
  with_reducible apply Work.readNat_inv
  split
  with_reducible exact workInv_pure
  with_reducible refine workInv_bind ?_ (fun _ => ?_)
  with_reducible apply Work.atom_inv
  split
  with_reducible exact workInv_pure
  with_reducible refine workInv_bind ?_ (fun _ => ?_)
  with_reducible apply readNode_inv
  with_reducible refine workInv_bind ?_ (fun _ => ?_)
  with_reducible apply Pool.release_inv
  with_reducible apply Work.write_inv

theorem Work.inSeq_inv {seq : Nat} {x : Work Unit} (hx : WorkInv x) : WorkInv (Work.inSeq seq x) := by
  unfold Work.inSeq
  exact workInv_tryCatch hx fun _ => workInv_throw

theorem ScatArgs.run_inv {x : ScatArgs} {d : Desc} {ta tb : Option Tensor} {seqs : List SeqEnt} : WorkInv (ScatArgs.run x d ta tb seqs) := by
  unfold ScatArgs.run
  with_reducible refine workInv_bind ?_ (fun _ => ?_)
  with_reducible apply readPool_inv
  dsimp only
  split
  with_reducible refine workInv_bind ?_ (fun _ => ?_)
  with_reducible refine workInv_mapM (fun _ => ?_)
  with_reducible apply Work.readNat_inv
  with_reducible refine workInv_forM (fun _ => ?_)
  with_reducible refine Work.inSeq_inv ?_
  with_reducible apply Pool.evict_inv
  with_reducible refine workInv_forM (fun _ => ?_)
  split
  with_reducible exact workInv_pure
  with_reducible refine Work.inSeq_inv ?_
  split
  split
  with_reducible apply ScatArgs.append_inv
  with_reducible exact workInv_pure
  with_reducible apply ScatArgs.drop_inv
  with_reducible apply ScatArgs.retain_inv
  with_reducible apply ScatArgs.insert_inv

theorem State.scatterRun_inv {s : State} {site : Site} {o : OpenOp} {x : ScatArgs} {tensors : Option (Tensor × Tensor)} {seqs : List SeqEnt} (hInv : s.Inv) : (State.scatterRun s site o x tensors seqs).1.Inv := by
  unfold State.scatterRun
  repeat' first
    | with_reducible assumption
    | with_reducible apply State.work_inv
    | with_reducible apply ScatArgs.run_inv
    | with_reducible apply PageWork.close_inv
    | with_reducible refine inv_of_fst (by with_reducible assumption) ?_
    | with_reducible refine inv_of_snd (by with_reducible assumption) ?_
    | with_reducible refine inv_of_work (by with_reducible assumption) ?_
    | with_reducible intro _
    | dsimp only
    | (simp only [inv_mk]; with_reducible apply canon_of)
    | split

theorem Issue.unlessWaits_inv {i : Issue} (h : i.Inv) : i.unlessWaits.Inv := by
  unfold Issue.unlessWaits
  split
  · split
    · split
      · exact trivial
      · exact h
    · exact h
  · exact h

theorem State.scatterBody_inv {s : State} {site : Site} {o : OpenOp} (hInv : s.Inv) : (State.scatterBody s site o).Inv := by
  unfold State.scatterBody
  repeat' first
    | with_reducible assumption
    | with_reducible apply Issue.unlessWaits_inv
    | with_reducible apply State.launch_inv
    | with_reducible apply State.scatterRun_inv
    | with_reducible apply State.work_inv
    | with_reducible apply readSeqs_inv
    | with_reducible refine inv_of_fst (by with_reducible assumption) ?_
    | with_reducible refine inv_of_snd (by with_reducible assumption) ?_
    | with_reducible apply issueOf_inv
    | with_reducible apply issue_opens
    | with_reducible apply issue_ends
    | with_reducible apply issue_fault
    | with_reducible refine bodyInv_bind (fun _ => ?_)
    | with_reducible apply bodyInv_pure
    | with_reducible apply bodyInv_ok
    | with_reducible apply bodyInv_error
    | with_reducible refine inv_of_work (by with_reducible assumption) ?_
    | with_reducible intro _
    | dsimp only
    | (simp only [inv_mk]; with_reducible apply canon_of)
    | split

theorem execScatterAppend_inv {t : Nat} {e : Fin 96} {q : Fin 4} {s : State} (hInv : s.Inv) : Keeps (execScatterAppend t e q s) := by
  unfold execScatterAppend
  repeat' first
    | with_reducible assumption
    | with_reducible exact trivial
    | with_reducible apply keeps_next
    | with_reducible apply State.advance_inv
    | with_reducible apply State.issueNext_inv
    | with_reducible apply State.scatterBody_inv
    | with_reducible intro _
    | with_reducible refine ite_inv ?_ ?_
    | with_reducible refine ite_inv_fst ?_ ?_
    | dsimp only
    | (simp only [inv_mk]; with_reducible apply canon_of)
    | split

theorem execScatterRelease_inv {t : Nat} {e : Fin 96} {q : Fin 4} {s : State} (hInv : s.Inv) : Keeps (execScatterRelease t e q s) := by
  unfold execScatterRelease
  repeat' first
    | with_reducible assumption
    | with_reducible exact trivial
    | with_reducible apply keeps_next
    | with_reducible apply State.advance_inv
    | with_reducible apply State.issueNext_inv
    | with_reducible apply State.scatterBody_inv
    | with_reducible intro _
    | with_reducible refine ite_inv ?_ ?_
    | with_reducible refine ite_inv_fst ?_ ?_
    | dsimp only
    | (simp only [inv_mk]; with_reducible apply canon_of)
    | split

theorem execScatterRetain_inv {t : Nat} {e : Fin 96} {q : Fin 4} {s : State} (hInv : s.Inv) : Keeps (execScatterRetain t e q s) := by
  unfold execScatterRetain
  repeat' first
    | with_reducible assumption
    | with_reducible exact trivial
    | with_reducible apply keeps_next
    | with_reducible apply State.advance_inv
    | with_reducible apply State.issueNext_inv
    | with_reducible apply State.scatterBody_inv
    | with_reducible intro _
    | with_reducible refine ite_inv ?_ ?_
    | with_reducible refine ite_inv_fst ?_ ?_
    | dsimp only
    | (simp only [inv_mk]; with_reducible apply canon_of)
    | split

theorem execScatterInsert_inv {t : Nat} {e : Fin 96} {q : Fin 4} {s : State} (hInv : s.Inv) : Keeps (execScatterInsert t e q s) := by
  unfold execScatterInsert
  repeat' first
    | with_reducible assumption
    | with_reducible exact trivial
    | with_reducible apply keeps_next
    | with_reducible apply State.advance_inv
    | with_reducible apply State.issueNext_inv
    | with_reducible apply State.scatterBody_inv
    | with_reducible intro _
    | with_reducible refine ite_inv ?_ ?_
    | with_reducible refine ite_inv_fst ?_ ?_
    | dsimp only
    | (simp only [inv_mk]; with_reducible apply canon_of)
    | split

theorem execScatterEvict_inv {t : Nat} {e : Fin 96} {q : Fin 4} {s : State} (hInv : s.Inv) : Keeps (execScatterEvict t e q s) := by
  unfold execScatterEvict
  repeat' first
    | with_reducible assumption
    | with_reducible exact trivial
    | with_reducible apply keeps_next
    | with_reducible apply State.advance_inv
    | with_reducible apply State.issueNext_inv
    | with_reducible apply State.scatterBody_inv
    | with_reducible intro _
    | with_reducible refine ite_inv ?_ ?_
    | with_reducible refine ite_inv_fst ?_ ?_
    | dsimp only
    | (simp only [inv_mk]; with_reducible apply canon_of)
    | split

theorem GatherArgs.piece_inv {x : GatherArgs} {pool : Pool} {seq : Nat} {b : SeqEnt} {slots : Nat} {dst : Fmt} {pc : Piece} : WorkInv (GatherArgs.piece x pool seq b slots dst pc) := by
  unfold GatherArgs.piece
  with_reducible refine workInv_bind ?_ (fun _ => ?_)
  with_reducible apply readEntry_inv
  dsimp only
  split
  with_reducible refine workInv_bind ?_ (fun _ => ?_)
  with_reducible exact workInv_throw
  with_reducible refine workInv_bind ?_ (fun _ => ?_)
  with_reducible apply Pool.pin_inv
  with_reducible refine workInv_bind ?_ (fun _ => ?_)
  with_reducible apply Pool.header_inv
  split
  with_reducible refine workInv_bind ?_ (fun _ => ?_)
  with_reducible exact workInv_throw
  with_reducible refine workInv_bind ?_ (fun _ => ?_)
  with_reducible refine workInv_mapM (fun _ => ?_)
  with_reducible refine workInv_bind ?_ (fun _ => ?_)
  with_reducible apply Page.slot_inv
  with_reducible exact workInv_pure
  with_reducible refine workInv_bind ?_ (fun _ => ?_)
  with_reducible apply Pool.unpin_inv
  with_reducible exact workInv_pure
  with_reducible refine workInv_bind ?_ (fun _ => ?_)
  with_reducible refine workInv_mapM (fun _ => ?_)
  with_reducible refine workInv_bind ?_ (fun _ => ?_)
  with_reducible apply Page.slot_inv
  with_reducible exact workInv_pure
  with_reducible refine workInv_bind ?_ (fun _ => ?_)
  with_reducible apply Pool.unpin_inv
  with_reducible exact workInv_pure
  with_reducible refine workInv_bind ?_ (fun _ => ?_)
  with_reducible apply Pool.pin_inv
  with_reducible refine workInv_bind ?_ (fun _ => ?_)
  with_reducible apply Pool.header_inv
  split
  with_reducible refine workInv_bind ?_ (fun _ => ?_)
  with_reducible exact workInv_throw
  with_reducible refine workInv_bind ?_ (fun _ => ?_)
  with_reducible refine workInv_mapM (fun _ => ?_)
  with_reducible refine workInv_bind ?_ (fun _ => ?_)
  with_reducible apply Page.slot_inv
  with_reducible exact workInv_pure
  with_reducible refine workInv_bind ?_ (fun _ => ?_)
  with_reducible apply Pool.unpin_inv
  with_reducible exact workInv_pure
  with_reducible refine workInv_bind ?_ (fun _ => ?_)
  with_reducible refine workInv_mapM (fun _ => ?_)
  with_reducible refine workInv_bind ?_ (fun _ => ?_)
  with_reducible apply Page.slot_inv
  with_reducible exact workInv_pure
  with_reducible refine workInv_bind ?_ (fun _ => ?_)
  with_reducible apply Pool.unpin_inv
  with_reducible exact workInv_pure

theorem GatherArgs.rows_inv {x : GatherArgs} {dst : Tensor}  : WorkInv (GatherArgs.rows x dst) := by
  unfold GatherArgs.rows
  repeat' first
    | with_reducible assumption
    | with_reducible apply readSeqs_inv
    | with_reducible apply readPool_inv
    | with_reducible apply GatherArgs.piece_inv
    | with_reducible apply slotsOf_inv
    | with_reducible refine inv_of_fst (by with_reducible assumption) ?_
    | with_reducible refine inv_of_snd (by with_reducible assumption) ?_
    | with_reducible apply workInv_pure
    | with_reducible apply workInv_throw
    | with_reducible refine workInv_get (fun _ _ => ?_)
    | with_reducible refine workInv_bind ?_ (fun _ => ?_)
    | with_reducible apply workInv_foldlM
    | with_reducible apply workInv_forM
    | with_reducible apply workInv_forIn
    | with_reducible apply workInv_mapM
    | with_reducible apply workInv_set
    | with_reducible apply workInv_modify
    | with_reducible intro _
    | dsimp only
    | (simp only [inv_mk]; with_reducible apply canon_of)
    | split

theorem State.putGatherRow_inv {s : State} {e : Nat} {o : OpenOp} {t : Tensor} {dh : Nat} {live : List SeqEnt} {x : GatherRow} (hInv : s.Inv) : (State.putGatherRow s e o t dh live x).1.Inv := by
  unfold State.putGatherRow
  repeat' first
    | with_reducible assumption
    | with_reducible apply State.putElem_inv
    | with_reducible apply State.putScale_inv
    | with_reducible apply State.rowRun_inv
    | with_reducible apply State.putOut_inv
    | with_reducible refine inv_of_fst (by with_reducible assumption) ?_
    | with_reducible refine inv_of_snd (by with_reducible assumption) ?_
    | with_reducible refine foldl_inv (fun _ _ _ => ?_) ?_
    | with_reducible refine foldl_inv_fst (fun _ _ _ => ?_) ?_
    | with_reducible intro _
    | with_reducible refine ite_inv ?_ ?_
    | with_reducible refine ite_inv_fst ?_ ?_
    | dsimp only
    | (simp only [inv_mk]; with_reducible apply canon_of)
    | split

theorem Pool.pinByCas_inv {x : Pool} {p epoch kk : Nat} : WorkInv (Pool.pinByCas x p epoch kk) := by
  induction kk generalizing x p epoch with
  | zero =>
    unfold Pool.pinByCas
    with_reducible exact workInv_pure
  | succ k ih =>
    unfold Pool.pinByCas
    with_reducible refine workInv_bind ?_ (fun _ => ?_)
    with_reducible apply Work.readNat_inv
    split
    with_reducible exact workInv_pure
    with_reducible refine workInv_bind ?_ (fun _ => ?_)
    with_reducible apply Work.atom_inv
    split
    with_reducible refine workInv_bind ?_ (fun _ => ?_)
    with_reducible apply Work.count_inv
    with_reducible refine workInv_bind ?_ (fun _ => ?_)
    with_reducible refine workInv_modify (fun _ _ => ?_)
    with_reducible assumption
    with_reducible exact workInv_pure
    with_reducible apply ih

theorem Pool.adopt_inv {x : Pool} {b : SeqEnt} {j a : Nat} {n : Node} : WorkInv (Pool.adopt x b j a n) := by
  unfold Pool.adopt
  with_reducible refine workInv_bind ?_ (fun _ => ?_)
  with_reducible apply Pool.cnt2_inv
  with_reducible refine workInv_bind ?_ (fun _ => ?_)
  with_reducible refine workInv_modify (fun _ _ => ?_)
  with_reducible assumption
  with_reducible refine workInv_bind ?_ (fun _ => ?_)
  with_reducible apply SeqEnt.setEntry_inv
  with_reducible refine workInv_get (fun _ _ => ?_)
  with_reducible refine workInv_bind ?_ (fun _ => ?_)
  with_reducible apply Work.write_inv
  with_reducible apply Work.count_inv

theorem GatherArgs.tryNodes_inv {x : GatherArgs} {pool : Pool} {seq : Nat} {b : SeqEnt} {j h : Nat} {parent : Nat × Nat} {tokens : List Byte} {kk : List (Nat × Nat)} : WorkInv (GatherArgs.tryNodes x pool seq b j h parent tokens kk) := by
  induction kk generalizing x pool seq b j h parent tokens with
  | nil =>
    unfold GatherArgs.tryNodes
    with_reducible exact workInv_pure
  | cons x l ih =>
    unfold GatherArgs.tryNodes
    dsimp only
    split
    with_reducible apply ih
    with_reducible refine workInv_bind ?_ (fun _ => ?_)
    with_reducible apply readNode_inv
    with_reducible refine workInv_bind ?_ (fun _ => ?_)
    with_reducible apply Pool.pinByCas_inv
    split
    with_reducible apply ih
    with_reducible refine workInv_bind ?_ (fun _ => ?_)
    with_reducible apply Pool.header_inv
    split
    with_reducible refine workInv_bind ?_ (fun _ => ?_)
    with_reducible apply Work.read_inv
    with_reducible refine workInv_bind ?_ (fun _ => ?_)
    with_reducible exact workInv_pure
    split
    with_reducible refine workInv_bind ?_ (fun _ => ?_)
    with_reducible apply Pool.adopt_inv
    with_reducible exact workInv_pure
    with_reducible refine workInv_bind ?_ (fun _ => ?_)
    with_reducible apply Pool.unpin_inv
    with_reducible apply ih
    with_reducible refine workInv_bind ?_ (fun _ => ?_)
    with_reducible exact workInv_pure
    split
    with_reducible refine workInv_bind ?_ (fun _ => ?_)
    with_reducible apply Pool.adopt_inv
    with_reducible exact workInv_pure
    with_reducible refine workInv_bind ?_ (fun _ => ?_)
    with_reducible apply Pool.unpin_inv
    with_reducible apply ih

theorem GatherArgs.matchFrom_inv {x : GatherArgs} {pool : Pool} {seq : Nat} {b : SeqEnt} {j h : Nat} {parent : Nat × Nat} {kk : Nat} : WorkInv (GatherArgs.matchFrom x pool seq b j h parent kk) := by
  induction kk generalizing x pool seq b j h parent with
  | zero =>
    unfold GatherArgs.matchFrom
    with_reducible exact workInv_pure
  | succ k ih =>
    unfold GatherArgs.matchFrom
    with_reducible refine workInv_bind ?_ (fun _ => ?_)
    with_reducible apply Work.read_inv
    with_reducible refine workInv_bind ?_ (fun _ => ?_)
    with_reducible apply Pool.probe_inv
    with_reducible refine workInv_bind ?_ (fun _ => ?_)
    with_reducible apply GatherArgs.tryNodes_inv
    split
    with_reducible exact workInv_pure
    with_reducible apply ih

theorem GatherArgs.look_inv {x : GatherArgs} : WorkInv (GatherArgs.look x) := by
  unfold GatherArgs.look
  with_reducible refine workInv_bind ?_ (fun _ => ?_)
  with_reducible apply readSeqs_inv
  with_reducible refine workInv_bind ?_ (fun _ => ?_)
  with_reducible apply readPool_inv
  with_reducible refine workInv_forM (fun _ => ?_)
  dsimp only
  split
  with_reducible exact workInv_pure
  with_reducible refine workInv_bind ?_ (fun _ => ?_)
  with_reducible apply GatherArgs.matchFrom_inv
  with_reducible apply Work.write_inv

theorem GatherArgs.prog_inv {x : GatherArgs} {dst : Option Tensor}  : WorkInv (GatherArgs.prog x dst) := by
  unfold GatherArgs.prog
  repeat' first
    | with_reducible assumption
    | with_reducible apply GatherArgs.rows_inv
    | with_reducible apply GatherArgs.look_inv
    | with_reducible refine inv_of_fst (by with_reducible assumption) ?_
    | with_reducible refine inv_of_snd (by with_reducible assumption) ?_
    | with_reducible apply workInv_pure
    | with_reducible apply workInv_throw
    | with_reducible refine workInv_get (fun _ _ => ?_)
    | with_reducible refine workInv_bind ?_ (fun _ => ?_)
    | with_reducible apply workInv_foldlM
    | with_reducible apply workInv_forM
    | with_reducible apply workInv_forIn
    | with_reducible apply workInv_mapM
    | with_reducible apply workInv_set
    | with_reducible apply workInv_modify
    | dsimp only
    | (simp only [inv_mk]; with_reducible apply canon_of)
    | split

theorem State.gatherLand_inv {s : State} {site : Site} {o : OpenOp} {x : GatherArgs} {dst : Option Tensor} {r : List SeqEnt × List GatherRow} (hInv : s.Inv) : (State.gatherLand s site o x dst r).1.Inv := by
  unfold State.gatherLand
  repeat' first
    | with_reducible assumption
    | with_reducible apply State.setTags_inv
    | with_reducible apply State.putGatherRow_inv
    | with_reducible refine inv_of_fst (by with_reducible assumption) ?_
    | with_reducible refine inv_of_snd (by with_reducible assumption) ?_
    | with_reducible refine foldl_inv (fun _ _ _ => ?_) ?_
    | with_reducible refine foldl_inv_fst (fun _ _ _ => ?_) ?_
    | with_reducible intro _
    | with_reducible refine ite_inv ?_ ?_
    | with_reducible refine ite_inv_fst ?_ ?_
    | dsimp only
    | (simp only [inv_mk]; with_reducible apply canon_of)
    | split

theorem State.gatherRun_inv {s : State} {site : Site} {o : OpenOp} {x : GatherArgs} (hInv : s.Inv) : (State.gatherRun s site o x).1.Inv := by
  unfold State.gatherRun
  repeat' first
    | with_reducible assumption
    | with_reducible apply State.work_inv
    | with_reducible apply GatherArgs.prog_inv
    | with_reducible apply PageWork.close_inv
    | with_reducible apply State.gatherLand_inv
    | with_reducible apply State.askSector_inv
    | with_reducible refine inv_of_fst (by with_reducible assumption) ?_
    | with_reducible refine inv_of_snd (by with_reducible assumption) ?_
    | with_reducible refine inv_of_work (by with_reducible assumption) ?_
    | with_reducible intro _
    | with_reducible refine ite_inv ?_ ?_
    | with_reducible refine ite_inv_fst ?_ ?_
    | dsimp only
    | (simp only [inv_mk]; with_reducible apply canon_of)
    | split

theorem unpinFar_inv {pins : List (Nat × Nat)}  : WorkInv (unpinFar pins) := by
  unfold unpinFar
  repeat' first
    | with_reducible assumption
    | with_reducible apply readPool_inv
    | with_reducible apply Pool.release_inv
    | with_reducible refine inv_of_fst (by with_reducible assumption) ?_
    | with_reducible refine inv_of_snd (by with_reducible assumption) ?_
    | with_reducible apply workInv_pure
    | with_reducible apply workInv_throw
    | with_reducible refine workInv_get (fun _ _ => ?_)
    | with_reducible refine workInv_bind ?_ (fun _ => ?_)
    | with_reducible apply workInv_foldlM
    | with_reducible apply workInv_forM
    | with_reducible apply workInv_forIn
    | with_reducible apply workInv_mapM
    | with_reducible apply workInv_set
    | with_reducible apply workInv_modify
    | with_reducible intro _
    | dsimp only
    | (simp only [inv_mk]; with_reducible apply canon_of)
    | split

theorem State.gatherUnpin_inv {s : State} {site : Site} {o : OpenOp} {f : Option OpFault} (hInv : s.Inv) : (State.gatherUnpin s site o f).Inv := by
  unfold State.gatherUnpin
  repeat' first
    | with_reducible assumption
    | with_reducible apply State.work_inv
    | with_reducible apply unpinFar_inv
    | with_reducible apply State.endOp_inv
    | with_reducible apply PageWork.close_inv
    | with_reducible apply State.putOp_inv
    | with_reducible refine inv_of_fst (by with_reducible assumption) ?_
    | with_reducible refine inv_of_snd (by with_reducible assumption) ?_
    | with_reducible refine inv_of_work (by with_reducible assumption) ?_
    | with_reducible intro _
    | with_reducible refine ite_inv ?_ ?_
    | dsimp only
    | (simp only [inv_mk]; with_reducible apply canon_of)
    | split

theorem State.gatherResume_inv {s : State} {e : Nat} {k : Nat} {issue : Nat} (hInv : s.Inv) : (State.gatherResume s e k issue).Inv := by
  unfold State.gatherResume
  repeat' first
    | with_reducible assumption
    | with_reducible apply State.gatherUnpin_inv
    | with_reducible apply State.gatherRun_inv
    | with_reducible apply State.setCtxQueue_inv
    | with_reducible refine inv_of_fst (by with_reducible assumption) ?_
    | with_reducible refine inv_of_snd (by with_reducible assumption) ?_
    | with_reducible intro _
    | with_reducible refine ite_inv ?_ ?_
    | dsimp only
    | (simp only [inv_mk]; with_reducible apply canon_of)
    | split

theorem State.gatherBody_inv {s : State} {site : Site} {o : OpenOp} (hInv : s.Inv) : (State.gatherBody s site o).Inv := by
  unfold State.gatherBody
  repeat' first
    | with_reducible assumption
    | with_reducible apply Issue.unlessWaits_inv
    | with_reducible apply State.launch_inv
    | with_reducible apply State.gatherRun_inv
    | with_reducible refine inv_of_fst (by with_reducible assumption) ?_
    | with_reducible refine inv_of_snd (by with_reducible assumption) ?_
    | with_reducible apply issueOf_inv
    | with_reducible apply issue_opens
    | with_reducible apply issue_ends
    | with_reducible apply issue_fault
    | with_reducible refine bodyInv_bind (fun _ => ?_)
    | with_reducible apply bodyInv_pure
    | with_reducible apply bodyInv_ok
    | with_reducible apply bodyInv_error
    | with_reducible intro _
    | dsimp only
    | (simp only [inv_mk]; with_reducible apply canon_of)
    | split

theorem execGatherRows_inv {s : State} {t : Nat} {e : Fin 96} {q : Fin 4} (hInv : s.Inv) : Keeps (execGatherRows t e q s) := by
  unfold execGatherRows
  dsimp only
  split
  with_reducible exact keeps_next (State.advance_inv (by assumption))
  with_reducible apply keeps_next
  with_reducible refine State.issueNext_inv ?_ (fun _ _ _ _ => ?_)
  with_reducible exact State.advance_inv (by assumption)
  with_reducible exact State.gatherBody_inv (by assumption)

theorem execGatherLookup_inv {s : State} {t : Nat} {e : Fin 96} {q : Fin 4} (hInv : s.Inv) : Keeps (execGatherLookup t e q s) := by
  unfold execGatherLookup
  dsimp only
  split
  with_reducible exact keeps_next (State.advance_inv (by assumption))
  with_reducible apply keeps_next
  with_reducible refine State.issueNext_inv ?_ (fun _ _ _ _ => ?_)
  with_reducible exact State.advance_inv (by assumption)
  with_reducible exact State.gatherBody_inv (by assumption)

end Sys2Proof.Machine
end

