-- ==== Sys2Proof/Laws/InvCommit.lean ====
section
/-! SUPPORT. The invariant of State through the DMA, fetch, the Keeper, commits and queue control: every operation and every command of these files keeps it. -/

namespace Sys2Proof.Machine

theorem State.copyUnit_inv {s : State} {e : Nat} {q : Nat} {o : OpenOp} {i : Nat} (hInv : s.Inv) : (State.copyUnit s e q o i).1.Inv := by
  unfold State.copyUnit
  repeat' first
    | with_reducible assumption
    | with_reducible apply State.kstore_inv
    | with_reducible apply State.windowStore_inv
    | with_reducible intro _
    | with_reducible refine ite_inv ?_ ?_
    | with_reducible refine ite_inv_fst ?_ ?_
    | dsimp only
    | (simp only [inv_mk]; with_reducible apply canon_of)
    | split

theorem State.copyBody_inv {s : State} {site : Site} {o : OpenOp} (hInv : s.Inv) : (State.copyBody s site o).Inv := by
  unfold State.copyBody
  repeat' first
    | with_reducible assumption
    | with_reducible apply State.launch_inv
    | with_reducible apply State.copyRequests_inv
    | with_reducible apply State.launchUnits_inv
    | with_reducible refine inv_of_fst (by with_reducible assumption) ?_
    | with_reducible refine inv_of_snd (by with_reducible assumption) ?_
    | with_reducible apply issueOf_inv
    | with_reducible apply issue_opens
    | with_reducible apply issue_ends
    | with_reducible apply issue_fault
    | with_reducible refine bodyInv_bind (fun _ => ?_)
    | with_reducible apply bodyInv_pure
    | with_reducible apply bodyInv_ok
    | with_reducible apply bodyInv_error
    | with_reducible intro _
    | dsimp only
    | (simp only [inv_mk]; with_reducible apply canon_of)
    | split

theorem State.prefetchBody_inv {s : State} {site : Site} {o : OpenOp} (hInv : s.Inv) : (State.prefetchBody s site o).Inv := by
  unfold State.prefetchBody
  repeat' first
    | with_reducible assumption
    | with_reducible apply State.launchUnits_inv
    | with_reducible apply issueOf_inv
    | with_reducible apply issue_opens
    | with_reducible apply issue_ends
    | with_reducible apply issue_fault
    | with_reducible refine bodyInv_bind (fun _ => ?_)
    | with_reducible apply bodyInv_pure
    | with_reducible apply bodyInv_ok
    | with_reducible apply bodyInv_error
    | with_reducible intro _
    | dsimp only
    | (simp only [inv_mk]; with_reducible apply canon_of)
    | split

theorem State.dropTrigger_inv {s : State} {e q arg : Nat} (hInv : s.Inv) : (State.dropTrigger s e q arg).Inv := by
  unfold State.dropTrigger
  with_reducible exact postFault_inv (State.event_inv (State.bump_inv (by assumption)))

theorem State.trigger_inv {s : State} {e q arg : Nat} (hInv : s.Inv) : (State.trigger s e q arg).Inv := by
  unfold State.trigger
  simp only
  split
  with_reducible exact State.settle_inv (State.bump_inv (State.setQueue_inv (by assumption)))
  with_reducible exact State.dropTrigger_inv (by assumption)

theorem State.signalBody_inv {s : State} {site : Site} {o : OpenOp} (hInv : s.Inv) : (State.signalBody s site o).Inv := by
  unfold State.signalBody
  repeat' first
    | with_reducible assumption
    | with_reducible apply State.askRemote_inv
    | with_reducible apply State.doAtomic_inv
    | with_reducible apply State.chargeOp_inv
    | with_reducible apply State.inOrder_inv
    | with_reducible refine inv_of_fst (by with_reducible assumption) ?_
    | with_reducible refine inv_of_snd (by with_reducible assumption) ?_
    | with_reducible apply issueOf_inv
    | with_reducible apply issue_opens
    | with_reducible apply issue_ends
    | with_reducible apply issue_fault
    | with_reducible refine bodyInv_bind (fun _ => ?_)
    | with_reducible apply bodyInv_pure
    | with_reducible apply bodyInv_ok
    | with_reducible apply bodyInv_error
    | with_reducible refine inv_of_opens (by with_reducible assumption) ?_
    | with_reducible refine inv_of_ends (by with_reducible assumption) ?_
    | with_reducible intro _
    | dsimp only
    | (simp only [inv_mk]; with_reducible apply canon_of)
    | split

theorem State.signalTriggerBody_inv {s : State} {o : OpenOp} (hInv : s.Inv) : (State.signalTriggerBody s o).Inv := by
  unfold State.signalTriggerBody
  dsimp only
  split
  with_reducible apply issue_fault
  with_reducible apply issue_opens
  with_reducible apply State.trigger_inv
  with_reducible assumption

theorem State.waitBody_inv {s : State} {site : Site} {o : OpenOp} (hInv : s.Inv) : (State.waitBody s site o).Inv := by
  unfold State.waitBody
  dsimp only
  split
  split
  with_reducible apply issue_fault
  split
  with_reducible apply issue_fault
  with_reducible apply issue_opens
  with_reducible assumption
  split
  with_reducible apply issue_fault
  split
  with_reducible apply issue_fault
  with_reducible apply issue_opens
  with_reducible assumption
  split
  with_reducible apply issue_fault
  split
  with_reducible apply issue_fault
  with_reducible apply issue_opens
  with_reducible assumption
  simp only
  split
  with_reducible apply issue_fault
  split
  with_reducible apply issue_fault
  with_reducible apply issue_opens
  with_reducible assumption

theorem State.recheckWaits_inv {s : State} {e q : Nat} (hInv : s.Inv) : (State.recheckWaits s e q).Inv := by
  unfold State.recheckWaits
  with_reducible exact State.setQueue_inv (by assumption)

theorem State.swapBanks_inv {s : State} {e : Nat} (hInv : s.Inv) : (State.swapBanks s e).Inv := by
  unfold State.swapBanks
  with_reducible exact State.setEng_inv (by assumption)

theorem State.fencePoint_inv {s : State} {e : Nat} (hInv : s.Inv) : (State.fencePoint s e).Inv := by
  unfold State.fencePoint
  simp only
  split
  with_reducible assumption
  split
  with_reducible exact State.setEng_inv (by assumption)
  with_reducible exact State.swapBanks_inv (by assumption)

theorem execCopy_inv {s : State} {t : Nat} {e : Fin 96} {q : Fin 4} (hInv : s.Inv) : Keeps (execCopy t e q s) := by
  unfold execCopy
  with_reducible apply keeps_next
  with_reducible refine State.live_inv ?_ (fun _ _ => ?_)
  with_reducible assumption
  with_reducible refine State.issueNext_inv ?_ (fun _ _ _ _ => ?_)
  with_reducible assumption
  with_reducible exact State.copyBody_inv (by assumption)

theorem execPrefetch_inv {s : State} {t : Nat} {e : Fin 96} {q : Fin 4} (hInv : s.Inv) : Keeps (execPrefetch t e q s) := by
  unfold execPrefetch
  with_reducible apply keeps_next
  with_reducible refine State.live_inv ?_ (fun _ _ => ?_)
  with_reducible assumption
  with_reducible refine State.issueNext_inv ?_ (fun _ _ _ _ => ?_)
  with_reducible assumption
  with_reducible exact State.prefetchBody_inv (by assumption)

theorem execWait_inv {s : State} {t : Nat} {e : Fin 96} {q : Fin 4} (hInv : s.Inv) : Keeps (execWait t e q s) := by
  unfold execWait
  with_reducible apply keeps_next
  with_reducible refine State.live_inv ?_ (fun _ _ => ?_)
  with_reducible assumption
  with_reducible refine State.issueNext_inv ?_ (fun _ _ _ _ => ?_)
  with_reducible assumption
  with_reducible exact State.waitBody_inv (by assumption)

theorem execWaitTimeout_inv {s : State} {t : Nat} {e : Fin 96} {q : Fin 4} (hInv : s.Inv) : Keeps (execWaitTimeout t e q s) := by
  unfold execWaitTimeout
  dsimp only
  split
  with_reducible exact keeps_next (State.advance_inv (by assumption))
  with_reducible apply keeps_next
  split
  with_reducible exact State.endOp_inv (State.advance_inv (by assumption))
  with_reducible exact State.advance_inv (by assumption)

theorem execSignalAdd_inv {s : State} {t : Nat} {e : Fin 96} {q : Fin 4} (hInv : s.Inv) : Keeps (execSignalAdd t e q s) := by
  unfold execSignalAdd
  with_reducible apply keeps_next
  with_reducible refine State.live_inv ?_ (fun _ _ => ?_)
  with_reducible assumption
  with_reducible refine State.issueNext_inv ?_ (fun _ _ _ _ => ?_)
  with_reducible assumption
  with_reducible exact State.signalBody_inv (by assumption)

theorem execSignalSet_inv {s : State} {t : Nat} {e : Fin 96} {q : Fin 4} (hInv : s.Inv) : Keeps (execSignalSet t e q s) := by
  unfold execSignalSet
  with_reducible apply keeps_next
  with_reducible refine State.live_inv ?_ (fun _ _ => ?_)
  with_reducible assumption
  with_reducible refine State.issueNext_inv ?_ (fun _ _ _ _ => ?_)
  with_reducible assumption
  with_reducible exact State.signalBody_inv (by assumption)

theorem execSignalTrigger_inv {s : State} {t : Nat} {e : Fin 96} {q : Fin 4} (hInv : s.Inv) : Keeps (execSignalTrigger t e q s) := by
  unfold execSignalTrigger
  with_reducible apply keeps_next
  with_reducible refine State.live_inv ?_ (fun _ _ => ?_)
  with_reducible assumption
  with_reducible refine State.issueNext_inv ?_ (fun _ _ _ _ => ?_)
  with_reducible assumption
  with_reducible exact State.signalTriggerBody_inv (by assumption)

theorem execTriggerAccept_inv {s : State} {t : Nat} {e : Fin 96} {q : Fin 4} {arg : BitVec 32} (hInv : s.Inv) : Keeps (execTriggerAccept t e q arg s) := by
  unfold execTriggerAccept
  with_reducible apply keeps_next
  with_reducible refine State.live_inv ?_ (fun _ _ => ?_)
  with_reducible assumption
  with_reducible exact State.trigger_inv (by assumption)

theorem execFence_inv {s : State} {t : Nat} {e : Fin 96} {q : Fin 4} (hInv : s.Inv) : Keeps (execFence t e q s) := by
  unfold execFence
  with_reducible apply keeps_next
  with_reducible refine State.live_inv ?_ (fun _ _ => ?_)
  with_reducible assumption
  with_reducible refine State.issueNext_inv ?_ (fun _ _ _ _ => ?_)
  with_reducible assumption
  with_reducible exact issue_opens (by assumption)

theorem State.clearSector_inv {s : State} {a : Nat} (hInv : s.Inv) : (State.clearSector s a).Inv := by
  unfold State.clearSector
  repeat' first
    | with_reducible assumption
    | with_reducible apply State.setSector_inv
    | with_reducible intro _
    | with_reducible refine ite_inv ?_ ?_
    | dsimp only
    | (simp only [inv_mk]; with_reducible apply canon_of)
    | split

theorem State.fetchError_inv {s : State} {e : Nat} {q : Nat} {code : Nat} {a : Nat} (hInv : s.Inv) : (State.fetchError s e q code a).Inv := by
  unfold State.fetchError
  repeat' first
    | with_reducible assumption
    | with_reducible apply State.clearSector_inv
    | with_reducible apply postFault_inv
    | with_reducible apply State.settle_inv
    | with_reducible apply State.setQueue_inv
    | with_reducible intro _
    | dsimp only
    | (simp only [inv_mk]; with_reducible apply canon_of)

theorem State.seqHalt_inv {s : State} {e q expected found case level : Nat} (hInv : s.Inv) : (State.seqHalt s e q expected found case level).Inv := by
  unfold State.seqHalt
  with_reducible exact State.settle_inv (State.setQueue_inv (State.queueSeqFault_inv (by assumption)))

theorem State.askFor_inv {s : State} {a n : Nat} (hInv : s.Inv) : (State.askFor s a n).Inv := by
  unfold State.askFor
  split
  with_reducible exact State.askSector_inv (by assumption)
  with_reducible assumption

theorem State.readTail_inv {s : State} {e : Nat} {q : Nat} {f : FetchEnd} (hInv : s.Inv) : (State.readTail s e q f).Inv := by
  unfold State.readTail
  repeat' first
    | with_reducible assumption
    | with_reducible apply State.fetchError_inv
    | with_reducible apply State.askFor_inv
    | with_reducible apply State.seqHalt_inv
    | with_reducible apply State.setQueue_inv
    | with_reducible apply State.settle_inv
    | with_reducible apply State.writeStatusLine_inv
    | with_reducible refine inv_of_fst (by with_reducible assumption) ?_
    | with_reducible refine inv_of_snd (by with_reducible assumption) ?_
    | with_reducible intro _
    | with_reducible refine ite_inv ?_ ?_
    | dsimp only
    | (simp only [inv_mk]; with_reducible apply canon_of)
    | split

theorem State.takeArg_inv {s : State} {e q : Nat} (hInv : s.Inv) : (State.takeArg s e q).Inv := by
  unfold State.takeArg
  simp only
  split
  with_reducible assumption
  split
  with_reducible assumption
  with_reducible exact State.setScalar_inv (State.setQueue_inv (by assumption))

theorem State.fetchNext_inv {s : State} {e q : Nat} {f : FetchEnd} {k : Nat} (hInv : s.Inv) : (s.fetchNext e q f k).Inv := by
  induction k generalizing s with
  | zero => exact hInv
  | succ k ih =>
    unfold State.fetchNext
    extract_lets x
    split
    · exact State.settle_inv hInv
    · exact ih (State.setQueue_inv hInv)
    · exact State.settle_inv (State.setQueue_inv hInv)
    · split
      · exact State.fetchError_inv hInv
      · extract_lets d bad
        clear_value bad
        split
        · exact State.askFor_inv hInv
        · split
          · exact State.seqHalt_inv hInv
          · exact State.settle_inv (State.setQueue_inv hInv)

theorem State.fetch_inv {s : State} {e q : Nat} {tail entry : FetchEnd} (hInv : s.Inv) : (State.fetch s e q tail entry).Inv := by
  unfold State.fetch
  simp only
  split
  with_reducible assumption
  with_reducible refine State.issueNext_inv ?_ (fun _ _ _ _ => ?_)
  split
  split
  with_reducible exact State.fetchNext_inv (State.takeArg_inv (by assumption))
  with_reducible exact State.takeArg_inv (by assumption)
  split
  with_reducible exact State.fetchNext_inv (State.readTail_inv (by assumption))
  with_reducible exact State.readTail_inv (by assumption)
  with_reducible apply issue_fault

theorem State.notify_inv {s : State} {e : Nat} {q : Nat} {a : Nat} {tail : FetchEnd} (hInv : s.Inv) : (State.notify s e q a tail).Inv := by
  unfold State.notify
  repeat' first
    | with_reducible assumption
    | with_reducible apply State.recheckWaits_inv
    | with_reducible apply State.readTail_inv
    | with_reducible apply State.seqHalt_inv
    | with_reducible refine inv_of_fst (by with_reducible assumption) ?_
    | with_reducible refine inv_of_snd (by with_reducible assumption) ?_
    | with_reducible intro _
    | with_reducible refine ite_inv ?_ ?_
    | dsimp only
    | (simp only [inv_mk]; with_reducible apply canon_of)
    | split

theorem State.callListBody_inv {s : State} {site : Site} {o : OpenOp} (hInv : s.Inv) : (State.callListBody s site o).Inv := by
  unfold State.callListBody
  dsimp only
  split
  with_reducible apply issue_fault
  split
  with_reducible apply issue_fault
  with_reducible apply issue_ends
  with_reducible apply State.setQueue_inv
  with_reducible assumption

theorem State.branchBody_inv {s : State} {site : Site} {o : OpenOp} {target pushes : Bool} {act : QueueSt → Level → QueueSt} (hInv : s.Inv) : (State.branchBody s site o target pushes act).Inv := by
  unfold State.branchBody
  dsimp only
  split
  with_reducible apply issue_fault
  split
  split
  with_reducible exact issue_ends (by assumption)
  split
  with_reducible apply issue_fault
  with_reducible apply issue_ends
  with_reducible apply State.setQueue_inv
  with_reducible assumption
  split
  with_reducible exact issue_ends (by assumption)
  split
  with_reducible apply issue_fault
  with_reducible apply issue_ends
  with_reducible apply State.setQueue_inv
  with_reducible assumption

theorem execWatchNotify_inv {t : Nat} {e : Fin 96} {q : Fin 4} {note : Notice} {s : State} (hInv : s.Inv) : Keeps (execWatchNotify t e q note s) := by
  unfold execWatchNotify
  repeat' first
    | with_reducible assumption
    | with_reducible exact trivial
    | with_reducible apply keeps_next
    | with_reducible apply State.live_inv
    | with_reducible apply State.notify_inv
    | with_reducible intro _
    | dsimp only
    | (simp only [inv_mk]; with_reducible apply canon_of)

theorem execDescriptorFetch_inv {s : State} {t : Nat} {e : Fin 96} {q : Fin 4} {tail entry : FetchEnd} (hInv : s.Inv) : Keeps (execDescriptorFetch t e q tail entry s) := by
  unfold execDescriptorFetch
  with_reducible apply keeps_next
  with_reducible refine State.live_inv ?_ (fun _ _ => ?_)
  with_reducible assumption
  with_reducible exact State.fetch_inv (by assumption)

theorem execCallList_inv {s : State} {t : Nat} {e : Fin 96} {q : Fin 4} (hInv : s.Inv) : Keeps (execCallList t e q s) := by
  unfold execCallList
  with_reducible apply keeps_next
  with_reducible refine State.live_inv ?_ (fun _ _ => ?_)
  with_reducible assumption
  with_reducible refine State.issueNext_inv ?_ (fun _ _ _ _ => ?_)
  with_reducible assumption
  with_reducible exact State.callListBody_inv (by assumption)

theorem execBranchCall_inv {s : State} {t : Nat} {e : Fin 96} {q : Fin 4} (hInv : s.Inv) : Keeps (execBranchCall t e q s) := by
  unfold execBranchCall
  with_reducible apply keeps_next
  with_reducible refine State.live_inv ?_ (fun _ _ => ?_)
  with_reducible assumption
  with_reducible refine State.issueNext_inv ?_ (fun _ _ _ _ => ?_)
  with_reducible assumption
  with_reducible exact State.branchBody_inv (by assumption)

theorem execBranchJump_inv {s : State} {t : Nat} {e : Fin 96} {q : Fin 4} (hInv : s.Inv) : Keeps (execBranchJump t e q s) := by
  unfold execBranchJump
  with_reducible apply keeps_next
  with_reducible refine State.live_inv ?_ (fun _ _ => ?_)
  with_reducible assumption
  with_reducible refine State.issueNext_inv ?_ (fun _ _ _ _ => ?_)
  with_reducible assumption
  with_reducible exact State.branchBody_inv (by assumption)

theorem execBranchExit_inv {s : State} {t : Nat} {e : Fin 96} {q : Fin 4} (hInv : s.Inv) : Keeps (execBranchExit t e q s) := by
  unfold execBranchExit
  with_reducible apply keeps_next
  with_reducible refine State.live_inv ?_ (fun _ _ => ?_)
  with_reducible assumption
  with_reducible refine State.issueNext_inv ?_ (fun _ _ _ _ => ?_)
  with_reducible assumption
  with_reducible exact State.branchBody_inv (by assumption)

theorem State.setCsr_inv {s : State} {e : Nat} {c : KeeperCsr} (hInv : s.Inv) : (State.setCsr s e c).Inv := by
  unfold State.setCsr
  repeat' first
    | with_reducible assumption
    | with_reducible apply State.setEng_inv
    | with_reducible intro _
    | dsimp only
    | (simp only [inv_mk]; with_reducible apply canon_of)

/-- The state of a triple whose third part keeps the invariant. -/
theorem inv_of_third {β γ : Type} {p : β × γ × State} {b : β} {c : γ} {a : State} (e : p = (b, c, a)) (h : p.2.2.Inv) : a.Inv := by
  subst e; exact h

/-- What a run of the Keeper leaves keeps the invariant. -/
def RvEnd.Inv : RvEnd → Prop
  | .goes s _ => s.Inv
  | .emits s _ _ => s.Inv
  | .returns s _ => s.Inv
  | .traps s _ _ _ _ => s.Inv

theorem rv_goes {s : State} {r : Routine} (h : s.Inv) : (RvEnd.goes s r).Inv := h

theorem rv_emits {s : State} {r : Routine} {a : Nat} (h : s.Inv) : (RvEnd.emits s r a).Inv := h

theorem rv_returns {s : State} {r : Routine} (h : s.Inv) : (RvEnd.returns s r).Inv := h

theorem rv_traps {s : State} {r : Routine} {cause pc : Nat} {kemit : Option Nat} (h : s.Inv) : (RvEnd.traps s r cause pc kemit).Inv := h

theorem inv_of_goes {x : RvEnd} {s : State} {r : Routine} (e : x = .goes s r) (h : x.Inv) : s.Inv := by
  subst e; exact h

/-- What a part of a macro-op leaves keeps the invariant. -/
def PartInv : Except State (State × OpenOp) → Prop
  | .ok x => x.1.Inv
  | .error s => s.Inv

theorem part_ok {s : State} {o : OpenOp} (h : s.Inv) : PartInv (.ok (s, o)) := h

theorem part_error {s : State} (h : s.Inv) : PartInv (.error s) := h

theorem inv_of_part {x : Except State (State × OpenOp)} {s : State} {o : OpenOp} (e : x = .ok (s, o)) (h : PartInv x) : s.Inv := by
  subst e; exact h

theorem inv_of_left {x : Except State (State × OpenOp)} {s : State} (e : x = .error s) (h : PartInv x) : s.Inv := by
  subst e; exact h

theorem State.coreCycle_inv {s : State} {r : Routine} (hInv : s.Inv) : (s.coreCycle r).2.2.Inv := by
  unfold State.coreCycle
  repeat' first
    | with_reducible assumption
    | with_reducible apply State.freeNat_inv
    | with_reducible refine inv_of_snd (by with_reducible assumption) ?_
    | dsimp only
    | split
    | (simp only [inv_mk]; with_reducible apply canon_of)

theorem State.csrRead_inv {s s' : State} {e : Nat} {r r' : Routine} {o : OpenOp} {num : Nat} {v : Word}
    (h : s.csrRead e r o num = some (v, r', s')) (hInv : s.Inv) : s'.Inv := by
  unfold State.csrRead at h
  dsimp only at h
  repeat' split at h
  all_goals cases h
  all_goals first
    | exact hInv
    | exact inv_of_snd (by assumption) (State.freeNat_inv hInv)
    | exact inv_of_third (by assumption) (State.coreCycle_inv hInv)

theorem State.csrWrite_inv {s : State} {e : Nat} {r : Routine} {num : Nat} {v : Word} (hInv : s.Inv) : (State.csrWrite s e r num v).Inv := by
  unfold State.csrWrite
  repeat' first
    | with_reducible assumption
    | with_reducible apply State.setCsr_inv
    | with_reducible intro _
    | with_reducible refine ite_inv ?_ ?_
    | dsimp only
    | (simp only [inv_mk]; with_reducible apply canon_of)
    | split

theorem State.rvTrap_inv {s : State} {e : Nat} {r : Routine} {cause : Nat} {tval : Option Word} {kemit : Option Nat} (hInv : s.Inv) : (State.rvTrap s e r cause tval kemit).Inv := by
  unfold State.rvTrap
  repeat' first
    | with_reducible assumption
    | with_reducible apply State.freeNat_inv
    | with_reducible apply State.setCsr_inv
    | with_reducible refine inv_of_fst (by with_reducible assumption) ?_
    | with_reducible refine inv_of_snd (by with_reducible assumption) ?_
    | with_reducible apply rv_goes
    | with_reducible apply rv_emits
    | with_reducible apply rv_returns
    | with_reducible apply rv_traps
    | with_reducible refine inv_of_goes (by with_reducible assumption) ?_
    | with_reducible intro _
    | dsimp only
    | (simp only [inv_mk]; with_reducible apply canon_of)
    | split

theorem State.rvGo_inv {s : State} {e : Nat} {r : Routine} {pc : Word} (hInv : s.Inv) : (State.rvGo s e r pc).Inv := by
  unfold State.rvGo
  repeat' first
    | with_reducible assumption
    | with_reducible apply State.setCsr_inv
    | with_reducible apply rv_goes
    | with_reducible apply rv_emits
    | with_reducible apply rv_returns
    | with_reducible apply rv_traps
    | with_reducible refine inv_of_goes (by with_reducible assumption) ?_
    | with_reducible intro _
    | dsimp only
    | (simp only [inv_mk]; with_reducible apply canon_of)

theorem State.rvLoad_inv {s : State} {e : Nat} {r : Routine} {rd : Nat} {a : Nat} {n : Nat} {signed : Bool} {next : Word} (hInv : s.Inv) : (State.rvLoad s e r rd a n signed next).Inv := by
  unfold State.rvLoad
  repeat' first
    | with_reducible assumption
    | with_reducible apply State.rvTrap_inv
    | with_reducible apply State.rvGo_inv
    | with_reducible refine inv_of_fst (by with_reducible assumption) ?_
    | with_reducible refine inv_of_snd (by with_reducible assumption) ?_
    | with_reducible apply rv_goes
    | with_reducible apply rv_emits
    | with_reducible apply rv_returns
    | with_reducible apply rv_traps
    | with_reducible refine inv_of_goes (by with_reducible assumption) ?_
    | with_reducible intro _
    | with_reducible refine ite_inv ?_ ?_
    | with_reducible refine ite_inv_fst ?_ ?_
    | dsimp only
    | (simp only [inv_mk]; with_reducible apply canon_of)
    | split

theorem State.rvStore_inv {s : State} {e : Nat} {r : Routine} {a : Nat} {n : Nat} {v : Word} {next : Word} (hInv : s.Inv) : (State.rvStore s e r a n v next).Inv := by
  unfold State.rvStore
  repeat' first
    | with_reducible assumption
    | with_reducible apply State.rvTrap_inv
    | with_reducible apply State.rvGo_inv
    | with_reducible apply State.kstore_inv
    | with_reducible refine inv_of_fst (by with_reducible assumption) ?_
    | with_reducible refine inv_of_snd (by with_reducible assumption) ?_
    | with_reducible apply rv_goes
    | with_reducible apply rv_emits
    | with_reducible apply rv_returns
    | with_reducible apply rv_traps
    | with_reducible refine inv_of_goes (by with_reducible assumption) ?_
    | with_reducible intro _
    | with_reducible refine ite_inv ?_ ?_
    | with_reducible refine ite_inv_fst ?_ ?_
    | dsimp only
    | (simp only [inv_mk]; with_reducible apply canon_of)
    | split

theorem State.rvEmit_inv {s : State} {e : Nat} {r : Routine} {a : Nat} {rd : Nat} {old : Word} {next : Word} (hInv : s.Inv) : (State.rvEmit s e r a rd old next).Inv := by
  unfold State.rvEmit
  repeat' first
    | with_reducible assumption
    | with_reducible apply State.rvTrap_inv
    | with_reducible apply State.rvGo_inv
    | with_reducible refine inv_of_fst (by with_reducible assumption) ?_
    | with_reducible refine inv_of_snd (by with_reducible assumption) ?_
    | with_reducible apply rv_goes
    | with_reducible apply rv_emits
    | with_reducible apply rv_returns
    | with_reducible apply rv_traps
    | with_reducible refine inv_of_goes (by with_reducible assumption) ?_
    | with_reducible intro _
    | with_reducible refine ite_inv ?_ ?_
    | with_reducible refine ite_inv_fst ?_ ?_
    | dsimp only
    | (simp only [inv_mk]; with_reducible apply canon_of)
    | split

theorem State.rvCsr_inv {s : State} {e : Nat} {r : Routine} {o : OpenOp} {op : RvCsr} {imm : Bool} {rd src num : Nat} {next : Word}
    (hInv : s.Inv) : (State.rvCsr s e r o op imm rd src num next).Inv := by
  unfold State.rvCsr
  extract_lets writes
  split
  · exact State.rvTrap_inv hInv
  · split
    · exact State.rvTrap_inv hInv
    · rename_i e1
      have h1 := State.csrRead_inv e1 hInv
      extract_lets v0 v1
      split
      · exact State.rvEmit_inv h1
      · have h2 := fun r next => State.rvGo_inv (e := e) (r := r) (pc := next) h1
        split
        · exact rv_goes (ite_inv (State.csrWrite_inv (inv_of_goes (by assumption) (h2 _ _))) (inv_of_goes (by assumption) (h2 _ _)))
        · exact h2 _ _

theorem State.rvExec_inv {s : State} {e : Nat} {r : Routine} {o : OpenOp} {next : Word} {i : RvInst} (hInv : s.Inv) : (State.rvExec s e r o next i).Inv := by
  unfold State.rvExec
  repeat' first
    | with_reducible assumption
    | with_reducible apply State.rvGo_inv
    | with_reducible apply State.rvLoad_inv
    | with_reducible apply State.rvStore_inv
    | with_reducible apply State.setCsr_inv
    | with_reducible apply State.rvTrap_inv
    | with_reducible apply State.rvCsr_inv
    | with_reducible refine inv_of_fst (by with_reducible assumption) ?_
    | with_reducible refine inv_of_snd (by with_reducible assumption) ?_
    | with_reducible apply rv_goes
    | with_reducible apply rv_emits
    | with_reducible apply rv_returns
    | with_reducible apply rv_traps
    | with_reducible refine inv_of_goes (by with_reducible assumption) ?_
    | with_reducible intro _
    | with_reducible refine ite_inv ?_ ?_
    | with_reducible refine ite_inv_fst ?_ ?_
    | dsimp only
    | (simp only [inv_mk]; with_reducible apply canon_of)
    | split

theorem State.rvStep_inv {s : State} {e : Nat} {r : Routine} {o : OpenOp} (hInv : s.Inv) : (State.rvStep s e r o).Inv := by
  unfold State.rvStep
  repeat' first
    | with_reducible assumption
    | with_reducible apply State.rvTrap_inv
    | with_reducible apply State.rvExec_inv
    | with_reducible refine inv_of_fst (by with_reducible assumption) ?_
    | with_reducible refine inv_of_snd (by with_reducible assumption) ?_
    | with_reducible apply rv_goes
    | with_reducible apply rv_emits
    | with_reducible apply rv_returns
    | with_reducible apply rv_traps
    | with_reducible refine inv_of_goes (by with_reducible assumption) ?_
    | with_reducible intro _
    | with_reducible refine ite_inv ?_ ?_
    | with_reducible refine ite_inv_fst ?_ ?_
    | dsimp only
    | (simp only [inv_mk]; with_reducible apply canon_of)
    | split

theorem State.rvRun_inv {s : State} {e : Nat} {r : Routine} {o : OpenOp} {a4 : Nat} (hInv : s.Inv) : (State.rvRun s e r o a4).Inv := by
  induction a4 generalizing s e r o with
  | zero =>
    unfold State.rvRun
    repeat' first
      | with_reducible assumption
      | with_reducible apply State.rvStep_inv
      | with_reducible refine inv_of_fst (by with_reducible assumption) ?_
      | with_reducible refine inv_of_snd (by with_reducible assumption) ?_
      | with_reducible apply rv_goes
      | with_reducible apply rv_emits
      | with_reducible apply rv_returns
      | with_reducible apply rv_traps
      | with_reducible refine inv_of_goes (by with_reducible assumption) ?_
      | with_reducible intro _
      | dsimp only
      | (simp only [inv_mk]; with_reducible apply canon_of)
      | split
  | succ k ih =>
    unfold State.rvRun
    repeat' first
      | with_reducible assumption
      | with_reducible apply ih
      | with_reducible assumption
      | with_reducible apply State.rvStep_inv
      | with_reducible refine inv_of_fst (by with_reducible assumption) ?_
      | with_reducible refine inv_of_snd (by with_reducible assumption) ?_
      | with_reducible apply rv_goes
      | with_reducible apply rv_emits
      | with_reducible apply rv_returns
      | with_reducible apply rv_traps
      | with_reducible refine inv_of_goes (by with_reducible assumption) ?_
      | with_reducible intro _
      | dsimp only
      | (simp only [inv_mk]; with_reducible apply canon_of)
      | split

theorem State.rvStop_inv {s : State} {e : Nat} {r : Routine} {o : OpenOp} {a4 : Nat} (hInv : s.Inv) : (State.rvStop s e r o a4).Inv := by
  induction a4 generalizing s e r o with
  | zero =>
    unfold State.rvStop
    repeat' first
      | with_reducible assumption
      | with_reducible apply State.rvStep_inv
      | with_reducible refine inv_of_fst (by with_reducible assumption) ?_
      | with_reducible refine inv_of_snd (by with_reducible assumption) ?_
      | with_reducible refine inv_of_goes (by with_reducible assumption) ?_
      | with_reducible intro _
      | dsimp only
      | (simp only [inv_mk]; with_reducible apply canon_of)
      | split
  | succ k ih =>
    unfold State.rvStop
    repeat' first
      | with_reducible assumption
      | with_reducible apply ih
      | with_reducible assumption
      | with_reducible apply State.rvStep_inv
      | with_reducible refine inv_of_fst (by with_reducible assumption) ?_
      | with_reducible refine inv_of_snd (by with_reducible assumption) ?_
      | with_reducible refine inv_of_goes (by with_reducible assumption) ?_
      | with_reducible intro _
      | dsimp only
      | (simp only [inv_mk]; with_reducible apply canon_of)
      | split

theorem State.routineOver_inv {s : State} {e : Nat} (hInv : s.Inv) : (State.routineOver s e).Inv := by
  unfold State.routineOver
  simp only
  split
  with_reducible exact State.swapBanks_inv (State.setEng_inv (by assumption))
  with_reducible exact State.setEng_inv (by assumption)

theorem State.routineFails_inv {s : State} {e : Nat} {r : Routine} {o : OpenOp} {f : OpFault} (hInv : s.Inv) : (State.routineFails s e r o f).Inv := by
  unfold State.routineFails
  with_reducible exact State.endOp_inv (State.routineOver_inv (by assumption))

theorem State.keeperTrapped_inv {s : State} {e : Nat} {r : Routine} {o : OpenOp} {mcause mepc : Nat} (hInv : s.Inv) : (State.keeperTrapped s e r o mcause mepc).Inv := by
  unfold State.keeperTrapped
  with_reducible exact State.routineFails_inv (State.wr_inv (by assumption))

theorem State.routineReturns_inv {s : State} {e : Nat} {r : Routine} {o : OpenOp} (hInv : s.Inv) : (State.routineReturns s e r o).Inv := by
  unfold State.routineReturns
  simp only
  split
  with_reducible exact State.endOp_inv (State.routineOver_inv (by assumption))
  split
  with_reducible exact State.endOp_inv (State.routineOver_inv (by assumption))
  with_reducible exact State.endOp_inv (State.setQueue_inv (State.routineOver_inv (by assumption)))

theorem State.routineTimesOut_inv {s : State} {e : Nat} {r : Routine} {o : OpenOp} {n : Nat} (hInv : s.Inv) : (State.routineTimesOut s e r o n).Inv := by
  unfold State.routineTimesOut
  repeat' first
    | with_reducible assumption
    | with_reducible apply State.freeNat_inv
    | with_reducible apply State.routineFails_inv
    | with_reducible apply State.rvStop_inv
    | with_reducible refine inv_of_fst (by with_reducible assumption) ?_
    | with_reducible refine inv_of_snd (by with_reducible assumption) ?_
    | with_reducible intro _
    | dsimp only
    | (simp only [inv_mk]; with_reducible apply canon_of)
    | split

theorem State.runRoutine_inv {s : State} {e n : Nat} {f : OpenOp → RvEnd → State} (hInv : s.Inv) (h_f : ∀ (z0 : OpenOp) (z1 : RvEnd), z1.Inv → (f z0 z1).Inv) : (State.runRoutine s e n f).Inv := by
  unfold State.runRoutine
  repeat' first
    | with_reducible assumption
    | with_reducible apply h_f
    | with_reducible apply State.freeNat_inv
    | with_reducible apply State.routineTimesOut_inv
    | with_reducible apply State.rvRun_inv
    | with_reducible refine inv_of_fst (by with_reducible assumption) ?_
    | with_reducible refine inv_of_snd (by with_reducible assumption) ?_
    | with_reducible refine inv_of_goes (by with_reducible assumption) ?_
    | with_reducible intro _
    | with_reducible refine ite_inv ?_ ?_
    | dsimp only
    | (simp only [inv_mk]; with_reducible apply canon_of)
    | split

theorem State.callKeeperBody_inv {s : State} {site : Site} {o : OpenOp} (hInv : s.Inv) : (State.callKeeperBody s site o).Inv := by
  unfold State.callKeeperBody
  repeat' first
    | with_reducible assumption
    | with_reducible apply State.setEng_inv
    | with_reducible apply issueOf_inv
    | with_reducible apply issue_opens
    | with_reducible apply issue_ends
    | with_reducible apply issue_fault
    | with_reducible refine bodyInv_bind (fun _ => ?_)
    | with_reducible apply bodyInv_pure
    | with_reducible apply bodyInv_ok
    | with_reducible apply bodyInv_error
    | with_reducible refine inv_of_opens (by with_reducible assumption) ?_
    | with_reducible refine inv_of_ends (by with_reducible assumption) ?_
    | with_reducible intro _
    | dsimp only
    | (simp only [inv_mk]; with_reducible apply canon_of)
    | split

theorem execCallKeeper_inv {s : State} {t : Nat} {e : Fin 96} {q : Fin 4} (hInv : s.Inv) : Keeps (execCallKeeper t e q s) := by
  unfold execCallKeeper
  dsimp only
  split
  with_reducible exact keeps_next (State.advance_inv (by assumption))
  with_reducible apply keeps_next
  split
  with_reducible exact State.advance_inv (by assumption)
  with_reducible refine State.issueNext_inv ?_ (fun _ _ _ _ => ?_)
  with_reducible exact State.advance_inv (by assumption)
  with_reducible exact State.callKeeperBody_inv (by assumption)

theorem execKemit_inv {t n : Nat} {e : Fin 96} {addr : BitVec 64} {s : State} (hInv : s.Inv) : Keeps (execKemit t e n addr s) := by
  unfold execKemit
  repeat' first
    | with_reducible assumption
    | assumption
    | with_reducible exact trivial
    | with_reducible apply keeps_next
    | with_reducible apply State.live_inv
    | with_reducible apply State.runRoutine_inv
    | with_reducible apply State.setEng_inv
    | with_reducible apply State.keeperTrapped_inv
    | with_reducible refine inv_of_fst (by with_reducible assumption) ?_
    | with_reducible refine inv_of_snd (by with_reducible assumption) ?_
    | with_reducible refine inv_of_goes (by with_reducible assumption) ?_
    | with_reducible intro _
    | with_reducible refine ite_inv ?_ ?_
    | dsimp only
    | (simp only [inv_mk]; with_reducible apply canon_of)
    | split

theorem execKeeperReturn_inv {t n : Nat} {e : Fin 96} {a0 : BitVec 64} {s : State} (hInv : s.Inv) : Keeps (execKeeperReturn t e n a0 s) := by
  unfold execKeeperReturn
  repeat' first
    | with_reducible assumption
    | assumption
    | with_reducible exact trivial
    | with_reducible apply keeps_next
    | with_reducible apply State.live_inv
    | with_reducible apply State.runRoutine_inv
    | with_reducible apply State.routineReturns_inv
    | with_reducible apply State.routineFails_inv
    | with_reducible refine inv_of_fst (by with_reducible assumption) ?_
    | with_reducible refine inv_of_snd (by with_reducible assumption) ?_
    | with_reducible refine inv_of_goes (by with_reducible assumption) ?_
    | with_reducible intro _
    | with_reducible refine ite_inv ?_ ?_
    | with_reducible refine ite_inv_fst ?_ ?_
    | dsimp only
    | (simp only [inv_mk]; with_reducible apply canon_of)
    | split

theorem execKeeperTrap_inv {t n mcause mepc : Nat} {e : Fin 96} {s : State} (hInv : s.Inv) : Keeps (execKeeperTrap t e n mcause mepc s) := by
  unfold execKeeperTrap
  repeat' first
    | with_reducible assumption
    | assumption
    | with_reducible exact trivial
    | with_reducible apply keeps_next
    | with_reducible apply State.live_inv
    | with_reducible apply State.runRoutine_inv
    | with_reducible apply State.keeperTrapped_inv
    | with_reducible refine inv_of_fst (by with_reducible assumption) ?_
    | with_reducible refine inv_of_snd (by with_reducible assumption) ?_
    | with_reducible refine inv_of_goes (by with_reducible assumption) ?_
    | with_reducible intro _
    | with_reducible refine ite_inv ?_ ?_
    | dsimp only
    | (simp only [inv_mk]; with_reducible apply canon_of)
    | split

theorem execKeeperTimeout_inv {t n : Nat} {e : Fin 96} {s : State} (hInv : s.Inv) : Keeps (execKeeperTimeout t e n s) := by
  unfold execKeeperTimeout
  repeat' first
    | with_reducible assumption
    | with_reducible exact trivial
    | with_reducible apply keeps_next
    | with_reducible apply State.live_inv
    | with_reducible apply State.routineTimesOut_inv
    | with_reducible refine inv_of_fst (by with_reducible assumption) ?_
    | with_reducible refine inv_of_snd (by with_reducible assumption) ?_
    | with_reducible intro _
    | with_reducible refine ite_inv ?_ ?_
    | with_reducible refine ite_inv_fst ?_ ?_
    | dsimp only
    | (simp only [inv_mk]; with_reducible apply canon_of)
    | split

theorem State.checkFailed_inv {s : State} {e : Nat} {site : CheckSite} {parity hold : Bool} {part issue q : Nat} (hInv : s.Inv) : (State.checkFailed s e site parity hold part issue q).Inv := by
  unfold State.checkFailed
  with_reducible apply postFault_inv
  simp only [inv_mk]
  with_reducible apply canon_of
  with_reducible apply State.event_inv
  with_reducible apply State.wr_inv
  split
  with_reducible apply State.bump_inv
  split
  with_reducible exact State.setEng_inv (by assumption)
  with_reducible assumption
  with_reducible apply State.bump_inv
  split
  with_reducible exact State.setEng_inv (by assumption)
  with_reducible assumption

theorem State.strikeOp_inv {s : State} {e : Nat} {q : Nat} {o : OpenOp} {site : CheckSite} {parity : Bool} (hInv : s.Inv) : (State.strikeOp s e q o site parity).1.Inv := by
  unfold State.strikeOp
  repeat' first
    | with_reducible assumption
    | with_reducible apply State.checkFailed_inv
    | with_reducible intro _
    | with_reducible refine ite_inv ?_ ?_
    | with_reducible refine ite_inv_fst ?_ ?_
    | dsimp only
    | (simp only [inv_mk]; with_reducible apply canon_of)
    | split

theorem State.checkInOp_inv {s : State} {e : Nat} {q : Nat} {site : CheckSite} {parity : Bool} (hInv : s.Inv) : (State.checkInOp s e q site parity).Inv := by
  unfold State.checkInOp
  repeat' first
    | with_reducible assumption
    | with_reducible apply State.strikeOp_inv
    | with_reducible apply State.putOp_inv
    | with_reducible refine inv_of_fst (by with_reducible assumption) ?_
    | with_reducible refine inv_of_snd (by with_reducible assumption) ?_
    | with_reducible intro _
    | dsimp only
    | (simp only [inv_mk]; with_reducible apply canon_of)
    | split

theorem State.injected_inv {s : State} {e : Nat} {q : Nat} {o : OpenOp} (hInv : s.Inv) : (State.injected s e q o).1.Inv := by
  unfold State.injected
  repeat' first
    | with_reducible assumption
    | with_reducible apply State.strikeOp_inv
    | with_reducible refine inv_of_fst (by with_reducible assumption) ?_
    | with_reducible refine inv_of_snd (by with_reducible assumption) ?_
    | with_reducible intro _
    | with_reducible refine ite_inv ?_ ?_
    | with_reducible refine ite_inv_fst ?_ ?_
    | dsimp only
    | (simp only [inv_mk]; with_reducible apply canon_of)
    | split

theorem State.injectHeld_inv {s : State} {e : Nat} (hInv : s.Inv) : (State.injectHeld s e).Inv := by
  unfold State.injectHeld
  repeat' first
    | with_reducible assumption
    | with_reducible apply State.checkFailed_inv
    | with_reducible intro _
    | with_reducible refine ite_inv ?_ ?_
    | dsimp only
    | (simp only [inv_mk]; with_reducible apply canon_of)
    | split

theorem State.unitWork_inv {s : State} {site : Site} {o : OpenOp} {i : Nat} (hInv : s.Inv) : (State.unitWork s site o i).1.Inv := by
  unfold State.unitWork
  repeat' first
    | with_reducible assumption
    | with_reducible apply State.normUnit_inv
    | with_reducible apply State.normBwdUnit_inv
    | with_reducible apply State.smaxUnit_inv
    | with_reducible apply State.smaxBwdUnit_inv
    | with_reducible apply State.gateUnit_inv
    | with_reducible apply State.reduceUnit_inv
    | with_reducible apply State.scanUnit_inv
    | with_reducible apply State.poolUnit_inv
    | with_reducible apply State.fusedUnit_inv
    | with_reducible apply State.boxdecUnit_inv
    | with_reducible apply State.sortUnit_inv
    | with_reducible apply State.nmsUnit_inv
    | with_reducible apply State.copyUnit_inv
    | with_reducible intro _
    | with_reducible refine ite_inv ?_ ?_
    | with_reducible refine ite_inv_fst ?_ ?_
    | dsimp only
    | (simp only [inv_mk]; with_reducible apply canon_of)
    | split

theorem State.stepWork_inv {s : State} {site : Site} {o : OpenOp} (hInv : s.Inv) : (State.stepWork s site o).1.Inv := by
  unfold State.stepWork
  repeat' first
    | with_reducible assumption
    | with_reducible apply State.attnStep_inv
    | with_reducible apply State.convStep_inv
    | with_reducible apply State.mmaStep_inv
    | with_reducible apply State.runUnits_inv
    | with_reducible apply State.unitWork_inv
    | with_reducible refine inv_of_fst (by with_reducible assumption) ?_
    | with_reducible refine inv_of_snd (by with_reducible assumption) ?_
    | with_reducible intro _
    | with_reducible refine ite_inv ?_ ?_
    | with_reducible refine ite_inv_fst ?_ ?_
    | dsimp only
    | (simp only [inv_mk]; with_reducible apply canon_of)
    | split

theorem State.copyBatch_inv {s : State} {site : Site} {o : OpenOp} (hInv : s.Inv) : (State.copyBatch s site o).1.Inv := by
  unfold State.copyBatch
  repeat' first
    | with_reducible assumption
    | with_reducible apply State.copyRequests_inv
    | with_reducible refine inv_of_fst (by with_reducible assumption) ?_
    | with_reducible refine inv_of_snd (by with_reducible assumption) ?_
    | with_reducible intro _
    | with_reducible refine ite_inv ?_ ?_
    | with_reducible refine ite_inv_fst ?_ ?_
    | dsimp only
    | (simp only [inv_mk]; with_reducible apply canon_of)
    | split

theorem State.nextWork_inv {s : State} {site : Site} {o : OpenOp} (hInv : s.Inv) : (State.nextWork s site o).1.Inv := by
  unfold State.nextWork
  repeat' first
    | with_reducible assumption
    | with_reducible apply State.pulseLoaded_inv
    | with_reducible apply State.copyBatch_inv
    | with_reducible intro _
    | with_reducible refine ite_inv ?_ ?_
    | with_reducible refine ite_inv_fst ?_ ?_
    | dsimp only
    | (simp only [inv_mk]; with_reducible apply canon_of)
    | split

theorem State.lastWork_inv {s : State} {site : Site} {o : OpenOp} (hInv : s.Inv) : (State.lastWork s site o).1.Inv := by
  unfold State.lastWork
  repeat' first
    | with_reducible assumption
    | with_reducible apply State.nextWork_inv
    | with_reducible apply State.runUnits_inv
    | with_reducible apply State.unitWork_inv
    | with_reducible intro _
    | with_reducible refine ite_inv ?_ ?_
    | with_reducible refine ite_inv_fst ?_ ?_
    | dsimp only
    | (simp only [inv_mk]; with_reducible apply canon_of)
    | split

theorem State.tileWork_inv {s : State} {site : Site} {o : OpenOp} (hInv : s.Inv) : (State.tileWork s site o).1.Inv := by
  unfold State.tileWork
  repeat' first
    | with_reducible assumption
    | with_reducible apply State.convWriteback_inv
    | with_reducible apply State.mmaWriteback_inv
    | with_reducible intro _
    | with_reducible refine ite_inv ?_ ?_
    | with_reducible refine ite_inv_fst ?_ ?_
    | dsimp only
    | (simp only [inv_mk]; with_reducible apply canon_of)
    | split

theorem State.atDest_inv {s : State} {e : Nat} {o : OpenOp} (hInv : s.Inv) : (State.atDest s e o).Inv := by
  unfold State.atDest
  repeat' first
    | with_reducible assumption
    | with_reducible apply State.inOrder_inv
    | with_reducible refine foldl_inv (fun _ _ _ => ?_) ?_
    | with_reducible refine foldl_inv_fst (fun _ _ _ => ?_) ?_
    | with_reducible intro _
    | dsimp only
    | (simp only [inv_mk]; with_reducible apply canon_of)

theorem State.runPart_inv {s : State} {site : Site} {o : OpenOp} {f : State → Site → OpenOp → State × OpenOp} (hInv : s.Inv)
    (hf : ∀ s site o, s.Inv → (f s site o).1.Inv) : PartInv (s.runPart site o f) := by
  unfold State.runPart
  repeat' first
    | with_reducible assumption
    | with_reducible apply part_ok
    | with_reducible apply part_error
    | with_reducible apply hf
    | with_reducible apply State.askSector_inv
    | with_reducible apply State.atDest_inv
    | with_reducible apply State.ownWrites_inv
    | with_reducible apply State.blur_inv
    | with_reducible refine inv_of_fst (by with_reducible assumption) ?_
    | dsimp only
    | split
    | (simp only [inv_mk]; with_reducible apply canon_of)

theorem State.goOn_inv {s : State} {site : Site} {o : OpenOp} (hInv : s.Inv) : (State.goOn s site o).Inv := by
  unfold State.goOn
  repeat' first
    | with_reducible assumption
    | with_reducible refine inv_of_part (by with_reducible assumption) ?_
    | with_reducible refine inv_of_left (by with_reducible assumption) ?_
    | with_reducible apply part_ok
    | with_reducible apply State.gatherResume_inv
    | with_reducible apply State.runPart_inv
    | with_reducible apply State.nextWork_inv
    | with_reducible apply State.copyProgress_inv
    | with_reducible apply State.putOp_inv
    | with_reducible refine inv_of_fst (by with_reducible assumption) ?_
    | with_reducible refine inv_of_snd (by with_reducible assumption) ?_
    | with_reducible intro _
    | with_reducible refine ite_inv ?_ ?_
    | dsimp only
    | (simp only [inv_mk]; with_reducible apply canon_of)
    | split

theorem State.countIssue_inv {s : State} {e : Nat} {o : OpenOp} (hInv : s.Inv) : (State.countIssue s e o).Inv := by
  unfold State.countIssue
  repeat' first
    | with_reducible assumption
    | with_reducible apply State.bump_inv
    | with_reducible intro _
    | dsimp only
    | (simp only [inv_mk]; with_reducible apply canon_of)

theorem State.stopOp_inv {s : State} {site : Site} {o : OpenOp} {f : Option OpFault} (hInv : s.Inv) : (State.stopOp s site o f).Inv := by
  unfold State.stopOp
  repeat' first
    | with_reducible assumption
    | with_reducible apply State.clearSector_inv
    | with_reducible apply State.stopOpen_inv
    | with_reducible apply State.redPart_inv
    | with_reducible refine inv_of_fst (by with_reducible assumption) ?_
    | with_reducible refine inv_of_snd (by with_reducible assumption) ?_
    | with_reducible intro _
    | with_reducible refine ite_inv ?_ ?_
    | dsimp only
    | (simp only [inv_mk]; with_reducible apply canon_of)
    | split

theorem State.sample_inv {s : State} {site : Site} {o : OpenOp} (hInv : s.Inv) : (State.sample s site o).Inv := by
  unfold State.sample
  repeat' first
    | with_reducible assumption
    | with_reducible apply State.stopOp_inv
    | with_reducible apply State.preempt_inv
    | with_reducible apply State.goOn_inv
    | with_reducible refine inv_of_fst (by with_reducible assumption) ?_
    | with_reducible refine inv_of_snd (by with_reducible assumption) ?_
    | with_reducible intro _
    | (extract_lets +onlyGivenNames z; with_reducible apply inv_let (z := z); (case' val => (dsimp only [z]; try clear z)); (case' main => (intro hz; clear_value z)))
    | (extract_lets +onlyGivenNames z; with_reducible apply inv_let (z := z.1); (case' val => (dsimp only [z]; try clear z)); (case' main => (intro hz; clear_value z)))
    | (extract_lets +onlyGivenNames z; with_reducible apply inv_let (z := z.2); (case' val => (dsimp only [z]; try clear z)); (case' main => (intro hz; clear_value z)))
    | (extract_lets +onlyGivenNames z; clear_value z)
    | split
    | with_reducible refine ite_inv ?_ ?_
    | dsimp only
    | (simp only [inv_mk]; with_reducible apply canon_of)
    | split

theorem State.stepBoundary_inv {s : State} {site : Site} {o : OpenOp} (hInv : s.Inv) : (State.stepBoundary s site o).Inv := by
  unfold State.stepBoundary
  repeat' first
    | with_reducible assumption
    | with_reducible refine inv_of_part (by with_reducible assumption) ?_
    | with_reducible refine inv_of_left (by with_reducible assumption) ?_
    | with_reducible apply part_ok
    | with_reducible apply State.gatherResume_inv
    | with_reducible apply State.goOn_inv
    | with_reducible apply State.injected_inv
    | with_reducible apply State.runPart_inv
    | with_reducible apply State.stepWork_inv
    | with_reducible apply State.sample_inv
    | with_reducible apply State.putOp_inv
    | with_reducible apply State.countIssue_inv
    | with_reducible refine inv_of_fst (by with_reducible assumption) ?_
    | with_reducible refine inv_of_snd (by with_reducible assumption) ?_
    | with_reducible intro _
    | with_reducible refine ite_inv ?_ ?_
    | dsimp only
    | (simp only [inv_mk]; with_reducible apply canon_of)
    | split

theorem State.lastReds_inv {s : State} {site : Site} {o : OpenOp} (hInv : s.Inv) : (State.lastReds s site o).1.Inv := by
  unfold State.lastReds
  repeat' first
    | with_reducible assumption
    | with_reducible apply State.owning_inv
    | with_reducible apply State.redAdd_inv
    | with_reducible refine foldl_inv (fun _ _ _ => ?_) ?_
    | with_reducible refine foldl_inv_fst (fun _ _ _ => ?_) ?_
    | with_reducible intro _
    | with_reducible refine ite_inv ?_ ?_
    | with_reducible refine ite_inv_fst ?_ ?_
    | dsimp only
    | (simp only [inv_mk]; with_reducible apply canon_of)
    | split

theorem State.commitOp_inv {s : State} {site : Site} {o : OpenOp} (hInv : s.Inv) : (State.commitOp s site o).Inv := by
  unfold State.commitOp
  repeat' first
    | with_reducible assumption
    | with_reducible apply State.admitOp_inv
    | with_reducible apply State.putOp_inv
    | with_reducible apply State.settleTags_inv
    | with_reducible apply State.endOp_inv
    | with_reducible apply State.fencePoint_inv
    | with_reducible refine inv_of_fst (by with_reducible assumption) ?_
    | with_reducible refine inv_of_snd (by with_reducible assumption) ?_
    | with_reducible intro _
    | with_reducible refine ite_inv ?_ ?_
    | dsimp only
    | (simp only [inv_mk]; with_reducible apply canon_of)
    | split

theorem State.finishOp_inv {s : State} {site : Site} {o : OpenOp} (hInv : s.Inv) : (State.finishOp s site o).Inv := by
  unfold State.finishOp
  repeat' first
    | with_reducible assumption
    | with_reducible apply State.stopOp_inv
    | with_reducible apply State.lastReds_inv
    | with_reducible apply State.commitOp_inv
    | with_reducible apply State.putOp_inv
    | with_reducible refine inv_of_fst (by with_reducible assumption) ?_
    | with_reducible refine inv_of_snd (by with_reducible assumption) ?_
    | with_reducible intro _
    | (extract_lets +onlyGivenNames z; with_reducible apply inv_let (z := z); (case' val => (dsimp only [z]; try clear z)); (case' main => (intro hz; clear_value z)))
    | (extract_lets +onlyGivenNames z; with_reducible apply inv_let (z := z.1); (case' val => (dsimp only [z]; try clear z)); (case' main => (intro hz; clear_value z)))
    | (extract_lets +onlyGivenNames z; with_reducible apply inv_let (z := z.2); (case' val => (dsimp only [z]; try clear z)); (case' main => (intro hz; clear_value z)))
    | (extract_lets +onlyGivenNames z; clear_value z)
    | split
    | with_reducible refine ite_inv ?_ ?_
    | dsimp only
    | (simp only [inv_mk]; with_reducible apply canon_of)
    | split

theorem State.tryCommit_inv {s : State} {site : Site} {o : OpenOp} (hInv : s.Inv) : (State.tryCommit s site o).Inv := by
  unfold State.tryCommit
  repeat' first
    | with_reducible assumption
    | with_reducible refine inv_of_part (by with_reducible assumption) ?_
    | with_reducible refine inv_of_left (by with_reducible assumption) ?_
    | with_reducible apply part_ok
    | with_reducible apply State.gatherResume_inv
    | with_reducible apply State.stopOp_inv
    | with_reducible apply State.runPart_inv
    | with_reducible apply State.lastWork_inv
    | with_reducible apply State.injected_inv
    | with_reducible apply State.finishOp_inv
    | with_reducible apply State.putOp_inv
    | with_reducible refine inv_of_fst (by with_reducible assumption) ?_
    | with_reducible refine inv_of_snd (by with_reducible assumption) ?_
    | with_reducible intro _
    | with_reducible refine ite_inv ?_ ?_
    | dsimp only
    | (simp only [inv_mk]; with_reducible apply canon_of)
    | split

theorem State.holdExpiry_inv {s : State} {e : Nat} (hInv : s.Inv) : (State.holdExpiry s e).Inv := by
  unfold State.holdExpiry
  repeat' first
    | with_reducible assumption
    | with_reducible apply State.bump_inv
    | with_reducible apply State.setEng_inv
    | with_reducible refine inv_of_fst (by with_reducible assumption) ?_
    | with_reducible refine inv_of_snd (by with_reducible assumption) ?_
    | with_reducible intro _
    | with_reducible refine ite_inv ?_ ?_
    | dsimp only
    | (simp only [inv_mk]; with_reducible apply canon_of)
    | split

theorem State.rampStep_inv {s : State} {e : Nat} (hInv : s.Inv) : (State.rampStep s e).Inv := by
  unfold State.rampStep
  repeat' first
    | with_reducible assumption
    | with_reducible apply State.setEng_inv
    | with_reducible apply State.injectHeld_inv
    | with_reducible apply State.bump_inv
    | with_reducible refine inv_of_fst (by with_reducible assumption) ?_
    | with_reducible refine inv_of_snd (by with_reducible assumption) ?_
    | with_reducible intro _
    | with_reducible refine ite_inv ?_ ?_
    | dsimp only
    | (simp only [inv_mk]; with_reducible apply canon_of)
    | split

theorem State.dutyStep_inv {s : State} {e : Nat} (hInv : s.Inv) : (State.dutyStep s e).Inv := by
  unfold State.dutyStep
  repeat' first
    | with_reducible assumption
    | with_reducible apply State.setEng_inv
    | with_reducible intro _
    | with_reducible refine ite_inv ?_ ?_
    | dsimp only
    | (simp only [inv_mk]; with_reducible apply canon_of)
    | split

theorem State.drainTile_inv {s : State} {site : Site} {o : OpenOp} (hInv : s.Inv) : (State.drainTile s site o).Inv := by
  unfold State.drainTile
  repeat' first
    | with_reducible assumption
    | with_reducible refine inv_of_part (by with_reducible assumption) ?_
    | with_reducible refine inv_of_left (by with_reducible assumption) ?_
    | with_reducible apply part_ok
    | with_reducible apply State.runPart_inv
    | with_reducible apply State.tileWork_inv
    | with_reducible apply State.nextTile_inv
    | with_reducible apply State.putOp_inv
    | with_reducible refine inv_of_fst (by with_reducible assumption) ?_
    | with_reducible refine inv_of_snd (by with_reducible assumption) ?_
    | with_reducible intro _
    | with_reducible refine ite_inv ?_ ?_
    | dsimp only
    | (simp only [inv_mk]; with_reducible apply canon_of)
    | split

theorem State.withOp_inv {s : State} {e : Nat} {q : Nat} {k : Nat} {f : State → Site → OpenOp → State} (hInv : s.Inv) (h_f : ∀ (z0 : State) (z1 : Site) (z2 : OpenOp), z0.Inv → (f z0 z1 z2).Inv) : (State.withOp s e q k f).Inv := by
  unfold State.withOp
  repeat' first
    | with_reducible assumption
    | with_reducible apply h_f
    | with_reducible apply State.takeRemoteErr_inv
    | with_reducible refine inv_of_fst (by with_reducible assumption) ?_
    | with_reducible refine inv_of_snd (by with_reducible assumption) ?_
    | with_reducible intro _
    | dsimp only
    | (simp only [inv_mk]; with_reducible apply canon_of)
    | split

theorem execTileWriteback_inv {t : Nat} {e : Fin 96} {q : Fin 4} {k : Fin 2} {s : State} (hInv : s.Inv) : Keeps (execTileWriteback t e q k s) := by
  unfold execTileWriteback
  repeat' first
    | with_reducible assumption
    | with_reducible exact trivial
    | with_reducible apply keeps_next
    | with_reducible apply State.live_inv
    | with_reducible apply State.withOp_inv
    | with_reducible apply State.drainTile_inv
    | with_reducible intro _
    | dsimp only
    | (simp only [inv_mk]; with_reducible apply canon_of)

theorem execStepBoundary_inv {t : Nat} {e : Fin 96} {q : Fin 4} {k : Fin 2} {s : State} (hInv : s.Inv) : Keeps (execStepBoundary t e q k s) := by
  unfold execStepBoundary
  repeat' first
    | with_reducible assumption
    | with_reducible exact trivial
    | with_reducible apply keeps_next
    | with_reducible apply State.live_inv
    | with_reducible apply State.withOp_inv
    | with_reducible apply State.stepBoundary_inv
    | with_reducible intro _
    | with_reducible refine ite_inv ?_ ?_
    | with_reducible refine ite_inv_fst ?_ ?_
    | dsimp only
    | (simp only [inv_mk]; with_reducible apply canon_of)
    | split

theorem execMacroOpCommit_inv {t : Nat} {e : Fin 96} {q : Fin 4} {k : Fin 2} {s : State} (hInv : s.Inv) : Keeps (execMacroOpCommit t e q k s) := by
  unfold execMacroOpCommit
  repeat' first
    | with_reducible assumption
    | with_reducible exact trivial
    | with_reducible apply keeps_next
    | with_reducible apply State.live_inv
    | with_reducible apply State.withOp_inv
    | with_reducible apply State.inOrder_inv
    | with_reducible apply State.tryCommit_inv
    | with_reducible intro _
    | dsimp only
    | (simp only [inv_mk]; with_reducible apply canon_of)

theorem execResidueCheckFail_inv {t : Nat} {e : Fin 96} {q : Option (Fin 4)} {site : CheckSite} {parity : Bool} {s : State} (hInv : s.Inv) : Keeps (execResidueCheckFail t e q site parity s) := by
  unfold execResidueCheckFail
  repeat' first
    | with_reducible assumption
    | with_reducible exact trivial
    | with_reducible apply keeps_next
    | with_reducible apply State.live_inv
    | with_reducible apply State.checkInOp_inv
    | with_reducible apply State.checkFailed_inv
    | with_reducible refine inv_of_fst (by with_reducible assumption) ?_
    | with_reducible refine inv_of_snd (by with_reducible assumption) ?_
    | with_reducible intro _
    | with_reducible refine ite_inv ?_ ?_
    | with_reducible refine ite_inv_fst ?_ ?_
    | dsimp only
    | (simp only [inv_mk]; with_reducible apply canon_of)
    | split

theorem execHoldExpiry_inv {s : State} {t : Nat} {e : Fin 96} (hInv : s.Inv) : Keeps (execHoldExpiry t e s) := by
  unfold execHoldExpiry
  with_reducible apply keeps_next
  with_reducible refine State.live_inv ?_ (fun _ _ => ?_)
  with_reducible assumption
  with_reducible exact State.holdExpiry_inv (by assumption)

theorem execRampStep_inv {s : State} {t : Nat} {e : Fin 96} (hInv : s.Inv) : Keeps (execRampStep t e s) := by
  unfold execRampStep
  with_reducible apply keeps_next
  with_reducible refine State.live_inv ?_ (fun _ _ => ?_)
  with_reducible assumption
  with_reducible exact State.rampStep_inv (by assumption)

theorem execDutyStep_inv {s : State} {t : Nat} {e : Fin 96} (hInv : s.Inv) : Keeps (execDutyStep t e s) := by
  unfold execDutyStep
  with_reducible apply keeps_next
  with_reducible refine State.live_inv ?_ (fun _ _ => ?_)
  with_reducible assumption
  with_reducible exact State.dutyStep_inv (by assumption)

theorem State.firstTail_inv {s : State} {e q : Nat} (hInv : s.Inv) : (State.firstTail s e q).Inv := by
  unfold State.firstTail
  simp only
  split
  with_reducible exact State.settle_inv (by assumption)
  with_reducible exact State.readTail_inv (State.setQueue_inv (by assumption))

theorem State.enableQueue_inv {s : State} {e q v : Nat} (hInv : s.Inv) : (State.enableQueue s e q v).Inv := by
  unfold State.enableQueue
  with_reducible exact State.firstTail_inv (State.writeStatusLine_inv (State.setQueue_inv (State.wr_inv (by assumption))))

theorem State.writeQCfg_inv {s : State} {e q v : Nat} (hInv : s.Inv) : (State.writeQCfg s e q v).Inv := by
  unfold State.writeQCfg
  simp only
  split
  split
  with_reducible exact State.wr_inv (by assumption)
  split
  with_reducible exact State.enableQueue_inv (by assumption)
  with_reducible exact State.regAccess_inv (by assumption)
  split
  with_reducible exact State.settle_inv (State.setQueue_inv (State.wr_inv (by assumption)))
  with_reducible exact State.regAccess_inv (by assumption)

theorem State.abortQueue_inv {s : State} {e : Nat} {q : Nat} (hInv : s.Inv) : (State.abortQueue s e q).Inv := by
  unfold State.abortQueue
  repeat' first
    | with_reducible assumption
    | with_reducible apply State.setQueue_inv
    | with_reducible apply State.haltQueue_inv
    | with_reducible intro _
    | with_reducible refine ite_inv ?_ ?_
    | dsimp only
    | (simp only [inv_mk]; with_reducible apply canon_of)
    | split

theorem State.abortCtx_inv {s : State} {e : Nat} {k : Nat} (hInv : s.Inv) : (State.abortCtx s e k).Inv := by
  unfold State.abortCtx
  repeat' first
    | with_reducible assumption
    | with_reducible apply State.dropSaved_inv
    | with_reducible apply State.abortQueue_inv
    | with_reducible apply State.abortInHatch_inv
    | with_reducible refine inv_of_fst (by with_reducible assumption) ?_
    | with_reducible refine inv_of_snd (by with_reducible assumption) ?_
    | with_reducible intro _
    | dsimp only
    | (simp only [inv_mk]; with_reducible apply canon_of)
    | split

theorem State.resetQueue_inv {s : State} {e q : Nat} (hInv : s.Inv) : (State.resetQueue s e q).Inv := by
  unfold State.resetQueue
  simp only
  split
  with_reducible apply State.firstTail_inv
  with_reducible apply State.setQueue_inv
  split
  with_reducible apply State.setCtx_inv
  with_reducible refine foldl_inv (fun _ _ _ => ?_) ?_
  with_reducible exact State.returnCredit_inv (by assumption)
  with_reducible assumption
  with_reducible refine foldl_inv (fun _ _ _ => ?_) ?_
  with_reducible exact State.returnCredit_inv (by assumption)
  with_reducible assumption
  with_reducible exact State.regAccess_inv (by assumption)

theorem State.resumeQueue_inv {s : State} {e q : Nat} (hInv : s.Inv) : (State.resumeQueue s e q).Inv := by
  unfold State.resumeQueue
  simp only
  split
  with_reducible exact State.settle_inv (State.setQueue_inv (by assumption))
  with_reducible assumption

theorem State.writeQCtrl_inv {s : State} {e q v : Nat} (hInv : s.Inv) : (State.writeQCtrl s e q v).Inv := by
  unfold State.writeQCtrl
  simp only
  split
  with_reducible apply State.resumeQueue_inv
  split
  with_reducible apply State.resetQueue_inv
  split
  with_reducible exact State.abortQueue_inv (by assumption)
  with_reducible assumption
  split
  with_reducible exact State.abortQueue_inv (by assumption)
  with_reducible assumption
  split
  with_reducible apply State.resetQueue_inv
  split
  with_reducible exact State.abortQueue_inv (by assumption)
  with_reducible assumption
  split
  with_reducible exact State.abortQueue_inv (by assumption)
  with_reducible assumption

theorem State.writeImemSwap_inv {s : State} {e v : Nat} (hInv : s.Inv) : (State.writeImemSwap s e v).Inv := by
  unfold State.writeImemSwap
  simp only
  split
  with_reducible exact State.setEng_inv (by assumption)
  with_reducible assumption

theorem State.imemStore_inv {s : State} {e bank ofs : Nat} {bs : List Byte} (hInv : s.Inv) : (State.imemStore s e bank ofs bs).Inv := by
  unfold State.imemStore
  simp only [inv_mk]
  with_reducible exact canon_imem (by assumption)

theorem State.writeImemWin_inv {s : State} {e i v : Nat} (hInv : s.Inv) : (State.writeImemWin s e i v).Inv := by
  unfold State.writeImemWin
  simp only
  split
  with_reducible exact postFault_inv (State.event_inv (by assumption))
  with_reducible exact State.imemStore_inv (by assumption)

end Sys2Proof.Machine
end

