-- ==== Sys2Proof/Laws/InvContexts.lean ====
section
/-! SUPPORT. The invariant of State through contexts, job rings, self-test and NOR: every operation and every command of these files keeps it. -/

namespace Sys2Proof.Machine

theorem State.fixHatch_inv {s : State} {n : Nat} (hInv : s.Inv) : (State.fixHatch s n).Inv := by
  unfold State.fixHatch
  simp only
  split
  with_reducible exact postFault_inv (State.event_inv (State.setFld_inv (State.setFld_inv (State.wr_inv (by assumption)))))
  with_reducible exact State.setFld_inv (State.setFld_inv (State.wr_inv (by assumption)))

theorem State.putQRegs_inv {s : State} {e q : Nat} {c : Ctx} (hInv : s.Inv) : (State.putQRegs s e q c).Inv := by
  unfold State.putQRegs
  with_reducible exact State.wr_inv (State.wr_inv (State.wr_inv (State.wr_inv (State.wr_inv (by assumption)))))

theorem State.putDataSlot_inv {s : State} {e q : Nat} {bs : List (Nat × Byte)} (hInv : s.Inv) : (s.putDataSlot e q bs).Inv := by
  have fold : ∀ (lo : Nat) (l : List (Nat × Byte)) (m : List (Nat × Byte)), tabWf (fun _ => (0 : Byte)) m = true →
      tabWf (fun _ => (0 : Byte)) (l.foldl (fun m x => tabSet (fun _ => 0) m (lo + x.1) x.2) m) = true := by
    intro lo l
    induction l with
    | nil => intro m h; exact h
    | cons y l ih => intro m h; exact ih _ (tabSet_wf h)
  exact ⟨hInv.1, hInv.2.1, { hInv.2.2 with kdata := fold _ _ _ (tabFilter_wf hInv.2.2.kdata) }⟩

theorem State.enterSlot_inv {s : State} {e k q : Nat} (hInv : s.Inv) : (State.enterSlot s e k q).Inv := by
  unfold State.enterSlot
  with_reducible exact State.setCtx_inv (State.putDataSlot_inv (State.setQueue_inv (State.putQRegs_inv (by assumption))))

theorem State.leaveSlot_inv {s : State} {e k : Nat} {place : CtxPlace} (hInv : s.Inv) : (State.leaveSlot s e k place).Inv := by
  unfold State.leaveSlot
  with_reducible exact State.putQRegs_inv (State.setQueue_inv (State.setCtx_inv (by assumption)))

theorem State.countSwap_inv {s : State} (hInv : s.Inv) : (State.countSwap s).Inv := by
  unfold State.countSwap
  with_reducible exact State.bump_inv (by assumption)

theorem State.breach_inv {s : State} {p : Nat} (hInv : s.Inv) : (State.breach s p).Inv := by
  unfold State.breach
  repeat' first
    | with_reducible assumption
    | with_reducible intro _
    | with_reducible refine ite_inv ?_ ?_
    | dsimp only
    | (simp only [inv_mk]; with_reducible apply canon_of)
    | split

theorem State.createCtx_inv {s : State} {e : Nat} {k : Nat} {v : Nat} (hInv : s.Inv) : (State.createCtx s e k v).Inv := by
  unfold State.createCtx
  repeat' first
    | with_reducible assumption
    | with_reducible apply State.setCtx_inv
    | with_reducible apply State.breach_inv
    | with_reducible apply State.writeStatusLine_inv
    | with_reducible apply State.enterSlot_inv
    | with_reducible refine inv_of_fst (by with_reducible assumption) ?_
    | with_reducible refine inv_of_snd (by with_reducible assumption) ?_
    | with_reducible intro _
    | with_reducible refine ite_inv ?_ ?_
    | dsimp only
    | (simp only [inv_mk]; with_reducible apply canon_of)
    | split

theorem State.deleteCtx_inv {s : State} {e k v : Nat} (hInv : s.Inv) : (State.deleteCtx s e k v).Inv := by
  unfold State.deleteCtx
  with_reducible apply State.setCtx_inv
  split
  with_reducible exact State.leaveSlot_inv (by assumption)
  with_reducible assumption

theorem State.writeCtxCfg_inv {s : State} {v : Nat} (hInv : s.Inv) : (State.writeCtxCfg s v).Inv := by
  unfold State.writeCtxCfg
  simp only
  split
  with_reducible exact State.regAccess_inv (by assumption)
  split
  split
  with_reducible exact State.createCtx_inv (by assumption)
  with_reducible exact State.setCtx_inv (by assumption)
  split
  with_reducible exact State.regAccess_inv (by assumption)
  split
  with_reducible exact State.setCtx_inv (by assumption)
  split
  with_reducible exact State.deleteCtx_inv (by assumption)
  with_reducible exact State.regAccess_inv (by assumption)

theorem State.writeCtxQ_inv {s : State} {i v : Nat} (hInv : s.Inv) : (State.writeCtxQ s i v).Inv := by
  unfold State.writeCtxQ
  simp only
  split
  with_reducible exact State.regAccess_inv (by assumption)
  with_reducible exact State.setCtx_inv (by assumption)

theorem State.loseCtx_inv {s : State} {e k da : Nat} (hInv : s.Inv) : (State.loseCtx s e k da).Inv := by
  unfold State.loseCtx
  with_reducible exact postFault_inv (State.setCtx_inv (State.abortInHatch_inv (by assumption)))

theorem State.loseDisplaced_inv {s : State} {gone : Nat → Bool} (hInv : s.Inv) : (s.loseDisplaced gone).Inv := by
  unfold State.loseDisplaced
  refine foldl_inv (fun s x h => ?_) hInv
  extract_lets e k
  clear_value e k
  split
  · exact h
  · generalize List.find? _ (List.range 1024) = y
    cases y with
    | none => exact h
    | some i => exact State.loseCtx_inv h

theorem State.releaseCtx_inv {s : State} {e : Nat} {k : Nat} (hInv : s.Inv) : (State.releaseCtx s e k).Inv := by
  unfold State.releaseCtx
  repeat' first
    | with_reducible assumption
    | with_reducible apply State.setCtx_inv
    | with_reducible intro _
    | dsimp only
    | (simp only [inv_mk]; with_reducible apply canon_of)

theorem State.abortContext_inv {s : State} {e : Nat} {k : Nat} (hInv : s.Inv) : (State.abortContext s e k).Inv := by
  unfold State.abortContext
  repeat' first
    | with_reducible assumption
    | with_reducible apply State.inOrder_inv
    | with_reducible apply State.abortQueue_inv
    | with_reducible apply State.releaseCtx_inv
    | with_reducible apply State.stopOpen_inv
    | with_reducible apply State.abortInHatch_inv
    | with_reducible refine inv_of_fst (by with_reducible assumption) ?_
    | with_reducible refine inv_of_snd (by with_reducible assumption) ?_
    | with_reducible refine foldl_inv (fun _ _ _ => ?_) ?_
    | with_reducible refine foldl_inv_fst (fun _ _ _ => ?_) ?_
    | with_reducible intro _
    | with_reducible refine ite_inv ?_ ?_
    | dsimp only
    | (simp only [inv_mk]; with_reducible apply canon_of)
    | split

theorem State.evict_inv {s : State} {e k : Nat} (hInv : s.Inv) : (State.evict s e k).Inv := by
  unfold State.evict
  simp only
  split
  with_reducible exact State.countSwap_inv (State.leaveSlot_inv (by assumption))
  with_reducible assumption

theorem State.writeCtxCtrl_inv {s : State} {v : Nat} (hInv : s.Inv) : (State.writeCtxCtrl s v).Inv := by
  unfold State.writeCtxCtrl
  simp only
  split
  with_reducible exact State.regAccess_inv (by assumption)
  split
  with_reducible apply State.evict_inv
  split
  with_reducible assumption
  split
  with_reducible exact State.regAccess_inv (by assumption)
  with_reducible exact State.abortContext_inv (by assumption)
  split
  with_reducible assumption
  split
  with_reducible exact State.regAccess_inv (by assumption)
  with_reducible exact State.abortContext_inv (by assumption)

theorem State.landAll_inv {s : State} {e k : Nat} (hInv : s.Inv) : (State.landAll s e k).Inv := by
  unfold State.landAll
  with_reducible refine foldl_inv (fun _ _ _ => ?_) ?_
  with_reducible exact State.gatherResume_inv (State.copyProgress_inv (by assumption))
  with_reducible refine foldl_inv (fun _ _ _ => ?_) ?_
  with_reducible exact State.landData_inv (by assumption)
  with_reducible exact State.setCtx_inv (by assumption)

theorem State.nextTiles_inv {s : State} {e : Nat} {q : Nat} (hInv : s.Inv) : (State.nextTiles s e q).Inv := by
  unfold State.nextTiles
  repeat' first
    | with_reducible assumption
    | with_reducible apply State.nextTile_inv
    | with_reducible apply State.putOp_inv
    | with_reducible refine inv_of_fst (by with_reducible assumption) ?_
    | with_reducible refine inv_of_snd (by with_reducible assumption) ?_
    | with_reducible refine foldl_inv (fun _ _ _ => ?_) ?_
    | with_reducible refine foldl_inv_fst (fun _ _ _ => ?_) ?_
    | with_reducible intro _
    | with_reducible refine ite_inv ?_ ?_
    | dsimp only
    | (simp only [inv_mk]; with_reducible apply canon_of)
    | split

theorem State.switchIn_inv {s : State} {e : Nat} {k : Nat} (hInv : s.Inv) : (State.switchIn s e k).Inv := by
  unfold State.switchIn
  repeat' first
    | with_reducible assumption
    | with_reducible apply State.takeEngine_inv
    | with_reducible apply State.setCtx_inv
    | with_reducible apply State.takeRemoteErr_inv
    | with_reducible apply State.landAll_inv
    | with_reducible apply State.nextTiles_inv
    | with_reducible intro _
    | dsimp only
    | (simp only [inv_mk]; with_reducible apply canon_of)

theorem State.passEngine_inv {s : State} {e : Nat} (hInv : s.Inv) : (State.passEngine s e).Inv := by
  unfold State.passEngine
  repeat' first
    | with_reducible assumption
    | with_reducible apply State.switchIn_inv
    | with_reducible apply State.preempt_inv
    | with_reducible refine inv_of_fst (by with_reducible assumption) ?_
    | with_reducible refine inv_of_snd (by with_reducible assumption) ?_
    | with_reducible intro _
    | with_reducible refine ite_inv ?_ ?_
    | dsimp only
    | (simp only [inv_mk]; with_reducible apply canon_of)
    | split

theorem State.swap_inv {s : State} {e : Nat} {ue : Option Nat} (hInv : s.Inv) : (State.swap s e ue).Inv := by
  unfold State.swap
  simp only
  split
  with_reducible assumption
  split
  with_reducible assumption
  split
  with_reducible exact State.countSwap_inv (State.setCtx_inv (by assumption))
  split
  with_reducible assumption
  with_reducible apply State.setCtx_inv
  split
  with_reducible exact State.loseCtx_inv (State.countSwap_inv (State.leaveSlot_inv (by assumption)))
  with_reducible exact State.countSwap_inv (State.leaveSlot_inv (by assumption))

theorem State.swapIn_inv {s : State} {e : Nat} {ue : Option Nat} (hInv : s.Inv) : (State.swapIn s e ue).Inv := by
  unfold State.swapIn
  simp only
  split
  with_reducible refine foldl_inv (fun _ _ _ => ?_) ?_
  with_reducible exact State.setCtx_inv (by assumption)
  with_reducible assumption
  split
  with_reducible apply State.loseCtx_inv
  with_reducible refine foldl_inv (fun _ _ _ => ?_) ?_
  with_reducible exact State.setCtx_inv (by assumption)
  with_reducible assumption
  split
  with_reducible apply State.setCtx_inv
  with_reducible refine foldl_inv (fun _ _ _ => ?_) ?_
  with_reducible exact State.setCtx_inv (by assumption)
  with_reducible assumption
  with_reducible apply State.enterSlot_inv
  with_reducible refine foldl_inv (fun _ _ _ => ?_) ?_
  with_reducible exact State.setCtx_inv (by assumption)
  with_reducible assumption

theorem State.answerTag_inv {s : State} {tag status : Nat} {data : List Byte} (hInv : s.Inv) : (State.answerTag s tag status data).Inv := by
  unfold State.answerTag
  simp only
  split
  with_reducible exact State.bump_inv (by assumption)
  split
  with_reducible exact State.remoteFail_inv (by assumption)
  split
  with_reducible exact State.gatherResume_inv (State.copyProgress_inv (State.landData_inv (State.releaseTag_inv (by assumption))))
  with_reducible exact State.bump_inv (State.setCtx_inv (State.releaseTag_inv (by assumption)))

theorem State.tagTimeout_inv {s : State} {tag : Nat} (hInv : s.Inv) : (State.tagTimeout s tag).Inv := by
  unfold State.tagTimeout
  split
  with_reducible assumption
  split
  with_reducible assumption
  with_reducible exact State.remoteFail_inv (State.event_inv (State.bump_inv (by assumption)))

theorem execContextSwapIn_inv {s : State} {t : Nat} {e : Fin 96} {ue : Option (Fin 262144)} (hInv : s.Inv) : Keeps (execContextSwapIn t e ue s) := by
  unfold execContextSwapIn
  with_reducible apply keeps_next
  with_reducible refine State.live_inv ?_ (fun _ _ => ?_)
  with_reducible assumption
  with_reducible exact State.swapIn_inv (by assumption)

theorem execRemoteResponse_inv {t : Nat} {tag : BitVec 24} {status : BitVec 16} {data : List Byte} {s : State} (hInv : s.Inv) : Keeps (execRemoteResponse t tag status data s) := by
  unfold execRemoteResponse
  repeat' first
    | with_reducible assumption
    | with_reducible exact trivial
    | with_reducible apply keeps_next
    | with_reducible apply State.live_inv
    | with_reducible apply State.answerTag_inv
    | with_reducible apply State.inOrder_inv
    | with_reducible intro _
    | dsimp only
    | (simp only [inv_mk]; with_reducible apply canon_of)

theorem execRemoteTagTimeout_inv {t : Nat} {tag : BitVec 24} {s : State} (hInv : s.Inv) : Keeps (execRemoteTagTimeout t tag s) := by
  unfold execRemoteTagTimeout
  repeat' first
    | with_reducible assumption
    | with_reducible exact trivial
    | with_reducible apply keeps_next
    | with_reducible apply State.live_inv
    | with_reducible apply State.tagTimeout_inv
    | with_reducible apply State.inOrder_inv
    | with_reducible intro _
    | dsimp only
    | (simp only [inv_mk]; with_reducible apply canon_of)

theorem State.setJob_inv {s : State} {p : Nat} {x : JobRing} (hInv : s.Inv) : (State.setJob s p x).Inv := by
  unfold State.setJob
  with_reducible apply State.wr_inv
  simp only [inv_mk]
  with_reducible exact canon_of (by assumption)

theorem State.jobHalt_inv {s : State} {p expected found case : Nat} (hInv : s.Inv) : (State.jobHalt s p expected found case).Inv := by
  unfold State.jobHalt
  with_reducible exact postFault_inv (State.event_inv (State.setJob_inv (by assumption)))

theorem State.jobTail_inv {s : State} {p : Nat} (hInv : s.Inv) : (State.jobTail s p).Inv := by
  unfold State.jobTail
  simp only
  split
  with_reducible assumption
  split
  with_reducible exact State.askFor_inv (by assumption)
  split
  split
  with_reducible exact State.jobHalt_inv (State.setJob_inv (by assumption))
  with_reducible exact State.setJob_inv (by assumption)
  split
  with_reducible exact State.jobHalt_inv (State.setJob_inv (by assumption))
  with_reducible exact State.setJob_inv (by assumption)

theorem State.jobRetire_inv {s : State} {p n : Nat} (hInv : s.Inv) : (State.jobRetire s p n).Inv := by
  unfold State.jobRetire
  with_reducible exact State.setJob_inv (by assumption)

theorem State.jobInvalid_inv {s : State} {p n : Nat} {j : JobEntry} (hInv : s.Inv) : (State.jobInvalid s p n j).Inv := by
  unfold State.jobInvalid
  with_reducible exact postFault_inv (State.event_inv (State.bump_inv (State.jobRetire_inv (by assumption))))

theorem State.placeJob_inv {s : State} {p : Nat} {n : Nat} {j : JobEntry} {e : Nat} {k : Nat} (hInv : s.Inv) : (State.placeJob s p n j e k).Inv := by
  unfold State.placeJob
  repeat' first
    | with_reducible assumption
    | with_reducible apply State.inOrder_inv
    | with_reducible apply State.storeIfMem_inv
    | with_reducible apply State.setCtx_inv
    | with_reducible apply State.bump_inv
    | with_reducible apply State.jobRetire_inv
    | with_reducible intro _
    | with_reducible refine ite_inv ?_ ?_
    | dsimp only
    | (simp only [inv_mk]; with_reducible apply canon_of)
    | split

theorem State.jobStep_inv {s s' : State} {p n : Nat} (e : s.jobStep p n = some s') (hInv : s.Inv) : s'.Inv := by
  unfold State.jobStep at e
  dsimp only at e
  split at e
  · cases e
  · split at e
    · cases e; exact State.askFor_inv hInv
    · split at e
      · cases e; exact State.jobHalt_inv hInv
      · split at e
        · cases e; exact State.jobInvalid_inv hInv
        · split at e
          · rw [Option.map_eq_some_iff] at e
            obtain ⟨x, -, rfl⟩ := e
            exact State.placeJob_inv hInv
          · cases e

theorem State.placeNext_inv {s : State} {p : Nat} (hInv : s.Inv) : (s.placeNext p).Inv := by
  have h : (s.jobTail p).Inv := State.jobTail_inv hInv
  unfold State.placeNext
  repeat' first
    | with_reducible assumption
    | split
    | dsimp only
  all_goals
    cases hf : List.findSome? _ _ with
    | none => exact h
    | some t =>
      obtain ⟨n, -, e⟩ := List.exists_of_findSome?_eq_some hf
      exact State.jobStep_inv e h

theorem State.writeJobCfg_inv {s : State} {p v : Nat} (hInv : s.Inv) : (State.writeJobCfg s p v).Inv := by
  unfold State.writeJobCfg
  simp only
  split
  with_reducible exact State.setJob_inv (State.wr_inv (by assumption))
  with_reducible exact State.wr_inv (by assumption)

theorem State.abortPartition_inv {s : State} {p : Nat} (hInv : s.Inv) : (State.abortPartition s p).Inv := by
  unfold State.abortPartition
  simp only
  split
  with_reducible refine foldl_inv (fun _ _ _ => ?_) ?_
  split
  with_reducible exact State.abortContext_inv (by assumption)
  with_reducible assumption
  with_reducible assumption
  with_reducible apply State.setJob_inv
  with_reducible refine foldl_inv (fun _ _ _ => ?_) ?_
  with_reducible exact State.bump_inv (by assumption)
  with_reducible apply State.jobTail_inv
  with_reducible refine foldl_inv (fun _ _ _ => ?_) ?_
  split
  with_reducible exact State.abortContext_inv (by assumption)
  with_reducible assumption
  with_reducible assumption

theorem execJobPlace_inv {s : State} {t : Nat} {p : Fin 8} (hInv : s.Inv) : Keeps (execJobPlace t p s) := by
  unfold execJobPlace
  with_reducible apply keeps_next
  with_reducible refine State.live_inv ?_ (fun _ _ => ?_)
  with_reducible assumption
  with_reducible exact State.placeNext_inv (by assumption)

theorem State.setEngHealth_inv {s : State} {e : Nat} {x : EngineHealth} (hInv : s.Inv) : (State.setEngHealth s e x).Inv := by
  unfold State.setEngHealth
  simp only [inv_mk]
  with_reducible exact canon_of (by assumption)

theorem State.setEngineOut_inv {s : State} {e : Nat} {out : Bool} (hInv : s.Inv) : (State.setEngineOut s e out).Inv := by
  unfold State.setEngineOut
  split
  with_reducible exact State.setBit_inv (by assumption)
  with_reducible exact State.setBit_inv (by assumption)

theorem State.rotationPast_inv {s : State} {e : Nat} (hInv : s.Inv) : (State.rotationPast s e).Inv := by
  unfold State.rotationPast
  simp only
  split
  split
  with_reducible apply State.bump_inv
  simp only [inv_mk]
  with_reducible exact canon_of (by assumption)
  simp only [inv_mk]
  with_reducible exact canon_of (by assumption)
  simp only [inv_mk]
  with_reducible exact canon_of (by assumption)

theorem State.showSlot_inv {s : State} (hInv : s.Inv) : (State.showSlot s).Inv := by
  unfold State.showSlot
  with_reducible exact State.setFld_inv (State.setFld_inv (State.setFld_inv (by assumption)))

theorem State.setSlot_inv {s : State} {e : Nat} {x : Option TestSlot} (hInv : s.Inv) : (State.setSlot s e x).Inv := by
  unfold State.setSlot
  with_reducible apply State.showSlot_inv
  simp only [inv_mk]
  with_reducible exact canon_of (by assumption)

theorem State.withdraw_inv {s : State} {e : Nat} {x : TestSlot} {ues : List (Nat × Nat)} (hInv : s.Inv) : (State.withdraw s e x ues).Inv := by
  unfold State.withdraw
  with_reducible refine foldl_inv (fun _ _ _ => ?_) ?_
  split
  split
  with_reducible exact State.loseCtx_inv (by assumption)
  with_reducible assumption
  split
  with_reducible exact State.loseCtx_inv (by assumption)
  with_reducible assumption
  with_reducible apply State.setSlot_inv
  with_reducible apply State.bump_inv
  with_reducible refine foldl_inv (fun _ _ _ => ?_) ?_
  with_reducible exact State.leaveSlot_inv (by assumption)
  split
  with_reducible exact State.preempt_inv (by assumption)
  with_reducible assumption

theorem State.readmit_inv {s : State} {e : Nat} {ues : List (Nat × Nat)} (hInv : s.Inv) : (State.readmit s e ues).Inv := by
  unfold State.readmit
  with_reducible refine foldl_inv (fun _ _ _ => ?_) ?_
  simp only
  split
  split
  with_reducible exact State.setCtx_inv (State.loseCtx_inv (by assumption))
  with_reducible exact State.enterSlot_inv (State.loseCtx_inv (by assumption))
  split
  with_reducible exact State.setCtx_inv (by assumption)
  with_reducible exact State.enterSlot_inv (by assumption)
  with_reducible assumption

theorem State.takeRequest_inv {s : State} {kind target : Nat} (hInv : s.Inv) : (State.takeRequest s kind target).Inv := by
  unfold State.takeRequest
  with_reducible apply State.setFld_inv
  simp only [inv_mk]
  with_reducible exact canon_of (by assumption)

theorem State.postResult_inv {s : State} {kind target : Nat} {pass : Bool} {first items : Nat} (hInv : s.Inv) : (State.postResult s kind target pass first items).Inv := by
  unfold State.postResult
  with_reducible exact State.event_inv (State.wr_inv (by assumption))

theorem State.selfTestRecord_inv {s : State} {e cause : Nat} {kind : TestKind} {cls items last : Nat} (hInv : s.Inv) : (State.selfTestRecord s e cause kind cls items last).Inv := by
  unfold State.selfTestRecord
  with_reducible exact postFault_inv (by assumption)

theorem State.slotStart_inv {s : State} {e : Nat} {ues : List (Nat × Nat)} (hInv : s.Inv) : (State.slotStart s e ues).Inv := by
  unfold State.slotStart
  repeat' first
    | with_reducible assumption
    | with_reducible apply State.setSlot_inv
    | with_reducible apply State.withdraw_inv
    | with_reducible refine inv_of_fst (by with_reducible assumption) ?_
    | with_reducible refine inv_of_snd (by with_reducible assumption) ?_
    | with_reducible intro _
    | with_reducible refine ite_inv ?_ ?_
    | dsimp only
    | (simp only [inv_mk]; with_reducible apply canon_of)
    | split

theorem State.testStart_inv {s : State} {e : Nat} (hInv : s.Inv) : (State.testStart s e).Inv := by
  unfold State.testStart
  simp only
  split
  with_reducible assumption
  split
  with_reducible assumption
  split
  split
  split
  with_reducible exact State.withdraw_inv (by assumption)
  with_reducible assumption
  with_reducible apply State.setSlot_inv
  split
  with_reducible exact State.withdraw_inv (by assumption)
  with_reducible assumption
  split
  with_reducible exact State.withdraw_inv (by assumption)
  with_reducible assumption

theorem State.testWorn_inv {s : State} {e : Nat} (hInv : s.Inv) : (State.testWorn s e).Inv := by
  unfold State.testWorn
  with_reducible exact State.wr_inv (State.setEng_inv (by assumption))

theorem State.slotOver_inv {s : State} {e : Nat} {k : TestKind} (hInv : s.Inv) : (State.slotOver s e k).Inv := by
  unfold State.slotOver
  simp only
  split
  with_reducible apply State.rotationPast_inv
  simp only [inv_mk]
  with_reducible exact canon_of (State.setSlot_inv (by assumption))
  simp only [inv_mk]
  with_reducible exact canon_of (State.setSlot_inv (by assumption))

theorem State.serveRequest_inv {s : State} {e : Nat} {pass : Bool} {items : Nat} (hInv : s.Inv) : (State.serveRequest s e pass items).Inv := by
  unfold State.serveRequest
  simp only
  split
  with_reducible exact State.postResult_inv (State.takeRequest_inv (by assumption))
  with_reducible assumption

theorem State.testPass_inv {s : State} {e : Nat} {x : TestSlot} {ues : List (Nat × Nat)} (hInv : s.Inv) : (State.testPass s e x ues).Inv := by
  unfold State.testPass
  simp only
  split
  split
  split
  with_reducible exact State.readmit_inv (State.setEngineOut_inv (State.slotOver_inv (State.setEngHealth_inv (State.bump_inv (by assumption)))))
  with_reducible exact State.slotOver_inv (State.setEngHealth_inv (State.bump_inv (by assumption)))
  with_reducible exact State.readmit_inv (State.slotOver_inv (State.setEngHealth_inv (State.bump_inv (by assumption))))
  split
  split
  with_reducible exact State.readmit_inv (State.setEngineOut_inv (State.slotOver_inv (State.setEngHealth_inv (State.bump_inv (by assumption)))))
  with_reducible exact State.slotOver_inv (State.setEngHealth_inv (State.bump_inv (by assumption)))
  with_reducible exact State.readmit_inv (State.slotOver_inv (State.setEngHealth_inv (State.bump_inv (by assumption))))

theorem State.testFail_inv {s : State} {e : Nat} {x : TestSlot} {items : Nat} (hInv : s.Inv) : (State.testFail s e x items).Inv := by
  unfold State.testFail
  with_reducible apply State.selfTestRecord_inv
  with_reducible apply State.event_inv
  with_reducible apply State.showSlot_inv
  simp only [inv_mk]
  with_reducible exact canon_of (State.setEngineOut_inv (State.slotOver_inv (State.setEngHealth_inv (State.bump_inv (by assumption)))))

theorem State.testEnd_inv {s : State} {e items : Nat} {ues : List (Nat × Nat)} (hInv : s.Inv) : (State.testEnd s e items ues).Inv := by
  unfold State.testEnd
  simp only
  split
  with_reducible assumption
  split
  with_reducible assumption
  with_reducible apply State.serveRequest_inv
  split
  with_reducible exact State.testPass_inv (State.testWorn_inv (by assumption))
  with_reducible exact State.testFail_inv (State.testWorn_inv (by assumption))

theorem State.testAbandon_inv {s : State} {e : Nat} (hInv : s.Inv) : (State.testAbandon s e).Inv := by
  unfold State.testAbandon
  simp only
  split
  with_reducible assumption
  split
  with_reducible assumption
  with_reducible exact State.selfTestRecord_inv (State.event_inv (State.event_inv (State.bump_inv (State.readmit_inv (State.slotOver_inv (by assumption))))))

theorem State.pinStandin_inv {s : State} {e k : Nat} (hInv : s.Inv) : (State.pinStandin s e k).Inv := by
  unfold State.pinStandin
  simp only
  split
  split
  with_reducible exact State.setCtx_inv (by assumption)
  with_reducible assumption
  split
  split
  with_reducible exact State.setCtx_inv (State.enterSlot_inv (by assumption))
  with_reducible exact State.enterSlot_inv (by assumption)
  split
  split
  with_reducible exact State.setCtx_inv (by assumption)
  with_reducible assumption
  split
  split
  with_reducible exact State.setCtx_inv (State.enterSlot_inv (State.countSwap_inv (State.leaveSlot_inv (State.preempt_inv (by assumption)))))
  with_reducible exact State.enterSlot_inv (State.countSwap_inv (State.leaveSlot_inv (State.preempt_inv (by assumption))))
  split
  with_reducible exact State.setCtx_inv (State.enterSlot_inv (State.countSwap_inv (State.leaveSlot_inv (by assumption))))
  with_reducible exact State.enterSlot_inv (State.countSwap_inv (State.leaveSlot_inv (by assumption)))

theorem State.standinPrepare_inv {s : State} {i : Nat} (hInv : s.Inv) : (State.standinPrepare s i).Inv := by
  unfold State.standinPrepare
  simp only
  split
  with_reducible assumption
  split
  with_reducible assumption
  with_reducible apply State.pinStandin_inv
  simp only [inv_mk]
  with_reducible apply canon_of
  with_reducible refine foldl_inv (fun _ _ _ => ?_) ?_
  with_reducible exact State.setTag_inv (by assumption)
  with_reducible exact State.store_inv (by assumption)

theorem State.moveHeld_inv {s : State} {a b q : Nat} (hInv : s.Inv) : (State.moveHeld s a b q).Inv := by
  unfold State.moveHeld
  simp only [inv_mk]
  with_reducible exact canon_of (by assumption)

theorem State.standinHandover_inv {s : State} {i : Nat} (hInv : s.Inv) : (State.standinHandover s i).Inv := by
  unfold State.standinHandover
  simp only
  split
  with_reducible assumption
  split
  split
  with_reducible assumption
  simp only [inv_mk]
  with_reducible exact canon_of (State.moveHeld_inv (by assumption))
  split
  simp only [inv_mk]
  with_reducible exact canon_of (State.moveHeld_inv (by assumption))
  with_reducible assumption

theorem State.standinDrained_inv {s : State} {i : Nat} {ues : List (Nat × Nat)} (hInv : s.Inv) : (State.standinDrained s i ues).Inv := by
  unfold State.standinDrained
  simp only
  split
  with_reducible assumption
  split
  split
  split
  with_reducible exact State.withdraw_inv (by assumption)
  with_reducible assumption
  with_reducible assumption
  split
  simp only [inv_mk]
  with_reducible exact canon_of (State.setCtx_inv (by assumption))
  with_reducible assumption

theorem State.writeStandin_inv {s : State} {i v : Nat} (hInv : s.Inv) : (State.writeStandin s i v).Inv := by
  unfold State.writeStandin
  simp only
  split
  with_reducible exact State.regAccess_inv (by assumption)
  with_reducible exact State.wr_inv (by assumption)

theorem execSelftestLead_inv {s : State} {t : Nat} {e : Fin 96} (hInv : s.Inv) : Keeps (execSelftestLead t e s) := by
  unfold execSelftestLead
  with_reducible apply keeps_next
  with_reducible refine State.live_inv ?_ (fun _ _ => ?_)
  with_reducible assumption
  split
  simp only [inv_mk]
  with_reducible exact canon_of (by assumption)
  with_reducible assumption

theorem execSelftestSlotStart_inv {s : State} {t : Nat} {e : Fin 96} {ues : List (Fin 16 × Fin 262144)} (hInv : s.Inv) : Keeps (execSelftestSlotStart t e ues s) := by
  unfold execSelftestSlotStart
  with_reducible apply keeps_next
  with_reducible refine State.live_inv ?_ (fun _ _ => ?_)
  with_reducible assumption
  with_reducible exact State.slotStart_inv (by assumption)

theorem execSelftestStart_inv {s : State} {t : Nat} {e : Fin 96} (hInv : s.Inv) : Keeps (execSelftestStart t e s) := by
  unfold execSelftestStart
  with_reducible apply keeps_next
  with_reducible refine State.live_inv ?_ (fun _ _ => ?_)
  with_reducible assumption
  with_reducible exact State.testStart_inv (by assumption)

theorem execSelftestEnd_inv {s : State} {t : Nat} {e : Fin 96} {items : BitVec 12} {ues : List (Fin 16 × Fin 262144)} (hInv : s.Inv) : Keeps (execSelftestEnd t e items ues s) := by
  unfold execSelftestEnd
  with_reducible apply keeps_next
  with_reducible refine State.live_inv ?_ (fun _ _ => ?_)
  with_reducible assumption
  with_reducible exact State.testEnd_inv (by assumption)

theorem execSelftestAbandon_inv {s : State} {t : Nat} {e : Fin 96} (hInv : s.Inv) : Keeps (execSelftestAbandon t e s) := by
  unfold execSelftestAbandon
  with_reducible apply keeps_next
  with_reducible refine State.live_inv ?_ (fun _ _ => ?_)
  with_reducible assumption
  with_reducible exact State.testAbandon_inv (by assumption)

theorem execStandinPrepare_inv {s : State} {t : Nat} {i : Fin 4} (hInv : s.Inv) : Keeps (execStandinPrepare t i s) := by
  unfold execStandinPrepare
  with_reducible apply keeps_next
  with_reducible refine State.live_inv ?_ (fun _ _ => ?_)
  with_reducible assumption
  with_reducible exact State.standinPrepare_inv (by assumption)

theorem execStandinHandover_inv {s : State} {t : Nat} {i : Fin 4} (hInv : s.Inv) : Keeps (execStandinHandover t i s) := by
  unfold execStandinHandover
  with_reducible apply keeps_next
  with_reducible refine State.live_inv ?_ (fun _ _ => ?_)
  with_reducible assumption
  with_reducible exact State.standinHandover_inv (by assumption)

theorem execStandinFifoDrained_inv {s : State} {t : Nat} {i : Fin 4} {ues : List (Fin 16 × Fin 262144)} (hInv : s.Inv) : Keeps (execStandinFifoDrained t i ues s) := by
  unfold execStandinFifoDrained
  with_reducible apply keeps_next
  with_reducible refine State.live_inv ?_ (fun _ _ => ?_)
  with_reducible assumption
  with_reducible exact State.standinDrained_inv (by assumption)

theorem State.norProgram_inv {s : State} {a : Nat} {bs : List Byte} (hInv : s.Inv) : (State.norProgram s a bs).Inv := by
  unfold State.norProgram
  simp only [inv_mk]
  with_reducible exact canon_of (by assumption)

theorem State.norErase_inv {s : State} {n : Nat} (hInv : s.Inv) : (State.norErase s n).Inv := by
  unfold State.norErase
  simp only [inv_mk]
  with_reducible exact canon_of (by assumption)

theorem State.logAppend_inv {s : State} {l : NorLog} {first : Nat} {count : Nat} {magic : Nat} {seq : Nat} {rec : List Byte} (hInv : s.Inv) : (State.logAppend s l first count magic seq rec).1.Inv := by
  unfold State.logAppend
  repeat' first
    | with_reducible assumption
    | with_reducible apply State.norErase_inv
    | with_reducible apply State.norProgram_inv
    | with_reducible intro _
    | with_reducible refine ite_inv ?_ ?_
    | with_reducible refine ite_inv_fst ?_ ?_
    | dsimp only
    | (simp only [inv_mk]; with_reducible apply canon_of)
    | split

theorem State.showFaultLog_inv {s : State} {logged : Nat} (hInv : s.Inv) : (State.showFaultLog s logged).Inv := by
  unfold State.showFaultLog
  with_reducible exact State.wr_inv (by assumption)

theorem State.takeSlack_inv {s : State} (hInv : s.Inv) : (State.takeSlack s).Inv := by
  unfold State.takeSlack
  repeat' first
    | with_reducible assumption
    | with_reducible apply State.useSlack_inv
    | with_reducible intro _
    | with_reducible refine ite_inv ?_ ?_
    | dsimp only
    | (simp only [inv_mk]; with_reducible apply canon_of)
    | split

theorem State.logProgram_inv {s : State} {fail : Bool} (hInv : s.Inv) : (State.logProgram s fail).Inv := by
  unfold State.logProgram
  simp only
  split
  with_reducible assumption
  split
  with_reducible assumption
  split
  with_reducible apply postFault_inv
  with_reducible apply State.showFaultLog_inv
  simp only [inv_mk]
  with_reducible exact canon_of (by assumption)
  with_reducible apply State.showFaultLog_inv
  simp only [inv_mk]
  with_reducible exact canon_of (State.logAppend_inv (by assumption))

theorem State.eraseNext_inv {s : State} {n : Nat} {fail : Bool} (hInv : s.Inv) : (State.eraseNext s n fail).Inv := by
  unfold State.eraseNext
  repeat' first
    | with_reducible assumption
    | with_reducible apply postFault_inv
    | with_reducible apply State.norErase_inv
    | with_reducible apply State.showFaultLog_inv
    | with_reducible intro _
    | with_reducible refine ite_inv ?_ ?_
    | dsimp only
    | (simp only [inv_mk]; with_reducible apply canon_of)
    | split

theorem State.norTokenRefill_inv {s : State} (hInv : s.Inv) : (State.norTokenRefill s).Inv := by
  unfold State.norTokenRefill
  simp only
  split
  with_reducible assumption
  simp only [inv_mk]
  with_reducible exact canon_of (by assumption)

theorem execNorLogProgram_inv {t : Nat} {fail : Bool} {s : State} (hInv : s.Inv) : Keeps (execNorLogProgram t fail s) := by
  unfold execNorLogProgram
  repeat' first
    | with_reducible assumption
    | with_reducible exact trivial
    | with_reducible apply keeps_next
    | with_reducible apply State.live_inv
    | with_reducible apply State.logProgram_inv
    | with_reducible apply State.takeSlack_inv
    | with_reducible apply State.deferItem_inv
    | with_reducible apply State.eraseNext_inv
    | with_reducible refine inv_of_fst (by with_reducible assumption) ?_
    | with_reducible refine inv_of_snd (by with_reducible assumption) ?_
    | with_reducible intro _
    | with_reducible refine ite_inv ?_ ?_
    | with_reducible refine ite_inv_fst ?_ ?_
    | dsimp only
    | (simp only [inv_mk]; with_reducible apply canon_of)
    | split

theorem execNorLogTokenRefill_inv {s : State} {t : Nat} (hInv : s.Inv) : Keeps (execNorLogTokenRefill t s) := by
  unfold execNorLogTokenRefill
  with_reducible apply keeps_next
  with_reducible refine State.live_inv ?_ (fun _ _ => ?_)
  with_reducible assumption
  with_reducible exact State.norTokenRefill_inv (by assumption)

end Sys2Proof.Machine
end

