-- ==== Sys2Proof/Laws/InvIngest.lean ====
section
/-! SUPPORT. The invariant of State through the fabric, the loader, ingest, video and the Aligner: every operation and every command of these files keeps it. -/

namespace Sys2Proof.Machine

theorem State.startTraining_inv {s : State} {n : Nat} (hInv : s.Inv) : (State.startTraining s n).Inv := by
  unfold State.startTraining
  repeat' first
    | with_reducible assumption
    | with_reducible apply State.setLinkState_inv
    | with_reducible apply State.setLink_inv
    | with_reducible apply State.emit_inv
    | with_reducible refine inv_of_fst (by with_reducible assumption) ?_
    | with_reducible refine inv_of_snd (by with_reducible assumption) ?_
    | with_reducible intro _
    | with_reducible refine ite_inv ?_ ?_
    | dsimp only
    | (simp only [inv_mk]; with_reducible apply canon_of)
    | split

theorem State.linkUp_inv {s : State} {n : Nat} (hInv : s.Inv) : (State.linkUp s n).Inv := by
  unfold State.linkUp
  with_reducible apply State.drainLink_inv
  simp only
  split
  with_reducible exact State.setLinkState_inv (State.setLink_inv (by assumption))
  with_reducible exact State.replay_inv (State.setLinkState_inv (State.setLink_inv (by assumption)))

theorem State.linkRecord_inv {s : State} {n cause lane width : Nat} (hInv : s.Inv) : (State.linkRecord s n cause lane width).Inv := by
  unfold State.linkRecord
  with_reducible exact postFault_inv (State.event_inv (by assumption))

theorem State.reroute_inv {s : State} {q : Queued} (hInv : s.Inv) : (State.reroute s q).Inv := by
  unfold State.reroute
  simp only
  split
  with_reducible exact State.freeBuf_inv (by assumption)
  split
  with_reducible exact State.sendOn_inv (by assumption)
  split
  with_reducible exact State.sendOwn_inv (State.freeBuf_inv (State.dropPacket_inv (by assumption)))
  with_reducible exact State.freeBuf_inv (State.dropPacket_inv (by assumption))

theorem State.failLink_inv {s : State} {n lane : Nat} (hInv : s.Inv) : (State.failLink s n lane).Inv := by
  unfold State.failLink
  simp only
  split
  with_reducible exact State.atticLost_inv (State.linkRecord_inv (State.setLinkState_inv (State.setLink_inv (by assumption))))
  with_reducible refine foldl_inv (fun _ _ _ => ?_) ?_
  with_reducible exact State.reroute_inv (by assumption)
  with_reducible exact State.linkRecord_inv (State.setLinkState_inv (State.setLink_inv (by assumption)))

theorem State.removeLane_inv {s : State} {n lane : Nat} (hInv : s.Inv) : (State.removeLane s n lane).Inv := by
  unfold State.removeLane
  simp only
  split
  with_reducible exact State.failLink_inv (State.linkRecord_inv (State.setLink_inv (by assumption)))
  with_reducible exact State.setLinkState_inv (State.linkRecord_inv (State.setLink_inv (by assumption)))

theorem State.laneReport_inv {s : State} {n : Nat} {lane : Nat} {good : Nat} {bad : Nat} {lost : Bool} (hInv : s.Inv) : (State.laneReport s n lane good bad lost).Inv := by
  unfold State.laneReport
  repeat' first
    | with_reducible assumption
    | with_reducible apply State.bump_inv
    | with_reducible apply State.setLink_inv
    | with_reducible apply State.removeLane_inv
    | with_reducible refine foldl_inv (fun _ _ _ => ?_) ?_
    | with_reducible refine foldl_inv_fst (fun _ _ _ => ?_) ?_
    | with_reducible intro _
    | with_reducible refine ite_inv ?_ ?_
    | dsimp only
    | (simp only [inv_mk]; with_reducible apply canon_of)
    | split

theorem State.hello_inv {s : State} {n id port : Nat} (hInv : s.Inv) : (State.hello s n id port).Inv := by
  unfold State.hello
  simp only
  split
  with_reducible assumption
  split
  with_reducible exact State.linkUp_inv (State.wr_inv (by assumption))
  with_reducible exact postFault_inv (State.event_inv (State.setLinkState_inv (State.wr_inv (by assumption))))

theorem State.trainingDone_inv {s : State} {n : Nat} (hInv : s.Inv) : (State.trainingDone s n).Inv := by
  unfold State.trainingDone
  simp only
  split
  split
  with_reducible assumption
  split
  with_reducible refine foldl_inv (fun _ _ _ => ?_) ?_
  with_reducible exact State.refetch_inv (by assumption)
  with_reducible apply State.linkUp_inv
  split
  with_reducible assumption
  with_reducible exact State.startTraining_inv (by assumption)
  with_reducible apply State.linkUp_inv
  split
  with_reducible assumption
  with_reducible exact State.startTraining_inv (by assumption)
  split
  with_reducible exact State.linkUp_inv (by assumption)
  with_reducible assumption

theorem State.retrain_inv {s : State} {n : Nat} (hInv : s.Inv) : (State.retrain s n).Inv := by
  unfold State.retrain
  split
  with_reducible exact State.startTraining_inv (by assumption)
  with_reducible assumption

theorem State.writeKtfCtrl_inv {s : State} {v : Nat} (hInv : s.Inv) : (State.writeKtfCtrl s v).Inv := by
  unfold State.writeKtfCtrl
  with_reducible refine foldl_inv (fun _ _ _ => ?_) ?_
  split
  split
  with_reducible assumption
  with_reducible exact State.startTraining_inv (by assumption)
  split
  with_reducible exact State.setLinkState_inv (State.setLink_inv (by assumption))
  with_reducible assumption
  with_reducible exact State.wr_inv (by assumption)

theorem State.servePacket_inv {s : State} {n : Nat} {p : Packet} (hInv : s.Inv) : (State.servePacket s n p).Inv := by
  unfold State.servePacket
  simp only
  split
  with_reducible exact State.sendOwn_inv (State.noteReject_inv (by assumption))
  split
  with_reducible exact State.sendOwn_inv (State.noteReject_inv (by assumption))
  split
  with_reducible exact State.sendOwn_inv (State.noteReject_inv (by assumption))
  split
  with_reducible exact State.sendOwn_inv (State.noteReject_inv (by assumption))
  with_reducible exact State.request_inv (by assumption)

theorem State.fromFabric_inv {s : State} {n : Nat} {p : Packet} {f : State → State} (hInv : s.Inv)
    (hf : ∀ s, s.Inv → (f s).Inv) : (s.fromFabric n p f).Inv := by
  unfold State.fromFabric
  split
  · rename_i e; exact inv_of_fst e (State.linkReceive_inv hInv)
  · rename_i e
    have h := inv_of_fst e (State.linkReceive_inv hInv)
    split
    · exact State.consume_inv (hf _ h)
    · exact State.forward_inv h

theorem State.takeResponse_inv {s : State} {p : Packet} (hInv : s.Inv) : (State.takeResponse s p).Inv := by
  unfold State.takeResponse
  repeat' first
    | with_reducible assumption
    | with_reducible apply State.answerTag_inv
    | with_reducible apply State.inOrder_inv
    | with_reducible apply State.bump_inv
    | with_reducible intro _
    | with_reducible refine ite_inv ?_ ?_
    | dsimp only
    | (simp only [inv_mk]; with_reducible apply canon_of)
    | split

theorem State.sendTick_inv {s : State} {n hops : Nat} {payload : List Byte} (hInv : s.Inv) : (State.sendTick s n hops payload).Inv := by
  unfold State.sendTick
  simp only
  split
  split
  with_reducible exact State.sendOn_inv (by assumption)
  with_reducible assumption
  with_reducible assumption

theorem State.originateTick_inv {s : State} (hInv : s.Inv) : (State.originateTick s).Inv := by
  unfold State.originateTick
  split
  with_reducible refine foldl_inv (fun _ _ _ => ?_) ?_
  split
  with_reducible exact State.sendTick_inv (by assumption)
  with_reducible assumption
  with_reducible assumption
  with_reducible assumption

theorem State.forwardTick_inv {s : State} {master : Nat} {payload : List Byte} (hInv : s.Inv) : (State.forwardTick s master payload).Inv := by
  unfold State.forwardTick
  with_reducible refine foldl_inv (fun _ _ _ => ?_) ?_
  split
  with_reducible exact State.sendTick_inv (by assumption)
  with_reducible assumption
  with_reducible assumption

theorem State.placeFabric_inv {s : State} {hops : Nat} (hInv : s.Inv) : (State.placeFabric s hops).Inv := by
  unfold State.placeFabric
  simp only
  split
  split
  simp only [inv_mk]
  with_reducible exact canon_of (State.bump_inv (by assumption))
  simp only [inv_mk]
  with_reducible exact canon_of (State.bump_inv (by assumption))
  split
  simp only [inv_mk]
  with_reducible exact canon_of (by assumption)
  simp only [inv_mk]
  with_reducible exact canon_of (by assumption)

theorem State.hearTick_inv {s : State} {count : Nat} (hInv : s.Inv) : (State.hearTick s count).Inv := by
  unfold State.hearTick
  simp only [inv_mk]
  with_reducible exact canon_of (by assumption)

theorem State.followTick_inv {s : State} {hops : Nat} (hInv : s.Inv) : (State.followTick s hops).Inv := by
  unfold State.followTick
  simp only
  split
  with_reducible exact State.placeFabric_inv (by assumption)
  with_reducible assumption

theorem State.takeTick_inv {s : State} {p : Packet} (hInv : s.Inv) : (State.takeTick s p).Inv := by
  unfold State.takeTick
  simp only
  split
  with_reducible exact State.followTick_inv (State.hearTick_inv (State.forwardTick_inv (State.bump_inv (by assumption))))
  with_reducible exact State.event_inv (State.bump_inv (by assumption))

theorem execGet_inv {s : State} {t : Nat} {n : Fin 8} {p : Packet} (hInv : s.Inv) : Keeps (execGet t n p s) := by
  unfold execGet
  with_reducible apply keeps_next
  with_reducible refine State.live_inv ?_ (fun _ _ => ?_)
  with_reducible assumption
  with_reducible refine State.fromFabric_inv ?_ (fun _ _ => ?_)
  with_reducible assumption
  with_reducible exact State.servePacket_inv (by assumption)

theorem execPut_inv {s : State} {t : Nat} {n : Fin 8} {p : Packet} (hInv : s.Inv) : Keeps (execPut t n p s) := by
  unfold execPut
  with_reducible apply keeps_next
  with_reducible refine State.live_inv ?_ (fun _ _ => ?_)
  with_reducible assumption
  with_reducible refine State.fromFabric_inv ?_ (fun _ _ => ?_)
  with_reducible assumption
  with_reducible exact State.servePacket_inv (by assumption)

theorem execAtomic_inv {s : State} {t : Nat} {n : Fin 8} {p : Packet} (hInv : s.Inv) : Keeps (execAtomic t n p s) := by
  unfold execAtomic
  with_reducible apply keeps_next
  with_reducible refine State.live_inv ?_ (fun _ _ => ?_)
  with_reducible assumption
  with_reducible refine State.fromFabric_inv ?_ (fun _ _ => ?_)
  with_reducible assumption
  with_reducible exact State.servePacket_inv (by assumption)

theorem execRed_inv {s : State} {t : Nat} {n : Fin 8} {p : Packet} (hInv : s.Inv) : Keeps (execRed t n p s) := by
  unfold execRed
  with_reducible apply keeps_next
  with_reducible refine State.live_inv ?_ (fun _ _ => ?_)
  with_reducible assumption
  with_reducible refine State.fromFabric_inv ?_ (fun _ _ => ?_)
  with_reducible assumption
  with_reducible exact State.servePacket_inv (by assumption)

theorem execGetRsp_inv {s : State} {t : Nat} {n : Fin 8} {p : Packet} (hInv : s.Inv) : Keeps (execGetRsp t n p s) := by
  unfold execGetRsp
  with_reducible apply keeps_next
  with_reducible refine State.live_inv ?_ (fun _ _ => ?_)
  with_reducible assumption
  with_reducible refine State.fromFabric_inv ?_ (fun _ _ => ?_)
  with_reducible assumption
  with_reducible exact State.takeResponse_inv (by assumption)

theorem execAck_inv {s : State} {t : Nat} {n : Fin 8} {p : Packet} (hInv : s.Inv) : Keeps (execAck t n p s) := by
  unfold execAck
  with_reducible apply keeps_next
  with_reducible refine State.live_inv ?_ (fun _ _ => ?_)
  with_reducible assumption
  with_reducible refine State.fromFabric_inv ?_ (fun _ _ => ?_)
  with_reducible assumption
  with_reducible exact State.takeResponse_inv (by assumption)

theorem execAtomicRsp_inv {s : State} {t : Nat} {n : Fin 8} {p : Packet} (hInv : s.Inv) : Keeps (execAtomicRsp t n p s) := by
  unfold execAtomicRsp
  with_reducible apply keeps_next
  with_reducible refine State.live_inv ?_ (fun _ _ => ?_)
  with_reducible assumption
  with_reducible refine State.fromFabric_inv ?_ (fun _ _ => ?_)
  with_reducible assumption
  with_reducible exact State.takeResponse_inv (by assumption)

theorem execFabricTick_inv {s : State} {t : Nat} {n : Fin 8} {p : Packet} (hInv : s.Inv) : Keeps (execFabricTick t n p s) := by
  unfold execFabricTick
  dsimp only
  split
  with_reducible exact keeps_next (State.advance_inv (by assumption))
  with_reducible apply keeps_next
  split
  with_reducible apply State.consume_inv
  with_reducible apply State.takeTick_inv
  refine inv_of_fst (by with_reducible assumption) ?_
  with_reducible exact State.linkReceive_inv (State.advance_inv (by assumption))
  refine inv_of_fst (by with_reducible assumption) ?_
  with_reducible exact State.linkReceive_inv (State.advance_inv (by assumption))

theorem execIdle_inv {s : State} {t : Nat} {n : Fin 9} {p : Packet} (hInv : s.Inv) : Keeps (execIdle t n p s) := by
  unfold execIdle
  dsimp only
  split
  with_reducible exact keeps_next (State.advance_inv (by assumption))
  with_reducible apply keeps_next
  split
  with_reducible apply State.consume_inv
  refine inv_of_fst (by with_reducible assumption) ?_
  with_reducible exact State.linkReceive_inv (State.advance_inv (by assumption))
  refine inv_of_fst (by with_reducible assumption) ?_
  with_reducible exact State.linkReceive_inv (State.advance_inv (by assumption))

theorem execHello_inv {s : State} {t : Nat} {n : Fin 8} {id : BitVec 13} {port : Fin 8} (hInv : s.Inv) : Keeps (execHello t n id port s) := by
  unfold execHello
  with_reducible apply keeps_next
  with_reducible refine State.live_inv ?_ (fun _ _ => ?_)
  with_reducible assumption
  with_reducible exact State.hello_inv (by assumption)

theorem execNak_inv {s : State} {t : Nat} {n : Fin 9} {p : Packet} (hInv : s.Inv) : Keeps (execNak t n p s) := by
  unfold execNak
  dsimp only
  split
  with_reducible exact keeps_next (State.advance_inv (by assumption))
  with_reducible apply keeps_next
  split
  with_reducible apply State.consume_inv
  refine inv_of_fst (by with_reducible assumption) ?_
  with_reducible exact State.linkReceive_inv (State.advance_inv (by assumption))
  refine inv_of_fst (by with_reducible assumption) ?_
  with_reducible exact State.linkReceive_inv (State.advance_inv (by assumption))

theorem execPacketCrcFail_inv {s : State} {t : Nat} {n : Fin 9} (hInv : s.Inv) : Keeps (execPacketCrcFail t n s) := by
  unfold execPacketCrcFail
  dsimp only
  split
  with_reducible exact keeps_next (State.advance_inv (by assumption))
  with_reducible apply keeps_next
  split
  with_reducible exact State.sendNak_inv (State.bump_inv (State.advance_inv (by assumption)))
  with_reducible exact State.advance_inv (by assumption)

theorem execLaneRemove_inv {s : State} {t : Nat} {n : Fin 9} {lane : Fin 4} {good bad : Nat} {lost : Bool} (hInv : s.Inv) : Keeps (execLaneRemove t n lane good bad lost s) := by
  unfold execLaneRemove
  with_reducible apply keeps_next
  with_reducible refine State.live_inv ?_ (fun _ _ => ?_)
  with_reducible assumption
  with_reducible exact State.laneReport_inv (by assumption)

theorem execLinkRetrainDone_inv {s : State} {t : Nat} {n : Fin 9} (hInv : s.Inv) : Keeps (execLinkRetrainDone t n s) := by
  unfold execLinkRetrainDone
  with_reducible apply keeps_next
  with_reducible refine State.live_inv ?_ (fun _ _ => ?_)
  with_reducible assumption
  with_reducible exact State.trainingDone_inv (by assumption)

theorem State.withTensors_inv {s : State} {b : Bundle} (hInv : s.Inv) : (State.withTensors s b).Inv := by
  unfold State.withTensors
  with_reducible refine foldl_inv (fun _ _ _ => ?_) ?_
  with_reducible exact State.kstore_inv (by assumption)
  with_reducible assumption

theorem State.judgeFused_inv {s : State} {site : Site} {o : OpenOp} (hInv : s.Inv) : (State.judgeFused s site o).Inv := by
  unfold State.judgeFused
  repeat' first
    | with_reducible assumption
    | with_reducible refine inv_of_fst (by with_reducible assumption) ?_
    | with_reducible refine inv_of_snd (by with_reducible assumption) ?_
    | with_reducible apply issueOf_inv
    | with_reducible apply issue_opens
    | with_reducible apply issue_ends
    | with_reducible apply issue_fault
    | with_reducible refine bodyInv_bind (fun _ => ?_)
    | with_reducible apply bodyInv_pure
    | with_reducible apply bodyInv_ok
    | with_reducible apply bodyInv_error
    | with_reducible intro _
    | dsimp only
    | (simp only [inv_mk]; with_reducible apply canon_of)
    | split

theorem State.judgeAttn_inv {s : State} {site : Site} {o : OpenOp} {bwd : Bool} (hInv : s.Inv) : (State.judgeAttn s site o bwd).Inv := by
  unfold State.judgeAttn
  repeat' first
    | with_reducible assumption
    | with_reducible apply State.setTags_inv
    | with_reducible refine inv_of_fst (by with_reducible assumption) ?_
    | with_reducible refine inv_of_snd (by with_reducible assumption) ?_
    | with_reducible apply issueOf_inv
    | with_reducible apply issue_opens
    | with_reducible apply issue_ends
    | with_reducible apply issue_fault
    | with_reducible refine bodyInv_bind (fun _ => ?_)
    | with_reducible apply bodyInv_pure
    | with_reducible apply bodyInv_ok
    | with_reducible apply bodyInv_error
    | with_reducible intro _
    | dsimp only
    | (simp only [inv_mk]; with_reducible apply canon_of)
    | split

theorem State.judgeScatter_inv {s : State} {site : Site} {o : OpenOp} (hInv : s.Inv) : (State.judgeScatter s site o).Inv := by
  unfold State.judgeScatter
  repeat' first
    | with_reducible assumption
    | with_reducible refine inv_of_fst (by with_reducible assumption) ?_
    | with_reducible refine inv_of_snd (by with_reducible assumption) ?_
    | with_reducible apply issueOf_inv
    | with_reducible apply issue_opens
    | with_reducible apply issue_ends
    | with_reducible apply issue_fault
    | with_reducible refine bodyInv_bind (fun _ => ?_)
    | with_reducible apply bodyInv_pure
    | with_reducible apply bodyInv_ok
    | with_reducible apply bodyInv_error
    | with_reducible intro _
    | dsimp only
    | (simp only [inv_mk]; with_reducible apply canon_of)
    | split

theorem State.judgeGather_inv {s : State} {site : Site} {o : OpenOp} (hInv : s.Inv) : (State.judgeGather s site o).Inv := by
  unfold State.judgeGather
  repeat' first
    | with_reducible assumption
    | with_reducible refine inv_of_fst (by with_reducible assumption) ?_
    | with_reducible refine inv_of_snd (by with_reducible assumption) ?_
    | with_reducible apply issueOf_inv
    | with_reducible apply issue_opens
    | with_reducible apply issue_ends
    | with_reducible apply issue_fault
    | with_reducible refine bodyInv_bind (fun _ => ?_)
    | with_reducible apply bodyInv_pure
    | with_reducible apply bodyInv_ok
    | with_reducible apply bodyInv_error
    | with_reducible intro _
    | dsimp only
    | (simp only [inv_mk]; with_reducible apply canon_of)
    | split

theorem issueBody_inv {d : Desc} {body : State → Site → OpenOp → Issue} (e : issueBody d = some body) :
    ∀ s x o, s.Inv → (body s x o).Inv := by
  refine (?_ : ∀ f, issueBody d = some f → ∀ s x o, s.Inv → (f s x o).Inv) body e
  clear e body
  unfold issueBody
  extract_lets op
  clear_value op
  repeat' apply ite_some_of (P := fun f : State → Site → OpenOp → Issue => ∀ s x o, State.Inv s → Issue.Inv (f s x o))
  all_goals intro f e
  all_goals first
    | (injection e with e; subst e; intro s x o hInv)
    | cases e
  all_goals first
    | with_reducible apply State.mmaBody_inv hInv
    | with_reducible apply State.convBody_inv hInv
    | with_reducible apply State.judgeFused_inv hInv
    | with_reducible apply State.judgeAttn_inv hInv
    | with_reducible apply State.scanBody_inv hInv
    | with_reducible apply State.pulseBody_inv hInv
    | with_reducible apply State.normBody_inv hInv
    | with_reducible apply State.normBwdBody_inv hInv
    | with_reducible apply State.smaxBody_inv hInv
    | with_reducible apply State.smaxBwdBody_inv hInv
    | with_reducible apply State.gateBody_inv hInv
    | with_reducible apply State.reduceBody_inv hInv
    | with_reducible apply State.sortBody_inv hInv
    | with_reducible apply State.boxdecBody_inv hInv
    | with_reducible apply State.nmsBody_inv hInv
    | with_reducible apply State.judgeScatter_inv hInv
    | with_reducible apply State.judgeGather_inv hInv
    | with_reducible apply State.copyBody_inv hInv
    | with_reducible apply State.prefetchBody_inv hInv
    | with_reducible apply State.waitBody_inv hInv
    | with_reducible apply State.branchBody_inv hInv
    | (dsimp only; split
       · exact trivial
       · first
         | with_reducible apply State.mmaBody_inv hInv
         | with_reducible apply State.judgeAttn_inv hInv)
    | (dsimp only; split
       · first
         | with_reducible apply State.signalTriggerBody_inv hInv
         | with_reducible apply State.callListBody_inv hInv
       · first
         | with_reducible apply State.signalBody_inv hInv
         | with_reducible apply State.callKeeperBody_inv hInv)
    | (dsimp only; with_reducible apply State.mmaBody_inv hInv)
    | (dsimp only; with_reducible apply State.judgeAttn_inv hInv)
    | (dsimp only; with_reducible apply State.branchBody_inv hInv)

theorem State.trial_inv {s : State} {site : Site} {d : Desc} (hInv : s.Inv) : (State.trial s site d).2.Inv := by
  unfold State.trial
  repeat' first
    | with_reducible assumption
    | with_reducible apply issueBody_inv
    | with_reducible refine inv_of_fst (by with_reducible assumption) ?_
    | with_reducible refine inv_of_snd (by with_reducible assumption) ?_
    | with_reducible refine inv_of_opens (by with_reducible assumption) ?_
    | with_reducible refine inv_of_ends (by with_reducible assumption) ?_
    | with_reducible intro _
    | with_reducible refine ite_inv ?_ ?_
    | with_reducible refine ite_inv_fst ?_ ?_
    | dsimp only
    | (simp only [inv_mk]; with_reducible apply canon_of)
    | split

theorem State.apart_inv {s : State} {site : Site} {m : TrialMode} {d : Desc} (hInv : s.Inv) : (State.apart s site m d).1.Inv := by
  unfold State.apart
  repeat' first
    | with_reducible assumption
    | with_reducible apply State.kstore_inv
    | with_reducible apply State.store_inv
    | with_reducible refine foldl_inv (fun _ _ _ => ?_) ?_
    | with_reducible refine foldl_inv_fst (fun _ _ _ => ?_) ?_
    | with_reducible intro _
    | with_reducible refine ite_inv ?_ ?_
    | with_reducible refine ite_inv_fst ?_ ?_
    | dsimp only
    | (simp only [inv_mk]; with_reducible apply canon_of)
    | split

theorem State.untabled_inv {s : State} {site : Site} (hInv : s.Inv) : (State.untabled s site).Inv := by
  unfold State.untabled
  repeat' first
    | with_reducible assumption
    | with_reducible apply State.kstore_inv
    | with_reducible intro _
    | dsimp only
    | (simp only [inv_mk]; with_reducible apply canon_of)

theorem State.installBundle_inv {s : State} {b : Bundle} (hInv : s.Inv) : (State.installBundle s b).Inv := by
  unfold State.installBundle
  simp only [inv_mk]
  with_reducible apply canon_of
  with_reducible refine foldl_inv (fun _ _ _ => ?_) ?_
  with_reducible refine foldl_inv (fun _ _ _ => ?_) ?_
  with_reducible exact State.imemStore_inv (by assumption)
  with_reducible assumption
  with_reducible apply State.withTensors_inv
  with_reducible refine foldl_inv (fun _ _ _ => ?_) ?_
  with_reducible exact State.store_inv (by assumption)
  with_reducible assumption

theorem State.loaderCheck_inv {s : State} {a : Nat} (hInv : s.Inv) : (State.loaderCheck s a).Inv := by
  unfold State.loaderCheck
  split
  with_reducible exact State.installBundle_inv (by assumption)
  with_reducible exact postFault_inv (by assumption)

theorem State.leaveBundle_inv {s : State} {e : Nat} {q : Nat} (hInv : s.Inv) : (State.leaveBundle s e q).Inv := by
  unfold State.leaveBundle
  repeat' first
    | with_reducible assumption
    | with_reducible apply State.writeQCfg_inv
    | with_reducible intro _
    | with_reducible refine ite_inv ?_ ?_
    | dsimp only
    | (simp only [inv_mk]; with_reducible apply canon_of)
    | split

theorem State.placeLive_inv {s : State} {part : Nat} {p : Nat × Nat × Nat × Nat × Nat} (hInv : s.Inv) : (State.placeLive s part p).Inv := by
  unfold State.placeLive
  repeat' first
    | with_reducible assumption
    | with_reducible apply State.wr_inv
    | with_reducible apply State.writeQCfg_inv
    | with_reducible refine inv_of_fst (by with_reducible assumption) ?_
    | with_reducible refine inv_of_snd (by with_reducible assumption) ?_
    | with_reducible intro _
    | with_reducible refine ite_inv ?_ ?_
    | dsimp only
    | (simp only [inv_mk]; with_reducible apply canon_of)
    | split

theorem State.placeDue_inv {s : State} {p : Nat} (hInv : s.Inv) : (State.placeDue s p).Inv := by
  unfold State.placeDue
  repeat' first
    | with_reducible assumption
    | with_reducible apply State.placeLive_inv
    | with_reducible refine foldl_inv (fun _ _ _ => ?_) ?_
    | with_reducible refine foldl_inv_fst (fun _ _ _ => ?_) ?_
    | with_reducible intro _
    | (extract_lets +onlyGivenNames z; with_reducible apply inv_let (z := z); (case' val => (dsimp only [z]; try clear z)); (case' main => (intro hz; clear_value z)))
    | (extract_lets +onlyGivenNames z; with_reducible apply inv_let (z := z.1); (case' val => (dsimp only [z]; try clear z)); (case' main => (intro hz; clear_value z)))
    | (extract_lets +onlyGivenNames z; with_reducible apply inv_let (z := z.2); (case' val => (dsimp only [z]; try clear z)); (case' main => (intro hz; clear_value z)))
    | (extract_lets +onlyGivenNames z; clear_value z)
    | dsimp only
    | (simp only [inv_mk]; with_reducible apply canon_of)

theorem State.goLive_inv {s : State} {p : Nat} {x : Installed} (hInv : s.Inv) : (State.goLive s p x).Inv := by
  unfold State.goLive
  repeat' first
    | with_reducible assumption
    | with_reducible apply State.leaveBundle_inv
    | with_reducible apply State.placeLive_inv
    | with_reducible apply State.setEng_inv
    | with_reducible refine foldl_inv (fun _ _ _ => ?_) ?_
    | with_reducible refine foldl_inv_fst (fun _ _ _ => ?_) ?_
    | with_reducible intro _
    | (extract_lets +onlyGivenNames z; with_reducible apply inv_let (z := z); (case' val => (dsimp only [z]; try clear z)); (case' main => (intro hz; clear_value z)))
    | (extract_lets +onlyGivenNames z; with_reducible apply inv_let (z := z.1); (case' val => (dsimp only [z]; try clear z)); (case' main => (intro hz; clear_value z)))
    | (extract_lets +onlyGivenNames z; with_reducible apply inv_let (z := z.2); (case' val => (dsimp only [z]; try clear z)); (case' main => (intro hz; clear_value z)))
    | (extract_lets +onlyGivenNames z; clear_value z)
    | dsimp only
    | (simp only [inv_mk]; with_reducible apply canon_of)

theorem State.bundlesLive_inv {s : State} (hInv : s.Inv) : (State.bundlesLive s).Inv := by
  unfold State.bundlesLive
  repeat' first
    | with_reducible assumption
    | with_reducible apply State.goLive_inv
    | with_reducible apply State.placeDue_inv
    | with_reducible refine inv_of_fst (by with_reducible assumption) ?_
    | with_reducible refine inv_of_snd (by with_reducible assumption) ?_
    | with_reducible refine foldl_inv (fun _ _ _ => ?_) ?_
    | with_reducible refine foldl_inv_fst (fun _ _ _ => ?_) ?_
    | with_reducible intro _
    | with_reducible refine ite_inv ?_ ?_
    | dsimp only
    | (simp only [inv_mk]; with_reducible apply canon_of)
    | split

theorem execLoaderCheck_inv {s : State} {t da : Nat} (hInv : s.Inv) : Keeps (execLoaderCheck t da s) := by
  unfold execLoaderCheck
  with_reducible apply keeps_next
  with_reducible refine State.live_inv ?_ (fun _ _ => ?_)
  with_reducible assumption
  with_reducible exact State.loaderCheck_inv (by assumption)

theorem State.cfgSwap_inv {s : State} (hInv : s.Inv) : (State.cfgSwap s).Inv := by
  unfold State.cfgSwap
  repeat' first
    | with_reducible assumption
    | with_reducible apply State.wr_inv
    | with_reducible apply State.ioRead_inv
    | with_reducible apply State.setBit_inv
    | with_reducible apply postFault_inv
    | with_reducible apply State.event_inv
    | with_reducible refine inv_of_fst (by with_reducible assumption) ?_
    | with_reducible refine inv_of_snd (by with_reducible assumption) ?_
    | with_reducible intro _
    | with_reducible refine ite_inv ?_ ?_
    | dsimp only
    | (simp only [inv_mk]; with_reducible apply canon_of)
    | split

theorem State.setVid_inv {s : State} {n : Nat} {x : VideoSt} (hInv : s.Inv) : (State.setVid s n x).Inv := by
  unfold State.setVid
  simp only [inv_mk]
  with_reducible exact canon_of (by assumption)

theorem State.rxDrop_inv {s : State} {n : Nat} {other : Bool} (hInv : s.Inv) : (State.rxDrop s n other).Inv := by
  unfold State.rxDrop
  split
  with_reducible exact State.bump_inv (by assumption)
  with_reducible exact State.bump_inv (by assumption)

theorem State.measDrop_inv {s : State} (hInv : s.Inv) : (State.measDrop s).Inv := by
  unfold State.measDrop
  with_reducible exact State.bump_inv (by assumption)

theorem State.deliver_inv {s : State} {x : RxItem} (hInv : s.Inv) : (State.deliver s x).Inv := by
  unfold State.deliver
  simp only [inv_mk]
  with_reducible exact canon_of (by assumption)

theorem State.rxUdp_inv {s : State} {n : Nat} {stamp : Int} {src : List Byte} {port : Nat} {d : List Byte} (hInv : s.Inv) : (State.rxUdp s n stamp src port d).Inv := by
  unfold State.rxUdp
  simp only
  split
  split
  with_reducible exact State.deliver_inv (by assumption)
  with_reducible exact State.measDrop_inv (by assumption)
  split
  with_reducible exact State.deliver_inv (by assumption)
  with_reducible exact State.rxDrop_inv (by assumption)
  with_reducible exact State.rxDrop_inv (by assumption)

theorem State.rxFrame_inv {s : State} {n : Nat} {stamp : Int} {f : List Byte} (hInv : s.Inv) : (State.rxFrame s n stamp f).Inv := by
  unfold State.rxFrame
  simp only
  split
  with_reducible exact State.rxDrop_inv (State.bump_inv (by assumption))
  split
  with_reducible exact State.rxDrop_inv (State.bump_inv (by assumption))
  split
  with_reducible exact State.bump_inv (State.bump_inv (by assumption))
  with_reducible exact State.bump_inv (State.bump_inv (by assumption))
  with_reducible exact State.rxDrop_inv (State.bump_inv (by assumption))
  with_reducible exact State.rxDrop_inv (State.bump_inv (by assumption))
  split
  with_reducible exact State.deliver_inv (State.bump_inv (by assumption))
  with_reducible exact State.rxDrop_inv (State.bump_inv (by assumption))
  with_reducible exact State.rxUdp_inv (State.bump_inv (by assumption))

theorem State.takeRx_inv {s s' : State} {a b : RxItem → Bool} {x : RxItem} (e : s.takeRx a b = some (x, s')) (hInv : s.Inv) :
    s'.Inv := by
  unfold State.takeRx at e
  split at e
  · cases e
  · split at e
    · cases e; exact hInv
    · cases e

theorem State.takePtp_inv {s s' : State} {ty : Nat} {x : RxItem} (e : s.takePtp ty = some (x, s')) (hInv : s.Inv) :
    s'.Inv := State.takeRx_inv e hInv

theorem State.setClient_inv {s : State} {x : PtpClient} (hInv : s.Inv) : (State.setClient s x).Inv := by
  unfold State.setClient
  simp only [inv_mk]
  with_reducible exact canon_of (by assumption)

theorem State.moveClock_inv {s : State} {d : Int} (hInv : s.Inv) : (State.moveClock s d).Inv := by
  unfold State.moveClock
  simp only [inv_mk]
  with_reducible exact canon_of (by assumption)

theorem State.stepTimeline_inv {s : State} (hInv : s.Inv) : (State.stepTimeline s).Inv := by
  unfold State.stepTimeline
  simp only
  split
  with_reducible apply State.raiseTickSource_inv
  simp only [inv_mk]
  with_reducible exact canon_of (by assumption)
  with_reducible assumption

theorem State.slew_inv {s : State} {off : Int} (hInv : s.Inv) : (State.slew s off).1.Inv := by
  unfold State.slew
  with_reducible exact State.moveClock_inv (State.freeNat_inv (by assumption))

theorem State.completeSync_inv {s : State} {t1 t2 : Int} (hInv : s.Inv) : (State.completeSync s t1 t2).Inv := by
  unfold State.completeSync
  with_reducible apply State.setClient_inv
  with_reducible apply State.setBit_inv
  with_reducible apply State.wr_inv
  simp only [inv_mk]
  with_reducible apply canon_of
  split
  with_reducible apply State.stepTimeline_inv
  with_reducible apply State.event_inv
  split
  with_reducible exact State.moveClock_inv (by assumption)
  with_reducible exact State.slew_inv (by assumption)
  split
  with_reducible exact State.moveClock_inv (by assumption)
  with_reducible exact State.slew_inv (by assumption)

theorem State.ptpSync_inv {s : State} {x : RxItem} (hInv : s.Inv) : (State.ptpSync s x).Inv := by
  unfold State.ptpSync
  simp only
  split
  with_reducible assumption
  split
  with_reducible exact State.setClient_inv (by assumption)
  with_reducible exact State.completeSync_inv (by assumption)

theorem State.ptpFollowUp_inv {s : State} {x : RxItem} (hInv : s.Inv) : (State.ptpFollowUp s x).Inv := by
  unfold State.ptpFollowUp
  split
  split
  with_reducible exact State.completeSync_inv (by assumption)
  with_reducible assumption
  with_reducible assumption

theorem State.ptpDelayResp_inv {s : State} {x : RxItem} (hInv : s.Inv) : (State.ptpDelayResp s x).Inv := by
  unfold State.ptpDelayResp
  simp only
  split
  split
  with_reducible exact State.setClient_inv (State.wr_inv (by assumption))
  with_reducible assumption
  with_reducible assumption

theorem State.selectMaster_inv {s : State} (hInv : s.Inv) : (State.selectMaster s).Inv := by
  unfold State.selectMaster
  with_reducible exact State.setBit_inv (State.setClient_inv (by assumption))

theorem State.ptpAnnounce_inv {s : State} {x : RxItem} (hInv : s.Inv) : (State.ptpAnnounce s x).Inv := by
  unfold State.ptpAnnounce
  simp only
  split
  with_reducible exact State.setClient_inv (State.selectMaster_inv (State.setClient_inv (by assumption)))
  with_reducible exact State.selectMaster_inv (State.setClient_inv (by assumption))

theorem execEthFrameRx_inv {s : State} {t : Nat} {port : Fin 4} {err : Fin 17} {frame : List Byte} (hInv : s.Inv) : Keeps (execEthFrameRx t port err frame s) := by
  unfold execEthFrameRx
  dsimp only
  split
  with_reducible exact keeps_next (State.advance_inv (by assumption))
  with_reducible exact keeps_next (State.rxFrame_inv (State.advance_inv (by assumption)))

theorem execSync_inv {s : State} {t : Nat} (hInv : s.Inv) : Keeps (execSync t s) := by
  unfold execSync
  dsimp only
  split
  with_reducible exact keeps_next (State.advance_inv (by assumption))
  with_reducible apply keeps_next
  split
  with_reducible apply State.ptpSync_inv
  refine State.takePtp_inv (by with_reducible assumption) ?_
  with_reducible exact State.advance_inv (by assumption)
  with_reducible exact State.advance_inv (by assumption)

theorem execFollowUp_inv {s : State} {t : Nat} (hInv : s.Inv) : Keeps (execFollowUp t s) := by
  unfold execFollowUp
  dsimp only
  split
  with_reducible exact keeps_next (State.advance_inv (by assumption))
  with_reducible apply keeps_next
  split
  with_reducible apply State.ptpFollowUp_inv
  refine State.takePtp_inv (by with_reducible assumption) ?_
  with_reducible exact State.advance_inv (by assumption)
  with_reducible exact State.advance_inv (by assumption)

theorem execDelayResp_inv {s : State} {t : Nat} (hInv : s.Inv) : Keeps (execDelayResp t s) := by
  unfold execDelayResp
  dsimp only
  split
  with_reducible exact keeps_next (State.advance_inv (by assumption))
  with_reducible apply keeps_next
  split
  with_reducible apply State.ptpDelayResp_inv
  refine State.takePtp_inv (by with_reducible assumption) ?_
  with_reducible exact State.advance_inv (by assumption)
  with_reducible exact State.advance_inv (by assumption)

theorem execAnnounce_inv {s : State} {t : Nat} (hInv : s.Inv) : Keeps (execAnnounce t s) := by
  unfold execAnnounce
  dsimp only
  split
  with_reducible exact keeps_next (State.advance_inv (by assumption))
  with_reducible apply keeps_next
  split
  with_reducible apply State.ptpAnnounce_inv
  refine State.takePtp_inv (by with_reducible assumption) ?_
  with_reducible exact State.advance_inv (by assumption)
  with_reducible exact State.advance_inv (by assumption)

theorem execDelayReq_inv {s : State} {t : Nat} (hInv : s.Inv) : Keeps (execDelayReq t s) := by
  unfold execDelayReq
  dsimp only
  split
  with_reducible exact keeps_next (State.advance_inv (by assumption))
  with_reducible apply keeps_next
  split
  with_reducible exact State.setClient_inv (State.emit_inv (State.bump_inv (State.advance_inv (by assumption))))
  with_reducible exact State.advance_inv (by assumption)

theorem execAnnounceReceiptTimeout_inv {s : State} {t : Nat} (hInv : s.Inv) : Keeps (execAnnounceReceiptTimeout t s) := by
  unfold execAnnounceReceiptTimeout
  dsimp only
  split
  with_reducible exact keeps_next (State.advance_inv (by assumption))
  with_reducible apply keeps_next
  split
  split
  with_reducible exact State.setBit_inv (State.setClient_inv (State.advance_inv (by assumption)))
  with_reducible exact State.advance_inv (by assumption)
  with_reducible exact State.advance_inv (by assumption)

theorem State.adoptCfg_inv {s : State} {ent d : List Byte} {c : MeasCfg} (hInv : s.Inv) : (State.adoptCfg s ent d c).Inv := by
  unfold State.adoptCfg
  simp only
  split
  with_reducible exact postFault_inv (State.event_inv (State.setMeas_inv (by assumption)))
  with_reducible exact State.setMeas_inv (by assumption)

theorem State.cfgFrame_inv {s : State} {ent : List Byte} {d : List Byte} (hInv : s.Inv) : (State.cfgFrame s ent d).Inv := by
  unfold State.cfgFrame
  repeat' first
    | with_reducible assumption
    | with_reducible apply State.setMeas_inv
    | with_reducible apply State.measDrop_inv
    | with_reducible apply State.adoptCfg_inv
    | with_reducible refine inv_of_fst (by with_reducible assumption) ?_
    | with_reducible refine inv_of_snd (by with_reducible assumption) ?_
    | with_reducible intro _
    | with_reducible refine ite_inv ?_ ?_
    | dsimp only
    | (simp only [inv_mk]; with_reducible apply canon_of)
    | split

theorem State.imageCfg_inv {s : State} {ent : List Byte} (hInv : s.Inv) : (s.imageCfg ent).Inv := by
  unfold State.imageCfg
  extract_lets a n d
  clear_value d
  split
  · exact State.adoptCfg_inv hInv
  · exact hInv

theorem State.notFed_inv {s : State} (hInv : s.Inv) : (State.notFed s).Inv := by
  unfold State.notFed
  with_reducible exact State.bump_inv (by assumption)

theorem State.presentTrigger_inv {s : State} {e : Nat} (hInv : s.Inv) : (State.presentTrigger s e).Inv := by
  unfold State.presentTrigger
  simp only
  split
  with_reducible assumption
  split
  split
  with_reducible assumption
  with_reducible apply State.trigger_inv
  with_reducible apply State.bump_inv
  with_reducible apply State.setMeas_inv
  simp only [inv_mk]
  with_reducible exact canon_of (by assumption)
  split
  with_reducible assumption
  with_reducible apply State.trigger_inv
  with_reducible apply State.bump_inv
  simp only [inv_mk]
  with_reducible exact canon_of (by assumption)

theorem State.feedPulse_inv {s : State} {ent : List Byte} {t : Int} {seq : Nat} {xs : List Chan} (hInv : s.Inv) :
    (s.feedPulse ent t seq xs).Inv := by
  unfold State.feedPulse
  extract_lets
  split
  extract_lets on s1 x2 s2 x3 s3
  have h1 : s1.Inv := State.mirror_inv (State.store_inv hInv)
  have h2 : s2.Inv := State.setMeas_inv h1
  have h3 : s3.Inv := inv_any h2
  clear_value s3
  split
  · exact State.notFed_inv hInv
  · exact State.presentTrigger_inv h3

theorem State.queueSample_inv {s : State} {x : AlnSample} (hInv : s.Inv) : (State.queueSample s x).Inv := by
  unfold State.queueSample
  simp only
  split
  with_reducible exact State.event_inv (State.bump_inv (by assumption))
  simp only [inv_mk]
  with_reducible exact canon_of (by assumption)

theorem State.queueFrame_inv {s : State} {ent : List Byte} {t stamp : Int} {xs : List Chan} (hInv : s.Inv) : (State.queueFrame s ent t stamp xs).Inv := by
  unfold State.queueFrame
  simp only
  split
  with_reducible assumption
  with_reducible refine foldl_inv (fun _ _ _ => ?_) ?_
  split
  with_reducible assumption
  split
  with_reducible assumption
  with_reducible exact State.queueSample_inv (by assumption)
  with_reducible assumption

theorem State.dataFrame_inv {s : State} {ent : List Byte} {x : RxItem} (hInv : s.Inv) : (State.dataFrame s ent x).Inv := by
  unfold State.dataFrame
  repeat' first
    | with_reducible assumption
    | with_reducible apply State.measDrop_inv
    | with_reducible apply State.setMeas_inv
    | with_reducible apply State.bump_inv
    | with_reducible apply State.queueFrame_inv
    | with_reducible apply State.feedPulse_inv
    | with_reducible refine inv_of_fst (by with_reducible assumption) ?_
    | with_reducible refine inv_of_snd (by with_reducible assumption) ?_
    | with_reducible intro _
    | with_reducible refine ite_inv ?_ ?_
    | dsimp only
    | (simp only [inv_mk]; with_reducible apply canon_of)
    | split

theorem State.takeMeas_inv {s s' : State} {ty : Nat → Bool} {x : RxItem} {y : Option (List Byte)} (e : s.takeMeas ty = some (x, y, s')) (hInv : s.Inv) : s'.Inv := by
  unfold State.takeMeas at e
  split at e
  · cases e
  · rename_i h
    cases e
    exact State.takeRx_inv h hInv

theorem execDataFrame_inv {s : State} {t : Nat} (hInv : s.Inv) : Keeps (execDataFrame t s) := by
  unfold execDataFrame
  dsimp only
  split
  with_reducible exact keeps_next (State.advance_inv (by assumption))
  with_reducible apply keeps_next
  split
  with_reducible apply State.dataFrame_inv
  refine State.takeMeas_inv (by with_reducible assumption) ?_
  with_reducible exact State.advance_inv (by assumption)
  refine State.takeMeas_inv (by with_reducible assumption) ?_
  with_reducible exact State.advance_inv (by assumption)
  with_reducible exact State.advance_inv (by assumption)

theorem execCfgFrame_inv {s : State} {t : Nat} (hInv : s.Inv) : Keeps (execCfgFrame t s) := by
  unfold execCfgFrame
  dsimp only
  split
  with_reducible exact keeps_next (State.advance_inv (by assumption))
  with_reducible apply keeps_next
  split
  with_reducible apply State.cfgFrame_inv
  refine State.takeMeas_inv (by with_reducible assumption) ?_
  with_reducible exact State.advance_inv (by assumption)
  refine State.takeMeas_inv (by with_reducible assumption) ?_
  with_reducible exact State.advance_inv (by assumption)
  with_reducible exact State.advance_inv (by assumption)

theorem execHeaderFrame_inv {s : State} {t : Nat} (hInv : s.Inv) : Keeps (execHeaderFrame t s) := by
  unfold execHeaderFrame
  dsimp only
  split
  with_reducible exact keeps_next (State.advance_inv (by assumption))
  with_reducible apply keeps_next
  split
  with_reducible apply State.measDrop_inv
  refine State.takeMeas_inv (by with_reducible assumption) ?_
  with_reducible exact State.advance_inv (by assumption)
  with_reducible exact State.advance_inv (by assumption)

theorem execCommandFrame_inv {s : State} {t : Nat} (hInv : s.Inv) : Keeps (execCommandFrame t s) := by
  unfold execCommandFrame
  dsimp only
  split
  with_reducible exact keeps_next (State.advance_inv (by assumption))
  with_reducible apply keeps_next
  split
  with_reducible apply State.measDrop_inv
  refine State.takeMeas_inv (by with_reducible assumption) ?_
  with_reducible exact State.advance_inv (by assumption)
  with_reducible exact State.advance_inv (by assumption)

theorem execPulseTriggerPresent_inv {s : State} {t : Nat} {e : Fin 96} (hInv : s.Inv) : Keeps (execPulseTriggerPresent t e s) := by
  unfold execPulseTriggerPresent
  with_reducible apply keeps_next
  with_reducible refine State.live_inv ?_ (fun _ _ => ?_)
  with_reducible assumption
  with_reducible exact State.presentTrigger_inv (by assumption)

theorem State.rtpPacket_inv {s : State} {ent : List Byte} {x : RxItem} (hInv : s.Inv) : (State.rtpPacket s ent x).Inv := by
  unfold State.rtpPacket
  simp only
  split
  with_reducible assumption
  split
  with_reducible exact State.rxDrop_inv (by assumption)
  split
  split
  with_reducible exact State.setVid_inv (by assumption)
  with_reducible exact State.setVid_inv (by assumption)
  split
  with_reducible exact State.setVid_inv (by assumption)
  with_reducible exact State.setVid_inv (by assumption)

theorem State.countFail_inv {s : State} {n cause : Nat} (hInv : s.Inv) : (State.countFail s n cause).Inv := by
  unfold State.countFail
  with_reducible exact State.setVid_inv (State.bump_inv (by assumption))

theorem State.pruneVid_inv {s : State} {n : Nat} (hInv : s.Inv) : (State.pruneVid s n).Inv := by
  unfold State.pruneVid
  with_reducible exact State.setVid_inv (by assumption)

theorem State.picRecord_inv {s : State} {ent : List Byte} {pic : VPic} {st : Nat} {code : Nat} {info : Nat} {stalled : Bool} {concealed : Bool} {inst : Nat} {w : Nat} {h : Nat} {wide : Bool} {started : Option Nat} {slotDa : Nat} (hInv : s.Inv) : (State.picRecord s ent pic st code info stalled concealed inst w h wide started slotDa).Inv := by
  unfold State.picRecord
  repeat' first
    | with_reducible assumption
    | with_reducible apply State.setFld_inv
    | with_reducible apply State.ioWrite_inv
    | with_reducible refine inv_of_fst (by with_reducible assumption) ?_
    | with_reducible refine inv_of_snd (by with_reducible assumption) ?_
    | with_reducible intro _
    | dsimp only
    | (simp only [inv_mk]; with_reducible apply canon_of)
    | split

theorem State.queueFull_inv {s : State} {ent : List Byte} {pic : VPic} {v : VideoSt} (hInv : s.Inv) : (State.queueFull s ent pic v).Inv := by
  unfold State.queueFull
  with_reducible exact State.picRecord_inv (State.countFail_inv (State.setVid_inv (State.freeNat_inv (by assumption))))

theorem State.handover_inv {s : State} {ent : List Byte} {isRef rap : Bool} (hInv : s.Inv) : (State.handover s ent isRef rap).Inv := by
  unfold State.handover
  simp only
  split
  with_reducible assumption
  split
  with_reducible assumption
  split
  with_reducible exact State.queueFull_inv (by assumption)
  with_reducible exact State.setVid_inv (State.havoc_inv (by assumption))

theorem State.picFault_inv {s : State} {ent : List Byte} {pic : VPic} {f : PicFail} {inst : Nat} (hInv : s.Inv) : (State.picFault s ent pic f inst).Inv := by
  unfold State.picFault
  simp only
  split
  with_reducible exact State.event_inv (by assumption)
  with_reducible exact postFault_inv (State.setVid_inv (State.event_inv (by assumption)))

theorem State.failPic_inv {s : State} {ent : List Byte} {pic : VPic} {f : PicFail} {dec : Option VDecode} {stalled : Bool} (hInv : s.Inv) : (State.failPic s ent pic f dec stalled).Inv := by
  unfold State.failPic
  with_reducible apply State.pruneVid_inv
  split
  with_reducible exact State.picRecord_inv (State.countFail_inv (State.setVid_inv (by assumption)))
  with_reducible exact State.picFault_inv (State.picRecord_inv (State.countFail_inv (State.setVid_inv (by assumption))))

theorem State.headerRejected_inv {s : State} {ent : List Byte} {pic : VPic} {f : PicFail} (hInv : s.Inv) : (State.headerRejected s ent pic f).Inv := by
  unfold State.headerRejected
  with_reducible apply State.failPic_inv
  simp only
  split
  with_reducible exact State.setVid_inv (by assumption)
  with_reducible exact State.event_inv (State.setVid_inv (by assumption))

theorem State.beginDecode_inv {s : State} {ent : List Byte} {pic : VPic} {inst : Nat} (hInv : s.Inv) : (State.beginDecode s ent pic inst).Inv := by
  unfold State.beginDecode
  simp only
  split
  with_reducible exact State.failPic_inv (State.setVid_inv (by assumption))
  split
  with_reducible exact State.failPic_inv (State.setVid_inv (by assumption))
  split
  with_reducible exact State.failPic_inv (State.setVid_inv (by assumption))
  with_reducible exact State.setVid_inv (State.setVid_inv (by assumption))

theorem State.decodeStart_inv {s : State} {hdr : Option SeqHeader} (hInv : s.Inv) : (State.decodeStart s hdr).Inv := by
  unfold State.decodeStart
  simp only
  split
  with_reducible assumption
  split
  with_reducible assumption
  split
  with_reducible assumption
  split
  split
  with_reducible exact State.failPic_inv (State.setVid_inv (by assumption))
  with_reducible exact State.beginDecode_inv (State.setVid_inv (by assumption))
  split
  with_reducible exact State.headerRejected_inv (State.setVid_inv (by assumption))
  with_reducible exact State.beginDecode_inv (State.setVid_inv (State.setVid_inv (by assumption)))

theorem State.decoded_inv {s : State} {ent : List Byte} {d : VDecode} {film : Bool} {stalled : Bool} {refs : List Nat} (hInv : s.Inv) : (State.decoded s ent d film stalled refs).Inv := by
  unfold State.decoded
  repeat' first
    | with_reducible assumption
    | with_reducible apply State.ioWrite_inv
    | with_reducible apply State.setVid_inv
    | with_reducible apply State.bump_inv
    | with_reducible apply State.picRecord_inv
    | with_reducible apply State.pruneVid_inv
    | with_reducible intro _
    | with_reducible refine ite_inv ?_ ?_
    | dsimp only
    | (simp only [inv_mk]; with_reducible apply canon_of)
    | split

theorem State.releasePics_inv {s : State} {v : Nat} (hInv : s.Inv) : (State.releasePics s v).Inv := by
  unfold State.releasePics
  with_reducible refine foldl_inv (fun _ _ _ => ?_) ?_
  with_reducible exact State.pruneVid_inv (State.setVid_inv (by assumption))
  with_reducible assumption

theorem State.rearm_inv {s : State} {n : Nat} (hInv : s.Inv) : (State.rearm s n).Inv := by
  unfold State.rearm
  simp only
  split
  with_reducible exact State.setVid_inv (by assumption)
  with_reducible assumption

theorem execRtpPacket_inv {s : State} {t : Nat} (hInv : s.Inv) : Keeps (execRtpPacket t s) := by
  unfold execRtpPacket
  dsimp only
  split
  with_reducible exact keeps_next (State.advance_inv (by assumption))
  with_reducible apply keeps_next
  split
  split
  split
  with_reducible apply State.rtpPacket_inv
  refine State.takeRx_inv (by with_reducible assumption) ?_
  with_reducible exact State.advance_inv (by assumption)
  refine State.takeRx_inv (by with_reducible assumption) ?_
  with_reducible exact State.advance_inv (by assumption)
  refine State.takeRx_inv (by with_reducible assumption) ?_
  with_reducible exact State.advance_inv (by assumption)
  with_reducible exact State.advance_inv (by assumption)

theorem execPictureHandover_inv {s : State} {t : Nat} {j : Fin 512} {isRef rap : Bool} (hInv : s.Inv) : Keeps (execPictureHandover t j isRef rap s) := by
  unfold execPictureHandover
  dsimp only
  split
  with_reducible exact keeps_next (State.advance_inv (by assumption))
  with_reducible apply keeps_next
  split
  with_reducible exact State.handover_inv (State.advance_inv (by assumption))
  with_reducible exact State.advance_inv (by assumption)

theorem execPictureDecodeStart_inv {s : State} {t : Nat} {hdr : Option SeqHeader} (hInv : s.Inv) : Keeps (execPictureDecodeStart t hdr s) := by
  unfold execPictureDecodeStart
  with_reducible apply keeps_next
  with_reducible refine State.live_inv ?_ (fun _ _ => ?_)
  with_reducible assumption
  with_reducible exact State.decodeStart_inv (by assumption)

theorem execPictureDecodeEnd_inv {s : State} {t : Nat} {inst : Fin 24} {complete film stalled : Bool} {refs : List Nat} (hInv : s.Inv) : Keeps (execPictureDecodeEnd t inst complete film stalled refs s) := by
  unfold execPictureDecodeEnd
  dsimp only
  split
  with_reducible exact keeps_next (State.advance_inv (by assumption))
  with_reducible apply keeps_next
  split
  split
  with_reducible exact State.decoded_inv (State.advance_inv (by assumption))
  with_reducible exact State.failPic_inv (State.advance_inv (by assumption))
  with_reducible exact State.advance_inv (by assumption)

theorem execPictureWatchdog_inv {s : State} {t : Nat} {inst : Fin 24} (hInv : s.Inv) : Keeps (execPictureWatchdog t inst s) := by
  unfold execPictureWatchdog
  dsimp only
  split
  with_reducible exact keeps_next (State.advance_inv (by assumption))
  with_reducible apply keeps_next
  split
  split
  with_reducible exact State.failPic_inv (State.bump_inv (State.advance_inv (by assumption)))
  with_reducible exact State.advance_inv (by assumption)
  with_reducible exact State.advance_inv (by assumption)

theorem State.setSamples_inv {s : State} {ch : Nat} {xs : List AlnSample} (hInv : s.Inv) : (State.setSamples s ch xs).Inv := by
  unfold State.setSamples
  simp only [inv_mk]
  with_reducible exact canon_of (by assumption)

theorem State.discard_inv {s : State} {late : Bool} (hInv : s.Inv) : (State.discard s late).Inv := by
  unfold State.discard
  simp only
  split
  split
  with_reducible exact State.bump_inv (by assumption)
  with_reducible exact State.bump_inv (by assumption)
  simp only [inv_mk]
  with_reducible apply canon_of
  split
  with_reducible exact State.bump_inv (by assumption)
  with_reducible exact State.bump_inv (by assumption)

theorem State.writeFinal_inv {s : State} {w : WinSt} {b : List Byte} {ch : Nat} {g : Nat} (hInv : s.Inv) : (State.writeFinal s w b ch g).Inv := by
  unfold State.writeFinal
  repeat' first
    | with_reducible assumption
    | with_reducible apply State.ioWrite_inv
    | with_reducible intro _
    | dsimp only
    | (simp only [inv_mk]; with_reducible apply canon_of)

theorem State.writeFinals_inv {s : State} {ch : Nat} {xs : List AlnSample} {t : Int} (hInv : s.Inv) : (State.writeFinals s ch xs t).Inv := by
  unfold State.writeFinals
  repeat' first
    | with_reducible assumption
    | with_reducible apply State.writeFinal_inv
    | with_reducible refine inv_of_fst (by with_reducible assumption) ?_
    | with_reducible refine inv_of_snd (by with_reducible assumption) ?_
    | with_reducible refine foldl_inv (fun _ _ _ => ?_) ?_
    | with_reducible refine foldl_inv_fst (fun _ _ _ => ?_) ?_
    | with_reducible intro _
    | with_reducible refine ite_inv ?_ ?_
    | dsimp only
    | (simp only [inv_mk]; with_reducible apply canon_of)
    | split

theorem State.openFinals_inv {s : State} {w : WinSt} (hInv : s.Inv) : (State.openFinals s w).Inv := by
  unfold State.openFinals
  repeat' first
    | with_reducible assumption
    | with_reducible apply State.writeFinal_inv
    | with_reducible refine foldl_inv (fun _ _ _ => ?_) ?_
    | with_reducible refine foldl_inv_fst (fun _ _ _ => ?_) ?_
    | with_reducible intro _
    | with_reducible refine ite_inv ?_ ?_
    | dsimp only
    | (simp only [inv_mk]; with_reducible apply canon_of)
    | split

theorem State.alignSample_inv {s : State} {x : AlnSample} (hInv : s.Inv) : (State.alignSample s x).Inv := by
  unfold State.alignSample
  repeat' first
    | with_reducible assumption
    | with_reducible apply State.discard_inv
    | with_reducible apply State.writeFinals_inv
    | with_reducible apply State.setSamples_inv
    | with_reducible intro _
    | with_reducible refine ite_inv ?_ ?_
    | dsimp only
    | (simp only [inv_mk]; with_reducible apply canon_of)
    | split

theorem State.writeGridRow_inv {s : State} {w : WinSt} {b : List Byte} {g : Nat} {out : Nat → Bool} (hInv : s.Inv) : (State.writeGridRow s w b g out).1.Inv := by
  unfold State.writeGridRow
  repeat' first
    | with_reducible assumption
    | with_reducible apply State.ioWrite_inv
    | with_reducible refine foldl_inv (fun _ _ _ => ?_) ?_
    | with_reducible refine foldl_inv_fst (fun _ _ _ => ?_) ?_
    | with_reducible intro _
    | with_reducible refine ite_inv ?_ ?_
    | with_reducible refine ite_inv_fst ?_ ?_
    | dsimp only
    | (simp only [inv_mk]; with_reducible apply canon_of)
    | split

theorem State.writeGrid_inv {s : State} {w : WinSt} {left : List (Nat × Nat)} (hInv : s.Inv) : (State.writeGrid s w left).1.Inv := by
  unfold State.writeGrid
  repeat' first
    | with_reducible assumption
    | with_reducible apply State.writeGridRow_inv
    | with_reducible refine inv_of_fst (by with_reducible assumption) ?_
    | with_reducible refine inv_of_snd (by with_reducible assumption) ?_
    | with_reducible refine foldl_inv (fun _ _ _ => ?_) ?_
    | with_reducible refine foldl_inv_fst (fun _ _ _ => ?_) ?_
    | with_reducible intro _
    | dsimp only
    | (simp only [inv_mk]; with_reducible apply canon_of)
    | split

theorem State.notePlaced_inv {s : State} {k n : Nat} {seqs : List Nat} (hInv : s.Inv) : (State.notePlaced s k n seqs).Inv := by
  unfold State.notePlaced
  with_reducible exact State.setVid_inv (by assumption)

theorem State.writePics_inv {s : State} {w : WinSt} (hInv : s.Inv) : (State.writePics s w).1.Inv := by
  unfold State.writePics
  repeat' first
    | with_reducible assumption
    | with_reducible apply State.ioWrite_inv
    | with_reducible apply State.notePlaced_inv
    | with_reducible refine foldl_inv (fun _ _ _ => ?_) ?_
    | with_reducible refine foldl_inv_fst (fun _ _ _ => ?_) ?_
    | with_reducible intro _
    | with_reducible refine ite_inv ?_ ?_
    | with_reducible refine ite_inv_fst ?_ ?_
    | dsimp only
    | (simp only [inv_mk]; with_reducible apply canon_of)
    | split

theorem State.closeWindow_inv {s : State} {left : List (Nat × Nat)} (hInv : s.Inv) : (State.closeWindow s left).Inv := by
  unfold State.closeWindow
  repeat' first
    | with_reducible assumption
    | with_reducible apply State.wr_inv
    | with_reducible apply State.writeGrid_inv
    | with_reducible apply State.writePics_inv
    | with_reducible apply State.ioWrite_inv
    | with_reducible apply State.event_inv
    | with_reducible apply State.pruneVid_inv
    | with_reducible apply State.phaseCommit_inv
    | with_reducible refine inv_of_fst (by with_reducible assumption) ?_
    | with_reducible refine inv_of_snd (by with_reducible assumption) ?_
    | with_reducible refine foldl_inv (fun _ _ _ => ?_) ?_
    | with_reducible refine foldl_inv_fst (fun _ _ _ => ?_) ?_
    | with_reducible intro _
    | with_reducible refine ite_inv ?_ ?_
    | dsimp only
    | (simp only [inv_mk]; with_reducible apply canon_of)
    | split

theorem State.stopStream_inv {s : State} {ent : List Byte} (hInv : s.Inv) : (State.stopStream s ent).Inv := by
  unfold State.stopStream
  split
  with_reducible exact State.picRecord_inv (by assumption)
  with_reducible assumption

theorem State.switchMeas_inv {s : State} {old new : List (List Byte)} (hInv : s.Inv) : (State.switchMeas s old new).Inv := by
  unfold State.switchMeas
  with_reducible refine foldl_inv (fun _ _ _ => ?_) ?_
  with_reducible exact State.imageCfg_inv (by assumption)
  simp only [inv_mk]
  with_reducible exact canon_of (by assumption)

theorem State.switchVideo_inv {s : State} {old : List (List Byte)} {new : List (List Byte)} (hInv : s.Inv) : (State.switchVideo s old new).Inv := by
  unfold State.switchVideo
  repeat' first
    | with_reducible assumption
    | with_reducible apply State.stopStream_inv
    | with_reducible apply State.ioWrite_inv
    | with_reducible refine foldl_inv (fun _ _ _ => ?_) ?_
    | with_reducible refine foldl_inv_fst (fun _ _ _ => ?_) ?_
    | with_reducible intro _
    | with_reducible refine ite_inv ?_ ?_
    | dsimp only
    | (simp only [inv_mk]; with_reducible apply canon_of)
    | split

theorem State.switchGroups_inv {s : State} {old : List (List Byte)} {new : List (List Byte)} {t : Int} (hInv : s.Inv) : (State.switchGroups s old new t).Inv := by
  unfold State.switchGroups
  repeat' first
    | with_reducible assumption
    | with_reducible intro _
    | dsimp only
    | (simp only [inv_mk]; with_reducible apply canon_of)

theorem State.keepOlds_inv {s : State} {old : List (List Byte)} {new : List (List Byte)} (hInv : s.Inv) : (State.keepOlds s old new).Inv := by
  unfold State.keepOlds
  repeat' first
    | with_reducible assumption
    | with_reducible intro _
    | dsimp only
    | (simp only [inv_mk]; with_reducible apply canon_of)

theorem State.activateIng_inv {s : State} {t : Int} (hInv : s.Inv) : (State.activateIng s t).Inv := by
  unfold State.activateIng
  repeat' first
    | with_reducible assumption
    | with_reducible apply State.switchMeas_inv
    | with_reducible apply State.keepOlds_inv
    | with_reducible apply State.switchVideo_inv
    | with_reducible apply State.switchGroups_inv
    | with_reducible apply State.setFld_inv
    | with_reducible apply State.setBit_inv
    | with_reducible apply State.event_inv
    | with_reducible refine inv_of_fst (by with_reducible assumption) ?_
    | with_reducible refine inv_of_snd (by with_reducible assumption) ?_
    | with_reducible intro _
    | dsimp only
    | (simp only [inv_mk]; with_reducible apply canon_of)
    | split

theorem State.releaseOld_inv {s : State} {k : Nat} (hInv : s.Inv) : (State.releaseOld s k).Inv := by
  unfold State.releaseOld
  with_reducible refine foldl_inv (fun _ _ _ => ?_) ?_
  with_reducible exact State.pruneVid_inv (State.setVid_inv (by assumption))
  with_reducible assumption

theorem State.windowsAt_inv {s : State} {b : Nat} (hInv : s.Inv) : (State.windowsAt s b).Inv := by
  unfold State.windowsAt
  repeat' first
    | with_reducible assumption
    | with_reducible apply State.activateIng_inv
    | with_reducible apply State.releaseOld_inv
    | with_reducible apply State.openFinals_inv
    | with_reducible refine inv_of_fst (by with_reducible assumption) ?_
    | with_reducible refine inv_of_snd (by with_reducible assumption) ?_
    | with_reducible intro _
    | with_reducible refine ite_inv ?_ ?_
    | dsimp only
    | (simp only [inv_mk]; with_reducible apply canon_of)
    | split

theorem execAlignerSample_inv {s : State} {t : Nat} (hInv : s.Inv) : Keeps (execAlignerSample t s) := by
  unfold execAlignerSample
  dsimp only
  split
  with_reducible exact keeps_next (State.advance_inv (by assumption))
  with_reducible apply keeps_next
  split
  with_reducible exact State.advance_inv (by assumption)
  with_reducible apply State.alignSample_inv
  simp only [inv_mk]
  with_reducible exact canon_of (State.advance_inv (by assumption))

theorem execWindowCutoff_inv {t : Nat} {left : List (Nat × Nat)} {s : State} (hInv : s.Inv) : Keeps (execWindowCutoff t left s) := by
  unfold execWindowCutoff
  repeat' first
    | with_reducible assumption
    | with_reducible exact trivial
    | with_reducible apply keeps_next
    | with_reducible apply State.live_inv
    | with_reducible apply State.closeWindow_inv
    | with_reducible intro _
    | dsimp only
    | (simp only [inv_mk]; with_reducible apply canon_of)

theorem execIngestCfgActivate_inv {s : State} {t : Nat} (hInv : s.Inv) : Keeps (execIngestCfgActivate t s) := by
  unfold execIngestCfgActivate
  dsimp only
  split
  with_reducible exact keeps_next (State.advance_inv (by assumption))
  with_reducible apply keeps_next
  split
  with_reducible exact State.activateIng_inv (State.advance_inv (by assumption))
  with_reducible exact State.advance_inv (by assumption)

end Sys2Proof.Machine
end

