-- ==== Sys2Proof/Laws/InvHealth.lean ====
section
/-! SUPPORT. The invariant of State through publication, the tick boundary, health, security and register writes: every operation and every command of these files keeps it. -/

namespace Sys2Proof.Machine

theorem State.pubHalt_inv {s : State} {expected found case : Nat} (hInv : s.Inv) : (State.pubHalt s expected found case).Inv := by
  unfold State.pubHalt
  with_reducible apply postFault_inv
  with_reducible apply State.event_inv
  simp only [inv_mk]
  with_reducible exact canon_of (by assumption)

theorem State.pubHead_inv {s : State} {h : Nat} (hInv : s.Inv) : (State.pubHead s h).Inv := by
  unfold State.pubHead
  with_reducible apply State.setFld_inv
  simp only [inv_mk]
  with_reducible exact canon_of (by assumption)

theorem State.pubDatagram_inv {s : State} {ch : List Byte} {e : List Byte} {ofs : Nat} {n : Nat} (hInv : s.Inv) : (State.pubDatagram s ch e ofs n).Inv := by
  unfold State.pubDatagram
  repeat' first
    | with_reducible assumption
    | with_reducible apply State.ioRead_inv
    | with_reducible apply State.emit_inv
    | with_reducible apply State.bump_inv
    | with_reducible intro _
    | with_reducible refine ite_inv ?_ ?_
    | dsimp only
    | (simp only [inv_mk]; with_reducible apply canon_of)
    | split

theorem State.pubSend_inv {s : State} {ch e : List Byte} {p ofs : Nat} {left : Option Nat} {kk : Nat} (hInv : s.Inv) : (State.pubSend s ch e p ofs left kk).1.Inv := by
  induction kk generalizing s ch e p ofs left with
  | zero =>
    unfold State.pubSend
    with_reducible assumption
  | succ k ih =>
    unfold State.pubSend
    simp only
    split
    with_reducible assumption
    split
    with_reducible assumption
    split
    with_reducible assumption
    with_reducible exact ih (State.pubDatagram_inv (by assumption))

theorem State.pubMessage_inv {s : State} {e : List Byte} {ue : Option Nat} (hInv : s.Inv) : (State.pubMessage s e ue).Inv := by
  unfold State.pubMessage
  simp only
  split
  with_reducible assumption
  split
  with_reducible assumption
  split
  with_reducible exact State.bump_inv (State.pubSend_inv (by assumption))
  with_reducible exact State.pubSend_inv (by assumption)

theorem State.pubTail_inv {s : State} (hInv : s.Inv) : (State.pubTail s).Inv := by
  unfold State.pubTail
  repeat' first
    | with_reducible assumption
    | with_reducible apply State.askFor_inv
    | with_reducible apply State.ioRead_inv
    | with_reducible apply State.pubHead_inv
    | with_reducible apply State.pubHalt_inv
    | with_reducible intro _
    | with_reducible refine ite_inv ?_ ?_
    | dsimp only
    | (simp only [inv_mk]; with_reducible apply canon_of)
    | split

theorem State.pubTake_inv {s : State} {ue : Option Nat} (hInv : s.Inv) : (State.pubTake s ue).Inv := by
  unfold State.pubTake
  repeat' first
    | with_reducible assumption
    | with_reducible apply State.askFor_inv
    | with_reducible apply State.ioRead_inv
    | with_reducible apply State.pubHalt_inv
    | with_reducible apply State.pubHead_inv
    | with_reducible apply State.pubMessage_inv
    | with_reducible intro _
    | with_reducible refine ite_inv ?_ ?_
    | dsimp only
    | (simp only [inv_mk]; with_reducible apply canon_of)
    | split

theorem State.pubRestart_inv {s : State} (hInv : s.Inv) : (State.pubRestart s).Inv := by
  unfold State.pubRestart
  simp only [inv_mk]
  with_reducible exact canon_of (by assumption)

theorem execPublishEntry_inv {s : State} {t : Nat} {ue : Option Nat} (hInv : s.Inv) : Keeps (execPublishEntry t ue s) := by
  unfold execPublishEntry
  dsimp only
  split
  with_reducible exact keeps_next (State.advance_inv (by assumption))
  with_reducible apply keeps_next
  split
  with_reducible exact State.advance_inv (by assumption)
  with_reducible exact State.pubTake_inv (State.pubTail_inv (State.advance_inv (by assumption)))

theorem State.boundary_inv {s : State} {b : Nat} (hInv : s.Inv) : (State.boundary s b).Inv := by
  unfold State.boundary
  simp only
  split
  with_reducible exact State.originateTick_inv (State.bundlesLive_inv (State.windowsAt_inv (State.tickBoundary_inv (by assumption))))
  with_reducible exact State.windowsAt_inv (State.tickBoundary_inv (by assumption))

theorem State.fallDue_inv {s : State} (hInv : s.Inv) : (State.fallDue s).Inv := by
  unfold State.fallDue
  repeat' first
    | with_reducible assumption
    | with_reducible apply State.boundary_inv
    | with_reducible refine inv_of_fst (by with_reducible assumption) ?_
    | with_reducible refine inv_of_snd (by with_reducible assumption) ?_
    | with_reducible intro _
    | with_reducible refine ite_inv ?_ ?_
    | dsimp only
    | (simp only [inv_mk]; with_reducible apply canon_of)
    | split

theorem execTickBoundary_inv {t : Nat} {s : State} (hInv : s.Inv) : Keeps (execTickBoundary t s) := by
  unfold execTickBoundary
  repeat' first
    | with_reducible assumption
    | with_reducible exact trivial
    | with_reducible apply keeps_next
    | with_reducible apply State.live_inv
    | with_reducible apply State.fallDue_inv
    | with_reducible apply State.inOrder_inv
    | with_reducible intro _
    | dsimp only
    | (simp only [inv_mk]; with_reducible apply canon_of)

theorem execDeadline_inv {t : Nat} {p : Fin 16} {s : State} (hInv : s.Inv) : Keeps (execDeadline t p s) := by
  unfold execDeadline
  repeat' first
    | with_reducible assumption
    | with_reducible exact trivial
    | with_reducible apply keeps_next
    | with_reducible apply State.live_inv
    | with_reducible apply State.deadlinesDue_inv
    | with_reducible apply State.fallDue_inv
    | with_reducible apply State.inOrder_inv
    | with_reducible intro _
    | dsimp only
    | (simp only [inv_mk]; with_reducible apply canon_of)

theorem execBudgetEnd_inv {t : Nat} {p : Fin 16} {s : State} (hInv : s.Inv) : Keeps (execBudgetEnd t p s) := by
  unfold execBudgetEnd
  repeat' first
    | with_reducible assumption
    | with_reducible exact trivial
    | with_reducible apply keeps_next
    | with_reducible apply State.live_inv
    | with_reducible apply State.deadlinesDue_inv
    | with_reducible apply State.fallDue_inv
    | with_reducible apply State.inOrder_inv
    | with_reducible apply State.budgetEnd_inv
    | with_reducible intro _
    | with_reducible refine ite_inv ?_ ?_
    | with_reducible refine ite_inv_fst ?_ ?_
    | dsimp only
    | (simp only [inv_mk]; with_reducible apply canon_of)
    | split

theorem execPhaseStart_inv {t : Nat} {p : Fin 16} {s : State} (hInv : s.Inv) : Keeps (execPhaseStart t p s) := by
  unfold execPhaseStart
  repeat' first
    | with_reducible assumption
    | with_reducible exact trivial
    | with_reducible apply keeps_next
    | with_reducible apply State.live_inv
    | with_reducible apply State.budgetsDue_inv
    | with_reducible apply State.deadlinesDue_inv
    | with_reducible apply State.fallDue_inv
    | with_reducible apply State.inOrder_inv
    | with_reducible apply State.startPhase_inv
    | with_reducible intro _
    | with_reducible refine ite_inv ?_ ?_
    | with_reducible refine ite_inv_fst ?_ ?_
    | dsimp only
    | (simp only [inv_mk]; with_reducible apply canon_of)
    | split

theorem execContextSwitchIn_inv {t : Nat} {e : Fin 96} {s : State} (hInv : s.Inv) : Keeps (execContextSwitchIn t e s) := by
  unfold execContextSwitchIn
  repeat' first
    | with_reducible assumption
    | with_reducible exact trivial
    | with_reducible apply keeps_next
    | with_reducible apply State.live_inv
    | with_reducible apply State.passEngine_inv
    | with_reducible apply State.tickDue_inv
    | with_reducible apply State.fallDue_inv
    | with_reducible apply State.inOrder_inv
    | with_reducible intro _
    | dsimp only
    | (simp only [inv_mk]; with_reducible apply canon_of)

theorem execContextSwap_inv {t : Nat} {e : Fin 96} {ue : Option (Fin 262144)} {s : State} (hInv : s.Inv) : Keeps (execContextSwap t e ue s) := by
  unfold execContextSwap
  repeat' first
    | with_reducible assumption
    | with_reducible exact trivial
    | with_reducible apply keeps_next
    | with_reducible apply State.live_inv
    | with_reducible apply State.swap_inv
    | with_reducible apply State.tickDue_inv
    | with_reducible apply State.fallDue_inv
    | with_reducible apply State.inOrder_inv
    | with_reducible intro _
    | dsimp only
    | (simp only [inv_mk]; with_reducible apply canon_of)

theorem execPlanActivate_inv {s : State} {t : Nat} (hInv : s.Inv) : Keeps (execPlanActivate t s) := by
  unfold execPlanActivate
  with_reducible apply keeps_next
  with_reducible refine State.live_inv ?_ (fun _ _ => ?_)
  with_reducible assumption
  split
  with_reducible exact State.activatePlan_inv (by assumption)
  with_reducible assumption

theorem State.beginShutdown_inv {s : State} {cause rail : Nat} (hInv : s.Inv) : (State.beginShutdown s cause rail).Inv := by
  unfold State.beginShutdown
  simp only
  split
  with_reducible assumption
  with_reducible refine foldl_inv (fun _ _ _ => ?_) ?_
  with_reducible exact State.setEng_inv (by assumption)
  simp only [inv_mk]
  with_reducible exact canon_of (State.wr_inv (by assumption))

theorem State.setSensorSt_inv {s : State} {i : Nat} {x : SensorSt} (hInv : s.Inv) : (State.setSensorSt s i x).Inv := by
  unfold State.setSensorSt
  simp only [inv_mk]
  with_reducible exact canon_of (by assumption)

theorem State.crossCheck_inv {s : State} {i : Nat} (hInv : s.Inv) : (State.crossCheck s i).Inv := by
  unfold State.crossCheck
  simp only
  split
  with_reducible assumption
  split
  with_reducible exact State.setSensorSt_inv (by assumption)
  split
  with_reducible exact State.setSensorSt_inv (by assumption)
  with_reducible exact postFault_inv (State.event_inv (State.setBit_inv (State.setSensorSt_inv (by assumption))))

theorem State.thermalRecord_inv {s : State} {cause cls i : Nat} (hInv : s.Inv) : (State.thermalRecord s cause cls i).Inv := by
  unfold State.thermalRecord
  with_reducible exact postFault_inv (by assumption)

theorem State.tripCheck_inv {s : State} {i : Nat} (hInv : s.Inv) : (State.tripCheck s i).Inv := by
  unfold State.tripCheck
  simp only
  split
  with_reducible exact State.setSensorSt_inv (by assumption)
  split
  with_reducible exact State.setSensorSt_inv (by assumption)
  split
  with_reducible assumption
  with_reducible exact State.beginShutdown_inv (State.thermalRecord_inv (by assumption))

theorem State.setDieSt_inv {s : State} {d : Nat} {x : DieSt} (hInv : s.Inv) : (State.setDieSt s d x).Inv := by
  unfold State.setDieSt
  simp only [inv_mk]
  with_reducible exact canon_of (by assumption)

theorem State.noteThrottle_inv {s : State} (hInv : s.Inv) : (State.noteThrottle s).Inv := by
  unfold State.noteThrottle
  simp only
  split
  simp only [inv_mk]
  with_reducible exact canon_of (by assumption)
  simp only [inv_mk]
  with_reducible exact canon_of (by assumption)
  with_reducible assumption

theorem State.applyThermal_inv {s : State} (hInv : s.Inv) : (State.applyThermal s).Inv := by
  unfold State.applyThermal
  with_reducible refine foldl_inv (fun _ _ _ => ?_) ?_
  with_reducible exact State.setEng_inv (by assumption)
  with_reducible exact State.noteThrottle_inv (by assumption)

theorem State.capDown_inv {s : State} {d i : Nat} (hInv : s.Inv) : (State.capDown s d i).Inv := by
  unfold State.capDown
  simp only
  split
  with_reducible exact State.thermalRecord_inv (State.event_inv (State.bump_inv (State.setDieSt_inv (by assumption))))
  with_reducible exact State.setDieSt_inv (by assumption)

theorem State.dieSample_inv {s : State} {d : Nat} (hInv : s.Inv) : (State.dieSample s d).Inv := by
  unfold State.dieSample
  simp only
  split
  with_reducible assumption
  split
  split
  with_reducible exact State.setFld_inv (by assumption)
  with_reducible exact State.capDown_inv (State.setFld_inv (by assumption))
  split
  with_reducible exact State.setDieSt_inv (State.setFld_inv (by assumption))
  with_reducible exact State.setDieSt_inv (State.setFld_inv (by assumption))

theorem State.sampleAll_inv {s : State} {readings : List Nat} (hInv : s.Inv) : (s.sampleAll readings).Inv := by
  unfold State.sampleAll
  extract_lets before s1 s2 s3 s4
  have h1 : s1.Inv := foldl_inv (fun s x h => State.setFld_inv h) hInv
  have h2 : s2.Inv := foldl_inv (fun s x h => State.crossCheck_inv h) h1
  have h3 : s3.Inv := foldl_inv (fun s x h => State.tripCheck_inv h) h2
  have h4 : s4.Inv := State.applyThermal_inv (foldl_inv (fun s x h => State.dieSample_inv h) h3)
  clear_value s4 before
  split
  · split
    · exact State.postResult_inv (State.takeRequest_inv h4)
    · exact h4
  · exact h4

theorem State.capStep_inv {s : State} {d : Nat} (hInv : s.Inv) : (State.capStep s d).Inv := by
  unfold State.capStep
  with_reducible apply State.applyThermal_inv
  split
  split
  with_reducible exact State.capDown_inv (by assumption)
  with_reducible assumption
  split
  with_reducible exact State.setDieSt_inv (by assumption)
  with_reducible assumption
  with_reducible assumption

theorem State.setRailSt_inv {s : State} {r : Nat} {x : RailSt} (hInv : s.Inv) : (State.setRailSt s r x).Inv := by
  unfold State.setRailSt
  simp only [inv_mk]
  with_reducible exact canon_of (by assumption)

theorem State.applyDroop_inv {s : State} (hInv : s.Inv) : (State.applyDroop s).Inv := by
  unfold State.applyDroop
  with_reducible refine foldl_inv (fun _ _ _ => ?_) ?_
  with_reducible exact State.setEng_inv (by assumption)
  with_reducible assumption

theorem State.noteLowest_inv {s : State} {r mv : Nat} (hInv : s.Inv) : (State.noteLowest s r mv).Inv := by
  unfold State.noteLowest
  with_reducible exact State.setFld_inv (by assumption)

theorem State.powerRecord_inv {s : State} {cause cls rail v : Nat} (hInv : s.Inv) : (State.powerRecord s cause cls rail v).Inv := by
  unfold State.powerRecord
  with_reducible exact postFault_inv (by assumption)

theorem State.droopStart_inv {s : State} {r mv : Nat} (hInv : s.Inv) : (State.droopStart s r mv).Inv := by
  unfold State.droopStart
  simp only
  split
  with_reducible assumption
  split
  with_reducible exact State.applyDroop_inv (State.setRailSt_inv (State.event_inv (State.noteLowest_inv (State.bump_inv (by assumption)))))
  with_reducible exact State.powerRecord_inv (State.applyDroop_inv (State.setRailSt_inv (State.event_inv (State.noteLowest_inv (State.bump_inv (by assumption))))))

theorem State.droopEnd_inv {s : State} {r : Nat} (hInv : s.Inv) : (State.droopEnd s r).Inv := by
  unfold State.droopEnd
  simp only
  split
  split
  with_reducible exact State.applyDroop_inv (State.setRailSt_inv (by assumption))
  with_reducible assumption
  with_reducible assumption

theorem State.undervolt_inv {s : State} {r mv : Nat} (hInv : s.Inv) : (State.undervolt s r mv).Inv := by
  unfold State.undervolt
  simp only
  split
  with_reducible assumption
  with_reducible exact State.beginShutdown_inv (State.powerRecord_inv (State.setBit_inv (State.noteLowest_inv (by assumption))))

theorem State.overcap_inv {s : State} {watts : Nat} (hInv : s.Inv) : (State.overcap s watts).Inv := by
  unfold State.overcap
  split
  with_reducible assumption
  with_reducible exact State.beginShutdown_inv (State.powerRecord_inv (by assumption))

theorem State.procSample_inv {s : State} {i n : Nat} (hInv : s.Inv) : (State.procSample s i n).Inv := by
  unfold State.procSample
  with_reducible exact State.wr_inv (by assumption)

theorem State.ctlCheck_inv {s : State} {u : CheckedUnit} {cls cause structure' da : Nat} (hInv : s.Inv) : (State.ctlCheck s u cls cause structure' da).Inv := by
  unfold State.ctlCheck
  with_reducible exact postFault_inv (by assumption)

theorem State.takeOut_inv {s : State} {u : CheckedUnit} (hInv : s.Inv) : (State.takeOut s u).Inv := by
  unfold State.takeOut
  simp only
  split
  simp only [inv_mk]
  with_reducible exact canon_of (by assumption)
  with_reducible exact State.setBit_inv (by assumption)
  split
  with_reducible assumption
  with_reducible exact State.failChannel_inv (by assumption)
  split
  with_reducible assumption
  with_reducible exact State.failLink_inv (by assumption)
  with_reducible assumption

theorem State.checkedPicture_inv {s : State} {u : CheckedUnit} (hInv : s.Inv) : (State.checkedPicture s u).Inv := by
  unfold State.checkedPicture
  repeat' first
    | with_reducible assumption
    | with_reducible apply State.failPic_inv
    | with_reducible refine inv_of_fst (by with_reducible assumption) ?_
    | with_reducible refine inv_of_snd (by with_reducible assumption) ?_
    | with_reducible intro _
    | dsimp only
    | (simp only [inv_mk]; with_reducible apply canon_of)
    | split

theorem State.unitCheck_inv {s : State} {u : CheckedUnit} {cause : Nat} {structure' : Nat} {da : Nat} (hInv : s.Inv) : (State.unitCheck s u cause structure' da).Inv := by
  unfold State.unitCheck
  repeat' first
    | with_reducible assumption
    | with_reducible apply State.takeOut_inv
    | with_reducible apply State.checkedPicture_inv
    | with_reducible apply State.ctlCheck_inv
    | with_reducible intro _
    | with_reducible refine ite_inv ?_ ?_
    | dsimp only
    | (simp only [inv_mk]; with_reducible apply canon_of)
    | split

theorem State.writeStReq_inv {s : State} {v : Nat} (hInv : s.Inv) : (State.writeStReq s v).Inv := by
  unfold State.writeStReq
  simp only
  split
  with_reducible exact State.regReserved_inv (by assumption)
  split
  with_reducible exact State.setBit_inv (State.bump_inv (by assumption))
  with_reducible apply State.setFld_inv
  simp only [inv_mk]
  with_reducible exact canon_of (by assumption)

theorem State.calibrationDone_inv {s : State} {tr : Tier} {ch : Nat} (hInv : s.Inv) : (State.calibrationDone s tr ch).Inv := by
  unfold State.calibrationDone
  simp only
  split
  split
  with_reducible exact State.postResult_inv (State.takeRequest_inv (State.calibrated_inv (by assumption)))
  with_reducible exact State.calibrated_inv (by assumption)
  split
  with_reducible exact State.postResult_inv (State.takeRequest_inv (State.calibrated_inv (by assumption)))
  with_reducible exact State.calibrated_inv (by assumption)

theorem State.setFullRate_inv {s : State} {since : Option Nat} (hInv : s.Inv) : (State.setFullRate s since).Inv := by
  unfold State.setFullRate
  with_reducible apply State.setBit_inv
  simp only [inv_mk]
  with_reducible exact canon_of (by assumption)

theorem State.writeStCtrl_inv {s : State} {v : Nat} (hInv : s.Inv) : (State.writeStCtrl s v).Inv := by
  unfold State.writeStCtrl
  simp only
  split
  split
  with_reducible exact State.wr_inv (by assumption)
  with_reducible exact State.setFullRate_inv (State.wr_inv (by assumption))
  with_reducible exact State.setFullRate_inv (State.wr_inv (by assumption))

theorem State.fullRateOver_inv {s : State} (hInv : s.Inv) : (State.fullRateOver s).Inv := by
  unfold State.fullRateOver
  split
  split
  with_reducible exact State.event_inv (State.setFullRate_inv (by assumption))
  with_reducible assumption
  with_reducible assumption

theorem State.lockstepMismatch_inv {s : State} {pc : Nat} (hInv : s.Inv) : (State.lockstepMismatch s pc).Inv := by
  unfold State.lockstepMismatch
  with_reducible apply postFault_inv
  simp only [inv_mk]
  with_reducible exact canon_of (by assumption)

theorem State.failover_inv {s : State} (hInv : s.Inv) : (State.failover s).Inv := by
  unfold State.failover
  simp only
  split
  simp only [inv_mk]
  with_reducible exact canon_of (by assumption)
  with_reducible assumption

theorem State.writeInject_inv {s : State} {v : Nat} (hInv : s.Inv) : (State.writeInject s v).Inv := by
  unfold State.writeInject
  simp only
  split
  with_reducible exact postFault_inv (by assumption)
  with_reducible exact State.regReserved_inv (by assumption)

theorem State.writeRingHead_inv {s : State} {v : Nat} (hInv : s.Inv) : (State.writeRingHead s v).Inv := by
  unfold State.writeRingHead
  split
  with_reducible exact State.regAccess_inv (by assumption)
  with_reducible exact State.wr_inv (by assumption)

theorem State.telFlush_inv {s : State} (hInv : s.Inv) : (State.telFlush s).Inv := by
  unfold State.telFlush
  simp only [inv_mk]
  with_reducible apply canon_of
  with_reducible refine foldl_inv (fun _ _ _ => ?_) ?_
  with_reducible exact State.storeIfMem_inv (by assumption)
  with_reducible assumption

theorem State.telForm_inv {s : State} (hInv : s.Inv) : (State.telForm s).Inv := by
  unfold State.telForm
  repeat' first
    | with_reducible assumption
    | with_reducible apply State.event_inv
    | with_reducible apply State.bump_inv
    | with_reducible apply State.setFld_inv
    | with_reducible apply State.telFlush_inv
    | with_reducible apply State.takeSlack_inv
    | with_reducible apply State.deferItem_inv
    | with_reducible intro _
    | with_reducible refine ite_inv ?_ ?_
    | dsimp only
    | (simp only [inv_mk]; with_reducible apply canon_of)
    | split

theorem execSensorSample_inv {s : State} {t : Nat} {readings : List (BitVec 16)} (hInv : s.Inv) : Keeps (execSensorSample t readings s) := by
  unfold execSensorSample
  with_reducible apply keeps_next
  with_reducible refine State.live_inv ?_ (fun _ _ => ?_)
  with_reducible assumption
  with_reducible exact State.sampleAll_inv (by assumption)

theorem execThermalCapStep_inv {s : State} {t : Nat} {die : Fin 4} (hInv : s.Inv) : Keeps (execThermalCapStep t die s) := by
  unfold execThermalCapStep
  with_reducible apply keeps_next
  with_reducible refine State.live_inv ?_ (fun _ _ => ?_)
  with_reducible assumption
  with_reducible exact State.capStep_inv (by assumption)

theorem execDroop_inv {s : State} {t : Nat} {rail : Fin 32} {mv : BitVec 16} (hInv : s.Inv) : Keeps (execDroop t rail mv s) := by
  unfold execDroop
  with_reducible apply keeps_next
  with_reducible refine State.live_inv ?_ (fun _ _ => ?_)
  with_reducible assumption
  with_reducible exact State.droopStart_inv (by assumption)

theorem execDroopRecover_inv {s : State} {t : Nat} {rail : Fin 32} (hInv : s.Inv) : Keeps (execDroopRecover t rail s) := by
  unfold execDroopRecover
  with_reducible apply keeps_next
  with_reducible refine State.live_inv ?_ (fun _ _ => ?_)
  with_reducible assumption
  with_reducible exact State.droopEnd_inv (by assumption)

theorem execUndervolt_inv {s : State} {t : Nat} {rail : Fin 32} {mv : BitVec 16} (hInv : s.Inv) : Keeps (execUndervolt t rail mv s) := by
  unfold execUndervolt
  with_reducible apply keeps_next
  with_reducible refine State.live_inv ?_ (fun _ _ => ?_)
  with_reducible assumption
  with_reducible exact State.undervolt_inv (by assumption)

theorem execOvercap_inv {s : State} {t : Nat} {watts : BitVec 16} (hInv : s.Inv) : Keeps (execOvercap t watts s) := by
  unfold execOvercap
  with_reducible apply keeps_next
  with_reducible refine State.live_inv ?_ (fun _ _ => ?_)
  with_reducible assumption
  with_reducible exact State.overcap_inv (by assumption)

theorem execProcMonitorSample_inv {s : State} {t : Nat} {i : Fin 32} {n : BitVec 32} (hInv : s.Inv) : Keeps (execProcMonitorSample t i n s) := by
  unfold execProcMonitorSample
  with_reducible apply keeps_next
  with_reducible refine State.live_inv ?_ (fun _ _ => ?_)
  with_reducible assumption
  with_reducible exact State.procSample_inv (by assumption)

theorem execUnitOutOfService_inv {s : State} {t : Nat} {u : CheckedUnit} {cause structure' : BitVec 8} {da : BitVec 64} (hInv : s.Inv) : Keeps (execUnitOutOfService t u cause structure' da s) := by
  unfold execUnitOutOfService
  with_reducible apply keeps_next
  with_reducible refine State.live_inv ?_ (fun _ _ => ?_)
  with_reducible assumption
  with_reducible exact State.unitCheck_inv (by assumption)

theorem execCalibrationEnd_inv {s : State} {t : Nat} {tier : Tier} {ch : Fin 256} (hInv : s.Inv) : Keeps (execCalibrationEnd t tier ch s) := by
  unfold execCalibrationEnd
  with_reducible apply keeps_next
  with_reducible refine State.live_inv ?_ (fun _ _ => ?_)
  with_reducible assumption
  with_reducible exact State.calibrationDone_inv (by assumption)

theorem execFullrateExpired_inv {s : State} {t : Nat} (hInv : s.Inv) : Keeps (execFullrateExpired t s) := by
  unfold execFullrateExpired
  with_reducible apply keeps_next
  with_reducible refine State.live_inv ?_ (fun _ _ => ?_)
  with_reducible assumption
  with_reducible exact State.fullRateOver_inv (by assumption)

theorem execLockstepMismatch_inv {s : State} {t : Nat} {pc : BitVec 64} (hInv : s.Inv) : Keeps (execLockstepMismatch t pc s) := by
  unfold execLockstepMismatch
  with_reducible apply keeps_next
  with_reducible refine State.live_inv ?_ (fun _ _ => ?_)
  with_reducible assumption
  with_reducible exact State.lockstepMismatch_inv (by assumption)

theorem execStewardFailover_inv {s : State} {t : Nat} (hInv : s.Inv) : Keeps (execStewardFailover t s) := by
  unfold execStewardFailover
  with_reducible apply keeps_next
  with_reducible refine State.live_inv ?_ (fun _ _ => ?_)
  with_reducible assumption
  with_reducible exact State.failover_inv (by assumption)

theorem execTelemetryRecord_inv {s : State} {t : Nat} (hInv : s.Inv) : Keeps (execTelemetryRecord t s) := by
  unfold execTelemetryRecord
  with_reducible apply keeps_next
  with_reducible refine State.live_inv ?_ (fun _ _ => ?_)
  with_reducible assumption
  split
  with_reducible exact State.telForm_inv (by assumption)
  with_reducible assumption

theorem State.setStage_inv {s : State} {n : Nat} (hInv : s.Inv) : (State.setStage s n).Inv := by
  unfold State.setStage
  with_reducible exact State.setFld_inv (by assumption)

theorem State.secRecord_inv {s : State} {code cls slot cause record : Nat} (hInv : s.Inv) : (State.secRecord s code cls slot cause record).Inv := by
  unfold State.secRecord
  with_reducible exact postFault_inv (by assumption)

theorem State.postRejected_inv {s : State} {cls : Nat} (hInv : s.Inv) : (State.postRejected s cls).Inv := by
  unfold State.postRejected
  with_reducible refine foldl_inv (fun _ _ _ => ?_) ?_
  with_reducible exact State.secRecord_inv (by assumption)
  with_reducible assumption

theorem State.slotPassed_inv {s : State} {slot : Nat} (hInv : s.Inv) : (State.slotPassed s slot).Inv := by
  unfold State.slotPassed
  simp only [inv_mk]
  with_reducible apply canon_of
  with_reducible refine foldl_inv (fun _ _ _ => ?_) ?_
  with_reducible exact State.wr_inv (by assumption)
  with_reducible exact State.wr_inv (State.wr_inv (by assumption))

theorem State.slotVerify_inv {s : State} (hInv : s.Inv) : (State.slotVerify s).Inv := by
  unfold State.slotVerify
  simp only
  split
  with_reducible assumption
  split
  with_reducible exact State.slotPassed_inv (State.postRejected_inv (by assumption))
  split
  split
  with_reducible apply State.postRejected_inv
  with_reducible apply State.setStage_inv
  simp only [inv_mk]
  with_reducible exact canon_of (by assumption)
  simp only [inv_mk]
  with_reducible exact canon_of (by assumption)
  split
  with_reducible apply State.postRejected_inv
  with_reducible apply State.setStage_inv
  simp only [inv_mk]
  with_reducible exact canon_of (by assumption)
  simp only [inv_mk]
  with_reducible exact canon_of (by assumption)

theorem State.showSign_inv {s : State} {written : Nat} (hInv : s.Inv) : (State.showSign s written).Inv := by
  unfold State.showSign
  with_reducible exact State.wr_inv (State.wr_inv (by assumption))

theorem State.signFault_inv {s : State} {cause : Nat} (hInv : s.Inv) : (State.signFault s cause).Inv := by
  unfold State.signFault
  with_reducible exact State.secRecord_inv (State.event_inv (by assumption))

theorem State.signLog_inv {s : State} {jRes kind : Nat} {fail : Bool} (hInv : s.Inv) : (State.signLog s jRes kind fail).Inv := by
  unfold State.signLog
  with_reducible apply State.showSign_inv
  simp only [inv_mk]
  with_reducible apply canon_of
  with_reducible apply State.logAppend_inv
  split
  with_reducible apply State.signFault_inv
  simp only [inv_mk]
  with_reducible exact canon_of (by assumption)
  with_reducible assumption

theorem State.signErase_inv {s : State} {n : Nat} {fail : Bool} (hInv : s.Inv) : (State.signErase s n fail).Inv := by
  unfold State.signErase
  repeat' first
    | with_reducible assumption
    | with_reducible apply State.signFault_inv
    | with_reducible apply State.norErase_inv
    | with_reducible apply State.showSign_inv
    | with_reducible intro _
    | with_reducible refine ite_inv ?_ ?_
    | dsimp only
    | (simp only [inv_mk]; with_reducible apply canon_of)
    | split

theorem State.readSigning_inv {s : State} (hInv : s.Inv) : (State.readSigning s).Inv := by
  unfold State.readSigning
  with_reducible apply State.showSign_inv
  simp only [inv_mk]
  with_reducible exact canon_of (by assumption)

theorem State.norDiscovery_inv {s : State} {ok : Bool} (hInv : s.Inv) : (State.norDiscovery s ok).Inv := by
  unfold State.norDiscovery
  split
  with_reducible assumption
  split
  with_reducible exact State.readSigning_inv (State.setStage_inv (by assumption))
  with_reducible exact State.secRecord_inv (State.setStage_inv (by assumption))

theorem State.burnFault_inv {s : State} (hInv : s.Inv) : (State.burnFault s).Inv := by
  unfold State.burnFault
  with_reducible exact State.secRecord_inv (State.event_inv (by assumption))

theorem State.svnCommit_inv {s : State} {fail : Bool} (hInv : s.Inv) : (State.svnCommit s fail).Inv := by
  unfold State.svnCommit
  simp only
  split
  with_reducible assumption
  split
  with_reducible exact State.burnFault_inv (by assumption)
  with_reducible apply State.setFld_inv
  simp only [inv_mk]
  with_reducible exact canon_of (by assumption)

theorem State.revokeKey_inv {s : State} {k : Nat} {fail : Bool} (hInv : s.Inv) : (State.revokeKey s k fail).Inv := by
  unfold State.revokeKey
  simp only
  split
  with_reducible exact State.regAccess_inv (by assumption)
  split
  with_reducible exact State.burnFault_inv (by assumption)
  split
  with_reducible assumption
  simp only [inv_mk]
  with_reducible exact canon_of (by assumption)

theorem State.writeSecCtrl_inv {s : State} {v : Nat} {fail : Bool} (hInv : s.Inv) : (State.writeSecCtrl s v fail).Inv := by
  unfold State.writeSecCtrl
  simp only
  split
  with_reducible apply State.revokeKey_inv
  split
  with_reducible exact State.svnCommit_inv (by assumption)
  with_reducible assumption
  split
  with_reducible exact State.svnCommit_inv (by assumption)
  with_reducible assumption

theorem State.writeOtpKey_inv {s : State} {v : Nat} {fail : Bool} (hInv : s.Inv) : (State.writeOtpKey s v fail).Inv := by
  unfold State.writeOtpKey
  simp only
  split
  with_reducible exact State.regAccess_inv (by assumption)
  split
  with_reducible exact State.burnFault_inv (by assumption)
  simp only [inv_mk]
  with_reducible exact canon_of (by assumption)

theorem State.showAttest_inv {s : State} {st result : Nat} (hInv : s.Inv) : (State.showAttest s st result).Inv := by
  unfold State.showAttest
  with_reducible exact State.setFld_inv (State.setFld_inv (State.setFld_inv (by assumption)))

theorem State.attestDone_inv {s : State} {result : Nat} (hInv : s.Inv) : (State.attestDone s result).Inv := by
  unfold State.attestDone
  with_reducible exact State.event_inv (State.showAttest_inv (by assumption))

theorem State.attestSign_inv {s : State} {fail : Bool} (hInv : s.Inv) : (State.attestSign s fail).Inv := by
  unfold State.attestSign
  simp only
  split
  with_reducible exact State.attestDone_inv (by assumption)
  with_reducible apply State.attestDone_inv
  with_reducible apply State.showSign_inv
  with_reducible apply State.bump_inv
  simp only [inv_mk]
  with_reducible apply canon_of
  with_reducible apply State.store_inv
  split
  with_reducible exact State.signLog_inv (by assumption)
  with_reducible assumption

theorem State.attestGo_inv {s : State} {fail : Bool} (hInv : s.Inv) : (State.attestGo s fail).Inv := by
  unfold State.attestGo
  repeat' first
    | with_reducible assumption
    | with_reducible apply State.regAccess_inv
    | with_reducible apply State.attestDone_inv
    | with_reducible apply State.attestSign_inv
    | with_reducible apply State.showAttest_inv
    | with_reducible intro _
    | with_reducible refine ite_inv ?_ ?_
    | dsimp only
    | (simp only [inv_mk]; with_reducible apply canon_of)
    | split

theorem State.treeBegin_inv {s : State} {burnFail logFail : Bool} (hInv : s.Inv) : (State.treeBegin s burnFail logFail).Inv := by
  unfold State.treeBegin
  simp only
  split
  with_reducible assumption
  split
  split
  with_reducible apply State.attestDone_inv
  simp only [inv_mk]
  with_reducible apply canon_of
  with_reducible apply State.signFault_inv
  with_reducible apply State.showSign_inv
  simp only [inv_mk]
  with_reducible exact canon_of (by assumption)
  with_reducible apply State.signFault_inv
  with_reducible apply State.showSign_inv
  simp only [inv_mk]
  with_reducible exact canon_of (by assumption)
  split
  with_reducible exact State.burnFault_inv (by assumption)
  split
  with_reducible apply State.attestSign_inv
  simp only [inv_mk]
  with_reducible apply canon_of
  with_reducible apply State.showSign_inv
  simp only [inv_mk]
  with_reducible apply canon_of
  with_reducible apply State.signLog_inv
  simp only [inv_mk]
  with_reducible exact canon_of (by assumption)
  with_reducible apply State.showSign_inv
  simp only [inv_mk]
  with_reducible apply canon_of
  with_reducible apply State.signLog_inv
  simp only [inv_mk]
  with_reducible exact canon_of (by assumption)

theorem State.attestRefill_inv {s : State} (hInv : s.Inv) : (State.attestRefill s).Inv := by
  unfold State.attestRefill
  simp only
  split
  with_reducible assumption
  with_reducible apply State.setFld_inv
  simp only [inv_mk]
  with_reducible exact canon_of (by assumption)

theorem State.writeNorCtrl_inv {s : State} {v : Nat} (hInv : s.Inv) : (State.writeNorCtrl s v).Inv := by
  unfold State.writeNorCtrl
  simp only
  split
  with_reducible exact State.regAccess_inv (by assumption)
  split
  with_reducible exact State.regReserved_inv (by assumption)
  split
  with_reducible exact State.secRecord_inv (State.event_inv (State.wr_inv (by assumption)))
  simp only [inv_mk]
  with_reducible exact canon_of (State.wr_inv (by assumption))

theorem State.norRun_inv {s s' : State} {o : NorOp} (e : s.norRun o = some s') (hInv : s.Inv) : s'.Inv := by
  unfold State.norRun at e
  split at e
  · split at e
    · cases e
    · cases e; exact State.store_inv hInv
  · split at e
    · cases e
    · cases e; exact State.norProgram_inv hInv
  · cases e; exact State.norErase_inv hInv

theorem State.norEnd_inv {s : State} {o : NorOp} {fail : Bool} (hInv : s.Inv) : (State.norEnd s o fail).Inv := by
  unfold State.norEnd
  with_reducible apply State.event_inv
  with_reducible apply State.wr_inv
  simp only [inv_mk]
  with_reducible apply canon_of
  split
  refine State.norRun_inv (by with_reducible assumption) ?_
  with_reducible assumption
  with_reducible assumption

theorem State.norDone_inv {s : State} {fail : Bool} (hInv : s.Inv) : (State.norDone s fail).Inv := by
  unfold State.norDone
  repeat' first
    | with_reducible assumption
    | with_reducible apply State.logProgram_inv
    | with_reducible apply State.norEnd_inv
    | with_reducible apply State.signErase_inv
    | with_reducible refine inv_of_fst (by with_reducible assumption) ?_
    | with_reducible refine inv_of_snd (by with_reducible assumption) ?_
    | with_reducible intro _
    | with_reducible refine ite_inv ?_ ?_
    | dsimp only
    | (simp only [inv_mk]; with_reducible apply canon_of)
    | split

theorem execNorDiscovery_inv {s : State} {t : Nat} {ok : Bool} (hInv : s.Inv) : Keeps (execNorDiscovery t ok s) := by
  unfold execNorDiscovery
  with_reducible apply keeps_next
  with_reducible refine State.live_inv ?_ (fun _ _ => ?_)
  with_reducible assumption
  with_reducible exact State.norDiscovery_inv (by assumption)

theorem execSlotVerify_inv {s : State} {t : Nat} (hInv : s.Inv) : Keeps (execSlotVerify t s) := by
  unfold execSlotVerify
  with_reducible apply keeps_next
  with_reducible refine State.live_inv ?_ (fun _ _ => ?_)
  with_reducible assumption
  with_reducible exact State.slotVerify_inv (by assumption)

theorem execTreeBegin_inv {s : State} {t : Nat} {burnFail logFail : Bool} (hInv : s.Inv) : Keeps (execTreeBegin t burnFail logFail s) := by
  unfold execTreeBegin
  with_reducible apply keeps_next
  with_reducible refine State.live_inv ?_ (fun _ _ => ?_)
  with_reducible assumption
  with_reducible exact State.treeBegin_inv (by assumption)

theorem execAttestTokenRefill_inv {s : State} {t : Nat} (hInv : s.Inv) : Keeps (execAttestTokenRefill t s) := by
  unfold execAttestTokenRefill
  with_reducible apply keeps_next
  with_reducible refine State.live_inv ?_ (fun _ _ => ?_)
  with_reducible assumption
  with_reducible exact State.attestRefill_inv (by assumption)

theorem execNorOpDone_inv {s : State} {t : Nat} {fail : Bool} (hInv : s.Inv) : Keeps (execNorOpDone t fail s) := by
  unfold execNorOpDone
  with_reducible apply keeps_next
  with_reducible refine State.live_inv ?_ (fun _ _ => ?_)
  with_reducible assumption
  with_reducible exact State.norDone_inv (by assumption)

theorem State.writeUser_inv {s : State} {e : Nat} {a : Nat} {v : Nat} (hInv : s.Inv) : (State.writeUser s e a v).Inv := by
  unfold State.writeUser
  repeat' first
    | with_reducible assumption
    | with_reducible apply State.wr_inv
    | with_reducible apply postFault_inv
    | with_reducible apply State.event_inv
    | with_reducible intro _
    | with_reducible refine ite_inv ?_ ?_
    | dsimp only
    | (simp only [inv_mk]; with_reducible apply canon_of)
    | split

theorem State.writeDpCtrl_inv {s : State} {e : Nat} {v : Nat} (hInv : s.Inv) : (State.writeDpCtrl s e v).Inv := by
  unfold State.writeDpCtrl
  repeat' first
    | with_reducible assumption
    | with_reducible apply State.wr_inv
    | with_reducible apply State.injectHeld_inv
    | with_reducible apply State.setEng_inv
    | with_reducible intro _
    | dsimp only
    | (simp only [inv_mk]; with_reducible apply canon_of)
    | split

theorem State.writeSeed_inv {s : State} {e v : Nat} (hInv : s.Inv) : (State.writeSeed s e v).Inv := by
  unfold State.writeSeed
  with_reducible exact State.setEng_inv (State.wr_inv (by assumption))

theorem State.writeQReg_inv {s : State} {e : Nat} {q : Nat} {a : Nat} {o : Nat} {v : Nat} (hInv : s.Inv) : (State.writeQReg s e q a o v).Inv := by
  unfold State.writeQReg
  repeat' first
    | with_reducible assumption
    | with_reducible apply State.wr_inv
    | with_reducible apply State.writeQCfg_inv
    | with_reducible apply State.writeQCtrl_inv
    | with_reducible intro _
    | with_reducible refine ite_inv ?_ ?_
    | dsimp only
    | (simp only [inv_mk]; with_reducible apply canon_of)
    | split

theorem State.writeEng_inv {s : State} {e a o v : Nat} (hInv : s.Inv) : (State.writeEng s e a o v).Inv := by
  unfold State.writeEng
  split
  with_reducible exact State.writeDpCtrl_inv (by assumption)
  split
  with_reducible exact State.writeSeed_inv (by assumption)
  split
  with_reducible exact State.writeUser_inv (by assumption)
  split
  with_reducible exact State.writeQReg_inv (by assumption)
  split
  with_reducible exact State.writeImemSwap_inv (by assumption)
  split
  with_reducible exact State.writeImemWin_inv (by assumption)
  with_reducible exact State.wr_inv (by assumption)

theorem State.writeTierCtrl_inv {s : State} {tr : Tier} {v : Nat} (hInv : s.Inv) : (State.writeTierCtrl s tr v).Inv := by
  unfold State.writeTierCtrl
  repeat' first
    | with_reducible assumption
    | with_reducible apply State.wr_inv
    | with_reducible apply State.beginFloor_inv
    | with_reducible apply State.setBit_inv
    | with_reducible intro _
    | with_reducible refine ite_inv ?_ ?_
    | dsimp only
    | (simp only [inv_mk]; with_reducible apply canon_of)
    | split

theorem State.writeMapCommit_inv {s : State} {tr : Tier} {v : Nat} (hInv : s.Inv) : (State.writeMapCommit s tr v).Inv := by
  unfold State.writeMapCommit
  repeat' first
    | with_reducible assumption
    | with_reducible apply State.regAccess_inv
    | with_reducible apply State.mapCommit_inv
    | with_reducible apply State.loseDisplaced_inv
    | with_reducible intro _
    | with_reducible refine ite_inv ?_ ?_
    | dsimp only
    | (simp only [inv_mk]; with_reducible apply canon_of)
    | split

theorem State.writeTier_inv {s : State} {tr : Tier} {a : Nat} {v : Nat} (hInv : s.Inv) : (State.writeTier s tr a v).Inv := by
  unfold State.writeTier
  repeat' first
    | with_reducible assumption
    | with_reducible apply State.wr_inv
    | with_reducible apply State.writeTierCtrl_inv
    | with_reducible apply State.writeMapCommit_inv
    | with_reducible apply State.writeMapout_inv
    | with_reducible apply State.ratesChange_inv
    | with_reducible refine inv_of_fst (by with_reducible assumption) ?_
    | with_reducible refine inv_of_snd (by with_reducible assumption) ?_
    | with_reducible intro _
    | with_reducible refine ite_inv ?_ ?_
    | dsimp only
    | (simp only [inv_mk]; with_reducible apply canon_of)
    | split

theorem State.writeTck_inv {s : State} {a v raw : Nat} (hInv : s.Inv) : (State.writeTck s a v raw).Inv := by
  unfold State.writeTck
  split
  with_reducible exact State.writeTckCtrl_inv (by assumption)
  split
  with_reducible exact State.writePhaseSkip_inv (by assumption)
  with_reducible exact State.wr_inv (by assumption)

theorem State.writeKtf_inv {s : State} {a : Nat} {v : Nat} (hInv : s.Inv) : (State.writeKtf s a v).Inv := by
  unfold State.writeKtf
  repeat' first
    | with_reducible assumption
    | with_reducible apply State.wr_inv
    | with_reducible apply State.writeKtfCtrl_inv
    | with_reducible apply State.retrain_inv
    | with_reducible refine inv_of_fst (by with_reducible assumption) ?_
    | with_reducible refine inv_of_snd (by with_reducible assumption) ?_
    | with_reducible intro _
    | with_reducible refine ite_inv ?_ ?_
    | dsimp only
    | (simp only [inv_mk]; with_reducible apply canon_of)
    | split

theorem State.writeIng_inv {s : State} {a : Nat} {v : Nat} {raw : Nat} (hInv : s.Inv) : (State.writeIng s a v raw).Inv := by
  unfold State.writeIng
  repeat' first
    | with_reducible assumption
    | with_reducible apply State.wr_inv
    | with_reducible apply State.cfgSwap_inv
    | with_reducible apply State.pubRestart_inv
    | with_reducible intro _
    | with_reducible refine ite_inv ?_ ?_
    | dsimp only
    | (simp only [inv_mk]; with_reducible apply canon_of)
    | split

theorem State.writeVdc_inv {s : State} {a v : Nat} (hInv : s.Inv) : (State.writeVdc s a v).Inv := by
  unfold State.writeVdc
  split
  with_reducible exact State.releasePics_inv (by assumption)
  split
  with_reducible exact State.rearm_inv (by assumption)
  with_reducible exact State.wr_inv (by assumption)

theorem State.writeSch_inv {s : State} {a : Nat} {v : Nat} (hInv : s.Inv) : (State.writeSch s a v).Inv := by
  unfold State.writeSch
  repeat' first
    | with_reducible assumption
    | with_reducible apply State.wr_inv
    | with_reducible apply State.writeCtxCfg_inv
    | with_reducible apply State.writeCtxCtrl_inv
    | with_reducible apply State.writeCtxQ_inv
    | with_reducible apply State.writeStandin_inv
    | with_reducible apply State.abortPartition_inv
    | with_reducible apply State.writeJobCfg_inv
    | with_reducible refine inv_of_fst (by with_reducible assumption) ?_
    | with_reducible refine inv_of_snd (by with_reducible assumption) ?_
    | with_reducible intro _
    | with_reducible refine ite_inv ?_ ?_
    | dsimp only
    | (simp only [inv_mk]; with_reducible apply canon_of)
    | split

theorem State.writeTelCfg_inv {s : State} {v : Nat} (hInv : s.Inv) : (State.writeTelCfg s v).Inv := by
  unfold State.writeTelCfg
  simp only
  split
  simp only [inv_mk]
  with_reducible exact canon_of (State.wr_inv (by assumption))
  with_reducible exact State.wr_inv (by assumption)

theorem State.writeHlt_inv {s : State} {a : Nat} {v : Nat} (hInv : s.Inv) : (State.writeHlt s a v).Inv := by
  unfold State.writeHlt
  repeat' first
    | with_reducible assumption
    | with_reducible apply State.wr_inv
    | with_reducible apply State.writeStCtrl_inv
    | with_reducible apply State.writeStReq_inv
    | with_reducible apply State.writeTelCfg_inv
    | with_reducible intro _
    | with_reducible refine ite_inv ?_ ?_
    | dsimp only
    | (simp only [inv_mk]; with_reducible apply canon_of)
    | split

theorem State.writeSec_inv {s : State} {a v : Nat} {fail : Bool} (hInv : s.Inv) : (State.writeSec s a v fail).Inv := by
  unfold State.writeSec
  split
  with_reducible exact State.writeSecCtrl_inv (by assumption)
  split
  with_reducible exact State.writeOtpKey_inv (by assumption)
  split
  split
  with_reducible exact State.attestGo_inv (by assumption)
  with_reducible assumption
  split
  with_reducible exact State.writeNorCtrl_inv (by assumption)
  with_reducible exact State.wr_inv (by assumption)

theorem State.writeFlt_inv {s : State} {a : Nat} {v : Nat} (hInv : s.Inv) : (State.writeFlt s a v).Inv := by
  unfold State.writeFlt
  repeat' first
    | with_reducible assumption
    | with_reducible apply State.wr_inv
    | with_reducible apply State.writeRingHead_inv
    | with_reducible apply State.writeInject_inv
    | with_reducible intro _
    | with_reducible refine ite_inv ?_ ?_
    | dsimp only
    | (simp only [inv_mk]; with_reducible apply canon_of)
    | split

theorem State.applyWrite_inv {s : State} {a : Nat} {v : Nat} {raw : Nat} {fail : Bool} (hInv : s.Inv) : (State.applyWrite s a v raw fail).Inv := by
  unfold State.applyWrite
  repeat' first
    | with_reducible assumption
    | with_reducible apply State.wr_inv
    | with_reducible apply State.writeTck_inv
    | with_reducible apply State.writeEng_inv
    | with_reducible apply State.writeTier_inv
    | with_reducible apply State.writeKtf_inv
    | with_reducible apply State.writeIng_inv
    | with_reducible apply State.writeVdc_inv
    | with_reducible apply State.writeSch_inv
    | with_reducible apply State.writeHlt_inv
    | with_reducible apply State.writeSec_inv
    | with_reducible apply State.writeFlt_inv
    | with_reducible refine inv_of_fst (by with_reducible assumption) ?_
    | with_reducible refine inv_of_snd (by with_reducible assumption) ?_
    | with_reducible intro _
    | dsimp only
    | (simp only [inv_mk]; with_reducible apply canon_of)
    | split

theorem State.refuseWrite_inv {s : State} {ag : Agent} (hInv : s.Inv) : (State.refuseWrite s ag).Inv := by
  unfold State.refuseWrite
  split
  with_reducible exact State.event_inv (by assumption)
  with_reducible assumption

theorem State.writeRow_inv {s : State} {d : RegDesc} {a : Nat} {v : Nat} {fail : Bool} (hInv : s.Inv) : (State.writeRow s d a v fail).Inv := by
  unfold State.writeRow
  repeat' first
    | with_reducible assumption
    | with_reducible apply State.wr_inv
    | with_reducible apply State.regAccess_inv
    | with_reducible apply State.regReserved_inv
    | with_reducible apply State.applyWrite_inv
    | with_reducible refine inv_of_fst (by with_reducible assumption) ?_
    | with_reducible refine inv_of_snd (by with_reducible assumption) ?_
    | with_reducible intro _
    | with_reducible refine ite_inv ?_ ?_
    | dsimp only
    | (simp only [inv_mk]; with_reducible apply canon_of)
    | split

theorem State.writeReg_inv {s : State} {ag : Agent} {a width v : Nat} {fail : Bool} (hInv : s.Inv) : (State.writeReg s ag a width v fail).Inv := by
  unfold State.writeReg
  split
  with_reducible assumption
  split
  with_reducible exact State.refuseWrite_inv (by assumption)
  split
  with_reducible exact State.regAccess_inv (by assumption)
  split
  with_reducible exact State.regAccess_inv (by assumption)
  with_reducible exact State.writeRow_inv (by assumption)

theorem State.writeFrom_inv {s : State} {ag : Agent} {a : Nat} {width : Nat} {v : Nat} {fail : Bool} (hInv : s.Inv) : (State.writeFrom s ag a width v fail).Inv := by
  unfold State.writeFrom
  repeat' first
    | with_reducible assumption
    | with_reducible apply State.writeReg_inv
    | with_reducible apply State.inOrder_inv
    | with_reducible intro _
    | dsimp only
    | (simp only [inv_mk]; with_reducible apply canon_of)

theorem State.readAt_inv {s : State} {a width : Nat} (hInv : s.Inv) : (State.readAt s a width).2.Inv := by
  unfold State.readAt
  split
  with_reducible exact State.regAccess_inv (by assumption)
  split
  with_reducible exact State.regAccess_inv (by assumption)
  with_reducible assumption

end Sys2Proof.Machine
end

