-- ==== Sys2Proof/Laws/InvWrites.lean ====
section
/-! SUPPORT. The invariant of State through boot, power, register accesses, inbound requests and the step: every operation and every command of these files keeps it. -/

namespace Sys2Proof.Machine

theorem State.showRepairs_inv {s : State} {xs : List (Nat × Nat × Nat)} (hInv : s.Inv) : (State.showRepairs s xs).Inv := by
  unfold State.showRepairs
  split
  with_reducible assumption
  with_reducible exact State.wr_inv (by assumption)

theorem State.failLanes_inv {s : State} {xs : List (Nat × Nat × Nat)} (hInv : s.Inv) : (State.failLanes s xs).Inv := by
  unfold State.failLanes
  with_reducible refine foldl_inv (fun _ _ _ => ?_) ?_
  with_reducible exact State.failTraining_inv (by assumption)
  with_reducible exact State.showRepairs_inv (by assumption)

theorem State.trainTier_inv {s : State} {tr : Tier} {chs : List Nat} {lanes : List (Nat × Nat × Nat)} (hInv : s.Inv) : (State.trainTier s tr chs lanes).Inv := by
  unfold State.trainTier
  repeat' first
    | with_reducible assumption
    | with_reducible apply State.failLanes_inv
    | with_reducible apply State.failTraining_inv
    | with_reducible apply State.fixRange_inv
    | with_reducible apply State.beginFloor_inv
    | with_reducible apply State.setBit_inv
    | with_reducible refine inv_of_fst (by with_reducible assumption) ?_
    | with_reducible refine inv_of_snd (by with_reducible assumption) ?_
    | with_reducible refine foldl_inv (fun _ _ _ => ?_) ?_
    | with_reducible refine foldl_inv_fst (fun _ _ _ => ?_) ?_
    | with_reducible intro _
    | with_reducible refine ite_inv ?_ ?_
    | dsimp only
    | (simp only [inv_mk]; with_reducible apply canon_of)
    | split
    | (simp only [inv_mk]; with_reducible apply canon_drop)

theorem State.bootTest_inv {s : State} {e items : Nat} (hInv : s.Inv) : (State.bootTest s e items).Inv := by
  unfold State.bootTest
  simp only
  split
  with_reducible exact State.setEngHealth_inv (State.bump_inv (by assumption))
  with_reducible exact State.selfTestRecord_inv (State.event_inv (State.setEngineOut_inv (State.setEngHealth_inv (State.bump_inv (by assumption)))))

theorem State.bootTests_inv {s : State} {bad : List (Nat × Nat)} (hInv : s.Inv) : (State.bootTests s bad).Inv := by
  unfold State.bootTests
  simp only
  split
  with_reducible assumption
  with_reducible refine foldl_inv (fun _ _ _ => ?_) ?_
  with_reducible exact State.bootTest_inv (by assumption)
  simp only [inv_mk]
  with_reducible exact canon_of (by assumption)

theorem State.loadRecord_inv {s s' : State} {target : Nat} {bs : List Byte} (e : s.loadRecord target bs = .applied s')
    (hInv : s.Inv) : s'.Inv := by
  unfold State.loadRecord at e
  split at e
  · cases e
  · split at e
    · split at e
      · cases e
      · cases e; exact State.store_inv hInv
    · split at e <;> cases e

theorem State.regRecord_inv {s : State} {bs : List Byte} (hInv : s.Inv) : (State.regRecord s bs).Inv := by
  unfold State.regRecord
  with_reducible refine foldl_inv (fun _ _ _ => ?_) ?_
  with_reducible exact State.writeReg_inv (by assumption)
  with_reducible assumption

theorem State.keeperRecord_inv {s : State} {bs : List Byte} (hInv : s.Inv) : (State.keeperRecord s bs).Inv := by
  unfold State.keeperRecord
  with_reducible refine foldl_inv (fun _ _ _ => ?_) ?_
  with_reducible exact State.imemStore_inv (by assumption)
  with_reducible assumption

theorem State.partRecord_inv {s : State} {bs : List Byte} (hInv : s.Inv) : (State.partRecord s bs).Inv := by
  unfold State.partRecord
  simp only [inv_mk]
  with_reducible exact canon_of (by assumption)

theorem State.hatchRecord_inv {s s' : State} {n : Nat} (e : s.hatchRecord n = .applied s') (hInv : s.Inv) : s'.Inv := by
  unfold State.hatchRecord at e
  repeat' split at e
  all_goals first
    | (cases e; done)
    | (cases e; exact State.fixHatch_inv hInv)

theorem State.applyRecord_inv {s s' : State} {type target : Nat} {bs : List Byte} (e : s.applyRecord type target bs = .applied s') (hInv : s.Inv) : s'.Inv := by
  unfold State.applyRecord at e
  split at e
  · cases e; exact State.regRecord_inv hInv
  · exact State.loadRecord_inv e hInv
  · exact State.loadRecord_inv e (inv_any hInv)
  · cases e; exact State.keeperRecord_inv hInv
  · cases e; exact State.partRecord_inv hInv
  · exact State.hatchRecord_inv e hInv
  · cases e; exact State.wr_inv hInv
  · cases e

theorem State.bootEnds_inv {s : State} (hInv : s.Inv) : (State.bootEnds s).Inv := by
  unfold State.bootEnds
  with_reducible exact State.wr_inv (State.setStage_inv (by assumption))

theorem State.applyRecords_inv {s : State} {slot : Nat} {a2 : Nat} (hInv : s.Inv) : (State.applyRecords s slot a2).Inv := by
  induction a2 generalizing s slot with
  | zero =>
    unfold State.applyRecords
    repeat' first
      | with_reducible assumption
      | with_reducible apply State.bootEnds_inv
      | with_reducible apply State.secRecord_inv
      | with_reducible apply State.setStage_inv
      | with_reducible refine inv_of_fst (by with_reducible assumption) ?_
      | with_reducible refine inv_of_snd (by with_reducible assumption) ?_
      | with_reducible intro _
      | with_reducible refine ite_inv ?_ ?_
      | dsimp only
      | (simp only [inv_mk]; with_reducible apply canon_of)
      | split
      | with_reducible exact State.applyRecord_inv (by with_reducible assumption) (by with_reducible assumption)
  | succ k ih =>
    unfold State.applyRecords
    repeat' first
      | with_reducible assumption
      | with_reducible apply ih
      | with_reducible assumption
      | with_reducible apply State.bootEnds_inv
      | with_reducible apply State.secRecord_inv
      | with_reducible apply State.setStage_inv
      | with_reducible refine inv_of_fst (by with_reducible assumption) ?_
      | with_reducible refine inv_of_snd (by with_reducible assumption) ?_
      | with_reducible intro _
      | with_reducible refine ite_inv ?_ ?_
      | dsimp only
      | (simp only [inv_mk]; with_reducible apply canon_of)
      | split
      | with_reducible exact State.applyRecord_inv (by with_reducible assumption) (by with_reducible assumption)

theorem State.recordsOn_inv {s : State} (hInv : s.Inv) : (State.recordsOn s).Inv := by
  unfold State.recordsOn
  split
  with_reducible assumption
  split
  with_reducible exact State.applyRecords_inv (State.setStage_inv (by assumption))
  with_reducible assumption

theorem execTierTrain_inv {s : State} {t : Nat} {tier : Tier} {chs : List (Fin 256)} {lanes : List (Fin 12 × Fin 16 × Fin 64)} (hInv : s.Inv) : Keeps (execTierTrain t tier chs lanes s) := by
  unfold execTierTrain
  with_reducible apply keeps_next
  with_reducible refine State.live_inv ?_ (fun _ _ => ?_)
  with_reducible assumption
  with_reducible exact State.trainTier_inv (by assumption)

theorem execBootEngineTest_inv {s : State} {t : Nat} {bad : List (Fin 96 × BitVec 12)} (hInv : s.Inv) : Keeps (execBootEngineTest t bad s) := by
  unfold execBootEngineTest
  with_reducible apply keeps_next
  with_reducible refine State.live_inv ?_ (fun _ _ => ?_)
  with_reducible assumption
  with_reducible exact State.bootTests_inv (by assumption)

theorem execRecordApply_inv {s : State} {t : Nat} (hInv : s.Inv) : Keeps (execRecordApply t s) := by
  unfold execRecordApply
  with_reducible apply keeps_next
  with_reducible refine State.live_inv ?_ (fun _ _ => ?_)
  with_reducible assumption
  with_reducible exact State.recordsOn_inv (by assumption)

theorem State.resetAll_inv {s : State} {power : PowerSt} (hInv : s.Inv) : (State.resetAll s power).Inv := by
  unfold State.resetAll
  repeat' first
    | with_reducible assumption
    | with_reducible apply State.wr_inv
    | with_reducible apply State.setBit_inv
    | with_reducible refine foldl_inv (fun _ _ _ => ?_) ?_
    | with_reducible refine foldl_inv_fst (fun _ _ _ => ?_) ?_
    | with_reducible intro _
    | dsimp only
    | (simp only [inv_mk]; with_reducible apply canon_of)
    | exact canon_empty

theorem State.release_inv {s : State} (hInv : s.Inv) : (State.release s).Inv := by
  unfold State.release
  exact canon_empty

theorem State.takeReset_inv {s : State} (hInv : s.Inv) : (State.takeReset s).Inv := by
  unfold State.takeReset
  simp only
  split
  split
  with_reducible assumption
  with_reducible exact State.resetAll_inv (by assumption)
  split
  with_reducible assumption
  with_reducible exact State.resetAll_inv (by assumption)

theorem State.inputRise_inv {s : State} {cold : Bool} (hInv : s.Inv) : (State.inputRise s cold).Inv := by
  unfold State.inputRise
  repeat' first
    | with_reducible assumption
    | with_reducible apply State.resetAll_inv
    | with_reducible intro _
    | with_reducible refine ite_inv ?_ ?_
    | dsimp only
    | (simp only [inv_mk]; with_reducible apply canon_of)
    | split
    | (simp only [inv_mk]; with_reducible exact canon_regs (by assumption))

theorem State.powerStep_inv {s : State} {next : PowerStep} (hInv : s.Inv) : (State.powerStep s next).Inv := by
  unfold State.powerStep
  simp only [inv_mk]
  with_reducible exact canon_of (by assumption)

theorem State.groupUp_inv {s : State} (hInv : s.Inv) : (State.groupUp s).Inv := by
  unfold State.groupUp
  simp only
  split
  with_reducible assumption
  split
  with_reducible exact State.powerStep_inv (by assumption)
  with_reducible exact State.powerStep_inv (by assumption)
  with_reducible exact State.powerStep_inv (by assumption)
  with_reducible exact State.powerStep_inv (by assumption)
  with_reducible apply State.setBit_inv
  simp only [inv_mk]
  with_reducible exact canon_of (State.powerStep_inv (by assumption))
  with_reducible assumption

theorem State.downStatus_inv {s : State} {cause rail : Nat} (hInv : s.Inv) : (State.downStatus s cause rail).Inv := by
  unfold State.downStatus
  with_reducible exact State.wr_inv (by assumption)

theorem State.railsDown_inv {s : State} {thermal : Bool} (hInv : s.Inv) : (State.railsDown s thermal).Inv := by
  unfold State.railsDown
  with_reducible exact State.resetAll_inv (by assumption)

theorem State.railFail_inv {s : State} {r : Nat} (hInv : s.Inv) : (State.railFail s r).Inv := by
  unfold State.railFail
  split
  with_reducible assumption
  with_reducible exact State.railsDown_inv (State.downStatus_inv (by assumption))

theorem State.shutdownDone_inv {s : State} (hInv : s.Inv) : (State.shutdownDone s).Inv := by
  unfold State.shutdownDone
  simp only
  split
  with_reducible assumption
  with_reducible apply State.railsDown_inv
  split
  with_reducible exact State.logProgram_inv (by assumption)
  with_reducible assumption

theorem State.uncontrolled_inv {s : State} {cause : Nat} {off : Bool} (hInv : s.Inv) : (State.uncontrolled s cause off).Inv := by
  unfold State.uncontrolled
  simp only
  split
  with_reducible assumption
  with_reducible apply State.resetAll_inv
  split
  with_reducible assumption
  with_reducible exact State.downStatus_inv (by assumption)

theorem State.refclkLost_inv {s : State} (hInv : s.Inv) : (State.refclkLost s).Inv := by
  unfold State.refclkLost
  split
  with_reducible assumption
  with_reducible exact State.resetAll_inv (State.setBit_inv (by assumption))

theorem State.setPowerCap_inv {s : State} {c : Nat} (hInv : s.Inv) : (s.setPowerCap c).Inv := by
  unfold State.setPowerCap
  extract_lets was s1 s2
  have h1 : s1.Inv := State.setBit_inv (State.setFld_inv hInv)
  have h2 : s2.Inv := foldl_inv (fun s x h => State.setEng_inv h) h1
  clear_value s2 was
  split
  · exact inv_any (State.event_inv (State.bump_inv h2))
  · split
    · exact inv_any h2
    · exact h2

theorem State.moveCap_inv {s : State} {dw : Nat} (hInv : s.Inv) : (State.moveCap s dw).Inv := by
  unfold State.moveCap
  simp only
  split
  simp only [inv_mk]
  with_reducible exact canon_of (State.setPowerCap_inv (by assumption))
  split
  split
  with_reducible apply State.setPowerCap_inv
  simp only [inv_mk]
  with_reducible exact canon_of (by assumption)
  simp only [inv_mk]
  with_reducible exact canon_of (by assumption)
  simp only [inv_mk]
  with_reducible exact canon_of (by assumption)

theorem State.powerEval_inv {s : State} {mv : Nat} {ma : Nat} {dw : Nat} {uj : Nat} {rails : List (Nat × Nat)} (hInv : s.Inv) : (State.powerEval s mv ma dw uj rails).Inv := by
  unfold State.powerEval
  repeat' first
    | with_reducible assumption
    | with_reducible apply State.wr_inv
    | with_reducible apply State.reached_inv
    | with_reducible apply State.moveCap_inv
    | with_reducible refine foldl_inv (fun _ _ _ => ?_) ?_
    | with_reducible refine foldl_inv_fst (fun _ _ _ => ?_) ?_
    | with_reducible intro _
    | with_reducible refine ite_inv ?_ ?_
    | dsimp only
    | (simp only [inv_mk]; with_reducible apply canon_of)
    | split

theorem State.ppsOffset_inv {s : State} {ns : Nat} (hInv : s.Inv) : (State.ppsOffset s ns).2.Inv := by
  unfold State.ppsOffset
  simp only
  split
  with_reducible assumption
  split
  with_reducible assumption
  with_reducible exact State.freeNat_inv (by assumption)

theorem State.ppsEdge_inv {s : State} {ns : Nat} (hInv : s.Inv) : (State.ppsEdge s ns).Inv := by
  unfold State.ppsEdge
  simp only
  split
  with_reducible apply State.bump_inv
  simp only [inv_mk]
  with_reducible exact canon_of (by assumption)
  with_reducible apply State.bump_inv
  with_reducible apply State.setFld_inv
  with_reducible apply State.wr_inv
  simp only [inv_mk]
  with_reducible apply canon_of
  with_reducible apply State.ppsOffset_inv
  simp only [inv_mk]
  with_reducible exact canon_of (by assumption)

theorem State.ppsLate_inv {s : State} (hInv : s.Inv) : (State.ppsLate s).Inv := by
  unfold State.ppsLate
  simp only
  split
  with_reducible assumption
  with_reducible apply State.event_inv
  simp only [inv_mk]
  with_reducible exact canon_of (by assumption)

theorem State.sbReply_inv {s : State} {status : Nat} {value : Option Nat} (hInv : s.Inv) : (State.sbReply s status value).Inv := by
  unfold State.sbReply
  simp only
  split
  with_reducible exact State.emit_inv (by assumption)
  with_reducible exact State.emit_inv (State.freeNat_inv (by assumption))

theorem State.sbRead_inv {s : State} {da : Nat} {busy : Bool} (hInv : s.Inv) : (State.sbRead s da busy).Inv := by
  unfold State.sbRead
  repeat' first
    | with_reducible assumption
    | with_reducible apply State.sbReply_inv
    | with_reducible apply State.inOrder_inv
    | with_reducible apply State.readAt_inv
    | with_reducible intro _
    | with_reducible refine ite_inv ?_ ?_
    | dsimp only
    | (simp only [inv_mk]; with_reducible apply canon_of)
    | split

theorem State.sbWrite_inv {s : State} {da : Nat} {v : Nat} {busy : Bool} (hInv : s.Inv) : (State.sbWrite s da v busy).Inv := by
  unfold State.sbWrite
  repeat' first
    | with_reducible assumption
    | with_reducible apply State.sbReply_inv
    | with_reducible apply State.writeFrom_inv
    | with_reducible intro _
    | with_reducible refine ite_inv ?_ ?_
    | dsimp only
    | (simp only [inv_mk]; with_reducible apply canon_of)
    | split

theorem execInternalResetRelease_inv {s : State} {t : Nat} (hInv : s.Inv) : Keeps (execInternalResetRelease t s) := by
  unfold execInternalResetRelease
  with_reducible apply keeps_next
  split
  with_reducible exact State.release_inv (State.advance_inv (by assumption))
  with_reducible exact State.advance_inv (by assumption)

theorem execInputRise_inv {s : State} {t : Nat} {cold : Bool} (hInv : s.Inv) : Keeps (execInputRise t cold s) := by
  unfold execInputRise
  with_reducible exact keeps_next (State.inputRise_inv (State.advance_inv (by assumption)))

theorem execInputCapacitanceCharged_inv {s : State} {t : Nat} (hInv : s.Inv) : Keeps (execInputCapacitanceCharged t s) := by
  unfold execInputCapacitanceCharged
  with_reducible apply keeps_next
  split
  with_reducible exact State.powerStep_inv (State.advance_inv (by assumption))
  with_reducible exact State.advance_inv (by assumption)

theorem execRailGroupUp_inv {s : State} {t : Nat} (hInv : s.Inv) : Keeps (execRailGroupUp t s) := by
  unfold execRailGroupUp
  with_reducible exact keeps_next (State.groupUp_inv (State.advance_inv (by assumption)))

theorem execRailFail_inv {s : State} {t : Nat} {rail : Fin 32} (hInv : s.Inv) : Keeps (execRailFail t rail s) := by
  unfold execRailFail
  with_reducible exact keeps_next (State.railFail_inv (State.advance_inv (by assumption)))

theorem execInputUv_inv {s : State} {t : Nat} (hInv : s.Inv) : Keeps (execInputUv t s) := by
  unfold execInputUv
  with_reducible exact keeps_next (State.uncontrolled_inv (State.advance_inv (by assumption)))

theorem execInputOv_inv {s : State} {t : Nat} (hInv : s.Inv) : Keeps (execInputOv t s) := by
  unfold execInputOv
  with_reducible exact keeps_next (State.uncontrolled_inv (State.advance_inv (by assumption)))

theorem execInputLow_inv {s : State} {t : Nat} (hInv : s.Inv) : Keeps (execInputLow t s) := by
  unfold execInputLow
  with_reducible apply keeps_next
  with_reducible refine State.live_inv ?_ (fun _ _ => ?_)
  with_reducible assumption
  with_reducible exact State.event_inv (by assumption)

theorem execInputHigh_inv {s : State} {t : Nat} (hInv : s.Inv) : Keeps (execInputHigh t s) := by
  unfold execInputHigh
  with_reducible apply keeps_next
  with_reducible refine State.live_inv ?_ (fun _ _ => ?_)
  with_reducible assumption
  with_reducible exact State.event_inv (by assumption)

theorem execOrderlyShutdown_inv {s : State} {t : Nat} (hInv : s.Inv) : Keeps (execOrderlyShutdown t s) := by
  unfold execOrderlyShutdown
  with_reducible exact keeps_next (State.shutdownDone_inv (State.advance_inv (by assumption)))

theorem execResetAssert_inv {s : State} {t : Nat} (hInv : s.Inv) : Keeps (execResetAssert t s) := by
  unfold execResetAssert
  with_reducible exact keeps_next (State.takeReset_inv (State.advance_inv (by assumption)))

theorem execRefclkLost_inv {s : State} {t : Nat} (hInv : s.Inv) : Keeps (execRefclkLost t s) := by
  unfold execRefclkLost
  with_reducible exact keeps_next (State.refclkLost_inv (State.advance_inv (by assumption)))

theorem execPowerCapEval_inv {s : State} {t : Nat} {mv ma10 dw : BitVec 16} {uj : Nat} {rails : List (BitVec 16 × BitVec 16)} (hInv : s.Inv) : Keeps (execPowerCapEval t mv ma10 dw uj rails s) := by
  unfold execPowerCapEval
  with_reducible apply keeps_next
  with_reducible refine State.live_inv ?_ (fun _ _ => ?_)
  with_reducible assumption
  with_reducible exact State.powerEval_inv (by assumption)

theorem execPpsEdge_inv {s : State} {t : Nat} {err : Fin 17} (hInv : s.Inv) : Keeps (execPpsEdge t err s) := by
  unfold execPpsEdge
  with_reducible apply keeps_next
  with_reducible refine State.live_inv ?_ (fun _ _ => ?_)
  with_reducible assumption
  with_reducible exact State.ppsEdge_inv (by assumption)

theorem execPpsMissing_inv {s : State} {t : Nat} (hInv : s.Inv) : Keeps (execPpsMissing t s) := by
  unfold execPpsMissing
  with_reducible apply keeps_next
  with_reducible refine State.live_inv ?_ (fun _ _ => ?_)
  with_reducible assumption
  with_reducible exact State.ppsLate_inv (by assumption)

theorem execSetdasa_inv {s : State} {t : Nat} {static dyn : BitVec 7} (hInv : s.Inv) : Keeps (execSetdasa t static dyn s) := by
  unfold execSetdasa
  with_reducible apply keeps_next
  dsimp only
  split
  simp only [inv_mk]
  with_reducible exact canon_of (State.advance_inv (by assumption))
  with_reducible exact State.advance_inv (by assumption)

theorem execSidebandRead_inv {s : State} {t : Nat} {target : BitVec 7} {da : BitVec 64} {busy : Bool} (hInv : s.Inv) : Keeps (execSidebandRead t target da busy s) := by
  unfold execSidebandRead
  with_reducible apply keeps_next
  split
  with_reducible exact State.sbRead_inv (State.advance_inv (by assumption))
  with_reducible exact State.advance_inv (by assumption)

theorem execSidebandWrite_inv {s : State} {t : Nat} {target : BitVec 7} {da v : BitVec 64} {busy : Bool} (hInv : s.Inv) : Keeps (execSidebandWrite t target da v busy s) := by
  unfold execSidebandWrite
  with_reducible apply keeps_next
  split
  with_reducible exact State.sbWrite_inv (State.advance_inv (by assumption))
  with_reducible exact State.advance_inv (by assumption)

theorem State.writeAt_inv {s : State} {t : Nat} {ag : Agent} {a : Nat} {v : Nat} {fail : Bool} (hInv : s.Inv) : Keeps (State.writeAt s t ag a v fail) := by
  unfold State.writeAt
  repeat' first
    | with_reducible assumption
    | with_reducible exact trivial
    | with_reducible apply keeps_next
    | with_reducible apply State.live_inv
    | with_reducible apply State.writeFrom_inv
    | with_reducible intro _
    | dsimp only
    | (simp only [inv_mk]; with_reducible apply canon_of)

theorem State.updateAt_inv {s : State} {t : Nat} {ag : Agent} {a : Nat} {f : Nat → Nat} (hInv : s.Inv) : Keeps (State.updateAt s t ag a f) := by
  unfold State.updateAt
  repeat' first
    | with_reducible assumption
    | with_reducible exact trivial
    | with_reducible apply keeps_next
    | with_reducible apply State.live_inv
    | with_reducible apply State.inOrder_inv
    | with_reducible apply State.writeReg_inv
    | with_reducible intro _
    | dsimp only
    | (simp only [inv_mk]; with_reducible apply canon_of)

theorem execMapCommit_inv {s : State} {t : Nat} {tier : Tier} {ag : Agent} (hInv : s.Inv) : Keeps (execMapCommit t tier ag s) := by
  unfold execMapCommit
  with_reducible exact State.writeAt_inv (by assumption)

theorem execMapoutWrite_inv {s : State} {t : Nat} {tier : Tier} {i : Fin 4} {v : BitVec 64} {ag : Agent} (hInv : s.Inv) : Keeps (execMapoutWrite t tier i v ag s) := by
  unfold execMapoutWrite
  split
  with_reducible exact keeps_next (State.advance_inv (by assumption))
  with_reducible exact State.writeAt_inv (by assumption)

theorem execInjResidue_inv {s : State} {t : Nat} {e : Fin 96} {array : Fin 4} {ag : Agent} (hInv : s.Inv) : Keeps (execInjResidue t e array ag s) := by
  unfold execInjResidue
  with_reducible exact State.writeAt_inv (by assumption)

theorem execInjParity_inv {s : State} {t : Nat} {e : Fin 96} {array : Fin 4} {ag : Agent} (hInv : s.Inv) : Keeps (execInjParity t e array ag s) := by
  unfold execInjParity
  with_reducible exact State.writeAt_inv (by assumption)

theorem execSrSeedWrite_inv {s : State} {t : Nat} {e : Fin 96} {v : BitVec 64} {ag : Agent} (hInv : s.Inv) : Keeps (execSrSeedWrite t e v ag s) := by
  unfold execSrSeedWrite
  with_reducible exact State.writeAt_inv (by assumption)

theorem execPwlUserWrite_inv {s : State} {t : Nat} {e : Fin 96} {i : Option (Fin 32)} {v : BitVec 64} {ag : Agent} (hInv : s.Inv) : Keeps (execPwlUserWrite t e i v ag s) := by
  unfold execPwlUserWrite
  with_reducible exact State.writeAt_inv (by assumption)

theorem execHoldCtrlWrite_inv {s : State} {t : Nat} {e : Fin 96} {v : BitVec 64} {ag : Agent} (hInv : s.Inv) : Keeps (execHoldCtrlWrite t e v ag s) := by
  unfold execHoldCtrlWrite
  with_reducible exact State.writeAt_inv (by assumption)

theorem execQueueEnable_inv {s : State} {t : Nat} {e : Fin 96} {q : Fin 4} {v : BitVec 64} {ag : Agent} (hInv : s.Inv) : Keeps (execQueueEnable t e q v ag s) := by
  unfold execQueueEnable
  with_reducible exact State.writeAt_inv (by assumption)

theorem execQueueDisable_inv {s : State} {t : Nat} {e : Fin 96} {q : Fin 4} {v : BitVec 64} {ag : Agent} (hInv : s.Inv) : Keeps (execQueueDisable t e q v ag s) := by
  unfold execQueueDisable
  with_reducible exact State.writeAt_inv (by assumption)

theorem execResume_inv {s : State} {t : Nat} {e : Fin 96} {q : Fin 4} {ag : Agent} (hInv : s.Inv) : Keeps (execResume t e q ag s) := by
  unfold execResume
  with_reducible exact State.writeAt_inv (by assumption)

theorem execAbort_inv {s : State} {t : Nat} {e : Fin 96} {q : Fin 4} {ag : Agent} (hInv : s.Inv) : Keeps (execAbort t e q ag s) := by
  unfold execAbort
  with_reducible exact State.writeAt_inv (by assumption)

theorem execReset_inv {s : State} {t : Nat} {e : Fin 96} {q : Fin 4} {ag : Agent} (hInv : s.Inv) : Keeps (execReset t e q ag s) := by
  unfold execReset
  with_reducible exact State.writeAt_inv (by assumption)

theorem execImemSwap_inv {s : State} {t : Nat} {e : Fin 96} {ag : Agent} (hInv : s.Inv) : Keeps (execImemSwap t e ag s) := by
  unfold execImemSwap
  with_reducible exact State.writeAt_inv (by assumption)

theorem execImemWinWrite_inv {s : State} {t : Nat} {e : Fin 96} {i : Fin 4096} {v : BitVec 64} {ag : Agent} (hInv : s.Inv) : Keeps (execImemWinWrite t e i v ag s) := by
  unfold execImemWinWrite
  with_reducible exact State.writeAt_inv (by assumption)

theorem execTckEnable_inv {s : State} {t : Nat} {en : Bool} {ag : Agent} (hInv : s.Inv) : Keeps (execTckEnable t en ag s) := by
  unfold execTckEnable
  with_reducible exact State.updateAt_inv (by assumption)

theorem execTckSrcChange_inv {s : State} {t : Nat} {src : BitVec 2} {ag : Agent} (hInv : s.Inv) : Keeps (execTckSrcChange t src ag s) := by
  unfold execTckSrcChange
  with_reducible exact State.updateAt_inv (by assumption)

theorem execRealign_inv {s : State} {t : Nat} {ag : Agent} (hInv : s.Inv) : Keeps (execRealign t ag s) := by
  unfold execRealign
  with_reducible exact State.updateAt_inv (by assumption)

theorem execPlanSwap_inv {s : State} {t : Nat} {ag : Agent} (hInv : s.Inv) : Keeps (execPlanSwap t ag s) := by
  unfold execPlanSwap
  with_reducible exact State.updateAt_inv (by assumption)

theorem execTckPhaseSkip_inv {s : State} {t : Nat} {v : BitVec 64} {ag : Agent} (hInv : s.Inv) : Keeps (execTckPhaseSkip t v ag s) := by
  unfold execTckPhaseSkip
  with_reducible exact State.writeAt_inv (by assumption)

theorem execCfgSwap_inv {s : State} {t : Nat} {ag : Agent} (hInv : s.Inv) : Keeps (execCfgSwap t ag s) := by
  unfold execCfgSwap
  with_reducible exact State.updateAt_inv (by assumption)

theorem execVdcRelease_inv {s : State} {t : Nat} {v : BitVec 64} {ag : Agent} (hInv : s.Inv) : Keeps (execVdcRelease t v ag s) := by
  unfold execVdcRelease
  with_reducible exact State.writeAt_inv (by assumption)

theorem execVdcRearm_inv {s : State} {t : Nat} {stream : BitVec 16} {ag : Agent} (hInv : s.Inv) : Keeps (execVdcRearm t stream ag s) := by
  unfold execVdcRearm
  with_reducible exact State.writeAt_inv (by assumption)

theorem execRetrain_inv {s : State} {t : Nat} {port : Fin 8} {ag : Agent} (hInv : s.Inv) : Keeps (execRetrain t port ag s) := by
  unfold execRetrain
  with_reducible exact State.writeAt_inv (by assumption)

theorem execKtfEnable_inv {s : State} {t : Nat} {en : Bool} {ag : Agent} (hInv : s.Inv) : Keeps (execKtfEnable t en ag s) := by
  unfold execKtfEnable
  with_reducible exact State.writeAt_inv (by assumption)

theorem execContextCreate_inv {s : State} {t : Nat} {v : BitVec 64} {ag : Agent} (hInv : s.Inv) : Keeps (execContextCreate t v ag s) := by
  unfold execContextCreate
  with_reducible exact State.writeAt_inv (by assumption)

theorem execContextDelete_inv {t : Nat} {ag : Agent} {s : State} (hInv : s.Inv) : Keeps (execContextDelete t ag s) := by
  unfold execContextDelete
  repeat' first
    | with_reducible assumption
    | with_reducible exact trivial
    | with_reducible apply keeps_next
    | with_reducible apply State.live_inv
    | with_reducible apply State.inOrder_inv
    | with_reducible apply State.writeReg_inv
    | with_reducible intro _
    | dsimp only
    | (simp only [inv_mk]; with_reducible apply canon_of)

theorem execContextAbort_inv {s : State} {t : Nat} {ag : Agent} (hInv : s.Inv) : Keeps (execContextAbort t ag s) := by
  unfold execContextAbort
  with_reducible exact State.writeAt_inv (by assumption)

theorem execEvict_inv {s : State} {t : Nat} {ag : Agent} (hInv : s.Inv) : Keeps (execEvict t ag s) := by
  unfold execEvict
  with_reducible exact State.writeAt_inv (by assumption)

theorem execPartitionAbort_inv {s : State} {t : Nat} {p : Fin 8} {ag : Agent} (hInv : s.Inv) : Keeps (execPartitionAbort t p ag s) := by
  unfold execPartitionAbort
  with_reducible exact State.writeAt_inv (by assumption)

theorem execStandinWrite_inv {s : State} {t : Nat} {i : Fin 4} {v : BitVec 64} {ag : Agent} (hInv : s.Inv) : Keeps (execStandinWrite t i v ag s) := by
  unfold execStandinWrite
  with_reducible exact State.writeAt_inv (by assumption)

theorem execStReqEngine_inv {s : State} {t : Nat} {e : Fin 96} {ag : Agent} (hInv : s.Inv) : Keeps (execStReqEngine t e ag s) := by
  unfold execStReqEngine
  with_reducible exact State.writeAt_inv (by assumption)

theorem execStReqSensors_inv {s : State} {t : Nat} {ag : Agent} (hInv : s.Inv) : Keeps (execStReqSensors t ag s) := by
  unfold execStReqSensors
  with_reducible exact State.writeAt_inv (by assumption)

theorem execStReqCalPantry_inv {s : State} {t : Nat} {ch : Fin 192} {ag : Agent} (hInv : s.Inv) : Keeps (execStReqCalPantry t ch ag s) := by
  unfold execStReqCalPantry
  with_reducible exact State.writeAt_inv (by assumption)

theorem execStReqCalCellar_inv {s : State} {t : Nat} {ch : Fin 256} {ag : Agent} (hInv : s.Inv) : Keeps (execStReqCalCellar t ch ag s) := by
  unfold execStReqCalCellar
  with_reducible exact State.writeAt_inv (by assumption)

theorem execFullRate_inv {s : State} {t : Nat} {on : Bool} {ag : Agent} (hInv : s.Inv) : Keeps (execFullRate t on ag s) := by
  unfold execFullRate
  with_reducible exact State.updateAt_inv (by assumption)

theorem execFltInject_inv {s : State} {t : Nat} {code : BitVec 16} {ag : Agent} (hInv : s.Inv) : Keeps (execFltInject t code ag s) := by
  unfold execFltInject
  with_reducible exact State.writeAt_inv (by assumption)

theorem execFltRingHeadWrite_inv {s : State} {t : Nat} {v : BitVec 32} {ag : Agent} (hInv : s.Inv) : Keeps (execFltRingHeadWrite t v ag s) := by
  unfold execFltRingHeadWrite
  with_reducible exact State.writeAt_inv (by assumption)

theorem execAlertStatusClear_inv {s : State} {t : Nat} {v : BitVec 5} {ag : Agent} (hInv : s.Inv) : Keeps (execAlertStatusClear t v ag s) := by
  unfold execAlertStatusClear
  with_reducible exact State.writeAt_inv (by assumption)

theorem execSvnCommit_inv {s : State} {t : Nat} {fail : Bool} {ag : Agent} (hInv : s.Inv) : Keeps (execSvnCommit t fail ag s) := by
  unfold execSvnCommit
  with_reducible exact State.writeAt_inv (by assumption)

theorem execRevoke_inv {s : State} {t : Nat} {k : Fin 4} {fail : Bool} {ag : Agent} (hInv : s.Inv) : Keeps (execRevoke t k fail ag s) := by
  unfold execRevoke
  with_reducible exact State.writeAt_inv (by assumption)

theorem execOtpKeyProgram_inv {s : State} {t : Nat} {k : Fin 4} {fail : Bool} {ag : Agent} (hInv : s.Inv) : Keeps (execOtpKeyProgram t k fail ag s) := by
  unfold execOtpKeyProgram
  with_reducible exact State.writeAt_inv (by assumption)

theorem execAttestGo_inv {s : State} {t : Nat} {fail : Bool} {ag : Agent} (hInv : s.Inv) : Keeps (execAttestGo t fail ag s) := by
  unfold execAttestGo
  with_reducible exact State.writeAt_inv (by assumption)

theorem execNorRead_inv {s : State} {t : Nat} {len : BitVec 24} {ag : Agent} (hInv : s.Inv) : Keeps (execNorRead t len ag s) := by
  unfold execNorRead
  with_reducible exact State.writeAt_inv (by assumption)

theorem execNorProgram_inv {s : State} {t : Nat} {len : BitVec 24} {ag : Agent} (hInv : s.Inv) : Keeps (execNorProgram t len ag s) := by
  unfold execNorProgram
  with_reducible exact State.writeAt_inv (by assumption)

theorem execNorErase_inv {s : State} {t : Nat} {ag : Agent} (hInv : s.Inv) : Keeps (execNorErase t ag s) := by
  unfold execNorErase
  with_reducible exact State.writeAt_inv (by assumption)

theorem execRegisterWrite_inv {t : Nat} {da : Nat} {width : Nat} {v : BitVec 64} {ag : Agent} {s : State} (hInv : s.Inv) : Keeps (execRegisterWrite t da width v ag s) := by
  unfold execRegisterWrite
  repeat' first
    | with_reducible assumption
    | with_reducible exact trivial
    | with_reducible apply keeps_next
    | with_reducible apply State.live_inv
    | with_reducible apply State.writeFrom_inv
    | with_reducible intro _
    | dsimp only
    | (simp only [inv_mk]; with_reducible apply canon_of)

theorem State.readFor_inv {s : State} {ag : Agent} {da : Nat} {width : Nat} (hInv : s.Inv) : (State.readFor s ag da width).Inv := by
  unfold State.readFor
  repeat' first
    | with_reducible assumption
    | with_reducible apply State.refuseWrite_inv
    | with_reducible apply State.readAt_inv
    | with_reducible apply State.inOrder_inv
    | with_reducible apply State.emit_inv
    | with_reducible refine inv_of_fst (by with_reducible assumption) ?_
    | with_reducible refine inv_of_snd (by with_reducible assumption) ?_
    | with_reducible intro _
    | with_reducible refine ite_inv ?_ ?_
    | dsimp only
    | (simp only [inv_mk]; with_reducible apply canon_of)
    | split

theorem execUnmappedRegisterAccess_inv {t : Nat} {da : Nat} {width : Nat} {v : Option (BitVec 64)} {ag : Agent} {s : State} (hInv : s.Inv) : Keeps (execUnmappedRegisterAccess t da width v ag s) := by
  unfold execUnmappedRegisterAccess
  repeat' first
    | with_reducible assumption
    | with_reducible exact trivial
    | with_reducible apply keeps_next
    | with_reducible apply State.live_inv
    | with_reducible apply State.writeFrom_inv
    | with_reducible apply State.readFor_inv
    | with_reducible refine inv_of_fst (by with_reducible assumption) ?_
    | with_reducible refine inv_of_snd (by with_reducible assumption) ?_
    | with_reducible intro _
    | dsimp only
    | (simp only [inv_mk]; with_reducible apply canon_of)
    | split

theorem State.inboundReply_inv {s : State} {p : Packet} {status : Nat} {data : List Byte} (hInv : s.Inv) : (State.inboundReply s p status data).Inv := by
  unfold State.inboundReply
  with_reducible exact State.sendOn_inv (by assumption)

theorem State.inboundRefuse_inv {s : State} {p : Packet} (hInv : s.Inv) : (State.inboundRefuse s p).Inv := by
  unfold State.inboundRefuse
  repeat' first
    | with_reducible assumption
    | with_reducible apply State.inboundReply_inv
    | with_reducible apply State.event_inv
    | with_reducible intro _
    | dsimp only
    | (simp only [inv_mk]; with_reducible apply canon_of)

theorem State.inboundBad_inv {s : State} {p : Packet} (hInv : s.Inv) : (State.inboundBad s p).Inv := by
  unfold State.inboundBad
  with_reducible exact State.inboundReply_inv (by assumption)

theorem State.inboundRegister_inv {s : State} {p : Packet} {act : MemAct} (hInv : s.Inv) : (State.inboundRegister s p act).Inv := by
  unfold State.inboundRegister
  repeat' first
    | with_reducible assumption
    | with_reducible apply State.inboundRefuse_inv
    | with_reducible apply State.readAt_inv
    | with_reducible apply State.inOrder_inv
    | with_reducible apply State.inboundReply_inv
    | with_reducible apply State.writeFrom_inv
    | with_reducible apply State.regAccess_inv
    | with_reducible apply State.noteAtomic_inv
    | with_reducible refine inv_of_fst (by with_reducible assumption) ?_
    | with_reducible refine inv_of_snd (by with_reducible assumption) ?_
    | with_reducible intro _
    | with_reducible refine ite_inv ?_ ?_
    | dsimp only
    | (simp only [inv_mk]; with_reducible apply canon_of)
    | split

theorem State.inboundShelf_inv {s : State} {p : Packet} {act : MemAct} {n : Nat} (hInv : s.Inv) : (State.inboundShelf s p act n).Inv := by
  unfold State.inboundShelf
  repeat' first
    | with_reducible assumption
    | with_reducible apply State.inboundRefuse_inv
    | with_reducible apply State.inboundReply_inv
    | with_reducible apply State.noteDead_inv
    | with_reducible apply State.windowStore_inv
    | with_reducible apply State.noteAtomic_inv
    | with_reducible refine inv_of_fst (by with_reducible assumption) ?_
    | with_reducible refine inv_of_snd (by with_reducible assumption) ?_
    | with_reducible intro _
    | with_reducible refine ite_inv ?_ ?_
    | dsimp only
    | (simp only [inv_mk]; with_reducible apply canon_of)
    | split

theorem State.inboundTier_inv {s : State} {p : Packet} {act : MemAct} {n : Nat} (hInv : s.Inv) : (State.inboundTier s p act n).Inv := by
  unfold State.inboundTier
  simp only
  split
  with_reducible exact State.inboundRefuse_inv (by assumption)
  split
  split
  with_reducible exact State.inboundReply_inv (State.noteAtomic_inv (by assumption))
  with_reducible exact State.request_inv (by assumption)
  split
  with_reducible exact State.inboundReply_inv (State.noteAtomic_inv (by assumption))
  with_reducible exact State.request_inv (by assumption)

theorem State.inbound_inv {s : State} {p : Packet} (hInv : s.Inv) : (State.inbound s p).Inv := by
  unfold State.inbound
  split
  split
  with_reducible exact State.inboundBad_inv (by assumption)
  with_reducible exact State.inboundRefuse_inv (by assumption)
  split
  with_reducible exact State.inboundRegister_inv (by assumption)
  split
  with_reducible exact State.inboundRefuse_inv (by assumption)
  split
  with_reducible exact State.inboundShelf_inv (by assumption)
  with_reducible exact State.inboundTier_inv (by assumption)
  with_reducible exact State.inboundTier_inv (by assumption)
  with_reducible exact State.inboundRefuse_inv (by assumption)

theorem execInbRd_inv {s : State} {t : Nat} {p : Packet} (hInv : s.Inv) : Keeps (execInbRd t p s) := by
  unfold execInbRd
  with_reducible apply keeps_next
  with_reducible refine State.live_inv ?_ (fun _ _ => ?_)
  with_reducible assumption
  with_reducible refine State.fromCompanion_inv ?_ (fun _ _ => ?_)
  with_reducible assumption
  with_reducible exact State.inbound_inv (by assumption)

theorem execInbWr_inv {s : State} {t : Nat} {p : Packet} (hInv : s.Inv) : Keeps (execInbWr t p s) := by
  unfold execInbWr
  with_reducible apply keeps_next
  with_reducible refine State.live_inv ?_ (fun _ _ => ?_)
  with_reducible assumption
  with_reducible refine State.fromCompanion_inv ?_ (fun _ _ => ?_)
  with_reducible assumption
  with_reducible exact State.inbound_inv (by assumption)

theorem execInbAtomic_inv {s : State} {t : Nat} {p : Packet} (hInv : s.Inv) : Keeps (execInbAtomic t p s) := by
  unfold execInbAtomic
  with_reducible apply keeps_next
  with_reducible refine State.live_inv ?_ (fun _ _ => ?_)
  with_reducible assumption
  with_reducible refine State.fromCompanion_inv ?_ (fun _ _ => ?_)
  with_reducible assumption
  with_reducible exact State.inbound_inv (by assumption)

end Sys2Proof.Machine
end

