-- ==== Sys2Proof/Laws/State.lean ====
section
/-! SUPPORT. What each plain update of State leaves as it was, one lemma for each field, and what it reads as after. -/

namespace Sys2Proof.Machine

/-! ### wr -/

@[simp] theorem State.wr_pending (s : State) (a v : Nat) : (s.wr a v).pending = s.pending := rfl
@[simp] theorem State.wr_now (s : State) (a v : Nat) : (s.wr a v).now = s.now := rfl
@[simp] theorem State.wr_free (s : State) (a v : Nat) : (s.wr a v).free = s.free := rfl
@[simp] theorem State.wr_mem (s : State) (a v : Nat) : (s.wr a v).mem = s.mem := rfl
@[simp] theorem State.wr_tags (s : State) (a v : Nat) : (s.wr a v).tags = s.tags := rfl
@[simp] theorem State.wr_kdata (s : State) (a v : Nat) : (s.wr a v).kdata = s.kdata := rfl
@[simp] theorem State.wr_imem (s : State) (a v : Nat) : (s.wr a v).imem = s.imem := rfl
@[simp] theorem State.wr_larder (s : State) (a v : Nat) : (s.wr a v).larder = s.larder := rfl
@[simp] theorem State.wr_pantry (s : State) (a v : Nat) : (s.wr a v).pantry = s.pantry := rfl
@[simp] theorem State.wr_cellar (s : State) (a v : Nat) : (s.wr a v).cellar = s.cellar := rfl
@[simp] theorem State.wr_tick (s : State) (a v : Nat) : (s.wr a v).tick = s.tick := rfl
@[simp] theorem State.wr_engines (s : State) (a v : Nat) : (s.wr a v).engines = s.engines := rfl
@[simp] theorem State.wr_queues (s : State) (a v : Nat) : (s.wr a v).queues = s.queues := rfl
@[simp] theorem State.wr_ctxs (s : State) (a v : Nat) : (s.wr a v).ctxs = s.ctxs := rfl
@[simp] theorem State.wr_mirrors (s : State) (a v : Nat) : (s.wr a v).mirrors = s.mirrors := rfl
@[simp] theorem State.wr_moved (s : State) (a v : Nat) : (s.wr a v).moved = s.moved := rfl
@[simp] theorem State.wr_returning (s : State) (a v : Nat) : (s.wr a v).returning = s.returning := rfl
@[simp] theorem State.wr_leads (s : State) (a v : Nat) : (s.wr a v).leads = s.leads := rfl
@[simp] theorem State.wr_flt (s : State) (a v : Nat) : (s.wr a v).flt = s.flt := rfl
@[simp] theorem State.wr_ing (s : State) (a v : Nat) : (s.wr a v).ing = s.ing := rfl
@[simp] theorem State.wr_ptp (s : State) (a v : Nat) : (s.wr a v).ptp = s.ptp := rfl
@[simp] theorem State.wr_parts (s : State) (a v : Nat) : (s.wr a v).parts = s.parts := rfl
@[simp] theorem State.wr_bundles (s : State) (a v : Nat) : (s.wr a v).bundles = s.bundles := rfl
@[simp] theorem State.wr_links (s : State) (a v : Nat) : (s.wr a v).links = s.links := rfl
@[simp] theorem State.wr_attic (s : State) (a v : Nat) : (s.wr a v).attic = s.attic := rfl
@[simp] theorem State.wr_jobs (s : State) (a v : Nat) : (s.wr a v).jobs = s.jobs := rfl
@[simp] theorem State.wr_health (s : State) (a v : Nat) : (s.wr a v).health = s.health := rfl
@[simp] theorem State.wr_sec (s : State) (a v : Nat) : (s.wr a v).sec = s.sec := rfl
@[simp] theorem State.wr_persist (s : State) (a v : Nat) : (s.wr a v).persist = s.persist := rfl
@[simp] theorem State.wr_power (s : State) (a v : Nat) : (s.wr a v).power = s.power := rfl
@[simp] theorem State.wr_ktag (s : State) (a v : Nat) : (s.wr a v).ktag = s.ktag := rfl
@[simp] theorem State.wr_words (s : State) (a v : Nat) : (s.wr a v).words = s.words := rfl
@[simp] theorem State.wr_cycle (s : State) (a v : Nat) : (s.wr a v).cycle = s.cycle := rfl
@[simp] theorem State.wr_setNow (s : State) (a v : Nat) : (s.wr a v).setNow = s.setNow := rfl
@[simp] theorem State.wr_broken (s : State) (a v : Nat) : (s.wr a v).broken = s.broken := rfl
@[simp] theorem State.wr_dead (s : State) (a v : Nat) : (s.wr a v).dead = s.dead := rfl
@[simp] theorem State.wr_outbox (s : State) (a v : Nat) : (s.wr a v).outbox = s.outbox := rfl

/-! ### setFld -/

@[simp] theorem State.setFld_pending (s : State) (a hi lo v : Nat) : (s.setFld a hi lo v).pending = s.pending := rfl
@[simp] theorem State.setFld_now (s : State) (a hi lo v : Nat) : (s.setFld a hi lo v).now = s.now := rfl
@[simp] theorem State.setFld_free (s : State) (a hi lo v : Nat) : (s.setFld a hi lo v).free = s.free := rfl
@[simp] theorem State.setFld_mem (s : State) (a hi lo v : Nat) : (s.setFld a hi lo v).mem = s.mem := rfl
@[simp] theorem State.setFld_tags (s : State) (a hi lo v : Nat) : (s.setFld a hi lo v).tags = s.tags := rfl
@[simp] theorem State.setFld_kdata (s : State) (a hi lo v : Nat) : (s.setFld a hi lo v).kdata = s.kdata := rfl
@[simp] theorem State.setFld_imem (s : State) (a hi lo v : Nat) : (s.setFld a hi lo v).imem = s.imem := rfl
@[simp] theorem State.setFld_larder (s : State) (a hi lo v : Nat) : (s.setFld a hi lo v).larder = s.larder := rfl
@[simp] theorem State.setFld_pantry (s : State) (a hi lo v : Nat) : (s.setFld a hi lo v).pantry = s.pantry := rfl
@[simp] theorem State.setFld_cellar (s : State) (a hi lo v : Nat) : (s.setFld a hi lo v).cellar = s.cellar := rfl
@[simp] theorem State.setFld_tick (s : State) (a hi lo v : Nat) : (s.setFld a hi lo v).tick = s.tick := rfl
@[simp] theorem State.setFld_engines (s : State) (a hi lo v : Nat) : (s.setFld a hi lo v).engines = s.engines := rfl
@[simp] theorem State.setFld_queues (s : State) (a hi lo v : Nat) : (s.setFld a hi lo v).queues = s.queues := rfl
@[simp] theorem State.setFld_ctxs (s : State) (a hi lo v : Nat) : (s.setFld a hi lo v).ctxs = s.ctxs := rfl
@[simp] theorem State.setFld_mirrors (s : State) (a hi lo v : Nat) : (s.setFld a hi lo v).mirrors = s.mirrors := rfl
@[simp] theorem State.setFld_moved (s : State) (a hi lo v : Nat) : (s.setFld a hi lo v).moved = s.moved := rfl
@[simp] theorem State.setFld_returning (s : State) (a hi lo v : Nat) : (s.setFld a hi lo v).returning = s.returning := rfl
@[simp] theorem State.setFld_leads (s : State) (a hi lo v : Nat) : (s.setFld a hi lo v).leads = s.leads := rfl
@[simp] theorem State.setFld_flt (s : State) (a hi lo v : Nat) : (s.setFld a hi lo v).flt = s.flt := rfl
@[simp] theorem State.setFld_ing (s : State) (a hi lo v : Nat) : (s.setFld a hi lo v).ing = s.ing := rfl
@[simp] theorem State.setFld_ptp (s : State) (a hi lo v : Nat) : (s.setFld a hi lo v).ptp = s.ptp := rfl
@[simp] theorem State.setFld_parts (s : State) (a hi lo v : Nat) : (s.setFld a hi lo v).parts = s.parts := rfl
@[simp] theorem State.setFld_bundles (s : State) (a hi lo v : Nat) : (s.setFld a hi lo v).bundles = s.bundles := rfl
@[simp] theorem State.setFld_links (s : State) (a hi lo v : Nat) : (s.setFld a hi lo v).links = s.links := rfl
@[simp] theorem State.setFld_attic (s : State) (a hi lo v : Nat) : (s.setFld a hi lo v).attic = s.attic := rfl
@[simp] theorem State.setFld_jobs (s : State) (a hi lo v : Nat) : (s.setFld a hi lo v).jobs = s.jobs := rfl
@[simp] theorem State.setFld_health (s : State) (a hi lo v : Nat) : (s.setFld a hi lo v).health = s.health := rfl
@[simp] theorem State.setFld_sec (s : State) (a hi lo v : Nat) : (s.setFld a hi lo v).sec = s.sec := rfl
@[simp] theorem State.setFld_persist (s : State) (a hi lo v : Nat) : (s.setFld a hi lo v).persist = s.persist := rfl
@[simp] theorem State.setFld_power (s : State) (a hi lo v : Nat) : (s.setFld a hi lo v).power = s.power := rfl
@[simp] theorem State.setFld_ktag (s : State) (a hi lo v : Nat) : (s.setFld a hi lo v).ktag = s.ktag := rfl
@[simp] theorem State.setFld_words (s : State) (a hi lo v : Nat) : (s.setFld a hi lo v).words = s.words := rfl
@[simp] theorem State.setFld_cycle (s : State) (a hi lo v : Nat) : (s.setFld a hi lo v).cycle = s.cycle := rfl
@[simp] theorem State.setFld_setNow (s : State) (a hi lo v : Nat) : (s.setFld a hi lo v).setNow = s.setNow := rfl
@[simp] theorem State.setFld_broken (s : State) (a hi lo v : Nat) : (s.setFld a hi lo v).broken = s.broken := rfl
@[simp] theorem State.setFld_dead (s : State) (a hi lo v : Nat) : (s.setFld a hi lo v).dead = s.dead := rfl
@[simp] theorem State.setFld_outbox (s : State) (a hi lo v : Nat) : (s.setFld a hi lo v).outbox = s.outbox := rfl

/-! ### setBit -/

@[simp] theorem State.setBit_pending (s : State) (a i : Nat) (b : Bool) : (s.setBit a i b).pending = s.pending := rfl
@[simp] theorem State.setBit_now (s : State) (a i : Nat) (b : Bool) : (s.setBit a i b).now = s.now := rfl
@[simp] theorem State.setBit_free (s : State) (a i : Nat) (b : Bool) : (s.setBit a i b).free = s.free := rfl
@[simp] theorem State.setBit_mem (s : State) (a i : Nat) (b : Bool) : (s.setBit a i b).mem = s.mem := rfl
@[simp] theorem State.setBit_tags (s : State) (a i : Nat) (b : Bool) : (s.setBit a i b).tags = s.tags := rfl
@[simp] theorem State.setBit_kdata (s : State) (a i : Nat) (b : Bool) : (s.setBit a i b).kdata = s.kdata := rfl
@[simp] theorem State.setBit_imem (s : State) (a i : Nat) (b : Bool) : (s.setBit a i b).imem = s.imem := rfl
@[simp] theorem State.setBit_larder (s : State) (a i : Nat) (b : Bool) : (s.setBit a i b).larder = s.larder := rfl
@[simp] theorem State.setBit_pantry (s : State) (a i : Nat) (b : Bool) : (s.setBit a i b).pantry = s.pantry := rfl
@[simp] theorem State.setBit_cellar (s : State) (a i : Nat) (b : Bool) : (s.setBit a i b).cellar = s.cellar := rfl
@[simp] theorem State.setBit_tick (s : State) (a i : Nat) (b : Bool) : (s.setBit a i b).tick = s.tick := rfl
@[simp] theorem State.setBit_engines (s : State) (a i : Nat) (b : Bool) : (s.setBit a i b).engines = s.engines := rfl
@[simp] theorem State.setBit_queues (s : State) (a i : Nat) (b : Bool) : (s.setBit a i b).queues = s.queues := rfl
@[simp] theorem State.setBit_ctxs (s : State) (a i : Nat) (b : Bool) : (s.setBit a i b).ctxs = s.ctxs := rfl
@[simp] theorem State.setBit_mirrors (s : State) (a i : Nat) (b : Bool) : (s.setBit a i b).mirrors = s.mirrors := rfl
@[simp] theorem State.setBit_moved (s : State) (a i : Nat) (b : Bool) : (s.setBit a i b).moved = s.moved := rfl
@[simp] theorem State.setBit_returning (s : State) (a i : Nat) (b : Bool) : (s.setBit a i b).returning = s.returning := rfl
@[simp] theorem State.setBit_leads (s : State) (a i : Nat) (b : Bool) : (s.setBit a i b).leads = s.leads := rfl
@[simp] theorem State.setBit_flt (s : State) (a i : Nat) (b : Bool) : (s.setBit a i b).flt = s.flt := rfl
@[simp] theorem State.setBit_ing (s : State) (a i : Nat) (b : Bool) : (s.setBit a i b).ing = s.ing := rfl
@[simp] theorem State.setBit_ptp (s : State) (a i : Nat) (b : Bool) : (s.setBit a i b).ptp = s.ptp := rfl
@[simp] theorem State.setBit_parts (s : State) (a i : Nat) (b : Bool) : (s.setBit a i b).parts = s.parts := rfl
@[simp] theorem State.setBit_bundles (s : State) (a i : Nat) (b : Bool) : (s.setBit a i b).bundles = s.bundles := rfl
@[simp] theorem State.setBit_links (s : State) (a i : Nat) (b : Bool) : (s.setBit a i b).links = s.links := rfl
@[simp] theorem State.setBit_attic (s : State) (a i : Nat) (b : Bool) : (s.setBit a i b).attic = s.attic := rfl
@[simp] theorem State.setBit_jobs (s : State) (a i : Nat) (b : Bool) : (s.setBit a i b).jobs = s.jobs := rfl
@[simp] theorem State.setBit_health (s : State) (a i : Nat) (b : Bool) : (s.setBit a i b).health = s.health := rfl
@[simp] theorem State.setBit_sec (s : State) (a i : Nat) (b : Bool) : (s.setBit a i b).sec = s.sec := rfl
@[simp] theorem State.setBit_persist (s : State) (a i : Nat) (b : Bool) : (s.setBit a i b).persist = s.persist := rfl
@[simp] theorem State.setBit_power (s : State) (a i : Nat) (b : Bool) : (s.setBit a i b).power = s.power := rfl
@[simp] theorem State.setBit_ktag (s : State) (a i : Nat) (b : Bool) : (s.setBit a i b).ktag = s.ktag := rfl
@[simp] theorem State.setBit_words (s : State) (a i : Nat) (b : Bool) : (s.setBit a i b).words = s.words := rfl
@[simp] theorem State.setBit_cycle (s : State) (a i : Nat) (b : Bool) : (s.setBit a i b).cycle = s.cycle := rfl
@[simp] theorem State.setBit_setNow (s : State) (a i : Nat) (b : Bool) : (s.setBit a i b).setNow = s.setNow := rfl
@[simp] theorem State.setBit_broken (s : State) (a i : Nat) (b : Bool) : (s.setBit a i b).broken = s.broken := rfl
@[simp] theorem State.setBit_dead (s : State) (a i : Nat) (b : Bool) : (s.setBit a i b).dead = s.dead := rfl
@[simp] theorem State.setBit_outbox (s : State) (a i : Nat) (b : Bool) : (s.setBit a i b).outbox = s.outbox := rfl

/-! ### bump -/

@[simp] theorem State.bump_pending (s : State) (a hi lo n : Nat) : (s.bump a hi lo n).pending = s.pending := rfl
@[simp] theorem State.bump_now (s : State) (a hi lo n : Nat) : (s.bump a hi lo n).now = s.now := rfl
@[simp] theorem State.bump_free (s : State) (a hi lo n : Nat) : (s.bump a hi lo n).free = s.free := rfl
@[simp] theorem State.bump_mem (s : State) (a hi lo n : Nat) : (s.bump a hi lo n).mem = s.mem := rfl
@[simp] theorem State.bump_tags (s : State) (a hi lo n : Nat) : (s.bump a hi lo n).tags = s.tags := rfl
@[simp] theorem State.bump_kdata (s : State) (a hi lo n : Nat) : (s.bump a hi lo n).kdata = s.kdata := rfl
@[simp] theorem State.bump_imem (s : State) (a hi lo n : Nat) : (s.bump a hi lo n).imem = s.imem := rfl
@[simp] theorem State.bump_larder (s : State) (a hi lo n : Nat) : (s.bump a hi lo n).larder = s.larder := rfl
@[simp] theorem State.bump_pantry (s : State) (a hi lo n : Nat) : (s.bump a hi lo n).pantry = s.pantry := rfl
@[simp] theorem State.bump_cellar (s : State) (a hi lo n : Nat) : (s.bump a hi lo n).cellar = s.cellar := rfl
@[simp] theorem State.bump_tick (s : State) (a hi lo n : Nat) : (s.bump a hi lo n).tick = s.tick := rfl
@[simp] theorem State.bump_engines (s : State) (a hi lo n : Nat) : (s.bump a hi lo n).engines = s.engines := rfl
@[simp] theorem State.bump_queues (s : State) (a hi lo n : Nat) : (s.bump a hi lo n).queues = s.queues := rfl
@[simp] theorem State.bump_ctxs (s : State) (a hi lo n : Nat) : (s.bump a hi lo n).ctxs = s.ctxs := rfl
@[simp] theorem State.bump_mirrors (s : State) (a hi lo n : Nat) : (s.bump a hi lo n).mirrors = s.mirrors := rfl
@[simp] theorem State.bump_moved (s : State) (a hi lo n : Nat) : (s.bump a hi lo n).moved = s.moved := rfl
@[simp] theorem State.bump_returning (s : State) (a hi lo n : Nat) : (s.bump a hi lo n).returning = s.returning := rfl
@[simp] theorem State.bump_leads (s : State) (a hi lo n : Nat) : (s.bump a hi lo n).leads = s.leads := rfl
@[simp] theorem State.bump_flt (s : State) (a hi lo n : Nat) : (s.bump a hi lo n).flt = s.flt := rfl
@[simp] theorem State.bump_ing (s : State) (a hi lo n : Nat) : (s.bump a hi lo n).ing = s.ing := rfl
@[simp] theorem State.bump_ptp (s : State) (a hi lo n : Nat) : (s.bump a hi lo n).ptp = s.ptp := rfl
@[simp] theorem State.bump_parts (s : State) (a hi lo n : Nat) : (s.bump a hi lo n).parts = s.parts := rfl
@[simp] theorem State.bump_bundles (s : State) (a hi lo n : Nat) : (s.bump a hi lo n).bundles = s.bundles := rfl
@[simp] theorem State.bump_links (s : State) (a hi lo n : Nat) : (s.bump a hi lo n).links = s.links := rfl
@[simp] theorem State.bump_attic (s : State) (a hi lo n : Nat) : (s.bump a hi lo n).attic = s.attic := rfl
@[simp] theorem State.bump_jobs (s : State) (a hi lo n : Nat) : (s.bump a hi lo n).jobs = s.jobs := rfl
@[simp] theorem State.bump_health (s : State) (a hi lo n : Nat) : (s.bump a hi lo n).health = s.health := rfl
@[simp] theorem State.bump_sec (s : State) (a hi lo n : Nat) : (s.bump a hi lo n).sec = s.sec := rfl
@[simp] theorem State.bump_persist (s : State) (a hi lo n : Nat) : (s.bump a hi lo n).persist = s.persist := rfl
@[simp] theorem State.bump_power (s : State) (a hi lo n : Nat) : (s.bump a hi lo n).power = s.power := rfl
@[simp] theorem State.bump_ktag (s : State) (a hi lo n : Nat) : (s.bump a hi lo n).ktag = s.ktag := rfl
@[simp] theorem State.bump_words (s : State) (a hi lo n : Nat) : (s.bump a hi lo n).words = s.words := rfl
@[simp] theorem State.bump_cycle (s : State) (a hi lo n : Nat) : (s.bump a hi lo n).cycle = s.cycle := rfl
@[simp] theorem State.bump_setNow (s : State) (a hi lo n : Nat) : (s.bump a hi lo n).setNow = s.setNow := rfl
@[simp] theorem State.bump_broken (s : State) (a hi lo n : Nat) : (s.bump a hi lo n).broken = s.broken := rfl
@[simp] theorem State.bump_dead (s : State) (a hi lo n : Nat) : (s.bump a hi lo n).dead = s.dead := rfl
@[simp] theorem State.bump_outbox (s : State) (a hi lo n : Nat) : (s.bump a hi lo n).outbox = s.outbox := rfl

/-! ### event -/

@[simp] theorem State.event_pending (s : State) (a i : Nat) : (s.event a i).pending = s.pending := rfl
@[simp] theorem State.event_now (s : State) (a i : Nat) : (s.event a i).now = s.now := rfl
@[simp] theorem State.event_free (s : State) (a i : Nat) : (s.event a i).free = s.free := rfl
@[simp] theorem State.event_mem (s : State) (a i : Nat) : (s.event a i).mem = s.mem := rfl
@[simp] theorem State.event_tags (s : State) (a i : Nat) : (s.event a i).tags = s.tags := rfl
@[simp] theorem State.event_kdata (s : State) (a i : Nat) : (s.event a i).kdata = s.kdata := rfl
@[simp] theorem State.event_imem (s : State) (a i : Nat) : (s.event a i).imem = s.imem := rfl
@[simp] theorem State.event_larder (s : State) (a i : Nat) : (s.event a i).larder = s.larder := rfl
@[simp] theorem State.event_pantry (s : State) (a i : Nat) : (s.event a i).pantry = s.pantry := rfl
@[simp] theorem State.event_cellar (s : State) (a i : Nat) : (s.event a i).cellar = s.cellar := rfl
@[simp] theorem State.event_tick (s : State) (a i : Nat) : (s.event a i).tick = s.tick := rfl
@[simp] theorem State.event_engines (s : State) (a i : Nat) : (s.event a i).engines = s.engines := rfl
@[simp] theorem State.event_queues (s : State) (a i : Nat) : (s.event a i).queues = s.queues := rfl
@[simp] theorem State.event_ctxs (s : State) (a i : Nat) : (s.event a i).ctxs = s.ctxs := rfl
@[simp] theorem State.event_mirrors (s : State) (a i : Nat) : (s.event a i).mirrors = s.mirrors := rfl
@[simp] theorem State.event_moved (s : State) (a i : Nat) : (s.event a i).moved = s.moved := rfl
@[simp] theorem State.event_returning (s : State) (a i : Nat) : (s.event a i).returning = s.returning := rfl
@[simp] theorem State.event_leads (s : State) (a i : Nat) : (s.event a i).leads = s.leads := rfl
@[simp] theorem State.event_flt (s : State) (a i : Nat) : (s.event a i).flt = s.flt := rfl
@[simp] theorem State.event_ing (s : State) (a i : Nat) : (s.event a i).ing = s.ing := rfl
@[simp] theorem State.event_ptp (s : State) (a i : Nat) : (s.event a i).ptp = s.ptp := rfl
@[simp] theorem State.event_parts (s : State) (a i : Nat) : (s.event a i).parts = s.parts := rfl
@[simp] theorem State.event_bundles (s : State) (a i : Nat) : (s.event a i).bundles = s.bundles := rfl
@[simp] theorem State.event_links (s : State) (a i : Nat) : (s.event a i).links = s.links := rfl
@[simp] theorem State.event_attic (s : State) (a i : Nat) : (s.event a i).attic = s.attic := rfl
@[simp] theorem State.event_jobs (s : State) (a i : Nat) : (s.event a i).jobs = s.jobs := rfl
@[simp] theorem State.event_health (s : State) (a i : Nat) : (s.event a i).health = s.health := rfl
@[simp] theorem State.event_sec (s : State) (a i : Nat) : (s.event a i).sec = s.sec := rfl
@[simp] theorem State.event_persist (s : State) (a i : Nat) : (s.event a i).persist = s.persist := rfl
@[simp] theorem State.event_power (s : State) (a i : Nat) : (s.event a i).power = s.power := rfl
@[simp] theorem State.event_ktag (s : State) (a i : Nat) : (s.event a i).ktag = s.ktag := rfl
@[simp] theorem State.event_words (s : State) (a i : Nat) : (s.event a i).words = s.words := rfl
@[simp] theorem State.event_cycle (s : State) (a i : Nat) : (s.event a i).cycle = s.cycle := rfl
@[simp] theorem State.event_broken (s : State) (a i : Nat) : (s.event a i).broken = s.broken := rfl
@[simp] theorem State.event_dead (s : State) (a i : Nat) : (s.event a i).dead = s.dead := rfl
@[simp] theorem State.event_outbox (s : State) (a i : Nat) : (s.event a i).outbox = s.outbox := rfl

/-! ### emit -/

@[simp] theorem State.emit_pending (s : State) (o : Output) : (s.emit o).pending = s.pending := rfl
@[simp] theorem State.emit_now (s : State) (o : Output) : (s.emit o).now = s.now := rfl
@[simp] theorem State.emit_free (s : State) (o : Output) : (s.emit o).free = s.free := rfl
@[simp] theorem State.emit_regs (s : State) (o : Output) : (s.emit o).regs = s.regs := rfl
@[simp] theorem State.emit_mem (s : State) (o : Output) : (s.emit o).mem = s.mem := rfl
@[simp] theorem State.emit_tags (s : State) (o : Output) : (s.emit o).tags = s.tags := rfl
@[simp] theorem State.emit_kdata (s : State) (o : Output) : (s.emit o).kdata = s.kdata := rfl
@[simp] theorem State.emit_imem (s : State) (o : Output) : (s.emit o).imem = s.imem := rfl
@[simp] theorem State.emit_larder (s : State) (o : Output) : (s.emit o).larder = s.larder := rfl
@[simp] theorem State.emit_pantry (s : State) (o : Output) : (s.emit o).pantry = s.pantry := rfl
@[simp] theorem State.emit_cellar (s : State) (o : Output) : (s.emit o).cellar = s.cellar := rfl
@[simp] theorem State.emit_tick (s : State) (o : Output) : (s.emit o).tick = s.tick := rfl
@[simp] theorem State.emit_engines (s : State) (o : Output) : (s.emit o).engines = s.engines := rfl
@[simp] theorem State.emit_queues (s : State) (o : Output) : (s.emit o).queues = s.queues := rfl
@[simp] theorem State.emit_ctxs (s : State) (o : Output) : (s.emit o).ctxs = s.ctxs := rfl
@[simp] theorem State.emit_mirrors (s : State) (o : Output) : (s.emit o).mirrors = s.mirrors := rfl
@[simp] theorem State.emit_moved (s : State) (o : Output) : (s.emit o).moved = s.moved := rfl
@[simp] theorem State.emit_returning (s : State) (o : Output) : (s.emit o).returning = s.returning := rfl
@[simp] theorem State.emit_leads (s : State) (o : Output) : (s.emit o).leads = s.leads := rfl
@[simp] theorem State.emit_flt (s : State) (o : Output) : (s.emit o).flt = s.flt := rfl
@[simp] theorem State.emit_ing (s : State) (o : Output) : (s.emit o).ing = s.ing := rfl
@[simp] theorem State.emit_ptp (s : State) (o : Output) : (s.emit o).ptp = s.ptp := rfl
@[simp] theorem State.emit_parts (s : State) (o : Output) : (s.emit o).parts = s.parts := rfl
@[simp] theorem State.emit_bundles (s : State) (o : Output) : (s.emit o).bundles = s.bundles := rfl
@[simp] theorem State.emit_links (s : State) (o : Output) : (s.emit o).links = s.links := rfl
@[simp] theorem State.emit_attic (s : State) (o : Output) : (s.emit o).attic = s.attic := rfl
@[simp] theorem State.emit_jobs (s : State) (o : Output) : (s.emit o).jobs = s.jobs := rfl
@[simp] theorem State.emit_health (s : State) (o : Output) : (s.emit o).health = s.health := rfl
@[simp] theorem State.emit_sec (s : State) (o : Output) : (s.emit o).sec = s.sec := rfl
@[simp] theorem State.emit_persist (s : State) (o : Output) : (s.emit o).persist = s.persist := rfl
@[simp] theorem State.emit_power (s : State) (o : Output) : (s.emit o).power = s.power := rfl
@[simp] theorem State.emit_ktag (s : State) (o : Output) : (s.emit o).ktag = s.ktag := rfl
@[simp] theorem State.emit_words (s : State) (o : Output) : (s.emit o).words = s.words := rfl
@[simp] theorem State.emit_cycle (s : State) (o : Output) : (s.emit o).cycle = s.cycle := rfl
@[simp] theorem State.emit_setNow (s : State) (o : Output) : (s.emit o).setNow = s.setNow := rfl
@[simp] theorem State.emit_broken (s : State) (o : Output) : (s.emit o).broken = s.broken := rfl
@[simp] theorem State.emit_dead (s : State) (o : Output) : (s.emit o).dead = s.dead := rfl

/-! ### reached -/

@[simp] theorem State.reached_pending (s : State) (place rank : Nat) : (s.reached place rank).pending = s.pending := rfl
@[simp] theorem State.reached_now (s : State) (place rank : Nat) : (s.reached place rank).now = s.now := rfl
@[simp] theorem State.reached_free (s : State) (place rank : Nat) : (s.reached place rank).free = s.free := rfl
@[simp] theorem State.reached_regs (s : State) (place rank : Nat) : (s.reached place rank).regs = s.regs := rfl
@[simp] theorem State.reached_mem (s : State) (place rank : Nat) : (s.reached place rank).mem = s.mem := rfl
@[simp] theorem State.reached_tags (s : State) (place rank : Nat) : (s.reached place rank).tags = s.tags := rfl
@[simp] theorem State.reached_kdata (s : State) (place rank : Nat) : (s.reached place rank).kdata = s.kdata := rfl
@[simp] theorem State.reached_imem (s : State) (place rank : Nat) : (s.reached place rank).imem = s.imem := rfl
@[simp] theorem State.reached_larder (s : State) (place rank : Nat) : (s.reached place rank).larder = s.larder := rfl
@[simp] theorem State.reached_pantry (s : State) (place rank : Nat) : (s.reached place rank).pantry = s.pantry := rfl
@[simp] theorem State.reached_cellar (s : State) (place rank : Nat) : (s.reached place rank).cellar = s.cellar := rfl
@[simp] theorem State.reached_tick (s : State) (place rank : Nat) : (s.reached place rank).tick = s.tick := rfl
@[simp] theorem State.reached_engines (s : State) (place rank : Nat) : (s.reached place rank).engines = s.engines := rfl
@[simp] theorem State.reached_queues (s : State) (place rank : Nat) : (s.reached place rank).queues = s.queues := rfl
@[simp] theorem State.reached_ctxs (s : State) (place rank : Nat) : (s.reached place rank).ctxs = s.ctxs := rfl
@[simp] theorem State.reached_mirrors (s : State) (place rank : Nat) : (s.reached place rank).mirrors = s.mirrors := rfl
@[simp] theorem State.reached_moved (s : State) (place rank : Nat) : (s.reached place rank).moved = s.moved := rfl
@[simp] theorem State.reached_returning (s : State) (place rank : Nat) : (s.reached place rank).returning = s.returning := rfl
@[simp] theorem State.reached_leads (s : State) (place rank : Nat) : (s.reached place rank).leads = s.leads := rfl
@[simp] theorem State.reached_flt (s : State) (place rank : Nat) : (s.reached place rank).flt = s.flt := rfl
@[simp] theorem State.reached_ing (s : State) (place rank : Nat) : (s.reached place rank).ing = s.ing := rfl
@[simp] theorem State.reached_ptp (s : State) (place rank : Nat) : (s.reached place rank).ptp = s.ptp := rfl
@[simp] theorem State.reached_parts (s : State) (place rank : Nat) : (s.reached place rank).parts = s.parts := rfl
@[simp] theorem State.reached_bundles (s : State) (place rank : Nat) : (s.reached place rank).bundles = s.bundles := rfl
@[simp] theorem State.reached_links (s : State) (place rank : Nat) : (s.reached place rank).links = s.links := rfl
@[simp] theorem State.reached_attic (s : State) (place rank : Nat) : (s.reached place rank).attic = s.attic := rfl
@[simp] theorem State.reached_jobs (s : State) (place rank : Nat) : (s.reached place rank).jobs = s.jobs := rfl
@[simp] theorem State.reached_health (s : State) (place rank : Nat) : (s.reached place rank).health = s.health := rfl
@[simp] theorem State.reached_sec (s : State) (place rank : Nat) : (s.reached place rank).sec = s.sec := rfl
@[simp] theorem State.reached_persist (s : State) (place rank : Nat) : (s.reached place rank).persist = s.persist := rfl
@[simp] theorem State.reached_power (s : State) (place rank : Nat) : (s.reached place rank).power = s.power := rfl
@[simp] theorem State.reached_ktag (s : State) (place rank : Nat) : (s.reached place rank).ktag = s.ktag := rfl
@[simp] theorem State.reached_words (s : State) (place rank : Nat) : (s.reached place rank).words = s.words := rfl
@[simp] theorem State.reached_setNow (s : State) (place rank : Nat) : (s.reached place rank).setNow = s.setNow := rfl
@[simp] theorem State.reached_broken (s : State) (place rank : Nat) : (s.reached place rank).broken = s.broken := rfl
@[simp] theorem State.reached_dead (s : State) (place rank : Nat) : (s.reached place rank).dead = s.dead := rfl
@[simp] theorem State.reached_outbox (s : State) (place rank : Nat) : (s.reached place rank).outbox = s.outbox := rfl

/-! ### setEng -/

@[simp] theorem State.setEng_pending (s : State) (e : Nat) (x : EngineSt) : (s.setEng e x).pending = s.pending := rfl
@[simp] theorem State.setEng_now (s : State) (e : Nat) (x : EngineSt) : (s.setEng e x).now = s.now := rfl
@[simp] theorem State.setEng_free (s : State) (e : Nat) (x : EngineSt) : (s.setEng e x).free = s.free := rfl
@[simp] theorem State.setEng_regs (s : State) (e : Nat) (x : EngineSt) : (s.setEng e x).regs = s.regs := rfl
@[simp] theorem State.setEng_mem (s : State) (e : Nat) (x : EngineSt) : (s.setEng e x).mem = s.mem := rfl
@[simp] theorem State.setEng_tags (s : State) (e : Nat) (x : EngineSt) : (s.setEng e x).tags = s.tags := rfl
@[simp] theorem State.setEng_kdata (s : State) (e : Nat) (x : EngineSt) : (s.setEng e x).kdata = s.kdata := rfl
@[simp] theorem State.setEng_imem (s : State) (e : Nat) (x : EngineSt) : (s.setEng e x).imem = s.imem := rfl
@[simp] theorem State.setEng_larder (s : State) (e : Nat) (x : EngineSt) : (s.setEng e x).larder = s.larder := rfl
@[simp] theorem State.setEng_pantry (s : State) (e : Nat) (x : EngineSt) : (s.setEng e x).pantry = s.pantry := rfl
@[simp] theorem State.setEng_cellar (s : State) (e : Nat) (x : EngineSt) : (s.setEng e x).cellar = s.cellar := rfl
@[simp] theorem State.setEng_tick (s : State) (e : Nat) (x : EngineSt) : (s.setEng e x).tick = s.tick := rfl
@[simp] theorem State.setEng_queues (s : State) (e : Nat) (x : EngineSt) : (s.setEng e x).queues = s.queues := rfl
@[simp] theorem State.setEng_ctxs (s : State) (e : Nat) (x : EngineSt) : (s.setEng e x).ctxs = s.ctxs := rfl
@[simp] theorem State.setEng_mirrors (s : State) (e : Nat) (x : EngineSt) : (s.setEng e x).mirrors = s.mirrors := rfl
@[simp] theorem State.setEng_moved (s : State) (e : Nat) (x : EngineSt) : (s.setEng e x).moved = s.moved := rfl
@[simp] theorem State.setEng_returning (s : State) (e : Nat) (x : EngineSt) : (s.setEng e x).returning = s.returning := rfl
@[simp] theorem State.setEng_leads (s : State) (e : Nat) (x : EngineSt) : (s.setEng e x).leads = s.leads := rfl
@[simp] theorem State.setEng_flt (s : State) (e : Nat) (x : EngineSt) : (s.setEng e x).flt = s.flt := rfl
@[simp] theorem State.setEng_ing (s : State) (e : Nat) (x : EngineSt) : (s.setEng e x).ing = s.ing := rfl
@[simp] theorem State.setEng_ptp (s : State) (e : Nat) (x : EngineSt) : (s.setEng e x).ptp = s.ptp := rfl
@[simp] theorem State.setEng_parts (s : State) (e : Nat) (x : EngineSt) : (s.setEng e x).parts = s.parts := rfl
@[simp] theorem State.setEng_bundles (s : State) (e : Nat) (x : EngineSt) : (s.setEng e x).bundles = s.bundles := rfl
@[simp] theorem State.setEng_links (s : State) (e : Nat) (x : EngineSt) : (s.setEng e x).links = s.links := rfl
@[simp] theorem State.setEng_attic (s : State) (e : Nat) (x : EngineSt) : (s.setEng e x).attic = s.attic := rfl
@[simp] theorem State.setEng_jobs (s : State) (e : Nat) (x : EngineSt) : (s.setEng e x).jobs = s.jobs := rfl
@[simp] theorem State.setEng_health (s : State) (e : Nat) (x : EngineSt) : (s.setEng e x).health = s.health := rfl
@[simp] theorem State.setEng_sec (s : State) (e : Nat) (x : EngineSt) : (s.setEng e x).sec = s.sec := rfl
@[simp] theorem State.setEng_persist (s : State) (e : Nat) (x : EngineSt) : (s.setEng e x).persist = s.persist := rfl
@[simp] theorem State.setEng_power (s : State) (e : Nat) (x : EngineSt) : (s.setEng e x).power = s.power := rfl
@[simp] theorem State.setEng_ktag (s : State) (e : Nat) (x : EngineSt) : (s.setEng e x).ktag = s.ktag := rfl
@[simp] theorem State.setEng_words (s : State) (e : Nat) (x : EngineSt) : (s.setEng e x).words = s.words := rfl
@[simp] theorem State.setEng_cycle (s : State) (e : Nat) (x : EngineSt) : (s.setEng e x).cycle = s.cycle := rfl
@[simp] theorem State.setEng_setNow (s : State) (e : Nat) (x : EngineSt) : (s.setEng e x).setNow = s.setNow := rfl
@[simp] theorem State.setEng_broken (s : State) (e : Nat) (x : EngineSt) : (s.setEng e x).broken = s.broken := rfl
@[simp] theorem State.setEng_dead (s : State) (e : Nat) (x : EngineSt) : (s.setEng e x).dead = s.dead := rfl
@[simp] theorem State.setEng_outbox (s : State) (e : Nat) (x : EngineSt) : (s.setEng e x).outbox = s.outbox := rfl

/-! ### setQueue -/

@[simp] theorem State.setQueue_pending (s : State) (e q : Nat) (x : QueueSt) : (s.setQueue e q x).pending = s.pending := rfl
@[simp] theorem State.setQueue_now (s : State) (e q : Nat) (x : QueueSt) : (s.setQueue e q x).now = s.now := rfl
@[simp] theorem State.setQueue_free (s : State) (e q : Nat) (x : QueueSt) : (s.setQueue e q x).free = s.free := rfl
@[simp] theorem State.setQueue_regs (s : State) (e q : Nat) (x : QueueSt) : (s.setQueue e q x).regs = s.regs := rfl
@[simp] theorem State.setQueue_mem (s : State) (e q : Nat) (x : QueueSt) : (s.setQueue e q x).mem = s.mem := rfl
@[simp] theorem State.setQueue_tags (s : State) (e q : Nat) (x : QueueSt) : (s.setQueue e q x).tags = s.tags := rfl
@[simp] theorem State.setQueue_kdata (s : State) (e q : Nat) (x : QueueSt) : (s.setQueue e q x).kdata = s.kdata := rfl
@[simp] theorem State.setQueue_imem (s : State) (e q : Nat) (x : QueueSt) : (s.setQueue e q x).imem = s.imem := rfl
@[simp] theorem State.setQueue_larder (s : State) (e q : Nat) (x : QueueSt) : (s.setQueue e q x).larder = s.larder := rfl
@[simp] theorem State.setQueue_pantry (s : State) (e q : Nat) (x : QueueSt) : (s.setQueue e q x).pantry = s.pantry := rfl
@[simp] theorem State.setQueue_cellar (s : State) (e q : Nat) (x : QueueSt) : (s.setQueue e q x).cellar = s.cellar := rfl
@[simp] theorem State.setQueue_tick (s : State) (e q : Nat) (x : QueueSt) : (s.setQueue e q x).tick = s.tick := rfl
@[simp] theorem State.setQueue_engines (s : State) (e q : Nat) (x : QueueSt) : (s.setQueue e q x).engines = s.engines := rfl
@[simp] theorem State.setQueue_ctxs (s : State) (e q : Nat) (x : QueueSt) : (s.setQueue e q x).ctxs = s.ctxs := rfl
@[simp] theorem State.setQueue_mirrors (s : State) (e q : Nat) (x : QueueSt) : (s.setQueue e q x).mirrors = s.mirrors := rfl
@[simp] theorem State.setQueue_moved (s : State) (e q : Nat) (x : QueueSt) : (s.setQueue e q x).moved = s.moved := rfl
@[simp] theorem State.setQueue_returning (s : State) (e q : Nat) (x : QueueSt) : (s.setQueue e q x).returning = s.returning := rfl
@[simp] theorem State.setQueue_leads (s : State) (e q : Nat) (x : QueueSt) : (s.setQueue e q x).leads = s.leads := rfl
@[simp] theorem State.setQueue_flt (s : State) (e q : Nat) (x : QueueSt) : (s.setQueue e q x).flt = s.flt := rfl
@[simp] theorem State.setQueue_ing (s : State) (e q : Nat) (x : QueueSt) : (s.setQueue e q x).ing = s.ing := rfl
@[simp] theorem State.setQueue_ptp (s : State) (e q : Nat) (x : QueueSt) : (s.setQueue e q x).ptp = s.ptp := rfl
@[simp] theorem State.setQueue_parts (s : State) (e q : Nat) (x : QueueSt) : (s.setQueue e q x).parts = s.parts := rfl
@[simp] theorem State.setQueue_bundles (s : State) (e q : Nat) (x : QueueSt) : (s.setQueue e q x).bundles = s.bundles := rfl
@[simp] theorem State.setQueue_links (s : State) (e q : Nat) (x : QueueSt) : (s.setQueue e q x).links = s.links := rfl
@[simp] theorem State.setQueue_attic (s : State) (e q : Nat) (x : QueueSt) : (s.setQueue e q x).attic = s.attic := rfl
@[simp] theorem State.setQueue_jobs (s : State) (e q : Nat) (x : QueueSt) : (s.setQueue e q x).jobs = s.jobs := rfl
@[simp] theorem State.setQueue_health (s : State) (e q : Nat) (x : QueueSt) : (s.setQueue e q x).health = s.health := rfl
@[simp] theorem State.setQueue_sec (s : State) (e q : Nat) (x : QueueSt) : (s.setQueue e q x).sec = s.sec := rfl
@[simp] theorem State.setQueue_persist (s : State) (e q : Nat) (x : QueueSt) : (s.setQueue e q x).persist = s.persist := rfl
@[simp] theorem State.setQueue_power (s : State) (e q : Nat) (x : QueueSt) : (s.setQueue e q x).power = s.power := rfl
@[simp] theorem State.setQueue_ktag (s : State) (e q : Nat) (x : QueueSt) : (s.setQueue e q x).ktag = s.ktag := rfl
@[simp] theorem State.setQueue_words (s : State) (e q : Nat) (x : QueueSt) : (s.setQueue e q x).words = s.words := rfl
@[simp] theorem State.setQueue_cycle (s : State) (e q : Nat) (x : QueueSt) : (s.setQueue e q x).cycle = s.cycle := rfl
@[simp] theorem State.setQueue_setNow (s : State) (e q : Nat) (x : QueueSt) : (s.setQueue e q x).setNow = s.setNow := rfl
@[simp] theorem State.setQueue_broken (s : State) (e q : Nat) (x : QueueSt) : (s.setQueue e q x).broken = s.broken := rfl
@[simp] theorem State.setQueue_dead (s : State) (e q : Nat) (x : QueueSt) : (s.setQueue e q x).dead = s.dead := rfl
@[simp] theorem State.setQueue_outbox (s : State) (e q : Nat) (x : QueueSt) : (s.setQueue e q x).outbox = s.outbox := rfl

/-! ### setCtx -/

@[simp] theorem State.setCtx_pending (s : State) (e k : Nat) (x : Ctx) : (s.setCtx e k x).pending = s.pending := rfl
@[simp] theorem State.setCtx_now (s : State) (e k : Nat) (x : Ctx) : (s.setCtx e k x).now = s.now := rfl
@[simp] theorem State.setCtx_free (s : State) (e k : Nat) (x : Ctx) : (s.setCtx e k x).free = s.free := rfl
@[simp] theorem State.setCtx_regs (s : State) (e k : Nat) (x : Ctx) : (s.setCtx e k x).regs = s.regs := rfl
@[simp] theorem State.setCtx_mem (s : State) (e k : Nat) (x : Ctx) : (s.setCtx e k x).mem = s.mem := rfl
@[simp] theorem State.setCtx_tags (s : State) (e k : Nat) (x : Ctx) : (s.setCtx e k x).tags = s.tags := rfl
@[simp] theorem State.setCtx_kdata (s : State) (e k : Nat) (x : Ctx) : (s.setCtx e k x).kdata = s.kdata := rfl
@[simp] theorem State.setCtx_imem (s : State) (e k : Nat) (x : Ctx) : (s.setCtx e k x).imem = s.imem := rfl
@[simp] theorem State.setCtx_larder (s : State) (e k : Nat) (x : Ctx) : (s.setCtx e k x).larder = s.larder := rfl
@[simp] theorem State.setCtx_pantry (s : State) (e k : Nat) (x : Ctx) : (s.setCtx e k x).pantry = s.pantry := rfl
@[simp] theorem State.setCtx_cellar (s : State) (e k : Nat) (x : Ctx) : (s.setCtx e k x).cellar = s.cellar := rfl
@[simp] theorem State.setCtx_tick (s : State) (e k : Nat) (x : Ctx) : (s.setCtx e k x).tick = s.tick := rfl
@[simp] theorem State.setCtx_engines (s : State) (e k : Nat) (x : Ctx) : (s.setCtx e k x).engines = s.engines := rfl
@[simp] theorem State.setCtx_queues (s : State) (e k : Nat) (x : Ctx) : (s.setCtx e k x).queues = s.queues := rfl
@[simp] theorem State.setCtx_mirrors (s : State) (e k : Nat) (x : Ctx) : (s.setCtx e k x).mirrors = s.mirrors := rfl
@[simp] theorem State.setCtx_moved (s : State) (e k : Nat) (x : Ctx) : (s.setCtx e k x).moved = s.moved := rfl
@[simp] theorem State.setCtx_returning (s : State) (e k : Nat) (x : Ctx) : (s.setCtx e k x).returning = s.returning := rfl
@[simp] theorem State.setCtx_leads (s : State) (e k : Nat) (x : Ctx) : (s.setCtx e k x).leads = s.leads := rfl
@[simp] theorem State.setCtx_flt (s : State) (e k : Nat) (x : Ctx) : (s.setCtx e k x).flt = s.flt := rfl
@[simp] theorem State.setCtx_ing (s : State) (e k : Nat) (x : Ctx) : (s.setCtx e k x).ing = s.ing := rfl
@[simp] theorem State.setCtx_ptp (s : State) (e k : Nat) (x : Ctx) : (s.setCtx e k x).ptp = s.ptp := rfl
@[simp] theorem State.setCtx_parts (s : State) (e k : Nat) (x : Ctx) : (s.setCtx e k x).parts = s.parts := rfl
@[simp] theorem State.setCtx_bundles (s : State) (e k : Nat) (x : Ctx) : (s.setCtx e k x).bundles = s.bundles := rfl
@[simp] theorem State.setCtx_links (s : State) (e k : Nat) (x : Ctx) : (s.setCtx e k x).links = s.links := rfl
@[simp] theorem State.setCtx_attic (s : State) (e k : Nat) (x : Ctx) : (s.setCtx e k x).attic = s.attic := rfl
@[simp] theorem State.setCtx_jobs (s : State) (e k : Nat) (x : Ctx) : (s.setCtx e k x).jobs = s.jobs := rfl
@[simp] theorem State.setCtx_health (s : State) (e k : Nat) (x : Ctx) : (s.setCtx e k x).health = s.health := rfl
@[simp] theorem State.setCtx_sec (s : State) (e k : Nat) (x : Ctx) : (s.setCtx e k x).sec = s.sec := rfl
@[simp] theorem State.setCtx_persist (s : State) (e k : Nat) (x : Ctx) : (s.setCtx e k x).persist = s.persist := rfl
@[simp] theorem State.setCtx_power (s : State) (e k : Nat) (x : Ctx) : (s.setCtx e k x).power = s.power := rfl
@[simp] theorem State.setCtx_ktag (s : State) (e k : Nat) (x : Ctx) : (s.setCtx e k x).ktag = s.ktag := rfl
@[simp] theorem State.setCtx_words (s : State) (e k : Nat) (x : Ctx) : (s.setCtx e k x).words = s.words := rfl
@[simp] theorem State.setCtx_cycle (s : State) (e k : Nat) (x : Ctx) : (s.setCtx e k x).cycle = s.cycle := rfl
@[simp] theorem State.setCtx_setNow (s : State) (e k : Nat) (x : Ctx) : (s.setCtx e k x).setNow = s.setNow := rfl
@[simp] theorem State.setCtx_broken (s : State) (e k : Nat) (x : Ctx) : (s.setCtx e k x).broken = s.broken := rfl
@[simp] theorem State.setCtx_dead (s : State) (e k : Nat) (x : Ctx) : (s.setCtx e k x).dead = s.dead := rfl
@[simp] theorem State.setCtx_outbox (s : State) (e k : Nat) (x : Ctx) : (s.setCtx e k x).outbox = s.outbox := rfl

/-! ### setTag -/

@[simp] theorem State.setTag_pending (s : State) (e b v : Nat) : (s.setTag e b v).pending = s.pending := rfl
@[simp] theorem State.setTag_now (s : State) (e b v : Nat) : (s.setTag e b v).now = s.now := rfl
@[simp] theorem State.setTag_free (s : State) (e b v : Nat) : (s.setTag e b v).free = s.free := rfl
@[simp] theorem State.setTag_regs (s : State) (e b v : Nat) : (s.setTag e b v).regs = s.regs := rfl
@[simp] theorem State.setTag_mem (s : State) (e b v : Nat) : (s.setTag e b v).mem = s.mem := rfl
@[simp] theorem State.setTag_kdata (s : State) (e b v : Nat) : (s.setTag e b v).kdata = s.kdata := rfl
@[simp] theorem State.setTag_imem (s : State) (e b v : Nat) : (s.setTag e b v).imem = s.imem := rfl
@[simp] theorem State.setTag_larder (s : State) (e b v : Nat) : (s.setTag e b v).larder = s.larder := rfl
@[simp] theorem State.setTag_pantry (s : State) (e b v : Nat) : (s.setTag e b v).pantry = s.pantry := rfl
@[simp] theorem State.setTag_cellar (s : State) (e b v : Nat) : (s.setTag e b v).cellar = s.cellar := rfl
@[simp] theorem State.setTag_tick (s : State) (e b v : Nat) : (s.setTag e b v).tick = s.tick := rfl
@[simp] theorem State.setTag_engines (s : State) (e b v : Nat) : (s.setTag e b v).engines = s.engines := rfl
@[simp] theorem State.setTag_queues (s : State) (e b v : Nat) : (s.setTag e b v).queues = s.queues := rfl
@[simp] theorem State.setTag_ctxs (s : State) (e b v : Nat) : (s.setTag e b v).ctxs = s.ctxs := rfl
@[simp] theorem State.setTag_mirrors (s : State) (e b v : Nat) : (s.setTag e b v).mirrors = s.mirrors := rfl
@[simp] theorem State.setTag_moved (s : State) (e b v : Nat) : (s.setTag e b v).moved = s.moved := rfl
@[simp] theorem State.setTag_returning (s : State) (e b v : Nat) : (s.setTag e b v).returning = s.returning := rfl
@[simp] theorem State.setTag_leads (s : State) (e b v : Nat) : (s.setTag e b v).leads = s.leads := rfl
@[simp] theorem State.setTag_flt (s : State) (e b v : Nat) : (s.setTag e b v).flt = s.flt := rfl
@[simp] theorem State.setTag_ing (s : State) (e b v : Nat) : (s.setTag e b v).ing = s.ing := rfl
@[simp] theorem State.setTag_ptp (s : State) (e b v : Nat) : (s.setTag e b v).ptp = s.ptp := rfl
@[simp] theorem State.setTag_parts (s : State) (e b v : Nat) : (s.setTag e b v).parts = s.parts := rfl
@[simp] theorem State.setTag_bundles (s : State) (e b v : Nat) : (s.setTag e b v).bundles = s.bundles := rfl
@[simp] theorem State.setTag_links (s : State) (e b v : Nat) : (s.setTag e b v).links = s.links := rfl
@[simp] theorem State.setTag_attic (s : State) (e b v : Nat) : (s.setTag e b v).attic = s.attic := rfl
@[simp] theorem State.setTag_jobs (s : State) (e b v : Nat) : (s.setTag e b v).jobs = s.jobs := rfl
@[simp] theorem State.setTag_health (s : State) (e b v : Nat) : (s.setTag e b v).health = s.health := rfl
@[simp] theorem State.setTag_sec (s : State) (e b v : Nat) : (s.setTag e b v).sec = s.sec := rfl
@[simp] theorem State.setTag_persist (s : State) (e b v : Nat) : (s.setTag e b v).persist = s.persist := rfl
@[simp] theorem State.setTag_power (s : State) (e b v : Nat) : (s.setTag e b v).power = s.power := rfl
@[simp] theorem State.setTag_ktag (s : State) (e b v : Nat) : (s.setTag e b v).ktag = s.ktag := rfl
@[simp] theorem State.setTag_words (s : State) (e b v : Nat) : (s.setTag e b v).words = s.words := rfl
@[simp] theorem State.setTag_cycle (s : State) (e b v : Nat) : (s.setTag e b v).cycle = s.cycle := rfl
@[simp] theorem State.setTag_setNow (s : State) (e b v : Nat) : (s.setTag e b v).setNow = s.setNow := rfl
@[simp] theorem State.setTag_broken (s : State) (e b v : Nat) : (s.setTag e b v).broken = s.broken := rfl
@[simp] theorem State.setTag_dead (s : State) (e b v : Nat) : (s.setTag e b v).dead = s.dead := rfl
@[simp] theorem State.setTag_outbox (s : State) (e b v : Nat) : (s.setTag e b v).outbox = s.outbox := rfl

/-! ### kstore -/

@[simp] theorem State.kstore_pending (s : State) (e ofs : Nat) (bs : List Byte) : (s.kstore e ofs bs).pending = s.pending := rfl
@[simp] theorem State.kstore_now (s : State) (e ofs : Nat) (bs : List Byte) : (s.kstore e ofs bs).now = s.now := rfl
@[simp] theorem State.kstore_free (s : State) (e ofs : Nat) (bs : List Byte) : (s.kstore e ofs bs).free = s.free := rfl
@[simp] theorem State.kstore_regs (s : State) (e ofs : Nat) (bs : List Byte) : (s.kstore e ofs bs).regs = s.regs := rfl
@[simp] theorem State.kstore_mem (s : State) (e ofs : Nat) (bs : List Byte) : (s.kstore e ofs bs).mem = s.mem := rfl
@[simp] theorem State.kstore_tags (s : State) (e ofs : Nat) (bs : List Byte) : (s.kstore e ofs bs).tags = s.tags := rfl
@[simp] theorem State.kstore_imem (s : State) (e ofs : Nat) (bs : List Byte) : (s.kstore e ofs bs).imem = s.imem := rfl
@[simp] theorem State.kstore_larder (s : State) (e ofs : Nat) (bs : List Byte) : (s.kstore e ofs bs).larder = s.larder := rfl
@[simp] theorem State.kstore_pantry (s : State) (e ofs : Nat) (bs : List Byte) : (s.kstore e ofs bs).pantry = s.pantry := rfl
@[simp] theorem State.kstore_cellar (s : State) (e ofs : Nat) (bs : List Byte) : (s.kstore e ofs bs).cellar = s.cellar := rfl
@[simp] theorem State.kstore_tick (s : State) (e ofs : Nat) (bs : List Byte) : (s.kstore e ofs bs).tick = s.tick := rfl
@[simp] theorem State.kstore_engines (s : State) (e ofs : Nat) (bs : List Byte) : (s.kstore e ofs bs).engines = s.engines := rfl
@[simp] theorem State.kstore_queues (s : State) (e ofs : Nat) (bs : List Byte) : (s.kstore e ofs bs).queues = s.queues := rfl
@[simp] theorem State.kstore_ctxs (s : State) (e ofs : Nat) (bs : List Byte) : (s.kstore e ofs bs).ctxs = s.ctxs := rfl
@[simp] theorem State.kstore_mirrors (s : State) (e ofs : Nat) (bs : List Byte) : (s.kstore e ofs bs).mirrors = s.mirrors := rfl
@[simp] theorem State.kstore_moved (s : State) (e ofs : Nat) (bs : List Byte) : (s.kstore e ofs bs).moved = s.moved := rfl
@[simp] theorem State.kstore_returning (s : State) (e ofs : Nat) (bs : List Byte) : (s.kstore e ofs bs).returning = s.returning := rfl
@[simp] theorem State.kstore_leads (s : State) (e ofs : Nat) (bs : List Byte) : (s.kstore e ofs bs).leads = s.leads := rfl
@[simp] theorem State.kstore_flt (s : State) (e ofs : Nat) (bs : List Byte) : (s.kstore e ofs bs).flt = s.flt := rfl
@[simp] theorem State.kstore_ing (s : State) (e ofs : Nat) (bs : List Byte) : (s.kstore e ofs bs).ing = s.ing := rfl
@[simp] theorem State.kstore_ptp (s : State) (e ofs : Nat) (bs : List Byte) : (s.kstore e ofs bs).ptp = s.ptp := rfl
@[simp] theorem State.kstore_parts (s : State) (e ofs : Nat) (bs : List Byte) : (s.kstore e ofs bs).parts = s.parts := rfl
@[simp] theorem State.kstore_bundles (s : State) (e ofs : Nat) (bs : List Byte) : (s.kstore e ofs bs).bundles = s.bundles := rfl
@[simp] theorem State.kstore_links (s : State) (e ofs : Nat) (bs : List Byte) : (s.kstore e ofs bs).links = s.links := rfl
@[simp] theorem State.kstore_attic (s : State) (e ofs : Nat) (bs : List Byte) : (s.kstore e ofs bs).attic = s.attic := rfl
@[simp] theorem State.kstore_jobs (s : State) (e ofs : Nat) (bs : List Byte) : (s.kstore e ofs bs).jobs = s.jobs := rfl
@[simp] theorem State.kstore_health (s : State) (e ofs : Nat) (bs : List Byte) : (s.kstore e ofs bs).health = s.health := rfl
@[simp] theorem State.kstore_sec (s : State) (e ofs : Nat) (bs : List Byte) : (s.kstore e ofs bs).sec = s.sec := rfl
@[simp] theorem State.kstore_persist (s : State) (e ofs : Nat) (bs : List Byte) : (s.kstore e ofs bs).persist = s.persist := rfl
@[simp] theorem State.kstore_power (s : State) (e ofs : Nat) (bs : List Byte) : (s.kstore e ofs bs).power = s.power := rfl
@[simp] theorem State.kstore_ktag (s : State) (e ofs : Nat) (bs : List Byte) : (s.kstore e ofs bs).ktag = s.ktag := rfl
@[simp] theorem State.kstore_words (s : State) (e ofs : Nat) (bs : List Byte) : (s.kstore e ofs bs).words = s.words := rfl
@[simp] theorem State.kstore_cycle (s : State) (e ofs : Nat) (bs : List Byte) : (s.kstore e ofs bs).cycle = s.cycle := rfl
@[simp] theorem State.kstore_setNow (s : State) (e ofs : Nat) (bs : List Byte) : (s.kstore e ofs bs).setNow = s.setNow := rfl
@[simp] theorem State.kstore_broken (s : State) (e ofs : Nat) (bs : List Byte) : (s.kstore e ofs bs).broken = s.broken := rfl
@[simp] theorem State.kstore_dead (s : State) (e ofs : Nat) (bs : List Byte) : (s.kstore e ofs bs).dead = s.dead := rfl
@[simp] theorem State.kstore_outbox (s : State) (e ofs : Nat) (bs : List Byte) : (s.kstore e ofs bs).outbox = s.outbox := rfl

/-! ### setScalar -/

@[simp] theorem State.setScalar_pending (s : State) (e q i v : Nat) : (s.setScalar e q i v).pending = s.pending := rfl
@[simp] theorem State.setScalar_now (s : State) (e q i v : Nat) : (s.setScalar e q i v).now = s.now := rfl
@[simp] theorem State.setScalar_free (s : State) (e q i v : Nat) : (s.setScalar e q i v).free = s.free := rfl
@[simp] theorem State.setScalar_regs (s : State) (e q i v : Nat) : (s.setScalar e q i v).regs = s.regs := rfl
@[simp] theorem State.setScalar_mem (s : State) (e q i v : Nat) : (s.setScalar e q i v).mem = s.mem := rfl
@[simp] theorem State.setScalar_tags (s : State) (e q i v : Nat) : (s.setScalar e q i v).tags = s.tags := rfl
@[simp] theorem State.setScalar_imem (s : State) (e q i v : Nat) : (s.setScalar e q i v).imem = s.imem := rfl
@[simp] theorem State.setScalar_larder (s : State) (e q i v : Nat) : (s.setScalar e q i v).larder = s.larder := rfl
@[simp] theorem State.setScalar_pantry (s : State) (e q i v : Nat) : (s.setScalar e q i v).pantry = s.pantry := rfl
@[simp] theorem State.setScalar_cellar (s : State) (e q i v : Nat) : (s.setScalar e q i v).cellar = s.cellar := rfl
@[simp] theorem State.setScalar_tick (s : State) (e q i v : Nat) : (s.setScalar e q i v).tick = s.tick := rfl
@[simp] theorem State.setScalar_engines (s : State) (e q i v : Nat) : (s.setScalar e q i v).engines = s.engines := rfl
@[simp] theorem State.setScalar_queues (s : State) (e q i v : Nat) : (s.setScalar e q i v).queues = s.queues := rfl
@[simp] theorem State.setScalar_ctxs (s : State) (e q i v : Nat) : (s.setScalar e q i v).ctxs = s.ctxs := rfl
@[simp] theorem State.setScalar_mirrors (s : State) (e q i v : Nat) : (s.setScalar e q i v).mirrors = s.mirrors := rfl
@[simp] theorem State.setScalar_moved (s : State) (e q i v : Nat) : (s.setScalar e q i v).moved = s.moved := rfl
@[simp] theorem State.setScalar_returning (s : State) (e q i v : Nat) : (s.setScalar e q i v).returning = s.returning := rfl
@[simp] theorem State.setScalar_leads (s : State) (e q i v : Nat) : (s.setScalar e q i v).leads = s.leads := rfl
@[simp] theorem State.setScalar_flt (s : State) (e q i v : Nat) : (s.setScalar e q i v).flt = s.flt := rfl
@[simp] theorem State.setScalar_ing (s : State) (e q i v : Nat) : (s.setScalar e q i v).ing = s.ing := rfl
@[simp] theorem State.setScalar_ptp (s : State) (e q i v : Nat) : (s.setScalar e q i v).ptp = s.ptp := rfl
@[simp] theorem State.setScalar_parts (s : State) (e q i v : Nat) : (s.setScalar e q i v).parts = s.parts := rfl
@[simp] theorem State.setScalar_bundles (s : State) (e q i v : Nat) : (s.setScalar e q i v).bundles = s.bundles := rfl
@[simp] theorem State.setScalar_links (s : State) (e q i v : Nat) : (s.setScalar e q i v).links = s.links := rfl
@[simp] theorem State.setScalar_attic (s : State) (e q i v : Nat) : (s.setScalar e q i v).attic = s.attic := rfl
@[simp] theorem State.setScalar_jobs (s : State) (e q i v : Nat) : (s.setScalar e q i v).jobs = s.jobs := rfl
@[simp] theorem State.setScalar_health (s : State) (e q i v : Nat) : (s.setScalar e q i v).health = s.health := rfl
@[simp] theorem State.setScalar_sec (s : State) (e q i v : Nat) : (s.setScalar e q i v).sec = s.sec := rfl
@[simp] theorem State.setScalar_persist (s : State) (e q i v : Nat) : (s.setScalar e q i v).persist = s.persist := rfl
@[simp] theorem State.setScalar_power (s : State) (e q i v : Nat) : (s.setScalar e q i v).power = s.power := rfl
@[simp] theorem State.setScalar_ktag (s : State) (e q i v : Nat) : (s.setScalar e q i v).ktag = s.ktag := rfl
@[simp] theorem State.setScalar_words (s : State) (e q i v : Nat) : (s.setScalar e q i v).words = s.words := rfl
@[simp] theorem State.setScalar_cycle (s : State) (e q i v : Nat) : (s.setScalar e q i v).cycle = s.cycle := rfl
@[simp] theorem State.setScalar_setNow (s : State) (e q i v : Nat) : (s.setScalar e q i v).setNow = s.setNow := rfl
@[simp] theorem State.setScalar_broken (s : State) (e q i v : Nat) : (s.setScalar e q i v).broken = s.broken := rfl
@[simp] theorem State.setScalar_dead (s : State) (e q i v : Nat) : (s.setScalar e q i v).dead = s.dead := rfl
@[simp] theorem State.setScalar_outbox (s : State) (e q i v : Nat) : (s.setScalar e q i v).outbox = s.outbox := rfl

/-! ### pushFront -/

@[simp] theorem State.pushFront_now (s : State) (c : Instr) : (s.pushFront c).now = s.now := rfl
@[simp] theorem State.pushFront_free (s : State) (c : Instr) : (s.pushFront c).free = s.free := rfl
@[simp] theorem State.pushFront_regs (s : State) (c : Instr) : (s.pushFront c).regs = s.regs := rfl
@[simp] theorem State.pushFront_mem (s : State) (c : Instr) : (s.pushFront c).mem = s.mem := rfl
@[simp] theorem State.pushFront_tags (s : State) (c : Instr) : (s.pushFront c).tags = s.tags := rfl
@[simp] theorem State.pushFront_kdata (s : State) (c : Instr) : (s.pushFront c).kdata = s.kdata := rfl
@[simp] theorem State.pushFront_imem (s : State) (c : Instr) : (s.pushFront c).imem = s.imem := rfl
@[simp] theorem State.pushFront_larder (s : State) (c : Instr) : (s.pushFront c).larder = s.larder := rfl
@[simp] theorem State.pushFront_pantry (s : State) (c : Instr) : (s.pushFront c).pantry = s.pantry := rfl
@[simp] theorem State.pushFront_cellar (s : State) (c : Instr) : (s.pushFront c).cellar = s.cellar := rfl
@[simp] theorem State.pushFront_tick (s : State) (c : Instr) : (s.pushFront c).tick = s.tick := rfl
@[simp] theorem State.pushFront_engines (s : State) (c : Instr) : (s.pushFront c).engines = s.engines := rfl
@[simp] theorem State.pushFront_queues (s : State) (c : Instr) : (s.pushFront c).queues = s.queues := rfl
@[simp] theorem State.pushFront_ctxs (s : State) (c : Instr) : (s.pushFront c).ctxs = s.ctxs := rfl
@[simp] theorem State.pushFront_mirrors (s : State) (c : Instr) : (s.pushFront c).mirrors = s.mirrors := rfl
@[simp] theorem State.pushFront_moved (s : State) (c : Instr) : (s.pushFront c).moved = s.moved := rfl
@[simp] theorem State.pushFront_returning (s : State) (c : Instr) : (s.pushFront c).returning = s.returning := rfl
@[simp] theorem State.pushFront_leads (s : State) (c : Instr) : (s.pushFront c).leads = s.leads := rfl
@[simp] theorem State.pushFront_flt (s : State) (c : Instr) : (s.pushFront c).flt = s.flt := rfl
@[simp] theorem State.pushFront_ing (s : State) (c : Instr) : (s.pushFront c).ing = s.ing := rfl
@[simp] theorem State.pushFront_ptp (s : State) (c : Instr) : (s.pushFront c).ptp = s.ptp := rfl
@[simp] theorem State.pushFront_parts (s : State) (c : Instr) : (s.pushFront c).parts = s.parts := rfl
@[simp] theorem State.pushFront_bundles (s : State) (c : Instr) : (s.pushFront c).bundles = s.bundles := rfl
@[simp] theorem State.pushFront_links (s : State) (c : Instr) : (s.pushFront c).links = s.links := rfl
@[simp] theorem State.pushFront_attic (s : State) (c : Instr) : (s.pushFront c).attic = s.attic := rfl
@[simp] theorem State.pushFront_jobs (s : State) (c : Instr) : (s.pushFront c).jobs = s.jobs := rfl
@[simp] theorem State.pushFront_health (s : State) (c : Instr) : (s.pushFront c).health = s.health := rfl
@[simp] theorem State.pushFront_sec (s : State) (c : Instr) : (s.pushFront c).sec = s.sec := rfl
@[simp] theorem State.pushFront_persist (s : State) (c : Instr) : (s.pushFront c).persist = s.persist := rfl
@[simp] theorem State.pushFront_power (s : State) (c : Instr) : (s.pushFront c).power = s.power := rfl
@[simp] theorem State.pushFront_ktag (s : State) (c : Instr) : (s.pushFront c).ktag = s.ktag := rfl
@[simp] theorem State.pushFront_words (s : State) (c : Instr) : (s.pushFront c).words = s.words := rfl
@[simp] theorem State.pushFront_cycle (s : State) (c : Instr) : (s.pushFront c).cycle = s.cycle := rfl
@[simp] theorem State.pushFront_setNow (s : State) (c : Instr) : (s.pushFront c).setNow = s.setNow := rfl
@[simp] theorem State.pushFront_broken (s : State) (c : Instr) : (s.pushFront c).broken = s.broken := rfl
@[simp] theorem State.pushFront_dead (s : State) (c : Instr) : (s.pushFront c).dead = s.dead := rfl
@[simp] theorem State.pushFront_outbox (s : State) (c : Instr) : (s.pushFront c).outbox = s.outbox := rfl
/-! ### Reading back -/

/-- What a register reads as after a write of a register. -/
theorem State.rd_wr {s : State} (h : Registers.wf s.regs) (a v b : Nat) :
    (s.wr a v).rd b = if b = a then v % 2 ^ 64 else s.rd b := by
  unfold State.rd State.wr
  simp only [tabGet_tabSet h]
  split
  · exact BitVec.toNat_ofNat v 64
  · rfl

/-- A canonical register file stays canonical. -/
theorem State.wr_regs_wf {s : State} (h : Registers.wf s.regs) (a v : Nat) : Registers.wf (s.wr a v).regs := tabSet_wf h

/-- What a byte reads as after a plain store. -/
theorem byteAt_store {m : List Host.Cell} (h : Memory.wf m) (a b : Nat) (bs : List Byte) :
    tabGet memDefault (tabSetList memDefault m a bs) b =
      if a ≤ b ∧ b < a + bs.length then bs.getD (b - a) (tabGet memDefault m b) else tabGet memDefault m b :=
  tabGet_tabSetList h

/-- What a queue reads as after a queue is set. -/
theorem State.queue_setQueue {s : State} (h : s.Inv) (e q e' q' : Nat) (x : QueueSt) :
    (s.setQueue e q x).queue e' q' = if 4 * e' + q' = 4 * e + q then x else s.queue e' q' := by
  exact tabGet_tabSet h.2.2.queues

/-- What an engine reads as after an engine is set. -/
theorem State.eng_setEng {s : State} (h : s.Inv) (e e' : Nat) (x : EngineSt) :
    (s.setEng e x).eng e' = if e' = e then x else s.eng e' := by
  exact tabGet_tabSet h.2.2.engines

/-- What a context reads as after a context is set. -/
theorem State.ctx_setCtx {s : State} (h : s.Inv) (e k e' k' : Nat) (x : Ctx) :
    (s.setCtx e k x).ctx e' k' = if 16 * e' + k' = 16 * e + k then x else s.ctx e' k' := by
  exact tabGet_tabSet h.2.2.ctxs

/-- What a tag reads as after a tag is set. -/
theorem State.tag_setTag {s : State} (h : s.Inv) (e b v e' b' : Nat) :
    (s.setTag e b v).tag e' b' = if e' * 1536 + b' = e * 1536 + b then v else s.tag e' b' := by
  exact tabGet_tabSet h.2.2.tags

/-! ### Commands in a block that runs -/

/-- A command of a block that runs does what it does in the state that time has led to. -/
theorem State.live_runs {s u : State} {t : Nat} (h : s.RunsAt t u) (f : State → State) : s.live t f = f u := by
  obtain ⟨rfl, hr⟩ := h
  unfold State.live
  simp [hr]

end Sys2Proof.Machine
end

