-- ==== Sys2Proof/Laws/Rules.lean ====
section
/-! SUPPORT. Register writes, said once: which row of the index a written register has, and what an admitted write of
it does. -/

namespace Sys2Proof.Machine

/-- An admitted 8-byte write of a register is a write by the register's access code. -/
theorem State.writeReg_row {s : State} {ag : Agent} {a v : Nat} {f : Bool} {d : RegDesc} (hr : regionOf a = .register)
    (h8 : a % 8 = 0) (hf : regFind a = some d) (hm : s.mayWrite ag a = true) :
    s.writeReg ag a 8 v f = s.writeRow d a v f := by
  unfold State.writeReg
  simp [hr, h8, hf, hm]

/-- A write of a value that is not reserved reaches the register's block. -/
theorem State.writeRow_rw {s : State} {d : RegDesc} {a v : Nat} {f : Bool} (hd : d.acc = .rw ∨ d.acc = .wo)
    (hl : s.locked a (v &&& d.mask) = false) (hb : d.bad v = false) (hv : s.valueBad a v = false) :
    s.writeRow d a v f = s.applyWrite a (v &&& d.mask) v f := by
  unfold State.writeRow
  rcases hd with h | h <;> simp [h, hl, hb, hv]

/-- A write of a locked register is dropped. -/
theorem State.writeRow_locked {s : State} {d : RegDesc} {a v : Nat} {f : Bool} (hd : d.acc = .rw ∨ d.acc = .wo)
    (hl : s.locked a (v &&& d.mask) = true) : s.writeRow d a v f = s.regAccess a := by
  unfold State.writeRow
  rcases hd with h | h <;> simp [h, hl]

/-! ### Engine windows -/

/-- DA of offset o in the register window of engine e. -/
def engReg (e o : Nat) : Nat := 0x3f0001000000 + e * 0x10000 + o

theorem past_engReg {e o : Nat} : past (engReg e o) regBase = 0x1000000 + e * 0x10000 + o := by
  unfold past engReg regBase
  split <;> omega

theorem regBlock_eng {e o : Nat} (he : e < 96) (ho : o < 0x10000) : past (engReg e o) regBase / 2 ^ 24 = 1 := by
  rw [past_engReg]; omega

theorem regEngine_eng {e o : Nat} (he : e < 96) (ho : o < 0x10000) : regEngine (engReg e o) = e := by
  unfold regEngine
  rw [past_engReg]; omega

theorem regOffset_eng {e o : Nat} (he : e < 96) (ho : o < 0x10000) : regOffset (engReg e o) = o := by
  unfold regOffset
  rw [regBlock_eng he ho, past_engReg]
  simp only [if_true]; omega

theorem regWindow_eng {e o : Nat} (he : e < 96) (ho : o < 0x10000) : regWindow (engReg e o) = true := by
  unfold regWindow
  rw [regBlock_eng he ho, past_engReg]
  have h1 : regBase ≤ engReg e o := by unfold regBase engReg; omega
  have h2 : (0x1000000 + e * 0x10000 + o) % 2 ^ 24 / 2 ^ 16 < 96 := by omega
  rw [decide_eq_true h1, decide_eq_true h2]; rfl

theorem regionOf_eng {e o : Nat} (he : e < 96) (ho : o < 0x10000) : regionOf (engReg e o) = .register := by
  unfold regionOf engReg cellarBase atticBase shelfBase regBase
  repeat' split
  all_goals first
    | rfl
    | omega

theorem regFind_eng {e o : Nat} (he : e < 96) (ho : o < 0x10000) : regFind (engReg e o) = regsEng.find? (·.has o) := by
  unfold regFind
  rw [regWindow_eng he ho, regBlock_eng he ho, regOffset_eng he ho]
  rfl

theorem valueBad_eng {s : State} {e o v : Nat} (he : e < 96) (ho : o < 0x10000) : s.valueBad (engReg e o) v = false := by
  have h1 : engReg e o ≠ Reg.tckAlignOfs := by unfold engReg Reg.tckAlignOfs; omega
  have h2 : engReg e o ≠ Reg.ktfId := by unfold engReg Reg.ktfId; omega
  have h3 : engReg e o ≠ Reg.schCtxSel := by unfold engReg Reg.schCtxSel; omega
  have h4 : ¬ Reg.ktfPortCfg 0 ≤ engReg e o := by unfold engReg Reg.ktfPortCfg; omega
  have h5 : ¬ Reg.schClientCfg 0 ≤ engReg e o := by unfold engReg Reg.schClientCfg; omega
  unfold State.valueBad regNumber
  simp [h1, h2, h3, h4, h5]

/-- Of the registers of an engine window only the queues' can be locked. -/
theorem locked_eng {s : State} {e o v : Nat} (he : e < 96) (ho : o < 0x10000) :
    s.locked (engReg e o) v =
      (decide (0x200 ≤ o) && decide (o < 0x300) && s.queueLocked e ((o - 0x200) / 0x40) (engReg e o) (o % 0x40) v) := by
  unfold State.locked
  rw [regBlock_eng he ho, regEngine_eng he ho, regOffset_eng he ho]
  rfl

/-- A register of an engine window that is no queue's is not locked. -/
theorem locked_eng_plain {s : State} {e o v : Nat} (he : e < 96) (ho : o < 0x10000) (hq : o < 0x200 ∨ 0x300 ≤ o) :
    s.locked (engReg e o) v = false := by
  rw [locked_eng he ho]
  rcases hq with h | h
  · rw [decide_eq_false (by omega : ¬ 0x200 ≤ o)]; rfl
  · rw [decide_eq_false (by omega : ¬ o < 0x300), Bool.and_false]; rfl

/-- An admitted write of a writable register of an engine window. -/
theorem State.writeReg_eng {s : State} {ag : Agent} {e o v : Nat} {f : Bool} {d : RegDesc} (he : e < 96) (ho : o < 0x10000)
    (h8 : o % 8 = 0) (hf : regsEng.find? (·.has o) = some d) (hd : d.acc = .rw ∨ d.acc = .wo)
    (hl : s.locked (engReg e o) (v &&& d.mask) = false) (hb : d.bad v = false) (hm : s.mayWrite ag (engReg e o) = true) :
    s.writeReg ag (engReg e o) 8 v f = s.writeEng e (engReg e o) o (v &&& d.mask) := by
  have h : engReg e o % 8 = 0 := by unfold engReg; omega
  rw [State.writeReg_row (regionOf_eng he ho) h ((regFind_eng he ho).trans hf) hm,
    State.writeRow_rw hd hl hb (valueBad_eng he ho)]
  unfold State.applyWrite
  rw [regBlock_eng he ho, regEngine_eng he ho, regOffset_eng he ho]
  rfl

/-! ### Commands that write a register -/

/-- A register-write command of a block that runs. -/
theorem State.writeAt_runs {s u : State} {t : Nat} {ag : Agent} {a v : Nat} {f : Bool} (h : s.WritesAt t ag a u) :
    s.writeAt t ag a v f = .next (u.writeReg ag a 8 v f) := by
  unfold State.writeAt State.writeFrom
  rw [State.live_runs ⟨rfl, h.1⟩, h.2]

/-- A command that changes one field of a register of a block that runs. -/
theorem State.updateAt_runs {s u : State} {t : Nat} {ag : Agent} {a : Nat} {g : Nat → Nat} (h : s.WritesAt t ag a u) :
    s.updateAt t ag a g = .next (u.writeReg ag a 8 (g (u.rd a)) false) := by
  unfold State.updateAt
  rw [State.live_runs ⟨rfl, h.1⟩]; simp only [h.2]

/-- An admitted write of a writable register, at an address that names one. -/
theorem State.writeReg_at {s : State} {ag : Agent} {a v : Nat} {f : Bool} {d : RegDesc} (hr : regionOf a = .register)
    (h8 : a % 8 = 0) (hf : regFind a = some d) (hd : d.acc = .rw ∨ d.acc = .wo) (hl : s.locked a (v &&& d.mask) = false)
    (hb : d.bad v = false) (hv : s.valueBad a v = false) (hm : s.mayWrite ag a = true) :
    s.writeReg ag a 8 v f = s.applyWrite a (v &&& d.mask) v f := by
  rw [State.writeReg_row hr h8 hf hm, State.writeRow_rw hd hl hb hv]

end Sys2Proof.Machine
end

