-- ==== Sys2Proof/Laws/Facts.lean ====
section
/-! SUPPORT. What the shared operations do, said once: issue and step boundaries, register writes by command, memory, requests, contexts and
queues, the Keeper's run, links and fabric packets, faults, boot, power. -/

set_option linter.unusedVariables false

namespace Sys2Proof.Machine

theorem gate_next {u : State} (hr : u.stopped = false) {x : State} :
    (if u.stopped then (Host.Outcome.next u : Host.Outcome State Fault Refusal) else .next x) = .next x := by rw [hr]; rfl

/-- What the issue of the next entry comes to, by what its body answers. -/
theorem issued_body {u : State} {e q : Nat} {isIt da : Desc → Bool} {body : State → Site → OpenOp → Issue} {site : Site} {f : Entry}
    (h : u.IssuesNext e q isIt site f) :
    u.issueNext e q isIt da body =
      match body (u.issued e q site f) site (u.opened e q site f) with
      | .fault flt =>
        if flt.code = atticPending ∨ flt.code = atticOwn then u.askSector (sectorOf flt.addr) (decide (flt.code = atticOwn))
        else u.faultsAs e q site f (da f.desc) flt
      | .opens x o => u.opensAs e q f (da f.desc) x o
      | .ends x st => u.endsAs e q site f (da f.desc) x st := by
  obtain ⟨h1, h2, h3, h4⟩ := h
  unfold State.issueNext
  rw [h1]
  have h5 : ¬(descCommonBad f.desc = true ∨ Desc.chain f.desc = true ∧ (u.queue e q).lastDa = true) := by
    rintro (a | a)
    · rw [h2] at a; cases a
    · exact h4 a
  simp only [if_neg h5, h3]
  rfl

theorem issued_opens {u : State} {e q : Nat} {isIt da : Desc → Bool} {body : State → Site → OpenOp → Issue} {site : Site} {f : Entry}
    {x : State} {o : OpenOp} (h : u.IssuesNext e q isIt site f)
    (hb : body (u.issued e q site f) site (u.opened e q site f) = .opens x o) :
    u.issueNext e q isIt da body = u.opensAs e q f (da f.desc) x o := by
  rw [issued_body h, hb]

theorem issued_ends {u : State} {e q : Nat} {isIt da : Desc → Bool} {body : State → Site → OpenOp → Issue} {site : Site} {f : Entry}
    {x : State} {st : EndStatus} (h : u.IssuesNext e q isIt site f)
    (hb : body (u.issued e q site f) site (u.opened e q site f) = .ends x st) :
    u.issueNext e q isIt da body = u.endsAs e q site f (da f.desc) x st := by
  rw [issued_body h, hb]

theorem issued_faults {u : State} {e q : Nat} {isIt da : Desc → Bool} {body : State → Site → OpenOp → Issue} {site : Site} {f : Entry}
    {flt : OpFault} (h : u.IssuesNext e q isIt site f)
    (hb : body (u.issued e q site f) site (u.opened e q site f) = .fault flt) (h1 : flt.code ≠ atticPending)
    (h2 : flt.code ≠ atticOwn) :
    u.issueNext e q isIt da body = u.faultsAs e q site f (da f.desc) flt := by
  rw [issued_body h, hb]
  simp [h1, h2]

theorem opened_desc (u : State) (e q : Nat) (site : Site) (f : Entry) : (u.opened e q site f).desc = f.desc := rfl

theorem issuable_site {u : State} {e q : Nat} {isIt : Desc → Bool} {site : Site} {f : Entry}
    (h : u.issuable e q isIt = some (site, f)) : isIt f.desc = true ∧ site.e = e ∧ site.q = q := by
  unfold State.issuable at h
  dsimp only at h
  split at h
  · simp only [Option.ite_none_right_eq_some, Option.some.injEq, Prod.mk.injEq, Bool.and_eq_true] at h
    obtain ⟨hc, rfl, rfl⟩ := h
    exact ⟨hc.1.1, rfl, rfl⟩
  · cases h

theorem opens_gate {s u : State} {t : Nat} (h : s.RunsAt t u) {e q : Nat} {isIt da : Desc → Bool}
    {body : State → Site → OpenOp → Issue} {site : Site} {f : Entry} {x : State} {o : OpenOp} (hi : u.IssuesNext e q isIt site f)
    (hb : body (u.issued e q site f) site (u.opened e q site f) = .opens x o) :
    (let s := s.advance t
     if s.stopped then (Host.Outcome.next s : Host.Outcome State Fault Refusal) else .next (s.issueNext e q isIt da body)) =
      .next (u.opensAs e q f (da f.desc) x o) := by
  obtain ⟨rfl, hs⟩ := h
  simp only [hs]
  exact congrArg Host.Outcome.next (issued_opens hi hb)

theorem live_next {s u : State} {t : Nat} (h : s.RunsAt t u) {f : State → State} :
    (Host.Outcome.next (s.live t f) : Host.Outcome State Fault Refusal) = .next (f u) := by
  rw [State.live_runs h]

theorem stopIf_no {b : Bool} {f : OpFault} (h : b = false) : stopIf b f = .ok () := by rw [h]; rfl

theorem operand_is {s : State} {site : Site} {i : Nat} {t : Tensor} (h : s.OperandIs site i t) : s.operand site i = .ok t := by
  unfold State.operand; simp [h.1, h.2]

theorem operand_may {s : State} {site : Site} {i : Nat} {t : Option Tensor} (h : s.OperandMay site i t) :
    s.optOperand site i = .ok t := by
  unfold State.optOperand
  cases t with
  | none => exact if_pos h
  | some t => rw [if_neg h.1, operand_is h]; rfl

theorem within_ok {t : Tensor} {g : Reg2} (h : t.holds g = true) : t.within g = .ok () := by
  unfold Tensor.within stopIf; simp [h]

theorem launch_passes {s : State} {site : Site} {o : OpenOp} {l : Launch} {work : State → OpenOp → State × OpenOp}
    (h : s.LaunchPasses site l) :
    s.launch site o l work = .opens (work (s.launched site o l).1 (s.launched site o l).2).1
      (work (s.launched site o l).1 (s.launched site o l).2).2 := by
  obtain ⟨h1, h2, h3, h4, h5⟩ := h
  unfold State.launch
  have hf : ((l.srcs.flatMap (·.ranges) ++ l.dst).find? fun r => decide (regionOf r.1 = .remote)) = none := by
    rw [List.find?_eq_none]; intro r hr; simp [h1 r hr]
  simp only [hf, h2, h3, h4, h5]
  rfl

theorem launchUnits_passes {s : State} {site : Site} {o : OpenOp} {l : Launch} {units : List WorkUnit}
    (h : s.LaunchPasses site l) :
    s.launchUnits site o l units = .opens (s.launchedUnits site o l units).1 (s.launchedUnits site o l units).2 := by
  unfold State.launchUnits
  rw [launch_passes h]; rfl

theorem takeRemoteErr_none {u : State} {e k : Nat} (h : (u.ctx e k).remoteErr = none) : u.takeRemoteErr e k = u := by
  unfold State.takeRemoteErr
  simp only [h]

theorem siteOf_at {u : State} {e q : Nat} {o : OpenOp} {site : Site} (h : u.siteOf e q o = some site) :
    u.slotCtx e q = some site.k ∧ site = ⟨e, q, site.k, o.part⟩ := by
  unfold State.siteOf at h
  cases hc : u.slotCtx e q with
  | none => rw [hc] at h; cases h
  | some k => rw [hc] at h; simp only [Option.map_some, Option.some.injEq] at h; subst h; exact ⟨rfl, rfl⟩

/-- What is done for open macro-op o of a resident queue whose context has no remote error pending. -/
theorem withOp_at {u : State} {e q k : Nat} {site : Site} {o : OpenOp} {f : State → Site → OpenOp → State} (h : u.siteOf e q o = some site)
    (hr : (u.ctx e site.k).remoteErr = none) (ho : u.openOp e q k = some o) : u.withOp e q k f = f u site o := by
  unfold State.withOp
  simp only [(siteOf_at h).1, takeRemoteErr_none hr, ho, h]

theorem boundary_exec {s u : State} {t : Nat} {e : Fin 96} {q : Fin 4} {k : Fin 2} {site : Site} {o : OpenOp} (h : s.RunsAt t u)
    (hb : u.AtBoundary e q k site o) : exec (.stepBoundary t e q k) s = .next (u.stepBoundary site o) := by
  obtain ⟨h1, h2, h3, h4, h5, h6, h7⟩ := hb
  show execStepBoundary t e q k s = _
  unfold execStepBoundary
  rw [State.live_runs h, withOp_at h1 h2 h3, h5, h6]
  rfl

theorem strikeOp_op (s : State) (e q : Nat) (o : OpenOp) (site : CheckSite) (p : Bool) :
    (s.strikeOp e q o site p).2.fault ≠ none ∧ (s.strikeOp e q o site p).2.issue = o.issue ∧ (s.strikeOp e q o site p).2.desc = o.desc := by
  unfold State.strikeOp
  simp only []
  split
  · rename_i h
    refine ⟨?_, rfl, rfl⟩
    intro hn
    rw [hn] at h
    cases h
  · exact ⟨by simp, rfl, rfl⟩

theorem injected_fault {u : State} {e q : Nat} {o : OpenOp} (h : (u.injected e q o).2.fault = none) : (u.injected e q o).2 = o := by
  revert h
  unfold State.injected
  split
  · intro _; rfl
  · generalize hp : (if (u.eng e).injResidue = true then u.strikeOp e q o (u.injectSite e) false else (u, o)) = p
    dsimp only
    split
    · intro h; exact absurd h (strikeOp_op _ _ _ _ _ _).1
    · intro h
      split at hp
      · subst hp; exact absurd h (strikeOp_op _ _ _ _ _ _).1
      · subst hp; rfl

theorem injected_issue (u : State) (e q : Nat) (o : OpenOp) : (u.injected e q o).2.issue = o.issue ∧ (u.injected e q o).2.desc = o.desc := by
  unfold State.injected
  split
  · exact ⟨rfl, rfl⟩
  · generalize hp : (if (u.eng e).injResidue = true then u.strikeOp e q o (u.injectSite e) false else (u, o)) = p
    have h1 : p.2.issue = o.issue ∧ p.2.desc = o.desc := by
      split at hp
      · subst hp; exact (strikeOp_op _ _ _ _ _ _).2
      · subst hp; exact ⟨rfl, rfl⟩
    dsimp only
    split
    · exact ⟨(strikeOp_op _ _ _ _ _ _).2.1.trans h1.1, (strikeOp_op _ _ _ _ _ _).2.2.trans h1.2⟩
    · exact h1

theorem stepOf_op {u : State} {site : Site} {o : OpenOp} (h : (u.stepOf site o).2.fault = none) :
    (u.stepOf site o).2 = { o with steps := o.steps + 1 } := injected_fault h

/-- A boundary whose step's work leaves no fault that waits. -/
theorem boundary_runs {u : State} {e q k : Nat} {site : Site} {o : OpenOp} (hb : u.AtBoundary e q k site o)
    (hf : (u.stepOf site o).2.fault = none) {r : State × OpenOp} (hr : (u.stepOf site o).1.stepWork site (u.stepOf site o).2 = r)
    (hw : ∀ f, r.2.fault = some f → f.waits = false) : u.stepBoundary site o = u.boundaryEnds site o r := by
  obtain ⟨h1, h2, h3, h4, h5, h6, h7⟩ := hb
  have hi : (u.injected site.e site.q { o with steps := o.steps + 1 }).2.issue = o.issue := (injected_issue _ _ _ _).1
  unfold State.stepBoundary
  rw [if_neg (by rw [h4]; simp), if_neg (by rw [h7]; simp)]
  unfold State.stepOf at hf hr
  unfold State.boundaryEnds State.stepOf
  generalize u.injected site.e site.q { o with steps := o.steps + 1 } = p at *
  rcases p with ⟨p1, p2⟩
  dsimp only at hf hr hi ⊢
  simp only [hf, Option.isSome_none, Bool.false_eq_true, if_false]
  unfold State.runPart
  simp only [hr]
  cases hrf : r.2.fault with
  | none => simp only [hi]
  | some f => simp only [hw f hrf, hi, Bool.false_eq_true, if_false]

/-- The one unit that is due, and that nothing stops, is done. -/
theorem runUnits_one {s : State} {e : Nat} {o : OpenOp} {w : WorkUnit} {rest : List WorkUnit} {k : Nat}
    {work : State → OpenOp → Nat → State × OpenOp} {y : State × OpenOp} (hu : o.units = w :: rest) (hd : w.due ≤ o.steps)
    (hr : ∀ x ∈ rest, o.steps < x.due) (hf : o.fault = none) (hn : s.unitFault e o w = none) (hy : work s o o.tile = y)
    (h1 : y.2.fault = none) (h2 : y.2.steps = o.steps) :
    s.runUnits e o work (k + 1) = y.1.unitDone e y.2 w rest := by
  rw [State.runUnits, hu]
  simp only [hf, Option.isSome_none, Bool.false_eq_true, or_false, if_neg (Nat.not_lt.mpr hd), hn, hy, h1, if_false]
  cases k with
  | zero => rfl
  | succ k =>
    unfold State.unitDone
    rw [State.runUnits]
    cases rest with
    | nil => rfl
    | cons x r =>
      simp only [h2]
      rw [if_pos (Or.inl (hr x (by simp)))]

theorem unit_exec {s u : State} {t : Nat} {e : Fin 96} {q : Fin 4} {k : Fin 2} {site : Site} {o : OpenOp} {w : WorkUnit} {rest : List WorkUnit}
    (h : s.RunsAt t u) (hb : u.UnitDue e q k site o w rest) (hop : Desc.op o.desc ≠ Op.attn ∧ Desc.op o.desc ≠ Op.attnBwd)
    {y : State × OpenOp} (hy : (u.stepOf site o).1.unitWork site (u.stepOf site o).2 o.tile = y) (h1 : y.2.fault = none)
    (h2 : y.2.steps = (u.stepOf site o).2.steps) :
    exec (.stepBoundary t e q k) s = .next (u.unitEnds site o w rest y) := by
  obtain ⟨ha, ht, hu, hd, hr, hf, hn⟩ := hb
  rw [boundary_exec h ha]
  refine congrArg Host.Outcome.next ?_
  have he := stepOf_op hf
  have hse : site.e = e := by rw [(siteOf_at ha.1).2]
  refine boundary_runs ha hf (r := y.1.unitDone site.e y.2 w rest) ?_ ?_
  · unfold State.stepWork
    have hd2 : Desc.op (u.stepOf site o).2.desc = Desc.op o.desc := by rw [he]
    simp only [hd2, hop.1, hop.2, or_self, if_false]
    have ht2 : (u.stepOf site o).2.tiled = false := by rw [he]; exact ht
    rw [ht2]
    simp only [Bool.false_eq_true, if_false]
    have hu2 : (u.stepOf site o).2.units = w :: rest := by rw [he]; exact hu
    rw [show (u.stepOf site o).2.units.length = rest.length + 1 by rw [hu2]; rfl]
    have hs2 : (u.stepOf site o).2.steps = o.steps + 1 := by rw [he]
    have hti : (u.stepOf site o).2.tile = o.tile := by rw [he]
    refine runUnits_one hu2 (by rw [hs2]; exact hd) (by rw [hs2]; exact hr) hf (by rw [hse]; exact hn) ?_ h1 h2
    rw [hti]; exact hy
  · intro f hf2
    have : (y.1.unitDone site.e y.2 w rest).2.fault = y.2.fault := rfl
    rw [this, h1] at hf2; cases hf2

theorem putOut_op (s : State) (e : Nat) (o : OpenOp) (t : Tensor) (v : Nat → Nat → Bool) (cells : List OutCell) :
    (s.putOut e o t v cells).2.fault = o.fault ∧ (s.putOut e o t v cells).2.steps = o.steps := by
  unfold State.putOut
  exact ⟨rfl, rfl⟩

theorem putRow_op (s : State) (e : Nat) (o : OpenOp) (t : Tensor) (g : Reg2) (i : Nat) (vs : List FVal) :
    (s.putRow e o t g i vs).2.fault = o.fault ∧ (s.putRow e o t g i vs).2.steps = o.steps := by
  unfold State.putRow
  exact putOut_op _ _ _ _ _ _

theorem next_of_stop {s t : State} {b : Bool} : ∃ r, (if b then Host.Outcome.next s else .next t : Host.Outcome State Fault Refusal) = .next r := by
  cases b
  · exact ⟨t, rfl⟩
  · exact ⟨s, rfl⟩

theorem inv_of_keeps {o : Host.Outcome State Fault Refusal} {r : State} (h : Keeps o) (e : o = .next r) : r.Inv := by
  subst e; exact h

theorem eqReg {x : Nat} {o : Nat} (e : Nat) (h : x = o) : engReg e x = engReg e o := by rw [h]

theorem dp_eq (e : Nat) : Reg.engDpCtrl e = engReg e 0x8 := by unfold Reg.engDpCtrl engReg; omega

theorem seed_eq (e : Nat) : Reg.engSrSeed e = engReg e 0x20 := by unfold Reg.engSrSeed engReg; omega

theorem hold_eq (e : Nat) : Reg.engHoldCtrl e = engReg e 0x10 := by unfold Reg.engHoldCtrl engReg; omega

theorem ucfg_eq (e : Nat) : Reg.engPwlUserCfg e = engReg e 0x28 := by unfold Reg.engPwlUserCfg engReg; omega

theorem user_eq (e i : Nat) : Reg.engPwlUser e i = engReg e (0x100 + 8 * i) := by unfold Reg.engPwlUser engReg; omega

theorem swap_eq (e : Nat) : Reg.engImemSwap e = engReg e 0x310 := by unfold Reg.engImemSwap engReg; omega

theorem win_eq (e i : Nat) : Reg.engImemWin e i = engReg e (0x8000 + 8 * i) := by unfold Reg.engImemWin engReg; omega

theorem and_mod64 (v : BitVec 64) : v.toNat &&& (2 ^ 64 - 1) = v.toNat := by
  rw [Nat.and_two_pow_sub_one_eq_mod]; exact Nat.mod_eq_of_lt v.isLt

theorem qcfg_eq (e q : Nat) : Reg.engQCfg e q = engReg e (0x200 + 0x40 * q) := by unfold Reg.engQCfg engReg; omega

theorem qctrl_eq (e q : Nat) : Reg.engQCtrl e q = engReg e (0x230 + 0x40 * q) := by unfold Reg.engQCtrl engReg; omega

theorem qcfg_find (q : Fin 4) : regsEng.find? (·.has (0x200 + 0x40 * q.val)) =
    some ⟨0x200, 0x40, 4, .rw, 0x100040400, 0xff0f1f1f07, fun v => qCfgBad v⟩ := by
  match q with
  | 0 => rfl
  | 1 => rfl
  | 2 => rfl
  | 3 => rfl

theorem qctrl_find (q : Fin 4) : regsEng.find? (·.has (0x230 + 0x40 * q.val)) = some (woReg 0x230 0x40 4) := by
  match q with
  | 0 => rfl
  | 1 => rfl
  | 2 => rfl
  | 3 => rfl

theorem writeEng_q {s : State} {e a o v q : Nat} (h : o = 0x200 + 0x40 * q) (hq : q < 4) : s.writeEng e a o v = s.writeQCfg e q v := by
  subst h
  unfold State.writeEng State.writeQReg
  have h1 : 0x200 + 0x40 * q ≠ 0x8 := by omega
  have h2 : 0x200 + 0x40 * q ≠ 0x20 := by omega
  have h3 : 0x200 + 0x40 * q ≠ 0x28 := by omega
  have h4 : ¬ 0x200 + 0x40 * q < 0x200 := by omega
  have h5 : 0x200 + 0x40 * q < 0x300 := by omega
  have h6 : (0x200 + 0x40 * q - 0x200) / 0x40 = q := by omega
  have h7 : (0x200 + 0x40 * q) % 0x40 = 0 := by omega
  simp [h1, h2, h3, h4, h5, h6, h7]

theorem writeEng_c {s : State} {e a o v q : Nat} (h : o = 0x230 + 0x40 * q) (hq : q < 4) : s.writeEng e a o v = s.writeQCtrl e q v := by
  subst h
  unfold State.writeEng State.writeQReg
  have h1 : 0x230 + 0x40 * q ≠ 0x8 := by omega
  have h2 : 0x230 + 0x40 * q ≠ 0x20 := by omega
  have h3 : 0x230 + 0x40 * q ≠ 0x28 := by omega
  have h4 : ¬ 0x230 + 0x40 * q < 0x200 := by omega
  have h5 : 0x230 + 0x40 * q < 0x300 := by omega
  have h6 : (0x230 + 0x40 * q - 0x200) / 0x40 = q := by omega
  have h7 : (0x230 + 0x40 * q) % 0x40 = 0x30 := by omega
  have h8 : 0x200 ≤ 0x230 + 0x40 * q := by omega
  simp [h1, h2, h3, h4, h5, h6, h7, h8]

theorem foldl_ctxs {α : Type} {f : State → α → State} (h : ∀ s x, (f s x).ctxs = s.ctxs) (l : List α) (s : State) :
    (l.foldl f s).ctxs = s.ctxs := by
  induction l generalizing s with
  | nil => rfl
  | cons x l ih => rw [List.foldl_cons, ih, h]

theorem returnCredit_ctxs (s : State) (e a : Nat) : (s.returnCredit e a).ctxs = s.ctxs := by
  unfold State.returnCredit
  refine foldl_ctxs (fun s x => ?_) _ _
  split
  · rfl
  · dsimp only
    split
    · rfl
    · rfl

theorem ctrl_find : regFind Reg.tckCtrl = some ⟨0x0, 0x0, 1, .rw, 0x0, 0x1f, fun v => bits v 2 1 == 3⟩ := rfl

theorem ctrl_ok (s : State) (v : Nat) : s.valueBad Reg.tckCtrl v = false := by
  unfold State.valueBad
  have : regNumber Reg.tckCtrl (Reg.ktfPortCfg 0) 64 8 = none := by decide
  have h2 : regNumber Reg.tckCtrl (Reg.schClientCfg 0) 32 64 = none := by decide
  have h3 : Reg.tckCtrl ≠ Reg.tckAlignOfs := by decide
  have h4 : Reg.tckCtrl ≠ Reg.ktfId := by decide
  have h5 : Reg.tckCtrl ≠ Reg.schCtxSel := by decide
  simp [this, h2, h3, h4, h5]

theorem skip_ok (s : State) (v : Nat) : s.valueBad Reg.tckPhaseSkip v = false := by
  unfold State.valueBad
  have : regNumber Reg.tckPhaseSkip (Reg.ktfPortCfg 0) 64 8 = none := by decide
  have h2 : regNumber Reg.tckPhaseSkip (Reg.schClientCfg 0) 32 64 = none := by decide
  have h3 : Reg.tckPhaseSkip ≠ Reg.tckAlignOfs := by decide
  have h4 : Reg.tckPhaseSkip ≠ Reg.ktfId := by decide
  have h5 : Reg.tckPhaseSkip ≠ Reg.schCtxSel := by decide
  simp [this, h2, h3, h4, h5]

theorem run_finish (s : State) (p : Nat) (st : PhState) (q : Nat) :
    (s.finishPhase p st).run q = if q = p ∧ p < s.tick.runs.length then
      { s.run p with state := st, ended := some (s.usSince (s.run p).origin), ending := false } else s.run q := by
  show (s.tick.runs.set p { s.run p with state := st, ended := some (s.usSince (s.run p).origin), ending := false }).getD q {} = _
  by_cases h : q = p
  · subst h
    by_cases hl : q < s.tick.runs.length
    · simp [hl, List.getD]
    · have : s.tick.runs.set q { s.run q with state := st, ended := some (s.usSince (s.run q).origin), ending := false } = s.tick.runs :=
        List.set_eq_of_length_le (by omega)
      rw [this]; simp [hl, State.run]
  · have h' : p ≠ q := fun e => h e.symm
    simp [h, h', List.getD, List.getElem?_set, State.run]

/-- A part of a meaning, named for the lemmas below. -/
def skipOne (s : State) (p : Nat) : State :=
  if s.tick.placed ∧ ((s.run p).state = .idle ∨ (s.run p).state = .waiting) then s.finishPhase p .skipped else s

/-- A part of a meaning, named for the lemmas below. -/
def SameRest (a b : State) : Prop := a.flt = b.flt ∧ a.mem = b.mem ∧ a.queues = b.queues ∧ a.ctxs = b.ctxs ∧ a.engines = b.engines ∧
  a.outbox = b.outbox ∧ a.tick.placed = b.tick.placed ∧ a.tick.runs.length = b.tick.runs.length

theorem skipOne_rest (s : State) (p : Nat) : SameRest (skipOne s p) s := by
  unfold skipOne
  split
  · refine ⟨rfl, rfl, rfl, rfl, rfl, rfl, rfl, ?_⟩
    show (s.tick.runs.set p _).length = _
    simp
  · exact ⟨rfl, rfl, rfl, rfl, rfl, rfl, rfl, rfl⟩

theorem skipOne_run (s : State) (p q : Nat) : (skipOne s p).run q =
    if q = p ∧ p < s.tick.runs.length ∧ s.tick.placed = true ∧ ((s.run p).state = .idle ∨ (s.run p).state = .waiting) then
      { s.run p with state := .skipped, ended := some (s.usSince (s.run p).origin), ending := false } else s.run q := by
  unfold skipOne
  by_cases hc : s.tick.placed ∧ ((s.run p).state = .idle ∨ (s.run p).state = .waiting)
  · rw [if_pos hc, run_finish]
    simp [hc.1, hc.2]
  · rw [if_neg hc, if_neg]
    rintro ⟨_, _, a, b⟩; exact hc ⟨a, b⟩

theorem skip_fold (l : List Nat) : ∀ s : State, l.Nodup → SameRest (l.foldl skipOne s) s ∧
    (∀ q, q ∉ l → (l.foldl skipOne s).run q = s.run q) ∧
    (∀ q, q ∈ l → s.tick.placed = false ∨ ((s.run q).state ≠ .idle ∧ (s.run q).state ≠ .waiting) → (l.foldl skipOne s).run q = s.run q) ∧
    (∀ q, q ∈ l → q < s.tick.runs.length → s.tick.placed = true → (s.run q).state = .idle ∨ (s.run q).state = .waiting →
      ((l.foldl skipOne s).run q).state = .skipped) := by
  induction l with
  | nil => intro s _; exact ⟨⟨rfl, rfl, rfl, rfl, rfl, rfl, rfl, rfl⟩, fun _ _ => rfl, fun q hq => by simp at hq, fun q hq => by simp at hq⟩
  | cons p l ih =>
    intro s hn
    rw [List.nodup_cons] at hn
    obtain ⟨hp, hl⟩ := hn
    obtain ⟨ir, i1, i2, i3⟩ := ih (skipOne s p) hl
    have hr := skipOne_rest s p
    rw [List.foldl_cons]
    have oth : ∀ q, q ≠ p → (skipOne s p).run q = s.run q := by
      intro q hq; rw [skipOne_run]; simp [hq]
    refine ⟨⟨ir.1.trans hr.1, ir.2.1.trans hr.2.1, ir.2.2.1.trans hr.2.2.1, ir.2.2.2.1.trans hr.2.2.2.1,
      ir.2.2.2.2.1.trans hr.2.2.2.2.1, ir.2.2.2.2.2.1.trans hr.2.2.2.2.2.1, ir.2.2.2.2.2.2.1.trans hr.2.2.2.2.2.2.1,
      ir.2.2.2.2.2.2.2.trans hr.2.2.2.2.2.2.2⟩, ?_, ?_, ?_⟩
    · intro q hq
      rw [List.mem_cons] at hq
      have hq1 : q ≠ p := fun e => hq (.inl e)
      have hq2 : q ∉ l := fun e => hq (.inr e)
      rw [i1 q hq2, oth q hq1]
    · intro q hq hc
      by_cases e : q = p
      · subst e
        rw [i1 q hp, skipOne_run, if_neg]
        rintro ⟨_, _, a, b⟩
        rcases hc with hc | hc
        · rw [hc] at a; cases a
        · rcases b with b | b
          · exact hc.1 b
          · exact hc.2 b
      · have : q ∈ l := by rcases List.mem_cons.mp hq with h | h; exact absurd h e; exact h
        rw [i2 q this, oth q e]
        rw [oth q e, hr.2.2.2.2.2.2.1]; exact hc
    · intro q hq hlen hpl hc
      by_cases e : q = p
      · subst e
        rw [i1 q hp, skipOne_run, if_pos ⟨rfl, hlen, hpl, hc⟩]
      · have : q ∈ l := by rcases List.mem_cons.mp hq with h | h; exact absurd h e; exact h
        refine i3 q this ?_ ?_ ?_
        · rw [hr.2.2.2.2.2.2.2]; exact hlen
        · rw [hr.2.2.2.2.2.2.1]; exact hpl
        · rw [oth q e]; exact hc

theorem region_remote {a : Nat} (h : isRemote a = true) : regionOf a = .remote := by
  unfold isRemote at h
  simpa using h

theorem chargeTier_op {s : State} {o : OpenOp} {tr : Tier} {n : Nat} :
    (s.chargeTier o tr n).2.claims = o.claims ∧ (s.chargeTier o tr n).2.sameGen = o.sameGen := by
  unfold State.chargeTier
  split
  split <;> exact ⟨rfl, rfl⟩

theorem operand_ok {s : State} {site : Site} {i : Nat} {t : Tensor} (h : i ≠ 0xFF) (ht : s.tensor site.e site.q i = .ok t) :
    s.operand site i = .ok t := by
  unfold State.operand; simp [h, ht]

theorem sweep_ok {s : State} {e : Nat} {srcs : List Source} (h : ∀ x ∈ srcs, ∀ b ∈ x.blocks, s.tag e b = x.gen) :
    s.sweep e [] false srcs = none := by
  unfold State.sweep
  rw [List.findSome?_eq_none_iff]
  intro x hx
  rw [List.findSome?_eq_none_iff]
  intro b hb
  simp [h x hx b hb]

theorem recheck_cfg (s : State) (e q a : Nat) : (s.recheckWaits e q).rd a = s.rd a := rfl

theorem tabGetList_store {m : List Host.Cell} (h : Memory.wf m) (bs : List Byte) : ∀ (k n a : Nat), n + k = bs.length →
    tabGetList memDefault (tabSetList memDefault m a bs) (a + n) k = bs.drop n := by
  intro k
  induction k with
  | zero => intro n a hn; simp [tabGetList, show n = bs.length by omega]
  | succ k ih =>
    intro n a hn
    rw [tabGetList, byteAt_store h, if_pos ⟨by omega, by omega⟩, show a + n + 1 = a + (n + 1) by omega, ih (n + 1) a (by omega)]
    rw [List.drop_eq_getElem_cons (show n < bs.length by omega)]
    simp [List.getD, show n < bs.length by omega]

theorem plain_of_region {da : Nat} (h : regionOf da = .pantry ∨ regionOf da = .cellar) : da < atticBase ∨ shelfBase ≤ da := by
  unfold regionOf at h
  by_cases h1 : da < 0x006000000000
  · left; unfold atticBase; omega
  by_cases h2 : da < cellarBase
  · left; unfold cellarBase at h2; unfold atticBase; omega
  by_cases h3 : da < 0x090000000000
  · left; unfold atticBase; omega
  exfalso
  rw [if_neg h1, if_neg h2, if_neg h3] at h
  repeat' split at h
  all_goals simp at h

theorem leBytes_length (n v : Nat) : (leBytes n v).length = n := by
  induction n generalizing v with
  | zero => rfl
  | succ n ih => simp [leBytes, ih]

theorem failOp_same (s : State) (e q c a : Nat) : (s.failOp e q c a).mem = s.mem ∧ (s.failOp e q c a).regs = s.regs ∧
    (s.failOp e q c a).outbox = s.outbox := by
  unfold State.failOp; dsimp only; split <;> exact ⟨rfl, rfl, rfl⟩

theorem errWords_nil (tr : Tier) (a n : Nat) : errWords tr a n [] = [] := by
  unfold errWords; rw [List.filter_eq_nil_iff]; intro i _; simp

theorem atomicOf_exec {i : Instr} {t da : Nat} {who : Requester} {rq : AtomReq} (h : atomicOf i = some (t, who, da, rq)) (s : State) :
    exec i s = .next (s.live t fun s => s.atomicAt who da rq) := by
  cases i <;> simp only [atomicOf, Option.some.injEq, Prod.mk.injEq, reduceCtorEq] at h <;>
    (obtain ⟨rfl, rfl, rfl, rfl⟩ := h; rfl)

theorem reductionOf_exec {i : Instr} {t da m : Nat} {who : Requester} {op : RedOp} {d : List Byte}
    (h : reductionOf i = some (t, who, da, op, m, d)) (s : State) :
    exec i s = .next (s.live t fun s => s.reduceAt who da op m d) := by
  cases i <;> simp only [reductionOf, Option.some.injEq, Prod.mk.injEq, reduceCtorEq] at h <;>
    (obtain ⟨rfl, rfl, rfl, rfl, rfl, rfl⟩ := h; rfl)

theorem noteAtomic_same (s : State) (a c : Nat) : (s.noteAtomic a c).mem = s.mem ∧ (s.noteAtomic a c).outbox = s.outbox := by
  unfold State.noteAtomic; split <;> exact ⟨rfl, rfl⟩

theorem answer_refused (x : State) (who : Requester) (da w code : Nat) (act : MemAct) (hc : code ≠ 0) (hm : (x : State) = x) :
    let r := x.answerAtom { req := ⟨0, who, 0, da, w⟩, act := act } ⟨code, 0, false⟩ w
    r.outbox = .atomRefused who da code :: x.outbox ∧ r.mem = x.mem ∧ r.regs = x.regs := by
  unfold State.answerAtom
  simp only [hc, if_false]
  cases who with
  | engine e q => obtain ⟨a, b, c⟩ := failOp_same (x.emit (.atomRefused (.engine e q) da code)) e q code da; exact ⟨c, a, b⟩
  | _ => exact ⟨rfl, rfl, rfl⟩

theorem tierFault_ne {u : State} {tr : Tier} {a l c : Nat} (h : u.tierFault tr a l = some c) : c ≠ 0 := by
  unfold State.tierFault at h
  repeat' split at h
  all_goals first | (cases h; decide) | cases h

theorem memFault_ne {u : State} {a w : Nat} {x : Nat × Nat} (h : u.memFault a w = some x) : x.1 ≠ 0 := by
  have hlost : ∀ tr l, (u.firstLost tr a l).map ((F.memUe, ·)) = some x → x.1 ≠ 0 := by
    intro tr l hx
    cases hf : u.firstLost tr a l with
    | none => rw [hf] at hx; cases hx
    | some b => rw [hf] at hx; cases hx; show F.memUe ≠ 0; decide
  unfold State.memFault at h
  split at h
  · split at h
    · cases h; exact tierFault_ne ‹_›
    · split at h
      · cases h; show F.addrRange ≠ 0; decide
      · exact hlost _ _ h
  · split at h
    · cases h; exact tierFault_ne ‹_›
    · exact hlost _ _ h
  all_goals
    repeat' split at h
    all_goals first
      | (cases h; done)
      | (cases h; show F.addrRange ≠ 0; decide)
      | (cases h; show F.memTimeout ≠ 0; decide)

theorem atomFault_ne {u : State} {a w : Nat} {b : Bool} {code : Nat} (h : u.atomFault a w b = some code) : code ≠ 0 := by
  unfold State.atomFault at h
  repeat' split at h
  all_goals first
    | (cases h; decide)
    | (cases hx : u.memFault a w with
       | none => simp [hx] at h
       | some x => simp [hx] at h; subst h; exact memFault_ne hx)

theorem tabGetList_length (m : List Host.Cell) : ∀ (n a : Nat), (tabGetList memDefault m a n).length = n := by
  intro n; induction n with
  | zero => intro a; rfl
  | succ n ih => intro a; simp [tabGetList, ih]

theorem elemBytes_const {n w : Nat} {f : Nat → List Byte} (hf : ∀ i, i < n → (f i).length = w) :
    ((List.range n).flatMap f).length = n * w := by
  induction n with
  | zero => simp
  | succ n ih =>
    rw [List.range_succ, List.flatMap_append, List.length_append, ih (fun i hi => hf i (by omega))]
    simp [hf n (by omega), Nat.succ_mul]

theorem fieldBytes_length (bs : List Byte) (a n : Nat) (h : a + n ≤ bs.length) : (fieldBytes bs a n).length = n := by
  unfold fieldBytes; simp

theorem apply_length {op : RedOp} {m : Nat} {old new : List Byte} (hw : op.bytes ∣ old.length) :
    (op.apply m old new).length = old.length := by
  unfold RedOp.apply
  rw [elemBytes_const (w := op.bytes), Nat.div_mul_cancel hw]
  intro i hi
  have hle : op.bytes * i + op.bytes ≤ old.length := by
    have := Nat.mul_le_of_le_div op.bytes (i + 1) old.length hi
    rw [Nat.mul_comm] at this; rw [Nat.mul_succ] at this; omega
  dsimp only
  split
  · exact leBytes_length _ _
  · exact fieldBytes_length _ _ _ hle

theorem charge_paused (s : State) (tr : Tier) (p n : Nat) (w : Waiting) : (s.charge tr p n).pausedFor tr w = s.pausedFor tr w := by
  cases tr <;> rfl

theorem charge_lost (s : State) (tr : Tier) (p n a l : Nat) : (s.charge tr p n).firstLost tr a l = s.firstLost tr a l := by
  cases tr <;> rfl

theorem State.charge_now (s : State) (tr : Tier) (p n : Nat) : (s.charge tr p n).now = s.now := by
  cases tr <;> rfl

theorem same_refl (s : State) : s.SameUnits s :=
  ⟨rfl, rfl, rfl, rfl, rfl, rfl, rfl, rfl, rfl, rfl, rfl, rfl, rfl, rfl, rfl, rfl, rfl, rfl, rfl, rfl⟩

theorem same_trans {a b c : State} (h : a.SameUnits b) (g : b.SameUnits c) : a.SameUnits c := by
  obtain ⟨a1, a2, a3, a4, a5, a6, a7, a8, a9, a10, a11, a12, a13, a14, a15, a16, a17, a18, a19, a20⟩ := h
  obtain ⟨b1, b2, b3, b4, b5, b6, b7, b8, b9, b10, b11, b12, b13, b14, b15, b16, b17, b18, b19, b20⟩ := g
  exact ⟨a1.trans b1, a2.trans b2, a3.trans b3, a4.trans b4, a5.trans b5, a6.trans b6, a7.trans b7, a8.trans b8, a9.trans b9,
    a10.trans b10, a11.trans b11, a12.trans b12, a13.trans b13, a14.trans b14, a15.trans b15, a16.trans b16, a17.trans b17,
    a18.trans b18, a19.trans b19, a20.trans b20⟩

theorem wr_units (s : State) (a v : Nat) : (s.wr a v).SameUnits s := ⟨rfl, rfl, rfl, rfl, rfl, rfl, rfl, rfl, rfl, rfl, rfl, rfl, rfl, rfl, rfl, rfl, rfl, rfl, rfl, rfl⟩

theorem flt_units (s : State) (f : FltSt) : ({ s with flt := f } : State).SameUnits s := ⟨rfl, rfl, rfl, rfl, rfl, rfl, rfl, rfl, rfl, rfl, rfl, rfl, rfl, rfl, rfl, rfl, rfl, rfl, rfl, rfl⟩

theorem bump_units (s : State) (a h l v : Nat) : (s.bump a h l v).SameUnits s := wr_units _ _ _

theorem setFld_units (s : State) (a h l v : Nat) : (s.setFld a h l v).SameUnits s := wr_units _ _ _

theorem setBit_units (s : State) (a i : Nat) (b : Bool) : (s.setBit a i b).SameUnits s := wr_units _ _ _

theorem State.SameUnits.of_eq {a b : State} (h : a = b) : a.SameUnits b := by subst h; exact same_refl _

theorem freeBuf_units (s : State) (q : Option (Nat × Nat × Bool × Nat)) : (s.freeBuf q).SameUnits s := by
  unfold State.freeBuf; split <;> exact same_refl s

theorem transmit_units (s : State) (n : Nat) (q : Queued) : (s.transmit n q).SameUnits s := by
  unfold State.transmit
  dsimp only
  refine same_trans (freeBuf_units _ _) ?_
  split <;> exact same_refl s

theorem drainLink_units (n : Nat) : ∀ (k : Nat) (s : State), (s.drainLink n k).SameUnits s := by
  intro k
  induction k with
  | zero => exact same_refl
  | succ k ih =>
    intro s
    unfold State.drainLink
    dsimp only
    repeat' split
    all_goals first
      | exact same_refl s
      | exact same_trans (ih _) (same_trans (transmit_units _ _ _) (same_refl s))

theorem sendOn_units (s : State) (n : Nat) (x : Queued) : (s.sendOn n x).SameUnits s :=
  same_trans (drainLink_units n _ _) (same_refl s)

theorem atticSendAll_units : ∀ (k : Nat) (s : State) (a : Nat) (bs : List Byte), (s.atticSendAll a bs k).SameUnits s := by
  intro k
  induction k with
  | zero => intro s a bs; exact same_refl s
  | succ k ih =>
    intro s a bs
    unfold State.atticSendAll
    split
    · exact same_refl s
    · exact same_trans (ih _ _ _) (same_trans (sendOn_units _ _ _) (same_refl s))

theorem store_units (s : State) (a : Nat) (bs : List Byte) : (s.store a bs).SameUnits s := by
  unfold State.store
  dsimp only
  split
  · exact same_trans (atticSendAll_units _ _ _ _) (same_refl s)
  · exact same_refl s

theorem foldl_units {α : Type} (f : State → α → State) (h : ∀ s x, (f s x).SameUnits s) (l : List α) (s : State) :
    (l.foldl f s).SameUnits s := by
  induction l generalizing s with
  | nil => exact same_refl s
  | cons x l ih => exact same_trans (ih _) (h s x)

theorem latchLast_units (s : State) (bs : List Byte) : (s.latchLast bs).SameUnits s :=
  foldl_units _ (fun s i => wr_units s _ _) _ s

theorem admitNor_units (s : State) (c : Nat) : (s.admitNor c).2.SameUnits s := by
  unfold State.admitNor
  split
  · exact same_refl s
  · split
    · exact flt_units _ _
    · split
      · exact same_refl s
      · exact bump_units _ _ _ _ _

theorem setIf_units (x : State) (i : Nat) (c : Prop) [Decidable c] :
    (if c then x.setBit Reg.fltStatus i true else x).SameUnits x := by
  split
  · exact setBit_units _ _ _ _
  · exact same_refl x

theorem latchIf_units (x : State) (bs : List Byte) (c : Prop) [Decidable c] : (if c then x.latchLast bs else x).SameUnits x := by
  split
  · exact latchLast_units _ _
  · exact same_refl x

theorem pcommit_bad (s : State) (tr : Tier) (v : Nat) : s.valueBad (tr.reg Reg.pntMapCommit Reg.celMapCommit) v = false := by
  unfold State.valueBad
  cases tr <;> rfl

theorem admitHeld_none (s : State) (tr : Tier) (p : Nat) : s.admitHeld tr p 0 = s := rfl

theorem other_timeout (s : State) (tr : Tier) (id : Nat) (h : (s.tier tr).waiting = []) : s.timeoutAt tr id = s := by
  unfold State.timeoutAt; simp [h]

/-- A part of a meaning, named for the lemmas below. -/
def timedOut (u : State) (tr : Tier) (id : Nat) (w : Waiting) : State :=
  let y := u.setTier tr { u.tier tr with waiting := (u.tier tr).waiting.filter fun v => decide (v.req.id ≠ id) }
  let z := { y with free := y.free + 1 }
  match w.act with
  | .write data => if Config.freeNat u.free % 2 = 0 then z.store w.req.da data else z
  | _ => z

/-- Registers are canonical and register a reads n. -/
abbrev Reads (s : State) (a n : Nat) : Prop := Registers.wf s.regs ∧ s.rd a = n

theorem reads_wr {s : State} {a n b v : Nat} (h : Reads s a n) (hb : a ≠ b) : Reads (s.wr b v) a n := by
  refine ⟨tabSet_wf h.1, ?_⟩
  rw [State.rd_wr h.1, if_neg hb]; exact h.2

theorem reads_self {s : State} {a v : Nat} (h : Registers.wf s.regs) : Reads (s.wr a v) a (v % 2 ^ 64) := by
  refine ⟨tabSet_wf h, ?_⟩
  rw [State.rd_wr h, if_pos rfl]

theorem reads_of {s x : State} {a n : Nat} (h : Reads s a n) (e : x.regs = s.regs) : Reads x a n := by
  refine ⟨by rw [e]; exact h.1, ?_⟩
  have : x.rd a = s.rd a := by unfold State.rd; rw [e]
  rw [this]; exact h.2

/-- A part of a meaning, named for the lemmas below. -/
def bt1 (s : State) (b : Nat) : State :=
  let s := if s.tick.pending.isSome ∧ s.tick.pendingAt + us 100 ≤ b then s.activatePlan else s
  if s.tick.placed then s.wr Reg.tckCount (s.rd Reg.tckCount + 1) else s.wr Reg.tckCount 0

/-- A part of a meaning, named for the lemmas below. -/
def bt2 (s : State) (b : Nat) : State :=
  ({ s with tick := { s.tick with boundary := b, placed := true, gap := false, bgUsed := 0 } } : State).setLocked b

/-- A part of a meaning, named for the lemmas below. -/
def bt3 (s : State) (b : Nat) : State :=
  { s with tick := { s.tick with next := some (s.nextBoundary b).1, corr := (s.nextBoundary b).2 } }

/-- A part of a meaning, named for the lemmas below. -/
def bt4 (s : State) (b : Nat) : State := if s.ptp.everLocked then s.wr Reg.tckPtpOffset (ofSigned 64 (s.ptpError b)) else s

/-- A part of a meaning, named for the lemmas below. -/
def bt5 (s : State) (b : Nat) : State :=
  (s.wr Reg.tckStartPtp (if s.fld Reg.tckStatus 1 0 = 0 then 0 else (s.ptpAt b).toNat)).event Reg.tckIntStatus 0

/-- A part of a meaning, named for the lemmas below. -/
def bt6 (s : State) (b : Nat) : State := if bit (s.rd Reg.tckCtrl) 4 then { s with tick := { s.tick with outHigh := some b } } else s

/-- What a tick that has begun at b keeps. -/
structure Begun (s : State) (b n : Nat) : Prop where
  reads : Reads s Reg.tckCount n
  boundary : s.tick.boundary = b
  placed : s.tick.placed = true
  gap : s.tick.gap = false
  used : s.tick.bgUsed = 0

theorem begun_wr {s : State} {b n a v : Nat} (h : Begun s b n) (ha : Reg.tckCount ≠ a) : Begun (s.wr a v) b n :=
  ⟨reads_wr h.reads ha, h.boundary, h.placed, h.gap, h.used⟩

theorem slew_moves (v : State) (off : Int) : ∃ d : Int, (v.slew off).1.ptp.offset = v.ptp.offset + d ∧ (v.slew off).1.now = v.now ∧
    d.natAbs ≤ off.natAbs ∧ d.natAbs ≤ (v.now - v.ing.client.lastAt) / 11000 ∧ (0 < off → d ≤ 0) ∧ (off < 0 → 0 ≤ d) := by
  unfold State.slew State.freeNat
  dsimp only
  generalize Config.freeNat v.free = n
  generalize hb : (v.now - v.ing.client.lastAt) / 11000 = b
  have hn : n % (b + 1) ≤ b := by have := Nat.mod_lt n (show 0 < b + 1 by omega); omega
  generalize hm : min off.natAbs (n % (b + 1)) = m
  have h1 : m ≤ off.natAbs := by rw [← hm]; exact Nat.min_le_left _ _
  have h2 : m ≤ b := by rw [← hm]; exact Nat.le_trans (Nat.min_le_right _ _) hn
  refine ⟨if off < 0 then (m : Int) else -(m : Int), rfl, rfl, ?_, ?_, ?_, ?_⟩
  all_goals split <;> omega

theorem vdc_ok (s : State) (v : Nat) : s.valueBad Reg.vdcRelease v = false ∧ s.valueBad Reg.vdcRearm v = false := ⟨rfl, rfl⟩

theorem foldl_keeps {α β : Type} (g : State → β) (f : State → α → State) (h : ∀ s x, g (f s x) = g s) (l : List α) (s : State) :
    g (l.foldl f s) = g s := by
  induction l generalizing s with
  | nil => rfl
  | cons x l ih => rw [List.foldl_cons, ih, h]

theorem storeIfMem_units (s : State) (a : Nat) (bs : List Byte) : (s.storeIfMem a bs).SameUnits s := by
  unfold State.storeIfMem
  split
  · exact store_units _ _ _
  · exact same_refl _

theorem ctx_setCtx {s : State} (h : tabWf (fun _ => {}) s.ctxs = true) (e k e' k' : Nat) (x : Ctx) (hk : k < 16) (hk' : k' < 16) :
    (s.setCtx e k x).ctx e' k' = if e' = e ∧ k' = k then x else s.ctx e' k' := by
  unfold State.ctx State.setCtx
  dsimp only
  rw [tabGet_tabSet h]
  by_cases hh : e' = e ∧ k' = k
  · rw [if_pos (by omega), if_pos hh]
  · rw [if_neg (by omega), if_neg hh]

theorem queue_setQueue {s : State} (h : tabWf (fun _ => {}) s.queues = true) (e q : Nat) (x : QueueSt) :
    (s.setQueue e q x).queue e q = x := by
  unfold State.queue State.setQueue
  dsimp only
  rw [tabGet_tabSet h]; simp

theorem setCtx_wf {s : State} (h : tabWf (fun _ => {}) s.ctxs = true) (e k : Nat) (x : Ctx) :
    tabWf (fun _ => {}) (s.setCtx e k x).ctxs = true := tabSet_wf h

theorem setCtx_setCtx_ctx {s : State} (h : tabWf (fun _ => {}) s.ctxs = true) (e k : Nat) (x y : Ctx) (hk : k < 16) :
    ∀ e' k', k' < 16 → ((s.setCtx e k x).setCtx e k y).ctx e' k' = if e' = e ∧ k' = k then y else s.ctx e' k' := by
  intro e' k' hk'
  rw [ctx_setCtx (setCtx_wf h e k x) _ _ _ _ _ hk hk', ctx_setCtx h _ _ _ _ _ hk hk']
  split <;> rfl

theorem read_ctxCfg {u : State} : u.readReg Reg.schCtxCfg =
    if u.ctxExists u.selected.1 u.selected.2 then (u.ctx u.selected.1 u.selected.2).cfg else 0 := rfl

theorem ctxLimit_le {e k : Nat} {u : State} (h : u.ctxExists e k = true) (hl : u.ctxLimit ≤ 16) : k < 16 := by
  unfold State.ctxExists at h; simp at h; omega

theorem rd_of_regs {s x : State} (h : s.regs = x.regs) (a : Nat) : s.rd a = x.rd a := by unfold State.rd; rw [h]

theorem ctx_of_ctxs {s x : State} (h : s.ctxs = x.ctxs) (e k : Nat) : s.ctx e k = x.ctx e k := by unfold State.ctx; rw [h]

theorem queue_of_queues {s x : State} (h : s.queues = x.queues) (e q : Nat) : s.queue e q = x.queue e q := by
  unfold State.queue; rw [h]

theorem putQRegs_ctxs (s : State) (e q : Nat) (c : Ctx) : (s.putQRegs e q c).ctxs = s.ctxs := rfl

theorem putQRegs_queues (s : State) (e q : Nat) (c : Ctx) : (s.putQRegs e q c).queues = s.queues := rfl

theorem putDataSlot_ctxs (s : State) (e q : Nat) (b : List (Nat × Byte)) : (s.putDataSlot e q b).ctxs = s.ctxs := rfl

theorem putDataSlot_queues (s : State) (e q : Nat) (b : List (Nat × Byte)) : (s.putDataSlot e q b).queues = s.queues := rfl

theorem putQRegs_rd {s : State} (h : Registers.wf s.regs) (e q : Nat) (c : Ctx) :
    (s.putQRegs e q c).rd (Reg.engQCfg e q) = c.qCfg % 2 ^ 64 ∧ (s.putQRegs e q c).rd (Reg.engQBase e q) = c.qBase % 2 ^ 64 ∧
    (s.putQRegs e q c).rd (Reg.engQTailDa e q) = c.qTail % 2 ^ 64 ∧
    (s.putQRegs e q c).rd (Reg.engQStatusDa e q) = c.qStatus % 2 ^ 64 ∧
    (s.putQRegs e q c).rd (Reg.engQCompDa e q) = c.qComp % 2 ^ 64 := by
  unfold State.putQRegs
  have h1 := State.wr_regs_wf h (Reg.engQCfg e q) c.qCfg
  have h2 := State.wr_regs_wf h1 (Reg.engQBase e q) c.qBase
  have h3 := State.wr_regs_wf h2 (Reg.engQTailDa e q) c.qTail
  have h4 := State.wr_regs_wf h3 (Reg.engQStatusDa e q) c.qStatus
  have a1 : Reg.engQCfg e q = Reg.engQBase e q - 8 ∧ Reg.engQBase e q = Reg.engQTailDa e q - 8 ∧
    Reg.engQTailDa e q = Reg.engQStatusDa e q - 8 ∧ Reg.engQStatusDa e q = Reg.engQCompDa e q - 8 ∧ 100 < Reg.engQCfg e q := by
    unfold Reg.engQCfg Reg.engQBase Reg.engQTailDa Reg.engQStatusDa Reg.engQCompDa; omega
  refine ⟨?_, ?_, ?_, ?_, ?_⟩
  · rw [State.rd_wr h4, if_neg (by omega), State.rd_wr h3, if_neg (by omega), State.rd_wr h2, if_neg (by omega), State.rd_wr h1,
      if_neg (by omega), State.rd_wr h, if_pos rfl]
  · rw [State.rd_wr h4, if_neg (by omega), State.rd_wr h3, if_neg (by omega), State.rd_wr h2, if_neg (by omega), State.rd_wr h1,
      if_pos rfl]
  · rw [State.rd_wr h4, if_neg (by omega), State.rd_wr h3, if_neg (by omega), State.rd_wr h2, if_pos rfl]
  · rw [State.rd_wr h4, if_neg (by omega), State.rd_wr h3, if_pos rfl]
  · rw [State.rd_wr h4, if_pos rfl]

theorem writeCtxCfg_create {u : State} {e k v : Nat} (hs : u.selected = (e, k)) (he : u.ctxExists e k = true)
    (hv : bit (u.ctx e k).cfg 0 = false) (h0 : bit v 0 = true) : u.writeCtxCfg v = u.createCtx e k v := by
  unfold State.writeCtxCfg
  rw [hs]
  dsimp only
  rw [if_neg (by rw [he]; decide), if_pos (by rw [hv]; rfl), if_pos h0]

theorem writeCtxCfg_delete {u : State} {e k v : Nat} (hs : u.selected = (e, k)) (he : u.ctxExists e k = true)
    (hv : bit (u.ctx e k).cfg 0 = true) (h0 : bit v 0 = false) (hf : freeCtxFields v = freeCtxFields (u.ctx e k).cfg) :
    u.writeCtxCfg v = if (u.ctxQueue e k).ops.isEmpty ∧
        ((u.ctxQueue e k).state = .disabled ∨ (u.ctxQueue e k).state = .idle ∨ (u.ctxQueue e k).state = .halted)
        then u.deleteCtx e k v else u.regAccess Reg.schCtxCfg := by
  unfold State.writeCtxCfg
  rw [hs]
  dsimp only
  rw [if_neg (by rw [he]; decide), if_neg (by rw [hv]; decide), if_neg (by rw [hf]; simp), if_neg (by rw [h0]; decide)]

/-- A part of a meaning, named for the lemmas below. -/
def created (u : State) (e k v : Nat) : Ctx :=
  { cfg := v, qCfg := (u.ctx e k).qCfg, qBase := (u.ctx e k).qBase, qTail := (u.ctx e k).qTail, qStatus := (u.ctx e k).qStatus,
    qComp := (u.ctx e k).qComp, place := .swapped, saved := some (u.newQueue (u.ctx e k)), blockedAt := u.now }

theorem putQRegs_mem (s : State) (e q : Nat) (c : Ctx) : (s.putQRegs e q c).mem = s.mem := rfl

theorem putDataSlot_mem (s : State) (e q : Nat) (bs : List (Nat × Byte)) : (s.putDataSlot e q bs).mem = s.mem := rfl

theorem putDataSlot_regs (s : State) (e q : Nat) (bs : List (Nat × Byte)) : (s.putDataSlot e q bs).regs = s.regs := rfl

theorem enterSlot_facts {x : State} (hi : Registers.wf x.regs) (hc : tabWf (fun _ => {}) x.ctxs = true)
    (hq : tabWf (fun _ => {}) x.queues = true) {e k q : Nat} (hk : k < 16) :
    let c := x.ctx e k
    let r := x.enterSlot e k q
    r.ctx e k = { c with place := .resident, slot := q, saved := none, savedData := [] } ∧ r.queue e q = c.saved.getD {} ∧
    r.mem = x.mem ∧
    (r.rd (Reg.engQCfg e q) = c.qCfg % 2 ^ 64 ∧ r.rd (Reg.engQBase e q) = c.qBase % 2 ^ 64 ∧
     r.rd (Reg.engQTailDa e q) = c.qTail % 2 ^ 64 ∧ r.rd (Reg.engQStatusDa e q) = c.qStatus % 2 ^ 64 ∧
     r.rd (Reg.engQCompDa e q) = c.qComp % 2 ^ 64) ∧
    ∀ e' k', k' < 16 → ¬ (e' = e ∧ k' = k) → r.ctx e' k' = x.ctx e' k' := by
  intro c r
  have hr : r = (((x.putQRegs e q c).setQueue e q (c.saved.getD {})).putDataSlot e q c.savedData).setCtx e k
    { c with place := .resident, slot := q, saved := none, savedData := [] } := by
    show x.enterSlot e k q = _
    unfold State.enterSlot; rfl
  have hd : (((x.putQRegs e q c).setQueue e q (c.saved.getD {})).putDataSlot e q c.savedData).ctxs = x.ctxs := by
    rw [putDataSlot_ctxs, State.setQueue_ctxs, putQRegs_ctxs]
  have hc' : tabWf (fun _ => {}) (((x.putQRegs e q c).setQueue e q (c.saved.getD {})).putDataSlot e q c.savedData).ctxs = true := by
    rw [hd]; exact hc
  have hg : r.regs = (x.putQRegs e q c).regs := by rw [hr, State.setCtx_regs, putDataSlot_regs, State.setQueue_regs]
  have hu : r.queues = ((x.putQRegs e q c).setQueue e q (c.saved.getD {})).queues := by
    rw [hr, State.setCtx_queues, putDataSlot_queues]
  have hm : r.mem = x.mem := by rw [hr, State.setCtx_mem, putDataSlot_mem, State.setQueue_mem, putQRegs_mem]
  clear_value r
  subst hr
  refine ⟨?_, ?_, hm, ?_, fun e' k' hk' hne => ?_⟩
  · rw [ctx_setCtx hc' _ _ _ _ _ hk hk, if_pos ⟨rfl, rfl⟩]
  · rw [queue_of_queues hu]
    have hq' : tabWf (fun _ => {}) (x.putQRegs e q c).queues = true := by rw [putQRegs_queues]; exact hq
    exact queue_setQueue hq' e q (c.saved.getD {})
  · rw [rd_of_regs hg, rd_of_regs hg, rd_of_regs hg, rd_of_regs hg, rd_of_regs hg]
    exact putQRegs_rd hi e q c
  · rw [ctx_setCtx hc' _ _ _ _ _ hk hk', if_neg hne]; exact ctx_of_ctxs hd _ _

theorem leaveSlot_facts {x : State} (hc : tabWf (fun _ => {}) x.ctxs = true) (hq : tabWf (fun _ => {}) x.queues = true)
    {e k : Nat} (p : CtxPlace) (hk : k < 16) :
    let c := x.ctx e k
    let r := x.leaveSlot e k p
    r.ctx e k = { x.getQRegs e c.slot c with
      place := p, saved := some (x.queue e c.slot), savedData := x.dataSlot e c.slot, running := false,
      accSaved := (x.queue e c.slot).liveAcc } ∧ r.queue e c.slot = {} ∧ r.mem = x.mem ∧
    tabWf (fun _ => {}) r.ctxs = true ∧
    ∀ e' k', k' < 16 → ¬ (e' = e ∧ k' = k) → r.ctx e' k' = x.ctx e' k' := by
  intro c r
  have hr : r = ((x.setCtx e k { x.getQRegs e c.slot c with
      place := p, saved := some (x.queue e c.slot), savedData := x.dataSlot e c.slot, running := false,
      accSaved := (x.queue e c.slot).liveAcc }).setQueue e c.slot {}).putQRegs e c.slot {} := rfl
  have hx : r.ctxs = (x.setCtx e k { x.getQRegs e c.slot c with
      place := p, saved := some (x.queue e c.slot), savedData := x.dataSlot e c.slot, running := false,
      accSaved := (x.queue e c.slot).liveAcc }).ctxs := by rw [hr, putQRegs_ctxs, State.setQueue_ctxs]
  have hu : r.queues = (x.setQueue e c.slot {}).queues := by
    rw [hr, putQRegs_queues]
    unfold State.setQueue; rw [State.setCtx_queues]
  have hm : r.mem = x.mem := by rw [hr, putQRegs_mem, State.setQueue_mem, State.setCtx_mem]
  clear_value r
  refine ⟨?_, ?_, hm, ?_, fun e' k' hk' hne => ?_⟩
  · rw [ctx_of_ctxs hx]; exact (ctx_setCtx hc e k e k _ hk hk).trans (if_pos ⟨rfl, rfl⟩)
  · rw [queue_of_queues hu]; exact queue_setQueue hq e c.slot {}
  · rw [hx]; exact setCtx_wf hc _ _ _
  · rw [ctx_of_ctxs hx]; exact (ctx_setCtx hc e k e' k' _ hk hk').trans (if_neg hne)

theorem deleteCtx_facts {x : State} (hc : tabWf (fun _ => {}) x.ctxs = true) (hq : tabWf (fun _ => {}) x.queues = true)
    {e k v : Nat} (hk : k < 16) :
    let r := x.deleteCtx e k v
    (r.ctx e k).place = .free ∧ (r.ctx e k).cfg = v ∧ r.mem = x.mem ∧
    ((x.ctx e k).place = .resident → r.queue e (x.ctx e k).slot = {}) ∧ ((x.ctx e k).place ≠ .resident → r.queues = x.queues) ∧
    ∀ e' k', k' < 16 → ¬ (e' = e ∧ k' = k) → r.ctx e' k' = x.ctx e' k' := by
  intro r
  by_cases hp : (x.ctx e k).place = .resident
  · obtain ⟨a1, a2, a3, a4, a5⟩ := leaveSlot_facts hc hq (e := e) .free hk
    have hr : r = (x.leaveSlot e k .free).setCtx e k
        { cfg := v, qCfg := ((x.leaveSlot e k .free).ctx e k).qCfg, qBase := ((x.leaveSlot e k .free).ctx e k).qBase,
          qTail := ((x.leaveSlot e k .free).ctx e k).qTail, qStatus := ((x.leaveSlot e k .free).ctx e k).qStatus,
          qComp := ((x.leaveSlot e k .free).ctx e k).qComp } := by
      show x.deleteCtx e k v = _
      unfold State.deleteCtx; rw [if_pos hp]
    clear_value r
    subst hr
    have hq' : ∀ c, ((x.leaveSlot e k .free).setCtx e k c).queue e (x.ctx e k).slot = {} := fun c => by
      rw [queue_of_queues (State.setCtx_queues ..)]; exact a2
    refine ⟨?_, ?_, by rw [State.setCtx_mem]; exact a3, fun _ => hq' _, fun hn => absurd hp hn, fun e' k' hk' hne => ?_⟩
    · rw [ctx_setCtx a4 _ _ _ _ _ hk hk, if_pos ⟨rfl, rfl⟩]
    · rw [ctx_setCtx a4 _ _ _ _ _ hk hk, if_pos ⟨rfl, rfl⟩]
    · rw [ctx_setCtx a4 _ _ _ _ _ hk hk', if_neg hne]; exact a5 e' k' hk' hne
  · have hr : r = x.setCtx e k {
        cfg := v, qCfg := (x.ctx e k).qCfg, qBase := (x.ctx e k).qBase, qTail := (x.ctx e k).qTail,
        qStatus := (x.ctx e k).qStatus, qComp := (x.ctx e k).qComp } := by
      show x.deleteCtx e k v = _
      unfold State.deleteCtx; rw [if_neg hp]
    clear_value r
    subst hr
    refine ⟨?_, ?_, by rw [State.setCtx_mem], fun hn => absurd hn hp, fun _ => by rw [State.setCtx_queues], fun e' k' hk' hne => ?_⟩
    · rw [ctx_setCtx hc _ _ _ _ _ hk hk, if_pos ⟨rfl, rfl⟩]
    · rw [ctx_setCtx hc _ _ _ _ _ hk hk, if_pos ⟨rfl, rfl⟩]
    · rw [ctx_setCtx hc _ _ _ _ _ hk hk', if_neg hne]

theorem ctxQueue_resident {u : State} {e k : Nat} (h : (u.ctx e k).place = .resident) : u.ctxQueue e k = u.queue e (u.ctx e k).slot := by
  unfold State.ctxQueue; dsimp only; rw [h]

theorem ctrl_abort {u : State} {e k : Nat} (hs : u.selected = (e, k)) (he : u.ctxExists e k = true) :
    u.writeCtxCtrl 1 = if (u.ctx e k).place = .free then u.regAccess Reg.schCtxCtrl else u.abortContext e k := by
  unfold State.writeCtxCtrl
  rw [hs]; dsimp only
  rw [if_neg (by rw [he]; decide), if_neg (by decide), if_neg (by decide)]

theorem ctrl_evict {u : State} {e k : Nat} (hs : u.selected = (e, k)) (he : u.ctxExists e k = true) :
    u.writeCtxCtrl 2 = u.evict e k := by
  unfold State.writeCtxCtrl
  rw [hs]; dsimp only
  rw [if_neg (by rw [he]; decide), if_pos (by decide), if_pos (by decide)]

theorem swap_open {u : State} {e k : Nat} {ue : Option Nat} (a : u.inSlot e = false) (b : u.ctxsIn e .restoring = [])
    (c : (u.ctxsIn e .resident).any (fun k => decide (u.blockCause e k = 0)) = false) (hk : u.swapIncoming e = some k) :
    u.swap e ue = match u.freeSlot e with
    | some q => (u.setCtx e k { u.ctx e k with place := .restoring, slot := q }).countSwap
    | none =>
      match u.swapVictim e k with
      | none => u
      | some v =>
        let q := (u.ctx e v).slot
        let s := (u.leaveSlot e v .saving).countSwap
        let s := match ue with
          | some i => s.loseCtx e v (saveArea e v + i)
          | none => s
        s.setCtx e k { s.ctx e k with place := .restoring, slot := q } := by
  unfold State.swap
  rw [if_neg (by rw [a, b, c]; decide), hk] <;> rfl

theorem swap_free {u : State} {e k q : Nat} {ue : Option Nat} (a : u.inSlot e = false) (b : u.ctxsIn e .restoring = [])
    (c : (u.ctxsIn e .resident).any (fun k => decide (u.blockCause e k = 0)) = false) (hk : u.swapIncoming e = some k)
    (hq : u.freeSlot e = some q) :
    u.swap e ue = (u.setCtx e k { u.ctx e k with place := .restoring, slot := q }).countSwap := by rw [swap_open a b c hk, hq]

theorem swap_stuck {u : State} {e k : Nat} {ue : Option Nat} (a : u.inSlot e = false) (b : u.ctxsIn e .restoring = [])
    (c : (u.ctxsIn e .resident).any (fun k => decide (u.blockCause e k = 0)) = false) (hk : u.swapIncoming e = some k)
    (hq : u.freeSlot e = none) (hv : u.swapVictim e k = none) : u.swap e ue = u := by rw [swap_open a b c hk, hq]; dsimp only; rw [hv]

theorem swap_victim {u : State} {e k v : Nat} (a : u.inSlot e = false) (b : u.ctxsIn e .restoring = [])
    (c : (u.ctxsIn e .resident).any (fun k => decide (u.blockCause e k = 0)) = false) (hk : u.swapIncoming e = some k)
    (hq : u.freeSlot e = none) (hv : u.swapVictim e k = some v) (ue : Option Nat) :
    u.swap e ue = (match ue with
      | some i => (((u.leaveSlot e v .saving).countSwap).loseCtx e v (saveArea e v + i))
      | none => (u.leaveSlot e v .saving).countSwap).setCtx e k { (match ue with
      | some i => (((u.leaveSlot e v .saving).countSwap).loseCtx e v (saveArea e v + i))
      | none => (u.leaveSlot e v .saving).countSwap).ctx e k with place := .restoring, slot := (u.ctx e v).slot } := by
  rw [swap_open a b c hk, hq]; dsimp only; rw [hv]

theorem remoteFail_waiting {x : State} (hc : tabWf (fun _ => {}) x.ctxs = true) {e k : Nat} (hk : k < 16) (r : RemoteTag) (f : OpFault)
    (hr : (x.ctx e k).running = false) :
    let v := x.remoteFail e k r f
    let kept := (x.ctx e k).tags.filter fun y => decide (y.tag ≠ r.tag)
    (v.mem = x.mem ∧ v.queues = x.queues ∧ ∀ e' k', k' < 16 → ¬ (e' = e ∧ k' = k) → v.ctx e' k' = x.ctx e' k') ∧
    v.ctx e k = if (x.ctx e k).remoteErr.isSome then { x.ctx e k with tags := kept }
      else { x.ctx e k with tags := kept, remoteErr := some f, errIssue := r.issue } := by
  intro v kept
  let c1 : Ctx := { x.ctx e k with tags := kept }
  let y := x.setCtx e k c1
  have h1 : y.ctx e k = c1 := (ctx_setCtx hc e k e k c1 hk hk).trans (if_pos ⟨rfl, rfl⟩)
  have h1' : (y.bump Reg.schRemoteCount 63 32 1).ctx e k = c1 := h1
  have take : ∀ z : State, (z.ctx e k).running = false → z.takeRemoteErr e k = z := by
    intro z hz
    unfold State.takeRemoteErr
    dsimp only
    split
    · rw [if_pos (by rw [hz]; rfl)]
    · rfl
  have hv : v = (let z := y.bump Reg.schRemoteCount 63 32 1
      let z := if c1.remoteErr.isSome then z else z.setCtx e k { c1 with remoteErr := some f, errIssue := r.issue }
      z.takeRemoteErr e k) := by
    show x.remoteFail e k r f = _
    unfold State.remoteFail
    dsimp only
    rw [show (x.releaseTag e k r.tag).bump Reg.schRemoteCount 63 32 1 = y.bump Reg.schRemoteCount 63 32 1 from rfl, h1']
  have hyc : tabWf (fun _ => {}) (y.bump Reg.schRemoteCount 63 32 1).ctxs = true := setCtx_wf hc _ _ _
  cases he : (x.ctx e k).remoteErr.isSome with
  | true =>
    have he' : c1.remoteErr.isSome = true := he
    rw [hv]
    dsimp only
    rw [if_pos he', take _ (by rw [h1']; exact hr), if_pos rfl]
    refine ⟨⟨rfl, rfl, fun e' k' hk' hne => ?_⟩, h1⟩
    exact (ctx_setCtx hc e k e' k' c1 hk hk').trans (if_neg hne)
  | false =>
    have he' : ¬ c1.remoteErr.isSome = true := by show ¬ (x.ctx e k).remoteErr.isSome = true; rw [he]; decide
    rw [hv]
    dsimp only
    have h2 := ctx_setCtx hyc e k
    rw [if_neg he', take _ (by rw [ctx_setCtx hyc _ _ _ _ _ hk hk, if_pos ⟨rfl, rfl⟩]; exact hr), if_neg (by decide)]
    refine ⟨⟨rfl, rfl, fun e' k' hk' hne => ?_⟩, (ctx_setCtx hyc _ _ _ _ _ hk hk).trans (if_pos ⟨rfl, rfl⟩)⟩
    rw [ctx_setCtx hyc _ _ _ _ _ hk hk', if_neg hne]
    exact (ctx_setCtx hc e k e' k' c1 hk hk').trans (if_neg hne)

theorem placeNext_first {u w : State} {p n : Nat} {rest : List Nat} {v : State} (h1 : bit (u.rd Reg.schCtrl) 0 = true)
    (h2 : bit (u.rd (Reg.schJobCfg p)) 0 = true) (h3 : (u.job p).halted = false) (hw : u.jobTail p = w) (h4 : (w.job p).halted = false)
    (h5 : (w.job p).fresh = false) (h6 : (w.job p).window = n :: rest) (h7 : w.jobStep p n = some v) : u.placeNext p = v := by
  unfold State.placeNext
  rw [if_neg (by rw [h1, h2, h3]; decide), hw]
  dsimp only
  rw [if_neg (by rw [h4, h5]; decide), h6, List.findSome?_cons, h7]; rfl

theorem jobStep_held {w : State} {p n : Nat} (h1 : w.memFault (w.jobDa p n) 64 = none) (h2 : w.holdsBytes (w.jobDa p n) 64 = true) :
    w.jobStep p n = (if leField (w.load (w.jobDa p n) 64) 0 4 ≠ n then some (w.jobHalt p n (leField (w.load (w.jobDa p n) 64) 0 4) 2)
      else if jobBad (w.load (w.jobDa p n) 64) then some (w.jobInvalid p n (jobOf (w.load (w.jobDa p n) 64)))
      else if w.clientReady p (jobOf (w.load (w.jobDa p n) 64)).client && w.depMet (jobOf (w.load (w.jobDa p n) 64)) then
        (w.jobTarget p (jobOf (w.load (w.jobDa p n) 64))).map fun x => w.placeJob p n (jobOf (w.load (w.jobDa p n) 64)) (x / 16) (x % 16)
      else none) := by
  unfold State.jobStep
  dsimp only
  rw [if_neg (by rw [h1]; decide), if_neg (by rw [h2]; decide)]

theorem testEnd_at {u : State} {e items : Nat} {ues : List (Nat × Nat)} {x : TestSlot} (hx : u.slotOf e = some x)
    (ht : x.testing.isSome = true) :
    u.testEnd e items ues = (if items = 0 then (u.testWorn e).testPass e x ues else (u.testWorn e).testFail e x items).serveRequest e
      (decide (items = 0)) items := by
  unfold State.testEnd
  rw [hx]
  dsimp only
  rw [if_neg (by cases h : x.testing <;> simp_all)]

/-- A part of a meaning, named for the lemmas below. -/
def passed (w : State) (e : Nat) (k : TestKind) : State :=
  ((w.bump Reg.hltStCount 23 0 1).setEngHealth e
    { w.engHealth e with lastPass := w.timeNs, passes := if w.engineOut e then (w.engHealth e).passes + 1 else 0 }).slotOver e k

theorem testPass_in {w : State} {e : Nat} (x : TestSlot) (ues : List (Nat × Nat)) (h : (passed w e x.kind).engineOut e = false) :
    w.testPass e x ues = (passed w e x.kind).readmit e ues := by
  unfold State.testPass; dsimp only
  show (if (passed w e x.kind).engineOut e = true then _ else _) = _
  rw [h]; rfl

theorem testPass_stays {w : State} {e : Nat} (x : TestSlot) (ues : List (Nat × Nat)) (h : (passed w e x.kind).engineOut e = true)
    (hc : ¬ (2 ≤ (if w.engineOut e then (w.engHealth e).passes + 1 else 0) ∧ (w.engHealth e).failed < 3)) :
    w.testPass e x ues = passed w e x.kind := by
  unfold State.testPass; dsimp only
  show (if (passed w e x.kind).engineOut e = true then _ else _) = _
  rw [h, if_pos rfl, if_neg hc]; rfl

theorem testPass_returns {w : State} {e : Nat} (x : TestSlot) (ues : List (Nat × Nat)) (h : (passed w e x.kind).engineOut e = true)
    (hc : 2 ≤ (if w.engineOut e then (w.engHealth e).passes + 1 else 0)) (hf : (w.engHealth e).failed < 3) :
    w.testPass e x ues = ((passed w e x.kind).setEngineOut e false).readmit e ues := by
  unfold State.testPass; dsimp only
  show (if (passed w e x.kind).engineOut e = true then _ else _) = _
  rw [h, if_pos rfl, if_pos ⟨hc, hf⟩]; rfl

theorem link_takes {u v : State} {n : Nat} {p : Packet} (h : u.Takes n p v) : u.linkReceive n p = (v, true) := by
  obtain ⟨h1, h2, h3⟩ := h
  unfold State.linkReceive
  rw [if_neg (by rw [h1]; decide)]
  dsimp only
  rw [if_pos h2, h3]

theorem link_shut {u : State} {n : Nat} {p : Packet}
    (h : u.linkState n ≠ 2 ∨ (p.seq % 4096 ≠ ((u.link n).rx + 1) % 4096 ∧ ((u.link n).rx + 4096 - p.seq % 4096) % 4096 < 2048)) :
    u.linkReceive n p = (u, false) := by
  unfold State.linkReceive
  dsimp only
  rcases h with h | ⟨h1, h2⟩
  · rw [if_pos h]
  · simp [h1, h2]

theorem link_gap {u : State} {n : Nat} {p : Packet} (h : u.linkState n = 2) (h1 : p.seq % 4096 ≠ ((u.link n).rx + 1) % 4096)
    (h2 : ¬ ((u.link n).rx + 4096 - p.seq % 4096) % 4096 < 2048) : u.linkReceive n p = (u.sendNak n, false) := by
  unfold State.linkReceive
  dsimp only
  rw [if_neg (by rw [h]; decide), if_neg h1, if_neg h2]

theorem from_takes {u v : State} {n : Nat} {p : Packet} (h : u.Takes n p v) (f : State → State) :
    u.fromFabric n p f = if p.dst = v.moduleId then (f v).consume n p else v.forward n p := by
  unfold State.fromFabric; rw [link_takes h]

theorem from_not {u v : State} {n : Nat} {p : Packet} (h : u.linkReceive n p = (v, false)) (f : State → State) :
    u.fromFabric n p f = v := by
  unfold State.fromFabric; rw [h]

theorem runs_raw {s u : State} {t : Nat} (h : s.RunsAt t u) {f : State → State} {o : Host.Outcome State Fault Refusal}
    (ho : .next (f u) = o) : (if (s.advance t).stopped then Host.Outcome.next (s.advance t) else .next (f (s.advance t))) = o := by
  obtain ⟨rfl, hr⟩ := h
  rw [if_neg (by rw [hr]; decide), ho]

theorem exec_request {s u : State} {t : Nat} {n : Fin 8} {p : Packet} (h : s.RunsAt t u) (k : Fin 4) :
    exec (fabricRequest k t n p) s =
      .next (u.fromFabric n { p with type := k.val + 1 } fun s => s.servePacket n { p with type := k.val + 1 }) := by
  match k with
  | 0 => dsimp only [fabricRequest, exec, execGet]; rw [State.live_runs h]; rfl
  | 1 => dsimp only [fabricRequest, exec, execPut]; rw [State.live_runs h]; rfl
  | 2 => dsimp only [fabricRequest, exec, execAtomic]; rw [State.live_runs h]; rfl
  | 3 => dsimp only [fabricRequest, exec, execRed]; rw [State.live_runs h]; rfl

theorem exec_response {s u : State} {t : Nat} {n : Fin 8} {p : Packet} (h : s.RunsAt t u) (k : Fin 3) :
    exec (fabricResponse k t n p) s =
      .next (u.fromFabric n { p with type := k.val + 8 } fun s => s.takeResponse { p with type := k.val + 8 }) := by
  match k with
  | 0 => dsimp only [fabricResponse, exec, execGetRsp]; rw [State.live_runs h]; rfl
  | 1 => dsimp only [fabricResponse, exec, execAck]; rw [State.live_runs h]; rfl
  | 2 => dsimp only [fabricResponse, exec, execAtomicRsp]; rw [State.live_runs h]; rfl

theorem exec_tick {s u : State} {t : Nat} {n : Fin 8} {p : Packet} (h : s.RunsAt t u) :
    exec (.fabricTick t n p) s = .next (match u.linkReceive n { p with type := 0x10 } with
      | (s, true) => (s.takeTick p).consume n { p with type := 0x10 }
      | (s, false) => s) := by
  obtain ⟨rfl, hr⟩ := h
  dsimp only [exec, execFabricTick]
  rw [if_neg (by rw [hr]; decide)] <;> rfl

theorem exec_idle {s u : State} {t : Nat} {n : Fin 9} {p : Packet} (h : s.RunsAt t u) :
    exec (.idle t n p) s = .next (match u.linkReceive n { p with type := 0x11 } with
      | (s, true) => s.consume n { p with type := 0x11 }
      | (s, false) => s) := by
  obtain ⟨rfl, hr⟩ := h
  dsimp only [exec, execIdle]
  rw [if_neg (by rw [hr]; decide)] <;> rfl

theorem exec_nak {s u : State} {t : Nat} {n : Fin 9} {p : Packet} (h : s.RunsAt t u) :
    exec (.nak t n p) s = .next (match u.linkReceive n { p with type := 0x11, nak := true } with
      | (s, true) => s.consume n { p with type := 0x11, nak := true }
      | (s, false) => s) := by
  obtain ⟨rfl, hr⟩ := h
  dsimp only [exec, execNak]
  rw [if_neg (by rw [hr]; decide)] <;> rfl

theorem up_eq (w : State) (k : Nat) :
    (let x := w.link k
     let y : LinkSt := if x.matched = false then { x.granted with matched := true } else x
     let v := (w.setLink k y).setLinkState k 2
     (if x.matched = false then v else v.replay k).drainLink k (y.queue.length + 1)) = w.linkUp k := by
  unfold State.linkUp
  dsimp only
  cases (w.link k).matched <;> rfl

theorem foldl_id {α β : Type} (xs : List β) (x : α) : List.foldl (fun a _ => a) x xs = x := by
  induction xs with
  | nil => rfl
  | cons y ys ih => exact ih

theorem comp_takes {u v : State} {p : Packet} (h : u.Takes dulis p v) (f : State → State) :
    u.fromCompanion p f = (f v).consume dulis p := by
  unfold State.fromCompanion; rw [link_takes h]

theorem exec_inbound {s u v : State} {t : Nat} {p : Packet} (h : s.RunsAt t u) (hv : u.Takes dulis p v) (k : Fin 3) :
    exec (inboundRequest k t p) s = .next ((v.inbound { p with type := 0x30 + k.val }).consume dulis p) := by
  match k with
  | 0 => dsimp only [inboundRequest, exec, execInbRd]; rw [State.live_runs h, comp_takes hv]; rfl
  | 1 => dsimp only [inboundRequest, exec, execInbWr]; rw [State.live_runs h, comp_takes hv]; rfl
  | 2 => dsimp only [inboundRequest, exec, execInbAtomic]; rw [State.live_runs h, comp_takes hv]; rfl

theorem inbound_none {v : State} {q : Packet} (h : inboundAct q = none) :
    v.inbound q = if bit (v.rd Reg.atcCtrl) 1 then v.inboundBad q else v.inboundRefuse q := by
  unfold State.inbound; rw [h]

theorem inbound_reg {v : State} {q : Packet} {act : MemAct} {n : Nat} (h : inboundAct q = some (act, n))
    (hr : regionOf q.addr = .register) : v.inbound q = v.inboundRegister q act := by
  unfold State.inbound; rw [h]; dsimp only; rw [hr]

theorem inbound_shut {v : State} {q : Packet} {act : MemAct} {n : Nat} (h : inboundAct q = some (act, n))
    (hr : regionOf q.addr ≠ .register) (ho : bit (v.rd Reg.atcCtrl) 1 = false) : v.inbound q = v.inboundRefuse q := by
  unfold State.inbound; rw [h]; dsimp only
  split
  · exact absurd ‹_› hr
  · rw [if_pos ho]

theorem inbound_shelf {v : State} {q : Packet} {act : MemAct} {n e b : Nat} (h : inboundAct q = some (act, n))
    (hr : regionOf q.addr = .shelf e b) (ho : bit (v.rd Reg.atcCtrl) 1 = true) : v.inbound q = v.inboundShelf q act n := by
  unfold State.inbound; rw [h]; dsimp only; rw [hr]; dsimp only; rw [if_neg (by rw [ho]; decide)]

theorem inbound_tier {v : State} {q : Packet} {act : MemAct} {n : Nat} (h : inboundAct q = some (act, n))
    (hr : regionOf q.addr = .pantry ∨ regionOf q.addr = .cellar) (ho : bit (v.rd Reg.atcCtrl) 1 = true) :
    v.inbound q = v.inboundTier q act n := by
  unfold State.inbound; rw [h]; dsimp only
  rcases hr with hr | hr <;> (rw [hr]; dsimp only; rw [if_neg (by rw [ho]; decide)])

theorem rd_bump {s : State} (h : Registers.wf s.regs) {a b hi lo n : Nat} (hb : b ≠ a) : (s.bump a hi lo n).rd b = s.rd b := by
  unfold State.bump; rw [State.rd_wr h]; simp [hb]

theorem ringPost_off {s : State} (bytes : List Byte) (h : bit (s.rd Reg.fltCtrl) 0 = false) : s.ringPost bytes = s := by
  unfold State.ringPost; rw [if_pos (by rw [h]; rfl)]

theorem setLossy {w s : State} {m : List Host.Cell} {b : Bool} (hm : w.mem = m) (hf : w.flt = s.flt) :
    ({ w with flt := { w.flt with lossy := b } } : State).mem = m ∧
      ({ w with flt := { w.flt with lossy := b } } : State).flt = { s.flt with lossy := b } := by
  rw [← hf]; exact ⟨hm, rfl⟩

theorem bump_mem (s : State) (a hi lo n : Nat) : (s.bump a hi lo n).mem = s.mem := rfl

theorem bump_flt (s : State) (a hi lo n : Nat) : (s.bump a hi lo n).flt = s.flt := rfl

theorem ringPost_room_eq {s : State} (bytes : List Byte) {slot : Nat} (h : bit (s.rd Reg.fltCtrl) 0 = true)
    (hf : ¬ ((2 ^ s.fld Reg.fltCtrl 12 8 : Nat) : Int) ≤ ahead32 (s.fld Reg.fltRingTail 31 0) (s.fld Reg.fltRingHead 31 0))
    (hz : s.rd Reg.fltRingDa + s.fld Reg.fltRingTail 31 0 % 2 ^ s.fld Reg.fltCtrl 12 8 * 64 = slot) :
    s.ringPost bytes = (let w := (s.store slot bytes).setFld Reg.fltRingTail 31 0 (s.fld Reg.fltRingTail 31 0 + 1)
      { w with flt := { w.flt with lossy := false } }) := by
  unfold State.ringPost; rw [if_neg (by rw [h]; decide)]; dsimp only; rw [if_neg hf, hz]

theorem recordBytes_eq {u : State} (hi : u.Inv) {r : FaultRec} (hc : r.cls = Class.info ∨ r.cls = Class.contained) (l p : Bool) :
    recordBytes (u.bump (Reg.fltCount r.cls) 63 0 1) r l p = recordBytes u r l p := by
  unfold recordBytes
  have : (u.bump (Reg.fltCount r.cls) 63 0 1).rd Reg.tckCount = u.rd Reg.tckCount :=
    rd_bump hi.2.1 (by rcases hc with h | h <;> rw [h] <;> decide)
  rw [this]; rfl

theorem put_bit0 (r : Nat) (on : Bool) (m : Nat) (hm : m % 2 = 1) : bit (putBits r 0 0 (b2n on) &&& m) 0 = on := by
  unfold bit putBits
  rw [Nat.testBit_and]
  have h1 : m.testBit 0 = true := by simp [Nat.testBit_zero, hm]
  rw [h1, Bool.and_true]
  cases on <;> simp [b2n, Nat.testBit_zero, Nat.shiftLeft_succ, Nat.mod_one, Nat.or_mod_two_eq_one]

theorem stReq_eq {u : State} {v kind target : Nat} (h1 : bits v 2 0 = kind) (h2 : bits v 15 8 = target)
    (h3 : target < requestTargets kind) :
    u.writeStReq v = if 16 ≤ u.health.requests.length then (u.bump Reg.hltStCount 63 48 1).setBit Reg.hltStStatus 17 true
      else ({ u with health := { u.health with requests := u.health.requests ++ [(kind, target)] } } : State).setFld Reg.hltStStatus 28 24
        (u.health.requests ++ [(kind, target)]).length := by
  unfold State.writeStReq; dsimp only
  rw [h1, h2, if_neg (by omega)]

theorem applyRecords_succ (w : State) (slot n : Nat) : w.applyRecords slot (n + 1) =
    (match w.applyRecord (w.slotField slot w.sec.cursor 2) (w.slotField slot (w.sec.cursor + 8) 8)
      (w.norLoad (slotBase slot + w.sec.cursor + 16) (w.slotField slot (w.sec.cursor + 4) 4)) with
    | .applied s' => ({ s' with sec := { s'.sec with
        cursor := w.sec.cursor + w.recordSize slot w.sec.cursor, applied := w.sec.applied + 1 } } : State).applyRecords slot n
    | .waits => w
    | .fails => (w.setStage 6).secRecord F.bootRecord Class.fatal slot 0 w.sec.applied) := rfl

theorem and_all64 {v : Nat} (hv : v < 2 ^ 64) : v &&& (2 ^ 64 - 1) = v := by
  rw [Nat.and_two_pow_sub_one_eq_mod, Nat.mod_eq_of_lt hv]

theorem norCtrl_bits {cmd n : Nat} (hn : n < 2 ^ 24) (hc : cmd < 3) :
    bits (cmd + n * 2 ^ 8) 1 0 = cmd ∧ bits (cmd + n * 2 ^ 8) 31 8 = n := by
  constructor
  · unfold bits; simp only [Nat.shiftRight_zero]; omega
  · unfold bits; rw [Nat.shiftRight_eq_div_pow]; omega

theorem keys_left {u : State} {k : Nat} :
    (([0, 1, 2, 3].any fun i => decide (i ≠ k) && u.keyProgrammed i && !u.keyRevoked i) = true) ↔
      ∃ i < 4, i ≠ k ∧ u.keyProgrammed i = true ∧ u.keyRevoked i = false := by
  rw [List.any_eq_true]
  constructor
  · rintro ⟨i, hi, hp⟩
    simp only [Bool.and_eq_true, decide_eq_true_eq, Bool.not_eq_true'] at hp
    simp only [List.mem_cons, List.not_mem_nil, or_false] at hi
    exact ⟨i, by omega, hp.1.1, hp.1.2, hp.2⟩
  · rintro ⟨i, hi, h1, h2, h3⟩
    refine ⟨i, ?_, by simp [h1, h2, h3]⟩
    simp only [List.mem_cons, List.not_mem_nil, or_false]; omega

theorem latch_regs (w : State) (l : List Nat) : ∀ {x : State}, Registers.wf x.regs →
    let r := l.foldl (fun (x : State) (a : Nat) => x.wr a (w.rd a)) x
    r = { x with regs := r.regs } ∧ Registers.wf r.regs ∧ ∀ b, r.rd b = if b ∈ l then w.rd b else x.rd b := by
  induction l with
  | nil => exact fun h => ⟨rfl, h, fun b => by simp⟩
  | cons a l ih =>
    intro x h
    obtain ⟨h1, h2, h3⟩ := ih (State.wr_regs_wf h a (w.rd a))
    refine ⟨?_, h2, fun b => ?_⟩
    · simp only [List.foldl_cons]; rw [h1]; rfl
    · simp only [List.foldl_cons]
      rw [h3 b, State.rd_wr h]
      have hw : w.rd a % 2 ^ 64 = w.rd a := by
        exact Nat.mod_eq_of_lt (tabGet regReset w.regs a).isLt
      by_cases hb : b ∈ l
      · simp [hb]
      · by_cases ha : b = a
        · subst ha; rw [if_neg hb, if_pos rfl, hw, if_pos List.mem_cons_self]
        · simp [hb, ha]

theorem tearNor_eq (w : State) : w.tearNor = { w.persist with nor := w.tearNor.nor } := by
  have h : ∃ x, w.tearNor = { w.persist with nor := x } := by
    unfold State.tearNor; dsimp only; split
    · exact ⟨_, rfl⟩
    · exact ⟨_, rfl⟩
    · exact ⟨w.persist.nor, rfl⟩
  obtain ⟨x, h⟩ := h
  rw [h]

/-- A part of a meaning, named for the lemmas below. -/
def freshPower (w : State) (p : PowerSt) : State :=
  { pending := w.pending, now := w.now, free := w.free + w.torn, outbox := w.outbox, persist := w.tearNor,
    power := { p with address := w.power.address } }

theorem setFld_regs {x y : State} {rs : List (Nat × Word)} (h : x = { y with regs := rs }) (a hi lo v : Nat) :
    x.setFld a hi lo v = { y with regs := (x.setFld a hi lo v).regs } := by
  subst h; rfl

theorem live_of_running {s : State} {t : Nat} (h : (s.advance t).stopped = false) (f : State → State) : s.live t f = f (s.advance t) :=
  State.live_runs ⟨rfl, h⟩ f

theorem moveCap_eq (m : State) (dw : Nat) :
    let calm := fun (w : State) (c : Option Nat) => ({ w with power := { w.power with calm := c } } : State)
    m.moveCap dw = if 10 * min (m.fld Reg.pwrCapFuse 15 0) (min (m.fld Reg.pwrCap 15 0) (m.fld Reg.pwrSbCap 15 0)) < dw then
        calm (m.setPowerCap (max 1 (m.fld Reg.pwrStatus 18 16 + 1 - 1))) none
      else if 10 * dw < 97 * min (m.fld Reg.pwrCapFuse 15 0) (min (m.fld Reg.pwrCap 15 0) (m.fld Reg.pwrSbCap 15 0)) then
        (if m.power.calm.getD m.now + us 1000 ≤ m.now then
          (calm m (some (m.power.calm.getD m.now))).setPowerCap (min 8 (m.fld Reg.pwrStatus 18 16 + 1 + 1))
        else calm m (some (m.power.calm.getD m.now)))
      else calm m none := by
  intro calm
  unfold State.moveCap State.capInForce State.powerCap
  dsimp only
  split
  · rfl
  · split
    · split <;> rfl
    · rfl

theorem refuse_eq (u : State) (ag : Agent) : u.refuseWrite ag = match ag with
      | .companion => u.event Reg.atcIntStatus 4
      | _ => u := by cases ag <;> rfl

theorem store_plain {s : State} {a : Nat} {bs : List Byte} (h : a < atticBase ∨ shelfBase ≤ a) :
    s.store a bs =
      { s with mem := tabSetList memDefault s.mem a bs, larder := dropCopies s.larder a bs.length,
               dead := s.dead.filter fun w => !(decide (a ≤ w.1) && decide (w.1 + w.2.1 ≤ a + bs.length)) } := by
  unfold State.store
  have : ¬ (atticBase ≤ a ∧ a < shelfBase) := by omega
  simp [this]

theorem load_store {s : State} {a : Nat} {bs : List Byte} (h : Memory.wf s.mem) (hp : a < atticBase ∨ shelfBase ≤ a) :
    (s.store a bs).load a bs.length = bs := by
  rw [store_plain hp]
  have := tabGetList_store h bs bs.length 0 a (by omega)
  simpa [State.load] using this

theorem store_outside {s : State} {a : Nat} {bs : List Byte} (h : Memory.wf s.mem) (hp : a < atticBase ∨ shelfBase ≤ a) :
    (s.store a bs).SameOutside s a bs.length := by
  intro b hb
  rw [store_plain hp]
  show tabGet memDefault (tabSetList memDefault s.mem a bs) b = _
  rw [byteAt_store h]; simp [hb, State.byteAt]

theorem storeIfChanged_load {s : State} {a : Nat} {bs : List Byte} (h : Memory.wf s.mem) (hp : a < atticBase ∨ shelfBase ≤ a) :
    (s.storeIfChanged a bs).load a bs.length = bs := by
  unfold State.storeIfChanged; split
  · assumption
  · exact load_store h hp

theorem storeIfChanged_outside {s : State} {a : Nat} {bs : List Byte} (h : Memory.wf s.mem) (hp : a < atticBase ∨ shelfBase ≤ a) :
    (s.storeIfChanged a bs).SameOutside s a bs.length := by
  unfold State.storeIfChanged; split
  · intro _ _; rfl
  · exact store_outside h hp

theorem storeIfChanged_rest (s : State) (a : Nat) (bs : List Byte) (hp : a < atticBase ∨ shelfBase ≤ a) :
    (s.storeIfChanged a bs).SameBlocks s ∧ (s.storeIfChanged a bs).outbox = s.outbox := by
  unfold State.storeIfChanged; split
  · exact ⟨⟨rfl, rfl, rfl, rfl, rfl, rfl, rfl, rfl⟩, rfl⟩
  · rw [store_plain hp]; exact ⟨⟨rfl, rfl, rfl, rfl, rfl, rfl, rfl, rfl⟩, rfl⟩

theorem event_units (s : State) (a i : Nat) : (s.event a i).SameUnits s := by
  unfold State.event
  exact ⟨rfl, rfl, rfl, rfl, rfl, rfl, rfl, rfl, rfl, rfl, rfl, rfl, rfl, rfl, rfl, rfl, rfl, rfl, rfl, rfl⟩

theorem reached_units (s : State) (a r : Nat) : (s.reached a r).SameUnits s := by
  unfold State.reached
  exact ⟨rfl, rfl, rfl, rfl, rfl, rfl, rfl, rfl, rfl, rfl, rfl, rfl, rfl, rfl, rfl, rfl, rfl, rfl, rfl, rfl⟩

theorem ringPost_units (s : State) (bs : List Byte) : (s.ringPost bs).SameUnits s := by
  unfold State.ringPost
  split
  · exact same_refl s
  · dsimp only
    split
    · exact same_trans (flt_units (((s.bump Reg.fltDropped 31 0 1).setBit Reg.fltStatus 2 true).reached Reg.fltRingHead 4) _)
        (same_trans (reached_units _ _ _) (same_trans (setBit_units _ _ _ _) (bump_units _ _ _ _ _)))
    · refine same_trans (flt_units ((s.store (s.rd Reg.fltRingDa + s.fld Reg.fltRingTail 31 0 % 2 ^ s.fld Reg.fltCtrl 12 8 * 64) bs).setFld
        Reg.fltRingTail 31 0 (s.fld Reg.fltRingTail 31 0 + 1)) _) (same_trans (setFld_units _ _ _ _ _) (store_units _ _ _))

theorem postFault_units (s : State) (r : FaultRec) : (postFault s r).SameUnits s := by
  unfold postFault
  dsimp only
  split
  · exact bump_units _ _ _ _ _
  · refine same_trans (setIf_units _ _ _) (same_trans (setIf_units _ _ _) (same_trans (event_units _ _ _)
      (same_trans (latchIf_units _ _ _) (same_trans (flt_units _ _) (same_trans (ringPost_units _ _)
      (same_trans (admitNor_units _ _) ?_))))))
    split
    · exact same_trans (flt_units _ _) (bump_units _ _ _ _ _)
    · exact bump_units _ _ _ _ _

theorem regAccess_units (s : State) (a : Nat) : (s.regAccess a).SameUnits s := postFault_units s _

theorem postFault_ing (s : State) (r : FaultRec) : (postFault s r).ing = s.ing := (postFault_units s r).2.2.2.2.2.2.2.2.2.2.2.2.1

theorem locked_other {s : State} {a v : Nat} (h : (past a regBase / 2 ^ 24) ∉ [1, 5, 6, 7, 9, 10, 13]) : s.locked a v = false := by
  unfold State.locked
  split
  all_goals first
    | rfl
    | (rename_i h'; rw [h'] at h; exact absurd (by decide) h)

theorem runPart_ok {s : State} {site : Site} {o : OpenOp} {f : State → Site → OpenOp → State × OpenOp} {r : State × OpenOp}
    (h : f { s.atDest site.e o with free := (s.atDest site.e o).free + 1 } site o = r) (hf : ∀ x, r.2.fault = some x → x.waits = false) :
    s.runPart site o f = .ok ((r.1.blur site.e r.2).ownWrites (s.atDest site.e o).attic.writes.length site.e site.q o.issue, r.2) := by
  unfold State.runPart
  simp only [h]
  cases hr : r.2.fault with
  | none => rfl
  | some x => simp only [hf x hr, Bool.false_eq_true, if_false]

theorem rvRun_prefix {x : State} {p : Routine} {e : Nat} {o : OpenOp} : ∀ (k n : Nat) {u : State} {r : Routine}, u.rvRun e r o k = .goes x p →
    u.rvRun e r o (k + n) = x.rvRun e p o n
  | 0, n, u, r, h => by cases h; rw [Nat.zero_add]
  | k + 1, n, u, r, h => by
    rw [Nat.add_right_comm, State.rvRun]
    rw [State.rvRun] at h
    split at h
    · rename_i h1
      exact rvRun_prefix k n h
    · rename_i h1
      exact absurd h (h1 _ _)

theorem rvRun_event {u x : State} {r p : Routine} {e k m : Nat} {o : OpenOp} {z : RvEnd} (h : u.rvRun e r o k = .goes x p) (hk : k < m)
    (hs : x.rvStep e p o = z) (hz : ∀ s r, z ≠ .goes s r) : u.rvRun e r o m = z := by
  obtain ⟨n, rfl⟩ : ∃ n, m = k + (n + 1) := ⟨m - k - 1, by omega⟩
  rw [rvRun_prefix k _ h, State.rvRun, hs]
  cases z with
  | goes => exact absurd rfl (hz _ _)
  | _ => rfl

theorem tier_region {a : Nat} {tr : Tier} (h : tierOf a = some tr) : regionOf a = .pantry ∨ regionOf a = .cellar := by
  unfold tierOf at h
  split at h
  · exact .inl ‹_›
  · exact .inr ‹_›
  · cases h

theorem charge_blocks (x : State) (tr : Tier) (p n : Nat) : (x.charge tr p n).SameBlocks x ∧ (x.charge tr p n).mem = x.mem ∧ (x.charge tr p n).outbox = x.outbox ∧ (x.charge tr p n).dead = x.dead := by
  cases tr <;> exact ⟨⟨rfl, rfl, rfl, rfl, rfl, rfl, rfl, rfl⟩, rfl, rfl, rfl⟩

theorem charge_waiting (x : State) (tr : Tier) (p n : Nat) : ((x.charge tr p n).tier tr).waiting = (x.tier tr).waiting := by
  cases tr <;> rfl

theorem request_goes {u : State} {tr : Tier} {w : Waiting} (ht : tierOf w.req.da = some tr) (hg : (u.atSlices w).GoesAtOnce tr w) :
    u.request w = (if w.uncharged then u.atSlices w else (u.atSlices w).charge tr w.req.part.val w.bytes).perform tr
      { w with arrived := (u.atSlices w).now, admitted := some (u.atSlices w).now } := by
  obtain ⟨h1, h2, h3, h4, h5, h6, h7⟩ := hg
  have hr := tier_region ht
  have hh : w.homed = true := by unfold Waiting.homed; rcases hr with h | h <;> rw [h] <;> rfl
  unfold State.request
  simp only [hh, if_true]
  generalize u.atSlices w = x at *
  have h1' : x.requestFault { w with arrived := x.now } = none := h1
  rw [h1']
  have hb : ∀ y : State, (y.tier tr).waiting = (x.tier tr).waiting → y.pausedFor tr w = false → y.now = x.now →
      (if y.mayPerform tr (y.tier tr).waiting { w with arrived := x.now, admitted := some y.now } then
        y.perform tr { w with arrived := x.now, admitted := some y.now } else y.keep tr { w with arrived := x.now, admitted := some y.now }) =
      y.perform tr { w with arrived := x.now, admitted := some x.now } := by
    intro y hy hp hn
    have hm : y.mayPerform tr (y.tier tr).waiting { w with arrived := x.now, admitted := some y.now } = true := by
      unfold State.mayPerform
      have hp' : y.pausedFor tr { w with arrived := x.now, admitted := some y.now } = false := hp
      have hb' : Waiting.behind { w with arrived := x.now, admitted := some y.now } (y.tier tr).waiting = false := by rw [hy]; exact h5
      rw [hp', hb']
      simp [h3]
    rw [if_pos hm, hn]
  have key : x.tierRequest tr { w with arrived := x.now } = (if w.uncharged then x else x.charge tr w.req.part.val w.bytes).perform tr
      { w with arrived := x.now, admitted := some x.now } := by
    unfold State.tierRequest
    have hu' : ({ w with arrived := x.now } : Waiting).uncharged = w.uncharged := rfl
    simp only [hu']
    cases hu : w.uncharged with
    | true =>
      simp only [Bool.not_true, Bool.false_and, Bool.false_eq_true, if_false, if_true]
      exact hb x rfl h4 rfl
    | false =>
      have hh : x.heldBack tr w.req.part.val = false := by
        rcases h2 with h | h
        · rw [hu] at h; cases h
        · exact h
      simp only [hh, Bool.and_false, Bool.false_eq_true, if_false]
      exact hb _ (charge_waiting _ _ _ _) ((charge_paused _ _ _ _ _).trans h4) (State.charge_now _ _ _ _)
  rcases hr with h | h <;>
  · simp only [h]
    cases ha : w.act <;> · simp only [ht, ha]; rw [← ha]; exact key

theorem perform_clean {x : State} {tr : Tier} {w : Waiting} (he : w.errs = []) (h6 : x.firstLost tr w.req.da w.bytes = none)
    (h7 : x.deadMet tr w.act w.req.da w.bytes = none) :
    x.perform tr w = match w.act with
      | .read => x.answer w 0 0 (x.load w.req.da w.bytes)
      | .write data => (x.store w.req.da data).answer w 0 0 []
      | .atom r => (x.doAtomic w.req.da r).1.answerAtom w (x.doAtomic w.req.da r).2 r.ty.bytes
      | .red op mask data => if w.pkt.isNone then x.doRed w.req.da op mask data else (x.doRed w.req.da op mask data).answer w 0 0 [] := by
  unfold State.perform
  simp only [h6, h7, he, errWords_nil, List.filter_nil]
  simp only [State.judgeWords, List.foldl_nil]
  cases w.act <;> rfl

theorem charge_dead (x : State) (tr : Tier) (p n : Nat) (act : MemAct) (a l : Nat) :
    (x.charge tr p n).deadMet tr act a l = x.deadMet tr act a l := by cases tr <;> rfl

theorem request_done {u : State} {tr : Tier} {w : Waiting} (ht : tierOf w.req.da = some tr) (he : w.errs = [])
    (hg : (u.atSlices w).GoesAtOnce tr w) :
    let y := if w.uncharged then u.atSlices w else (u.atSlices w).charge tr w.req.part.val w.bytes
    let v : Waiting := { w with arrived := (u.atSlices w).now, admitted := some (u.atSlices w).now }
    u.request w = match w.act with
      | .read => y.answer v 0 0 (y.load w.req.da w.bytes)
      | .write data => (y.store w.req.da data).answer v 0 0 []
      | .atom r => (y.doAtomic w.req.da r).1.answerAtom v (y.doAtomic w.req.da r).2 r.ty.bytes
      | .red op mask data => if w.pkt.isNone then y.doRed w.req.da op mask data else (y.doRed w.req.da op mask data).answer v 0 0 [] := by
  intro y v
  rw [request_goes ht hg]
  have h6 : y.firstLost tr w.req.da w.bytes = none := by
    simp only [y]; split
    · exact hg.2.2.2.2.2.1
    · rw [charge_lost]; exact hg.2.2.2.2.2.1
  have h7 : y.deadMet tr w.act w.req.da w.bytes = none := by
    simp only [y]; split
    · exact hg.2.2.2.2.2.2
    · rw [charge_dead]; exact hg.2.2.2.2.2.2
  exact perform_clean (w := v) he h6 h7

theorem turn_same (x : State) (tr : Tier) (w : Waiting) :
    let y := if w.uncharged then x else x.charge tr w.req.part.val w.bytes
    y.SameBlocks x ∧ y.mem = x.mem ∧ y.outbox = x.outbox := by
  intro y
  simp only [y]
  split
  · exact ⟨⟨rfl, rfl, rfl, rfl, rfl, rfl, rfl, rfl⟩, rfl, rfl⟩
  · exact ⟨(charge_blocks _ _ _ _).1, (charge_blocks _ _ _ _).2.1, (charge_blocks _ _ _ _).2.2.1⟩

theorem tierReg_in (tr : Tier) (p c : Nat) : tr.reg p c = p ∨ tr.reg p c = c := by cases tr; exact .inl rfl; exact .inr rfl

/-- The registers after a reset of every block: the latch registers keep their values, every other takes its reset value (R12, R500). -/
theorem resetAll_eq (w : State) (p : PowerSt) : w.resetAll p =
    (latchRegs.foldl (fun (x : State) (a : Nat) => x.wr a (w.rd a)) (freshPower w p)).setFld Reg.pwrStatus 0 0
      (b2n (decide (p.step = .good))) := by
  unfold State.resetAll State.setBit freshPower; rfl

theorem resetAll_regs (w : State) (p : PowerSt) : w.resetAll p = { freshPower w p with regs := (w.resetAll p).regs } := by
  rw [resetAll_eq]
  exact setFld_regs (latch_regs w latchRegs (x := freshPower w p) rfl).1 _ _ _ _

theorem resetAll_rd (w : State) (p : PowerSt) (a : Nat) :
    let kept := fun a : Nat => if a ∈ latchRegs then w.rd a else State.reset.rd a
    (w.resetAll p).rd a = if a = Reg.pwrStatus then putBits (kept a) 0 0 (b2n (decide (p.step = .good))) % 2 ^ 64 else kept a := by
  intro kept
  obtain ⟨-, k2, k3⟩ := latch_regs w latchRegs (x := freshPower w p) rfl
  have hk : ∀ b, kept b = if b ∈ latchRegs then w.rd b else (freshPower w p).rd b := fun b => rfl
  rw [resetAll_eq]
  unfold State.setFld
  rw [State.rd_wr k2, k3, k3, hk]
  split
  · rename_i ha; subst ha; rfl
  · rfl

/-- A register write of either row is the write of its agent in its turn. -/
theorem write_exec {s u : State} {t da width : Nat} {v : BitVec 64} {ag : Agent} (h : s.WritesAt t ag da u) {c : Instr}
    (hc : c ∈ [Instr.registerWrite t da width v ag, .unmappedRegisterAccess t da width (some v) ag]) :
    exec c s = .next (u.writeReg ag da width v.toNat false) := by
  simp only [List.mem_cons, List.not_mem_nil, or_false] at hc
  rcases hc with rfl | rfl
  · show execRegisterWrite t da width v ag s = _
    unfold execRegisterWrite State.writeFrom; rw [State.live_runs ⟨rfl, h.1⟩, h.2]
  · show execUnmappedRegisterAccess t da width (some v) ag s = _
    unfold execUnmappedRegisterAccess State.writeFrom; rw [State.live_runs ⟨rfl, h.1⟩]; dsimp only; rw [h.2]

end Sys2Proof.Machine
end

