-- ==== Sys2Proof/WellFormed.lean ====
section
/-! DEFINITION. Which commands are well formed: the relations between operands that their types do not fix. A command
that is not well formed describes no event of the hardware. -/

namespace Sys2Proof

open Sys2Proof.Machine

/-- A symbol in error is one that differs from the stored symbol. -/
def Machine.SymErr.wf (x : SymErr) : Bool := decide (x.val ≠ 0)

/-- Channels of a tier: 12 stacks of 16 in Pantry, 256 in Cellar (R95). -/
def Machine.Tier.channelCount : Tier → Nat
  | .pantry => 192
  | .cellar => 256

/-- Units of a tier that requests wait on: pseudo-channels of Pantry, channels of Cellar (R82, R95). -/
def Machine.Tier.unitCount : Tier → Nat
  | .pantry => 384
  | .cellar => 256

/-- MAPOUT registers of a tier (R101). -/
def Machine.Tier.mapoutCount : Tier → Nat
  | .pantry => 3
  | .cellar => 4

/-- Every field of a packet fits its place in the header (R405), and the payload is at most 256 bytes. -/
def Machine.Packet.wf (p : Packet) : Bool :=
  decide (p.type < 2 ^ 8) && decide (p.vc < 2 ^ 4) && decide (p.dst < 2 ^ 13) && decide (p.src < 2 ^ 13) && decide (p.hops < 2 ^ 8) &&
    decide (p.op < 2 ^ 8) && decide (p.addr < 2 ^ 64) && decide (p.tag < 2 ^ 24) && decide (p.credCount < 2 ^ 8) &&
    decide (p.len < 2 ^ 16) && decide (p.status < 2 ^ 16) && decide (p.seq < 2 ^ 12) && decide (p.ack < 2 ^ 12) &&
    decide (p.credVc < 2 ^ 4) && decide (p.payload.length ≤ 256)

/-- A reduction enables elements of its data only (R68); `size` is the bytes of an element. -/
def Machine.maskWf (size mask : Nat) (data : List Byte) : Bool := decide (mask < 2 ^ (data.length / size))

/-- A checked controller is one of its tier's channels. -/
def Machine.CheckedUnit.wf : CheckedUnit → Bool
  | .controller tier ch => decide (ch.val < tier.channelCount)
  | _ => true

/-- Each context of an engine is named once. -/
def Machine.uesWf (ues : List (Fin 16 × Fin 262144)) : Bool := decide (ues.map (·.1)).Nodup

/-- Widths of a register access in bytes. -/
def Machine.widthWf (w : Nat) : Bool := decide (w ∈ [1, 2, 4, 8])

/-- The well-formed commands. -/
def Instr.wf : Instr → Bool
  | .tickBoundary .. => true
  | .tckEnable .. => true
  | .tckSrcChange .. => true
  | .realign .. => true
  | .planSwap .. => true
  | .planActivate .. => true
  | .tckPhaseSkip .. => true
  | .phaseStart .. => true
  | .budgetEnd .. => true
  | .deadline .. => true
  | .sourceLost .. => true
  | .holdoverLimitExpiry .. => true
  | .sourceReturn .. => true
  | .backgroundAdmit _ _ engines => decide engines.Nodup
  | .tickOutEnd .. => true
  | .memRead _ r errs _ => decide (0 < r.len) && errs.all SymErr.wf
  | .memWrite _ r data errs _ => decide (0 < r.len) && decide (data.length = r.len) && errs.all SymErr.wf
  | .larderFill _ _ _ errs => errs.all SymErr.wf
  | .atomicFadd .. => true
  | .atomicMin .. => true
  | .atomicMax .. => true
  | .atomicAnd .. => true
  | .atomicOr .. => true
  | .atomicXor .. => true
  | .atomicSwap .. => true
  | .atomicCas .. => true
  | .atomicCnt2 .. => true
  | .redAddFp32 _ _ _ mask data => maskWf 4 mask data
  | .redAddBf16 _ _ _ mask data => maskWf 2 mask data
  | .redAddInt32 _ _ _ mask data => maskWf 4 mask data
  | .redMaxFp32 _ _ _ mask data => maskWf 4 mask data
  | .redMinFp32 _ _ _ mask data => maskWf 4 mask data
  | .regulatorRefill .. => true
  | .memTimeout .. => true
  | .channelFail _ tier ch _ => decide (ch.val < tier.channelCount)
  | .scrubGranule _ _ _ errs _ => errs.all SymErr.wf
  | .scrubFloorEnd .. => true
  | .shelfLarderScrub .. => true
  | .forcedCalibration _ tier ch => decide (ch.val < tier.channelCount)
  | .calibrationEnd _ tier ch => decide (ch.val < tier.channelCount)
  | .mapCommit .. => true
  | .mapDone .. => true
  | .mapoutWrite _ tier ix _ _ => decide (ix.val < tier.mapoutCount)
  | .tileWriteback .. => true
  | .residueCheckFail .. => true
  | .injResidue .. => true
  | .injParity .. => true
  | .holdExpiry .. => true
  | .rampStep .. => true
  | .dutyStep .. => true
  | .srSeedWrite .. => true
  | .pwlUserWrite .. => true
  | .holdCtrlWrite .. => true
  | .watchNotify .. => true
  | .descriptorFetch .. => true
  | .mma .. => true
  | .mmaBwdX .. => true
  | .mmaBwdW .. => true
  | .conv .. => true
  | .maxpool .. => true
  | .convFused .. => true
  | .attn .. => true
  | .attnBwd .. => true
  | .scanFull .. => true
  | .scanLocal .. => true
  | .scanReverse .. => true
  | .pulse .. => true
  | .norm .. => true
  | .normBwd .. => true
  | .smax .. => true
  | .smaxBwd .. => true
  | .gate .. => true
  | .reduce .. => true
  | .sort .. => true
  | .boxdec .. => true
  | .nms .. => true
  | .gatherRows .. => true
  | .gatherLookup .. => true
  | .scatterAppend .. => true
  | .scatterRelease .. => true
  | .scatterRetain .. => true
  | .scatterInsert .. => true
  | .scatterEvict .. => true
  | .copy .. => true
  | .prefetch .. => true
  | .wait .. => true
  | .waitTimeout .. => true
  | .signalAdd .. => true
  | .signalSet .. => true
  | .signalTrigger .. => true
  | .fence .. => true
  | .callList .. => true
  | .callKeeper .. => true
  | .kemit .. => true
  | .keeperReturn .. => true
  | .keeperTrap .. => true
  | .keeperTimeout .. => true
  | .branchCall .. => true
  | .branchJump .. => true
  | .branchExit .. => true
  | .stepBoundary .. => true
  | .macroOpCommit .. => true
  | .triggerAccept .. => true
  | .queueEnable .. => true
  | .queueDisable .. => true
  | .resume .. => true
  | .abort .. => true
  | .reset .. => true
  | .imemSwap .. => true
  | .imemWinWrite .. => true
  | .loaderCheck .. => true
  | .ethFrameRx .. => true
  | .sync .. => true
  | .followUp .. => true
  | .delayResp .. => true
  | .announce .. => true
  | .delayReq .. => true
  | .dataFrame .. => true
  | .cfgFrame .. => true
  | .headerFrame .. => true
  | .commandFrame .. => true
  | .pulseTriggerPresent .. => true
  | .rtpPacket .. => true
  | .pictureHandover .. => true
  | .pictureDecodeStart .. => true
  | .pictureDecodeEnd .. => true
  | .pictureWatchdog .. => true
  | .alignerSample .. => true
  | .windowCutoff .. => true
  | .cfgSwap .. => true
  | .ingestCfgActivate .. => true
  | .vdcRelease .. => true
  | .vdcRearm .. => true
  | .publishEntry .. => true
  | .contextCreate .. => true
  | .contextDelete .. => true
  | .contextAbort .. => true
  | .evict .. => true
  | .partitionAbort .. => true
  | .contextSwitchIn .. => true
  | .contextSwap .. => true
  | .contextSwapIn .. => true
  | .remoteResponse _ _ _ data => decide (data.length ≤ 256)
  | .remoteTagTimeout .. => true
  | .jobPlace .. => true
  | .selftestLead .. => true
  | .selftestSlotStart _ _ ues => uesWf ues
  | .selftestStart .. => true
  | .selftestEnd _ _ _ ues => uesWf ues
  | .selftestAbandon .. => true
  | .standinPrepare .. => true
  | .standinHandover .. => true
  | .standinFifoDrained _ _ ues => uesWf ues
  | .standinWrite .. => true
  | .get _ _ p => p.wf
  | .put _ _ p => p.wf
  | .atomic _ _ p => p.wf
  | .red _ _ p => p.wf
  | .getRsp _ _ p => p.wf
  | .ack _ _ p => p.wf
  | .atomicRsp _ _ p => p.wf
  | .fabricTick _ _ p => p.wf
  | .idle _ _ p => p.wf
  | .hello .. => true
  | .nak _ _ p => p.wf
  | .laneRemove .. => true
  | .linkRetrainDone .. => true
  | .retrain .. => true
  | .ktfEnable .. => true
  | .dataS _ p => p.wf
  | .dataE _ p => p.wf
  | .wrAck _ p => p.wf
  | .snpInv _ p => p.wf
  | .snpShared _ p => p.wf
  | .inbRd _ p => p.wf
  | .inbWr _ p => p.wf
  | .inbAtomic _ p => p.wf
  | .atticTimeout .. => true
  | .sensorSample _ readings => decide (readings.length = 128)
  | .thermalCapStep .. => true
  | .droop .. => true
  | .droopRecover .. => true
  | .undervolt .. => true
  | .overcap .. => true
  | .procMonitorSample .. => true
  | .unitOutOfService _ u _ _ _ => u.wf
  | .stReqEngine .. => true
  | .stReqSensors .. => true
  | .stReqCalPantry .. => true
  | .stReqCalCellar .. => true
  | .fullRate .. => true
  | .fullrateExpired .. => true
  | .lockstepMismatch .. => true
  | .stewardFailover .. => true
  | .fltInject .. => true
  | .fltRingHeadWrite .. => true
  | .alertStatusClear .. => true
  | .telemetryRecord .. => true
  | .norLogProgram .. => true
  | .norOpDone .. => true
  | .internalResetRelease .. => true
  | .norDiscovery .. => true
  | .slotVerify .. => true
  | .tierTrain _ tier chs lanes => chs.all (fun ch => decide (ch.val < tier.channelCount)) && (lanes.isEmpty || decide (tier = .pantry))
  | .bootEngineTest _ bad => decide (bad.map (·.1)).Nodup && bad.all fun x => decide (x.2 ≠ 0)
  | .recordApply .. => true
  | .svnCommit .. => true
  | .revoke .. => true
  | .otpKeyProgram .. => true
  | .attestGo .. => true
  | .treeBegin .. => true
  | .norRead .. => true
  | .norProgram .. => true
  | .norErase .. => true
  | .inputRise .. => true
  | .railGroupUp .. => true
  | .railFail .. => true
  | .inputUv .. => true
  | .inputOv .. => true
  | .orderlyShutdown .. => true
  | .resetAssert .. => true
  | .refclkLost .. => true
  | .powerCapEval _ _ _ _ _ rails => decide (rails.length = 32)
  | .ppsEdge .. => true
  | .ppsMissing .. => true
  | .setdasa .. => true
  | .sidebandRead .. => true
  | .sidebandWrite .. => true
  | .registerWrite _ _ width _ _ => widthWf width
  | .unmappedRegisterAccess _ _ width _ _ => widthWf width
  | .bankRefresh _ tier unit _ => decide (unit.val < tier.unitCount)
  | .inputCapacitanceCharged .. => true
  | .inputLow .. => true
  | .inputHigh .. => true
  | .announceReceiptTimeout .. => true
  | .packetCrcFail .. => true
  | .attestTokenRefill .. => true
  | .norLogTokenRefill .. => true

end Sys2Proof
end

