-- ==== Sys2Proof/Tests/Slice0.lean ====
section
/-! SUPPORT. Tests: the checks of WellFormed refuse an ill-formed command each, values the manual writes out, and a concrete state for
the hypotheses of every statement. -/

set_option linter.unusedVariables false

namespace Sys2Proof.Tests

-- A kernel evaluation waits for every earlier theorem's check; elaborated one after another, the tests do not each hold a thread meanwhile.
set_option Elab.async false

open Sys2Proof.Machine

/-! ### WellFormed refuses -/

/-- A packet whose SEQ does not fit its field. -/
def wideSeq : Packet := { seq := 4096 }

theorem test_wf_memRead_empty : Instr.wf (.memRead 0 ⟨0, .steward, 0, 0, 0⟩ [] false) = false := by decide
theorem test_wf_memRead_same_symbol : Instr.wf (.memRead 0 ⟨0, .steward, 0, 0, 64⟩ [⟨0, 0, 0⟩] false) = false := by decide
theorem test_wf_memWrite_empty : Instr.wf (.memWrite 0 ⟨0, .steward, 0, 0, 0⟩ [] [] false) = false := by decide
theorem test_wf_memWrite_length : Instr.wf (.memWrite 0 ⟨0, .steward, 0, 0, 2⟩ [1] [] false) = false := by decide
theorem test_wf_memWrite_same_symbol : Instr.wf (.memWrite 0 ⟨0, .steward, 0, 0, 1⟩ [1] [⟨0, 0, 0⟩] false) = false := by decide
theorem test_wf_larderFill : Instr.wf (.larderFill 0 0 0 [⟨0, 0, 0⟩]) = false := by decide
theorem test_wf_scrubGranule : Instr.wf (.scrubGranule 0 .pantry 0 [⟨0, 0, 0⟩] false) = false := by decide
theorem test_wf_redAddFp32_mask : Instr.wf (.redAddFp32 0 .steward 0 2 [0, 0, 0, 0]) = false := by decide
theorem test_wf_redAddInt32_mask : Instr.wf (.redAddInt32 0 .steward 0 2 [0, 0, 0, 0]) = false := by decide
theorem test_wf_redMaxFp32_mask : Instr.wf (.redMaxFp32 0 .steward 0 2 [0, 0, 0, 0]) = false := by decide
theorem test_wf_redMinFp32_mask : Instr.wf (.redMinFp32 0 .steward 0 2 [0, 0, 0, 0]) = false := by decide
theorem test_wf_redAddBf16_mask : Instr.wf (.redAddBf16 0 .steward 0 4 [0, 0, 0, 0]) = false := by decide
theorem test_wf_channelFail : Instr.wf (.channelFail 0 .pantry 192 false) = false := by decide
theorem test_wf_forcedCalibration : Instr.wf (.forcedCalibration 0 .pantry 192) = false := by decide
theorem test_wf_calibrationEnd : Instr.wf (.calibrationEnd 0 .pantry 192) = false := by decide
theorem test_wf_bankRefresh : Instr.wf (.bankRefresh 0 .cellar 256 1) = false := by decide
theorem test_wf_mapoutWrite : Instr.wf (.mapoutWrite 0 .pantry 3 0 .steward) = false := by decide
theorem test_wf_backgroundAdmit : Instr.wf (.backgroundAdmit 0 1 [5, 5]) = false := by decide
theorem test_wf_companion_packets :
    [Instr.dataS 0 wideSeq, .dataE 0 wideSeq, .wrAck 0 wideSeq, .snpInv 0 wideSeq, .snpShared 0 wideSeq, .inbRd 0 wideSeq, .inbWr 0 wideSeq,
      .inbAtomic 0 wideSeq].all (fun c => !c.wf) = true := by decide
theorem test_wf_fabric_packets :
    [Instr.get 0 0 wideSeq, .put 0 0 wideSeq, .atomic 0 0 wideSeq, .red 0 0 wideSeq, .getRsp 0 0 wideSeq, .ack 0 0 wideSeq,
      .atomicRsp 0 0 wideSeq, .fabricTick 0 0 wideSeq, .idle 0 0 wideSeq, .nak 0 0 wideSeq].all (fun c => !c.wf) = true := by decide
/-- Each field of the header is checked. -/
theorem test_wf_packet_fields :
    [({ type := 256 } : Packet), { vc := 16 }, { dst := 8192 }, { src := 8192 }, { hops := 256 }, { op := 256 }, { addr := 2 ^ 64 }, { tag := 2 ^ 24 },
      { credCount := 256 }, { len := 65536 }, { status := 65536 }, { ack := 4096 }, { credVc := 16 }].all (fun p => !p.wf) = true := by decide
theorem test_wf_packet_payload (l : List Byte) (h : 256 < l.length) : ({ payload := l } : Packet).wf = false := by
  simp [Packet.wf, h]
theorem test_wf_remoteResponse (l : List Byte) (h : 256 < l.length) : Instr.wf (.remoteResponse 0 0 0 l) = false := by
  simp [Instr.wf, h]
theorem test_wf_selftestSlotStart : Instr.wf (.selftestSlotStart 0 0 [(1, 0), (1, 64)]) = false := by decide
theorem test_wf_selftestEnd : Instr.wf (.selftestEnd 0 0 0 [(1, 0), (1, 64)]) = false := by decide
theorem test_wf_standinFifoDrained : Instr.wf (.standinFifoDrained 0 0 [(1, 0), (1, 64)]) = false := by decide
theorem test_wf_sensorSample : Instr.wf (.sensorSample 0 [0]) = false := by decide
theorem test_wf_unitOutOfService : Instr.wf (.unitOutOfService 0 (.controller .pantry 192) 0 0 0) = false := by decide
theorem test_wf_registerWrite : Instr.wf (.registerWrite 0 0 3 0 .steward) = false := by decide
theorem test_wf_unmappedRegisterAccess : Instr.wf (.unmappedRegisterAccess 0 0 0 none .steward) = false := by decide
theorem test_wf_tierTrain_channel : Instr.wf (.tierTrain 0 .pantry [192] []) = false := by decide
theorem test_wf_tierTrain_lanes : Instr.wf (.tierTrain 0 .cellar [] [(0, 0, 0)]) = false := by decide
theorem test_wf_bootEngineTest_twice : Instr.wf (.bootEngineTest 0 [(1, 1), (1, 2)]) = false := by decide
theorem test_wf_bootEngineTest_none : Instr.wf (.bootEngineTest 0 [(1, 0)]) = false := by decide
theorem test_wf_powerCapEval : Instr.wf (.powerCapEval 0 0 0 0 0 []) = false := by decide
theorem test_wf_accepts : Instr.wf (.memWrite 0 ⟨0, .steward, 0, 0, 1⟩ [1] [⟨0, 0, 1⟩] false) = true := by decide

/-- Meets the hypotheses of Obligations.FrontCommandRuns. -/
theorem witness_FrontCommandRuns : State.reset.pending = [] := rfl

/-- Meets the hypotheses of Obligations.StepsKeepTheStateCanonical. -/
theorem witness_StepsKeepTheStateCanonical :
    State.reset.Inv ∧ ∃ r, step (State.reset.pushFront (.sensorSample 0 [])) = .next r := by
  refine ⟨⟨rfl, rfl, rfl, rfl, rfl, rfl, rfl, rfl⟩, _, rfl⟩

/-- Meets the hypotheses of Obligations.RegisterReadsBack. -/
theorem witness_RegisterReadsBack : Registers.wf State.reset.regs := rfl

/-- Meets the hypotheses of Obligations.MemoryReadsBack. -/
theorem witness_MemoryReadsBack : Memory.wf State.reset.mem ∧ (0x100 < atticBase ∨ shelfBase ≤ 0x100) := by decide

/-- Meets the hypotheses of Obligations.TablesReadBack. -/
theorem witness_TablesReadBack : State.reset.Inv := ⟨rfl, rfl, rfl, rfl, rfl, rfl, rfl, rfl⟩

/-- The state in which a write of register a by the Steward, in the cycle in which s stands, has its turn. -/
def inTurn (s : State) (a : Nat) : State := (s.advance s.now).inOrder a Agent.steward.writeRank

/-- The Steward's write of register a has its turn in `inTurn s a`, which has a property. -/
abbrev writes (s : State) (a : Nat) (p : State → Bool) : Prop :=
  s.WritesAt s.now .steward a (inTurn s a) ∧ (inTurn s a).mayWrite .steward a = true ∧ p (inTurn s a) = true

/-- Meets the hypotheses of Obligations.EngineDatapathRegisterWrites. -/
theorem witness_EngineDatapathRegisterWrites :
    writes State.reset (Reg.engDpCtrl 0) (fun _ => true) ∧ writes State.reset (Reg.engSrSeed 95) (fun _ => true) ∧
    writes State.reset (Reg.engHoldCtrl 0) (fun u => !u.holding 0) ∧
    (bits (0x10000001#64).toNat 1 0 ≠ 3 ∧ 64 ≤ bits (0x400001#64).toNat 28 16 ∧ bits (0x10000001#64).toNat 28 16 ≤ 4096) := by
  decide

/-- Meets the hypotheses of Obligations.UserTableAndBankWrites. -/
theorem witness_UserTableAndBankWrites :
    writes State.reset (Reg.engPwlUser 0 31) (fun u => !u.userBusy 0) ∧
    writes State.reset (Reg.engPwlUserCfg 0) (fun u => !u.userBusy 0 && decide (bits (32#64).toNat 5 0 ≤ 32)) ∧
    writes State.reset (Reg.engImemSwap 0) (fun _ => true) ∧
    writes State.reset (Reg.engImemWin 0 4095)
      (fun u => decide (u.fld (Reg.engImemSel 0) 0 0 ≠ (u.eng 0).activeBank) && !(u.eng 0).swapPending) := by decide

/-- Meets the hypotheses of Obligations.UserTableAndBankWrites. -/
theorem witness_UserTableInUse :
    writes (State.reset.setQueue 0 0 { ops := [{ desc := [Op.gate * 2 ^ 32, 0, 5 * 2 ^ 16] }] }) (Reg.engPwlUser 0 0)
      (fun u => u.userBusy 0) := by decide

/-- Meets the hypotheses of Obligations.UserTableAndBankWrites. -/
theorem witness_BankActive :
    writes (State.reset.setEng 0 { swapPending := true }) (Reg.engImemWin 0 0) (fun u => (u.eng 0).swapPending) := by decide

/-- Meets the hypotheses of Obligations.QueueEnableAndDisable. -/
theorem witness_QueueEnableAndDisable :
    let m := putBits 0x100040402 0 0 1 &&& 0xFF0F1F1F07
    writes State.reset (Reg.engQCfg 0 3) (fun u => decide ((u.queue 0 3).state = .disabled) && u.ringsAligned 0 3 m) ∧
    qCfgBad (putBits 0x100040402 0 0 1) = false ∧ bit m 0 = true := by decide

/-- Meets the hypotheses of Obligations.QueueEnableAndDisable. -/
theorem witness_QueueDisable :
    let m := putBits 0x100040401 0 0 0 &&& 0xFF0F1F1F07
    writes ((State.reset.wr (Reg.engQCfg 0 0) 0x100040401).setQueue 0 0 { state := .idle }) (Reg.engQCfg 0 0)
      (fun u => decide ((u.queue 0 0).state ≠ .disabled) && bit (u.rd (Reg.engQCfg 0 0)) 0 &&
        decide (m = putBits (u.rd (Reg.engQCfg 0 0)) 0 0 0)) ∧
    qCfgBad (putBits 0x100040401 0 0 0) = false := by decide

/-- Meets the hypotheses of Obligations.QueueEnableAndDisable. -/
theorem witness_MisalignedRing :
    writes (State.reset.wr (Reg.engQBase 0 0) 64) (Reg.engQCfg 0 0)
      (fun u => decide ((u.queue 0 0).state = .disabled) && !u.ringsAligned 0 0 (putBits 0x100040402 0 0 1 &&& 0xFF0F1F1F07)) := by decide

/-- Meets the hypotheses of Obligations.QueueControlWrites. -/
theorem witness_QueueControlWrites :
    let at' := fun (x : QueueSt) => writes (State.reset.setQueue 0 0 x) (Reg.engQCtrl 0 0)
    at' { state := .halted } (fun u => decide ((u.queue 0 0).state = .halted)) ∧
    at' { state := .running, ops := [{ desc := [] }] } (fun u => decide ((u.queue 0 0).state = .running) && decide ((u.queue 0 0).ops ≠ [])) ∧
    at' { state := .idle } (fun u => decide ((u.queue 0 0).state = .idle) && decide ((u.queue 0 0).ops = [])) ∧
    writes State.reset (Reg.engQCtrl 0 0) (fun u => decide ((u.queue 0 0).state = .disabled)) := by
  refine ⟨?_, ?_, ?_, ?_⟩ <;> decide

/-- A tick in progress, m µs after its boundary, whose phase 0 has this class, flags, name and state. -/
def phaseAt (m c fl nm : Nat) (st : PhState) : State :=
  { State.reset with now := us m, tick := { on := true, placed := true, plan := some { period := 2000, phases := [
      { cls := c, name := nm, flags := fl, start := 10, budget := 90, allow := 100 }] }, runs := [{ state := st }] } }

/-- Meets the hypotheses of Obligations.TickControlWrites. -/
theorem witness_TickControlWrites :
    let p : State := { State.reset with tick := { plan := some {} } }
    let o : State := { State.reset with tick := { on := true, plan := some {} } }
    writes State.reset Reg.tckCtrl (fun u => decide (bits (putBits (u.rd Reg.tckCtrl) 0 0 1) 2 1 ≠ 3) &&
      decide (bits (putBits (u.rd Reg.tckCtrl) 2 1 2) 2 1 ≠ 3) && decide (bits (u.rd Reg.tckCtrl + 64) 2 1 ≠ 3) &&
      decide (bits (u.rd Reg.tckCtrl + 32) 2 1 ≠ 3)) ∧
    State.reset.tick.plan = none ∧ State.reset.tick.on = false ∧ p.tick.plan ≠ none ∧ p.tick.on = false ∧
    o.tick.plan ≠ none ∧ o.tick.on = true ∧ bits 5 2 1 ≠ o.fld Reg.tckCtrl 2 1 ∧ bits 65 2 1 = o.fld Reg.tckCtrl 2 1 ∧
    bit 5 5 = false ∧ bit 5 6 = false ∧ bit 65 6 = true ∧ bit 32 5 = true := by decide

/-- Meets the hypotheses of Obligations.PhaseSkipEndsUnstartedPhases. -/
theorem witness_PhaseSkip :
    let u : State := { State.reset with tick := { on := true, placed := true, runs := List.replicate 16 { state := .idle } } }
    writes u Reg.tckPhaseSkip (fun u => decide (15 < u.tick.runs.length) && u.tick.placed && decide ((u.run 15).state = .idle)) ∧
    bit (0x8000#64).toNat 15 = true ∧ bit (0x8000#64).toNat 0 = false := by decide

/-- Meets the hypotheses of Obligations.PhaseSkipEndsUnstartedPhases. -/
theorem witness_PhaseSkipStarted :
    writes { State.reset with tick := { on := true, placed := true, runs := List.replicate 16 { state := .running } } } Reg.tckPhaseSkip
      (fun u => decide ((u.run 15).state ≠ .idle) && decide ((u.run 15).state ≠ .waiting)) := by decide

/-- Where a phase event of rank n in the cycle of s stands, once the tick plan's earlier work of the cycle is done. -/
def phaseTurn (s : State) (n : Nat) : State :=
  let x := ((s.advance s.now).inOrder tickPlace n).fallDue
  if n = 2 then x.deadlinesDue 0 else if n = 3 then x.deadlinesDue 16 else (x.deadlinesDue 16).budgetsDue

/-- Meets the hypotheses of Obligations.PhaseEventsTakeEffect. -/
theorem witness_PhaseStart :
    let u := phaseTurn (phaseAt 20 1 0 0 .idle) 4
    let p : Plan := { period := 2000, phases := [{ cls := 1, pred := 2, start := 10, budget := 90, allow := 100 }] }
    let o := phaseAt 20 1 0 0 .idle
    let w := phaseTurn { o with tick := { o.tick with plan := some p } } 4
    ((phaseAt 20 1 0 0 .idle).advance (us 20)).stopped = false ∧ u.startDue 0 u.now = true ∧ u.mayStart 0 = true ∧
    w.startDue 0 w.now = true ∧ w.mayStart 0 = false := by decide +kernel

/-- Meets the hypotheses of Obligations.PhaseEventsTakeEffect. -/
theorem witness_BudgetEnd :
    let u := phaseTurn (phaseAt 100 1 0 0 .running) 3
    let e := phaseTurn (phaseAt 100 2 0 0 .running) 3
    let i := phaseTurn (phaseAt 100 2 0 0 .waiting) 3
    ((phaseAt 100 1 0 0 .running).advance (us 100)).stopped = false ∧
    u.budgetDue 0 u.now = true ∧ (u.phaseDef 0).cls = 1 ∧ (u.run 0).state = .running ∧
    e.budgetDue 0 e.now = true ∧ (e.phaseDef 0).cls = 2 ∧ (e.run 0).state = .running ∧
    i.budgetDue 0 i.now = true ∧ (i.run 0).state = .waiting := by decide

/-- Meets the hypotheses of Obligations.PhaseEventsTakeEffect. -/
theorem witness_Deadline :
    let n := phaseTurn (phaseAt 200 1 0 0 .idle) 2
    let f := phaseTurn (phaseAt 200 1 1 0 .overrun) 2
    let a := phaseTurn (phaseAt 200 1 0 0 .running) 2
    let o := phaseAt 2200 1 1 0 .late
    let l := phaseTurn { o with tick := { o.tick with boundary := us 2000 } } 2
    ((phaseAt 200 1 0 0 .idle).advance (us 200)).stopped = false ∧
    n.deadlineDue 0 n.now = true ∧ (n.run 0).state = .idle ∧ f.deadlineDue 0 f.now = true ∧ (f.run 0).state = .overrun ∧
    (f.run 0).ending = false ∧ bit (f.phaseDef 0).flags 0 = true ∧ a.deadlineDue 0 a.now = true ∧ (a.run 0).state = .running ∧
    bit (a.phaseDef 0).flags 0 = false ∧ a.phaseOps 0 = [] ∧ l.deadlineDue 0 l.now = true ∧ (l.run 0).state = .late ∧
    (l.run 0).missed = false := by decide

/-- A tensor-table entry for tests: BASE, ROWS, COLS, FORMAT with the flag bits above it, and ROW_STRIDE. -/
def entryBytes (base rows cols fl stride : Nat) : List Byte :=
  leBytes 8 base ++ leBytes 8 (rows + cols * 2 ^ 24 + fl * 2 ^ 48) ++ leBytes 8 stride ++ leBytes 8 0

/-- A state for tests of issue: queue 0 of engine e is the slot of a resident context whose next entry is d, the context may use all
of Pantry, and its tensor table holds ts. -/
def issuingOn (e : Nat) (d : List Nat) (ts : List (List Byte)) : State :=
  let s : State := { State.reset with parts := [(0, { clients := 0, regions := [(0, 2 ^ 40)] })] }
  let s := (s.wr Reg.pntStatus 2).wr Reg.pntCap (2 ^ 36)
  let s := s.setCtx e 0 { cfg := 1 + 2 ^ 14, place := .resident, slot := 0, blocked := false }
  let s := s.setQueue e 0 { state := .running, fetched := [{ desc := d }] }
  s.kstore e 0x4000 ts.flatten

/-- The same with three row-layout Shelf tensors of one row of 32 FP32, at blocks 1, 2 and 3. -/
def issuing (e : Nat) (d : List Nat) : State :=
  issuingOn e d ((List.range 3).map fun i => entryBytes (4096 * (i + 1)) 1 32 0x10 128)

/-- Meets the hypotheses of Obligations.WaitAndFenceIssue. -/
theorem witness_WaitIssues :
    let d := [Op.wait * 2 ^ 32, 0xFFFFFFFF, 0, 0x40, 1, 0, 0, 0]
    let u := issuing 0 d
    let site : Site := ⟨0, 0, 0, 0⟩
    u.RunsAt 0 u ∧ u.issuable 0 0 (fun d => decide (d.op = Op.wait)) = some (site, { desc := d }) ∧
    descCommonBad d = false ∧ descClassBad 0 d = false ∧ Desc.chain d = false ∧ regionOf (Desc.arg d 0) = .pantry ∧
    (u.issued 0 0 site { desc := d }).readsFault 0 [(Desc.arg d 0, 8)] = none := by decide

/-- Meets the hypotheses of Obligations.WaitAndFenceIssue. -/
theorem witness_WaitOnShelf :
    let d := [Op.wait * 2 ^ 32, 0xFFFFFFFF, 0, shelfBase, 1, 0, 0, 0]
    let u := issuing 0 d
    u.issuable 0 0 (fun d => decide (d.op = Op.wait)) = some (⟨0, 0, 0, 0⟩, { desc := d }) ∧
    regionOf (Desc.arg d 0) ≠ .pantry ∧ regionOf (Desc.arg d 0) ≠ .cellar ∧ regionOf (Desc.arg d 0) ≠ .attic := by decide

/-- Meets the hypotheses of Obligations.WaitAndFenceIssue. -/
theorem witness_FenceIssues :
    let d := [Op.fence * 2 ^ 32, 0xFFFFFFFF, 0, 0, 0, 0, 0, 0]
    let u := issuing 0 d
    u.issuable 0 0 (fun d => decide (d.op = Op.fence)) = some (⟨0, 0, 0, 0⟩, { desc := d }) ∧
    descCommonBad d = false ∧ descClassBad 0 d = false ∧ Desc.chain d = false := by decide

/-- Meets the hypotheses of Obligations.WaitAndFenceIssue. -/
theorem witness_WaitTimesOut :
    let w : OpenOp := { desc := [Op.wait * 2 ^ 32, 0, 2 ^ 20, 0x40, 1, 0, 0, 0] }
    let u : State := { State.reset.setQueue 0 0 { state := .waiting, ops := [w] } with now := 1100 }
    u.RunsAt 1100 u ∧ (u.queue 0 0).ops = [w] ∧ Desc.op w.desc = Op.wait ∧ Desc.opx w.desc 39 20 ≠ 0 ∧
    w.issuedAt + us (Desc.opx w.desc 39 20) ≤ u.now := by decide

/-- Meets the hypotheses of Obligations.SignalsIssue. -/
theorem witness_SignalAdd :
    let d := [Op.signal * 2 ^ 32, 0xFFFFFFFF, 0, 0x40, 5, 0, 0, 0]
    let u := issuing 0 d
    let site : Site := ⟨0, 0, 0, 0⟩
    let x := u.issued 0 0 site { desc := d }
    u.RunsAt 0 u ∧ u.issuable 0 0 (fun d => decide (d.op = Op.signal) && decide (d.opx 17 16 = 0)) = some (site, { desc := d }) ∧
    descCommonBad d = false ∧ descClassBad 0 d = false ∧ Desc.chain d = false ∧ isRemote 0x40 = false ∧
    x.atomFault 0x40 8 (decide (0x40 % 8 = 0)) = none ∧ x.opReadFault 0 0x40 8 = none ∧ regionOf 0x40 ≠ .attic := by decide

/-- Meets the hypotheses of Obligations.SignalsIssue. -/
theorem witness_SignalSet :
    let d := [Op.signal * 2 ^ 32, 0xFFFFFFFF, 2 ^ 16, 0x40, 5, 0, 0, 0]
    let u := issuing 0 d
    u.issuable 0 0 (fun d => decide (d.op = Op.signal) && decide (d.opx 17 16 = 1)) = some (⟨0, 0, 0, 0⟩, { desc := d }) ∧
    descCommonBad d = false ∧ descClassBad 0 d = false ∧ Desc.chain d = false := by decide

/-- Meets the hypotheses of Obligations.SignalsIssue. -/
theorem witness_SignalRemote :
    let d := [Op.signal * 2 ^ 32, 0xFFFFFFFF, 2 ^ 16, 2 ^ 63 + 0x40, 5, 0, 0, 0]
    let u := issuing 0 d
    u.issuable 0 0 (fun d => decide (d.op = Op.signal) && decide (d.opx 17 16 = 1)) = some (⟨0, 0, 0, 0⟩, { desc := d }) ∧
    isRemote (Desc.arg d 0) = true ∧ remoteBad (Desc.arg d 0) = false := by decide

/-- Meets the hypotheses of Obligations.SignalsIssue. -/
theorem witness_SignalAttic :
    let d := [Op.signal * 2 ^ 32, 0xFFFFFFFF, 0, atticBase, 5, 0, 0, 0]
    let u := (issuing 0 d).wr Reg.atcCtrl 1 |>.wr Reg.atcWinSize (2 ^ 30) |>.setSector 0 { st := .e }
    let x := u.issued 0 0 ⟨0, 0, 0, 0⟩ { desc := d }
    u.issuable 0 0 (fun d => decide (d.op = Op.signal) && decide (d.opx 17 16 = 0)) = some (⟨0, 0, 0, 0⟩, { desc := d }) ∧
    isRemote atticBase = false ∧ x.atomFault atticBase 8 (decide (atticBase % 8 = 0)) = none ∧ x.opReadFault 0 atticBase 8 = none ∧
    regionOf atticBase = .attic ∧ x.ownsSectors atticBase 8 = true := by decide

/-- Meets the hypotheses of Obligations.SignalsIssue. -/
theorem witness_SignalTrigger :
    let d := fun a : Nat => [Op.signal * 2 ^ 32, 0xFFFFFFFF, 2 * 2 ^ 16, a, 7, 0, 0, 0]
    (issuing 0 (d 95)).issuable 0 0 (fun d => decide (d.op = Op.signal) && decide (d.opx 17 16 = 2)) =
      some (⟨0, 0, 0, 0⟩, { desc := d 95 }) ∧ bits 95 6 0 < 96 ∧ descCommonBad (d 95) = false ∧ Desc.chain (d 95) = false ∧
    (issuing 0 (d 96)).issuable 0 0 (fun d => decide (d.op = Op.signal) && decide (d.opx 17 16 = 2)) =
      some (⟨0, 0, 0, 0⟩, { desc := d 96 }) ∧ 96 ≤ bits 96 6 0 := by decide

/-- Meets the hypotheses of Obligations.CallsAndBranchesIssue. -/
theorem witness_CallList :
    let d := fun a n : Nat => [Op.call * 2 ^ 32, 0xFFFFFFFF, 0, a, n, 0, 0, 0]
    let is := fun d : Desc => decide (d.op = Op.call) && decide (d.opx 17 16 = 0)
    let deep := (issuing 0 (d 64 1)).setQueue 0 0 { state := .running, fetched := [{ desc := d 64 1 }], stack := [{}, {}, {}, {}] }
    (issuing 0 (d 64 65535)).RunsAt 0 (issuing 0 (d 64 65535)) ∧
    (issuing 0 (d 64 65535)).issuable 0 0 is = some (⟨0, 0, 0, 0⟩, { desc := d 64 65535 }) ∧ descCommonBad (d 64 65535) = false ∧
    descClassBad 0 (d 64 65535) = false ∧ Desc.chain (d 64 65535) = false ∧ 64 % 64 = 0 ∧ bits (Desc.arg (d 64 65535) 1) 15 0 ≠ 0 ∧
    deep.issuable 0 0 is = some (⟨0, 0, 0, 0⟩, { desc := d 64 1 }) ∧
    4 ≤ ((deep.issued 0 0 ⟨0, 0, 0, 0⟩ { desc := d 64 1 }).queue 0 0).stack.length ∧
    (issuing 0 (d 8 1)).issuable 0 0 is = some (⟨0, 0, 0, 0⟩, { desc := d 8 1 }) ∧ ¬(8 % 64 = 0) := by decide

/-- Meets the hypotheses of Obligations.CallsAndBranchesIssue. -/
theorem witness_CallKeeper :
    let d := [Op.call * 2 ^ 32, 0xFFFFFFFF, 2 ^ 16 + 2 ^ 21 + 1 * 2 ^ 48, 1, 2, 3, 4, 5]
    let u := issuing 1 d
    u.issuable 1 0 (fun d => decide (d.op = Op.call) && decide (d.opx 17 16 = 1)) = some (⟨1, 0, 0, 0⟩, { desc := d }) ∧
    descCommonBad d = false ∧ descClassBad 1 d = false ∧ Desc.chain d = false ∧ (u.eng 1).routine = none ∧ Desc.opx d 19 18 = 0 ∧
    Desc.opx d 34 20 % 2 = 0 ∧ Desc.opx d 63 48 ≠ 0 := by decide

/-- Meets the hypotheses of Obligations.CallsAndBranchesIssue. -/
theorem witness_Branch :
    let d := fun k c : Nat => [Op.branch * 2 ^ 32, 0xFFFFFFFF, 2 * 2 ^ 16 + c * 2 ^ 18 + k * 2 ^ 21, 7, 64, 1, 0, 0]
    let is := fun (k : Nat) (d : Desc) => decide (d.op = Op.branch) && decide (d.opx 22 21 = k)
    let at' := fun k c : Nat => (issuing 0 (d k c)).issuable 0 0 (is k) = some (⟨0, 0, 0, 0⟩, { desc := d k c })
    at' 0 3 ∧ at' 0 1 ∧ at' 1 3 ∧ at' 1 1 ∧ at' 2 3 ∧ at' 2 1 ∧ descCommonBad (d 2 4) = false ∧ Desc.chain (d 2 4) = false ∧
    Desc.opx (d 0 4) 17 16 ≠ 3 ∧ Desc.opx (d 0 4) 20 18 ≤ 4 ∧ 64 % 64 = 0 ∧ bits (Desc.arg (d 0 3) 2) 15 0 ≠ 0 ∧
    branchHolds 2 3 ((issuing 0 (d 0 3)).scalar 0 0 0) 7 = true ∧ branchHolds 2 1 ((issuing 0 (d 0 3)).scalar 0 0 0) 7 = false := by
  decide

/-- Meets the hypotheses of Obligations.CallsAndBranchesIssue. -/
theorem witness_BranchCallDeep :
    let d := [Op.branch * 2 ^ 32, 0xFFFFFFFF, 2 * 2 ^ 16 + 3 * 2 ^ 18, 7, 64, 1, 0, 0]
    let deep := (issuing 0 d).setQueue 0 0 { state := .running, fetched := [{ desc := d }], stack := [{}, {}, {}, {}] }
    deep.issuable 0 0 (fun d => decide (d.op = Op.branch) && decide (d.opx 22 21 = 0)) = some (⟨0, 0, 0, 0⟩, { desc := d }) ∧
    4 ≤ ((deep.issued 0 0 ⟨0, 0, 0, 0⟩ { desc := d }).queue 0 0).stack.length := by decide

/-- Meets the hypotheses of Obligations.LaunchChecksClaimsAndCharges. -/
theorem witness_LaunchPasses :
    let d := [Op.smax * 2 ^ 32 + 3 * 2 ^ 48, 0xFFFF * 2 ^ 8 + 2 ^ 24, 0, 0, 0, 0, 0, 0]
    let u := (issuing 0 d).setTags 0 15 []
    let l : Launch := { srcs := [⟨[1], 0, [(shelfDa 0 4096, 128)]⟩], blocks := [2], dst := [(shelfDa 0 8192, 128)] }
    (∀ r ∈ l.srcs.flatMap (·.ranges) ++ l.dst, regionOf r.1 ≠ .remote) ∧ (∀ x ∈ l.srcs, ∀ b ∈ x.blocks, u.tag 0 b = x.gen) ∧ strayShelf 0 (l.srcs.flatMap (·.ranges)) = none ∧
    u.readsFault 0 (l.srcs.flatMap (·.ranges)) = none ∧ (u.setTags 0 15 l.blocks).writesFault 0 l.dst = none := by decide

/-- Meets the hypotheses of Obligations.LaunchChecksClaimsAndCharges. -/
theorem witness_LaunchHazard :
    let l : Launch := { srcs := [⟨[1], 0, [(shelfDa 0 4096, 128)]⟩, ⟨[3, 4], 0, [(shelfDa 0 16384, 128)]⟩] }
    let u := State.reset.setTags 0 15 [4]
    (∀ r ∈ l.srcs.flatMap (·.ranges) ++ l.dst, regionOf r.1 ≠ .remote) ∧ strayShelf 0 (l.srcs.flatMap (·.ranges)) = none ∧ u.tag 0 1 = 0 ∧ u.tag 0 3 = 0 ∧ u.tag 0 4 ≠ 0 := by decide

/-- Meets the hypotheses of Obligations.LaunchChecksClaimsAndCharges. -/
theorem witness_LaunchRemote :
    ([(2 ^ 63, 64)].find? fun r : Nat × Nat => decide (regionOf r.1 = .remote)) = some (2 ^ 63, 64) := by decide

/-- Meets the hypotheses of Obligations.LaunchChecksClaimsAndCharges. -/
theorem witness_LaunchStray : strayShelf 0 [(shelfDa 1 0, 64)] = some (shelfDa 1 0) := by decide

/-- Meets the hypotheses of Obligations.LaunchChecksClaimsAndCharges. -/
theorem witness_LaunchUnreadable :
    State.reset.readsFault 0 [(64, 64)] = some ⟨F.addrRange, 64, 0⟩ ∧ regionOf 64 ≠ .attic ∧ strayShelf 0 [(64, 64)] = none ∧
    State.reset.writesFault 0 [(64, 64)] = some ⟨F.addrRange, 64, 0⟩ := by decide

/-- Meets the hypotheses of Obligations.SoftmaxAndNormResults. -/
theorem witness_Smax :
    let d := [Op.smax * 2 ^ 32 + 3 * 2 ^ 48, 0 + 255 * 2 ^ 8 + 255 * 2 ^ 16 + 2 * 2 ^ 24, 0, 1 + 32 * 2 ^ 24, 0, 0x3F800000, 0, 0]
    let u := issuing 0 d
    let site : Site := ⟨0, 0, 0, 0⟩
    let i := u.issued 0 0 site { desc := d }
    let g : Reg2 := ⟨0, 0, 1, 32⟩
    let T := fun n : Nat => (⟨4096 * n, 1, 32, .fp32, true, false, false, 128, 0, 0, 0⟩ : Tensor)
    u.RunsAt 0 u ∧ u.IssuesNext 0 0 (fun d => decide (d.op = Op.smax)) site { desc := d } ∧ rowRegion d = g ∧ rowReserved d 16 = false ∧ Desc.arg d 3 = 0 ∧ Desc.arg d 4 = 0 ∧ Desc.tdB d = 0xFF ∧ Desc.tdC d = 0xFF ∧
    i.LaunchPasses site (Launch.into { srcs := [(T 1).source 0 g (Desc.genA d)], steps := 3 } (T 3) 0 (destRegion (Desc.twrite d) g)) := by decide

/-- Meets the hypotheses of Obligations.SoftmaxAndNormResults. -/
theorem witness_SmaxOperands :
    let d := [Op.smax * 2 ^ 32 + 3 * 2 ^ 48, 0 + 255 * 2 ^ 8 + 255 * 2 ^ 16 + 2 * 2 ^ 24, 0, 1 + 32 * 2 ^ 24, 0, 0x3F800000, 0, 0]
    let i := (issuing 0 d).issued 0 0 ⟨0, 0, 0, 0⟩ { desc := d }
    let g : Reg2 := ⟨0, 0, 1, 32⟩
    let T := fun n : Nat => (⟨4096 * n, 1, 32, .fp32, true, false, false, 128, 0, 0, 0⟩ : Tensor)
    i.tensor 0 0 0 = .ok (T 1) ∧ i.tensor 0 0 1 = .ok (T 2) ∧ i.tensor 0 0 2 = .ok (T 3) ∧
    (T 1).holds g = true ∧ (T 1).holds g = true ∧ (T 3).destOk (Desc.twrite d) g = .ok () := by
  exact ⟨rfl, rfl, rfl, rfl, rfl, rfl⟩

/-- Meets the hypotheses of Obligations.SoftmaxAndNormResults. -/
theorem witness_SmaxBwd :
    let d := [Op.smaxBwd * 2 ^ 32 + 3 * 2 ^ 48, 0 + 255 * 2 ^ 8 + 1 * 2 ^ 16 + 2 * 2 ^ 24, 0, 1 + 32 * 2 ^ 24, 0, 0x3F800000, 0, 0]
    let u := issuing 0 d
    let site : Site := ⟨0, 0, 0, 0⟩
    let i := u.issued 0 0 site { desc := d }
    let g : Reg2 := ⟨0, 0, 1, 32⟩
    let T := fun n : Nat => (⟨4096 * n, 1, 32, .fp32, true, false, false, 128, 0, 0, 0⟩ : Tensor)
    u.RunsAt 0 u ∧ u.IssuesNext 0 0 (fun d => decide (d.op = Op.smaxBwd)) site { desc := d } ∧ rowRegion d = g ∧ rowReserved d 16 = false ∧ Desc.arg d 3 = 0 ∧ Desc.arg d 4 = 0 ∧ Desc.tdB d = 0xFF ∧
    i.LaunchPasses site (Launch.into { srcs := [(T 1).source 0 g (Desc.genA d), (T 2).source 0 g (Desc.genC d)], steps := 2 } (T 3) 0 (destRegion (Desc.twrite d) g)) := by decide

/-- Meets the hypotheses of Obligations.SoftmaxAndNormResults. -/
theorem witness_SmaxBwdOperands :
    let d := [Op.smaxBwd * 2 ^ 32 + 3 * 2 ^ 48, 0 + 255 * 2 ^ 8 + 1 * 2 ^ 16 + 2 * 2 ^ 24, 0, 1 + 32 * 2 ^ 24, 0, 0x3F800000, 0, 0]
    let i := (issuing 0 d).issued 0 0 ⟨0, 0, 0, 0⟩ { desc := d }
    let g : Reg2 := ⟨0, 0, 1, 32⟩
    let T := fun n : Nat => (⟨4096 * n, 1, 32, .fp32, true, false, false, 128, 0, 0, 0⟩ : Tensor)
    i.tensor 0 0 0 = .ok (T 1) ∧ i.tensor 0 0 1 = .ok (T 2) ∧ i.tensor 0 0 2 = .ok (T 3) ∧
    (T 1).holds g = true ∧ (T 2).holds g = true ∧ (T 3).destOk (Desc.twrite d) g = .ok () := by
  exact ⟨rfl, rfl, rfl, rfl, rfl, rfl⟩

/-- Meets the hypotheses of Obligations.SoftmaxAndNormResults. -/
theorem witness_Norm :
    let d := [Op.norm * 2 ^ 32 + 3 * 2 ^ 48, 0 + 1 * 2 ^ 8 + 1 * 2 ^ 16 + 2 * 2 ^ 24, 0, 1 + 32 * 2 ^ 24, 0, 0x3F800000, 0, 0]
    let u := issuing 0 d
    let site : Site := ⟨0, 0, 0, 0⟩
    let i := u.issued 0 0 site { desc := d }
    let g : Reg2 := ⟨0, 0, 1, 32⟩
    let T := fun n : Nat => (⟨4096 * n, 1, 32, .fp32, true, false, false, 128, 0, 0, 0⟩ : Tensor)
    u.RunsAt 0 u ∧ u.IssuesNext 0 0 (fun d => decide (d.op = Op.norm)) site { desc := d } ∧ rowRegion d = g ∧ rowReserved d 18 = false ∧ Desc.arg d 3 = 0 ∧ Desc.arg d 4 = 0 ∧
    i.LaunchPasses site (Launch.into { srcs := [(T 1).source 0 g (Desc.genA d), (T 2).source 0 ⟨0, 0, 1, 32⟩ (Desc.genB d), (T 2).source 0 ⟨0, 0, 1, 32⟩ (Desc.genC d)], steps := 3 } (T 3) 0 (destRegion (Desc.twrite d) g)) := by decide

/-- Meets the hypotheses of Obligations.SoftmaxAndNormResults. -/
theorem witness_NormOperands :
    let d := [Op.norm * 2 ^ 32 + 3 * 2 ^ 48, 0 + 1 * 2 ^ 8 + 1 * 2 ^ 16 + 2 * 2 ^ 24, 0, 1 + 32 * 2 ^ 24, 0, 0x3F800000, 0, 0]
    let i := (issuing 0 d).issued 0 0 ⟨0, 0, 0, 0⟩ { desc := d }
    let g : Reg2 := ⟨0, 0, 1, 32⟩
    let T := fun n : Nat => (⟨4096 * n, 1, 32, .fp32, true, false, false, 128, 0, 0, 0⟩ : Tensor)
    i.tensor 0 0 0 = .ok (T 1) ∧ i.tensor 0 0 1 = .ok (T 2) ∧ i.tensor 0 0 2 = .ok (T 3) ∧
    (T 1).holds g = true ∧ (T 2).holds ⟨0, 0, 1, 32⟩ = true ∧ (T 3).destOk (Desc.twrite d) g = .ok () := by
  exact ⟨rfl, rfl, rfl, rfl, rfl, rfl⟩

/-- Word 0 of a test descriptor, with DST_GEN 3, and word 1 with its four table indices. -/
def W0 (op : Nat) : Nat := op * 2 ^ 32 + 3 * 2 ^ 48

/-- A state, or a part of one, for the tests. -/
def TD (a b c d : Nat) : Nat := a + b * 2 ^ 8 + c * 2 ^ 16 + d * 2 ^ 24

/-- Table entry: a Shelf tensor from block i + 1. -/
def S (i r c f st : Nat) : List Byte := entryBytes (4096 * (i + 1)) r c (f + 0x10) st

/-- Whether a check answers, and what it answers has a property. -/
def okWith {α : Type} (r : Except OpFault α) (p : α → Bool) : Bool :=
  match r with
  | .ok x => p x
  | .error _ => false

/-- Where the entries of these tests issue: the context in slot 0 of engine 1, in partition 0. -/
def at1 : Site := ⟨1, 0, 0, 0⟩

/-- A launch of engine 1 passes. -/
def goes (i : State) (l : Launch) : Bool := decide (i.LaunchPasses at1 l)

/-- The block runs, entry d is next and may issue, and its checks pass in the state and for the macro-op that its body meets. -/
abbrev issuesIn (u : State) (d : List Nat) (isIt : Desc → Bool) (checks : State → OpenOp → Bool) : Prop :=
  u.RunsAt 0 u ∧ u.IssuesNext 1 0 isIt at1 { desc := d } ∧ checks (u.issued 1 0 at1 { desc := d }) (u.opened 1 0 at1 { desc := d }) = true

/-- The same with the tensor table ts. -/
abbrev issuesFrom (d : List Nat) (ts : List (List Byte)) (isIt : Desc → Bool) (checks : State → OpenOp → Bool) : Prop :=
  issuesIn (issuingOn 1 d ts) d isIt checks

/-- Meets the hypotheses of Obligations.CopyAndPrefetchResults. -/
theorem witness_Copy :
    let d := [Op.copy * 2 ^ 32 + 3 * 2 ^ 48, 0xFFFFFFFF, 2 ^ 17, 64, 4096, 64, 0, 0]
    let u := issuing 0 d
    let site : Site := ⟨0, 0, 0, 0⟩
    u.RunsAt 0 u ∧ u.IssuesNext 0 0 (fun d => decide (d.op = Op.copy)) site { desc := d } ∧ copyBad d = false ∧ copyFrom d = false ∧
    copyTo d = false ∧ (u.issued 0 0 site { desc := d }).LaunchPasses site (copyLaunch 0 d) := by
  decide

/-- Meets the hypotheses of Obligations.CopyAndPrefetchResults. -/
theorem witness_Prefetch :
    let d := [Op.prefetch * 2 ^ 32, 0xFFFFFFFF, 0, cellarBase, 64, 128, 0, 0]
    let u : State := ((({ issuing 0 d with parts := [(0, { regions := [(0, 2 ^ 46)] })] } : State).wr Reg.celStatus 2).wr Reg.celCap
      (2 ^ 36))
    let site : Site := ⟨0, 0, 0, 0⟩
    let l : Launch := Launch.intoBytes { srcs := [byteSource 0 false cellarBase 128 0], steps := copyBatches d } 0 false 64 128
    u.RunsAt 0 u ∧ u.IssuesNext 0 0 (fun d => decide (d.op = Op.prefetch)) site { desc := d } ∧
    regionOf (Desc.arg d 0) = .cellar ∧ regionOf (Desc.arg d 1) = .pantry ∧
    (u.issued 0 0 site { desc := d }).LaunchPasses site l := by decide

/-- The checks of ATTN and ATTN.BWD. -/
def attnPasses (i : State) (o : OpenOp) (d : Desc) (bwd : Bool) : Bool :=
  okWith (i.attnCheck at1 d bwd) fun x => okWith (i.work at1 o false x.heads).1 fun p =>
    let ol := i.latch at1 o
    match ({ ol with entries := ol.entries ++ [p.1, p.2] } : OpenOp).attn with
    | some (y, _, seqs) => okWith (y.fits d seqs) fun _ => goes i (y.launch 1 d seqs bwd)
    | none => false

/-- The checks of SCAN. -/
def scanPasses (i : State) (d : Desc) : Bool :=
  okWith (i.scanCheck at1 d) fun x =>
    goes (if (scanArgs d).product then i.clearStation 1 else i) (scanLaunch 1 d x.1 x.2.1 x.2.2.1 x.2.2.2)

/-- No fault that waits. -/
def goesOn (o : OpenOp) : Bool := o.fault.all fun f => !f.waits

/-- The checks of GATHER. -/
def gatherPasses (i : State) (o : OpenOp) (d : Desc) : Bool :=
  okWith (gatherArgs d) fun x => okWith (i.gatherLaunch at1 (i.latch at1 o) x) fun l =>
    let b := i.launched at1 (i.latch at1 o) l
    goes i l && goesOn (b.1.gatherRun at1 b.2 x).2

/-- The checks of SCATTER. -/
def scatterPasses (i : State) (o : OpenOp) (d : Desc) : Bool :=
  okWith (scatArgs d) fun x => okWith (i.scatterTensors at1 d x) fun tensors =>
    okWith (if x.action = 4 then .ok [] else (i.work at1 o false (readSeqs x.table x.batch)).1) fun seqs =>
      let live := seqs.filter fun b => decide (b.qLen ≠ 0)
      let l : Launch := { srcs := x.sources 1 d tensors live }
      let b := i.launched at1 o l
      decide (x.total seqs ≤ 4096) && okWith (x.fits tensors live) (fun _ => true) && goes i l &&
        goesOn (b.1.scatterRun at1 b.2 x tensors seqs).2

/-- Meets the hypotheses of Obligations.ArrayMacroOpsOpen. -/
theorem witness_MmaIssues :
    let d := [W0 Op.mma, TD 0 1 255 2, 1 + 1* 2 ^ 4 + 2 ^ 17, (1 + 2 ^ 24), 32, 0, 0, 0]
    issuesFrom d [S 0 1 32 1 64, S 1 1 32 1 64, S 2 1 1 0 64] (fun d => decide (d.op = Op.mma)) fun i _ =>
      okWith (i.mmaCheck at1 d false) fun x => goes i (x.launch 1 d) := by decide

/-- Meets the hypotheses of Obligations.ArrayMacroOpsOpen. -/
theorem witness_MmaBwdIssues :
    let d := [W0 Op.mmaBwdX + 2 ^ 44, TD 0 1 255 2, 1 + 1* 2 ^ 4 + 2 ^ 17, (1 + 2 ^ 24), 32, 0, 0, 0]
    issuesFrom d [S 0 1 32 1 64, S 1 1 32 1 64, S 2 1 1 0 64] (fun d => decide (d.op = Op.mmaBwdX)) fun i _ =>
      okWith (i.mmaCheck at1 d true) fun x => goes i (x.launch 1 d) := by decide

/-- Meets the hypotheses of Obligations.ArrayMacroOpsOpen. -/
theorem witness_MmaBwdWIssues :
    let d := [W0 Op.mmaBwdW + 2 ^ 44, TD 0 1 255 2, 1 + 1* 2 ^ 4 + 2 ^ 17, (1 + 2 ^ 24), 32, 0, 0, 0]
    issuesFrom d [S 0 1 32 1 64, S 1 1 32 1 64, S 2 1 1 0 64] (fun d => decide (d.op = Op.mmaBwdW)) fun i _ =>
      okWith (i.mmaCheck at1 d true) fun x => goes i (x.launch 1 d) := by decide

/-- Meets the hypotheses of Obligations.ArrayMacroOpsOpen. -/
theorem witness_ConvIssues :
    let d := [W0 Op.conv, TD 0 1 255 2, 1 + 1* 2 ^ 4, 32 + 32* 2 ^ 16 + 1 * 2 ^ 32 + 1 * 2 ^ 48, 0, 0, (1 + 2 ^ 24), 0]
    issuesFrom d [S 0 1 32 1 64, S 1 1 32 1 64, S 2 1 1 0 64] (fun d => decide (d.op = Op.conv) && !(bit (d.w 2) 21)) fun i _ =>
      okWith (i.convCheck at1 d) fun x => goes i (x.launch 1 d) := by decide

/-- Meets the hypotheses of Obligations.ArrayMacroOpsOpen. -/
theorem witness_MaxpoolIssues :
    let d := [W0 Op.conv, TD 0 255 255 2, 2 ^ 21, 1 + 1* 2 ^ 16 + 1 * 2 ^ 32 + 1 * 2 ^ 48, 0, 0, (1 + 2 ^ 24), 0]
    issuesFrom d [S 0 1 1 1 64, S 1 1 32 1 64, S 2 1 1 0 64] (fun d => decide (d.op = Op.conv) && (bit (d.w 2) 21)) fun i _ =>
      okWith (i.convCheck at1 d) fun x => goes i (x.launch 1 d) := by decide

/-- Meets the hypotheses of Obligations.ArrayMacroOpsOpen. -/
theorem witness_AttnIssues :
    let d := [W0 Op.attn, TD 0 1 255 2, 0, 1 + 32* 2 ^ 16 + 2 ^ 32, 0x2000, 0x1000, 0, 0]
    issuesFrom d [S 0 1 32 1 64, entryBytes 0x2000 128 34 0x10 192, S 20 1 32 0 128] (fun d => decide (d.op = Op.attn)) fun i o =>
      attnPasses i o d false := by decide +kernel

/-- Meets the hypotheses of Obligations.ArrayMacroOpsOpen. -/
theorem witness_AttnBwdIssues :
    let d := [W0 Op.attnBwd, TD 0 1 2 3, 0, 1 + 32* 2 ^ 16 + 2 ^ 32, 0x2000, 0x1000, 0, 0]
    issuesFrom d [S 0 1 32 1 64, S 1 1 32 1 64, S 2 1 2 0 64, S 3 1 32 0 128] (fun d => decide (d.op = Op.attnBwd)) fun i o =>
      attnPasses i o d true := by decide +kernel

/-- Meets the hypotheses of Obligations.ArrayMacroOpsOpen. -/
theorem witness_ScanFullIssues :
    let d := [W0 Op.scan, TD 0 1 255 2, 2 ^ 19 + 2 ^ 24 + 2 ^ 28, 1 + 32* 2 ^ 24, 0, 16, 0, 0x8000]
    issuesFrom d [S 0 1 32 1 64, S 1 1 32 1 64, S 2 1 32 1 64] (fun d => decide (d.op = Op.scan) && decide (d.opx 17 16 = 0)) fun i _ =>
      scanPasses i d := by decide

/-- Meets the hypotheses of Obligations.ArrayMacroOpsOpen. -/
theorem witness_ScanLocalIssues :
    let d := [W0 Op.scan, TD 0 1 255 2, 2 ^ 16 + 2 ^ 19 + 2 ^ 24 + 2 ^ 28, 1 + 32* 2 ^ 24, 0, 16, 0, 0]
    issuesFrom d [S 0 1 32 1 64, S 1 1 32 1 64, S 2 3 32 0 128] (fun d => decide (d.op = Op.scan) && decide (d.opx 17 16 = 1)) fun i _ =>
      scanPasses i d := by decide

/-- Meets the hypotheses of Obligations.ArrayMacroOpsOpen. -/
theorem witness_ScanReverseIssues :
    let d := [W0 Op.scan, TD 0 1 255 2, 2* 2 ^ 16 + 2 ^ 19 + 2 ^ 24 + 2 ^ 28, 1 + 32* 2 ^ 24, 0, 16, 0, 0x8000]
    issuesFrom d [S 0 1 32 1 64, S 1 1 32 1 64, S 2 1 32 1 64] (fun d => decide (d.op = Op.scan) && decide (d.opx 17 16 = 2)) fun i _ =>
      scanPasses i d := by decide

/-- Meets the hypotheses of Obligations.ArrayMacroOpsOpen. -/
theorem witness_PulseIssues :
    let d := [W0 Op.pulse, TD 0 1 2 255, 0, 32 + 32* 2 ^ 24, 3, 0, 0, 0]
    issuesFrom d [S 0 1 32 1 128, S 1 2 32 1 128, entryBytes 0x4000 32 32 0x11 64, entryBytes 0x6000 1 32 0x11 64] (fun d => decide (d.op = Op.pulse)) fun i _ =>
      okWith (pulseArgs d (fun j => i.operand at1 ((pulseTds d).getD j 0xFF)) (i.pulseIndex at1 d)) fun x =>
      (i.pulseSweep 1 d x false).isNone && (i.readsFault 0 (x.touched 1 d)).isNone && !i.resident at1 d x := by decide

/-- Meets the hypotheses of Obligations.ArrayMacroOpsOpen. -/
theorem witness_ConvFusedIssues :
    let d := [W0 Op.convFused, TD 0 1 255 2, 0, 0x4000, 0, 0, 1 + 2 ^ 24, 0]
    let u := (issuingOn 1 d [S 0 1 32 1 64, S 7 192 32 1 64, S 1 1 1 0 64, S 2 1 32 1 64]).store 0x4000
      (leBytes 8 (1 + 2 ^ 16 + 2 ^ 32 + 32 * 2 ^ 48) ++ leBytes 8 1 ++ leBytes 48 0 ++ leBytes 8 (3 + 255 * 2 ^ 8 + 32 * 2 ^ 32 + 2 ^ 48) ++
        leBytes 8 0 ++ leBytes 8 (2 ^ 16 + 2 ^ 24))
    issuesIn u d (fun d => decide (d.op = Op.convFused)) fun i _ => (i.readsFault 0 [(recordDa 1 d, 320)]).isNone &&
      okWith (fusedCheck (fun _ => i.operand at1) d (i.load (recordDa 1 d) 320)) fun x => goes i (x.1.launch 1 d x.2) := by decide

/-- Meets the hypotheses of Obligations.ArrayMacroOpsOpen. -/
theorem witness_BackwardOnF :
    let d := [W0 Op.mmaBwdX, TD 0 1 255 2, 1 + 2 ^ 4 + 2 ^ 17, 1 + 2 ^ 24, 32, 0, 0, 0]
    let w := [W0 Op.mmaBwdW, TD 0 1 255 2, 1 + 2 ^ 4 + 2 ^ 17, 1 + 2 ^ 24, 32, 0, 0, 0]
    (issuing 0 d).IssuesNext 0 0 (fun d => decide (d.op = Op.mmaBwdX)) ⟨0, 0, 0, 0⟩ { desc := d } ∧
    (issuing 0 w).IssuesNext 0 0 (fun d => decide (d.op = Op.mmaBwdW)) ⟨0, 0, 0, 0⟩ { desc := w } := by decide

/-- Meets the hypotheses of Obligations.MemoryMacroOpsOpen. -/
theorem witness_NormBwdIssues :
    let d := [W0 Op.normBwd, TD 0 1 2 3, 2 ^ 16+2 ^ 17, 1 + 2* 2 ^ 24, 0, 0, 0x8000, 0]
    issuesFrom d [S 0 1 2 0 64, S 1 1 2 0 64, S 2 1 2 0 64, S 3 1 2 0 64] (fun d => decide (d.op = Op.normBwd)) fun i _ =>
      okWith (i.normBwdCheck at1 d) fun x =>
      let g := rowRegion d
      goes i (Launch.into { srcs := [x.1.source 1 g (Desc.genA d), x.2.1.source 1 ⟨0, 0, 1, g.n⟩ (Desc.genB d), x.2.2.1.source 1 g (Desc.genC d),
        statsSource 1 d 0 g.m], steps := g.m * rowPasses d } x.2.2.2 1 (destRegion (Desc.twrite d) g)) := by decide

/-- Meets the hypotheses of Obligations.MemoryMacroOpsOpen. -/
theorem witness_GateIssues :
    let d := [W0 Op.gate, TD 0 255 255 1, 4* 2 ^ 16, 1 + 2* 2 ^ 24, 0, 0, 0, 0]
    issuesFrom d [S 0 1 2 0 64, S 1 1 2 0 64] (fun d => decide (d.op = Op.gate)) fun i _ =>
      okWith (i.gateCheck at1 d) fun x =>
      let g := rowRegion d
      x.2.1.isNone && x.2.2.1.isNone &&
        goes i (Launch.into { srcs := [x.1.source 1 (shapedRegion (Desc.opx d 20 19) g) (Desc.genA d)], steps := g.m * rowPasses d } x.2.2.2 1
          (destRegion (Desc.twrite d) g)) := by decide

/-- Meets the hypotheses of Obligations.MemoryMacroOpsOpen. -/
theorem witness_ReduceIssues :
    let d := [W0 Op.reduce, TD 0 255 255 1, 0, 1 + 2* 2 ^ 24, 0, 0, 0, 0]
    issuesFrom d [S 0 1 2 0 64, S 1 1 2 0 64] (fun d => decide (d.op = Op.reduce)) fun i _ =>
      okWith (i.operand at1 (Desc.tdA d)) fun x => okWith (i.operand at1 (Desc.tdD d)) fun y =>
      let g := rowRegion d
      decide (Desc.opx d 18 16 ≤ 5) && x.holds g && !reduceSlots d && okWith (y.destOk (Desc.twrite d) (reduceDest d)) (fun _ => true) &&
        goes i (Launch.into { srcs := [x.source 1 g (Desc.genA d)], steps := g.m } y 1 (destRegion (Desc.twrite d) (reduceDest d))) := by decide

/-- Meets the hypotheses of Obligations.MemoryMacroOpsOpen. -/
theorem witness_SortIssues :
    let d := [W0 Op.sort, TD 0 255 255 1, 0, 1 + 1* 2 ^ 24, 1 + 2 ^ 32, 0, 0, 0]
    issuesFrom d [S 0 1 1 0 64, S 1 2 16 0 64] (fun d => decide (d.op = Op.sort)) fun i _ =>
      okWith (i.sortCheck at1 d) fun x =>
      goes i (Launch.into { srcs := [x.1.source 1 (sortRegion d) (Desc.genA d)] } x.2 1 (destRegion (Desc.twrite d) (listRegion (sortMost d)))) := by decide

/-- Meets the hypotheses of Obligations.MemoryMacroOpsOpen. -/
theorem witness_BoxdecIssues :
    let d := [W0 Op.boxdec, TD 0 1 2 3, 0, 0, 0, 0, 0, 0]
    issuesFrom d [S 0 1 16 0 64, S 1 1 4 0 64,S 2 1 4 0 64, S 3 1 16 0 64] (fun d => decide (d.op = Op.boxdec)) fun i _ =>
      okWith (i.boxdecCheck at1 d) fun x =>
      goes i (boxdecLaunch 1 d x.1 x.2.1 x.2.2.1 x.2.2.2 ((i.listEntries 1 x.1).map (·.index))) := by decide

/-- Meets the hypotheses of Obligations.MemoryMacroOpsOpen. -/
theorem witness_NmsIssues :
    let d := [W0 Op.nms, TD 0 255 255 1, 0, 0, 0, 1, 0, 0]
    issuesFrom d [S 0 1 16 0 64, S 1 1 16 0 64] (fun d => decide (d.op = Op.nms)) fun i _ =>
      okWith (i.nmsCheck at1 d) fun x =>
      let n := i.listCount 1 x.1
      goes i (Launch.into { srcs := [x.1.source 1 (listRegion n) (Desc.genA d)] } x.2 1 (destRegion (Desc.twrite d) (listRegion (min (nmsLimit d) n)))) := by decide

/-- Meets the hypotheses of Obligations.MemoryMacroOpsOpen. -/
theorem witness_GatherRowsIssues :
    let d := [W0 Op.gather, TD 255 255 255 0, 0, 1 + 32* 2 ^ 16 + 2 ^ 32, 0x2000, 0x1000, 0, 0]
    issuesFrom d [S 0 1 32 1 64] (fun d => decide (d.op = Op.gather) && decide (d.opx 17 16 ≠ 1)) fun i o =>
      gatherPasses i o d := by decide +kernel

/-- Meets the hypotheses of Obligations.MemoryMacroOpsOpen. -/
theorem witness_GatherLookupIssues :
    let d := [W0 Op.gather, TD 255 255 255 255, 2 ^ 16 + 2 ^ 29, 1 + 32* 2 ^ 16 + 2 ^ 32, 0x2000, 0x1000, 0x3000, 0]
    issuesFrom d [] (fun d => decide (d.op = Op.gather) && decide (d.opx 17 16 = 1)) fun i o =>
      gatherPasses i o d := by decide +kernel

/-- Meets the hypotheses of Obligations.MemoryMacroOpsOpen. -/
theorem witness_ScatterAppendIssues :
    let d := [W0 Op.scatter, TD 0 1 255 255, 0 * 2 ^ 16 + 2 ^ 29 + 2 ^ 19 + 2 ^ 23 + 0, 1 + 32* 2 ^ 16, 0x2000, 0x1000, 0, 0]
    issuesFrom d [S 0 1 32 1 64, S 1 1 32 1 64] (fun d => decide (d.op = Op.scatter) && !(inRange (d.opx 18 16) 1 4)) fun i o =>
      scatterPasses i o d := by decide +kernel

/-- Meets the hypotheses of Obligations.MemoryMacroOpsOpen. -/
theorem witness_ScatterReleaseIssues :
    let d := [W0 Op.scatter, TD 0 1 255 255, 1 * 2 ^ 16 + 2 ^ 29 + 2 ^ 19 + 2 ^ 23 + 0, 1 + 32* 2 ^ 16, 0x2000, 0x1000, 0, 0]
    issuesFrom d [S 0 1 32 1 64, S 1 1 32 1 64] (fun d => decide (d.op = Op.scatter) && decide (d.opx 18 16 = 1)) fun i o =>
      scatterPasses i o d := by decide +kernel

/-- Meets the hypotheses of Obligations.MemoryMacroOpsOpen. -/
theorem witness_ScatterRetainIssues :
    let d := [W0 Op.scatter, TD 0 1 255 255, 2 * 2 ^ 16 + 2 ^ 29 + 2 ^ 19 + 2 ^ 23 + 2 ^ 35, 1 + 32* 2 ^ 16, 0x2000, 0x1000, 0, 0]
    issuesFrom d [S 0 1 32 1 64, S 1 1 32 1 64] (fun d => decide (d.op = Op.scatter) && decide (d.opx 18 16 = 2)) fun i o =>
      scatterPasses i o d := by decide +kernel

/-- Meets the hypotheses of Obligations.MemoryMacroOpsOpen. -/
theorem witness_ScatterInsertIssues :
    let d := [W0 Op.scatter, TD 0 1 255 255, 3 * 2 ^ 16 + 2 ^ 29 + 2 ^ 19 + 2 ^ 23 + 0, 1 + 32* 2 ^ 16, 0x2000, 0x1000, 0, 0]
    issuesFrom d [S 0 1 32 1 64, S 1 1 32 1 64] (fun d => decide (d.op = Op.scatter) && decide (d.opx 18 16 = 3)) fun i o =>
      scatterPasses i o d := by decide +kernel

/-- Meets the hypotheses of Obligations.MemoryMacroOpsOpen. -/
theorem witness_ScatterEvictIssues :
    let d := [W0 Op.scatter, TD 255 255 255 255, 4* 2 ^ 16, 1 + 32* 2 ^ 16, 0x2000, 0x1000, 0x3000, 0]
    issuesFrom d [] (fun d => decide (d.op = Op.scatter) && decide (d.opx 18 16 = 4)) fun i o =>
      scatterPasses i o d := by decide +kernel

/-- Meets the hypotheses of Obligations.MemoryMacroOpsOpen. -/
theorem witness_CopyOpensIssues :
    let d := [W0 Op.copy, 0xFFFFFFFF, 2 ^ 17, 2 ^ 63 + 64, 4096, 64, 0, 0]
    issuesFrom d [] (fun d => decide (d.op = Op.copy)) fun i o =>
      let b := i.launched at1 o (copyLaunch 1 d)
      !copyBad d && copyFrom d && !remoteBad (Desc.arg d 0) && !remoteBad (Desc.arg d 1) && goes i (copyLaunch 1 d) &&
        (b.1.sameGenFault 1 b.2 b.2.claims).isNone := by decide

/-- Queue 0 of engine 0, whose context is resident in slot 0 and holds the engine, has this macro-op open. -/
def queueOn (o : OpenOp) : State :=
  ((issuing 0 []).setCtx 0 0 { cfg := 1 + 2 ^ 14, place := .resident, slot := 0, blocked := false, running := true }).setQueue 0 0
    { state := .running, ops := [o] }

/-- The same, with what the cycle brings about by itself. -/
def openOn (o : OpenOp) : State := (queueOn o).advance 0

/-- The slot of that queue. -/
def at0 : Site := ⟨0, 0, 0, 0⟩

/-- The arguments of the boundary clauses, in that queue. -/
abbrev boundaryOn (o : OpenOp) : Prop :=
  (queueOn o).RunsAt 0 (openOn o) ∧ (openOn o).AtBoundary 0 0 0 at0 o

/-- Meets the hypotheses of Obligations.OpenMacroOpsGoOn. -/
theorem witness_Boundary :
    let o : OpenOp := { desc := [Op.attn * 2 ^ 32], stepsTotal := 2 }
    let f : OpenOp := { desc := [Op.mma * 2 ^ 32], tiles := 1, stepsTotal := 2, fault := some ⟨F.residue, 0, 0⟩ }
    boundaryOn o ∧ ((openOn o).injected 0 0 { o with steps := o.steps + 1 }).2.fault = none ∧
    boundaryOn f ∧ ((openOn f).injected 0 0 { f with steps := f.steps + 1 }).2.fault = some ⟨F.residue, 0, 0⟩ := by
  refine ⟨?_, ?_, ?_, ?_⟩ <;> decide

/-- Meets the hypotheses of Obligations.OpenMacroOpsGoOn. -/
theorem witness_UnitBoundary :
    let w : WorkUnit := { due := 1 }
    let o : OpenOp := { desc := [Op.smax * 2 ^ 32], stepsTotal := 1, units := [w] }
    (openOn o).UnitDue 0 0 0 at0 o w [] ∧ Desc.op o.desc ≠ Op.attn ∧ Desc.op o.desc ≠ Op.attnBwd := by decide

/-- Meets the hypotheses of Obligations.OpenMacroOpsGoOn. -/
theorem witness_NoBoundary :
    let o : OpenOp := { desc := [Op.norm * 2 ^ 32], stepsTotal := 1, steps := 1 }
    let u := openOn o
    u.siteOf 0 0 o = some at0 ∧ (u.ctx 0 at0.k).remoteErr = none ∧ u.openOp 0 0 0 = some o ∧ o.stepDue = false ∧
    o.tiled = false ∧ o.stop = none := by decide

/-- Meets the hypotheses of Obligations.OpenMacroOpsGoOn. -/
theorem witness_MidBatch :
    let o : OpenOp := { desc := [Op.copy * 2 ^ 32, 0, 0, 2 ^ 63, 0x1000, 1024], stepsTotal := 1 }
    let u := openOn o
    u.siteOf 0 0 o = some at0 ∧ (u.ctx 0 at0.k).remoteErr = none ∧ u.openOp 0 0 0 = some o ∧ o.stop = none ∧ o.stepDue = true ∧
    u.progresses at0 o = true ∧ u.midBatch at0 o = true := by decide

/-- Meets the hypotheses of Obligations.OpenMacroOpsGoOn. -/
theorem witness_TileWriteback :
    let d := [W0 Op.mma, TD 0 1 255 2, 1 + 2 ^ 4 + 2 ^ 17, 1 + 2 ^ 24, 32, 0, 0, 0]
    let o : OpenOp := { desc := d, entries := [S 0 1 32 1 64, S 1 1 32 1 64, [], S 2 1 1 0 64], tiles := 1, stepsTotal := 1, steps := 1,
                        claims := [3], wbuf := some (0, [0]) }
    let T := fun (n c : Nat) (f : Fmt) => (⟨4096 * n, 1, c, f, true, false, false, 64, 0, 0, 0⟩ : Tensor)
    let v := mmaArgs d (T 1 32 .bf16) (T 2 32 .bf16) (T 3 1 .fp32)
    let u := openOn o
    let a := u.atDest 0 o
    u.siteOf 0 0 o = some at0 ∧ u.openOp 0 0 0 = some o ∧ o.tiled = true ∧ o.fault = none ∧ Desc.op o.desc ≠ Op.conv ∧
    o.mmaArgs = some v ∧ o.wbuf = some (0, [0]) ∧ o.redMode = none ∧
    ({ a with free := a.free + 1 } : State).sameGenFault 0 o (v.d.blocks (v.grid.destTile (Desc.twrite d) v.dr v.dc 0)) = none := by
  decide

/-- Meets the hypotheses of Obligations.OpenMacroOpsGoOn. -/
theorem witness_TileReduced :
    ({ desc := [Op.mmaBwdW * 2 ^ 32, 0, 2 ^ 18] } : OpenOp).redMode = some .addFp32 := by decide

/-- Meets the hypotheses of Obligations.OpenMacroOpsGoOn. -/
theorem witness_ConvWriteback :
    let d := [W0 Op.conv, TD 0 1 255 2, 1 + 2 ^ 4, 32 + 32 * 2 ^ 16 + 2 ^ 32 + 2 ^ 48, 0, 0, 1 + 2 ^ 24, 0]
    let o : OpenOp := { desc := d, entries := [S 0 1 32 1 64, S 1 1 32 1 64, [], S 2 1 1 0 64], tiles := 1, stepsTotal := 1, steps := 1,
                        claims := [3], wbuf := some (0, [0]) }
    let a := (openOn o).atDest 0 o
    Desc.op o.desc = Op.conv ∧ o.tiled = true ∧ o.fault = none ∧ o.wbuf.isSome = true ∧
    (({ a with free := a.free + 1 } : State).convWriteback 0 o).2.fault = none := by decide

/-- The clauses of a commit, in that queue. -/
abbrev commitOn (o : OpenOp) : Prop :=
  let u := (openOn o).inOrder tickPlace 0
  (queueOn o).TurnAt 0 tickPlace 0 u ∧ u.siteOf 0 0 o = some at0 ∧ (u.ctx 0 at0.k).remoteErr = none ∧ u.openOp 0 0 0 = some o ∧ o.stop = none

/-- Meets the hypotheses of Obligations.OpenMacroOpsGoOn. -/
theorem witness_Commit :
    let o : OpenOp := { desc := [Op.norm * 2 ^ 32], stepsTotal := 1, steps := 1, finished := true }
    let w : OpenOp := { desc := [Op.wait * 2 ^ 32], abort := true }
    let n : OpenOp := { desc := [Op.norm * 2 ^ 32], stepsTotal := 1 }
    let x := openOn o
    commitOn o ∧ o.stepDue = false ∧ o.workLeft = false ∧ Desc.op o.desc ≠ Op.pulse ∧ commitOn w ∧ Desc.op w.desc = Op.wait ∧ commitOn n ∧
    n.stepDue = true ∧ openSteps (Desc.op n.desc) = false ∧ o.fault = none ∧ x.workDone at0 o = true ∧ o.atEnd = [] ∧
    x.acknowledged at0 o = true ∧ ((x.admitOp .pantry o).1.admitOp .cellar (x.admitOp .pantry o).2).2.heldBytes = [] := by
  decide

/-- Meets the hypotheses of Obligations.OpenMacroOpsGoOn. -/
theorem witness_Sample :
    let o : OpenOp := { desc := [Op.norm * 2 ^ 32], stepsTotal := 2, steps := 1 }
    let x := openOn o
    let y := x.setCtx 0 1 { cfg := 1 + 2 ^ 14 + 2 ^ 9, place := .resident, slot := 1, blocked := false }
    o.fault = none ∧ o.abort = false ∧ x.mustYield at0.e at0.k = false ∧ x.workDone at0 o = false := by decide

/-- Meets the hypotheses of Obligations.DatapathChecksAndRamps. -/
theorem witness_CheckFails :
    let o : OpenOp := { desc := [Op.mma * 2 ^ 32] }
    let u := openOn o
    let h := State.reset.setEng 0 { ramp := .active }
    (queueOn o).RunsAt 0 u ∧ u.inSlot 0 = false ∧ u.struckOp 0 0 (.unit 0 0) = some o ∧ h.inSlot 0 = false ∧ h.holding 0 = true := by
  decide

/-- Meets the hypotheses of Obligations.DatapathChecksAndRamps. -/
theorem witness_Ramps :
    let at' := fun (x : EngineSt) => (State.reset.setEng 0 x).advance 10000
    let slot : State := { State.reset with health := { State.reset.health with slots := [{ engine := 0, kind := .rotation, start := 0, draining := false }] } }
    let a := at' { ramp := .active }
    let n := at' { ramp := .rampUp, rampStep := 2, hold := 0 }
    (State.reset.setEng 0 { ramp := .active }).RunsAt 10000 a ∧ slot.RunsAt 0 slot ∧ slot.inSlot 0 = true ∧
    (a.eng 0).ramp = .active ∧ (a.eng 0).working = false ∧ (a.eng 0).gateClosed = false ∧ a.holdMode 0 = 1 ∧
    (a.eng 0).lastReal + bits (a.eng 0).hold 28 16 ≤ a.now ∧
    (n.eng 0).ramp = .rampUp ∧ (n.eng 0).working = false ∧ n.holdMode 0 = 0 ∧ (n.eng 0).lastReal < n.now ∧
    (n.eng 0).rampAt + 64 ≤ n.now ∧ (n.eng 0).rampStep < 3 ∧
    3 ≤ ((at' { ramp := .rampUp, rampStep := 3 }).eng 0).rampStep ∧ ((at' { ramp := .rampDown, rampStep := 3 }).eng 0).rampStep ≠ 0 ∧
    ((at' { ramp := .rampDown }).eng 0).ramp = .rampDown ∧ ((at' { ramp := .rampDown }).eng 0).rampStep = 0 ∧
    (at' { hold := 2 }).holdMode 0 = 2 ∧ ((at' { hold := 2 }).eng 0).ramp = .idle ∧
    ((at' { duty := 7 }).eng 0).dutyAt + 64 ≤ (at' { duty := 7 }).now ∧ ((at' { duty := 7 }).eng 0).duty < min 8 (min 8 8) ∧
    min 8 (min 8 7) < ((at' { duty := 8, capPower := 7 }).eng 0).duty ∧ ((at' { ramp := .rampDown }).eng 0).prior = none := by
  decide +kernel

/-- A routine on engine 0 for the open CALL of queue 0, at its first instruction, these bytes, with x10 holding a. -/
def routineOf (a : Word) (em : List (List Nat)) : Routine :=
  { q := 0, maxCycles := 5, startedAt := 0, pc := 0, regs := (List.replicate 32 0).set 10 a, seen := 0, emitted := em }

/-- The CALL. -/
def theCall : OpenOp := { desc := [Op.call * 2 ^ 32] }

/-- The state in which it runs. -/
def keeping (a : Word) (em : List (List Nat)) (code : List Byte) : State :=
  { (State.reset.setQueue 0 0 { state := .running, ops := [theCall] }).setEng 0 { routine := some (routineOf a em) } with
    imem := (List.range code.length).zip code }

/-- The routine runs there, and the instruction i is next. -/
abbrev keepsAt (a : Word) (em : List (List Nat)) (code : List Byte) (i : RvInst) : Prop :=
  let u := keeping a em code
  u.RunsAt 0 u ∧ u.routineCall 0 = some (routineOf a em, theCall) ∧ leNat (u.bankBytes 0 0 2) % 4 = 3 ∧
    rvDecode32 (leNat (u.bankBytes 0 0 4)) = some i

/-- Words of the architecture: ADDI x10, x0, 5; SD x10, 8(x2); BNE x10, x0, −4; MUL x10, x10, x11; CSRRS x5, 0xFC2, x0. -/
theorem test_rv_words :
    [0x00500513, 0x00A13423, 0xFE051EE3, 0x02B50533, 0xFC2022F3].map rvDecode32 =
      [some (.aluImm .add false 10 0 5), some (.store 2 10 8 8), some (.branch .ne 10 0 (-4)), some (.alu .mul false 10 10 11),
       some (.csr .set false 5 0 0xFC2)] := by decide

/-- C.LI x10, 5; C.ADDI x2, −16; C.LDSP x1, 8; C.J −2; the illegal parcel of zeros. -/
theorem test_rv_parcels :
    [0x4515, 0x1141, 0x60A2, 0xBFFD, 0].map rvDecode16 =
      [some (.aluImm .add false 10 0 5), some (.aluImm .add false 2 2 (-16)), some (.load 1 2 8 8 true), some (.jal 0 (-2)), none] := by
  decide

/-- Meets the hypotheses of Obligations.KeeperRoutineEvents. -/
theorem witness_KeeperEmits :
    keepsAt 0x10000000 [] [0x73, 0x10, 0x05, 0x7C] (.csr .write false 0 10 0x7C0) ∧ ((routineOf 0x10000000 []).reg 10).toNat = 0x10000000 ∧
    keepsAt 0x10000000 (List.replicate 16 []) [0x73, 0x10, 0x05, 0x7C] (.csr .write false 0 10 0x7C0) ∧
    (∀ (u : State), u.rvRun 0 (routineOf 0 []) theCall 0 = .goes u (routineOf 0 [])) := by
  refine ⟨?_, ?_, ?_, fun u => rfl⟩ <;> decide

/-- Meets the hypotheses of Obligations.KeeperRoutineEvents. -/
theorem witness_KeeperReturns :
    let s : State := ((keeping 0 [[1]] [0x73]).setQueue 0 0 { state := .running, ops := [theCall], stack := [{}, {}, {}, {}] })
    keepsAt 1 [[1]] [0x73] .ecall ∧ (routineOf 1 [[1]]).reg 10 ≠ 0 ∧ keepsAt 0 [[1]] [0x73] .ecall ∧ (routineOf 0 [[1]]).reg 10 = 0 ∧
    theCall.abort = false ∧ (((keeping 0 [[1]] [0x73]).routineOver 0).queue 0 0).stack.length < 4 ∧
    s.RunsAt 0 s ∧ s.routineCall 0 = some (routineOf 0 [[1]], theCall) ∧ 4 ≤ ((s.routineOver 0).queue 0 0).stack.length := by
  decide +kernel

/-- Meets the hypotheses of Obligations.KeeperRoutineEvents. -/
theorem witness_KeeperTraps :
    keepsAt 0 [] [0x23] (.store 0 0 0 1) ∧ ((routineOf 0 []).reg 0 + sxReg 0).toNat < 0x10000000 ∧
    leNat ((keeping 0 [] []).bankBytes 0 0 2) = 0 ∧ 0x8000 < (0x8000 : Nat) + 2 ∧ (0 : Nat) + 5 ≤ (State.reset.advance 5).now := by
  decide +kernel

/-- Meets the hypotheses of Obligations.QueueEvents. -/
theorem witness_Watch :
    let v := (State.reset.wr (Reg.engQTailDa 0 0) 0x40).wr (Reg.engQCfg 0 0) 0x401
    let x : QueueSt := { state := .waiting, head := 0, tail := 2, seen := 2, next := 2 }
    let u := v.setQueue 0 0 x
    let w := u.recheckWaits 0 0
    u.RunsAt 0 u ∧ (w.queue 0 0).state ≠ .disabled ∧ bit (w.rd (Reg.engQCfg 0 0)) 1 = false ∧
    0x47 / 64 = w.rd (Reg.engQTailDa 0 0) / 64 ∧
    0x1000 / 64 ≠ w.rd (Reg.engQTailDa 0 0) / 64 ∧ w.ringSeqAt 0 0 0x1000 = none ∧
    ((State.reset.recheckWaits 0 0).queue 0 0).state = .disabled := by decide

/-- Meets the hypotheses of Obligations.QueueEvents. -/
theorem witness_WatchRewritten :
    let v := ((State.reset.wr (Reg.engQTailDa 0 0) 0x40).wr (Reg.engQBase 0 0) 0x1000).wr (Reg.engQCfg 0 0) 0x401
    let u := v.setQueue 0 0 { state := .waiting, head := 0, tail := 2, seen := 2, next := 2, ops := [{ desc := [5] }] }
    (u.recheckWaits 0 0).ringSeqAt 0 0 0x1000 = some 0 := by decide

/-- Meets the hypotheses of Obligations.QueueEvents. -/
theorem witness_TailRead :
    let v := ((((State.reset.wr Reg.pntStatus 2).wr Reg.pntCap (2 ^ 36)).wr (Reg.engQTailDa 0 0) 0x40).wr (Reg.engQCfg 0 0) 0x401).store 0x40 [2]
    let u := v.setQueue 0 0 { state := .waiting, fresh := false }
    let b := v.setQueue 0 0 { state := .waiting, fresh := false, tail := 3 }
    u.RunsAt 0 u ∧ (u.queue 0 0).fresh = false ∧ u.structFault 0x40 4 .ok none = none ∧ u.holdsBytes 0x40 4 = true ∧
    0 ≤ ahead32 (u.loadNat 0x40 4) (u.queue 0 0).tail ∧ (u.loadNat 0x40 4 + 2 ^ 32 - (u.queue 0 0).head) % 2 ^ 32 ≤ 2 ^ 4 ∧
    ahead32 (b.loadNat 0x40 4) (b.queue 0 0).tail < 0 := by decide

/-- Meets the hypotheses of Obligations.QueueEvents. -/
theorem witness_Fetch :
    let v := ((((State.reset.wr Reg.pntStatus 2).wr Reg.pntCap (2 ^ 36)).wr (Reg.engQTailDa 0 0) 0x40).wr (Reg.engQCfg 0 0) 0x401).store 0x40 [2]
    let u := v.setQueue 0 0 { state := .waiting }
    let y := u.readTail 0 0 .ok
    u.RunsAt 0 u ∧ (u.queue 0 0).fetches = true ∧ bit (u.rd (Reg.engQCfg 0 0)) 1 = false ∧ (y.queue 0 0).fetches = true ∧
    (y.queue 0 0).fetched.length < 4 := by decide

/-- Meets the hypotheses of Obligations.QueueEvents. -/
theorem witness_FetchEnds :
    let u := ((State.reset.wr (Reg.engQCfg 0 0) 0x401)).setQueue 0 0 { state := .idle }
    (((u.readTail 0 0 .ok).fetchNext 0 0 .ok 5).issuable 0 0 reservedOp) = none := by decide

/-- Meets the hypotheses of Obligations.QueueEvents. -/
theorem witness_Trigger :
    let u := (State.reset.wr (Reg.engQCfg 0 0) 0x403).setQueue 0 0 { state := .idle, fifo := List.replicate 63 1 }
    let w := (State.reset.wr (Reg.engQCfg 0 0) 0x403).setQueue 0 0 { state := .idle, fifo := List.replicate 64 1 }
    u.RunsAt 0 u ∧ (u.queue 0 0).state ≠ .disabled ∧ (u.queue 0 0).stopping = false ∧ bit (u.rd (Reg.engQCfg 0 0)) 1 = true ∧
    (u.queue 0 0).fifo.length < 64 ∧ u.draining 0 = false ∧ 64 ≤ (w.queue 0 0).fifo.length ∧
    (State.reset.queue 0 0).state = .disabled ∧ bit (State.reset.rd (Reg.engQCfg 0 0)) 1 = false := by decide

/-- Meets the hypotheses of Obligations.QueueEvents. -/
theorem witness_LoaderRejects : (State.reset.loaderVerdict 0).1 = some { sub := 1 } := by decide

/-- Meets the hypotheses of Obligations.QueueEvents. -/
theorem witness_LoaderAccepts :
    let bs := leBytes 4 1 ++ leBytes 4 1 ++ leBytes 8 80 ++ leBytes 8 1 ++ leBytes 40 0 ++ leBytes 8 (5 + 2 * 2 ^ 8) ++ leBytes 8 0
    let v : State := ((State.reset.wr Reg.pntStatus 2).wr Reg.pntCap (2 ^ 36)).store 0x4000 (putField bs 12 (leBytes 4 (crc32 bs)))
    let u : State := { v with tick := { plan := some { seq := 1, phases := [{ cls := 1 }] } } }
    u.RunsAt 0 u ∧ (u.loaderVerdict 0x4000).1 = none := by decide +kernel

/-- A block whose DRAM tiers are ready. -/
def memOn : State := (((State.reset.wr Reg.pntStatus 2).wr Reg.celStatus 2).wr Reg.pntCap 0x1000000).wr Reg.celCap 0x1000000

/-- Meets the hypotheses of Obligations.AtomicsAtTheHomeSlice. -/
theorem witness_Atomics :
    let c : AtomReq := { op := .cnt2, ty := .b32, dPin := -1, dRef := 0 }
    let a : AtomReq := { op := .fadd, ty := .int32, opnd := 5 }
    let goes := fun (q : AtomReq) => let w := memOn.homeWait .steward 0x200000 (.atom q)
      memOn.atomFault 0x200000 4 true = none ∧ (memOn.atSlices w).GoesAtOnce .pantry w
    atomicOf (.atomicFadd 0 .steward .int32 0x200000 5) = some (0, .steward, 0x200000, a) ∧ memOn.RunsAt 0 memOn ∧
    a.defined = true ∧ tierOf 0x200000 = some .pantry ∧ goes a ∧ a.result (memOn.loadNat 0x200000 4) = some 5 ∧ c.defined = true ∧ goes c ∧
    c.result (memOn.loadNat 0x200000 4) = none ∧ memOn.atomFault 0x200001 4 false = some F.atomicAlign ∧
    tierOf cellarBase = some .cellar ∧ memOn.atomFault cellarBase 4 true = none := by decide +kernel

/-- Meets the hypotheses of Obligations.AtomicsAtTheHomeSlice. -/
theorem witness_AtomicsInv : memOn.Inv := ⟨rfl, rfl, rfl, rfl, rfl, rfl, rfl, rfl⟩

/-- Meets the hypotheses of Obligations.ReductionsAtTheHomeSlice. -/
theorem witness_Reductions :
    let d : List Byte := List.replicate 64 1
    let w := memOn.homeWait .steward 0x200000 (.red .addFp32 1 d)
    reductionOf (.redAddFp32 0 .steward 0x200000 1 d) = some (0, .steward, 0x200000, .addFp32, 1, d) ∧ tierOf 0x200000 = some .pantry ∧
    memOn.atomFault 0x200000 64 (redAligned 0x200000 64) = none ∧ (memOn.atSlices w).GoesAtOnce .pantry w ∧
    memOn.atomFault 0x200020 64 (redAligned 0x200020 64) = some F.atomicAlign := by
  refine ⟨rfl, ?_⟩; decide +kernel

/-- A tier that admits the requests of partition 2. -/
def ratedOn : State := { memOn.wr (Reg.pntRegRate 2) 5 with pantry := { buckets := [0, 0, 100, 0, 0, 0, 0, 0] } }

/-- Meets the hypotheses of Obligations.MemoryRequests. -/
theorem witness_MemoryRequestsInv : ratedOn.Inv := ⟨rfl, rfl, rfl, rfl, rfl, rfl, rfl, rfl⟩

/-- Meets the hypotheses of Obligations.MemoryRequests. -/
theorem witness_MemoryRequests :
    let r : MemReq := ⟨1, .steward, 2, 0x200000, 32⟩
    let w : Waiting := { req := r, act := .read }
    let wr : Waiting := { req := r, act := .write (List.replicate 32 1) }
    let far : Waiting := { w with req := { r with da := 0x2000000 } }
    ratedOn.RunsAt 0 ratedOn ∧ tierOf r.da = some .pantry ∧ ratedOn.outstanding .pantry r.id = false ∧
    (ratedOn.atSlices w).GoesAtOnce .pantry w ∧ (ratedOn.atSlices wr).GoesAtOnce .pantry wr ∧
    (memOn.atSlices far).requestFault far = some (F.addrRange, 0x2000000) ∧
    (memOn.atSlices w).requestFault w = none ∧ w.uncharged = false ∧ (memOn.atSlices w).heldBack .pantry 2 = true := by decide +kernel

/-- Meets the hypotheses of Obligations.MemoryRequests. -/
theorem witness_MemoryReadFails :
    let r : MemReq := ⟨1, .steward, 2, 0x200000, 32⟩
    let w : Waiting := { req := r, act := .read }
    let d := ratedOn.wr Reg.pntCtrl 3
    let x := (d.atSlices w).charge .pantry 2 w.bytes
    let errs : List SymErr := [⟨0, 0, 1⟩]
    (d.atSlices w).GoesAtOnce .pantry w ∧
    (x.judgeWords .pantry 0x200000 errs ((errWords .pantry 0x200000 w.bytes errs).filter (w.act.judges .pantry 0x200000 w.bytes))).bad =
      some 0x200000 := by decide +kernel

/-- Meets the hypotheses of Obligations.MemoryRequests. -/
theorem witness_MemoryElsewhere :
    let w : Waiting := { req := ⟨1, .steward, 2, atticBase, 32⟩, act := .read }
    let a := (State.reset.wr Reg.atcCtrl 1).wr Reg.atcWinSize 4096
    regionOf (shelfDa 3 64) = .shelf 3 64 ∧ State.reset.deadWord (shelfDa 3 64) 32 = none ∧ regionOf atticBase = .attic ∧
    (a.atSlices w).requestFault w = none ∧
    (ratedOn.keep .pantry { req := ⟨1, .steward, 2, 0x200000, 32⟩, act := .read, admitted := some 0 }).outstanding .pantry 1 = true := by decide +kernel

/-- Meets the hypotheses of Obligations.MapOutBitsAreSticky. -/
theorem witness_MapOut :
    let b := State.reset.wr Reg.celStatus 4
    writes State.reset (Tier.mapout .cellar 3) (fun u => !bit (u.rd Reg.celStatus) 2) ∧
    writes b (Tier.mapout .cellar 3) (fun u => bit (u.rd Reg.celStatus) 2) ∧
    writes b Reg.celMapCommit (fun u => bit (u.rd Reg.celStatus) 2) ∧ State.reset.RunsAt 0 State.reset ∧
    (Tier.cellar).channels / 64 = 4 ∧ (Tier.pantry).channels / 64 = 3 := by decide

/-- Meets the hypotheses of Obligations.RegulatorsRefillAndRequestsTimeOut. -/
theorem witness_Regulators :
    let r : MemReq := ⟨7, .steward, 2, 0x200000, 32⟩
    let a : Waiting := { req := r, admitted := some 0, act := .read }
    let b : Waiting := { a with act := .write [1] }
    let s := { State.reset with now := 2200000 }
    let x := { s with pantry := { waiting := [a] } }
    let y := { s with pantry := { waiting := [b] } }
    s.RunsAt 2200000 s ∧ (s.tier .pantry).refilled.getD 0 0 + us 1 ≤ s.now ∧ (s.tier .pantry).waiting = [] ∧ s.queues = [] ∧
    State.reset.now < (State.reset.tier .pantry).refilled.getD 0 0 + us 1 ∧ (State.reset.tier .pantry).buckets.getD 0 0 ≤ 0 ∧
    (x.tier .pantry).waiting.find? (fun w => decide (w.req.id = 7)) = some a ∧ a.admitted = some 0 ∧
    0 + us (x.fld Reg.pntTimeout 9 0) ≤ x.now ∧ a.act = .read ∧
    (y.tier .pantry).waiting.find? (fun w => decide (w.req.id = 7)) = some b ∧ b.act = .write [1] := by decide

/-- Meets the hypotheses of Obligations.ChannelsFailAndAreMappedOut. -/
theorem witness_Channels :
    let x := { memOn.wr Reg.pntFailThresh 1 with pantry := { events := [(5, 0)] } }
    let n := State.reset
    let m := { n.wr Reg.celStatus 4 with cellar := { failed := [5], dead := [5] } }
    x.RunsAt 0 x ∧ 5 < (Tier.pantry).channels ∧ x.mappedOut .pantry 5 = false ∧ 5 ∉ (x.tier .pantry).failed ∧
    bit (x.rd Reg.pntStatus) 1 = true ∧ x.fld Reg.pntFailThresh 7 0 ≤ x.recentEvents .pantry 5 ∧
    n.RunsAt 0 n ∧ bit (n.rd Reg.celStatus) 1 = false ∧ n.mappedOut .cellar 5 = false ∧
    writes (n.wr (Reg.celMapout 0) 32) Reg.celMapCommit (fun u => !bit (u.rd Reg.celStatus) 2) ∧
    m.RunsAt 0 m ∧ bit (m.rd Reg.celStatus) 2 = true := by decide

/-- Meets the hypotheses of Obligations.ChannelsFailAndAreMappedOut. -/
theorem witness_MapCommit :
    let u := inTurn (State.reset.wr (Reg.celMapout 0) 32) Reg.celMapCommit
    ((u.mapoutUnits .cellar).all (· ∈ (u.tier .cellar).dead)) = false := by decide +kernel

/-- Meets the hypotheses of Obligations.ScrubCalibrationAndRefresh. -/
theorem witness_Scrub :
    let l := { memOn with now := us 4000000000 }
    let p := fun (x : State) (test : Nat → Bool) => (x.tier .pantry).paused.any fun c => test c.1 && decide (x.now < c.2 + pauseLimit)
    memOn.RunsAt 0 memOn ∧ bit (memOn.rd Reg.pntCtrl) 0 = true ∧ tierOf 0x200100 = some .pantry ∧
    memOn.tierFault .pantry 0x200100 256 = none ∧ p memOn (fun c => decide (c = 5)) = false ∧
    bit (memOn.rd Reg.pntStatus) 1 = true ∧ bit (memOn.rd Reg.ldrCtrl) 0 = true ∧ 5 < (Tier.pantry).channels ∧
    memOn.mappedOut .pantry 5 = false ∧ l.RunsAt (us 4000000000) l ∧
    (l.tier .pantry).floorAt + l.floorLength .pantry ≤ l.now ∧ memOn.now < (memOn.tier .pantry).floorAt + memOn.floorLength .pantry := by
  decide

/-- Meets the hypotheses of Obligations.ScrubCalibrationAndRefresh. -/
theorem witness_ScrubUnit : (Tier.pantry).channelOf (memOn.targetUnit .pantry 0x200100) ∉ (memOn.tier .pantry).failed := by
  show _ ∉ ([] : List Nat); exact List.not_mem_nil

/-- Meets the hypotheses of Obligations.ScrubCalibrationAndRefresh. -/
theorem witness_CalibrationEnd :
    let p := { memOn with pantry := { paused := [(5, 0)] } }
    p.RunsAt 0 p ∧ (p.tier .pantry).paused.any (fun c => decide (c.1 = 5)) = true ∧
    (p.tier .pantry).paused.any (fun c => decide ((Tier.pantry).dieOf c.1 = (Tier.pantry).dieOf 5) && decide (p.now < c.2 + pauseLimit)) =
      true := by decide

/-- Meets the hypotheses of Obligations.ScrubCalibrationAndRefresh. -/
theorem witness_LarderFill :
    let m := memOn.wr Reg.pntCtrl 3
    m.RunsAt 0 m ∧ m.memFault 0x200000 256 = none ∧ tierOf 0x200000 = some .pantry ∧
    (m.judgeWords .pantry 0x200000 [⟨0, 0, 1⟩] (errWords .pantry 0x200000 256 [⟨0, 0, 1⟩])).bad = some 0x200000 := by
  decide +kernel

/-- Meets the hypotheses of Obligations.TickBoundaries. -/
theorem witness_TickBoundaries :
    let p : Plan := { period := 2000, phases := [] }
    let s : State := { State.reset with now := us 50, tick := { on := true, next := some (us 10), plan := some p } }
    let u := (s.advance (us 50)).inOrder tickPlace 1
    let w : State := { State.reset with now := us 200, tick := { pending := some p } }
    let i := (State.reset.advance 0).inOrder tickPlace 1
    s.TurnAt (us 50) tickPlace 1 u ∧ u.tick.on = true ∧ u.tick.next = some (us 10) ∧ us 10 ≤ u.now ∧
    State.reset.TurnAt 0 tickPlace 1 i ∧ i.tick.on = false ∧
    w.RunsAt (us 200) w ∧ w.tick.pending = some p ∧ w.tick.on = false ∧ w.tick.pendingAt + us 100 ≤ w.now ∧
    State.reset.tick.pending = none ∧ (0 : Nat) < w.tick.pendingAt + us 100 := by decide

/-- Meets the hypotheses of Obligations.TickBoundaries. -/
theorem witness_TickBoundaryKinds :
    let p : Plan := { period := 2000, phases := [] }
    let u : State := { State.reset with tick := { on := true, next := some (us 10), plan := some p } }
    let e := u.wr Reg.tckCtrl 1
    let g : State := { e with tick := { e.tick with placed := true, realign := true } }
    let c := fun (x : State) => (x.closeTick 0).1.activateDue 0
    bit ((c u).rd Reg.tckCtrl) 0 = false ∧ bit ((c e).rd Reg.tckCtrl) 0 = true ∧ (c e).tick.placed = false ∧
    bit ((c g).rd Reg.tckCtrl) 0 = true ∧ (c g).tick.gap = false ∧ (c g).tick.placed = true ∧ (c g).tick.realign = true ∧
    Registers.wf (c e).regs := by decide +kernel

/-- Meets the hypotheses of Obligations.TickSourcesAndSlack. -/
theorem witness_TickSources :
    let p : Plan := { period := 2000, phases := [] }
    let r := State.reset.wr Reg.tckStatus 1
    let l : State := { r with now := us 3000001, tick := { on := true, heardPtp := 1 } }
    let h : State := { State.reset with now := us 1, tick := { on := true, lostAt := some 0 } }
    let h := h.wr Reg.tckHoldoverLimit 0
    let s : State := { State.reset with tick := { on := true, placed := true, plan := some p, outHigh := some 0 } }
    let b : State := { s with now := us 2, tick := { s.tick with next := none, outHigh := some 0 } }
    l.RunsAt (us 3000001) l ∧ l.lostFrom = some (us 3000000) ∧ us 3000000 ≤ l.now ∧ l.tick.on = true ∧ l.tick.lostAt = none ∧
    h.RunsAt (us 1) h ∧ h.tick.lostAt = some 0 ∧ h.tick.limitPassed = false ∧
    0 + us (h.fld Reg.tckHoldoverLimit 15 0 * 1000000) ≤ h.now ∧ h.tick.stayLocal = false ∧
    h.sourceHere (h.fld Reg.tckStatus 1 0) = true ∧ s.RunsAt 0 s ∧ us (100 + 10) ≤ s.slackLeft ∧ s.slackLeft < us (2000 + 10) ∧
    b.tick.outHigh = some 0 ∧ b.tickOutFalls 0 ≤ us 70000 := by decide

/-- A PTP message of a type whose other bytes are these from byte 1 on, zero-padded to 64. -/
def ptpMsg (ty : Byte) (fl : Byte) : List Byte := [ty, 2, 0, 0, 0, 0, fl] ++ List.replicate 57 0

/-- A PTP client that follows the master of identity 0, with a message waiting. -/
def ptpWith (d : List Byte) (c : PtpClient) : State :=
  { State.reset with ing := { State.reset.ing with rx := [⟨0, 5000, .ptp true false, d⟩], client := { c with sel := some 0 } } }

/-- Meets the hypotheses of Obligations.PtpClientFollowsItsMaster. -/
theorem witness_PtpSync :
    let d := ptpMsg 0 0
    let f := ptpMsg 0 2
    let u := ptpWith d {}
    let v := ptpWith f {}
    u.RunsAt 0 u ∧ (u.takePtp 0).isSome = true ∧ u.fromMaster d = true ∧ bit (leField d 6 1) 1 = false ∧
    (v.takePtp 0).isSome = true ∧ bit (leField f 6 1) 1 = true := by decide

/-- Meets the hypotheses of Obligations.PtpClientFollowsItsMaster. -/
theorem witness_PtpOthers :
    let f := ptpMsg 8 0
    let a := ptpMsg 11 0
    let r := [9, 2] ++ List.replicate 42 0 ++ [0, 0, 0, 0xFF, 0xFE, 0, 0, 0, 0, 1] ++ List.replicate 10 0
    let u := ptpWith f { sync := some (0, 1, 0) }
    let v := ptpWith r { delaySent := some (0, 10), last := some (1, 2) }
    let w := ptpWith a { masters := [{ ident := 0, rank := 0, heard := 0, every := 0 }] }
    (u.takePtp 8).isSome = true ∧ u.ing.client.sync = some (0, 1, 0) ∧ u.fromMaster f = true ∧ 0 = PtpMsg.seqId f ∧
    (v.takePtp 9).isSome = true ∧ v.fromMaster r = true ∧ 0 = PtpMsg.seqId r ∧ beField r 44 10 = v.ownIdent ∧
    (w.takePtp 11).isSome = true ∧ v.ing.client.sel.isSome = true ∧ v.ing.client.delayAt ≤ v.now ∧
    (w.ing.client.masters.find? (fun m => decide (w.ing.client.sel = some m.ident))).isSome = true := by decide

/-- Ingest with a configuration that has one measurement and one video stream, both of number 0, and port 0 on. -/
def ingWith (i : IngSt) : State :=
  let c : List Byte := [0, 0, 1, 0, 1] ++ List.replicate 67 0 ++ [1, 2, 3, 4] ++ List.replicate 16 0 ++ [0x40, 6, 1]
  { State.reset.wr Reg.ingCtrl 1 with ing := { i with cfg := some c } }

/-- A frame with an EtherType and a body, padded, with its FCS. -/
def frameOf (ty body : List Byte) : List Byte :=
  let f := List.replicate 12 0 ++ ty ++ body ++ List.replicate (46 - body.length) 0
  f ++ leBytes 4 (crc32 f)

/-- Ingest with one frame of the measurement stream waiting, whose configuration is the smallest that there is. -/
def measWith (d : List Byte) (fault : Bool) : State :=
  let cfg : List Byte := [0xAA, 0x31, 0, 24] ++ List.replicate 13 0 ++ [1] ++ List.replicate 6 0
  ingWith { rx := [⟨0, 0, .meas 0, d⟩], meas := [(0, { cfg := some cfg, fault := fault, seq := 7 })] }

/-- Meets the hypotheses of Obligations.FramesReachTheirParsers. -/
theorem witness_FrameVerdicts :
    let s := ingWith {}
    let c := s.ing.cfg.getD []
    let p := cfgPort c 0
    State.reset.ing.cfg = none ∧ s.RunsAt 0 s ∧ bit (s.rd Reg.ingCtrl) 0 = true ∧ PortEnt.on p = true ∧ PortEnt.on (cfgPort c 1) = false ∧
    frameVerdict c p [] true = .bad := by decide

/-- Meets the hypotheses of Obligations.FramesReachTheirParsers. -/
theorem witness_FrameKinds :
    let c := (ingWith {}).ing.cfg.getD []
    let p := cfgPort c 0
    let ip : List Byte := [0x45, 0, 0, 28, 0, 0, 0, 0, 0x40, 17, 0x76, 0xCC, 0, 0, 0, 0, 1, 2, 3, 4, 0, 0, 0, 5, 0, 8, 0, 0]
    frameVerdict c p (frameOf [0x88, 8] []) true = .control ∧ frameVerdict c p (frameOf [8, 0] []) true = .drop ∧
    frameVerdict c p (frameOf [0x60, 0] []) true = .unmatched ∧
    frameVerdict c p (frameOf [0x88, 0xF7] []) true = .ptp true false (List.replicate 46 0 ++ leBytes 4 (crc32 ((frameOf [0x88, 0xF7] []).take 60))) ∧
    frameVerdict c p (frameOf [8, 0] ip) true = .udp (mapped [0, 0, 0, 0]) 5 [] := by decide +kernel

/-- Meets the hypotheses of Obligations.FramesReachTheirParsers. -/
theorem witness_MeasFrames :
    let d : List Byte := [0xAA, 1, 0, 16] ++ List.replicate 12 0
    let c : List Byte := [0xAA, 0x31, 0, 24] ++ List.replicate 13 0 ++ [1] ++ List.replicate 6 0
    let u := measWith d false
    let e := List.replicate 64 (0 : Byte)
    (u.takeMeas (fun ty => decide (ty = 0))).map (fun x => (x.1.data, x.2.1)) = some (d, some e) ∧
    (u.measSt 0).cfg.bind measCfgOf = some ⟨1, []⟩ ∧ (u.measSt 0).fault = false ∧ d.length = MeasCfg.frameBytes ⟨1, []⟩ ∧
    (State.reset.measSt 0).cfg.bind measCfgOf = none ∧ ((measWith d true).measSt 0).fault = true ∧
    ((measWith c false).takeMeas (fun ty => decide (ty = 3 ∨ ty = 5))).map (·.2.1) = some (some e) ∧ MeasEnt.fromImage e = false ∧
    frameType c = 3 ∧ measCfgOf c = some ⟨1, []⟩ ∧
    ((measWith [0xAA, 0x11] false).takeMeas (fun ty => decide (ty = 1 ∨ ty = 2))).isSome = true ∧
    ((measWith [0xAA, 0x41] false).takeMeas (fun ty => decide (ty = 4 ∨ 5 < ty))).isSome = true := by decide

/-- Meets the hypotheses of Obligations.FramesReachTheirParsers. -/
theorem witness_PulseTrigger :
    let u := ((ingWith { held := [(3, [(1, 5)])] }).setQueue 3 1 { state := .running }).wr (Reg.engQCfg 3 1) 2
    tabGet (fun _ => []) u.ing.held 3 = [(1, 5)] ∧ u.streamOf 3 5 = none ∧ u.takesTrigger 3 1 = true := by decide

/-- One second and a half after the release, with a state of video stream 0. -/
def vidWith (v : VideoSt) : State := { ingWith { video := [(0, v)] } with now := us 3000000 }

/-- Meets the hypotheses of Obligations.PicturesAreDecoded. -/
theorem witness_RtpPacket :
    let p : List Byte := [0x80] ++ List.replicate 11 0 ++ [0x41]
    let q : List Byte := [0x80] ++ List.replicate 11 0 ++ [0x7F]
    let u := ingWith { rx := [⟨0, 0, .video 0, p⟩], video := [(0, { state := 3 })] }
    let e := List.replicate 64 (0 : Byte)
    u.RunsAt 0 u ∧ findStream u.vidEntries 0 = some e ∧ entStream e = 0 ∧ (u.vid 0).state = 3 ∧ ((ingWith {}).vid 0).state ≠ 3 ∧
    payloadOk (VidEnt.codec e) (Rtp.payload p) = true ∧ payloadOk (VidEnt.codec e) (Rtp.payload q) = false ∧
    (((ingWith {}).vid 0).restart (some (Rtp.ssrc p))).asm = [] := by decide

/-- Meets the hypotheses of Obligations.PicturesAreDecoded. -/
theorem witness_PictureHandover :
    let a : PicAsm := { ts := 0, at0 := 0, stamp := 0, pkts := [(5, 10)], marker := some 5 }
    let w : VPic := { seq := 0, t := 0, bytes := 1 }
    let u := vidWith { asm := [a] }
    let f := vidWith { asm := [a], waiting := List.replicate 8 w }
    let e := List.replicate 64 (0 : Byte)
    u.RunsAt (us 3000000) u ∧ u.vidEntries[0]? = some e ∧ (u.vid 0).asm = [a] ∧ a.due (u.vid 0).start (VidEnt.maxFps e) u.now = true ∧
    (u.vid 0).waiting.length < 8 ∧ 8 ≤ (f.vid 0).waiting.length := by decide

/-- Meets the hypotheses of Obligations.PicturesAreDecoded. -/
theorem witness_DecodeStart :
    let e : List Byte := List.replicate 24 0 ++ [64, 0, 64, 0] ++ List.replicate 36 0
    let c : List Byte := [0, 0, 0, 0, 1] ++ List.replicate 315 0 ++ e
    let w : VPic := { seq := 0, t := 0, bytes := 1 }
    let u : State := { State.reset with ing := { cfg := some c, video := [(0, { state := 1, waiting := [w] })] } }
    let h : SeqHeader := { supported := true, width := 64, height := 64, level := 0, refs := 0, broken := none, wide := false }
    u.nextDecode = some e ∧ (u.vid 0).waiting = [w] ∧ u.freeInst 0 = some 0 ∧ headerFail e h = none ∧
    (headerFail e { h with supported := false }).isSome = true ∧ ((u.setVid 0 { u.vid 0 with waiting := [] }).vid 0).state ≠ 4 := by
  decide +kernel

/-- Meets the hypotheses of Obligations.PicturesAreDecoded. -/
theorem witness_DecodeEnd :
    let w : VPic := { seq := 0, t := 0, bytes := 1 }
    let d : VDecode := { inst := 3, pic := w, slot := 1, started := 0 }
    let u := vidWith { dec := some d }
    u.decoding 3 = some (List.replicate 64 0, d) ∧ d.started + watchdogCycles (List.replicate 64 0) ≤ u.now ∧
    writes (vidWith {}) Reg.vdcRelease (fun _ => true) ∧
    writes (vidWith { state := 3 }) Reg.vdcRearm
      (fun u => decide ((u.vid 0).state = 3) && (findStream u.vidEntries 0).isSome) := by decide

/-- A clock second and a half in, ticks on, one open window from the start. -/
def alnWith (i : IngSt) : State := { State.reset with now := us 1500000, ing := i, tick := { on := true } }

/-- Meets the hypotheses of Obligations.WindowsCloseAndResultsGoOut. -/
theorem witness_Samples :
    let x : AlnSample := { ch := 3, t := 1000, v := 0 }
    let f : AlnSample := { ch := 3, t := 3000000000, v := 0 }
    let o := alnWith { queue := [x], wins := [{ k := 0, start := 0, n := 1, cfg := [] }] }
    let n := { State.reset with ing := { queue := [x] } }
    o.RunsAt (us 1500000) o ∧ o.ing.queue = [x] ∧ o.sampleLate x = false ∧ x.t ≤ (o.timeNs : Int) + 1000000000 ∧
    (o.chSamples 3).getLast?.any (fun y => decide (x.t ≤ y.t)) = false ∧ (o.timeNs : Int) + 1000000000 < f.t ∧ o.sampleLate f = false ∧
    n.tick.on = false ∧ (alnWith {}).sampleLate x = true := by decide

/-- Meets the hypotheses of Obligations.WindowsCloseAndResultsGoOut. -/
theorem witness_WindowCutoff :
    let w : WinSt := { k := 0, start := 0, stop := some (1000, 1100), n := 1, cfg := [] }
    let u := alnWith { wins := [w] }
    u.ing.wins = [w] ∧ w.stop = some (1000, 1100) ∧ w.cutoff = some (1000, 1100) ∧ 1100 ≤ u.now ∧ u.alignPhase = none := by decide

/-- Meets the hypotheses of Obligations.WindowsCloseAndResultsGoOut. -/
theorem witness_CfgSwap :
    let m := memOn
    let u : State := { State.reset with now := us 200, ing := { pending := some [] } }
    writes m Reg.ingCtrl (fun u => decide (u.rd Reg.ingCtrl < 8) && (u.memFault 0 64).isNone) ∧
    u.RunsAt (us 200) u ∧ u.ingDue u.now = true ∧ u.tick.on = false := by decide

/-- Meets the hypotheses of Obligations.WindowsCloseAndResultsGoOut. -/
theorem witness_Publish :
    let p := (memOn.wr Reg.ingPubCfg 0x401).wr Reg.ingPubTailDa 0x200000
    let u : State := { p with mem := [(0x200000, 1)] }
    let f : State := { p with ing := { pub := { fresh := true } } }
    bit (u.rd Reg.ingPubCfg) 0 = true ∧ u.ing.pub.halted = false ∧ u.pubTail.ing.pub = { tail := 1 } ∧
    f.pubTail.ing.pub.head = f.pubTail.ing.pub.tail ∧ u.pubTail.memFault 0 32 = none ∧ u.pubTail.holdsBytes 0 32 = true ∧
    leField (u.pubTail.load 0 32) 0 4 = 0 ∧ (u.pubTail.ioRead 0 32).holdsBytes 0 0 = true := by decide

/-- Meets the hypotheses of Obligations.WindowsCloseAndResultsGoOut. -/
theorem witness_PublishSeq :
    let p := (memOn.wr Reg.ingPubCfg 0x401).wr Reg.ingPubTailDa 0x200000
    let u : State := { p with mem := [(0, 9), (0x200000, 1)] }
    u.pubTail.ing.pub.head = 0 ∧ leField (u.pubTail.load 0 32) 0 4 ≠ 0 := by decide

/-- Meets the hypotheses of Obligations.ContextsAreCreatedAndRemoved. -/
theorem witness_Created :
    let w := putBits 0 0 0 1
    writes (State.reset.setFld Reg.schStatus 4 0 16) Reg.schCtxCfg (fun u =>
      let c : Ctx := { cfg := w &&& 0x3fffff001fffff, place := .swapped, saved := some (u.newQueue {}), blockedAt := u.now }
      decide (u.ctxLimit ≤ 16) && u.ctxExists u.selected.1 u.selected.2 && !bit (u.ctx 0 0).cfg 0 &&
        decide ((u.setCtx 0 0 c).freeSlot 0 = some 0) && !(u.setCtx 0 0 c).shelvesMeet 0 0 && !u.inSlot 0) ∧
    bits w 9 8 ≤ 1 ∧ bits w 42 32 ≤ 1535 ∧ bits w 53 43 ≤ 1536 ∧ bit (w &&& 0x3fffff001fffff) 0 = true := by decide

/-- Meets the hypotheses of Obligations.ContextsAreCreatedAndRemoved. -/
theorem witness_CreatedInv : (inTurn (State.reset.setFld Reg.schStatus 4 0 16) Reg.schCtxCfg).Inv :=
  ⟨rfl, rfl, rfl, rfl, rfl, rfl, rfl, rfl⟩

/-- A state for the witnesses of Obligations.ContextsAreCreatedAndRemoved. -/
def fourResident (u : State) : State :=
  [0, 1, 2, 3].foldl (fun s k => s.setCtx 0 (k + 1) { cfg := 1, place := .resident, slot := k }) u

/-- Meets the hypotheses of Obligations.ContextsAreCreatedAndRemoved. -/
theorem witness_CreatedInHatch :
    writes (fourResident (State.reset.setFld Reg.schStatus 4 0 16)) Reg.schCtxCfg (fun u =>
      let c : Ctx := { cfg := putBits 0 0 0 1 &&& 0x3fffff001fffff, place := .swapped, saved := some (u.newQueue {}), blockedAt := u.now }
      u.ctxExists u.selected.1 u.selected.2 && !bit (u.ctx 0 0).cfg 0 &&
        decide ((u.setCtx 0 0 c).freeSlot 0 = none)) := by decide

/-- Meets the hypotheses of Obligations.ContextsAreCreatedAndRemoved. -/
theorem witness_Removed :
    writes ((State.reset.setFld Reg.schStatus 4 0 16).setCtx 0 0 { cfg := 1, place := .resident }) Reg.schCtxCfg (fun u =>
      let w := putBits (u.ctx 0 0).cfg 0 0 0
      u.ctxExists u.selected.1 u.selected.2 && decide (bits w 9 8 ≤ 1) && decide (bits w 42 32 ≤ 1535) && decide (bits w 53 43 ≤ 1536) &&
        decide (w &&& 0x3fffff001fffff = w) && !bit w 0 && bit (u.ctx 0 0).cfg 0 &&
        decide (freeCtxFields w = freeCtxFields (u.ctx 0 0).cfg) && decide ((u.ctxQueue 0 0).ops = []) &&
        decide ((u.ctxQueue 0 0).state = .disabled) && decide ((u.ctx 0 0).place = .resident)) := by decide

/-- Meets the hypotheses of Obligations.ContextsAreCreatedAndRemoved. -/
theorem witness_RemovalRefused :
    writes (((State.reset.setFld Reg.schStatus 4 0 16).setCtx 0 0 { cfg := 1, place := .resident }).setQueue 0 0
      { state := .idle, ops := [{ issue := 0, desc := [] }] }) Reg.schCtxCfg (fun u =>
      u.ctxExists u.selected.1 u.selected.2 && decide ((u.ctxQueue 0 0).ops ≠ [])) := by decide

/-- The hypotheses of Obligations.ContextsAreAbortedAndEvicted on context 0 of engine 0, with a property p. -/
abbrev aborts (s : State) (p : State → State → Bool) : Prop :=
  writes s Reg.schCtxCtrl (fun u => decide (u.ctxLimit ≤ 16) && u.ctxExists 0 0 && decide (u.selected = (0, 0)) && p u (u.inOrder (ctxPlace 0 0) 0))

/-- Sixteen contexts an engine. -/
def sixteen : State := State.reset.setFld Reg.schStatus 4 0 16

/-- Meets the hypotheses of Obligations.ContextsAreAbortedAndEvicted. -/
theorem witness_Aborted :
    let r := sixteen.setCtx 0 0 { cfg := 1, place := .resident }
    let x : QueueSt := { state := .running, ops := [{ issue := 0, desc := [Op.copy] }] }
    let live := fun (v : State) => decide ((v.queue 0 0).state ≠ .disabled) && decide ((v.queue 0 0).state ≠ .halted)
    aborts sixteen (fun u _ => decide ((u.ctx 0 0).place = .free)) ∧
    aborts r (fun u _ => decide ((u.ctx 0 0).place = .resident) && decide ((u.ctxQueue 0 0).state = .disabled)) ∧
    aborts (r.setQueue 0 0 { state := .idle }) (fun _ v => live v && decide ((v.queue 0 0).ops = [])) ∧
    aborts (r.setQueue 0 0 x) (fun _ v => live v && decide ((v.queue 0 0).ops ≠ [])) ∧
    aborts (r.setQueue 0 0 { x with state := .halted }) (fun u v =>
      decide ((u.ctxQueue 0 0).state = .halted) && decide ((u.ctxQueue 0 0).ops ≠ []) && decide ((v.queue 0 0).state = .halted)) := by
  decide

/-- Meets the hypotheses of Obligations.ContextsAreAbortedAndEvicted. -/
theorem witness_AbortedInHatch :
    aborts (sixteen.setCtx 0 0 { cfg := 1, place := .swapped, saved := some { state := .idle } }) (fun u v =>
      decide ((u.ctx 0 0).place = .swapped) && decide ((v.ctx 0 0).place = .swapped) &&
        (v.ctx 0 0).saved.any fun y => decide (y.state = .idle) && decide (y.ops = [])) := by decide

/-- Meets the hypotheses of Obligations.ContextsAreAbortedAndEvicted. -/
theorem witness_AbortedInv :
    (inTurn sixteen Reg.schCtxCtrl).Inv ∧
    ((inTurn (sixteen.setCtx 0 0 { cfg := 1, place := .swapped, saved := some { state := .idle } }) Reg.schCtxCtrl).inOrder (ctxPlace 0 0) 0).Inv :=
  ⟨⟨rfl, rfl, rfl, rfl, rfl, rfl, rfl, rfl⟩, ⟨rfl, rfl, rfl, rfl, rfl, rfl, rfl, rfl⟩⟩

/-- Meets the hypotheses of Obligations.ContextsAreAbortedAndEvicted. -/
theorem witness_Evicted :
    aborts (sixteen.setCtx 0 0 { cfg := 1, place := .resident }) (fun u _ => !(u.ctx 0 0).running && !bit (u.ctx 0 0).cfg 7 &&
      (u.ctxQueue 0 0).ops.all fun o => decide (o.wbuf = none)) ∧
    aborts (sixteen.setCtx 0 0 { cfg := 129, place := .resident }) (fun u _ => bit (u.ctx 0 0).cfg 7) := by decide

/-- Meets the hypotheses of Obligations.ContextsAreAbortedAndEvicted. -/
theorem witness_PartitionAborted :
    let b := (State.reset.setCtx 0 0 { cfg := 1, place := .resident }).wr (Reg.schJobCfg 0) 0x401
    let v := fun (u : State) => u.ctxs.foldl (fun s x => if x.2.place ≠ .free ∧ x.2.part = 0 then s.abortContext (x.1 / 16) (x.1 % 16) else s) u
    writes State.reset (Reg.schPartCtrl 0) (fun u => !bit ((v u).rd (Reg.schJobCfg 0)) 0) ∧
    writes b (Reg.schPartCtrl 0) (fun u => bit ((v u).rd (Reg.schJobCfg 0)) 0) := by decide

/-- A state for the witnesses of Obligations.EnginesPassBetweenContexts. -/
def unboundCfg : Nat := 0x4001

/-- A state for the witnesses of Obligations.EnginesPassBetweenContexts. -/
def openCopy : QueueSt := { state := .running, ops := [{ issue := 0, desc := [Op.copy * 2 ^ 32] }] }

/-- A state for the witnesses of Obligations.EnginesPassBetweenContexts. -/
def oneReady : State := ((State.reset.setCtx 0 0 { cfg := unboundCfg, place := .resident }).setQueue 0 0 openCopy).advance 0

/-- A state for the witnesses of Obligations.EnginesPassBetweenContexts. -/
def inHatch : State := (State.reset.setCtx 0 5 { cfg := unboundCfg, place := .swapped, saved := some openCopy }).advance 0

/-- A state for the witnesses of Obligations.EnginesPassBetweenContexts. -/
def fullEngine (cfg : Nat) : State :=
  [0, 1, 2, 3].foldl (fun s k => (s.setCtx 0 k { cfg := cfg, place := .resident, slot := k }).setQueue 0 k { state := .idle }) inHatch

/-- The state in which CONTEXT_SWITCH_IN has its turn. -/
def switchTurn (s : State) : State := (((s.advance s.now).inOrder tickPlace 5).fallDue).tickDue

/-- Meets the hypotheses of Obligations.EnginesPassBetweenContexts. -/
theorem witness_SwitchIn :
    let r := oneReady.setCtx 0 0 { cfg := unboundCfg, place := .resident, running := true }
    let held := fun (op : Nat) => (oneReady.setCtx 0 0 { cfg := unboundCfg + 2 ^ 4, place := .resident }).setCtx 0 1
      { cfg := unboundCfg, place := .resident, slot := 1, running := true } |>.setQueue 0 1
      { state := .running, ops := [{ issue := 0, desc := [op * 2 ^ 32] }] }
    let m := switchTurn (held Op.mma)
    let n := switchTurn (held Op.copy)
    (State.reset.advance 0).stopped = false ∧ (switchTurn State.reset).nextHolder 0 = none ∧ (oneReady.advance 0).stopped = false ∧
    (switchTurn oneReady).leaving 0 = false ∧ (switchTurn oneReady).nextHolder 0 = some 0 ∧
    ((switchTurn oneReady).ctx 0 0).running = false ∧ (switchTurn oneReady).runner 0 = none ∧
    (switchTurn r).nextHolder 0 = some 0 ∧ ((switchTurn r).ctx 0 0).running = true ∧
    m.leaving 0 = false ∧ m.nextHolder 0 = some 0 ∧ (m.ctx 0 0).running = false ∧ m.runner 0 = some 1 ∧
    (∃ o ∈ (m.ctxQueue 0 1).ops, needsEngine (Desc.op o.desc) = true) ∧
    n.leaving 0 = false ∧ n.nextHolder 0 = some 0 ∧ (n.ctx 0 0).running = false ∧ n.runner 0 = some 1 ∧
    (∀ o ∈ (n.ctxQueue 0 1).ops, needsEngine (Desc.op o.desc) = false) := by decide +kernel

/-- Meets the hypotheses of Obligations.EnginesPassBetweenContexts. -/
theorem witness_Swap :
    let s := fullEngine unboundCfg
    let g := fullEngine (unboundCfg + 128)
    inHatch.RunsAt 0 inHatch ∧ inHatch.inSlot 0 = false ∧ inHatch.ctxsIn 0 .restoring = [] ∧
    inHatch.swapIncoming 0 = some 5 ∧ inHatch.freeSlot 0 = some 0 ∧ State.reset.swapIncoming 0 = none ∧
    s.freeSlot 0 = none ∧ s.swapIncoming 0 = some 5 ∧ s.swapVictim 0 5 = some 0 ∧ s.inSlot 0 = false ∧
    g.freeSlot 0 = none ∧ g.swapVictim 0 5 = none := by decide

/-- Meets the hypotheses of Obligations.EnginesPassBetweenContexts. -/
theorem witness_SwapIn :
    let w := State.reset.setCtx 0 5 { cfg := unboundCfg, place := .restoring, saved := some openCopy }
    let h := State.reset.setCtx 0 5 { cfg := unboundCfg, place := .restoring, saved := some { state := .halted } }
    State.reset.ctxsIn 0 .restoring = [] ∧ w.ctxsIn 0 .saving = [] ∧ w.ctxsIn 0 .restoring = [5] ∧
    (w.ctxQueue 0 5).state ≠ .halted ∧ h.ctxsIn 0 .restoring = [5] ∧ (h.ctxQueue 0 5).state = .halted := by decide

/-- Meets the hypotheses of Obligations.RemoteRequestsAreAnswered. -/
theorem witness_Remote :
    let r : RemoteTag := ⟨9, 2 ^ 63, 0, 32, 0, 0, .get⟩
    let s := { State.reset.setCtx 0 3 { cfg := 1, place := .resident, tags := [r], leftAt := some 5 } with now := 1000000 }
    let h := { State.reset.setCtx 0 3 { cfg := 1, place := .resident, tags := [r], leftAt := some 1000000 } with now := 1000000 }
    let at' := fun (s : State) (k : Nat) => (s.advance 1000000).inOrder (tagPlace 9) k
    s.TurnAt 1000000 (tagPlace 9) 0 (at' s 0) ∧ (at' s 0).tagOwner 9 = some (0, 3, r) ∧ r.tag = 9 ∧ ((at' s 0).ctx 0 3).running = false ∧
    ((at' s 0).ctx 0 3).leftAt ≠ some (at' s 0).now ∧ ((at' h 0).ctx 0 3).leftAt = some (at' h 0).now ∧
    s.TurnAt 1000000 (tagPlace 9) 1 (at' s 1) ∧ (at' s 1).tagOwner 9 = some (0, 3, r) ∧
    r.issuedAt + us ((at' s 1).fld Reg.ktfTimeout 15 0) ≤ (at' s 1).now ∧ (at' State.reset 0).tagOwner 9 = none := by decide +kernel

/-- Meets the hypotheses of Obligations.RemoteRequestsAreAnswered. -/
theorem witness_RemoteInv :
    let r : RemoteTag := ⟨9, 2 ^ 63, 0, 32, 0, 0, .get⟩
    (({ State.reset.setCtx 0 3 { cfg := 1, place := .resident, tags := [r], leftAt := some 5 } with now := 1000000 } : State).advance
      1000000 |>.inOrder (tagPlace 9) 0).Inv := ⟨rfl, rfl, rfl, rfl, rfl, rfl, rfl, rfl⟩

/-- A state for the witnesses of Obligations.JobsArePlaced. -/
def jobRing (entry : List Byte) : State :=
  ((((((memOn.wr Reg.schCtrl 1).wr (Reg.schJobCfg 0) 0x401).wr (Reg.schJobBase 0) 0x10000).wr (Reg.schJobTailDa 0) 0x20000).wr
    (Reg.schClientCfg 0) 0x10001).setJob 0 {}).store 0x10000 entry |>.store 0x20000 [1]

/-- A state for the witnesses of Obligations.JobsArePlaced. -/
def jobEntry (seq list entries : Nat) : List Byte :=
  leBytes 4 seq ++ [0, 0xFF, 0, 0] ++ leBytes 8 list ++ leBytes 2 entries ++ [0, 0] ++ leBytes 12 (2 ^ 96 - 1) ++ leBytes 32 0

/-- A state for the witnesses of Obligations.JobsArePlaced. -/
def pooled : State :=
  ((jobRing (jobEntry 0 0x40000 2)).setCtx 0 0 { cfg := 0x4101, place := .resident }).setQueue 0 0 { state := .idle }
    |>.wr (Reg.engQCfg 0 0) 0x401 |>.wr (Reg.engQTailDa 0 0) 0x30000

/-- Meets the hypotheses of Obligations.JobsArePlaced. -/
theorem witness_JobsOff : State.reset.RunsAt 0 State.reset ∧ bit (State.reset.rd Reg.schCtrl) 0 = false := by decide

/-- Meets the hypotheses of Obligations.JobsArePlaced. -/
theorem witness_JobSeq :
    let u := jobRing (jobEntry 5 0 0)
    let w := u.jobTail 0
    u.RunsAt 0 u ∧ bit (u.rd Reg.schCtrl) 0 = true ∧ bit (u.rd (Reg.schJobCfg 0)) 0 = true ∧ (u.job 0).halted = false ∧
    (w.job 0).halted = false ∧ (w.job 0).fresh = false ∧ (w.job 0).window = [0] ∧ w.memFault (w.jobDa 0 0) 64 = none ∧
    w.holdsBytes (w.jobDa 0 0) 64 = true ∧ leField (w.load (w.jobDa 0 0) 64) 0 4 ≠ 0 := by decide

/-- Meets the hypotheses of Obligations.JobsArePlaced. -/
theorem witness_JobBad :
    let w := (jobRing (jobEntry 0 0x40000 0)).jobTail 0
    (w.job 0).window = [0] ∧ leField (w.load (w.jobDa 0 0) 64) 0 4 = 0 ∧ jobBad (w.load (w.jobDa 0 0) 64) = true := by decide

/-- Meets the hypotheses of Obligations.JobsArePlaced. -/
theorem witness_JobWaits :
    let w := ((jobRing (jobEntry 0 0x40000 2)).wr (Reg.schClientCfg 0) 0x10000).jobTail 0
    (w.job 0).window = [0] ∧ jobBad (w.load (w.jobDa 0 0) 64) = false ∧ w.clientReady 0 0 = false := by decide

/-- Meets the hypotheses of Obligations.JobsArePlaced. -/
theorem witness_JobPlaced :
    let u := pooled.advance 0
    let w := u.jobTail 0
    let j := jobOf (w.load (w.jobDa 0 0) 64)
    pooled.RunsAt 0 u ∧ (w.job 0).window = [0] ∧ jobBad (w.load (w.jobDa 0 0) 64) = false ∧ w.depMet j = true ∧
    w.clientReady 0 j.client = true ∧ w.jobTarget 0 j = some (16 * 0 + 0) := by decide

/-- A state for the witnesses of Obligations.EnginesAreTestedInTurn. -/
def testing (x : TestSlot) : State := { State.reset with now := 1000, health := { slots := [x] } }

/-- Meets the hypotheses of Obligations.EnginesAreTestedInTurn. -/
theorem witness_SelfTest :
    let r := { State.reset with tick := { State.reset.tick with on := true } }
    let d := testing { engine := 7, kind := .rotation, start := 0 }
    let w := testing { engine := 7, kind := .rotation, start := 0, draining := false }
    let b := testing { engine := 7, kind := .rotation, start := 0, testing := some 5 }
    let o := b.setEngineOut 7 true
    let n : State := { d with now := 100000 }
    r.rotates = true ∧ r.rotationNext = some (0 : Fin 96).val ∧ r.slotKind 0 = some .rotation ∧ State.reset.slotKind 0 = none ∧
    r.canWithdraw 0 = true ∧ State.reset.RunsAt 0 State.reset ∧ State.reset.slotOf 7 = none ∧
    w.RunsAt 1000 w ∧ w.slotOf 7 = some { engine := 7, kind := .rotation, start := 0, draining := false } ∧
    w.now ≤ 0 + us 50 ∧ d.canWithdraw 7 = true ∧ b.RunsAt 1000 b ∧ (b.slotOf 7).any (fun x => x.testing.isSome) = true ∧
    b.engineOut 7 = false ∧ o.engineOut 7 = true ∧ n.RunsAt 100000 n ∧ (n.slotOf 7).isSome ∧ 0 + us 50 < n.now := by decide

/-- A state for the witnesses of Obligations.StandInsTakePulseTriggers. -/
def standinReg : Nat := 1 + 3 * 2 ^ 1 + 4 * 2 ^ 8 + 0 * 2 ^ 15 + 0 * 2 ^ 19 + 1 * 2 ^ 30

/-- Meets the hypotheses of Obligations.StandInsTakePulseTriggers. -/
theorem witness_StandIn :
    let u := State.reset.wr (Reg.schStandin 0) standinReg
    let m := { u with mirrors := [0] }
    let d := { m with moved := [0] }
    let o := { d with health := { slots := [{ engine := 3, kind := .rotation, start := 0 }] } }
    let r := { m with returning := [0] }
    State.reset.RunsAt 0 State.reset ∧ bits standinReg 40 30 ≠ 0 ∧ bits standinReg 14 8 ≠ bits standinReg 7 1 ∧
    writes State.reset (Reg.schStandin 0) (fun u => !u.reservedEngine (bits standinReg 14 8)) ∧
    bits standinReg 29 19 + bits standinReg 40 30 ≤ 1536 ∧
    State.reset.standinOf 0 = none ∧ u.RunsAt 0 u ∧ u.standinOf 0 = some (3, 4, 0) ∧ u.engineOut 3 = false ∧
    m.standinOf 0 = some (3, 4, 0) ∧ d.slotOf 3 = none ∧ (o.slotOf 3).any (·.draining) = true ∧ o.fifosEmpty 3 = true ∧
    r.fifosEmpty 4 = true := by decide

/-- A state, or a part of one, for the tests. -/
def portUp (n : Nat) : State := State.reset.setFld (linkReg n) 2 0 2

/-- Meets the hypotheses of Obligations.PacketsAreTakenInSequence. -/
theorem witness_Packets :
    let u := portUp 0
    let p : Packet := { seq := 0 }
    let x := (({ u.link 0 with rx := 0 }).acked p.ack).credited { p with type := 1 }
    let v := ((u.setLink 0 x).bump (Reg.ktfPortRx 0) 63 0 1).drainLink 0 1
    u.RunsAt 0 u ∧ u.linkState 0 = 2 ∧ State.reset.linkState 0 ≠ 2 ∧ v.moduleId = p.dst ∧
    ({ p with seq := 4095 } : Packet).seq % 4096 ≠ ((u.link 0).rx + 1) % 4096 ∧
    ((u.link 0).rx + 4096 - 4095 % 4096) % 4096 < 2048 ∧ ¬ ((u.link 0).rx + 4096 - 5 % 4096) % 4096 < 2048 ∧
    bit (v.rd Reg.ktfTickCfg) 16 = false := by decide

/-- Meets the hypotheses of Obligations.PacketsAreTakenInSequence. -/
theorem witness_PacketsTaken :
    let p : Packet := { type := 1 }
    let u := portUp 0
    let x := (({ u.link 0 with rx := 0 }).acked 0).credited p
    u.Takes 0 p (((u.setLink 0 x).bump (Reg.ktfPortRx 0) 63 0 1).drainLink 0 1) := by
  refine ⟨rfl, rfl, ?_⟩
  decide

/-- Meets the hypotheses of Obligations.PacketsAreTakenInSequence. -/
theorem witness_TickAccepted :
    let u := (portUp 0).wr Reg.ktfTickCfg 0x10000
    bit (u.rd Reg.ktfTickCfg) 16 = true ∧ u.fld Reg.ktfTickCfg 12 0 = leField [] 12 2 % 8192 ∧ u.tick.fabSeen ≠ some (leField [] 0 8) := by
  decide

/-- Meets the hypotheses of Obligations.RequestsAreServedInOrder. -/
theorem witness_Served :
    let v := memOn.setFld (linkReg 0) 2 0 2
    let g : Packet := { type := 1, len := 64 }
    let o : Packet := { g with addr := 2 ^ 44 }
    let w := (v.wr (Reg.ktfExportCfg 0) (1 + 4 * 2 ^ 2 + 1 * 2 ^ 8)).wr Reg.ktfId 0
    packetAct { type := 1 } = none ∧ packetAct g = some .read ∧ packetAct o = some .read ∧
    v.offsetFault o.addr 64 = some F.addrRange ∧ v.offsetFault 0 64 = none ∧
    ((List.range 8).find? fun i => v.windowAdmits i g) = none ∧ ((List.range 8).find? fun i => w.windowAdmits i g) = some 0 ∧
    (State.reset.setFld (linkReg 0) 2 0 2).offsetFault 0 64 ≠ none := by decide

/-- A state for the witnesses of Obligations.LinksTrainAndFail. -/
def training (n : Nat) : State := (State.reset.setFld (linkReg n) 2 0 1).setLink n { lanes := 15, matched := true }

/-- Meets the hypotheses of Obligations.LinksTrainAndFail. -/
theorem witness_Links :
    let u := training 0
    let o := (State.reset.wr Reg.ktfCtrl 1).wr (Reg.ktfPortCfg 0) 1
    let l := (State.reset.setFld (linkReg 0) 2 0 1).setLink 0 { lanes := 1 }
    let d := training 8
    let x := State.reset.setLink 8 { matched := true }
    writes State.reset Reg.ktfCtrl (fun u => !bit (u.rd Reg.ktfCtrl) 0) ∧ writes o Reg.ktfCtrl (fun u => bit (u.rd Reg.ktfCtrl) 0) ∧
    writes o (Reg.ktfPortCtrl 0) (fun u => bit (u.rd Reg.ktfCtrl) 0 && decide (u.role 0 ≠ 0)) ∧
    writes State.reset (Reg.ktfPortCtrl 0) (fun u => !bit (u.rd Reg.ktfCtrl) 0) ∧
    u.RunsAt 0 u ∧ u.linkState 0 = 1 ∧ (u.link 0).matched = true ∧
    (u.link 0).lanes.testBit 2 = true ∧ (u.link 0).lanes &&& (15 ^^^ 2 ^ 2) ≠ 0 ∧
    (l.link 0).lanes.testBit 0 = true ∧ (l.link 0).lanes &&& (15 ^^^ 2 ^ 0) = 0 ∧
    (0, 1) = (u.wr (Reg.ktfPortNeighbor 0) (0 + 1 * 2 ^ 16)).requiredPeer 0 ∧
    d.linkState dulis = 1 ∧ (d.link dulis).matched = true ∧ x.linkState dulis = 0 ∧ (x.link dulis).matched = true ∧
    (portUp 8).linkState dulis = 2 := by decide

/-- A state for the witnesses of Obligations.CompanionMessagesTakeEffect. -/
def dulisUp (a : AtticSt) : State := { portUp 8 with attic := a }

/-- A state for the witnesses of Obligations.CompanionMessagesTakeEffect. -/
def takenOn (u : State) (p : Packet) : State :=
  let x := (({ u.link dulis with rx := p.seq % 4096 }).acked p.ack).credited p
  (u.setLink dulis x).drainLink dulis (x.queue.length + 1)

/-- Meets the hypotheses of Obligations.CompanionMessagesTakeEffect. -/
theorem witness_Companion :
    let q : Packet := { seq := 0, tag := 3 }
    let r := dulisUp { secs := [(2, { req := some (3, false, 0) })] }
    let w : AtticWrite := { tag := 3, da := atticBase + 128, since := 0, op := none }
    let o := dulisUp { writes := [w] }
    (dulisUp {}).RunsAt 0 (dulisUp {}) ∧ (dulisUp {}).linkState dulis = 2 ∧ (takenOn (dulisUp {}) q).sectorOfTag 3 = none ∧
    (takenOn r q).sectorOfTag 3 = some 2 ∧ (takenOn o q).attic.writes.find? (fun w => decide (w.tag = 3)) = some w ∧
    ((takenOn r q).sector 5).st = .i := by decide

/-- Meets the hypotheses of Obligations.CompanionMessagesTakeEffect. -/
theorem witness_CompanionTakes :
    let q : Packet := { seq := 0, tag := 3 }
    (dulisUp {}).Takes dulis q (takenOn (dulisUp {}) q) := ⟨rfl, rfl, rfl⟩

/-- Meets the hypotheses of Obligations.CompanionMessagesTakeEffect. -/
theorem witness_Inbound :
    let o := (takenOn ((memOn.setFld (linkReg 8) 2 0 2).wr Reg.atcCtrl 3) {})
    let c := takenOn (dulisUp {}) {}
    let rd : Packet := { type := 0x30, len := 8 }
    let at' : Packet := { type := 0x32, op := 0, len := 4, payload := [1, 0, 0, 0] }
    inboundAct { type := 0x30 } = none ∧ bit (o.rd Reg.atcCtrl) 1 = true ∧ bit (c.rd Reg.atcCtrl) 1 = false ∧
    inboundAct rd = some (.read, 8) ∧ regionOf Reg.tckStatus = .register ∧ o.mayRead .companion Reg.tckStatus = true ∧
    c.mayRead .companion Reg.tckStatus = false ∧ o.mayWrite .companion Reg.tckCtrl = true ∧
    inboundAct { type := 0x31, len := 8, payload := leBytes 8 0 } = some (.write (leBytes 8 0), 8) ∧
    regionOf (shelfDa 0 0) = .shelf 0 0 ∧ o.memFault (shelfDa 0 0) 8 = none ∧
    regionOf 0 = .pantry ∧ o.memFault 0 8 = none ∧ (inboundAct at').isSome ∧
    (o.memFault 0x1fffffffff8 8).map (·.1) = some F.addrRange := by decide

/-- Meets the hypotheses of Obligations.CompanionMessagesTakeEffect. -/
theorem witness_AtticTimeout :
    let r := { dulisUp { secs := [(2, { req := some (3, false, 0) })] } with now := us 1000 }
    let w : AtticWrite := { tag := 3, da := atticBase + 128, since := 0, op := none }
    let o := { dulisUp { writes := [w] } with now := us 1000 }
    r.RunsAt (us 1000) r ∧ sectorOf (atticBase + 128) = 2 ∧ (r.sector 2).req = some (3, false, 0) ∧
    0 + us (r.fld Reg.atcTimeout 9 0) ≤ r.now ∧
    ((r.noteAttic (sectorDa 2) true).failSector 2 F.memTimeout).attic.writes = [] ∧ (o.sector 2).req = none ∧
    (o.attic.writes.find? fun w => decide (w.da / 64 = (atticBase + 128) / 64) &&
      decide (w.since + us (o.fld Reg.atcTimeout 9 0) ≤ o.now)) = some w := by decide

/-- Meets the hypotheses of Obligations.TemperatureAndRailsAreWatched. -/
theorem witness_Watched :
    let d := State.reset.setDieSt 0 { cap := 8, downAt := some 0 }
    let p := State.reset.setDieSt 0 { cap := 4, upAt := some 0 }
    let y := { d with now := us 100 }
    let z := { p with now := us 1000 }
    let r := { State.reset.setRailSt 3 { droop := some 0, noted := 1 } with now := us 20 }
    State.reset.RunsAt 0 State.reset ∧ y.RunsAt (us 100) y ∧ (y.dieSt 0).downAt = some 0 ∧ 0 + us 100 ≤ y.now ∧
    z.RunsAt (us 1000) z ∧ (z.dieSt 0).downAt = none ∧ (z.dieSt 0).upAt = some 0 ∧ 0 + us 1000 ≤ z.now ∧
    (State.reset.dieSt 0).downAt = none ∧ (State.reset.dieSt 0).upAt = none ∧
    r.RunsAt (us 20) r ∧ 500 * 100 ≤ railNominal 3 * (100 - r.fld Reg.hltDroopCfg 3 0) ∧
    0 < (r.railSt 3).noted ∧ r.now < (r.railSt 3).noted - 1 + us 1000 ∧ (r.railSt 3).droop = some 0 ∧ 0 + 256 + us 10 ≤ r.now ∧
    ¬ 700 * 100 ≤ railNominal 3 * (100 - 15) ∧ (State.reset.railSt 3).noted = 0 ∧ (State.reset.railSt 3).droop = none ∧
    500 * 10 < railNominal 3 * 9 ∧ State.reset.power.shutting = none := by decide

/-- Meets the hypotheses of Obligations.TemperatureAndRailsAreWatched. -/
theorem witness_Overcap :
    let u := (List.range 96).foldl (fun (s : State) (e : Nat) => s.setEng e { s.eng e with duty := 1 }) State.reset
    (List.range 96).all (fun e => decide ((u.eng e).duty = 1)) = true ∧ u.fld Reg.pwrCapFuse 15 0 < 65535 := by decide +kernel

/-- A state for the witnesses of Obligations.FaultRecordsAreKept. -/
def logOn : State :=
  { State.reset.wr Reg.fltNorCfg 0x1004 with flt := { State.reset.flt with norQueue := [leBytes 64 0] }, now := us 8000000 }

/-- Meets the hypotheses of Obligations.FaultRecordsAreKept. -/
theorem witness_Records :
    let e := State.reset.wr Reg.fltCtrl 0x401
    let f := e.wr Reg.fltRingTail 16
    writes State.reset Reg.fltInject (fun _ => true) ∧ codeKnown 0x31 = true ∧ codeKnown 0 = false ∧
    writes State.reset Reg.fltRingHead (fun u => decide (ahead32 0 (u.fld Reg.fltRingTail 31 0) ≤ 0) &&
      decide (0 < ahead32 3 (u.fld Reg.fltRingTail 31 0))) ∧ writes State.reset Reg.fltAlertStatus (fun _ => true) ∧
    bit (State.reset.rd Reg.fltCtrl) 0 = false ∧ State.reset.rd Reg.fltRingDa + 0 < atticBase ∧ bit (e.rd Reg.fltCtrl) 0 = true ∧
    ¬ ((2 ^ e.fld Reg.fltCtrl 12 8 : Nat) : Int) ≤ ahead32 (e.fld Reg.fltRingTail 31 0) (e.fld Reg.fltRingHead 31 0) ∧
    ((2 ^ f.fld Reg.fltCtrl 12 8 : Nat) : Int) ≤ ahead32 (f.fld Reg.fltRingTail 31 0) (f.fld Reg.fltRingHead 31 0) := by decide

/-- Meets the hypotheses of Obligations.FaultRecordsAreKept. -/
theorem witness_RecordsInv : State.reset.Inv ∧ (State.reset.wr Reg.fltCtrl 0x401).Inv :=
  ⟨⟨rfl, rfl, rfl, rfl, rfl, rfl, rfl, rfl⟩, ⟨rfl, rfl, rfl, rfl, rfl, rfl, rfl, rfl⟩⟩

/-- Meets the hypotheses of Obligations.FaultRecordsAreKept. -/
theorem witness_NorLog :
    logOn.RunsAt (us 8000000) logOn ∧ logOn.logTurn = true ∧ logOn.nextLogged = some (leBytes 64 0) ∧
    logOn.fld Reg.fltNorCfg 7 0 ≠ 0 ∧ logOn.flt.norTokensAt + us 8000000 / logOn.fld Reg.fltNorCfg 7 0 ≤ logOn.now ∧
    State.reset.logTurn = false ∧ State.reset.logReady = false ∧ State.reset.eraseDue = none ∧ State.reset.fld Reg.fltNorCfg 7 0 = 0 := by decide

/-- Meets the hypotheses of Obligations.UnitsRequestsAndTelemetry. -/
theorem witness_Units :
    let f := { State.reset with flt := { State.reset.flt with checks := [(2 ^ 16, 0), (2 ^ 16, 0), (2 ^ 16, 0)] } }
    let r := { State.reset with health := { State.reset.health with fullSince := some 0 } }
    let m := { State.reset with health := { State.reset.health with mismatch := some 4 } }
    let q := { State.reset with health := { State.reset.health with requests := List.replicate 16 (0, 0) } }
    let l := State.reset.wr Reg.hltTelCfg 0x3e800040001
    let v := putBits (State.reset.rd Reg.hltStCtrl) 0 0 1
    State.reset.RunsAt 0 State.reset ∧ (CheckedUnit.decoder 3).site.1 ≠ Blk.eng ∧
    f.fld Reg.hltFailThresh 7 0 ≤ f.recentChecks (.engine 0) ∧ f.engineOut 0 = false ∧ f.health.retest.contains 0 = false ∧
    State.reset.recentChecks (.engine 0) < State.reset.fld Reg.hltFailThresh 7 0 ∧
    writes State.reset Reg.hltStReq (fun u => decide (u.health.requests.length < 16)) ∧
    writes q Reg.hltStReq (fun u => decide (16 ≤ u.health.requests.length)) ∧
    writes State.reset Reg.hltStCtrl (fun _ => true) ∧ 1 ≤ bits v 27 16 ∧ bits v 27 16 ≤ 3600 ∧
    State.reset.health.fullSince = none ∧ ({ r with now := us 60000000 } : State).RunsAt (us 60000000) { r with now := us 60000000 } ∧
    0 + us (r.fld Reg.hltStCtrl 27 16 * 1000000) ≤ us 60000000 ∧ m.health.mismatch.isSome = true ∧ m.health.standby = false ∧
    State.reset.telDue = false ∧ ({ l with now := us 2000000 } : State).telDue = true := by decide

/-- A state for the witnesses of Obligations.BootGoesThroughItsStages. -/
def atStage (n : Nat) (x : SecSt) : State := { State.reset.setFld Reg.secStatus 2 0 n with sec := x }

/-- Meets the hypotheses of Obligations.BootGoesThroughItsStages. -/
theorem witness_Boot :
    let v := atStage 2 {}
    let r := atStage 2 { rejected := [⟨0, F.bootImage, 1, 0⟩] }
    let b := atStage 3 { slot := some 0 }
    let w := b.setFld Reg.secStatus 2 0 4
    let o := w.applyRecord (w.slotField 0 0 2) (w.slotField 0 8 8) (w.norLoad (slotBase 0 + 16) 0)
    State.reset.RunsAt 0 State.reset ∧ State.reset.stage = 0 ∧ State.reset.sec.signRead = false ∧ v.RunsAt 0 v ∧ v.stage ≠ 0 ∧
    v.stage = 2 ∧ v.sec.slot = none ∧ v.headerOk 0 = false ∧ v.slotFault v.firstSlot = some (F.bootImage, 1, 0) ∧
    2 ≤ (r.sec.rejected ++ [(⟨1, F.bootImage, 1, 0⟩ : Rejected)]).length ∧ b.RunsAt 0 b ∧ b.booting = true ∧ b.sec.slot = some 0 ∧
    bit (b.rd Reg.pntStatus) 0 = false ∧ b.sec.tested = false ∧ o = .fails := by decide

/-- A state for the witnesses of Obligations.KeysSigningAndTheNor. -/
def signing (x : SecSt) : State :=
  { State.reset with sec := x, regs := [(Reg.secOtpKeyDa, shelfBase), (Reg.secAttestReqDa, shelfBase), (Reg.secAttestOutDa, shelfBase + 64)] }

/-- Meets the hypotheses of Obligations.KeysSigningAndTheNor. -/
theorem witness_Keys :
    let svn := { State.reset with regs := [(Reg.secStatus, 5 * 2 ^ 32)], sec := { slot := some 0 } }
    let go := signing { tokens := 3, signRead := true, slot := some 0 }
    let due := signing { signRead := true }
    let nor := signing { slot := some 0, op := some ⟨0, 0, 0, 64⟩ }
    writes State.reset Reg.secCtrl (fun u => decide (u.sec.slot = none) && u.keyProgrammed 1 && !u.keyRevoked 1) ∧
    writes svn Reg.secCtrl (fun u => u.sec.slot.isSome && decide (u.persist.floor < min 255 (u.fld Reg.secStatus 39 32))) ∧
    writes due Reg.secOtpKeyCtrl (fun u => !u.keyProgrammed 2 && (u.memFault (u.rd Reg.secOtpKeyDa) 32).isNone) ∧
    writes go Reg.secAttestCtrl (fun u => decide (u.fld Reg.secAttestStatus 1 0 ≠ 1) && decide (u.sec.goAt ≠ u.now + 1) &&
      decide (0 < u.sec.tokens) && !u.sec.exhausted && u.sec.signRead && u.sec.slot.isSome) ∧
    (go.memFault (go.rd Reg.secAttestReqDa) 64).isSome = false ∧ (go.memFault (go.rd Reg.secAttestOutDa) 5652).isSome = false ∧
    due.RunsAt 0 due ∧ due.sec.ready = false ∧ due.sec.exhausted = false ∧ due.persist.q < 32768 ∧
    writes State.reset Reg.secNorCtrl (fun u => !bit (u.rd Reg.secNorStatus) 0) ∧
    nor.RunsAt 0 nor ∧ nor.logTurn = false ∧ nor.sec.op.isSome = true ∧ State.reset.stage ≠ 6 := by decide

/-- A state for the witnesses of Obligations.KeysSigningAndTheNor. -/
theorem runs_later (n : Nat) : ({ State.reset with now := n } : State).RunsAt 0 { State.reset with now := n } := by
  refine ⟨?_, rfl⟩
  unfold State.advance
  dsimp only
  rw [if_pos (Nat.zero_le _)]
  rfl

/-- Meets the hypotheses of Obligations.KeysSigningAndTheNor. -/
theorem witness_Keys_later (n : Nat) (h : us 500000 ≤ n) :
    let l : State := { State.reset with now := n }
    l.RunsAt 0 l ∧ l.sec.tokensAt + us 500000 ≤ l.now :=
  ⟨runs_later n, (Nat.zero_add (us 500000)).symm ▸ h⟩

/-- Meets the hypotheses of Obligations.KeysSigningAndTheNor. -/
theorem witness_Keys_nor :
    let r := { State.reset with sec := { slot := some 0 } }
    r.norMay (slotBase 1) 256 = true ∧ r.norMay 0 256 = false ∧ r.stage ≠ 6 := by decide

/-- A state for the witnesses of Obligations.PowerComesUpAndGoesDown. -/
def powered (p : PowerSt) : State := { State.reset with power := p }

/-- Meets the hypotheses of Obligations.PowerComesUpAndGoesDown. -/
theorem witness_Power :
    let off := powered { step := .off, released := false }
    let up := powered { step := .group3b, released := false }
    let fails := powered { step := .group1, released := false }
    let held := powered { step := .charged, released := false, latched := true, shutting := some (1, 0) }
    let waits := { powered { released := false } with now := 110000 }
    (off.advance 0).power.step = .off ∧ (up.advance 0).power.down = false ∧ (up.advance 0).power.step = .group3b ∧
    (fails.advance 0).power.step = railStep 3 ∧ (held.advance 0).power.shutting = some (1, 0) ∧
    (State.reset.advance 0).power.step = .good ∧ (State.reset.advance 0).power.shutting = none ∧
    (State.reset.advance 0).power.thermalAt = none ∧ (waits.advance 0).power.released = false ∧ (waits.advance 0).power.refLost = false ∧
    (waits.advance 0).power.goodAt + us 100 ≤ (waits.advance 0).now ∧ State.reset.sec.op = none := by decide

/-- Meets the hypotheses of Obligations.PowerComesUpAndGoesDown. -/
theorem witness_Power_latch :
    ((State.reset.wr Reg.pwrStatus 0x41).resetAll { step := .charged }).rd Reg.pwrStatus = 0x40 ∧
    ((State.reset.wr Reg.pwrStatus 0x40).resetAll { step := .good }).rd Reg.pwrStatus = 0x41 ∧
    ((State.reset.wr Reg.pwrIntStatus 0x40).resetAll { step := .good }).rd Reg.pwrIntStatus = 0 := by decide

/-- Meets the hypotheses of Obligations.PowerCapPinsAndSideband. -/
theorem witness_Sideband :
    let r : State := { State.reset with power := { address := some 9 } }
    (State.reset.advance 0).stopped = false ∧ ¬ (0 < (State.reset.advance 0).power.evalAt) ∧ (State.reset.advance 0).power.pps = 0 ∧
    (r.advance 0).power.step = .good ∧ (r.advance 0).power.address = some 9 ∧ Reg.pwrStatus ∈ latchRegs ∧
    regionOf Reg.pwrStatus = .register ∧ (regFind Reg.pwrStatus).isSome = true ∧ State.reset.mayRead .sideband Reg.pwrStatus = true ∧
    State.reset.mayRead .sideband Reg.tckCtrl = false ∧ Reg.tckCtrl ∉ latchRegs ∧
    ((State.reset.advance 0).timeNs + 8 - 8) % 1000000000 < 500000000 := by decide

/-- Meets the hypotheses of Obligations.PowerCapPinsAndSideband. -/
theorem witness_Sideband_late (n : Nat) (h : us 1500000 ≤ n) :
    let l : State := { State.reset with now := n }
    l.stopped = false ∧ l.power.ppsMissing = false ∧ l.power.ppsEdge - 1 + us 1500000 ≤ l.now :=
  ⟨rfl, rfl, Nat.le_trans (Nat.le_of_eq (Nat.zero_add _)) h⟩

/-- Meets the hypotheses of Obligations.RegistersFollowTheIndex. -/
theorem witness_Registers :
    let off : State := { State.reset with power := { released := false } }
    State.reset.RunsAt 0 State.reset ∧ regionOf 0 ≠ .register ∧ regionOf Reg.secCtrl = .register ∧
    State.reset.WritesAt 0 .companion Reg.secCtrl ((State.reset.advance 0).inOrder Reg.secCtrl Agent.companion.writeRank) ∧
    writes State.reset Reg.secIntStatus (fun _ => true) ∧ writes State.reset Reg.pwrCap (fun u => !u.valueBad Reg.pwrCap 600) ∧
    State.reset.mayWrite .companion Reg.secCtrl = false ∧ State.reset.mayRead .bootRom Reg.secCtrl = false ∧
    regFind (Reg.secCtrl - 8 + 0xff8) = none ∧
    (regFind Reg.secStatus).map (·.acc) = some .ro ∧ (regFind Reg.secIntStatus).map (·.acc) = some .w1c ∧
    (regFind Reg.pwrCap).map (fun d => (d.acc, d.bad 0, d.bad 600)) = some (.rw, true, false) ∧ State.reset.valueBad Reg.pwrCap 600 = false ∧
    (regFind Reg.secCtrl).map (·.acc) = some .wo ∧ (off.advance 0).stopped = true := by decide

end Sys2Proof.Tests
end

section
/-! SUPPORT. TCK_PHASE_SKIP (R38): what its command comes to in its turn, and the phases that the written bits name. -/

namespace Sys2Proof.Machine

/-! ### The phases that the written bits name -/

theorem mem_setBits {n v p : Nat} : p ∈ setBits n v ↔ p < n ∧ bit v p = true := by
  simp [setBits, bit]

theorem setBits_nodup (n v : Nat) : (setBits n v).Nodup := List.nodup_range.filter _

/-! ### The write and its command -/

theorem State.writePhaseSkip_eq_foldl (s : State) (v : Nat) : s.writePhaseSkip v = (setBits 16 v).foldl skipOne s := rfl

theorem State.writePhaseSkip_sameRest (s : State) (v : Nat) : SameRest (s.writePhaseSkip v) s :=
  (skip_fold _ s (setBits_nodup 16 v)).1

/-- A phase that is named and has not started ends SKIPPED. -/
theorem State.writePhaseSkip_run_skipped {s : State} {v p : Nat} (hp : p < 16) (hlen : p < s.tick.runs.length)
    (hbit : bit v p = true) (hplaced : s.tick.placed = true) (hst : (s.run p).state = .idle ∨ (s.run p).state = .waiting) :
    ((s.writePhaseSkip v).run p).state = .skipped := by
  obtain ⟨-, -, -, hskip⟩ := skip_fold _ s (setBits_nodup 16 v)
  exact hskip p (mem_setBits.mpr ⟨hp, hbit⟩) hlen hplaced hst

/-- A phase that is not named keeps its run, and so does a named one that has started or with no tick placed. -/
theorem State.writePhaseSkip_run_same {s : State} {v p : Nat} (h : bit v p = false ∨ s.tick.placed = false ∨
    ((s.run p).state ≠ .idle ∧ (s.run p).state ≠ .waiting)) : (s.writePhaseSkip v).run p = s.run p := by
  obtain ⟨-, hunnamed, hstarted, -⟩ := skip_fold _ s (setBits_nodup 16 v)
  by_cases hp : p ∈ setBits 16 v
  · have hbit : bit v p = true := (mem_setBits.mp hp).2
    exact hstarted p hp (h.resolve_left (by simp [hbit]))
  · exact hunnamed p hp

theorem regFind_tckPhaseSkip : regFind Reg.tckPhaseSkip = some (woReg 0x48 0x0 1) := rfl

theorem State.writeReg_tckPhaseSkip {u : State} {ag : Agent} (v : Nat) (hm : u.mayWrite ag Reg.tckPhaseSkip = true) :
    u.writeReg ag Reg.tckPhaseSkip 8 v false = u.writePhaseSkip v :=
  State.writeReg_at rfl rfl regFind_tckPhaseSkip (.inr rfl) rfl rfl (skip_ok u v) hm

/-- TCK_PHASE_SKIP of an agent that may write it, in its turn. -/
theorem exec_tckPhaseSkip {s u : State} {t : Nat} {ag : Agent} (v : BitVec 64) (h : s.WritesAt t ag Reg.tckPhaseSkip u)
    (hm : u.mayWrite ag Reg.tckPhaseSkip = true) : exec (.tckPhaseSkip t v ag) s = .next (u.writePhaseSkip v.toNat) := by
  calc exec (.tckPhaseSkip t v ag) s
      = s.writeAt t ag Reg.tckPhaseSkip v.toNat false := rfl
    _ = .next (u.writeReg ag Reg.tckPhaseSkip 8 v.toNat false) := State.writeAt_runs h
    _ = .next (u.writePhaseSkip v.toNat) := by rw [State.writeReg_tckPhaseSkip v.toNat hm]

/-- Settles O13: the command folds over the named phases, each a different one, and ends those that have not started. -/
theorem phaseSkipEndsUnstartedPhases : Obligations.PhaseSkipEndsUnstartedPhases := by
  intro s u t v ag h hm
  obtain ⟨hflt, hmem, hqueues, hctxs, hengines, houtbox, -, -⟩ := u.writePhaseSkip_sameRest v.toNat
  exact ⟨u.writePhaseSkip v.toNat, exec_tckPhaseSkip v h hm,
    fun _ hp hlen hbit hplaced hst => State.writePhaseSkip_run_skipped hp hlen hbit hplaced hst,
    fun _ hp => State.writePhaseSkip_run_same hp,
    hflt, hmem, hqueues, hctxs, hengines, houtbox⟩

end Sys2Proof.Machine
end

section
/-! SUPPORT. MAPOUT_WRITE and MAP_COMMIT (R101): which registers their addresses name, and what an admitted write of them does while
MAP_BUSY is clear and while it is set. -/

namespace Sys2Proof.Machine

/-! ### The meaning of the write, by MAP_BUSY -/

theorem State.writeMapout_idle {s : State} {tr : Tier} (i v : Nat)
    (hbusy : bit (s.rd (tr.reg Reg.pntStatus Reg.celStatus)) 2 = false) :
    s.writeMapout tr i v = s.wr (tr.mapout i) (s.rd (tr.mapout i) ||| v) := by
  simp [State.writeMapout, hbusy]

theorem State.writeMapout_busy {s : State} {tr : Tier} (i v : Nat)
    (hbusy : bit (s.rd (tr.reg Reg.pntStatus Reg.celStatus)) 2 = true) : s.writeMapout tr i v = s.regAccess (tr.mapout i) := by
  simp [State.writeMapout, hbusy]

theorem State.mapCommit_busy {s : State} {tr : Tier} (hbusy : bit (s.rd (tr.reg Reg.pntStatus Reg.celStatus)) 2 = true) :
    s.mapCommit tr = s.regAccess (tr.reg Reg.pntMapCommit Reg.celMapCommit) := by
  simp [State.mapCommit, hbusy]

/-- States with the same units have the same controller state of a tier. -/
theorem State.SameUnits.tier_eq {b s : State} (h : b.SameUnits s) (tr : Tier) : b.tier tr = s.tier tr := by
  obtain ⟨-, -, -, -, -, -, hpantry, hcellar, -⟩ := h
  cases tr with
  | pantry => exact hpantry
  | cellar => exact hcellar

/-- A dropped commit leaves the dead units as they were, so no context is lost with it (R383). -/
theorem State.writeMapCommit_busy {s : State} {tr : Tier} (hbusy : bit (s.rd (tr.reg Reg.pntStatus Reg.celStatus)) 2 = true)
    (v : Nat) : s.writeMapCommit tr v = s.regAccess (tr.reg Reg.pntMapCommit Reg.celMapCommit) := by
  unfold State.writeMapCommit
  cases hgo : bit v 0 with
  | false => simp [hbusy]
  | true => simp [State.mapCommit_busy hbusy, (regAccess_units s _).tier_eq tr]

/-! ### The registers that the addresses name -/

/-- Each of the seven MAPOUT addresses evaluates to a writable row of the index that has all 64 bits and is never locked. -/
theorem State.writeReg_mapout {s : State} {ag : Agent} {tr : Tier} {i : Nat} (v : BitVec 64) (hi : i < tr.channels / 64)
    (hm : s.mayWrite ag (tr.mapout i) = true) : s.writeReg ag (tr.mapout i) 8 v.toNat false = s.writeMapout tr i v.toNat := by
  have hmasked : s.writeReg ag (tr.mapout i) 8 v.toNat false = s.writeMapout tr i (v.toNat &&& (2 ^ 64 - 1)) := by
    cases tr with
    | pantry =>
      have hi3 : i < 3 := hi
      have hcases : i = 0 ∨ i = 1 ∨ i = 2 := by omega
      rcases hcases with rfl | rfl | rfl <;> exact State.writeReg_at rfl rfl rfl (.inl rfl) rfl rfl rfl hm
    | cellar =>
      have hi4 : i < 4 := hi
      have hcases : i = 0 ∨ i = 1 ∨ i = 2 ∨ i = 3 := by omega
      rcases hcases with rfl | rfl | rfl | rfl <;> exact State.writeReg_at rfl rfl rfl (.inl rfl) rfl rfl rfl hm
  rw [hmasked, and_mod64]

theorem State.writeReg_mapCommit {s : State} {ag : Agent} {tr : Tier}
    (hm : s.mayWrite ag (tr.reg Reg.pntMapCommit Reg.celMapCommit) = true) :
    s.writeReg ag (tr.reg Reg.pntMapCommit Reg.celMapCommit) 8 1 false = s.writeMapCommit tr 1 := by
  cases tr with
  | pantry => exact State.writeReg_at rfl rfl rfl (.inr rfl) rfl rfl rfl hm
  | cellar => exact State.writeReg_at rfl rfl rfl (.inr rfl) rfl rfl rfl hm

/-! ### The commands -/

theorem exec_mapoutWrite {s u : State} {t : Nat} {ag : Agent} {tr : Tier} {i : Fin 4} (v : BitVec 64)
    (hi : i.val < tr.channels / 64) (h : s.WritesAt t ag (tr.mapout i) u) (hm : u.mayWrite ag (tr.mapout i) = true) :
    exec (.mapoutWrite t tr i v ag) s = .next (u.writeMapout tr i v.toNat) := by
  calc exec (.mapoutWrite t tr i v ag) s
      = s.writeAt t ag (tr.mapout i) v.toNat false := if_neg (Nat.not_le.mpr hi)
    _ = .next (u.writeReg ag (tr.mapout i) 8 v.toNat false) := State.writeAt_runs h
    _ = .next (u.writeMapout tr i v.toNat) := by rw [State.writeReg_mapout v hi hm]

/-- An index that the tier does not have names no register: only time passes. -/
theorem exec_mapoutWrite_noRegister {s u : State} {t : Nat} {ag : Agent} {tr : Tier} {i : Fin 4} (v : BitVec 64)
    (h : s.RunsAt t u) (hi : tr.channels / 64 ≤ i.val) : exec (.mapoutWrite t tr i v ag) s = .next u := by
  calc exec (.mapoutWrite t tr i v ag) s
      = .next (s.advance t) := if_pos hi
    _ = .next u := by rw [h.1]

theorem exec_mapCommit {s u : State} {t : Nat} {ag : Agent} {tr : Tier}
    (h : s.WritesAt t ag (tr.reg Reg.pntMapCommit Reg.celMapCommit) u)
    (hm : u.mayWrite ag (tr.reg Reg.pntMapCommit Reg.celMapCommit) = true) :
    exec (.mapCommit t tr ag) s = .next (u.writeMapCommit tr 1) := by
  calc exec (.mapCommit t tr ag) s
      = s.writeAt t ag (tr.reg Reg.pntMapCommit Reg.celMapCommit) 1 false := rfl
    _ = .next (u.writeReg ag (tr.reg Reg.pntMapCommit Reg.celMapCommit) 8 1 false) := State.writeAt_runs h
    _ = .next (u.writeMapCommit tr 1) := by rw [State.writeReg_mapCommit hm]

/-- Settles O30: each command comes to the write of its register, which MAP_BUSY decides. -/
theorem mapOutBitsAreSticky : Obligations.MapOutBitsAreSticky := by
  intro s u t ag tr i v
  refine ⟨fun hi h hm hbusy => ?_, fun hi h hm hbusy => ?_, fun h hm hbusy => ⟨?_, ?_⟩, fun h hi => ?_, fun a => ?_⟩
  · rw [exec_mapoutWrite v hi h hm, State.writeMapout_idle i v.toNat hbusy]
  · rw [exec_mapoutWrite v hi h hm, State.writeMapout_busy i v.toNat hbusy]
  · rw [exec_mapCommit h hm, State.writeMapCommit_busy hbusy]
  · exact State.writeMapCommit_busy hbusy
  · exact exec_mapoutWrite_noRegister v h hi
  · exact regAccess_units u a

end Sys2Proof.Machine
end

section
/-! SUPPORT. Every command answers a next state (O2), and every step keeps the tables canonical (O4). -/

namespace Sys2Proof.Machine

/-- Every arm of `exec` is a next state outright, or the choice between two by whether the block is stopped; only MAPOUT_WRITE
chooses by whether its tier has the register (log 20: no command stops the block). -/
theorem exec_answers (c : Instr) (s : State) : ∃ r, exec c s = .next r := by
  cases c with
  | sourceLost | holdoverLimitExpiry | sourceReturn | tickOutEnd | memRead | memWrite | channelFail | shelfLarderScrub
  | mma | mmaBwdX | mmaBwdW | conv | maxpool | convFused | attn | attnBwd | scanFull | scanLocal | scanReverse | norm
  | normBwd | smax | smaxBwd | gate | reduce | sort | boxdec | nms | gatherRows | gatherLookup | scatterAppend
  | scatterRelease | scatterRetain | scatterInsert | scatterEvict | waitTimeout | callKeeper | ethFrameRx | sync
  | followUp | delayResp | announce | delayReq | dataFrame | cfgFrame | headerFrame | commandFrame | rtpPacket
  | pictureHandover | pictureDecodeEnd | pictureWatchdog | alignerSample | ingestCfgActivate | publishEntry
  | fabricTick | idle | nak | atticTimeout | bankRefresh | announceReceiptTimeout | packetCrcFail =>
    exact next_of_stop
  | mapoutWrite t tier ix v ag =>
    by_cases hix : tier.channels / 64 ≤ ix.val
    · exact ⟨s.advance t, if_pos hix⟩
    · exact ⟨_, if_neg hix⟩
  | _ => exact ⟨_, rfl⟩

/-- Settles O2: each arm of `exec` is a next state or a choice between two. -/
theorem everyCommandAnswersAState : Obligations.EveryCommandAnswersAState := exec_answers

/-- The command's own lemma says that it keeps the invariant; the cases name it for each command. -/
theorem exec_keeps (c : Instr) {s : State} (h : s.Inv) : Keeps (exec c s) := by
  cases c with
  | tickBoundary => exact execTickBoundary_inv h
  | tckEnable => exact execTckEnable_inv h
  | tckSrcChange => exact execTckSrcChange_inv h
  | realign => exact execRealign_inv h
  | planSwap => exact execPlanSwap_inv h
  | planActivate => exact execPlanActivate_inv h
  | tckPhaseSkip => exact execTckPhaseSkip_inv h
  | phaseStart => exact execPhaseStart_inv h
  | budgetEnd => exact execBudgetEnd_inv h
  | deadline => exact execDeadline_inv h
  | sourceLost => exact execSourceLost_inv h
  | holdoverLimitExpiry => exact execHoldoverLimitExpiry_inv h
  | sourceReturn => exact execSourceReturn_inv h
  | backgroundAdmit => exact execBackgroundAdmit_inv h
  | tickOutEnd => exact execTickOutEnd_inv h
  | memRead => exact execMemRead_inv h
  | memWrite => exact execMemWrite_inv h
  | larderFill => exact execLarderFill_inv h
  | atomicFadd => exact execAtomicFadd_inv h
  | atomicMin => exact execAtomicMin_inv h
  | atomicMax => exact execAtomicMax_inv h
  | atomicAnd => exact execAtomicAnd_inv h
  | atomicOr => exact execAtomicOr_inv h
  | atomicXor => exact execAtomicXor_inv h
  | atomicSwap => exact execAtomicSwap_inv h
  | atomicCas => exact execAtomicCas_inv h
  | atomicCnt2 => exact execAtomicCnt2_inv h
  | redAddFp32 => exact execRedAddFp32_inv h
  | redAddBf16 => exact execRedAddBf16_inv h
  | redAddInt32 => exact execRedAddInt32_inv h
  | redMaxFp32 => exact execRedMaxFp32_inv h
  | redMinFp32 => exact execRedMinFp32_inv h
  | regulatorRefill => exact execRegulatorRefill_inv h
  | memTimeout => exact execMemTimeout_inv h
  | channelFail => exact execChannelFail_inv h
  | scrubGranule => exact execScrubGranule_inv h
  | scrubFloorEnd => exact execScrubFloorEnd_inv h
  | shelfLarderScrub => exact execShelfLarderScrub_inv h
  | forcedCalibration => exact execForcedCalibration_inv h
  | calibrationEnd => exact execCalibrationEnd_inv h
  | mapCommit => exact execMapCommit_inv h
  | mapDone => exact execMapDone_inv h
  | mapoutWrite => exact execMapoutWrite_inv h
  | tileWriteback => exact execTileWriteback_inv h
  | residueCheckFail => exact execResidueCheckFail_inv h
  | injResidue => exact execInjResidue_inv h
  | injParity => exact execInjParity_inv h
  | holdExpiry => exact execHoldExpiry_inv h
  | rampStep => exact execRampStep_inv h
  | dutyStep => exact execDutyStep_inv h
  | srSeedWrite => exact execSrSeedWrite_inv h
  | pwlUserWrite => exact execPwlUserWrite_inv h
  | holdCtrlWrite => exact execHoldCtrlWrite_inv h
  | watchNotify => exact execWatchNotify_inv h
  | descriptorFetch => exact execDescriptorFetch_inv h
  | mma => exact execMma_inv h
  | mmaBwdX => exact execMmaBwdX_inv h
  | mmaBwdW => exact execMmaBwdW_inv h
  | conv => exact execConv_inv h
  | maxpool => exact execMaxpool_inv h
  | convFused => exact execConvFused_inv h
  | attn => exact execAttn_inv h
  | attnBwd => exact execAttnBwd_inv h
  | scanFull => exact execScanFull_inv h
  | scanLocal => exact execScanLocal_inv h
  | scanReverse => exact execScanReverse_inv h
  | pulse => exact execPulse_inv h
  | norm => exact execNorm_inv h
  | normBwd => exact execNormBwd_inv h
  | smax => exact execSmax_inv h
  | smaxBwd => exact execSmaxBwd_inv h
  | gate => exact execGate_inv h
  | reduce => exact execReduce_inv h
  | sort => exact execSort_inv h
  | boxdec => exact execBoxdec_inv h
  | nms => exact execNms_inv h
  | gatherRows => exact execGatherRows_inv h
  | gatherLookup => exact execGatherLookup_inv h
  | scatterAppend => exact execScatterAppend_inv h
  | scatterRelease => exact execScatterRelease_inv h
  | scatterRetain => exact execScatterRetain_inv h
  | scatterInsert => exact execScatterInsert_inv h
  | scatterEvict => exact execScatterEvict_inv h
  | copy => exact execCopy_inv h
  | prefetch => exact execPrefetch_inv h
  | wait => exact execWait_inv h
  | waitTimeout => exact execWaitTimeout_inv h
  | signalAdd => exact execSignalAdd_inv h
  | signalSet => exact execSignalSet_inv h
  | signalTrigger => exact execSignalTrigger_inv h
  | fence => exact execFence_inv h
  | callList => exact execCallList_inv h
  | callKeeper => exact execCallKeeper_inv h
  | kemit => exact execKemit_inv h
  | keeperReturn => exact execKeeperReturn_inv h
  | keeperTrap => exact execKeeperTrap_inv h
  | keeperTimeout => exact execKeeperTimeout_inv h
  | branchCall => exact execBranchCall_inv h
  | branchJump => exact execBranchJump_inv h
  | branchExit => exact execBranchExit_inv h
  | stepBoundary => exact execStepBoundary_inv h
  | macroOpCommit => exact execMacroOpCommit_inv h
  | triggerAccept => exact execTriggerAccept_inv h
  | queueEnable => exact execQueueEnable_inv h
  | queueDisable => exact execQueueDisable_inv h
  | resume => exact execResume_inv h
  | abort => exact execAbort_inv h
  | reset => exact execReset_inv h
  | imemSwap => exact execImemSwap_inv h
  | imemWinWrite => exact execImemWinWrite_inv h
  | loaderCheck => exact execLoaderCheck_inv h
  | ethFrameRx => exact execEthFrameRx_inv h
  | sync => exact execSync_inv h
  | followUp => exact execFollowUp_inv h
  | delayResp => exact execDelayResp_inv h
  | announce => exact execAnnounce_inv h
  | delayReq => exact execDelayReq_inv h
  | dataFrame => exact execDataFrame_inv h
  | cfgFrame => exact execCfgFrame_inv h
  | headerFrame => exact execHeaderFrame_inv h
  | commandFrame => exact execCommandFrame_inv h
  | pulseTriggerPresent => exact execPulseTriggerPresent_inv h
  | rtpPacket => exact execRtpPacket_inv h
  | pictureHandover => exact execPictureHandover_inv h
  | pictureDecodeStart => exact execPictureDecodeStart_inv h
  | pictureDecodeEnd => exact execPictureDecodeEnd_inv h
  | pictureWatchdog => exact execPictureWatchdog_inv h
  | alignerSample => exact execAlignerSample_inv h
  | windowCutoff => exact execWindowCutoff_inv h
  | cfgSwap => exact execCfgSwap_inv h
  | ingestCfgActivate => exact execIngestCfgActivate_inv h
  | vdcRelease => exact execVdcRelease_inv h
  | vdcRearm => exact execVdcRearm_inv h
  | publishEntry => exact execPublishEntry_inv h
  | contextCreate => exact execContextCreate_inv h
  | contextDelete => exact execContextDelete_inv h
  | contextAbort => exact execContextAbort_inv h
  | evict => exact execEvict_inv h
  | partitionAbort => exact execPartitionAbort_inv h
  | contextSwitchIn => exact execContextSwitchIn_inv h
  | contextSwap => exact execContextSwap_inv h
  | contextSwapIn => exact execContextSwapIn_inv h
  | remoteResponse => exact execRemoteResponse_inv h
  | remoteTagTimeout => exact execRemoteTagTimeout_inv h
  | jobPlace => exact execJobPlace_inv h
  | selftestLead => exact execSelftestLead_inv h
  | selftestSlotStart => exact execSelftestSlotStart_inv h
  | selftestStart => exact execSelftestStart_inv h
  | selftestEnd => exact execSelftestEnd_inv h
  | selftestAbandon => exact execSelftestAbandon_inv h
  | standinPrepare => exact execStandinPrepare_inv h
  | standinHandover => exact execStandinHandover_inv h
  | standinFifoDrained => exact execStandinFifoDrained_inv h
  | standinWrite => exact execStandinWrite_inv h
  | get => exact execGet_inv h
  | put => exact execPut_inv h
  | atomic => exact execAtomic_inv h
  | red => exact execRed_inv h
  | getRsp => exact execGetRsp_inv h
  | ack => exact execAck_inv h
  | atomicRsp => exact execAtomicRsp_inv h
  | fabricTick => exact execFabricTick_inv h
  | idle => exact execIdle_inv h
  | hello => exact execHello_inv h
  | nak => exact execNak_inv h
  | laneRemove => exact execLaneRemove_inv h
  | linkRetrainDone => exact execLinkRetrainDone_inv h
  | retrain => exact execRetrain_inv h
  | ktfEnable => exact execKtfEnable_inv h
  | dataS => exact execDataS_inv h
  | dataE => exact execDataE_inv h
  | wrAck => exact execWrAck_inv h
  | snpInv => exact execSnpInv_inv h
  | snpShared => exact execSnpShared_inv h
  | inbRd => exact execInbRd_inv h
  | inbWr => exact execInbWr_inv h
  | inbAtomic => exact execInbAtomic_inv h
  | atticTimeout => exact execAtticTimeout_inv h
  | sensorSample => exact execSensorSample_inv h
  | thermalCapStep => exact execThermalCapStep_inv h
  | droop => exact execDroop_inv h
  | droopRecover => exact execDroopRecover_inv h
  | undervolt => exact execUndervolt_inv h
  | overcap => exact execOvercap_inv h
  | procMonitorSample => exact execProcMonitorSample_inv h
  | unitOutOfService => exact execUnitOutOfService_inv h
  | stReqEngine => exact execStReqEngine_inv h
  | stReqSensors => exact execStReqSensors_inv h
  | stReqCalPantry => exact execStReqCalPantry_inv h
  | stReqCalCellar => exact execStReqCalCellar_inv h
  | fullRate => exact execFullRate_inv h
  | fullrateExpired => exact execFullrateExpired_inv h
  | lockstepMismatch => exact execLockstepMismatch_inv h
  | stewardFailover => exact execStewardFailover_inv h
  | fltInject => exact execFltInject_inv h
  | fltRingHeadWrite => exact execFltRingHeadWrite_inv h
  | alertStatusClear => exact execAlertStatusClear_inv h
  | telemetryRecord => exact execTelemetryRecord_inv h
  | norLogProgram => exact execNorLogProgram_inv h
  | norOpDone => exact execNorOpDone_inv h
  | internalResetRelease => exact execInternalResetRelease_inv h
  | norDiscovery => exact execNorDiscovery_inv h
  | slotVerify => exact execSlotVerify_inv h
  | tierTrain => exact execTierTrain_inv h
  | bootEngineTest => exact execBootEngineTest_inv h
  | recordApply => exact execRecordApply_inv h
  | svnCommit => exact execSvnCommit_inv h
  | revoke => exact execRevoke_inv h
  | otpKeyProgram => exact execOtpKeyProgram_inv h
  | attestGo => exact execAttestGo_inv h
  | treeBegin => exact execTreeBegin_inv h
  | norRead => exact execNorRead_inv h
  | norProgram => exact execNorProgram_inv h
  | norErase => exact execNorErase_inv h
  | inputRise => exact execInputRise_inv h
  | railGroupUp => exact execRailGroupUp_inv h
  | railFail => exact execRailFail_inv h
  | inputUv => exact execInputUv_inv h
  | inputOv => exact execInputOv_inv h
  | orderlyShutdown => exact execOrderlyShutdown_inv h
  | resetAssert => exact execResetAssert_inv h
  | refclkLost => exact execRefclkLost_inv h
  | powerCapEval => exact execPowerCapEval_inv h
  | ppsEdge => exact execPpsEdge_inv h
  | ppsMissing => exact execPpsMissing_inv h
  | setdasa => exact execSetdasa_inv h
  | sidebandRead => exact execSidebandRead_inv h
  | sidebandWrite => exact execSidebandWrite_inv h
  | registerWrite => exact execRegisterWrite_inv h
  | unmappedRegisterAccess => exact execUnmappedRegisterAccess_inv h
  | bankRefresh => exact execBankRefresh_inv h
  | inputCapacitanceCharged => exact execInputCapacitanceCharged_inv h
  | inputLow => exact execInputLow_inv h
  | inputHigh => exact execInputHigh_inv h
  | announceReceiptTimeout => exact execAnnounceReceiptTimeout_inv h
  | packetCrcFail => exact execPacketCrcFail_inv h
  | attestTokenRefill => exact execAttestTokenRefill_inv h
  | norLogTokenRefill => exact execNorLogTokenRefill_inv h

/-- With no command waiting the state stays; else the front command runs on the state with the queue's rest. -/
theorem step_keeps {s : State} (h : s.Inv) : Keeps (step s) := by
  unfold step
  split
  · exact h
  · rename_i c rest _
    have hrest : ({ s with pending := rest } : State).Inv := h
    exact exec_keeps c hrest

/-- Settles O4: whatever command stands in front, its own lemma keeps the invariant. -/
theorem stepsKeepTheStateCanonical : Obligations.StepsKeepTheStateCanonical :=
  fun _ _ h hstep => inv_of_keeps (step_keeps h) hstep

end Sys2Proof.Machine
end

section
/-! SUPPORT. The step, the reset state, and what the tables of the state read back as (O1, O3, O5, O6, O7). -/

namespace Sys2Proof.Machine

/-- Settles O1: `step` is defined by the front of the queue. -/
theorem frontCommandRuns : Obligations.FrontCommandRuns := by
  refine ⟨fun c rest s => rfl, fun s h => ?_⟩
  unfold step
  rw [h]

/-- Settles O3: every table is empty at reset. -/
theorem stateIsCanonicalAtReset : Obligations.StateIsCanonicalAtReset := canon_empty

/-- Settles O5, by the laws of the sparse tables. -/
theorem registerReadsBack : Obligations.RegisterReadsBack := by
  intro s a v h
  refine ⟨?_, fun b hb => ?_, State.wr_regs_wf h a v⟩
  · rw [State.rd_wr h, if_pos rfl]
  · rw [State.rd_wr h, if_neg hb]

theorem State.store_byteAt {s : State} {a : Nat} {bs : List Byte} (h : Memory.wf s.mem) (hp : a < atticBase ∨ shelfBase ≤ a)
    {i : Nat} (hi : i < bs.length) : (s.store a bs).byteAt (a + i) = bs.getD i 0 := by
  rw [store_plain hp]
  show tabGet memDefault (tabSetList memDefault s.mem a bs) (a + i) = bs.getD i 0
  rw [byteAt_store h, if_pos ⟨by omega, by omega⟩, Nat.add_sub_cancel_left]
  simp [List.getD, hi]

/-- Settles O6: a store outside the Attic window is the write of its bytes, with Larder's copies and dead words of them dropped. -/
theorem memoryReadsBack : Obligations.MemoryReadsBack := by
  intro s a bs h hp
  refine ⟨fun i hi => State.store_byteAt h hp hi, store_outside h hp, ?_⟩
  rw [store_plain hp]
  exact ⟨tabSetList_wf h, rfl, rfl, rfl, rfl, rfl⟩

/-- Keys made of a place and a number below the width of the places are equal when both are. -/
theorem wideKey_eq_iff {w e e' k k' : Nat} (hk : k < w) (hk' : k' < w) : w * e' + k' = w * e + k ↔ e' = e ∧ k' = k := by
  refine ⟨fun h => ?_, fun h => by rw [h.1, h.2]⟩
  have hw : 0 < w := by omega
  have he : e' = e := by
    have := congrArg (· / w) h
    simpa [Nat.mul_add_div hw, Nat.div_eq_of_lt hk, Nat.div_eq_of_lt hk'] using this
  subst he
  exact ⟨rfl, by omega⟩

theorem State.kload_kstore_one {s : State} (h : s.Inv) (e e' i j : Nat) (v : Byte) :
    (s.kstore e i [v]).kload e' j 1 = if e' * 131072 + j = e * 131072 + i then [v] else s.kload e' j 1 := by
  show [tabGet (fun _ => 0) (tabSet (fun _ => 0) s.kdata (e * 131072 + i) v) (e' * 131072 + j)] = _
  rw [tabGet_tabSet h.2.2.kdata]
  split <;> rfl

/-- Settles O7: each table is keyed by an engine and a number below its width. -/
theorem tablesReadBack : Obligations.TablesReadBack := by
  intro s h e e'
  refine ⟨fun q q' x => ?_, State.eng_setEng h e e', fun k k' x => ?_, fun b b' v => ?_, fun i j v => ?_⟩
  · simp only [State.queue_setQueue h, wideKey_eq_iff q.isLt q'.isLt, Fin.ext_iff]
  · simp only [State.ctx_setCtx h, wideKey_eq_iff k.isLt k'.isLt, Fin.ext_iff]
  · simp only [State.tag_setTag h, Nat.mul_comm _ 1536, wideKey_eq_iff b.isLt b'.isLt, Fin.ext_iff]
  · simp only [State.kload_kstore_one h, Nat.mul_comm _ 131072, wideKey_eq_iff i.isLt j.isLt, Fin.ext_iff]

end Sys2Proof.Machine
end

section
/-! SUPPORT. The registers of an engine window: which row of the index an offset names, and the writes of the datapath, the user
table and the instruction banks (O8, O9). -/

namespace Sys2Proof.Machine

/-! ### Rows of the index of an engine window -/

theorem RegDesc.lt_of_has {d : RegDesc} {o : Nat} (h : d.has o = true) : o < d.ofs + max 1 (d.stride * d.count) := by
  unfold RegDesc.has at h
  simp only [Bool.and_eq_true, decide_eq_true_eq] at h
  obtain ⟨hle, h⟩ := h
  split at h
  · simp only [decide_eq_true_eq] at h; omega
  · rename_i hs
    simp only [Bool.and_eq_true, decide_eq_true_eq] at h
    obtain ⟨-, hc⟩ := h
    have : o - d.ofs < d.stride * d.count :=
      Nat.lt_of_lt_of_eq ((Nat.div_lt_iff_lt_mul (by omega)).mp hc) (Nat.mul_comm _ _)
    omega

/-- Row n of the engine's index is the one that an offset names, when the rows before it end at or below the offset. -/
theorem find_regsEng {n o : Nat} {d : RegDesc} (hd : regsEng = regsEng.take n ++ d :: regsEng.drop (n + 1)) (hhas : d.has o = true)
    {b : Nat} (hbelow : ∀ x ∈ regsEng.take n, x.ofs + max 1 (x.stride * x.count) ≤ b) (hb : b ≤ o) :
    regsEng.find? (·.has o) = some d := by
  rw [List.find?_eq_some_iff_append]
  refine ⟨hhas, _, _, hd, fun x hx => ?_⟩
  rw [Bool.not_eq_true', Bool.eq_false_iff]
  intro hx'
  have h1 := hbelow x hx
  have h2 := RegDesc.lt_of_has hx'
  omega

theorem user_find (i : Fin 32) : regsEng.find? (·.has (0x100 + 8 * i.val)) = some ⟨0x100, 0x8, 32, .rw, 0x0, 0xffffffffffff, fun _ => false⟩ := by
  refine find_regsEng (n := 14) (b := 0x100) rfl ?_ (by decide) (by omega)
  have hi : i.val < 32 := i.isLt
  simp [RegDesc.has, hi]

theorem win_find (i : Fin 4096) : regsEng.find? (·.has (0x8000 + 8 * i.val)) =
    some ⟨0x8000, 0x8, 4096, .rw, 0x0, 0xffffffffffffffff, fun _ => false⟩ := by
  refine find_regsEng (n := 40) (b := 0x8000) rfl ?_ (by decide) (by omega)
  have hi : i.val < 4096 := i.isLt
  simp [RegDesc.has, hi]

/-! ### Commands that write a register of an engine window -/

/-- A command that writes a writable register of an engine window, in its turn. -/
theorem State.writeAt_eng {s u : State} {t : Nat} {ag : Agent} {a e o v : Nat} {f : Bool} {d : RegDesc} (ha : a = engReg e o)
    (h : s.WritesAt t ag a u) (hm : u.mayWrite ag a = true) (he : e < 96) (ho : o < 0x10000) (h8 : o % 8 = 0)
    (hf : regsEng.find? (·.has o) = some d) (hd : d.acc = .rw ∨ d.acc = .wo) (hl : u.locked a (v &&& d.mask) = false)
    (hb : d.bad v = false) : s.writeAt t ag a v f = .next (u.writeEng e a o (v &&& d.mask)) := by
  subst ha
  rw [State.writeAt_runs h, State.writeReg_eng he ho h8 hf hd hl hb hm]

/-- The same for a register that is no queue's: it is never locked. -/
theorem State.writeAt_engPlain {s u : State} {t : Nat} {ag : Agent} {a e o v : Nat} {f : Bool} {d : RegDesc} (ha : a = engReg e o)
    (h : s.WritesAt t ag a u) (hm : u.mayWrite ag a = true) (he : e < 96) (ho : o < 0x10000) (h8 : o % 8 = 0)
    (hq : o < 0x200 ∨ 0x300 ≤ o) (hf : regsEng.find? (·.has o) = some d) (hd : d.acc = .rw ∨ d.acc = .wo)
    (hb : d.bad v = false) : s.writeAt t ag a v f = .next (u.writeEng e a o (v &&& d.mask)) :=
  State.writeAt_eng ha h hm he ho h8 hf hd (by rw [ha]; exact locked_eng_plain he ho hq) hb

/-! ### The datapath's registers -/

theorem State.writeDpCtrl_residue (s : State) (e : Nat) (array : Fin 4) : s.writeDpCtrl e ((array.val + 4) &&& 0xf) =
    ((s.wr (Reg.engDpCtrl e) array).setEng e { s.eng e with injResidue := true }).injectHeld e := by
  have hfields : ∀ a : Fin 4, bits ((a.val + 4) &&& 0xf) 1 0 = a.val ∧ bit ((a.val + 4) &&& 0xf) 2 = true ∧
      bit ((a.val + 4) &&& 0xf) 3 = false := by decide
  obtain ⟨ha, h2, h3⟩ := hfields array
  simp only [State.writeDpCtrl, ha, h2, h3, Bool.or_true, Bool.or_false]

theorem State.writeDpCtrl_parity (s : State) (e : Nat) (array : Fin 4) : s.writeDpCtrl e ((array.val + 8) &&& 0xf) =
    ((s.wr (Reg.engDpCtrl e) array).setEng e { s.eng e with injParity := true }).injectHeld e := by
  have hfields : ∀ a : Fin 4, bits ((a.val + 8) &&& 0xf) 1 0 = a.val ∧ bit ((a.val + 8) &&& 0xf) 2 = false ∧
      bit ((a.val + 8) &&& 0xf) 3 = true := by decide
  obtain ⟨ha, h2, h3⟩ := hfields array
  simp only [State.writeDpCtrl, ha, h2, h3, Bool.or_true, Bool.or_false]

theorem State.injectHeld_stays {x : State} {e : Nat} (h : x.holding e = false ∨ x.unitHeld e .arrays = true) : x.injectHeld e = x := by
  unfold State.injectHeld
  rw [if_pos (by rcases h with h | h <;> simp [h])]

/-- Settles O8: each command is the write of its register in the engine's window. -/
theorem engineDatapathRegisterWrites : Obligations.EngineDatapathRegisterWrites := by
  intro s u t e ag
  have he : e.val < 96 := e.isLt
  refine ⟨fun array h hm => ⟨?_, ?_⟩, fun v h hm => ?_, fun v h hm hmode hlo hhi => ?_, fun x hx => State.injectHeld_stays hx⟩
  · refine (State.writeAt_engPlain (v := array.val + 4) (dp_eq e) h hm he (by decide) rfl (.inl (by decide)) rfl (.inl rfl) rfl).trans ?_
    exact congrArg Host.Outcome.next (State.writeDpCtrl_residue u e array)
  · refine (State.writeAt_engPlain (v := array.val + 8) (dp_eq e) h hm he (by decide) rfl (.inl (by decide)) rfl (.inl rfl) rfl).trans ?_
    exact congrArg Host.Outcome.next (State.writeDpCtrl_parity u e array)
  · exact State.writeAt_engPlain (seed_eq e) h hm he (by decide) rfl (.inl (by decide)) rfl (.inl rfl) rfl
  · refine State.writeAt_engPlain (hold_eq e) h hm he (by decide) rfl (.inl (by decide)) rfl (.inl rfl) ?_
    simp [inRange, hmode, hlo, hhi]

/-! ### The user table and the instruction banks -/

theorem State.writeEng_user {s : State} {e a v : Nat} (i : Fin 32) : s.writeEng e a (0x100 + 8 * i.val) v = s.writeUser e a v := by
  have hi : i.val < 32 := i.isLt
  have h8 : 0x100 + 8 * i.val ≠ 0x8 := by omega
  have h20 : 0x100 + 8 * i.val ≠ 0x20 := by omega
  unfold State.writeEng
  rw [if_neg h8, if_neg h20, if_pos (.inr ⟨by omega, by omega⟩)]

theorem State.writeEng_imemWin {s : State} {e a v : Nat} (i : Fin 4096) :
    s.writeEng e a (0x8000 + 8 * i.val) v = s.writeImemWin e i v := by
  have h8 : 0x8000 + 8 * i.val ≠ 0x8 := by omega
  have h20 : 0x8000 + 8 * i.val ≠ 0x20 := by omega
  have h28 : ¬ (0x8000 + 8 * i.val = 0x28 ∨ (0x100 ≤ 0x8000 + 8 * i.val ∧ 0x8000 + 8 * i.val < 0x200)) := by omega
  have hq : ¬ (0x200 ≤ 0x8000 + 8 * i.val ∧ 0x8000 + 8 * i.val < 0x300) := by omega
  have hsw : 0x8000 + 8 * i.val ≠ 0x310 := by omega
  unfold State.writeEng
  rw [if_neg h8, if_neg h20, if_neg h28, if_neg hq, if_neg hsw, if_pos (by omega)]
  congr 1
  omega

theorem exec_pwlUserWrite {s u : State} {t : Nat} {e : Fin 96} {ag : Agent} (i : Fin 32) (v : BitVec 64)
    (h : s.WritesAt t ag (Reg.engPwlUser e i) u) (hm : u.mayWrite ag (Reg.engPwlUser e i) = true) :
    exec (.pwlUserWrite t e (some i) v ag) s = .next (u.writeUser e (Reg.engPwlUser e i) (v.toNat &&& 0xFFFFFFFFFFFF)) := by
  have hi : i.val < 32 := i.isLt
  refine (State.writeAt_engPlain (v := v.toNat) (user_eq e i) h hm e.isLt (by omega) (by omega) (.inl (by omega)) (user_find i) (.inl rfl)
    rfl).trans ?_
  rw [State.writeEng_user i]

theorem exec_imemWinWrite {s u : State} {t : Nat} {e : Fin 96} {ag : Agent} (i : Fin 4096) (v : BitVec 64)
    (h : s.WritesAt t ag (Reg.engImemWin e i) u) (hm : u.mayWrite ag (Reg.engImemWin e i) = true) :
    exec (.imemWinWrite t e i v ag) s = .next (u.writeImemWin e i v.toNat) := by
  have hi : i.val < 4096 := i.isLt
  refine (State.writeAt_engPlain (v := v.toNat) (win_eq e i) h hm e.isLt (by omega) (by omega) (.inr (by omega)) (win_find i) (.inl rfl)
    rfl).trans ?_
  rw [State.writeEng_imemWin i]
  exact congrArg (fun x => Host.Outcome.next (u.writeImemWin e i x)) (and_mod64 v)

/-- Settles O9: each command is the write of its register, which the user table's use and the banks' state decide. -/
theorem userTableAndBankWrites : Obligations.UserTableAndBankWrites := by
  intro s u t e ag
  have he : e.val < 96 := e.isLt
  refine ⟨fun i v h hm => ⟨fun hfree => ?_, fun hbusy => ?_⟩, fun v h hm hn hfree => ?_, fun h hm => ?_,
    fun i v h hm => ⟨fun hopen => ?_, fun hshut => ?_⟩⟩
  · rw [exec_pwlUserWrite i v h hm, State.writeUser, hfree]; rfl
  · rw [exec_pwlUserWrite i v h hm, State.writeUser, hbusy]; rfl
  · calc exec (.pwlUserWrite t e none v ag) s
        = .next (u.writeUser e (Reg.engPwlUserCfg e) (v.toNat &&& 0x3F)) :=
          State.writeAt_engPlain (ucfg_eq e) h hm he (by decide) rfl (.inl (by decide)) rfl (.inl rfl) (by simp [inRange, hn])
      _ = _ := by rw [State.writeUser, hfree]; rfl
  · exact State.writeAt_engPlain (swap_eq e) h hm he (by decide) rfl (.inr (by decide)) rfl (.inr rfl) rfl
  · obtain ⟨hbank, hswap⟩ := hopen
    rw [exec_imemWinWrite i v h hm, State.writeImemWin, if_neg (by simp [hbank, hswap])]
  · rw [exec_imemWinWrite i v h hm, State.writeImemWin, if_pos hshut]

end Sys2Proof.Machine
end

section
/-! SUPPORT. The registers of a queue: enabling, disabling and control (O10, O11). -/

namespace Sys2Proof.Machine

/-! ### The lock of a queue's registers -/

theorem queueOffset {q k : Nat} (hq : q < 4) (hk : k < 0x40) : 0x200 ≤ 0x200 + k + 0x40 * q ∧ 0x200 + k + 0x40 * q < 0x300 ∧
    (0x200 + k + 0x40 * q - 0x200) / 0x40 = q ∧ (0x200 + k + 0x40 * q) % 0x40 = k := by omega

/-- ENG_Q_CFG of a queue that is not DISABLED takes no write but the one that clears ENABLE alone (R186). -/
theorem locked_qCfg (s : State) {e q : Nat} (v : Nat) (he : e < 96) (hq : q < 4) : s.locked (Reg.engQCfg e q) v =
    (decide ((s.queue e q).state ≠ .disabled) &&
      !(bit (s.rd (Reg.engQCfg e q)) 0 && decide (v = putBits (s.rd (Reg.engQCfg e q)) 0 0 0))) := by
  obtain ⟨h1, h2, h3, h4⟩ := queueOffset hq (k := 0) (by decide)
  simp only [Nat.add_zero] at h1 h2 h3 h4
  rw [qcfg_eq, locked_eng he (by omega), h3, h4, State.queueLocked]
  simp [h1, h2]

/-- ENG_Q_CTRL is never locked. -/
theorem locked_qCtrl (s : State) {e q : Nat} (v : Nat) (he : e < 96) (hq : q < 4) : s.locked (Reg.engQCtrl e q) v = false := by
  obtain ⟨-, -, h3, h4⟩ := queueOffset hq (k := 0x30) (by decide)
  simp only [show 0x200 + 0x30 = 0x230 from rfl] at h3 h4
  rw [qctrl_eq, locked_eng he (by omega), h3, h4, State.queueLocked]
  simp

/-! ### ENG_Q_CFG -/

/-- A write of ENG_Q_CFG that is locked out is dropped. -/
theorem State.writeAt_qCfg_locked {s u : State} {t : Nat} {e : Fin 96} {q : Fin 4} {ag : Agent} {c : Nat}
    (h : s.WritesAt t ag (Reg.engQCfg e q) u) (hm : u.mayWrite ag (Reg.engQCfg e q) = true)
    (hl : u.locked (Reg.engQCfg e q) (c &&& 0xFF0F1F1F07) = true) :
    s.writeAt t ag (Reg.engQCfg e q) c false = .next (u.regAccess (Reg.engQCfg e q)) := by
  have hq : q.val < 4 := q.isLt
  have ho : 0x200 + 0x40 * q.val < 0x10000 := by omega
  have hreg : regionOf (Reg.engQCfg e q) = .register := by rw [qcfg_eq]; exact regionOf_eng e.isLt ho
  have h8 : Reg.engQCfg e q % 8 = 0 := by rw [qcfg_eq]; unfold engReg; omega
  have hf : regFind (Reg.engQCfg e q) = some ⟨0x200, 0x40, 4, .rw, 0x100040400, 0xff0f1f1f07, fun v => qCfgBad v⟩ := by
    rw [qcfg_eq, regFind_eng e.isLt ho]; exact qcfg_find q
  rw [State.writeAt_runs h, State.writeReg_row hreg h8 hf hm, State.writeRow_locked (.inl rfl) hl]

/-- A write of ENG_Q_CFG that is not locked out, of a value that is not reserved. -/
theorem State.writeAt_qCfg {s u : State} {t : Nat} {e : Fin 96} {q : Fin 4} {ag : Agent} {c : Nat}
    (h : s.WritesAt t ag (Reg.engQCfg e q) u) (hm : u.mayWrite ag (Reg.engQCfg e q) = true)
    (hl : u.locked (Reg.engQCfg e q) (c &&& 0xFF0F1F1F07) = false) (hb : qCfgBad c = false) :
    s.writeAt t ag (Reg.engQCfg e q) c false = .next (u.writeQCfg e q (c &&& 0xFF0F1F1F07)) := by
  have hq : q.val < 4 := q.isLt
  refine (State.writeAt_eng (qcfg_eq e q) h hm e.isLt (by omega) (by omega) (qcfg_find q) (.inl rfl) hl hb).trans ?_
  rw [writeEng_q rfl hq]

theorem bit_putBits_zero (v : Nat) : bit (putBits v 0 0 0) 0 = false := by
  simp [bit, putBits, Nat.mod_one]

/-- Settles O10: the lock of ENG_Q_CFG admits any write of a DISABLED queue, and of another only the one that clears ENABLE alone. -/
theorem queueEnableAndDisable : Obligations.QueueEnableAndDisable := by
  intro s u t e q ag v h hm
  have hlock := fun m => locked_qCfg u m e.isLt q.isLt
  refine ⟨⟨fun hst hgood hen => ⟨fun hal => ?_, fun hal => ?_⟩, fun hst hen => ?_⟩, fun hst => ⟨fun hclear hgood => ?_, fun hother => ?_⟩⟩
  · refine (State.writeAt_qCfg h hm (by rw [hlock]; simp [hst]) hgood).trans ?_
    simp only [State.writeQCfg, hst, hen, hal, if_true, Bool.not_true, Bool.false_eq_true, if_false]
    rfl
  · refine (State.writeAt_qCfg h hm (by rw [hlock]; simp [hst]) hgood).trans ?_
    simp only [State.writeQCfg, hst, hen, hal, if_true, Bool.not_true, Bool.false_eq_true, if_false]
  · refine State.writeAt_qCfg_locked h hm ?_
    have hne : putBits v.toNat 0 0 1 &&& 0xFF0F1F1F07 ≠ putBits (u.rd (Reg.engQCfg e q)) 0 0 0 := by
      intro heq
      rw [heq, bit_putBits_zero] at hen
      cases hen
    rw [hlock]
    simp [hst, hne]
  · refine (State.writeAt_qCfg h hm (by rw [hlock]; simp [hclear.1, hclear.2]) hgood).trans ?_
    simp only [State.writeQCfg, hst, if_false, if_pos hclear]
  · refine State.writeAt_qCfg_locked h hm ?_
    rw [hlock, Bool.and_eq_true, Bool.not_eq_true', Bool.and_eq_false_iff, decide_eq_true_eq, decide_eq_false_iff_not]
    refine ⟨hst, ?_⟩
    rwa [Classical.not_and_iff_not_or_not, Bool.not_eq_true] at hother

/-! ### ENG_Q_CTRL -/

/-- A write of ENG_Q_CTRL. -/
theorem State.writeAt_qCtrl {s u : State} {t : Nat} {e : Fin 96} {q : Fin 4} {ag : Agent} {c : Nat} (hc : c < 2 ^ 64)
    (h : s.WritesAt t ag (Reg.engQCtrl e q) u) (hm : u.mayWrite ag (Reg.engQCtrl e q) = true) :
    s.writeAt t ag (Reg.engQCtrl e q) c false = .next (u.writeQCtrl e q c) := by
  have hq : q.val < 4 := q.isLt
  refine (State.writeAt_eng (qctrl_eq e q) h hm e.isLt (by omega) (by omega) (qctrl_find q) (.inr rfl)
    (locked_qCtrl u _ e.isLt hq) rfl).trans ?_
  rw [writeEng_c rfl hq]
  exact congrArg (fun x => Host.Outcome.next (u.writeQCtrl e q x)) (and_all64 hc)

/-- Bit 0 of ENG_Q_CTRL resumes, bit 1 aborts and bit 2 resets. -/
theorem State.writeQCtrl_oneBit (s : State) (e q : Nat) : s.writeQCtrl e q 1 = s.resumeQueue e q ∧
    s.writeQCtrl e q 2 = s.abortQueue e q ∧ s.writeQCtrl e q 4 = s.resetQueue e q := by
  have hbits : ∀ c ∈ [1, 2, 4], bit c 0 = decide (c = 1) ∧ bit c 1 = decide (c = 2) ∧ bit c 2 = decide (c = 4) := by decide
  refine ⟨?_, ?_, ?_⟩ <;> simp [State.writeQCtrl, hbits]

/-- Settles O11: bit 0 of ENG_Q_CTRL resumes, bit 1 aborts and bit 2 resets, by the state of the queue. -/
theorem queueControlWrites : Obligations.QueueControlWrites := by
  intro s u t e q ag h hm
  obtain ⟨h1, h2, h4⟩ := u.writeQCtrl_oneBit e q
  have hwrite : ∀ c < 2 ^ 64, s.writeAt t ag (Reg.engQCtrl e q) c false = .next (u.writeQCtrl e q c) :=
    fun c hc => State.writeAt_qCtrl hc h hm
  have hresume : exec (.resume t e q ag) s = .next (u.resumeQueue e q) := h1 ▸ hwrite 1 (by decide)
  have habort : exec (.abort t e q ag) s = .next (u.abortQueue e q) := h2 ▸ hwrite 2 (by decide)
  have hreset : exec (.reset t e q ag) s = .next (u.resetQueue e q) := h4 ▸ hwrite 4 (by decide)
  refine ⟨fun hx => ?_, fun hx => ?_, fun hd hx hops => ?_, fun hd hx hops => ?_, fun hd => ?_, fun hx => ?_, fun hx => ?_, fun hi hx => ?_⟩
  · rw [hresume, State.resumeQueue, if_pos hx]
  · rw [hresume, State.resumeQueue, if_neg hx]
  · rw [habort]
    simp [State.abortQueue, QueueSt.abortOps, hd, hx, hops]
  · rw [habort]
    simp [State.abortQueue, QueueSt.abortOps, hd, hx, hops]
  · simp [habort, State.abortQueue, hd]
  · simp [habort, State.abortQueue, QueueSt.abortOps, hx]
  · exact hreset.trans (congrArg Host.Outcome.next (if_pos hx))
  · rw [hreset, State.resetQueue, if_neg (by simp [hi, hx])]

end Sys2Proof.Machine
end

section
/-! SUPPORT. TCK_CTRL (O12) and the phase events of the tick plan (O14). -/

namespace Sys2Proof.Machine

/-! ### TCK_CTRL -/

/-- An admitted write of TCK_CTRL whose SRC is not the reserved 3. -/
theorem State.writeReg_tckCtrl {u : State} {ag : Agent} {v : Nat} (hm : u.mayWrite ag Reg.tckCtrl = true) (hsrc : bits v 2 1 ≠ 3) :
    u.writeReg ag Reg.tckCtrl 8 v false = u.writeTckCtrl v :=
  State.writeReg_at rfl rfl ctrl_find (.inl rfl) rfl (beq_eq_false_iff_ne.mpr hsrc) (ctrl_ok u v) hm

theorem State.updateAt_tckCtrl {s u : State} {t : Nat} {ag : Agent} {g : Nat → Nat} (h : s.WritesAt t ag Reg.tckCtrl u)
    (hm : u.mayWrite ag Reg.tckCtrl = true) (hsrc : bits (g (u.rd Reg.tckCtrl)) 2 1 ≠ 3) :
    s.updateAt t ag Reg.tckCtrl g = .next (u.writeTckCtrl (g (u.rd Reg.tckCtrl))) := by
  rw [State.updateAt_runs h, State.writeReg_tckCtrl hm hsrc]

/-- Settles O12: the four commands are writes of TCK_CTRL, whose cases are those of `writeTckCtrl`. -/
theorem tickControlWrites : Obligations.TickControlWrites := by
  refine ⟨fun s u t ag h hm => ⟨fun en hs => ?_, fun src hs => ?_, fun hs => ?_, fun hs => ?_⟩,
    fun s v => ⟨fun h0 hp => ?_, fun h0 hon h5 => ?_, fun h0 hon h5 => ?_, fun h0 hp hon h5 => ?_, fun h0 hp hon h5 h6 hsrc => ?_,
      fun h0 hp hon h5 h6 hsrc => ?_⟩⟩
  · exact State.updateAt_tckCtrl (g := fun r => putBits r 0 0 (b2n en)) h hm hs
  · exact State.updateAt_tckCtrl (g := fun r => putBits r 2 1 src.toNat) h hm hs
  · exact State.updateAt_tckCtrl (g := (· + 64)) h hm hs
  · exact State.updateAt_tckCtrl (g := (· + 32)) h hm hs
  · simp [State.writeTckCtrl, h0, hp]
  · simp [State.writeTckCtrl, h0, hon, h5]
  · simp [State.writeTckCtrl, h0, hon, h5]
  · simp [State.writeTckCtrl, h0, hp, hon, h5]
  · have hsrc' : bits v 2 1 ≠ bits (s.rd Reg.tckCtrl) 2 1 := hsrc
    simp [State.writeTckCtrl, h0, hp, hon, h5, h6, hsrc']
  · have hsrc' : bits v 2 1 = bits (s.rd Reg.tckCtrl) 2 1 := hsrc
    simp [State.writeTckCtrl, h0, hp, hon, h5, h6, hsrc']

/-! ### The events of a phase -/

theorem exec_phaseStart {s u : State} {t : Nat} {p : Fin 16} (hr : (s.advance t).stopped = false)
    (hu : u = ((((s.advance t).inOrder tickPlace 4).fallDue).deadlinesDue 16).budgetsDue) (hdue : u.startDue p u.now = true) :
    exec (.phaseStart t p) s = .next (u.startPhase p) := by
  show execPhaseStart t p s = _
  unfold execPhaseStart
  rw [live_of_running hr]
  dsimp only
  rw [← hu, if_pos hdue]

theorem exec_budgetEnd {s u : State} {t : Nat} {p : Fin 16} (hr : (s.advance t).stopped = false)
    (hu : u = (((s.advance t).inOrder tickPlace 3).fallDue).deadlinesDue 16) (hdue : u.budgetDue p u.now = true) :
    exec (.budgetEnd t p) s = .next (u.budgetEnd p) := by
  subst hu
  show execBudgetEnd t p s = _
  unfold execBudgetEnd
  rw [live_of_running hr]
  exact congrArg Host.Outcome.next (if_pos hdue)

theorem State.deadlinesDue_succ (s : State) (n : Nat) : s.deadlinesDue (n + 1) =
    if (s.deadlinesDue n).deadlineDue n (s.deadlinesDue n).now then (s.deadlinesDue n).deadline n else s.deadlinesDue n := by
  simp only [State.deadlinesDue, List.range_succ, List.foldl_append, List.foldl_cons, List.foldl_nil]
  rfl

/-- DEADLINE of a phase: those of the phases before it have fallen. -/
theorem exec_deadline {s u : State} {t : Nat} {p : Fin 16} (hr : (s.advance t).stopped = false)
    (hu : u = (((s.advance t).inOrder tickPlace 2).fallDue).deadlinesDue p) (hdue : u.deadlineDue p u.now = true) :
    exec (.deadline t p) s = .next (u.deadline p) := by
  subst hu
  show execDeadline t p s = _
  unfold execDeadline
  rw [live_of_running hr]
  exact congrArg Host.Outcome.next ((State.deadlinesDue_succ _ p).trans (if_pos hdue))

/-- A missed deadline with one record posts it. -/
theorem State.deadline_posts {s x : State} {p : Nat} {f : FaultRec} (h : s.missDeadline p = (x, [f])) : s.deadline p = postFault x f := by
  rw [State.deadline, h]
  rfl

/-- Settles O14: each event is due in the state that what precedes it in the cycle has left, and goes by the phase's state. -/
theorem phaseEventsTakeEffect : Obligations.PhaseEventsTakeEffect := by
  intro s u t p hr
  refine ⟨fun hu hdue => ⟨fun hmay => ?_, fun hmay => ?_⟩, fun hu hdue => ⟨fun hcls hst => ?_, fun hcls => ⟨fun hst => ?_, fun hst => ?_⟩⟩,
    fun hu hdue => ⟨fun hst => ?_, fun hst hmissed => ?_, fun hst hending => ⟨fun hfin => ?_, fun hfin hops => ?_, fun hfin hops => ?_⟩⟩⟩
  · rw [exec_phaseStart hr hu hdue, State.startPhase, if_pos hmay]
  · rw [exec_phaseStart hr hu hdue, State.startPhase, if_neg (by simp [hmay])]
  · rw [exec_budgetEnd hr hu hdue, State.budgetEnd, if_neg (by simp [hcls]), if_pos hst]
  · rw [exec_budgetEnd hr hu hdue, State.budgetEnd, if_pos hcls, if_pos (.inr (.inr hst)), if_pos hst]
  · have hnot : (u.run p).state ≠ .running := by rcases hst with h | h <;> simp [h]
    rw [exec_budgetEnd hr hu hdue, State.budgetEnd, if_pos hcls, if_pos (hst.imp_right .inl), if_neg hnot]
  · rw [exec_deadline hr hu hdue]
    refine congrArg Host.Outcome.next (State.deadline_posts ?_)
    rcases hst with h | h <;> (rw [State.missDeadline, h]; rfl)
  · rw [exec_deadline hr hu hdue]
    refine congrArg Host.Outcome.next (State.deadline_posts ?_)
    simp only [State.missDeadline, hst, hmissed, Bool.false_eq_true, if_false]
    rfl
  · rw [exec_deadline hr hu hdue]
    refine congrArg Host.Outcome.next (State.deadline_posts ?_)
    rcases hst with h | h <;>
      (simp only [State.missDeadline, h, hending, hfin, PhState.active, Bool.not_true, Bool.false_eq_true, or_self, if_false, if_true]; rfl)
  · rw [exec_deadline hr hu hdue]
    refine congrArg Host.Outcome.next (State.deadline_posts ?_)
    rcases hst with h | h <;>
      (simp only [State.missDeadline, h, hending, hfin, hops, PhState.active, Bool.not_true, Bool.false_eq_true, or_self, if_false,
        List.isEmpty_nil, if_true]; rfl)
  · rw [exec_deadline hr hu hdue]
    refine congrArg Host.Outcome.next (State.deadline_posts ?_)
    have hops' : (u.phaseOps p).isEmpty = false := List.isEmpty_eq_false_iff.mpr hops
    rcases hst with h | h <;>
      (simp only [State.missDeadline, h, hending, hfin, hops', PhState.active, Bool.not_true, Bool.false_eq_true, or_self, if_false]; rfl)

end Sys2Proof.Machine
end

section
/-! SUPPORT. The issue of WAIT and FENCE (O15), SIGNAL (O16), CALL and BRANCH (O17). -/

namespace Sys2Proof.Machine

/-! ### A `live` command that issues the next entry of a queue -/

section Issued
variable {s u : State} {t e q : Nat} {isIt da : Desc → Bool} {body : State → Site → OpenOp → Issue} {site : Site} {f : Entry}

theorem live_opens (h : s.RunsAt t u) (hi : u.IssuesNext e q isIt site f) {x : State} {o : OpenOp}
    (hb : body (u.issued e q site f) site (u.opened e q site f) = .opens x o) :
    (Host.Outcome.next (s.live t fun s => s.issueNext e q isIt da body) : Host.Outcome State Fault Refusal) =
      .next (u.opensAs e q f (da f.desc) x o) := by
  rw [live_next h, issued_opens hi hb]

theorem live_ends (h : s.RunsAt t u) (hi : u.IssuesNext e q isIt site f) {x : State} {st : EndStatus}
    (hb : body (u.issued e q site f) site (u.opened e q site f) = .ends x st) :
    (Host.Outcome.next (s.live t fun s => s.issueNext e q isIt da body) : Host.Outcome State Fault Refusal) =
      .next (u.endsAs e q site f (da f.desc) x st) := by
  rw [live_next h, issued_ends hi hb]

theorem live_faults (h : s.RunsAt t u) (hi : u.IssuesNext e q isIt site f) {flt : OpFault}
    (hb : body (u.issued e q site f) site (u.opened e q site f) = .fault flt) (h1 : flt.code ≠ atticPending)
    (h2 : flt.code ≠ atticOwn) :
    (Host.Outcome.next (s.live t fun s => s.issueNext e q isIt da body) : Host.Outcome State Fault Refusal) =
      .next (u.faultsAs e q site f (da f.desc) flt) := by
  rw [live_next h, issued_faults hi hb h1 h2]

theorem State.IssuesNext.at_site (hi : u.IssuesNext e q isIt site f) : isIt f.desc = true ∧ site.e = e ∧ site.q = q :=
  issuable_site hi.1

end Issued

/-! The codes with which an issue ends at once: none of them is a wait for an Attic sector. -/

theorem notWait_addrRange : F.addrRange ≠ atticPending ∧ F.addrRange ≠ atticOwn := by simp [F.addrRange, atticPending, atticOwn]

theorem notWait_descInvalid : F.descInvalid ≠ atticPending ∧ F.descInvalid ≠ atticOwn := by
  simp [F.descInvalid, atticPending, atticOwn]

theorem notWait_listDepth : F.listDepth ≠ atticPending ∧ F.listDepth ≠ atticOwn := by simp [F.listDepth, atticPending, atticOwn]

/-! ### WAIT and FENCE -/

/-- A WAIT on a word of memory that can be read opens, ready to commit when its condition is met. -/
theorem State.waitBody_memory {x : State} {site : Site} {o : OpenOp}
    (hm : regionOf (Desc.arg o.desc 0) = .pantry ∨ regionOf (Desc.arg o.desc 0) = .cellar ∨ regionOf (Desc.arg o.desc 0) = .attic)
    (hf : x.readsFault site.part [(Desc.arg o.desc 0, 8)] = none) :
    x.waitBody site o = .opens x { o with finished := x.waitMet o.desc } := by
  unfold State.waitBody
  rcases hm with hm | hm | hm <;> simp [hm, hf]

/-- A WAIT on an address outside memory faults. -/
theorem State.waitBody_elsewhere {x : State} {site : Site} {o : OpenOp} (hp : regionOf (Desc.arg o.desc 0) ≠ .pantry)
    (hc : regionOf (Desc.arg o.desc 0) ≠ .cellar) (ha : regionOf (Desc.arg o.desc 0) ≠ .attic) :
    x.waitBody site o = .fault ⟨F.addrRange, Desc.arg o.desc 0, 0⟩ := by
  unfold State.waitBody
  cases hr : regionOf (Desc.arg o.desc 0) with
  | pantry => exact absurd hr hp
  | cellar => exact absurd hr hc
  | attic => exact absurd hr ha
  | shelf _ _ => simp [hr]
  | register => simp [hr]
  | remote => simp [hr]
  | unmapped => simp [hr]

/-- Settles O15: the issue of a WAIT by the region of its word, of a FENCE, and the timeout of an open WAIT. -/
theorem waitAndFenceIssue : Obligations.WaitAndFenceIssue := by
  intro s u t e q site f h a x o
  refine ⟨fun hi => ⟨fun hm hf => ?_, fun hp hc ha => ?_⟩, fun hi => ?_, fun w _ hw hop hfin hlim hdue => ?_⟩
  · exact live_opens h hi (State.waitBody_memory hm hf)
  · exact live_faults h hi (State.waitBody_elsewhere hp hc ha) notWait_addrRange.1 notWait_addrRange.2
  · exact live_opens h hi rfl
  · obtain ⟨rfl, hs⟩ := h
    refine (gate_next hs).trans (congrArg Host.Outcome.next ?_)
    simp [hw, hop, hfin, hlim, hdue]

/-! ### SIGNAL -/

section Signal
variable {x : State} {site : Site} {o : OpenOp} {d : Desc}

/-- A SIGNAL on a word of Pantry or Cellar is performed at its home slice. -/
theorem State.signalBody_memory (hd : o.desc = d) (hr : isRemote (Desc.arg d 0) = false)
    (hf : x.atomFault (Desc.arg d 0) 8 (decide (Desc.arg d 0 % 8 = 0)) = none)
    (ho : x.opReadFault site.part (Desc.arg d 0) 8 = none) (ha : regionOf (Desc.arg d 0) ≠ .attic) {y : State × OpenOp}
    (hy : (x.inOrder (slicePlace (Desc.arg d 0)) (engineRank site.e (Desc.arg d 0))).chargeOp o [(Desc.arg d 0, 8)] = y) :
    x.signalBody site o = .opens (y.1.doAtomic (Desc.arg d 0) (signalAtomic d)).1 { y.2 with finished := true } := by
  subst hd hy
  simp [State.signalBody, hr, hf, ho, ha]

/-- A SIGNAL on an Attic word is performed while Larder owns its sector. -/
theorem State.signalBody_attic (hd : o.desc = d) (hr : isRemote (Desc.arg d 0) = false)
    (hf : x.atomFault (Desc.arg d 0) 8 (decide (Desc.arg d 0 % 8 = 0)) = none)
    (ho : x.opReadFault site.part (Desc.arg d 0) 8 = none) (ha : regionOf (Desc.arg d 0) = .attic)
    (hown : x.ownsSectors (Desc.arg d 0) 8 = true) :
    x.signalBody site o = .opens (x.doAtomic (Desc.arg d 0) (signalAtomic d)).1 { o with finished := true } := by
  subst hd
  simp [State.signalBody, hr, hf, ho, ha, hown]

/-- A SIGNAL on a remote word asks its module and stays open. -/
theorem State.signalBody_remote (hd : o.desc = d) (hr : isRemote (Desc.arg d 0) = true)
    (hb : remoteBad (Desc.arg d 0) = false) {e op : Nat} (he : site.e = e) (hop : (if Desc.opx d 17 16 = 0 then 0x20 else 0x36) = op) :
    x.signalBody site o = .opens (x.askRemote e site.k o.issue (Desc.arg d 0) 0 8 .signal
      { type := 0x03, op := op, len := 8, payload := leBytes 8 (Desc.arg d 1) }) { o with asked := 1 } := by
  subst hd he hop
  simp [State.signalBody, hr, hb]

theorem State.signalTriggerBody_engine (hd : o.desc = d) (he : bits (Desc.arg d 0) 6 0 < 96) :
    x.signalTriggerBody o = .opens (x.trigger (bits (Desc.arg d 0) 6 0) (bits (Desc.arg d 0) 8 7) (bits (Desc.arg d 1) 31 0))
      { o with finished := true } := by
  subst hd
  exact if_neg (Nat.not_le.mpr he)

theorem State.signalTriggerBody_noEngine (hd : o.desc = d) (he : 96 ≤ bits (Desc.arg d 0) 6 0) :
    x.signalTriggerBody o = .fault ⟨F.descInvalid, 0, 0⟩ := by
  subst hd
  exact if_pos he

/-- The two SIGNALs, told apart by OPX, that `signalBody` issues. -/
theorem exec_signal_opens {s u : State} {t : Nat} {e : Fin 96} {q : Fin 4} {f : Entry} {z : State} {p : OpenOp} (h : s.RunsAt t u)
    (hb : (u.issued e q site f).signalBody site (u.opened e q site f) = .opens z p) :
    (u.IssuesNext e q (fun d => decide (d.op = Op.signal) && decide (d.opx 17 16 = 0)) site f →
      exec (.signalAdd t e q) s = .next (u.opensAs e q f false z p)) ∧
    (u.IssuesNext e q (fun d => decide (d.op = Op.signal) && decide (d.opx 17 16 = 1)) site f →
      exec (.signalSet t e q) s = .next (u.opensAs e q f false z p)) :=
  ⟨fun hi => live_opens h hi hb, fun hi => live_opens h hi hb⟩

end Signal

/-- Settles O16: the issue of a SIGNAL by where its word lies; TRIGGER by whether the engine it names exists. -/
theorem signalsIssue : Obligations.SignalsIssue := by
  intro s u t e q site f h
  refine ⟨fun ⟨hr, hf, ho⟩ ha => ?_, fun ⟨hr, hf, ho⟩ ha hown => ?_, fun hr hb => ⟨fun hi => ?_, fun hi => ?_⟩, fun hi hlt => ?_,
    fun hi hge => ?_⟩
  · exact exec_signal_opens h (State.signalBody_memory rfl hr hf ho ha rfl)
  · exact exec_signal_opens h (State.signalBody_attic rfl hr hf ho ha hown)
  · obtain ⟨his, he, -⟩ := hi.at_site
    have hop : Desc.opx f.desc 17 16 = 0 := of_decide_eq_true (Bool.and_eq_true_iff.mp his).2
    exact (exec_signal_opens h (State.signalBody_remote rfl hr hb he (if_pos hop))).1 hi
  · obtain ⟨his, he, -⟩ := hi.at_site
    have hop : Desc.opx f.desc 17 16 ≠ 0 := by rw [of_decide_eq_true (Bool.and_eq_true_iff.mp his).2]; exact Nat.one_ne_zero
    exact (exec_signal_opens h (State.signalBody_remote rfl hr hb he (if_neg hop))).2 hi
  · exact live_opens h hi (State.signalTriggerBody_engine rfl hlt)
  · exact live_faults h hi (State.signalTriggerBody_noEngine rfl hge) notWait_descInvalid.1 notWait_descInvalid.2

/-! ### CALL and BRANCH-ON-SCALAR -/

section CallBranch
variable {x : State} {site : Site} {o : OpenOp} {d : Desc} {e q : Nat}

/-- The list a CALL names. -/
def callTarget (d : Desc) : Level := { da := Desc.arg d 0, count := bits (Desc.arg d 1) 15 0 }

/-- The list a BRANCH names. -/
def branchTarget (d : Desc) : Level := { da := Desc.arg d 1, count := bits (Desc.arg d 2) 15 0 }

theorem listBad_eq_false {da n : Nat} : listBad da n = false ↔ da % 64 = 0 ∧ n ≠ 0 := by
  simp [listBad]

/-- A CALL LIST, by the form of its list and the depth of the stack. -/
theorem State.callListBody_eq (hd : o.desc = d) (he : site.e = e) (hq : site.q = q) :
    x.callListBody site o =
      if listBad (callTarget d).da (callTarget d).count then .fault ⟨F.descInvalid, 0, 0⟩
      else if 4 ≤ (x.queue e q).stack.length then .fault ⟨F.listDepth, 0, 0⟩
      else .ends (x.setQueue e q ((x.queue e q).push (callTarget d))) .completed := by
  subst hd he hq
  rfl

/-- What a BRANCH compares: its scalar slot with the other slot or the immediate. -/
def State.branchTaken (x : State) (e q : Nat) (d : Desc) : Bool :=
  branchHolds (Desc.opx d 17 16) (Desc.opx d 20 18) (x.scalar e q (Desc.opx d 33 24))
    (if bit (Desc.w d 2) 23 then x.scalar e q (Desc.opx d 43 34) else Desc.arg d 0)

/-- The checks of R172 that a branch passes: a scalar type, a comparison, and the form of the list it names. -/
def BranchOk (target : Bool) (d : Desc) : Prop :=
  (Desc.opx d 17 16 ≠ 3 ∧ Desc.opx d 20 18 ≤ 4) ∧ (target = true → listBad (branchTarget d).da (branchTarget d).count = false)

variable {target pushes : Bool} {act : QueueSt → Level → QueueSt}

theorem State.branchBody_valid (hd : o.desc = d) (he : site.e = e) (hq : site.q = q) (ho : BranchOk target d) :
    x.branchBody site o target pushes act =
      if x.branchTaken e q d = false then .ends x .completed
      else if pushes ∧ 4 ≤ (x.queue e q).stack.length then .fault ⟨F.listDepth, 0, 0⟩
      else .ends (x.setQueue e q (act (x.queue e q) (branchTarget d))) .completed := by
  subst hd he hq
  obtain ⟨⟨htype, hcmp⟩, ht⟩ := ho
  have hbad : ¬(Desc.opx o.desc 17 16 = 3 ∨ 4 < Desc.opx o.desc 20 18 ∨
      (target = true ∧ listBad (Desc.arg o.desc 1) (bits (Desc.arg o.desc 2) 15 0) = true)) := by
    rintro (a | a | ⟨a, b⟩)
    · exact htype a
    · omega
    · exact Bool.false_ne_true ((ht a).symm.trans b)
  unfold State.branchBody
  simp only [if_neg hbad, Bool.not_eq_true']
  rfl

theorem State.branchBody_not (hd : o.desc = d) (he : site.e = e) (hq : site.q = q) (ho : BranchOk target d)
    (ht : x.branchTaken e q d = false) : x.branchBody site o target pushes act = .ends x .completed := by
  rw [State.branchBody_valid hd he hq ho, if_pos ht]

theorem State.branchBody_deep (hd : o.desc = d) (he : site.e = e) (hq : site.q = q) (ho : BranchOk target d)
    (ht : x.branchTaken e q d = true) (hp : pushes = true) (hl : 4 ≤ (x.queue e q).stack.length) :
    x.branchBody site o target pushes act = .fault ⟨F.listDepth, 0, 0⟩ := by
  rw [State.branchBody_valid hd he hq ho, if_neg (ne_false_of_eq_true ht), if_pos ⟨hp, hl⟩]

theorem State.branchBody_acts (hd : o.desc = d) (he : site.e = e) (hq : site.q = q) (ho : BranchOk target d)
    (ht : x.branchTaken e q d = true) (hl : pushes = true → (x.queue e q).stack.length < 4) :
    x.branchBody site o target pushes act = .ends (x.setQueue e q (act (x.queue e q) (branchTarget d))) .completed := by
  rw [State.branchBody_valid hd he hq ho, if_neg (ne_false_of_eq_true ht), if_neg fun a => Nat.not_le.mpr (hl a.1) a.2]

end CallBranch

/-- A CALL KEEPER with a valid entry and MAX_CYCLES starts the routine. -/
theorem State.callKeeperBody_valid {x : State} {site : Site} {o : OpenOp} {d : Desc} {e q : Nat} (hd : o.desc = d) (he : site.e = e)
    (hq : site.q = q) (h1 : Desc.opx d 19 18 = 0) (h2 : Desc.opx d 34 20 % 2 = 0) (h3 : Desc.opx d 63 48 ≠ 0) :
    x.callKeeperBody site o = .opens (({ x with free := x.free + 32 } : State).setEng e { x.eng e with
      routine := some { q := q, maxCycles := Desc.opx d 63 48, startedAt := x.now, pc := BitVec.ofNat 64 (Desc.opx d 34 20),
                        regs := (List.range 32).map fun i =>
                          if 10 ≤ i ∧ i < 15 then BitVec.ofNat 64 (Desc.arg d (i - 10))
                          else BitVec.ofNat 64 (Config.freeNat (x.free + i)), seen := x.now } }) o := by
  subst hd he hq
  have hok : ¬(Desc.opx o.desc 19 18 ≠ 0 ∨ Desc.opx o.desc 34 20 % 2 = 1 ∨ Desc.opx o.desc 63 48 = 0) := by omega
  exact if_neg hok

/-- Settles O17: CALL by the list it names and the depth of the stack, CALL KEEPER, and BRANCH by its comparison. -/
theorem callsAndBranchesIssue : Obligations.CallsAndBranchesIssue := by
  intro s u t e q site f h
  refine ⟨fun hi => ?_, fun hi hfree h1 h2 h3 => ?_, fun hi hg ha => ?_, fun hi hg ha => ?_, fun hi hg => ?_⟩
  · obtain ⟨-, he, hq⟩ := hi.at_site
    have hb := State.callListBody_eq (x := u.issued e q site f) (o := u.opened e q site f) (d := f.desc) rfl he hq
    refine ⟨fun ha hd => live_ends h hi (hb.trans ?_), fun ha hd => live_faults h hi (hb.trans ?_) notWait_listDepth.1
      notWait_listDepth.2, fun ha => live_faults h hi (hb.trans ?_) notWait_descInvalid.1 notWait_descInvalid.2⟩
    · rw [show listBad (callTarget f.desc).da (callTarget f.desc).count = false from listBad_eq_false.mpr ha]
      exact if_neg (Nat.not_le.mpr hd)
    · rw [show listBad (callTarget f.desc).da (callTarget f.desc).count = false from listBad_eq_false.mpr ha]
      exact if_pos hd
    · exact if_pos (eq_true_of_ne_false (mt listBad_eq_false.mp ha))
  · obtain ⟨-, he, hq⟩ := hi.at_site
    obtain ⟨rfl, hs⟩ := h
    refine (gate_next hs).trans (congrArg Host.Outcome.next ((if_neg ?_).trans ?_))
    · rw [hfree]
      exact Bool.false_ne_true
    · exact issued_opens hi (State.callKeeperBody_valid rfl he hq h1 h2 h3)
  · obtain ⟨-, he, hq⟩ := hi.at_site
    have ho : BranchOk true f.desc := ⟨hg, fun _ => listBad_eq_false.mpr ha⟩
    exact ⟨fun ht => live_ends h hi (State.branchBody_not rfl he hq ho ht),
      fun ht hl => live_ends h hi (State.branchBody_acts rfl he hq ho ht fun _ => hl),
      fun ht hl => live_faults h hi (State.branchBody_deep rfl he hq ho ht rfl hl) notWait_listDepth.1 notWait_listDepth.2⟩
  · obtain ⟨-, he, hq⟩ := hi.at_site
    have ho : BranchOk true f.desc := ⟨hg, fun _ => listBad_eq_false.mpr ha⟩
    exact ⟨fun ht => live_ends h hi (State.branchBody_not rfl he hq ho ht),
      fun ht => live_ends h hi (State.branchBody_acts rfl he hq ho ht fun a => absurd a Bool.false_ne_true)⟩
  · obtain ⟨-, he, hq⟩ := hi.at_site
    have ho : BranchOk false f.desc := ⟨hg, fun a => absurd a Bool.false_ne_true⟩
    exact ⟨fun ht => live_ends h hi (State.branchBody_not rfl he hq ho ht),
      fun ht => live_ends h hi (State.branchBody_acts rfl he hq ho ht fun a => absurd a Bool.false_ne_true)⟩

end Sys2Proof.Machine
end

section
/-! SUPPORT. The launch checks (O18), the row ops (O19) and COPY and PREFETCH (O20). -/

namespace Sys2Proof.Machine

theorem ok_bind {ε α β : Type} (a : α) (f : α → Except ε β) : (Except.ok a >>= f) = f a := rfl

theorem ok_map {ε α β : Type} (f : α → β) (a : α) : (f <$> (Except.ok a : Except ε α)) = Except.ok (f a) := rfl

theorem issueOf_ok (i : Issue) : issueOf (.ok i) = i := rfl

/-! ### The launch -/

/-- The sweep of R157 stops at the first source block whose tag is not the generation expected of it. -/
theorem State.sweep_first {s : State} {e b : Nat} {x : Source} {pre post : List Source} {p r : List Nat}
    (hpre : ∀ y ∈ pre, ∀ c ∈ y.blocks, s.tag e c = y.gen) (hx : x.blocks = p ++ b :: r) (hp : ∀ c ∈ p, s.tag e c = x.gen)
    (hb : s.tag e b ≠ x.gen) :
    s.sweep e [] false (pre ++ x :: post) = some (hazardFault e b x.gen (s.tag e b) false false) := by
  have hnone : pre.findSome? (fun x => x.blocks.findSome? fun b =>
      let v := s.tag e b
      if v = x.gen ∨ (v = 15 ∧ b ∈ ([] : List Nat)) then none else some (hazardFault e b x.gen v false false)) = none :=
    List.findSome?_eq_none_iff.mpr fun y hy => List.findSome?_eq_none_iff.mpr fun c hc => if_pos (.inl (hpre y hy c hc))
  have hsome : x.blocks.findSome? (fun b =>
      let v := s.tag e b
      if v = x.gen ∨ (v = 15 ∧ b ∈ ([] : List Nat)) then none else some (hazardFault e b x.gen v false false)) =
        some (hazardFault e b x.gen (s.tag e b) false false) := by
    rw [hx, List.findSome?_append, List.findSome?_eq_none_iff.mpr fun c hc => if_pos (.inl (hp c hc))]
    simp [hb]
  unfold State.sweep
  rw [List.findSome?_append, hnone, List.findSome?_cons, hsome]
  rfl

/-- Settles O18: a launch by its checks in their order; with none failing it claims, charges and begins its work. -/
theorem launchChecksClaimsAndCharges : Obligations.LaunchChecksClaimsAndCharges := by
  intro s site o l work
  refine ⟨fun r hr => by simp only [State.launch, hr], fun hlocal => ?_⟩
  have hremote : (l.srcs.flatMap (·.ranges) ++ l.dst).find? (fun r => decide (regionOf r.1 = .remote)) = none :=
    List.find?_eq_none.mpr fun r hr => by simpa using hlocal r hr
  refine ⟨fun a ha => by simp only [State.launch, hremote, ha], fun hstray => ⟨?_, fun htags => ?_⟩⟩
  · rintro b x pre post hl hpre ⟨p, r, hx, hp⟩ hb
    have hsweep : s.sweep site.e [] false l.srcs = some (hazardFault site.e b x.gen (s.tag site.e b) false false) := by
      rw [hl, State.sweep_first hpre hx hp hb]
    simp only [State.launch, hremote, hstray, hsweep]
  · have hsweep := sweep_ok htags
    exact ⟨fun f hf => by simp only [State.launch, hremote, hstray, hsweep, hf],
      fun f hf hw => by simp only [State.launch, hremote, hstray, hsweep, hf, hw],
      fun hf hw => by simp only [State.launch, hremote, hstray, hsweep, hf, hw]⟩

/-! ### The issue of SMAX, SMAX.BWD and NORM -/

/-- A `gate`d issue whose body launches its units under checks that pass. -/
theorem gate_launches {s u : State} {t e q : Nat} (h : s.RunsAt t u) {isIt da : Desc → Bool} {body : State → Site → OpenOp → Issue}
    {site : Site} {f : Entry} {o : OpenOp} {l : Launch} {units : List WorkUnit} (hi : u.IssuesNext e q isIt site f)
    (hb : body (u.issued e q site f) site (u.opened e q site f) = (u.issued e q site f).launchUnits site o l units)
    (hl : (u.issued e q site f).LaunchPasses site l) :
    (let s := s.advance t
     if s.stopped then (Host.Outcome.next s : Host.Outcome State Fault Refusal) else .next (s.issueNext e q isIt da body)) =
      .next (u.opensAs e q f (da f.desc) ((u.issued e q site f).launchedUnits site o l units).1
        ((u.issued e q site f).launchedUnits site o l units).2) :=
  opens_gate h hi (hb.trans (launchUnits_passes hl))

theorem rowPasses_smax {d : Desc} (h : Desc.op d = Op.smax) : rowPasses d = 3 := by simp [rowPasses, h]

theorem rowPasses_smaxBwd {d : Desc} (h : Desc.op d = Op.smaxBwd) : rowPasses d = 2 := by
  simp [rowPasses, h, Op.smaxBwd, Op.smax, Op.norm, Op.normBwd]

theorem rowPasses_norm {d : Desc} (h : Desc.op d = Op.norm) : rowPasses d = if bit (Desc.w d 2) 16 then 2 else 3 := by
  simp [rowPasses, h, Op.smax, Op.norm]

section RowIssue
variable {i : State} {site : Site} {o : OpenOp} {d : Desc} {x y z : Tensor}

theorem State.smaxBody_launches (hd : o.desc = d) (hop : Desc.op d = Op.smax) (hx : i.OperandIs site (Desc.tdA d) x)
    (hy : i.OperandIs site (Desc.tdD d) y) (hw : x.holds (rowRegion d) = true)
    (hdst : y.destOk (Desc.twrite d) (rowRegion d) = .ok ())
    (hr : rowReserved d 16 = false) (h3 : Desc.arg d 3 = 0) (h4 : Desc.arg d 4 = 0) (hb : Desc.tdB d = 0xFF)
    (hc : Desc.tdC d = 0xFF) :
    i.smaxBody site o = i.launchUnits site (i.latch site o)
      (Launch.into { srcs := [x.source site.e (rowRegion d) (Desc.genA d)], steps := (rowRegion d).m * 3 } y site.e
        (destRegion (Desc.twrite d) (rowRegion d)))
      (rowUnits d (rowRegion d) y
        (fun j => [x.source site.e ⟨(rowRegion d).r + j, (rowRegion d).c, 1, (rowRegion d).n⟩ (Desc.genA d)])
        fun _ => {}) := by
  subst hd
  simp [State.smaxBody, stopIf, hr, h3, h4, hb, hc, operand_is hx, operand_is hy, within_ok hw, hdst, rowPasses_smax hop, ok_bind, ok_map, issueOf_ok]

theorem State.smaxBwdBody_launches (hd : o.desc = d) (hop : Desc.op d = Op.smaxBwd) (hx : i.OperandIs site (Desc.tdA d) x)
    (hz : i.OperandIs site (Desc.tdC d) z) (hy : i.OperandIs site (Desc.tdD d) y) (hw : x.holds (rowRegion d) = true)
    (hwz : z.holds (rowRegion d) = true) (hdst : y.destOk (Desc.twrite d) (rowRegion d) = .ok ())
    (hr : rowReserved d 16 = false) (h3 : Desc.arg d 3 = 0) (h4 : Desc.arg d 4 = 0) (hb : Desc.tdB d = 0xFF) :
    i.smaxBwdBody site o = i.launchUnits site (i.latch site o)
      (Launch.into { srcs := [x.source site.e (rowRegion d) (Desc.genA d), z.source site.e (rowRegion d) (Desc.genC d)],
                     steps := (rowRegion d).m * 2 } y site.e
        (destRegion (Desc.twrite d) (rowRegion d)))
      (rowUnits d (rowRegion d) y
        (fun j =>
          [x.source site.e ⟨(rowRegion d).r + j, (rowRegion d).c, 1, (rowRegion d).n⟩ (Desc.genA d),
           z.source site.e ⟨(rowRegion d).r + j, (rowRegion d).c, 1, (rowRegion d).n⟩ (Desc.genC d)])
        fun _ => {}) := by
  subst hd
  simp [State.smaxBwdBody, stopIf, hr, h3, h4, hb, operand_is hx, operand_is hy, operand_is hz, within_ok hw, within_ok hwz, hdst,
    rowPasses_smaxBwd hop, ok_bind, ok_map, issueOf_ok]

/-- The vectors a NORM reads whole: gamma, and beta when the descriptor names one. -/
def normVectors (site : Site) (d : Desc) (gamma : Tensor) (beta : Option Tensor) : List Source :=
  gamma.source site.e ⟨0, 0, 1, (rowRegion d).n⟩ (Desc.genB d) :: (match beta with
    | some w => [w.source site.e ⟨0, 0, 1, (rowRegion d).n⟩ (Desc.genC d)]
    | none => [])

/-- The row statistics of n rows from row r on, which ARG3 of a NORM names, among what a launch writes. -/
def normStats (site : Site) (d : Desc) (l : Launch) (r n : Nat) : Launch :=
  if Desc.arg d 3 = 0 then l else l.intoBytes site.e (bit (Desc.w d 2) 17) (Desc.arg d 3 + 8 * r) (8 * n)

theorem State.normBody_launches {beta : Option Tensor} (hd : o.desc = d) (hop : Desc.op d = Op.norm)
    (hx : i.OperandIs site (Desc.tdA d) x) (hz : i.OperandIs site (Desc.tdB d) z) (hbeta : i.OperandMay site (Desc.tdC d) beta)
    (hy : i.OperandIs site (Desc.tdD d) y) (hw : x.holds (rowRegion d) = true) (hwz : z.holds ⟨0, 0, 1, (rowRegion d).n⟩ = true)
    (hwb : beta.all (fun w => w.holds ⟨0, 0, 1, (rowRegion d).n⟩) = true)
    (hdst : y.destOk (Desc.twrite d) (rowRegion d) = .ok ()) (hr : rowReserved d 18 = false) (h4 : Desc.arg d 4 = 0) :
    i.normBody site o = i.launchUnits site (i.latch site o)
      (normStats site d (Launch.into
        { srcs := x.source site.e (rowRegion d) (Desc.genA d) :: normVectors site d z beta,
          steps := (rowRegion d).m * (if bit (Desc.w d 2) 16 then 2 else 3) } y site.e
        (destRegion (Desc.twrite d) (rowRegion d))) 0 (rowRegion d).m)
      (rowUnits d (rowRegion d) y
        (fun j => x.source site.e ⟨(rowRegion d).r + j, (rowRegion d).c, 1, (rowRegion d).n⟩ (Desc.genA d) :: normVectors site d z beta)
        fun j => normStats site d {} j 1) := by
  subst hd
  cases beta with
  | none =>
    simp [State.normBody, stopIf, hr, h4, operand_is hx, operand_is hy, operand_is hz, operand_may hbeta, within_ok hw, within_ok hwz,
      hdst, rowPasses_norm hop, ok_bind, ok_map, issueOf_ok, normVectors, normStats]
  | some w =>
    simp [State.normBody, stopIf, hr, h4, operand_is hx, operand_is hy, operand_is hz, operand_may hbeta, within_ok hw, within_ok hwz,
      within_ok (show w.holds _ = true from hwb), hdst, rowPasses_norm hop, ok_bind, ok_map, issueOf_ok, normVectors, normStats]

end RowIssue

section RowExec
variable {s u : State} {t : Nat} {e : Fin 96} {q : Fin 4} {site : Site} {f : Entry} {o : OpenOp} {l : Launch} {units : List WorkUnit}

theorem exec_smax (h : s.RunsAt t u) (hi : u.IssuesNext e q (fun d => decide (d.op = Op.smax)) site f)
    (hb : (u.issued e q site f).smaxBody site (u.opened e q site f) = (u.issued e q site f).launchUnits site o l units)
    (hl : (u.issued e q site f).LaunchPasses site l) :
    exec (.smax t e q) s = .next (u.opensAs e q f (u.rowDa e q f.desc) ((u.issued e q site f).launchedUnits site o l units).1
      ((u.issued e q site f).launchedUnits site o l units).2) := by
  obtain rfl := h.1
  exact gate_launches h hi hb hl

theorem exec_smaxBwd (h : s.RunsAt t u) (hi : u.IssuesNext e q (fun d => decide (d.op = Op.smaxBwd)) site f)
    (hb : (u.issued e q site f).smaxBwdBody site (u.opened e q site f) = (u.issued e q site f).launchUnits site o l units)
    (hl : (u.issued e q site f).LaunchPasses site l) :
    exec (.smaxBwd t e q) s = .next (u.opensAs e q f (u.rowDa e q f.desc) ((u.issued e q site f).launchedUnits site o l units).1
      ((u.issued e q site f).launchedUnits site o l units).2) := by
  obtain rfl := h.1
  exact gate_launches h hi hb hl

theorem exec_norm (h : s.RunsAt t u) (hi : u.IssuesNext e q (fun d => decide (d.op = Op.norm)) site f)
    (hb : (u.issued e q site f).normBody site (u.opened e q site f) = (u.issued e q site f).launchUnits site o l units)
    (hl : (u.issued e q site f).LaunchPasses site l) :
    exec (.norm t e q) s = .next (u.opensAs e q f (u.normDa e q f.desc) ((u.issued e q site f).launchedUnits site o l units).1
      ((u.issued e q site f).launchedUnits site o l units).2) := by
  obtain rfl := h.1
  exact gate_launches h hi hb hl

end RowExec

/-! ### The row a boundary ends -/

section RowUnit
variable {s : State} {site : Site} {o : OpenOp} {d : Desc} {x y z : Tensor}

theorem State.unitWork_smax (hd : o.desc = d) (hop : Desc.op d = Op.smax) (hx : o.entry 0 = some x) (hy : o.entry 3 = some y) (j : Nat) :
    s.unitWork site o j = s.putRow site.e o y (rowRegion d) j ((smaxRow s.free (rowScalar d) (s.row32 site.e x (rowRegion d) j)).map f32) := by
  subst hd
  simp [State.unitWork, hop, Op.smax, Op.norm, Op.normBwd, State.smaxUnit, hx, hy]

theorem State.unitWork_smaxBwd (hd : o.desc = d) (hop : Desc.op d = Op.smaxBwd) (hx : o.entry 0 = some x) (hz : o.entry 2 = some z)
    (hy : o.entry 3 = some y) (j : Nat) :
    s.unitWork site o j = s.putRow site.e o y (rowRegion d) j ((smaxBwdRow s.free (rowScalar d) (s.row32 site.e x (rowRegion d) j)
      (s.row32 site.e z (rowRegion d) j)).map f32) := by
  subst hd
  simp [State.unitWork, hop, Op.smax, Op.smaxBwd, Op.norm, Op.normBwd, State.smaxBwdUnit, hx, hy, hz]

/-- The beta vector of a NORM: zeros when the descriptor names none. -/
def normBeta (s : State) (e n : Nat) : Option Tensor → List W32
  | some b => s.vector32 e b n
  | none => List.replicate n 0

/-- The normalised row a NORM writes, and where ARG3 names an address its statistics. -/
def normRow (s : State) (e : Nat) (o : OpenOp) (d : Desc) (x y z : Tensor) (j : Nat) : State × OpenOp :=
  let g := rowRegion d
  let xs := s.row32 e x g j
  let st := rowStats s.free (bit (Desc.w d 2) 16) (rowScalar d) xs
  let r := s.putRow e o y g j ((xs.zip ((s.vector32 e z g.n).zip (normBeta s e g.n (o.entry 2)))).map
    fun c => f32 (normElem s.free st c.1 c.2.1 c.2.2))
  (if Desc.arg d 3 = 0 then r.1 else r.1.putStats e d j st, r.2)

theorem State.unitWork_norm (hd : o.desc = d) (hop : Desc.op d = Op.norm) (hx : o.entry 0 = some x) (hz : o.entry 1 = some z)
    (hy : o.entry 3 = some y) (j : Nat) : s.unitWork site o j = normRow s site.e o d x y z j := by
  subst hd
  simp only [State.unitWork, hop, if_true, State.normUnit, hx, hy, hz]
  rfl

theorem normRow_op (s : State) (e : Nat) (o : OpenOp) (d : Desc) (x y z : Tensor) (j : Nat) :
    (normRow s e o d x y z j).2.fault = o.fault ∧ (normRow s e o d x y z j).2.steps = o.steps :=
  putRow_op _ _ _ _ _ _ _

end RowUnit

theorem State.UnitDue.site_e {u : State} {e q k : Nat} {site : Site} {o : OpenOp} {w : WorkUnit} {rest : List WorkUnit}
    (h : u.UnitDue e q k site o w rest) : site.e = e := by
  rw [(siteOf_at h.1.1).2]

theorem State.UnitDue.site_q {u : State} {e q k : Nat} {site : Site} {o : OpenOp} {w : WorkUnit} {rest : List WorkUnit}
    (h : u.UnitDue e q k site o w rest) : site.q = q := by
  rw [(siteOf_at h.1.1).2]

theorem State.UnitDue.stepOf_eq {u : State} {e q k : Nat} {site : Site} {o : OpenOp} {w : WorkUnit} {rest : List WorkUnit}
    (h : u.UnitDue e q k site o w rest) : (u.stepOf site o).2 = { o with steps := o.steps + 1 } :=
  stepOf_op h.2.2.2.2.2.1

theorem State.UnitDue.stepOf_desc {u : State} {e q k : Nat} {site : Site} {o : OpenOp} {w : WorkUnit} {rest : List WorkUnit}
    (h : u.UnitDue e q k site o w rest) : (u.stepOf site o).2.desc = o.desc := by
  rw [h.stepOf_eq]

theorem State.UnitDue.stepOf_entry {u : State} {e q k : Nat} {site : Site} {o : OpenOp} {w : WorkUnit} {rest : List WorkUnit}
    (h : u.UnitDue e q k site o w rest) (n : Nat) : (u.stepOf site o).2.entry n = o.entry n := by
  rw [h.stepOf_eq]
  rfl

/-- A boundary at which a row-unit op's due row is written: the row by the unit's rule, then the boundary's end. -/
theorem unit_writes {s u : State} {t : Nat} {e : Fin 96} {q : Fin 4} {k : Fin 2} {site : Site} {o : OpenOp} {w : WorkUnit}
    {rest : List WorkUnit} (h : s.RunsAt t u) (hu : u.UnitDue e q k site o w rest)
    (hop : Desc.op o.desc ≠ Op.attn ∧ Desc.op o.desc ≠ Op.attnBwd) {y : State × OpenOp}
    (hy : (u.stepOf site o).1.unitWork site (u.stepOf site o).2 o.tile = y)
    (hkeeps : y.2.fault = (u.stepOf site o).2.fault ∧ y.2.steps = (u.stepOf site o).2.steps) :
    exec (.stepBoundary t e q k) s = .next (u.unitEnds site o w rest y) :=
  unit_exec h hu hop hy (hkeeps.1.trans hu.2.2.2.2.2.1) hkeeps.2

/-- Settles O19: the three row ops launch under their checks, and each due row is written by its unit's rule. -/
theorem softmaxAndNormResults : Obligations.SoftmaxAndNormResults := by
  refine ⟨?_, ?_⟩
  · intro s u t e q site f x y z h d i o g row vec opens hx hy hw hdst
    refine ⟨?_, ?_, ?_⟩
    · intro hi hr h3 h4 hb hc src l hl
      obtain ⟨hop, -, -⟩ := hi.at_site
      exact exec_smax h hi (State.smaxBody_launches rfl (of_decide_eq_true hop) hx hy hw hdst hr h3 h4 hb hc) hl
    · intro hi hr h3 h4 hb hz hwz src l hl
      obtain ⟨hop, -, -⟩ := hi.at_site
      exact exec_smaxBwd h hi (State.smaxBwdBody_launches rfl (of_decide_eq_true hop) hx hz hy hw hwz hdst hr h3 h4 hb) hl
    · intro beta hbeta hwb hi hr h4 hz hwz vecs src stats l hl
      obtain ⟨hop, -, -⟩ := hi.at_site
      exact exec_norm h hi (State.normBody_launches rfl (of_decide_eq_true hop) hx hz hbeta hy hw hwz hwb hdst hr h4) hl
  · intro s u t e q k site o w rest x y h hu d p g j xs ends hx hy
    have hx' : p.2.entry 0 = some x := (hu.stepOf_entry 0).trans hx
    have hy' : p.2.entry 3 = some y := (hu.stepOf_entry 3).trans hy
    have he := hu.site_e
    refine ⟨fun hop => ?_, fun z hop hz => ?_, fun z hop hz => ?_⟩
    · refine unit_writes h hu ?_ ((State.unitWork_smax hu.stepOf_desc hop hx' hy' _).trans ?_) (putRow_op _ _ _ _ _ _ _)
      · rw [hop]; decide
      · rw [he]
    · have hz' : p.2.entry 2 = some z := (hu.stepOf_entry 2).trans hz
      refine unit_writes h hu ?_ ((State.unitWork_smaxBwd hu.stepOf_desc hop hx' hz' hy' _).trans ?_) (putRow_op _ _ _ _ _ _ _)
      · rw [hop]; decide
      · rw [he]
    · have hz' : p.2.entry 1 = some z := (hu.stepOf_entry 1).trans hz
      have hwork := State.unitWork_norm (s := p.1) (site := site) hu.stepOf_desc hop hx' hz' hy' j
      rw [he] at hwork
      have hends := unit_writes h hu (by rw [hop]; decide) hwork (normRow_op _ _ _ _ _ _ _ _)
      rw [hends]
      simp only [normRow, hu.stepOf_entry 2]
      rfl

/-! ### COPY and PREFETCH -/

/-- A `live` issue whose body launches its units under checks that pass. -/
theorem live_launches {s u : State} {t e q : Nat} (h : s.RunsAt t u) {isIt da : Desc → Bool} {body : State → Site → OpenOp → Issue}
    {site : Site} {f : Entry} {o : OpenOp} {l : Launch} {units : List WorkUnit} (hi : u.IssuesNext e q isIt site f)
    (hb : body (u.issued e q site f) site (u.opened e q site f) = (u.issued e q site f).launchUnits site o l units)
    (hl : (u.issued e q site f).LaunchPasses site l) :
    (Host.Outcome.next (s.live t fun s => s.issueNext e q isIt da body) : Host.Outcome State Fault Refusal) =
      .next (u.opensAs e q f (da f.desc) ((u.issued e q site f).launchedUnits site o l units).1
        ((u.issued e q site f).launchedUnits site o l units).2) :=
  live_opens h hi (hb.trans (launchUnits_passes hl))

section CopyIssue
variable {i : State} {site : Site} {o : OpenOp} {d : Desc}

/-- The op of a COPY that is launched: into Keeper data, its destination there is noted. -/
def copyOpened (q : Nat) (o : OpenOp) (d : Desc) : OpenOp :=
  { o with kdst := if bit (Desc.w d 2) 18 then [(q * 32768 + Desc.arg d 1, bits (Desc.arg d 2) 39 0)] else o.kdst }

theorem remoteBad_of_local {a : Nat} (h : isRemote a = false) : remoteBad a = false := by
  rw [remoteBad, h, Bool.false_and]

theorem State.copyBody_launches (hd : o.desc = d) (hb : copyBad d = false) (hf : copyFrom d = false) (ht : copyTo d = false) :
    i.copyBody site o = i.launchUnits site (copyOpened site.q o d) (copyLaunch site.e d) (batchUnits site.e d) := by
  subst hd
  cases h18 : bit (Desc.w o.desc 2) 18 <;>
    simp [State.copyBody, stopIf, hb, hf, ht, h18, remoteBad_of_local ht, copyOpened, copyBytes, ok_bind, ok_map, issueOf_ok]

theorem State.prefetchBody_launches (hd : o.desc = d) (hn : bits (Desc.arg d 2) 39 0 % 64 = 0) (h16 : bit (Desc.w d 2) 16 = false)
    (h17 : bit (Desc.w d 2) 17 = false) (h18 : bit (Desc.w d 2) 18 = false) (hs : regionOf (Desc.arg d 0) = .cellar)
    (ht : regionOf (Desc.arg d 1) = .pantry) :
    i.prefetchBody site o = i.launchUnits site o
      (Launch.intoBytes { srcs := [byteSource site.e false (Desc.arg d 0) (bits (Desc.arg d 2) 39 0) 0], steps := copyBatches d } site.e false
        (Desc.arg d 1) (bits (Desc.arg d 2) 39 0))
      (batchUnits site.e d) := by
  subst hd
  simp [State.prefetchBody, stopIf, copyBytes, hn, h16, h17, h18, hs, ht, ok_map, issueOf_ok]

theorem State.unitWork_copy {s : State} (hd : o.desc = d) (hop : Desc.op d = Op.copy ∨ Desc.op d = Op.prefetch) (j : Nat) :
    s.unitWork site o j = s.copyUnit site.e site.q o j := by
  subst hd
  rcases hop with hop | hop <;>
    simp [State.unitWork, hop, Op.copy, Op.prefetch, Op.norm, Op.normBwd, Op.smax, Op.smaxBwd, Op.gate, Op.reduce, Op.scan, Op.conv,
      Op.convFused, Op.boxdec, Op.sort, Op.nms]

end CopyIssue

/-- Settles O20: COPY and PREFETCH launch under their checks, and each due batch's bytes are moved. -/
theorem copyAndPrefetchResults : Obligations.CopyAndPrefetchResults := by
  refine ⟨?_, ?_⟩
  · intro s u t e q site f h
    refine ⟨fun hi hb hf ht hl => ?_, fun hi hn h16 h17 h18 hs ht hl => ?_⟩
    · exact live_launches h hi (State.copyBody_launches rfl hb hf ht) hl
    · exact live_launches h hi (State.prefetchBody_launches rfl hn h16 h17 h18 hs ht) hl
  · intro s u t e q k site o w rest h hu hop
    have hne : Desc.op o.desc ≠ Op.attn ∧ Desc.op o.desc ≠ Op.attnBwd := by
      rcases hop with hop | hop <;> rw [hop] <;> decide
    have hwork := State.unitWork_copy (s := (u.stepOf site o).1) (site := site) hu.stepOf_desc hop o.tile
    rw [hu.site_e, hu.site_q] at hwork
    rw [unit_writes h hu hne hwork ⟨rfl, rfl⟩]
    simp only [State.copyUnit, hu.stepOf_desc]
    rfl

end Sys2Proof.Machine
end

section
/-! SUPPORT. The ops of the arrays open under their checks (O21). -/

namespace Sys2Proof.Machine

/-! ### What a check answers -/

/-- Every value that a check may answer has property p. -/
def Answers {α : Type} (p : α → Prop) (m : Except OpFault α) : Prop := ∀ x, m = .ok x → p x

theorem answers_ok {α : Type} {p : α → Prop} {x : α} (h : p x) : Answers p (Except.ok x) := by
  intro y hy
  cases hy
  exact h

theorem answers_bind {α β : Type} {p : β → Prop} {m : Except OpFault α} {f : α → Except OpFault β} (h : ∀ a, Answers p (f a)) :
    Answers p (m >>= f) := by
  intro y hy
  cases m with
  | error e => cases hy
  | ok a => exact h a y hy

/-- Whether a CONV pools is what OPX says: the value that every path of its checks answers. -/
theorem State.convCheck_pool {i : State} {site : Site} {d : Desc} {x : ConvArgs} (h : i.convCheck site d = .ok x) :
    x.pool = bit (Desc.w d 2) 21 := by
  refine (?_ : Answers (fun x : ConvArgs => x.pool = bit (Desc.w d 2) 21) (i.convCheck site d)) x h
  unfold State.convCheck
  dsimp only
  repeat' (first | refine answers_bind fun _ => ?_ | split)
  all_goals exact answers_ok rfl

/-- An MMA that meets the conditions of R200 and R204 passes its checks. -/
theorem State.mmaCheck_ok {i : State} {site : Site} {d : Desc} {a b y : Tensor} (ha : i.OperandIs site (Desc.tdA d) a)
    (hb : i.OperandIs site (Desc.tdB d) b) (hy : i.OperandIs site (Desc.tdD d) y) (hr : mmaReserved d false = false)
    (hint : a.fmt.isInt = b.fmt.isInt) (hk : (mmaArgs d a b y).grid.kstep ≤ 32 * (mmaArgs d a b y).grid.lanes)
    (hu : (mmaArgs d a b y).unblocked = none) (hwa : a.holds (mmaArgs d a b y).regionA = true)
    (hwb : b.holds (mmaArgs d a b y).regionB = true) (hsa : a.scaled = true → (mmaArgs d a b y).ak % 32 = 0)
    (hsb : b.scaled = true → (mmaArgs d a b y).bk % 32 = 0)
    (hd : y.destOk (Desc.twrite d) ⟨(mmaArgs d a b y).dr, (mmaArgs d a b y).dc, (mmaArgs d a b y).grid.m, (mmaArgs d a b y).grid.n⟩ = .ok ()) :
    i.mmaCheck site d false = .ok (mmaArgs d a b y) := by
  have h1 : (a.scaled && decide ((mmaArgs d a b y).ak % 32 ≠ 0)) = false := by
    cases h : a.scaled with
    | false => rfl
    | true => simp [hsa h]
  have h2 : (b.scaled && decide ((mmaArgs d a b y).bk % 32 ≠ 0)) = false := by
    cases h : b.scaled with
    | false => rfl
    | true => simp [hsb h]
  have h3 : decide (32 * (mmaArgs d a b y).grid.lanes < (mmaArgs d a b y).grid.kstep) = false := decide_eq_false (Nat.not_lt.mpr hk)
  simp only [State.mmaCheck, operand_is ha, operand_is hb, operand_is hy, hr, hint, hu, h1, h2, h3, within_ok hwa, within_ok hwb, hd, stopIf,
    ok_bind, bne_self_eq_false, Option.isSome_none, Bool.false_and, Bool.false_eq_true, if_false]
  rfl

/-! ### What each body opens -/

/-- A `gate`d issue whose body faults. -/
theorem faults_gate {s u : State} {t e q : Nat} (h : s.RunsAt t u) {isIt da : Desc → Bool} {body : State → Site → OpenOp → Issue}
    {site : Site} {f : Entry} {flt : OpFault} (hi : u.IssuesNext e q isIt site f)
    (hb : body (u.issued e q site f) site (u.opened e q site f) = .fault flt) (hw : flt.code ≠ atticPending ∧ flt.code ≠ atticOwn) :
    (let s := s.advance t
     if s.stopped then (Host.Outcome.next s : Host.Outcome State Fault Refusal) else .next (s.issueNext e q isIt da body)) =
      .next (u.faultsAs e q site f (da f.desc) flt) := by
  obtain ⟨rfl, hs⟩ := h
  exact (gate_next hs).trans (congrArg Host.Outcome.next (issued_faults hi hb hw.1 hw.2))

theorem notWait_engineClass : F.engineClass ≠ atticPending ∧ F.engineClass ≠ atticOwn := by
  simp [F.engineClass, atticPending, atticOwn]

theorem pure_ok {α : Type} (x : α) : (pure x : Except OpFault α) = .ok x := rfl

section Bodies
variable {i : State} {site : Site} {o : OpenOp} {d : Desc}

theorem State.mmaBody_opens {bwd : Bool} {x : MmaArgs} (hd : o.desc = d) (hx : i.mmaCheck site d bwd = .ok x)
    (hl : i.LaunchPasses site (x.launch site.e d)) {b : State × OpenOp} (hb : i.launched site (i.latch site o) (x.launch site.e d) = b) :
    i.mmaBody site o bwd = .opens ((b.1.clearStation site.e).mmaEmpty site.e (b.2.tilesOf x.grid) x).1
      ((b.1.clearStation site.e).mmaEmpty site.e (b.2.tilesOf x.grid) x).2 := by
  subst hd hb
  unfold State.mmaBody
  rw [hx, ok_bind, pure_ok, issueOf_ok]
  exact launch_passes hl

theorem State.convBody_opens {x : ConvArgs} (hd : o.desc = d) (hx : i.convCheck site d = .ok x) (hp : bit (Desc.w d 2) 21 = false)
    (hl : i.LaunchPasses site (x.launch site.e d)) {b : State × OpenOp} (hb : i.launched site (i.latch site o) (x.launch site.e d) = b) :
    i.convBody site o = .opens (b.1.clearStation site.e) (b.2.tilesOf x.grid) := by
  subst hd hb
  simp only [State.convBody, hx, ok_bind, pure_ok, issueOf_ok, (State.convCheck_pool hx).trans hp, Bool.false_eq_true, if_false]
  exact launch_passes hl

theorem State.convBody_pools {x : ConvArgs} (hd : o.desc = d) (hx : i.convCheck site d = .ok x) (hp : bit (Desc.w d 2) 21 = true)
    (hl : i.LaunchPasses site (x.launch site.e d)) :
    i.convBody site o = .opens (i.launchedUnits site (i.latch site o) (x.launch site.e d) (x.poolUnits site.e d)).1
      (i.launchedUnits site (i.latch site o) (x.launch site.e d) (x.poolUnits site.e d)).2 := by
  subst hd
  simp only [State.convBody, hx, ok_bind, pure_ok, issueOf_ok, (State.convCheck_pool hx).trans hp, if_true]
  exact launchUnits_passes hl

theorem State.fusedBody_opens {a : FusedArgs} {scratch : Tensor} {at0 : Nat} (hd : o.desc = d) (hat : recordDa site.e d = at0)
    (hr : i.readsFault site.part [(at0, 320)] = none)
    (hc : fusedCheck (fun _ => i.operand site) d (i.load at0 320) = .ok (a, scratch))
    (hl : i.LaunchPasses site (a.launch site.e d scratch)) {b : State × OpenOp}
    (hb : i.launched site (i.latchFused site o (i.load at0 320) a) (a.launch site.e d scratch) = b) :
    i.fusedBody site o = .opens (b.1.clearStation site.e)
      { b.2 with units := a.units site.e d scratch, finished := a.tiles.isEmpty } := by
  subst hd hat hb
  simp only [State.fusedBody, hr, hc, ok_bind, pure_ok, issueOf_ok]
  exact launch_passes hl

theorem State.attnOpen_opens {bwd : Bool} {x y : AttnArgs} {table header : List Byte} {pool : Pool} {seqs : List SeqEnt} (hd : o.desc = d)
    (hx : i.attnCheck site d bwd = .ok x) (hw : (i.work site o false x.heads).1 = .ok (table, header)) {o1 : OpenOp}
    (ho : { i.latch site o with entries := (i.latch site o).entries ++ [table, header] } = o1) (hy : o1.attn = some (y, pool, seqs))
    (hf : y.fits d seqs = .ok ()) (hl : i.LaunchPasses site (y.launch site.e d seqs bwd)) {b : State × OpenOp}
    (hb : i.launched site o1 (y.launch site.e d seqs bwd) = b) :
    i.attnOpen site o bwd = .opens ((b.1.clearStation site.e).attnBegin site.e b.2 y pool seqs).1
      ((b.1.clearStation site.e).attnBegin site.e b.2 y pool seqs).2 := by
  subst hd ho hb
  simp only [State.attnOpen, hx, hw, ok_bind, hy, hf, pure_ok, issueOf_ok]
  exact launch_passes hl

/-- The state in which a SCAN is launched: the matrix-product scan clears the station. -/
theorem State.scanBody_opens {a b : Tensor} {w h : Option Tensor} (hd : o.desc = d) (hc : i.scanCheck site d = .ok (a, b, w, h)) {j : State}
    (hj : (if (scanArgs d).product then i.clearStation site.e else i) = j) (hl : j.LaunchPasses site (scanLaunch site.e d a b w h))
    {p : State × OpenOp} (hp : j.launchedUnits site (i.latch site o) (scanLaunch site.e d a b w h)
      (scanUnits site.e d (scanArgs d) a b w (scanBlocks d h)) = p) :
    i.scanBody site o = .opens p.1 p.2 := by
  subst hd hj hp
  simp only [State.scanBody, hc, ok_bind, pure_ok, issueOf_ok]
  exact launchUnits_passes hl

theorem State.pulseBody_eq {x : PulseArgs} (hd : o.desc = d)
    (hx : pulseArgs d (fun j => i.operand site ((pulseTds d).getD j 0xFF)) (i.pulseIndex site d) = .ok x)
    (hs : i.pulseSweep site.e d x false = none) (hr : i.readsFault site.part (x.touched site.e d) = none) :
    i.pulseBody site o = i.pulseOpen site o (i.pulseIndex site d) x := by
  subst hd
  simp only [State.pulseBody, hx, ok_bind, hs, hr]
  rfl

theorem State.pulseOpen_resident {x : PulseArgs} {v : Nat} (hd : o.desc = d) (hres : i.resident site d x = true) :
    i.pulseOpen site o v x = .opens (i.pulseStep site.e x o).1 (i.pulseStep site.e x o).2 := by
  subst hd
  exact if_pos hres

theorem State.pulseOpen_loads {x : PulseArgs} {v : Nat} (hd : o.desc = d) (hres : i.resident site d x = false) :
    i.pulseOpen site o v x = .opens (i.loadStation site d x) { i.latchTds site o (pulseTds d) with stepsTotal := 1, asked := v } := by
  subst hd
  exact if_neg (Bool.not_eq_true _ ▸ hres)

end Bodies

section ArrayExec
variable {s u x : State} {t : Nat} {e : Fin 96} {q : Fin 4} {site : Site} {f : Entry} {o : OpenOp}

theorem exec_mma (h : s.RunsAt t u) (hi : u.IssuesNext e q (fun d => decide (d.op = Op.mma)) site f)
    (hb : (u.issued e q site f).mmaBody site (u.opened e q site f) false = .opens x o) :
    exec (.mma t e q) s = .next (u.opensAs e q f (u.daDest e q f.desc) x o) := by
  obtain rfl := h.1
  exact opens_gate h hi hb

theorem exec_mmaBwdX (h : s.RunsAt t u) (hi : u.IssuesNext e q (fun d => decide (d.op = Op.mmaBwdX)) site f) (he : e.val % 3 ≠ 0)
    (hb : (u.issued e q site f).mmaBody site (u.opened e q site f) true = .opens x o) :
    exec (.mmaBwdX t e q) s = .next (u.opensAs e q f (u.daDest e q f.desc) x o) := by
  obtain rfl := h.1
  exact opens_gate h hi ((if_neg he).trans hb)

theorem exec_mmaBwdW (h : s.RunsAt t u) (hi : u.IssuesNext e q (fun d => decide (d.op = Op.mmaBwdW)) site f) (he : e.val % 3 ≠ 0)
    (hb : (u.issued e q site f).mmaBody site (u.opened e q site f) true = .opens x o) :
    exec (.mmaBwdW t e q) s = .next (u.opensAs e q f (u.daDest e q f.desc) x o) := by
  obtain rfl := h.1
  exact opens_gate h hi ((if_neg he).trans hb)

theorem exec_conv (h : s.RunsAt t u) (hi : u.IssuesNext e q (fun d => decide (d.op = Op.conv) && !(bit (d.w 2) 21)) site f)
    (hb : (u.issued e q site f).convBody site (u.opened e q site f) = .opens x o) :
    exec (.conv t e q) s = .next (u.opensAs e q f (u.daDest e q f.desc) x o) := by
  obtain rfl := h.1
  exact opens_gate h hi hb

theorem exec_maxpool (h : s.RunsAt t u) (hi : u.IssuesNext e q (fun d => decide (d.op = Op.conv) && bit (d.w 2) 21) site f)
    (hb : (u.issued e q site f).convBody site (u.opened e q site f) = .opens x o) :
    exec (.maxpool t e q) s = .next (u.opensAs e q f (u.daDest e q f.desc) x o) := by
  obtain rfl := h.1
  exact opens_gate h hi hb

theorem exec_convFused (h : s.RunsAt t u) (hi : u.IssuesNext e q (fun d => decide (d.op = Op.convFused)) site f)
    (hb : (u.issued e q site f).fusedBody site (u.opened e q site f) = .opens x o) :
    exec (.convFused t e q) s = .next (u.opensAs e q f (u.daDest e q f.desc) x o) := by
  obtain rfl := h.1
  exact opens_gate h hi hb

theorem exec_attn (h : s.RunsAt t u) (hi : u.IssuesNext e q (fun d => decide (d.op = Op.attn)) site f)
    (hb : (u.issued e q site f).attnOpen site (u.opened e q site f) false = .opens x o) :
    exec (.attn t e q) s = .next (u.opensAs e q f (u.attnDa e q f.desc) x o) := by
  obtain rfl := h.1
  exact opens_gate h hi hb

theorem exec_attnBwd (h : s.RunsAt t u) (hi : u.IssuesNext e q (fun d => decide (d.op = Op.attnBwd)) site f) (he : e.val % 3 ≠ 0)
    (hb : (u.issued e q site f).attnOpen site (u.opened e q site f) true = .opens x o) :
    exec (.attnBwd t e q) s = .next (u.opensAs e q f true x o) := by
  obtain rfl := h.1
  exact opens_gate h hi ((if_neg (by rw [hi.at_site.2.1]; exact he)).trans hb)

/-- The SCAN command of each of its three modes. -/
def scanInstr (t : Nat) (e : Fin 96) (q : Fin 4) : Fin 3 → Instr
  | 0 => .scanFull t e q
  | 1 => .scanLocal t e q
  | 2 => .scanReverse t e q

theorem exec_scan (h : s.RunsAt t u) {mode : Fin 3}
    (hi : u.IssuesNext e q (fun d => decide (d.op = Op.scan) && decide (d.opx 17 16 = mode.val)) site f)
    (hb : (u.issued e q site f).scanBody site (u.opened e q site f) = .opens x o) :
    exec (scanInstr t e q mode) s = .next (u.opensAs e q f (u.scanDa e q f.desc) x o) := by
  obtain rfl := h.1
  match mode with
  | 0 => exact opens_gate h hi hb
  | 1 => exact opens_gate h hi hb
  | 2 => exact opens_gate h hi hb

theorem exec_pulse (h : s.RunsAt t u) (hi : u.IssuesNext e q (fun d => decide (d.op = Op.pulse)) site f)
    (hb : (u.issued e q site f).pulseBody site (u.opened e q site f) = .opens x o) :
    exec (.pulse t e q) s = .next (u.opensAs e q f false x o) :=
  live_opens h hi hb

end ArrayExec

/-- On an F engine the two backward products and ATTN_BWD end with F_ENGINE_CLASS (R117). -/
theorem exec_onFEngine {s u : State} {t : Nat} {e : Fin 96} {q : Fin 4} {site : Site} {f : Entry} (h : s.RunsAt t u) (he : e.val % 3 = 0) :
    (u.IssuesNext e q (fun d => decide (d.op = Op.mmaBwdX)) site f →
      exec (.mmaBwdX t e q) s = .next (u.faultsAs e q site f (u.daDest e q f.desc) ⟨F.engineClass, 0, 0⟩)) ∧
    (u.IssuesNext e q (fun d => decide (d.op = Op.mmaBwdW)) site f →
      exec (.mmaBwdW t e q) s = .next (u.faultsAs e q site f (u.daDest e q f.desc) ⟨F.engineClass, 0, 0⟩)) ∧
    (u.IssuesNext e q (fun d => decide (d.op = Op.attnBwd)) site f →
      exec (.attnBwd t e q) s = .next (u.faultsAs e q site f true ⟨F.engineClass, 0, 0⟩)) := by
  obtain rfl := h.1
  refine ⟨fun hi => ?_, fun hi => ?_, fun hi => ?_⟩
  · exact faults_gate h hi (if_pos he) notWait_engineClass
  · exact faults_gate h hi (if_pos he) notWait_engineClass
  · exact faults_gate h hi (if_pos (by rw [hi.at_site.2.1]; exact he)) notWait_engineClass

/-- Settles O21: each op's checks and launch give what its body opens; on an F engine three of them fault. -/
theorem arrayMacroOpsOpen : Obligations.ArrayMacroOpsOpen := by
  intro s u t e q site f h d i o ol op next opens refuses
  refine ⟨?_, ?_, fun he => exec_onFEngine h he, ?_, ?_, ?_, ?_, ?_⟩
  · intro a b y ha hb hy x region hr hint hk hu hwa hwb hsa hsb hd
    exact State.mmaCheck_ok ha hb hy hr hint hk hu hwa hwb hsa hsb hd
  · intro x b begun
    refine ⟨fun hi hx hl => ?_, fun hi he hx hl => ?_, fun hi he hx hl => ?_⟩
    · exact exec_mma h hi (State.mmaBody_opens (d := d) rfl hx hl rfl)
    · exact exec_mmaBwdX h hi he (State.mmaBody_opens (d := d) rfl hx hl rfl)
    · exact exec_mmaBwdW h hi he (State.mmaBody_opens (d := d) rfl hx hl rfl)
  · intro x hx hl
    refine ⟨fun hi => ?_, fun hi => ?_⟩
    · have hp : bit (Desc.w d 2) 21 = false := by simpa using (Bool.and_eq_true_iff.mp hi.at_site.1).2
      exact exec_conv h hi (State.convBody_opens (d := d) rfl hx hp hl rfl)
    · have hp : bit (Desc.w d 2) 21 = true := (Bool.and_eq_true_iff.mp hi.at_site.1).2
      exact exec_maxpool h hi (State.convBody_pools (d := d) rfl hx hp hl)
  · intro a scratch hi at0 bs l b hr hc hl
    exact exec_convFused h hi (State.fusedBody_opens (d := d) rfl rfl hr hc hl rfl)
  · intro bwd x y table header pool seqs o1 l b begun hx hw hy hf hl
    refine ⟨?_, ?_⟩
    · rintro rfl hi
      exact exec_attn h hi (State.attnOpen_opens (d := d) rfl hx hw rfl hy hf hl rfl)
    · rintro rfl he hi
      exact exec_attnBwd h hi he (State.attnOpen_opens (d := d) rfl hx hw rfl hy hf hl rfl)
  · intro a b w hT mode c j l hi hc hl
    exact exec_scan h hi (State.scanBody_opens (d := d) rfl hc rfl hl rfl)
  · intro x hi v hx hs hr
    have hb := State.pulseBody_eq (o := o) (d := d) rfl hx hs hr
    exact ⟨fun hres => exec_pulse h hi (hb.trans (State.pulseOpen_resident (d := d) rfl hres)),
      fun hres => exec_pulse h hi (hb.trans (State.pulseOpen_loads (d := d) rfl hres))⟩

end Sys2Proof.Machine
end

section
/-! SUPPORT. The other ops on rows and on memory open under their checks (O22). -/

namespace Sys2Proof.Machine

/-! ### What each body launches -/

section Bodies
variable {i : State} {site : Site} {o : OpenOp} {d : Desc}

theorem State.normBwdBody_launches {x gam up y : Tensor} (hd : o.desc = d) (hc : i.normBwdCheck site d = .ok (x, gam, up, y)) :
    i.normBwdBody site o = i.launchUnits site (i.latch site o)
      (Launch.into { srcs := [x.source site.e (rowRegion d) (Desc.genA d), gam.source site.e ⟨0, 0, 1, (rowRegion d).n⟩ (Desc.genB d),
                              up.source site.e (rowRegion d) (Desc.genC d), statsSource site.e d 0 (rowRegion d).m],
                     steps := (rowRegion d).m * rowPasses d } y site.e (destRegion (Desc.twrite d) (rowRegion d)))
      (rowUnits d (rowRegion d) y (fun j =>
        [x.source site.e ⟨(rowRegion d).r + j, (rowRegion d).c, 1, (rowRegion d).n⟩ (Desc.genA d),
         gam.source site.e ⟨0, 0, 1, (rowRegion d).n⟩ (Desc.genB d),
         up.source site.e ⟨(rowRegion d).r + j, (rowRegion d).c, 1, (rowRegion d).n⟩ (Desc.genC d), statsSource site.e d j 1])
        fun _ => {}) := by
  subst hd
  simp only [State.normBwdBody, hc, ok_bind, pure_ok, issueOf_ok]

/-- The source of an operand of a GATE that may be absent. -/
def optSource (e : Nat) (w : Option Tensor) (r : Reg2) (gen : Nat) : List Source :=
  match w with
  | some w => [w.source e r gen]
  | none => []

/-- The sources of a GATE: its three operands at the regions given. -/
def gateSources (e : Nat) (d : Desc) (x : Tensor) (p z : Option Tensor) (rx rp rz : Reg2) : List Source :=
  [x.source e rx (Desc.genA d)] ++ optSource e p rp (Desc.genB d) ++ optSource e z rz (Desc.genC d)

theorem State.gateBody_launches {x y : Tensor} {p z : Option Tensor} (hd : o.desc = d) (hc : i.gateCheck site d = .ok (x, p, z, y)) :
    i.gateBody site o = i.launchUnits site (i.latch site o)
      (Launch.into
        { srcs := gateSources site.e d x p z (shapedRegion (Desc.opx d 20 19) (rowRegion d)) (shapedRegion (Desc.opx d 22 21) (rowRegion d))
            (rowRegion d),
          steps := (rowRegion d).m * rowPasses d } y site.e (destRegion (Desc.twrite d) (rowRegion d)))
      (rowUnits d (rowRegion d) y (fun j => gateSources site.e d x p z (shapedRow (Desc.opx d 20 19) (rowRegion d) j)
        (shapedRow (Desc.opx d 22 21) (rowRegion d) j) (shapedRow 0 (rowRegion d) j)) fun _ => {}) := by
  subst hd
  simp only [State.gateBody, hc, ok_bind, pure_ok, issueOf_ok]
  rfl

/-- The units of a REDUCE: one for each row, with the blocks that the row, or else the last one, completes. -/
def reduceUnits (e : Nat) (d : Desc) (x : Tensor) (blocks : Nat → List Nat) : List WorkUnit :=
  (List.range (rowRegion d).m).map fun j =>
    { due := j + 1, srcs := [x.source e ⟨(rowRegion d).r + j, (rowRegion d).c, 1, (rowRegion d).n⟩ (Desc.genA d)],
      blocks := if reducePerRow d then blocks j else if j + 1 = (rowRegion d).m then blocks 0 else [] }

theorem State.reduceBody_slots {x : Tensor} (hd : o.desc = d) (hop : Desc.opx d 18 16 ≤ 5) (hx : i.OperandIs site (Desc.tdA d) x)
    (hw : x.holds (rowRegion d) = true) (hs : reduceSlots d = true) (hn : (reduceDest d).m ≤ 64)
    (hk : Desc.opx d 30 21 + (reduceDest d).m ≤ 1024) :
    i.reduceBody site o = i.launchUnits site { i.latch site o with kdst := [(reduceSlot site.q d 0, 8 * (reduceDest d).m)] }
      { srcs := [x.source site.e (rowRegion d) (Desc.genA d)], steps := (rowRegion d).m } (reduceUnits site.e d x fun _ => []) := by
  subst hd
  have h5 : decide (5 < Desc.opx o.desc 18 16) = false := decide_eq_false (Nat.not_lt.mpr hop)
  have hn' : decide (64 < (reduceDest o.desc).m) = false := decide_eq_false (Nat.not_lt.mpr hn)
  have hk' : decide (1024 < Desc.opx o.desc 30 21 + (reduceDest o.desc).m) = false := decide_eq_false (Nat.not_lt.mpr hk)
  simp only [State.reduceBody, h5, hs, hn', hk', operand_is hx, within_ok hw, stopIf, ok_bind, pure_ok, issueOf_ok, Bool.or_self,
    Bool.and_false, Bool.false_eq_true, if_false, if_true]
  rfl

theorem State.reduceBody_tensor {x y : Tensor} (hd : o.desc = d) (hop : Desc.opx d 18 16 ≤ 5) (hx : i.OperandIs site (Desc.tdA d) x)
    (hw : x.holds (rowRegion d) = true) (hs : reduceSlots d = false) (hy : i.OperandIs site (Desc.tdD d) y)
    (hdst : y.destOk (Desc.twrite d) (reduceDest d) = .ok ()) :
    i.reduceBody site o = i.launchUnits site (i.latch site o)
      (Launch.into { srcs := [x.source site.e (rowRegion d) (Desc.genA d)], steps := (rowRegion d).m } y site.e
        (destRegion (Desc.twrite d) (reduceDest d)))
      (reduceUnits site.e d x fun j => y.blocks (destRow (Desc.twrite d) (reduceDest d) j)) := by
  subst hd
  have h5 : decide (5 < Desc.opx o.desc 18 16) = false := decide_eq_false (Nat.not_lt.mpr hop)
  simp only [State.reduceBody, h5, hs, operand_is hx, operand_is hy, within_ok hw, hdst, stopIf, ok_bind, pure_ok, issueOf_ok, Bool.or_self,
    Bool.false_and, Bool.false_eq_true, if_false]
  rfl

theorem State.sortBody_launches {x y : Tensor} (hd : o.desc = d) (hc : i.sortCheck site d = .ok (x, y)) {l : Launch}
    (hl : Launch.into { srcs := [x.source site.e (sortRegion d) (Desc.genA d)] } y site.e
      (destRegion (Desc.twrite d) (listRegion (sortMost d))) = l) :
    i.sortBody site o = i.launchUnits site (i.latch site o) l
      [{ srcs := [x.source site.e (sortRegion d) (Desc.genA d)], blocks := l.blocks }] := by
  subst hd hl
  simp only [State.sortBody, hc, ok_bind, pure_ok, issueOf_ok]
  rfl

theorem State.boxdecBody_launches {a b c y : Tensor} (hd : o.desc = d) (hc : i.boxdecCheck site d = .ok (a, b, c, y)) {idx : List Nat}
    (hidx : (i.listEntries site.e a).map (·.index) = idx) :
    i.boxdecBody site o = i.launchUnits site { i.latch site o with asked := idx.length } (boxdecLaunch site.e d a b c y idx)
      (boxdecUnits site.e d a b c y idx) := by
  subst hd hidx
  simp only [State.boxdecBody, hc, ok_bind, pure_ok, issueOf_ok]

theorem State.nmsBody_launches {a y : Tensor} {n : Nat} (hd : o.desc = d) (hc : i.nmsCheck site d = .ok (a, y)) (hn : i.listCount site.e a = n)
    {l : Launch} (hl : Launch.into { srcs := [a.source site.e (listRegion n) (Desc.genA d)] } y site.e
      (destRegion (Desc.twrite d) (listRegion (min (nmsLimit d) n))) = l) :
    i.nmsBody site o = i.launchUnits site (i.latch site { o with asked := n }) l
      [{ srcs := [a.source site.e (listRegion n) (Desc.genA d)], blocks := l.blocks }] := by
  subst hd hn hl
  simp only [State.nmsBody, hc, ok_bind, pure_ok, issueOf_ok]
  rfl

/-- An issue whose fault, if any, is none that waits for Attic opens as it is. -/
theorem Issue.unlessWaits_opens {s : State} {o : OpenOp} (h : ∀ flt, o.fault = some flt → flt.waits = false) :
    (Issue.opens s o).unlessWaits = .opens s o := by
  unfold Issue.unlessWaits
  dsimp only
  split
  · next f hf => rw [if_neg (by rw [h f hf]; exact Bool.false_ne_true)]
  · rfl

theorem State.gatherBody_opens {x : GatherArgs} {l : Launch} (hd : o.desc = d) (hx : gatherArgs d = .ok x)
    (hg : i.gatherLaunch site (i.latch site o) x = .ok l) (hl : i.LaunchPasses site l) {y : State × OpenOp}
    (hy : (i.launched site (i.latch site o) l).1.gatherRun site (i.launched site (i.latch site o) l).2 x = y)
    (hw : ∀ flt, y.2.fault = some flt → flt.waits = false) :
    i.gatherBody site o = .opens y.1 y.2 := by
  subst hd hy
  simp only [State.gatherBody, hx, hg, ok_bind, pure_ok, issueOf_ok]
  rw [launch_passes hl]
  exact Issue.unlessWaits_opens hw

theorem State.scatterBody_opens {x : ScatArgs} {tensors : Option (Tensor × Tensor)} {seqs live : List SeqEnt} (hd : o.desc = d)
    (hx : scatArgs d = .ok x) (ht : i.scatterTensors site d x = .ok tensors)
    (hs : if x.action = 4 then seqs = []
      else (i.work site o false (readSeqs x.table x.batch)).1 = .ok seqs ∧ x.total seqs ≤ 4096)
    (hlive : seqs.filter (fun b => decide (b.qLen ≠ 0)) = live) (hf : x.fits tensors live = .ok ())
    (hl : i.LaunchPasses site { srcs := x.sources site.e d tensors live }) {y : State × OpenOp}
    (hy : (i.launched site o { srcs := x.sources site.e d tensors live }).1.scatterRun site
      (i.launched site o { srcs := x.sources site.e d tensors live }).2 x tensors seqs = y)
    (hw : ∀ flt, y.2.fault = some flt → flt.waits = false) :
    i.scatterBody site o = .opens y.1 y.2 := by
  subst hd hlive hy
  by_cases h4 : x.action = 4
  · rw [if_pos h4] at hs
    subst hs
    simp only [State.scatterBody, hx, ht, hf, h4, stopIf, ok_bind, pure_ok, issueOf_ok, if_true, ne_eq, not_true, decide_false,
      Bool.false_and, Bool.false_eq_true, if_false]
    rw [launch_passes hl]
    exact Issue.unlessWaits_opens hw
  · rw [if_neg h4] at hs
    simp only [State.scatterBody, hx, ht, hf, h4, hs.1, stopIf, Nat.not_lt.mpr hs.2, ok_bind, pure_ok, issueOf_ok, decide_false,
      Bool.and_false, Bool.false_eq_true, if_false]
    rw [launch_passes hl]
    exact Issue.unlessWaits_opens hw

theorem State.copyBody_remote (hd : o.desc = d) (hb : copyBad d = false) (hr : copyFrom d = true ∨ copyTo d = true)
    (h0 : copyFrom d = true → remoteBad (Desc.arg d 0) = false) (h1 : remoteBad (Desc.arg d 1) = false)
    (hl : i.LaunchPasses site (copyLaunch site.e d)) {b : State × OpenOp} (hb2 : i.launched site o (copyLaunch site.e d) = b)
    (hg : b.1.sameGenFault site.e b.2 b.2.claims = none) :
    i.copyBody site o = .opens (b.1.copyRequests site b.2 64).1 (b.1.copyRequests site b.2 64).2 := by
  subst hd hb2
  have hfrom : (remoteBad (Desc.arg o.desc 0) && copyFrom o.desc) = false := by
    cases hc : copyFrom o.desc with
    | false => exact Bool.and_false _
    | true => rw [h0 hc]; rfl
  have hor : (copyFrom o.desc || copyTo o.desc) = true := Bool.or_eq_true_iff.mpr hr
  simp only [State.copyBody, stopIf, hb, hfrom, h1, hor, if_true, Bool.false_eq_true, if_false, ok_bind, pure_ok, issueOf_ok]
  rw [launch_passes hl, hg]

end Bodies

/-! ### The commands -/

theorem State.IssuesNext.of_eq {u : State} {e q : Nat} {a b : Desc → Bool} {site : Site} {f : Entry} (h : u.IssuesNext e q a site f)
    (hab : ∀ d, b d = a d) : u.IssuesNext e q b site f :=
  (funext hab : b = a) ▸ h

section MemoryExec
variable {s u x : State} {t : Nat} {e : Fin 96} {q : Fin 4} {site : Site} {f : Entry} {o : OpenOp} {l : Launch} {units : List WorkUnit}

theorem exec_normBwd (h : s.RunsAt t u) (hi : u.IssuesNext e q (fun d => decide (d.op = Op.normBwd)) site f)
    (hb : (u.issued e q site f).normBwdBody site (u.opened e q site f) = (u.issued e q site f).launchUnits site o l units)
    (hl : (u.issued e q site f).LaunchPasses site l) :
    exec (.normBwd t e q) s = .next (u.opensAs e q f (u.normBwdDa e q f.desc) ((u.issued e q site f).launchedUnits site o l units).1
      ((u.issued e q site f).launchedUnits site o l units).2) := by
  obtain rfl := h.1
  exact gate_launches h hi hb hl

theorem exec_gate (h : s.RunsAt t u) (hi : u.IssuesNext e q (fun d => decide (d.op = Op.gate)) site f)
    (hb : (u.issued e q site f).gateBody site (u.opened e q site f) = (u.issued e q site f).launchUnits site o l units)
    (hl : (u.issued e q site f).LaunchPasses site l) :
    exec (.gate t e q) s = .next (u.opensAs e q f (u.rowDa e q f.desc) ((u.issued e q site f).launchedUnits site o l units).1
      ((u.issued e q site f).launchedUnits site o l units).2) := by
  obtain rfl := h.1
  exact gate_launches h hi hb hl

theorem exec_reduce (h : s.RunsAt t u) (hi : u.IssuesNext e q (fun d => decide (d.op = Op.reduce)) site f)
    (hb : (u.issued e q site f).reduceBody site (u.opened e q site f) = (u.issued e q site f).launchUnits site o l units)
    (hl : (u.issued e q site f).LaunchPasses site l) :
    exec (.reduce t e q) s = .next (u.opensAs e q f (!(bit (Desc.w f.desc 2) 20) && u.rowDa e q f.desc) ((u.issued e q site f).launchedUnits site o l units).1
      ((u.issued e q site f).launchedUnits site o l units).2) := by
  obtain rfl := h.1
  exact gate_launches h hi hb hl

theorem exec_sort (h : s.RunsAt t u) (hi : u.IssuesNext e q (fun d => decide (d.op = Op.sort)) site f)
    (hb : (u.issued e q site f).sortBody site (u.opened e q site f) = (u.issued e q site f).launchUnits site o l units)
    (hl : (u.issued e q site f).LaunchPasses site l) :
    exec (.sort t e q) s = .next (u.opensAs e q f (false) ((u.issued e q site f).launchedUnits site o l units).1
      ((u.issued e q site f).launchedUnits site o l units).2) := by
  obtain rfl := h.1
  exact gate_launches h hi hb hl

theorem exec_boxdec (h : s.RunsAt t u) (hi : u.IssuesNext e q (fun d => decide (d.op = Op.boxdec)) site f)
    (hb : (u.issued e q site f).boxdecBody site (u.opened e q site f) = (u.issued e q site f).launchUnits site o l units)
    (hl : (u.issued e q site f).LaunchPasses site l) :
    exec (.boxdec t e q) s = .next (u.opensAs e q f (false) ((u.issued e q site f).launchedUnits site o l units).1
      ((u.issued e q site f).launchedUnits site o l units).2) := by
  obtain rfl := h.1
  exact gate_launches h hi hb hl

theorem exec_nms (h : s.RunsAt t u) (hi : u.IssuesNext e q (fun d => decide (d.op = Op.nms)) site f)
    (hb : (u.issued e q site f).nmsBody site (u.opened e q site f) = (u.issued e q site f).launchUnits site o l units)
    (hl : (u.issued e q site f).LaunchPasses site l) :
    exec (.nms t e q) s = .next (u.opensAs e q f (false) ((u.issued e q site f).launchedUnits site o l units).1
      ((u.issued e q site f).launchedUnits site o l units).2) := by
  obtain rfl := h.1
  exact gate_launches h hi hb hl

theorem exec_gatherRows (h : s.RunsAt t u) (hi : u.IssuesNext e q (fun d => decide (d.op = Op.gather) && decide (d.opx 17 16 ≠ 1)) site f)
    (hb : (u.issued e q site f).gatherBody site (u.opened e q site f) = .opens x o) :
    exec (.gatherRows t e q) s = .next (u.opensAs e q f (u.gatherDa e q f.desc) x o) := by
  obtain rfl := h.1
  exact opens_gate h (hi.of_eq fun _ => Bool.decide_and _ _) hb

theorem exec_gatherLookup (h : s.RunsAt t u) (hi : u.IssuesNext e q (fun d => decide (d.op = Op.gather) && decide (d.opx 17 16 = 1)) site f)
    (hb : (u.issued e q site f).gatherBody site (u.opened e q site f) = .opens x o) :
    exec (.gatherLookup t e q) s = .next (u.opensAs e q f (u.gatherDa e q f.desc) x o) := by
  obtain rfl := h.1
  exact opens_gate h (hi.of_eq fun _ => Bool.decide_and _ _) hb

/-- The SCATTER command of each of its five actions. -/
def scatterInstr (t : Nat) (e : Fin 96) (q : Fin 4) : Fin 5 → Instr
  | 0 => .scatterAppend t e q
  | 1 => .scatterRelease t e q
  | 2 => .scatterRetain t e q
  | 3 => .scatterInsert t e q
  | 4 => .scatterEvict t e q

theorem exec_scatter (h : s.RunsAt t u) {k : Fin 5}
    (hi : u.IssuesNext e q (fun d => decide (d.op = Op.scatter) &&
      (if k.val = 0 then !(inRange (d.opx 18 16) 1 4) else decide (d.opx 18 16 = k.val))) site f)
    (hb : (u.issued e q site f).scatterBody site (u.opened e q site f) = .opens x o) :
    exec (scatterInstr t e q k) s = .next (u.opensAs e q f true x o) := by
  match k with
  | 0 => exact opens_gate h hi hb
  | 1 => exact opens_gate h (hi.of_eq fun _ => Bool.decide_and _ _) hb
  | 2 => exact opens_gate h (hi.of_eq fun _ => Bool.decide_and _ _) hb
  | 3 => exact opens_gate h (hi.of_eq fun _ => Bool.decide_and _ _) hb
  | 4 => exact opens_gate h (hi.of_eq fun _ => Bool.decide_and _ _) hb

theorem exec_copy (h : s.RunsAt t u) (hi : u.IssuesNext e q (fun d => decide (d.op = Op.copy)) site f)
    (hb : (u.issued e q site f).copyBody site (u.opened e q site f) = .opens x o) :
    exec (.copy t e q) s = .next (u.opensAs e q f (copyDa f.desc) x o) :=
  live_opens h hi hb

end MemoryExec

/-- Settles O22: each op's checks and launch give what its body opens. -/
theorem memoryMacroOpsOpen : Obligations.MemoryMacroOpsOpen := by
  intro s u t e q site f h d i o ol op opens g row
  refine ⟨?_, ?_, ?_, ?_, ?_, ?_, ?_, ?_, ?_⟩
  · intro x gam up y hi hc vec src l hl
    exact exec_normBwd h hi (State.normBwdBody_launches (d := d) rfl hc) hl
  · intro x y p z hi hc src srcs sx sp l hl
    exact exec_gate h hi (State.gateBody_launches (d := d) rfl hc) hl
  · intro x hi hop hx hw n units l
    refine ⟨fun hs hn hk hl => ?_, fun y hs hy hdst hl => ?_⟩
    · have hda : (!(bit (Desc.w d 2) 20) && u.rowDa e q d) = false := by
        rw [show bit (Desc.w d 2) 20 = true from hs]
        rfl
      exact hda ▸ exec_reduce h hi (State.reduceBody_slots (d := d) rfl hop hx hw hs hn hk) hl
    · have hda : (!(bit (Desc.w d 2) 20) && u.rowDa e q d) = u.rowDa e q d := by
        rw [show bit (Desc.w d 2) 20 = false from hs]
        rfl
      exact hda ▸ exec_reduce h hi (State.reduceBody_tensor (d := d) rfl hop hx hw hs hy hdst) hl
  · intro x y hi hc src l hl
    exact exec_sort h hi (State.sortBody_launches (d := d) rfl hc rfl) hl
  · intro a b c y hi hc idx l hl
    exact exec_boxdec h hi (State.boxdecBody_launches (d := d) rfl hc rfl) hl
  · intro a y hi hc n src l hl
    exact exec_nms h hi (State.nmsBody_launches (d := d) rfl hc rfl rfl) hl
  · intro x l lookup c b y hi hx hg hl hw
    have hb := State.gatherBody_opens (d := d) rfl hx hg hl rfl hw
    cases lookup with
    | false => exact exec_gatherRows h hi hb
    | true => exact exec_gatherLookup h hi hb
  · intro x tensors seqs k c live l b y hi hx ht hs hf hl hw
    exact exec_scatter h hi (State.scatterBody_opens (d := d) rfl hx ht hs rfl hf hl rfl hw)
  · intro hi hb hr h0 h1 hl b hg
    exact exec_copy h hi (State.copyBody_remote (d := d) rfl hb hr h0 h1 hl rfl hg)

end Sys2Proof.Machine
end

section
/-! SUPPORT. Step boundaries, tile writebacks and commits of an open op (O23). -/

namespace Sys2Proof.Machine

/-! ### The work of a unit leaves the steps counted -/

theorem putReduced_steps (s : State) (e q : Nat) (o : OpenOp) (i : Nat) (xs : List W32) :
    (s.putReduced e q o i xs).2.steps = o.steps := by
  unfold State.putReduced
  dsimp only
  split
  · rfl
  · split
    · exact (putRow_op _ _ _ _ _ _ _).2
    · rfl

theorem normBwdUnit_steps (s : State) (e : Nat) (o : OpenOp) (i : Nat) : (s.normBwdUnit e o i).2.steps = o.steps := by
  unfold State.normBwdUnit
  split
  · dsimp only
    split
    · exact (putRow_op _ _ _ _ _ _ _).2
    · dsimp only
      exact (putRow_op _ _ _ _ _ _ _).2
  · rfl

theorem normUnit_steps (s : State) (e : Nat) (o : OpenOp) (i : Nat) : (s.normUnit e o i).2.steps = o.steps := by
  unfold State.normUnit
  split
  · exact (putRow_op _ _ _ _ _ _ _).2
  · rfl

theorem smaxUnit_steps (s : State) (e : Nat) (o : OpenOp) (i : Nat) : (s.smaxUnit e o i).2.steps = o.steps := by
  unfold State.smaxUnit
  split
  · exact (putRow_op _ _ _ _ _ _ _).2
  · rfl

theorem smaxBwdUnit_steps (s : State) (e : Nat) (o : OpenOp) (i : Nat) : (s.smaxBwdUnit e o i).2.steps = o.steps := by
  unfold State.smaxBwdUnit
  split
  · exact (putRow_op _ _ _ _ _ _ _).2
  · rfl

theorem gateUnit_steps (s : State) (e : Nat) (o : OpenOp) (i : Nat) : (s.gateUnit e o i).2.steps = o.steps := by
  unfold State.gateUnit
  split
  · exact (putRow_op _ _ _ _ _ _ _).2
  · rfl

theorem reduceUnit_steps (s : State) (e q : Nat) (o : OpenOp) (i : Nat) : (s.reduceUnit e q o i).2.steps = o.steps := by
  unfold State.reduceUnit
  split
  · rfl
  · dsimp only
    split
    · exact putReduced_steps _ _ _ _ _ _
    · split
      · rfl
      · exact putReduced_steps _ _ _ _ _ _

theorem putSummary_steps (s : State) (e : Nat) (o : OpenOp) (x : ScanArgs) (t : Tensor) (g : Nat) (sums : List (List W32)) :
    (s.putSummary e o x t g sums).2.steps = o.steps :=
  (putOut_op _ _ _ _ _ _).2.trans (putOut_op _ _ _ _ _ _).2

theorem scanUnit_steps (s : State) (e : Nat) (o : OpenOp) (i : Nat) : (s.scanUnit e o i).2.steps = o.steps := by
  unfold State.scanUnit
  split
  · dsimp only
    split
    · unfold State.scanPart
      dsimp only
      split
      · rfl
      · split
        · rfl
        · exact putSummary_steps _ _ _ _ _ _ _
    · unfold State.scanChunk
      dsimp only
      split
      · exact (putOut_op _ _ _ _ _ _).2
      · rfl
  · rfl

theorem poolUnit_steps (s : State) (e : Nat) (o : OpenOp) (i : Nat) : (s.poolUnit e o i).2.steps = o.steps := by
  unfold State.poolUnit
  split
  · exact (putOut_op _ _ _ _ _ _).2
  · rfl

theorem fusedUnit_steps (s : State) (e : Nat) (o : OpenOp) (i : Nat) : (s.fusedUnit e o i).2.steps = o.steps := by
  unfold State.fusedUnit
  split
  · rfl
  · unfold State.fusedTile
    dsimp only
    split
    · rfl
    · exact (putOut_op _ _ _ _ _ _).2

theorem boxdecUnit_steps (s : State) (e q : Nat) (o : OpenOp) (i : Nat) : (s.boxdecUnit e q o i).2.steps = o.steps := by
  unfold State.boxdecUnit
  split <;> rfl

theorem sortUnit_steps (s : State) (e q : Nat) (o : OpenOp) : (s.sortUnit e q o).2.steps = o.steps := by
  unfold State.sortUnit
  split <;> rfl

theorem nmsUnit_steps (s : State) (e q : Nat) (o : OpenOp) : (s.nmsUnit e q o).2.steps = o.steps := by
  unfold State.nmsUnit
  split <;> rfl

theorem ite_steps {c : Prop} [Decidable c] {a b : State × OpenOp} {n : Nat} (ha : a.2.steps = n) (hb : b.2.steps = n) :
    (if c then a else b).2.steps = n := by
  split
  · exact ha
  · exact hb

theorem unitWork_steps (s : State) (site : Site) (o : OpenOp) (i : Nat) : (s.unitWork site o i).2.steps = o.steps :=
  ite_steps (normUnit_steps _ _ _ _) <| ite_steps (normBwdUnit_steps _ _ _ _) <| ite_steps (smaxUnit_steps _ _ _ _) <|
  ite_steps (smaxBwdUnit_steps _ _ _ _) <| ite_steps (gateUnit_steps _ _ _ _) <| ite_steps (reduceUnit_steps _ _ _ _ _) <|
  ite_steps (scanUnit_steps _ _ _ _) <| ite_steps (poolUnit_steps _ _ _ _) <| ite_steps (fusedUnit_steps _ _ _ _) <|
  ite_steps (boxdecUnit_steps _ _ _ _ _) <| ite_steps (sortUnit_steps _ _ _ _) <| ite_steps (nmsUnit_steps _ _ _ _) <|
  ite_steps rfl rfl

/-! ### What is sampled at a boundary, and how a op ends -/

section Ends
variable {x : State} {site : Site} {o : OpenOp}

theorem State.sample_fault {f : OpFault} (hf : o.fault = some f) : x.sample site o = x.stopOp site o (some f) := by
  simp only [State.sample, hf]

theorem State.sample_abort (hf : o.fault = none) (ha : o.abort = true) : x.sample site o = x.stopOp site o none := by
  simp only [State.sample, hf, ha, if_true]

theorem State.sample_goes (hf : o.fault = none) (ha : o.abort = false) :
    x.sample site o = if needsEngine (Desc.op o.desc) && x.mustYield site.e site.k then x.preempt site.e site.k else x.goOn site o := by
  simp only [State.sample, hf, ha, Bool.false_eq_true, if_false]

theorem State.finishOp_fault {f : OpFault} (hf : o.fault = some f) : x.finishOp site o = x.stopOp site o (some f) := by
  simp only [State.finishOp, hf]

theorem State.finishOp_waits (hf : o.fault = none) (hw : x.workDone site o = false) : x.finishOp site o = x := by
  simp only [State.finishOp, hf, hw, Bool.false_eq_true, if_false]

theorem State.finishOp_done (hf : o.fault = none) (hw : x.workDone site o = true) :
    x.finishOp site o = ((x.lastReds site o).1.putOp site.e site.q (x.lastReds site o).2).commitOp site (x.lastReds site o).2 := by
  simp only [State.finishOp, hf, hw, if_true]

theorem State.lastReds_none (h : o.atEnd = []) : x.lastReds site o = (x, o) := by
  simp only [State.lastReds, h, List.isEmpty_nil, if_true]

theorem State.lastReds_some (h : o.atEnd ≠ []) :
    x.lastReds site o = (x.owning site.e site.q o.issue fun s => o.atEnd.foldl (fun s z => s.redAdd z.1 z.2) s, { o with atEnd := [] }) := by
  simp only [State.lastReds, List.isEmpty_eq_false_iff.mpr h, Bool.false_eq_true, if_false]

theorem State.commitOp_unacknowledged (h : x.acknowledged site o = false) : x.commitOp site o = x := by
  simp only [State.commitOp, h, Bool.not_false, if_true]

theorem State.commitOp_acknowledged (h : x.acknowledged site o = true) {y z : State × OpenOp} (hy : x.admitOp .pantry o = y)
    (hz : y.1.admitOp .cellar y.2 = z) :
    x.commitOp site o = if z.2.heldBytes ≠ [] then z.1.putOp site.e site.q z.2 else
      if Desc.op (z.1.settleTags site.e z.2).2.desc = Op.fence then
        ((z.1.settleTags site.e z.2).1.endOp site.e site.q (z.1.settleTags site.e z.2).2 .completed).fencePoint site.e
      else (z.1.settleTags site.e z.2).1.endOp site.e site.q (z.1.settleTags site.e z.2).2 .completed := by
  subst hy hz
  simp [State.commitOp, h]

end Ends

/-! ### The commands on an open op of a resident context -/

section OpExec
variable {s u : State} {t : Nat} {e : Fin 96} {q : Fin 4} {k : Fin 2} {site : Site} {o : OpenOp}

theorem siteOf_engine (hs : u.siteOf e q o = some site) : site.e = e ∧ site.q = q := by
  rw [(siteOf_at hs).2]
  exact ⟨rfl, rfl⟩

theorem exec_stepBoundary_at (h : s.RunsAt t u) (hs : u.siteOf e q o = some site) (hr : (u.ctx e site.k).remoteErr = none)
    (ho : u.openOp e q k = some o) :
    exec (.stepBoundary t e q k) s = .next (if o.stepDue && u.progresses site o then u.stepBoundary site o else u) :=
  (live_next h).trans (congrArg Host.Outcome.next (withOp_at hs hr ho))

theorem exec_tileWriteback_at (h : s.RunsAt t u) (hs : u.siteOf e q o = some site) (hr : (u.ctx e site.k).remoteErr = none)
    (ho : u.openOp e q k = some o) : exec (.tileWriteback t e q k) s = .next (u.drainTile site o) :=
  (live_next h).trans (congrArg Host.Outcome.next (withOp_at hs hr ho))

theorem exec_macroOpCommit_at (h : s.TurnAt t tickPlace 0 u) (hs : u.siteOf e q o = some site) (hr : (u.ctx e site.k).remoteErr = none)
    (ho : u.openOp e q k = some o) : exec (.macroOpCommit t e q k) s = .next (u.tryCommit site o) := by
  obtain ⟨hrun, rfl⟩ := h
  exact (live_next ⟨rfl, hrun⟩).trans (congrArg Host.Outcome.next (withOp_at hs hr ho))

end OpExec

theorem stepOf_injected {u : State} {site : Site} {o : OpenOp} {e q : Nat} (he : site.e = e) (hq : site.q = q) :
    (u.stepOf site o).2 = (u.injected e q { o with steps := o.steps + 1 }).2 := by
  subst he hq
  rfl

/-- A boundary at which a pending injection strikes: the fault stops the op. -/
theorem State.stepBoundary_strikes {u : State} {site : Site} {o : OpenOp} {f : OpFault} {e q : Nat} (he : site.e = e) (hq : site.q = q)
    (hstop : o.stop = none) (hmid : u.midBatch site o = false) {j : State × OpenOp}
    (hj : u.injected e q { o with steps := o.steps + 1 } = j) (hf : j.2.fault = some f) :
    u.stepBoundary site o = ((j.1.countIssue e j.2).putOp e q j.2).stopOp site j.2 (some f) := by
  subst he hq
  unfold State.stepBoundary
  rw [if_neg (by rw [hstop]; exact Bool.false_ne_true), if_neg (by rw [hmid]; exact Bool.false_ne_true), hj]
  simp only [hf, Option.isSome_some, if_true]
  exact State.sample_fault hf

/-- A boundary in the midst of a batch of a remote COPY: further requests. -/
theorem State.stepBoundary_midBatch {u : State} {site : Site} {o : OpenOp} (hstop : o.stop = none) (hmid : u.midBatch site o = true) :
    u.stepBoundary site o = u.goOn site o := by
  simp only [State.stepBoundary, hstop, hmid, Option.isSome_none, Bool.false_eq_true, if_false, if_true]

/-! ### The writeback of a tile -/

theorem State.drainTile_none {u : State} {site : Site} {o : OpenOp} (h : o.tiled = false ∨ o.fault.isSome = true ∨ o.wbuf = none) :
    u.drainTile site o = u := by
  have hnone : (o.tiled && o.fault.isNone && o.wbuf.isSome) = false := by
    rcases h with h | h | h
    · rw [h, Bool.false_and, Bool.false_and]
    · obtain ⟨f, hf⟩ := Option.isSome_iff_exists.mp h
      rw [hf]
      simp
    · rw [h]
      exact Bool.and_false _
  exact if_neg (by rw [hnone]; exact Bool.false_ne_true)

/-- What a tile's work leaves: the next tile begins when the context runs. -/
def State.tileWritten (u : State) (e q k : Nat) (o : OpenOp) (r : State × OpenOp) : State :=
  let y := ((r.1.blur e r.2).ownWrites (u.atDest e o).attic.writes.length e q o.issue, r.2)
  let z := if (y.1.ctx e k).running then y.1.nextTile e y.2 else y
  z.1.putOp e q z.2

theorem State.drainTile_written {u a : State} {site : Site} {o : OpenOp} {r : State × OpenOp} {e q : Nat} (he : site.e = e)
    (hq : site.q = q) (ht : o.tiled = true) (hf : o.fault = none) (hw : o.wbuf.isSome = true) (ha : u.atDest e o = a)
    (hr : ({ a with free := a.free + 1 } : State).tileWork site o = r) (hrf : r.2.fault = none) :
    u.drainTile site o = u.tileWritten e q site.k o r := by
  subst he hq ha hr
  simp only [State.drainTile, State.runPart, ht, hf, hw, hrf, Option.isNone_none, Bool.and_self, if_true]
  rfl

theorem State.tileWork_conv {x : State} {site : Site} {o : OpenOp} {e : Nat} (he : site.e = e) (h : Desc.op o.desc = Op.conv) :
    x.tileWork site o = x.convWriteback e o := he ▸ if_pos h

theorem State.tileWork_mma {x : State} {site : Site} {o : OpenOp} {e : Nat} (he : site.e = e) (h : Desc.op o.desc ≠ Op.conv) :
    x.tileWork site o = x.mmaWriteback e o := he ▸ if_neg h

/-- The writeback of a tile by reduction. -/
theorem State.mmaWriteback_reduces {x : State} {e i : Nat} {o : OpenOp} {v : MmaArgs} {acc : List W32} {red : RedOp}
    (hv : o.mmaArgs = some v) (hw : o.wbuf = some (i, acc))
    (hg : x.sameGenFault e o (v.d.blocks (v.grid.destTile (Desc.twrite o.desc) v.dr v.dc i)) = none) (hred : o.redMode = some red) :
    x.mmaWriteback e o = (x.redTile e v.grid v.int red v.d v.dr v.dc i acc).tileDone e o
      (v.d.blocks (v.grid.destTile (Desc.twrite o.desc) v.dr v.dc i)) (v.grid.blocksFrom (Desc.twrite o.desc) v.d v.dr v.dc (i + 1))
      v.grid.tiles := by
  simp only [State.mmaWriteback, hv, hw, hg, hred]

/-- What the writeback of a tile through the output converter leaves, before its blocks are settled. -/
def State.mmaConverted (x : State) (e i : Nat) (o : OpenOp) (v : MmaArgs) (acc : List W32) : State × OpenOp :=
  let c := x.tileRun e (Desc.sr o.desc) v.grid i (v.spot o.desc) (fun _ => entryVal v.int) acc
  c.1.putOut e o v.d (destRegion (Desc.twrite o.desc) ⟨v.dr, v.dc, v.grid.m, v.grid.n⟩).has c.2

theorem State.mmaWriteback_converts {x : State} {e i : Nat} {o : OpenOp} {v : MmaArgs} {acc : List W32}
    (hv : o.mmaArgs = some v) (hw : o.wbuf = some (i, acc))
    (hg : x.sameGenFault e o (v.d.blocks (v.grid.destTile (Desc.twrite o.desc) v.dr v.dc i)) = none) (hred : o.redMode = none) :
    x.mmaWriteback e o = (x.mmaConverted e i o v acc).1.tileDone e (x.mmaConverted e i o v acc).2
      (v.d.blocks (v.grid.destTile (Desc.twrite o.desc) v.dr v.dc i)) (v.grid.blocksFrom (Desc.twrite o.desc) v.d v.dr v.dc (i + 1))
      v.grid.tiles := by
  simp only [State.mmaWriteback, hv, hw, hg, hred]
  rfl

theorem State.mmaConverted_fault (x : State) (e i : Nat) (o : OpenOp) (v : MmaArgs) (acc : List W32) :
    (x.mmaConverted e i o v acc).2.fault = o.fault := (putOut_op _ _ _ _ _ _).1

/-! ### MACRO_OP_COMMIT -/

section Commit
variable {u : State} {site : Site} {o : OpenOp}

theorem State.tryCommit_aborts (hstop : o.stop = none) (ha : o.abort = true)
    (hop : Desc.op o.desc = Op.wait ∨ Desc.op o.desc = Op.fence) : u.tryCommit site o = u.stopOp site o none := by
  simp only [State.tryCommit, hstop, Option.isSome_none, Bool.false_eq_true, if_false, if_pos (And.intro ha hop)]

theorem State.tryCommit_early (hstop : o.stop = none) (hna : ¬(o.abort = true ∧ (Desc.op o.desc = Op.wait ∨ Desc.op o.desc = Op.fence)))
    (hd : o.stepDue = true) (hs : openSteps (Desc.op o.desc) = false) : u.tryCommit site o = u := by
  simp only [State.tryCommit, hstop, Option.isSome_none, Bool.false_eq_true, if_false, if_neg hna, hd, hs, Bool.not_false, Bool.and_self,
    if_true]

theorem State.tryCommit_finishes (hstop : o.stop = none) (hna : ¬(o.abort = true ∧ (Desc.op o.desc = Op.wait ∨ Desc.op o.desc = Op.fence)))
    (hd : o.stepDue = false ∨ openSteps (Desc.op o.desc) = true) (hw : o.workLeft = false) (hp : Desc.op o.desc ≠ Op.pulse) :
    u.tryCommit site o = (u.putOp site.e site.q o).finishOp site o := by
  have hdue : (o.stepDue && !(openSteps (Desc.op o.desc))) = false := by
    rcases hd with h | h <;> simp [h]
  simp only [State.tryCommit, hstop, Option.isSome_none, Bool.false_eq_true, if_false, if_neg hna, hdue, hw, hp, false_and]

end Commit

/-- Settles O23: the commands on an open op by what stands at its boundary, its writeback and its commit. -/
theorem openMacroOpsGoOn : Obligations.OpenMacroOpsGoOn := by
  refine ⟨fun s u t e q k site o h => ⟨fun hb => ?_, fun w rest hu h1 h2 hf => ?_, fun hs hr ho => ?_⟩,
    fun s u t e q k site o h hs hr ho hstop => ?_, fun x site o => ?_⟩
  · obtain ⟨hs, hr, ho, hstop, hdue, hprog, hmid⟩ := id hb
    obtain ⟨he, hq⟩ := siteOf_engine hs
    refine ⟨fun f hf => ?_, fun hf hw => ?_⟩
    · rw [boundary_exec h hb, State.stepBoundary_strikes he hq hstop hmid rfl hf]
    · rw [boundary_exec h hb, boundary_runs hb (by rw [stepOf_injected he hq]; exact hf) rfl hw]
  · exact unit_exec h hu ⟨h1, h2⟩ rfl hf (unitWork_steps _ _ _ _)
  · obtain ⟨he, hq⟩ := siteOf_engine hs
    have hstep := exec_stepBoundary_at h hs hr ho
    have htile := exec_tileWriteback_at h hs hr ho
    refine ⟨fun hstop hdue hprog hmid => ?_, fun hn => ?_, fun hn => ?_, fun ht hf => ?_⟩
    · rw [hstep, hdue, hprog, State.stepBoundary_midBatch hstop hmid]
      rfl
    · refine hstep.trans (congrArg Host.Outcome.next (if_neg ?_))
      rcases hn with hn | hn <;> simp [hn]
    · rw [htile, State.drainTile_none hn]
    · intro a x written
      refine ⟨fun v i acc hop hv hw => ?_, fun hop hw hrf => ?_⟩
      · intro tw mine later hg
        have hsome : o.wbuf.isSome = true := by rw [hw]; rfl
        refine ⟨fun red hred => ?_, fun hred => ?_⟩
        · exact htile.trans (congrArg Host.Outcome.next (State.drainTile_written he hq ht hf hsome rfl
            ((State.tileWork_mma he hop).trans (State.mmaWriteback_reduces hv hw hg hred)) hf))
        · exact htile.trans (congrArg Host.Outcome.next (State.drainTile_written he hq ht hf hsome rfl
            ((State.tileWork_mma he hop).trans (State.mmaWriteback_converts hv hw hg hred))
            ((State.mmaConverted_fault x e i o v acc).trans hf)))
      · exact htile.trans (congrArg Host.Outcome.next (State.drainTile_written he hq ht hf hw rfl (State.tileWork_conv he hop) hrf))
  · obtain ⟨he, hq⟩ := siteOf_engine hs
    have hcommit := exec_macroOpCommit_at h hs hr ho
    refine ⟨fun ha hop => ?_, fun hna => ⟨fun hd hst => ?_, fun hd hw hp => ?_⟩⟩
    · rw [hcommit, State.tryCommit_aborts hstop ha hop]
    · rw [hcommit, State.tryCommit_early hstop hna hd hst]
    · rw [hcommit, State.tryCommit_finishes hstop hna hd hw hp, he, hq]
  · refine ⟨fun f hf => ⟨State.sample_fault hf, State.finishOp_fault hf⟩, State.sample_abort, fun hf ha => ?_, State.finishOp_waits,
      fun hf hw => ⟨fun hr => ?_, fun hr => ?_⟩, State.commitOp_unacknowledged, fun hack => ⟨fun hh => ?_, fun hh => ?_⟩⟩
    · rw [State.sample_goes hf ha]
      refine ⟨fun hy => if_pos (Bool.and_eq_true_iff.mpr hy), fun hy => if_neg fun a => hy (Bool.and_eq_true_iff.mp a)⟩
    · rw [State.finishOp_done hf hw, State.lastReds_none hr]
    · rw [State.finishOp_done hf hw, State.lastReds_some hr]
    · exact (State.commitOp_acknowledged hack rfl rfl).trans (if_pos hh)
    · exact (State.commitOp_acknowledged hack rfl rfl).trans (if_neg (not_not_intro hh))

end Sys2Proof.Machine
end

section
/-! SUPPORT. Datapath check failures, and the holding, ramping and duty of the arrays (O24). -/

namespace Sys2Proof.Machine

section Ramp
variable {s : State} {e : Nat}

/-- When the arrays of e begin their ramp-down. -/
def State.holdDue (s : State) (e : Nat) : Prop :=
  (s.holdMode e = 0 ∧ (s.eng e).lastReal < s.now) ∨ (s.holdMode e = 1 ∧ (s.eng e).lastReal + bits (s.eng e).hold 28 16 ≤ s.now)

theorem State.holdExpiry_due {r : RampState} (hr : (s.eng e).ramp = r) (hact : r = .active ∨ r = .rampUp) (hw : (s.eng e).working = false)
    (hg : (s.eng e).gateClosed = false) (hd : s.holdDue e) :
    s.holdExpiry e = (s.setEng e { s.eng e with ramp := .rampDown, rampStep := if r = .active then 3 else (s.eng e).rampStep,
                                                rampAt := s.now, prior := some (r, (s.eng e).rampAt) }).bump (Reg.engRampCount e) 63 32 1 := by
  subst hr
  rcases hd with ⟨hm, hd⟩ | ⟨hm, hd⟩ <;> simp [State.holdExpiry, hact, hw, hg, hm, hd]

theorem State.holdExpiry_not (h : (s.eng e).working = true ∨ s.holdMode e = 2) : s.holdExpiry e = s := by
  rcases h with h | h <;> simp [State.holdExpiry, h]

section Step
variable (hg : (s.eng e).gateClosed = false)
include hg

theorem State.rampStep_up (hd : (s.eng e).rampAt + 64 ≤ s.now) (hr : (s.eng e).ramp = .rampUp) : s.rampStep e = s.setEng e
    (if (s.eng e).rampStep < 3 then { s.eng e with rampStep := (s.eng e).rampStep + 1, rampAt := s.now, prior := none }
     else { s.eng e with ramp := .active, rampAt := s.now, prior := none }) := by
  simp [State.rampStep, hg, hr, hd]

theorem State.rampStep_down (hd : (s.eng e).rampAt + 64 ≤ s.now) (hr : (s.eng e).ramp = .rampDown) : s.rampStep e = s.setEng e
    (if (s.eng e).rampStep = 0 then { s.eng e with ramp := .idle, rampAt := s.now, prior := none }
     else { s.eng e with rampStep := (s.eng e).rampStep - 1, rampAt := s.now, prior := none }) := by
  simp [State.rampStep, hg, hr, hd]

theorem State.rampStep_idle (hr : (s.eng e).ramp = .idle) (hm : s.holdMode e = 2) : s.rampStep e =
    ((s.setEng e { s.eng e with ramp := .rampUp, rampStep := 0, rampAt := s.now, prior := none }).bump (Reg.engRampCount e) 31 0 1).injectHeld
      e := by
  simp [State.rampStep, hg, hr, hm]

end Step

theorem State.rampStep_not (h : (s.eng e).gateClosed = true ∨ (s.now < (s.eng e).rampAt + 64 ∧ (s.eng e).ramp ≠ .idle)) :
    s.rampStep e = s := by
  unfold State.rampStep
  rcases h with h | ⟨hd, hi⟩
  · exact if_pos h
  · have hdue : decide ((s.eng e).rampAt + 64 ≤ s.now) = false := decide_eq_false (Nat.not_le.mpr hd)
    cases hr : (s.eng e).ramp with
    | idle => exact absurd hr hi
    | rampUp => simp [hdue, hr]
    | active => simp [hr]
    | rampDown => simp [hdue, hr]

end Ramp

/-! ### Work that begins in a ramp-down -/

/-- A table holds a value that is not the default right after it is set, canonical or not. -/
theorem tabGet_tabSet_same {α : Type} [DecidableEq α] {d : Nat → α} {k : Nat} {v : α} (hv : v ≠ d k) (m : List (Nat × α)) :
    tabGet d (tabSet d m k v) k = v := by
  induction m with
  | nil => simp [tabSet, tabGet, hv]
  | cons x r ih =>
    obtain ⟨j, w⟩ := x
    unfold tabSet
    rw [if_neg hv, if_neg hv]
    split
    · simp [tabGet]
    · next hjk =>
      split
      · simp [tabGet]
      · next hlt => rw [tabGet, if_neg hjk, if_neg hlt, ih]

theorem State.eng_setEng_ramping {s : State} {e : Nat} {x : EngineSt} (h : x.ramp ≠ .idle) : (s.setEng e x).eng e = x :=
  tabGet_tabSet_same (fun hx => h (by rw [hx])) s.engines

/-- Work that begins in a ramp-down of an earlier cycle turns it into a ramp-up where it stands. -/
theorem State.workBegins_rampDown {s : State} {e : Nat} (hr : (s.eng e).ramp = .rampDown)
    (hp : (s.eng e).prior = none ∨ (s.eng e).rampAt ≠ s.now) :
    ∃ p, s.workBegins e = s.setEng e { s.eng e with working := true, ramp := .rampUp, prior := p } := by
  unfold State.workBegins
  simp only [hr]
  cases hpr : (s.eng e).prior with
  | none => exact ⟨_, rfl⟩
  | some p =>
    refine ⟨none, if_neg ?_⟩
    rcases hp with hp | hp
    · rw [hpr] at hp
      cases hp
    · exact hp

/-! ### The duty and the checks -/

theorem State.dutyStep_up {s : State} {e : Nat} (hd : (s.eng e).dutyAt + 64 ≤ s.now) (h : (s.eng e).duty < (s.eng e).cap) :
    s.dutyStep e = s.setEng e { s.eng e with duty := (s.eng e).duty + 1, dutyAt := s.now } := by
  simp [State.dutyStep, Nat.not_lt.mpr hd, h]

theorem State.dutyStep_down {s : State} {e : Nat} (hd : (s.eng e).dutyAt + 64 ≤ s.now) (h : (s.eng e).cap < (s.eng e).duty) :
    s.dutyStep e = s.setEng e { s.eng e with duty := (s.eng e).duty - 1, dutyAt := s.now } := by
  simp [State.dutyStep, Nat.not_lt.mpr hd, h, Nat.lt_asymm h]

theorem State.dutyStep_not {s : State} {e : Nat} (h : s.now < (s.eng e).dutyAt + 64 ∨ (s.eng e).duty = (s.eng e).cap) :
    s.dutyStep e = s := by
  rcases h with h | h <;> simp [State.dutyStep, h]

theorem State.checkInOp_struck {s : State} {e q : Nat} {w : CheckSite} {parity : Bool} {o : OpenOp} (h : s.struckOp e q w = some o) :
    s.checkInOp e q w parity = (s.strikeOp e q o w parity).1.putOp e q (s.strikeOp e q o w parity).2 := by
  simp only [State.checkInOp, h]

/-- Settles O24: a failed check by what it strikes; holding, ramp and duty by what is due. -/
theorem datapathChecksAndRamps : Obligations.DatapathChecksAndRamps := by
  intro s u t e w parity h x next moved
  refine ⟨fun q o hs ho => ?_, fun hs hh => ?_, fun q hs => ?_, fun r hr hact hw hg hd => ?_, fun hn => ?_, fun hg hd => ?_,
    fun hg hr hm => ?_, fun i hr hp hi => ?_, fun hn => ?_, fun hd hlt => ?_, fun hd hlt => ?_, fun hn => ?_⟩
  · refine (live_next h).trans (congrArg Host.Outcome.next ?_)
    rw [if_neg (by rw [hs]; exact Bool.false_ne_true)]
    exact State.checkInOp_struck ho
  · refine (live_next h).trans (congrArg Host.Outcome.next ?_)
    simp only [hs, hh, Bool.false_eq_true, if_false, if_true]
  · exact (live_next h).trans (congrArg Host.Outcome.next (if_pos hs))
  · exact (live_next h).trans (congrArg Host.Outcome.next (State.holdExpiry_due hr hact hw hg hd))
  · exact (live_next h).trans (congrArg Host.Outcome.next (State.holdExpiry_not hn))
  · refine ⟨fun hr hlt => ?_, fun hr hge => ?_, fun hr hne => ?_, fun hr hz => ?_⟩
    · refine (live_next h).trans (congrArg Host.Outcome.next ((State.rampStep_up hg hd hr).trans ?_))
      rw [if_pos hlt]
    · refine (live_next h).trans (congrArg Host.Outcome.next ((State.rampStep_up hg hd hr).trans ?_))
      rw [if_neg (Nat.not_lt.mpr hge)]
    · refine (live_next h).trans (congrArg Host.Outcome.next ((State.rampStep_down hg hd hr).trans ?_))
      rw [if_neg hne]
    · refine (live_next h).trans (congrArg Host.Outcome.next ((State.rampStep_down hg hd hr).trans ?_))
      rw [if_pos hz]
  · exact (live_next h).trans (congrArg Host.Outcome.next (State.rampStep_idle hg hr hm))
  · obtain ⟨p, hp⟩ := State.workBegins_rampDown hr hp
    rw [hp, State.eng_setEng_ramping (by simp)]
    exact ⟨rfl, hi, rfl⟩
  · exact (live_next h).trans (congrArg Host.Outcome.next (State.rampStep_not hn))
  · exact (live_next h).trans (congrArg Host.Outcome.next (State.dutyStep_up hd hlt))
  · exact (live_next h).trans (congrArg Host.Outcome.next (State.dutyStep_down hd hlt))
  · exact (live_next h).trans (congrArg Host.Outcome.next (State.dutyStep_not hn))

end Sys2Proof.Machine
end

section
/-! SUPPORT. The events of a Keeper routine (O25). -/

namespace Sys2Proof.Machine

/-! ### One instruction -/

section Step
variable {x : State} {e : Nat} {p : Routine} {o : OpenOp}

/-- A 32-bit instruction in the bank is executed. -/
theorem State.rvStep_long {i : RvInst} (hpc : p.pc.toNat + 4 ≤ 0x8000) (hlong : leNat (x.bankBytes e p.pc.toNat 2) % 4 = 3)
    (hi : rvDecode32 (leNat (x.bankBytes e p.pc.toNat 4)) = some i) : x.rvStep e p o = x.rvExec e p o (p.pc + 4) i := by
  have h2 : ¬0x8000 < p.pc.toNat + 2 := by omega
  have h4 : decide (0x8000 < p.pc.toNat + 4) = false := decide_eq_false (by omega)
  unfold State.rvStep
  simp only [if_neg h2, hlong, h4, decide_true, Bool.and_false, Bool.false_eq_true, if_false, if_true, hi]

/-- A halfword of zeros is an illegal instruction. -/
theorem State.rvStep_zeros (hpc : p.pc.toNat + 2 ≤ 0x8000) (hz : leNat (x.bankBytes e p.pc.toNat 2) = 0) :
    x.rvStep e p o = x.rvTrap e p 2 none none := by
  have hdecode : rvDecode16 0 = none := by decide
  have hthree : ¬ (0 : Nat) = 3 := by decide
  unfold State.rvStep
  simp only [if_neg (Nat.not_lt.mpr hpc), hz, Nat.zero_mod, hthree, decide_false, Bool.false_and, Bool.false_eq_true, if_false,
    hdecode]

/-- A fetch beyond the bank is an access fault. -/
theorem State.rvStep_beyond (hpc : 0x8000 < p.pc.toNat + 2) : x.rvStep e p o = x.rvTrap e p 1 (some p.pc) none := if_pos hpc

theorem keeperSite_outside {a n : Nat} (ha : a < 0x10000000 ∨ 0x10008000 < a + n) (ofs : Nat) : keeperSite a n ≠ .data ofs := by
  have hdata : ¬(0x10000000 ≤ a ∧ a + n ≤ 0x10008000) := by omega
  unfold keeperSite
  rw [if_neg hdata]
  split <;> exact fun h => by cases h

/-- A store of a byte outside data memory is an access fault. -/
theorem State.rvStore_outside {a : Nat} (ha : a < 0x10000000 ∨ 0x10008000 ≤ a) (v next : Word) :
    x.rvStore e p a 1 v next = x.rvTrap e p 7 (some (BitVec.ofNat 64 a)) none := by
  have hal : misaligned a 1 = false := by rw [misaligned, Nat.mod_one]; rfl
  have hsite := keeperSite_outside (n := 1) (show a < 0x10000000 ∨ 0x10008000 < a + 1 by omega)
  unfold State.rvStore
  rw [if_neg (by rw [hal]; exact Bool.false_ne_true)]
  split
  · next ofs h => exact absurd h (hsite ofs)
  · rfl

theorem State.rvTrap_value {cause : Nat} {v : Word} {k : Option Nat} :
    x.rvTrap e p cause (some v) k =
      .traps (x.setEng e { x.eng e with csr := { (x.eng e).csr with cause := BitVec.ofNat 64 cause, epc := p.pc, tval := v } }) p cause
        p.pc.toNat k := rfl

theorem State.rvTrap_free {cause : Nat} {k : Option Nat} :
    x.rvTrap e p cause none k =
      .traps (({ x with free := x.free + 1 } : State).setEng e { x.eng e with csr := { (x.eng e).csr with
        cause := BitVec.ofNat 64 cause, epc := p.pc, tval := BitVec.ofNat 64 (Config.freeNat x.free) } }) p cause p.pc.toNat k := rfl

/-- A CSR write to kemit emits. -/
theorem State.rvCsr_kemit {rd src : Nat} {next : Word} :
    x.rvCsr e p o .write false rd src 0x7C0 next =
      ({ x with free := x.free + 1 } : State).rvEmit e p (p.reg src).toNat rd (BitVec.ofNat 64 (Config.freeNat x.free)) next := rfl

/-- kemit takes a descriptor from data memory. -/
theorem State.rvEmit_takes {a rd : Nat} {old next : Word} (hlen : p.emitted.length < 16) (h0 : 0x10000000 ≤ a) (h1 : a + 64 ≤ 0x10008000) :
    x.rvEmit e p a rd old next =
      .emits (x.setEng e { x.eng e with csr := { (x.eng e).csr with instret := (x.eng e).csr.instret + 1 } })
        { ({ p with emitted := p.emitted ++ [descOf (x.kload e (p.q * 32768 + (a - 0x10000000)) 64)] }.setReg rd old) with pc := next } a := by
  unfold State.rvEmit
  rw [if_neg (Nat.not_le.mpr hlen), if_neg (by omega)]
  rfl

/-- The 17th descriptor is an illegal instruction. -/
theorem State.rvEmit_full {a rd : Nat} {old next : Word} (hlen : 16 ≤ p.emitted.length) :
    x.rvEmit e p a rd old next = x.rvTrap e p 2 none (some a) := if_pos hlen

end Step

/-! ### The commands of a running routine -/

/-- A routine whose MAX_CYCLES are not over runs on to its next event. -/
theorem State.runRoutine_at {u : State} {e n : Nat} {r : Routine} {o : OpenOp} {z : RvEnd} {f : OpenOp → RvEnd → State}
    (hc : u.routineCall e = some (r, o)) (ht : u.now ≤ r.startedAt + r.maxCycles) (hz : u.rvRun e r o n = z) :
    u.runRoutine e n f = f o z := by
  unfold State.runRoutine
  simp only [hc, if_neg (Nat.not_lt.mpr ht), hz]

/-- What runs up to an event: the routine of e goes as far as instruction k, and the command asks for more. -/
structure RunsTo (s u : State) (t : Nat) (e : Fin 96) (r : Routine) (o : OpenOp) (x : State) (p : Routine) (n : Nat) : Prop where
  runs : s.RunsAt t u
  call : u.routineCall e = some (r, o)
  inTime : u.now ≤ r.startedAt + r.maxCycles
  goes : ∃ k, k < n ∧ u.rvRun e r o k = .goes x p

section Event
variable {s u x : State} {t n : Nat} {e : Fin 96} {r p : Routine} {o : OpenOp} {z : RvEnd} (h : RunsTo s u t e r o x p n)
include h

theorem RunsTo.live (hs : x.rvStep e p o = z) (hz : ∀ s r, z ≠ .goes s r) (f : State → OpenOp → RvEnd → State) :
    (Host.Outcome.next (s.live t fun s => s.runRoutine e n (f s)) : Host.Outcome State Fault Refusal) = .next (f u o z) := by
  obtain ⟨k, hk, hgoes⟩ := h.goes
  rw [live_next h.runs, State.runRoutine_at h.call h.inTime (rvRun_event hgoes hk hs hz)]

variable {s' : State} {r' : Routine} {a : Nat}

theorem RunsTo.kemit_emits (hs : x.rvStep e p o = .emits s' r' a) {b : BitVec 64} (hb : a = b.toNat) :
    exec (.kemit t e n b) s = .next (s'.setEng e { s'.eng e with routine := some { r' with seen := u.now } }) :=
  (h.live hs (fun _ _ => by simp) _).trans (congrArg Host.Outcome.next (if_pos hb))

theorem RunsTo.kemit_other (hs : x.rvStep e p o = .emits s' r' a) {b : BitVec 64} (hb : a ≠ b.toNat) :
    exec (.kemit t e n b) s = .next u :=
  (h.live hs (fun _ _ => by simp) _).trans (congrArg Host.Outcome.next (if_neg hb))

theorem RunsTo.kemit_traps {cause pc : Nat} (hs : x.rvStep e p o = .traps s' r' cause pc (some a)) {b : BitVec 64} (hb : a = b.toNat) :
    exec (.kemit t e n b) s = .next (s'.keeperTrapped e r' o cause pc) :=
  (h.live hs (fun _ _ => by simp) _).trans (congrArg Host.Outcome.next (if_pos hb))

theorem RunsTo.keeperTrap_traps {cause pc : Nat} {k : Option Nat} (hs : x.rvStep e p o = .traps s' r' cause pc k) :
    exec (.keeperTrap t e n cause pc) s = .next (s'.keeperTrapped e r' o cause pc) :=
  (h.live hs (fun _ _ => by simp) _).trans (congrArg Host.Outcome.next (if_pos ⟨rfl, rfl⟩))

theorem RunsTo.keeperTrap_other (hs : x.rvStep e p o = .returns s' r') (cause pc : Nat) :
    exec (.keeperTrap t e n cause pc) s = .next u := h.live hs (fun _ _ => by simp) _

theorem RunsTo.keeperReturn_returns (hs : x.rvStep e p o = .returns s' r') (b : BitVec 64) :
    exec (.keeperReturn t e n b) s = .next (if r'.reg 10 ≠ b then u else if b = 0 then s'.routineReturns e r' o
      else s'.routineFails e r' o ⟨F.keeperRet, 0, b.toNat % 2 ^ 32⟩) := h.live hs (fun _ _ => by simp) _

end Event

/-! ### The ends of a routine -/

section Ends
variable {y : State} {e : Nat} {p : Routine} {o : OpenOp}

theorem State.routineReturns_done (h : o.abort = true ∨ p.emitted = []) :
    y.routineReturns e p o = (y.routineOver e).endOp e p.q o .completed :=
  if_pos (h.imp_right fun h => by rw [h]; rfl)

theorem State.routineReturns_emitted (ha : o.abort = false) (he : p.emitted ≠ []) :
    y.routineReturns e p o =
      if 4 ≤ ((y.routineOver e).queue e p.q).stack.length then (y.routineOver e).endOp e p.q o (.faulted ⟨F.listDepth, 0, 0⟩)
      else ((y.routineOver e).setQueue e p.q (((y.routineOver e).queue e p.q).push
        { count := p.emitted.length, emitted := p.emitted })).endOp e p.q o .completed := by
  refine if_neg ?_
  rintro (h | h)
  · exact Bool.false_ne_true (ha.symm.trans h)
  · exact he (List.isEmpty_iff.mp h)

end Ends

/-- Settles O25: each command names the event that stands next, and does what that event leads to. -/
theorem keeperRoutineEvents : Obligations.KeeperRoutineEvents := by
  intro s u t e r o h hc next fails
  refine ⟨fun x p k n ht hk hg => ?_, fun n hover => ?_⟩
  · intro pc csr at32 traps
    have hto : RunsTo s u t e r o x p n := ⟨h, hc, ht, k, hk, hg⟩
    refine ⟨fun rd src hi => ?_, fun hi => ?_, fun hpc hz => ?_, fun hpc => ?_, fun rs src ofs hi => ?_⟩
    · obtain ⟨hpc, hlong, hdec⟩ := hi
      have hstep := (State.rvStep_long (o := o) hpc hlong hdec).trans (State.rvCsr_kemit (o := o))
      intro a y z
      refine ⟨fun hlen h0 h1 => ?_, fun hlen => ?_, fun b hb hlen h0 h1 => ?_⟩
      · exact hto.kemit_emits (hstep.trans (State.rvEmit_takes hlen h0 h1)) rfl
      · have hfull := hstep.trans ((State.rvEmit_full hlen).trans State.rvTrap_free)
        exact ⟨hto.kemit_traps hfull rfl, hto.keeperTrap_traps hfull⟩
      · exact hto.kemit_other (hstep.trans (State.rvEmit_takes hlen h0 h1)) fun hab => hb (BitVec.eq_of_toNat_eq hab.symm)
    · obtain ⟨hpc, hlong, hdec⟩ := hi
      have hstep : x.rvStep e p o = .returns (csr { (x.eng e).csr with cause := 11, epc := p.pc }) p := State.rvStep_long hpc hlong hdec
      intro y done
      refine ⟨fun hne => ?_, fun h0 hd => ?_, fun h0 ha he hl => ?_, fun h0 ha he hl => ?_, fun b hb => ?_, hto.keeperTrap_other hstep⟩
      · rw [hto.keeperReturn_returns hstep, if_neg (not_not_intro rfl), if_neg hne]
        rfl
      · rw [hto.keeperReturn_returns hstep, if_neg (not_not_intro h0), if_pos rfl, State.routineReturns_done hd]
      · rw [hto.keeperReturn_returns hstep, if_neg (not_not_intro h0), if_pos rfl, State.routineReturns_emitted ha he,
          if_neg (Nat.not_le.mpr hl)]
      · rw [hto.keeperReturn_returns hstep, if_neg (not_not_intro h0), if_pos rfl, State.routineReturns_emitted ha he, if_pos hl]
      · rw [hto.keeperReturn_returns hstep, if_pos hb.symm]
    · exact hto.keeperTrap_traps ((State.rvStep_zeros hpc hz).trans State.rvTrap_free)
    · exact hto.keeperTrap_traps ((State.rvStep_beyond hpc).trans State.rvTrap_value)
    · obtain ⟨hpc, hlong, hdec⟩ := hi
      intro a ha
      exact hto.keeperTrap_traps ((State.rvStep_long hpc hlong hdec).trans ((State.rvStore_outside ha _ _).trans State.rvTrap_value))
  · refine (live_next h).trans (congrArg Host.Outcome.next ?_)
    simp only [hc, if_neg (Nat.not_lt.mpr hover)]
    rfl

end Sys2Proof.Machine
end

section
/-! SUPPORT. The queue's own events: notices, fetches, triggers and bundles (O26). -/

namespace Sys2Proof.Machine

/-! ### The tail line -/

section Tail
variable {u : State} {e q : Nat}

/-- A tail line of memory that can be read and has been read before. -/
structure State.TailReads (u : State) (e q : Nat) : Prop where
  known : (u.queue e q).fresh = false
  ok : u.structFault (u.rd (Reg.engQTailDa e q)) 4 .ok none = none
  held : u.holdsBytes (u.rd (Reg.engQTailDa e q)) 4 = true

/-- The tail that the tail line holds. -/
def State.tailRead (u : State) (e q : Nat) : Nat := u.loadNat (u.rd (Reg.engQTailDa e q)) 4

/-- A tail outside the ring, or behind the last: F_QUEUE_SEQ of case 1 (R164). -/
theorem State.readTail_outside (h : u.TailReads e q)
    (hout : ahead32 (u.tailRead e q) (u.queue e q).tail < 0 ∨
      2 ^ u.fld (Reg.engQCfg e q) 12 8 < (u.tailRead e q + 2 ^ 32 - (u.queue e q).head) % 2 ^ 32) :
    u.readTail e q .ok =
      (u.setQueue e q { u.queue e q with seen := u.tailRead e q }).seqHalt e q (u.queue e q).head (u.tailRead e q) 1 0 := by
  simp only [State.tailRead] at hout ⊢
  simp only [State.readTail, h.ok, h.held, h.known, Bool.not_true, Bool.not_false, Bool.true_and, Bool.false_eq_true, if_false,
    decide_eq_true_eq]
  exact if_pos hout

/-- Any other tail is taken. -/
theorem State.readTail_taken (h : u.TailReads e q) (hahead : 0 ≤ ahead32 (u.tailRead e q) (u.queue e q).tail)
    (hin : (u.tailRead e q + 2 ^ 32 - (u.queue e q).head) % 2 ^ 32 ≤ 2 ^ u.fld (Reg.engQCfg e q) 12 8) :
    u.readTail e q .ok =
      (u.setQueue e q { u.queue e q with seen := u.tailRead e q, tail := u.tailRead e q }).settle e q (u.queue e q).state := by
  simp only [State.tailRead] at hahead hin ⊢
  simp only [State.readTail, h.ok, h.held, h.known, Bool.not_true, Bool.not_false, Bool.true_and, Bool.false_eq_true, if_false,
    decide_eq_true_eq]
  refine if_neg ?_
  rintro (a | a)
  · exact Int.not_lt.mpr hahead a
  · exact Nat.not_lt.mpr hin a

end Tail

/-! ### Notices, fetches and triggers -/

section Events
variable {u : State} {e q : Nat}

theorem State.notify_disabled {w : State} (hw : u.recheckWaits e q = w) (hd : (w.queue e q).state = .disabled) (a : Nat) (tail : FetchEnd) :
    u.notify e q a tail = w := by
  subst hw
  exact if_pos hd

theorem State.notify_tail {w : State} {a : Nat} (hw : u.recheckWaits e q = w) (hd : (w.queue e q).state ≠ .disabled)
    (hring : bit (w.rd (Reg.engQCfg e q)) 1 = false) (ha : a / 64 = w.rd (Reg.engQTailDa e q) / 64) (tail : FetchEnd) :
    u.notify e q a tail = w.readTail e q tail := by
  subst hw
  refine (if_neg hd).trans (if_pos ⟨?_, ha⟩)
  rw [hring]
  rfl

theorem State.notify_elsewhere {w : State} {a : Nat} (hw : u.recheckWaits e q = w) (hd : (w.queue e q).state ≠ .disabled)
    (ha : ¬(bit (w.rd (Reg.engQCfg e q)) 1 = false ∧ a / 64 = w.rd (Reg.engQTailDa e q) / 64)) (tail : FetchEnd) :
    u.notify e q a tail = match w.ringSeqAt e q a with
      | some n => w.seqHalt e q n n 3 0
      | none => w := by
  subst hw
  refine (if_neg hd).trans (if_neg ?_)
  rw [Bool.not_eq_true']
  exact ha

/-- The check of a reserved encoding fails no struck entry: its fault is not F_HAZARD. -/
theorem State.failStruck_invalid (s : State) (e q : Nat) (isIt : Desc → Bool) :
    s.failStruck e q isIt (fun _ _ _ => .fault (invalidAt 0)) = s := by
  have hcode : (invalidAt 0).code ≠ F.hazard := by simp [invalidAt, F.descInvalid, F.hazard]
  unfold State.failStruck
  cases s.struck e q isIt with
  | none => rfl
  | some p => exact if_neg hcode

theorem State.fetch_off {a b : FetchEnd} (hf : (u.queue e q).fetches = false) : u.fetch e q a b = u := by
  unfold State.fetch
  rw [hf]
  rfl

theorem State.fetch_next {a b : FetchEnd} {y z : State} (hf : (u.queue e q).fetches = true)
    (hy : (if bit (u.rd (Reg.engQCfg e q)) 1 then u.takeArg e q else u.readTail e q a) = y) (hfy : (y.queue e q).fetches = true)
    (hroom : (y.queue e q).fetched.length < 4) (hz : y.fetchNext e q b 5 = z) (hn : z.issuable e q reservedOp = none) :
    u.fetch e q a b = z := by
  unfold State.fetch
  rw [hf, Bool.not_true, if_neg Bool.false_ne_true]
  dsimp only
  rw [hy, hfy, decide_eq_true hroom, Bool.and_self, if_pos rfl, hz]
  unfold State.issueNext
  rw [hn]
  exact State.failStruck_invalid z e q reservedOp

/-- When a queue takes a trigger (R186). -/
theorem State.takesTrigger_iff : u.takesTrigger e q = true ↔ (u.queue e q).state ≠ .disabled ∧ (u.queue e q).stopping = false ∧
    bit (u.rd (Reg.engQCfg e q)) 1 = true ∧ (u.queue e q).fifo.length < 64 ∧ u.draining e = false := by
  simp [State.takesTrigger, and_assoc]

theorem State.trigger_taken {arg : Nat} (h : u.takesTrigger e q = true) :
    u.trigger e q arg = ((u.setQueue e q { u.queue e q with fifo := (u.queue e q).fifo ++ [arg] }).bump (Reg.engTrigCount e) 31 0 1).settle e
      q (u.queue e q).state := if_pos h

theorem State.trigger_dropped {arg : Nat} (h : u.takesTrigger e q = false) : u.trigger e q arg = u.dropTrigger e q arg :=
  if_neg (by rw [h]; exact Bool.false_ne_true)

end Events

/-- The loader installs a bundle that its verdict passes, and records what it finds otherwise. -/
theorem State.loaderCheck_eq {u : State} {a : Nat} : u.loaderCheck a = match (u.loaderVerdict a).1 with
    | none => u.installBundle (bundleOf (u.loaderVerdict a).2)
    | some f => postFault u {
        code := F.loaderCheck, cls := Class.info, block := Blk.ldr,
        part := if f.sub ≤ 2 then 0x80 else (bundleOf (u.loaderVerdict a).2).part,
        payload := f.sub + f.record % 65536 * 2 ^ 8 + f.opnd * 2 ^ 24 + f.entry * 2 ^ 32 } := by
  unfold State.loaderCheck
  generalize u.loaderVerdict a = v
  obtain ⟨verdict, bs⟩ := v
  cases verdict with
  | none => rfl
  | some f => rfl

/-- Settles O26: each event by the state of its queue, the bundle by the loader's verdict. -/
theorem queueEvents : Obligations.QueueEvents := by
  intro s u t e q h x w
  refine ⟨fun da tail hd => ?_, fun da tail hd => ?_, ?_, fun a b hf => ?_, fun a b hf => ?_, fun arg hs hst hc hl hdr => ?_,
    fun arg hn => ?_, fun da hv => ?_, fun da f hv => ?_⟩
  · intro atTail
    refine ⟨fun ha => ?_, fun ha n hn => ?_, fun ha hn => ?_⟩
    · exact (live_next h).trans (congrArg Host.Outcome.next (State.notify_tail rfl hd ha.1 ha.2 tail))
    · refine (live_next h).trans (congrArg Host.Outcome.next ((State.notify_elsewhere rfl hd ha tail).trans ?_))
      rw [hn]
    · refine (live_next h).trans (congrArg Host.Outcome.next ((State.notify_elsewhere rfl hd ha tail).trans ?_))
      rw [hn]
  · exact (live_next h).trans (congrArg Host.Outcome.next (State.notify_disabled rfl hd da tail))
  · intro da tail depth size hfr hok hh
    exact ⟨fun hout => State.readTail_outside ⟨hfr, hok, hh⟩ hout, fun ha hin => State.readTail_taken ⟨hfr, hok, hh⟩ ha hin⟩
  · intro y hfy hl z hn
    exact (live_next h).trans (congrArg Host.Outcome.next (State.fetch_next hf rfl hfy hl rfl hn))
  · exact (live_next h).trans (congrArg Host.Outcome.next (State.fetch_off hf))
  · refine (live_next h).trans (congrArg Host.Outcome.next (State.trigger_taken ?_))
    exact State.takesTrigger_iff.mpr ⟨hs, hst, hc, hl, hdr⟩
  · refine (live_next h).trans (congrArg Host.Outcome.next (State.trigger_dropped (Bool.eq_false_iff.mpr fun htakes => ?_)))
    obtain ⟨hs, hst, hc, hl, hdr⟩ := State.takesTrigger_iff.mp htakes
    rcases hn with hn | hn | hn | hn | hn
    · exact hs hn
    · exact Bool.false_ne_true (hn.symm.trans hc)
    · exact Nat.not_lt.mpr hn hl
    · exact Bool.false_ne_true (hst.symm.trans hn)
    · exact Bool.false_ne_true (hdr.symm.trans hn)
  · refine (live_next h).trans (congrArg Host.Outcome.next (State.loaderCheck_eq.trans ?_))
    rw [hv]
  · refine (live_next h).trans (congrArg Host.Outcome.next (State.loaderCheck_eq.trans ?_))
    rw [hv]

end Sys2Proof.Machine
end

section
/-! SUPPORT. Atomics and reductions at the home slice (O27, O28). -/

namespace Sys2Proof.Machine

/-! ### A refused atomic or reduction -/

/-- A refusal of a request of the module itself goes to its requester, and touches no memory or register. -/
theorem State.answerAtom_refused (x : State) {w : Waiting} {r : HomeAnswer} (hp : w.pkt = none) (hc : r.code ≠ 0) (n : Nat) :
    (x.answerAtom w r n).outbox = .atomRefused w.req.who w.req.da r.code :: x.outbox ∧ (x.answerAtom w r n).mem = x.mem ∧
      (x.answerAtom w r n).regs = x.regs := by
  unfold State.answerAtom
  rw [hp]
  dsimp only
  rw [if_neg hc]
  cases w.req.who with
  | engine e q =>
    obtain ⟨hmem, hregs, hout⟩ := failOp_same (x.emit (.atomRefused (.engine e q) w.req.da r.code)) e q r.code w.req.da
    exact ⟨hout, hmem, hregs⟩
  | _ => exact ⟨rfl, rfl, rfl⟩

theorem State.answerAtom_ok (x : State) {w : Waiting} (hp : w.pkt = none) (old : Nat) (z : Bool) (n : Nat) :
    x.answerAtom w ⟨0, old, z⟩ n = x.emit (.atomAnswer w.req.who w.req.da old z) := by
  unfold State.answerAtom
  rw [hp]
  rfl

/-- A request that is misaligned or cannot be accessed is refused. -/
theorem State.homeRequest_faults {u : State} {who : Requester} {da code : Nat} {act : MemAct} {aligned : Bool} (hr : regionOf da ≠ .remote)
    (hf : u.atomFault da act.size aligned = some code) :
    u.homeRequest who da act aligned = (u.noteAtomic da code).refuse (u.homeWait who da act) code da := by
  unfold State.homeRequest
  simp only [if_neg hr, hf]
  rfl

theorem State.homeRequest_goes {u : State} {who : Requester} {da : Nat} {act : MemAct} {aligned : Bool} (hr : regionOf da ≠ .remote)
    (hf : u.atomFault da act.size aligned = none) : u.homeRequest who da act aligned = u.request (u.homeWait who da act) := by
  unfold State.homeRequest
  simp only [if_neg hr, hf]
  rfl

theorem region_local {da : Nat} {tr : Tier} (h : tierOf da = some tr) : regionOf da ≠ .remote := by
  rcases tier_region h with h | h <;> rw [h] <;> exact fun h => by cases h

/-- What a refusal of an atomic or reduction of the module leaves. -/
theorem State.refuse_homeWait {u : State} {who : Requester} {da code : Nat} {act : MemAct} (hact : (∃ r, act = .atom r) ∨ ∃ op m d, act = .red op m d)
    (hc : code ≠ 0) :
    let r := (u.noteAtomic da code).refuse (u.homeWait who da act) code da
    r.outbox = .atomRefused who da code :: u.outbox ∧ r.mem = u.mem ∧ r.regs = (u.noteAtomic da code).regs := by
  obtain ⟨hmem, hout⟩ := noteAtomic_same u da code
  rcases hact with ⟨rq, rfl⟩ | ⟨op, m, d, rfl⟩
  · obtain ⟨h1, h2, h3⟩ := (u.noteAtomic da code).answerAtom_refused (w := u.homeWait who da (.atom rq)) (r := ⟨code, 0, false⟩) rfl hc
      rq.ty.bytes
    exact ⟨hout ▸ h1, h2.trans hmem, h3⟩
  · obtain ⟨h1, h2, h3⟩ := (u.noteAtomic da code).answerAtom_refused (w := u.homeWait who da (.red op m d)) (r := ⟨code, 0, false⟩) rfl hc 4
    exact ⟨hout ▸ h1, h2.trans hmem, h3⟩

/-! ### A request that goes at once -/

/-- The state in which a request that goes at once is performed: charged, unless it is the scheduler's. -/
def State.charged (x : State) (tr : Tier) (w : Waiting) : State := if w.uncharged then x else x.charge tr w.req.part.val w.bytes

theorem State.load_congr {a b : State} (h : a.mem = b.mem) (da n : Nat) : a.load da n = b.load da n := by
  rw [State.load, State.load, h]

theorem State.loadNat_congr {a b : State} (h : a.mem = b.mem) (da n : Nat) : a.loadNat da n = b.loadNat da n := by
  rw [State.loadNat, State.loadNat, State.load_congr h]

theorem State.noteAtomic_regs_congr {a b : State} (h : a.regs = b.regs) (da code : Nat) :
    (a.noteAtomic da code).regs = (b.noteAtomic da code).regs := by
  unfold State.noteAtomic
  split
  · simp only [State.event, State.setBit, State.setFld, State.wr, State.rd, h]
  · exact h

/-- What an atomic in range leaves, right after it is performed in y. -/
theorem State.doAtomic_result {y : State} {da new : Nat} {rq : AtomReq} (hwf : Memory.wf y.mem) (hp : da < atticBase ∨ shelfBase ≤ da)
    (hnew : rq.result (y.loadNat da rq.ty.bytes) = some new) :
    (y.doAtomic da rq).2 = ⟨0, y.loadNat da rq.ty.bytes, rq.zero new⟩ ∧ (y.doAtomic da rq).1.load da rq.ty.bytes = leBytes rq.ty.bytes new ∧
      (y.doAtomic da rq).1.SameOutside y da rq.ty.bytes ∧ (y.doAtomic da rq).1.SameBlocks y ∧
      (y.doAtomic da rq).1.outbox = y.outbox := by
  have heq : y.doAtomic da rq = ((y.claimLine da rq.ty.bytes).storeIfChanged da (leBytes rq.ty.bytes new),
      ⟨0, y.loadNat da rq.ty.bytes, rq.zero new⟩) := by
    unfold State.doAtomic
    dsimp only
    rw [show (y.claimLine da rq.ty.bytes).loadNat da rq.ty.bytes = y.loadNat da rq.ty.bytes from rfl, hnew]
  have hlen := leBytes_length rq.ty.bytes new
  have hload := storeIfChanged_load (s := y.claimLine da rq.ty.bytes) (bs := leBytes rq.ty.bytes new) hwf hp
  have hout := storeIfChanged_outside (s := y.claimLine da rq.ty.bytes) (bs := leBytes rq.ty.bytes new) hwf hp
  obtain ⟨hblocks, hbox⟩ := storeIfChanged_rest (y.claimLine da rq.ty.bytes) da (leBytes rq.ty.bytes new) hp
  rw [hlen] at hload hout
  rw [heq]
  exact ⟨rfl, hload, hout, hblocks, hbox⟩

/-- An atomic out of range is refused, and only noted. -/
theorem State.doAtomic_range {y : State} {da : Nat} {rq : AtomReq} (hnew : rq.result (y.loadNat da rq.ty.bytes) = none) :
    y.doAtomic da rq = ((y.claimLine da rq.ty.bytes).noteAtomic da F.atomicRange, ⟨F.atomicRange, y.loadNat da rq.ty.bytes, false⟩) := by
  unfold State.doAtomic
  dsimp only
  rw [show (y.claimLine da rq.ty.bytes).loadNat da rq.ty.bytes = y.loadNat da rq.ty.bytes from rfl, hnew]

/-- A reduction of whole elements leaves its sector or line with the elements of R68's rule. -/
theorem State.doRed_result {y : State} {da m : Nat} {op : RedOp} {d : List Byte} (hwf : Memory.wf y.mem)
    (hp : da < atticBase ∨ shelfBase ≤ da) (hlen : op.bytes ∣ d.length) :
    (y.doRed da op m d).load da d.length = op.apply m (y.load da d.length) d ∧ (y.doRed da op m d).SameOutside y da d.length ∧
      (y.doRed da op m d).SameBlocks y ∧ (y.doRed da op m d).outbox = y.outbox := by
  have hold : (y.load da d.length).length = d.length := tabGetList_length _ _ _
  have happly : (op.apply m (y.load da d.length) d).length = d.length := (apply_length (hold.symm ▸ hlen)).trans hold
  have hload := storeIfChanged_load (s := y.claimLine da d.length) (bs := op.apply m (y.load da d.length) d) hwf hp
  have hout := storeIfChanged_outside (s := y.claimLine da d.length) (bs := op.apply m (y.load da d.length) d) hwf hp
  obtain ⟨hblocks, hbox⟩ := storeIfChanged_rest (y.claimLine da d.length) da (op.apply m (y.load da d.length) d) hp
  rw [happly] at hload hout
  exact ⟨hload, hout, hblocks, hbox⟩

theorem State.SameBlocks.trans {a b c : State} (h : a.SameBlocks b) (g : b.SameBlocks c) : a.SameBlocks c := by
  obtain ⟨h1, h2, h3, h4, h5, h6, h7, h8⟩ := h
  obtain ⟨g1, g2, g3, g4, g5, g6, g7, g8⟩ := g
  exact ⟨h1.trans g1, h2.trans g2, h3.trans g3, h4.trans g4, h5.trans g5, h6.trans g6, h7.trans g7, h8.trans g8⟩

theorem State.byteAt_congr {a b : State} (h : a.mem = b.mem) (da : Nat) : a.byteAt da = b.byteAt da := by
  rw [State.byteAt, State.byteAt, h]

/-- The requests of R68 are of 64 or 256 bytes, which every element size divides. -/
theorem redBytes_dvd {op : RedOp} {a n : Nat} (h : redAligned a n = true) : op.bytes ∣ n := by
  have hn : n = 64 ∨ n = 256 := by
    simp only [redAligned, Bool.or_eq_true, Bool.and_eq_true, decide_eq_true_eq] at h
    omega
  rcases hn with rfl | rfl <;> cases op <;> decide

theorem atomFault_aligned {u : State} {a n : Nat} {b : Bool} (hr : regionOf a = .pantry ∨ regionOf a = .cellar)
    (h : u.atomFault a n b = none) : b = true := by
  unfold State.atomFault at h
  rcases hr with hr | hr <;> rw [hr] at h <;> cases b <;> simp_all

/-- Settles O27: an atomic is refused, or performed at its home slice in its turn there. -/
theorem atomicsAtTheHomeSlice : Obligations.AtomicsAtTheHomeSlice := by
  intro i s u t da who rq tr hi h hinv hdef htier n w x old fault
  have hlocal := region_local htier
  have hplain := plain_of_region (tier_region htier)
  have hexec : exec i s = .next (u.homeRequest who da (.atom rq) (decide (da % n = 0))) := by
    rw [atomicOf_exec hi, live_next h]
    exact congrArg Host.Outcome.next (if_pos hdef)
  have hx : x.Inv := State.atSlices_inv hinv
  refine ⟨fun hf hg => ?_, fun code hf => ?_⟩
  · obtain ⟨hblocks, hmem, hbox⟩ := turn_same x tr w
    have hdone := hexec.trans (congrArg Host.Outcome.next ((State.homeRequest_goes hlocal hf).trans (request_done htier rfl hg)))
    change _ = Host.Outcome.next (((x.charged tr w).doAtomic da rq).1.answerAtom _ ((x.charged tr w).doAtomic da rq).2 n) at hdone
    have hwf : Memory.wf (x.charged tr w).mem := (show (x.charged tr w).mem = x.mem from hmem) ▸ hx.1
    have hold : (x.charged tr w).loadNat da n = old := State.loadNat_congr hmem da n
    refine ⟨fun new hnew => ?_, fun hnone => ?_⟩
    · obtain ⟨hans, hload, hout, hsame, hobox⟩ := State.doAtomic_result hwf hplain (hold.symm ▸ hnew)
      rw [hans, State.answerAtom_ok _ rfl] at hdone
      refine ⟨_, hdone, ?_, hload, fun b hb => (hout b hb).trans (State.byteAt_congr hmem b), hsame.trans hblocks⟩
      show .atomAnswer who da ((x.charged tr w).loadNat da n) (rq.zero new) :: ((x.charged tr w).doAtomic da rq).1.outbox = _
      rw [hold, hobox, show (x.charged tr w).outbox = x.outbox from hbox]
    · rw [State.doAtomic_range (hold.symm ▸ hnone)] at hdone
      refine ⟨_, hdone, ?_⟩
      obtain ⟨h1, h2, h3⟩ := State.answerAtom_refused (((x.charged tr w).claimLine da n).noteAtomic da F.atomicRange)
        (w := { w with arrived := x.now, admitted := some x.now }) (r := ⟨F.atomicRange, (x.charged tr w).loadNat da n, false⟩) rfl
        (show F.atomicRange ≠ 0 by decide) n
      obtain ⟨hnmem, hnbox⟩ := noteAtomic_same ((x.charged tr w).claimLine da n) da F.atomicRange
      refine ⟨h1.trans ?_, h2.trans (hnmem.trans hmem), h3.trans (State.noteAtomic_regs_congr hblocks.1 da F.atomicRange)⟩
      rw [hnbox, show ((x.charged tr w).claimLine da n).outbox = x.outbox from hbox]
      rfl
  · obtain ⟨h1, h2, h3⟩ := State.refuse_homeWait (u := u) (who := who) (da := da) (.inl ⟨rq, rfl⟩) (atomFault_ne hf)
    exact ⟨_, hexec.trans (congrArg Host.Outcome.next (State.homeRequest_faults hlocal hf)), h1, h2, h3⟩

/-- Settles O28: a reduction is refused, or performed at its home slice in its turn there. -/
theorem reductionsAtTheHomeSlice : Obligations.ReductionsAtTheHomeSlice := by
  intro i s u t da m who op d tr hi h hinv htier w x fault
  have hlocal := region_local htier
  have hplain := plain_of_region (tier_region htier)
  have hexec : exec i s = .next (u.homeRequest who da (.red op m d) (redAligned da d.length)) := by
    rw [reductionOf_exec hi, live_next h]
    rfl
  have hx : x.Inv := State.atSlices_inv hinv
  refine ⟨fun hf hg => ?_, fun code hf => ?_⟩
  · obtain ⟨hblocks, hmem, hbox⟩ := turn_same x tr w
    have hdone := hexec.trans (congrArg Host.Outcome.next ((State.homeRequest_goes hlocal hf).trans (request_done htier rfl hg)))
    change _ = Host.Outcome.next ((x.charged tr w).doRed da op m d) at hdone
    have hwf : Memory.wf (x.charged tr w).mem := (show (x.charged tr w).mem = x.mem from hmem) ▸ hx.1
    have hdvd : op.bytes ∣ d.length := redBytes_dvd (atomFault_aligned (tier_region htier) hf)
    obtain ⟨hload, hout, hsame, hobox⟩ := State.doRed_result (m := m) hwf hplain hdvd
    refine ⟨_, hdone, ?_, fun b hb => (hout b hb).trans (State.byteAt_congr hmem b), hsame.trans hblocks, hobox.trans hbox⟩
    rw [hload, State.load_congr (show (x.charged tr w).mem = x.mem from hmem)]
  · obtain ⟨h1, h2, h3⟩ := State.refuse_homeWait (u := u) (who := who) (da := da) (.inr ⟨op, m, d, rfl⟩) (atomFault_ne hf)
    exact ⟨_, hexec.trans (congrArg Host.Outcome.next (State.homeRequest_faults hlocal hf)), h1, h2, h3⟩

end Sys2Proof.Machine
end

section
/-! SUPPORT. MEM_READ and MEM_WRITE (O29). -/

namespace Sys2Proof.Machine

/-! ### Answers to the module's own requesters -/

section Answers
variable {x : State} {w : Waiting} (hp : w.pkt = none) (hq : w.quiet = false)
include hp hq

theorem State.answer_eq (code a : Nat) (data : List Byte) :
    x.answer w code a data = match w.req.who with
      | .engine e q => if code = 0 then x.emit (.memAnswer w.req.id w.req.who code data)
        else (x.emit (.memAnswer w.req.id w.req.who code data)).failOp e q code a
      | _ => x.emit (.memAnswer w.req.id w.req.who code data) := by
  unfold State.answer
  rw [hp, hq]
  rfl

theorem State.answer_good (a : Nat) (data : List Byte) : x.answer w 0 a data = x.emit (.memAnswer w.req.id w.req.who 0 data) := by
  rw [State.answer_eq hp hq]
  cases w.req.who with
  | engine e q => exact if_pos rfl
  | _ => rfl

/-- Any answer goes out as it is, and touches no memory or register. -/
theorem State.answer_same (code a : Nat) (data : List Byte) :
    (x.answer w code a data).outbox = .memAnswer w.req.id w.req.who code data :: x.outbox ∧ (x.answer w code a data).mem = x.mem ∧
      (x.answer w code a data).regs = x.regs := by
  rw [State.answer_eq hp hq]
  cases w.req.who with
  | engine e q =>
    dsimp only
    split
    · exact ⟨rfl, rfl, rfl⟩
    · obtain ⟨hmem, hregs, hout⟩ := failOp_same (x.emit (.memAnswer w.req.id (.engine e q) code data)) e q code a
      exact ⟨hout, hmem, hregs⟩
  | _ => exact ⟨rfl, rfl, rfl⟩

end Answers

/-- A read or a write. -/
def MemAct.plain (a : MemAct) : Prop := a = .read ∨ ∃ data, a = .write data

theorem State.refuse_plain {x : State} {w : Waiting} (ha : w.act.plain) (code b : Nat) : x.refuse w code b = x.answer w code b [] := by
  unfold State.refuse
  rcases ha with h | ⟨data, h⟩ <;> rw [h]

/-! ### A request to a tier -/

section Tier
variable {u : State} {w : Waiting} {tr : Tier} (ht : tierOf w.req.da = some tr)
include ht

theorem Waiting.homed_of_tier : w.homed = true := by
  unfold Waiting.homed
  rcases tier_region ht with h | h <;> rw [h] <;> rfl

theorem State.request_refused {c b : Nat} (hf : (u.atSlices w).requestFault w = some (c, b)) :
    u.request w = (u.atSlices w).refuse { w with arrived := (u.atSlices w).now } c b := by
  unfold State.request
  rw [if_pos (Waiting.homed_of_tier ht)]
  dsimp only
  rw [show (u.atSlices w).requestFault { w with arrived := (u.atSlices w).now } = some (c, b) from hf]
  rcases tier_region ht with h | h <;> simp only [h]

theorem State.request_tier (hf : (u.atSlices w).requestFault w = none) (ha : w.act.plain) :
    u.request w = (u.atSlices w).tierRequest tr { w with arrived := (u.atSlices w).now } := by
  unfold State.request
  rw [if_pos (Waiting.homed_of_tier ht)]
  dsimp only
  rw [show (u.atSlices w).requestFault { w with arrived := (u.atSlices w).now } = none from hf]
  rcases tier_region ht with h | h <;> rcases ha with ha | ⟨data, ha⟩ <;> simp only [h, ha, ht]

end Tier

/-- A request whose regulator has nothing left is held. -/
theorem State.tierRequest_held {x : State} {w : Waiting} {tr : Tier} (hu : w.uncharged = false) (hh : x.heldBack tr w.req.part.val = true) :
    x.tierRequest tr w = x.keep tr w := by
  exact if_pos (by rw [hu, hh]; rfl)

theorem State.charged_pausedFor (x : State) (tr : Tier) (w v : Waiting) : (x.charged tr w).pausedFor tr v = x.pausedFor tr v := by
  unfold State.charged
  split
  · rfl
  · exact charge_paused _ _ _ _ _

theorem State.charged_waiting (x : State) (tr : Tier) (w : Waiting) : ((x.charged tr w).tier tr).waiting = (x.tier tr).waiting := by
  unfold State.charged
  split
  · rfl
  · exact charge_waiting _ _ _ _

theorem State.charged_now (x : State) (tr : Tier) (w : Waiting) : (x.charged tr w).now = x.now := by
  unfold State.charged
  split
  · rfl
  · exact State.charge_now _ _ _ _

theorem State.charged_firstLost (x : State) (tr : Tier) (w : Waiting) (a l : Nat) : (x.charged tr w).firstLost tr a l = x.firstLost tr a l := by
  unfold State.charged
  split
  · rfl
  · exact charge_lost _ _ _ _ _ _

theorem State.charged_deadMet (x : State) (tr : Tier) (w : Waiting) (act : MemAct) (a l : Nat) :
    (x.charged tr w).deadMet tr act a l = x.deadMet tr act a l := by
  unfold State.charged
  split
  · rfl
  · exact charge_dead _ _ _ _ _ _ _

/-- A request that is admitted, but is late, paused or behind another, waits with its bytes charged. -/
theorem State.tierRequest_waits {x : State} {w : Waiting} {tr : Tier} (hu : w.uncharged = true ∨ x.heldBack tr w.req.part.val = false)
    (hw : w.late = true ∨ x.pausedFor tr w = true ∨ w.behind (x.tier tr).waiting = true) :
    x.tierRequest tr w = (x.charged tr w).keep tr { w with admitted := some x.now } := by
  have hgo : ¬((!w.uncharged && x.heldBack tr w.req.part.val) = true) := by
    rcases hu with h | h <;> simp [h]
  have hmay : ∀ n, (x.charged tr w).mayPerform tr ((x.charged tr w).tier tr).waiting { w with admitted := some n } = false := by
    intro n
    have hpaused : (x.charged tr w).pausedFor tr { w with admitted := some n } = x.pausedFor tr w := State.charged_pausedFor _ _ _ _
    have hbehind : Waiting.behind { w with admitted := some n } ((x.charged tr w).tier tr).waiting = w.behind (x.tier tr).waiting := by
      rw [State.charged_waiting]
      rfl
    unfold State.mayPerform
    rw [hpaused, hbehind]
    rcases hw with h | h | h <;> simp [h]
  rw [← State.charged_now x tr w]
  exact (if_neg hgo).trans (if_neg (Bool.eq_false_iff.mp (hmay _)))

/-- A request performed on an uncorrectable codeword is answered F_MEM_UE in the state its judging leaves. -/
theorem State.perform_bad {y : State} {tr : Tier} {w : Waiting} {b : Nat} (hlost : y.firstLost tr w.req.da w.bytes = none)
    (hdead : y.deadMet tr w.act w.req.da w.bytes = none) {j : Judged}
    (hj : j = y.judgeWords tr (w.req.da / tr.word * tr.word) w.errs ((errWords tr w.req.da w.bytes w.errs).filter (w.act.judges tr w.req.da w.bytes)))
    (hb : j.bad = some b) : y.perform tr w = j.s.refuse w F.memUe b := by
  subst hj
  unfold State.perform
  simp only [hlost, hdead, hb]

theorem store_rest {y : State} {a : Nat} {bs : List Byte} (h : a < atticBase ∨ shelfBase ≤ a) :
    (y.store a bs).SameBlocks y ∧ (y.store a bs).outbox = y.outbox := by
  rw [store_plain h]
  exact ⟨⟨rfl, rfl, rfl, rfl, rfl, rfl, rfl, rfl⟩, rfl⟩

/-! ### A request to Shelf or Attic -/

section Elsewhere
variable {u : State} {w : Waiting} {e ofs : Nat} {data : List Byte}

/-- A request inside an engine's Shelf is not refused. -/
theorem State.requestFault_shelf (hr : regionOf w.req.da = .shelf e ofs) (hin : ofs + w.bytes ≤ 0x600000) : u.requestFault w = none := by
  have htier : tierOf w.req.da = none := by rw [tierOf, hr]
  unfold State.requestFault State.memFault
  rw [htier, hr]
  cases w.req.who <;> exact if_pos hin

theorem Waiting.homed_shelf (hr : regionOf w.req.da = .shelf e ofs) : w.homed = false := by
  unfold Waiting.homed
  rw [hr]
  exact decide_eq_false (by simp)

theorem State.request_shelf_read (hr : regionOf w.req.da = .shelf e ofs) (hin : ofs + w.req.len ≤ 0x600000)
    (hdead : u.deadWord w.req.da w.req.len = none) (ha : w.act = .read) :
    u.request w = u.answer { w with arrived := u.now } 0 0 (u.load w.req.da w.req.len) := by
  have hbytes : w.bytes = w.req.len := by rw [Waiting.bytes, ha]
  unfold State.request
  rw [Waiting.homed_shelf hr, if_neg Bool.false_ne_true]
  dsimp only
  rw [State.requestFault_shelf (w := { w with arrived := u.now }) hr (hbytes ▸ hin)]
  simp only [hr, ha, hdead]

theorem State.request_shelf_write (hr : regionOf w.req.da = .shelf e ofs) (hin : ofs + data.length ≤ 0x600000) (ha : w.act = .write data) :
    u.request w = (u.windowStore w.req.da data).answer { w with arrived := u.now } 0 0 [] := by
  have hbytes : w.bytes = data.length := by rw [Waiting.bytes, ha]; rfl
  unfold State.request
  rw [Waiting.homed_shelf hr, if_neg Bool.false_ne_true]
  dsimp only
  rw [State.requestFault_shelf (w := { w with arrived := u.now }) hr (hbytes ▸ hin)]
  simp only [hr, ha]

theorem Waiting.homed_attic (hr : regionOf w.req.da = .attic) : w.homed = true := by
  unfold Waiting.homed
  rw [hr]
  rfl

variable (hr : regionOf w.req.da = .attic) (hf : (u.atSlices w).requestFault w = none)
include hr hf

theorem State.request_attic_read (ha : w.act = .read) :
    u.request w = ((u.atSlices w).atticRead { w with arrived := (u.atSlices w).now }).serveAttic := by
  unfold State.request
  rw [if_pos (Waiting.homed_attic hr)]
  dsimp only
  rw [show (u.atSlices w).requestFault { w with arrived := (u.atSlices w).now } = none from hf]
  simp only [hr, ha]

theorem State.request_attic_write (ha : w.act = .write data) :
    u.request w = (((u.atSlices w).store w.req.da data).sentFor (u.atSlices w).attic.writes.length
      { w with arrived := (u.atSlices w).now }).answer { w with arrived := (u.atSlices w).now } 0 0 [] := by
  unfold State.request
  rw [if_pos (Waiting.homed_attic hr)]
  dsimp only
  rw [show (u.atSlices w).requestFault { w with arrived := (u.atSlices w).now } = none from hf]
  simp only [hr, ha]

end Elsewhere

/-! ### The commands -/

/-- MEM_READ and MEM_WRITE by which it is. -/
def memInstr (t : Nat) (r : MemReq) (data : List Byte) (write : Bool) (errs : List SymErr) (late : Bool) : Instr :=
  if write then Instr.memWrite t r data errs late else .memRead t r errs late

/-- What a MEM_READ or MEM_WRITE asks for. -/
def memAct (data : List Byte) (write : Bool) : MemAct := if write then .write data else .read

theorem memAct_plain (data : List Byte) (write : Bool) : (memAct data write).plain := by
  cases write with
  | false => exact .inl rfl
  | true => exact .inr ⟨data, rfl⟩

section MemExec
variable {s u : State} {t : Nat} {r : MemReq} {data : List Byte} {write late : Bool} {errs : List SymErr} (h : s.RunsAt t u)
include h

theorem exec_mem : exec (memInstr t r data write errs late) s = .next (match tierOf r.da with
    | some tr => if u.outstanding tr r.id then (if late then u else u.arrive tr r.id errs)
        else u.request { req := r, act := memAct data write, errs := errs, late := late }
    | none => u.request { req := r, act := memAct data write, errs := errs, late := late }) := by
  obtain ⟨rfl, hs⟩ := h
  cases write with
  | false => exact gate_next hs
  | true => exact gate_next hs

theorem exec_mem_requests {tr : Tier} (ht : tierOf r.da = some tr) (ho : u.outstanding tr r.id = false) :
    exec (memInstr t r data write errs late) s = .next (u.request { req := r, act := memAct data write, errs := errs, late := late }) := by
  rw [exec_mem h, ht]
  exact congrArg Host.Outcome.next (if_neg (by rw [ho]; exact Bool.false_ne_true))

theorem exec_mem_elsewhere (ht : tierOf r.da = none) :
    exec (memInstr t r data write errs late) s = .next (u.request { req := r, act := memAct data write, errs := errs, late := late }) := by
  rw [exec_mem h, ht]

end MemExec

/-- Settles O29: a request by what the controller, the regulator and the channel say, and by its region. -/
theorem memoryRequests : Obligations.MemoryRequests := by
  intro s u t r data h hinv next act cmd
  refine ⟨fun tr write errs late htier => ?_, fun e ofs late hr hwho => ?_, fun hr write => ?_⟩
  · intro w x v charged run
    have hplain : w.act.plain := memAct_plain data write
    refine ⟨fun ho => ?_, fun ho => ?_⟩
    · have hrun : run = next (u.request w) := exec_mem_requests h htier ho
      refine ⟨fun c b hf => ?_, fun hf hu hh => ?_, fun hf hu hw => ?_, fun hg herrs => ⟨fun hwr => ?_, fun hwr => ?_⟩, fun j b hg hj hb => ?_⟩
      · refine ⟨_, hrun.trans (congrArg next ((State.request_refused htier hf).trans (State.refuse_plain hplain c b))), ?_⟩
        exact State.answer_same rfl rfl c b []
      · rw [hrun, State.request_tier htier hf hplain]
        exact congrArg next (State.tierRequest_held hu hh)
      · rw [hrun, State.request_tier htier hf hplain]
        exact congrArg next (State.tierRequest_waits (w := v) hu hw)
      · subst hwr
        refine (hrun.trans (congrArg next (request_done htier herrs hg))).trans (congrArg next ?_)
        refine (State.answer_good rfl rfl 0 _).trans ?_
        rw [State.load_congr (turn_same x tr w).2.1]
        rfl
      · subst hwr
        obtain ⟨hblocks, hmem, hbox⟩ := turn_same x tr w
        have hloc := plain_of_region (tier_region htier)
        have hwf : Memory.wf (x.charged tr w).mem := (show (x.charged tr w).mem = x.mem from hmem) ▸ (State.atSlices_inv hinv).1
        have hdone := (hrun.trans (congrArg next (request_done htier herrs hg))).trans (congrArg next (State.answer_good rfl rfl 0 _))
        refine ⟨_, hdone, ?_, load_store hwf hloc, fun b hb => (store_outside hwf hloc b hb).trans (State.byteAt_congr hmem b), ?_⟩
        · exact congrArg (List.cons _) ((store_rest hloc).2.trans hbox)
        · exact State.SameBlocks.trans (store_rest hloc).1 hblocks
      · obtain ⟨-, -, -, -, -, hlost, hdead⟩ := id hg
        have hbad := State.perform_bad (w := { v with admitted := some x.now }) ((State.charged_firstLost _ _ _ _ _).trans hlost)
          ((State.charged_deadMet _ _ _ _ _ _).trans hdead) hj hb
        have hdone := hrun.trans (congrArg next ((request_goes htier hg).trans (hbad.trans (State.refuse_plain hplain _ _))))
        exact ⟨_, hdone, State.answer_same rfl rfl _ _ _⟩
    · rw [show run = _ from exec_mem h, htier]
      exact congrArg next (if_pos ho)
  · have htier : tierOf r.da = none := by rw [tierOf, hr]
    refine ⟨fun hin hdead => ?_, fun hin => ?_⟩
    · refine (exec_mem_elsewhere (data := data) (write := false) h htier).trans (congrArg next ?_)
      exact (State.request_shelf_read hr hin hdead rfl).trans (State.answer_good rfl rfl 0 _)
    · refine (exec_mem_elsewhere (write := true) h htier).trans (congrArg next ?_)
      exact (State.request_shelf_write hr hin rfl).trans (State.answer_good rfl rfl 0 _)
  · have htier : tierOf r.da = none := by rw [tierOf, hr]
    intro w x v hf
    refine ⟨fun hwr => ?_, fun hwr => ?_⟩
    · subst hwr
      refine (exec_mem_elsewhere (data := data) (write := false) h htier).trans (congrArg next ?_)
      exact State.request_attic_read hr hf rfl
    · subst hwr
      refine (exec_mem_elsewhere (write := true) h htier).trans (congrArg next ?_)
      exact (State.request_attic_write hr hf rfl).trans (State.answer_good rfl rfl 0 _)

end Sys2Proof.Machine
end

section
/-! SUPPORT. Regulators and timeouts (O31), failed channels and map-out (O32), scrubbing, calibration and refresh (O33). -/

namespace Sys2Proof.Machine

@[simp] theorem State.tier_setTier (s : State) (tr : Tier) (x : TierSt) : (s.setTier tr x).tier tr = x := by
  cases tr <;> rfl

@[simp] theorem State.queues_setTier (s : State) (tr : Tier) (x : TierSt) : (s.setTier tr x).queues = s.queues := by
  cases tr <;> rfl

/-! ### Regulators -/

section Refill
variable {u : State} {tr : Tier} {p : Nat}

/-- The level a bucket is refilled to: RATE in force × 1,000 bytes more, clipped to its depth (R80). -/
def State.refilledLevel (u : State) (tr : Tier) (p : Nat) : Int :=
  min ((u.tier tr).buckets.getD p 0 + (u.rateInForce tr p * 1000 : Nat)) (u.bucketDepth tr p : Int)

/-- The state right after a bucket is refilled. -/
def State.refilled (u : State) (tr : Tier) (p : Nat) : State :=
  u.setTier tr { u.tier tr with buckets := (u.tier tr).buckets.set p (u.refilledLevel tr p), refilled := (u.tier tr).refilled.set p u.now }

theorem State.refill_due (h : (u.tier tr).refilled.getD p 0 + us 1 ≤ u.now) :
    u.refill tr p = (((u.refilled tr p).admitHeld tr p (u.tier tr).waiting.length).settleTier tr).admitOps tr p := by
  have hwait : ((u.refilled tr p).tier tr).waiting.length = (u.tier tr).waiting.length := by
    rw [State.refilled, State.tier_setTier]
  rw [← hwait]
  exact if_neg (Nat.not_lt.mpr h)

/-- With nothing held, the new level is the whole effect. -/
theorem State.refilled_admits_none (hw : (u.tier tr).waiting = []) (hq : u.queues = []) :
    (((u.refilled tr p).admitHeld tr p (u.tier tr).waiting.length).settleTier tr).admitOps tr p = u.refilled tr p := by
  have hwait : ((u.refilled tr p).tier tr).waiting = [] := by rw [State.refilled, State.tier_setTier, hw]
  have hqueues : (u.refilled tr p).queues = [] := by rw [State.refilled, State.queues_setTier, hq]
  rw [hw, List.length_nil, admitHeld_none, State.settleTier, hwait, List.length_nil, State.performReady, State.admitOps, hqueues]
  rfl

theorem State.admitHeld_heldBack (h : u.rateInForce tr p = 0 ∨ (u.tier tr).buckets.getD p 0 ≤ 0) (k : Nat) : u.admitHeld tr p k = u := by
  cases k with
  | zero => rfl
  | succ k =>
    refine if_pos ?_
    rw [State.heldBack, Bool.or_eq_true, decide_eq_true_eq, decide_eq_true_eq]
    exact h.symm

end Refill

/-! ### Timeouts -/

section Timeout
variable {u : State} {tr : Tier} {id : Nat} {w : Waiting} {a : Nat}

theorem State.timeoutAt_none (h : (u.tier tr).waiting.find? (fun w => decide (w.req.id = id)) = none) : u.timeoutAt tr id = u := by
  unfold State.timeoutAt
  simp only [h]

theorem State.timeoutAt_early (h : (u.tier tr).waiting.find? (fun w => decide (w.req.id = id)) = some w) (ha : w.admitted = some a)
    (hlt : u.now < a + us (u.fld (tr.reg Reg.pntTimeout Reg.celTimeout) 9 0)) : u.timeoutAt tr id = u := by
  unfold State.timeoutAt
  simp only [h, ha, if_pos hlt]

/-- How a timeout ends in z, which the request has left. -/
def timeoutEnds (tr : Tier) (w : Waiting) (z : State) : State :=
  (((z.event (tr.reg Reg.pntIntStatus Reg.celIntStatus) 2).channelEvent tr w.req.da).refuse w F.memTimeout w.req.da).settleTier tr

theorem State.timeoutAt_due (h : (u.tier tr).waiting.find? (fun w => decide (w.req.id = id)) = some w) (ha : w.admitted = some a)
    (hge : a + us (u.fld (tr.reg Reg.pntTimeout Reg.celTimeout) 9 0) ≤ u.now) : u.timeoutAt tr id = timeoutEnds tr w (timedOut u tr id w) := by
  unfold State.timeoutAt
  simp only [h, ha, if_neg (Nat.not_lt.mpr hge)]
  cases tr <;> rfl

end Timeout

/-- Settles O31: a bucket by the time since its last refill, a request by the time since it was admitted. -/
theorem regulatorsRefillAndRequestsTimeOut : Obligations.RegulatorsRefillAndRequestsTimeOut := by
  intro s u t tr p id h x level v
  refine ⟨fun hd => ?_, fun hd hw hq => ?_, fun hlt => ?_, fun k hh => State.admitHeld_heldBack hh k, live_next h, State.timeoutAt_none,
    fun w a hw ha => ?_⟩
  · exact (live_next h).trans (congrArg Host.Outcome.next (State.refill_due hd))
  · exact (live_next h).trans (congrArg Host.Outcome.next ((State.refill_due hd).trans (State.refilled_admits_none hw hq)))
  · exact (live_next h).trans (congrArg Host.Outcome.next (if_pos hlt))
  · intro due y z ends
    refine ⟨State.timeoutAt_early hw ha, fun hd hact => ?_, fun d hd hact => ?_⟩
    · refine (State.timeoutAt_due hw ha hd).trans (congrArg (timeoutEnds tr w) ?_)
      unfold timedOut
      cases hc : w.act with
      | write d => exact absurd hc (hact d)
      | _ => rfl
    · rw [State.timeoutAt_due hw ha hd]
      unfold timedOut
      rw [hact]
      dsimp only
      split
      · exact .inr rfl
      · exact .inl rfl

/-! ### Failed channels and map-out -/

section Channels
variable {s u : State} {tr : Tier} {t : Nat}

theorem exec_channelFail {ch : Fin 256} (h : s.RunsAt t u) (hch : ch.val < tr.channels) (hin : u.mappedOut tr ch = false)
    (hok : ch.val ∉ (u.tier tr).failed) (training : Bool) :
    exec (.channelFail t tr ch training) s = .next (
      if training && !bit (u.rd (tr.reg Reg.pntStatus Reg.celStatus)) 1 then u.failTraining tr ch
      else if !training && bit (u.rd (tr.reg Reg.pntStatus Reg.celStatus)) 1 &&
        decide (u.fld (tr.reg Reg.pntFailThresh Reg.celFailThresh) 7 0 ≤ u.recentEvents tr ch) then u.failChannel tr ch
      else u) := by
  obtain ⟨rfl, hs⟩ := h
  refine (gate_next hs).trans (congrArg Host.Outcome.next (if_neg ?_))
  rintro (hge | hout | hfail)
  · exact absurd hch (Nat.not_lt.mpr hge)
  · exact Bool.false_ne_true (hin.symm.trans hout)
  · exact hok hfail

/-- What a channel's failure leaves before the requests that waited for it are performed. -/
def State.markFailed (u : State) (tr : Tier) (ch : Nat) : State :=
  let y := u.raiseChannel tr ch 1 (u.recentEvents tr ch)
  let z := y.setTier tr { y.tier tr with failed := (y.tier tr).failed ++ [ch] }
  if tr = .cellar then (z.setBit Reg.celStatus 4 true).event Reg.celIntStatus 6 else z

theorem State.failChannel_marked (u : State) (tr : Tier) (ch : Nat) :
    u.failChannel tr ch = ((u.markFailed tr ch).performKept tr fun w =>
      w.admitted.isSome && decide (tr.channelOf ((u.markFailed tr ch).targetUnit tr w.req.da) = ch)).settleTier tr := by
  cases tr <;> rfl

theorem State.tier_caughtUp (u : State) (tr : Tier) : (u.caughtUp tr).tier tr = u.tier tr := by
  rw [State.caughtUp]
  split
  · cases tr <;> rfl
  · rfl

theorem State.dead_fixRange (u : State) (tr : Tier) (dead : List Nat) : ((u.fixRange tr dead).tier tr).dead = dead := by
  rw [State.fixRange, State.tier_caughtUp]
  cases tr <;> rfl

/-- What a commit that adds a dead unit leaves, before the contexts on displaced granules are lost. -/
def State.committed (u : State) (tr : Tier) : State :=
  let y := (u.fixRange tr (u.mapoutUnits tr)).setBit (tr.reg Reg.pntStatus Reg.celStatus) 2 true
  { y with mem := y.mem.filter fun c => !(displaced tr (u.mapoutUnits tr) c.1) }

theorem State.dead_committed (u : State) (tr : Tier) : ((u.committed tr).tier tr).dead = u.mapoutUnits tr :=
  Eq.trans (by cases tr <;> rfl) (u.dead_fixRange tr (u.mapoutUnits tr))

theorem State.mapCommit_adds (hidle : bit (u.rd (tr.reg Reg.pntStatus Reg.celStatus)) 2 = false)
    (hnew : (u.mapoutUnits tr).all (· ∈ (u.tier tr).dead) = false) : u.mapCommit tr = u.committed tr := by
  rw [State.mapCommit, if_neg (Bool.eq_false_iff.mp hidle)]
  exact if_neg (Bool.eq_false_iff.mp hnew)

theorem State.writeMapCommit_adds (hidle : bit (u.rd (tr.reg Reg.pntStatus Reg.celStatus)) 2 = false)
    (hnew : (u.mapoutUnits tr).all (· ∈ (u.tier tr).dead) = false) :
    u.writeMapCommit tr 1 = (u.committed tr).loseDisplaced (displaced tr (u.mapoutUnits tr)) := by
  have hchanged : u.mapoutUnits tr ≠ (u.tier tr).dead := by
    intro heq
    rw [heq, List.all_eq_false] at hnew
    obtain ⟨x, hx, hnot⟩ := hnew
    exact hnot (decide_eq_true hx)
  refine (if_neg (by decide)).trans ?_
  simp only [State.mapCommit_adds hidle hnew, State.dead_committed]
  exact if_neg hchanged

end Channels

/-- Settles O32: a failed channel by whether READY is set, a commit by the dead units it adds, and its end by MAP_BUSY. -/
theorem channelsFailAndAreMappedOut : Obligations.ChannelsFailAndAreMappedOut := by
  intro s u t ag tr ch st x
  refine ⟨fun h hch hin hok => ⟨fun hready hmany => ?_, fun hidle => ?_⟩, fun h hm hidle hnew => ?_, fun h hbusy => ?_⟩
  · intro y z z'
    rw [exec_channelFail h hch hin hok, hready, decide_eq_true hmany]
    exact congrArg Host.Outcome.next (u.failChannel_marked tr ch)
  · rw [exec_channelFail h hch hin hok, hidle]
    rfl
  · rw [exec_mapCommit h hm, State.writeMapCommit_adds hidle hnew]
    rfl
  · refine (live_next h).trans (congrArg Host.Outcome.next ((if_neg (by rw [hbusy]; decide)).trans ?_))
    cases tr with
    | pantry => rfl
    | cellar => simp only [List.isEmpty_iff, true_and]; rfl

/-! ### Scrubbing, calibration and Larder fills -/

theorem judgeWords_nil (x : State) (tr : Tier) (base len : Nat) :
    x.judgeWords tr base [] (errWords tr base len []) = { s := x } := by
  rw [errWords_nil]
  rfl

@[simp] theorem State.mem_setTier (s : State) (tr : Tier) (x : TierSt) : (s.setTier tr x).mem = s.mem := by
  cases tr <;> rfl

theorem State.mem_caughtUp (u : State) (tr : Tier) : (u.caughtUp tr).mem = u.mem := by
  rw [State.caughtUp]
  split <;> rfl

theorem State.mem_noteScrub (y : State) (tr : Tier) (unit : Nat) : (y.noteScrub tr unit).mem = y.mem := by
  rw [State.noteScrub, State.mem_caughtUp]
  refine Eq.trans (b := (ite _ _ _ : State).mem) rfl ?_
  split
  · exact State.mem_setTier ..
  · exact State.mem_setTier ..

section Scrub
variable {u : State} {tr : Tier} {a ch : Nat}

/-- What a scrub of the granule at base leaves, from the state y in which it has its place in the cycle. -/
def State.scrubbed (y : State) (tr : Tier) (base unit : Nat) (errs : List SymErr) (overtaken : Bool) : State :=
  let j := y.judgeWords tr base errs (errWords tr base tr.granule errs)
  (if overtaken then j.s else j.s.storeDiffs tr j.diffs).noteScrub tr unit

/-- A granule with no word in error is only noted. -/
theorem State.scrubbed_clean (y : State) (tr : Tier) (base unit : Nat) (overtaken : Bool) :
    y.scrubbed tr base unit [] overtaken = y.noteScrub tr unit := by
  rw [State.scrubbed, judgeWords_nil]
  cases overtaken <;> rfl

theorem State.scrub_inService (hon : bit (u.rd (tr.reg Reg.pntCtrl Reg.celCtrl)) 0 = true) (ha : tierOf a = some tr)
    (hf : u.tierFault tr (a / tr.granule * tr.granule) tr.granule = none)
    (hch : tr.channelOf (u.targetUnit tr (a / tr.granule * tr.granule)) ∉ (u.tier tr).failed)
    (hp : (u.tier tr).paused.any (fun c => decide (c.1 = tr.channelOf (u.targetUnit tr (a / tr.granule * tr.granule))) &&
      decide (u.now < c.2 + pauseLimit)) = false) (errs : List SymErr) (overtaken : Bool) :
    u.scrub tr a errs overtaken =
      ((linesOf (a / tr.granule * tr.granule) tr.granule).foldl (fun s x => s.inOrder (slicePlace x.1) scrubRank) u).scrubbed tr
        (a / tr.granule * tr.granule) (u.targetUnit tr (a / tr.granule * tr.granule)) errs overtaken := by
  refine if_neg ?_
  rw [hon, hf, hp]
  rintro (h | h | h | h | h)
  · exact Bool.false_ne_true h
  · exact h ha
  · exact Bool.false_ne_true h
  · exact hch h
  · exact Bool.false_ne_true h

theorem State.floorEnd_off (h : bit (u.rd (tr.reg Reg.pntCtrl Reg.celCtrl)) 0 = false ∨ u.now < (u.tier tr).floorAt + u.floorLength tr) :
    u.floorEnd tr = u := by
  refine if_pos ?_
  rcases h with h | h
  · exact .inl (by rw [h]; rfl)
  · exact .inr (.inr h)

theorem State.floorEnd_due (hon : bit (u.rd (tr.reg Reg.pntCtrl Reg.celCtrl)) 0 = true)
    (hready : bit (u.rd (tr.reg Reg.pntStatus Reg.celStatus)) 1 = true) (hdue : (u.tier tr).floorAt + u.floorLength tr ≤ u.now) :
    u.floorEnd tr = if (u.unscrubbed tr).isEmpty then u.setTier tr { u.tier tr with scrubbed := [], floorAt := u.now } else
      ((u.setBit (tr.reg Reg.pntStatus Reg.celStatus) 3 true).event (tr.reg Reg.pntIntStatus Reg.celIntStatus) 5).setTier tr
        { u.tier tr with scrubbed := [], floorAt := u.now } := by
  refine (if_neg ?_).trans ?_
  · rw [hon, hready]
    rintro (h | h | h)
    · exact Bool.false_ne_true h
    · exact Bool.false_ne_true h
    · exact absurd hdue (Nat.not_le.mpr h)
  · dsimp only
    split <;> cases tr <;> rfl

theorem State.calibrate_free (hch : ch < tr.channels) (hin : u.mappedOut tr ch = false)
    (hp : (u.tier tr).paused.any (fun c => decide (tr.dieOf c.1 = tr.dieOf ch) && decide (u.now < c.2 + pauseLimit)) = false) :
    u.calibrate tr ch = u.setTier tr { u.tier tr with
      paused := (ch, u.now) :: (u.tier tr).paused.filter fun c => decide (u.now < c.2 + pauseLimit) } := by
  refine if_neg ?_
  rw [hin, hp]
  rintro (h | h | h)
  · exact absurd hch (Nat.not_lt.mpr h)
  · exact Bool.false_ne_true h
  · exact Bool.false_ne_true h

theorem State.calibrated_paused (h : (u.tier tr).paused.any (fun c => decide (c.1 = ch)) = true) :
    u.calibrated tr ch =
      (u.setTier tr { u.tier tr with paused := (u.tier tr).paused.filter fun c => decide (c.1 ≠ ch) }).settleTier tr :=
  if_neg (by rw [h]; decide)

theorem State.calibrated_free (h : (u.tier tr).paused.any (fun c => decide (c.1 = ch)) = false) : u.calibrated tr ch = u :=
  if_pos (by rw [h]; decide)

/-- The end of a calibration in y answers a request for it. -/
def State.answersRequest (y : State) (kind ch : Nat) : State :=
  if y.health.requests.contains (kind, ch) then (y.takeRequest kind ch).postResult kind ch true 0 0 else y

theorem State.calibrationDone_paused (h : (u.tier tr).paused.any (fun c => decide (c.1 = ch)) = true) :
    u.calibrationDone tr ch =
      ((u.setTier tr { u.tier tr with paused := (u.tier tr).paused.filter fun c => decide (c.1 ≠ ch) }).settleTier tr).answersRequest
        (if tr = .pantry then 2 else 3) ch := by
  rw [← State.calibrated_paused h]
  unfold State.calibrationDone
  simp only [h, Bool.true_and]
  cases tr <;> rfl

theorem State.calibrationDone_free (h : (u.tier tr).paused.any (fun c => decide (c.1 = ch)) = false) : u.calibrationDone tr ch = u := by
  unfold State.calibrationDone
  simp only [h, Bool.false_and, Bool.false_eq_true, if_false]
  exact State.calibrated_free h

theorem State.larderFill_tier {line die : Nat} (hl : a / 256 * 256 = line) (ht : tierOf a = some tr) (hf : u.memFault line 256 = none)
    (errs : List SymErr) : u.larderFill die a errs =
      let j := u.judgeWords tr line errs (errWords tr line 256 errs)
      match j.bad with
      | none =>
        let s := j.s.storeDiffs tr j.diffs
        { s with larder := tabSet (fun _ => false) s.larder (2 * (line / 256) + die) true }
      | some b =>
        let x := j.s.tier tr
        let hit := fun (w : Waiting) => decide (w.req.da < line + 256) && decide (line < w.req.da + w.bytes)
        let s := j.s.setTier tr { x with waiting := x.waiting.filter fun w => !hit w }
        ((x.waiting.filter hit).foldl (fun s w => s.refuse w F.memUe b) s).settleTier tr := by
  subst hl
  unfold State.larderFill
  simp only [ht]
  exact if_neg (by rw [hf]; exact Bool.false_ne_true)

end Scrub

/-- Settles O33: each command by the rule of its own part of the tier. -/
theorem scrubCalibrationAndRefresh : Obligations.ScrubCalibrationAndRefresh := by
  intro s u t tr a errs overtaken ch die h x ctrl st base unit line paused
  refine ⟨fun hon ha hf hch hp => ?_, fun hon hready hdue => ?_, fun hoff => ?_, fun hon => ?_, fun hch hin hp => ?_, fun hch hp => ?_,
    fun hp => ?_, fun hp => ?_, fun n k => ?_, fun ht hf => ⟨?_, fun b hb => ?_⟩⟩
  · intro y j
    have hs : ∀ es, exec (.scrubGranule t tr a es overtaken) s = .next (y.scrubbed tr base unit es overtaken) :=
      fun es => (live_next h).trans (congrArg Host.Outcome.next (State.scrub_inService hon ha hf hch hp es overtaken))
    exact ⟨hs errs, (hs []).trans (congrArg Host.Outcome.next (y.scrubbed_clean tr base unit overtaken)), State.mem_noteScrub y tr unit⟩
  · exact (live_next h).trans (congrArg Host.Outcome.next (State.floorEnd_due hon hready hdue))
  · exact (live_next h).trans (congrArg Host.Outcome.next (State.floorEnd_off hoff))
  · obtain ⟨rfl, hs⟩ := h
    exact ⟨(gate_next hs).trans (congrArg Host.Outcome.next (if_pos hon)), (gate_next hs).trans (congrArg Host.Outcome.next (if_pos hon)),
      (gate_next hs).trans (congrArg Host.Outcome.next (if_pos hon))⟩
  · exact (live_next h).trans (congrArg Host.Outcome.next (State.calibrate_free hch hin hp))
  · exact (live_next h).trans (congrArg Host.Outcome.next (if_pos (.inr (.inr hp))))
  · exact (live_next h).trans (congrArg Host.Outcome.next (State.calibrationDone_paused hp))
  · refine (live_next h).trans (congrArg Host.Outcome.next (State.calibrationDone_free hp))
  · obtain ⟨rfl, hs⟩ := h
    exact gate_next hs
  · refine (live_next h).trans (congrArg Host.Outcome.next ((State.larderFill_tier rfl ht hf []).trans ?_))
    rw [judgeWords_nil]
    rfl
  · intro y hit
    refine (live_next h).trans (congrArg Host.Outcome.next ((State.larderFill_tier rfl ht hf errs).trans ?_))
    dsimp only
    rw [hb]

end Sys2Proof.Machine
end

section
/-! SUPPORT. The boundaries of the tick (O34), its source and its slack (O35), the PTP client (O36). -/

namespace Sys2Proof.Machine

/-! ### What a tick that begins keeps -/

section BeginTick
variable {s : State} {b n : Nat}

theorem Begun.event (h : Begun s b n) {a : Nat} (ha : Reg.tckCount ≠ a) (i : Nat) : Begun (s.event a i) b n :=
  ⟨reads_wr h.reads ha, h.boundary, h.placed, h.gap, h.used⟩

theorem Begun.setLocked (h : Begun s b n) : Begun (s.setLocked b) b n := by
  have hbit : Begun (s.setBit Reg.tckStatus 2 (s.following && (decide (s.fld Reg.tckStatus 1 0 ≠ 1) ||
      decide ((s.ptpError b).natAbs ≤ 1000)))) b n := begun_wr h (by decide)
  unfold State.setLocked
  dsimp only
  split
  · exact hbit.event (by decide) 5
  · exact hbit

theorem Begun.placeNext (h : Begun s b n) : Begun (bt3 s b) b n := ⟨h.reads, h.boundary, h.placed, h.gap, h.used⟩

theorem Begun.noteOffset (h : Begun s b n) : Begun (bt4 s b) b n := by
  unfold bt4
  split
  · exact begun_wr h (by decide)
  · exact h

theorem Begun.noteStart (h : Begun s b n) : Begun (bt5 s b) b n := (begun_wr h (by decide)).event (by decide) 0

theorem Begun.raiseOut (h : Begun s b n) : Begun (bt6 s b) b n := by
  unfold bt6
  split
  · exact ⟨h.reads, h.boundary, h.placed, h.gap, h.used⟩
  · exact h

theorem Begun.restartPhases (h : Begun s b n) : Begun (s.restartPhases b) b n := by
  unfold State.restartPhases
  split
  · exact h
  · exact ⟨h.reads, h.boundary, h.placed, h.gap, h.used⟩

/-- TCK_COUNT as a tick begins: one more than before, and 0 for the first tick. -/
def State.countTick (c : State) : State :=
  if c.tick.placed then c.wr Reg.tckCount (c.rd Reg.tckCount + 1) else c.wr Reg.tckCount 0

theorem State.reads_countTick {c : State} (h : Registers.wf c.regs) :
    Reads c.countTick Reg.tckCount (if c.tick.placed then (c.rd Reg.tckCount + 1) % 2 ^ 64 else 0) := by
  unfold State.countTick
  split
  · exact reads_self h
  · exact reads_self (v := 0) h

theorem State.begun_opened {c : State} (h : Reads c Reg.tckCount n) : Begun (bt2 c b) b n := by
  have hopen : Begun { c with tick := { c.tick with boundary := b, placed := true, gap := false, bgUsed := 0 } } b n :=
    ⟨h, rfl, rfl, rfl, rfl⟩
  exact hopen.setLocked

theorem State.beginTick_parts (c : State) (b : Nat) :
    c.beginTick b = (bt6 (bt5 (bt4 (bt3 (bt2 c.countTick b) b) b) b) b).restartPhases b := rfl

theorem State.begun_beginTick {c : State} (h : Registers.wf c.regs) (b : Nat) :
    Begun (c.beginTick b) b (if c.tick.placed then (c.rd Reg.tckCount + 1) % 2 ^ 64 else 0) := by
  rw [State.beginTick_parts]
  exact (State.begun_opened (State.reads_countTick h)).placeNext.noteOffset.noteStart.raiseOut.restartPhases

end BeginTick

/-! ### The boundary -/

section Boundary
variable {u c : State} {b : Nat}

theorem State.fallDue_at (hon : u.tick.on = true) (hn : u.tick.next = some b) (hb : b ≤ u.now) : u.fallDue = u.boundary b := by
  unfold State.fallDue
  simp only [hon, hn, if_pos hb]

theorem State.fallDue_not (h : u.tick.on = false ∨ u.tick.next = none ∨ u.tick.next.any (fun b => decide (u.now < b)) = true) :
    u.fallDue = u := by
  unfold State.fallDue
  split
  next b hon hn =>
    rcases h with h | h | h
    · rw [hon] at h; cases h
    · rw [hn] at h; cases h
    · rw [hn] at h
      exact if_neg (Nat.not_le.mpr (of_decide_eq_true h))
  next => rfl

theorem State.activatePlan_takes {pl : Plan} (h : u.tick.pending = some pl) :
    u.activatePlan.tick.plan = some pl ∧ u.activatePlan.tick.pending = none := by
  unfold State.activatePlan
  simp only [h]
  exact ⟨rfl, rfl⟩

theorem State.activateDue_ready {pl : Plan} (h : u.tick.pending = some pl) (hb : u.tick.pendingAt + us 100 ≤ b) :
    u.activateDue b = u.activatePlan :=
  if_pos ⟨by rw [h]; rfl, hb⟩

theorem State.activateDue_early (hb : b < u.tick.pendingAt + us 100) : u.activateDue b = u :=
  if_neg fun h => absurd h.2 (Nat.not_le.mpr hb)

theorem State.tickBoundary_parts (u : State) (b : Nat) : u.tickBoundary b =
    (u.closeTick b).2.foldl postFault (((u.closeTick b).1.activateDue b).beginAt b) := by
  unfold State.tickBoundary
  generalize u.closeTick b = closed
  cases closed
  rfl

theorem State.beginAt_gap (hon : bit (c.rd Reg.tckCtrl) 0 = true) (hg : c.tick.gap = false) (hp : c.tick.placed = true)
    (hask : c.tick.srcReq.isSome = true ∨ c.tick.realign = true) : c.beginAt b = c.beginGap b :=
  (if_neg (by rw [hon]; decide)).trans (if_pos ⟨by rw [hg]; rfl, hp, hask⟩)

theorem State.beginAt_tick (hon : bit (c.rd Reg.tckCtrl) 0 = true)
    (h : c.tick.gap = true ∨ c.tick.placed = false ∨ (c.tick.srcReq = none ∧ c.tick.realign = false)) : c.beginAt b = c.beginTick b := by
  refine (if_neg (by rw [hon]; decide)).trans (if_neg ?_)
  rintro ⟨hgap, hplaced, hask⟩
  rcases h with h | h | ⟨hsrc, hre⟩
  · rw [h] at hgap; exact Bool.false_ne_true hgap
  · rw [h] at hplaced; exact Bool.false_ne_true hplaced
  · rw [hsrc, hre] at hask
    rcases hask with hask | hask <;> exact Bool.false_ne_true hask

end Boundary

/-- Settles O34: a boundary by what is asked of it, and a tick that begins by the parts of its beginning. -/
theorem tickBoundaries : Obligations.TickBoundaries := by
  refine ⟨fun s u t h => ?_, fun s u t h => ?_, fun u b => ?_, fun c b hwf => ?_⟩
  · obtain ⟨hrun, rfl⟩ := h
    refine ⟨fun b hon hn hb => ?_, fun hnot => ?_⟩
    · exact (live_next ⟨rfl, hrun⟩).trans (congrArg Host.Outcome.next (State.fallDue_at hon hn hb))
    · exact (live_next ⟨rfl, hrun⟩).trans (congrArg Host.Outcome.next (State.fallDue_not hnot))
  · refine ⟨fun pl hp hoff hat => ⟨?_, State.activatePlan_takes hp⟩, fun hnot => ?_⟩
    · exact (live_next h).trans (congrArg Host.Outcome.next (if_pos ⟨by rw [hp]; rfl, hoff, hat⟩))
    · refine (live_next h).trans (congrArg Host.Outcome.next (if_neg ?_))
      rintro ⟨hsome, hoff, hat⟩
      rcases hnot with hn | hn | hn
      · rw [hn] at hsome; exact Bool.false_ne_true hsome
      · exact Bool.false_ne_true (hoff.symm.trans hn)
      · exact absurd hat (Nat.not_le.mpr hn)
  · intro c posts
    have hparts : u.tickBoundary b = posts (c.beginAt b) := State.tickBoundary_parts u b
    refine ⟨fun hoff => ?_, fun hon hg hp hask => ?_, fun hon hnone => ?_, fun pl hp => ⟨fun hb => ?_, State.activateDue_early⟩⟩
    · exact hparts.trans (congrArg posts (if_pos hoff))
    · exact hparts.trans (congrArg posts (State.beginAt_gap hon hg hp hask))
    · exact hparts.trans (congrArg posts (State.beginAt_tick hon hnone))
    · rw [State.activateDue_ready hp hb]
      exact State.activatePlan_takes hp
  · obtain ⟨hreads, hboundary, hplaced, hgap, hused⟩ := State.begun_beginTick hwf b
    exact ⟨hreads.2, hboundary, hplaced, hgap, hused⟩

/-! ### The source of the ticks and the slack -/

section Source
variable {u : State}

theorem State.localNext_eq (u : State) : u.localNext =
    some (u.tick.next.getD (if u.tick.gap then max (u.tick.boundary + u.period) (u.now + us 10) else u.now + us 10)) := by
  unfold State.localNext
  cases u.tick.next <;> rfl

theorem State.sourceReturn_near {ofs : Int} (h : ofs.natAbs ≤ 10000000) : u.sourceReturn ofs =
    (((({ u with tick := { u.tick with lostAt := none, limitPassed := false } } : State).setBit Reg.tckStatus 3 false).setBit
      Reg.tckStatus 2 (decide (ofs.natAbs ≤ 1000))).event Reg.tckIntStatus 5) :=
  if_pos h

theorem State.sourceReturn_far {ofs : Int} (h : 10000000 < ofs.natAbs) : u.sourceReturn ofs =
    ({ u with tick := { u.tick with stayLocal := true } } : State).raiseTickSource :=
  if_neg (Nat.not_le.mpr h)

theorem State.slackFits_iff {d : Nat} :
    u.slackFits d = true ↔ u.tick.on = true ∧ u.tick.placed = true ∧ us (d + 10) ≤ u.slackLeft := by
  rw [State.slackFits, Bool.and_eq_true, Bool.and_eq_true, decide_eq_true_eq, and_assoc]

end Source

/-- Settles O35: each command under its own condition on the tick. -/
theorem tickSourcesAndSlack : Obligations.TickSourcesAndSlack := by
  intro s u t h
  refine ⟨fun c hl hon hlost hc => ?_, fun c hl hon hlim hc => ?_, fun ofs hon hlost hstay hhere => ?_,
    fun d es => ⟨fun hon hp hfit => ?_, fun hnot => ?_⟩, fun b hout hb => ?_⟩
  · intro local'
    obtain ⟨rfl, hs⟩ := h
    refine (gate_next hs).trans (congrArg Host.Outcome.next ?_)
    simp only [hl]
    refine (if_pos ⟨hon, hlost, hc⟩).trans ?_
    rw [State.sourceLost, State.localNext_eq]
  · obtain ⟨rfl, hs⟩ := h
    refine (gate_next hs).trans (congrArg Host.Outcome.next ?_)
    simp only [hl]
    exact if_pos ⟨hon, by rw [hlim]; rfl, hc⟩
  · have hreturn : exec (.sourceReturn t ofs) s = .next (u.sourceReturn ofs) := by
      obtain ⟨rfl, hs⟩ := h
      exact (gate_next hs).trans (congrArg Host.Outcome.next (if_pos ⟨hon, hlost, by rw [hstay]; rfl, hhere⟩))
    exact ⟨fun hn => hreturn.trans (congrArg Host.Outcome.next (State.sourceReturn_near hn)),
      fun hf => hreturn.trans (congrArg Host.Outcome.next (State.sourceReturn_far hf))⟩
  · exact (live_next h).trans (congrArg Host.Outcome.next (if_pos (State.slackFits_iff.mpr ⟨hon, hp, hfit⟩)))
  · refine (live_next h).trans (congrArg Host.Outcome.next (if_neg fun hfits => ?_))
    obtain ⟨hon, hp, hfit⟩ := State.slackFits_iff.mp hfits
    rcases hnot with hn | hn | hn
    · exact Bool.false_ne_true (hn.symm.trans hon)
    · exact Bool.false_ne_true (hn.symm.trans hp)
    · exact absurd hfit (Nat.not_le.mpr hn)
  · obtain ⟨rfl, hs⟩ := h
    refine (gate_next hs).trans (congrArg Host.Outcome.next ?_)
    simp only [hout]
    exact if_pos hb

/-! ### The PTP client -/

section Client
variable {s u v : State} {t : Nat} {x : RxItem}

/-- How a completed Sync moves the clock, and by how much: by the whole offset, or towards the master. -/
def State.clockMove (v : State) (off : Int) : State × Int :=
  if !v.ptp.everLocked || decide (10000000 < off.natAbs) then (v.moveClock (-off), -off) else v.slew off

/-- The state a completed Sync goes on with: a move that is far steps the timeline. -/
def State.clockMoved (v : State) (off : Int) : State :=
  if decide (10000000 < off.natAbs) && !(!v.ptp.everLocked) then ((v.clockMove off).1.event Reg.ingIntStatus 5).stepTimeline
  else (v.clockMove off).1

theorem State.completeSync_parts (v : State) (t1 t2 : Int) :
    let off := t2 - t1 - v.ing.client.path
    let y := v.clockMoved off
    let z := { y with ptp := { y.ptp with everLocked := true }, tick := { y.tick with heardPtp := y.now + 1 } }
    let w := (z.wr Reg.ingPtpOffset (ofSigned 64 off)).setBit Reg.ingStatus 2 (decide (off.natAbs ≤ 1000))
    v.completeSync t1 t2 = w.setClient { w.ing.client with sync := none, last := some (t1, t2 + (v.clockMove off).2), lastAt := w.now } := by
  unfold State.completeSync State.clockMoved State.clockMove
  dsimp only

theorem State.stepTimeline_keeps (v : State) : v.stepTimeline.ptp = v.ptp ∧ v.stepTimeline.now = v.now := by
  unfold State.stepTimeline
  split
  · obtain ⟨-, hnow, -, -, -, -, -, -, -, -, -, -, -, hptp, -⟩ :=
      postFault_units { v with tick := { v.tick with stayLocal := true } } { code := F.tickSource, cls := Class.degraded, block := Blk.tck }
    exact ⟨hptp, hnow⟩
  · exact ⟨rfl, rfl⟩

theorem State.clockMoved_keeps (v : State) (off : Int) :
    (v.clockMoved off).ptp = (v.clockMove off).1.ptp ∧ (v.clockMoved off).now = (v.clockMove off).1.now := by
  unfold State.clockMoved
  split
  · exact State.stepTimeline_keeps _
  · exact ⟨rfl, rfl⟩

theorem State.clockMove_now (v : State) (off : Int) : (v.clockMove off).1.now = v.now := by
  unfold State.clockMove
  split
  · rfl
  · obtain ⟨d, -, hnow, -⟩ := slew_moves v off
    exact hnow

/-- A client that never locked moves by the whole offset. -/
theorem State.clockMove_first (h : v.ptp.everLocked = false) (off : Int) : (v.clockMove off).1.ptp.offset - v.ptp.offset = -off := by
  unfold State.clockMove
  rw [if_pos (by rw [h]; rfl)]
  show v.ptp.offset + -off - v.ptp.offset = -off
  omega

theorem State.clockMove_locked (h : v.ptp.everLocked = true) {off : Int} (hnear : off.natAbs ≤ 10000000) :
    v.clockMove off = v.slew off := by
  refine if_neg ?_
  rw [h, decide_eq_false (Nat.not_lt.mpr hnear)]
  decide

/-- A locked client near its master moves towards it, by no more than the offset and 100 ppm of the time since the last Sync. -/
theorem State.clockMove_slews (h : v.ptp.everLocked = true) {off : Int} (hnear : off.natAbs ≤ 10000000) :
    let d := (v.clockMove off).1.ptp.offset - v.ptp.offset
    d.natAbs ≤ off.natAbs ∧ d.natAbs ≤ (v.now - v.ing.client.lastAt) / 11000 ∧ (0 < off → d ≤ 0) ∧ (off < 0 → 0 ≤ d) := by
  obtain ⟨d, hd, -, hbound⟩ := slew_moves v off
  intro d'
  have hmove : d' = d := by
    show (v.clockMove off).1.ptp.offset - v.ptp.offset = d
    rw [State.clockMove_locked h hnear, hd]
    omega
  rw [hmove]
  exact hbound

theorem State.ptpSync_twoStep (hm : v.fromMaster x.data = true) (h2 : bit (leField x.data 6 1) 1 = true) :
    v.ptpSync x = v.setClient { v.ing.client with sync := some (PtpMsg.seqId x.data, x.stamp, PtpMsg.corr x.data) } :=
  (if_neg (by rw [hm]; decide)).trans (if_pos h2)

theorem State.ptpSync_oneStep (hm : v.fromMaster x.data = true) (h2 : bit (leField x.data 6 1) 1 = false) :
    v.ptpSync x = v.completeSync (PtpMsg.time x.data + PtpMsg.corr x.data) x.stamp :=
  (if_neg (by rw [hm]; decide)).trans (if_neg (Bool.eq_false_iff.mp h2))

end Client

/-- Settles O36: each message as the client's state takes it, and a completed Sync by how it moves the clock. -/
theorem ptpClientFollowsItsMaster : Obligations.PtpClientFollowsItsMaster := by
  refine ⟨fun s u t h => ?_, fun v t1 t2 => ?_⟩
  · obtain ⟨rfl, hs⟩ := h
    refine ⟨fun x v hx hm => ⟨fun h2 => ?_, fun h2 => ?_⟩, fun x v n t2 c hx hsync hm hn => ?_,
      fun x v n t3 t1 t2 hx hsent hlast hm hn hown => ?_, fun x v hx => ?_, ?_, ?_⟩
    · refine (gate_next hs).trans (congrArg Host.Outcome.next ?_)
      simp only [hx]
      exact State.ptpSync_twoStep hm h2
    · refine (gate_next hs).trans (congrArg Host.Outcome.next ?_)
      simp only [hx]
      exact State.ptpSync_oneStep hm h2
    · refine (gate_next hs).trans (congrArg Host.Outcome.next ?_)
      simp only [hx, State.ptpFollowUp, hsync]
      exact if_pos ⟨hm, hn⟩
    · intro path every
      refine (gate_next hs).trans (congrArg Host.Outcome.next ?_)
      simp only [hx, State.ptpDelayResp, hsent, hlast]
      exact if_pos ⟨hm, hn, hown⟩
    · intro id m w
      refine (gate_next hs).trans (congrArg Host.Outcome.next ?_)
      simp only [hx]
      rfl
    · intro c n hsel hlast hdue
      exact (gate_next hs).trans (congrArg Host.Outcome.next (if_pos ⟨hsel, hlast, hdue⟩))
    · intro c m hm hdue
      refine (gate_next hs).trans (congrArg Host.Outcome.next ?_)
      simp only [c] at hm
      simp only [hm]
      exact if_pos hdue
  · intro off d
    have hptp : (v.completeSync t1 t2).ptp = { (v.clockMove off).1.ptp with everLocked := true } := by
      rw [State.completeSync_parts, ← (State.clockMoved_keeps v off).1]
      rfl
    have hheard : (v.completeSync t1 t2).tick.heardPtp = v.now + 1 := by
      rw [State.completeSync_parts, ← State.clockMove_now v off, ← (State.clockMoved_keeps v off).2]
      rfl
    have hd : d = (v.clockMove off).1.ptp.offset - v.ptp.offset := by
      show (v.completeSync t1 t2).ptp.offset - v.ptp.offset = _
      rw [hptp]
    refine ⟨by rw [hptp], hheard, fun hnever => ?_, fun hlocked hnear => ?_⟩
    · rw [hd]
      exact State.clockMove_first hnever off
    · rw [hd]
      exact State.clockMove_slews hlocked hnear

end Sys2Proof.Machine
end

section
/-! SUPPORT. A configuration frame that equals the configuration in force under CFG_SRC 1 (O37). -/

namespace Sys2Proof.Machine

/-- A CFG-2 frame that announces no measurement unit. -/
def frameImage : List Byte := [0xAA, 0x31, 0, 24] ++ List.replicate 13 0 ++ [1] ++ List.replicate 6 0

/-- The configuration entry of stream 0 with CFG_SRC 1. -/
def imageEntry : List Byte := List.replicate 23 0 ++ [1] ++ List.replicate 40 0

/-- Ingest whose stream 0 runs under CFG_SRC 1 with frameImage, and which has received that very frame. -/
def imageIngest : State :=
  { State.reset with ing := { cfg := some ([0, 0, 1] ++ List.replicate 317 0 ++ imageEntry),
                              rx := [⟨0, 0, .meas 0, frameImage⟩], meas := [(0, { cfg := some frameImage })] } }

/-- imageIngest once the frame has been taken. -/
def imageTaken : State := { imageIngest with ing := { imageIngest.ing with rx := [] } }

theorem imageIngest_runs : imageIngest.RunsAt 0 imageIngest := ⟨rfl, rfl⟩

theorem imageIngest_takes : imageIngest.takeMeas (fun ty => decide (ty = 3 ∨ ty = 5)) =
    some (⟨0, 0, .meas 0, frameImage⟩, some imageEntry, imageTaken) := by decide +kernel

theorem exec_cfgFrame_image : exec (.cfgFrame 0) imageIngest = .next (imageTaken.cfgFrame imageEntry frameImage) := by
  have hruns : (imageIngest.advance 0).stopped = false := imageIngest_runs.2
  refine (gate_next hruns).trans (congrArg Host.Outcome.next ?_)
  simp only [imageIngest_runs.1, imageIngest_takes]

/-- The frame differs in nothing from the configuration in force, so it is not counted. -/
theorem cfgFrame_image_uncounted : (imageTaken.cfgFrame imageEntry frameImage).rd Reg.ingMeasCount = 0 := by decide +kernel

theorem measDrop_image_counted : imageTaken.measDrop.rd Reg.ingMeasCount = 2 ^ 32 := by decide +kernel

/-- Refutes O37: under CFG_SRC 1 only a configuration frame that differs in shape from the one in force is counted (R333), and the
statement has every one counted. -/
theorem not_framesReachTheirParsers : ¬ Obligations.FramesReachTheirParsers := by
  rintro ⟨-, hframes⟩
  obtain ⟨-, hcfg, -⟩ := hframes imageIngest imageIngest 0 0 imageIngest_runs
  have hdrop : exec (.cfgFrame 0) imageIngest = .next imageTaken.measDrop :=
    (hcfg _ _ _ ⟨1, []⟩ imageIngest_takes).1 (by decide)
  have hsame : imageTaken.cfgFrame imageEntry frameImage = imageTaken.measDrop :=
    Host.Outcome.next.inj (exec_cfgFrame_image.symm.trans hdrop)
  have hcount : 0 = 2 ^ 32 := by rw [← cfgFrame_image_uncounted, hsame, measDrop_image_counted]
  exact absurd hcount (by decide)

end Sys2Proof.Machine
end

section
/-! SUPPORT. Pictures from their packets to their slots (O38). -/

namespace Sys2Proof.Machine

/-! ### RTP packets -/

section Packets
variable {s u v : State} {t n : Nat} {x : RxItem} {r : List RxItem} {ent : List Byte}

/-- The oldest message is taken when it is of the class asked for and fits. -/
theorem State.takeRx_oldest {cls fits : RxItem → Bool} (hr : u.ing.rx = x :: r) (hc : cls x = true) (hf : fits x = true) :
    u.takeRx cls fits = some (x, { u with ing := { u.ing with rx := r } }) := by
  unfold State.takeRx
  rw [hr, List.find?_cons_of_pos hc]
  simp only [hf, if_true, List.erase_cons_head]

theorem exec_rtpPacket (h : s.RunsAt t u) (hr : u.ing.rx = x :: r) (hk : x.kind = .video n) (he : findStream u.vidEntries n = some ent) :
    exec (.rtpPacket t) s = .next (({ u with ing := { u.ing with rx := r } } : State).rtpPacket ent x) := by
  obtain ⟨rfl, hs⟩ := h
  refine (gate_next hs).trans (congrArg Host.Outcome.next ?_)
  have hclass : (!x.isPtp) = true := by rw [RxItem.isPtp, hk]; rfl
  rw [State.takeRx_oldest hr hclass (by rw [hk])]
  have hentry : findStream ({ s.advance t with ing := { (s.advance t).ing with rx := r } } : State).vidEntries n = some ent := he
  simp only [hk, hentry]

/-- The picture buffers of a stream as a packet of this source finds them. -/
def VideoSt.ofSource (w : VideoSt) (src : Nat) : VideoSt := if w.ssrc = some src then w else w.restart (some src)

/-- A packet of this number comes behind what the stream has handed over, or behind a packet it holds. -/
def VideoSt.isBehind (w : VideoSt) (seq : Nat) : Bool :=
  (w.start.any fun b => decide (ahead16 seq b < 0)) || w.asm.any fun a => a.pkts.any fun p => decide (64 < ahead16 p.1 seq)

theorem VideoSt.isBehind_iff (w : VideoSt) (seq : Nat) : w.isBehind seq = true ↔
    (∃ b, w.start = some b ∧ ahead16 seq b < 0) ∨ ∃ a ∈ w.asm, ∃ p ∈ a.pkts, 64 < ahead16 p.1 seq := by
  simp only [VideoSt.isBehind, Bool.or_eq_true, Option.any_eq_true, List.any_eq_true, decide_eq_true_eq]

/-- The pictures in assembly once the packet of these bytes has joined its own. -/
def joinPacket (asm : List PicAsm) (fresh : PicAsm) (d : List Byte) (now : Nat) : List PicAsm :=
  let all := if asm.any fun a => decide (a.ts = Rtp.ts d) then asm else asm ++ [fresh]
  all.map fun a => if a.ts = Rtp.ts d then a.add d
    else if a.later.isNone ∧ 0 < ahead32 (Rtp.ts d) a.ts then { a with later := some now } else a

theorem joinPacket_opens {asm : List PicAsm} {fresh : PicAsm} {d : List Byte} {now : Nat} (hfresh : fresh.ts = Rtp.ts d)
    (hnew : ∀ a ∈ asm, a.ts ≠ Rtp.ts d) : joinPacket asm fresh d now =
      (asm.map fun b => if b.later = none ∧ 0 < ahead32 (Rtp.ts d) b.ts then { b with later := some now } else b) ++ [fresh.add d] := by
  have hany : (asm.any fun a => decide (a.ts = Rtp.ts d)) = false := by
    rw [List.any_eq_false]
    exact fun a ha => by simpa using hnew a ha
  rw [joinPacket, hany]
  simp only [Bool.false_eq_true, if_false, List.map_append, List.map_cons, List.map_nil, if_pos hfresh, Option.isNone_iff_eq_none]
  congr 1
  exact List.map_congr_left fun a ha => if_neg (hnew a ha)

theorem joinPacket_joins {l after : List PicAsm} {a fresh : PicAsm} {d : List Byte} {now : Nat} (ha : a.ts = Rtp.ts d)
    (hothers : ∀ b ∈ l ++ after, b.ts ≠ Rtp.ts d ∧ ¬(b.later = none ∧ 0 < ahead32 (Rtp.ts d) b.ts)) :
    joinPacket (l ++ a :: after) fresh d now = l ++ a.add d :: after := by
  have hany : ((l ++ a :: after).any fun a => decide (a.ts = Rtp.ts d)) = true :=
    List.any_eq_true.mpr ⟨a, by simp, decide_eq_true ha⟩
  have hkeeps : ∀ b ∈ l ++ after, (if b.ts = Rtp.ts d then b.add d
      else if b.later.isNone ∧ 0 < ahead32 (Rtp.ts d) b.ts then { b with later := some now } else b) = b := by
    intro b hb
    obtain ⟨hts, hlater⟩ := hothers b hb
    exact (if_neg hts).trans (if_neg fun h => hlater ⟨Option.isNone_iff_eq_none.mp h.1, h.2⟩)
  rw [joinPacket, hany]
  simp only [if_true, List.map_append, List.map_cons, if_pos ha]
  congr 1
  · exact (List.map_congr_left fun b hb => hkeeps b (List.mem_append_left _ hb)).trans (List.map_id' l)
  · congr 1
    exact (List.map_congr_left fun b hb => hkeeps b (List.mem_append_right _ hb)).trans (List.map_id' after)

variable (hn : entStream ent = n)
include hn

theorem State.rtpPacket_rejected (hs : (v.vid n).state = 3) : v.rtpPacket ent x = v := by
  subst hn
  exact if_pos hs

theorem State.rtpPacket_unsupported (hs : (v.vid n).state ≠ 3) (hp : payloadOk (VidEnt.codec ent) (Rtp.payload x.data) = false) :
    v.rtpPacket ent x = v.rxDrop x.port true := by
  subst hn
  exact (if_neg hs).trans (if_pos (by rw [hp]; rfl))

theorem State.rtpPacket_supported (hs : (v.vid n).state ≠ 3) (hp : payloadOk (VidEnt.codec ent) (Rtp.payload x.data) = true) :
    let w := (v.vid n).ofSource (Rtp.ssrc x.data)
    v.rtpPacket ent x = if w.isBehind (Rtp.seq x.data) then v.setVid n w else
      v.setVid n { w with asm := joinPacket w.asm { ts := Rtp.ts x.data, at0 := v.now, stamp := x.stamp, die := x.port / 2 } x.data v.now } := by
  subst hn
  refine (if_neg hs).trans ((if_neg (by rw [hp]; decide)).trans ?_)
  simp only [VideoSt.isBehind, Bool.or_eq_true]
  rfl

end Packets

/-! ### From the queue to the slot -/

section Decode
variable {s u : State} {t : Nat} {ent : List Byte}

theorem exec_pictureHandover {j : Fin 512} (h : s.RunsAt t u) (he : u.vidEntries[j.val]? = some ent) (isRef rap : Bool) :
    exec (.pictureHandover t j isRef rap) s = .next (u.handover ent isRef rap) := by
  obtain ⟨rfl, hs⟩ := h
  refine (gate_next hs).trans (congrArg Host.Outcome.next ?_)
  simp only [he]

/-- The picture that the packets of a make, in a stream whose pictures stand as in v. -/
def PicAsm.pic (a : PicAsm) (v : VideoSt) (ent : List Byte) (stamp : Int) (now : Nat) (isRef rap : Bool) : VPic :=
  let total := (a.pkts.map (·.2)).foldl (· + ·) 0
  { seq := v.seq, t := stamp, bytes := min total (VidEnt.maxPic ent), total := total, cut := decide (VidEnt.maxPic ent < total),
    die := a.die, handed := now, isRef := isRef, rap := rap }

theorem State.handover_due {a : PicAsm} {rest : List PicAsm} (ha : (u.vid (entStream ent)).asm = a :: rest)
    (hd : a.due (u.vid (entStream ent)).start (VidEnt.maxFps ent) u.now = true) (isRef rap : Bool) :
    let v := u.vid (entStream ent)
    let st := v.stampPic ent a
    let w := { st.2 with asm := rest, start := some a.after, seq := (v.seq + 1) % 2 ^ 32 }
    let pic := a.pic v ent st.1 u.now isRef rap
    u.handover ent isRef rap = if 8 ≤ v.waiting.length then u.queueFull ent pic w
      else (u.havoc (VidEnt.codedDa ent pic.seq) pic.bytes).setVid (entStream ent) { w with waiting := w.waiting ++ [pic] } := by
  unfold State.handover
  simp only [ha]
  exact if_neg (by rw [hd]; decide)

theorem State.queueFull_eq (u : State) (ent : List Byte) (pic : VPic) (w : VideoSt) :
    u.queueFull ent pic w = (((({ u with free := u.free + 1 } : State).setVid (entStream ent)
      { w with state := if pic.isRef = true ∧ w.state = 1 then 2 else w.state }).countFail (entStream ent) (Config.freeNat u.free % 16)).picRecord
        ent pic 2 F.decodeLimit (Config.freeNat u.free % 16) false false 31 0 0 false none 0) := by
  unfold State.queueFull State.freeNat
  simp only [Bool.and_eq_true, decide_eq_true_eq]

section Start
variable {pic : VPic} {rest : List VPic} {inst : Nat} (hd : u.nextDecode = some ent) (hw : (u.vid (entStream ent)).waiting = pic :: rest)
  (hi : u.freeInst pic.die = some inst)
include hd hw hi

theorem State.decodeStart_headless :
    let v := u.setVid (entStream ent) { u.vid (entStream ent) with waiting := rest }
    u.decodeStart none = if (v.vid (entStream ent)).state = 4
      then v.failPic ent pic { cause := (v.vid (entStream ent)).cause } none false else v.beginDecode ent pic inst := by
  unfold State.decodeStart
  simp only [hd, hw, hi]

theorem State.decodeStart_fails {h : SeqHeader} {f : PicFail} (hf : headerFail ent h = some f) :
    u.decodeStart (some h) = (u.setVid (entStream ent) { u.vid (entStream ent) with waiting := rest }).headerRejected ent pic f := by
  unfold State.decodeStart
  simp only [hd, hw, hi, hf]

theorem State.decodeStart_passes {h : SeqHeader} (hf : headerFail ent h = none) :
    let v := u.setVid (entStream ent) { u.vid (entStream ent) with waiting := rest }
    u.decodeStart (some h) = (v.setVid (entStream ent) { v.vid (entStream ent) with
      level := h.level, width := h.width, height := h.height, wide := h.wide }).beginDecode ent pic inst := by
  unfold State.decodeStart
  simp only [hd, hw, hi, hf]

end Start

section Working
variable {i : Fin 24} {d : VDecode} (hd : u.decoding i = some (ent, d))
include hd

theorem exec_pictureDecodeEnd (h : s.RunsAt t u) (complete film stalled : Bool) (refs : List Nat) :
    exec (.pictureDecodeEnd t i complete film stalled refs) s = .next
      (if complete then u.decoded ent d film stalled refs else u.failPic ent d.pic { cause := 7 } (some d) stalled) := by
  obtain ⟨rfl, hs⟩ := h
  refine (gate_next hs).trans (congrArg Host.Outcome.next ?_)
  simp only [hd]

theorem exec_pictureWatchdog (h : s.RunsAt t u) (hdue : d.started + watchdogCycles ent ≤ u.now) :
    exec (.pictureWatchdog t i) s = .next
      ((u.bump Reg.vdcWdCount 31 0 1).failPic ent d.pic { cause := 0, wd := true } (some d) false) := by
  obtain ⟨rfl, hs⟩ := h
  refine (gate_next hs).trans (congrArg Host.Outcome.next ?_)
  simp only [hd]
  exact if_pos hdue

end Working

/-- Each of the two registers is a write-only row of 64 bits with no reserved value. -/
theorem regFind_vdc {a : Nat} (ha : a = Reg.vdcRelease ∨ a = Reg.vdcRearm) (v : Nat) :
    ∃ d, regFind a = some d ∧ d.acc = .wo ∧ d.bad v = false ∧ d.mask = 2 ^ 64 - 1 := by
  rcases ha with rfl | rfl
  · exact ⟨_, rfl, rfl, rfl, rfl⟩
  · exact ⟨_, rfl, rfl, rfl, rfl⟩

theorem State.writeReg_vdc {ag : Agent} {a v : Nat} (ha : a = Reg.vdcRelease ∨ a = Reg.vdcRearm) (hm : u.mayWrite ag a = true) :
    u.writeReg ag a 8 v false = u.writeVdc a (v &&& (2 ^ 64 - 1)) := by
  obtain ⟨d, hf, hacc, hbad, hmask⟩ := regFind_vdc ha v
  rw [← hmask]
  rcases ha with rfl | rfl
  · exact State.writeReg_at rfl rfl hf (.inr hacc) rfl hbad (vdc_ok u v).1 hm
  · exact State.writeReg_at rfl rfl hf (.inr hacc) rfl hbad (vdc_ok u v).2 hm

theorem exec_vdcRelease {ag : Agent} (h : s.WritesAt t ag Reg.vdcRelease u) (hm : u.mayWrite ag Reg.vdcRelease = true) (v : BitVec 64) :
    exec (.vdcRelease t v ag) s = .next (u.releasePics v.toNat) := by
  have hwrite := State.writeReg_vdc (v := v.toNat) (.inl rfl) hm
  rw [and_mod64] at hwrite
  exact (State.writeAt_runs h).trans (congrArg Host.Outcome.next (hwrite.trans (if_pos rfl)))

theorem exec_vdcRearm {ag : Agent} (h : s.WritesAt t ag Reg.vdcRearm u) (hm : u.mayWrite ag Reg.vdcRearm = true) (n : BitVec 16) :
    exec (.vdcRearm t n ag) s = .next (u.rearm n.toNat) := by
  have hn : n.toNat < 2 ^ 16 := n.isLt
  have hbits : bits n.toNat 15 0 = n.toNat := by
    rw [bits]
    omega
  have hwrite := State.writeReg_vdc (v := n.toNat) (.inr rfl) hm
  rw [and_all64 (by omega)] at hwrite
  refine (State.writeAt_runs h).trans (congrArg Host.Outcome.next (hwrite.trans ((if_neg (by decide)).trans ((if_pos rfl).trans ?_))))
  rw [hbits]

end Decode

/-- Settles O38: a packet by what it finds of its stream, a picture by its queue, its decoder and its header. -/
theorem picturesAreDecoded : Obligations.PicturesAreDecoded := by
  refine ⟨fun s u t h => ⟨fun x r n ent hr hk he hn => ?_, fun j ent a rest isRef rap he ha hd => ?_,
    fun ent pic rest inst hd hw hi => ?_, fun i ent d film stalled refs hd => ?_⟩, fun s u t ag v h hm => exec_vdcRelease h hm v,
    fun s u t ag n h hm => ⟨fun hs hf => ?_, fun hnot => ?_⟩⟩
  · intro v w w1
    refine ⟨fun hs => ?_, fun hs hp => ?_, fun hs hp => ?_⟩
    · exact (exec_rtpPacket h hr hk he).trans (congrArg Host.Outcome.next (State.rtpPacket_rejected hn hs))
    · exact (exec_rtpPacket h hr hk he).trans (congrArg Host.Outcome.next (State.rtpPacket_unsupported hn hs hp))
    · intro behind
      have hb : w1.isBehind (Rtp.seq x.data) = true ↔ behind := w1.isBehind_iff _
      have hrun := (exec_rtpPacket h hr hk he).trans (congrArg Host.Outcome.next (State.rtpPacket_supported hn hs hp))
      refine ⟨fun hbeh => ?_, fun hbeh hnew => ?_, fun hbeh l a after hasm hts hothers => ?_⟩
      · exact hrun.trans (congrArg Host.Outcome.next (if_pos (hb.mpr hbeh)))
      · intro a
        refine hrun.trans (congrArg Host.Outcome.next ((if_neg (mt hb.mp hbeh)).trans ?_))
        exact congrArg (fun asm => v.setVid n { w1 with asm := asm }) (joinPacket_opens rfl hnew)
      · refine hrun.trans (congrArg Host.Outcome.next ((if_neg (mt hb.mp hbeh)).trans ?_))
        exact congrArg (fun asm => v.setVid n { w1 with asm := asm })
          ((congrArg (joinPacket · _ _ _) hasm).trans (joinPacket_joins hts hothers))
  · intro n v total st w pic
    have hrun := (exec_pictureHandover h he isRef rap).trans (congrArg Host.Outcome.next (State.handover_due ha hd isRef rap))
    refine ⟨fun hfull => ?_, fun hroom => ?_⟩
    · exact hrun.trans (congrArg Host.Outcome.next ((if_pos hfull).trans (State.queueFull_eq u ent pic w)))
    · exact hrun.trans (congrArg Host.Outcome.next (if_neg (Nat.not_le.mpr hroom)))
  · intro n v
    refine ⟨fun hs => ?_, fun hs => ?_, fun hdr f hf => ?_, fun hdr hf => ?_⟩
    · exact (live_next h).trans (congrArg Host.Outcome.next ((State.decodeStart_headless hd hw hi).trans (if_neg hs)))
    · exact (live_next h).trans (congrArg Host.Outcome.next ((State.decodeStart_headless hd hw hi).trans (if_pos hs)))
    · exact (live_next h).trans (congrArg Host.Outcome.next (State.decodeStart_fails hd hw hi hf))
    · exact (live_next h).trans (congrArg Host.Outcome.next (State.decodeStart_passes hd hw hi hf))
  · exact ⟨exec_pictureDecodeEnd hd h true film stalled refs, exec_pictureDecodeEnd hd h false film stalled refs,
      exec_pictureWatchdog hd h⟩
  · exact (exec_vdcRearm h hm n).trans (congrArg Host.Outcome.next (if_pos ⟨hs, hf⟩))
  · refine (exec_vdcRearm h hm n).trans (congrArg Host.Outcome.next (if_neg ?_))
    rintro ⟨hs, hf⟩
    rcases hnot with hn | hn
    · exact hn hs
    · rw [hn] at hf; exact Bool.false_ne_true hf

end Sys2Proof.Machine
end

section
/-! SUPPORT. The Aligner's windows, the ingest configuration and result frames (O39). -/

namespace Sys2Proof.Machine

section Windows
variable {s u v : State} {t : Nat}

/-! ### Samples -/

theorem exec_alignerSample {x : AlnSample} {r : List AlnSample} (h : s.RunsAt t u) (hq : u.ing.queue = x :: r) :
    exec (.alignerSample t) s = .next (({ u with ing := { u.ing with queue := r } } : State).alignSample x) := by
  obtain ⟨rfl, hs⟩ := h
  refine (gate_next hs).trans (congrArg Host.Outcome.next ?_)
  simp only [hq]

section Sample
variable {x : AlnSample}

theorem State.alignSample_on (hon : v.tick.on = true) : v.alignSample x =
    if v.sampleLate x then v.discard true
    else if (v.timeNs : Int) + 1000000000 < x.t then v.discard false
    else if (v.chSamples x.ch).getLast?.any (fun y => decide (x.t ≤ y.t)) then v.discard false
    else (v.setSamples x.ch (v.chSamples x.ch ++ [x])).writeFinals x.ch (v.chSamples x.ch) x.t :=
  if_neg (by rw [hon]; decide)

theorem State.alignSample_off (hoff : v.tick.on = false) : v.alignSample x = v :=
  if_pos (by rw [hoff]; decide)

/-- A sample of the future, or of a time not after the last one of its channel, is discarded. -/
theorem State.alignSample_misplaced (hon : v.tick.on = true) (hl : v.sampleLate x = false)
    (h : (v.timeNs : Int) + 1000000000 < x.t ∨ (v.chSamples x.ch).getLast?.any (fun y => decide (x.t ≤ y.t)) = true) :
    v.alignSample x = v.discard false := by
  rw [State.alignSample_on hon, if_neg (Bool.eq_false_iff.mp hl)]
  by_cases hfuture : (v.timeNs : Int) + 1000000000 < x.t
  · rw [if_pos hfuture]
  · rw [if_neg hfuture, if_pos (h.resolve_left hfuture)]

theorem State.alignSample_enters (hon : v.tick.on = true) (hl : v.sampleLate x = false)
    (hfuture : x.t ≤ (v.timeNs : Int) + 1000000000) (hlast : (v.chSamples x.ch).getLast?.any (fun y => decide (x.t ≤ y.t)) = false) :
    v.alignSample x = (v.setSamples x.ch (v.chSamples x.ch ++ [x])).writeFinals x.ch (v.chSamples x.ch) x.t := by
  rw [State.alignSample_on hon, if_neg (Bool.eq_false_iff.mp hl), if_neg (Int.not_lt.mpr hfuture), if_neg (Bool.eq_false_iff.mp hlast)]

end Sample

/-! ### The cutoff of a window -/

/-- What the cutoff of the oldest window leaves, before the ALIGN phase hears of it. -/
def State.windowClosed (u : State) (w : WinSt) (rest : List WinSt) (left : List (Nat × Nat)) (stop cut : Int) : State :=
  let late := u.alignMissed w
  let g := u.writeGrid w (if late then left else [])
  let p := g.1.writePics w
  let x := p.1.ioWrite .ingest (cfgWinDa w.cfg w.k) (windowRecord w late g.2 (p.1.takenIn w.start stop) p.2 cut)
  let x := (x.event Reg.ingIntStatus 0).wr Reg.ingLastWindow w.k
  let x := if late then x.event Reg.ingIntStatus 1 else x
  let x : State := { x with ing := { x.ing with wins := rest } }
  let x : State := { x with ing := { x.ing with
    samples := (x.ing.samples.filter fun y => x.grouped y.1).map fun y => (y.1, keepFrom y.2 stop) } }
  x.ing.video.foldl (fun s y => s.pruneVid y.1) x

/-- A window counts for the ALIGN phase, if there is one. -/
def State.countWindow (x : State) : State :=
  match x.alignPhase with
  | some p => x.phaseCommit p true
  | none => x

theorem State.countWindow_phase {p : Nat} (h : u.alignPhase = some p) : u.countWindow = u.phaseCommit p true := by
  unfold State.countWindow
  simp only [h]

theorem State.countWindow_none (h : u.alignPhase = none) : u.countWindow = u := by
  unfold State.countWindow
  simp only [h]

theorem State.closeWindow_due {w : WinSt} {rest : List WinSt} {stop cut : Int} {b c : Nat} (hw : u.ing.wins = w :: rest)
    (hstop : w.stop = some (stop, b)) (hcut : w.cutoff = some (cut, c)) (hc : c ≤ u.now) (left : List (Nat × Nat)) :
    u.closeWindow left = (u.windowClosed w rest left stop cut).countWindow := by
  unfold State.closeWindow
  simp only [hw, hstop, hcut]
  exact if_neg (Nat.not_lt.mpr hc)

/-! ### The configuration -/

theorem State.activateIng_pending {c : List Byte} (h : u.ing.pending = some c) (at' : Int) :
    let old := u.ing.cfg.getD []
    let v : State := { u with ing := { u.ing with cfg := some c, pending := none } }
    let w := (((v.switchMeas (cfgMeasList old) (cfgMeasList c)).keepOlds (cfgVidList old) (cfgVidList c)).switchVideo (cfgVidList old)
      (cfgVidList c)).switchGroups (cfgGroupList old) (cfgGroupList c) at'
    u.activateIng at' = (((w.setBit Reg.ingStatus 0 true).setBit Reg.ingStatus 1 false).setFld Reg.ingStatus 63 32
      (cfgSeq c)).event Reg.ingIntStatus 2 := by
  unfold State.activateIng
  simp only [h]

theorem regFind_ingCtrl (n : Nat) : ∃ d, regFind Reg.ingCtrl = some d ∧ d.acc = .rw ∧ d.bad n = false ∧ d.mask = 2 ^ 3 - 1 :=
  ⟨_, rfl, rfl, rfl, rfl⟩

theorem State.writeReg_ingCtrl {ag : Agent} (hm : u.mayWrite ag Reg.ingCtrl = true) (n : Nat) :
    u.writeReg ag Reg.ingCtrl 8 n false = u.writeIng Reg.ingCtrl (n % 2 ^ 3) n := by
  obtain ⟨d, hf, hacc, hbad, hmask⟩ := regFind_ingCtrl n
  rw [← Nat.and_two_pow_sub_one_eq_mod, ← hmask]
  exact State.writeReg_at rfl rfl hf (.inl hacc) rfl hbad rfl hm

theorem exec_cfgSwap {ag : Agent} (h : s.WritesAt t ag Reg.ingCtrl u) (hm : u.mayWrite ag Reg.ingCtrl = true)
    (h8 : u.rd Reg.ingCtrl < 8) : exec (.cfgSwap t ag) s = .next (u.wr Reg.ingCtrl (u.rd Reg.ingCtrl)).cfgSwap := by
  have hkeeps : (u.rd Reg.ingCtrl + 8) % 2 ^ 3 = u.rd Reg.ingCtrl := by omega
  have hswap : bit (u.rd Reg.ingCtrl + 8) 3 = true := by
    rw [bit, Nat.testBit_eq_decide_div_mod_eq, decide_eq_true_eq]
    omega
  refine (State.updateAt_runs (g := (· + 8)) h).trans (congrArg Host.Outcome.next ?_)
  rw [State.writeReg_ingCtrl hm, hkeeps]
  exact (if_pos rfl).trans (if_pos hswap)

section Swap
variable {a : Nat} (ha : v.rd Reg.ingCfgBase = a) (hf : v.memFault a 64 = none) (hn : v.memFault a (cfgLength (v.load a 64)) = none)
include ha hf hn

theorem State.cfgSwap_passes (hc : (v.ioRead a (cfgLength (v.load a 64))).ingCheck (v.load a (cfgLength (v.load a 64))) = none) :
    let w := v.ioRead a (cfgLength (v.load a 64))
    v.cfgSwap = ({ w with ing := { w.ing with pending := some (v.load a (cfgLength (v.load a 64))), pendingAt := w.now } } :
      State).setBit Reg.ingStatus 1 true := by
  subst ha
  unfold State.cfgSwap
  simp only [hf, hn, Option.isNone_none, Bool.and_self, if_true, hc]

theorem State.cfgSwap_fails {code i : Nat}
    (hc : (v.ioRead a (cfgLength (v.load a 64))).ingCheck (v.load a (cfgLength (v.load a 64))) = some (code, i)) :
    v.cfgSwap = postFault (((v.ioRead a (cfgLength (v.load a 64))).wr Reg.ingCfgCheck
        (code + i % 65536 * 2 ^ 8 + cfgSeq (v.load a (cfgLength (v.load a 64))) * 2 ^ 32)).event Reg.ingIntStatus 3)
      { code := F.ingestCfg, cls := Class.info, block := Blk.ing, payload := defaultPayload a (code + i % 65536 * 2 ^ 8) 0 0 0 } := by
  subst ha
  unfold State.cfgSwap
  simp only [hf, hn, Option.isNone_none, Bool.and_self, if_true, hc]

end Swap

/-! ### Result frames -/

theorem exec_publishEntry (h : s.RunsAt t u) (hon : bit (u.rd Reg.ingPubCfg) 0 = true) (hgo : u.ing.pub.halted = false)
    (ue : Option Nat) : exec (.publishEntry t ue) s = .next (u.pubTail.pubTake ue) := by
  obtain ⟨rfl, hs⟩ := h
  refine (gate_next hs).trans (congrArg Host.Outcome.next (if_neg ?_))
  rw [hon, hgo]
  decide

section Take
variable {a : Nat} (ha : v.rd Reg.ingPubBase + v.ing.pub.head % 2 ^ v.fld Reg.ingPubCfg 12 8 * 32 = a) (hh : v.ing.pub.halted = false)
  (hfresh : v.ing.pub.fresh = false) (hne : v.ing.pub.head ≠ v.ing.pub.tail) (hm : v.memFault a 32 = none) (hb : v.holdsBytes a 32 = true)
include ha hh hfresh hne hm hb

/-- The next entry is there to be read. -/
theorem State.pubTake_reads (ue : Option Nat) : v.pubTake ue =
    let e := v.load a 32
    let w := v.ioRead a 32
    if leField e 0 4 ≠ v.ing.pub.head then w.pubHalt v.ing.pub.head (leField e 0 4) 2
    else if (w.memFault (leField e 8 8) 1).isNone && !(w.holdsBytes (leField e 8 8) (leField e 16 4)) then
      w.askFor (leField e 8 8) (leField e 16 4)
    else (w.pubMessage e ue).pubHead ((v.ing.pub.head + 1) % 2 ^ 32) := by
  subst ha
  refine (if_neg ?_).trans ((if_neg ?_).trans (if_neg ?_))
  · rw [hh, hfresh]
    rintro (h | h | h)
    · exact Bool.false_ne_true h
    · exact Bool.false_ne_true h
    · exact hne h
  · rw [hm]
    exact Bool.false_ne_true
  · rw [hb]
    decide

end Take

end Windows

/-- Settles O39: samples, windows, the configuration and result frames, each by the case of its rule. -/
theorem windowsCloseAndResultsGoOut : Obligations.WindowsCloseAndResultsGoOut := by
  refine ⟨fun s u t h => ⟨fun x r hq => ?_, fun w rest stop b cut c left hw hstop hcut hc => ?_, fun c hdue hoff hp => ?_,
    fun ue hon hgo => ?_⟩, fun s u t ag h hm h8 => ?_⟩
  · intro v xs
    have hrun : exec (.alignerSample t) s = .next (v.alignSample x) := exec_alignerSample h hq
    exact ⟨fun hoff => hrun.trans (congrArg Host.Outcome.next (State.alignSample_off hoff)),
      fun hon hl => hrun.trans (congrArg Host.Outcome.next ((State.alignSample_on hon).trans (if_pos hl))),
      fun hon hl hbad => hrun.trans (congrArg Host.Outcome.next (State.alignSample_misplaced hon hl hbad)),
      fun hon hl hf hlast => hrun.trans (congrArg Host.Outcome.next (State.alignSample_enters hon hl hf hlast))⟩
  · intro late g p x1 x2 x3 x4 x5 x
    have hrun : exec (.windowCutoff t left) s = .next x.countWindow :=
      (live_next h).trans (congrArg Host.Outcome.next (State.closeWindow_due hw hstop hcut hc left))
    exact ⟨fun ph hph => hrun.trans (congrArg Host.Outcome.next (State.countWindow_phase hph)),
      fun hnone => hrun.trans (congrArg Host.Outcome.next (State.countWindow_none hnone))⟩
  · intro old v w
    obtain ⟨rfl, hs⟩ := h
    exact (gate_next hs).trans (congrArg Host.Outcome.next ((if_pos ⟨hdue, by rw [hoff]; rfl⟩).trans (State.activateIng_pending hp _)))
  · intro v x a e w
    have hrun : exec (.publishEntry t ue) s = .next (v.pubTake ue) := exec_publishEntry h hon hgo ue
    refine ⟨fun hnone => hrun.trans (congrArg Host.Outcome.next (if_pos hnone)), fun hh hfresh hne hf hb => ?_⟩
    have hreads := hrun.trans (congrArg Host.Outcome.next (State.pubTake_reads rfl hh hfresh hne hf hb ue))
    refine ⟨fun hseq => hreads.trans (congrArg Host.Outcome.next (if_pos hseq)), fun hseq hbytes => ?_⟩
    refine hreads.trans (congrArg Host.Outcome.next ((if_neg (not_not_intro hseq)).trans (if_neg ?_)))
    rw [hbytes, Bool.not_true, Bool.and_false]
    exact Bool.false_ne_true
  · intro v a n
    refine ⟨exec_cfgSwap h hm h8, fun hf hn => ?_⟩
    intro c w
    exact ⟨State.cfgSwap_passes rfl hf hn, fun code i => State.cfgSwap_fails rfl hf hn⟩

end Sys2Proof.Machine
end

section
/-! SUPPORT. Contexts are created and removed (O40). -/

namespace Sys2Proof.Machine

section Contexts
variable {s u : State} {t : Nat} {ag : Agent}

/-! ### The register -/

theorem regFind_ctxCfg {v : Nat} (hclass : bits v 9 8 ≤ 1) (hbase : bits v 42 32 ≤ 1535) (hlen : bits v 53 43 ≤ 1536) :
    ∃ d, regFind Reg.schCtxCfg = some d ∧ d.acc = .rw ∧ d.bad v = false ∧ d.mask = 0x3fffff001fffff := by
  refine ⟨_, rfl, rfl, ?_, rfl⟩
  show (decide (1 < bits v 9 8) || decide (1535 < bits v 42 32) || decide (1536 < bits v 53 43)) = false
  rw [decide_eq_false (Nat.not_lt.mpr hclass), decide_eq_false (Nat.not_lt.mpr hbase), decide_eq_false (Nat.not_lt.mpr hlen)]
  rfl

theorem State.writeReg_ctxCfg {v : Nat} (hm : u.mayWrite ag Reg.schCtxCfg = true) (hclass : bits v 9 8 ≤ 1) (hbase : bits v 42 32 ≤ 1535)
    (hlen : bits v 53 43 ≤ 1536) : u.writeReg ag Reg.schCtxCfg 8 v false = u.writeCtxCfg (v &&& 0x3fffff001fffff) := by
  obtain ⟨d, hf, hacc, hbad, hmask⟩ := regFind_ctxCfg hclass hbase hlen
  have happly : u.applyWrite Reg.schCtxCfg (v &&& d.mask) v false = u.writeSch Reg.schCtxCfg (v &&& d.mask) := rfl
  rw [State.writeReg_at rfl rfl hf (.inl hacc) rfl hbad rfl hm, happly, hmask]
  exact if_pos rfl

theorem exec_contextCreate {v : BitVec 64} (h : s.WritesAt t ag Reg.schCtxCfg u) (hm : u.mayWrite ag Reg.schCtxCfg = true)
    (hclass : bits (putBits v.toNat 0 0 1) 9 8 ≤ 1) (hbase : bits (putBits v.toNat 0 0 1) 42 32 ≤ 1535)
    (hlen : bits (putBits v.toNat 0 0 1) 53 43 ≤ 1536) :
    exec (.contextCreate t v ag) s = .next (u.writeCtxCfg (putBits v.toNat 0 0 1 &&& 0x3fffff001fffff)) :=
  (State.writeAt_runs (v := putBits v.toNat 0 0 1) h).trans (congrArg Host.Outcome.next (State.writeReg_ctxCfg hm hclass hbase hlen))

theorem exec_contextDelete {v : Nat} (h : s.WritesAt t ag Reg.schCtxCfg u) (hm : u.mayWrite ag Reg.schCtxCfg = true)
    (hread : putBits (u.readReg Reg.schCtxCfg) 0 0 0 = v) (hclass : bits v 9 8 ≤ 1) (hbase : bits v 42 32 ≤ 1535)
    (hlen : bits v 53 43 ≤ 1536) (hmask : v &&& 0x3fffff001fffff = v) :
    exec (.contextDelete t ag) s = .next (u.writeCtxCfg v) := by
  obtain ⟨hrun, rfl⟩ := h
  refine (live_next ⟨rfl, hrun⟩).trans (congrArg Host.Outcome.next ?_)
  dsimp only
  rw [hread, State.writeReg_ctxCfg hm hclass hbase hlen, hmask]

/-! ### Creation -/

/-- The state in which a created context stands in Hatch. -/
def State.withCreated (u : State) (e k v : Nat) : State :=
  let w := u.setCtx e k (created u e k v)
  if w.shelvesMeet e k then w.breach (created u e k v).part else w

theorem State.breach_keeps (w : State) (p : Nat) : (w.breach p).ctxs = w.ctxs ∧ (w.breach p).queues = w.queues ∧ (w.breach p).regs = w.regs ∧
    (w.breach p).mem = w.mem ∧ (w.breach p).health = w.health := by
  unfold State.breach
  split <;> exact ⟨rfl, rfl, rfl, rfl, rfl⟩

theorem State.withCreated_keeps (u : State) (e k v : Nat) :
    (u.withCreated e k v).ctxs = (u.setCtx e k (created u e k v)).ctxs ∧ (u.withCreated e k v).queues = u.queues ∧
    (u.withCreated e k v).regs = u.regs ∧ (u.withCreated e k v).mem = u.mem ∧ (u.withCreated e k v).health = u.health := by
  unfold State.withCreated
  dsimp only
  split
  · exact State.breach_keeps _ _
  · exact ⟨rfl, rfl, rfl, rfl, rfl⟩

/-- Whether an engine is in its slot rests on the registers and the health state alone. -/
theorem State.inSlot_congr {x y : State} (hh : x.health = y.health) (hr : x.regs = y.regs) (e : Nat) : x.inSlot e = y.inSlot e := by
  unfold State.inSlot State.engineOut
  simp only [hh, rd_of_regs hr]

/-- A created context enters the lowest free slot of an engine that is not in its self-test slot. -/
def State.placeCreated (w : State) (e k : Nat) (c : Ctx) : State :=
  match w.freeSlot e with
  | some q => if w.inSlot e then w else ((w.setCtx e k { c with savedData := w.dataSlot e q }).enterSlot e k q).writeStatusLine e q
  | none => w

theorem State.createCtx_eq (u : State) (e k v : Nat) : u.createCtx e k v = (u.withCreated e k v).placeCreated e k (created u e k v) := rfl

theorem State.placeCreated_waits {w : State} {e : Nat} (h : w.freeSlot e = none ∨ w.inSlot e = true) (k : Nat) (c : Ctx) :
    w.placeCreated e k c = w := by
  unfold State.placeCreated
  split
  next q hq => exact if_pos (h.resolve_left (by rw [hq]; exact Option.some_ne_none q))
  next => rfl

theorem State.placeCreated_enters {w : State} {e q : Nat} (hq : w.freeSlot e = some q) (hs : w.inSlot e = false) (k : Nat) (c : Ctx) :
    w.placeCreated e k c = ((w.setCtx e k { c with savedData := w.dataSlot e q }).enterSlot e k q).writeStatusLine e q := by
  unfold State.placeCreated
  simp only [hq]
  exact if_neg (Bool.eq_false_iff.mp hs)

theorem State.inSlot_withCreated (u : State) (e k v : Nat) : (u.withCreated e k v).inSlot e = u.inSlot e := by
  obtain ⟨-, -, hregs, -, hhealth⟩ := u.withCreated_keeps e k v
  exact State.inSlot_congr hhealth hregs e

/-- A context that is created while a slot is free: what it, its queue, memory and the other contexts read. -/
theorem created_enters {e k v q : Nat} (hi : u.Inv) (hk : k < 16) :
    let c := created u e k v
    let w := u.withCreated e k v
    let r := (w.setCtx e k { c with savedData := w.dataSlot e q }).enterSlot e k q
    r.ctx e k = { c with place := .resident, slot := q, saved := none } ∧ r.queue e q = u.newQueue (u.ctx e k) ∧ r.mem = u.mem ∧
    (r.rd (Reg.engQCfg e q) = (u.ctx e k).qCfg % 2 ^ 64 ∧ r.rd (Reg.engQBase e q) = (u.ctx e k).qBase % 2 ^ 64 ∧
     r.rd (Reg.engQTailDa e q) = (u.ctx e k).qTail % 2 ^ 64 ∧ r.rd (Reg.engQStatusDa e q) = (u.ctx e k).qStatus % 2 ^ 64 ∧
     r.rd (Reg.engQCompDa e q) = (u.ctx e k).qComp % 2 ^ 64) ∧
    ∀ e' k', k' < 16 → ¬ (e' = e ∧ k' = k) → r.ctx e' k' = u.ctx e' k' := by
  intro c w r
  obtain ⟨-, hregs, htables⟩ := hi
  obtain ⟨hctxs, hqueues, hwregs, hmem, -⟩ := u.withCreated_keeps e k v
  have hcw : tabWf (fun _ => {}) w.ctxs = true := by rw [hctxs]; exact setCtx_wf htables.ctxs e k c
  have hqw : tabWf (fun _ => {}) (w.setCtx e k { c with savedData := w.dataSlot e q }).queues = true := by
    rw [State.setCtx_queues, hqueues]; exact htables.queues
  have hrw : Registers.wf (w.setCtx e k { c with savedData := w.dataSlot e q }).regs := by
    rw [State.setCtx_regs, hwregs]; exact hregs
  obtain ⟨hctx, hqueue, hrmem, hrd, hothers⟩ := enterSlot_facts (e := e) (q := q) hrw (setCtx_wf hcw e k _) hqw hk
  have hset : (w.setCtx e k { c with savedData := w.dataSlot e q }).ctx e k = { c with savedData := w.dataSlot e q } :=
    (ctx_setCtx hcw e k e k _ hk hk).trans (if_pos ⟨rfl, rfl⟩)
  rw [hset] at hctx hqueue hrd
  refine ⟨hctx, hqueue, hrmem.trans hmem, hrd, fun e' k' hk' hne => (hothers e' k' hk' hne).trans ?_⟩
  rw [ctx_setCtx hcw e k e' k' _ hk hk', if_neg hne, ctx_of_ctxs hctxs, ctx_setCtx htables.ctxs e k e' k' _ hk hk', if_neg hne]

end Contexts

/-- Settles O40: a creation by the free slot it finds, a removal by the ops that are open. -/
theorem contextsAreCreatedAndRemoved : Obligations.ContextsAreCreatedAndRemoved := by
  intro s u t v ag h hi hm hlimit e k old hex
  have hk : k < 16 := ctxLimit_le hex hlimit
  refine ⟨?_, ?_⟩
  · intro v' hclass hbase hlen hvalid hnew c w w'
    have hrun : exec (.contextCreate t v ag) s = .next (w'.placeCreated e k c) :=
      (exec_contextCreate h hm hclass hbase hlen).trans (congrArg Host.Outcome.next (writeCtxCfg_create rfl hex hnew hvalid))
    refine ⟨fun hwait => hrun.trans (congrArg Host.Outcome.next (State.placeCreated_waits ?_ k c)), fun q hq hs => ?_⟩
    · exact hwait.imp_right (State.inSlot_withCreated u e k _).trans
    · refine ⟨_, hrun.trans (congrArg Host.Outcome.next (State.placeCreated_enters hq ?_ k c)), created_enters hi hk⟩
      exact (State.inSlot_withCreated u e k _).trans hs
  · intro w x hclass hbase hlen hmask hclear hvalid hfree
    have hread : putBits (u.readReg Reg.schCtxCfg) 0 0 0 = w := by
      rw [read_ctxCfg]
      exact congrArg (putBits · 0 0 0) (if_pos hex)
    have hrun := (exec_contextDelete h hm hread hclass hbase hlen hmask).trans
      (congrArg Host.Outcome.next (writeCtxCfg_delete rfl hex hvalid hclear hfree))
    refine ⟨fun hops hst => ?_, fun hops => ?_⟩
    · have hidle : x.ops.isEmpty = true ∧ (x.state = .disabled ∨ x.state = .idle ∨ x.state = .halted) := ⟨by rw [hops]; rfl, hst⟩
      exact ⟨_, hrun.trans (congrArg Host.Outcome.next (if_pos hidle)), deleteCtx_facts hi.2.2.ctxs hi.2.2.queues hk⟩
    · exact hrun.trans (congrArg Host.Outcome.next (if_neg fun hidle => hops (List.isEmpty_iff.mp hidle.1)))

end Sys2Proof.Machine
end

section
/-! SUPPORT. Engines pass between contexts (O42), and answers of another module reach theirs (O43). -/

namespace Sys2Proof.Machine

/-! ### Who takes the engine -/

section Pass
variable {u : State} {e k : Nat}

theorem State.passEngine_keeps (h : u.leaving e = true ∨ u.nextHolder e = none) : u.passEngine e = u := by
  unfold State.passEngine
  rcases h with h | h
  · exact if_pos h
  · simp only [h, ite_self]

variable (hl : u.leaving e = false) (hk : u.nextHolder e = some k)
include hl hk

theorem State.passEngine_running (hr : (u.ctx e k).running = true) : u.passEngine e = u := by
  unfold State.passEngine
  simp only [hl, hk, hr, if_true, ite_self]

theorem State.passEngine_idle (hr : (u.ctx e k).running = false) (hn : u.runner e = none) : u.passEngine e = u.switchIn e k := by
  unfold State.passEngine
  simp only [hl, hk, hr, hn, Bool.false_eq_true, if_false]

theorem State.passEngine_from {r : Nat} (hr : (u.ctx e k).running = false) (hn : u.runner e = some r) : u.passEngine e =
    if (u.ctxQueue e r).ops.any fun o => needsEngine (Desc.op o.desc) then u else (u.preempt e r).switchIn e k := by
  unfold State.passEngine
  simp only [hl, hk, hr, hn, Bool.false_eq_true, if_false]

end Pass

/-! ### Swaps -/

section Swap
variable {u : State} {e : Nat}

/-- An engine in use on which no resident context is READY and none is being restored. -/
def State.SwapIdle (u : State) (e : Nat) : Prop :=
  u.inSlot e = false ∧ u.ctxsIn e .restoring = [] ∧ (u.ctxsIn e .resident).any (fun k => decide (u.blockCause e k = 0)) = false

theorem State.swap_busy (h : ¬ u.SwapIdle e) (ue : Option Nat) : u.swap e ue = u := by
  refine if_pos ?_
  refine Classical.byContradiction fun hnot => ?_
  obtain ⟨hslot, hnone, hready⟩ := not_or.mp hnot |>.imp_right not_or.mp
  exact h ⟨Bool.eq_false_iff.mpr hslot, List.length_eq_zero_iff.mp (Classical.not_not.mp hnone), Bool.eq_false_iff.mpr hready⟩

theorem State.swap_noIncoming (h : u.swapIncoming e = none) (ue : Option Nat) : u.swap e ue = u := by
  unfold State.swap
  simp only [h, ite_self]

section Victim
variable {k v : Nat} (hidle : u.SwapIdle e) (hk : u.swapIncoming e = some k) (hq : u.freeSlot e = none) (hv : u.swapVictim e k = some v)
include hidle hk hq hv

theorem State.swap_saves : u.swap e none = ((u.leaveSlot e v .saving).countSwap).setCtx e k
    { ((u.leaveSlot e v .saving).countSwap).ctx e k with place := .restoring, slot := (u.ctx e v).slot } := by
  obtain ⟨hslot, hrest, hready⟩ := hidle
  exact swap_victim hslot hrest hready hk hq hv none

theorem State.swap_loses (i : Nat) : u.swap e (some i) = (((u.leaveSlot e v .saving).countSwap).loseCtx e v (saveArea e v + i)).setCtx e k
    { (((u.leaveSlot e v .saving).countSwap).loseCtx e v (saveArea e v + i)).ctx e k with
      place := .restoring, slot := (u.ctx e v).slot } := by
  obtain ⟨hslot, hrest, hready⟩ := hidle
  exact swap_victim hslot hrest hready hk hq hv (some i)

end Victim

/-- The contexts whose save has ended stand in Hatch. -/
def State.endSaves (u : State) (e : Nat) : State :=
  (u.ctxsIn e .saving).foldl (fun s k => s.setCtx e k { s.ctx e k with place := .swapped }) u

theorem State.swapIn_none (h : (u.endSaves e).ctxsIn e .restoring = []) (ue : Option Nat) : u.swapIn e ue = u.endSaves e := by
  rw [State.endSaves] at h
  unfold State.swapIn
  simp only [h]
  rfl

theorem State.swapIn_lost {k : Nat} {rest : List Nat} (h : (u.endSaves e).ctxsIn e .restoring = k :: rest) (i : Nat) :
    u.swapIn e (some i) = (u.endSaves e).loseCtx e k (saveArea e k + i) := by
  rw [State.endSaves] at h
  unfold State.swapIn
  simp only [h]
  rfl

theorem State.swapIn_comes {k : Nat} {rest : List Nat} (h : (u.endSaves e).ctxsIn e .restoring = k :: rest) :
    u.swapIn e none = if ((u.endSaves e).ctxQueue e k).state = .halted
      then (u.endSaves e).setCtx e k { (u.endSaves e).ctx e k with place := .swapped }
      else (u.endSaves e).enterSlot e k ((u.endSaves e).ctx e k).slot := by
  rw [State.endSaves] at h
  unfold State.swapIn
  simp only [h]
  rfl

end Swap

/-- Settles O42: the engine by who comes first and who runs, the slot by what is free, the end of a swap by who comes in. -/
theorem enginesPassBetweenContexts : Obligations.EnginesPassBetweenContexts := by
  refine ⟨fun s w t e ue h => ?_, fun s u t e ue h => ?_⟩
  · intro u
    have hswitch : exec (.contextSwitchIn t e) s = .next (u.passEngine e) := by
      obtain ⟨hrun, rfl⟩ := h
      exact live_next ⟨rfl, hrun⟩
    have hswap : ∀ ue : Option (Fin 262144), exec (.contextSwap t e ue) s = .next (u.swap e (ue.map (·.val))) := by
      obtain ⟨hrun, rfl⟩ := h
      exact fun ue => live_next ⟨rfl, hrun⟩
    clear_value u
    refine ⟨⟨fun hnone => hswitch.trans (congrArg Host.Outcome.next (State.passEngine_keeps hnone)), fun k hl hk => ⟨fun hr => ?_,
      fun hr hn => ?_, fun r hr hn => ⟨fun hops => ?_, fun hops => ?_⟩⟩⟩, fun hbusy => ?_, fun hnone => ?_, fun k hidle hk => ?_⟩
    · exact hswitch.trans (congrArg Host.Outcome.next (State.passEngine_running hl hk hr))
    · exact hswitch.trans (congrArg Host.Outcome.next (State.passEngine_idle hl hk hr hn))
    · exact hswitch.trans (congrArg Host.Outcome.next ((State.passEngine_from hl hk hr hn).trans (if_pos (List.any_eq_true.mpr hops))))
    · refine hswitch.trans (congrArg Host.Outcome.next ((State.passEngine_from hl hk hr hn).trans (if_neg ?_)))
      rw [Bool.not_eq_true, List.any_eq_false]
      exact fun o ho => Bool.eq_false_iff.mp (hops o ho)
    · exact (hswap ue).trans (congrArg Host.Outcome.next (State.swap_busy hbusy _))
    · exact (hswap ue).trans (congrArg Host.Outcome.next (State.swap_noIncoming hnone _))
    · have hidle' : u.SwapIdle e := hidle
      obtain ⟨hslot, hrest, hready⟩ := hidle
      refine ⟨fun q hq => ?_, fun hq hv => ?_, fun v hq hv => ⟨?_, fun i => ?_⟩⟩
      · exact (hswap ue).trans (congrArg Host.Outcome.next (swap_free hslot hrest hready hk hq))
      · exact (hswap ue).trans (congrArg Host.Outcome.next (swap_stuck hslot hrest hready hk hq hv))
      · exact (hswap none).trans (congrArg Host.Outcome.next (State.swap_saves hidle' hk hq hv))
      · exact (hswap (some i)).trans (congrArg Host.Outcome.next (State.swap_loses hidle' hk hq hv i))
  · intro w
    have hin : ∀ ue : Option (Fin 262144), exec (.contextSwapIn t e ue) s = .next (u.swapIn e (ue.map (·.val))) := fun ue => live_next h
    refine ⟨fun hnone => ?_, fun k rest hk => ⟨fun i => ?_, fun hh => ?_, fun hh => ?_⟩⟩
    · exact (hin ue).trans (congrArg Host.Outcome.next (State.swapIn_none hnone _))
    · exact (hin (some i)).trans (congrArg Host.Outcome.next (State.swapIn_lost hk _))
    · exact (hin none).trans (congrArg Host.Outcome.next ((State.swapIn_comes hk).trans (if_pos hh)))
    · exact (hin none).trans (congrArg Host.Outcome.next ((State.swapIn_comes hk).trans (if_neg hh)))

/-! ### Answers and timeouts of remote requests -/

section Answer
variable {u : State} {e k tag status : Nat} {r : RemoteTag} {data : List Byte}

theorem State.answerTag_unknown (h : u.tagOwner tag = none) : u.answerTag tag status data = u.bump Reg.ktfRemoteCount 63 32 1 := by
  unfold State.answerTag
  simp only [h]

theorem State.answerTag_bad (h : u.tagOwner tag = some (e, k, r)) (hs : status ≠ 0) :
    u.answerTag tag status data = u.remoteFail e k r ⟨F.remoteError, r.da, status⟩ := by
  unfold State.answerTag
  simp only [h]
  exact if_pos hs

/-- The context of a tag once the tag is released. -/
theorem State.ctx_releaseTag (hc : tabWf (fun _ => {}) u.ctxs = true) (hk : k < 16) (tag : Nat) : (u.releaseTag e k tag).ctx e k =
    { u.ctx e k with tags := (u.ctx e k).tags.filter fun x => decide (x.tag ≠ tag) } :=
  (Machine.ctx_setCtx hc e k e k _ hk hk).trans (if_pos ⟨rfl, rfl⟩)

section Good
variable (h : u.tagOwner tag = some (e, k, r)) (hc : tabWf (fun _ => {}) u.ctxs = true) (hk : k < 16)
include h hc hk

theorem State.answerTag_good : u.answerTag tag 0 data =
    if (u.ctx e k).running || decide ((u.ctx e k).leftAt = some u.now) then
      (((u.releaseTag e k tag).landData e k r data).copyProgress e k r.issue).gatherResume e k r.issue
    else ((u.releaseTag e k tag).setCtx e k { (u.releaseTag e k tag).ctx e k with
      landing := ((u.releaseTag e k tag).ctx e k).landing ++ [⟨r, data⟩] }).bump Reg.schRemoteCount 31 0 1 := by
  unfold State.answerTag
  simp only [h, State.ctx_releaseTag hc hk]
  exact if_neg (by decide)

theorem State.answerTag_lands (hon : (u.ctx e k).running = true ∨ (u.ctx e k).leftAt = some u.now) : u.answerTag tag 0 data =
    (((u.releaseTag e k tag).landData e k r data).copyProgress e k r.issue).gatherResume e k r.issue := by
  refine (State.answerTag_good h hc hk).trans (if_pos ?_)
  rwa [Bool.or_eq_true, decide_eq_true_eq]

/-- Data that comes while the context is away waits in its buffer. -/
theorem State.answerTag_waits (hoff : (u.ctx e k).running = false) (hleft : (u.ctx e k).leftAt ≠ some u.now) :
    ∃ v : State, u.answerTag tag 0 data = v.bump Reg.schRemoteCount 31 0 1 ∧
      (v.mem = u.mem ∧ v.queues = u.queues ∧ ∀ e' k', k' < 16 → ¬ (e' = e ∧ k' = k) → v.ctx e' k' = u.ctx e' k') ∧
      v.ctx e k = { u.ctx e k with tags := (u.ctx e k).tags.filter fun x => decide (x.tag ≠ tag),
                                   landing := (u.ctx e k).landing ++ [⟨r, data⟩] } := by
  have hctx := State.ctx_releaseTag (e := e) hc hk tag
  have haway : ¬ ((u.ctx e k).running || decide ((u.ctx e k).leftAt = some u.now)) = true := by
    rw [hoff, decide_eq_false hleft]
    decide
  refine ⟨_, (State.answerTag_good h hc hk).trans (if_neg haway), ⟨rfl, rfl, fun e' k' hk' hne => ?_⟩, ?_⟩
  · exact (Machine.setCtx_setCtx_ctx hc e k _ _ hk e' k' hk').trans (if_neg hne)
  · refine (Machine.setCtx_setCtx_ctx hc e k _ _ hk e k hk).trans ((if_pos ⟨rfl, rfl⟩).trans ?_)
    rw [hctx]

end Good

theorem State.tagTimeout_unknown (h : u.tagOwner tag = none) : u.tagTimeout tag = u := by
  unfold State.tagTimeout
  simp only [h]

theorem State.tagTimeout_known (h : u.tagOwner tag = some (e, k, r)) : u.tagTimeout tag =
    if u.now < r.issuedAt + us (u.fld Reg.ktfTimeout 15 0) then u else
      ((u.bump Reg.ktfRemoteCount 31 0 1).event Reg.ktfIntStatus 5).remoteFail e k r ⟨F.remoteTimeout, r.da, 0⟩ := by
  unfold State.tagTimeout
  simp only [h]

end Answer

/-- Settles O43: an answer by its status and whether its context holds the engine, a timeout by the time of its request. -/
theorem remoteRequestsAreAnswered : Obligations.RemoteRequestsAreAnswered := by
  unfold Obligations.RemoteRequestsAreAnswered
  intro others kept failed
  refine ⟨fun s u t tag status data h hi => ?_, fun s u t tag h hi => ?_⟩
  · have hanswer : exec (.remoteResponse t tag status data) s = .next (u.answerTag tag.toNat status.toNat data) := by
      obtain ⟨hrun, rfl⟩ := h
      exact live_next ⟨rfl, hrun⟩
    refine ⟨fun hnone => hanswer.trans (congrArg Host.Outcome.next (State.answerTag_unknown hnone)), fun e k r hown htag hk => ?_⟩
    intro c
    refine ⟨fun hs hon => ?_, fun hs hoff hleft => ?_, fun hs hoff => ?_⟩
    · exact hanswer.trans (congrArg Host.Outcome.next ((congrArg (u.answerTag tag.toNat · data) hs).trans
        (State.answerTag_lands hown hi.2.2.ctxs hk hon)))
    · obtain ⟨v, hv, hothers, hctx⟩ := State.answerTag_waits (data := data) hown hi.2.2.ctxs hk hoff hleft
      exact ⟨v, hanswer.trans (congrArg Host.Outcome.next ((congrArg (u.answerTag tag.toNat · data) hs).trans hv)), hothers, hctx⟩
    · refine ⟨_, hanswer.trans (congrArg Host.Outcome.next (State.answerTag_bad hown hs)), ?_⟩
      have hfail := remoteFail_waiting (f := ⟨F.remoteError, r.da, status.toNat⟩) hi.2.2.ctxs hk r hoff
      rw [htag] at hfail
      exact hfail
  · have htimeout : exec (.remoteTagTimeout t tag) s = .next (u.tagTimeout tag.toNat) := by
      obtain ⟨hrun, rfl⟩ := h
      exact live_next ⟨rfl, hrun⟩
    refine ⟨fun hnone => htimeout.trans (congrArg Host.Outcome.next (State.tagTimeout_unknown hnone)), fun e k r hown htag hk =>
      ⟨fun hearly => ?_, fun hdue hoff => ?_⟩⟩
    · exact htimeout.trans (congrArg Host.Outcome.next ((State.tagTimeout_known hown).trans (if_pos hearly)))
    · refine ⟨_, htimeout.trans (congrArg Host.Outcome.next ((State.tagTimeout_known hown).trans (if_neg (Nat.not_lt.mpr hdue)))), ?_⟩
      have hfail := remoteFail_waiting (x := (u.bump Reg.ktfRemoteCount 31 0 1).event Reg.ktfIntStatus 5) (f := ⟨F.remoteTimeout, r.da, 0⟩) hi.2.2.ctxs hk r hoff
      rw [htag] at hfail
      exact hfail

end Sys2Proof.Machine
end

section
/-! SUPPORT. Job steps are placed (O44), and engines are tested in turn (O45). -/

namespace Sys2Proof.Machine

section Jobs
variable {u w : State} {p n : Nat} {rest : List Nat}

theorem State.placeNext_off (h : bit (u.rd Reg.schCtrl) 0 = false ∨ bit (u.rd (Reg.schJobCfg p)) 0 = false ∨ (u.job p).halted = true) :
    u.placeNext p = u := by
  refine if_pos ?_
  rcases h with h | h | h
  · exact .inl (by rw [h]; rfl)
  · exact .inr (.inl (by rw [h]; rfl))
  · exact .inr (.inr h)

section On
variable (h1 : bit (u.rd Reg.schCtrl) 0 = true) (h2 : bit (u.rd (Reg.schJobCfg p)) 0 = true) (h3 : (u.job p).halted = false)
include h1 h2 h3

theorem State.placeNext_on : u.placeNext p = if ((u.jobTail p).job p).halted ∨ ((u.jobTail p).job p).fresh then u.jobTail p
    else (((u.jobTail p).job p).window.findSome? ((u.jobTail p).jobStep p)).getD (u.jobTail p) :=
  if_neg (by rw [h1, h2, h3]; decide)

/-- With no entry to look at, the tail has been read and nothing is placed. -/
theorem State.placeNext_empty (hw : u.jobTail p = w) (h : (w.job p).halted = true ∨ (w.job p).fresh = true ∨ (w.job p).window = []) :
    u.placeNext p = w := by
  rw [State.placeNext_on h1 h2 h3, hw]
  rcases h with h | h | h
  · exact if_pos (.inl h)
  · exact if_pos (.inr h)
  · rw [h, List.findSome?_nil]
    exact ite_self _

/-- The only entry that waits cannot be placed. -/
theorem State.placeNext_stays (hw : u.jobTail p = w) (h4 : (w.job p).halted = false) (h5 : (w.job p).fresh = false)
    (h6 : (w.job p).window = [n]) (h7 : w.jobStep p n = none) : u.placeNext p = w := by
  rw [State.placeNext_on h1 h2 h3, hw, h4, h5, h6, List.findSome?_cons, h7]
  rfl

end On

section Held
variable {b : List Byte} {j : JobEntry} (hm : w.memFault (w.jobDa p n) 64 = none) (hh : w.holdsBytes (w.jobDa p n) 64 = true)
  (hb : w.load (w.jobDa p n) 64 = b)
include hm hh hb

theorem State.jobStep_wrongSeq (hs : leField b 0 4 ≠ n) : w.jobStep p n = some (w.jobHalt p n (leField b 0 4) 2) := by
  rw [jobStep_held hm hh, hb]
  exact if_pos hs

theorem State.jobStep_invalid (hs : leField b 0 4 = n) (hbad : jobBad b = true) : w.jobStep p n = some (w.jobInvalid p n (jobOf b)) := by
  rw [jobStep_held hm hh, hb]
  exact (if_neg (not_not_intro hs)).trans (if_pos hbad)

theorem State.jobStep_unready (hs : leField b 0 4 = n) (hbad : jobBad b = false)
    (h : w.depMet (jobOf b) = false ∨ w.clientReady p (jobOf b).client = false) : w.jobStep p n = none := by
  rw [jobStep_held hm hh, hb]
  refine (if_neg (not_not_intro hs)).trans ((if_neg (Bool.eq_false_iff.mp hbad)).trans (if_neg ?_))
  rw [Bool.and_eq_true]
  rintro ⟨hclient, hdep⟩
  rcases h with h | h
  · exact Bool.false_ne_true (h.symm.trans hdep)
  · exact Bool.false_ne_true (h.symm.trans hclient)

theorem State.jobStep_ready {e k : Nat} (hs : leField b 0 4 = n) (hbad : jobBad b = false) (hdep : w.depMet (jobOf b) = true)
    (hclient : w.clientReady p (jobOf b).client = true) (hk : k < 16) (ht : w.jobTarget p (jobOf b) = some (16 * e + k)) :
    w.jobStep p n = some (w.placeJob p n (jobOf b) e k) := by
  have he : (16 * e + k) / 16 = e := by omega
  have hk' : (16 * e + k) % 16 = k := by omega
  rw [jobStep_held hm hh, hb]
  refine (if_neg (not_not_intro hs)).trans ((if_neg (Bool.eq_false_iff.mp hbad)).trans ((if_pos (by rw [hclient, hdep]; rfl)).trans ?_))
  rw [ht, Option.map_some, he, hk']

end Held
end Jobs

/-- Settles O44: by the ring's state, and by what its first entry is found to be. -/
theorem jobsArePlaced : Obligations.JobsArePlaced := by
  intro s u t p h
  have hrun : exec (.jobPlace t p) s = .next (u.placeNext p) := live_next h
  refine ⟨fun hoff => hrun.trans (congrArg Host.Outcome.next (State.placeNext_off hoff)), fun h1 h2 h3 => ?_⟩
  intro w x
  refine ⟨fun hempty => hrun.trans (congrArg Host.Outcome.next (State.placeNext_empty h1 h2 h3 rfl hempty)),
    fun n rest h4 h5 h6 hm hh => ?_⟩
  intro b j
  have hstep : ∀ {v : State}, w.jobStep p n = some v → exec (.jobPlace t p) s = .next v :=
    fun h7 => hrun.trans (congrArg Host.Outcome.next (placeNext_first h1 h2 h3 rfl h4 h5 h6 h7))
  refine ⟨fun hs => hstep (State.jobStep_wrongSeq hm hh rfl hs), fun hs hbad => hstep (State.jobStep_invalid hm hh rfl hs hbad),
    fun hs hbad hnot hrest => ?_, fun hs hbad hdep hclient e k hk ht => hstep (State.jobStep_ready hm hh rfl hs hbad hdep hclient hk ht)⟩
  subst hrest
  exact hrun.trans (congrArg Host.Outcome.next
    (State.placeNext_stays h1 h2 h3 rfl h4 h5 h6 (State.jobStep_unready hm hh rfl hs hbad hnot)))

/-! ### The rotating self-test -/

section Test
variable {u : State} {e : Nat} {x : TestSlot}

theorem State.slotStart_none (h : u.slotKind e = none) (ues : List (Nat × Nat)) : u.slotStart e ues = u := by
  unfold State.slotStart
  simp only [h]

/-- The state in which a slot of kind k has been opened. -/
def State.slotOpened (u : State) (e : Nat) (k : TestKind) : State :=
  let w : State := { u with free := u.free + 1 }
  let w := if k = .rotation then { w with health := { w.health with slotAt := w.now + 1 } } else w
  w.setSlot e (some { engine := e, kind := k, start := u.now })

theorem State.slotStart_opens {k : TestKind} (h : u.slotKind e = some k) (ues : List (Nat × Nat)) : u.slotStart e ues =
    if (u.slotOpened e k).canWithdraw e then (u.slotOpened e k).withdraw e { engine := e, kind := k, start := u.now } ues
    else u.slotOpened e k := by
  unfold State.slotStart
  simp only [h]
  rfl

theorem State.testStart_none (h : u.slotOf e = none) : u.testStart e = u := by
  unfold State.testStart
  simp only [h]

theorem State.testEnd_none (h : u.slotOf e = none) (items : Nat) (ues : List (Nat × Nat)) : u.testEnd e items ues = u := by
  unfold State.testEnd
  simp only [h]

theorem State.testAbandon_none (h : u.slotOf e = none) : u.testAbandon e = u := by
  unfold State.testAbandon
  simp only [h]

section Slot
variable (hx : u.slotOf e = some x)
include hx

theorem State.testStart_past (h : x.testing.isSome = true ∨ x.start + us 50 < u.now) : u.testStart e = u := by
  unfold State.testStart
  simp only [hx]
  exact if_pos h

theorem State.testAbandon_testing (h : x.testing.isSome = true) : u.testAbandon e = u := by
  unfold State.testAbandon
  simp only [hx]
  exact if_pos (.inl h)

theorem State.testEnd_idle (h : x.testing = none) (items : Nat) (ues : List (Nat × Nat)) : u.testEnd e items ues = u := by
  unfold State.testEnd
  simp only [hx]
  exact if_pos (by rw [h]; rfl)

theorem State.testAbandon_due (h : x.testing = none) (hdue : x.start + us 50 ≤ u.now) :
    let w := ((u.slotOver e x.kind).readmit e []).bump Reg.schWithdraw 63 32 1
    let w := (w.event Reg.schIntStatus 2).event Reg.hltIntStatus 1
    u.testAbandon e = w.selfTestRecord e 2 x.kind Class.info 0 (w.engHealth e).lastPass := by
  unfold State.testAbandon
  simp only [hx]
  refine if_neg ?_
  rw [h]
  rintro (hs | hs)
  · exact Bool.false_ne_true hs
  · exact absurd hdue (Nat.not_le.mpr hs)

section Waiting
variable (h : x.testing = none) (hin : u.now ≤ x.start + us 50)
include h hin

/-- While the test may begin, the engine is withdrawn first where it can be. -/
theorem State.testStart_waiting {w : State} {y : TestSlot} (hw : (if x.draining && u.canWithdraw e then u.withdraw e x [] else u) = w)
    (hy : w.slotOf e = some y) : u.testStart e = if y.draining then w else w.setSlot e (some { y with testing := some w.now }) := by
  have hnot : ¬ (x.testing.isSome = true ∨ x.start + us 50 < u.now) := by
    rw [h]
    rintro (hs | hs)
    · exact Bool.false_ne_true hs
    · exact absurd hin (Nat.not_le.mpr hs)
  unfold State.testStart
  simp only [hx, if_neg hnot, hw, hy]

theorem State.testStart_withdrawn (hd : x.draining = false) : u.testStart e = u.setSlot e (some { x with testing := some u.now }) :=
  (State.testStart_waiting hx h hin (if_neg (by rw [hd, Bool.false_and]; decide)) hx).trans (if_neg (Bool.eq_false_iff.mp hd))

theorem State.testStart_draining (hd : x.draining = true) (hc : u.canWithdraw e = false) : u.testStart e = u :=
  (State.testStart_waiting hx h hin (if_neg (by rw [hd, hc]; decide)) hx).trans (if_pos hd)

theorem State.testStart_withdraws (hd : x.draining = true) (hc : u.canWithdraw e = true) {y : TestSlot}
    (hy : (u.withdraw e x []).slotOf e = some y) (hyd : y.draining = false) :
    u.testStart e = (u.withdraw e x []).setSlot e (some { y with testing := some (u.withdraw e x []).now }) :=
  (State.testStart_waiting hx h hin (if_pos (by rw [hd, hc]; rfl)) hy).trans (if_neg (Bool.eq_false_iff.mp hyd))

end Waiting

section Ends
variable (h : x.testing.isSome = true) (ues : List (Nat × Nat))
include h

theorem State.testEnd_fails {items : Nat} (hi : items ≠ 0) :
    u.testEnd e items ues = ((u.testWorn e).testFail e x items).serveRequest e false items := by
  rw [testEnd_at hx h, if_neg hi, decide_eq_false hi]

theorem State.testEnd_passes {items : Nat} (hi : items = 0) :
    u.testEnd e items ues = ((u.testWorn e).testPass e x ues).serveRequest e true 0 := by
  subst hi
  exact testEnd_at hx h

end Ends
end Slot
end Test

/-- Settles O45: each command by the engine's slot and how far its test has come. -/
theorem enginesAreTestedInTurn : Obligations.EnginesAreTestedInTurn := by
  intro s u t e ues items h errs
  have hstart : exec (.selftestStart t e) s = .next (u.testStart e) := live_next h
  have hend : exec (.selftestEnd t e items ues) s = .next (u.testEnd e items.toNat errs) := live_next h
  have habandon : exec (.selftestAbandon t e) s = .next (u.testAbandon e) := live_next h
  have hopen : exec (.selftestSlotStart t e ues) s = .next (u.slotStart e errs) := live_next h
  refine ⟨?_, fun hnone => hopen.trans (congrArg Host.Outcome.next (State.slotStart_none hnone _)), fun k hk => ?_, fun hnone => ?_,
    fun x hx => ?_⟩
  · intro due
    exact ⟨fun hdue => (live_next h).trans (congrArg Host.Outcome.next (if_pos hdue)),
      fun hdue => (live_next h).trans (congrArg Host.Outcome.next (if_neg hdue))⟩
  · intro x w w1 w2
    have hrun := hopen.trans (congrArg Host.Outcome.next (State.slotStart_opens hk errs))
    exact ⟨fun hc => hrun.trans (congrArg Host.Outcome.next (if_neg (Bool.eq_false_iff.mp hc))),
      fun hc => hrun.trans (congrArg Host.Outcome.next (if_pos hc))⟩
  · exact ⟨hstart.trans (congrArg Host.Outcome.next (State.testStart_none hnone)),
      hend.trans (congrArg Host.Outcome.next (State.testEnd_none hnone _ _)),
      habandon.trans (congrArg Host.Outcome.next (State.testAbandon_none hnone))⟩
  · refine ⟨fun ht => ⟨?_, ?_⟩, fun ht => ?_, fun ht hp => ?_, fun ht hin hd => ?_, fun ht hin hd hc => ?_, fun ht hin hd hc => ?_,
      fun ht hdue => ?_, fun ht => ?_⟩
    · exact hstart.trans (congrArg Host.Outcome.next (State.testStart_past hx (.inl ht)))
    · exact habandon.trans (congrArg Host.Outcome.next (State.testAbandon_testing hx ht))
    · exact hend.trans (congrArg Host.Outcome.next (State.testEnd_idle hx ht _ _))
    · exact hstart.trans (congrArg Host.Outcome.next (State.testStart_past hx (.inr hp)))
    · exact hstart.trans (congrArg Host.Outcome.next (State.testStart_withdrawn hx ht hin hd))
    · exact hstart.trans (congrArg Host.Outcome.next (State.testStart_draining hx ht hin hd hc))
    · intro w y hy hyd
      exact hstart.trans (congrArg Host.Outcome.next (State.testStart_withdraws hx ht hin hd hc hy hyd))
    · exact habandon.trans (congrArg Host.Outcome.next (State.testAbandon_due hx ht hdue))
    · intro w hh
      refine ⟨fun hi => hend.trans (congrArg Host.Outcome.next (State.testEnd_fails hx ht errs hi)), fun hi => ?_⟩
      intro n v
      have hpass := hend.trans (congrArg Host.Outcome.next (State.testEnd_passes hx ht errs hi))
      have hserve : ∀ {z : State}, w.testPass e x errs = z → exec (.selftestEnd t e items ues) s = .next (z.serveRequest e true 0) :=
        fun hz => hpass.trans (congrArg (fun z : State => Host.Outcome.next (z.serveRequest e true 0)) hz)
      exact ⟨fun hin => hserve (testPass_in x errs hin), fun hout hc => hserve (testPass_stays x errs hout hc),
        fun hout hn hf => hserve (testPass_returns x errs hout hn hf)⟩

end Sys2Proof.Machine
end

section
/-! SUPPORT. The stand-ins of Pulse engines (O46). -/

namespace Sys2Proof.Machine

section Standin
variable {s u : State} {t : Nat} {ag : Agent} {i : Nat}

/-! ### SCH_STANDIN -/

theorem fin4_cases (hi : i < 4) : i = 0 ∨ i = 1 ∨ i = 2 ∨ i = 3 := by omega

theorem regFind_standin (hi : i < 4) {v : Nat} (hn : bits v 40 30 ≠ 0) :
    ∃ d, regFind (Reg.schStandin i) = some d ∧ d.acc = .rw ∧ d.bad v = false ∧ d.mask = 0x1ffffffffff := by
  have hbad : (bits v 40 30 == 0) = false := beq_eq_false_iff_ne.mpr hn
  obtain rfl | rfl | rfl | rfl := fin4_cases hi <;> exact ⟨_, rfl, rfl, hbad, rfl⟩

theorem State.standin_plain (u : State) (hi : i < 4) (v w : Nat) :
    regionOf (Reg.schStandin i) = .register ∧ Reg.schStandin i % 8 = 0 ∧ u.locked (Reg.schStandin i) w = false ∧
    u.valueBad (Reg.schStandin i) v = false := by
  obtain rfl | rfl | rfl | rfl := fin4_cases hi <;> exact ⟨rfl, rfl, rfl, rfl⟩

theorem State.applyWrite_standin (u : State) (hi : i < 4) (w v : Nat) :
    u.applyWrite (Reg.schStandin i) w v false = u.writeStandin i w := by
  obtain rfl | rfl | rfl | rfl := fin4_cases hi <;> rfl

theorem exec_standinWrite {j : Fin 4} {v : BitVec 64} (h : s.WritesAt t ag (Reg.schStandin j) u)
    (hm : u.mayWrite ag (Reg.schStandin j) = true) (hn : bits v.toNat 40 30 ≠ 0) :
    exec (.standinWrite t j v ag) s = .next (u.writeStandin j (v.toNat &&& 0x1ffffffffff)) := by
  obtain ⟨d, hf, hacc, hbad, hmask⟩ := regFind_standin j.isLt hn
  obtain ⟨hregion, halign, hlocked, hvalue⟩ := u.standin_plain j.isLt v.toNat (v.toNat &&& d.mask)
  have hwrite := State.writeReg_at (f := false) hregion halign hf (.inl hacc) hlocked hbad hvalue hm
  rw [State.applyWrite_standin u j.isLt, hmask] at hwrite
  exact (State.writeAt_runs h).trans (congrArg Host.Outcome.next hwrite)

/-! ### The mirror and the two handovers -/

theorem State.standin_none (h : u.standinOf i = none) (ues : List (Nat × Nat)) :
    u.standinPrepare i = u ∧ u.standinHandover i = u ∧ u.standinDrained i ues = u := by
  unfold State.standinPrepare State.standinHandover State.standinDrained
  simp only [h, and_self]

section Known
variable {er es k : Nat} (h : u.standinOf i = some (er, es, k))
include h

theorem State.standinPrepare_mirrored (hm : i ∈ u.mirrors ∨ u.engineOut er = true) : u.standinPrepare i = u := by
  unfold State.standinPrepare
  simp only [h]
  exact if_pos hm

theorem State.standinPrepare_copies (hm : i ∉ u.mirrors) (ho : u.engineOut er = false) :
    let first := u.fld (Reg.schStandin i) 29 19
    let n := u.fld (Reg.schStandin i) 40 30
    let w := u.store (shelfDa es (first * 4096)) (u.load (shelfDa er (first * 4096)) (n * 4096))
    let w := (List.range n).foldl (fun w b => w.setTag es (first + b) (w.tag er (first + b))) w
    u.standinPrepare i = ({ w with mirrors := w.mirrors ++ [i] }).pinStandin es k := by
  unfold State.standinPrepare
  simp only [h]
  refine if_neg ?_
  rw [ho]
  rintro (hin | hout)
  · exact hm hin
  · exact Bool.false_ne_true hout

section Moved
variable (hmoved : i ∈ u.moved)
include hmoved

theorem State.standinHandover_held (hs : u.engineOut er = true ∨ (u.slotOf er).isSome = true) : u.standinHandover i = u := by
  unfold State.standinHandover
  simp only [h, if_pos hmoved]
  exact if_pos hs

theorem State.standinHandover_back (ho : u.engineOut er = false) (hs : u.slotOf er = none) :
    u.standinHandover i = { u.moveHeld es er (u.pulseQueue er) with
      moved := (u.moveHeld es er (u.pulseQueue er)).moved.filter (· ≠ i)
      returning := (u.moveHeld es er (u.pulseQueue er)).returning ++ [i] } := by
  unfold State.standinHandover
  simp only [h, if_pos hmoved]
  refine if_neg ?_
  rw [ho, hs]
  rintro (hout | hslot)
  · exact Bool.false_ne_true hout
  · exact Bool.false_ne_true hslot

theorem State.standinDrained_noSlot (hs : u.slotOf er = none) (ues : List (Nat × Nat)) : u.standinDrained i ues = u := by
  unfold State.standinDrained
  simp only [h, if_pos hmoved, hs]

theorem State.standinDrained_slot {x : TestSlot} (hs : u.slotOf er = some x) (ues : List (Nat × Nat)) :
    u.standinDrained i ues = if x.draining && u.fifosEmpty er then u.withdraw er x ues else u := by
  unfold State.standinDrained
  simp only [h, if_pos hmoved, hs]

end Moved

section Home
variable (hmoved : i ∉ u.moved)
include hmoved

theorem State.standinHandover_out (hm : i ∈ u.mirrors) (hr : i ∉ u.returning) : u.standinHandover i =
    { u.moveHeld er es (u.ctx es k).slot with moved := (u.moveHeld er es (u.ctx es k).slot).moved ++ [i] } := by
  unfold State.standinHandover
  simp only [h, if_neg hmoved]
  exact if_pos ⟨hm, hr⟩

theorem State.standinDrained_out (hr : i ∉ u.returning) (ues : List (Nat × Nat)) : u.standinDrained i ues = u := by
  unfold State.standinDrained
  simp only [h, if_neg hmoved]
  exact if_neg fun hret => hr hret.1

theorem State.standinDrained_ends (hr : i ∈ u.returning) (hf : u.fifosEmpty es = true) (ues : List (Nat × Nat)) :
    let w := u.setCtx es k { u.ctx es k with cfg := putBits (u.ctx es k).cfg 7 7 0, standin := false }
    u.standinDrained i ues = { w with mirrors := w.mirrors.filter (· ≠ i), returning := w.returning.filter (· ≠ i) } := by
  unfold State.standinDrained
  simp only [h, if_neg hmoved]
  exact if_pos ⟨hr, hf⟩

end Home
end Known
end Standin

/-- Settles O46: the write by what it names, the other three by whether the stand-in has taken over. -/
theorem standInsTakePulseTriggers : Obligations.StandInsTakePulseTriggers := by
  refine ⟨fun s u t i v ag h => ?_, fun s u t i ues h => ⟨fun hnone => ?_, fun er es k hk => ?_⟩⟩
  · intro w bad hm hn
    have hwrite := exec_standinWrite h hm hn
    exact ⟨fun hbad => hwrite.trans (congrArg Host.Outcome.next (if_pos hbad)),
      fun hok => hwrite.trans (congrArg Host.Outcome.next (if_neg hok))⟩
  · obtain ⟨hprepare, hhandover, hdrained⟩ := State.standin_none hnone (hatchErrs ues)
    exact ⟨(live_next h).trans (congrArg Host.Outcome.next hprepare), (live_next h).trans (congrArg Host.Outcome.next hhandover),
      (live_next h).trans (congrArg Host.Outcome.next hdrained)⟩
  · have hhand : exec (.standinHandover t i) s = .next (u.standinHandover i) := live_next h
    have hdrain : exec (.standinFifoDrained t i ues) s = .next (u.standinDrained i (hatchErrs ues)) := live_next h
    refine ⟨fun hm => ?_, fun hm ho => ?_, fun hmoved => ⟨fun hs => ?_, fun ho hs => ?_, fun hs => ?_, fun x hx => ⟨fun hd hf => ?_,
      fun hnot => ?_⟩⟩, fun hmoved hm hr => ?_, fun hmoved hr hf => ?_⟩
    · exact (live_next h).trans (congrArg Host.Outcome.next (State.standinPrepare_mirrored hk hm))
    · exact (live_next h).trans (congrArg Host.Outcome.next (State.standinPrepare_copies hk hm ho))
    · exact hhand.trans (congrArg Host.Outcome.next (State.standinHandover_held hk hmoved hs))
    · exact hhand.trans (congrArg Host.Outcome.next (State.standinHandover_back hk hmoved ho hs))
    · exact hdrain.trans (congrArg Host.Outcome.next (State.standinDrained_noSlot hk hmoved hs _))
    · exact hdrain.trans (congrArg Host.Outcome.next ((State.standinDrained_slot hk hmoved hx _).trans (if_pos (by rw [hd, hf]; rfl))))
    · refine hdrain.trans (congrArg Host.Outcome.next ((State.standinDrained_slot hk hmoved hx _).trans (if_neg ?_)))
      rwa [Bool.not_eq_true, Bool.and_eq_false_iff]
    · exact ⟨hhand.trans (congrArg Host.Outcome.next (State.standinHandover_out hk hmoved hm hr)),
        hdrain.trans (congrArg Host.Outcome.next (State.standinDrained_out hk hmoved hr _))⟩
    · exact hdrain.trans (congrArg Host.Outcome.next (State.standinDrained_ends hk hmoved hr hf _))

end Sys2Proof.Machine
end

section
/-! SUPPORT. Packets are taken in sequence (O47), and requests are served in the order of their checks (O48). -/

namespace Sys2Proof.Machine

section Sequence
variable {s u v : State} {t k : Nat} {p : Packet}

/-- A packet that the link refuses: the port is not UP or the SEQ is not the next one. -/
theorem refused_packet {c : Instr} {q : Packet} (hq : q.seq = p.seq)
    (hc : ∀ v, u.linkReceive k q = (v, false) → exec c s = .next v) :
    (u.linkState k ≠ 2 → exec c s = .next u) ∧
    (p.seq % 4096 ≠ ((u.link k).rx + 1) % 4096 →
      (((u.link k).rx + 4096 - p.seq % 4096) % 4096 < 2048 → exec c s = .next u) ∧
      (u.linkState k = 2 → ¬ ((u.link k).rx + 4096 - p.seq % 4096) % 4096 < 2048 → exec c s = .next (u.sendNak k))) := by
  rw [← hq]
  exact ⟨fun hdown => hc u (link_shut (.inl hdown)), fun hseq => ⟨fun hold => hc u (link_shut (.inr ⟨hseq, hold⟩)),
    fun hup hnew => hc _ (link_gap hup hseq hnew)⟩⟩

theorem State.takeTick_bad {master count : Nat} (hm : leField p.payload 12 2 % 8192 = master) (hc : leField p.payload 0 8 = count)
    (h : ¬ (bit (v.rd Reg.ktfTickCfg) 16 = true ∧ v.fld Reg.ktfTickCfg 12 0 = master ∧ v.tick.fabSeen ≠ some count)) :
    v.takeTick p = (v.bump Reg.ktfTickCount 63 32 1).event Reg.ktfIntStatus 6 := by
  subst hm hc
  refine if_neg ?_
  rw [Bool.and_eq_true, Bool.and_eq_true, decide_eq_true_eq, decide_eq_true_eq]
  exact fun hgood => h ⟨hgood.1.1, hgood.1.2, hgood.2⟩

theorem State.takeTick_good {master count : Nat} (hm : leField p.payload 12 2 % 8192 = master) (hc : leField p.payload 0 8 = count)
    (h : bit (v.rd Reg.ktfTickCfg) 16 = true ∧ v.fld Reg.ktfTickCfg 12 0 = master ∧ v.tick.fabSeen ≠ some count) :
    v.takeTick p = (((v.bump Reg.ktfTickCount 31 0 1).forwardTick master p.payload).hearTick count).followTick p.hops := by
  subst hm hc
  obtain ⟨hon, hmaster, hnew⟩ := h
  refine if_pos ?_
  rw [Bool.and_eq_true, Bool.and_eq_true, decide_eq_true_eq, decide_eq_true_eq]
  exact ⟨⟨hon, hmaster⟩, hnew⟩

theorem State.takeResponse_eq (v : State) (q : Packet) : v.takeResponse q = if responseOk q then
    (v.inOrder (tagPlace q.tag) 0).answerTag q.tag q.status q.payload else v.bump Reg.ktfRemoteCount 63 32 1 := rfl

theorem exec_fabricTick_taken {n : Fin 8} (h : s.RunsAt t u) (ht : u.Takes n { p with type := 0x10 } v) :
    exec (.fabricTick t n p) s = .next ((v.takeTick p).consume n { p with type := 0x10 }) := by
  rw [exec_tick h, link_takes ht]

end Sequence

/-- Settles O47: a packet by whether the link takes it, and one that is taken by its kind. -/
theorem packetsAreTakenInSequence : Obligations.PacketsAreTakenInSequence := by
  intro s u t n m p h
  refine ⟨?_, fun k v => ?_, fun k v => ?_, fun v => ?_, fun v => ⟨fun ht => ?_, fun ht => ?_⟩, fun hup => ?_, fun hdown => ?_⟩
  · intro out
    refine ⟨fun k => ?_, fun k => ?_, ?_, ?_, ?_⟩
    · exact refused_packet (q := { p with type := k.val + 1 }) rfl fun v hv =>
        (exec_request h k).trans (congrArg Host.Outcome.next (from_not hv _))
    · exact refused_packet (q := { p with type := k.val + 8 }) rfl fun v hv =>
        (exec_response h k).trans (congrArg Host.Outcome.next (from_not hv _))
    · exact refused_packet (q := { p with type := 0x10 }) rfl fun v hv => by rw [exec_tick h, hv]
    · exact refused_packet (q := { p with type := 0x11 }) rfl fun v hv => by rw [exec_idle h, hv]
    · exact refused_packet (q := { p with type := 0x11, nak := true }) rfl fun v hv => by rw [exec_nak h, hv]
  · intro q ht
    exact (exec_request h k).trans (congrArg Host.Outcome.next (from_takes ht _))
  · intro q ht
    refine (exec_response h k).trans (congrArg Host.Outcome.next ((from_takes ht _).trans ?_))
    rw [State.takeResponse_eq]
    by_cases hd : p.dst = v.moduleId
    · rw [if_pos hd, if_neg (not_not_intro hd)]
      split <;> rfl
    · rw [if_neg hd, if_pos hd]
  · intro q ht master count good
    have htick : exec (.fabricTick t n p) s = .next ((v.takeTick p).consume n q) := exec_fabricTick_taken h ht
    refine ⟨fun hbad => ?_, fun hgood => ?_⟩
    · have hcounted := State.takeTick_bad (v := v) (p := p) (master := master) (count := count) rfl rfl hbad
      rw [htick, hcounted]
    · intro w
      have hfollowed : v.takeTick p = (w.hearTick count).followTick p.hops := State.takeTick_good rfl rfl hgood
      clear_value w
      rw [htick, hfollowed]
      rfl
  · rw [exec_idle h, link_takes ht]
  · rw [exec_nak h, link_takes ht]
  · obtain ⟨rfl, hs⟩ := h
    exact (gate_next hs).trans (congrArg Host.Outcome.next (if_pos hup))
  · obtain ⟨rfl, hs⟩ := h
    exact (gate_next hs).trans (congrArg Host.Outcome.next (if_neg hdown))

/-! ### Requests -/

section Request
variable {s u v : State} {t n part code : Nat} {q : Packet} {act : MemAct}

/-- The refusal of a request, noted and answered. -/
def State.refuseRequest (v : State) (n : Nat) (q : Packet) (part code : Nat) : State :=
  (v.noteReject n part q.addr code).sendOwn (q.response v.moduleId code [])

theorem State.servePacket_malformed (h : packetAct q = none) : v.servePacket n q = v.refuseRequest n q 0x80 F.fabricPacket := by
  unfold State.servePacket
  simp only [h]
  rfl

section Formed
variable (h : packetAct q = some act)
include h

theorem State.servePacket_outside (hf : v.offsetFault q.addr (packetSpan q act) = some F.addrRange) :
    v.servePacket n q = v.refuseRequest n q 0x80 F.addrRange := by
  unfold State.servePacket
  simp only [h]
  exact if_pos hf

variable (hf : v.offsetFault q.addr (packetSpan q act) ≠ some F.addrRange)
include hf

theorem State.servePacket_unadmitted (hw : (List.range 8).find? (fun i => v.windowAdmits i q) = none) :
    v.servePacket n q = v.refuseRequest n q 0x80 F.fabricAccess := by
  unfold State.servePacket
  simp only [h, if_neg hf, hw]
  rfl

variable {i : Nat} (hw : (List.range 8).find? (fun i => v.windowAdmits i q) = some i)
include hw

theorem State.servePacket_unserved (hc : v.offsetFault q.addr (packetSpan q act) = some code) :
    v.servePacket n q = v.refuseRequest n q (v.fld (Reg.ktfExportCfg i) 3 1) code := by
  rw [hc] at hf
  unfold State.servePacket
  simp only [h, hc, if_neg hf, hw]
  rfl

theorem State.servePacket_served (hc : v.offsetFault q.addr (packetSpan q act) = none) : v.servePacket n q =
    v.request { req := ⟨packetId q, .fabric, Fin.ofNat 8 (v.fld (Reg.ktfExportCfg i) 3 1), q.addr, packetSpan q act⟩, act := act, pkt := some (n, q) } := by
  rw [hc] at hf
  unfold State.servePacket
  simp only [h, hc, if_neg hf, hw]

end Formed

theorem exec_request_here {m : Fin 8} {p : Packet} {k : Fin 4} (h : s.RunsAt t u) (hv : u.Takes m { p with type := k.val + 1 } v)
    (hd : p.dst = v.moduleId) : exec (fabricRequest k t m p) s =
      .next ((v.servePacket m { p with type := k.val + 1 }).consume m { p with type := k.val + 1 }) :=
  (exec_request h k).trans (congrArg Host.Outcome.next ((from_takes hv _).trans (if_pos hd)))

end Request

/-- Settles O48: a request by the first of the checks that it fails. -/
theorem requestsAreServedInOrder : Obligations.RequestsAreServedInOrder := by
  intro s u v t n p k h q hv hd refused
  have hrun := exec_request_here h hv hd
  have hthen : ∀ {z : State}, v.servePacket n q = z → exec (fabricRequest k t n p) s = .next (z.consume n q) :=
    fun hz => hrun.trans (congrArg (fun z : State => Host.Outcome.next (z.consume n q)) hz)
  refine ⟨fun hform => hthen (State.servePacket_malformed hform), fun act hact => ?_⟩
  intro fault window
  refine ⟨fun hf => hthen (State.servePacket_outside hact hf), fun hf hw => hthen (State.servePacket_unadmitted hact hf hw),
    fun i hf hw => ?_⟩
  intro part
  exact ⟨fun code hc => hthen (State.servePacket_unserved hact hf hw hc), fun hc => hthen (State.servePacket_served hact hf hw hc)⟩

end Sys2Proof.Machine
end

section
/-! SUPPORT. Links train and fail (O49). -/

namespace Sys2Proof.Machine

section Links
variable {s u : State} {t n : Nat} {ag : Agent}

/-! ### The two registers -/

theorem regFind_ktfCtrl (v : Nat) : ∃ d, regFind Reg.ktfCtrl = some d ∧ d.acc = .rw ∧ d.bad v = false ∧ d.mask = 1 :=
  ⟨_, rfl, rfl, rfl, rfl⟩

theorem State.writeReg_ktfCtrl (hm : u.mayWrite ag Reg.ktfCtrl = true) (en : Bool) :
    u.writeReg ag Reg.ktfCtrl 8 (b2n en) false = u.writeKtfCtrl (b2n en) := by
  obtain ⟨d, hf, hacc, hbad, hmask⟩ := regFind_ktfCtrl (b2n en)
  have happly : u.applyWrite Reg.ktfCtrl (b2n en &&& d.mask) (b2n en) false = u.writeKtf Reg.ktfCtrl (b2n en &&& d.mask) := rfl
  have hbit : b2n en &&& 1 = b2n en := by cases en <;> rfl
  rw [State.writeReg_at rfl rfl hf (.inl hacc) rfl hbad rfl hm, happly, hmask, hbit]
  exact if_pos rfl

theorem fin8_cases {i : Nat} (hi : i < 8) : i = 0 ∨ i = 1 ∨ i = 2 ∨ i = 3 ∨ i = 4 ∨ i = 5 ∨ i = 6 ∨ i = 7 := by omega

theorem regFind_portCtrl (hn : n < 8) : ∃ d, regFind (Reg.ktfPortCtrl n) = some d ∧ d.acc = .wo ∧ d.bad 1 = false ∧ d.mask = 2 ^ 64 - 1 := by
  obtain rfl | rfl | rfl | rfl | rfl | rfl | rfl | rfl := fin8_cases hn <;> exact ⟨_, rfl, rfl, rfl, rfl⟩

theorem State.portCtrl_plain (u : State) (hn : n < 8) (v w : Nat) :
    regionOf (Reg.ktfPortCtrl n) = .register ∧ Reg.ktfPortCtrl n % 8 = 0 ∧ u.locked (Reg.ktfPortCtrl n) w = false ∧
    u.valueBad (Reg.ktfPortCtrl n) v = false := by
  obtain rfl | rfl | rfl | rfl | rfl | rfl | rfl | rfl := fin8_cases hn <;> exact ⟨rfl, rfl, rfl, rfl⟩

theorem State.applyWrite_portCtrl (u : State) (hn : n < 8) (w v : Nat) :
    u.applyWrite (Reg.ktfPortCtrl n) w v false = if bit w 0 then u.retrain n else u := by
  obtain rfl | rfl | rfl | rfl | rfl | rfl | rfl | rfl := fin8_cases hn <;> rfl

theorem exec_retrain {m : Fin 8} (h : s.WritesAt t ag (Reg.ktfPortCtrl m) u) (hm : u.mayWrite ag (Reg.ktfPortCtrl m) = true) :
    exec (.retrain t m ag) s = .next (u.retrain m) := by
  obtain ⟨d, hf, hacc, hbad, hmask⟩ := regFind_portCtrl m.isLt
  obtain ⟨hregion, halign, hlocked, hvalue⟩ := u.portCtrl_plain m.isLt 1 (1 &&& d.mask)
  have hwrite := State.writeReg_at (f := false) hregion halign hf (.inr hacc) hlocked hbad hvalue hm
  rw [State.applyWrite_portCtrl u m.isLt, hmask, and_all64 (by decide)] at hwrite
  exact (State.writeAt_runs h).trans (congrArg Host.Outcome.next hwrite)

theorem exec_ktfEnable (h : s.WritesAt t ag Reg.ktfCtrl u) (hm : u.mayWrite ag Reg.ktfCtrl = true) (en : Bool) :
    exec (.ktfEnable t en ag) s = .next (u.writeKtfCtrl (b2n en)) :=
  (State.writeAt_runs h).trans (congrArg Host.Outcome.next (State.writeReg_ktfCtrl hm en))

/-! ### ENABLE -/

theorem State.writeKtfCtrl_on (h : bit (u.rd Reg.ktfCtrl) 0 = false) : u.writeKtfCtrl 1 =
    (List.range 8).foldl (fun w k => if w.role k = 0 then w else w.startTraining k) (u.wr Reg.ktfCtrl 1) := by
  unfold State.writeKtfCtrl
  rw [h]
  rfl

theorem State.writeKtfCtrl_off (h : bit (u.rd Reg.ktfCtrl) 0 = true) : u.writeKtfCtrl 0 =
    (List.range 8).foldl (fun w k => (w.setLink k {}).setLinkState k 0) (u.wr Reg.ktfCtrl 0) := by
  unfold State.writeKtfCtrl
  rw [h]
  rfl

theorem State.writeKtfCtrl_same {en : Bool} (h : bit (u.rd Reg.ktfCtrl) 0 = en) : u.writeKtfCtrl (b2n en) = u.wr Reg.ktfCtrl (b2n en) := by
  unfold State.writeKtfCtrl
  rw [h]
  cases en
  · exact foldl_id (List.range 8) (u.wr Reg.ktfCtrl 0)
  · exact foldl_id (List.range 8) (u.wr Reg.ktfCtrl 1)

/-! ### HELLO, lanes and the end of training -/

theorem State.hello_training {id peer : Nat} (h : u.linkState n = 1) :
    let w := u.wr (Reg.ktfPortNeighbor n) (id + peer * 2 ^ 16)
    let v := (w.setLinkState n 4).event Reg.ktfIntStatus 2
    u.hello n id peer = if (id, peer) = w.requiredPeer n then w.linkUp n else postFault v
      { code := F.fabricTopo, cls := Class.degraded, block := Blk.ktf, unit := n,
        payload := defaultPayload 0 (v.moduleId + id * 2 ^ 16) 0 0 0 } :=
  if_neg (not_not_intro h)

/-- A lane's codewords, counted. -/
def State.laneCounted (u : State) (n lane good bad : Nat) : State :=
  let w := (u.bump (fecReg n) 31 0 good).bump (fecReg n) 63 32 bad
  let recent := ((w.link n).bad.filter fun x => decide (w.now < x.2.1 + us 1000)) ++ [(lane, w.now, bad)]
  w.setLink n { w.link n with bad := recent }

/-- The uncorrectable codewords of a lane in the last 1 ms. -/
def State.laneErrors (u : State) (n lane good bad : Nat) : Nat :=
  let w := (u.bump (fecReg n) 31 0 good).bump (fecReg n) 63 32 bad
  let recent := ((w.link n).bad.filter fun x => decide (w.now < x.2.1 + us 1000)) ++ [(lane, w.now, bad)]
  ((recent.filter fun x => decide (x.1 = lane)).map (·.2.2)).foldl (· + ·) 0

theorem State.laneReport_live {lane : Nat} (h : (u.linkState n = 1 ∨ u.linkState n = 2) ∧ (u.link n).lanes.testBit lane = true)
    (good bad : Nat) (lost : Bool) : u.laneReport n lane good bad lost =
      if lost = true ∨ (u.laneCounted n lane good bad).fld Reg.ktfLaneThresh 7 0 ≤ u.laneErrors n lane good bad
      then (u.laneCounted n lane good bad).removeLane n lane else u.laneCounted n lane good bad :=
  if_pos h

theorem State.trainingDone_port (hn : n ≠ dulis) : u.trainingDone n =
    if u.linkState n = 1 ∧ (u.link n).matched = true then u.linkUp n else u :=
  if_neg hn

theorem State.trainingDone_up (h : u.linkState dulis = 2) : u.trainingDone dulis = u :=
  (if_pos rfl).trans (if_pos h)

/-- The Attic words that queues and WAITs watch. -/
def State.atticWatched (w : State) : List Nat :=
  (dedup (w.queues.flatMap fun x =>
    (if x.2.state = .disabled then [] else [w.rd (Reg.engQTailDa (x.1 / 4) (x.1 % 4))]) ++
      (x.2.ops.filter fun o => decide (Desc.op o.desc = Op.wait)).map fun o => Desc.arg o.desc 0)).filter
        fun a => decide (regionOf a = .attic)

section Dulis
variable {w : State} (h : u.linkState dulis ≠ 2) (hw : (if u.linkState dulis = 1 then u else u.startTraining dulis).linkUp dulis = w)
include h hw

theorem State.trainingDone_again (hm : (u.link dulis).matched = true) : u.trainingDone dulis = w := by
  refine (if_pos rfl).trans ((if_neg h).trans ((if_neg ?_).trans hw))
  rw [hm]
  decide

theorem State.trainingDone_first (hm : (u.link dulis).matched = false) :
    u.trainingDone dulis = w.atticWatched.foldl (fun w a => w.refetch (sectorOf a)) w := by
  rw [← hw]
  refine (if_pos rfl).trans ((if_neg h).trans (if_pos ?_))
  rw [hm]
  rfl

end Dulis
end Links

/-- Settles O49: each command by the state of its link and what it finds there. -/
theorem linksTrainAndFail : Obligations.LinksTrainAndFail := by
  unfold Obligations.LinksTrainAndFail
  intro trains up
  have hup : ∀ w k, up w k = w.linkUp k := up_eq
  refine ⟨fun s u t ag h hm => ?_, fun s u t n ag h hm => ⟨fun hon hr => ?_, fun hnot => ?_⟩, fun s u t n m h => ⟨fun id peer => ?_,
    fun lane good bad lost => ?_, fun ht hma => ?_, fun hnot => ?_, fun hd => ?_, fun hd => ?_⟩⟩
  · intro was
    have hen := exec_ktfEnable h hm
    exact ⟨fun hw => (hen true).trans (congrArg Host.Outcome.next (State.writeKtfCtrl_on hw)),
      fun hw => (hen false).trans (congrArg Host.Outcome.next (State.writeKtfCtrl_off hw)),
      fun hw => (hen true).trans (congrArg Host.Outcome.next (State.writeKtfCtrl_same hw)),
      fun hw => (hen false).trans (congrArg Host.Outcome.next (State.writeKtfCtrl_same hw))⟩
  · exact (exec_retrain h hm).trans (congrArg Host.Outcome.next (if_pos ⟨hon, hr⟩))
  · refine (exec_retrain h hm).trans (congrArg Host.Outcome.next (if_neg ?_))
    rintro ⟨hon, hr⟩
    rcases hnot with hoff | hnone
    · exact Bool.false_ne_true (hoff.symm.trans hon)
    · exact hr hnone
  · have hhello : exec (.hello t n id peer) s = .next (u.hello n id.toNat peer) := live_next h
    refine ⟨fun hnot => hhello.trans (congrArg Host.Outcome.next (if_pos hnot)), fun ht => ?_⟩
    intro w
    have hrun := hhello.trans (congrArg Host.Outcome.next (State.hello_training (id := id.toNat) (peer := peer) ht))
    refine ⟨fun hp => ?_, fun hp => hrun.trans (congrArg Host.Outcome.next (if_neg hp))⟩
    rw [hup]
    exact hrun.trans (congrArg Host.Outcome.next (if_pos hp))
  · intro live w0 recent w count lanes v
    have hrep : exec (.laneRemove t m lane good bad lost) s = .next (u.laneReport m lane good bad lost) := live_next h
    refine ⟨fun hdead => hrep.trans (congrArg Host.Outcome.next (if_neg hdead)), fun hl hlost hc => ?_, fun hl hover => ?_⟩
    · refine hrep.trans (congrArg Host.Outcome.next ((State.laneReport_live hl good bad lost).trans (if_neg ?_)))
      rintro (hyes | hmany)
      · exact Bool.false_ne_true (hlost.symm.trans hyes)
      · exact absurd hc (Nat.not_lt.mpr hmany)
    · have hrem : exec (.laneRemove t m lane good bad lost) s = .next (w.removeLane m lane) :=
        hrep.trans (congrArg Host.Outcome.next ((State.laneReport_live hl good bad lost).trans (if_pos hover)))
      refine ⟨fun hlanes => hrem.trans (congrArg Host.Outcome.next (if_neg hlanes)), fun hlanes => ?_⟩
      intro y y'
      exact hrem.trans (congrArg Host.Outcome.next (if_pos hlanes))
  · have hn : n.castSucc.val ≠ dulis := Nat.ne_of_lt n.isLt
    rw [hup]
    exact (live_next h).trans (congrArg Host.Outcome.next ((State.trainingDone_port hn).trans (if_pos ⟨ht, hma⟩)))
  · have hn : n.castSucc.val ≠ dulis := Nat.ne_of_lt n.isLt
    refine (live_next h).trans (congrArg Host.Outcome.next ((State.trainingDone_port hn).trans (if_neg ?_)))
    rintro ⟨ht, hma⟩
    rcases hnot with hnot | hnot
    · exact hnot ht
    · exact Bool.false_ne_true (hnot.symm.trans hma)
  · exact (live_next h).trans (congrArg Host.Outcome.next (State.trainingDone_up hd))
  · intro w watched
    have hw : (if u.linkState dulis = 1 then u else u.startTraining dulis).linkUp dulis = w := (hup _ dulis).symm
    exact ⟨fun hma => (live_next h).trans (congrArg Host.Outcome.next (State.trainingDone_again hd hw hma)),
      fun hma => (live_next h).trans (congrArg Host.Outcome.next (State.trainingDone_first hd hw hma))⟩

end Sys2Proof.Machine
end

section
/-! SUPPORT. What the companion's messages do (O50). -/

namespace Sys2Proof.Machine

section Companion
variable {s u v : State} {t n da : Nat} {p : Packet}

/-! ### Messages that the link takes -/

theorem exec_dataS (h : s.RunsAt t u) (hv : u.Takes dulis p v) : exec (.dataS t p) s = .next ((v.atticData p .s).consume dulis p) :=
  (live_next h).trans (congrArg Host.Outcome.next (comp_takes hv _))

theorem exec_dataE (h : s.RunsAt t u) (hv : u.Takes dulis p v) : exec (.dataE t p) s = .next ((v.atticData p .e).consume dulis p) :=
  (live_next h).trans (congrArg Host.Outcome.next (comp_takes hv _))

theorem exec_snpInv (h : s.RunsAt t u) (hv : u.Takes dulis p v) :
    exec (.snpInv t p) s = .next (((v.snoop p fun _ => .i).refetch (v.sectorAt p.addr)).consume dulis p) :=
  (live_next h).trans (congrArg Host.Outcome.next (comp_takes hv _))

theorem exec_snpShared (h : s.RunsAt t u) (hv : u.Takes dulis p v) :
    exec (.snpShared t p) s = .next ((v.snoop p fun st => if st = .e then .s else st).consume dulis p) :=
  (live_next h).trans (congrArg Host.Outcome.next (comp_takes hv _))

theorem exec_wrAck_unknown (h : s.RunsAt t u) (hv : u.Takes dulis p v)
    (hw : v.attic.writes.find? (fun w => decide (w.tag = p.tag)) = none) : exec (.wrAck t p) s = .next (v.consume dulis p) := by
  refine (live_next h).trans (congrArg Host.Outcome.next ((comp_takes hv _).trans ?_))
  simp only [hw]

theorem exec_wrAck_known (h : s.RunsAt t u) (hv : u.Takes dulis p v) {w : AtticWrite}
    (hw : v.attic.writes.find? (fun w => decide (w.tag = p.tag)) = some w) :
    let y := v.inOrder (dulisPlace p.tag) 0
    exec (.wrAck t p) s = .next ((if p.status ≠ 0 then (y.noteAttic w.da false).failWrite w F.memUe
      else { y with attic := { y.attic with writes := y.attic.writes.filter fun x => decide (x.tag ≠ p.tag) } }).consume dulis p) := by
  refine (live_next h).trans (congrArg Host.Outcome.next ((comp_takes hv _).trans ?_))
  simp only [hw]

/-! ### Data -/

theorem State.atticData_unknown (h : v.sectorOfTag p.tag = none) (st : AtticState) : v.atticData p st = v := by
  unfold State.atticData
  simp only [h]

/-- The state in which a sector's bytes have come, in state st. -/
def State.sectorFilled (v : State) (n : Nat) (p : Packet) (st : AtticState) : State :=
  ({ v with mem := tabSetList memDefault v.mem (sectorDa n) (fieldBytes p.payload 0 64) } : State).setSector n { st := st }

theorem State.atticData_known {y : State} (h : v.sectorOfTag p.tag = some n) (hy : v.inOrder (dulisPlace p.tag) 0 = y) (st : AtticState) :
    v.atticData p st = if p.status ≠ 0 then (y.noteAttic (sectorDa n) false).failSector n F.memUe
      else (y.sectorFilled n p st).serveAttic.serveAtoms (y.sectorFilled n p st).attic.atoms.length := by
  subst hy
  unfold State.atticData
  simp only [h]
  rfl

/-! ### Snoops -/

/-- A snoop's answer. -/
def State.snoopAnswer (w : State) (p : Packet) (op : Nat) : State :=
  w.sendOn dulis { pkt := { type := 0x24, vc := 4, addr := p.addr, tag := p.tag, op := op } }

section Snoop
variable {y : State} {after : AtticState → AtticState} (hn : v.sectorAt p.addr = n) (hy : v.inOrder (sectorPlace n) 1 = y)
include hn hy

theorem State.snoop_gone (ha : after (y.sector n).st = .i) :
    v.snoop p after = (y.setSector n { y.sector n with st := .i }).snoopAnswer p 0 := by
  subst hn hy
  unfold State.snoop State.snoopAnswer
  simp only [ha, if_true]

theorem State.snoop_kept {st : AtticState} (ha : after (y.sector n).st = st) (hst : st ≠ .i) :
    v.snoop p after = (y.setSector n { y.sector n with st := st }).snoopAnswer p 1 := by
  subst hn hy
  unfold State.snoop State.snoopAnswer
  simp only [ha, if_neg hst]

end Snoop

/-! ### Timeouts -/

/-- What a timeout does to the reads of the sector. -/
def State.readTimesOut (u : State) (da : Nat) : State :=
  match (u.sector (sectorOf da)).req with
  | some (tag, _, since) => if atticBase ≤ da ∧ since + us (u.fld Reg.atcTimeout 9 0) ≤ u.now
      then ((u.inOrder (dulisPlace tag) 1).noteAttic (sectorDa (sectorOf da)) true).failSector (sectorOf da) F.memTimeout else u
  | none => u

/-- What a timeout does to the writes of the sector, under a limit. -/
def State.writeTimesOut (w : State) (da limit : Nat) : State :=
  match w.attic.writes.find? fun x => decide (x.da / 64 = da / 64) && decide (x.since + limit ≤ w.now) with
  | some x => ((w.inOrder (dulisPlace x.tag) 1).noteAttic x.da true).failWrite x F.memTimeout
  | none => w

theorem exec_atticTimeout (h : s.RunsAt t u) :
    exec (.atticTimeout t da) s = .next ((u.readTimesOut da).writeTimesOut da (us (u.fld Reg.atcTimeout 9 0))) := by
  obtain ⟨rfl, hs⟩ := h
  exact gate_next hs

theorem State.readTimesOut_none (h : (u.sector (sectorOf da)).req = none) : u.readTimesOut da = u := by
  unfold State.readTimesOut
  simp only [h]

theorem State.readTimesOut_due {tag since : Nat} {own : Bool} (h : (u.sector (sectorOf da)).req = some (tag, own, since))
    (ha : atticBase ≤ da) (hdue : since + us (u.fld Reg.atcTimeout 9 0) ≤ u.now) : u.readTimesOut da =
      ((u.inOrder (dulisPlace tag) 1).noteAttic (sectorDa (sectorOf da)) true).failSector (sectorOf da) F.memTimeout := by
  unfold State.readTimesOut
  simp only [h]
  exact if_pos ⟨ha, hdue⟩

theorem State.writeTimesOut_none (h : u.attic.writes = []) (limit : Nat) : u.writeTimesOut da limit = u := by
  unfold State.writeTimesOut
  simp only [h, List.find?_nil]

theorem State.writeTimesOut_due {w : AtticWrite} {limit : Nat}
    (h : u.attic.writes.find? (fun x => decide (x.da / 64 = da / 64) && decide (x.since + limit ≤ u.now)) = some w) :
    u.writeTimesOut da limit = ((u.inOrder (dulisPlace w.tag) 1).noteAttic w.da true).failWrite w F.memTimeout := by
  unfold State.writeTimesOut
  simp only [h]

/-! ### Inbound requests -/

section Inbound
variable {q : Packet} {act : MemAct}

theorem State.inboundRegister_readRefused (hm : v.mayRead .companion q.addr = false) : v.inboundRegister q .read = v.inboundRefuse q :=
  if_pos hm

theorem State.inboundRegister_read (hm : v.mayRead .companion q.addr = true) : v.inboundRegister q .read =
    ((v.inOrder q.addr readRank).readAt q.addr q.len).2.inboundReply q 0
      (leBytes q.len ((v.inOrder q.addr readRank).readAt q.addr q.len).1) :=
  if_neg (by rw [hm]; decide)

theorem State.inboundRegister_writeRefused (hm : v.mayWrite .companion q.addr = false) (d : List Byte) :
    v.inboundRegister q (.write d) = v.inboundRefuse q :=
  if_pos hm

theorem State.inboundRegister_write (hm : v.mayWrite .companion q.addr = true) (d : List Byte) : v.inboundRegister q (.write d) =
    (v.writeFrom .companion q.addr q.len (leNat d) false).inboundReply q 0 [] :=
  if_neg (by rw [hm]; decide)

theorem State.inboundRegister_redRefused (hm : v.mayWrite .companion q.addr = false) (op : RedOp) (mask : Nat) (d : List Byte) :
    v.inboundRegister q (.red op mask d) = v.inboundRefuse q :=
  if_pos hm

theorem State.inboundRegister_red (hm : v.mayWrite .companion q.addr = true) (op : RedOp) (mask : Nat) (d : List Byte) :
    v.inboundRegister q (.red op mask d) = (v.regAccess q.addr).inboundReply q 0 [] :=
  if_neg (by rw [hm]; decide)

theorem State.inboundShelf_bad (hf : v.memFault q.addr n ≠ none) : v.inboundShelf q act n = v.inboundRefuse q :=
  if_pos (Option.isSome_iff_ne_none.mpr hf)

/-- A Shelf window that can be accessed: what each access does. -/
theorem State.inboundShelf_ok (hf : v.memFault q.addr n = none) :
    (v.deadWord q.addr n = none → v.inboundShelf q .read n = v.inboundReply q 0 (v.load q.addr n)) ∧
    (∀ a, v.deadWord q.addr n = some a → v.inboundShelf q .read n = (v.noteDead a).inboundReply q F.memUe []) ∧
    (∀ d, v.inboundShelf q (.write d) n = (v.windowStore q.addr d).inboundReply q 0 []) ∧
    (∀ op mask d, v.inboundShelf q (.red op mask d) n =
      (v.windowStore q.addr (op.apply mask (v.load q.addr d.length) d)).inboundReply q 0 []) ∧
    (∀ r, v.inboundShelf q (.atom r) n = (v.noteAtomic q.addr F.atomicAlign).inboundReply q F.atomicAlign []) := by
  unfold State.inboundShelf
  simp only [hf, Option.isSome_none, Bool.false_eq_true, if_false]
  refine ⟨fun hd => ?_, fun a hd => ?_, fun _ => trivial, fun _ _ _ => trivial, fun _ => trivial⟩ <;> simp only [hd]

theorem State.inboundTier_outside (hf : (v.memFault q.addr n).map (·.1) = some F.addrRange) : v.inboundTier q act n = v.inboundRefuse q :=
  if_pos hf

theorem State.inboundTier_misaligned {r : AtomReq} (hf : (v.memFault q.addr n).map (·.1) ≠ some F.addrRange) (ha : q.addr % n ≠ 0) :
    v.inboundTier q (.atom r) n = (v.noteAtomic q.addr F.atomicAlign).inboundReply q F.atomicAlign [] :=
  (if_neg hf).trans (if_pos (by rw [decide_eq_false ha]; rfl))

theorem State.inboundTier_asks (hf : (v.memFault q.addr n).map (·.1) ≠ some F.addrRange) (ha : ∀ r, act = .atom r → q.addr % n = 0) :
    v.inboundTier q act n = v.request { req := ⟨2 ^ 65 + q.tag, .companion, Fin.ofNat 8 (v.fld Reg.atcInboundPart 2 0), q.addr, n⟩,
                                        act := act, pkt := some (dulis, q) } := by
  refine (if_neg hf).trans (if_neg ?_)
  cases act with
  | atom r => rw [decide_eq_true (ha r rfl)]; exact Bool.false_ne_true
  | read => exact Bool.false_ne_true
  | write d => exact Bool.false_ne_true
  | red op mask d => exact Bool.false_ne_true

end Inbound
end Companion

/-- Settles O50: what comes by its tag or sector, an inbound request by where it goes and whether it is let in. -/
theorem companionMessagesTakeEffect : Obligations.CompanionMessagesTakeEffect := by
  intro s u v t da p h
  refine ⟨fun hv => ?_, fun k => ?_, ?_⟩
  · intro done
    have hS : ∀ {w : State}, v.atticData p .s = w → exec (.dataS t p) s = done w := fun hw => hw ▸ exec_dataS h hv
    have hE : ∀ {w : State}, v.atticData p .e = w → exec (.dataE t p) s = done w := fun hw => hw ▸ exec_dataE h hv
    refine ⟨fun hn => ⟨hS (State.atticData_unknown hn _), hE (State.atticData_unknown hn _)⟩, fun n hn => ?_,
      fun hw => exec_wrAck_unknown h hv hw, fun w hw => ?_, ?_⟩
    · intro y
      refine ⟨fun hs => ?_, fun hs => ?_⟩
      · intro w
        exact ⟨hS ((State.atticData_known hn rfl _).trans (if_pos hs)), hE ((State.atticData_known hn rfl _).trans (if_pos hs))⟩
      · intro held served
        exact ⟨hS ((State.atticData_known hn rfl _).trans (if_neg (not_not_intro hs))),
          hE ((State.atticData_known hn rfl _).trans (if_neg (not_not_intro hs)))⟩
    · intro y
      have hack := exec_wrAck_known h hv hw
      exact ⟨fun hs => hack.trans (congrArg done (if_pos hs)), fun hs => hack.trans (congrArg done (if_neg (not_not_intro hs)))⟩
    · intro n y x told
      refine ⟨?_, fun hi => ?_, fun hi => ?_⟩
      · exact (exec_snpInv h hv).trans (congrArg (fun w : State => done (w.refetch n)) (State.snoop_gone rfl rfl rfl))
      · refine (exec_snpShared h hv).trans (congrArg done (State.snoop_gone rfl rfl ?_))
        exact (if_neg (by rw [hi]; decide)).trans hi
      · refine (exec_snpShared h hv).trans (congrArg done (State.snoop_kept rfl rfl ?_ (by decide)))
        show (if x.st = .e then AtticState.s else x.st) = .s
        cases hst : x.st with
        | i => exact absurd hst hi
        | s => rfl
        | e => rfl
  · intro q hv done open'
    have hdone : ∀ {w : State}, v.inbound q = w → done w := fun hw => hw ▸ exec_inbound h hv k
    refine ⟨fun hnone ho => hdone ((inbound_none hnone).trans (if_pos ho)),
      fun hnone ho => hdone ((inbound_none hnone).trans (if_neg (Bool.eq_false_iff.mp ho))), fun act n hact => ?_⟩
    have hreg : regionOf p.addr = .register → v.inbound q = v.inboundRegister q act := inbound_reg hact
    refine ⟨fun hr ho => hdone (inbound_shut hact hr ho), fun hr ha hm => ?_, fun hr ha hm => ?_, fun d hr ha hm => ?_, fun d hr ha hm => ?_,
      fun op mask d hr ha => ⟨fun hm => ?_, fun hm => ?_⟩, fun r hr ha => ⟨fun ho => ?_, fun ho => ?_⟩, fun e b hr ho => ?_,
      fun hr ho => ?_⟩
    · subst ha; exact hdone ((hreg hr).trans (State.inboundRegister_readRefused hm))
    · subst ha; exact hdone ((hreg hr).trans (State.inboundRegister_read hm))
    · subst ha; exact hdone ((hreg hr).trans (State.inboundRegister_writeRefused hm d))
    · subst ha; exact hdone ((hreg hr).trans (State.inboundRegister_write hm d))
    · subst ha; exact hdone ((hreg hr).trans (State.inboundRegister_redRefused hm op mask d))
    · subst ha; exact hdone ((hreg hr).trans (State.inboundRegister_red hm op mask d))
    · subst ha; exact hdone ((hreg hr).trans (if_neg (Bool.eq_false_iff.mp ho)))
    · subst ha; exact hdone ((hreg hr).trans (if_pos ho))
    · have hshelf : v.inbound q = v.inboundShelf q act n := inbound_shelf hact hr ho
      refine ⟨fun hf => hdone (hshelf.trans (State.inboundShelf_bad hf)), fun hf ha => ?_, fun d hf ha => ?_, fun op mask d hf ha => ?_,
        fun r hf ha => ?_⟩
      all_goals
        subst ha
        obtain ⟨hread, hdead, hwrite, hred, hatom⟩ := State.inboundShelf_ok (q := q) hf
      · exact ⟨fun hd => hdone (hshelf.trans (hread hd)), fun a hd => hdone (hshelf.trans (hdead a hd))⟩
      · exact hdone (hshelf.trans (hwrite d))
      · exact hdone (hshelf.trans (hred op mask d))
      · exact hdone (hshelf.trans (hatom r))
    · have htier : v.inbound q = v.inboundTier q act n := inbound_tier hact hr ho
      refine ⟨fun hf => hdone (htier.trans (State.inboundTier_outside hf)), fun hf ha => hdone (htier.trans (State.inboundTier_asks hf ha)),
        fun r hf ha hn => ?_⟩
      subst ha
      exact hdone (htier.trans (State.inboundTier_misaligned hf hn))
  · intro limit n
    have hrun := exec_atticTimeout (da := da) h
    refine ⟨fun hw hr => ?_, fun tag own since hr ha hdue => ?_, fun w hr hw => ?_⟩
    · rw [hrun, State.readTimesOut_none hr, State.writeTimesOut_none hw]
    · intro w hw
      rw [hrun, State.readTimesOut_due hr ha hdue, State.writeTimesOut_none hw]
    · rw [hrun, State.readTimesOut_none hr, State.writeTimesOut_due hw]

end Sys2Proof.Machine
end

section
/-! SUPPORT. Sensors, caps and rails (O51). -/

namespace Sys2Proof.Machine

section Watch
variable {u : State} {r mv d : Nat}

/-! ### Sensors and thermal caps -/

/-- The sensors have been read, checked and acted on. -/
def State.sampled (u : State) (readings : List Nat) : State :=
  let a := (List.range 128).foldl (fun (w : State) (i : Nat) => w.setFld (Reg.hltTemp i) 15 0 (readings.getD i 0)) u
  let b := (List.range 128).foldl (fun (w : State) (i : Nat) => w.crossCheck i) a
  let c := (List.range 128).foldl (fun (w : State) (i : Nat) => w.tripCheck i) b
  ((List.range 4).foldl (fun (w : State) (d : Nat) => w.dieSample d) c).applyThermal

/-- A request for the sensors is answered when it fits into slack. -/
def State.answersSensors (w : State) (before : List Nat) : State :=
  match w.health.requests.find? fun r => decide (r.1 = 1) with
  | some r => if w.slackFits 50
      then (w.takeRequest 1 r.2).postResult 1 r.2 (decide ((List.range 128).filter w.sensorFailed = before)) 0 0 else w
  | none => w

theorem State.sampleAll_eq (u : State) (readings : List Nat) :
    u.sampleAll readings = (u.sampled readings).answersSensors ((List.range 128).filter u.sensorFailed) := rfl

theorem State.answersSensors_none {w : State} (h : w.health.requests.find? (fun r => decide (r.1 = 1)) = none ∨ w.slackFits 50 = false)
    (before : List Nat) : w.answersSensors before = w := by
  unfold State.answersSensors
  split
  next r hr => exact if_neg (Bool.eq_false_iff.mp (h.resolve_left (by rw [hr]; exact Option.some_ne_none r)))
  next => rfl

theorem State.answersSensors_some {w : State} {r : Nat × Nat} (hr : w.health.requests.find? (fun r => decide (r.1 = 1)) = some r)
    (hs : w.slackFits 50 = true) (before : List Nat) : w.answersSensors before =
      (w.takeRequest 1 r.2).postResult 1 r.2 (decide ((List.range 128).filter w.sensorFailed = before)) 0 0 := by
  unfold State.answersSensors
  simp only [hr, if_pos hs]

/-- The part of a cap step before the caps are applied. -/
def State.capMoved (u : State) (d : Nat) : State :=
  match (u.dieSt d).downAt, (u.dieSt d).upAt with
  | some c, _ => if c + us 100 ≤ u.now then u.capDown d ((u.hottest d).getD 0) else u
  | none, some c =>
    if c + us 1000 ≤ u.now then u.setDieSt d { u.dieSt d with cap := min 8 ((u.dieSt d).cap + 1), upAt := some u.now } else u
  | none, none => u

theorem State.capStep_eq (u : State) (d : Nat) : u.capStep d = (u.capMoved d).applyThermal := rfl

theorem State.capMoved_down {c : Nat} (h : (u.dieSt d).downAt = some c) (hc : c + us 100 ≤ u.now) :
    u.capMoved d = u.capDown d ((u.hottest d).getD 0) := by
  unfold State.capMoved
  simp only [h, if_pos hc]

theorem State.capMoved_up {c : Nat} (hd : (u.dieSt d).downAt = none) (h : (u.dieSt d).upAt = some c) (hc : c + us 1000 ≤ u.now) :
    u.capMoved d = u.setDieSt d { u.dieSt d with cap := min 8 ((u.dieSt d).cap + 1), upAt := some u.now } := by
  unfold State.capMoved
  simp only [hd, h, if_pos hc]

theorem State.capMoved_not
    (hup : (u.dieSt d).downAt = none → (u.dieSt d).upAt = none ∨ (u.dieSt d).upAt.any (fun c => decide (u.now < c + us 1000)) = true)
    (hdown : ∀ c, (u.dieSt d).downAt = some c → u.now < c + us 100) : u.capMoved d = u := by
  unfold State.capMoved
  cases hd : (u.dieSt d).downAt with
  | some c => exact if_neg (Nat.not_le.mpr (hdown c hd))
  | none =>
    cases hu : (u.dieSt d).upAt with
    | none => rfl
    | some c =>
      have hlate := (hup hd).resolve_left (by rw [hu]; exact Option.some_ne_none c)
      rw [hu, Option.any_some, decide_eq_true_eq] at hlate
      exact if_neg (Nat.not_le.mpr hlate)

/-! ### Rails -/

/-- A droop, counted and noted. -/
def State.droopNoted (u : State) (r mv : Nat) : State :=
  ((u.bump (Reg.hltDroop r) 31 0 1).noteLowest r mv).event Reg.hltIntStatus 5

theorem State.droopStart_none (h : ¬ mv * 100 ≤ railNominal r * (100 - u.fld Reg.hltDroopCfg 3 0)) : u.droopStart r mv = u :=
  if_pos (Nat.not_le.mp h)

theorem State.droopStart_low (h : mv * 100 ≤ railNominal r * (100 - u.fld Reg.hltDroopCfg 3 0)) : u.droopStart r mv =
    let quiet := decide (0 < (u.railSt r).noted) && decide (u.now < (u.railSt r).noted - 1 + us 1000)
    let v := ((u.droopNoted r mv).setRailSt r
      { droop := some u.now, noted := if quiet then (u.railSt r).noted else u.now + 1 }).applyDroop
    if quiet then v else v.powerRecord 1 Class.info r (v.fld (Reg.hltDroop r) 47 32) :=
  if_neg (Nat.not_lt.mpr h)

theorem State.droopStart_quiet (h : mv * 100 ≤ railNominal r * (100 - u.fld Reg.hltDroopCfg 3 0)) (hn : 0 < (u.railSt r).noted)
    (hq : u.now < (u.railSt r).noted - 1 + us 1000) : u.droopStart r mv =
      ((u.droopNoted r mv).setRailSt r { droop := some u.now, noted := (u.railSt r).noted }).applyDroop := by
  rw [State.droopStart_low h, decide_eq_true hn, decide_eq_true hq]
  simp only [Bool.and_self, if_true]

theorem State.droopStart_records (h : mv * 100 ≤ railNominal r * (100 - u.fld Reg.hltDroopCfg 3 0))
    (hq : ¬ (0 < (u.railSt r).noted ∧ u.now < (u.railSt r).noted - 1 + us 1000)) :
    let v := ((u.droopNoted r mv).setRailSt r { droop := some u.now, noted := u.now + 1 }).applyDroop
    u.droopStart r mv = v.powerRecord 1 Class.info r (v.fld (Reg.hltDroop r) 47 32) := by
  have hloud : (decide (0 < (u.railSt r).noted) && decide (u.now < (u.railSt r).noted - 1 + us 1000)) = false := by
    rw [← Bool.decide_and, decide_eq_false hq]
  rw [State.droopStart_low h, hloud]
  simp only [Bool.false_eq_true, if_false]

theorem State.droopEnd_due {c : Nat} (h : (u.railSt r).droop = some c) (hc : c + 256 + us 10 ≤ u.now) :
    u.droopEnd r = (u.setRailSt r { u.railSt r with droop := none }).applyDroop := by
  unfold State.droopEnd
  simp only [h, if_pos hc]

theorem State.droopEnd_not (h : (u.railSt r).droop = none ∨ (u.railSt r).droop.any (fun c => decide (u.now < c + 256 + us 10)) = true) :
    u.droopEnd r = u := by
  unfold State.droopEnd
  dsimp only
  split
  next c hc =>
    have hearly := h.resolve_left (by rw [hc]; exact Option.some_ne_none c)
    rw [hc, Option.any_some, decide_eq_true_eq] at hearly
    exact if_neg (Nat.not_le.mpr hearly)
  next => rfl

theorem State.undervolt_low (h : mv * 10 < railNominal r * 9) (hs : u.power.shutting = none) : u.undervolt r mv =
    ((((u.noteLowest r mv).setBit (Reg.hltDroop r) 48 true).powerRecord 2 Class.fatal r
      (((u.noteLowest r mv).setBit (Reg.hltDroop r) 48 true).fld (Reg.hltDroop r) 47 32)).beginShutdown 2 r) := by
  refine if_neg ?_
  rw [hs]
  rintro (hok | hon)
  · exact absurd h (Nat.not_lt.mpr hok)
  · exact Bool.false_ne_true hon

theorem State.overcap_not {watts : Nat} (h : watts ≤ u.fld Reg.pwrCapFuse 15 0 ∨ u.power.shutting.isSome = true ∨
    ((List.range 96).all fun e => decide ((u.eng e).duty = 1)) = false) : u.overcap watts = u := by
  refine if_pos (h.imp_right (Or.imp_right fun hslow => ?_))
  rw [hslow]
  rfl

theorem State.overcap_over {watts : Nat} (h : u.fld Reg.pwrCapFuse 15 0 < watts) (hs : u.power.shutting = none)
    (hslow : ((List.range 96).all fun e => decide ((u.eng e).duty = 1)) = true) :
    u.overcap watts = (u.powerRecord 3 Class.fatal 0 watts).beginShutdown 3 0 := by
  refine if_neg ?_
  rw [hs, hslow]
  rintro (hok | hon | hfast)
  · exact absurd h (Nat.not_lt.mpr hok)
  · exact Bool.false_ne_true hon
  · exact Bool.false_ne_true hfast

end Watch

/-- Settles O51: the sensors by what is asked, the caps and the rails by their thresholds and times. -/
theorem temperatureAndRailsAreWatched : Obligations.TemperatureAndRailsAreWatched := by
  intro s u t readings die rail mv watts i n h
  refine ⟨?_, ?_, ?_, ?_, ?_, live_next h⟩
  · intro all a b c d
    have hsample : exec (.sensorSample t readings) s = .next (u.sampleAll (readings.map (·.toNat))) := live_next h
    have hd : u.sampled (readings.map (·.toNat)) = d := rfl
    have hrun := hsample.trans (congrArg Host.Outcome.next (State.sampleAll_eq u _))
    rw [hd] at hrun
    clear_value d
    exact ⟨fun hnone => hrun.trans (congrArg Host.Outcome.next (State.answersSensors_none hnone _)),
      fun r hr hs => hrun.trans (congrArg Host.Outcome.next (State.answersSensors_some hr hs _))⟩
  · intro x
    have hstep : exec (.thermalCapStep t die) s = .next (u.capStep die) := live_next h
    have hmoved : ∀ {w : State}, u.capMoved die = w → exec (.thermalCapStep t die) s = .next w.applyThermal :=
      fun hw => hstep.trans (congrArg Host.Outcome.next ((State.capStep_eq u die).trans (congrArg State.applyThermal hw)))
    exact ⟨fun c hd hc => hmoved (State.capMoved_down hd hc), fun c hd hu hc => hmoved (State.capMoved_up hd hu hc),
      fun hup hdown => hmoved (State.capMoved_not hup hdown)⟩
  · intro x w low
    exact ⟨fun hl => (live_next h).trans (congrArg Host.Outcome.next (State.droopStart_none hl)),
      fun hl hn hq => (live_next h).trans (congrArg Host.Outcome.next (State.droopStart_quiet hl hn hq)),
      fun hl hq => (live_next h).trans (congrArg Host.Outcome.next (State.droopStart_records hl hq)),
      fun c hd hc => (live_next h).trans (congrArg Host.Outcome.next (State.droopEnd_due hd hc)),
      fun hd => (live_next h).trans (congrArg Host.Outcome.next (State.droopEnd_not hd))⟩
  · intro w
    exact ⟨fun hok => (live_next h).trans (congrArg Host.Outcome.next (if_pos hok)),
      fun hlow hs => (live_next h).trans (congrArg Host.Outcome.next (State.undervolt_low hlow hs))⟩
  · intro slow
    exact ⟨fun hok => (live_next h).trans (congrArg Host.Outcome.next (State.overcap_not hok)),
      fun hover hs hslow => (live_next h).trans (congrArg Host.Outcome.next (State.overcap_over hover hs hslow))⟩

end Sys2Proof.Machine
end

section
/-! SUPPORT. Fault records, their ring and the fault log (O52). -/

namespace Sys2Proof.Machine

/-! ### A record of class INFO or CONTAINED -/

section Record
variable {u : State} {r : FaultRec}

/-- The record of a class below DEGRADED, as it enters the ring from state s. -/
def FaultRec.bytesIn (r : FaultRec) (s : State) : List Byte := recordBytes { s with now := s.postCycle r } r s.flt.lossy false

/-- What posting notes once the record has gone to the ring. -/
def State.notePost (w : State) (c : Nat) (r : FaultRec) : State :=
  ({ w with flt := { w.flt with seq := (w.flt.seq + 1) % 2 ^ 32, posted := (c, r.block * 65536 + r.unit) } } : State).event
    Reg.fltAlertStatus r.cls

theorem postFault_light (hc : r.cls = Class.info ∨ r.cls = Class.contained) : postFault u r =
    ((u.bump (Reg.fltCount r.cls) 63 0 1).ringPost (r.bytesIn (u.bump (Reg.fltCount r.cls) 63 0 1))).notePost (u.postCycle r) r := by
  have hcorrected : r.cls ≠ Class.corrected := by rcases hc with h | h <;> rw [h] <;> decide
  have hlight : r.cls < Class.degraded := by rcases hc with h | h <;> rw [h] <;> decide
  have hfatal : r.cls ≠ Class.fatal := by rcases hc with h | h <;> rw [h] <;> decide
  simp only [postFault, hcorrected, false_and, if_false, State.admitNor, if_pos hlight, Nat.not_le.mpr hlight, hfatal,
    (Nat.ne_of_lt hlight), or_self, Bool.false_eq_true]
  rfl

/-- What the ring does to a state: memory, and of the fault block only whether a record was lost. -/
def State.RingKeeps (s w : State) (m : List Host.Cell) (lossy : Bool) : Prop :=
  w.mem = m ∧ w.flt = { s.flt with lossy := lossy }

section Ring
variable {s : State} {bytes : List Byte} {slot : Nat} (h : bit (s.rd Reg.fltCtrl) 0 = true)
include h

theorem ringPost_full
    (hf : ((2 ^ s.fld Reg.fltCtrl 12 8 : Nat) : Int) ≤ ahead32 (s.fld Reg.fltRingTail 31 0) (s.fld Reg.fltRingHead 31 0)) :
    s.RingKeeps (s.ringPost bytes) s.mem true := by
  unfold State.ringPost
  rw [if_neg (by rw [h]; decide)]
  dsimp only
  rw [if_pos hf]
  exact ⟨rfl, rfl⟩

theorem ringPost_room
    (hf : ¬ ((2 ^ s.fld Reg.fltCtrl 12 8 : Nat) : Int) ≤ ahead32 (s.fld Reg.fltRingTail 31 0) (s.fld Reg.fltRingHead 31 0))
    (hz : s.rd Reg.fltRingDa + s.fld Reg.fltRingTail 31 0 % 2 ^ s.fld Reg.fltCtrl 12 8 * 64 = slot) (hs : slot < atticBase) :
    s.RingKeeps (s.ringPost bytes) (tabSetList memDefault s.mem slot bytes) false := by
  rw [ringPost_room_eq bytes h hf hz, store_plain (.inl hs)]
  exact ⟨rfl, rfl⟩

end Ring

theorem fltCount_light (hc : r.cls = Class.info ∨ r.cls = Class.contained) :
    Reg.fltCtrl ≠ Reg.fltCount r.cls ∧ Reg.fltRingTail ≠ Reg.fltCount r.cls ∧ Reg.fltRingHead ≠ Reg.fltCount r.cls ∧
    Reg.fltRingDa ≠ Reg.fltCount r.cls := by
  rcases hc with h | h <;> rw [h] <;> decide

theorem FaultRec.bytesIn_counted (hi : u.Inv) (hc : r.cls = Class.info ∨ r.cls = Class.contained) :
    r.bytesIn (u.bump (Reg.fltCount r.cls) 63 0 1) = recordBytes { u with now := u.postCycle r } r u.flt.lossy false :=
  recordBytes_eq (u := { u with now := u.postCycle r }) hi hc u.flt.lossy false

/-- Posting such a record when the ring does this to memory and to the loss mark. -/
theorem postFault_keeps (hc : r.cls = Class.info ∨ r.cls = Class.contained) {m : List Host.Cell} {lossy : Bool}
    (h : u.RingKeeps ((u.bump (Reg.fltCount r.cls) 63 0 1).ringPost (r.bytesIn (u.bump (Reg.fltCount r.cls) 63 0 1))) m lossy) :
    (postFault u r).flt.seq = (u.flt.seq + 1) % 2 ^ 32 ∧ (postFault u r).flt.posted = (u.postCycle r, r.block * 65536 + r.unit) ∧
    (postFault u r).mem = m ∧ (postFault u r).flt.lossy = lossy := by
  obtain ⟨hmem, hflt⟩ := h
  rw [postFault_light hc]
  refine ⟨?_, rfl, hmem, ?_⟩
  · show (((u.bump (Reg.fltCount r.cls) 63 0 1).ringPost _).flt.seq + 1) % 2 ^ 32 = _
    rw [hflt]
  · show ((u.bump (Reg.fltCount r.cls) 63 0 1).ringPost _).flt.lossy = _
    rw [hflt]

/-- The ring as it takes the record: disabled, full, or with room. -/
theorem ring_takes (hi : u.Inv) (hc : r.cls = Class.info ∨ r.cls = Class.contained) (bytes : List Byte) :
    let w := (u.bump (Reg.fltCount r.cls) 63 0 1).ringPost bytes
    let size := 2 ^ u.fld Reg.fltCtrl 12 8
    let tail := u.fld Reg.fltRingTail 31 0
    let slot := u.rd Reg.fltRingDa + tail % size * 64
    let full := (size : Int) ≤ ahead32 tail (u.fld Reg.fltRingHead 31 0)
    (bit (u.rd Reg.fltCtrl) 0 = false → u.RingKeeps w u.mem u.flt.lossy) ∧
    (bit (u.rd Reg.fltCtrl) 0 = true → full → u.RingKeeps w u.mem true) ∧
    (bit (u.rd Reg.fltCtrl) 0 = true → ¬ full → slot < atticBase → u.RingKeeps w (u.store slot bytes).mem false) := by
  obtain ⟨hctrl, htail, hhead, hda⟩ := fltCount_light hc
  have hrd : ∀ {b}, b ≠ Reg.fltCount r.cls → (u.bump (Reg.fltCount r.cls) 63 0 1).rd b = u.rd b := rd_bump hi.2.1
  simp only [State.fld, ← hrd hctrl, ← hrd htail, ← hrd hhead, ← hrd hda]
  refine ⟨fun hoff => ?_, fun hon hfull => ringPost_full hon hfull, fun hon hroom hslot => ?_⟩
  · rw [ringPost_off bytes hoff]
    exact ⟨rfl, rfl⟩
  · rw [store_plain (.inl hslot)]
    exact ringPost_room hon hroom rfl hslot

end Record

/-! ### The registers of the fault block -/

section Writes
variable {s u : State} {t : Nat} {ag : Agent}

theorem State.flt_unlocked (u : State) {a : Nat} (ha : a = Reg.fltInject ∨ a = Reg.fltRingHead) (v : Nat) : u.locked a v = false := by
  rcases ha with rfl | rfl <;> exact Bool.and_false _

theorem regFind_inject (v : Nat) : ∃ d, regFind Reg.fltInject = some d ∧ d.acc = .wo ∧ d.bad v = false ∧ d.mask = 2 ^ 64 - 1 :=
  ⟨_, rfl, rfl, rfl, rfl⟩

theorem regFind_ringHead (v : Nat) : ∃ d, regFind Reg.fltRingHead = some d ∧ d.acc = .rw ∧ d.bad v = false ∧ d.mask = 2 ^ 32 - 1 :=
  ⟨_, rfl, rfl, rfl, rfl⟩

theorem and_all32 {v : Nat} (hv : v < 2 ^ 32) : v &&& (2 ^ 32 - 1) = v :=
  (Nat.and_two_pow_sub_one_eq_mod v 32).trans (Nat.mod_eq_of_lt hv)

theorem State.applyWrite_flt (u : State) {a : Nat} (h : past a regBase / 2 ^ 24 = 13) (v raw : Nat) (f : Bool) :
    u.applyWrite a v raw f = u.writeFlt a v := by
  unfold State.applyWrite
  rw [h]
  rfl

theorem State.writeReg_inject (hm : u.mayWrite ag Reg.fltInject = true) {v : Nat} (hv : v < 2 ^ 16) :
    u.writeReg ag Reg.fltInject 8 v false = u.writeInject v := by
  obtain ⟨d, hf, hacc, hbad, hmask⟩ := regFind_inject v
  have hall : v &&& d.mask = v := by
    rw [hmask]
    exact and_all64 (by omega)
  rw [State.writeReg_at rfl rfl hf (.inr hacc) (u.flt_unlocked (.inl rfl) _) hbad rfl hm, hall, State.applyWrite_flt u rfl]
  exact (if_neg (by decide)).trans (if_pos rfl)

theorem State.writeReg_ringHead (hm : u.mayWrite ag Reg.fltRingHead = true) {v : Nat} (hv : v < 2 ^ 32) :
    u.writeReg ag Reg.fltRingHead 8 v false = u.writeRingHead v := by
  obtain ⟨d, hf, hacc, hbad, hmask⟩ := regFind_ringHead v
  have hall : v &&& d.mask = v := by
    rw [hmask]
    exact and_all32 hv
  rw [State.writeReg_at rfl rfl hf (.inl hacc) (u.flt_unlocked (.inr rfl) _) hbad rfl hm, hall, State.applyWrite_flt u rfl]
  exact if_pos rfl

theorem exec_fltInject {code : BitVec 16} (h : s.WritesAt t ag Reg.fltInject u) (hm : u.mayWrite ag Reg.fltInject = true) :
    exec (.fltInject t code ag) s = .next (if codeKnown code.toNat
      then postFault u { code := code.toNat, cls := codeClass code.toNat, block := Blk.flt, injected := true }
      else u.regReserved Reg.fltInject) := by
  have hbits : bits code.toNat 15 0 = code.toNat := by
    have hlt : code.toNat < 2 ^ 16 := code.isLt
    rw [bits]
    omega
  refine (State.writeAt_runs h).trans (congrArg Host.Outcome.next ((State.writeReg_inject hm code.isLt).trans ?_))
  unfold State.writeInject
  simp only [hbits]

theorem exec_fltRingHeadWrite {v : BitVec 32} (h : s.WritesAt t ag Reg.fltRingHead u) (hm : u.mayWrite ag Reg.fltRingHead = true) :
    exec (.fltRingHeadWrite t v ag) s = .next (if 0 < ahead32 v.toNat (u.fld Reg.fltRingTail 31 0)
      then u.regAccess Reg.fltRingHead else u.wr Reg.fltRingHead v.toNat) := by
  have hbits : bits v.toNat 31 0 = v.toNat := by
    have hlt : v.toNat < 2 ^ 32 := v.isLt
    rw [bits]
    omega
  refine (State.writeAt_runs h).trans (congrArg Host.Outcome.next ((State.writeReg_ringHead hm v.isLt).trans ?_))
  unfold State.writeRingHead
  simp only [hbits]

theorem regFind_alertStatus : ∃ d, regFind Reg.fltAlertStatus = some d ∧ d.acc = .w1c ∧ d.mask = 0x1f := ⟨_, rfl, rfl, rfl⟩

theorem State.writeRow_w1c {d : RegDesc} (hacc : d.acc = .w1c) (a v : Nat) (f : Bool) :
    u.writeRow d a v f = u.wr a (w1c (u.rd a) v d.mask (u.setInCycle a)) := by
  unfold State.writeRow
  simp only [hacc]

theorem exec_alertStatusClear {v : BitVec 5} (h : s.WritesAt t ag Reg.fltAlertStatus u) (hm : u.mayWrite ag Reg.fltAlertStatus = true) :
    exec (.alertStatusClear t v ag) s =
      .next (u.wr Reg.fltAlertStatus (w1c (u.rd Reg.fltAlertStatus) v.toNat 0x1f (u.setInCycle Reg.fltAlertStatus))) := by
  obtain ⟨d, hf, hacc, hmask⟩ := regFind_alertStatus
  refine (State.writeAt_runs h).trans (congrArg Host.Outcome.next ?_)
  rw [State.writeReg_row rfl rfl hf hm, State.writeRow_w1c hacc, hmask]

end Writes

/-! ### The fault log in NOR -/

section Log
variable {s u w : State} {t : Nat}

/-- The erase of the next log sector, when it is due. -/
def State.eraseDueNext (u : State) (fail : Bool) : State :=
  match u.eraseDue with
  | some n => if u.slackNow then u.takeSlack.eraseNext n fail else u.deferItem
  | none => u

theorem exec_norLogProgram (h : s.RunsAt t u) (fail : Bool) : exec (.norLogProgram t fail) s = .next (
    if u.logTurn then (if u.fatalWaits then u else u.takeSlack).logProgram fail
    else if u.logReady then u.deferItem else u.eraseDueNext fail) := live_next h

/-- A log that is not ready has no turn. -/
theorem State.logTurn_ready (h : u.logReady = false) : u.logTurn = false := by
  rw [State.logTurn, h]
  rfl

theorem State.eraseDueNext_none (h : u.eraseDue = none) (fail : Bool) : u.eraseDueNext fail = u := by
  unfold State.eraseDueNext
  simp only [h]

theorem State.eraseDueNext_some {n : Nat} (h : u.eraseDue = some n) (fail : Bool) :
    u.eraseDueNext fail = if u.slackNow then u.takeSlack.eraseNext n fail else u.deferItem := by
  unfold State.eraseDueNext
  simp only [h]

section Program
variable {r : List Byte} (hr : w.nextLogged = some r) (hn : w.fld Reg.fltNorCfg 7 0 ≠ 0)
include hr hn

theorem State.logProgram_appends :
    let x := w.logAppend w.persist.log (w.fld Reg.fltNorCfg 31 8) (w.fld Reg.fltNorCfg 7 0) 0x4C46 (leField r 24 4) r
    w.logProgram false = ({ x.1 with
      persist := { x.1.persist with log := x.2 }
      flt := { x.1.flt with norQueue := x.1.flt.norQueue.erase r } } : State).showFaultLog 1 := by
  unfold State.logProgram
  simp only [State.faultArea, hr]
  exact (if_neg hn).trans (if_neg Bool.false_ne_true)

theorem State.logProgram_skips {l : NorLog} (hl : w.persist.log = l) (h1 : w.fld Reg.fltNorCfg 31 8 ≤ l.sector)
    (h2 : l.sector < w.fld Reg.fltNorCfg 31 8 + w.fld Reg.fltNorCfg 7 0) :
    let v := ({ w with persist := { w.persist with
      log := ({ l with skipped := l.sector :: l.skipped } : NorLog).onward (w.fld Reg.fltNorCfg 31 8) (w.fld Reg.fltNorCfg 7 0) } } :
      State).showFaultLog 0
    w.logProgram true = postFault v
      { code := F.norLog, cls := Class.degraded, block := Blk.flt,
        payload := (if l.used ≠ 0 ∨ l.ahead = some l.sector then 1 else 2) + l.sector * 2 ^ 8 } := by
  subst hl
  unfold State.logProgram
  simp only [State.faultArea, hr]
  refine (if_neg hn).trans ((if_pos trivial).trans ?_)
  simp only [Bool.and_eq_true, Bool.or_eq_true, decide_eq_true_eq, h1, h2, and_self, true_and, if_true]

end Program
end Log

/-- Settles O52: a record by the ring it finds, the registers by their rows, the log by whose turn it is. -/
theorem faultRecordsAreKept : Obligations.FaultRecordsAreKept := by
  refine ⟨fun u r hi hc => ?_, fun s u t ag code h hm => ⟨fun hk => ?_, fun hk => ?_⟩, fun s u t ag v h hm => ⟨fun hh => ?_, fun hh => ?_⟩,
    fun s u t ag v h hm => exec_alertStatusClear h hm, fun s u t h => ⟨fun fail ht hr => ?_, fun fail hr he => ?_, fun fail n hr he => ?_,
      fun r ht => ?_, ?_⟩⟩
  · intro v size tail slot full on hslot
    obtain ⟨hoff, hfull, hroom⟩ := ring_takes hi hc (r.bytesIn (u.bump (Reg.fltCount r.cls) 63 0 1))
    have hposts : v.flt.seq = (u.flt.seq + 1) % 2 ^ 32 ∧ v.flt.posted = (u.postCycle r, r.block * 65536 + r.unit) := by
      obtain ⟨m, lossy, hkeeps⟩ : ∃ m lossy, u.RingKeeps
          ((u.bump (Reg.fltCount r.cls) 63 0 1).ringPost (r.bytesIn (u.bump (Reg.fltCount r.cls) 63 0 1))) m lossy := by
        cases hon : bit (u.rd Reg.fltCtrl) 0 with
        | false => exact ⟨_, _, hoff hon⟩
        | true =>
          by_cases hf : full
          · exact ⟨_, _, hfull hon hf⟩
          · exact ⟨_, _, hroom hon hf hslot⟩
      obtain ⟨hseq, hposted, -⟩ := postFault_keeps hc hkeeps
      exact ⟨hseq, hposted⟩
    refine ⟨hposts.1, hposts.2, fun hon => (postFault_keeps hc (hoff hon)).2.2, fun hon hf => (postFault_keeps hc (hfull hon hf)).2.2,
      fun hon hf => ?_⟩
    rw [← FaultRec.bytesIn_counted hi hc]
    exact (postFault_keeps hc (hroom hon hf hslot)).2.2
  · exact (exec_fltInject h hm).trans (congrArg Host.Outcome.next (if_pos hk))
  · exact (exec_fltInject h hm).trans (congrArg Host.Outcome.next (if_neg (Bool.eq_false_iff.mp hk)))
  · exact (exec_fltRingHeadWrite h hm).trans (congrArg Host.Outcome.next (if_neg (Int.not_lt.mpr hh)))
  · exact (exec_fltRingHeadWrite h hm).trans (congrArg Host.Outcome.next (if_pos hh))
  · rw [exec_norLogProgram h, ht, hr]
    rfl
  · rw [exec_norLogProgram h, State.logTurn_ready hr, hr, State.eraseDueNext_none he]
    rfl
  · rw [exec_norLogProgram h, State.logTurn_ready hr, hr, State.eraseDueNext_some he]
    exact ⟨fun hs => by rw [hs]; rfl, fun hs => by rw [hs]; rfl⟩
  · intro w hr hn first count l
    have hrun : ∀ fail, exec (.norLogProgram t fail) s = .next (w.logProgram fail) :=
      fun fail => (exec_norLogProgram h fail).trans (congrArg Host.Outcome.next (if_pos ht))
    exact ⟨(hrun false).trans (congrArg Host.Outcome.next (State.logProgram_appends hr hn)),
      fun h1 h2 => (hrun true).trans (congrArg Host.Outcome.next (State.logProgram_skips hr hn rfl h1 h2))⟩
  · intro n
    refine ⟨fun hnot => (live_next h).trans (congrArg Host.Outcome.next (if_pos hnot)),
      fun hn hdue => (live_next h).trans (congrArg Host.Outcome.next (if_neg ?_))⟩
    rintro (h0 | hearly)
    · exact hn h0
    · exact absurd hdue (Nat.not_le.mpr hearly)

end Sys2Proof.Machine
end

section
/-! SUPPORT. Check failures, test requests, full-rate mode, lockstep and telemetry (O53). -/

namespace Sys2Proof.Machine

/-! ### Check failures -/

section Checks
variable {u : State} {cause st da : Nat}

/-- The check failure of a unit other than an engine, kept. -/
def State.keepCheck (u : State) (x : CheckedUnit) : State :=
  { u with flt := { u.flt with checks := (x.site.1 * 65536 + x.site.2, u.now) :: u.flt.checks } }

/-- What a kept failure of such a unit does, by whether its failures reach the threshold. -/
def State.judgeUnit (w : State) (x : CheckedUnit) (cause st da : Nat) (reached : Bool) : State :=
  let v := (w.ctlCheck x (if !reached then Class.contained else if x.vital then Class.fatal else Class.degraded) cause st da).checkedPicture x
  if reached then v.takeOut x else v

theorem State.unitCheck_unit {x : CheckedUnit} (hx : x.site.1 ≠ Blk.eng) : u.unitCheck x cause st da =
    (u.keepCheck x).judgeUnit x cause st da
      (decide ((u.keepCheck x).fld Reg.hltFailThresh 7 0 ≤ (u.keepCheck x).recentChecks x)) := by
  unfold State.unitCheck
  simp only [hx, decide_false, Bool.false_eq_true, if_false]
  rfl

theorem State.unitCheck_below {x : CheckedUnit} (hx : x.site.1 ≠ Blk.eng)
    (h : (u.keepCheck x).recentChecks x < (u.keepCheck x).fld Reg.hltFailThresh 7 0) :
    u.unitCheck x cause st da = ((u.keepCheck x).ctlCheck x Class.contained cause st da).checkedPicture x := by
  rw [State.unitCheck_unit hx, decide_eq_false (Nat.not_le.mpr h)]
  rfl

theorem State.unitCheck_reached {x : CheckedUnit} (hx : x.site.1 ≠ Blk.eng)
    (h : (u.keepCheck x).fld Reg.hltFailThresh 7 0 ≤ (u.keepCheck x).recentChecks x) :
    u.unitCheck x cause st da = (((u.keepCheck x).ctlCheck x (if x.vital then Class.fatal else Class.degraded)
      cause st da).checkedPicture x).takeOut x := by
  rw [State.unitCheck_unit hx, decide_eq_true h]
  rfl

/-- An engine is sent for retest when its failures reach the threshold, it is in service and it is not yet sent. -/
theorem State.unitCheck_engine (e : Fin 96) : u.unitCheck (.engine e) cause st da =
    if decide (u.fld Reg.hltFailThresh 7 0 ≤ u.recentChecks (.engine e)) && !u.engineOut e && !u.health.retest.contains e.val
    then u.takeOut (.engine e) else u := rfl

theorem State.unitCheck_retest {e : Fin 96} (h : u.fld Reg.hltFailThresh 7 0 ≤ u.recentChecks (.engine e))
    (hin : u.engineOut e = false) (hnew : u.health.retest.contains e.val = false) :
    u.unitCheck (.engine e) cause st da = u.takeOut (.engine e) := by
  rw [State.unitCheck_engine, hin, hnew, decide_eq_true h]
  rfl

theorem State.unitCheck_stays {e : Fin 96} (h : u.recentChecks (.engine e) < u.fld Reg.hltFailThresh 7 0 ∨ u.engineOut e = true ∨
    u.health.retest.contains e.val = true) : u.unitCheck (.engine e) cause st da = u := by
  rw [State.unitCheck_engine]
  refine if_neg ?_
  simp only [Bool.and_eq_true, decide_eq_true_eq, Bool.not_eq_true']
  rintro ⟨⟨hreached, hin⟩, hnew⟩
  rcases h with hbelow | hout | hsent
  · exact absurd hreached (Nat.not_le.mpr hbelow)
  · rw [hin] at hout
    cases hout
  · rw [hnew] at hsent
    cases hsent

end Checks

/-! ### Full-rate mode, the standby and telemetry -/

section Modes
variable {u : State}

theorem State.fullRateOver_off (h : u.health.fullSince = none) : u.fullRateOver = u := by
  unfold State.fullRateOver
  rw [h]

theorem State.fullRateOver_on {c : Nat} (h : u.health.fullSince = some c) : u.fullRateOver =
    if c + us (u.fld Reg.hltStCtrl 27 16 * 1000000) ≤ u.now then (u.setFullRate none).event Reg.hltIntStatus 2 else u := by
  unfold State.fullRateOver
  rw [h]

theorem exec_telemetryRecord {s : State} {t : Nat} (h : s.RunsAt t u) :
    exec (.telemetryRecord t) s = .next (if u.telDue then u.telForm else u) := live_next h

theorem State.failover_stands (h : u.health.mismatch = none ∨ u.health.standby = true) : u.failover = u := by
  refine if_neg ?_
  rcases h with h | h <;> simp [h]

theorem State.failover_takes (hm : u.health.mismatch.isSome = true) (hs : u.health.standby = false) :
    u.failover = { u with health := { u.health with mismatch := none, standby := true } } :=
  if_pos (by rw [hm, hs]; rfl)

end Modes

/-! ### The writes of HLT_ST_REQ and HLT_ST_CTRL -/

section Writes
variable {s u : State} {t : Nat} {ag : Agent}

theorem regFind_stReq (v : Nat) : ∃ d, regFind Reg.hltStReq = some d ∧ d.acc = .wo ∧ d.bad v = false ∧ d.mask = 2 ^ 64 - 1 :=
  ⟨_, rfl, rfl, rfl, rfl⟩

theorem regFind_stCtrl (v : Nat) : ∃ d, regFind Reg.hltStCtrl = some d ∧ d.acc = .rw ∧
    d.bad v = !(inRange (bits v 27 16) 1 3600) ∧ d.mask = 0xfff0001 := ⟨_, rfl, rfl, rfl, rfl⟩

theorem State.hlt_unlocked (u : State) {a : Nat} (ha : a = Reg.hltStReq ∨ a = Reg.hltStCtrl) (v : Nat) : u.locked a v = false := by
  rcases ha with rfl | rfl <;> rfl

theorem State.applyWrite_hlt (u : State) {a : Nat} (h : past a regBase / 2 ^ 24 = 10) (v raw : Nat) (f : Bool) :
    u.applyWrite a v raw f = u.writeHlt a v := by
  unfold State.applyWrite
  rw [h]
  rfl

theorem State.writeReg_stReq (hm : u.mayWrite ag Reg.hltStReq = true) {v : Nat} (hv : v < 2 ^ 64) :
    u.writeReg ag Reg.hltStReq 8 v false = u.writeStReq v := by
  obtain ⟨d, hf, hacc, hbad, hmask⟩ := regFind_stReq v
  have hall : v &&& d.mask = v := by
    rw [hmask]
    exact and_all64 hv
  rw [State.writeReg_at rfl rfl hf (.inr hacc) (u.hlt_unlocked (.inl rfl) _) hbad rfl hm, hall, State.applyWrite_hlt u rfl]
  exact (if_neg (by decide)).trans (if_pos rfl)

theorem State.writeReg_stCtrl (hm : u.mayWrite ag Reg.hltStCtrl = true) {v : Nat} (h1 : 1 ≤ bits v 27 16) (h2 : bits v 27 16 ≤ 3600) :
    u.writeReg ag Reg.hltStCtrl 8 v false = u.writeStCtrl (v &&& 0xfff0001) := by
  obtain ⟨d, hf, hacc, hbad, hmask⟩ := regFind_stCtrl v
  have hgood : d.bad v = false := by
    rw [hbad]
    simp [inRange, h1, h2]
  rw [State.writeReg_at rfl rfl hf (.inl hacc) (u.hlt_unlocked (.inr rfl) _) hgood rfl hm, hmask, State.applyWrite_hlt u rfl]
  exact if_pos rfl

/-- A write of HLT_ST_REQ that asks for this kind of test of this target. -/
theorem writeAt_stReq (h : s.WritesAt t ag Reg.hltStReq u) (hm : u.mayWrite ag Reg.hltStReq = true) {v kind target : Nat}
    (hv : v < 2 ^ 64) (hkind : bits v 2 0 = kind) (htarget : bits v 15 8 = target) (hin : target < requestTargets kind) :
    s.writeAt t ag Reg.hltStReq v false = .next (
      if 16 ≤ u.health.requests.length then (u.bump Reg.hltStCount 63 48 1).setBit Reg.hltStStatus 17 true
      else ({ u with health := { u.health with requests := u.health.requests ++ [(kind, target)] } } : State).setFld Reg.hltStStatus
        28 24 (u.health.requests ++ [(kind, target)]).length) :=
  (State.writeAt_runs h).trans (congrArg Host.Outcome.next ((State.writeReg_stReq hm hv).trans (stReq_eq hkind htarget hin)))

theorem stReq_bits {kind target : Nat} (hk : kind < 8) (ht : target < 256) :
    bits (kind + target * 2 ^ 8) 2 0 = kind ∧ bits (kind + target * 2 ^ 8) 15 8 = target := by
  unfold bits
  constructor
  · simp only [Nat.shiftRight_zero]
    omega
  · rw [Nat.shiftRight_eq_div_pow]
    omega

/-- The four requests are writes of HLT_ST_REQ with their kind and a target it has. -/
theorem exec_stRequest {e : Fin 96} {p : Fin 192} {ch : Fin 256} {c : Instr} {kind target : Nat}
    (hc : (c, kind, target) ∈ stRequests t e p ch ag) :
    exec c s = s.writeAt t ag Reg.hltStReq (kind + target * 2 ^ 8) false ∧ kind < 8 ∧ target < 256 ∧ target < requestTargets kind := by
  simp only [stRequests, List.mem_cons, Prod.mk.injEq, List.not_mem_nil, or_false] at hc
  rcases hc with ⟨rfl, rfl, rfl⟩ | ⟨rfl, rfl, rfl⟩ | ⟨rfl, rfl, rfl⟩ | ⟨rfl, rfl, rfl⟩
  · have hlt : e.val < 96 := e.isLt
    refine ⟨?_, by decide, by omega, hlt⟩
    rw [Nat.zero_add]
    rfl
  · exact ⟨rfl, by decide, by decide, by decide⟩
  · have hlt : p.val < 192 := p.isLt
    exact ⟨rfl, by decide, by omega, hlt⟩
  · exact ⟨rfl, by decide, ch.isLt, ch.isLt⟩

theorem exec_stReq (h : s.WritesAt t ag Reg.hltStReq u) (hm : u.mayWrite ag Reg.hltStReq = true) {e : Fin 96} {p : Fin 192}
    {ch : Fin 256} {c : Instr} {kind target : Nat} (hc : (c, kind, target) ∈ stRequests t e p ch ag) :
    exec c s = .next (
      if 16 ≤ u.health.requests.length then (u.bump Reg.hltStCount 63 48 1).setBit Reg.hltStStatus 17 true
      else ({ u with health := { u.health with requests := u.health.requests ++ [(kind, target)] } } : State).setFld Reg.hltStStatus
        28 24 (u.health.requests ++ [(kind, target)]).length) := by
  obtain ⟨hrun, hkind, htarget, hin⟩ := exec_stRequest (s := s) hc
  obtain ⟨h1, h2⟩ := stReq_bits hkind htarget
  exact hrun.trans (writeAt_stReq h hm (by omega) h1 h2 hin)

/-- What the write makes of full-rate mode: on keeps a mode entered before, off leaves it. -/
theorem exec_fullRate {on : Bool} (h : s.WritesAt t ag Reg.hltStCtrl u) (hm : u.mayWrite ag Reg.hltStCtrl = true)
    (h1 : 1 ≤ bits (putBits (u.rd Reg.hltStCtrl) 0 0 (b2n on)) 27 16)
    (h2 : bits (putBits (u.rd Reg.hltStCtrl) 0 0 (b2n on)) 27 16 ≤ 3600) {w : State}
    (hw : u.wr Reg.hltStCtrl (putBits (u.rd Reg.hltStCtrl) 0 0 (b2n on) &&& 0xfff0001 &&& 0xfff0001) = w) :
    exec (.fullRate t on ag) s =
      .next (if on then (if w.health.fullSince.isSome then w else w.setFullRate (some w.now)) else w.setFullRate none) := by
  refine (State.updateAt_runs (g := fun r => putBits r 0 0 (b2n on)) h).trans
    (congrArg Host.Outcome.next ((State.writeReg_stCtrl hm h1 h2).trans ?_))
  unfold State.writeStCtrl
  dsimp only
  rw [hw, put_bit0 _ on _ (by decide)]

end Writes

/-- Settles O53: each command by the case lemmas of its function, each write by its register's row. -/
theorem unitsRequestsAndTelemetry : Obligations.UnitsRequestsAndTelemetry := by
  unfold Obligations.UnitsRequestsAndTelemetry
  refine ⟨fun s u t h => ⟨fun x cause st da hx => ?_, fun e cause st da => ⟨fun h1 h2 h3 => ?_, fun h1 => ?_⟩, fun hoff => ?_,
      fun c hon => ?_, fun pc => ?_, fun hm hs => ?_, fun hstands => ?_, fun hnot => ?_, fun hdue => ?_⟩,
    fun s u t ag e p ch c kind target h hm hc => ⟨fun hroom => ?_, fun hfull => ?_⟩, fun s u t ag on h hm => ?_⟩
  · exact ⟨fun hlow => (live_next h).trans (congrArg Host.Outcome.next (State.unitCheck_below hx hlow)),
      fun hreached => (live_next h).trans (congrArg Host.Outcome.next (State.unitCheck_reached hx hreached))⟩
  · exact (live_next h).trans (congrArg Host.Outcome.next (State.unitCheck_retest h1 h2 h3))
  · exact (live_next h).trans (congrArg Host.Outcome.next (State.unitCheck_stays h1))
  · exact (live_next h).trans (congrArg Host.Outcome.next (State.fullRateOver_off hoff))
  · exact ⟨fun hearly => (live_next h).trans (congrArg Host.Outcome.next
        ((State.fullRateOver_on hon).trans (if_neg (Nat.not_le.mpr hearly)))),
      fun hover => (live_next h).trans (congrArg Host.Outcome.next ((State.fullRateOver_on hon).trans (if_pos hover)))⟩
  · exact live_next h
  · exact (live_next h).trans (congrArg Host.Outcome.next (State.failover_takes hm hs))
  · exact (live_next h).trans (congrArg Host.Outcome.next (State.failover_stands hstands))
  · exact (exec_telemetryRecord h).trans (congrArg Host.Outcome.next (if_neg (Bool.eq_false_iff.mp hnot)))
  · rw [exec_telemetryRecord h, if_pos hdue]
    unfold State.telForm
    generalize decide (64 ≤ u.health.tel.length) = full
    cases full
    · rfl
    · rfl
  · exact (exec_stReq h hm hc).trans (congrArg Host.Outcome.next (if_neg (Nat.not_le.mpr hroom)))
  · exact (exec_stReq h hm hc).trans (congrArg Host.Outcome.next (if_pos hfull))
  · intro v h1 h2
    exact exec_fullRate h hm h1 h2 rfl

end Sys2Proof.Machine
end

section
/-! SUPPORT. The boot, from discovery to the handover (O54). -/

namespace Sys2Proof.Machine

section Boot
variable {s u : State} {t : Nat}

/-! ### Discovery -/

theorem State.norDiscovery_stands (h : u.stage ≠ 0 ∨ u.sec.signRead = true) (ok : Bool) : u.norDiscovery ok = u := if_pos h

theorem State.norDiscovery_runs (hs : u.stage = 0) (hr : u.sec.signRead = false) (ok : Bool) : u.norDiscovery ok =
    if ok then (u.setStage 2).readSigning else (u.setStage 1).secRecord F.bootNor Class.fatal 0 0 0 := by
  refine if_neg ?_
  rw [hs, hr]
  decide

theorem State.norDiscovery_reads (hs : u.stage = 0) (hr : u.sec.signRead = false) :
    u.norDiscovery true = (u.setStage 2).readSigning := by
  rw [State.norDiscovery_runs hs hr, if_pos rfl]

theorem State.norDiscovery_fails (hs : u.stage = 0) (hr : u.sec.signRead = false) : u.norDiscovery false =
    postFault (u.setStage 1) { code := F.bootNor, cls := Class.fatal, block := Blk.sec, payload := 0 } := by
  rw [State.norDiscovery_runs hs hr, if_neg Bool.false_ne_true]
  simp only [State.secRecord, Nat.zero_mul, Nat.add_zero]

/-! ### The slot checks -/

/-- The slot that is tried next. -/
def State.slotDue (u : State) : Nat := if u.sec.rejected = [] then u.firstSlot else 1 - u.firstSlot

theorem State.slotVerify_stands (h : u.stage ≠ 2 ∨ u.sec.slot.isSome = true) : u.slotVerify = u := if_pos h

theorem State.slotDue_isEmpty : (if u.sec.rejected.isEmpty = true then u.firstSlot else 1 - u.firstSlot) = u.slotDue := by
  simp only [State.slotDue, List.isEmpty_iff]

section Tries
variable (hs : u.stage = 2) (hn : u.sec.slot = none)
include hs hn

theorem State.slotVerify_due : ¬ (u.stage ≠ 2 ∨ u.sec.slot.isSome = true) := by
  rw [hs, hn]
  decide

theorem State.slotVerify_passes (hf : u.slotFault u.slotDue = none) :
    u.slotVerify = (u.postRejected Class.degraded).slotPassed u.slotDue := by
  unfold State.slotVerify
  rw [if_neg (State.slotVerify_due hs hn)]
  simp only [State.slotDue_isEmpty, hf]

theorem State.slotVerify_rejects {code check i : Nat} (hf : u.slotFault u.slotDue = some (code, check, i)) {w : State}
    (hw : { u with sec := { u.sec with rejected := u.sec.rejected ++ [⟨u.slotDue, code, check, i⟩] } } = w) :
    u.slotVerify = if 2 ≤ w.sec.rejected.length then (w.setStage 6).postRejected Class.fatal else w := by
  subst hw
  unfold State.slotVerify
  rw [if_neg (State.slotVerify_due hs hn)]
  simp only [State.slotDue_isEmpty, hf]

end Tries

theorem State.slotFault_header {slot : Nat} (h : u.headerOk slot = false) : u.slotFault slot = some (F.bootImage, 1, 0) := if_pos h

theorem State.slotFault_key {slot : Nat} (h : u.headerOk slot = true)
    (hk : u.keyProgrammed (u.slotField slot 24 1) = false ∨ u.keyRevoked (u.slotField slot 24 1) = true) :
    u.slotFault slot = some (F.bootSig, 2, 0) :=
  (if_neg (by rw [h]; decide)).trans (if_pos (hk.imp_right Or.inl))

/-! ### Training and the engine tests -/

theorem State.trainTier_stands {tr : Tier} (h : u.booting = false ∨ bit (u.rd (tr.reg Reg.pntStatus Reg.celStatus)) 0 = true)
    (chs : List Nat) (lanes : List (Nat × Nat × Nat)) : u.trainTier tr chs lanes = u := by
  refine if_pos ?_
  rcases h with h | h <;> simp [h]

/-- What training makes of a tier whose failing lanes have been dealt with. -/
def State.trainChannels (a : State) (tr : Tier) (chs : List Nat) : State :=
  let b := chs.foldl (fun (w : State) (ch : Nat) => if ch < tr.channels then w.failTraining tr ch else w) a
  let c := b.fixRange tr (b.mapoutUnits tr)
  let d := { c with mem := c.mem.filter fun x => decide (tierOf x.1 ≠ some tr) }
  ((d.setBit (tr.reg Reg.pntStatus Reg.celStatus) 0 true).setBit (tr.reg Reg.pntStatus Reg.celStatus) 1 true).beginFloor tr

section Trains
variable {chs : List Nat} {lanes : List (Nat × Nat × Nat)} (hb : u.booting = true)
include hb

theorem State.trainTier_pantry (hr : bit (u.rd Reg.pntStatus) 0 = false) :
    u.trainTier .pantry chs lanes = (u.failLanes lanes).trainChannels .pantry chs := by
  unfold State.trainTier
  exact if_neg (by rw [hb]; exact Bool.eq_false_iff.mp hr)

theorem State.trainTier_cellar (hr : bit (u.rd Reg.celStatus) 0 = false) :
    u.trainTier .cellar chs lanes = u.trainChannels .cellar chs := by
  unfold State.trainTier
  exact if_neg (by rw [hb]; exact Bool.eq_false_iff.mp hr)

end Trains

theorem State.bootTests_stands (h : u.booting = false ∨ u.sec.tested = true) (bad : List (Nat × Nat)) : u.bootTests bad = u := by
  refine if_pos ?_
  rcases h with h | h <;> simp [h]

theorem State.bootTests_runs (hb : u.booting = true) (ht : u.sec.tested = false) (bad : List (Nat × Nat)) : u.bootTests bad =
    (List.range 96).foldl (fun (w : State) (e : Nat) => w.bootTest e (((bad.find? fun x => decide (x.1 = e)).map (·.2)).getD 0))
      { u with sec := { u.sec with tested := true } } :=
  if_neg (by rw [hb, ht]; decide)

/-! ### The records and the handover -/

theorem State.recordsOn_stands (h : u.sec.slot = none ∨ u.booting = false) : u.recordsOn = u := by
  unfold State.recordsOn
  rcases h with h | h
  · rw [h]
  · cases u.sec.slot with
    | none => rfl
    | some slot => exact if_neg (Bool.eq_false_iff.mp h)

theorem State.recordsOn_runs {slot : Nat} (h : u.sec.slot = some slot) (hb : u.booting = true) :
    u.recordsOn = (u.setStage 4).applyRecords slot (u.slotField slot 20 4 - u.sec.applied) := by
  unfold State.recordsOn
  rw [h]
  exact if_pos hb

theorem State.tiersReady_iff (w : State) : w.tiersReady = true ↔ bit (w.rd Reg.pntStatus) 1 = true ∧ bit (w.rd Reg.celStatus) 1 = true :=
  Bool.and_eq_true_iff

theorem State.applyRecords_untrained {w : State} (h : w.tiersReady = false) (slot : Nat) : w.applyRecords slot 0 = w := by
  unfold State.applyRecords
  rw [if_neg (Bool.eq_false_iff.mp h)]

theorem State.applyRecords_ends {w : State} (h : w.tiersReady = true) (slot : Nat) : w.applyRecords slot 0 = w.bootEnds := by
  unfold State.applyRecords
  rw [if_pos h]

theorem State.applyRecords_waits {w : State} {slot n : Nat}
    (h : w.applyRecord (w.slotField slot w.sec.cursor 2) (w.slotField slot (w.sec.cursor + 8) 8)
      (w.norLoad (slotBase slot + w.sec.cursor + 16) (w.slotField slot (w.sec.cursor + 4) 4)) = .waits) :
    w.applyRecords slot (n + 1) = w := by
  rw [applyRecords_succ, h]

theorem State.applyRecords_fails {w : State} {slot n : Nat}
    (h : w.applyRecord (w.slotField slot w.sec.cursor 2) (w.slotField slot (w.sec.cursor + 8) 8)
      (w.norLoad (slotBase slot + w.sec.cursor + 16) (w.slotField slot (w.sec.cursor + 4) 4)) = .fails) :
    w.applyRecords slot (n + 1) = (w.setStage 6).secRecord F.bootRecord Class.fatal slot 0 w.sec.applied := by
  rw [applyRecords_succ, h]

theorem State.applyRecords_applies {w x : State} {slot n : Nat}
    (h : w.applyRecord (w.slotField slot w.sec.cursor 2) (w.slotField slot (w.sec.cursor + 8) 8)
      (w.norLoad (slotBase slot + w.sec.cursor + 16) (w.slotField slot (w.sec.cursor + 4) 4)) = .applied x) :
    w.applyRecords slot (n + 1) = ({ x with sec := { x.sec with
      cursor := w.sec.cursor + w.recordSize slot w.sec.cursor, applied := w.sec.applied + 1 } } : State).applyRecords slot n := by
  rw [applyRecords_succ, h]

theorem exec_norDiscovery (h : s.RunsAt t u) (ok : Bool) : exec (.norDiscovery t ok) s = .next (u.norDiscovery ok) := live_next h

theorem exec_slotVerify (h : s.RunsAt t u) : exec (.slotVerify t) s = .next u.slotVerify := live_next h

theorem exec_recordApply (h : s.RunsAt t u) : exec (.recordApply t) s = .next u.recordsOn := live_next h

end Boot

/-- Settles O54: each command of the boot by the case lemmas of its function. -/
theorem bootGoesThroughItsStages : Obligations.BootGoesThroughItsStages := by
  unfold Obligations.BootGoesThroughItsStages
  intro s u t h
  refine ⟨fun ok hs => ?_, fun hs hr => ⟨?_, ?_⟩, fun hs => ?_, fun hs hn => ?_,
    fun slot => ⟨State.slotFault_header, State.slotFault_key⟩, fun tr chs lanes => ?_, fun bad => ⟨fun hb => ?_, fun hb ht => ?_⟩,
    fun hb => ?_, fun slot hslot hb => ?_⟩
  · exact (exec_norDiscovery h ok).trans (congrArg Host.Outcome.next (State.norDiscovery_stands hs ok))
  · exact (exec_norDiscovery h true).trans (congrArg Host.Outcome.next (State.norDiscovery_reads hs hr))
  · exact (exec_norDiscovery h false).trans (congrArg Host.Outcome.next (State.norDiscovery_fails hs hr))
  · exact (exec_slotVerify h).trans (congrArg Host.Outcome.next (State.slotVerify_stands hs))
  · refine ⟨fun hf => (exec_slotVerify h).trans (congrArg Host.Outcome.next (State.slotVerify_passes hs hn hf)),
      fun code check i hf => ⟨fun hroom => ?_, fun hboth => ?_⟩⟩
    · exact (exec_slotVerify h).trans (congrArg Host.Outcome.next ((State.slotVerify_rejects hs hn hf rfl).trans
        (if_neg (Nat.not_le.mpr hroom))))
    · exact (exec_slotVerify h).trans (congrArg Host.Outcome.next ((State.slotVerify_rejects hs hn hf rfl).trans (if_pos hboth)))
  · have hrun : exec (.tierTrain t tr chs lanes) s =
        .next (u.trainTier tr (chs.map (·.val)) (lanes.map fun x => (x.1.val, x.2.1.val, x.2.2.val))) := live_next h
    refine ⟨fun hstands => hrun.trans (congrArg Host.Outcome.next (State.trainTier_stands hstands _ _)), fun hb hr => ?_⟩
    cases tr with
    | pantry => exact hrun.trans (congrArg Host.Outcome.next (State.trainTier_pantry hb hr))
    | cellar => exact hrun.trans (congrArg Host.Outcome.next (State.trainTier_cellar hb hr))
  · exact (live_next h).trans (congrArg Host.Outcome.next (State.bootTests_stands hb _))
  · exact (live_next h).trans (congrArg Host.Outcome.next (State.bootTests_runs hb ht _))
  · exact (exec_recordApply h).trans (congrArg Host.Outcome.next (State.recordsOn_stands hb))
  · intro w left ofs outcome trained
    have hrun : exec (.recordApply t) s = .next (w.applyRecords slot left) :=
      (exec_recordApply h).trans (congrArg Host.Outcome.next (State.recordsOn_runs hslot hb))
    refine ⟨fun hl hnot => ?_, fun hl htrained => ?_, fun n hl => ⟨fun ho => ?_, fun ho => ?_, fun x ho => ?_⟩⟩ <;>
      rw [hrun, hl]
    · exact congrArg Host.Outcome.next (State.applyRecords_untrained (Bool.eq_false_iff.mpr fun hready => hnot (w.tiersReady_iff.mp hready)) slot)
    · exact congrArg Host.Outcome.next (State.applyRecords_ends (w.tiersReady_iff.mpr htrained) slot)
    · exact congrArg Host.Outcome.next (State.applyRecords_waits ho)
    · exact congrArg Host.Outcome.next (State.applyRecords_fails ho)
    · exact congrArg Host.Outcome.next (State.applyRecords_applies ho)

end Sys2Proof.Machine
end

section
/-! SUPPORT. The SVN floor, key slots, attestation and firmware's NOR operations (O55). -/

namespace Sys2Proof.Machine

/-! ### The write-only registers of the security block -/

section Writes
variable {s u : State} {t : Nat} {ag : Agent}

theorem regFind_sec {a : Nat} (ha : a = Reg.secCtrl ∨ a = Reg.secOtpKeyCtrl ∨ a = Reg.secAttestCtrl ∨ a = Reg.secNorCtrl) (v : Nat) :
    ∃ d, regFind a = some d ∧ d.acc = .wo ∧ d.bad v = false ∧ d.mask = 2 ^ 64 - 1 := by
  rcases ha with rfl | rfl | rfl | rfl <;> exact ⟨_, rfl, rfl, rfl, rfl⟩

/-- What stands about the address of each of them. -/
theorem secAddress {a : Nat} (ha : a = Reg.secCtrl ∨ a = Reg.secOtpKeyCtrl ∨ a = Reg.secAttestCtrl ∨ a = Reg.secNorCtrl) :
    regionOf a = .register ∧ a % 8 = 0 ∧ past a regBase / 2 ^ 24 = 11 := by
  rcases ha with rfl | rfl | rfl | rfl <;> exact ⟨rfl, rfl, rfl⟩

theorem State.sec_unlocked (u : State) {a : Nat}
    (ha : a = Reg.secCtrl ∨ a = Reg.secOtpKeyCtrl ∨ a = Reg.secAttestCtrl ∨ a = Reg.secNorCtrl) (v : Nat) :
    u.locked a v = false ∧ u.valueBad a v = false := by
  rcases ha with rfl | rfl | rfl | rfl <;> exact ⟨rfl, rfl⟩

theorem State.applyWrite_sec (u : State) {a : Nat} (h : past a regBase / 2 ^ 24 = 11) (v raw : Nat) (f : Bool) :
    u.applyWrite a v raw f = u.writeSec a v f := by
  unfold State.applyWrite
  rw [h]
  rfl

theorem writeAt_sec {a : Nat} (ha : a = Reg.secCtrl ∨ a = Reg.secOtpKeyCtrl ∨ a = Reg.secAttestCtrl ∨ a = Reg.secNorCtrl)
    (h : s.WritesAt t ag a u) (hm : u.mayWrite ag a = true) {v : Nat} (hv : v < 2 ^ 64) (f : Bool) :
    s.writeAt t ag a v f = .next (u.writeSec a v f) := by
  obtain ⟨d, hf, hacc, hbad, hmask⟩ := regFind_sec ha v
  obtain ⟨hr, h8, hblock⟩ := secAddress ha
  have hall : v &&& d.mask = v := by
    rw [hmask]
    exact and_all64 hv
  refine (State.writeAt_runs h).trans (congrArg Host.Outcome.next ?_)
  rw [State.writeReg_at hr h8 hf (.inr hacc) (u.sec_unlocked ha _).1 hbad (u.sec_unlocked ha _).2 hm, hall, State.applyWrite_sec u hblock]

theorem State.writeSec_ctrl (v : Nat) (f : Bool) : u.writeSec Reg.secCtrl v f = u.writeSecCtrl v f := if_pos rfl

theorem State.writeSec_otpKey (v : Nat) (f : Bool) : u.writeSec Reg.secOtpKeyCtrl v f = u.writeOtpKey v f :=
  (if_neg (by decide)).trans (if_pos rfl)

theorem State.writeSec_attest (v : Nat) (f : Bool) :
    u.writeSec Reg.secAttestCtrl v f = if bit v 0 then u.attestGo f else u :=
  (if_neg (by decide)).trans ((if_neg (by decide)).trans (if_pos rfl))

theorem State.writeSec_nor (v : Nat) (f : Bool) : u.writeSec Reg.secNorCtrl v f = u.writeNorCtrl v :=
  (if_neg (by decide)).trans ((if_neg (by decide)).trans ((if_neg (by decide)).trans (if_pos rfl)))

end Writes

/-! ### The floor and the key slots -/

section Keys
variable {s u : State} {t : Nat} {ag : Agent} {f : Bool}

theorem fin4_keyBits (k : Fin 4) : bit (2 + k.val * 2 ^ 2) 0 = false ∧ bit (2 + k.val * 2 ^ 2) 1 = true ∧
    bits (2 + k.val * 2 ^ 2) 3 2 = k.val ∧ bit (k.val + 4) 2 = true ∧ bits (k.val + 4) 1 0 = k.val := by
  revert k
  decide

theorem exec_svnCommit (h : s.WritesAt t ag Reg.secCtrl u) (hm : u.mayWrite ag Reg.secCtrl = true) :
    exec (.svnCommit t f ag) s = .next (u.svnCommit f) := by
  refine (writeAt_sec (.inl rfl) h hm (by decide) f).trans (congrArg Host.Outcome.next ?_)
  rw [State.writeSec_ctrl, State.writeSecCtrl, show bit 1 0 = true by decide, show bit 1 1 = false by decide]
  rfl

theorem exec_revoke (h : s.WritesAt t ag Reg.secCtrl u) (hm : u.mayWrite ag Reg.secCtrl = true) (k : Fin 4) :
    exec (.revoke t k f ag) s = .next (u.revokeKey k.val f) := by
  obtain ⟨h0, h1, hk, -, -⟩ := fin4_keyBits k
  refine (writeAt_sec (.inl rfl) h hm (by omega) f).trans (congrArg Host.Outcome.next ?_)
  rw [State.writeSec_ctrl, State.writeSecCtrl, h0, h1, hk]
  rfl

theorem exec_otpKeyProgram (h : s.WritesAt t ag Reg.secOtpKeyCtrl u) (hm : u.mayWrite ag Reg.secOtpKeyCtrl = true) (k : Fin 4) :
    exec (.otpKeyProgram t k f ag) s = .next (u.writeOtpKey (k.val + 4) f) :=
  (writeAt_sec (.inr (.inl rfl)) h hm (by omega) f).trans (congrArg Host.Outcome.next (State.writeSec_otpKey _ f))

theorem State.svnCommit_stands (h : u.sec.slot = none ∨ min 255 (u.fld Reg.secStatus 39 32) ≤ u.persist.floor) :
    u.svnCommit f = u := by
  refine if_pos (h.imp_left fun hn => ?_)
  rw [hn]
  rfl

theorem State.svnCommit_raises (hs : u.sec.slot.isSome = true) (h : u.persist.floor < min 255 (u.fld Reg.secStatus 39 32)) :
    u.svnCommit f = if f then u.burnFault else
      ({ u with persist := { u.persist with floor := min 255 (u.fld Reg.secStatus 39 32) } } : State).setFld Reg.secStatus 47 40
        (min 255 (u.fld Reg.secStatus 39 32)) := by
  refine if_neg ?_
  rintro (hn | hlow)
  · rw [Option.isNone_iff_eq_none] at hn
    rw [hn] at hs
    cases hs
  · exact absurd h (Nat.not_lt.mpr hlow)

/-- Whether a programmed key slot other than k would be left unrevoked. -/
def State.KeyLeft (u : State) (k : Nat) : Prop := ∃ i < 4, i ≠ k ∧ u.keyProgrammed i = true ∧ u.keyRevoked i = false

theorem State.revokeKey_refused {k : Nat} (h : (u.sec.slot.isSome = true ∧ u.fld Reg.secStatus 49 48 = k) ∨ ¬ u.KeyLeft k) :
    u.revokeKey k f = u.regAccess Reg.secCtrl :=
  if_pos (h.imp_right fun hno => Bool.eq_false_iff.mpr fun hany => hno (keys_left.mp hany))

theorem State.revokeKey_revokes {k : Nat} (hown : ¬ (u.sec.slot.isSome = true ∧ u.fld Reg.secStatus 49 48 = k)) (h : u.KeyLeft k) :
    u.revokeKey k f = if f then u.burnFault else if u.keyRevoked k then u else
      { u with persist := { u.persist with revoked := u.persist.revoked ++ [k] } } := by
  refine if_neg ?_
  rintro (hmine | hnone)
  · exact hown hmine
  · exact Bool.eq_false_iff.mp hnone (keys_left.mpr h)

/-- What a write that asks for key slot k does. -/
theorem State.writeOtpKey_asks (k : Fin 4) : u.writeOtpKey (k.val + 4) f =
    if k.val < 2 ∨ u.keyProgrammed k.val = true ∨ (u.memFault (u.rd Reg.secOtpKeyDa) 32).isSome = true
    then u.regAccess Reg.secOtpKeyCtrl else if f then u.burnFault else
      { u with persist := { u.persist with keys := tabSet (fun _ => []) u.persist.keys k.val (u.load (u.rd Reg.secOtpKeyDa) 32) } } := by
  obtain ⟨-, -, -, h2, hk⟩ := fin4_keyBits k
  unfold State.writeOtpKey
  simp only [h2, hk, Bool.true_eq_false, false_or]

end Keys

/-! ### Attestation -/

section Attest
variable {s u : State} {t : Nat} {ag : Agent} {f : Bool}

/-- A GO that is taken, noted. -/
def State.noteGo (u : State) : State := { u with sec := { u.sec with goAt := u.now + 1 } }

theorem exec_attestGo (h : s.WritesAt t ag Reg.secAttestCtrl u) (hm : u.mayWrite ag Reg.secAttestCtrl = true) :
    exec (.attestGo t f ag) s = .next (u.attestGo f) := by
  refine (writeAt_sec (.inr (.inr (.inl rfl))) h hm (by decide) f).trans (congrArg Host.Outcome.next ?_)
  rw [State.writeSec_attest, if_pos (by decide)]

theorem State.attestGo_busy (h : u.fld Reg.secAttestStatus 1 0 = 1 ∨ u.sec.goAt = u.now + 1) :
    u.attestGo f = u.regAccess Reg.secAttestCtrl := if_pos h

section Taken
variable (h : ¬ (u.fld Reg.secAttestStatus 1 0 = 1 ∨ u.sec.goAt = u.now + 1))
include h

theorem State.attestGo_rate (ht : u.sec.tokens = 0) : u.attestGo f = u.noteGo.attestDone 1 :=
  (if_neg h).trans (if_pos ht)

theorem State.attestGo_unavailable (ht : 0 < u.sec.tokens)
    (hu : u.sec.exhausted = true ∨ u.sec.signRead = false ∨ u.sec.slot = none) : u.attestGo f = u.noteGo.attestDone 2 :=
  (if_neg h).trans ((if_neg (Nat.pos_iff_ne_zero.mp ht)).trans
    (if_pos (hu.imp_right (Or.imp_right Option.isNone_iff_eq_none.mpr))))

theorem State.attestGo_signs (ht : 0 < u.sec.tokens)
    (hu : ¬ (u.sec.exhausted = true ∨ u.sec.signRead = false ∨ u.sec.slot = none)) :
    u.attestGo f = if u.sec.ready then u.noteGo.attestSign f else
      ({ u.noteGo with sec := { u.noteGo.sec with waiting := true } } : State).showAttest 1 0 :=
  (if_neg h).trans ((if_neg (Nat.pos_iff_ne_zero.mp ht)).trans
    (if_neg fun hn => hu (hn.imp_right (Or.imp_right Option.isNone_iff_eq_none.mp))))

end Taken

/-- What a signature over the report in memory makes of the state in which its index is reserved. -/
def State.signReport (w : State) (req out : Nat) : State :=
  let body := w.reportBody (w.load req 64)
  let v := w.store out (body ++ (List.range 5396).map (Config.hssSignature (w.persist.q - 1) w.sec.j body))
  let j := v.sec.j + 1
  let v := { v with sec := { v.sec with j := j, tokens := v.sec.tokens - 1, ready := decide (j < 32768) } }
  ((v.bump Reg.secAttestStatus 63 32 1).showSign 0).attestDone 0

theorem State.attestSign_bad (h : (u.memFault (u.rd Reg.secAttestReqDa) 64).isSome = true ∨
    (u.memFault (u.rd Reg.secAttestOutDa) 5652).isSome = true) : u.attestSign f = u.attestDone 3 := if_pos h

theorem State.attestSign_good (h : ¬ ((u.memFault (u.rd Reg.secAttestReqDa) 64).isSome = true ∨
    (u.memFault (u.rd Reg.secAttestOutDa) 5652).isSome = true)) : u.attestSign f =
    (if u.sec.jRes ≤ u.sec.j then u.signLog (min (u.sec.jRes + 64) 32768) 0 f else u).signReport
      (u.rd Reg.secAttestReqDa) (u.rd Reg.secAttestOutDa) := if_neg h

/-! ### The signing trees -/

variable {g : Bool}

/-- Whether the next tree is due. -/
def State.TreeDue (u : State) : Prop := u.sec.signRead = true ∧ u.sec.ready = false ∧ u.sec.exhausted = false

/-- What becomes of a GO that waits once no tree is left. -/
def State.endWaiting (w : State) : State :=
  if w.sec.waiting then ({ w with sec := { w.sec with waiting := false } } : State).attestDone 2 else w

/-- What becomes of a GO that waits once a tree has begun. -/
def State.signWaiting (w : State) : State :=
  if w.sec.waiting then ({ w with sec := { w.sec with waiting := false } } : State).attestSign false else w

theorem State.treeBegin_stands (h : ¬ u.TreeDue) : u.treeBegin f g = u := by
  refine if_pos ?_
  refine Classical.byContradiction fun hnot => ?_
  simp only [not_or, Bool.not_eq_false, Bool.not_eq_true] at hnot
  exact h hnot

theorem State.treeBegin_due (h : u.TreeDue) : u.treeBegin f g =
    if 32768 ≤ u.persist.q then ((({ u with sec := { u.sec with exhausted := true } } : State).showSign 0).signFault 2).endWaiting
    else if f then u.burnFault
    else (({ (({ u with persist := { u.persist with q := u.persist.q + 1 }, sec := { u.sec with j := 0, jRes := 0 } } : State).signLog 0 1 g)
      with sec := { (({ u with persist := { u.persist with q := u.persist.q + 1 }, sec := { u.sec with j := 0, jRes := 0 } } :
        State).signLog 0 1 g).sec with ready := true } } : State).showSign 0).signWaiting := by
  obtain ⟨hread, hready, hleft⟩ := h
  refine if_neg ?_
  rw [hread, hready, hleft]
  decide

theorem State.attestRefill_early (h : u.now < u.sec.tokensAt + us 500000) : u.attestRefill = u := if_pos h

theorem State.attestRefill_due (h : u.sec.tokensAt + us 500000 ≤ u.now) : u.attestRefill =
    ({ u with sec := { u.sec with tokens := min 255 (u.sec.tokens + 1), tokensAt := u.now } } : State).setFld Reg.secAttestStatus 15 8
      (min 255 (u.sec.tokens + 1)) := if_neg (Nat.not_lt.mpr h)

end Attest

/-! ### Firmware's NOR operations -/

section Nor
variable {s u : State} {t : Nat} {ag : Agent}

/-- The three NOR commands are writes of SEC_NOR_CTRL with their command and length. -/
theorem exec_norCommand {len : BitVec 24} {c : Instr} {cmd n : Nat} (h : s.WritesAt t ag Reg.secNorCtrl u)
    (hm : u.mayWrite ag Reg.secNorCtrl = true) (hc : (c, cmd, n) ∈ norCommands t len ag) :
    cmd < 3 ∧ n < 2 ^ 24 ∧ exec c s = .next (u.writeNorCtrl (cmd + n * 2 ^ 8)) := by
  have hrun : ∀ v, v < 2 ^ 64 → s.writeAt t ag Reg.secNorCtrl v false = .next (u.writeNorCtrl v) := fun v hv =>
    (writeAt_sec (.inr (.inr (.inr rfl))) h hm hv false).trans (congrArg Host.Outcome.next (State.writeSec_nor v false))
  have hlen : len.toNat < 2 ^ 24 := len.isLt
  simp only [norCommands, List.mem_cons, Prod.mk.injEq, List.not_mem_nil, or_false] at hc
  rcases hc with ⟨rfl, rfl, rfl⟩ | ⟨rfl, rfl, rfl⟩ | ⟨rfl, rfl, rfl⟩
  · refine ⟨by decide, hlen, ?_⟩
    rw [Nat.zero_add]
    exact hrun _ (by omega)
  · exact ⟨by decide, hlen, hrun _ (by omega)⟩
  · exact ⟨by decide, by decide, hrun 2 (by decide)⟩

/-- Whether the range of a command is not one that firmware may change. -/
def State.NorDenied (u : State) (cmd n : Nat) : Prop :=
  (cmd = 1 ∧ u.norMay (u.rd Reg.secNorAddr) n = false) ∨
    (cmd = 2 ∧ u.norMay (u.rd Reg.secNorAddr / sectorSize * sectorSize) sectorSize = false)

theorem State.writeNorCtrl_busy (h : bit (u.rd Reg.secNorStatus) 0 = true) (v : Nat) :
    u.writeNorCtrl v = u.regAccess Reg.secNorCtrl := if_pos h

section Taken
variable {cmd n : Nat} (hcmd : cmd < 3) (hn : n < 2 ^ 24)
include hcmd hn

theorem State.writeNorCtrl_reserved (h : bit (u.rd Reg.secNorStatus) 0 = false) (h1 : cmd = 1) (h2 : n % 256 ≠ 0) :
    u.writeNorCtrl (cmd + n * 2 ^ 8) = u.regReserved Reg.secNorCtrl := by
  obtain ⟨hc, hl⟩ := norCtrl_bits hn hcmd
  unfold State.writeNorCtrl
  rw [if_neg (Bool.eq_false_iff.mp h), if_pos (.inr ⟨hc.trans h1, by rwa [hl]⟩)]

/-- A write of a command that may be is refused by its range alone. -/
theorem State.writeNorCtrl_taken (h : bit (u.rd Reg.secNorStatus) 0 = false) (h1 : cmd = 1 → n % 256 = 0) :
    (u.NorDenied cmd n → u.writeNorCtrl (cmd + n * 2 ^ 8) =
      ((u.wr Reg.secNorStatus 4).event Reg.secIntStatus 2).secRecord F.norAccess Class.info (u.sec.slot.getD 0) 0 0) ∧
    (¬ u.NorDenied cmd n → u.writeNorCtrl (cmd + n * 2 ^ 8) =
      { u.wr Reg.secNorStatus 1 with sec := { u.sec with op := some ⟨cmd, u.rd Reg.secNorAddr, u.rd Reg.secNorDa, n⟩ } }) := by
  obtain ⟨hc, hl⟩ := norCtrl_bits hn hcmd
  have hvalid : ¬ (cmd = 3 ∨ (cmd = 1 ∧ n % 256 ≠ 0)) := by
    rintro (h3 | ⟨hp, hrem⟩)
    · omega
    · exact hrem (h1 hp)
  unfold State.writeNorCtrl
  simp only [hc, hl]
  rw [if_neg (Bool.eq_false_iff.mp h), if_neg hvalid]
  exact ⟨fun hd => if_pos hd, fun hd => if_neg hd⟩

end Taken

/-- What firmware may program or erase outside RECOVERY lies in the slot that was not booted. -/
theorem State.norMay_slot {a n : Nat} (hs : u.stage ≠ 6) (h : u.norMay a n = true) :
    ∃ r, u.sec.slot = some r ∧ slotBase (1 - r) ≤ a ∧ a + n ≤ slotBase (1 - r) + slotSize := by
  unfold State.norMay at h
  dsimp only at h
  rw [if_neg hs] at h
  cases hr : u.sec.slot with
  | none =>
    rw [hr] at h
    cases h
  | some r =>
    rw [hr] at h
    simp only [Bool.and_eq_true, decide_eq_true_eq] at h
    exact ⟨r, rfl, h⟩

variable {f : Bool}

theorem State.norDone_log (h : u.logTurn = true) : u.norDone f = u.logProgram f := by
  unfold State.norDone
  cases u.sec.op with
  | none => exact if_pos h
  | some o => exact if_pos h

theorem State.norDone_idle (h : u.logTurn = false) (ho : u.sec.op = none) (hn : u.signEraseDue = none) : u.norDone f = u := by
  unfold State.norDone
  rw [ho, hn]
  exact if_neg (Bool.eq_false_iff.mp h)

theorem State.norDone_erases (h : u.logTurn = false) (ho : u.sec.op = none) {n : Nat} (hn : u.signEraseDue = some n) :
    u.norDone f = u.signErase n f := by
  unfold State.norDone
  rw [ho, hn]
  exact if_neg (Bool.eq_false_iff.mp h)

theorem State.norDone_ends (h : u.logTurn = false) {o : NorOp} (ho : u.sec.op = some o) : u.norDone f = u.norEnd o f := by
  unfold State.norDone
  rw [ho]
  exact if_neg (Bool.eq_false_iff.mp h)

/-- An operation that can not be carried out as its ranges stand. -/
def State.NorBad (u : State) (o : NorOp) : Prop :=
  (o.cmd = 0 ∧ (2 ^ 26 < o.ofs + o.len ∨ (u.memFault o.da o.len).isSome = true)) ∨
    (o.cmd = 1 ∧ (u.memFault o.da o.len).isSome = true)

/-- What an operation that is carried out does. -/
def State.norEffect (u : State) (o : NorOp) : State :=
  if o.cmd = 0 then u.store o.da (u.norLoad o.ofs o.len)
  else if o.cmd = 1 then u.norProgram o.ofs (u.load o.da o.len)
  else u.norErase (o.ofs / sectorSize)

theorem State.norRun_bad {o : NorOp} (h : u.NorBad o) : u.norRun o = none := by
  unfold State.norRun
  rcases h with ⟨hc, h⟩ | ⟨hc, h⟩
  · rw [hc]
    exact if_pos h
  · rw [hc]
    exact if_pos h

theorem State.norRun_good {o : NorOp} (h : ¬ u.NorBad o) : u.norRun o = some (u.norEffect o) := by
  unfold State.norRun State.norEffect
  split
  case h_1 hc =>
    rw [if_pos hc]
    exact if_neg fun hbad => h (.inl ⟨hc, hbad⟩)
  case h_2 hc =>
    have h0 : o.cmd ≠ 0 := by omega
    rw [if_neg h0, if_pos hc]
    exact if_neg fun hbad => h (.inr ⟨hc, hbad⟩)
  case h_3 h0 h1 => rw [if_neg h0, if_neg h1]

/-- The end of an operation: the port is free, and its status and event tell how it went. -/
def State.norEnded (w : State) (bad : Bool) : State :=
  ({ w with sec := { w.sec with op := none } }.wr Reg.secNorStatus (2 * b2n bad)).event Reg.secIntStatus 1

theorem State.norEnd_fails {o : NorOp} (h : f = true ∨ u.NorBad o) : u.norEnd o f = u.norEnded true := by
  unfold State.norEnd
  rcases h with rfl | h
  · cases u.norRun o <;> rfl
  · rw [State.norRun_bad h]
    rfl

theorem State.norEnd_runs {o : NorOp} (h : ¬ u.NorBad o) : u.norEnd o false = (u.norEffect o).norEnded false := by
  unfold State.norEnd
  rw [State.norRun_good h]
  rfl

theorem exec_norOpDone (h : s.RunsAt t u) : exec (.norOpDone t f) s = .next (u.norDone f) := live_next h

end Nor

/-- Settles O55: each write by its register's row and the case lemmas of its effect, each event by those of its function. -/
theorem keysSigningAndTheNor : Obligations.KeysSigningAndTheNor := by
  unfold Obligations.KeysSigningAndTheNor
  refine ⟨fun s u t f ag => ?_, fun s u t f h => ?_⟩
  · intro burnt
    refine ⟨fun h hm => ?_, fun h hm k => ?_, fun h hm k => ?_, fun h hm => ?_, ?_, fun h hm len c cmd n hc => ?_,
      fun a n hs hmay => State.norMay_slot hs hmay⟩
    · exact ⟨fun hno => (exec_svnCommit h hm).trans (congrArg Host.Outcome.next (State.svnCommit_stands hno)),
        fun hs hlow => (exec_svnCommit h hm).trans (congrArg Host.Outcome.next (State.svnCommit_raises hs hlow))⟩
    · exact ⟨fun hno => (exec_revoke h hm k).trans (congrArg Host.Outcome.next (State.revokeKey_refused hno)),
        fun hown hleft => (exec_revoke h hm k).trans (congrArg Host.Outcome.next (State.revokeKey_revokes hown hleft))⟩
    · have hrun : exec (.otpKeyProgram t k f ag) s = .next _ :=
        (exec_otpKeyProgram h hm k).trans (congrArg Host.Outcome.next (State.writeOtpKey_asks k))
      exact ⟨fun hno => hrun.trans (congrArg Host.Outcome.next (if_pos hno)),
        fun hyes => hrun.trans (congrArg Host.Outcome.next (if_neg hyes))⟩
    · have hrun : exec (.attestGo t f ag) s = .next (u.attestGo f) := exec_attestGo h hm
      exact ⟨fun hbusy => hrun.trans (congrArg Host.Outcome.next (State.attestGo_busy hbusy)),
        fun hfree ht => hrun.trans (congrArg Host.Outcome.next (State.attestGo_rate hfree ht)),
        fun hfree ht hu => hrun.trans (congrArg Host.Outcome.next (State.attestGo_unavailable hfree ht hu)),
        fun hfree ht hu => hrun.trans (congrArg Host.Outcome.next (State.attestGo_signs hfree ht hu))⟩
    · exact ⟨fun hbad => State.attestSign_bad hbad, fun hgood => State.attestSign_good hgood⟩
    · obtain ⟨hcmd, hn, hrun⟩ := exec_norCommand h hm hc
      refine ⟨fun hb => hrun.trans (congrArg Host.Outcome.next (State.writeNorCtrl_busy hb _)),
        fun hb h1 h2 => hrun.trans (congrArg Host.Outcome.next (State.writeNorCtrl_reserved hcmd hn hb h1 h2)), fun hb h1 => ?_⟩
      obtain ⟨hdenied, htaken⟩ := State.writeNorCtrl_taken hcmd hn hb h1
      exact ⟨fun hd => hrun.trans (congrArg Host.Outcome.next (hdenied hd)), fun hd => hrun.trans (congrArg Host.Outcome.next (htaken hd))⟩
  · intro burnt
    refine ⟨fun burnFail logFail => ?_, fun hearly => ?_, fun hdue => ?_, fun hl => ?_, fun hl ho => ⟨fun hn => ?_, fun n hn => ?_⟩,
      fun o hl ho => ⟨fun hbad => ?_, fun hf hgood => ?_⟩⟩
    · have hrun : exec (.treeBegin t burnFail logFail) s = .next (u.treeBegin burnFail logFail) := live_next h
      refine ⟨fun hnot => hrun.trans (congrArg Host.Outcome.next (State.treeBegin_stands hnot)), fun hdue hq => ?_,
        fun hdue hq hburn => ?_, fun hdue hq hburn => ?_⟩
      · exact hrun.trans (congrArg Host.Outcome.next ((State.treeBegin_due hdue).trans (if_pos hq)))
      · exact hrun.trans (congrArg Host.Outcome.next ((State.treeBegin_due hdue).trans
          ((if_neg (Nat.not_le.mpr hq)).trans (if_pos hburn))))
      · exact hrun.trans (congrArg Host.Outcome.next ((State.treeBegin_due hdue).trans
          ((if_neg (Nat.not_le.mpr hq)).trans (if_neg (Bool.eq_false_iff.mp hburn)))))
    · exact (live_next h).trans (congrArg Host.Outcome.next (State.attestRefill_early hearly))
    · exact (live_next h).trans (congrArg Host.Outcome.next (State.attestRefill_due hdue))
    · exact (exec_norOpDone h).trans (congrArg Host.Outcome.next (State.norDone_log hl))
    · exact (exec_norOpDone h).trans (congrArg Host.Outcome.next (State.norDone_idle hl ho hn))
    · exact (exec_norOpDone h).trans (congrArg Host.Outcome.next (State.norDone_erases hl ho hn))
    · exact (exec_norOpDone h).trans (congrArg Host.Outcome.next ((State.norDone_ends hl ho).trans (State.norEnd_fails hbad)))
    · subst hf
      exact (exec_norOpDone h).trans (congrArg Host.Outcome.next ((State.norDone_ends hl ho).trans (State.norEnd_runs hgood)))

end Sys2Proof.Machine
end

section
/-! SUPPORT. Power-up, the shutdowns, reset and the loss of REFCLK (O56). -/

namespace Sys2Proof.Machine

/-! ### A reset of every block -/

section Reset
variable (w : State) (p : PowerSt)

theorem resetAll_fresh : { w.resetAll p with pending := [], now := 0, free := 0, regs := [], outbox := [], persist := {}, power := {} } =
    State.reset := by
  rw [resetAll_regs]
  rfl

theorem resetAll_keeps : (w.resetAll p).pending = w.pending ∧ (w.resetAll p).now = w.now ∧ (w.resetAll p).outbox = w.outbox ∧
    (w.resetAll p).power = { p with address := w.power.address } ∧ (w.resetAll p).persist = w.tearNor := by
  rw [resetAll_regs]
  exact ⟨rfl, rfl, rfl, rfl, rfl⟩

theorem State.tearNor_whole {w : State} (h : w.sec.op = none) : w.tearNor = w.persist := by
  unfold State.tearNor
  rw [h]

theorem resetAll_persist : (w.resetAll p).persist = { w.persist with nor := (w.resetAll p).persist.nor } := by
  obtain ⟨-, -, -, -, hpersist⟩ := resetAll_keeps w p
  rw [hpersist]
  exact tearNor_eq w

end Reset

section Steps
variable {s u : State} {t : Nat}

/-! ### The input and the rails -/

theorem State.inputRise_on (h : u.power.step ≠ .off) (cold : Bool) : u.inputRise cold = u := if_pos h

theorem State.inputRise_off (h : u.power.step = .off) {cold : Bool} {w : State}
    (hw : (if cold then { u with regs := [], power := { u.power with address := none } } else u) = w) :
    u.inputRise cold =
      w.resetAll { step := .standby, low := w.power.low, released := false, latched := w.power.latched && !cold } := by
  subst hw
  exact if_neg (not_not_intro h)

theorem State.groupUp_down (h : u.power.down = true) : u.groupUp = u := if_pos h

/-- The group that comes up, by the step that the power-up has reached. -/
theorem State.groupUp_steps (h : u.power.down = false) :
    (u.power.step = .charged → u.groupUp = u.powerStep .group1) ∧
    (u.power.step = .group1 → u.groupUp = u.powerStep .group2) ∧
    (u.power.step = .group2 → u.groupUp = u.powerStep .group3a) ∧
    (u.power.step = .group3a → u.groupUp = u.powerStep .group3b) ∧
    (u.power.step = .group3b → u.groupUp =
      ({ u with power := { u.power with step := .good, goodAt := u.now } } : State).setFld Reg.pwrStatus 0 0 1) ∧
    (u.power.step = .off ∨ u.power.step = .standby ∨ u.power.step = .good → u.groupUp = u) := by
  unfold State.groupUp
  rw [if_neg (Bool.eq_false_iff.mp h)]
  refine ⟨fun hs => ?_, fun hs => ?_, fun hs => ?_, fun hs => ?_, fun hs => ?_, ?_⟩
  · rw [hs]
  · rw [hs]
  · rw [hs]
  · rw [hs]
  · rw [hs]
    rfl
  · rintro (hs | hs | hs) <;> rw [hs]

theorem State.railFail_stands {r : Nat} (h : u.power.down = true ∨ u.power.step ≠ railStep r) : u.railFail r = u := if_pos h

theorem State.railFail_shuts {r : Nat} (hd : u.power.down = false) (hs : u.power.step = railStep r) :
    u.railFail r = (u.downStatus 4 r).resetAll
      { step := .charged, low := u.power.low, released := false, latched := true, down := true } := by
  refine if_neg ?_
  rintro (hdown | hother)
  · rw [hd] at hdown
    cases hdown
  · exact hother hs

/-! ### The shutdowns -/

/-- Whether the module was without its rails before the input failed. -/
def State.Dead (u : State) : Prop := u.power.step = .standby ∨ u.power.down = true

theorem State.uncontrolled_off (h : u.power.step = .off) (cause : Nat) (off : Bool) : u.uncontrolled cause off = u := if_pos h

theorem State.uncontrolled_live (h : u.power.step ≠ .off) (hd : ¬ u.Dead) (cause : Nat) (off : Bool) :
    u.uncontrolled cause off = (u.downStatus cause 0).resetAll
      { step := if off then .off else .charged, low := u.power.low, released := false, latched := true, down := !off,
        thermalAt := u.power.thermalAt } := by
  have hstep : u.power.step ≠ .standby := fun hs => hd (.inl hs)
  have hlive : ¬ (u.power.step = .standby ∨ u.power.down = true) := hd
  unfold State.uncontrolled
  simp only [if_neg h, if_neg hlive, decide_eq_false hlive, Bool.not_false, Bool.or_true]
  exact congrArg (u.downStatus cause 0).resetAll (by
    simp only [State.downStatus, State.wr, ne_eq, hstep, if_false, not_false_eq_true, decide_true, Bool.and_true])

theorem State.uncontrolled_dead (h : u.power.step ≠ .off) (hd : u.Dead) (cause : Nat) (off : Bool) :
    u.uncontrolled cause off = u.resetAll
      { step := if off then .off else if u.power.step = .standby then .standby else .charged, low := u.power.low, released := false,
        latched := u.power.latched, down := !off && decide (u.power.step ≠ .standby), thermalAt := u.power.thermalAt } := by
  have hdead : u.power.step = .standby ∨ u.power.down = true := hd
  unfold State.uncontrolled
  simp only [if_neg h, if_pos hdead, decide_eq_true hdead, Bool.not_true, Bool.or_false]

theorem State.shutdownDone_none (h : u.power.shutting = none) : u.shutdownDone = u := by
  unfold State.shutdownDone
  rw [h]

/-- Whether a FATAL record is logged before the rails go. -/
def State.LogsFatal (u : State) : Prop := u.fatalWaits = true ∧ u.fld Reg.fltNorCfg 7 0 ≠ 0 ∧ u.stage ≠ 6

theorem State.logsFatal_iff : (u.fatalWaits && decide (u.fld Reg.fltNorCfg 7 0 ≠ 0) && decide (u.stage ≠ 6)) = true ↔ u.LogsFatal := by
  simp only [Bool.and_eq_true, decide_eq_true_eq, and_assoc]
  rfl

theorem State.railsDown_cause (w : State) (c : Nat) : w.railsDown (decide (c = 1)) = w.resetAll
    { step := .charged, low := w.power.low, released := false, latched := true, down := true,
      thermalAt := if c = 1 then some w.now else none } := by
  unfold State.railsDown
  simp only [decide_eq_true_eq]

theorem State.shutdownDone_logs {c rail : Nat} (h : u.power.shutting = some (c, rail)) (hl : u.LogsFatal) :
    u.shutdownDone = (u.logProgram false).railsDown (decide (c = 1)) := by
  unfold State.shutdownDone
  rw [h]
  simp only [State.logsFatal_iff.mpr hl, if_true]

theorem State.shutdownDone_plain {c rail : Nat} (h : u.power.shutting = some (c, rail)) (hl : ¬ u.LogsFatal) :
    u.shutdownDone = u.railsDown (decide (c = 1)) := by
  unfold State.shutdownDone
  rw [h]
  simp only [if_neg fun hall => hl (State.logsFatal_iff.mp hall)]

/-! ### RESET_N, the release and REFCLK -/

/-- Whether a thermal shutdown ended less than 10 s ago. -/
def State.Hot (u : State) : Prop := ∃ c, u.power.thermalAt = some c ∧ u.now < c + us 10000000

/-- The mark of takeReset says so. -/
def State.hotNow (u : State) : Bool :=
  match u.power.thermalAt with
  | some c => decide (u.now < c + us 10000000)
  | none => false

theorem State.hotNow_iff : u.hotNow = true ↔ u.Hot := by
  unfold State.hotNow State.Hot
  cases u.power.thermalAt with
  | none =>
    constructor
    · intro h
      cases h
    · rintro ⟨c, h, -⟩
      cases h
  | some c =>
    rw [decide_eq_true_eq]
    constructor
    · exact fun h => ⟨c, rfl, h⟩
    · rintro ⟨d, hd, h⟩
      cases hd
      exact h

theorem State.takeReset_eq : u.takeReset = if u.power.shutting.isSome = true ∨ u.hotNow = true then u else
    u.resetAll { step := u.power.step, goodAt := u.power.goodAt, low := true, released := false, latched := u.power.latched } := rfl

theorem State.takeReset_stands (h : u.power.shutting.isSome = true ∨ u.Hot) : u.takeReset = u :=
  State.takeReset_eq.trans (if_pos (h.imp_right State.hotNow_iff.mpr))

theorem State.takeReset_takes (hs : u.power.shutting = none) (h : ¬ u.Hot) : u.takeReset =
    u.resetAll { step := u.power.step, goodAt := u.power.goodAt, low := true, released := false, latched := u.power.latched } := by
  refine State.takeReset_eq.trans (if_neg ?_)
  rintro (hshut | hhot)
  · rw [hs] at hshut
    cases hshut
  · exact h (State.hotNow_iff.mp hhot)

/-- Whether the internal reset is to be released. -/
def State.Releases (u : State) : Prop :=
  u.power.released = false ∧ u.power.step = .good ∧ u.power.refLost = false ∧ u.power.goodAt + us 100 ≤ u.now

theorem State.releaseDue_iff : u.releaseDue = true ↔ u.Releases := by
  unfold State.releaseDue State.Releases
  simp only [Bool.and_eq_true, Bool.not_eq_true', decide_eq_true_eq, and_assoc]

theorem exec_internalResetRelease (hu : s.advance t = u) :
    exec (.internalResetRelease t) s = .next (if u.releaseDue then u.release else u) := by
  subst hu
  rfl

theorem State.refclkLost_off (h : u.power.step ≠ .good) : u.refclkLost = u := if_pos (decide_eq_true h)

theorem State.refclkLost_good (h : u.power.step = .good) : u.refclkLost = (u.setFld Reg.pwrStatus 2 2 1).resetAll
    { step := u.power.step, goodAt := u.power.goodAt, low := u.power.low, released := u.power.released, refLost := true, latched := true,
      shutting := u.power.shutting } := by
  have hon : u.railsOff = false := decide_eq_false (not_not_intro h)
  unfold State.refclkLost
  rw [hon]
  rfl

end Steps

/-- Settles O56: the reset by its facts, each event of the power block by the case lemmas of its function. -/
theorem powerComesUpAndGoesDown : Obligations.PowerComesUpAndGoesDown := by
  unfold Obligations.PowerComesUpAndGoesDown
  refine ⟨fun w p => ?_, rfl, fun s t => ?_⟩
  · obtain ⟨hpending, hnow, hout, hpower, hpersist⟩ := resetAll_keeps w p
    exact ⟨resetAll_fresh w p, hpending, hnow, hout, hpower, resetAll_persist w p,
      fun hop => hpersist.trans (State.tearNor_whole hop), resetAll_rd w p⟩
  · have hrise : ∀ cold, exec (.inputRise t cold) s = .next ((s.advance t).inputRise cold) := fun cold => rfl
    have hgroup : exec (.railGroupUp t) s = .next (s.advance t).groupUp := rfl
    have hfail : ∀ rail : Fin 32, exec (.railFail t rail) s = .next ((s.advance t).railFail rail.val) := fun rail => rfl
    have huv : exec (.inputUv t) s = .next ((s.advance t).uncontrolled 5 true) := rfl
    have hov : exec (.inputOv t) s = .next ((s.advance t).uncontrolled 6 false) := rfl
    have hshut : exec (.orderlyShutdown t) s = .next (s.advance t).shutdownDone := rfl
    have hreset : exec (.resetAssert t) s = .next (s.advance t).takeReset := rfl
    have href : exec (.refclkLost t) s = .next (s.advance t).refclkLost := rfl
    have hrelease := exec_internalResetRelease (s := s) (t := t) rfl
    intro u p cause stepTo
    refine ⟨fun cold => ⟨fun hon => ?_, fun hoff => ?_⟩, rfl, fun hd => ?_, fun hd => ?_, fun rail => ⟨fun hno => ?_, fun hd hs => ?_⟩,
      fun c n off hc => ?_, fun hn => ?_, fun c rail hs => ⟨fun hl => ?_, fun hl => ?_⟩, ⟨fun hno => ?_, fun hn hh => ?_⟩,
      ⟨fun hno => ?_, fun hdue => ?_⟩, fun hs => ?_, fun hs => ?_⟩
    · exact (hrise cold).trans (congrArg Host.Outcome.next (State.inputRise_on hon cold))
    · exact (hrise cold).trans (congrArg Host.Outcome.next (State.inputRise_off hoff rfl))
    · exact hgroup.trans (congrArg Host.Outcome.next (State.groupUp_down hd))
    · obtain ⟨h1, h2, h3, h4, h5, h6⟩ := State.groupUp_steps hd
      exact ⟨fun hs => hgroup.trans (congrArg Host.Outcome.next (h1 hs)), fun hs => hgroup.trans (congrArg Host.Outcome.next (h2 hs)),
        fun hs => hgroup.trans (congrArg Host.Outcome.next (h3 hs)), fun hs => hgroup.trans (congrArg Host.Outcome.next (h4 hs)),
        fun hs => hgroup.trans (congrArg Host.Outcome.next (h5 hs)), fun hs => hgroup.trans (congrArg Host.Outcome.next (h6 hs))⟩
    · exact (hfail rail).trans (congrArg Host.Outcome.next (State.railFail_stands hno))
    · exact (hfail rail).trans (congrArg Host.Outcome.next (State.railFail_shuts hd hs))
    · have hrun : exec c s = .next (u.uncontrolled n off) := by
        simp only [List.mem_cons, Prod.mk.injEq, List.not_mem_nil, or_false] at hc
        rcases hc with ⟨rfl, rfl, rfl⟩ | ⟨rfl, rfl, rfl⟩
        · exact huv
        · exact hov
      exact ⟨fun hoff => hrun.trans (congrArg Host.Outcome.next (State.uncontrolled_off hoff n off)),
        fun hon hlive => hrun.trans (congrArg Host.Outcome.next (State.uncontrolled_live hon hlive n off)),
        fun hon hdead => hrun.trans (congrArg Host.Outcome.next (State.uncontrolled_dead hon hdead n off))⟩
    · exact hshut.trans (congrArg Host.Outcome.next (State.shutdownDone_none hn))
    · exact hshut.trans (congrArg Host.Outcome.next ((State.shutdownDone_logs hs hl).trans (State.railsDown_cause _ c)))
    · exact hshut.trans (congrArg Host.Outcome.next ((State.shutdownDone_plain hs hl).trans (State.railsDown_cause _ c)))
    · exact hreset.trans (congrArg Host.Outcome.next (State.takeReset_stands hno))
    · exact hreset.trans (congrArg Host.Outcome.next (State.takeReset_takes hn hh))
    · exact hrelease.trans (congrArg Host.Outcome.next (if_neg fun hdue => hno (State.releaseDue_iff.mp hdue)))
    · exact hrelease.trans (congrArg Host.Outcome.next (if_pos (State.releaseDue_iff.mpr hdue)))
    · exact href.trans (congrArg Host.Outcome.next (State.refclkLost_off hs))
    · exact href.trans (congrArg Host.Outcome.next (State.refclkLost_good hs))

end Sys2Proof.Machine
end

section
/-! SUPPORT. The power cap, PPS_IN and the sideband (O57). -/

namespace Sys2Proof.Machine

section PowerBlock
variable {s u : State} {t : Nat}

/-! ### The power cap -/

/-- What an evaluation shows of the input and of each rail, before it moves the cap. -/
def State.meter (u : State) (mv ma dw uj : Nat) (rails : List (Nat × Nat)) : State :=
  let p := u.power
  let a := { u with power := { p with evalAt := u.now + 1, energy := p.energy + uj, samples := p.samples + 1,
                                      sumPower := p.sumPower + dw, sumVolts := p.sumVolts + mv, peak := max p.peak dw } }
  let c := (a.wr Reg.pwrInput (mv + ma * 2 ^ 16 + dw * 2 ^ 32)).wr Reg.pwrInputPeak (max (a.rd Reg.pwrInputPeak) dw)
  let d := c.wr Reg.pwrEnergy (min ((p.energy + uj) / 1000) (2 ^ 64 - 1))
  ((List.range 32).zip rails).foldl (fun (w : State) (x : Nat × Nat × Nat) => w.wr (Reg.pwrRail x.1) (railReg x.1 x.2.1 x.2.2)) d

/-- The state in which the writes of the two caps in this cycle have been made. -/
def State.capsWritten (u : State) : State := (u.reached Reg.pwrCap 4).reached Reg.pwrSbCap 4

section Eval
variable {mv ma dw uj : Nat} {rails : List (Nat × Nat)}

theorem State.powerEval_early (h : 0 < u.power.evalAt ∧ u.now < u.power.evalAt - 1 + us 100) : u.powerEval mv ma dw uj rails = u := if_pos h

theorem State.powerEval_due (h : ¬ (0 < u.power.evalAt ∧ u.now < u.power.evalAt - 1 + us 100)) :
    u.powerEval mv ma dw uj rails = (u.capsWritten.meter mv ma dw uj rails).moveCap dw := if_neg h

end Eval

/-! ### PPS_IN -/

section Pps
variable {ns : Nat}

/-- An edge of PPS_IN, seen. -/
def State.ppsSeen (u : State) : State := { u with power := { u.power with ppsEdge := u.now + 1, ppsMissing := false } }

/-- The stamp and the offset of an accepted edge, shown. -/
def State.ppsShown (w : State) (ns : Nat) (d : Int) : State :=
  ((({ w with power := { w.power with pps := w.now + 1 } } : State).wr Reg.pwrPpsStamp ns).setFld Reg.pwrPpsOffset 31 0
    (ofSigned 32 d)).bump Reg.pwrPpsOffset 47 32 1

theorem State.ppsEdge_soon (h : 0 < u.power.pps ∧ u.now < u.power.pps - 1 + us 900000) :
    u.ppsEdge ns = u.ppsSeen.bump Reg.pwrPpsOffset 63 48 1 := if_pos h

theorem State.ppsEdge_accepted (h : ¬ (0 < u.power.pps ∧ u.now < u.power.pps - 1 + us 900000)) :
    u.ppsEdge ns = (u.ppsSeen.ppsOffset ns).2.ppsShown ns (u.ppsSeen.ppsOffset ns).1 := if_neg h

theorem State.ppsOffset_late {w : State} (h : ns % 1000000000 < 500000000) :
    w.ppsOffset ns = (((ns % 1000000000 : Nat) : Int), w) := if_pos h

theorem State.ppsOffset_early {w : State} (h : 500000000 < ns % 1000000000) :
    w.ppsOffset ns = (((ns % 1000000000 : Nat) : Int) - 1000000000, w) :=
  (if_neg (by omega)).trans (if_pos h)

theorem State.ppsOffset_half {w : State} (h : ns % 1000000000 = 500000000) :
    w.ppsOffset ns = (if Config.freeNat w.free % 2 = 0 then 500000000 else -500000000, { w with free := w.free + 1 }) :=
  (if_neg (by omega)).trans (if_neg (by omega))

theorem State.ppsLate_stands (h : ¬ (u.power.ppsMissing = false ∧ u.power.ppsEdge - 1 + us 1500000 ≤ u.now)) : u.ppsLate = u := by
  refine if_pos ?_
  refine Classical.byContradiction fun hnot => ?_
  rw [not_or, Bool.not_eq_true, Nat.not_lt] at hnot
  exact h hnot

theorem State.ppsLate_sets (hm : u.power.ppsMissing = false) (h : u.power.ppsEdge - 1 + us 1500000 ≤ u.now) :
    u.ppsLate = ({ u with power := { u.power with ppsMissing := true } } : State).event Reg.pwrIntStatus 1 := by
  refine if_neg ?_
  rw [not_or, Bool.not_eq_true, Nat.not_lt]
  exact ⟨hm, h⟩

end Pps

/-! ### The sideband -/

section Sideband
variable {a v : Nat} {busy : Bool}

theorem State.sbMine_iff {target : Nat} : u.sbMine target = true ↔
    u.power.step ≠ .off ∧ (target = 0x3C + Config.sbAddr.toNat ∨ u.power.address = some target) := by
  unfold State.sbMine
  rw [Bool.and_eq_true, Bool.or_eq_true, decide_eq_true_eq, decide_eq_true_eq, decide_eq_true_eq]
  rfl

theorem State.railsOff_eq_false (h : u.power.step = .good) : u.railsOff = false := decide_eq_false (not_not_intro h)

theorem State.sbRead_down (h : u.power.step ≠ .good) (ha : a ∉ latchRegs) : u.sbRead a busy = u.emit (.sideband 2 (BitVec.ofNat 64 0)) :=
  if_pos (by
    rw [Bool.and_eq_true, Bool.not_eq_true']
    exact ⟨decide_eq_true h, decide_eq_false ha⟩)

/-- Whether the sideband may read at a register. -/
def State.SbReadable (u : State) (a : Nat) : Prop :=
  regionOf a = .register ∧ (regFind a).isSome = true ∧ u.mayRead .sideband a = true

theorem State.sbReadable_not_iff : (regionOf a ≠ .register ∨ (regFind a).isNone = true ∨ u.mayRead .sideband a = false) ↔
    ¬ u.SbReadable a := by
  unfold State.SbReadable
  rw [Classical.not_and_iff_not_or_not, Classical.not_and_iff_not_or_not, Option.isNone_iff_eq_none, Option.not_isSome_iff_eq_none, Bool.not_eq_true]

/-- A read that finds its register answering. -/
theorem State.sbRead_up (h : u.power.step = .good ∨ a ∈ latchRegs) : u.sbRead a busy =
    if regionOf a ≠ .register ∨ (regFind a).isNone = true ∨ u.mayRead .sideband a = false then u.answersOpen 1 else if busy then u.answersOpen 3
    else (u.inOrder a readRank).emit (.sideband 0 (BitVec.ofNat 64 ((u.inOrder a readRank).readAt a 8).1)) := by
  have hup : ¬ ((u.railsOff && !decide (a ∈ latchRegs)) = true) := by
    rw [Bool.and_eq_true, Bool.not_eq_true', Classical.not_and_iff_not_or_not]
    exact h.imp (fun hg => Bool.eq_false_iff.mp (State.railsOff_eq_false hg)) (fun ha hf => Bool.false_ne_true (hf.symm.trans (decide_eq_true ha)))
  exact if_neg hup

theorem State.sbWritable_iff : u.mayWrite .sideband a = true ↔ a = Reg.pwrSbCap ∨ a = Reg.fltAlertStatus := by
  show decide (a ∈ sidebandRegs) = true ↔ _
  simp only [decide_eq_true_eq, sidebandRegs, List.mem_cons, List.not_mem_nil, or_false]

theorem State.sbWrite_refused (h : u.mayWrite .sideband a = false) : u.sbWrite a v busy = u.answersOpen 1 := if_pos h

theorem State.sbWrite_may (h : u.mayWrite .sideband a = true) : u.sbWrite a v busy =
    if u.railsOff then u.answersOpen 2 else if busy || u.stopped then u.answersOpen 3
    else ((u.inOrder a Agent.sideband.writeRank).writeReg .sideband a 8 v false).answersOpen 0 :=
  if_neg (by rw [h]; decide)

end Sideband

theorem exec_sidebandRead {target : BitVec 7} {da : BitVec 64} {busy : Bool} (hu : s.advance t = u) :
    exec (.sidebandRead t target da busy) s = .next (if u.sbMine target.toNat then u.sbRead da.toNat busy else u) := by
  subst hu
  rfl

theorem exec_sidebandWrite {target : BitVec 7} {da v : BitVec 64} {busy : Bool} (hu : s.advance t = u) :
    exec (.sidebandWrite t target da v busy) s =
      .next (if u.sbMine target.toNat then u.sbWrite da.toNat v.toNat busy else u) := by
  subst hu
  rfl

theorem exec_setdasa {static dyn : BitVec 7} (hu : s.advance t = u) : exec (.setdasa t static dyn) s = .next (
    if u.power.step ≠ .off ∧ static.toNat = 0x3C + Config.sbAddr.toNat ∧ u.power.address = none
    then { u with power := { u.power with address := some dyn.toNat } } else u) := by
  subst hu
  rfl

end PowerBlock

/-- Settles O57: each event by the case lemmas of its function, the sideband by the order of its answers. -/
theorem powerCapPinsAndSideband : Obligations.PowerCapPinsAndSideband := by
  unfold Obligations.PowerCapPinsAndSideband
  intro s t u p
  have hu : s.advance t = u := rfl
  clear_value u
  refine ⟨fun hlive => ⟨live_next ⟨hu, hlive⟩, live_next ⟨hu, hlive⟩⟩, fun mv ma dw uj rails hlive => ?_, fun err hlive => ?_,
    fun hlive => ⟨fun hno => ?_, fun hlate => ?_⟩, fun static dyn => ⟨fun htaken => ?_, fun hno => ?_⟩, fun target da v busy => ?_⟩
  · have hrun : exec (.powerCapEval t mv ma dw uj rails) s =
        .next (u.powerEval mv.toNat ma.toNat dw.toNat uj (rails.map fun x => (x.1.toNat, x.2.toNat))) := live_next ⟨hu, hlive⟩
    exact ⟨fun hearly => hrun.trans (congrArg Host.Outcome.next (State.powerEval_early hearly)),
      fun hdue => hrun.trans (congrArg Host.Outcome.next ((State.powerEval_due hdue).trans (moveCap_eq _ _)))⟩
  · have hrun : exec (.ppsEdge t err) s = .next (u.ppsEdge (u.timeNs + err.val - 8)) := live_next ⟨hu, hlive⟩
    refine ⟨fun hsoon => hrun.trans (congrArg Host.Outcome.next (State.ppsEdge_soon hsoon)), fun hok => ⟨fun hr => ?_, fun hr => ?_, fun hr => ?_⟩⟩ <;>
      refine hrun.trans (congrArg Host.Outcome.next ((State.ppsEdge_accepted hok).trans ?_))
    · rw [State.ppsOffset_late hr]
      rfl
    · rw [State.ppsOffset_early hr]
      rfl
    · rw [State.ppsOffset_half hr]
      rfl
  · exact (live_next ⟨hu, hlive⟩).trans (congrArg Host.Outcome.next (State.ppsLate_stands hno))
  · exact (live_next ⟨hu, hlive⟩).trans (congrArg Host.Outcome.next (State.ppsLate_sets hlate.1 hlate.2))
  · exact (exec_setdasa hu).trans (congrArg Host.Outcome.next (if_pos htaken))
  · exact (exec_setdasa hu).trans (congrArg Host.Outcome.next (if_neg hno))
  · have hread := exec_sidebandRead (target := target) (da := da) (busy := busy) hu
    have hwrite := exec_sidebandWrite (target := target) (da := da) (v := v) (busy := busy) hu
    refine ⟨fun hno => ?_, fun hmine => ?_⟩
    · have hnot : ¬ u.sbMine target.toNat = true := fun hm => hno (State.sbMine_iff.mp hm)
      exact ⟨hread.trans (congrArg Host.Outcome.next (if_neg hnot)), hwrite.trans (congrArg Host.Outcome.next (if_neg hnot))⟩
    · have hm := State.sbMine_iff.mpr hmine
      rw [if_pos hm] at hread hwrite
      refine ⟨fun hdown ha => ?_, fun hup => ⟨fun hno => ?_, fun hp hb => ?_, fun hp hb w hw => ?_⟩, fun hno => ?_,
        fun hw hdown => ?_, fun hw hgood hb => ?_, fun hw hgood hb hlive w hturn => ?_⟩
      · exact hread.trans (congrArg Host.Outcome.next (State.sbRead_down hdown ha))
      · exact hread.trans (congrArg Host.Outcome.next ((State.sbRead_up hup).trans (if_pos (State.sbReadable_not_iff.mpr hno))))
      · exact hread.trans (congrArg Host.Outcome.next ((State.sbRead_up hup).trans ((if_neg fun hno => State.sbReadable_not_iff.mp hno hp).trans (if_pos hb))))
      · subst hw
        exact hread.trans (congrArg Host.Outcome.next ((State.sbRead_up hup).trans ((if_neg fun hno => State.sbReadable_not_iff.mp hno hp).trans
          (if_neg (Bool.eq_false_iff.mp hb)))))
      · exact hwrite.trans (congrArg Host.Outcome.next (State.sbWrite_refused (Bool.eq_false_iff.mpr fun hm =>
          hno (State.sbWritable_iff.mp hm))))
      · exact hwrite.trans (congrArg Host.Outcome.next ((State.sbWrite_may (State.sbWritable_iff.mpr hw)).trans
          (if_pos (decide_eq_true hdown))))
      · exact hwrite.trans (congrArg Host.Outcome.next ((State.sbWrite_may (State.sbWritable_iff.mpr hw)).trans
          ((if_neg (Bool.eq_false_iff.mp (State.railsOff_eq_false hgood))).trans (if_pos (Bool.or_eq_true_iff.mpr hb)))))
      · subst hturn
        exact hwrite.trans (congrArg Host.Outcome.next ((State.sbWrite_may (State.sbWritable_iff.mpr hw)).trans
          ((if_neg (Bool.eq_false_iff.mp (State.railsOff_eq_false hgood))).trans (if_neg (by rw [hb, hlive]; decide)))))

end Sys2Proof.Machine
end

section
/-! SUPPORT. Register accesses: the access codes, the refusals and who may make them (O58). -/

namespace Sys2Proof.Machine

/-! ### Writes -/

section Writes
variable {u : State} {ag : Agent} {da width v : Nat} {f : Bool}

theorem State.writeReg_outside (h : regionOf da ≠ .register) : u.writeReg ag da width v f = u := if_pos h

theorem State.writeReg_refused (hr : regionOf da = .register) (h : u.mayWrite ag da = false) :
    u.writeReg ag da width v f = u.refuseWrite ag := (if_neg (not_not_intro hr)).trans (if_pos h)

/-- A write that may be made, but not of a whole register that stands there. -/
theorem State.writeReg_misses (hr : regionOf da = .register) (hm : u.mayWrite ag da = true)
    (h : width ≠ 8 ∨ da % 8 ≠ 0 ∨ regFind da = none) : u.writeReg ag da width v f = u.regAccess da := by
  unfold State.writeReg
  rw [if_neg (not_not_intro hr), if_neg (Bool.not_eq_false _ ▸ hm)]
  rw [← or_assoc] at h
  rcases h with hsize | hnone
  · exact if_pos hsize
  · rw [hnone]
    split
    · rfl
    · rfl

theorem State.writeRow_ro {d : RegDesc} (hacc : d.acc = .ro) : u.writeRow d da v f = u := by
  unfold State.writeRow
  simp only [hacc]

theorem State.writeRow_reserved {d : RegDesc} (hacc : d.acc = .rw ∨ d.acc = .wo) (hl : u.locked da (v &&& d.mask) = false)
    (h : d.bad v = true ∨ u.valueBad da v = true) : u.writeRow d da v f = u.regReserved da := by
  have hbad : (d.bad v || u.valueBad da v) = true := Bool.or_eq_true_iff.mpr h
  unfold State.writeRow
  rcases hacc with hacc | hacc <;> simp only [hacc, hl, Bool.false_eq_true, if_false, hbad, if_true]

end Writes

/-- A bit of a W1C register stays unless it is written 1, implemented and not set in this cycle. -/
theorem w1c_testBit {old v mask now i : Nat} (hi : i < 64) :
    (w1c old v mask now).testBit i = (old.testBit i && !(v.testBit i && mask.testBit i && !now.testBit i)) := by
  unfold w1c
  simp only [Nat.testBit_and, Nat.testBit_xor, Nat.testBit_two_pow_sub_one, hi, decide_true, Bool.true_xor]

/-! ### Reads -/

section Reads
variable {s u w : State} {t : Nat} {ag : Agent} {da width : Nat}

theorem exec_registerRead (h : s.RunsAt t u) : exec (.unmappedRegisterAccess t da width none ag) s = .next (u.readFor ag da width) :=
  live_next h

theorem State.readFor_outside (h : regionOf da ≠ .register) : u.readFor ag da width = u := if_pos h

theorem State.readFor_refused (hr : regionOf da = .register) (h : u.mayRead ag da = false) :
    u.readFor ag da width = u.refuseWrite ag := (if_neg (not_not_intro hr)).trans (if_pos h)

/-- A read that may be made answers the value that stands there in its turn. -/
theorem State.readFor_answers (hr : regionOf da = .register) (hm : u.mayRead ag da = true) (hw : u.inOrder da readRank = w)
    {x : Nat} {y : State} (hxy : w.readAt da width = (x, y)) :
    u.readFor ag da width = y.emit (.regValue ag da (BitVec.ofNat 64 x)) := by
  unfold State.readFor
  rw [if_neg (not_not_intro hr), if_neg (Bool.not_eq_false _ ▸ hm), hw, hxy]

theorem State.readAt_misses (h : width ≠ 8 ∨ da % 8 ≠ 0 ∨ regFind da = none) : w.readAt da width = (0, w.regAccess da) := by
  unfold State.readAt
  rw [← or_assoc] at h
  rcases h with hsize | hnone
  · exact if_pos hsize
  · rw [hnone]
    split
    · rfl
    · rfl

theorem State.readAt_row {d : RegDesc} (h8 : da % 8 = 0) (hf : regFind da = some d) :
    w.readAt da 8 = (if d.acc = .wo then 0 else w.readReg da, w) := by
  have hwhole : ¬ (8 ≠ 8 ∨ da % 8 ≠ 0) := by
    rw [not_or, Classical.not_not, Classical.not_not]
    exact ⟨rfl, h8⟩
  unfold State.readAt
  rw [if_neg hwhole, hf]

end Reads

/-! ### Who may access a register -/

section Agents
variable {u : State} {a : Nat}

theorem State.companionWrites_iff : u.mayWrite .companion a = true ↔
    (bit (u.rd Reg.atcCtrl) 1 = true ∧ (isSecReg a = false ∨ regFind a = none ∨
      a = Reg.secAttestReqDa ∨ a = Reg.secAttestOutDa ∨ a = Reg.secAttestCtrl)) ∨
    (u.stage = 6 ∧ (a = Reg.secNorAddr ∨ a = Reg.secNorDa ∨ a = Reg.secNorCtrl)) := by
  unfold State.mayWrite State.inRecovery
  simp only [Bool.or_eq_true, Bool.and_eq_true, Bool.not_eq_true', decide_eq_true_eq, Option.isNone_iff_eq_none, or_assoc,
    attestRegs, recoveryRegs, List.mem_cons, List.not_mem_nil, or_false]

theorem State.companionReads_iff : u.mayRead .companion a = true ↔ bit (u.rd Reg.atcCtrl) 1 = true ∨ u.stage = 6 := by
  unfold State.mayRead State.inRecovery
  rw [Bool.or_eq_true, decide_eq_true_eq]

end Agents

theorem State.live_stopped {s : State} {t : Nat} (h : (s.advance t).stopped = true) (f : State → State) : s.live t f = s.advance t :=
  if_pos h

/-- Settles O58: a write by the access code of its row, a read by the value that stands there, the agents by their registers. -/
theorem registersFollowTheIndex : Obligations.RegistersFollowTheIndex := by
  unfold Obligations.RegistersFollowTheIndex
  refine ⟨fun s u t da width v ag h => ?_, fun s u w t da width ag h hw => ?_, fun old v mask now i hi => w1c_testBit hi,
    fun u a => ⟨rfl, rfl, State.sbWritable_iff, State.companionWrites_iff, rfl, rfl, State.companionReads_iff⟩,
    fun s t da width v w ag hstop => ⟨?_, ?_⟩⟩
  · intro refused c hc
    have hrun : exec c s = .next (u.writeReg ag da width v.toNat false) := write_exec h hc
    refine ⟨fun hr => ?_, fun hr hm => ?_, fun hr hm => ⟨fun hmiss => ?_, fun d h8 ha hf => ?_⟩⟩
    · exact hrun.trans (congrArg Host.Outcome.next (State.writeReg_outside hr))
    · exact hrun.trans (congrArg Host.Outcome.next ((State.writeReg_refused hr hm).trans (refuse_eq u ag)))
    · exact hrun.trans (congrArg Host.Outcome.next (State.writeReg_misses hr hm hmiss))
    · subst h8
      have hrow : exec c s = .next (u.writeRow d da v.toNat false) :=
        hrun.trans (congrArg Host.Outcome.next (State.writeReg_row hr ha hf hm))
      exact ⟨fun hacc => hrow.trans (congrArg Host.Outcome.next (State.writeRow_ro hacc)),
        fun hacc => hrow.trans (congrArg Host.Outcome.next (State.writeRow_w1c hacc da v.toNat false)),
        fun hacc => ⟨fun hl => hrow.trans (congrArg Host.Outcome.next (State.writeRow_locked hacc hl)),
          fun hl hbad => hrow.trans (congrArg Host.Outcome.next (State.writeRow_reserved hacc hl hbad)),
          fun hl hb hv => hrow.trans (congrArg Host.Outcome.next (State.writeRow_rw hacc hl hb hv))⟩⟩
  · intro refused read
    have hrun : read = .next (u.readFor ag da width) := exec_registerRead h
    refine ⟨fun hr => ?_, fun hr hm => ?_, fun hr hm => ⟨fun hmiss => ?_, fun d h8 ha hf => ⟨fun hacc => ?_, fun hacc => ?_⟩⟩⟩
    · exact hrun.trans (congrArg Host.Outcome.next (State.readFor_outside hr))
    · exact hrun.trans (congrArg Host.Outcome.next ((State.readFor_refused hr hm).trans (refuse_eq u ag)))
    · exact hrun.trans (congrArg Host.Outcome.next (State.readFor_answers hr hm hw (State.readAt_misses hmiss)))
    · subst h8
      exact hrun.trans (congrArg Host.Outcome.next (State.readFor_answers hr hm hw ((State.readAt_row ha hf).trans
        (congrArg (·, w) (if_pos hacc)))))
    · subst h8
      exact hrun.trans (congrArg Host.Outcome.next (State.readFor_answers hr hm hw ((State.readAt_row ha hf).trans
        (congrArg (·, w) (if_neg hacc)))))
  · exact congrArg Host.Outcome.next (State.live_stopped hstop _)
  · exact congrArg Host.Outcome.next (State.live_stopped hstop _)

end Sys2Proof.Machine
end
